-- ==== Sys2Proof/Word.lean ====
section
/-! DEFINITION. The word types of the block: bytes, 32-bit registers (R8), 48-bit physical addresses are plain numbers. -/

namespace Sys2Proof

/-- A register (R8). -/
abbrev Word := BitVec 32

/-- The smallest addressable unit. -/
abbrev Byte := BitVec 8

end Sys2Proof
end

