-- ==== Sys2Proof/Machine/OpTypes.lean ====
section
/-! DEFINITION. The types of the commands' operands: who makes an access (Table 13.1), sites of the fabric, pins of the
hard blocks, packets of the network (Table 6.2) and what an environment does to stored bits. -/

namespace Sys2Proof.Machine

/-- Who makes an access (Table 13.1, R421). `host` is the host port, `dma` the DMA engine with the world of the core or
command that started it, `dock` a dock, channel port or probe capture of a field, `tile` a leased MAC tile, `cfg` the
configuration front end, `mgmt` the management units (gleaner, scrubbers, transparent test), `debug` the debug port. -/
inductive Who where
  | host
  | core (c : Fin 4)
  | dma (secure : Bool)
  | dock (f : Fin 384)
  | tile (f : Fin 384) (secure : Bool)
  | cfg
  | mgmt
  | debug (secure : Bool)
  deriving DecidableEq, Repr

/-- A macrocell: field, stook column and row, sheaf, macrocell (R16, R42). -/
structure Mc where
  f : Fin 384
  col : Fin 32
  row : Fin 32
  s : Fin 8
  n : Fin 16
  deriving DecidableEq, Repr

/-- Signals of a bin port (R153, R154, R155). -/
inductive BinSig where
  | addr | wdata | we | re | be
  deriving DecidableEq, Repr

/-- Fabric inputs of a MAC tile (R171, R172). -/
inductive MacSig where
  | a | b | accOp | bxClr | run | ldEn | ldSel | ldAddr | ldData
  deriving DecidableEq, Repr

/-- Signals of a latent-memory port (R116, R117). -/
inductive DockSig where
  | raddr | ren | waddr | wen | wdata | be
  deriving DecidableEq, Repr

/-- Signals of a link-channel port of a field (R297 to R300). -/
inductive ChanSig where
  | data | nbytes | eom | valid | ren
  deriving DecidableEq, Repr

/-- An input of a hard block that the fabric drives. Which wires drive it is in the device database only (R516), so the
level comes with the command that says it changed. -/
inductive Pin where
  | bin (k : Fin 48) (portB : Bool) (sig : BinSig)
  | mac (t : Fin 96) (sig : MacSig)
  | dock (j : Fin 2) (p : Fin 8) (sig : DockSig)
  | chan (p : Fin 8) (sig : ChanSig)
  | sio (n : Fin 64)
  deriving DecidableEq, Repr

/-- Where a change arrives in a field (R101): a sheaf input (R42), the wire register of a slot at a stook (R518), the receiving end
of a bridge wire (R78), or an input of a hard block. -/
inductive Sink where
  | sheaf (col row : Fin 32) (s : Fin 8) (m : Fin 40)
  | wire (col row : Fin 32) (slot : Fin 44)
  | bridge (dir : Fin 4) (k : Fin 32) (i : Fin 16)
  | pin (p : Pin)
  deriving DecidableEq, Repr

/-- A packet: the fields of its header flit (Table 6.2; Machine/Packet.lean gives their bits) and its data flit. `hops` are the hop
codes of the current segment, `count` of them. -/
structure Packet where
  vc : Nat := 1
  type : Nat := 0
  route : Nat := 0
  respRoute : Nat := 0
  hopPtr : Nat := 0
  hops : List Nat := []
  src : Nat := 0
  dst : Nat := 0
  tag : Nat := 0
  addr : Nat := 0
  lenM1 : Nat := 0
  secure : Bool := false
  status : Nat := 0
  bmask : BitVec 64 := 0
  data : List Byte := []
  deriving DecidableEq, Repr

/-- Types that carry a data flit (Table 6.3). -/
def hasFlit (type : Nat) : Bool := type == 1 || type == 2 || type == 4 || type == 9 || type == 10

/-- What the environment did to the stored bits an access is about to read: the bits that flipped in its first check unit (bit
0 is bit 0 of the unit's first byte; positions past the data are check bits), the corrections that the on-die ECC of the stack
reports for it (Table 7.1), the 64 bytes that stand in the place of a protected line altered behind the device's back, and, by
kind, the bits that flipped in the first burst of a metadata block of its path and the 64 bytes that stand in a block's place
(R247). Kind l is the block of counter level l, 8 + l the block of the tags of level l, 0 the lines (Table 7.9). -/
structure Upset where
  flips : List Nat := []
  ondie : Nat := 0
  line : Option (List Byte) := none
  metaFlips : List (Nat × List Nat) := []
  blocks : List (Nat × List Byte) := []
  deriving DecidableEq, Repr

/-- What an access of the bus answers: data (empty for a write), a bus error, or that the request waits. -/
inductive BusRes where
  | ok (data : List Byte)
  | err
  | wait
  deriving DecidableEq, Repr

/-- What the sweep of one byte lane's delay finds (R231): the steps at which the lane passes, and those at which it passes once
its weakest DQ is remapped to the spare. -/
structure Sweep where
  pass : BitVec 128 := BitVec.allOnes 128
  repaired : BitVec 128 := BitVec.allOnes 128
  deriving DecidableEq, Repr

/-- A cycle of CFGBUS_CK as the device samples it (R339): STB and D at the rising edge, D at the falling edge. -/
structure BusCycle where
  stb : Bool
  rise : Byte
  fall : Byte
  deriving DecidableEq, Repr

/-- What the host has done with its own memory since the device looked at it last: bytes stored, by address, and the addresses whose
accesses by the device now end in an error (R405). -/
structure HostMem where
  stores : List (Nat × List Byte) := []
  fails : List Nat := []
  deriving DecidableEq, Repr

/-- How a part of a configuration stream comes to the front end (Table 10.9): the next bytes that LOAD_DATA moves from host memory, bytes
of the lanes or of the boot flash, or cycles of CFGBUS. -/
inductive Feed where
  | host (h : HostMem) (n : Nat)
  | lanes (l : List Byte)
  | bus (l : List BusCycle)
  | flash (l : List Byte)
  deriving DecidableEq, Repr

/-- The run of identical symbols that a line ends with (R257, R258). -/
structure Run where
  sym : Nat := 0
  count : Nat := 0
  deriving DecidableEq, Repr

/-- A link frame as it stands on the lane (Table 9.1): its type, sequence number, the 488 bytes of frame bits [3967:64]
(directory and slots, as sent), credit field and tag, with what the lane and the CRC say of it (R283): flagged bad by the
lane, CRC correct, stomped (R279). -/
structure Frame where
  type : Nat := 1
  seq : Nat := 0
  body : List Byte := []
  credit : Word := 0
  tag : List Byte := []
  flagged : Bool := false
  crcOk : Bool := true
  stomped : Bool := false
  deriving DecidableEq, Repr

end Sys2Proof.Machine
end

