-- ==== Sys2Proof/Machine/Store.lean ====
section
/-! DEFINITION. Sparse stores: a list of (key, value) pairs with strictly rising keys and no pair whose value is the
store's default, so that equal stores are equal lists. Registers, memory and every per-instance table of the device are
kept so. -/

namespace Sys2Proof.Machine

/-- A sparse store. -/
abbrev SMap (α : Type) := List (Nat × α)

/-- The value under key `k`, or `dflt` where the store lists none. -/
def SMap.get {α : Type} (m : SMap α) (k : Nat) (dflt : α) : α :=
  match m with
  | [] => dflt
  | (a, v) :: r => if a = k then v else SMap.get r k dflt

/-- The store without key `k`. -/
def SMap.erase {α : Type} (m : SMap α) (k : Nat) : SMap α :=
  m.filter (fun e => e.1 != k)

/-- Places a new pair before the first larger key. -/
def SMap.insert {α : Type} (m : SMap α) (k : Nat) (v : α) : SMap α :=
  match m with
  | [] => [(k, v)]
  | (a, w) :: r => if k < a then (k, v) :: (a, w) :: r else (a, w) :: SMap.insert r k v

/-- The store with `v` under `k`; storing the default removes the key. -/
def SMap.put {α : Type} [DecidableEq α] (m : SMap α) (k : Nat) (v dflt : α) : SMap α :=
  if v = dflt then m.erase k else (m.erase k).insert k v

/-- The store without the keys from `lo` up to but not including `hi`. -/
def SMap.clear {α : Type} (m : SMap α) (lo hi : Nat) : SMap α :=
  m.filter (fun e => !(decide (lo ≤ e.1) && decide (e.1 < hi)))

/-- The store's canonical form: strictly rising keys above `lo`, no listed default. -/
def SMap.wfFrom {α : Type} [DecidableEq α] (dflt : α) (lo : Nat) : SMap α → Bool
  | [] => true
  | (a, v) :: r => decide (lo ≤ a) && decide (v ≠ dflt) && SMap.wfFrom dflt (a + 1) r

/-- The store's canonical form. -/
def SMap.wf {α : Type} [DecidableEq α] (dflt : α) (m : SMap α) : Bool := SMap.wfFrom dflt 0 m

/-- Memory bytes by physical address (R31). An unlisted byte reads 0: the spec gives no power-on contents of a memory
(DESIGN CHOICE, log entry 2). -/
abbrev Memory := List Host.Cell

/-- The canonical form of memory. -/
def Memory.wf (m : Memory) : Bool := SMap.wf (0 : Byte) m

/-- One byte of memory. -/
def Memory.read (m : Memory) (a : Nat) : Byte := SMap.get (α := Byte) m a 0

/-- Stores one byte. -/
def Memory.write (m : Memory) (a : Nat) (b : Byte) : Memory := SMap.put (α := Byte) m a b 0

/-- Reads `n` bytes from `a` up. -/
def Memory.readBytes (m : Memory) (a : Nat) : Nat → List Byte
  | 0 => []
  | n + 1 => m.read a :: Memory.readBytes m (a + 1) n

/-- Stores bytes from `a` up. -/
def Memory.writeBytes (m : Memory) (a : Nat) : List Byte → Memory
  | [] => m
  | b :: r => Memory.writeBytes (m.write a b) (a + 1) r

/-- Stores the bytes whose enable is 1, from `a` up; byte k takes enable k (Table 6.2, bmask). -/
def Memory.writeMasked (m : Memory) (a : Nat) : List (Byte × Bool) → Memory
  | [] => m
  | (b, en) :: r => Memory.writeMasked (if en then m.write a b else m) (a + 1) r

end Sys2Proof.Machine
end

