-- ==== Sys2Proof/Machine/Dev1.lean ====
section
/-! DEFINITION. State of the fabric, the fields, the pacer, the hard blocks, the network, the memories, the error units,
security and power: everything of chapters 2 to 7, 11, 13 and 14 of spec/ that is not a register. Registers are held in
one store of their own (Machine/Dev.lean). -/

namespace Sys2Proof.Machine

/-- An error record (Table 11.6). -/
structure ErrRec where
  seq : Word := 0
  die : Nat := 0
  block : Nat := 0
  unit : Nat := 0
  severity : Nat := 0
  flags : BitVec 8 := 0
  cls : Nat := 0
  count : Nat := 1
  time : Nat := 0
  address : Nat := 0
  syndrome : Nat := 0
  cycle : Nat := 0
  overflow : Nat := 0
  info : Nat := 0
  logIndex : Nat := 0
  deriving DecidableEq, Repr

/-- The error FIFO of a die (R381, R382): records oldest first, the urgent entry, dropped records not yet reported and
the next sequence number. -/
structure ErrDie where
  fifo : List ErrRec := []
  urgent : Option ErrRec := none
  ovf : Nat := 0
  seq : Word := 0
  deriving DecidableEq, Repr

/-- The error log of service firmware 3.2 (R384): up to 1,024 records, oldest first, and the next log index. -/
structure ErrLog where
  entries : List ErrRec := []
  next : Nat := 0
  deriving DecidableEq, Repr

/-- Errors of a check unit: the stored bits that differ from the bits last written, and whether the unit is kept
uncorrectable (R160, poison of R237). One flip is a single-bit error, two or more are uncorrectable. -/
structure Mark where
  flips : List Nat := []
  poison : Bool := false
  deriving DecidableEq, Repr

/-- Fabric values. `q` are storage elements (R53), `srq` the levels (1 for 0, 2 for 1) that a set or reset forced opaque LATCHes
to since the last commit (R62), `kept` the elements that keep the value of a released force (R69), `force` and `forceVal` minors 1
and 2 of the state-capture frames (R122), `wreg` wire registers (R75), `sent` the segments that carried a 1 from a field at the end
of its wave before (R98), `iso` the values that isolation cells passed last (R77), `isoTab` isolation choices (R349), `bridgeIn`,
`bridgeReg` and `bridgeOut` the value sent over a bridge wire, its wire register and the value its receiver presents (R79, R81),
`bridgeNext` values (1 for 0, 2 for 1) that a far field already in its next wave has sent, `levels` the last settled levels of sheaf
inputs and `pins` those of hard-block inputs. -/
structure Fabric where
  q : SMap Bool := []
  srq : SMap Nat := []
  kept : SMap Bool := []
  force : SMap Bool := []
  forceVal : SMap Bool := []
  wreg : SMap Bool := []
  sent : SMap Bool := []
  iso : SMap Bool := []
  isoTab : SMap Nat := []
  bridgeIn : SMap Bool := []
  bridgeReg : SMap Bool := []
  bridgeOut : SMap Bool := []
  bridgeNext : SMap Nat := []
  levels : SMap Bool := []
  pins : SMap Nat := []
  deriving DecidableEq, Repr

/-- Where a field that takes part stands in its wave (Table 3.6, state). -/
inductive WState where
  | idle | eval | complete
  deriving DecidableEq, Repr

/-- A request of a latent-memory port (R116, R117): field, port 8 j + p, address, size in bytes, and the tag of the packet that
carries it (one packet for combined reads, R219). -/
structure LatentReq where
  f : Nat
  q : Nat
  addr : Nat
  size : Nat
  tag : Nat := 0
  deriving DecidableEq, Repr

/-- A field's part in a design cycle (R97, R101, R104): whether it takes part, its wave index (0 before wave 1), its
state, whether its wave delay runs, changes it sent that are not yet acknowledged, latent reads outstanding, whether this wave's latent reads have been issued, and the waves it has launched (R99). -/
structure FieldDyn where
  part : Bool := false
  wave : Nat := 0
  st : WState := .idle
  delay : Bool := false
  unacked : Nat := 0
  latent : List LatentReq := []
  issued : Bool := false
  launched : Nat := 0
  deriving DecidableEq, Repr

/-- Where a running pacer stands (R133, R106, R107): at a boundary, padding; in a cycle's waves; between the commit pulse
and the boundary. -/
inductive Phase where
  | boundary | waves | commit
  deriving DecidableEq, Repr

/-- The pacer (R127 to R143). `tb` is the timebase count, `slew` the steps counted toward the next slewed one (R130),
`t0` is T0 (R131), `start` the S of the last start, `debt` the debt held since the stop (R134), `lostArmed` whether a
schedule-lost event may fire (R136), `stepLeft` the cycles left of a STEP, `stopAt` the armed stop-at value, `causes`
stop causes pending for the next boundary (Table 4.4), `last` the time, levels and edges of the last cycle that committed (R95, R111), `next` the design time from which the next cycle is searched
(R90, R142), `locked` the lock of PACE_WAVE_CFG (Table 3.1), `osc` whether the timebase runs on the internal oscillator,
`good` the time PACE_REF has been in range, in windows of 10 µs (R128), `firstSync` that the next cycle needs no inbound
synchronous data (R297). -/
structure Pacer where
  phase : Phase := .boundary
  tb : Nat := 0
  slew : Nat := 0
  t0 : Int := 0
  start : Nat := 0
  debt : Int := 0
  lostArmed : Bool := true
  stepLeft : Option Nat := none
  stopAt : Option Nat := none
  causes : List Nat := []
  last : Nat × Nat × Nat := (0, 0, 0)
  next : Nat := 0
  locked : Bool := false
  good : Nat := 0
  osc : Bool := false
  firstSync : Bool := true
  deriving DecidableEq, Repr

/-- Sideband pins (R146 to R149): pad levels as the environment drives them, live edge counters, and whether the design
has committed since its load. -/
structure Sio where
  pads : BitVec 64 := 0
  cnt : SMap Nat := []
  committed : Bool := false
  deriving DecidableEq, Repr

/-- Read data and error output that a REGISTERED bin port or a latent-memory port presents, and what it presents from the
field's next launch (R116, R155). -/
structure PortOut where
  data : Nat := 0
  err : Bool := false
  next : Option (Nat × Bool) := none
  deriving DecidableEq, Repr

/-- What a MAC tile presents to the fabric since its field's last launch (R170 to R172): ACC, O, OUT, chain value, ovf. -/
structure TileOut where
  acc : BitVec 40 := 0
  o : BitVec 16 := 0
  out : BitVec 16 := 0
  bx : Nat := 15
  ovf : Bool := false
  deriving DecidableEq, Repr

/-- The state of a MAC tile (R167 to R180). -/
structure Tile where
  acc : BitVec 40 := 0
  ovf : Bool := false
  k0 : BitVec 16 := 0
  k1 : BitVec 16 := 0
  xr : BitVec 16 := 0
  yr : BitVec 16 := 0
  out : BitVec 16 := 0
  o : BitVec 16 := 0
  det : Nat := 15
  pub : Nat := 15
  o0 : Nat := 0
  o1 : Nat := 0
  pc : Nat := 0
  busy : Bool := false
  faultCode : Nat := 0
  faultOut : Bool := false
  loopOn : Bool := false
  loopStart : Nat := 0
  loopEnd : Nat := 0
  loopLeft : Nat := 0
  shown : TileOut := {}
  deriving DecidableEq, Repr

/-- An action that waits for a design-cycle boundary (R24, R521): a packet for state-access or a bin or tile of a field
that takes part (R120, R163), a freeze (R363, R367), an unfreeze (R368), a per-field reset (R473), a gleaner rewrite
(R361) and a golden reload (R364) of a logic frame, by frame address, a margin that wear management asks for (R459), and
a BAR2 access of the host to such memory (its address, its length and the bytes of a write), and the firmware's commands: a force (or a release, `none`) of the storage element at a position of a stook, a release of all
of a field, and a read of a state-capture frame's minor 0 for the running command of a mailbox (Table 12.9). -/
inductive BAct where
  | packet (p : Packet)
  | freeze (f : Nat)
  | unfreeze (f : Nat)
  | fieldReset (f : Nat)
  | rewrite (fa : Nat)
  | reload (fa : Nat)
  | margin (die v : Nat)
  | force (k n : Nat) (v : Option Bool)
  | releaseAll (f : Nat)
  | stateRead (m f col : Nat)
  | bar2 (a n : Nat) (data : Option (List Byte))
  deriving DecidableEq, Repr

/-- A packet in flight (R187 to R196): the die and router that holds it (its vertical port on a compute die), the router's input
that it came by (0 to 3 the neighbor to the north, east, south or west, 4 a vertical port, 5 a lateral link, 6 a local port), whether
it stands at its destination, whether a stall was recorded, its place in the order of sending, and in the order in which packets came
to where they are. -/
structure Flight where
  pkt : Packet
  die : Nat
  router : Nat
  input : Nat := 6
  arrived : Bool := false
  stalled : Bool := false
  sent : Nat := 0
  came : Nat := 0
  deriving DecidableEq, Repr

/-- A request without a response yet (R194, R199): its initiator's node, its tag, the packet, when it was injected, whether it
travels in the network itself (a cacheable one goes to the remote cache first, R211), and the requests that its response answers in
its place. -/
structure OutReq where
  src : Nat
  tag : Nat
  pkt : Packet
  time : Nat := 0
  own : Bool := true
  asks : List Packet := []
  deriving DecidableEq, Repr

/-- The network: packets in flight, requests outstanding, requests that wait at their target (held, redirected or for a
boundary), route and transit tables by die, table and entry (Table 6.4), dies whose last NOC_RT_DATA_LO no commit has used (R193),
responses and messages delivered to their endpoints in order, the next tag by NI, the order numbers given out, and whose turn it is at
router outputs (R194: virtual channel + 4 × packets it has sent in a row). -/
structure Noc where
  flights : List Flight := []
  outstanding : List OutReq := []
  waiting : List Packet := []
  routes : SMap (BitVec 64) := []
  loDue : List Nat := []
  delivered : List Packet := []
  tags : SMap Nat := []
  count : Nat := 0
  turns : SMap Nat := []
  deriving DecidableEq, Repr

/-- A remote-cache line (Table 6.6) in a way of its set; an unlisted line is in state I. `valid` false is state P. -/
structure RcLine where
  valid : Bool
  data : List Byte
  waiters : List Packet
  way : Nat := 0
  deriving DecidableEq, Repr

/-- A directory entry (R210): sharers, the compute dies whose INV_ACK it waits for, and whether it is freed once they have all come
(an uncached write, R211, and an eviction, R213). While it waits, requests for the line wait (Table 6.7). -/
structure DirEntry where
  sharers : BitVec 12 := 0
  pend : BitVec 12 := 0
  frees : Bool := false
  deriving DecidableEq, Repr

/-- Remote caches and directories (R208 to R215): lines by compute die and line address, the pseudo-LRU bits of sets by compute die and
set (2,048 x die + set), entries by line address, a flush in
progress (all dies, or the listed ones, and those whose cache it then disables), cacheable requests that wait for it,
DIE_GONE messages on their way to a home (home, compute die) and HOME_RESET messages on their way to a compute die (compute
die, base die), and world registers that change within the flush. -/
structure Rcache where
  lines : SMap RcLine := []
  plru : SMap Nat := []
  dir : SMap DirEntry := []
  flushAll : Bool := false
  flushing : List Nat := []
  disabling : List Nat := []
  waiting : List Packet := []
  gone : List (Nat × Nat) := []
  homes : List (Nat × Nat) := []
  afterFlush : List (Nat × Word) := []
  deriving DecidableEq, Repr

/-- A flit on a lateral link (R202): its sequence number, the width code that the sender used, the packet it is part of, and whether it
is the packet's data flit or its header flit. -/
structure LinkFlit where
  seq : Nat := 0
  width : Nat := 0
  flight : Flight
  isData : Bool := false
  deriving DecidableEq, Repr

/-- One direction of a lateral link, at its receiver (R202 to R204): expected sequence number, consecutive CRC failures, the number
that a replay was requested from, whether the link is down or its partner held, the packet whose data flit is still to come, and at
the sender the next sequence number, the flits on the wires and the replay buffer: flits sent that the receiver has not taken. -/
structure LatLink where
  expect : Nat := 0
  crcFails : Nat := 0
  replayFrom : Option Nat := none
  down : Bool := false
  half : Option Flight := none
  next : Nat := 0
  wire : List LinkFlit := []
  replay : List LinkFlit := []
  deriving DecidableEq, Repr

/-- A die's budget (R216, R217): last sequence number applied, a budget to apply at the next window (sequence number, mW,
lowest and highest mV), the limits in force, sequence of its own reports, last report, the mean powers
of the last 8 reports, and the last budget message that the budget service sent to the die. -/
structure Budget where
  seq : Option Nat := none
  pending : Option (Nat × Nat × Nat × Nat) := none
  lo : Nat := 600
  hi : Nat := 900
  reportSeq : Nat := 0
  report : List Byte := []
  history : List Nat := []
  sent : List Byte := []
  deriving DecidableEq, Repr

/-- A stack's controller (R230 to R236, R462): whether its initialization is under way, whether its identity was read, the pseudo-channel in retraining, a retrain
that is due, a freq_change that waits for a pseudo-channel's step, a 105 °C reading during a change, a lost PHY lock,
training results by rate (a HBM_TRAIN word under rate x 256 + 128 for write delays + 4 p + b), and the temperature of each
rate's last training. -/
structure Stack where
  starting : Bool := false
  idRead : Bool := false
  retrain : Option Nat := none
  retrainDue : Bool := false
  freqDue : Bool := false
  overDue : Bool := false
  unlocked : Bool := false
  train : SMap Word := []
  trainTemp : SMap Int := []
  deriving DecidableEq, Repr

/-- A range of a stack that a protected region was initialized over (R242): stack, first byte and one past the last of its stack
offset, the key in use then, and the ranges written as plain memory since, its metadata among them. A byte of it is held in
memory as what the stack stores there, combined with what the initialization stored. -/
structure Area where
  stack : Nat
  lo : Nat
  hi : Nat
  key : List Byte
  plain : List (Nat × Nat) := []
  deriving DecidableEq, Repr

/-- MEMSEC (R240 to R248): counters by stack, level (0 the line counters, 5 the root counters) and index; tags of lines and
counter blocks, 8 bytes, by the same keys, where none stands for the tag that initialization stored; the metadata blocks in the
cache; for those of them that are dirty, the 64 bytes that the stack still stores; the ranges that protected regions were
initialized over; and the ranges of the regions that an integrity halt closed: stack, first byte, one past the last (R248). -/
structure Memsec where
  ctr : SMap Nat := []
  tags : SMap (List Byte) := []
  cache : List Nat := []
  dirty : List (Nat × List Byte) := []
  areas : List Area := []
  shut : List (Nat × Nat × Nat) := []
  deriving DecidableEq, Repr

/-- Background units: when each lap started, by unit (16 x die index + scrubber index, 8 the gleaner, 9 the granary test),
the granary rows in use of a spare, as 4 x row + spare with rows numbered over the base dies (R374, R376), when each bucket leaked
last or its configuration was written (R373), and when each base die's last region left the transparent test, plus 1 (R375). -/
structure Scrub where
  lapStart : SMap Nat := []
  remaps : List Nat := []
  leakAt : SMap Nat := []
  testEnd : SMap Nat := []
  deriving DecidableEq, Repr

/-- An area under a wipe (Table 13.9). -/
inductive WipeArea where
  | keys | memsec | granary | sp
  deriving DecidableEq, Repr

/-- A lifecycle change that blows fuses (R433): the state before it, and the fuses of its plan that are not blown yet
(`Fuses.blow` numbers them), and whether the wipe before them is done. -/
structure LcJob where
  old : Nat
  plan : List Nat
  blowing : Bool := false
  deriving DecidableEq, Repr

/-- Security state beside the registers (chapter 13): key slots by use and slot, wipes in progress with whether a tamper
started them, field clears and granary zeroings in progress, HBM world changes that wait for a flush, a lifecycle
change, debug access opened by an unlock, the tamper pin, when the challenge was generated (R432), and the class of a tamper halt that
waits for a fuse being blown (R435). -/
structure Sec where
  keys : SMap (List Byte) := []
  wipes : List (WipeArea × Bool) := []
  clearing : List Nat := []
  zeroing : List Nat := []
  worldWait : List (Nat × Word) := []
  lc : Option LcJob := none
  unlockNs : Bool := false
  unlockFull : Bool := false
  tamperPin : Bool := true
  challengeAt : Nat := 0
  haltDue : Option Nat := none
  deriving DecidableEq, Repr

/-- One die's last sample set (R456): highest and lowest junction in 0.1 °C, core voltage in mV, mean power in mW. -/
structure Sample where
  tmax : Int := 0
  tmin : Int := 0
  mv : Nat := 0
  mw : Nat := 0
  deriving DecidableEq, Repr

/-- Power, clocks and reset beside the registers (chapter 14): logic dies held in per-die reset (compute 0 to 11, base 12
to 15), regulators turned on, fields awake, whether PWR_START.go was written, compute dies that the start sequencer has not
yet decided, when go was written, when the last die was released, when each die's last field woke and when each die was held
(the last three plus 1), dies whose release is due, regulator voltages in mV, the cap in force in mW, the cap guard's windows
within the cap, failed tries of a PMBus transaction, the last SMBus answer, samples by die index, the cap guard's ceiling,
windows over the cap, windows of voltage and temperature skew by pair of dies, waking memories, base dies whose reset waits for a
granary test, memories to be scrubbed completely with the place in them, a CLKOUT switch under way and the sources that the CLKOUT
pins show, a timebase switch under way, and the levels of the reset pins and of VCC_FUSE. -/
structure Power where
  held : BitVec 16 := 0x0FFF
  regOn : BitVec 12 := 0
  awake : List Nat := []
  went : Bool := false
  startQueue : List Nat := []
  goAt : Nat := 0
  releasedAt : Nat := 0
  wokeAt : SMap Nat := []
  heldAt : SMap Nat := []
  releaseDue : List Nat := []
  vout : SMap Nat := []
  cap : Nat := 450000
  guard : Nat := 0
  pmbTries : SMap Nat := []
  smb : List Byte := []
  samples : SMap Sample := []
  ceiling : Option Nat := none
  overCap : Nat := 0
  volts : SMap Nat := []
  temps : SMap Nat := []
  waking : List Nat := []
  resetWait : List Nat := []
  scrubFull : List (Nat × Nat) := []
  clkSwitch : Option (Nat × Nat) := none
  clkSource : Nat × Nat := (0, 0)
  tbSwitch : Option Bool := none
  porst : Bool := true
  sysrst : Bool := true
  vccFuse : Bool := false
  deriving DecidableEq, Repr

end Sys2Proof.Machine
end

