-- ==== Sys2Proof/Syntax.lean ====
section
/-! DEFINITION. The commands of spec/opcode_table.json, one constructor a row, with the operands that say where a command acts,
what it carries and what the environment does that the spec leaves to it. -/

namespace Sys2Proof

open Machine

/-- The block's commands and events. -/
inductive Instr where
  /-- REGISTER_WRITE (R12). A write to a device register that has no row of its own, including the access checks and bus
  errors shared by all register accesses. -/
  | registerWrite (who : Who) (a : BitVec 33) (v : Word)
  /-- CAPTURE_EVENT (R65). A settled transition of a capture source makes the storage element sample comb through the
  resolving sampler. -/
  | captureEvent (m : Mc) (stable : Bool)
  /-- ASYNC_SET_RESET (R60). An enabled asynchronous set or reset term becomes 1 and forces Q without a commit event. -/
  | asyncSetReset (m : Mc)
  /-- INPUT_HANDSHAKE (R101). A change arrives at a field, restarts its wave delay and withdraws any completion it has
  reported. -/
  | inputHandshake (f : Fin 384) (sink : Sink) (v : BitVec 512)
  /-- WAVE_DELAY_EXPIRY (R101). A field's wave delay runs out after its last input handshake, and the field completes the
  wave if no change is unacknowledged and no latent read is outstanding. -/
  | waveDelayExpiry (f : Fin 384) (steps : Nat)
  /-- CHANGE_ACKNOWLEDGED (R101). The receiving field acknowledges a change that a field sent across a border or bridge, and
  the sender completes its wave if its delay has run out and nothing else is pending. -/
  | changeAcknowledged (f : Fin 384) (steps : Nat)
  /-- WAVE_LAUNCH (R97). A field launches its next wave once it and every participating wave neighbor have completed the
  wave, after offset and spacing. -/
  | waveLaunch (f : Fin 384)
  /-- COMMIT_PULSE (R106). The package completion tree reports wave W complete and every participating field performs all
  commit events of the cycle at once. -/
  | commitPulse
  /-- BOUNDARY_REACHED (R107). All commits, latent writes, probe samples and boundary actions are done, and the design-cycle
  boundary is reached with its ordered boundary actions. -/
  | boundaryReached
  /-- DESIGN_CYCLE_RELEASE (R108). The pacer releases a design cycle: design time and clock levels apply, SIO inputs are
  sampled and wave 1 is launched. -/
  | designCycleRelease (unsure : BitVec 64)
  /-- WAVE_TIMEOUT (R110). A field passes the wave limit: waves stop, the cycle does not commit, fields are latched, a
  record is written and the pacer stops. -/
  | waveTimeout (f : Fin 384)
  /-- LATENT_READ_RETURN (R116). Latent read data or a bus error returns to a dock and the field may report its wave
  complete. -/
  | latentReadReturn (f : Fin 384) (q : Fin 16) (steps : Nat)
  /-- LATENT_WRITE_ACCEPT (R117). An HBM controller accepts a latent write, or its bus error returns, allowing the boundary
  to proceed. -/
  | latentWriteAccept (i : Nat)
  /-- DELAY_CALIBRATION (R114). Delay calibration runs on its 10 ms timer or a 5 °C move, including the forced run of a
  paused die after 10 °C. -/
  | delayCalibration (die : Fin 12) (temp : Int) (trims : List Nat)
  /-- CAL_NOW (R114). A write of FAB_CAL_CTL.cal_now starts one calibration run even while paused. -/
  | calNow (who : Who) (die : Fin 12) (temp : Int) (trims : List Nat)
  /-- FAB_BRIDGE_HOLD_WRITE (R88). A write of FAB_BRIDGE_HOLD changes the held value of a holding direction from the next
  wave boundary. -/
  | fabBridgeHoldWrite (who : Who) (die : Fin 12) (v : Word)
  /-- LEDGER_WRITE (R93). A write to a design clock ledger entry is taken while the pacer is stopped, or ignored with
  write_refused while it runs. -/
  | ledgerWrite (who : Who) (n : Fin 64) (k : Fin 4) (v : Word)
  /-- REF_MONITOR_WINDOW (R128). A 10 µs monitor window of PACE_REF ends and the timebase may switch to the internal
  oscillator. -/
  | refMonitorWindow (khz : Nat)
  /-- USE_REF (R129). A write of PACE_TB_CTL.use_ref asks the timebase to return to PACE_REF, held pending while the
  reference is out of range. -/
  | useRef (who : Who)
  /-- TIMEBASE_RETURN (R129). After PACE_REF has stayed in range for 1 ms, a pending use_ref switches the timebase back and
  clears degraded. -/
  | timebaseReturn
  /-- PACE_TB_ADJ_WRITE (R130). A write of PACE_TB_ADJ replaces the timebase correction, applied at once when stopped or by
  slewing when running. -/
  | paceTbAdjWrite (who : Who) (v : Word)
  /-- DEADLINE_ARRIVAL (R133). The deadline of the next cycle arrives and the pacer releases it if its other conditions
  hold. -/
  | deadlineArrival (unsure : BitVec 64)
  /-- SCHEDULE_LOST (R136). Debt passes PACE_LOST_BOUND and the pacer records the event and acts under lost_policy. -/
  | scheduleLost
  /-- START (R139). PACE_CMD START releases the next cycle at time S with T0 rebased, or is refused. -/
  | start (who : Who) (atTime : Bool)
  /-- STOP (R139). PACE_CMD STOP stops the running pacer at the next boundary with cause HOST. -/
  | stop (who : Who)
  /-- STEP (R139). PACE_CMD STEP starts the pacer and stops it after PACE_STEP_COUNT committed cycles. -/
  | step (who : Who) (atTime : Bool)
  /-- STOP_AT_ARM (R140). PACE_CMD STOP_AT_ARM arms stop-at with the current PACE_STOP_AT value. -/
  | stopAtArm (who : Who)
  /-- STOP_AT_DISARM (R139). PACE_CMD STOP_AT_DISARM disarms stop-at. -/
  | stopAtDisarm (who : Who)
  /-- PACE_RESUME_TIME_WRITE (R142). A write of PACE_RESUME_TIME while stopped sets the next cycle to the earliest edge at
  or after the written time. -/
  | paceResumeTimeWrite (who : Who) (hi : Bool) (v : Word)
  /-- PACE_COMMITTED_WRITE (R297). A write of PACE_COMMITTED while stopped sets the cycle count and discards every held
  synchronous burst. -/
  | paceCommittedWrite (who : Who) (hi : Bool) (v : Word)
  /-- SIO_EDGE (R148). An edge of the selected kind on an EDGE SIO pin increments its saturating counter. -/
  | sioEdge (n : Fin 64) (level : Bool)
  /-- SIO_PIN_CTL_WRITE (R151). A write to SIO_PIN_CTLn is taken while the pacer is stopped, or ignored with cmd_refused. -/
  | sioPinCtlWrite (who : Who) (n : Fin 64) (v : Word)
  /-- BIN_FLD_CNT_CLR (R165). A write of BIN_FLD_CNT_CLR.clear clears both bin error counts of a field. -/
  | binFldCntClr (who : Who) (f : Fin 384)
  /-- NOP (R174). MAC instruction NOP fetches, writes O and advances generators without changing ACC. -/
  | nop (f : Fin 384) (t : Fin 96)
  /-- LOAD (R174). MAC instruction LOAD sets ACC to A × B after the fetch and write steps. -/
  | load (f : Fin 384) (t : Fin 96)
  /-- MAC (R174). MAC instruction MAC adds A × B to ACC. -/
  | mac (f : Fin 384) (t : Fin 96)
  /-- MSU (R174). MAC instruction MSU subtracts A × B from ACC. -/
  | msu (f : Fin 384) (t : Fin 96)
  /-- CLR (R174). MAC instruction CLR sets ACC to 0 leaving ovf. -/
  | clr (f : Fin 384) (t : Fin 96)
  /-- LDK0 (R174). MAC instruction LDK0 loads K0 with its immediate. -/
  | ldk0 (f : Fin 384) (t : Fin 96)
  /-- LDK1 (R174). MAC instruction LDK1 loads K1 with its immediate. -/
  | ldk1 (f : Fin 384) (t : Fin 96)
  /-- LOOP (R175). MAC instruction LOOP activates a loop body, or faults ILLEGAL or NESTED. -/
  | loop (f : Fin 384) (t : Fin 96) (steps : Nat)
  /-- JMP (R175). MAC instruction JMP continues at its target, keeping or dropping an active loop. -/
  | jmp (f : Fin 384) (t : Fin 96)
  /-- BXCLR (R174). MAC instruction BXCLR clears the detector and ovf. -/
  | bxclr (f : Fin 384) (t : Fin 96)
  /-- HALT (R174). MAC instruction HALT ends the program and releases the field's completion. -/
  | halt (f : Fin 384) (t : Fin 96) (steps : Nat)
  /-- ILLEGAL_OPCODE (R176). A reserved MAC opcode faults the tile with code ILLEGAL and writes a MAC_FAULT record. -/
  | illegalOpcode (f : Fin 384) (t : Fin 96) (steps : Nat)
  /-- MAC_TILE_CFG_WRITE (R182). A write of MAC_TILE_CFG is taken, refused or starts or ends a lease under the mode and
  pacer rules. -/
  | macTileCfgWrite (who : Who) (f : Fin 384) (t : Fin 96) (v : Word)
  /-- MAC_TILE_AG_WRITE (R182). A write of an address-generator register is taken only while the pacer is stopped or the
  leased tile is halted. -/
  | macTileAgWrite (who : Who) (f : Fin 384) (t : Fin 96) (g : Fin 2) (v : Word)
  /-- MAC_TILE_RUN (R178). A write of MAC_TILE_STATUS.run starts the program of a leased tile. -/
  | macTileRun (who : Who) (f : Fin 384) (t : Fin 96)
  /-- PACKET_INJECT (R190). A source NI picks a route entry or its alternate and injects a packet, or bus-errors an invalid
  route. -/
  | packetInject (p : Packet)
  /-- PACKET_HOP (R189). A router receives a packet, checks header parity, and forwards, ejects or discards it by its hop
  code. -/
  | packetHop (i : Nat) (flips : List Nat) (again : List Nat)
  /-- READ (R188). A READ packet reaches its target, which checks world and serves it from its memory or registers. -/
  | read (i : Nat) (u : Upset)
  /-- WRITE (R188). A WRITE packet reaches its target, which checks data and world and performs or merges the write. -/
  | write (i : Nat) (flips : List Nat) (u : Upset)
  /-- READ_RESP (R198). A read response reaches its initiator, whose NI checks and corrects its data. -/
  | readResp (i : Nat) (flips : List Nat)
  /-- WRITE_RESP (R212). A write response reaches its initiator and completes the write. -/
  | writeResp (i : Nat)
  /-- CACHEABLE_READ (R211). A cacheable read reaches a remote cache and hits, waits or sends RC_READ. -/
  | cacheableRead (p : Packet)
  /-- CACHEABLE_WRITE (R211). A cacheable write updates a valid cached copy and sends RC_WRITE. -/
  | cacheableWrite (p : Packet)
  /-- RC_READ (R211). A home directory receives RC_READ, allocates or updates the entry, reads memory and sends FILL. -/
  | rcRead (i : Nat) (u : Upset)
  /-- RC_WRITE (R211). A home receives RC_WRITE, invalidates other sharers and writes memory. -/
  | rcWrite (i : Nat) (flips : List Nat) (u : Upset)
  /-- FILL (R211). A FILL reaches a remote cache, which installs the line and returns data to waiting reads. -/
  | fill (i : Nat) (flips : List Nat)
  /-- INVAL (R211). An INVAL reaches a remote cache, which drops the line and sends INV_ACK. -/
  | inval (i : Nat)
  /-- INV_ACK (R212). An INV_ACK reaches the home, which proceeds once all acknowledgments have arrived. -/
  | invAck (i : Nat)
  /-- DIE_GONE (R214). A home receives DIE_GONE and clears the reset compute die's sharer bit in every entry. -/
  | dieGone (b : Fin 4) (c : Fin 12)
  /-- HOME_RESET (R214). A compute die receives HOME_RESET and drops every line homed on the reset base die. -/
  | homeReset (c : Fin 12) (b : Fin 4)
  /-- NOC_STALL (R196). A packet held at a router output past NOC_STALL_LIMIT writes a NOC_STALL record. -/
  | nocStall (i : Nat)
  /-- NOC_TIMEOUT (R199). A request without response past NOC_NI_TIMEOUT ends in a bus error and a record. -/
  | nocTimeout (src : Nat) (tag : Nat)
  /-- NOC_RT_DATA_HI_WRITE (R193). A write of NOC_RT_DATA_HI commits the selected route entry. -/
  | nocRtDataHiWrite (who : Who) (i : Fin 16) (v : Word)
  /-- NOC_ERRCNT_CLR (R220). A write of NOC_ERRCNT_CLR.clear clears NOC_ERRCNT. -/
  | nocErrcntClr (who : Who) (i : Fin 16)
  /-- NOC_STAT_CLEAR (R200). A write of NOC_STAT_CTL.clear clears an initiator's statistics set. -/
  | nocStatClear (who : Who) (i : Fin 16) (n : Fin 67)
  /-- LINK_FLIT_RECEIVE (R202). A lateral-link flit arrives and is checked for CRC and width, requesting replay or
  retraining. -/
  | linkFlitReceive (b : Fin 4) (j : Fin 2) (flips : List Nat)
  /-- TRAINING_ATTEMPT_END (R201). A lateral-link training attempt ends with a width set or a failure, declaring the link
  down after three failures. -/
  | trainingAttemptEnd (l : Fin 4) (g0 : BitVec 16) (g1 : BitVec 16)
  /-- D2D_RETRAIN (R204). A write of D2D_LAT_CTL.retrain starts lateral-link training. -/
  | d2dRetrain (who : Who) (b : Fin 4) (j : Fin 2)
  /-- D2D_LAT_ERRCLR (R221). A write of D2D_LAT_ERRCLR.clear clears D2D_LAT_ERRCNT. -/
  | d2dLatErrclr (who : Who) (b : Fin 4) (j : Fin 2)
  /-- VERT_PORT_READY (R206). After a compute die leaves reset, its vertical ports exchange credits and report ready. -/
  | vertPortReady (c : Fin 12)
  /-- FLUSH_COMPLETE (R215). Outstanding requests have completed, all caches and directories are emptied and waiting
  requests proceed. -/
  | flushComplete
  /-- RCACHE_FLUSH (R215). A write of RCACHE_CTL.flush flushes one die's remote cache. -/
  | rcacheFlush (who : Who) (c : Fin 12)
  /-- RCACHE_DISABLE (R222). A write of 0 to RCACHE_CTL.enable flushes the cache and disables caching. -/
  | rcacheDisable (who : Who) (c : Fin 12) (v : Word)
  /-- DIE_REPORT (R216). Every 1 ms a die's power controller sends a DIE_REPORT and the budget service answers with a
  DIE_BUDGET. -/
  | dieReport (i : Fin 16)
  /-- DIE_BUDGET (R216). A die receives a DIE_BUDGET and applies it from its next window unless it is stale. -/
  | dieBudget (i : Fin 16)
  /-- BUDGET_FALLBACK (R451). A die with no budget applied for 10 ms enters its fallback budget and writes a record. -/
  | budgetFallback (i : Fin 16)
  /-- HBM_INIT_START (R230). A write of HBM_INIT.start checks the map order and begins initializing the die's two stacks in
  turn. -/
  | hbmInitStart (who : Who) (b : Fin 4)
  /-- HBM_STACK_INIT_DONE (R230). A stack finishes reset, training and zero fill and enters READY or FAILED. -/
  | hbmStackInitDone (m : Fin 8) (identity : Bool) (temp : Int) (sweeps : List (List Sweep))
  /-- HBM_RETRAIN (R232). A write of HBM_STK_CMD.retrain starts retraining of a stack's current rate. -/
  | hbmRetrain (who : Who) (m : Fin 8) (pause : Bool)
  /-- PSEUDO_CHANNEL_RETRAIN_DONE (R232). One pseudo-channel finishes retraining and the next begins or waiting requests
  proceed. -/
  | pseudoChannelRetrainDone (m : Fin 8) (sweeps : List Sweep)
  /-- FREQ_CHANGE (R233). A write of HBM_STK_CMD.freq_change starts a switch of the stack to its inactive timing set. -/
  | freqChange (who : Who) (m : Fin 8) (pause : Bool)
  /-- FREQ_CHANGE_DONE (R233). A frequency change completes self-refresh exit and held requests proceed. -/
  | freqChangeDone (m : Fin 8)
  /-- HBM_TEMP_READ (R235). Every 100 µs the controller reads a stack's temperature and adjusts refresh, hot, overheat and
  retraining. -/
  | hbmTempRead (m : Fin 8) (temp : Int)
  /-- HBM_HOLD_EXPIRY (R236). A request held for 1 ms ends in a bus error and an HBM_HOLD record. -/
  | hbmHoldExpiry (m : Fin 8) (i : Nat)
  /-- HBM_STK_ERRCLR (R249). A write of HBM_STK_ERRCLR.clear clears HBM_STK_ERRCNT. -/
  | hbmStkErrclr (who : Who) (m : Fin 8)
  /-- MEMSEC_ENABLE_WRITE (R240). A write of MEMSEC_STK_CTL.enable reserves the metadata area, or is refused while a region
  is active. -/
  | memsecEnableWrite (who : Who) (m : Fin 8) (v : Word)
  /-- MEMSEC_REGION_INIT (R241). A write of MEMSEC_RGN_CTL.init moves a region to INIT or is refused with bad_range. -/
  | memsecRegionInit (who : Who) (m : Fin 8) (r : Fin 4) (v : Word)
  /-- MEMSEC_REGION_ACTIVE (R242). Region initialization finishes writing zero lines and counters and the region becomes
  ACTIVE. -/
  | memsecRegionActive (m : Fin 8) (r : Fin 4)
  /-- MEMSEC_REGION_CLOSE (R242). A write of MEMSEC_RGN_CTL.close moves an ACTIVE region to CLOSING. -/
  | memsecRegionClose (who : Who) (m : Fin 8) (r : Fin 4) (v : Word)
  /-- MEMSEC_REGION_INACTIVE (R242). A closing region finishes write-back and becomes INACTIVE. -/
  | memsecRegionInactive (m : Fin 8) (r : Fin 4)
  /-- LANE_BANK_ENABLE (R252). A write of LANE_BANK_CTL.enable is held pending until 20 µs after the previous bank enable. -/
  | laneBankEnable (who : Who) (k : Fin 12) (v : Word)
  /-- BANK_ENABLE_EFFECT (R252). A pending bank enable takes effect and its reference monitor starts. -/
  | bankEnableEffect (k : Fin 12)
  /-- LREF_MONITOR_WINDOW (R253). A 10 µs LREF monitor window ends, setting ref_ok or taking the bank's lanes down with
  REF_LOST. -/
  | lrefMonitorWindow (k : Fin 12) (khz : Nat)
  /-- LANE_ENABLE (R269). A write of 1 to LANE_CTL.enable starts a lane in PLL, or is refused for reserved codes. -/
  | laneEnable (who : Who) (n : Fin 192) (v : Word)
  /-- LANE_DISABLE (R269). A write of 0 to LANE_CTL.enable lets the frame in progress finish and turns the lane OFF. -/
  | laneDisable (who : Who) (n : Fin 192) (v : Word)
  /-- LANE_SETTING_WRITE (R269). A write of lane rate, coding, polarity, loop or PRBS settings is taken only while the lane
  is disabled, else refused. -/
  | laneSettingWrite (who : Who) (n : Fin 192) (prbs : Bool) (v : Word)
  /-- LANE_TX_FIR_WRITE (R269). A write of LANE_TX_FIR applies from the next frame boundary. -/
  | laneTxFirWrite (who : Who) (n : Fin 192) (v : Word)
  /-- LANE_PLL_LOCK (R265). A lane's PLL locks and the lane moves to ACQUIRE or TEST. -/
  | lanePllLock (n : Fin 192)
  /-- PLL_UNLOCK (R266). A lane's PLL loses lock and the lane leaves its state with cause PLL_UNLOCK. -/
  | pllUnlock (n : Fin 192)
  /-- CDR_LOCK (R265). A receiver detects signal and its CDR locks. -/
  | cdrLock (n : Fin 192)
  /-- ADAPTATION_DONE (R271). Initial receiver adaptation completes and the lane enters ALIGN. -/
  | adaptationDone (n : Fin 192) (ctle : Nat) (dfe1 : Nat)
  /-- LANE_FRAME_RECEIVE (R261). A received frame position is checked for its marker, giving lock, realignment, a bad flag
  or loss of lock. -/
  | laneFrameReceive (n : Fin 192) (line : List Nat) (drains : List Nat)
  /-- FEC_CODEWORD_RECEIVE (R260). The receiver decodes an RS codeword, correcting symbols or flagging overlapping frames
  bad. -/
  | fecCodewordReceive (n : Fin 192) (line : List Nat)
  /-- CHAFF_RECEIVE (R264). A chaff word reaches the elastic buffer and is deleted, passed or repeated by fill level. -/
  | chaffReceive (n : Fin 192) (line : List Nat) (drains : List Nat)
  /-- LOSS_OF_SIGNAL (R267). A receiver input without transitions or amplitude takes the lane down with cause LOS. -/
  | lossOfSignal (n : Fin 192)
  /-- PRBS_INJECT (R273). A write of LANE_PRBS_CTL.inject flips one generated PRBS bit. -/
  | prbsInject (who : Who) (n : Fin 192)
  /-- PRBS_CHECKER_LOCK (R273). The PRBS checker synchronizes itself on 31 received bits and sets chk_lock, after which it
  counts errors and compared bits. -/
  | prbsCheckerLock (n : Fin 192) (line : List Nat)
  /-- EYE_SCAN_START (R274). A write of LANE_EYE_CTL.start begins one eye-scan point unless one runs. -/
  | eyeScanStart (who : Who) (n : Fin 192) (v : Word)
  /-- EYE_POINT_DONE (R274). An eye-scan point ends, setting done and the mismatch count, or invalid on CDR loss. -/
  | eyePointDone (n : Fin 192) (errs : Nat) (lost : Bool)
  /-- LANE_CNT_CLR (R275). A write of LANE_CNT_CLR.clear clears the lane's error and PRBS counts. -/
  | laneCntClr (who : Who) (n : Fin 192)
  /-- HALTED_FRAME_SEND (R268). After an integrity halt a lane in UP finishes its frame, sends one HALTED frame and enters
  IDLE_FORCED. -/
  | haltedFrameSend (n : Fin 192)
  /-- FRAME_SEND (R290). A link builds and sends its next frame, filling slots by class, replaying or sending IDLE or HELLO
  as its state gives. -/
  | frameSend (n : Fin 192) (hello : Bool)
  /-- DATA_FRAME (R283). A DATA frame is received, checked, its credits processed, and accepted, discarded, delivered or
  forwarded. -/
  | dataFrame (n : Fin 192)
  /-- IDLE_FRAME (R283). An IDLE frame is received and its credit field processed. -/
  | idleFrame (n : Fin 192)
  /-- HELLO_FRAME (R312). A HELLO frame is received and latched for its lane. -/
  | helloFrame (n : Fin 192)
  /-- HALTED_FRAME (R288). A good HALTED frame moves the link to PARTNER_HALTED with a record. -/
  | haltedFrame (n : Fin 192)
  /-- RESERVED_FRAME_TYPE (R280). A received link frame of a reserved type is discarded and counted in
  LCH_LINK_ERR.discards. -/
  | reservedFrameType (n : Fin 192)
  /-- LINK_CFG_ACTIVATE (R281). A write of 1 to LCH_LINK_CFG.activate moves a link from HELLO to ACTIVE, or is refused. -/
  | linkCfgActivate (who : Who) (n : Fin 192) (v : Word)
  /-- LINK_CFG_DEACTIVATE (R281). A write of 0 to activate returns a link to HELLO or OFF and discards its replay buffer. -/
  | linkCfgDeactivate (who : Who) (n : Fin 192) (v : Word)
  /-- REPLAY_TIMEOUT (R284). The oldest unacknowledged frame waits LCH_RETRY.timeout and a replay starts, failing the link
  past the limit. -/
  | replayTimeout (n : Fin 192)
  /-- LANE_ABSENCE_TIMEOUT (R287). An ACTIVE link whose lane stays out of UP for 10 ms enters FAILED. -/
  | laneAbsenceTimeout (n : Fin 192)
  /-- LCH_CTX_READ (R291). A write of LCH_CTX_CMD.read copies a context into DATA0 to DATA3. -/
  | lchCtxRead (who : Who) (b : Fin 4)
  /-- LCH_CTX_WRITE (R294). A write of LCH_CTX_CMD.write writes a context, taking or reclaiming a hot slot or being refused. -/
  | lchCtxWrite (who : Who) (b : Fin 4)
  /-- HOT_SLOT_RELEASE (R293). A stream context whose queue has been empty for 100 µs gives up its hot slot. -/
  | hotSlotRelease (c : BitVec 16)
  /-- STALE_TIMER (R301). A context's stale timer reaches its time and closes the open partial word. -/
  | staleTimer (c : BitVec 16)
  /-- CREDIT_RETURN (R303). A receive context returns freed credits in a CREDIT descriptor at 16 credits or 1 µs. -/
  | creditReturn (c : BitVec 16)
  /-- TMARK_SEND (R306). A write of LCH_TMARK_CTL.send marks the next DATA frame and latches the timebase at the pad. -/
  | tmarkSend (who : Who) (n : Fin 192)
  /-- LCH_SLOT_DATA_WRITE (R316). A write of a slot-table entry or LCH_LINK_SYNC is taken while the pacer is stopped, else
  refused. -/
  | lchSlotDataWrite (who : Who) (b : Fin 4) (sync : Option (Fin 48)) (v : Word)
  /-- LCH_LINK_CLR (R316). A write of LCH_LINK_CLR.clear clears LCH_LINK_ERR. -/
  | lchLinkClr (who : Who) (n : Fin 192)
  /-- LCH_CTL_LOCK (R311). A write of LCH_CTL.lock locks position and pos_valid until a device-wide reset. -/
  | lchCtlLock (who : Who) (b : Fin 4) (v : Word)
  /-- TIME_EXCHANGE (R314). Every 1 ms a worker exchanges time marks with its parent and corrects PACE_TB_ADJ. -/
  | timeExchange (n : Fin 192) (pos : Fin 128) (tx : BitVec 64) (rx : BitVec 64)
  /-- CFG_ARM (R338). A write of CFG_CTL.arm readies the front end for a new stream on the selected path. -/
  | cfgArm (who : Who) (v : Word)
  /-- CFG_ABORT (R324). A write of CFG_CTL.abort ends the stream with TRUNCATED or disarms the front end. -/
  | cfgAbort (who : Who) (v : Word)
  /-- CFG_RESTART (R347). A write of CFG_CTL.restart releases CFG_ERR_N, clears CFG_FAIL and releases lanes from
  IDLE_FORCED. -/
  | cfgRestart (who : Who) (v : Word)
  /-- DONE_RELEASE (R342). A write of CFG_CTL.done_release releases CFG_DONE for a device that takes no design. -/
  | doneRelease (who : Who) (v : Word)
  /-- SECTION_HEADER (R320). A section header is checked for format, target, identity, sequence and protection, and accepted
  or skipped. -/
  | sectionHeader (x : Feed)
  /-- END_SECTION (R321). An END section ends the stream after checking its trailer, failing with NO_SECTION if nothing was
  accepted. -/
  | endSection (x : Feed)
  /-- SECTION_TRAILER (R333). The trailer of a section is checked for magic, crc, tag and signature and the section succeeds
  or fails. -/
  | sectionTrailer (x : Feed)
  /-- NOP_PACKET (R325). A NOP packet and its words are ignored. -/
  | nopPacket (x : Feed)
  /-- CFG_ADDRESS (R326). A WRITE packet to CFG_ADDRESS sets the next frame address or fails FORMAT. -/
  | cfgAddress (x : Feed)
  /-- CFG_BURST_COUNT (R326). A WRITE packet to CFG_BURST_COUNT sets the frame count of the next FRAMES packet. -/
  | cfgBurstCount (x : Feed)
  /-- CFG_CHECK (R332). A WRITE packet to CFG_CHECK compares the running check value and resets it. -/
  | cfgCheck (x : Feed)
  /-- CLEAR (R326). CFG_ACTION CLEAR sets every logic frame of the region's fields to 0. -/
  | clear (x : Feed)
  /-- ZERO_MEM (R326). CFG_ACTION ZERO_MEM sets the region's bin and MAC tile memories to 0 with valid check bits. -/
  | zeroMem (x : Feed)
  /-- FENCE (R326). CFG_ACTION FENCE waits until every frame written so far has been placed. -/
  | fence (x : Feed)
  /-- FENCE_COMPLETE (R326). The frame writers have placed all earlier frames and the stream continues after a FENCE. -/
  | fenceComplete
  /-- FRAMES (R327). A FRAMES packet writes CFG_BURST_COUNT frames from CFG_ADDRESS, failing REGION at a refused place. -/
  | frames (x : Feed)
  /-- WRITE_DEV (R328). A WRITE_DEV packet writes allowed device registers or fails REG_DENIED. -/
  | writeDev (x : Feed)
  /-- RESERVED_PACKET_OPCODE (R325). A section body packet with a reserved opcode 0x4 to 0xF fails the stream with cause
  FORMAT. -/
  | reservedPacketOpcode (x : Feed)
  /-- BULK_CLEAR_DONE (R336). The bulk clear of configuration memory after a FULL accept completes and waiting frames
  proceed. -/
  | bulkClearDone
  /-- STREAM_PATH_END (R324). The load path ends; a started stream ends TRUNCATED, an unstarted one disarms. -/
  | streamPathEnd (k : Nat)
  /-- CFGBUS_IDLE_TIMEOUT (R341). STB stays low for CFG_BUS_IDLE during a CFGBUS stream, ending it with TRUNCATED. -/
  | cfgbusIdleTimeout (k : Nat)
  /-- CFG_DONE_TIMEOUT (R344). CFG_DONE stays low for CFG_DONE_TIMEOUT after release and a record is written. -/
  | cfgDoneTimeout
  /-- WORKER_LOAD_RESTART (R347). A worker's firmware writes restart 10 ms after a broadcast load failure and reports the
  cause. -/
  | workerLoadRestart
  /-- GLEAN_FRAME_READ (R360). The gleaner reads the next logic frame and schedules corrections, records, freezes or
  reloads. -/
  | gleanFrameRead (die : Fin 12) (flips : List Nat)
  /-- GLEAN_CTL_WRITE (R364). A write of golden_en or the golden base is taken only while no design is loaded, else refused. -/
  | gleanCtlWrite (who : Who) (die : Fin 12) (k : Fin 3) (v : Word)
  /-- GLEAN_UNFREEZE (R368). A write to GLEAN_UNFREEZE releases a frozen field at the next boundary. -/
  | gleanUnfreeze (who : Who) (die : Fin 12) (v : Word)
  /-- SCRUB_UNIT (R369). A scrubber reads its next check unit in an idle cycle, corrects and counts or reports an error. -/
  | scrubUnit (i : Fin 16) (k : Fin 4) (flips : List Nat)
  /-- BUCKET_LEAK (R373). Every leak_ms a leaky bucket loses 1 from its level. -/
  | bucketLeak (i : Fin 16) (k : Fin 5)
  /-- ERR_BKT_CFG_WRITE (R373). A write of a bucket configuration register sets leak and threshold and restarts the leak
  timing. -/
  | errBktCfgWrite (who : Who) (i : Fin 16) (k : Fin 5) (v : Word)
  /-- GRAN_TEST_START (R375). After interval_us a granary region is copied to the save buffer and its accesses redirected. -/
  | granTestStart (b : Fin 4)
  /-- GRAN_TEST_END (R375). A region's March test ends, failing rows are remapped and the region is copied back. -/
  | granTestEnd (b : Fin 4) (badRows : List Nat) (badSpares : List Nat)
  /-- ERR_FIFO_POP (R383). A write of ERR_FIFO_POP.pop removes the head record. -/
  | errFifoPop (who : Who) (i : Fin 16)
  /-- ERR_LOG_POLL (R384). The firmware takes records into its log on an error interrupt or its 1 ms poll. -/
  | errLogPoll
  /-- ERR_HALT_CLR (R388). A write of ERR_HALT_CLR clears the latched halt cause. -/
  | errHaltClr (who : Who)
  /-- POWER_ON (R470). The power-on detector resets everything but fuses. -/
  | powerOn
  /-- PORST_N_ASSERT (R442). PORST_N falls: the device turns off compute-die regulators and enters cold reset. -/
  | porstNAssert
  /-- PORST_N_RELEASE (R395). PORST_N rises: straps are sampled, base dies leave reset and the boot ROM starts. -/
  | porstNRelease (mode : Fin 4) (role : Fin 4) (tamperPin : Bool)
  /-- SYSRST_N_ASSERT (R470). SYSRST_N falls and the device enters warm reset, keeping the listed state. -/
  | sysrstNAssert
  /-- SYSRST_N_RELEASE (R446). SYSRST_N rises: base dies leave reset and the boot ROM runs under the last straps. -/
  | sysrstNRelease (tamperPin : Bool)
  /-- PER_DIE_RESET (R470). A die enters per-die reset and its fields leave completion at once. -/
  | perDieReset (who : Who) (i : Fin 16)
  /-- PER_DIE_RESET_RELEASE (R471). A die leaves per-die reset and restarts without its regulator sequence. -/
  | perDieResetRelease (who : Who) (i : Fin 16)
  /-- PER_FIELD_RESET (R473). A write of PWR_FLD_RESET resets a field at its next boundary. -/
  | perFieldReset (who : Who) (f : Fin 384)
  /-- ID_BOOT_DOORBELL (R396). A write of ID_BOOT_DOORBELL starts verification of a host-written image. -/
  | idBootDoorbell
  /-- IMAGE_VERIFIED (R397). The ROM finishes checking an image and starts core 0 or records BOOT_FAILED. -/
  | imageVerified (flash : Option (List Byte))
  /-- FIRMWARE_READY (R397). The started firmware reports ready and the ROM sets ID_STATE.sp_state to RUNNING. -/
  | firmwareReady
  /-- BOOT_SOURCE_TIMEOUT (R397). The boot source delivers no image in time, so the ROM sets BOOT_FAILED with cause source
  timeout and writes an SP_BOOT_FAIL record. -/
  | bootSourceTimeout
  /-- SP_MEM_UE (R420). An uncorrectable error is found in service-processor memory, which writes a FATAL SP_MEM_UE record
  and sets sp_state to FATAL. -/
  | spMemUe (address : BitVec 48)
  /-- HOST_LINK_DOWN (R420). The host link leaves L0 other than to L1, for example on loss of PE_REFCLK, and a
  PCIE_LINK_DOWN record is written. -/
  | hostLinkDown
  /-- PE_PERST_N (R400). PE_PERST_N resets the host port and every mailbox page. -/
  | pePerstN
  /-- FUNCTION_LEVEL_RESET (R400). A Function Level Reset resets the host port and mailbox pages. -/
  | functionLevelReset
  /-- MB_CMD_TAIL (R403). A doorbell write of MB_CMD_TAIL makes the device fetch commands, or puts the mailbox in error. -/
  | mbCmdTail (m : Fin 16) (tail : BitVec 16) (h : HostMem)
  /-- MB_RSP_HEAD (R404). The host advances MB_RSP_HEAD, freeing room so held responses and fetching resume. -/
  | mbRspHead (m : Fin 16) (head : BitVec 16) (h : HostMem)
  /-- MB_ENABLE (R405). A write of 1 to MB_CTL.enable zeroes the indices and starts fetching. -/
  | mbEnable (m : Fin 16) (v : Word)
  /-- MB_DISABLE (R405). A write of 0 to MB_CTL.enable stops fetching and closes the mailbox's sessions. -/
  | mbDisable (m : Fin 16) (v : Word)
  /-- MB_IRQ_HOLDOFF_EXPIRY (R405). The MB_IRQ_HOLDOFF spacing of a mailbox passes and a held response interrupt is sent. -/
  | mbIrqHoldoffExpiry (m : Fin 16)
  /-- LONG_COMMAND_STEP (R408). A core runs the next step of a long command and may post a progress or final response. -/
  | longCommandStep (m : Fin 17) (done : Bool)
  /-- BAD_OPCODE (R407). A fetched command whose opcode service firmware 3.2 does not define is answered BAD_OPCODE and
  changes nothing. -/
  | badOpcode (m : Fin 17)
  /-- HEARTBEAT (R401). Every 1 ms the firmware increments ID_HEARTBEAT. -/
  | heartbeat
  /-- BAR2_ACCESS (R412). A host BAR2 access reaches W + x non-securely, or returns ones or is dropped with a record. -/
  | bar2Access (x : BitVec 36) (n : Nat) (data : Option (List Byte)) (us : List Upset)
  /-- DEV_INFO (R415). DEV_INFO returns version, features, state and serial. -/
  | devInfo (m : Fin 17)
  /-- DEV_RESET (R415). DEV_RESET performs a warm, die, field or block reset. -/
  | devReset (m : Fin 17)
  /-- WARM_RESET_DELAY (R470). 1 ms after DEV_RESET kind 0 answers DONE, SYSRST_N acts. -/
  | warmResetDelay
  /-- DEV_REG_READ (R415). DEV_REG_READ returns a register value. -/
  | devRegRead (m : Fin 17)
  /-- DEV_REG_WRITE (R415). DEV_REG_WRITE writes a register. -/
  | devRegWrite (m : Fin 17)
  /-- LOAD_OPEN (R415). LOAD_OPEN opens a load session and arms the front end. -/
  | loadOpen (m : Fin 17)
  /-- LOAD_DATA (R415). LOAD_DATA delivers stream bytes from host memory to the front end. -/
  | loadData (m : Fin 17)
  /-- LOAD_CLOSE (R415). LOAD_CLOSE closes the session, ending or aborting the stream and reporting status. -/
  | loadClose (m : Fin 17)
  /-- LOAD_STATUS (R415). LOAD_STATUS returns configuration status without a session. -/
  | loadStatus (m : Fin 17)
  /-- LOAD_RESTART (R415). LOAD_RESTART writes CFG_CTL.restart. -/
  | loadRestart (m : Fin 17)
  /-- RUN_CONFIG (R415). RUN_CONFIG sets pacer mode, lost policy, ratio and bound. -/
  | runConfig (m : Fin 17)
  /-- RUN_START (R416). RUN_START starts the pacer, or broadcasts a start to the cluster from a manager. -/
  | runStart (m : Fin 17)
  /-- RUN_STOP (R416). RUN_STOP stops the pacer or broadcasts a common stop-at. -/
  | runStop (m : Fin 17)
  /-- RUN_STEP (R416). RUN_STEP runs N cycles. -/
  | runStep (m : Fin 17)
  /-- RUN_STOP_AT (R416). RUN_STOP_AT arms or disarms stop-at for cycle C. -/
  | runStopAt (m : Fin 17)
  /-- RUN_STATUS (R415). RUN_STATUS returns pacer status, committed count and debt. -/
  | runStatus (m : Fin 17)
  /-- RUN_WAIT (R415). RUN_WAIT answers when the pacer stops or its limit passes. -/
  | runWait (m : Fin 17)
  /-- RUN_WAIT_LIMIT (R415). The limit of a RUN_WAIT passes before the pacer stops and the command ends in DEVICE_ERROR. -/
  | runWaitLimit (m : Fin 17)
  /-- STATE_CHECKPOINT (R417). STATE_CHECKPOINT writes a checkpoint image of the design state to HBM. -/
  | stateCheckpoint (m : Fin 17)
  /-- STATE_RESTORE (R417). STATE_RESTORE writes a checkpoint image back, checking its digest. -/
  | stateRestore (m : Fin 17)
  /-- STATE_READ (R415). STATE_READ copies minor 0 of a state-capture frame to the host. -/
  | stateRead (m : Fin 17)
  /-- STATE_FORCE (R415). STATE_FORCE forces a storage element at the next boundary. -/
  | stateForce (m : Fin 17)
  /-- STATE_RELEASE (R415). STATE_RELEASE releases one or all forced elements of a field. -/
  | stateRelease (m : Fin 17)
  /-- CAPTURE_OPEN (R415). CAPTURE_OPEN opens a capture session and leases tiles. -/
  | captureOpen (m : Fin 17) (tiles : List Nat)
  /-- CAPTURE_TRIGGER (R415). CAPTURE_TRIGGER arms a capture session on a trigger macrocell. -/
  | captureTrigger (m : Fin 17)
  /-- CAPTURE_STATUS (R415). CAPTURE_STATUS returns the session state and samples held. -/
  | captureStatus (m : Fin 17)
  /-- CAPTURE_READ (R417). CAPTURE_READ copies captured samples to the host. -/
  | captureRead (m : Fin 17)
  /-- CAPTURE_CLOSE (R415). CAPTURE_CLOSE closes the session and ends its leases. -/
  | captureClose (m : Fin 17)
  /-- MEM_WINDOW (R412). MEM_WINDOW sets the BAR2 window base. -/
  | memWindow (m : Fin 17)
  /-- MEM_READ (R415). MEM_READ copies device memory to the host. -/
  | memRead (m : Fin 17) (us : List Upset)
  /-- MEM_WRITE (R415). MEM_WRITE copies host memory to the device. -/
  | memWrite (m : Fin 17) (h : HostMem) (us : List Upset)
  /-- MEM_FILL (R415). MEM_FILL fills device memory with a pattern. -/
  | memFill (m : Fin 17) (us : List Upset)
  /-- MEM_HBM_INIT (R520). MEM_HBM_INIT writes the order and timing sets and starts HBM initialization. -/
  | memHbmInit (m : Fin 17)
  /-- MEM_HBM_TRAIN (R415). MEM_HBM_TRAIN retrains the chosen stacks. -/
  | memHbmTrain (m : Fin 17)
  /-- MEM_HBM_RATE (R415). MEM_HBM_RATE fills inactive timing sets and changes stack rates. -/
  | memHbmRate (m : Fin 17)
  /-- MEM_PROTECT (R415). MEM_PROTECT initializes or closes a protected region. -/
  | memProtect (m : Fin 17)
  /-- LINK_UP (R415). LINK_UP brings up lanes at a profile. -/
  | linkUp (m : Fin 17)
  /-- LINK_DOWN_CMD (R415). LINK_DOWN disables lanes. -/
  | linkDownCmd (m : Fin 17)
  /-- LINK_STATUS (R415). LINK_STATUS returns lane and link status. -/
  | linkStatus (m : Fin 17)
  /-- LINK_ACTIVATE (R415). LINK_ACTIVATE activates or deactivates a standalone device's link. -/
  | linkActivate (m : Fin 17)
  /-- LINK_PRBS (R415). LINK_PRBS runs a PRBS test and returns counts. -/
  | linkPrbs (m : Fin 17)
  /-- LINK_EYE (R415). LINK_EYE runs a full eye scan to host memory. -/
  | linkEye (m : Fin 17)
  /-- LINK_CTX_WRITE (R415). LINK_CTX_WRITE writes a link-channel context. -/
  | linkCtxWrite (m : Fin 17)
  /-- LINK_CTX_READ (R415). LINK_CTX_READ reads a link-channel context. -/
  | linkCtxRead (m : Fin 17)
  /-- LINK_SLOTS (R415). LINK_SLOTS writes a lane's slot table. -/
  | linkSlots (m : Fin 17) (h : HostMem)
  /-- CLUSTER_FORM (R313). CLUSTER_FORM runs discovery, positions, routes, keys and time distribution. -/
  | clusterForm (m : Fin 17)
  /-- CLUSTER_MAP (R415). CLUSTER_MAP writes the cluster map to the host. -/
  | clusterMap (m : Fin 17)
  /-- CLUSTER_RELAY (R418). CLUSTER_RELAY runs a descriptor on a worker and returns its response. -/
  | clusterRelay (m : Fin 17) (h : HostMem)
  /-- RELAY_TIMEOUT (R418). A worker that does not answer in 100 ms ends the relay in DEVICE_ERROR. -/
  | relayTimeout (m : Fin 17)
  /-- CLUSTER_TIME (R415). CLUSTER_TIME returns the largest time offset seen. -/
  | clusterTime (m : Fin 17)
  /-- CLUSTER_DISBAND (R415). CLUSTER_DISBAND deactivates every cluster link. -/
  | clusterDisband (m : Fin 17)
  /-- HEALTH_LOG_READ (R415). HEALTH_LOG_READ copies log records to the host. -/
  | healthLogRead (m : Fin 17)
  /-- HEALTH_LOG_CLEAR (R415). HEALTH_LOG_CLEAR clears the error log. -/
  | healthLogClear (m : Fin 17)
  /-- HEALTH_TELEMETRY (R415). HEALTH_TELEMETRY returns a die's last report. -/
  | healthTelemetry (m : Fin 17)
  /-- HEALTH_BUDGET (R449). HEALTH_BUDGET writes PWR_CAP. -/
  | healthBudget (m : Fin 17)
  /-- HEALTH_SCRUB (R415). HEALTH_SCRUB pauses or resumes a scrubber or gleaner. -/
  | healthScrub (m : Fin 17)
  /-- HEALTH_IRQ (R413). HEALTH_IRQ sets the least severity for vector 17. -/
  | healthIrq (m : Fin 17)
  /-- HEALTH_HALT (R415). HEALTH_HALT returns the halt registers. -/
  | healthHalt (m : Fin 17)
  /-- SEC_KEY_INSTALL (R429). SEC_KEY_INSTALL unwraps a key blob into a slot. -/
  | secKeyInstall (m : Fin 17) (h : HostMem)
  /-- SEC_KEY_CLEAR (R415). SEC_KEY_CLEAR clears a key slot. -/
  | secKeyClear (m : Fin 17)
  /-- SEC_WORLD_SET (R425). SEC_WORLD_SET changes the world of an object. -/
  | secWorldSet (m : Fin 17)
  /-- SEC_LIFECYCLE (R433). SEC_LIFECYCLE submits a lifecycle request. -/
  | secLifecycle (m : Fin 17) (h : HostMem) (vcc : Bool)
  /-- SEC_CHALLENGE (R415). SEC_CHALLENGE generates and returns a challenge nonce. -/
  | secChallenge (m : Fin 17)
  /-- SEC_UNLOCK (R433). SEC_UNLOCK submits a signed debug-unlock request. -/
  | secUnlock (m : Fin 17) (h : HostMem) (vcc : Bool)
  /-- SEC_WIPE (R436). SEC_WIPE wipes the selected secure areas. -/
  | secWipe (m : Fin 17)
  /-- DEBUG_TRACE_READ (R496). DEBUG_TRACE_READ copies trace buffer bytes to the host. -/
  | debugTraceRead (m : Fin 17)
  /-- DEBUG_TRACE_CTL (R496). DEBUG_TRACE_CTL sets a core's mark class enable mask. -/
  | debugTraceCtl (m : Fin 17)
  /-- SEC_FIELD_WORLD_WRITE (R425). A write of SEC_FIELD_WORLDk changes field worlds, clearing fields turning non-secure, or
  is refused. -/
  | secFieldWorldWrite (who : Who) (k : Fin 12) (v : Word)
  /-- FIELD_WORLD_CLEAR_DONE (R425). The clearing of a field turning non-secure completes and its world changes. -/
  | fieldWorldClearDone (f : Fin 384)
  /-- SEC_GRAN_WORLD_WRITE (R425). A write of SEC_GRAN_WORLDb changes granary region worlds, zeroing and flushing as needed. -/
  | secGranWorldWrite (who : Who) (b : Fin 4) (v : Word)
  /-- GRANARY_ZERO_DONE (R425). Zeroing of a granary region turning non-secure completes and waiting accesses proceed. -/
  | granaryZeroDone (b : Fin 4) (g : Fin 16)
  /-- SEC_HBM_WORLD_WRITE (R425). A write of SEC_HBM_WORLD changes HBM region worlds and starts a flush. -/
  | secHbmWorldWrite (who : Who) (hi : Bool) (v : Word)
  /-- SEC_LOCK (R426). A write of SEC_LOCK.lock locks the partition, page worlds and tamper enables. -/
  | secLock (who : Who)
  /-- SEC_UNWRAP_GO (R429). A write of SEC_UNWRAP_CTL.go starts unwrapping a key blob. -/
  | secUnwrapGo (who : Who) (offset : BitVec 20)
  /-- KEY_UNWRAP_DONE (R429). An unwrap ends, loading the slot or setting fail with a record. -/
  | keyUnwrapDone
  /-- SEC_UNWRAP_CLEAR (R438). A write of SEC_UNWRAP_CTL.clear clears the slot named by the blob. -/
  | secUnwrapClear (who : Who) (offset : BitVec 20)
  /-- LC_CHALLENGE_NEW (R432). A write of LC_CHALLENGE_CTL.new generates a challenge. -/
  | lcChallengeNew (who : Who)
  /-- CHALLENGE_EXPIRY (R432). A challenge becomes invalid 60 s after generation. -/
  | challengeExpiry
  /-- LC_REQ_GO (R432). A write of LC_REQ_GO verifies a lifecycle request, wipes and starts blowing fuses. -/
  | lcReqGo (who : Who) (vcc : Bool)
  /-- FUSE_BLOW_DONE (R433). A fuse finishes blowing and reads back; after the last, the new state applies. -/
  | fuseBlowDone (ok : Bool)
  /-- TAMPER_DETECT (R435). An enabled tamper source is detected: wipes start, core 0 is held and an integrity halt follows. -/
  | tamperDetect (i : Fin 5)
  /-- WIPE_DONE (R436). A wipe of a secure area completes and waiting accesses proceed. -/
  | wipeDone (area : WipeArea)
  /-- PMB_TRANSACTION_END (R444). A PMBus transaction completes or fails, being retried or latching the regulator's status. -/
  | pmbTransactionEnd (c : Fin 12) (ok : Bool) (w : BitVec 16)
  /-- PMB_ALERT (R444). PMB_ALERT_N asserts and the device reads STATUS_WORD of the regulators concerned. -/
  | pmbAlert (regs : List (Fin 12 × BitVec 16))
  /-- CORE_VOLTAGE_FAULT (R444). A sensed core voltage leaves 0.55 to 0.95 V and the die is put in per-die reset. -/
  | coreVoltageFault (c : Fin 12) (mv : Nat)
  /-- STATUS (R445). SMBus STATUS returns the summary status byte. -/
  | status
  /-- POWER (R445). SMBus POWER returns package power. -/
  | power
  /-- TEMP_LOGIC (R445). SMBus TEMP_LOGIC returns the highest logic-die junction. -/
  | tempLogic
  /-- TEMP_HBM (R445). SMBus TEMP_HBM returns the highest stack temperature. -/
  | tempHbm
  /-- CAP_LIMIT (R445). SMBus CAP_LIMIT reads or writes PWR_CAP_SMB, clamped to 150 to 700 W. -/
  | capLimit (v : Option (BitVec 16 × Option Byte))
  /-- DIE_POWER (R445). SMBus DIE_POWER returns the mean power of each die. -/
  | diePower
  /-- PWR_START_GO (R447). A write of PWR_START.go starts the staggered compute-die start, or is refused on repeat. -/
  | pwrStartGo (who : Who)
  /-- REGULATOR_ON (R447). At 50 µs × d the sequencer sends OPERATION on to Cd's regulator. -/
  | regulatorOn (c : Fin 12)
  /-- DIE_RELEASE (R447). A compute die's rail is in tolerance and the die leaves reset. -/
  | dieRelease (c : Fin 12)
  /-- RAIL_TIMEOUT (R447). A rail not in tolerance 1 ms after OPERATION on leaves its die in reset with a record. -/
  | railTimeout (c : Fin 12)
  /-- FIELD_WAKE (R447). A field of a die leaving reset wakes 2 µs after the previous one. -/
  | fieldWake (f : Fin 384)
  /-- BUDGET_WINDOW (R450). At the end of each 1 ms window a compute die adjusts voltage or spacing to its budget. -/
  | budgetWindow (c : Fin 12)
  /-- RETENTION_ENTER (R454). A write of 1 to PWR_RET_CTL puts a field's bins or a granary region into retention, or is
  refused. -/
  | retentionEnter (who : Who) (u : Fin 448)
  /-- RETENTION_WAKE (R455). A write of 0 or an access starts waking a retained memory. -/
  | retentionWake (who : Who) (u : Fin 448)
  /-- WAKE_DONE (R455). A retained memory finishes waking after 8 µs and its scrubber scrubs it. -/
  | wakeDone (u : Fin 448)
  /-- TELEMETRY_SAMPLE (R456). Every 1 ms a die takes a sample set and checks alert and trip. -/
  | telemetrySample (i : Fin 16) (x : Sample)
  /-- WEAR_MEASUREMENT (R459). Every 1 s wear management measures aging and may raise the margin. -/
  | wearMeasurement (i : Fin 16) (slow : Nat)
  /-- MREF_LOSS (R462). MREF leaves range or a PHY loses lock and the stack's requests are held. -/
  | mrefLoss (b : Fin 4) (which : Fin 3)
  /-- PHY_LOCK_RETURN (R462). Lock returns within 1 ms and the stack retrains before serving held requests. -/
  | phyLockReturn (m : Fin 8)
  /-- PHY_UNLOCK_EXPIRY (R462). A stack unlocked for over 1 ms enters FAILED. -/
  | phyUnlockExpiry (m : Fin 8)
  /-- CLK_GATE_CMD (R463). A write of CLK_GATE_CMD turns a clock node on or off, or refuses with a result. -/
  | clkGateCmd (who : Who) (i : Fin 17) (v : Word)
  /-- CLKOUT_CTL_WRITE (R464). A write of the CLKOUT registers changes source, divisor or spread. -/
  | clkoutCtlWrite (who : Who) (ssc : Bool) (v : Word)
  /-- CLOCK_SWITCH (R465). A glitch-free clock switch completes once old and new clocks have gone low. -/
  | clockSwitch (timebase : Bool)
  /-- CLK_FORCED (R465). An old clock without edges for 64 new cycles forces the switch with a record. -/
  | clkForced (timebase : Bool)
  /-- CDC_TIMEOUT (R467). A crossing without acknowledgment abandons its transfer and bus-errors a waiting access. -/
  | cdcTimeout (i : Fin 17) (block : BitVec 8) (waiting : Option Nat) (merged : Bool)
  /-- DBG_LINE_RESET (R481). DBG_CK high for 20 µs resets the debug port to idle. -/
  | dbgLineReset
  /-- DBG_READ_REQUEST (R486). A debug read request is checked and answered OK, WAIT, FAULT or LOCKED. -/
  | dbgReadRequest (h : BitVec 16) (a : Word) (crc : BitVec 4) (slow : Bool)
  /-- DBG_WRITE_REQUEST (R487). A debug write request is checked and posted, or answered FAULT or LOCKED. -/
  | dbgWriteRequest (h : BitVec 16) (a : Word) (v : Word) (crc : BitVec 4)
  /-- BREAK (R491). A breakpoint instruction enters the monitor or the exception vector. -/
  | brk (c : Fin 4)
  /-- COMPARATOR (R494). Matching comparators raise one COMPARATOR event and enter the monitor. -/
  | comparator (c : Fin 4) (kind : Fin 3) (addr : Word) (n : Nat) (next : Word)
  /-- STEP_EVENT (R492). After one stepped instruction the core raises STEP and enters the monitor. -/
  | stepEvent (c : Fin 4) (next : Word)
  /-- HALT_REQUEST (R492). A write of SP_CORE_DBG_CTL.halt raises a halt request, pending while in the monitor. -/
  | haltRequest (who : Who) (c : Fin 4) (v : Word)
  /-- MONITOR_RETURN (R492). A core returns from the monitor, ending freezes and taking pending halt requests. -/
  | monitorReturn (c : Fin 4)
  /-- TRACE_MARK (R495). A core's store to SP_MARK_DATA emits a trace packet if its class is enabled. -/
  | traceMark (c : Fin 4) (n : Nat) (v : Word) (at_ : Word)
  /-- TRACE_PACKET_WRITE (R496). A trace packet is written to the trace buffer or dropped and counted. -/
  | tracePacketWrite (c : Fin 4)
  /-- WATCHDOG_EXPIRY (R498). The watchdog reaches 0 and writes an SP_WATCHDOG record. -/
  | watchdogExpiry
  /-- SP_WDT_KICK (R498). A write of SP_WDT_KICK reloads the watchdog. -/
  | spWdtKick (who : Who)
  deriving DecidableEq, Repr

end Sys2Proof
end

