-- ==== Sys2Proof/Decode.lean ====
section
/-! DEFINITION. The table gives no row bits (spec/opcode_table.json): a command has no encoding, and no word spells one. -/

namespace Sys2Proof

/-- The command that a word spells by the table's bits: none, since no row has bits. -/
def decodeTableWord (_nbits _w : Nat) : Option Instr := none

end Sys2Proof
end

