-- ==== Sys2Proof/Machine/Dev2.lean ====
section
/-! DEFINITION. State of the lanes, links, configuration, service processor, host port and debug units: everything of
chapters 8, 9, 10, 12 and 15 of spec/ that is not a register. -/

namespace Sys2Proof.Machine

/-- A word of an elastic buffer (R264): a chaff word, or 8 bytes of a frame, with whether they are its last and whether the frame
is flagged bad. -/
structure EbWord where
  chaff : Bool := false
  bytes : List Byte := []
  last : Bool := false
  bad : Bool := false
  deriving DecidableEq, Repr

/-- A frame that a lane has delivered: its 512 bytes, and whether it is flagged bad (R260, R261, R264). -/
structure RxFrame where
  bytes : List Byte := []
  flagged : Bool := false
  deriving DecidableEq, Repr

/-- A lane beside its registers (R255 to R274). An eye-scan point in progress, a HALTED frame still to be sent, and whether a load
failure holds the lane idle. Transmitter: the taps in force, frames since the last chaff word, the frames of the FEC block so far,
the run that the line ends with, the PRBS generator's last bits and the bits it still has to flip, the symbols last sent, those at
the transmit pins, and those that a near loop has still to bring to the receiver. Receiver: consecutive markers and FEC block
words found and missed, the run of its input, bits before FEC decoding with the next codeword's number, bits with whether they come
from an uncorrectable codeword, words on their way to the elastic buffer, the buffer, whether the frame that arrives there has
lost a word, the frame that the link layer assembles, the frames delivered, and the PRBS checker's bits. -/
structure Lane where
  eye : Bool := false
  haltDue : Bool := false
  loadIdle : Bool := false
  fir : Word := 0x003F0000
  gap : Nat := 0
  block : List (List Bool) := []
  txRun : Run := {}
  prbs : Option (BitVec 31) := none
  inject : Nat := 0
  line : List Nat := []
  pins : List Nat := []
  loopQ : List Nat := []
  good : Nat := 0
  missed : Nat := 0
  goodFec : Nat := 0
  missedFec : Nat := 0
  rxRun : Run := {}
  rxRaw : List Bool := []
  cw : Nat := 0
  rxBits : List (Bool × Bool) := []
  pipe : List EbWord := []
  eb : List EbWord := []
  lost : Bool := false
  asm : List Byte := []
  asmBad : Bool := false
  frames : List RxFrame := []
  chk : BitVec 31 := 0
  chkCnt : Nat := 0
  deriving DecidableEq, Repr

/-- A DATA frame that a link has sent and keeps until it is acknowledged (R282), as sent, with the time when it was last sent. -/
structure Sent where
  seq : Nat
  body : List Byte
  tag : List Byte
  tmark : Bool
  time : Nat := 0
  deriving DecidableEq, Repr

/-- A message that waits to be sent in a CONTROL or MGMT slot (R290): local flag, destination position, 256 bits. -/
structure Msg where
  toLocal : Bool
  dst : Nat
  data : BitVec 256
  deriving DecidableEq, Repr

/-- A CONTROL message that the service processor has taken: the lane it came on, its source position, whether its frame was local. -/
structure InMsg where
  lane : Nat
  src : Nat
  toLocal : Bool
  data : BitVec 256
  deriving DecidableEq, Repr

/-- A link (R280 to R288, R290, R306 to R312). Sending: next sequence number and epoch, replay buffer, place of a replay
under way, whether a new ack came since the last replay and how many replays had none, the last sequence number
acknowledged, the ack value of the last nak taken and when, slots sent by class, the partner's freed counts and sync_used,
messages and credits that wait, forwarded frames that wait with the lane each came from, a time mark asked for, the last
frame sent. Receiving: expected sequence number and epoch, the last one accepted, nak, whether the partner has shown that
its link is ACTIVE, counts freed and bursts used, receive entries, the last HELLO. Keys taken at activation, and the LINK
key slots written since. -/
structure Link where
  seq : Nat := 0
  epochTx : Nat := 0
  buf : List Sent := []
  replay : Option Nat := none
  acked : Bool := true
  retries : Nat := 0
  ackSeq : Nat := 0
  nakSeen : Option Nat := none
  nakTime : Nat := 0
  ctlSent : Nat := 0
  mgmtSent : Nat := 0
  pCtl : Nat := 0
  pMgmt : Nat := 0
  pSync : Nat := 0
  ctlQ : List Msg := []
  mgmtQ : List Msg := []
  creditQ : List (Nat × Nat × Nat) := []
  fwd : List (Nat × List Byte) := []
  tmarkDue : Bool := false
  out : Option Frame := none
  expect : Nat := 0
  epochRx : Nat := 0
  accepted : Nat := 0
  nak : Bool := false
  partnerUp : Bool := false
  ctlFreed : Nat := 0
  mgmtFreed : Nat := 0
  syncUsed : Nat := 0
  ctlRx : List InMsg := []
  hello : List Byte := []
  txKey : List Byte := []
  rxKey : List Byte := []
  keyNew : BitVec 16 := 0
  deriving DecidableEq, Repr

/-- A 256-bit queue word of a stream context with its valid bytes, eom and poison, and the stored bits of it that an environment has
flipped: its 64-bit word w with the 8 check bits stands at places 72 w to 72 w + 71 (R300, R302). The data of a word that is `out`
stands in the spill area (R293). -/
structure QWord where
  data : List Byte
  valid : Nat
  eom : Bool
  poison : Bool := false
  flips : List Nat := []
  out : Bool := false
  deriving DecidableEq, Repr

/-- A context (Table 9.12, R291 to R303): DATA0 to DATA2, its queue oldest first with the oldest word's place in the spill area, the
open partial word, the time from which its stale timer runs or at which it became empty, credits freed and not yet returned with
the time of the oldest, bytes already read of the oldest word, its hot slot with the time it took it, its count of corrected
errors and its overflow flag. -/
structure Ctx where
  d0 : Word := 0x0000_0F00
  d1 : Word := 0
  d2 : Word := 0
  queue : List QWord := []
  head : Nat := 0
  part : List Byte := []
  since : Nat := 0
  freed : Nat := 0
  freedAt : Nat := 0
  taken : Nat := 0
  hot : Option (Nat × Nat) := none
  ce : Nat := 0
  overflow : Bool := false
  deriving DecidableEq, Repr

/-- A burst of synchronous words (R295, R296): the cycle's low three bits and the words. -/
structure Burst where
  cyc : Nat
  words : List (BitVec 256)
  deriving DecidableEq, Repr

/-- Channel traffic between the fabric and the links: samples of synchronous send contexts, bursts formed and not yet
sent by lane with the place in the oldest, words received by lane of a burst not yet complete, complete bursts held by
lane, presented words of receive contexts, and outputs of stream ports with those that show from the next launch (R298,
R300, R305). -/
structure Chan where
  samples : SMap (BitVec 256) := []
  formed : SMap (List Burst) := []
  place : SMap Nat := []
  partials : SMap (Option Burst) := []
  held : SMap (List Burst) := []
  presented : SMap (BitVec 256) := []
  streamOut : SMap Nat := []
  streamNext : SMap Nat := []
  deriving DecidableEq, Repr

/-- A device of the cluster, by position (R313, Table 12.9): serial number, hops to the manager, the position and lane on which it was
seen, and the SHA-384 of its identity public key. -/
structure Member where
  serial : Nat := 0
  hops : Nat := 0
  parent : Nat := 0
  lane : Nat := 0
  identity : List Byte := []
  deriving DecidableEq, Repr

/-- The manager's view of the cluster (R313 to R315): whether it is formed, its devices by position, the HELLO contents that workers have
reported (position, lane, content), the largest time offset seen in ns and its position, the positions that missed a stop-at, the load
failures of broadcast streams that workers reported (position, cause), and whether another manager was seen. -/
structure Cluster where
  formed : Bool := false
  members : List Member := []
  found : List (Nat × Nat × List Byte) := []
  offset : Nat := 0
  offsetPos : Nat := 0
  missed : List Nat := []
  loadFails : List (Nat × Nat) := []
  conflict : Bool := false
  deriving DecidableEq, Repr

/-- What the front end reads (R317 to R325): nothing, an accepted section's body, or a section it skips. -/
inductive Reading where
  | none | body | skip
  deriving DecidableEq, Repr

/-- The stream front end and frame writers beside their registers (chapter 10): whether a stream has started, whether it
has accepted a FULL section or any section, design_loaded at its start, the index of the section and the byte offset in
it, the section's bytes as stored so far, its length, kind, region, protection, the configuration registers of Table 10.3
(running check value as a CRC state), a FENCE that waits, frames that wait for a bulk clear or for their fields to leave
completion (frame address, offset in the section, bytes), a bulk clear in progress, the load-failure state, the digest of the last FULL section, and the fields
being reconfigured (R350), fields of a failed PARTIAL section that are cleared once they have left completion (R346), and
what other devices do to the CFG_DONE and CFG_ERR_N lines. -/
structure CfgState where
  started : Bool := false
  full : Bool := false
  any : Bool := false
  loadedAtStart : Bool := false
  section_ : Nat := 0
  offset : Nat := 0
  reading : Reading := .none
  stored : List Byte := []
  header : List Byte := []
  length : Nat := 0
  kind : Nat := 0
  region : BitVec 384 := 0
  enc : Bool := false
  key : List Byte := []
  iv : List Byte := []
  auth : Bool := false
  authKey : List Byte := []
  address : Nat := 0
  burst : Nat := 1
  check : BitVec 32 := 0xFFFFFFFF#32
  fence : Bool := false
  waiting : List (Nat × Nat × List Byte) := []
  clearing : Bool := false
  loadFailure : Bool := false
  digest : Word := 0
  reconf : List Nat := []
  toClear : List Nat := []
  doneHeld : Bool := false
  errHeld : Bool := false
  errDrive : Bool := false
  deriving DecidableEq, Repr

/-- The boot ROM (R395 to R397): straps of the last PORST_N, the staging area, whether core 0 has been started, whether an
attempt is under way and whether the doorbell began it, and the version and the bytes of the image that was started. -/
structure Boot where
  mode : Nat := 0
  role : Nat := 0
  staging : SMap Byte := []
  started : Bool := false
  attempt : Bool := true
  doorbell : Bool := false
  version : Word := 0
  image : List Byte := []
  deriving DecidableEq, Repr

/-- A command descriptor as fetched (Table 12.5): `rsvd` says whether a reserved flag or byte is set, `long` whether the
command is long, `busy` that four long commands were queued when it was fetched, `mute` that its responses are discarded
(R400, R405). -/
structure Desc where
  op : Nat := 0
  irq : Bool := false
  progress : Bool := false
  barrier : Bool := false
  rsvd : Bool := false
  tag : Word := 0
  session : Nat := 0
  p : List Byte := []
  long : Bool := false
  busy : Bool := false
  mute : Bool := false
  deriving DecidableEq, Repr

/-- A response (Table 12.6): tag, status, final and progress flags, unit kind, steps and result words, and whether its
command asked for an interrupt. -/
structure Rsp where
  tag : Word := 0
  irq : Bool := false
  status : Nat := 0
  final : Bool := true
  progress : Bool := false
  unitKind : Nat := 0
  steps : Nat := 0
  r : List Word := []
  deriving DecidableEq, Repr

/-- What a running long command still waits for, or does, before its final response. -/
inductive JobWait where
  | none
  | dieReset (bit : Nat)
  | fieldReset (f : Nat)
  | warm
  | loadData (host len at_ : Nat)
  | loadClose
  | pacerStopped
  | stateRead (host : Nat)
  | hbmInit (bases : List Nat)
  | hbmStacks (list : List Nat)
  | region (stack region target : Nat)
  | lanes (b : Nat) (lanes : List Nat)
  | prbs (n : Nat)
  | eye (n : Nat) (point : Nat) (host : Nat)
  | fieldWorld (f : Nat)
  | worldFlush
  | unwrap
  | lifecycle
  | wipes
  | relay (pos : Nat) (host : Nat)
  | cluster
  | form (encrypt : Bool)
  deriving DecidableEq, Repr

/-- A long command that runs (R408, R409): its descriptor, steps run, units done and total, the sixteenth of the last progress
response, what it waits for, its final status, unit kind and result words, what it has read, and when it started. -/
structure Job where
  desc : Desc
  steps : Nat := 0
  done : Nat := 0
  total : Nat := 1
  posted : Nat := 0
  wait : JobWait := .none
  status : Nat := 0
  unitKind : Nat := 0
  r : List Word := []
  data : List Byte := []
  since : Nat := 0
  deriving DecidableEq, Repr

/-- A mailbox beside its page registers (R402 to R410): commands fetched and not started, in ring order; the long command
that runs; responses held for room; when its last interrupt was sent and whether one is held; whether the core that has taken its next
command waits for an access of it. -/
structure Mailbox where
  fetched : List Desc := []
  job : Option Job := none
  held : List Rsp := []
  irqLast : Option Nat := none
  irqDue : Bool := false
  waits : Bool := false
  deriving DecidableEq, Repr

/-- What a checkpoint image holds (R417): storage elements, bytes and check marks of bins and tiles, tiles, data of bin and
latent-memory ports, presented words of receive contexts, PACE_COMMITTED, the design time of the next cycle, the digest. -/
structure Checkpoint where
  q : SMap Bool
  mem : Memory
  marks : SMap Mark
  tiles : SMap Tile
  binOut : SMap PortOut
  presented : SMap (BitVec 256)
  streamOut : SMap Nat
  committed : Nat
  time : Nat
  digest : Word
  deriving DecidableEq, Repr

/-- The host port (R398 to R413): window base of BAR2, host memory as the device has last seen or written it, MSI-X vectors sent
in order, pending bits, the host addresses whose accesses end in an error, the 4 KiB page of the last BAR2 fault run, the result of the
last BAR2 read, BAR2 accesses that wait (address, length, bytes of a write), whether the link is in L0 or L1. -/
structure HostPort where
  window : Nat := 0
  mem : SMap Byte := []
  vectors : List Nat := []
  pendingBits : BitVec 64 := 0
  fails : List Nat := []
  faultPage : Option Nat := none
  lastRead : List Byte := []
  waits : List (Nat × Nat × Option (List Byte)) := []
  linkUp : Bool := true
  deriving DecidableEq, Repr

/-- A session of service firmware 3.2 (R414): number, mailbox, whether it is a CAPTURE session, and for those the ring,
pre-trigger count, leased tiles, trigger site and kind, counts, state (0 open, 1 armed, 2 triggered, 3 done), trigger
cycle and samples. -/
structure Session where
  num : Nat
  mb : Nat
  capture : Bool
  base : Nat := 0
  size : Nat := 0
  pre : Nat := 0
  tiles : List Nat := []
  site : Nat := 0
  trig : Nat := 0
  nth : Nat := 0
  post : Nat := 0
  state : Nat := 0
  cycle : Nat := 0
  samples : List (Nat × List Bool) := []
  deriving DecidableEq, Repr

/-- Service firmware 3.2 (R414 to R419): open sessions, the next session number, the severity for vector 17, the 4 timers'
counts of R497, messages taken from the links, when a warm reset that DEV_RESET announced was answered (R470), the mailboxes whose
long commands the cores of the non-secure and of the secure world ran last (R410), and the checkpoint images written. -/
structure Firmware where
  sessions : List Session := []
  nextSession : Nat := 1
  irqSev : Nat := 2
  timers : List Nat := [0, 0, 0, 0]
  inbox : List InMsg := []
  warmAt : Option Nat := none
  turn : List Nat := [16, 16]
  images : List Checkpoint := []
  deriving DecidableEq, Repr

/-- The debug port (R481 to R487): a read whose access is pending with its header and address, its result when it is
ready, and the last answer: acknowledgment, data, CRC. -/
structure Debug where
  pending : Option (Nat × Nat) := none
  ready : Option (Option Word) := none
  ack : Nat := 0
  data : Word := 0
  crc : Nat := 0
  deriving DecidableEq, Repr

/-- A core (R490): program counter, status register, general registers g1 to g31 by number, whether it runs (a core that
does not is held in reset), and whether it executes one stepped instruction (R492). -/
structure CoreState where
  pc : Word := 0
  psr : BitVec 8 := 0
  g : SMap Word := []
  running : Bool := false
  stepping : Bool := false
  deriving DecidableEq, Repr

/-- The trace units (R495, R496): packet FIFOs by core, packet sequence numbers, lost flags, and a full buffer in STOP
mode. -/
structure Trace where
  fifo : SMap (List (List Byte)) := []
  seq : SMap Nat := []
  lost : List Nat := []
  full : Bool := false
  deriving DecidableEq, Repr

end Sys2Proof.Machine
end

