-- ==== Sys2Proof/Machine/Dev.lean ====
section
/-! DEFINITION. The device: every piece of state the spec gives it, but for the fuses and the queue of commands
(Machine/State.lean). -/

namespace Sys2Proof.Machine

/-- The fuses (R426, R427, R430, R432, R433, Table 13.2): the lifecycle's five thermometer bits of three fuses each (bit
3 i + k is fuse k of thermometer bit i), the serial number, the hash of the customer root key, and what lifecycle action 0x02
blows: partition_mb, tamper enables (Table 13.8), the authentication policy and the mailbox worlds; the security
version counter of firmware images (R396); and the device-unique key (R427). -/
structure Fuses where
  life : BitVec 15 := 0
  serial : BitVec 64 := 0
  rootHash : BitVec 384 := 0
  partition : BitVec 8 := 0
  tamper : BitVec 8 := 0
  policy : BitVec 8 := 0
  mbxWorld : BitVec 16 := 0
  secVersion : Nat := 0
  duk : BitVec 256 := 0
  deriving DecidableEq, Repr

/-- The device's state. `regs` holds every register word that differs from its reset word (Machine/Registers.lean),
`latch` the _HI latches of R514 by the address of the _LO word: none while empty. -/
structure Dev where
  regs : SMap Word := []
  latch : SMap (Option Word) := []
  mem : Memory := []
  marks : SMap Mark := []
  fab : Fabric := {}
  flds : SMap FieldDyn := []
  effDelay : SMap Nat := []
  effMargin : SMap Nat := []
  trimDue : SMap Nat := []
  pac : Pacer := {}
  sio : Sio := {}
  binOut : SMap PortOut := []
  binCtl : SMap Word := []
  tiles : SMap Tile := []
  ports : SMap PortOut := []
  latentWrites : List LatentReq := []
  bacts : List BAct := []
  noc : Noc := {}
  rc : Rcache := {}
  lat : SMap LatLink := []
  bud : SMap Budget := []
  stk : SMap Stack := []
  msec : Memsec := {}
  errs : SMap ErrDie := []
  log : ErrLog := {}
  errIrq : BitVec 16 := 0
  scrub : Scrub := {}
  sec : Sec := {}
  pwr : Power := {}
  lanes : SMap Lane := []
  links : SMap Link := []
  ctxs : SMap Ctx := []
  slots : SMap Nat := []
  chan : Chan := {}
  cluster : Cluster := {}
  cfg : CfgState := {}
  boot : Boot := {}
  mbs : SMap Mailbox := []
  host : HostPort := {}
  fw : Firmware := {}
  dbg : Debug := {}
  cores : SMap CoreState := []
  trace : Trace := {}
  free : Nat := 0
  deriving DecidableEq, Repr

end Sys2Proof.Machine
end

