-- ==== Sys2Proof/Machine/State.lean ====
section
/-! DEFINITION. The state of the block: the fuses, the device and the queue of waiting commands; its state after reset; the
reasons a command can stop. -/

namespace Sys2Proof.Machine

/-- Why a command stops with a fault. -/
inductive Fault where
  /-- REGISTER_WRITE at an address that is not a multiple of 4: R37 and R401 say that software and the host must use aligned
  32-bit accesses, and R13 that the device guarantees no behavior where such a duty is broken. Safe: the model stops where the
  device would do something that the spec does not say. -/
  | unguaranteed
  deriving DecidableEq, Repr

/-- Why a command is refused. -/
inductive Refusal where
  /-- A command without a meaning in the model: no command of the table is. Safe: the model stops. -/
  | notModelled (mnemonic : String)
  deriving DecidableEq, Repr

/-- The block. `fuses` are one-time programmable: only FUSE_BLOW_DONE writes them. `pending` are the commands that wait,
first in, first out. -/
structure State where
  fuses : Fuses := {}
  dev : Dev := {}
  pending : List Instr := []
  deriving DecidableEq, Repr

/-- The machine right after power-on reset and the release of PORST_N, boot mode and role strapped 0: every register at its
reset word, the compute dies held in per-die reset, the base dies out of it, the boot ROM running. -/
def State.reset : State := {}

end Sys2Proof.Machine
end

