-- ==== Sys2Proof/Config.lean ====
section
/-! DEFINITION. What an implementation fixes and what the spec leaves open. Constants with a body are named by the spec or
are choices that a log entry names; an `opaque` constant has no body, so no proof can see its value. -/

namespace Sys2Proof

/-- A value the spec leaves open (log entry 1): the n-th open value drawn by a run. No body: nothing can compute it. -/
opaque Config.free : Nat → BitVec 512

/-- The design clock and edge that a latent-memory write port's configuration names (R117), by field and port: the clock
number, and true for a falling edge. Where a field's configuration holds it is in the device database (log entry 24). -/
opaque Config.latentClock : Nat → Nat → Nat × Bool

/-- The design clock and edge of a stream port (R300), as `Config.latentClock`. -/
opaque Config.streamClock : Nat → Nat → Nat × Bool

/-- AES-256-GCM: the keystream byte at a place, from key and nonce (log entry 4). -/
opaque Config.gcmStream : List Byte → List Byte → Nat → Byte

/-- AES-256-GCM: the 128-bit tag, from key, nonce, additional data and ciphertext (log entry 4). -/
opaque Config.gcmTag : List Byte → List Byte → List Byte → List Byte → List Byte

/-- The 96-bit nonce of a counter block's tag: stack, level, index, parent counter (R244; the spec does not say how they form it,
log entry 144). -/
opaque Config.blockNonce : Nat → Nat → Nat → Nat → List Byte

/-- The frame bits [4095:32] that a lane's transmitter sends where it has no link frame to send (log entry 151). -/
opaque Config.fillFrame : List Byte

/-- The 31 bits that a lane's PRBS generator starts from (R273; log entry 152). -/
opaque Config.prbsSeed : BitVec 31

/-- A key that the device generates for a link in key agreement (R313 step 4), by round. -/
opaque Config.agreedKey : Nat → List Byte

/-- The signal that an output wire of a hard-block gap carries (R516): hard-block column, stook row, wire number. The numbering
is in the device database (log entry 24); `Dev.gapSignal` says which signals stand at a row. -/
opaque Config.gapWire : Nat → Nat → Nat → Nat

/-- Which of several driven segments of one class, direction and index, all cut at a die edge, a switch point takes at the edge
stook, by wire-register slot (R515, R517; log entry 19). -/
opaque Config.edgeEnd : Nat → Nat

/-- The packets that a buffer of a router holds (R194): the spec gives no depth, at least one fits (log entry 137). -/
opaque Config.routerBuffer : Nat

/-- The route id that a source's own configuration gives a message to a destination node (R190; log entry 136). -/
opaque Config.ownRoute : Nat → Nat → Nat

/-- A message of service firmware 3.2 between the devices of a cluster. Of runs (R145): start at a wall time, in ticks, with the cycle
number at which the run begins; stop at a cycle; drop an armed stop-at; a stop-at was missed. Of the cluster's forming (R313): a
device's position and hops; a HELLO that a worker has latched on a lane; the SHA-384 of a worker's identity key; the lane of a
route; a link's settings, with its key slot where it is to be encrypted; the cause of a load failure of a broadcast stream (R347); a CONTROL message to be sent on over a lane to a device
that has no position, and such a device's answer. -/
inductive ClusterMsg where
  | start (time cycle : Nat)
  | stopAt (cycle : Nat)
  | disarm
  | missed
  | position (pos hops : Nat)
  | report (lane : Nat) (hello : List (BitVec 8))
  | identity (hash : List (BitVec 8))
  | route (dst lane : Nat)
  | link (lane partner : Nat) (slot : Option Nat)
  | loadFailed (cause : Nat)
  | onward (lane : Nat) (word : BitVec 256)
  | answer (lane : Nat) (word : BitVec 256)
  deriving DecidableEq, Repr, Inhabited

/-- The CONTROL messages that carry a cluster message, and the cluster message that CONTROL messages from one device begin with, with
how many they are: the spec gives no format (log entry 143). -/
opaque Config.clusterWords : ClusterMsg → List (BitVec 256)
opaque Config.clusterRead : List (BitVec 256) → Option (ClusterMsg × Nat)

/-- The state that a map entry reports of a device of the cluster: whether its position is assigned and its link is lost (Table 12.9 gives
no values). -/
opaque Config.mapState : Bool → BitVec 8

/-- The 8 bytes that follow a queue word's data in the spill area: how its valid bytes, eom and poison stand there is not in the spec (log
entry 155). -/
opaque Config.spillTag : Nat → Bool → Bool → List (BitVec 8)

/-- The link-channel context that a field's channel port is bound to (R292), by field and port: the binding is in the
device database (log entry 24). -/
opaque Config.portContext : Nat → Nat → Nat

/-- ECDSA P-384 verification: public key, SHA-384 digest, signature (log entry 4). -/
opaque Config.ecdsaVerify : List Byte → List Byte → List Byte → Bool

/-- What the header of a firmware image holds (R396): its magic value, version as in ID_FW_VERSION, security version, length of header and
body, entry offset, and the public key that goes with its signature. -/
structure ImageHeader where
  magic : Nat := 0
  version : Word := 0
  security : Nat := 0
  length : Nat := 0
  entry : Nat := 0
  key : List Byte := []
  deriving DecidableEq, Repr, Inhabited

/-- The header in the first 256 bytes of an image. Where its fields stand is not in the spec (log entry 158). -/
opaque Config.imageHeader : List Byte → ImageHeader

/-- SHA-384 (log entry 4). -/
opaque Config.sha384 : List Byte → List Byte

/-- HMAC-SHA-384: key, message (log entry 4). -/
opaque Config.hmac384 : List Byte → List Byte → List Byte

/-- The P-384 public key, x then y, of a private key (log entry 4). -/
opaque Config.p384Public : Nat → List Byte

/-- The x-coordinate of the P-384 ECDH shared secret of a private key and a public key (log entry 4). -/
opaque Config.ecdh384 : Nat → List Byte → List Byte

/-- The fused hash of the Wesifort key that signs firmware images (R396). -/
opaque Config.bootHash : List Byte

/-- The fused hash of the Wesifort maker key (R432). -/
opaque Config.makerHash : List Byte

/-- A SEC-DED syndrome (R378, bytes 32-39) for a set of flipped bits: the code's matrix is not in the spec. -/
opaque Config.syndrome : List Nat → Nat

/-- Values that service firmware 3.2 holds for a timing set at a rate code (R520): the LAT, ROW and REF registers. -/
opaque Config.timing : Nat → Word × Word × Word

/-- Stepping of a compute die (R218). DESIGN CHOICE, log entry 5: every compute die is of stepping B1. -/
def Config.stepping (_d : Nat) : Nat := 0xB1

end Sys2Proof
end

