-- ==== Sys2Proof/Machine/Registers.lean ====
section
/-! DEFINITION. The device's registers, written from the register tables of spec/ (Tables 2.10, 3.1, 3.5, 3.6, 4.5, 4.6,
5.5, 5.8, 6.10 to 6.12, 7.10, 7.11, 8.8, 8.9, 9.11, 10.13, 10.14, 11.10 to 11.13, 12.3, 12.4, 13.11, 13.12, 14.8 to 14.11,
15.8 and 15.9). A register is named by its register-space address (R38); a BAR0 register (R401) by 0x1_0000_0000 plus its
BAR0 offset. `Reg.<NAME>` is the address and `Reg.<NAME>_<field>` the field of it, over the die selector `d` (for a block
that stands on several dies) and the instance numbers `i j k` of R40, in the order of the strides, largest first. -/

namespace Sys2Proof.Machine

/-- Access types of Table 0.4 (R9). -/
inductive Access where
  | rw | ro | wo | w1c | w1s | rwl
  deriving DecidableEq, Repr

/-- One field of a register: where its address, its least significant bit and its width are. -/
structure Fld where
  addr : Nat
  lsb : Nat
  w : Nat
  deriving DecidableEq, Repr

/-- One field of a register table: its least significant bit, width and access type. -/
structure FieldSpec where
  lsb : Nat
  w : Nat
  acc : Access
  deriving DecidableEq, Repr

/-- One row of a register table: where it is present (bit 0 compute dies, bit 1 base dies, bit 2 package, bit 3 BAR0),
its offset in the block, its instance strides with counts (R40, largest stride first), its reset word and its fields. -/
structure RegSpec where
  scope : Nat
  base : Nat
  dims : List (Nat × Nat)
  reset : Nat
  fields : List FieldSpec
  deriving DecidableEq, Repr

/-- Table 2.10. -/
abbrev Reg.FAB_FIELD_LOADED (d : Nat) : Nat := 0x10000 + d * 0x1000000
abbrev Reg.FAB_FIELD_LOADED_loaded (d : Nat) : Fld := ⟨(Reg.FAB_FIELD_LOADED d), 0, 32⟩
/-- Table 2.10. -/
abbrev Reg.FAB_BRIDGE_STATUS (d : Nat) : Nat := 0x10004 + d * 0x1000000
abbrev Reg.FAB_BRIDGE_STATUS_present0 (d : Nat) : Fld := ⟨(Reg.FAB_BRIDGE_STATUS d), 0, 1⟩
abbrev Reg.FAB_BRIDGE_STATUS_far_reset0 (d : Nat) : Fld := ⟨(Reg.FAB_BRIDGE_STATUS d), 1, 1⟩
abbrev Reg.FAB_BRIDGE_STATUS_holding0 (d : Nat) : Fld := ⟨(Reg.FAB_BRIDGE_STATUS d), 2, 1⟩
abbrev Reg.FAB_BRIDGE_STATUS_present1 (d : Nat) : Fld := ⟨(Reg.FAB_BRIDGE_STATUS d), 4, 1⟩
abbrev Reg.FAB_BRIDGE_STATUS_far_reset1 (d : Nat) : Fld := ⟨(Reg.FAB_BRIDGE_STATUS d), 5, 1⟩
abbrev Reg.FAB_BRIDGE_STATUS_holding1 (d : Nat) : Fld := ⟨(Reg.FAB_BRIDGE_STATUS d), 6, 1⟩
abbrev Reg.FAB_BRIDGE_STATUS_present2 (d : Nat) : Fld := ⟨(Reg.FAB_BRIDGE_STATUS d), 8, 1⟩
abbrev Reg.FAB_BRIDGE_STATUS_far_reset2 (d : Nat) : Fld := ⟨(Reg.FAB_BRIDGE_STATUS d), 9, 1⟩
abbrev Reg.FAB_BRIDGE_STATUS_holding2 (d : Nat) : Fld := ⟨(Reg.FAB_BRIDGE_STATUS d), 10, 1⟩
abbrev Reg.FAB_BRIDGE_STATUS_present3 (d : Nat) : Fld := ⟨(Reg.FAB_BRIDGE_STATUS d), 12, 1⟩
abbrev Reg.FAB_BRIDGE_STATUS_far_reset3 (d : Nat) : Fld := ⟨(Reg.FAB_BRIDGE_STATUS d), 13, 1⟩
abbrev Reg.FAB_BRIDGE_STATUS_holding3 (d : Nat) : Fld := ⟨(Reg.FAB_BRIDGE_STATUS d), 14, 1⟩
/-- Table 2.10. -/
abbrev Reg.FAB_BRIDGE_HOLD (d : Nat) : Nat := 0x10008 + d * 0x1000000
abbrev Reg.FAB_BRIDGE_HOLD_hold_sel (d : Nat) : Fld := ⟨(Reg.FAB_BRIDGE_HOLD d), 0, 8⟩
/-- Table 2.10. -/
abbrev Reg.FAB_CAPTURE_SEEN (d : Nat) : Nat := 0x1000c + d * 0x1000000
abbrev Reg.FAB_CAPTURE_SEEN_seen (d : Nat) : Fld := ⟨(Reg.FAB_CAPTURE_SEEN d), 0, 32⟩
/-- Table 3.1. -/
abbrev Reg.PACE_WAVE_CFG : Nat := 0x20020800
abbrev Reg.PACE_WAVE_CFG_waves_m1 : Fld := ⟨Reg.PACE_WAVE_CFG, 0, 4⟩
/-- Table 3.1. -/
abbrev Reg.PACE_WAVE_LIMIT : Nat := 0x20020804
abbrev Reg.PACE_WAVE_LIMIT_limit_us : Fld := ⟨Reg.PACE_WAVE_LIMIT, 0, 24⟩
/-- Table 3.1. -/
abbrev Reg.PACE_CLK_STATUS : Nat := 0x20020808
abbrev Reg.PACE_CLK_STATUS_empty : Fld := ⟨Reg.PACE_CLK_STATUS, 0, 1⟩
abbrev Reg.PACE_CLK_STATUS_write_refused : Fld := ⟨Reg.PACE_CLK_STATUS, 1, 1⟩
abbrev Reg.PACE_CLK_STATUS_time_end : Fld := ⟨Reg.PACE_CLK_STATUS, 2, 1⟩
abbrev Reg.PACE_CLK_STATUS_wave_timeout : Fld := ⟨Reg.PACE_CLK_STATUS, 3, 1⟩
/-- Table 3.1. -/
abbrev Reg.PACE_CLK_LEVEL0 : Nat := 0x20020810
abbrev Reg.PACE_CLK_LEVEL0_level : Fld := ⟨Reg.PACE_CLK_LEVEL0, 0, 32⟩
/-- Table 3.1. -/
abbrev Reg.PACE_CLK_LEVEL1 : Nat := 0x20020814
abbrev Reg.PACE_CLK_LEVEL1_level : Fld := ⟨Reg.PACE_CLK_LEVEL1, 0, 32⟩
/-- Table 3.1. -/
abbrev Reg.PACE_CLK_EDGE0 : Nat := 0x20020818
abbrev Reg.PACE_CLK_EDGE0_edge : Fld := ⟨Reg.PACE_CLK_EDGE0, 0, 32⟩
/-- Table 3.1. -/
abbrev Reg.PACE_CLK_EDGE1 : Nat := 0x2002081c
abbrev Reg.PACE_CLK_EDGE1_edge : Fld := ⟨Reg.PACE_CLK_EDGE1, 0, 32⟩
/-- Table 3.1. -/
abbrev Reg.PACE_CLK_INVALID0 : Nat := 0x20020820
abbrev Reg.PACE_CLK_INVALID0_invalid : Fld := ⟨Reg.PACE_CLK_INVALID0, 0, 32⟩
/-- Table 3.1. -/
abbrev Reg.PACE_CLK_INVALID1 : Nat := 0x20020824
abbrev Reg.PACE_CLK_INVALID1_invalid : Fld := ⟨Reg.PACE_CLK_INVALID1, 0, 32⟩
/-- Table 3.1. -/
abbrev Reg.PACE_CYCLE_TIME_LO : Nat := 0x20020828
abbrev Reg.PACE_CYCLE_TIME_LO_time : Fld := ⟨Reg.PACE_CYCLE_TIME_LO, 0, 32⟩
/-- Table 3.1. -/
abbrev Reg.PACE_CYCLE_TIME_HI : Nat := 0x2002082c
abbrev Reg.PACE_CYCLE_TIME_HI_time : Fld := ⟨Reg.PACE_CYCLE_TIME_HI, 0, 32⟩
/-- Table 3.1. -/
abbrev Reg.PACE_DCLK_PERIOD (i : Nat) : Nat := 0x20020900 + i * 0x10
abbrev Reg.PACE_DCLK_PERIOD_period (i : Nat) : Fld := ⟨(Reg.PACE_DCLK_PERIOD i), 0, 32⟩
/-- Table 3.1. -/
abbrev Reg.PACE_DCLK_RISE (i : Nat) : Nat := 0x20020904 + i * 0x10
abbrev Reg.PACE_DCLK_RISE_rise (i : Nat) : Fld := ⟨(Reg.PACE_DCLK_RISE i), 0, 32⟩
/-- Table 3.1. -/
abbrev Reg.PACE_DCLK_HIGH (i : Nat) : Nat := 0x20020908 + i * 0x10
abbrev Reg.PACE_DCLK_HIGH_high (i : Nat) : Fld := ⟨(Reg.PACE_DCLK_HIGH i), 0, 32⟩
/-- Table 3.1. -/
abbrev Reg.PACE_DCLK_CTL (i : Nat) : Nat := 0x2002090c + i * 0x10
abbrev Reg.PACE_DCLK_CTL_enable (i : Nat) : Fld := ⟨(Reg.PACE_DCLK_CTL i), 0, 1⟩
/-- Table 3.5. -/
abbrev Reg.FAB_WAVE_CTL (d : Nat) : Nat := 0x10100 + d * 0x1000000
abbrev Reg.FAB_WAVE_CTL_margin (d : Nat) : Fld := ⟨(Reg.FAB_WAVE_CTL d), 0, 6⟩
/-- Table 3.5. -/
abbrev Reg.FAB_WAVE_SPACING (d : Nat) : Nat := 0x10104 + d * 0x1000000
abbrev Reg.FAB_WAVE_SPACING_spacing (d : Nat) : Fld := ⟨(Reg.FAB_WAVE_SPACING d), 0, 12⟩
/-- Table 3.5. -/
abbrev Reg.FAB_CAL_CTL (d : Nat) : Nat := 0x10108 + d * 0x1000000
abbrev Reg.FAB_CAL_CTL_pause (d : Nat) : Fld := ⟨(Reg.FAB_CAL_CTL d), 0, 1⟩
abbrev Reg.FAB_CAL_CTL_cal_now (d : Nat) : Fld := ⟨(Reg.FAB_CAL_CTL d), 1, 1⟩
/-- Table 3.5. -/
abbrev Reg.FAB_CAL_STATUS (d : Nat) : Nat := 0x1010c + d * 0x1000000
abbrev Reg.FAB_CAL_STATUS_busy (d : Nat) : Fld := ⟨(Reg.FAB_CAL_STATUS d), 0, 1⟩
abbrev Reg.FAB_CAL_STATUS_pause_overridden (d : Nat) : Fld := ⟨(Reg.FAB_CAL_STATUS d), 1, 1⟩
abbrev Reg.FAB_CAL_STATUS_cal_temp (d : Nat) : Fld := ⟨(Reg.FAB_CAL_STATUS d), 7, 9⟩
abbrev Reg.FAB_CAL_STATUS_cal_count (d : Nat) : Fld := ⟨(Reg.FAB_CAL_STATUS d), 16, 16⟩
/-- Table 3.5. -/
abbrev Reg.FAB_WAVE_PENDING (d : Nat) : Nat := 0x10110 + d * 0x1000000
abbrev Reg.FAB_WAVE_PENDING_pending (d : Nat) : Fld := ⟨(Reg.FAB_WAVE_PENDING d), 0, 32⟩
/-- Table 3.5. -/
abbrev Reg.FAB_TIMEOUT_FIELDS (d : Nat) : Nat := 0x10114 + d * 0x1000000
abbrev Reg.FAB_TIMEOUT_FIELDS_timed_out (d : Nat) : Fld := ⟨(Reg.FAB_TIMEOUT_FIELDS d), 0, 32⟩
/-- Table 3.5. -/
abbrev Reg.FAB_PARTICIPATE (d : Nat) : Nat := 0x10118 + d * 0x1000000
abbrev Reg.FAB_PARTICIPATE_part (d : Nat) : Fld := ⟨(Reg.FAB_PARTICIPATE d), 0, 32⟩
/-- Table 3.5. -/
abbrev Reg.FAB_FIELD_EXCLUDE (d : Nat) : Nat := 0x1011c + d * 0x1000000
abbrev Reg.FAB_FIELD_EXCLUDE_exclude (d : Nat) : Fld := ⟨(Reg.FAB_FIELD_EXCLUDE d), 0, 32⟩
/-- Table 3.5. -/
abbrev Reg.FAB_FROZEN (d : Nat) : Nat := 0x10120 + d * 0x1000000
abbrev Reg.FAB_FROZEN_frozen (d : Nat) : Fld := ⟨(Reg.FAB_FROZEN d), 0, 32⟩
/-- Table 3.6. -/
abbrev Reg.FAB_FLD_STATUS (d i : Nat) : Nat := 0x11000 + d * 0x1000000 + i * 0x200
abbrev Reg.FAB_FLD_STATUS_wave (d i : Nat) : Fld := ⟨(Reg.FAB_FLD_STATUS d i), 0, 4⟩
abbrev Reg.FAB_FLD_STATUS_state (d i : Nat) : Fld := ⟨(Reg.FAB_FLD_STATUS d i), 4, 3⟩
/-- Table 3.6. -/
abbrev Reg.FAB_FLD_TRIM (d i : Nat) : Nat := 0x11004 + d * 0x1000000 + i * 0x200
abbrev Reg.FAB_FLD_TRIM_trim (d i : Nat) : Fld := ⟨(Reg.FAB_FLD_TRIM d i), 0, 10⟩
/-- Table 3.6. -/
abbrev Reg.FAB_FLD_WAVE_TIME (d i : Nat) : Nat := 0x11008 + d * 0x1000000 + i * 0x200
abbrev Reg.FAB_FLD_WAVE_TIME_steps (d i : Nat) : Fld := ⟨(Reg.FAB_FLD_WAVE_TIME d i), 0, 16⟩
abbrev Reg.FAB_FLD_WAVE_TIME_dock_waits (d i : Nat) : Fld := ⟨(Reg.FAB_FLD_WAVE_TIME d i), 16, 16⟩
/-- Table 3.6. -/
abbrev Reg.FAB_FLD_WDELAY (d i j : Nat) : Nat := 0x11010 + d * 0x1000000 + i * 0x200 + j * 0x4
abbrev Reg.FAB_FLD_WDELAY_delay_a (d i j : Nat) : Fld := ⟨(Reg.FAB_FLD_WDELAY d i j), 0, 12⟩
abbrev Reg.FAB_FLD_WDELAY_delay_b (d i j : Nat) : Fld := ⟨(Reg.FAB_FLD_WDELAY d i j), 16, 12⟩
/-- Table 3.6. -/
abbrev Reg.FAB_FLD_TAP (d i j : Nat) : Nat := 0x11100 + d * 0x1000000 + i * 0x200 + j * 0x4
abbrev Reg.FAB_FLD_TAP_col (d i j : Nat) : Fld := ⟨(Reg.FAB_FLD_TAP d i j), 0, 5⟩
abbrev Reg.FAB_FLD_TAP_row (d i j : Nat) : Fld := ⟨(Reg.FAB_FLD_TAP d i j), 5, 5⟩
abbrev Reg.FAB_FLD_TAP_sheaf (d i j : Nat) : Fld := ⟨(Reg.FAB_FLD_TAP d i j), 10, 3⟩
abbrev Reg.FAB_FLD_TAP_mc (d i j : Nat) : Fld := ⟨(Reg.FAB_FLD_TAP d i j), 13, 4⟩
abbrev Reg.FAB_FLD_TAP_src (d i j : Nat) : Fld := ⟨(Reg.FAB_FLD_TAP d i j), 17, 1⟩
abbrev Reg.FAB_FLD_TAP_en (d i j : Nat) : Fld := ⟨(Reg.FAB_FLD_TAP d i j), 18, 1⟩
/-- Table 4.5. -/
abbrev Reg.PACE_CTL : Nat := 0x20020000
abbrev Reg.PACE_CTL_mode : Fld := ⟨Reg.PACE_CTL, 0, 2⟩
abbrev Reg.PACE_CTL_lost_policy : Fld := ⟨Reg.PACE_CTL, 2, 2⟩
/-- Table 4.5. -/
abbrev Reg.PACE_CMD : Nat := 0x20020004
abbrev Reg.PACE_CMD_cmd : Fld := ⟨Reg.PACE_CMD, 0, 3⟩
abbrev Reg.PACE_CMD_at_time : Fld := ⟨Reg.PACE_CMD, 3, 1⟩
/-- Table 4.5. -/
abbrev Reg.PACE_STATUS : Nat := 0x20020008
abbrev Reg.PACE_STATUS_running : Fld := ⟨Reg.PACE_STATUS, 0, 1⟩
abbrev Reg.PACE_STATUS_degraded : Fld := ⟨Reg.PACE_STATUS, 1, 1⟩
abbrev Reg.PACE_STATUS_lost : Fld := ⟨Reg.PACE_STATUS, 2, 1⟩
abbrev Reg.PACE_STATUS_cmd_refused : Fld := ⟨Reg.PACE_STATUS, 3, 1⟩
abbrev Reg.PACE_STATUS_stop_at_missed : Fld := ⟨Reg.PACE_STATUS, 4, 1⟩
abbrev Reg.PACE_STATUS_stop_at_armed : Fld := ⟨Reg.PACE_STATUS, 5, 1⟩
abbrev Reg.PACE_STATUS_stop_cause : Fld := ⟨Reg.PACE_STATUS, 6, 4⟩
abbrev Reg.PACE_STATUS_tb_forced : Fld := ⟨Reg.PACE_STATUS, 10, 1⟩
/-- Table 4.5. -/
abbrev Reg.PACE_RATIO_FRAC : Nat := 0x2002000c
abbrev Reg.PACE_RATIO_FRAC_frac : Fld := ⟨Reg.PACE_RATIO_FRAC, 0, 32⟩
/-- Table 4.5. -/
abbrev Reg.PACE_RATIO_INT : Nat := 0x20020010
abbrev Reg.PACE_RATIO_INT_int : Fld := ⟨Reg.PACE_RATIO_INT, 0, 32⟩
/-- Table 4.5. -/
abbrev Reg.PACE_T0_LO : Nat := 0x20020018
abbrev Reg.PACE_T0_LO_t0 : Fld := ⟨Reg.PACE_T0_LO, 0, 32⟩
/-- Table 4.5. -/
abbrev Reg.PACE_T0_HI : Nat := 0x2002001c
abbrev Reg.PACE_T0_HI_t0 : Fld := ⟨Reg.PACE_T0_HI, 0, 32⟩
/-- Table 4.5. -/
abbrev Reg.PACE_START_TIME_LO : Nat := 0x20020020
abbrev Reg.PACE_START_TIME_LO_s : Fld := ⟨Reg.PACE_START_TIME_LO, 0, 32⟩
/-- Table 4.5. -/
abbrev Reg.PACE_START_TIME_HI : Nat := 0x20020024
abbrev Reg.PACE_START_TIME_HI_s : Fld := ⟨Reg.PACE_START_TIME_HI, 0, 32⟩
/-- Table 4.5. -/
abbrev Reg.PACE_COMMITTED_LO : Nat := 0x20020028
abbrev Reg.PACE_COMMITTED_LO_count : Fld := ⟨Reg.PACE_COMMITTED_LO, 0, 32⟩
/-- Table 4.5. -/
abbrev Reg.PACE_COMMITTED_HI : Nat := 0x2002002c
abbrev Reg.PACE_COMMITTED_HI_count : Fld := ⟨Reg.PACE_COMMITTED_HI, 0, 32⟩
/-- Table 4.5. -/
abbrev Reg.PACE_STEP_COUNT_LO : Nat := 0x20020030
abbrev Reg.PACE_STEP_COUNT_LO_n : Fld := ⟨Reg.PACE_STEP_COUNT_LO, 0, 32⟩
/-- Table 4.5. -/
abbrev Reg.PACE_STEP_COUNT_HI : Nat := 0x20020034
abbrev Reg.PACE_STEP_COUNT_HI_n : Fld := ⟨Reg.PACE_STEP_COUNT_HI, 0, 32⟩
/-- Table 4.5. -/
abbrev Reg.PACE_STOP_AT_LO : Nat := 0x20020038
abbrev Reg.PACE_STOP_AT_LO_c : Fld := ⟨Reg.PACE_STOP_AT_LO, 0, 32⟩
/-- Table 4.5. -/
abbrev Reg.PACE_STOP_AT_HI : Nat := 0x2002003c
abbrev Reg.PACE_STOP_AT_HI_c : Fld := ⟨Reg.PACE_STOP_AT_HI, 0, 32⟩
/-- Table 4.5. -/
abbrev Reg.PACE_DEBT_LO : Nat := 0x20020040
abbrev Reg.PACE_DEBT_LO_debt : Fld := ⟨Reg.PACE_DEBT_LO, 0, 32⟩
/-- Table 4.5. -/
abbrev Reg.PACE_DEBT_HI : Nat := 0x20020044
abbrev Reg.PACE_DEBT_HI_debt : Fld := ⟨Reg.PACE_DEBT_HI, 0, 16⟩
/-- Table 4.5. -/
abbrev Reg.PACE_LOST_BOUND : Nat := 0x20020048
abbrev Reg.PACE_LOST_BOUND_bound : Fld := ⟨Reg.PACE_LOST_BOUND, 0, 32⟩
/-- Table 4.5. -/
abbrev Reg.PACE_LOST_COUNT : Nat := 0x2002004c
abbrev Reg.PACE_LOST_COUNT_count : Fld := ⟨Reg.PACE_LOST_COUNT, 0, 32⟩
/-- Table 4.5. -/
abbrev Reg.PACE_TB_LO : Nat := 0x20020050
abbrev Reg.PACE_TB_LO_ticks : Fld := ⟨Reg.PACE_TB_LO, 0, 32⟩
/-- Table 4.5. -/
abbrev Reg.PACE_TB_HI : Nat := 0x20020054
abbrev Reg.PACE_TB_HI_ticks : Fld := ⟨Reg.PACE_TB_HI, 0, 32⟩
/-- Table 4.5. -/
abbrev Reg.PACE_TB_ADJ : Nat := 0x20020058
abbrev Reg.PACE_TB_ADJ_adj : Fld := ⟨Reg.PACE_TB_ADJ, 0, 32⟩
/-- Table 4.5. -/
abbrev Reg.PACE_TB_CTL : Nat := 0x2002005c
abbrev Reg.PACE_TB_CTL_use_ref : Fld := ⟨Reg.PACE_TB_CTL, 0, 1⟩
abbrev Reg.PACE_TB_CTL_osc_cal_valid : Fld := ⟨Reg.PACE_TB_CTL, 1, 1⟩
/-- Table 4.5. -/
abbrev Reg.PACE_REF_FREQ : Nat := 0x20020060
abbrev Reg.PACE_REF_FREQ_khz : Fld := ⟨Reg.PACE_REF_FREQ, 0, 24⟩
/-- Table 4.5. -/
abbrev Reg.PACE_LATE_COUNT : Nat := 0x20020064
abbrev Reg.PACE_LATE_COUNT_count : Fld := ⟨Reg.PACE_LATE_COUNT, 0, 32⟩
/-- Table 4.5. -/
abbrev Reg.PACE_RESUME_TIME_LO : Nat := 0x20020068
abbrev Reg.PACE_RESUME_TIME_LO_time : Fld := ⟨Reg.PACE_RESUME_TIME_LO, 0, 32⟩
/-- Table 4.5. -/
abbrev Reg.PACE_RESUME_TIME_HI : Nat := 0x2002006c
abbrev Reg.PACE_RESUME_TIME_HI_time : Fld := ⟨Reg.PACE_RESUME_TIME_HI, 0, 32⟩
/-- Table 4.6. -/
abbrev Reg.SIO_PIN_CTL (i : Nat) : Nat := 0x20180000 + i * 0x4
abbrev Reg.SIO_PIN_CTL_mode (i : Nat) : Fld := ⟨(Reg.SIO_PIN_CTL i), 0, 2⟩
abbrev Reg.SIO_PIN_CTL_edge (i : Nat) : Fld := ⟨(Reg.SIO_PIN_CTL i), 2, 2⟩
abbrev Reg.SIO_PIN_CTL_drive (i : Nat) : Fld := ⟨(Reg.SIO_PIN_CTL i), 4, 2⟩
abbrev Reg.SIO_PIN_CTL_pull (i : Nat) : Fld := ⟨(Reg.SIO_PIN_CTL i), 6, 2⟩
/-- Table 4.6. -/
abbrev Reg.SIO_IN_LO : Nat := 0x20180100
abbrev Reg.SIO_IN_LO_in : Fld := ⟨Reg.SIO_IN_LO, 0, 32⟩
/-- Table 4.6. -/
abbrev Reg.SIO_IN_HI : Nat := 0x20180104
abbrev Reg.SIO_IN_HI_in : Fld := ⟨Reg.SIO_IN_HI, 0, 32⟩
/-- Table 4.6. -/
abbrev Reg.SIO_OUT_LO : Nat := 0x20180108
abbrev Reg.SIO_OUT_LO_out : Fld := ⟨Reg.SIO_OUT_LO, 0, 32⟩
/-- Table 4.6. -/
abbrev Reg.SIO_OUT_HI : Nat := 0x2018010c
abbrev Reg.SIO_OUT_HI_out : Fld := ⟨Reg.SIO_OUT_HI, 0, 32⟩
/-- Table 4.6. -/
abbrev Reg.SIO_CNT (i : Nat) : Nat := 0x20180120 + i * 0x4
abbrev Reg.SIO_CNT_count (i : Nat) : Fld := ⟨(Reg.SIO_CNT i), 0, 32⟩
/-- Table 5.5. -/
abbrev Reg.BIN_FLD_ERRCNT (d i : Nat) : Nat := 0x31000 + d * 0x1000000 + i * 0x40
abbrev Reg.BIN_FLD_ERRCNT_ce (d i : Nat) : Fld := ⟨(Reg.BIN_FLD_ERRCNT d i), 0, 16⟩
abbrev Reg.BIN_FLD_ERRCNT_ue (d i : Nat) : Fld := ⟨(Reg.BIN_FLD_ERRCNT d i), 16, 16⟩
/-- Table 5.5. -/
abbrev Reg.BIN_FLD_CNT_CLR (d i : Nat) : Nat := 0x31004 + d * 0x1000000 + i * 0x40
abbrev Reg.BIN_FLD_CNT_CLR_clear (d i : Nat) : Fld := ⟨(Reg.BIN_FLD_CNT_CLR d i), 0, 1⟩
/-- Table 5.5. -/
abbrev Reg.BIN_FLD_COLL_LO (d i : Nat) : Nat := 0x31008 + d * 0x1000000 + i * 0x40
abbrev Reg.BIN_FLD_COLL_LO_coll (d i : Nat) : Fld := ⟨(Reg.BIN_FLD_COLL_LO d i), 0, 32⟩
/-- Table 5.5. -/
abbrev Reg.BIN_FLD_COLL_HI (d i : Nat) : Nat := 0x3100c + d * 0x1000000 + i * 0x40
abbrev Reg.BIN_FLD_COLL_HI_coll (d i : Nat) : Fld := ⟨(Reg.BIN_FLD_COLL_HI d i), 0, 16⟩
/-- Table 5.5. -/
abbrev Reg.BIN_FLD_LAST_ERR (d i : Nat) : Nat := 0x31010 + d * 0x1000000 + i * 0x40
abbrev Reg.BIN_FLD_LAST_ERR_bin (d i : Nat) : Fld := ⟨(Reg.BIN_FLD_LAST_ERR d i), 0, 6⟩
abbrev Reg.BIN_FLD_LAST_ERR_port (d i : Nat) : Fld := ⟨(Reg.BIN_FLD_LAST_ERR d i), 6, 1⟩
abbrev Reg.BIN_FLD_LAST_ERR_kind (d i : Nat) : Fld := ⟨(Reg.BIN_FLD_LAST_ERR d i), 7, 1⟩
abbrev Reg.BIN_FLD_LAST_ERR_addr (d i : Nat) : Fld := ⟨(Reg.BIN_FLD_LAST_ERR d i), 8, 17⟩
abbrev Reg.BIN_FLD_LAST_ERR_net (d i : Nat) : Fld := ⟨(Reg.BIN_FLD_LAST_ERR d i), 25, 1⟩
/-- Table 5.8. -/
abbrev Reg.MAC_TILE_CFG (d i : Nat) : Nat := 0x44000 + d * 0x1000000 + i * 0x10
abbrev Reg.MAC_TILE_CFG_mode (d i : Nat) : Fld := ⟨(Reg.MAC_TILE_CFG d i), 0, 2⟩
abbrev Reg.MAC_TILE_CFG_a_signed (d i : Nat) : Fld := ⟨(Reg.MAC_TILE_CFG d i), 2, 1⟩
abbrev Reg.MAC_TILE_CFG_b_signed (d i : Nat) : Fld := ⟨(Reg.MAC_TILE_CFG d i), 3, 1⟩
abbrev Reg.MAC_TILE_CFG_p (d i : Nat) : Fld := ⟨(Reg.MAC_TILE_CFG d i), 4, 5⟩
abbrev Reg.MAC_TILE_CFG_sat (d i : Nat) : Fld := ⟨(Reg.MAC_TILE_CFG d i), 9, 1⟩
abbrev Reg.MAC_TILE_CFG_clk (d i : Nat) : Fld := ⟨(Reg.MAC_TILE_CFG d i), 10, 6⟩
abbrev Reg.MAC_TILE_CFG_edge (d i : Nat) : Fld := ⟨(Reg.MAC_TILE_CFG d i), 16, 2⟩
abbrev Reg.MAC_TILE_CFG_bx_casc (d i : Nat) : Fld := ⟨(Reg.MAC_TILE_CFG d i), 18, 1⟩
/-- Table 5.8. -/
abbrev Reg.MAC_TILE_AG0 (d i : Nat) : Nat := 0x44004 + d * 0x1000000 + i * 0x10
abbrev Reg.MAC_TILE_AG0_base (d i : Nat) : Fld := ⟨(Reg.MAC_TILE_AG0 d i), 0, 9⟩
abbrev Reg.MAC_TILE_AG0_step (d i : Nat) : Fld := ⟨(Reg.MAC_TILE_AG0 d i), 9, 9⟩
abbrev Reg.MAC_TILE_AG0_len_m1 (d i : Nat) : Fld := ⟨(Reg.MAC_TILE_AG0 d i), 18, 9⟩
abbrev Reg.MAC_TILE_AG0_rev_bits (d i : Nat) : Fld := ⟨(Reg.MAC_TILE_AG0 d i), 27, 4⟩
/-- Table 5.8. -/
abbrev Reg.MAC_TILE_AG1 (d i : Nat) : Nat := 0x44008 + d * 0x1000000 + i * 0x10
abbrev Reg.MAC_TILE_AG1_base (d i : Nat) : Fld := ⟨(Reg.MAC_TILE_AG1 d i), 0, 9⟩
abbrev Reg.MAC_TILE_AG1_step (d i : Nat) : Fld := ⟨(Reg.MAC_TILE_AG1 d i), 9, 9⟩
abbrev Reg.MAC_TILE_AG1_len_m1 (d i : Nat) : Fld := ⟨(Reg.MAC_TILE_AG1 d i), 18, 9⟩
abbrev Reg.MAC_TILE_AG1_rev_bits (d i : Nat) : Fld := ⟨(Reg.MAC_TILE_AG1 d i), 27, 4⟩
/-- Table 5.8. -/
abbrev Reg.MAC_TILE_STATUS (d i : Nat) : Nat := 0x4400c + d * 0x1000000 + i * 0x10
abbrev Reg.MAC_TILE_STATUS_pc (d i : Nat) : Fld := ⟨(Reg.MAC_TILE_STATUS d i), 0, 6⟩
abbrev Reg.MAC_TILE_STATUS_busy (d i : Nat) : Fld := ⟨(Reg.MAC_TILE_STATUS d i), 6, 1⟩
abbrev Reg.MAC_TILE_STATUS_fault_code (d i : Nat) : Fld := ⟨(Reg.MAC_TILE_STATUS d i), 7, 2⟩
abbrev Reg.MAC_TILE_STATUS_ovf (d i : Nat) : Fld := ⟨(Reg.MAC_TILE_STATUS d i), 9, 1⟩
abbrev Reg.MAC_TILE_STATUS_bx (d i : Nat) : Fld := ⟨(Reg.MAC_TILE_STATUS d i), 10, 4⟩
abbrev Reg.MAC_TILE_STATUS_run (d i : Nat) : Fld := ⟨(Reg.MAC_TILE_STATUS d i), 14, 1⟩
/-- Table 6.10. -/
abbrev Reg.NOC_DIE_ID (d : Nat) : Nat := 0x50000 + d * 0x1000000
abbrev Reg.NOC_DIE_ID_kind (d : Nat) : Fld := ⟨(Reg.NOC_DIE_ID d), 0, 4⟩
abbrev Reg.NOC_DIE_ID_stepping (d : Nat) : Fld := ⟨(Reg.NOC_DIE_ID d), 4, 8⟩
/-- Table 6.10. -/
abbrev Reg.NOC_DIE_FEATURES (d : Nat) : Nat := 0x50004 + d * 0x1000000
abbrev Reg.NOC_DIE_FEATURES_mask (d : Nat) : Fld := ⟨(Reg.NOC_DIE_FEATURES d), 0, 32⟩
/-- Table 6.10. -/
abbrev Reg.NOC_VC_WEIGHT (d : Nat) : Nat := 0x50010 + d * 0x1000000
abbrev Reg.NOC_VC_WEIGHT_w (d : Nat) : Fld := ⟨(Reg.NOC_VC_WEIGHT d), 0, 16⟩
/-- Table 6.10. -/
abbrev Reg.NOC_NI_TIMEOUT (d : Nat) : Nat := 0x50014 + d * 0x1000000
abbrev Reg.NOC_NI_TIMEOUT_us (d : Nat) : Fld := ⟨(Reg.NOC_NI_TIMEOUT d), 0, 20⟩
/-- Table 6.10. -/
abbrev Reg.NOC_STALL_LIMIT (d : Nat) : Nat := 0x50018 + d * 0x1000000
abbrev Reg.NOC_STALL_LIMIT_us (d : Nat) : Fld := ⟨(Reg.NOC_STALL_LIMIT d), 0, 20⟩
/-- Table 6.10. -/
abbrev Reg.NOC_ERRCNT (d : Nat) : Nat := 0x50020 + d * 0x1000000
abbrev Reg.NOC_ERRCNT_ce (d : Nat) : Fld := ⟨(Reg.NOC_ERRCNT d), 0, 16⟩
abbrev Reg.NOC_ERRCNT_ue (d : Nat) : Fld := ⟨(Reg.NOC_ERRCNT d), 16, 8⟩
abbrev Reg.NOC_ERRCNT_hdr (d : Nat) : Fld := ⟨(Reg.NOC_ERRCNT d), 24, 8⟩
/-- Table 6.10. -/
abbrev Reg.NOC_ERRCNT_CLR (d : Nat) : Nat := 0x50024 + d * 0x1000000
abbrev Reg.NOC_ERRCNT_CLR_clear (d : Nat) : Fld := ⟨(Reg.NOC_ERRCNT_CLR d), 0, 1⟩
/-- Table 6.10. -/
abbrev Reg.NOC_RT_SEL (d : Nat) : Nat := 0x50030 + d * 0x1000000
abbrev Reg.NOC_RT_SEL_entry (d : Nat) : Fld := ⟨(Reg.NOC_RT_SEL d), 0, 8⟩
abbrev Reg.NOC_RT_SEL_table (d : Nat) : Fld := ⟨(Reg.NOC_RT_SEL d), 8, 6⟩
/-- Table 6.10. -/
abbrev Reg.NOC_RT_DATA_LO (d : Nat) : Nat := 0x50034 + d * 0x1000000
abbrev Reg.NOC_RT_DATA_LO_lo (d : Nat) : Fld := ⟨(Reg.NOC_RT_DATA_LO d), 0, 32⟩
/-- Table 6.10. -/
abbrev Reg.NOC_RT_DATA_HI (d : Nat) : Nat := 0x50038 + d * 0x1000000
abbrev Reg.NOC_RT_DATA_HI_hi (d : Nat) : Fld := ⟨(Reg.NOC_RT_DATA_HI d), 0, 32⟩
/-- Table 6.10. -/
abbrev Reg.NOC_DOCK_BASE_LO (d i : Nat) : Nat := 0x51000 + d * 0x1000000 + i * 0x10
abbrev Reg.NOC_DOCK_BASE_LO_base (d i : Nat) : Fld := ⟨(Reg.NOC_DOCK_BASE_LO d i), 12, 20⟩
/-- Table 6.10. -/
abbrev Reg.NOC_DOCK_BASE_HI (d i : Nat) : Nat := 0x51004 + d * 0x1000000 + i * 0x10
abbrev Reg.NOC_DOCK_BASE_HI_base (d i : Nat) : Fld := ⟨(Reg.NOC_DOCK_BASE_HI d i), 0, 16⟩
/-- Table 6.10. -/
abbrev Reg.NOC_DOCK_SIZE (d i : Nat) : Nat := 0x51008 + d * 0x1000000 + i * 0x10
abbrev Reg.NOC_DOCK_SIZE_size (d i : Nat) : Fld := ⟨(Reg.NOC_DOCK_SIZE d i), 0, 32⟩
/-- Table 6.10. -/
abbrev Reg.NOC_DOCK_CTL (d i : Nat) : Nat := 0x5100c + d * 0x1000000 + i * 0x10
abbrev Reg.NOC_DOCK_CTL_width (d i : Nat) : Fld := ⟨(Reg.NOC_DOCK_CTL d i), 0, 3⟩
abbrev Reg.NOC_DOCK_CTL_route (d i : Nat) : Fld := ⟨(Reg.NOC_DOCK_CTL d i), 3, 8⟩
abbrev Reg.NOC_DOCK_CTL_resp_route (d i : Nat) : Fld := ⟨(Reg.NOC_DOCK_CTL d i), 11, 8⟩
abbrev Reg.NOC_DOCK_CTL_cache (d i : Nat) : Fld := ⟨(Reg.NOC_DOCK_CTL d i), 19, 1⟩
abbrev Reg.NOC_DOCK_CTL_combine (d i : Nat) : Fld := ⟨(Reg.NOC_DOCK_CTL d i), 20, 1⟩
/-- Table 6.10. -/
abbrev Reg.NOC_STAT_CTL (d i : Nat) : Nat := 0x54000 + d * 0x1000000 + i * 0x80
abbrev Reg.NOC_STAT_CTL_en (d i : Nat) : Fld := ⟨(Reg.NOC_STAT_CTL d i), 0, 1⟩
abbrev Reg.NOC_STAT_CTL_clear (d i : Nat) : Fld := ⟨(Reg.NOC_STAT_CTL d i), 1, 1⟩
/-- Table 6.10. -/
abbrev Reg.NOC_STAT_BYTES_LO (d i : Nat) : Nat := 0x54008 + d * 0x1000000 + i * 0x80
abbrev Reg.NOC_STAT_BYTES_LO_bytes (d i : Nat) : Fld := ⟨(Reg.NOC_STAT_BYTES_LO d i), 0, 32⟩
/-- Table 6.10. -/
abbrev Reg.NOC_STAT_BYTES_HI (d i : Nat) : Nat := 0x5400c + d * 0x1000000 + i * 0x80
abbrev Reg.NOC_STAT_BYTES_HI_bytes (d i : Nat) : Fld := ⟨(Reg.NOC_STAT_BYTES_HI d i), 0, 32⟩
/-- Table 6.10. -/
abbrev Reg.NOC_STAT_TXN_LO (d i : Nat) : Nat := 0x54010 + d * 0x1000000 + i * 0x80
abbrev Reg.NOC_STAT_TXN_LO_txn (d i : Nat) : Fld := ⟨(Reg.NOC_STAT_TXN_LO d i), 0, 32⟩
/-- Table 6.10. -/
abbrev Reg.NOC_STAT_TXN_HI (d i : Nat) : Nat := 0x54014 + d * 0x1000000 + i * 0x80
abbrev Reg.NOC_STAT_TXN_HI_txn (d i : Nat) : Fld := ⟨(Reg.NOC_STAT_TXN_HI d i), 0, 32⟩
/-- Table 6.10. -/
abbrev Reg.NOC_STAT_OUT (d i : Nat) : Nat := 0x54018 + d * 0x1000000 + i * 0x80
abbrev Reg.NOC_STAT_OUT_peak (d i : Nat) : Fld := ⟨(Reg.NOC_STAT_OUT d i), 0, 8⟩
abbrev Reg.NOC_STAT_OUT_now (d i : Nat) : Fld := ⟨(Reg.NOC_STAT_OUT d i), 8, 8⟩
/-- Table 6.10. -/
abbrev Reg.NOC_STAT_EDGE (d i j : Nat) : Nat := 0x54020 + d * 0x1000000 + i * 0x80 + j * 0x4
abbrev Reg.NOC_STAT_EDGE_edge_a (d i j : Nat) : Fld := ⟨(Reg.NOC_STAT_EDGE d i j), 0, 16⟩
abbrev Reg.NOC_STAT_EDGE_edge_b (d i j : Nat) : Fld := ⟨(Reg.NOC_STAT_EDGE d i j), 16, 16⟩
/-- Table 6.10. -/
abbrev Reg.NOC_STAT_BUCKET (d i j : Nat) : Nat := 0x54040 + d * 0x1000000 + i * 0x80 + j * 0x4
abbrev Reg.NOC_STAT_BUCKET_count (d i j : Nat) : Fld := ⟨(Reg.NOC_STAT_BUCKET d i j), 0, 32⟩
/-- Table 6.11. -/
abbrev Reg.D2D_LAT_CTL (d i : Nat) : Nat := 0x60000 + d * 0x1000000 + i * 0x40
abbrev Reg.D2D_LAT_CTL_max_code (d i : Nat) : Fld := ⟨(Reg.D2D_LAT_CTL d i), 0, 4⟩
abbrev Reg.D2D_LAT_CTL_retrain (d i : Nat) : Fld := ⟨(Reg.D2D_LAT_CTL d i), 4, 1⟩
/-- Table 6.11. -/
abbrev Reg.D2D_LAT_STATUS (d i : Nat) : Nat := 0x60004 + d * 0x1000000 + i * 0x40
abbrev Reg.D2D_LAT_STATUS_state (d i : Nat) : Fld := ⟨(Reg.D2D_LAT_STATUS d i), 0, 3⟩
abbrev Reg.D2D_LAT_STATUS_width_code (d i : Nat) : Fld := ⟨(Reg.D2D_LAT_STATUS d i), 4, 4⟩
abbrev Reg.D2D_LAT_STATUS_local_prop (d i : Nat) : Fld := ⟨(Reg.D2D_LAT_STATUS d i), 8, 4⟩
abbrev Reg.D2D_LAT_STATUS_partner_prop (d i : Nat) : Fld := ⟨(Reg.D2D_LAT_STATUS d i), 12, 4⟩
abbrev Reg.D2D_LAT_STATUS_attempts (d i : Nat) : Fld := ⟨(Reg.D2D_LAT_STATUS d i), 16, 2⟩
/-- Table 6.11. -/
abbrev Reg.D2D_LAT_GOOD (d i : Nat) : Nat := 0x60008 + d * 0x1000000 + i * 0x40
abbrev Reg.D2D_LAT_GOOD_groups (d i : Nat) : Fld := ⟨(Reg.D2D_LAT_GOOD d i), 0, 16⟩
/-- Table 6.11. -/
abbrev Reg.D2D_LAT_ERRCNT (d i : Nat) : Nat := 0x6000c + d * 0x1000000 + i * 0x40
abbrev Reg.D2D_LAT_ERRCNT_replays (d i : Nat) : Fld := ⟨(Reg.D2D_LAT_ERRCNT d i), 0, 16⟩
abbrev Reg.D2D_LAT_ERRCNT_mismatches (d i : Nat) : Fld := ⟨(Reg.D2D_LAT_ERRCNT d i), 16, 8⟩
abbrev Reg.D2D_LAT_ERRCNT_downs (d i : Nat) : Fld := ⟨(Reg.D2D_LAT_ERRCNT d i), 24, 8⟩
/-- Table 6.11. -/
abbrev Reg.D2D_LAT_ERRCLR (d i : Nat) : Nat := 0x60010 + d * 0x1000000 + i * 0x40
abbrev Reg.D2D_LAT_ERRCLR_clear (d i : Nat) : Fld := ⟨(Reg.D2D_LAT_ERRCLR d i), 0, 1⟩
/-- Table 6.11. -/
abbrev Reg.D2D_VERT_STATUS (d : Nat) : Nat := 0x60100 + d * 0x1000000
abbrev Reg.D2D_VERT_STATUS_ready (d : Nat) : Fld := ⟨(Reg.D2D_VERT_STATUS d), 0, 24⟩
/-- Table 6.12. -/
abbrev Reg.RCACHE_CTL (d : Nat) : Nat := 0x70000 + d * 0x1000000
abbrev Reg.RCACHE_CTL_enable (d : Nat) : Fld := ⟨(Reg.RCACHE_CTL d), 0, 1⟩
abbrev Reg.RCACHE_CTL_flush (d : Nat) : Fld := ⟨(Reg.RCACHE_CTL d), 1, 1⟩
abbrev Reg.RCACHE_CTL_prefetch (d : Nat) : Fld := ⟨(Reg.RCACHE_CTL d), 2, 1⟩
/-- Table 6.12. -/
abbrev Reg.RCACHE_HITS (d : Nat) : Nat := 0x70004 + d * 0x1000000
abbrev Reg.RCACHE_HITS_count (d : Nat) : Fld := ⟨(Reg.RCACHE_HITS d), 0, 32⟩
/-- Table 6.12. -/
abbrev Reg.RCACHE_MISSES (d : Nat) : Nat := 0x70008 + d * 0x1000000
abbrev Reg.RCACHE_MISSES_count (d : Nat) : Fld := ⟨(Reg.RCACHE_MISSES d), 0, 32⟩
/-- Table 6.12. -/
abbrev Reg.RCACHE_INVALS (d : Nat) : Nat := 0x7000c + d * 0x1000000
abbrev Reg.RCACHE_INVALS_count (d : Nat) : Fld := ⟨(Reg.RCACHE_INVALS d), 0, 32⟩
/-- Table 6.12. -/
abbrev Reg.RCACHE_DIR_USED (d : Nat) : Nat := 0x70100 + d * 0x1000000
abbrev Reg.RCACHE_DIR_USED_entries (d : Nat) : Fld := ⟨(Reg.RCACHE_DIR_USED d), 0, 15⟩
/-- Table 6.12. -/
abbrev Reg.RCACHE_DIR_EVICTS (d : Nat) : Nat := 0x70104 + d * 0x1000000
abbrev Reg.RCACHE_DIR_EVICTS_count (d : Nat) : Fld := ⟨(Reg.RCACHE_DIR_EVICTS d), 0, 32⟩
/-- Table 6.12. -/
abbrev Reg.RCACHE_DIR_INVALS (d : Nat) : Nat := 0x70108 + d * 0x1000000
abbrev Reg.RCACHE_DIR_INVALS_count (d : Nat) : Fld := ⟨(Reg.RCACHE_DIR_INVALS d), 0, 32⟩
/-- Table 7.10. -/
abbrev Reg.HBM_MAP_CTL (d : Nat) : Nat := 0x80000 + d * 0x1000000
abbrev Reg.HBM_MAP_CTL_order (d : Nat) : Fld := ⟨(Reg.HBM_MAP_CTL d), 0, 2⟩
abbrev Reg.HBM_MAP_CTL_lock (d : Nat) : Fld := ⟨(Reg.HBM_MAP_CTL d), 31, 1⟩
/-- Table 7.10. -/
abbrev Reg.HBM_INIT (d : Nat) : Nat := 0x80004 + d * 0x1000000
abbrev Reg.HBM_INIT_start (d : Nat) : Fld := ⟨(Reg.HBM_INIT d), 0, 1⟩
abbrev Reg.HBM_INIT_done (d : Nat) : Fld := ⟨(Reg.HBM_INIT d), 1, 1⟩
abbrev Reg.HBM_INIT_order_mismatch (d : Nat) : Fld := ⟨(Reg.HBM_INIT d), 2, 1⟩
/-- Table 7.10. -/
abbrev Reg.HBM_TRAIN_CTL (d : Nat) : Nat := 0x80008 + d * 0x1000000
abbrev Reg.HBM_TRAIN_CTL_min_window (d : Nat) : Fld := ⟨(Reg.HBM_TRAIN_CTL d), 0, 7⟩
/-- Table 7.10. -/
abbrev Reg.HBM_STK_STATUS (d i : Nat) : Nat := 0x80100 + d * 0x1000000 + i * 0x80
abbrev Reg.HBM_STK_STATUS_state (d i : Nat) : Fld := ⟨(Reg.HBM_STK_STATUS d i), 0, 3⟩
abbrev Reg.HBM_STK_STATUS_rate (d i : Nat) : Fld := ⟨(Reg.HBM_STK_STATUS d i), 3, 2⟩
abbrev Reg.HBM_STK_STATUS_active_set (d i : Nat) : Fld := ⟨(Reg.HBM_STK_STATUS d i), 5, 1⟩
abbrev Reg.HBM_STK_STATUS_hot (d i : Nat) : Fld := ⟨(Reg.HBM_STK_STATUS d i), 6, 1⟩
abbrev Reg.HBM_STK_STATUS_temp (d i : Nat) : Fld := ⟨(Reg.HBM_STK_STATUS d i), 8, 8⟩
abbrev Reg.HBM_STK_STATUS_train_temp (d i : Nat) : Fld := ⟨(Reg.HBM_STK_STATUS d i), 16, 8⟩
/-- Table 7.10. -/
abbrev Reg.HBM_STK_CMD (d i : Nat) : Nat := 0x80104 + d * 0x1000000 + i * 0x80
abbrev Reg.HBM_STK_CMD_freq_change (d i : Nat) : Fld := ⟨(Reg.HBM_STK_CMD d i), 0, 1⟩
abbrev Reg.HBM_STK_CMD_retrain (d i : Nat) : Fld := ⟨(Reg.HBM_STK_CMD d i), 1, 1⟩
abbrev Reg.HBM_STK_CMD_retrain_pause (d i : Nat) : Fld := ⟨(Reg.HBM_STK_CMD d i), 2, 1⟩
abbrev Reg.HBM_STK_CMD_cmd_refused (d i : Nat) : Fld := ⟨(Reg.HBM_STK_CMD d i), 3, 1⟩
/-- Table 7.10. -/
abbrev Reg.HBM_STK_ERRCNT (d i : Nat) : Nat := 0x80108 + d * 0x1000000 + i * 0x80
abbrev Reg.HBM_STK_ERRCNT_ce (d i : Nat) : Fld := ⟨(Reg.HBM_STK_ERRCNT d i), 0, 16⟩
abbrev Reg.HBM_STK_ERRCNT_ue (d i : Nat) : Fld := ⟨(Reg.HBM_STK_ERRCNT d i), 16, 8⟩
abbrev Reg.HBM_STK_ERRCNT_ondie (d i : Nat) : Fld := ⟨(Reg.HBM_STK_ERRCNT d i), 24, 8⟩
/-- Table 7.10. -/
abbrev Reg.HBM_STK_ERRCLR (d i : Nat) : Nat := 0x8010c + d * 0x1000000 + i * 0x80
abbrev Reg.HBM_STK_ERRCLR_clear (d i : Nat) : Fld := ⟨(Reg.HBM_STK_ERRCLR d i), 0, 1⟩
/-- Table 7.10. -/
abbrev Reg.HBM_STK_PC_FAILED (d i : Nat) : Nat := 0x80110 + d * 0x1000000 + i * 0x80
abbrev Reg.HBM_STK_PC_FAILED_failed (d i : Nat) : Fld := ⟨(Reg.HBM_STK_PC_FAILED d i), 0, 32⟩
/-- Table 7.10. -/
abbrev Reg.HBM_STK_PC_BUSY (d i : Nat) : Nat := 0x80114 + d * 0x1000000 + i * 0x80
abbrev Reg.HBM_STK_PC_BUSY_busy (d i : Nat) : Fld := ⟨(Reg.HBM_STK_PC_BUSY d i), 0, 32⟩
/-- Table 7.10. -/
abbrev Reg.HBM_STK_HOLD (d i : Nat) : Nat := 0x80118 + d * 0x1000000 + i * 0x80
abbrev Reg.HBM_STK_HOLD_held (d i : Nat) : Fld := ⟨(Reg.HBM_STK_HOLD d i), 0, 16⟩
abbrev Reg.HBM_STK_HOLD_expired (d i : Nat) : Fld := ⟨(Reg.HBM_STK_HOLD d i), 16, 16⟩
/-- Table 7.10. -/
abbrev Reg.HBM_STK_RATES (d i : Nat) : Nat := 0x8011c + d * 0x1000000 + i * 0x80
abbrev Reg.HBM_STK_RATES_valid (d i : Nat) : Fld := ⟨(Reg.HBM_STK_RATES d i), 0, 3⟩
/-- Table 7.10. -/
abbrev Reg.HBM_TSET_RATE (d i j : Nat) : Nat := 0x80400 + d * 0x1000000 + i * 0x100 + j * 0x40
abbrev Reg.HBM_TSET_RATE_rate (d i j : Nat) : Fld := ⟨(Reg.HBM_TSET_RATE d i j), 0, 2⟩
/-- Table 7.10. -/
abbrev Reg.HBM_TSET_LAT (d i j : Nat) : Nat := 0x80404 + d * 0x1000000 + i * 0x100 + j * 0x40
abbrev Reg.HBM_TSET_LAT_rl (d i j : Nat) : Fld := ⟨(Reg.HBM_TSET_LAT d i j), 0, 8⟩
abbrev Reg.HBM_TSET_LAT_wl (d i j : Nat) : Fld := ⟨(Reg.HBM_TSET_LAT d i j), 8, 8⟩
abbrev Reg.HBM_TSET_LAT_trcd (d i j : Nat) : Fld := ⟨(Reg.HBM_TSET_LAT d i j), 16, 8⟩
abbrev Reg.HBM_TSET_LAT_trp (d i j : Nat) : Fld := ⟨(Reg.HBM_TSET_LAT d i j), 24, 8⟩
/-- Table 7.10. -/
abbrev Reg.HBM_TSET_ROW (d i j : Nat) : Nat := 0x80408 + d * 0x1000000 + i * 0x100 + j * 0x40
abbrev Reg.HBM_TSET_ROW_tras (d i j : Nat) : Fld := ⟨(Reg.HBM_TSET_ROW d i j), 0, 8⟩
abbrev Reg.HBM_TSET_ROW_trc (d i j : Nat) : Fld := ⟨(Reg.HBM_TSET_ROW d i j), 8, 8⟩
abbrev Reg.HBM_TSET_ROW_trfcpb (d i j : Nat) : Fld := ⟨(Reg.HBM_TSET_ROW d i j), 16, 10⟩
/-- Table 7.10. -/
abbrev Reg.HBM_TSET_REF (d i j : Nat) : Nat := 0x8040c + d * 0x1000000 + i * 0x100 + j * 0x40
abbrev Reg.HBM_TSET_REF_trefi (d i j : Nat) : Fld := ⟨(Reg.HBM_TSET_REF d i j), 0, 16⟩
abbrev Reg.HBM_TSET_REF_tfaw (d i j : Nat) : Fld := ⟨(Reg.HBM_TSET_REF d i j), 16, 8⟩
/-- Table 7.10. -/
abbrev Reg.HBM_TRAIN_RD (d i j k : Nat) : Nat := 0x82000 + d * 0x1000000 + i * 0x400 + j * 0x20 + k * 0x4
abbrev Reg.HBM_TRAIN_RD_left (d i j k : Nat) : Fld := ⟨(Reg.HBM_TRAIN_RD d i j k), 0, 7⟩
abbrev Reg.HBM_TRAIN_RD_right (d i j k : Nat) : Fld := ⟨(Reg.HBM_TRAIN_RD d i j k), 8, 7⟩
abbrev Reg.HBM_TRAIN_RD_center (d i j k : Nat) : Fld := ⟨(Reg.HBM_TRAIN_RD d i j k), 16, 7⟩
abbrev Reg.HBM_TRAIN_RD_repaired (d i j k : Nat) : Fld := ⟨(Reg.HBM_TRAIN_RD d i j k), 29, 1⟩
abbrev Reg.HBM_TRAIN_RD_failed (d i j k : Nat) : Fld := ⟨(Reg.HBM_TRAIN_RD d i j k), 30, 1⟩
abbrev Reg.HBM_TRAIN_RD_valid (d i j k : Nat) : Fld := ⟨(Reg.HBM_TRAIN_RD d i j k), 31, 1⟩
/-- Table 7.10. -/
abbrev Reg.HBM_TRAIN_WR (d i j k : Nat) : Nat := 0x82010 + d * 0x1000000 + i * 0x400 + j * 0x20 + k * 0x4
abbrev Reg.HBM_TRAIN_WR_left (d i j k : Nat) : Fld := ⟨(Reg.HBM_TRAIN_WR d i j k), 0, 7⟩
abbrev Reg.HBM_TRAIN_WR_right (d i j k : Nat) : Fld := ⟨(Reg.HBM_TRAIN_WR d i j k), 8, 7⟩
abbrev Reg.HBM_TRAIN_WR_center (d i j k : Nat) : Fld := ⟨(Reg.HBM_TRAIN_WR d i j k), 16, 7⟩
abbrev Reg.HBM_TRAIN_WR_repaired (d i j k : Nat) : Fld := ⟨(Reg.HBM_TRAIN_WR d i j k), 29, 1⟩
abbrev Reg.HBM_TRAIN_WR_failed (d i j k : Nat) : Fld := ⟨(Reg.HBM_TRAIN_WR d i j k), 30, 1⟩
abbrev Reg.HBM_TRAIN_WR_valid (d i j k : Nat) : Fld := ⟨(Reg.HBM_TRAIN_WR d i j k), 31, 1⟩
/-- Table 7.11. -/
abbrev Reg.MEMSEC_STK_CTL (d i : Nat) : Nat := 0x90000 + d * 0x1000000 + i * 0x1000
abbrev Reg.MEMSEC_STK_CTL_enable (d i : Nat) : Fld := ⟨(Reg.MEMSEC_STK_CTL d i), 0, 1⟩
/-- Table 7.11. -/
abbrev Reg.MEMSEC_STK_STATUS (d i : Nat) : Nat := 0x90004 + d * 0x1000000 + i * 0x1000
abbrev Reg.MEMSEC_STK_STATUS_halted (d i : Nat) : Fld := ⟨(Reg.MEMSEC_STK_STATUS d i), 0, 1⟩
abbrev Reg.MEMSEC_STK_STATUS_cmd_refused (d i : Nat) : Fld := ⟨(Reg.MEMSEC_STK_STATUS d i), 1, 1⟩
/-- Table 7.11. -/
abbrev Reg.MEMSEC_CACHE_HITS (d i : Nat) : Nat := 0x90008 + d * 0x1000000 + i * 0x1000
abbrev Reg.MEMSEC_CACHE_HITS_count (d i : Nat) : Fld := ⟨(Reg.MEMSEC_CACHE_HITS d i), 0, 32⟩
/-- Table 7.11. -/
abbrev Reg.MEMSEC_CACHE_MISSES (d i : Nat) : Nat := 0x9000c + d * 0x1000000 + i * 0x1000
abbrev Reg.MEMSEC_CACHE_MISSES_count (d i : Nat) : Fld := ⟨(Reg.MEMSEC_CACHE_MISSES d i), 0, 32⟩
/-- Table 7.11. -/
abbrev Reg.MEMSEC_META_ERR (d i : Nat) : Nat := 0x90010 + d * 0x1000000 + i * 0x1000
abbrev Reg.MEMSEC_META_ERR_ue (d i : Nat) : Fld := ⟨(Reg.MEMSEC_META_ERR d i), 0, 16⟩
/-- Table 7.11. -/
abbrev Reg.MEMSEC_RGN_RANGE (d i j : Nat) : Nat := 0x90100 + d * 0x1000000 + i * 0x1000 + j * 0x10
abbrev Reg.MEMSEC_RGN_RANGE_base (d i j : Nat) : Fld := ⟨(Reg.MEMSEC_RGN_RANGE d i j), 0, 6⟩
abbrev Reg.MEMSEC_RGN_RANGE_size (d i j : Nat) : Fld := ⟨(Reg.MEMSEC_RGN_RANGE d i j), 8, 7⟩
/-- Table 7.11. -/
abbrev Reg.MEMSEC_RGN_CTL (d i j : Nat) : Nat := 0x90104 + d * 0x1000000 + i * 0x1000 + j * 0x10
abbrev Reg.MEMSEC_RGN_CTL_key_slot (d i j : Nat) : Fld := ⟨(Reg.MEMSEC_RGN_CTL d i j), 0, 4⟩
abbrev Reg.MEMSEC_RGN_CTL_init (d i j : Nat) : Fld := ⟨(Reg.MEMSEC_RGN_CTL d i j), 4, 1⟩
abbrev Reg.MEMSEC_RGN_CTL_close (d i j : Nat) : Fld := ⟨(Reg.MEMSEC_RGN_CTL d i j), 5, 1⟩
/-- Table 7.11. -/
abbrev Reg.MEMSEC_RGN_STATUS (d i j : Nat) : Nat := 0x90108 + d * 0x1000000 + i * 0x1000 + j * 0x10
abbrev Reg.MEMSEC_RGN_STATUS_state (d i j : Nat) : Fld := ⟨(Reg.MEMSEC_RGN_STATUS d i j), 0, 2⟩
abbrev Reg.MEMSEC_RGN_STATUS_bad_range (d i j : Nat) : Fld := ⟨(Reg.MEMSEC_RGN_STATUS d i j), 2, 1⟩
/-- Table 8.8. -/
abbrev Reg.LANE_CTL (d i : Nat) : Nat := 0xa0000 + d * 0x1000000 + i * 0x400
abbrev Reg.LANE_CTL_enable (d i : Nat) : Fld := ⟨(Reg.LANE_CTL d i), 0, 1⟩
abbrev Reg.LANE_CTL_rate (d i : Nat) : Fld := ⟨(Reg.LANE_CTL d i), 1, 4⟩
abbrev Reg.LANE_CTL_fec_en (d i : Nat) : Fld := ⟨(Reg.LANE_CTL d i), 5, 1⟩
abbrev Reg.LANE_CTL_chaff_gap (d i : Nat) : Fld := ⟨(Reg.LANE_CTL d i), 6, 6⟩
abbrev Reg.LANE_CTL_tx_pol (d i : Nat) : Fld := ⟨(Reg.LANE_CTL d i), 12, 1⟩
abbrev Reg.LANE_CTL_rx_pol (d i : Nat) : Fld := ⟨(Reg.LANE_CTL d i), 13, 1⟩
abbrev Reg.LANE_CTL_loop (d i : Nat) : Fld := ⟨(Reg.LANE_CTL d i), 14, 3⟩
abbrev Reg.LANE_CTL_adapt_pause (d i : Nat) : Fld := ⟨(Reg.LANE_CTL d i), 17, 1⟩
/-- Table 8.8. -/
abbrev Reg.LANE_STATUS (d i : Nat) : Nat := 0xa0004 + d * 0x1000000 + i * 0x400
abbrev Reg.LANE_STATUS_state (d i : Nat) : Fld := ⟨(Reg.LANE_STATUS d i), 0, 3⟩
abbrev Reg.LANE_STATUS_pll_lock (d i : Nat) : Fld := ⟨(Reg.LANE_STATUS d i), 3, 1⟩
abbrev Reg.LANE_STATUS_cdr_lock (d i : Nat) : Fld := ⟨(Reg.LANE_STATUS d i), 4, 1⟩
abbrev Reg.LANE_STATUS_marker_lock (d i : Nat) : Fld := ⟨(Reg.LANE_STATUS d i), 5, 1⟩
abbrev Reg.LANE_STATUS_fec_lock (d i : Nat) : Fld := ⟨(Reg.LANE_STATUS d i), 6, 1⟩
abbrev Reg.LANE_STATUS_los (d i : Nat) : Fld := ⟨(Reg.LANE_STATUS d i), 7, 1⟩
abbrev Reg.LANE_STATUS_adapt_done (d i : Nat) : Fld := ⟨(Reg.LANE_STATUS d i), 8, 1⟩
abbrev Reg.LANE_STATUS_cmd_refused (d i : Nat) : Fld := ⟨(Reg.LANE_STATUS d i), 9, 1⟩
abbrev Reg.LANE_STATUS_down_cause (d i : Nat) : Fld := ⟨(Reg.LANE_STATUS d i), 10, 4⟩
abbrev Reg.LANE_STATUS_eb_fill (d i : Nat) : Fld := ⟨(Reg.LANE_STATUS d i), 14, 3⟩
/-- Table 8.8. -/
abbrev Reg.LANE_TX_FIR (d i : Nat) : Nat := 0xa0008 + d * 0x1000000 + i * 0x400
abbrev Reg.LANE_TX_FIR_pre2 (d i : Nat) : Fld := ⟨(Reg.LANE_TX_FIR d i), 0, 4⟩
abbrev Reg.LANE_TX_FIR_pre1 (d i : Nat) : Fld := ⟨(Reg.LANE_TX_FIR d i), 4, 6⟩
abbrev Reg.LANE_TX_FIR_post1 (d i : Nat) : Fld := ⟨(Reg.LANE_TX_FIR d i), 10, 6⟩
abbrev Reg.LANE_TX_FIR_main (d i : Nat) : Fld := ⟨(Reg.LANE_TX_FIR d i), 16, 6⟩
/-- Table 8.8. -/
abbrev Reg.LANE_ERRCNT (d i : Nat) : Nat := 0xa000c + d * 0x1000000 + i * 0x400
abbrev Reg.LANE_ERRCNT_slips (d i : Nat) : Fld := ⟨(Reg.LANE_ERRCNT d i), 0, 16⟩
abbrev Reg.LANE_ERRCNT_stuff_viol (d i : Nat) : Fld := ⟨(Reg.LANE_ERRCNT d i), 16, 16⟩
/-- Table 8.8. -/
abbrev Reg.LANE_EB_DEL (d i : Nat) : Nat := 0xa0010 + d * 0x1000000 + i * 0x400
abbrev Reg.LANE_EB_DEL_count (d i : Nat) : Fld := ⟨(Reg.LANE_EB_DEL d i), 0, 32⟩
/-- Table 8.8. -/
abbrev Reg.LANE_EB_REP (d i : Nat) : Nat := 0xa0014 + d * 0x1000000 + i * 0x400
abbrev Reg.LANE_EB_REP_count (d i : Nat) : Fld := ⟨(Reg.LANE_EB_REP d i), 0, 32⟩
/-- Table 8.8. -/
abbrev Reg.LANE_FEC_SYM (d i : Nat) : Nat := 0xa0018 + d * 0x1000000 + i * 0x400
abbrev Reg.LANE_FEC_SYM_count (d i : Nat) : Fld := ⟨(Reg.LANE_FEC_SYM d i), 0, 32⟩
/-- Table 8.8. -/
abbrev Reg.LANE_FEC_UNCORR (d i : Nat) : Nat := 0xa001c + d * 0x1000000 + i * 0x400
abbrev Reg.LANE_FEC_UNCORR_count (d i : Nat) : Fld := ⟨(Reg.LANE_FEC_UNCORR d i), 0, 32⟩
/-- Table 8.8. -/
abbrev Reg.LANE_BAD_FRAMES (d i : Nat) : Nat := 0xa0020 + d * 0x1000000 + i * 0x400
abbrev Reg.LANE_BAD_FRAMES_flagged (d i : Nat) : Fld := ⟨(Reg.LANE_BAD_FRAMES d i), 0, 16⟩
abbrev Reg.LANE_BAD_FRAMES_eb_ovf (d i : Nat) : Fld := ⟨(Reg.LANE_BAD_FRAMES d i), 16, 8⟩
/-- Table 8.8. -/
abbrev Reg.LANE_CNT_CLR (d i : Nat) : Nat := 0xa0024 + d * 0x1000000 + i * 0x400
abbrev Reg.LANE_CNT_CLR_clear (d i : Nat) : Fld := ⟨(Reg.LANE_CNT_CLR d i), 0, 1⟩
/-- Table 8.8. -/
abbrev Reg.LANE_PRBS_CTL (d i : Nat) : Nat := 0xa0030 + d * 0x1000000 + i * 0x400
abbrev Reg.LANE_PRBS_CTL_gen_pat (d i : Nat) : Fld := ⟨(Reg.LANE_PRBS_CTL d i), 0, 2⟩
abbrev Reg.LANE_PRBS_CTL_gen_en (d i : Nat) : Fld := ⟨(Reg.LANE_PRBS_CTL d i), 2, 1⟩
abbrev Reg.LANE_PRBS_CTL_chk_pat (d i : Nat) : Fld := ⟨(Reg.LANE_PRBS_CTL d i), 3, 2⟩
abbrev Reg.LANE_PRBS_CTL_chk_en (d i : Nat) : Fld := ⟨(Reg.LANE_PRBS_CTL d i), 5, 1⟩
abbrev Reg.LANE_PRBS_CTL_invert (d i : Nat) : Fld := ⟨(Reg.LANE_PRBS_CTL d i), 6, 1⟩
abbrev Reg.LANE_PRBS_CTL_inject (d i : Nat) : Fld := ⟨(Reg.LANE_PRBS_CTL d i), 7, 1⟩
abbrev Reg.LANE_PRBS_CTL_chk_lock (d i : Nat) : Fld := ⟨(Reg.LANE_PRBS_CTL d i), 8, 1⟩
/-- Table 8.8. -/
abbrev Reg.LANE_PRBS_ERR (d i : Nat) : Nat := 0xa0034 + d * 0x1000000 + i * 0x400
abbrev Reg.LANE_PRBS_ERR_errors (d i : Nat) : Fld := ⟨(Reg.LANE_PRBS_ERR d i), 0, 32⟩
/-- Table 8.8. -/
abbrev Reg.LANE_PRBS_BITS_LO (d i : Nat) : Nat := 0xa0038 + d * 0x1000000 + i * 0x400
abbrev Reg.LANE_PRBS_BITS_LO_bits (d i : Nat) : Fld := ⟨(Reg.LANE_PRBS_BITS_LO d i), 0, 32⟩
/-- Table 8.8. -/
abbrev Reg.LANE_PRBS_BITS_HI (d i : Nat) : Nat := 0xa003c + d * 0x1000000 + i * 0x400
abbrev Reg.LANE_PRBS_BITS_HI_bits (d i : Nat) : Fld := ⟨(Reg.LANE_PRBS_BITS_HI d i), 0, 16⟩
/-- Table 8.8. -/
abbrev Reg.LANE_EYE_CTL (d i : Nat) : Nat := 0xa0040 + d * 0x1000000 + i * 0x400
abbrev Reg.LANE_EYE_CTL_phase (d i : Nat) : Fld := ⟨(Reg.LANE_EYE_CTL d i), 0, 6⟩
abbrev Reg.LANE_EYE_CTL_voltage (d i : Nat) : Fld := ⟨(Reg.LANE_EYE_CTL d i), 6, 7⟩
abbrev Reg.LANE_EYE_CTL_eye (d i : Nat) : Fld := ⟨(Reg.LANE_EYE_CTL d i), 13, 2⟩
abbrev Reg.LANE_EYE_CTL_dwell (d i : Nat) : Fld := ⟨(Reg.LANE_EYE_CTL d i), 15, 4⟩
abbrev Reg.LANE_EYE_CTL_start (d i : Nat) : Fld := ⟨(Reg.LANE_EYE_CTL d i), 19, 1⟩
abbrev Reg.LANE_EYE_CTL_done (d i : Nat) : Fld := ⟨(Reg.LANE_EYE_CTL d i), 20, 1⟩
abbrev Reg.LANE_EYE_CTL_invalid (d i : Nat) : Fld := ⟨(Reg.LANE_EYE_CTL d i), 21, 1⟩
/-- Table 8.8. -/
abbrev Reg.LANE_EYE_ERR (d i : Nat) : Nat := 0xa0044 + d * 0x1000000 + i * 0x400
abbrev Reg.LANE_EYE_ERR_errors (d i : Nat) : Fld := ⟨(Reg.LANE_EYE_ERR d i), 0, 32⟩
/-- Table 8.8. -/
abbrev Reg.LANE_RX_EQ (d i : Nat) : Nat := 0xa0048 + d * 0x1000000 + i * 0x400
abbrev Reg.LANE_RX_EQ_ctle (d i : Nat) : Fld := ⟨(Reg.LANE_RX_EQ d i), 0, 5⟩
abbrev Reg.LANE_RX_EQ_dfe1 (d i : Nat) : Fld := ⟨(Reg.LANE_RX_EQ d i), 5, 8⟩
/-- Table 8.9. -/
abbrev Reg.LANE_BANK_CTL (d i : Nat) : Nat := 0xac000 + d * 0x1000000 + i * 0x40
abbrev Reg.LANE_BANK_CTL_enable (d i : Nat) : Fld := ⟨(Reg.LANE_BANK_CTL d i), 0, 1⟩
abbrev Reg.LANE_BANK_CTL_pending (d i : Nat) : Fld := ⟨(Reg.LANE_BANK_CTL d i), 1, 1⟩
/-- Table 8.9. -/
abbrev Reg.LANE_BANK_STATUS (d i : Nat) : Nat := 0xac004 + d * 0x1000000 + i * 0x40
abbrev Reg.LANE_BANK_STATUS_ref_ok (d i : Nat) : Fld := ⟨(Reg.LANE_BANK_STATUS d i), 0, 1⟩
abbrev Reg.LANE_BANK_STATUS_ref_lost (d i : Nat) : Fld := ⟨(Reg.LANE_BANK_STATUS d i), 1, 1⟩
abbrev Reg.LANE_BANK_STATUS_ref_khz (d i : Nat) : Fld := ⟨(Reg.LANE_BANK_STATUS d i), 2, 18⟩
/-- Table 8.9. -/
abbrev Reg.LANE_UP_LO (d : Nat) : Nat := 0xaf000 + d * 0x1000000
abbrev Reg.LANE_UP_LO_up (d : Nat) : Fld := ⟨(Reg.LANE_UP_LO d), 0, 32⟩
/-- Table 8.9. -/
abbrev Reg.LANE_UP_HI (d : Nat) : Nat := 0xaf004 + d * 0x1000000
abbrev Reg.LANE_UP_HI_up (d : Nat) : Fld := ⟨(Reg.LANE_UP_HI d), 0, 16⟩
/-- Table 9.11. -/
abbrev Reg.LCH_CTL (d : Nat) : Nat := 0xb0000 + d * 0x1000000
abbrev Reg.LCH_CTL_position (d : Nat) : Fld := ⟨(Reg.LCH_CTL d), 0, 7⟩
abbrev Reg.LCH_CTL_pos_valid (d : Nat) : Fld := ⟨(Reg.LCH_CTL d), 7, 1⟩
abbrev Reg.LCH_CTL_lock (d : Nat) : Fld := ⟨(Reg.LCH_CTL d), 31, 1⟩
/-- Table 9.11. -/
abbrev Reg.LCH_ROLE (d : Nat) : Nat := 0xb0004 + d * 0x1000000
abbrev Reg.LCH_ROLE_strap (d : Nat) : Fld := ⟨(Reg.LCH_ROLE d), 0, 2⟩
/-- Table 9.11. -/
abbrev Reg.LCH_RETRY (d : Nat) : Nat := 0xb0008 + d * 0x1000000
abbrev Reg.LCH_RETRY_timeout (d : Nat) : Fld := ⟨(Reg.LCH_RETRY d), 0, 12⟩
abbrev Reg.LCH_RETRY_limit (d : Nat) : Fld := ⟨(Reg.LCH_RETRY d), 12, 4⟩
/-- Table 9.11. -/
abbrev Reg.LCH_CTX_SEL (d : Nat) : Nat := 0xb0010 + d * 0x1000000
abbrev Reg.LCH_CTX_SEL_ctx (d : Nat) : Fld := ⟨(Reg.LCH_CTX_SEL d), 0, 16⟩
/-- Table 9.11. -/
abbrev Reg.LCH_CTX_CMD (d : Nat) : Nat := 0xb0014 + d * 0x1000000
abbrev Reg.LCH_CTX_CMD_read (d : Nat) : Fld := ⟨(Reg.LCH_CTX_CMD d), 0, 1⟩
abbrev Reg.LCH_CTX_CMD_write (d : Nat) : Fld := ⟨(Reg.LCH_CTX_CMD d), 1, 1⟩
abbrev Reg.LCH_CTX_CMD_busy (d : Nat) : Fld := ⟨(Reg.LCH_CTX_CMD d), 2, 1⟩
abbrev Reg.LCH_CTX_CMD_refused (d : Nat) : Fld := ⟨(Reg.LCH_CTX_CMD d), 3, 1⟩
/-- Table 9.11. -/
abbrev Reg.LCH_CTX_DATA (d i : Nat) : Nat := 0xb0018 + d * 0x1000000 + i * 0x4
abbrev Reg.LCH_CTX_DATA_data (d i : Nat) : Fld := ⟨(Reg.LCH_CTX_DATA d i), 0, 32⟩
/-- Table 9.11. -/
abbrev Reg.LCH_SLOT_SEL (d : Nat) : Nat := 0xb0030 + d * 0x1000000
abbrev Reg.LCH_SLOT_SEL_entry (d : Nat) : Fld := ⟨(Reg.LCH_SLOT_SEL d), 0, 8⟩
abbrev Reg.LCH_SLOT_SEL_lane (d : Nat) : Fld := ⟨(Reg.LCH_SLOT_SEL d), 8, 6⟩
abbrev Reg.LCH_SLOT_SEL_dir (d : Nat) : Fld := ⟨(Reg.LCH_SLOT_SEL d), 14, 1⟩
/-- Table 9.11. -/
abbrev Reg.LCH_SLOT_DATA (d : Nat) : Nat := 0xb0034 + d * 0x1000000
abbrev Reg.LCH_SLOT_DATA_ctx (d : Nat) : Fld := ⟨(Reg.LCH_SLOT_DATA d), 0, 16⟩
/-- Table 9.11. -/
abbrev Reg.LCH_HELLO_TX (d i : Nat) : Nat := 0xb0100 + d * 0x1000000 + i * 0x4
abbrev Reg.LCH_HELLO_TX_bytes (d i : Nat) : Fld := ⟨(Reg.LCH_HELLO_TX d i), 0, 32⟩
/-- Table 9.11. -/
abbrev Reg.LCH_HELLO_RX_SEL (d : Nat) : Nat := 0xb0120 + d * 0x1000000
abbrev Reg.LCH_HELLO_RX_SEL_lane (d : Nat) : Fld := ⟨(Reg.LCH_HELLO_RX_SEL d), 0, 6⟩
/-- Table 9.11. -/
abbrev Reg.LCH_HELLO_RX (d i : Nat) : Nat := 0xb0140 + d * 0x1000000 + i * 0x4
abbrev Reg.LCH_HELLO_RX_bytes (d i : Nat) : Fld := ⟨(Reg.LCH_HELLO_RX d i), 0, 32⟩
/-- Table 9.11. -/
abbrev Reg.LCH_FWD (d i : Nat) : Nat := 0xb0200 + d * 0x1000000 + i * 0x4
abbrev Reg.LCH_FWD_lane (d i : Nat) : Fld := ⟨(Reg.LCH_FWD d i), 0, 8⟩
abbrev Reg.LCH_FWD_valid (d i : Nat) : Fld := ⟨(Reg.LCH_FWD d i), 8, 1⟩
/-- Table 9.11. -/
abbrev Reg.LCH_LINK_CFG (d i : Nat) : Nat := 0xb1000 + d * 0x1000000 + i * 0x40
abbrev Reg.LCH_LINK_CFG_activate (d i : Nat) : Fld := ⟨(Reg.LCH_LINK_CFG d i), 0, 1⟩
abbrev Reg.LCH_LINK_CFG_enc (d i : Nat) : Fld := ⟨(Reg.LCH_LINK_CFG d i), 1, 1⟩
abbrev Reg.LCH_LINK_CFG_key_slot (d i : Nat) : Fld := ⟨(Reg.LCH_LINK_CFG d i), 2, 4⟩
abbrev Reg.LCH_LINK_CFG_partner (d i : Nat) : Fld := ⟨(Reg.LCH_LINK_CFG d i), 6, 7⟩
abbrev Reg.LCH_LINK_CFG_ctl_max (d i : Nat) : Fld := ⟨(Reg.LCH_LINK_CFG d i), 13, 3⟩
abbrev Reg.LCH_LINK_CFG_mgmt_max (d i : Nat) : Fld := ⟨(Reg.LCH_LINK_CFG d i), 16, 3⟩
/-- Table 9.11. -/
abbrev Reg.LCH_LINK_STATUS (d i : Nat) : Nat := 0xb1004 + d * 0x1000000 + i * 0x40
abbrev Reg.LCH_LINK_STATUS_state (d i : Nat) : Fld := ⟨(Reg.LCH_LINK_STATUS d i), 0, 3⟩
abbrev Reg.LCH_LINK_STATUS_hold_in (d i : Nat) : Fld := ⟨(Reg.LCH_LINK_STATUS d i), 3, 1⟩
abbrev Reg.LCH_LINK_STATUS_cmd_refused (d i : Nat) : Fld := ⟨(Reg.LCH_LINK_STATUS d i), 4, 1⟩
abbrev Reg.LCH_LINK_STATUS_next_seq (d i : Nat) : Fld := ⟨(Reg.LCH_LINK_STATUS d i), 8, 24⟩
/-- Table 9.11. -/
abbrev Reg.LCH_LINK_ACK (d i : Nat) : Nat := 0xb1008 + d * 0x1000000 + i * 0x40
abbrev Reg.LCH_LINK_ACK_acked (d i : Nat) : Fld := ⟨(Reg.LCH_LINK_ACK d i), 0, 24⟩
abbrev Reg.LCH_LINK_ACK_unacked (d i : Nat) : Fld := ⟨(Reg.LCH_LINK_ACK d i), 24, 7⟩
/-- Table 9.11. -/
abbrev Reg.LCH_LINK_ERR (d i : Nat) : Nat := 0xb100c + d * 0x1000000 + i * 0x40
abbrev Reg.LCH_LINK_ERR_crc (d i : Nat) : Fld := ⟨(Reg.LCH_LINK_ERR d i), 0, 8⟩
abbrev Reg.LCH_LINK_ERR_replays (d i : Nat) : Fld := ⟨(Reg.LCH_LINK_ERR d i), 8, 8⟩
abbrev Reg.LCH_LINK_ERR_stomped (d i : Nat) : Fld := ⟨(Reg.LCH_LINK_ERR d i), 16, 8⟩
abbrev Reg.LCH_LINK_ERR_discards (d i : Nat) : Fld := ⟨(Reg.LCH_LINK_ERR d i), 24, 8⟩
/-- Table 9.11. -/
abbrev Reg.LCH_LINK_SYNC (d i : Nat) : Nat := 0xb1010 + d * 0x1000000 + i * 0x40
abbrev Reg.LCH_LINK_SYNC_tx_count (d i : Nat) : Fld := ⟨(Reg.LCH_LINK_SYNC d i), 0, 9⟩
abbrev Reg.LCH_LINK_SYNC_rx_count (d i : Nat) : Fld := ⟨(Reg.LCH_LINK_SYNC d i), 16, 9⟩
/-- Table 9.11. -/
abbrev Reg.LCH_LINK_CLR (d i : Nat) : Nat := 0xb1014 + d * 0x1000000 + i * 0x40
abbrev Reg.LCH_LINK_CLR_clear (d i : Nat) : Fld := ⟨(Reg.LCH_LINK_CLR d i), 0, 1⟩
/-- Table 9.11. -/
abbrev Reg.LCH_TMARK_CTL (d i : Nat) : Nat := 0xb1018 + d * 0x1000000 + i * 0x40
abbrev Reg.LCH_TMARK_CTL_send (d i : Nat) : Fld := ⟨(Reg.LCH_TMARK_CTL d i), 0, 1⟩
abbrev Reg.LCH_TMARK_CTL_tx_valid (d i : Nat) : Fld := ⟨(Reg.LCH_TMARK_CTL d i), 1, 1⟩
abbrev Reg.LCH_TMARK_CTL_rx_valid (d i : Nat) : Fld := ⟨(Reg.LCH_TMARK_CTL d i), 2, 1⟩
/-- Table 9.11. -/
abbrev Reg.LCH_TMARK_TX_LO (d i : Nat) : Nat := 0xb1020 + d * 0x1000000 + i * 0x40
abbrev Reg.LCH_TMARK_TX_LO_ticks (d i : Nat) : Fld := ⟨(Reg.LCH_TMARK_TX_LO d i), 0, 32⟩
/-- Table 9.11. -/
abbrev Reg.LCH_TMARK_TX_HI (d i : Nat) : Nat := 0xb1024 + d * 0x1000000 + i * 0x40
abbrev Reg.LCH_TMARK_TX_HI_ticks (d i : Nat) : Fld := ⟨(Reg.LCH_TMARK_TX_HI d i), 0, 32⟩
/-- Table 9.11. -/
abbrev Reg.LCH_TMARK_TX_SEQ (d i : Nat) : Nat := 0xb1028 + d * 0x1000000 + i * 0x40
abbrev Reg.LCH_TMARK_TX_SEQ_seq (d i : Nat) : Fld := ⟨(Reg.LCH_TMARK_TX_SEQ d i), 0, 24⟩
/-- Table 9.11. -/
abbrev Reg.LCH_TMARK_RX_LO (d i : Nat) : Nat := 0xb102c + d * 0x1000000 + i * 0x40
abbrev Reg.LCH_TMARK_RX_LO_ticks (d i : Nat) : Fld := ⟨(Reg.LCH_TMARK_RX_LO d i), 0, 32⟩
/-- Table 9.11. -/
abbrev Reg.LCH_TMARK_RX_HI (d i : Nat) : Nat := 0xb1030 + d * 0x1000000 + i * 0x40
abbrev Reg.LCH_TMARK_RX_HI_ticks (d i : Nat) : Fld := ⟨(Reg.LCH_TMARK_RX_HI d i), 0, 32⟩
/-- Table 9.11. -/
abbrev Reg.LCH_TMARK_RX_SEQ (d i : Nat) : Nat := 0xb1034 + d * 0x1000000 + i * 0x40
abbrev Reg.LCH_TMARK_RX_SEQ_seq (d i : Nat) : Fld := ⟨(Reg.LCH_TMARK_RX_SEQ d i), 0, 24⟩
/-- Table 10.13. -/
abbrev Reg.CFG_FEATURE_MASK : Nat := 0x200c0000
abbrev Reg.CFG_FEATURE_MASK_mask : Fld := ⟨Reg.CFG_FEATURE_MASK, 0, 32⟩
/-- Table 10.13. -/
abbrev Reg.CFG_PART_CODE : Nat := 0x200c0004
abbrev Reg.CFG_PART_CODE_code : Fld := ⟨Reg.CFG_PART_CODE, 0, 32⟩
/-- Table 10.13. -/
abbrev Reg.CFG_CTL : Nat := 0x200c0008
abbrev Reg.CFG_CTL_path : Fld := ⟨Reg.CFG_CTL, 0, 2⟩
abbrev Reg.CFG_CTL_arm : Fld := ⟨Reg.CFG_CTL, 2, 1⟩
abbrev Reg.CFG_CTL_abort : Fld := ⟨Reg.CFG_CTL, 3, 1⟩
abbrev Reg.CFG_CTL_restart : Fld := ⟨Reg.CFG_CTL, 4, 1⟩
abbrev Reg.CFG_CTL_done_release : Fld := ⟨Reg.CFG_CTL, 5, 1⟩
/-- Table 10.13. -/
abbrev Reg.CFG_STATUS : Nat := 0x200c000c
abbrev Reg.CFG_STATUS_state : Fld := ⟨Reg.CFG_STATUS, 0, 3⟩
abbrev Reg.CFG_STATUS_design_loaded : Fld := ⟨Reg.CFG_STATUS, 3, 1⟩
abbrev Reg.CFG_STATUS_done_in : Fld := ⟨Reg.CFG_STATUS, 4, 1⟩
abbrev Reg.CFG_STATUS_err_in : Fld := ⟨Reg.CFG_STATUS, 5, 1⟩
abbrev Reg.CFG_STATUS_done_drive : Fld := ⟨Reg.CFG_STATUS, 6, 1⟩
abbrev Reg.CFG_STATUS_done_timeout : Fld := ⟨Reg.CFG_STATUS, 7, 1⟩
abbrev Reg.CFG_STATUS_reconfiguring : Fld := ⟨Reg.CFG_STATUS, 8, 1⟩
/-- Table 10.13. -/
abbrev Reg.CFG_FAIL : Nat := 0x200c0010
abbrev Reg.CFG_FAIL_cause : Fld := ⟨Reg.CFG_FAIL, 0, 4⟩
abbrev Reg.CFG_FAIL_section : Fld := ⟨Reg.CFG_FAIL, 4, 8⟩
/-- Table 10.13. -/
abbrev Reg.CFG_FAIL_OFFSET : Nat := 0x200c0014
abbrev Reg.CFG_FAIL_OFFSET_offset : Fld := ⟨Reg.CFG_FAIL_OFFSET, 0, 32⟩
/-- Table 10.13. -/
abbrev Reg.CFG_SECTIONS : Nat := 0x200c0018
abbrev Reg.CFG_SECTIONS_accepted : Fld := ⟨Reg.CFG_SECTIONS, 0, 8⟩
abbrev Reg.CFG_SECTIONS_skipped : Fld := ⟨Reg.CFG_SECTIONS, 8, 8⟩
/-- Table 10.13. -/
abbrev Reg.CFG_DONE_TIMEOUT : Nat := 0x200c001c
abbrev Reg.CFG_DONE_TIMEOUT_ms : Fld := ⟨Reg.CFG_DONE_TIMEOUT, 0, 32⟩
/-- Table 10.13. -/
abbrev Reg.CFG_BUS_IDLE : Nat := 0x200c0020
abbrev Reg.CFG_BUS_IDLE_ms : Fld := ⟨Reg.CFG_BUS_IDLE, 0, 32⟩
/-- Table 10.13. -/
abbrev Reg.CFG_SERIAL_LO : Nat := 0x200c0024
abbrev Reg.CFG_SERIAL_LO_serial : Fld := ⟨Reg.CFG_SERIAL_LO, 0, 32⟩
/-- Table 10.13. -/
abbrev Reg.CFG_SERIAL_HI : Nat := 0x200c0028
abbrev Reg.CFG_SERIAL_HI_serial : Fld := ⟨Reg.CFG_SERIAL_HI, 0, 32⟩
/-- Table 10.13. -/
abbrev Reg.CFG_RX_BYTES_LO : Nat := 0x200c002c
abbrev Reg.CFG_RX_BYTES_LO_bytes : Fld := ⟨Reg.CFG_RX_BYTES_LO, 0, 32⟩
/-- Table 10.13. -/
abbrev Reg.CFG_RX_BYTES_HI : Nat := 0x200c0030
abbrev Reg.CFG_RX_BYTES_HI_bytes : Fld := ⟨Reg.CFG_RX_BYTES_HI, 0, 32⟩
/-- Table 10.13. -/
abbrev Reg.CFG_REGION (i : Nat) : Nat := 0x200c0040 + i * 0x4
abbrev Reg.CFG_REGION_fields (i : Nat) : Fld := ⟨(Reg.CFG_REGION i), 0, 32⟩
/-- Table 10.13. -/
abbrev Reg.CFG_ISO_SEL : Nat := 0x200c0080
abbrev Reg.CFG_ISO_SEL_field : Fld := ⟨Reg.CFG_ISO_SEL, 0, 9⟩
abbrev Reg.CFG_ISO_SEL_port : Fld := ⟨Reg.CFG_ISO_SEL, 9, 14⟩
/-- Table 10.13. -/
abbrev Reg.CFG_ISO_DATA : Nat := 0x200c0084
abbrev Reg.CFG_ISO_DATA_choice : Fld := ⟨Reg.CFG_ISO_DATA, 0, 2⟩
/-- Table 10.14. -/
abbrev Reg.CFG_FW_STATUS (d : Nat) : Nat := 0xc0000 + d * 0x1000000
abbrev Reg.CFG_FW_STATUS_busy (d : Nat) : Fld := ⟨(Reg.CFG_FW_STATUS d), 0, 1⟩
abbrev Reg.CFG_FW_STATUS_clearing (d : Nat) : Fld := ⟨(Reg.CFG_FW_STATUS d), 1, 1⟩
/-- Table 10.14. -/
abbrev Reg.CFG_FW_FRAMES (d : Nat) : Nat := 0xc0004 + d * 0x1000000
abbrev Reg.CFG_FW_FRAMES_count (d : Nat) : Fld := ⟨(Reg.CFG_FW_FRAMES d), 0, 32⟩
/-- Table 11.10. -/
abbrev Reg.ERR_CTL (d : Nat) : Nat := 0xf0000 + d * 0x1000000
abbrev Reg.ERR_CTL_irq_min (d : Nat) : Fld := ⟨(Reg.ERR_CTL d), 0, 3⟩
abbrev Reg.ERR_CTL_irq_en (d : Nat) : Fld := ⟨(Reg.ERR_CTL d), 3, 1⟩
/-- Table 11.10. -/
abbrev Reg.ERR_FIFO_STATUS (d : Nat) : Nat := 0xf0004 + d * 0x1000000
abbrev Reg.ERR_FIFO_STATUS_count (d : Nat) : Fld := ⟨(Reg.ERR_FIFO_STATUS d), 0, 5⟩
abbrev Reg.ERR_FIFO_STATUS_urgent (d : Nat) : Fld := ⟨(Reg.ERR_FIFO_STATUS d), 5, 1⟩
abbrev Reg.ERR_FIFO_STATUS_pending_ovf (d : Nat) : Fld := ⟨(Reg.ERR_FIFO_STATUS d), 16, 16⟩
/-- Table 11.10. -/
abbrev Reg.ERR_FIFO_POP (d : Nat) : Nat := 0xf0008 + d * 0x1000000
abbrev Reg.ERR_FIFO_POP_pop (d : Nat) : Fld := ⟨(Reg.ERR_FIFO_POP d), 0, 1⟩
/-- Table 11.10. -/
abbrev Reg.ERR_SEQ (d : Nat) : Nat := 0xf000c + d * 0x1000000
abbrev Reg.ERR_SEQ_seq (d : Nat) : Fld := ⟨(Reg.ERR_SEQ d), 0, 32⟩
/-- Table 11.10. -/
abbrev Reg.ERR_HEAD (d i : Nat) : Nat := 0xf0040 + d * 0x1000000 + i * 0x4
abbrev Reg.ERR_HEAD_bytes (d i : Nat) : Fld := ⟨(Reg.ERR_HEAD d i), 0, 32⟩
/-- Table 11.10. -/
abbrev Reg.ERR_SCRUB_CTL (d i : Nat) : Nat := 0xf0100 + d * 0x1000000 + i * 0x40
abbrev Reg.ERR_SCRUB_CTL_pause (d i : Nat) : Fld := ⟨(Reg.ERR_SCRUB_CTL d i), 0, 1⟩
/-- Table 11.10. -/
abbrev Reg.ERR_SCRUB_STATUS (d i : Nat) : Nat := 0xf0104 + d * 0x1000000 + i * 0x40
abbrev Reg.ERR_SCRUB_STATUS_in_progress (d i : Nat) : Fld := ⟨(Reg.ERR_SCRUB_STATUS d i), 0, 1⟩
abbrev Reg.ERR_SCRUB_STATUS_laps (d i : Nat) : Fld := ⟨(Reg.ERR_SCRUB_STATUS d i), 16, 16⟩
/-- Table 11.10. -/
abbrev Reg.ERR_SCRUB_LAP_US (d i : Nat) : Nat := 0xf0108 + d * 0x1000000 + i * 0x40
abbrev Reg.ERR_SCRUB_LAP_US_us (d i : Nat) : Fld := ⟨(Reg.ERR_SCRUB_LAP_US d i), 0, 32⟩
/-- Table 11.10. -/
abbrev Reg.ERR_SCRUB_POS (d i : Nat) : Nat := 0xf010c + d * 0x1000000 + i * 0x40
abbrev Reg.ERR_SCRUB_POS_unit (d i : Nat) : Fld := ⟨(Reg.ERR_SCRUB_POS d i), 0, 32⟩
/-- Table 11.10. -/
abbrev Reg.ERR_SCRUB_CE (d i : Nat) : Nat := 0xf0110 + d * 0x1000000 + i * 0x40
abbrev Reg.ERR_SCRUB_CE_count (d i : Nat) : Fld := ⟨(Reg.ERR_SCRUB_CE d i), 0, 32⟩
/-- Table 11.10. -/
abbrev Reg.ERR_SCRUB_UE (d i : Nat) : Nat := 0xf0114 + d * 0x1000000 + i * 0x40
abbrev Reg.ERR_SCRUB_UE_count (d i : Nat) : Fld := ⟨(Reg.ERR_SCRUB_UE d i), 0, 16⟩
/-- Table 11.10. -/
abbrev Reg.ERR_BKT_CFG (d i : Nat) : Nat := 0xf0118 + d * 0x1000000 + i * 0x40
abbrev Reg.ERR_BKT_CFG_leak_ms (d i : Nat) : Fld := ⟨(Reg.ERR_BKT_CFG d i), 0, 16⟩
abbrev Reg.ERR_BKT_CFG_threshold (d i : Nat) : Fld := ⟨(Reg.ERR_BKT_CFG d i), 16, 16⟩
/-- Table 11.10. -/
abbrev Reg.ERR_BKT_STATUS (d i : Nat) : Nat := 0xf011c + d * 0x1000000 + i * 0x40
abbrev Reg.ERR_BKT_STATUS_level (d i : Nat) : Fld := ⟨(Reg.ERR_BKT_STATUS d i), 0, 16⟩
abbrev Reg.ERR_BKT_STATUS_overflow (d i : Nat) : Fld := ⟨(Reg.ERR_BKT_STATUS d i), 16, 1⟩
/-- Table 11.11. -/
abbrev Reg.ERR_HALT_STATUS : Nat := 0x200f0000
abbrev Reg.ERR_HALT_STATUS_halted : Fld := ⟨Reg.ERR_HALT_STATUS, 0, 1⟩
abbrev Reg.ERR_HALT_STATUS_cause_valid : Fld := ⟨Reg.ERR_HALT_STATUS, 1, 1⟩
abbrev Reg.ERR_HALT_STATUS_halt_count : Fld := ⟨Reg.ERR_HALT_STATUS, 8, 8⟩
/-- Table 11.11. -/
abbrev Reg.ERR_HALT_CAUSE : Nat := 0x200f0004
abbrev Reg.ERR_HALT_CAUSE_class : Fld := ⟨Reg.ERR_HALT_CAUSE, 0, 16⟩
abbrev Reg.ERR_HALT_CAUSE_die : Fld := ⟨Reg.ERR_HALT_CAUSE, 16, 8⟩
abbrev Reg.ERR_HALT_CAUSE_block : Fld := ⟨Reg.ERR_HALT_CAUSE, 24, 8⟩
/-- Table 11.11. -/
abbrev Reg.ERR_HALT_UNIT : Nat := 0x200f0008
abbrev Reg.ERR_HALT_UNIT_unit : Fld := ⟨Reg.ERR_HALT_UNIT, 0, 16⟩
/-- Table 11.11. -/
abbrev Reg.ERR_HALT_TIME_LO : Nat := 0x200f000c
abbrev Reg.ERR_HALT_TIME_LO_ticks : Fld := ⟨Reg.ERR_HALT_TIME_LO, 0, 32⟩
/-- Table 11.11. -/
abbrev Reg.ERR_HALT_TIME_HI : Nat := 0x200f0010
abbrev Reg.ERR_HALT_TIME_HI_ticks : Fld := ⟨Reg.ERR_HALT_TIME_HI, 0, 32⟩
/-- Table 11.11. -/
abbrev Reg.ERR_HALT_ADDR_LO : Nat := 0x200f0014
abbrev Reg.ERR_HALT_ADDR_LO_addr : Fld := ⟨Reg.ERR_HALT_ADDR_LO, 0, 32⟩
/-- Table 11.11. -/
abbrev Reg.ERR_HALT_ADDR_HI : Nat := 0x200f0018
abbrev Reg.ERR_HALT_ADDR_HI_addr : Fld := ⟨Reg.ERR_HALT_ADDR_HI, 0, 16⟩
/-- Table 11.11. -/
abbrev Reg.ERR_HALT_CLR : Nat := 0x200f001c
abbrev Reg.ERR_HALT_CLR_clear : Fld := ⟨Reg.ERR_HALT_CLR, 0, 1⟩
/-- Table 11.11. -/
abbrev Reg.ERR_CRIT (i : Nat) : Nat := 0x200f0100 + i * 0x4
abbrev Reg.ERR_CRIT_field (i : Nat) : Fld := ⟨(Reg.ERR_CRIT i), 0, 9⟩
abbrev Reg.ERR_CRIT_enable (i : Nat) : Fld := ⟨(Reg.ERR_CRIT i), 9, 1⟩
abbrev Reg.ERR_CRIT_freeze_first (i : Nat) : Fld := ⟨(Reg.ERR_CRIT i), 10, 1⟩
abbrev Reg.ERR_CRIT_map_mb (i : Nat) : Fld := ⟨(Reg.ERR_CRIT i), 11, 5⟩
/-- Table 11.12. -/
abbrev Reg.GLEAN_CTL (d : Nat) : Nat := 0xd0000 + d * 0x1000000
abbrev Reg.GLEAN_CTL_pause (d : Nat) : Fld := ⟨(Reg.GLEAN_CTL d), 0, 1⟩
abbrev Reg.GLEAN_CTL_golden_en (d : Nat) : Fld := ⟨(Reg.GLEAN_CTL d), 1, 1⟩
abbrev Reg.GLEAN_CTL_ue_freeze (d : Nat) : Fld := ⟨(Reg.GLEAN_CTL d), 2, 1⟩
/-- Table 11.12. -/
abbrev Reg.GLEAN_STATUS (d : Nat) : Nat := 0xd0004 + d * 0x1000000
abbrev Reg.GLEAN_STATUS_in_progress (d : Nat) : Fld := ⟨(Reg.GLEAN_STATUS d), 0, 1⟩
abbrev Reg.GLEAN_STATUS_reloading (d : Nat) : Fld := ⟨(Reg.GLEAN_STATUS d), 1, 1⟩
abbrev Reg.GLEAN_STATUS_cmd_refused (d : Nat) : Fld := ⟨(Reg.GLEAN_STATUS d), 2, 1⟩
abbrev Reg.GLEAN_STATUS_laps (d : Nat) : Fld := ⟨(Reg.GLEAN_STATUS d), 16, 16⟩
/-- Table 11.12. -/
abbrev Reg.GLEAN_LAP_US (d : Nat) : Nat := 0xd0008 + d * 0x1000000
abbrev Reg.GLEAN_LAP_US_us (d : Nat) : Fld := ⟨(Reg.GLEAN_LAP_US d), 0, 32⟩
/-- Table 11.12. -/
abbrev Reg.GLEAN_POS (d : Nat) : Nat := 0xd000c + d * 0x1000000
abbrev Reg.GLEAN_POS_frame (d : Nat) : Fld := ⟨(Reg.GLEAN_POS d), 0, 16⟩
/-- Table 11.12. -/
abbrev Reg.GLEAN_CE (d : Nat) : Nat := 0xd0010 + d * 0x1000000
abbrev Reg.GLEAN_CE_count (d : Nat) : Fld := ⟨(Reg.GLEAN_CE d), 0, 32⟩
/-- Table 11.12. -/
abbrev Reg.GLEAN_UE (d : Nat) : Nat := 0xd0014 + d * 0x1000000
abbrev Reg.GLEAN_UE_ue (d : Nat) : Fld := ⟨(Reg.GLEAN_UE d), 0, 16⟩
abbrev Reg.GLEAN_UE_essential (d : Nat) : Fld := ⟨(Reg.GLEAN_UE d), 16, 16⟩
/-- Table 11.12. -/
abbrev Reg.GLEAN_BKT_CFG (d : Nat) : Nat := 0xd0018 + d * 0x1000000
abbrev Reg.GLEAN_BKT_CFG_leak_ms (d : Nat) : Fld := ⟨(Reg.GLEAN_BKT_CFG d), 0, 16⟩
abbrev Reg.GLEAN_BKT_CFG_threshold (d : Nat) : Fld := ⟨(Reg.GLEAN_BKT_CFG d), 16, 16⟩
/-- Table 11.12. -/
abbrev Reg.GLEAN_BKT_STATUS (d : Nat) : Nat := 0xd001c + d * 0x1000000
abbrev Reg.GLEAN_BKT_STATUS_level (d : Nat) : Fld := ⟨(Reg.GLEAN_BKT_STATUS d), 0, 16⟩
abbrev Reg.GLEAN_BKT_STATUS_overflow (d : Nat) : Fld := ⟨(Reg.GLEAN_BKT_STATUS d), 16, 1⟩
/-- Table 11.12. -/
abbrev Reg.GLEAN_CORRUPT (d : Nat) : Nat := 0xd0020 + d * 0x1000000
abbrev Reg.GLEAN_CORRUPT_corrupt (d : Nat) : Fld := ⟨(Reg.GLEAN_CORRUPT d), 0, 32⟩
/-- Table 11.12. -/
abbrev Reg.GLEAN_UNFREEZE (d : Nat) : Nat := 0xd0024 + d * 0x1000000
abbrev Reg.GLEAN_UNFREEZE_release (d : Nat) : Fld := ⟨(Reg.GLEAN_UNFREEZE d), 0, 32⟩
/-- Table 11.12. -/
abbrev Reg.GLEAN_GOLDEN_LO (d : Nat) : Nat := 0xd0028 + d * 0x1000000
abbrev Reg.GLEAN_GOLDEN_LO_base (d : Nat) : Fld := ⟨(Reg.GLEAN_GOLDEN_LO d), 12, 20⟩
/-- Table 11.12. -/
abbrev Reg.GLEAN_GOLDEN_HI (d : Nat) : Nat := 0xd002c + d * 0x1000000
abbrev Reg.GLEAN_GOLDEN_HI_base (d : Nat) : Fld := ⟨(Reg.GLEAN_GOLDEN_HI d), 0, 16⟩
/-- Table 11.13. -/
abbrev Reg.GRAN_TEST_CTL (d : Nat) : Nat := 0xe0000 + d * 0x1000000
abbrev Reg.GRAN_TEST_CTL_pause (d : Nat) : Fld := ⟨(Reg.GRAN_TEST_CTL d), 0, 1⟩
abbrev Reg.GRAN_TEST_CTL_interval_us (d : Nat) : Fld := ⟨(Reg.GRAN_TEST_CTL d), 16, 16⟩
/-- Table 11.13. -/
abbrev Reg.GRAN_TEST_STATUS (d : Nat) : Nat := 0xe0004 + d * 0x1000000
abbrev Reg.GRAN_TEST_STATUS_active (d : Nat) : Fld := ⟨(Reg.GRAN_TEST_STATUS d), 0, 1⟩
abbrev Reg.GRAN_TEST_STATUS_in_progress (d : Nat) : Fld := ⟨(Reg.GRAN_TEST_STATUS d), 1, 1⟩
abbrev Reg.GRAN_TEST_STATUS_region (d : Nat) : Fld := ⟨(Reg.GRAN_TEST_STATUS d), 2, 13⟩
abbrev Reg.GRAN_TEST_STATUS_laps (d : Nat) : Fld := ⟨(Reg.GRAN_TEST_STATUS d), 16, 16⟩
/-- Table 11.13. -/
abbrev Reg.GRAN_TEST_LAP_US (d : Nat) : Nat := 0xe0008 + d * 0x1000000
abbrev Reg.GRAN_TEST_LAP_US_us (d : Nat) : Fld := ⟨(Reg.GRAN_TEST_LAP_US d), 0, 32⟩
/-- Table 11.13. -/
abbrev Reg.GRAN_REPAIRS (d : Nat) : Nat := 0xe000c + d * 0x1000000
abbrev Reg.GRAN_REPAIRS_remapped (d : Nat) : Fld := ⟨(Reg.GRAN_REPAIRS d), 0, 16⟩
abbrev Reg.GRAN_REPAIRS_no_spare (d : Nat) : Fld := ⟨(Reg.GRAN_REPAIRS d), 16, 16⟩
/-- Table 11.13. -/
abbrev Reg.GRAN_SPARE (d i : Nat) : Nat := 0xe0100 + d * 0x1000000 + i * 0x4
abbrev Reg.GRAN_SPARE_used (d i : Nat) : Fld := ⟨(Reg.GRAN_SPARE d i), 0, 3⟩
abbrev Reg.GRAN_SPARE_exhausted (d i : Nat) : Fld := ⟨(Reg.GRAN_SPARE d i), 3, 1⟩
/-- Table 12.3. -/
abbrev Reg.ID_MAGIC : Nat := 0x100000000
abbrev Reg.ID_MAGIC_magic : Fld := ⟨Reg.ID_MAGIC, 0, 32⟩
/-- Table 12.3. -/
abbrev Reg.ID_FW_VERSION : Nat := 0x100000004
abbrev Reg.ID_FW_VERSION_patch : Fld := ⟨Reg.ID_FW_VERSION, 0, 8⟩
abbrev Reg.ID_FW_VERSION_minor : Fld := ⟨Reg.ID_FW_VERSION, 8, 8⟩
abbrev Reg.ID_FW_VERSION_major : Fld := ⟨Reg.ID_FW_VERSION, 16, 8⟩
/-- Table 12.3. -/
abbrev Reg.ID_STATE : Nat := 0x100000008
abbrev Reg.ID_STATE_sp_state : Fld := ⟨Reg.ID_STATE, 0, 3⟩
abbrev Reg.ID_STATE_halted : Fld := ⟨Reg.ID_STATE, 3, 1⟩
abbrev Reg.ID_STATE_cfg_err : Fld := ⟨Reg.ID_STATE, 4, 1⟩
abbrev Reg.ID_STATE_design_loaded : Fld := ⟨Reg.ID_STATE, 5, 1⟩
abbrev Reg.ID_STATE_running : Fld := ⟨Reg.ID_STATE, 6, 1⟩
abbrev Reg.ID_STATE_lifecycle : Fld := ⟨Reg.ID_STATE, 7, 3⟩
abbrev Reg.ID_STATE_role : Fld := ⟨Reg.ID_STATE, 10, 2⟩
abbrev Reg.ID_STATE_position : Fld := ⟨Reg.ID_STATE, 12, 7⟩
abbrev Reg.ID_STATE_pos_valid : Fld := ⟨Reg.ID_STATE, 19, 1⟩
/-- Table 12.3. -/
abbrev Reg.ID_BOOT_CAUSE : Nat := 0x10000000c
abbrev Reg.ID_BOOT_CAUSE_cause : Fld := ⟨Reg.ID_BOOT_CAUSE, 0, 4⟩
/-- Table 12.3. -/
abbrev Reg.ID_SERIAL_LO : Nat := 0x100000010
abbrev Reg.ID_SERIAL_LO_serial : Fld := ⟨Reg.ID_SERIAL_LO, 0, 32⟩
/-- Table 12.3. -/
abbrev Reg.ID_SERIAL_HI : Nat := 0x100000014
abbrev Reg.ID_SERIAL_HI_serial : Fld := ⟨Reg.ID_SERIAL_HI, 0, 32⟩
/-- Table 12.3. -/
abbrev Reg.ID_FEATURES : Nat := 0x100000018
abbrev Reg.ID_FEATURES_mask : Fld := ⟨Reg.ID_FEATURES, 0, 32⟩
/-- Table 12.3. -/
abbrev Reg.ID_WORLDS : Nat := 0x10000001c
abbrev Reg.ID_WORLDS_secure : Fld := ⟨Reg.ID_WORLDS, 0, 16⟩
/-- Table 12.3. -/
abbrev Reg.ID_HEARTBEAT : Nat := 0x100000020
abbrev Reg.ID_HEARTBEAT_count : Fld := ⟨Reg.ID_HEARTBEAT, 0, 32⟩
/-- Table 12.3. -/
abbrev Reg.ID_EVENTS : Nat := 0x100000024
abbrev Reg.ID_EVENTS_pending : Fld := ⟨Reg.ID_EVENTS, 0, 8⟩
/-- Table 12.3. -/
abbrev Reg.ID_BOOT_DOORBELL : Nat := 0x100000040
abbrev Reg.ID_BOOT_DOORBELL_go : Fld := ⟨Reg.ID_BOOT_DOORBELL, 0, 1⟩
/-- Table 12.4. -/
abbrev Reg.MB_CTL (i : Nat) : Nat := 0x100010000 + i * 0x1000
abbrev Reg.MB_CTL_enable (i : Nat) : Fld := ⟨(Reg.MB_CTL i), 0, 1⟩
abbrev Reg.MB_CTL_priority (i : Nat) : Fld := ⟨(Reg.MB_CTL i), 1, 3⟩
abbrev Reg.MB_CTL_world (i : Nat) : Fld := ⟨(Reg.MB_CTL i), 4, 1⟩
abbrev Reg.MB_CTL_vector (i : Nat) : Fld := ⟨(Reg.MB_CTL i), 5, 6⟩
abbrev Reg.MB_CTL_irq_en (i : Nat) : Fld := ⟨(Reg.MB_CTL i), 11, 1⟩
/-- Table 12.4. -/
abbrev Reg.MB_STATUS (i : Nat) : Nat := 0x100010004 + i * 0x1000
abbrev Reg.MB_STATUS_fetching (i : Nat) : Fld := ⟨(Reg.MB_STATUS i), 0, 1⟩
abbrev Reg.MB_STATUS_error (i : Nat) : Fld := ⟨(Reg.MB_STATUS i), 1, 1⟩
abbrev Reg.MB_STATUS_cause (i : Nat) : Fld := ⟨(Reg.MB_STATUS i), 2, 2⟩
abbrev Reg.MB_STATUS_long_queued (i : Nat) : Fld := ⟨(Reg.MB_STATUS i), 4, 3⟩
/-- Table 12.4. -/
abbrev Reg.MB_CMD_BASE_LO (i : Nat) : Nat := 0x100010008 + i * 0x1000
abbrev Reg.MB_CMD_BASE_LO_base (i : Nat) : Fld := ⟨(Reg.MB_CMD_BASE_LO i), 0, 32⟩
/-- Table 12.4. -/
abbrev Reg.MB_CMD_BASE_HI (i : Nat) : Nat := 0x10001000c + i * 0x1000
abbrev Reg.MB_CMD_BASE_HI_base (i : Nat) : Fld := ⟨(Reg.MB_CMD_BASE_HI i), 0, 32⟩
/-- Table 12.4. -/
abbrev Reg.MB_CMD_SIZE (i : Nat) : Nat := 0x100010010 + i * 0x1000
abbrev Reg.MB_CMD_SIZE_log2 (i : Nat) : Fld := ⟨(Reg.MB_CMD_SIZE i), 0, 4⟩
/-- Table 12.4. -/
abbrev Reg.MB_CMD_TAIL (i : Nat) : Nat := 0x100010014 + i * 0x1000
abbrev Reg.MB_CMD_TAIL_tail (i : Nat) : Fld := ⟨(Reg.MB_CMD_TAIL i), 0, 16⟩
/-- Table 12.4. -/
abbrev Reg.MB_CMD_HEAD (i : Nat) : Nat := 0x100010018 + i * 0x1000
abbrev Reg.MB_CMD_HEAD_head (i : Nat) : Fld := ⟨(Reg.MB_CMD_HEAD i), 0, 16⟩
/-- Table 12.4. -/
abbrev Reg.MB_RSP_BASE_LO (i : Nat) : Nat := 0x100010020 + i * 0x1000
abbrev Reg.MB_RSP_BASE_LO_base (i : Nat) : Fld := ⟨(Reg.MB_RSP_BASE_LO i), 0, 32⟩
/-- Table 12.4. -/
abbrev Reg.MB_RSP_BASE_HI (i : Nat) : Nat := 0x100010024 + i * 0x1000
abbrev Reg.MB_RSP_BASE_HI_base (i : Nat) : Fld := ⟨(Reg.MB_RSP_BASE_HI i), 0, 32⟩
/-- Table 12.4. -/
abbrev Reg.MB_RSP_SIZE (i : Nat) : Nat := 0x100010028 + i * 0x1000
abbrev Reg.MB_RSP_SIZE_log2 (i : Nat) : Fld := ⟨(Reg.MB_RSP_SIZE i), 0, 4⟩
/-- Table 12.4. -/
abbrev Reg.MB_RSP_TAIL (i : Nat) : Nat := 0x10001002c + i * 0x1000
abbrev Reg.MB_RSP_TAIL_tail (i : Nat) : Fld := ⟨(Reg.MB_RSP_TAIL i), 0, 16⟩
/-- Table 12.4. -/
abbrev Reg.MB_RSP_HEAD (i : Nat) : Nat := 0x100010030 + i * 0x1000
abbrev Reg.MB_RSP_HEAD_head (i : Nat) : Fld := ⟨(Reg.MB_RSP_HEAD i), 0, 16⟩
/-- Table 12.4. -/
abbrev Reg.MB_IRQ_HOLDOFF (i : Nat) : Nat := 0x100010034 + i * 0x1000
abbrev Reg.MB_IRQ_HOLDOFF_us (i : Nat) : Fld := ⟨(Reg.MB_IRQ_HOLDOFF i), 0, 16⟩
/-- Table 13.11. -/
abbrev Reg.SEC_FIELD_WORLD (i : Nat) : Nat := 0x20130000 + i * 0x4
abbrev Reg.SEC_FIELD_WORLD_secure (i : Nat) : Fld := ⟨(Reg.SEC_FIELD_WORLD i), 0, 32⟩
/-- Table 13.11. -/
abbrev Reg.SEC_GRAN_WORLD (i : Nat) : Nat := 0x20130040 + i * 0x4
abbrev Reg.SEC_GRAN_WORLD_region (i : Nat) : Fld := ⟨(Reg.SEC_GRAN_WORLD i), 0, 16⟩
abbrev Reg.SEC_GRAN_WORLD_partition_mb (i : Nat) : Fld := ⟨(Reg.SEC_GRAN_WORLD i), 16, 4⟩
/-- Table 13.11. -/
abbrev Reg.SEC_HBM_WORLD_LO : Nat := 0x20130050
abbrev Reg.SEC_HBM_WORLD_LO_secure : Fld := ⟨Reg.SEC_HBM_WORLD_LO, 0, 32⟩
/-- Table 13.11. -/
abbrev Reg.SEC_HBM_WORLD_HI : Nat := 0x20130054
abbrev Reg.SEC_HBM_WORLD_HI_secure : Fld := ⟨Reg.SEC_HBM_WORLD_HI, 0, 32⟩
/-- Table 13.11. -/
abbrev Reg.SEC_PAGE_WORLD : Nat := 0x20130058
abbrev Reg.SEC_PAGE_WORLD_secure : Fld := ⟨Reg.SEC_PAGE_WORLD, 0, 26⟩
/-- Table 13.11. -/
abbrev Reg.SEC_MBX_WORLD : Nat := 0x2013005c
abbrev Reg.SEC_MBX_WORLD_secure : Fld := ⟨Reg.SEC_MBX_WORLD, 0, 16⟩
/-- Table 13.11. -/
abbrev Reg.SEC_LOCK : Nat := 0x20130060
abbrev Reg.SEC_LOCK_lock : Fld := ⟨Reg.SEC_LOCK, 0, 1⟩
/-- Table 13.11. -/
abbrev Reg.SEC_STATUS : Nat := 0x20130064
abbrev Reg.SEC_STATUS_wipe_busy : Fld := ⟨Reg.SEC_STATUS, 0, 1⟩
abbrev Reg.SEC_STATUS_cmd_refused : Fld := ⟨Reg.SEC_STATUS, 1, 1⟩
abbrev Reg.SEC_STATUS_core0_held : Fld := ⟨Reg.SEC_STATUS, 2, 1⟩
/-- Table 13.11. -/
abbrev Reg.SEC_TAMPER_EN : Nat := 0x20130068
abbrev Reg.SEC_TAMPER_EN_enable : Fld := ⟨Reg.SEC_TAMPER_EN, 0, 5⟩
/-- Table 13.11. -/
abbrev Reg.SEC_TAMPER_STATUS : Nat := 0x2013006c
abbrev Reg.SEC_TAMPER_STATUS_seen : Fld := ⟨Reg.SEC_TAMPER_STATUS, 0, 5⟩
abbrev Reg.SEC_TAMPER_STATUS_pin_level : Fld := ⟨Reg.SEC_TAMPER_STATUS, 5, 1⟩
/-- Table 13.11. -/
abbrev Reg.SEC_POLICY : Nat := 0x20130070
abbrev Reg.SEC_POLICY_auth_required : Fld := ⟨Reg.SEC_POLICY, 0, 1⟩
/-- Table 13.11. -/
abbrev Reg.SEC_KEY_VALID0 : Nat := 0x20130080
abbrev Reg.SEC_KEY_VALID0_bitstream : Fld := ⟨Reg.SEC_KEY_VALID0, 0, 16⟩
abbrev Reg.SEC_KEY_VALID0_memsec : Fld := ⟨Reg.SEC_KEY_VALID0, 16, 16⟩
/-- Table 13.11. -/
abbrev Reg.SEC_KEY_VALID1 : Nat := 0x20130084
abbrev Reg.SEC_KEY_VALID1_link : Fld := ⟨Reg.SEC_KEY_VALID1, 0, 16⟩
abbrev Reg.SEC_KEY_VALID1_auth : Fld := ⟨Reg.SEC_KEY_VALID1, 16, 8⟩
/-- Table 13.11. -/
abbrev Reg.SEC_UNWRAP_CTL : Nat := 0x20130090
abbrev Reg.SEC_UNWRAP_CTL_offset : Fld := ⟨Reg.SEC_UNWRAP_CTL, 0, 20⟩
abbrev Reg.SEC_UNWRAP_CTL_go : Fld := ⟨Reg.SEC_UNWRAP_CTL, 20, 1⟩
abbrev Reg.SEC_UNWRAP_CTL_clear : Fld := ⟨Reg.SEC_UNWRAP_CTL, 21, 1⟩
/-- Table 13.11. -/
abbrev Reg.SEC_UNWRAP_STATUS : Nat := 0x20130094
abbrev Reg.SEC_UNWRAP_STATUS_busy : Fld := ⟨Reg.SEC_UNWRAP_STATUS, 0, 1⟩
abbrev Reg.SEC_UNWRAP_STATUS_fail : Fld := ⟨Reg.SEC_UNWRAP_STATUS, 1, 1⟩
abbrev Reg.SEC_UNWRAP_STATUS_fail_code : Fld := ⟨Reg.SEC_UNWRAP_STATUS, 2, 2⟩
/-- Table 13.11. -/
abbrev Reg.SEC_DEVICE_PUB (i : Nat) : Nat := 0x20130100 + i * 0x4
abbrev Reg.SEC_DEVICE_PUB_key (i : Nat) : Fld := ⟨(Reg.SEC_DEVICE_PUB i), 0, 32⟩
/-- Table 13.12. -/
abbrev Reg.LC_STATE : Nat := 0x20140000
abbrev Reg.LC_STATE_state : Fld := ⟨Reg.LC_STATE, 0, 3⟩
abbrev Reg.LC_STATE_fuse_busy : Fld := ⟨Reg.LC_STATE, 3, 1⟩
abbrev Reg.LC_STATE_vcc_fuse_ok : Fld := ⟨Reg.LC_STATE, 4, 1⟩
abbrev Reg.LC_STATE_debug : Fld := ⟨Reg.LC_STATE, 5, 2⟩
/-- Table 13.12. -/
abbrev Reg.LC_CHALLENGE (i : Nat) : Nat := 0x20140010 + i * 0x4
abbrev Reg.LC_CHALLENGE_nonce (i : Nat) : Fld := ⟨(Reg.LC_CHALLENGE i), 0, 32⟩
/-- Table 13.12. -/
abbrev Reg.LC_CHALLENGE_CTL : Nat := 0x20140020
abbrev Reg.LC_CHALLENGE_CTL_new : Fld := ⟨Reg.LC_CHALLENGE_CTL, 0, 1⟩
abbrev Reg.LC_CHALLENGE_CTL_valid : Fld := ⟨Reg.LC_CHALLENGE_CTL, 1, 1⟩
/-- Table 13.12. -/
abbrev Reg.LC_REQ (i : Nat) : Nat := 0x20140100 + i * 0x4
abbrev Reg.LC_REQ_bytes (i : Nat) : Fld := ⟨(Reg.LC_REQ i), 0, 32⟩
/-- Table 13.12. -/
abbrev Reg.LC_REQ_GO : Nat := 0x20140200
abbrev Reg.LC_REQ_GO_go : Fld := ⟨Reg.LC_REQ_GO, 0, 1⟩
/-- Table 13.12. -/
abbrev Reg.LC_REQ_STATUS : Nat := 0x20140204
abbrev Reg.LC_REQ_STATUS_busy : Fld := ⟨Reg.LC_REQ_STATUS, 0, 1⟩
abbrev Reg.LC_REQ_STATUS_fail : Fld := ⟨Reg.LC_REQ_STATUS, 1, 1⟩
abbrev Reg.LC_REQ_STATUS_fail_code : Fld := ⟨Reg.LC_REQ_STATUS, 2, 3⟩
/-- Table 14.8. -/
abbrev Reg.PWR_CAP : Nat := 0x20110000
abbrev Reg.PWR_CAP_cap_w : Fld := ⟨Reg.PWR_CAP, 0, 16⟩
/-- Table 14.8. -/
abbrev Reg.PWR_CAP_SMB : Nat := 0x20110004
abbrev Reg.PWR_CAP_SMB_limit_w : Fld := ⟨Reg.PWR_CAP_SMB, 0, 16⟩
/-- Table 14.8. -/
abbrev Reg.PWR_TOTAL : Nat := 0x20110008
abbrev Reg.PWR_TOTAL_mw : Fld := ⟨Reg.PWR_TOTAL, 0, 32⟩
/-- Table 14.8. -/
abbrev Reg.PWR_STATUS : Nat := 0x2011000c
abbrev Reg.PWR_STATUS_start_done : Fld := ⟨Reg.PWR_STATUS, 0, 1⟩
abbrev Reg.PWR_STATUS_guard : Fld := ⟨Reg.PWR_STATUS, 1, 1⟩
abbrev Reg.PWR_STATUS_volt_skew : Fld := ⟨Reg.PWR_STATUS, 2, 1⟩
abbrev Reg.PWR_STATUS_therm_skew : Fld := ⟨Reg.PWR_STATUS, 3, 1⟩
abbrev Reg.PWR_STATUS_cmd_refused : Fld := ⟨Reg.PWR_STATUS, 4, 1⟩
/-- Table 14.8. -/
abbrev Reg.PWR_START : Nat := 0x20110010
abbrev Reg.PWR_START_go : Fld := ⟨Reg.PWR_START, 0, 1⟩
abbrev Reg.PWR_START_busy : Fld := ⟨Reg.PWR_START, 1, 1⟩
abbrev Reg.PWR_START_started : Fld := ⟨Reg.PWR_START, 16, 12⟩
/-- Table 14.8. -/
abbrev Reg.PWR_DIE_RESET : Nat := 0x20110014
abbrev Reg.PWR_DIE_RESET_cd : Fld := ⟨Reg.PWR_DIE_RESET, 0, 12⟩
abbrev Reg.PWR_DIE_RESET_bd : Fld := ⟨Reg.PWR_DIE_RESET, 16, 4⟩
/-- Table 14.8. -/
abbrev Reg.PWR_PMB_ADDR (i : Nat) : Nat := 0x20110020 + i * 0x4
abbrev Reg.PWR_PMB_ADDR_addr (i : Nat) : Fld := ⟨(Reg.PWR_PMB_ADDR i), 0, 7⟩
abbrev Reg.PWR_PMB_ADDR_valid (i : Nat) : Fld := ⟨(Reg.PWR_PMB_ADDR i), 7, 1⟩
/-- Table 14.8. -/
abbrev Reg.PWR_SMB_ADDR : Nat := 0x20110050
abbrev Reg.PWR_SMB_ADDR_addr : Fld := ⟨Reg.PWR_SMB_ADDR, 0, 7⟩
/-- Table 14.8. -/
abbrev Reg.PWR_PMB_STATUS : Nat := 0x20110054
abbrev Reg.PWR_PMB_STATUS_addr : Fld := ⟨Reg.PWR_PMB_STATUS, 0, 7⟩
abbrev Reg.PWR_PMB_STATUS_fault : Fld := ⟨Reg.PWR_PMB_STATUS, 7, 1⟩
abbrev Reg.PWR_PMB_STATUS_status_word : Fld := ⟨Reg.PWR_PMB_STATUS, 8, 16⟩
/-- Table 14.9. -/
abbrev Reg.PWR_DIE_STATUS (d : Nat) : Nat := 0x110000 + d * 0x1000000
abbrev Reg.PWR_DIE_STATUS_throttle (d : Nat) : Fld := ⟨(Reg.PWR_DIE_STATUS d), 0, 2⟩
abbrev Reg.PWR_DIE_STATUS_fallback (d : Nat) : Fld := ⟨(Reg.PWR_DIE_STATUS d), 2, 1⟩
abbrev Reg.PWR_DIE_STATUS_trip (d : Nat) : Fld := ⟨(Reg.PWR_DIE_STATUS d), 3, 1⟩
abbrev Reg.PWR_DIE_STATUS_cmd_refused (d : Nat) : Fld := ⟨(Reg.PWR_DIE_STATUS d), 4, 1⟩
/-- Table 14.9. -/
abbrev Reg.PWR_VOLT (d : Nat) : Nat := 0x110004 + d * 0x1000000
abbrev Reg.PWR_VOLT_target (d : Nat) : Fld := ⟨(Reg.PWR_VOLT d), 0, 10⟩
abbrev Reg.PWR_VOLT_sensed (d : Nat) : Fld := ⟨(Reg.PWR_VOLT d), 16, 10⟩
/-- Table 14.9. -/
abbrev Reg.PWR_VSET (d : Nat) : Nat := 0x110008 + d * 0x1000000
abbrev Reg.PWR_VSET_mv (d : Nat) : Fld := ⟨(Reg.PWR_VSET d), 0, 10⟩
/-- Table 14.9. -/
abbrev Reg.PWR_BUDGET (d : Nat) : Nat := 0x11000c + d * 0x1000000
abbrev Reg.PWR_BUDGET_mw (d : Nat) : Fld := ⟨(Reg.PWR_BUDGET d), 0, 32⟩
/-- Table 14.9. -/
abbrev Reg.PWR_FALLBACK (d : Nat) : Nat := 0x110010 + d * 0x1000000
abbrev Reg.PWR_FALLBACK_mw (d : Nat) : Fld := ⟨(Reg.PWR_FALLBACK d), 0, 32⟩
/-- Table 14.9. -/
abbrev Reg.PWR_RET_CTL (d : Nat) : Nat := 0x110014 + d * 0x1000000
abbrev Reg.PWR_RET_CTL_ret (d : Nat) : Fld := ⟨(Reg.PWR_RET_CTL d), 0, 32⟩
/-- Table 14.9. -/
abbrev Reg.PWR_RET_STATUS (d : Nat) : Nat := 0x110018 + d * 0x1000000
abbrev Reg.PWR_RET_STATUS_held (d : Nat) : Fld := ⟨(Reg.PWR_RET_STATUS d), 0, 32⟩
/-- Table 14.9. -/
abbrev Reg.PWR_FLD_RESET (d : Nat) : Nat := 0x11001c + d * 0x1000000
abbrev Reg.PWR_FLD_RESET_reset (d : Nat) : Fld := ⟨(Reg.PWR_FLD_RESET d), 0, 32⟩
/-- Table 14.9. -/
abbrev Reg.PWR_WEAR_CTL (d : Nat) : Nat := 0x110020 + d * 0x1000000
abbrev Reg.PWR_WEAR_CTL_pause (d : Nat) : Fld := ⟨(Reg.PWR_WEAR_CTL d), 0, 1⟩
abbrev Reg.PWR_WEAR_CTL_auto (d : Nat) : Fld := ⟨(Reg.PWR_WEAR_CTL d), 1, 1⟩
/-- Table 14.9. -/
abbrev Reg.PWR_WEAR_STATUS (d : Nat) : Nat := 0x110024 + d * 0x1000000
abbrev Reg.PWR_WEAR_STATUS_index (d : Nat) : Fld := ⟨(Reg.PWR_WEAR_STATUS d), 0, 8⟩
abbrev Reg.PWR_WEAR_STATUS_margin_rec (d : Nat) : Fld := ⟨(Reg.PWR_WEAR_STATUS d), 8, 6⟩
/-- Table 14.10. -/
abbrev Reg.CLK_GATE_CMD (d : Nat) : Nat := 0x120000 + d * 0x1000000
abbrev Reg.CLK_GATE_CMD_node (d : Nat) : Fld := ⟨(Reg.CLK_GATE_CMD d), 0, 4⟩
abbrev Reg.CLK_GATE_CMD_on (d : Nat) : Fld := ⟨(Reg.CLK_GATE_CMD d), 4, 1⟩
/-- Table 14.10. -/
abbrev Reg.CLK_GATE_EN (d : Nat) : Nat := 0x120004 + d * 0x1000000
abbrev Reg.CLK_GATE_EN_en (d : Nat) : Fld := ⟨(Reg.CLK_GATE_EN d), 0, 16⟩
/-- Table 14.10. -/
abbrev Reg.CLK_GATE_RESULT (d : Nat) : Nat := 0x120008 + d * 0x1000000
abbrev Reg.CLK_GATE_RESULT_result (d : Nat) : Fld := ⟨(Reg.CLK_GATE_RESULT d), 0, 2⟩
/-- Table 14.10. -/
abbrev Reg.CLK_PLL_STATUS (d : Nat) : Nat := 0x12000c + d * 0x1000000
abbrev Reg.CLK_PLL_STATUS_lock (d : Nat) : Fld := ⟨(Reg.CLK_PLL_STATUS d), 0, 3⟩
/-- Table 14.10. -/
abbrev Reg.CLK_CDC_STATUS (d : Nat) : Nat := 0x120010 + d * 0x1000000
abbrev Reg.CLK_CDC_STATUS_timeouts (d : Nat) : Fld := ⟨(Reg.CLK_CDC_STATUS d), 0, 16⟩
abbrev Reg.CLK_CDC_STATUS_overrun (d : Nat) : Fld := ⟨(Reg.CLK_CDC_STATUS d), 16, 1⟩
/-- Table 14.10. -/
abbrev Reg.CLK_CLKOUT_CTL : Nat := 0x20120100
abbrev Reg.CLK_CLKOUT_CTL_en : Fld := ⟨Reg.CLK_CLKOUT_CTL, 0, 1⟩
abbrev Reg.CLK_CLKOUT_CTL_src : Fld := ⟨Reg.CLK_CLKOUT_CTL, 1, 3⟩
abbrev Reg.CLK_CLKOUT_CTL_bank : Fld := ⟨Reg.CLK_CLKOUT_CTL, 4, 4⟩
abbrev Reg.CLK_CLKOUT_CTL_div_m1 : Fld := ⟨Reg.CLK_CLKOUT_CTL, 8, 16⟩
/-- Table 14.10. -/
abbrev Reg.CLK_CLKOUT_SSC : Nat := 0x20120104
abbrev Reg.CLK_CLKOUT_SSC_depth : Fld := ⟨Reg.CLK_CLKOUT_SSC, 0, 5⟩
abbrev Reg.CLK_CLKOUT_SSC_rate_khz : Fld := ⟨Reg.CLK_CLKOUT_SSC, 5, 6⟩
/-- Table 14.10. -/
abbrev Reg.CLK_CLKOUT_STATUS : Nat := 0x20120108
abbrev Reg.CLK_CLKOUT_STATUS_forced : Fld := ⟨Reg.CLK_CLKOUT_STATUS, 0, 1⟩
abbrev Reg.CLK_CLKOUT_STATUS_switching : Fld := ⟨Reg.CLK_CLKOUT_STATUS, 1, 1⟩
/-- Table 14.11. -/
abbrev Reg.TEL_CTL (d : Nat) : Nat := 0x100000 + d * 0x1000000
abbrev Reg.TEL_CTL_pause (d : Nat) : Fld := ⟨(Reg.TEL_CTL d), 0, 1⟩
/-- Table 14.11. -/
abbrev Reg.TEL_SEQ (d : Nat) : Nat := 0x100004 + d * 0x1000000
abbrev Reg.TEL_SEQ_count (d : Nat) : Fld := ⟨(Reg.TEL_SEQ d), 0, 32⟩
/-- Table 14.11. -/
abbrev Reg.TEL_TEMP (d : Nat) : Nat := 0x100008 + d * 0x1000000
abbrev Reg.TEL_TEMP_max (d : Nat) : Fld := ⟨(Reg.TEL_TEMP d), 0, 16⟩
abbrev Reg.TEL_TEMP_min (d : Nat) : Fld := ⟨(Reg.TEL_TEMP d), 16, 16⟩
/-- Table 14.11. -/
abbrev Reg.TEL_POWER (d : Nat) : Nat := 0x10000c + d * 0x1000000
abbrev Reg.TEL_POWER_mw (d : Nat) : Fld := ⟨(Reg.TEL_POWER d), 0, 32⟩
/-- Table 14.11. -/
abbrev Reg.TEL_VOLT (d : Nat) : Nat := 0x100010 + d * 0x1000000
abbrev Reg.TEL_VOLT_mv (d : Nat) : Fld := ⟨(Reg.TEL_VOLT d), 0, 16⟩
/-- Table 14.11. -/
abbrev Reg.TEL_ALERT_CTL : Nat := 0x20100100
abbrev Reg.TEL_ALERT_CTL_alert_c : Fld := ⟨Reg.TEL_ALERT_CTL, 0, 8⟩
abbrev Reg.TEL_ALERT_CTL_trip_c : Fld := ⟨Reg.TEL_ALERT_CTL, 8, 8⟩
/-- Table 14.11. -/
abbrev Reg.TEL_ALERT_STATUS : Nat := 0x20100104
abbrev Reg.TEL_ALERT_STATUS_alert : Fld := ⟨Reg.TEL_ALERT_STATUS, 0, 1⟩
abbrev Reg.TEL_ALERT_STATUS_tripped : Fld := ⟨Reg.TEL_ALERT_STATUS, 1, 1⟩
/-- Table 15.8. -/
abbrev Reg.DBG_IDCODE : Nat := 0x20170000
abbrev Reg.DBG_IDCODE_id : Fld := ⟨Reg.DBG_IDCODE, 0, 32⟩
/-- Table 15.8. -/
abbrev Reg.DBG_STATUS : Nat := 0x20170004
abbrev Reg.DBG_STATUS_crc_err : Fld := ⟨Reg.DBG_STATUS, 0, 1⟩
abbrev Reg.DBG_STATUS_bus_err : Fld := ⟨Reg.DBG_STATUS, 1, 1⟩
abbrev Reg.DBG_STATUS_pending : Fld := ⟨Reg.DBG_STATUS, 2, 1⟩
abbrev Reg.DBG_STATUS_level : Fld := ⟨Reg.DBG_STATUS, 3, 2⟩
/-- Table 15.8. -/
abbrev Reg.DBG_MEM_BASE : Nat := 0x20170008
abbrev Reg.DBG_MEM_BASE_base : Fld := ⟨Reg.DBG_MEM_BASE, 0, 16⟩
/-- Table 15.8. -/
abbrev Reg.DBG_TRACE_CTL : Nat := 0x20170010
abbrev Reg.DBG_TRACE_CTL_en : Fld := ⟨Reg.DBG_TRACE_CTL, 0, 1⟩
abbrev Reg.DBG_TRACE_CTL_mode : Fld := ⟨Reg.DBG_TRACE_CTL, 1, 1⟩
/-- Table 15.8. -/
abbrev Reg.DBG_TRACE_BASE : Nat := 0x20170014
abbrev Reg.DBG_TRACE_BASE_base : Fld := ⟨Reg.DBG_TRACE_BASE, 18, 9⟩
/-- Table 15.8. -/
abbrev Reg.DBG_TRACE_WP : Nat := 0x20170018
abbrev Reg.DBG_TRACE_WP_wp : Fld := ⟨Reg.DBG_TRACE_WP, 0, 13⟩
/-- Table 15.8. -/
abbrev Reg.DBG_TRACE_LOST : Nat := 0x2017001c
abbrev Reg.DBG_TRACE_LOST_count : Fld := ⟨Reg.DBG_TRACE_LOST, 0, 32⟩
/-- Table 15.9. -/
abbrev Reg.SP_FREEZE : Nat := 0x20160000
abbrev Reg.SP_FREEZE_wdt : Fld := ⟨Reg.SP_FREEZE, 0, 1⟩
abbrev Reg.SP_FREEZE_timers : Fld := ⟨Reg.SP_FREEZE, 1, 4⟩
abbrev Reg.SP_FREEZE_dma : Fld := ⟨Reg.SP_FREEZE, 5, 1⟩
abbrev Reg.SP_FREEZE_mbx : Fld := ⟨Reg.SP_FREEZE, 6, 1⟩
/-- Table 15.9. -/
abbrev Reg.SP_WDT_LOAD : Nat := 0x20160004
abbrev Reg.SP_WDT_LOAD_us : Fld := ⟨Reg.SP_WDT_LOAD, 0, 32⟩
/-- Table 15.9. -/
abbrev Reg.SP_WDT_COUNT : Nat := 0x20160008
abbrev Reg.SP_WDT_COUNT_us : Fld := ⟨Reg.SP_WDT_COUNT, 0, 32⟩
/-- Table 15.9. -/
abbrev Reg.SP_WDT_KICK : Nat := 0x2016000c
abbrev Reg.SP_WDT_KICK_kick : Fld := ⟨Reg.SP_WDT_KICK, 0, 1⟩
/-- Table 15.9. -/
abbrev Reg.SP_CORE_DBG_CTL (i : Nat) : Nat := 0x20161000 + i * 0x400
abbrev Reg.SP_CORE_DBG_CTL_mon_en (i : Nat) : Fld := ⟨(Reg.SP_CORE_DBG_CTL i), 0, 1⟩
abbrev Reg.SP_CORE_DBG_CTL_mon_prio (i : Nat) : Fld := ⟨(Reg.SP_CORE_DBG_CTL i), 1, 4⟩
abbrev Reg.SP_CORE_DBG_CTL_halt (i : Nat) : Fld := ⟨(Reg.SP_CORE_DBG_CTL i), 5, 1⟩
abbrev Reg.SP_CORE_DBG_CTL_step (i : Nat) : Fld := ⟨(Reg.SP_CORE_DBG_CTL i), 6, 1⟩
/-- Table 15.9. -/
abbrev Reg.SP_CORE_DBG_STATUS (i : Nat) : Nat := 0x20161004 + i * 0x400
abbrev Reg.SP_CORE_DBG_STATUS_in_monitor (i : Nat) : Fld := ⟨(Reg.SP_CORE_DBG_STATUS i), 0, 1⟩
abbrev Reg.SP_CORE_DBG_STATUS_halt_pending (i : Nat) : Fld := ⟨(Reg.SP_CORE_DBG_STATUS i), 1, 1⟩
abbrev Reg.SP_CORE_DBG_STATUS_cmp_hit (i : Nat) : Fld := ⟨(Reg.SP_CORE_DBG_STATUS i), 2, 8⟩
/-- Table 15.9. -/
abbrev Reg.SP_CORE_EPC (i : Nat) : Nat := 0x20161008 + i * 0x400
abbrev Reg.SP_CORE_EPC_pc (i : Nat) : Fld := ⟨(Reg.SP_CORE_EPC i), 0, 32⟩
/-- Table 15.9. -/
abbrev Reg.SP_CORE_EPSR (i : Nat) : Nat := 0x2016100c + i * 0x400
abbrev Reg.SP_CORE_EPSR_psr (i : Nat) : Fld := ⟨(Reg.SP_CORE_EPSR i), 0, 8⟩
/-- Table 15.9. -/
abbrev Reg.SP_CORE_ECAUSE (i : Nat) : Nat := 0x20161010 + i * 0x400
abbrev Reg.SP_CORE_ECAUSE_cause (i : Nat) : Fld := ⟨(Reg.SP_CORE_ECAUSE i), 0, 6⟩
/-- Table 15.9. -/
abbrev Reg.SP_CORE_DBG_SAVE (i : Nat) : Nat := 0x20161014 + i * 0x400
abbrev Reg.SP_CORE_DBG_SAVE_addr (i : Nat) : Fld := ⟨(Reg.SP_CORE_DBG_SAVE i), 0, 32⟩
/-- Table 15.9. -/
abbrev Reg.SP_MARK_EN (i : Nat) : Nat := 0x20161018 + i * 0x400
abbrev Reg.SP_MARK_EN_en (i : Nat) : Fld := ⟨(Reg.SP_MARK_EN i), 0, 32⟩
/-- Table 15.9. -/
abbrev Reg.SP_CMP_LO (i j : Nat) : Nat := 0x20161100 + i * 0x400 + j * 0x10
abbrev Reg.SP_CMP_LO_lo (i j : Nat) : Fld := ⟨(Reg.SP_CMP_LO i j), 0, 32⟩
/-- Table 15.9. -/
abbrev Reg.SP_CMP_HI (i j : Nat) : Nat := 0x20161104 + i * 0x400 + j * 0x10
abbrev Reg.SP_CMP_HI_hi (i j : Nat) : Fld := ⟨(Reg.SP_CMP_HI i j), 0, 32⟩
/-- Table 15.9. -/
abbrev Reg.SP_CMP_CTL (i j : Nat) : Nat := 0x20161108 + i * 0x400 + j * 0x10
abbrev Reg.SP_CMP_CTL_en (i j : Nat) : Fld := ⟨(Reg.SP_CMP_CTL i j), 0, 1⟩
abbrev Reg.SP_CMP_CTL_kind (i j : Nat) : Fld := ⟨(Reg.SP_CMP_CTL i j), 1, 1⟩
abbrev Reg.SP_CMP_CTL_range (i j : Nat) : Fld := ⟨(Reg.SP_CMP_CTL i j), 2, 1⟩
abbrev Reg.SP_CMP_CTL_acc (i j : Nat) : Fld := ⟨(Reg.SP_CMP_CTL i j), 3, 2⟩
/-- Table 15.9. -/
abbrev Reg.SP_MARK_ID (i : Nat) : Nat := 0x20161200 + i * 0x400
abbrev Reg.SP_MARK_ID_class (i : Nat) : Fld := ⟨(Reg.SP_MARK_ID i), 0, 5⟩
abbrev Reg.SP_MARK_ID_tag (i : Nat) : Fld := ⟨(Reg.SP_MARK_ID i), 5, 11⟩
/-- Table 15.9. -/
abbrev Reg.SP_MARK_DATA (i : Nat) : Nat := 0x20161204 + i * 0x400
abbrev Reg.SP_MARK_DATA_data (i : Nat) : Fld := ⟨(Reg.SP_MARK_DATA i), 0, 32⟩
/-- Table 12.3. -/
abbrev Reg.MSIX_ADDR_LO (i : Nat) : Nat := 0x100020000 + i * 0x10
abbrev Reg.MSIX_ADDR_LO_v (i : Nat) : Fld := ⟨(Reg.MSIX_ADDR_LO i), 0, 32⟩
/-- Table 12.3. -/
abbrev Reg.MSIX_ADDR_HI (i : Nat) : Nat := 0x100020004 + i * 0x10
abbrev Reg.MSIX_ADDR_HI_v (i : Nat) : Fld := ⟨(Reg.MSIX_ADDR_HI i), 0, 32⟩
/-- Table 12.3. -/
abbrev Reg.MSIX_DATA (i : Nat) : Nat := 0x100020008 + i * 0x10
abbrev Reg.MSIX_DATA_v (i : Nat) : Fld := ⟨(Reg.MSIX_DATA i), 0, 32⟩
/-- Table 12.3. -/
abbrev Reg.MSIX_CTL (i : Nat) : Nat := 0x10002000c + i * 0x10
abbrev Reg.MSIX_CTL_mask (i : Nat) : Fld := ⟨(Reg.MSIX_CTL i), 0, 1⟩
/-- Table 12.3. -/
abbrev Reg.MSIX_PBA (i : Nat) : Nat := 0x100021000 + i * 0x4
abbrev Reg.MSIX_PBA_bits (i : Nat) : Fld := ⟨(Reg.MSIX_PBA i), 0, 32⟩

/-- The register tables of block BAR0. -/
def regsBAR0 : List RegSpec :=
  [⟨8, 0x0, [], 0x4812574d, [⟨0, 32, .ro⟩]⟩,
   ⟨8, 0x4, [], 0x0, [⟨0, 8, .ro⟩, ⟨8, 8, .ro⟩, ⟨16, 8, .ro⟩]⟩,
   ⟨8, 0x8, [], 0x0, [⟨0, 3, .ro⟩, ⟨3, 1, .ro⟩, ⟨4, 1, .ro⟩, ⟨5, 1, .ro⟩, ⟨6, 1, .ro⟩, ⟨7, 3, .ro⟩, ⟨10, 2, .ro⟩, ⟨12, 7, .ro⟩, ⟨19, 1, .ro⟩]⟩,
   ⟨8, 0xc, [], 0x0, [⟨0, 4, .ro⟩]⟩,
   ⟨8, 0x10, [], 0x0, [⟨0, 32, .ro⟩]⟩,
   ⟨8, 0x14, [], 0x0, [⟨0, 32, .ro⟩]⟩,
   ⟨8, 0x18, [], 0x0, [⟨0, 32, .ro⟩]⟩,
   ⟨8, 0x1c, [], 0x0, [⟨0, 16, .ro⟩]⟩,
   ⟨8, 0x20, [], 0x0, [⟨0, 32, .ro⟩]⟩,
   ⟨8, 0x24, [], 0x0, [⟨0, 8, .w1c⟩]⟩,
   ⟨8, 0x40, [], 0x0, [⟨0, 1, .wo⟩]⟩,
   ⟨8, 0x10000, [(0x1000, 16)], 0x0, [⟨0, 1, .rw⟩, ⟨1, 3, .rw⟩, ⟨4, 1, .ro⟩, ⟨5, 6, .rw⟩, ⟨11, 1, .rw⟩]⟩] ++
  [⟨8, 0x10004, [(0x1000, 16)], 0x0, [⟨0, 1, .ro⟩, ⟨1, 1, .ro⟩, ⟨2, 2, .ro⟩, ⟨4, 3, .ro⟩]⟩,
   ⟨8, 0x10008, [(0x1000, 16)], 0x0, [⟨0, 32, .rw⟩]⟩,
   ⟨8, 0x1000c, [(0x1000, 16)], 0x0, [⟨0, 32, .rw⟩]⟩,
   ⟨8, 0x10010, [(0x1000, 16)], 0x4, [⟨0, 4, .rw⟩]⟩,
   ⟨8, 0x10014, [(0x1000, 16)], 0x0, [⟨0, 16, .rw⟩]⟩,
   ⟨8, 0x10018, [(0x1000, 16)], 0x0, [⟨0, 16, .ro⟩]⟩,
   ⟨8, 0x10020, [(0x1000, 16)], 0x0, [⟨0, 32, .rw⟩]⟩,
   ⟨8, 0x10024, [(0x1000, 16)], 0x0, [⟨0, 32, .rw⟩]⟩,
   ⟨8, 0x10028, [(0x1000, 16)], 0x4, [⟨0, 4, .rw⟩]⟩,
   ⟨8, 0x1002c, [(0x1000, 16)], 0x0, [⟨0, 16, .ro⟩]⟩,
   ⟨8, 0x10030, [(0x1000, 16)], 0x0, [⟨0, 16, .rw⟩]⟩,
   ⟨8, 0x10034, [(0x1000, 16)], 0x0, [⟨0, 16, .rw⟩]⟩] ++
  [⟨8, 0x20000, [(0x10, 64)], 0x0, [⟨0, 32, .rw⟩]⟩,
   ⟨8, 0x20004, [(0x10, 64)], 0x0, [⟨0, 32, .rw⟩]⟩,
   ⟨8, 0x20008, [(0x10, 64)], 0x0, [⟨0, 32, .rw⟩]⟩,
   ⟨8, 0x2000c, [(0x10, 64)], 0x1, [⟨0, 1, .rw⟩]⟩,
   ⟨8, 0x21000, [(0x4, 2)], 0x0, [⟨0, 32, .ro⟩]⟩]

/-- The register tables of block FAB. -/
def regsFAB : List RegSpec :=
  [⟨1, 0x0, [], 0x0, [⟨0, 32, .ro⟩]⟩,
   ⟨1, 0x4, [], 0x0, [⟨0, 1, .ro⟩, ⟨1, 1, .ro⟩, ⟨2, 1, .ro⟩, ⟨4, 1, .ro⟩, ⟨5, 1, .ro⟩, ⟨6, 1, .ro⟩, ⟨8, 1, .ro⟩, ⟨9, 1, .ro⟩, ⟨10, 1, .ro⟩, ⟨12, 1, .ro⟩, ⟨13, 1, .ro⟩, ⟨14, 1, .ro⟩]⟩,
   ⟨1, 0x8, [], 0x0, [⟨0, 8, .rw⟩]⟩,
   ⟨1, 0xc, [], 0x0, [⟨0, 32, .w1c⟩]⟩,
   ⟨1, 0x100, [], 0x0, [⟨0, 6, .rw⟩]⟩,
   ⟨1, 0x104, [], 0x0, [⟨0, 12, .ro⟩]⟩,
   ⟨1, 0x108, [], 0x0, [⟨0, 1, .rw⟩, ⟨1, 1, .w1s⟩]⟩,
   ⟨1, 0x10c, [], 0x0, [⟨0, 1, .ro⟩, ⟨1, 1, .w1c⟩, ⟨7, 9, .ro⟩, ⟨16, 16, .ro⟩]⟩,
   ⟨1, 0x110, [], 0x0, [⟨0, 32, .ro⟩]⟩,
   ⟨1, 0x114, [], 0x0, [⟨0, 32, .w1c⟩]⟩,
   ⟨1, 0x118, [], 0x0, [⟨0, 32, .ro⟩]⟩,
   ⟨1, 0x11c, [], 0x0, [⟨0, 32, .rw⟩]⟩] ++
  [⟨1, 0x120, [], 0x0, [⟨0, 32, .ro⟩]⟩,
   ⟨1, 0x1000, [(0x200, 32)], 0x40, [⟨0, 4, .ro⟩, ⟨4, 3, .ro⟩]⟩,
   ⟨1, 0x1004, [(0x200, 32)], 0x200, [⟨0, 10, .ro⟩]⟩,
   ⟨1, 0x1008, [(0x200, 32)], 0x0, [⟨0, 16, .ro⟩, ⟨16, 16, .ro⟩]⟩,
   ⟨1, 0x1010, [(0x200, 32), (0x4, 8)], 0x0, [⟨0, 12, .rw⟩, ⟨16, 12, .rw⟩]⟩,
   ⟨1, 0x1100, [(0x200, 32), (0x4, 64)], 0x0, [⟨0, 5, .rw⟩, ⟨5, 5, .rw⟩, ⟨10, 3, .rw⟩, ⟨13, 4, .rw⟩, ⟨17, 1, .rw⟩, ⟨18, 1, .rw⟩]⟩]

/-- The register tables of block PACE. -/
def regsPACE : List RegSpec :=
  [⟨4, 0x800, [], 0x0, [⟨0, 4, .rwl⟩]⟩,
   ⟨4, 0x804, [], 0x7d0, [⟨0, 24, .rw⟩]⟩,
   ⟨4, 0x808, [], 0x1, [⟨0, 1, .ro⟩, ⟨1, 1, .w1c⟩, ⟨2, 1, .ro⟩, ⟨3, 1, .w1c⟩]⟩,
   ⟨4, 0x810, [], 0x0, [⟨0, 32, .ro⟩]⟩,
   ⟨4, 0x814, [], 0x0, [⟨0, 32, .ro⟩]⟩,
   ⟨4, 0x818, [], 0x0, [⟨0, 32, .ro⟩]⟩,
   ⟨4, 0x81c, [], 0x0, [⟨0, 32, .ro⟩]⟩,
   ⟨4, 0x820, [], 0x0, [⟨0, 32, .ro⟩]⟩,
   ⟨4, 0x824, [], 0x0, [⟨0, 32, .ro⟩]⟩,
   ⟨4, 0x828, [], 0x0, [⟨0, 32, .ro⟩]⟩,
   ⟨4, 0x82c, [], 0x0, [⟨0, 32, .ro⟩]⟩,
   ⟨4, 0x900, [(0x10, 64)], 0x0, [⟨0, 32, .rw⟩]⟩] ++
  [⟨4, 0x904, [(0x10, 64)], 0x0, [⟨0, 32, .rw⟩]⟩,
   ⟨4, 0x908, [(0x10, 64)], 0x0, [⟨0, 32, .rw⟩]⟩,
   ⟨4, 0x90c, [(0x10, 64)], 0x0, [⟨0, 1, .rw⟩]⟩,
   ⟨4, 0x0, [], 0x0, [⟨0, 2, .rw⟩, ⟨2, 2, .rw⟩]⟩,
   ⟨4, 0x4, [], 0x0, [⟨0, 3, .wo⟩, ⟨3, 1, .wo⟩]⟩,
   ⟨4, 0x8, [], 0x0, [⟨0, 1, .ro⟩, ⟨1, 1, .ro⟩, ⟨2, 1, .w1c⟩, ⟨3, 1, .w1c⟩, ⟨4, 1, .w1c⟩, ⟨5, 1, .ro⟩, ⟨6, 4, .ro⟩, ⟨10, 1, .w1c⟩]⟩,
   ⟨4, 0xc, [], 0x0, [⟨0, 32, .rw⟩]⟩,
   ⟨4, 0x10, [], 0x1, [⟨0, 32, .rw⟩]⟩,
   ⟨4, 0x18, [], 0x0, [⟨0, 32, .ro⟩]⟩,
   ⟨4, 0x1c, [], 0x0, [⟨0, 32, .ro⟩]⟩,
   ⟨4, 0x20, [], 0x0, [⟨0, 32, .rw⟩]⟩,
   ⟨4, 0x24, [], 0x0, [⟨0, 32, .rw⟩]⟩] ++
  [⟨4, 0x28, [], 0x0, [⟨0, 32, .rw⟩]⟩,
   ⟨4, 0x2c, [], 0x0, [⟨0, 32, .rw⟩]⟩,
   ⟨4, 0x30, [], 0x0, [⟨0, 32, .rw⟩]⟩,
   ⟨4, 0x34, [], 0x0, [⟨0, 32, .rw⟩]⟩,
   ⟨4, 0x38, [], 0x0, [⟨0, 32, .rw⟩]⟩,
   ⟨4, 0x3c, [], 0x0, [⟨0, 32, .rw⟩]⟩,
   ⟨4, 0x40, [], 0x0, [⟨0, 32, .ro⟩]⟩,
   ⟨4, 0x44, [], 0x0, [⟨0, 16, .ro⟩]⟩,
   ⟨4, 0x48, [], 0xf4240, [⟨0, 32, .rw⟩]⟩,
   ⟨4, 0x4c, [], 0x0, [⟨0, 32, .ro⟩]⟩,
   ⟨4, 0x50, [], 0x0, [⟨0, 32, .ro⟩]⟩,
   ⟨4, 0x54, [], 0x0, [⟨0, 32, .ro⟩]⟩] ++
  [⟨4, 0x58, [], 0x0, [⟨0, 32, .rw⟩]⟩,
   ⟨4, 0x5c, [], 0x0, [⟨0, 1, .w1s⟩, ⟨1, 1, .ro⟩]⟩,
   ⟨4, 0x60, [], 0x0, [⟨0, 24, .ro⟩]⟩,
   ⟨4, 0x64, [], 0x0, [⟨0, 32, .ro⟩]⟩,
   ⟨4, 0x68, [], 0x0, [⟨0, 32, .rw⟩]⟩,
   ⟨4, 0x6c, [], 0x0, [⟨0, 32, .rw⟩]⟩]

/-- The register tables of block BIN. -/
def regsBIN : List RegSpec :=
  [⟨1, 0x1000, [(0x40, 32)], 0x0, [⟨0, 16, .ro⟩, ⟨16, 16, .ro⟩]⟩,
   ⟨1, 0x1004, [(0x40, 32)], 0x0, [⟨0, 1, .w1s⟩]⟩,
   ⟨1, 0x1008, [(0x40, 32)], 0x0, [⟨0, 32, .w1c⟩]⟩,
   ⟨1, 0x100c, [(0x40, 32)], 0x0, [⟨0, 16, .w1c⟩]⟩,
   ⟨1, 0x1010, [(0x40, 32)], 0x0, [⟨0, 6, .ro⟩, ⟨6, 1, .ro⟩, ⟨7, 1, .ro⟩, ⟨8, 17, .ro⟩, ⟨25, 1, .ro⟩]⟩]

/-- The register tables of block MAC. -/
def regsMAC : List RegSpec :=
  [⟨1, 0x4000, [(0x10, 3072)], 0x0, [⟨0, 2, .rw⟩, ⟨2, 1, .rw⟩, ⟨3, 1, .rw⟩, ⟨4, 5, .rw⟩, ⟨9, 1, .rw⟩, ⟨10, 6, .rw⟩, ⟨16, 2, .rw⟩, ⟨18, 1, .rw⟩]⟩,
   ⟨1, 0x4004, [(0x10, 3072)], 0x0, [⟨0, 9, .rw⟩, ⟨9, 9, .rw⟩, ⟨18, 9, .rw⟩, ⟨27, 4, .rw⟩]⟩,
   ⟨1, 0x4008, [(0x10, 3072)], 0x0, [⟨0, 9, .rw⟩, ⟨9, 9, .rw⟩, ⟨18, 9, .rw⟩, ⟨27, 4, .rw⟩]⟩,
   ⟨1, 0x400c, [(0x10, 3072)], 0x3c00, [⟨0, 6, .ro⟩, ⟨6, 1, .ro⟩, ⟨7, 2, .ro⟩, ⟨9, 1, .w1c⟩, ⟨10, 4, .ro⟩, ⟨14, 1, .w1s⟩]⟩]

/-- The register tables of block NOC. -/
def regsNOC : List RegSpec :=
  [⟨3, 0x0, [], 0x0, [⟨0, 4, .ro⟩, ⟨4, 8, .ro⟩]⟩,
   ⟨3, 0x4, [], 0x0, [⟨0, 32, .ro⟩]⟩,
   ⟨3, 0x10, [], 0x4182, [⟨0, 16, .rw⟩]⟩,
   ⟨3, 0x14, [], 0x1388, [⟨0, 20, .rw⟩]⟩,
   ⟨3, 0x18, [], 0x64, [⟨0, 20, .rw⟩]⟩,
   ⟨3, 0x20, [], 0x0, [⟨0, 16, .ro⟩, ⟨16, 8, .ro⟩, ⟨24, 8, .ro⟩]⟩,
   ⟨3, 0x24, [], 0x0, [⟨0, 1, .w1s⟩]⟩,
   ⟨3, 0x30, [], 0x0, [⟨0, 8, .rw⟩, ⟨8, 6, .rw⟩]⟩,
   ⟨3, 0x34, [], 0x0, [⟨0, 32, .rw⟩]⟩,
   ⟨3, 0x38, [], 0x0, [⟨0, 32, .rw⟩]⟩,
   ⟨1, 0x1000, [(0x10, 64)], 0x0, [⟨12, 20, .rw⟩]⟩,
   ⟨1, 0x1004, [(0x10, 64)], 0x0, [⟨0, 16, .rw⟩]⟩] ++
  [⟨1, 0x1008, [(0x10, 64)], 0x0, [⟨0, 32, .rw⟩]⟩,
   ⟨1, 0x100c, [(0x10, 64)], 0x0, [⟨0, 3, .rw⟩, ⟨3, 8, .rw⟩, ⟨11, 8, .rw⟩, ⟨19, 1, .rw⟩, ⟨20, 1, .rw⟩]⟩,
   ⟨1, 0x4000, [(0x80, 67)], 0x0, [⟨0, 1, .rw⟩, ⟨1, 1, .w1s⟩]⟩,
   ⟨2, 0x4000, [(0x80, 21)], 0x0, [⟨0, 1, .rw⟩, ⟨1, 1, .w1s⟩]⟩,
   ⟨1, 0x4008, [(0x80, 67)], 0x0, [⟨0, 32, .ro⟩]⟩,
   ⟨2, 0x4008, [(0x80, 21)], 0x0, [⟨0, 32, .ro⟩]⟩,
   ⟨1, 0x400c, [(0x80, 67)], 0x0, [⟨0, 32, .ro⟩]⟩,
   ⟨2, 0x400c, [(0x80, 21)], 0x0, [⟨0, 32, .ro⟩]⟩,
   ⟨1, 0x4010, [(0x80, 67)], 0x0, [⟨0, 32, .ro⟩]⟩,
   ⟨2, 0x4010, [(0x80, 21)], 0x0, [⟨0, 32, .ro⟩]⟩,
   ⟨1, 0x4014, [(0x80, 67)], 0x0, [⟨0, 32, .ro⟩]⟩,
   ⟨2, 0x4014, [(0x80, 21)], 0x0, [⟨0, 32, .ro⟩]⟩] ++
  [⟨1, 0x4018, [(0x80, 67)], 0x0, [⟨0, 8, .ro⟩, ⟨8, 8, .ro⟩]⟩,
   ⟨2, 0x4018, [(0x80, 21)], 0x0, [⟨0, 8, .ro⟩, ⟨8, 8, .ro⟩]⟩,
   ⟨1, 0x4020, [(0x80, 67), (0x4, 8)], 0x0, [⟨0, 16, .rw⟩, ⟨16, 16, .rw⟩]⟩,
   ⟨2, 0x4020, [(0x80, 21), (0x4, 8)], 0x0, [⟨0, 16, .rw⟩, ⟨16, 16, .rw⟩]⟩,
   ⟨1, 0x4040, [(0x80, 67), (0x4, 16)], 0x0, [⟨0, 32, .ro⟩]⟩,
   ⟨2, 0x4040, [(0x80, 21), (0x4, 16)], 0x0, [⟨0, 32, .ro⟩]⟩]

/-- The register tables of block D2D. -/
def regsD2D : List RegSpec :=
  [⟨2, 0x0, [(0x40, 2)], 0xc, [⟨0, 4, .rw⟩, ⟨4, 1, .w1s⟩]⟩,
   ⟨2, 0x4, [(0x40, 2)], 0xff01, [⟨0, 3, .ro⟩, ⟨4, 4, .ro⟩, ⟨8, 4, .ro⟩, ⟨12, 4, .ro⟩, ⟨16, 2, .ro⟩]⟩,
   ⟨2, 0x8, [(0x40, 2)], 0x0, [⟨0, 16, .ro⟩]⟩,
   ⟨2, 0xc, [(0x40, 2)], 0x0, [⟨0, 16, .ro⟩, ⟨16, 8, .ro⟩, ⟨24, 8, .ro⟩]⟩,
   ⟨2, 0x10, [(0x40, 2)], 0x0, [⟨0, 1, .w1s⟩]⟩,
   ⟨2, 0x100, [], 0x0, [⟨0, 24, .ro⟩]⟩]

/-- The register tables of block RCACHE. -/
def regsRCACHE : List RegSpec :=
  [⟨1, 0x0, [], 0x1, [⟨0, 1, .rw⟩, ⟨1, 1, .w1s⟩, ⟨2, 1, .rw⟩]⟩,
   ⟨1, 0x4, [], 0x0, [⟨0, 32, .ro⟩]⟩,
   ⟨1, 0x8, [], 0x0, [⟨0, 32, .ro⟩]⟩,
   ⟨1, 0xc, [], 0x0, [⟨0, 32, .ro⟩]⟩,
   ⟨2, 0x100, [], 0x0, [⟨0, 15, .ro⟩]⟩,
   ⟨2, 0x104, [], 0x0, [⟨0, 32, .ro⟩]⟩,
   ⟨2, 0x108, [], 0x0, [⟨0, 32, .ro⟩]⟩]

/-- The register tables of block HBM. -/
def regsHBM : List RegSpec :=
  [⟨2, 0x0, [], 0x1, [⟨0, 2, .rwl⟩, ⟨31, 1, .ro⟩]⟩,
   ⟨2, 0x4, [], 0x0, [⟨0, 1, .w1s⟩, ⟨1, 1, .ro⟩, ⟨2, 1, .ro⟩]⟩,
   ⟨2, 0x8, [], 0x10, [⟨0, 7, .rw⟩]⟩,
   ⟨2, 0x100, [(0x80, 2)], 0x0, [⟨0, 3, .ro⟩, ⟨3, 2, .ro⟩, ⟨5, 1, .ro⟩, ⟨6, 1, .ro⟩, ⟨8, 8, .ro⟩, ⟨16, 8, .ro⟩]⟩,
   ⟨2, 0x104, [(0x80, 2)], 0x0, [⟨0, 1, .w1s⟩, ⟨1, 1, .w1s⟩, ⟨2, 1, .rw⟩, ⟨3, 1, .w1c⟩]⟩,
   ⟨2, 0x108, [(0x80, 2)], 0x0, [⟨0, 16, .ro⟩, ⟨16, 8, .ro⟩, ⟨24, 8, .ro⟩]⟩,
   ⟨2, 0x10c, [(0x80, 2)], 0x0, [⟨0, 1, .w1s⟩]⟩,
   ⟨2, 0x110, [(0x80, 2)], 0x0, [⟨0, 32, .ro⟩]⟩,
   ⟨2, 0x114, [(0x80, 2)], 0x0, [⟨0, 32, .ro⟩]⟩,
   ⟨2, 0x118, [(0x80, 2)], 0x0, [⟨0, 16, .ro⟩, ⟨16, 16, .ro⟩]⟩,
   ⟨2, 0x11c, [(0x80, 2)], 0x0, [⟨0, 3, .ro⟩]⟩,
   ⟨2, 0x400, [(0x100, 2), (0x40, 2)], 0x0, [⟨0, 2, .rw⟩]⟩] ++
  [⟨2, 0x404, [(0x100, 2), (0x40, 2)], 0x0, [⟨0, 8, .rw⟩, ⟨8, 8, .rw⟩, ⟨16, 8, .rw⟩, ⟨24, 8, .rw⟩]⟩,
   ⟨2, 0x408, [(0x100, 2), (0x40, 2)], 0x0, [⟨0, 8, .rw⟩, ⟨8, 8, .rw⟩, ⟨16, 10, .rw⟩]⟩,
   ⟨2, 0x40c, [(0x100, 2), (0x40, 2)], 0x0, [⟨0, 16, .rw⟩, ⟨16, 8, .rw⟩]⟩,
   ⟨2, 0x2000, [(0x400, 2), (0x20, 32), (0x4, 4)], 0x0, [⟨0, 7, .ro⟩, ⟨8, 7, .ro⟩, ⟨16, 7, .ro⟩, ⟨29, 1, .ro⟩, ⟨30, 1, .ro⟩, ⟨31, 1, .ro⟩]⟩,
   ⟨2, 0x2010, [(0x400, 2), (0x20, 32), (0x4, 4)], 0x0, [⟨0, 7, .ro⟩, ⟨8, 7, .ro⟩, ⟨16, 7, .ro⟩, ⟨29, 1, .ro⟩, ⟨30, 1, .ro⟩, ⟨31, 1, .ro⟩]⟩]

/-- The register tables of block MEMSEC. -/
def regsMEMSEC : List RegSpec :=
  [⟨2, 0x0, [(0x1000, 2)], 0x0, [⟨0, 1, .rw⟩]⟩,
   ⟨2, 0x4, [(0x1000, 2)], 0x0, [⟨0, 1, .ro⟩, ⟨1, 1, .w1c⟩]⟩,
   ⟨2, 0x8, [(0x1000, 2)], 0x0, [⟨0, 32, .ro⟩]⟩,
   ⟨2, 0xc, [(0x1000, 2)], 0x0, [⟨0, 32, .ro⟩]⟩,
   ⟨2, 0x10, [(0x1000, 2)], 0x0, [⟨0, 16, .ro⟩]⟩,
   ⟨2, 0x100, [(0x1000, 2), (0x10, 4)], 0x0, [⟨0, 6, .rw⟩, ⟨8, 7, .rw⟩]⟩,
   ⟨2, 0x104, [(0x1000, 2), (0x10, 4)], 0x0, [⟨0, 4, .rw⟩, ⟨4, 1, .w1s⟩, ⟨5, 1, .w1s⟩]⟩,
   ⟨2, 0x108, [(0x1000, 2), (0x10, 4)], 0x0, [⟨0, 2, .ro⟩, ⟨2, 1, .w1c⟩]⟩]

/-- The register tables of block LANE. -/
def regsLANE : List RegSpec :=
  [⟨2, 0x0, [(0x400, 48)], 0x800, [⟨0, 1, .rw⟩, ⟨1, 4, .rw⟩, ⟨5, 1, .rw⟩, ⟨6, 6, .rw⟩, ⟨12, 1, .rw⟩, ⟨13, 1, .rw⟩, ⟨14, 3, .rw⟩, ⟨17, 1, .rw⟩]⟩,
   ⟨2, 0x4, [(0x400, 48)], 0x0, [⟨0, 3, .ro⟩, ⟨3, 1, .ro⟩, ⟨4, 1, .ro⟩, ⟨5, 1, .ro⟩, ⟨6, 1, .ro⟩, ⟨7, 1, .ro⟩, ⟨8, 1, .ro⟩, ⟨9, 1, .w1c⟩, ⟨10, 4, .ro⟩, ⟨14, 3, .ro⟩]⟩,
   ⟨2, 0x8, [(0x400, 48)], 0x3f0000, [⟨0, 4, .rw⟩, ⟨4, 6, .rw⟩, ⟨10, 6, .rw⟩, ⟨16, 6, .rw⟩]⟩,
   ⟨2, 0xc, [(0x400, 48)], 0x0, [⟨0, 16, .ro⟩, ⟨16, 16, .ro⟩]⟩,
   ⟨2, 0x10, [(0x400, 48)], 0x0, [⟨0, 32, .ro⟩]⟩,
   ⟨2, 0x14, [(0x400, 48)], 0x0, [⟨0, 32, .ro⟩]⟩,
   ⟨2, 0x18, [(0x400, 48)], 0x0, [⟨0, 32, .ro⟩]⟩,
   ⟨2, 0x1c, [(0x400, 48)], 0x0, [⟨0, 32, .ro⟩]⟩,
   ⟨2, 0x20, [(0x400, 48)], 0x0, [⟨0, 16, .ro⟩, ⟨16, 8, .ro⟩]⟩,
   ⟨2, 0x24, [(0x400, 48)], 0x0, [⟨0, 1, .w1s⟩]⟩,
   ⟨2, 0x30, [(0x400, 48)], 0x0, [⟨0, 2, .rw⟩, ⟨2, 1, .rw⟩, ⟨3, 2, .rw⟩, ⟨5, 1, .rw⟩, ⟨6, 1, .rw⟩, ⟨7, 1, .w1s⟩, ⟨8, 1, .ro⟩]⟩,
   ⟨2, 0x34, [(0x400, 48)], 0x0, [⟨0, 32, .ro⟩]⟩] ++
  [⟨2, 0x38, [(0x400, 48)], 0x0, [⟨0, 32, .ro⟩]⟩,
   ⟨2, 0x3c, [(0x400, 48)], 0x0, [⟨0, 16, .ro⟩]⟩,
   ⟨2, 0x40, [(0x400, 48)], 0x2000, [⟨0, 6, .rw⟩, ⟨6, 7, .rw⟩, ⟨13, 2, .rw⟩, ⟨15, 4, .rw⟩, ⟨19, 1, .w1s⟩, ⟨20, 1, .ro⟩, ⟨21, 1, .ro⟩]⟩,
   ⟨2, 0x44, [(0x400, 48)], 0x0, [⟨0, 32, .ro⟩]⟩,
   ⟨2, 0x48, [(0x400, 48)], 0x0, [⟨0, 5, .ro⟩, ⟨5, 8, .ro⟩]⟩,
   ⟨2, 0xc000, [(0x40, 3)], 0x0, [⟨0, 1, .rw⟩, ⟨1, 1, .ro⟩]⟩,
   ⟨2, 0xc004, [(0x40, 3)], 0x0, [⟨0, 1, .ro⟩, ⟨1, 1, .w1c⟩, ⟨2, 18, .ro⟩]⟩,
   ⟨2, 0xf000, [], 0x0, [⟨0, 32, .ro⟩]⟩,
   ⟨2, 0xf004, [], 0x0, [⟨0, 16, .ro⟩]⟩]

/-- The register tables of block LCH. -/
def regsLCH : List RegSpec :=
  [⟨2, 0x0, [], 0x0, [⟨0, 7, .rwl⟩, ⟨7, 1, .rwl⟩, ⟨31, 1, .w1s⟩]⟩,
   ⟨2, 0x4, [], 0x0, [⟨0, 2, .ro⟩]⟩,
   ⟨2, 0x8, [], 0x8064, [⟨0, 12, .rw⟩, ⟨12, 4, .rw⟩]⟩,
   ⟨2, 0x10, [], 0x0, [⟨0, 16, .rw⟩]⟩,
   ⟨2, 0x14, [], 0x0, [⟨0, 1, .w1s⟩, ⟨1, 1, .w1s⟩, ⟨2, 1, .ro⟩, ⟨3, 1, .w1c⟩]⟩,
   ⟨2, 0x18, [(0x4, 4)], 0x0, [⟨0, 32, .rw⟩]⟩,
   ⟨2, 0x30, [], 0x0, [⟨0, 8, .rw⟩, ⟨8, 6, .rw⟩, ⟨14, 1, .rw⟩]⟩,
   ⟨2, 0x34, [], 0x0, [⟨0, 16, .rw⟩]⟩,
   ⟨2, 0x100, [(0x4, 8)], 0x0, [⟨0, 32, .rw⟩]⟩,
   ⟨2, 0x120, [], 0x0, [⟨0, 6, .rw⟩]⟩,
   ⟨2, 0x140, [(0x4, 8)], 0x0, [⟨0, 32, .ro⟩]⟩,
   ⟨2, 0x200, [(0x4, 128)], 0x0, [⟨0, 8, .rw⟩, ⟨8, 1, .rw⟩]⟩] ++
  [⟨2, 0x1000, [(0x40, 48)], 0x14000, [⟨0, 1, .rw⟩, ⟨1, 1, .rw⟩, ⟨2, 4, .rw⟩, ⟨6, 7, .rw⟩, ⟨13, 3, .rw⟩, ⟨16, 3, .rw⟩]⟩,
   ⟨2, 0x1004, [(0x40, 48)], 0x0, [⟨0, 3, .ro⟩, ⟨3, 1, .ro⟩, ⟨4, 1, .w1c⟩, ⟨8, 24, .ro⟩]⟩,
   ⟨2, 0x1008, [(0x40, 48)], 0x0, [⟨0, 24, .ro⟩, ⟨24, 7, .ro⟩]⟩,
   ⟨2, 0x100c, [(0x40, 48)], 0x0, [⟨0, 8, .ro⟩, ⟨8, 8, .ro⟩, ⟨16, 8, .ro⟩, ⟨24, 8, .ro⟩]⟩,
   ⟨2, 0x1010, [(0x40, 48)], 0x0, [⟨0, 9, .rw⟩, ⟨16, 9, .rw⟩]⟩,
   ⟨2, 0x1014, [(0x40, 48)], 0x0, [⟨0, 1, .w1s⟩]⟩,
   ⟨2, 0x1018, [(0x40, 48)], 0x0, [⟨0, 1, .w1s⟩, ⟨1, 1, .w1c⟩, ⟨2, 1, .w1c⟩]⟩,
   ⟨2, 0x1020, [(0x40, 48)], 0x0, [⟨0, 32, .ro⟩]⟩,
   ⟨2, 0x1024, [(0x40, 48)], 0x0, [⟨0, 32, .ro⟩]⟩,
   ⟨2, 0x1028, [(0x40, 48)], 0x0, [⟨0, 24, .ro⟩]⟩,
   ⟨2, 0x102c, [(0x40, 48)], 0x0, [⟨0, 32, .ro⟩]⟩,
   ⟨2, 0x1030, [(0x40, 48)], 0x0, [⟨0, 32, .ro⟩]⟩] ++
  [⟨2, 0x1034, [(0x40, 48)], 0x0, [⟨0, 24, .ro⟩]⟩]

/-- The register tables of block CFG. -/
def regsCFG : List RegSpec :=
  [⟨4, 0x0, [], 0x0, [⟨0, 32, .ro⟩]⟩,
   ⟨4, 0x4, [], 0x4812, [⟨0, 32, .ro⟩]⟩,
   ⟨4, 0x8, [], 0x0, [⟨0, 2, .rw⟩, ⟨2, 1, .w1s⟩, ⟨3, 1, .w1s⟩, ⟨4, 1, .w1s⟩, ⟨5, 1, .w1s⟩]⟩,
   ⟨4, 0xc, [], 0x40, [⟨0, 3, .ro⟩, ⟨3, 1, .ro⟩, ⟨4, 1, .ro⟩, ⟨5, 1, .ro⟩, ⟨6, 1, .ro⟩, ⟨7, 1, .w1c⟩, ⟨8, 1, .ro⟩]⟩,
   ⟨4, 0x10, [], 0x0, [⟨0, 4, .ro⟩, ⟨4, 8, .ro⟩]⟩,
   ⟨4, 0x14, [], 0x0, [⟨0, 32, .ro⟩]⟩,
   ⟨4, 0x18, [], 0x0, [⟨0, 8, .ro⟩, ⟨8, 8, .ro⟩]⟩,
   ⟨4, 0x1c, [], 0x2710, [⟨0, 32, .rw⟩]⟩,
   ⟨4, 0x20, [], 0x64, [⟨0, 32, .rw⟩]⟩,
   ⟨4, 0x24, [], 0x0, [⟨0, 32, .ro⟩]⟩,
   ⟨4, 0x28, [], 0x0, [⟨0, 32, .ro⟩]⟩,
   ⟨4, 0x2c, [], 0x0, [⟨0, 32, .ro⟩]⟩] ++
  [⟨4, 0x30, [], 0x0, [⟨0, 32, .ro⟩]⟩,
   ⟨4, 0x40, [(0x4, 12)], 0x0, [⟨0, 32, .ro⟩]⟩,
   ⟨4, 0x80, [], 0x0, [⟨0, 9, .rw⟩, ⟨9, 14, .rw⟩]⟩,
   ⟨4, 0x84, [], 0x0, [⟨0, 2, .ro⟩]⟩,
   ⟨1, 0x0, [], 0x0, [⟨0, 1, .ro⟩, ⟨1, 1, .ro⟩]⟩,
   ⟨1, 0x4, [], 0x0, [⟨0, 32, .ro⟩]⟩]

/-- The register tables of block GLEAN. -/
def regsGLEAN : List RegSpec :=
  [⟨1, 0x0, [], 0x0, [⟨0, 1, .rw⟩, ⟨1, 1, .rw⟩, ⟨2, 1, .rw⟩]⟩,
   ⟨1, 0x4, [], 0x0, [⟨0, 1, .ro⟩, ⟨1, 1, .ro⟩, ⟨2, 1, .w1c⟩, ⟨16, 16, .ro⟩]⟩,
   ⟨1, 0x8, [], 0x0, [⟨0, 32, .ro⟩]⟩,
   ⟨1, 0xc, [], 0x0, [⟨0, 16, .ro⟩]⟩,
   ⟨1, 0x10, [], 0x0, [⟨0, 32, .ro⟩]⟩,
   ⟨1, 0x14, [], 0x0, [⟨0, 16, .ro⟩, ⟨16, 16, .ro⟩]⟩,
   ⟨1, 0x18, [], 0x1003e8, [⟨0, 16, .rw⟩, ⟨16, 16, .rw⟩]⟩,
   ⟨1, 0x1c, [], 0x0, [⟨0, 16, .ro⟩, ⟨16, 1, .w1c⟩]⟩,
   ⟨1, 0x20, [], 0x0, [⟨0, 32, .w1c⟩]⟩,
   ⟨1, 0x24, [], 0x0, [⟨0, 32, .w1s⟩]⟩,
   ⟨1, 0x28, [], 0x0, [⟨12, 20, .rw⟩]⟩,
   ⟨1, 0x2c, [], 0x0, [⟨0, 16, .rw⟩]⟩]

/-- The register tables of block GRAN. -/
def regsGRAN : List RegSpec :=
  [⟨2, 0x0, [], 0x640000, [⟨0, 1, .rw⟩, ⟨16, 16, .rw⟩]⟩,
   ⟨2, 0x4, [], 0x0, [⟨0, 1, .ro⟩, ⟨1, 1, .ro⟩, ⟨2, 13, .ro⟩, ⟨16, 16, .ro⟩]⟩,
   ⟨2, 0x8, [], 0x0, [⟨0, 32, .ro⟩]⟩,
   ⟨2, 0xc, [], 0x0, [⟨0, 16, .ro⟩, ⟨16, 16, .ro⟩]⟩,
   ⟨2, 0x100, [(0x4, 96)], 0x0, [⟨0, 3, .ro⟩, ⟨3, 1, .ro⟩]⟩]

/-- The register tables of block ERR. -/
def regsERR : List RegSpec :=
  [⟨3, 0x0, [], 0xa, [⟨0, 3, .rw⟩, ⟨3, 1, .rw⟩]⟩,
   ⟨3, 0x4, [], 0x0, [⟨0, 5, .ro⟩, ⟨5, 1, .ro⟩, ⟨16, 16, .ro⟩]⟩,
   ⟨3, 0x8, [], 0x0, [⟨0, 1, .w1s⟩]⟩,
   ⟨3, 0xc, [], 0x0, [⟨0, 32, .ro⟩]⟩,
   ⟨3, 0x40, [(0x4, 16)], 0x0, [⟨0, 32, .ro⟩]⟩,
   ⟨4, 0x0, [], 0x0, [⟨0, 1, .ro⟩, ⟨1, 1, .ro⟩, ⟨8, 8, .ro⟩]⟩,
   ⟨4, 0x4, [], 0x0, [⟨0, 16, .ro⟩, ⟨16, 8, .ro⟩, ⟨24, 8, .ro⟩]⟩,
   ⟨4, 0x8, [], 0x0, [⟨0, 16, .ro⟩]⟩,
   ⟨4, 0xc, [], 0x0, [⟨0, 32, .ro⟩]⟩,
   ⟨4, 0x10, [], 0x0, [⟨0, 32, .ro⟩]⟩,
   ⟨4, 0x14, [], 0x0, [⟨0, 32, .ro⟩]⟩,
   ⟨4, 0x18, [], 0x0, [⟨0, 16, .ro⟩]⟩] ++
  [⟨4, 0x1c, [], 0x0, [⟨0, 1, .w1s⟩]⟩,
   ⟨4, 0x100, [(0x4, 16)], 0x0, [⟨0, 9, .rw⟩, ⟨9, 1, .rw⟩, ⟨10, 1, .rw⟩, ⟨11, 5, .rw⟩]⟩,
   ⟨1, 0x100, [(0x40, 2)], 0x0, [⟨0, 1, .rw⟩]⟩,
   ⟨2, 0x100, [(0x40, 4)], 0x0, [⟨0, 1, .rw⟩]⟩,
   ⟨1, 0x104, [(0x40, 2)], 0x0, [⟨0, 1, .ro⟩, ⟨16, 16, .ro⟩]⟩,
   ⟨2, 0x104, [(0x40, 4)], 0x0, [⟨0, 1, .ro⟩, ⟨16, 16, .ro⟩]⟩,
   ⟨1, 0x108, [(0x40, 2)], 0x0, [⟨0, 32, .ro⟩]⟩,
   ⟨2, 0x108, [(0x40, 4)], 0x0, [⟨0, 32, .ro⟩]⟩,
   ⟨1, 0x10c, [(0x40, 2)], 0x0, [⟨0, 32, .ro⟩]⟩,
   ⟨2, 0x10c, [(0x40, 4)], 0x0, [⟨0, 32, .ro⟩]⟩,
   ⟨1, 0x110, [(0x40, 2)], 0x0, [⟨0, 32, .ro⟩]⟩,
   ⟨2, 0x110, [(0x40, 4)], 0x0, [⟨0, 32, .ro⟩]⟩] ++
  [⟨1, 0x114, [(0x40, 2)], 0x0, [⟨0, 16, .ro⟩]⟩,
   ⟨2, 0x114, [(0x40, 4)], 0x0, [⟨0, 16, .ro⟩]⟩,
   ⟨1, 0x118, [(0x40, 2)], 0x1003e8, [⟨0, 16, .rw⟩, ⟨16, 16, .rw⟩]⟩,
   ⟨2, 0x118, [(0x40, 4)], 0x1003e8, [⟨0, 16, .rw⟩, ⟨16, 16, .rw⟩]⟩,
   ⟨1, 0x11c, [(0x40, 2)], 0x0, [⟨0, 16, .ro⟩, ⟨16, 1, .w1c⟩]⟩,
   ⟨2, 0x11c, [(0x40, 4)], 0x0, [⟨0, 16, .ro⟩, ⟨16, 1, .w1c⟩]⟩]

/-- The register tables of block TEL. -/
def regsTEL : List RegSpec :=
  [⟨3, 0x0, [], 0x0, [⟨0, 1, .rw⟩]⟩,
   ⟨3, 0x4, [], 0x0, [⟨0, 32, .ro⟩]⟩,
   ⟨3, 0x8, [], 0x0, [⟨0, 16, .ro⟩, ⟨16, 16, .ro⟩]⟩,
   ⟨3, 0xc, [], 0x0, [⟨0, 32, .ro⟩]⟩,
   ⟨3, 0x10, [], 0x0, [⟨0, 16, .ro⟩]⟩,
   ⟨4, 0x100, [], 0x9b7d, [⟨0, 8, .rw⟩, ⟨8, 8, .rw⟩]⟩,
   ⟨4, 0x104, [], 0x0, [⟨0, 1, .ro⟩, ⟨1, 1, .w1c⟩]⟩]

/-- The register tables of block PWR. -/
def regsPWR : List RegSpec :=
  [⟨4, 0x0, [], 0x1c2, [⟨0, 16, .rw⟩]⟩,
   ⟨4, 0x4, [], 0x2bc, [⟨0, 16, .ro⟩]⟩,
   ⟨4, 0x8, [], 0x0, [⟨0, 32, .ro⟩]⟩,
   ⟨4, 0xc, [], 0x0, [⟨0, 1, .ro⟩, ⟨1, 1, .ro⟩, ⟨2, 1, .ro⟩, ⟨3, 1, .ro⟩, ⟨4, 1, .w1c⟩]⟩,
   ⟨4, 0x10, [], 0x0, [⟨0, 1, .w1s⟩, ⟨1, 1, .ro⟩, ⟨16, 12, .ro⟩]⟩,
   ⟨4, 0x14, [], 0x0, [⟨0, 12, .rw⟩, ⟨16, 4, .rw⟩]⟩,
   ⟨4, 0x20, [(0x4, 12)], 0x0, [⟨0, 7, .rw⟩, ⟨7, 1, .rw⟩]⟩,
   ⟨4, 0x50, [], 0x48, [⟨0, 7, .rw⟩]⟩,
   ⟨4, 0x54, [], 0x0, [⟨0, 7, .ro⟩, ⟨7, 1, .w1c⟩, ⟨8, 16, .ro⟩]⟩,
   ⟨3, 0x0, [], 0x0, [⟨0, 2, .ro⟩, ⟨2, 1, .ro⟩, ⟨3, 1, .ro⟩, ⟨4, 1, .w1c⟩]⟩,
   ⟨3, 0x4, [], 0x2ee, [⟨0, 10, .ro⟩, ⟨16, 10, .ro⟩]⟩,
   ⟨3, 0x8, [], 0x2ee, [⟨0, 10, .rw⟩]⟩] ++
  [⟨3, 0xc, [], 0x0, [⟨0, 32, .ro⟩]⟩,
   ⟨3, 0x14, [], 0x0, [⟨0, 32, .rw⟩]⟩,
   ⟨3, 0x18, [], 0x0, [⟨0, 32, .ro⟩]⟩,
   ⟨3, 0x1c, [], 0x0, [⟨0, 32, .w1s⟩]⟩,
   ⟨3, 0x20, [], 0x0, [⟨0, 1, .rw⟩, ⟨1, 1, .rw⟩]⟩,
   ⟨3, 0x24, [], 0x0, [⟨0, 8, .ro⟩, ⟨8, 6, .ro⟩]⟩,
   ⟨1, 0x10, [], 0x4e20, [⟨0, 32, .rw⟩]⟩,
   ⟨2, 0x10, [], 0x55f0, [⟨0, 32, .rw⟩]⟩]

/-- The register tables of block CLK. -/
def regsCLK : List RegSpec :=
  [⟨7, 0x0, [], 0x0, [⟨0, 4, .wo⟩, ⟨4, 1, .wo⟩]⟩,
   ⟨7, 0x8, [], 0x0, [⟨0, 2, .ro⟩]⟩,
   ⟨7, 0xc, [], 0x0, [⟨0, 3, .ro⟩]⟩,
   ⟨7, 0x10, [], 0x0, [⟨0, 16, .ro⟩, ⟨16, 1, .w1c⟩]⟩,
   ⟨4, 0x100, [], 0x0, [⟨0, 1, .rw⟩, ⟨1, 3, .rw⟩, ⟨4, 4, .rw⟩, ⟨8, 16, .rw⟩]⟩,
   ⟨4, 0x104, [], 0x3c0, [⟨0, 5, .rw⟩, ⟨5, 6, .rw⟩]⟩,
   ⟨4, 0x108, [], 0x0, [⟨0, 1, .w1c⟩, ⟨1, 1, .ro⟩]⟩,
   ⟨1, 0x4, [], 0x1, [⟨0, 16, .ro⟩]⟩,
   ⟨2, 0x4, [], 0x7f, [⟨0, 16, .ro⟩]⟩,
   ⟨4, 0x4, [], 0x3f, [⟨0, 16, .ro⟩]⟩]

/-- The register tables of block SEC. -/
def regsSEC : List RegSpec :=
  [⟨4, 0x0, [(0x4, 12)], 0x0, [⟨0, 32, .rw⟩]⟩,
   ⟨4, 0x40, [(0x4, 4)], 0x0, [⟨0, 16, .rw⟩, ⟨16, 4, .rwl⟩]⟩,
   ⟨4, 0x50, [], 0x0, [⟨0, 32, .rw⟩]⟩,
   ⟨4, 0x54, [], 0x0, [⟨0, 32, .rw⟩]⟩,
   ⟨4, 0x58, [], 0x180200, [⟨0, 26, .rwl⟩]⟩,
   ⟨4, 0x5c, [], 0x0, [⟨0, 16, .ro⟩]⟩,
   ⟨4, 0x60, [], 0x0, [⟨0, 1, .w1s⟩]⟩,
   ⟨4, 0x64, [], 0x0, [⟨0, 1, .ro⟩, ⟨1, 1, .w1c⟩, ⟨2, 1, .ro⟩]⟩,
   ⟨4, 0x68, [], 0x0, [⟨0, 5, .rwl⟩]⟩,
   ⟨4, 0x6c, [], 0x0, [⟨0, 5, .ro⟩, ⟨5, 1, .ro⟩]⟩,
   ⟨4, 0x70, [], 0x0, [⟨0, 1, .ro⟩]⟩,
   ⟨4, 0x80, [], 0x0, [⟨0, 16, .ro⟩, ⟨16, 16, .ro⟩]⟩] ++
  [⟨4, 0x84, [], 0x0, [⟨0, 16, .ro⟩, ⟨16, 8, .ro⟩]⟩,
   ⟨4, 0x90, [], 0x0, [⟨0, 20, .rw⟩, ⟨20, 1, .w1s⟩, ⟨21, 1, .w1s⟩]⟩,
   ⟨4, 0x94, [], 0x0, [⟨0, 1, .ro⟩, ⟨1, 1, .w1c⟩, ⟨2, 2, .ro⟩]⟩,
   ⟨4, 0x100, [(0x4, 24)], 0x0, [⟨0, 32, .ro⟩]⟩]

/-- The register tables of block LC. -/
def regsLC : List RegSpec :=
  [⟨4, 0x0, [], 0x0, [⟨0, 3, .ro⟩, ⟨3, 1, .ro⟩, ⟨4, 1, .ro⟩, ⟨5, 2, .ro⟩]⟩,
   ⟨4, 0x10, [(0x4, 4)], 0x0, [⟨0, 32, .ro⟩]⟩,
   ⟨4, 0x20, [], 0x0, [⟨0, 1, .w1s⟩, ⟨1, 1, .ro⟩]⟩,
   ⟨4, 0x100, [(0x4, 60)], 0x0, [⟨0, 32, .wo⟩]⟩,
   ⟨4, 0x200, [], 0x0, [⟨0, 1, .w1s⟩]⟩,
   ⟨4, 0x204, [], 0x0, [⟨0, 1, .ro⟩, ⟨1, 1, .w1c⟩, ⟨2, 3, .ro⟩]⟩]

/-- The register tables of block SP. -/
def regsSP : List RegSpec :=
  [⟨4, 0x0, [], 0x0, [⟨0, 1, .rw⟩, ⟨1, 4, .rw⟩, ⟨5, 1, .rw⟩, ⟨6, 1, .rw⟩]⟩,
   ⟨4, 0x4, [], 0x186a0, [⟨0, 32, .rw⟩]⟩,
   ⟨4, 0x8, [], 0x186a0, [⟨0, 32, .ro⟩]⟩,
   ⟨4, 0xc, [], 0x0, [⟨0, 1, .w1s⟩]⟩,
   ⟨4, 0x1000, [(0x400, 4)], 0x0, [⟨0, 1, .rw⟩, ⟨1, 4, .rw⟩, ⟨5, 1, .w1s⟩, ⟨6, 1, .rw⟩]⟩,
   ⟨4, 0x1004, [(0x400, 4)], 0x0, [⟨0, 1, .ro⟩, ⟨1, 1, .ro⟩, ⟨2, 8, .w1c⟩]⟩,
   ⟨4, 0x1008, [(0x400, 4)], 0x0, [⟨0, 32, .ro⟩]⟩,
   ⟨4, 0x100c, [(0x400, 4)], 0x0, [⟨0, 8, .ro⟩]⟩,
   ⟨4, 0x1010, [(0x400, 4)], 0x0, [⟨0, 6, .ro⟩]⟩,
   ⟨4, 0x1014, [(0x400, 4)], 0x0, [⟨0, 32, .rw⟩]⟩,
   ⟨4, 0x1018, [(0x400, 4)], 0x0, [⟨0, 32, .rw⟩]⟩,
   ⟨4, 0x1100, [(0x400, 4), (0x10, 8)], 0x0, [⟨0, 32, .rw⟩]⟩] ++
  [⟨4, 0x1104, [(0x400, 4), (0x10, 8)], 0x0, [⟨0, 32, .rw⟩]⟩,
   ⟨4, 0x1108, [(0x400, 4), (0x10, 8)], 0x18, [⟨0, 1, .rw⟩, ⟨1, 1, .rw⟩, ⟨2, 1, .rw⟩, ⟨3, 2, .rw⟩]⟩,
   ⟨4, 0x1200, [(0x400, 4)], 0x0, [⟨0, 5, .rw⟩, ⟨5, 11, .rw⟩]⟩,
   ⟨4, 0x1204, [(0x400, 4)], 0x0, [⟨0, 32, .wo⟩]⟩]

/-- The register tables of block DBG. -/
def regsDBG : List RegSpec :=
  [⟨4, 0x0, [], 0x4812a1b, [⟨0, 32, .ro⟩]⟩,
   ⟨4, 0x4, [], 0x0, [⟨0, 1, .w1c⟩, ⟨1, 1, .w1c⟩, ⟨2, 1, .ro⟩, ⟨3, 2, .ro⟩]⟩,
   ⟨4, 0x8, [], 0x0, [⟨0, 16, .rw⟩]⟩,
   ⟨4, 0x10, [], 0x0, [⟨0, 1, .rw⟩, ⟨1, 1, .rw⟩]⟩,
   ⟨4, 0x14, [], 0x0, [⟨18, 9, .rw⟩]⟩,
   ⟨4, 0x18, [], 0x0, [⟨0, 13, .ro⟩]⟩,
   ⟨4, 0x1c, [], 0x0, [⟨0, 32, .ro⟩]⟩]

/-- The register tables of block SIO. -/
def regsSIO : List RegSpec :=
  [⟨4, 0x0, [(0x4, 64)], 0x10, [⟨0, 2, .rw⟩, ⟨2, 2, .rw⟩, ⟨4, 2, .rw⟩, ⟨6, 2, .rw⟩]⟩,
   ⟨4, 0x100, [], 0x0, [⟨0, 32, .ro⟩]⟩,
   ⟨4, 0x104, [], 0x0, [⟨0, 32, .ro⟩]⟩,
   ⟨4, 0x108, [], 0x0, [⟨0, 32, .ro⟩]⟩,
   ⟨4, 0x10c, [], 0x0, [⟨0, 32, .ro⟩]⟩,
   ⟨4, 0x120, [(0x4, 16)], 0x0, [⟨0, 32, .ro⟩]⟩]

/-- The register tables of a block id (Table 1.7); BAR0 is listed as block 0. -/
def blockRegs (b : Nat) : List RegSpec :=
  match b with
  | 0x0 => regsBAR0
  | 0x1 => regsFAB
  | 0x2 => regsPACE
  | 0x3 => regsBIN
  | 0x4 => regsMAC
  | 0x5 => regsNOC
  | 0x6 => regsD2D
  | 0x7 => regsRCACHE
  | 0x8 => regsHBM
  | 0x9 => regsMEMSEC
  | 0xa => regsLANE
  | 0xb => regsLCH
  | 0xc => regsCFG
  | 0xd => regsGLEAN
  | 0xe => regsGRAN
  | 0xf => regsERR
  | 0x10 => regsTEL
  | 0x11 => regsPWR
  | 0x12 => regsCLK
  | 0x13 => regsSEC
  | 0x14 => regsLC
  | 0x16 => regsSP
  | 0x17 => regsDBG
  | 0x18 => regsSIO
  | _ => []

end Sys2Proof.Machine
end

