-- ==== Sys2Proof/Machine/Ops.lean ====
section
/-! DEFINITION. The named operations over the device: registers and their fields, free values, the timebase's units, the
numbering of dies and fields (R16, R17), error records (R378 to R384) and leaky buckets (R373). -/

namespace Sys2Proof.Machine

/-! ### Register words -/

/-- A word at an offset belongs to a register with these instance strides (R40). -/
def dimsMatch (off : Nat) : List (Nat × Nat) → Bool
  | [] => off == 0
  | (st, ct) :: r => decide (off / st < ct) && dimsMatch (off % st) r

/-- A register table's row for an offset in a block, for a kind of die. -/
def findRow (scope off : Nat) : List RegSpec → Option RegSpec
  | [] => none
  | r :: rs =>
    if r.scope / scope % 2 = 1 ∧ r.base ≤ off ∧ dimsMatch (off - r.base) r.dims then some r else findRow scope off rs

/-- The kind of die a selector names (R38): 1 compute, 2 base, 4 package, 0 unused. -/
def scopeOf (die : Nat) : Nat :=
  if die ≤ 11 then 1 else if 16 ≤ die ∧ die ≤ 19 then 2 else if die = 32 then 4 else 0

/-- The register at an address: a register-space address (R38), or 0x1_0000_0000 plus a BAR0 offset. -/
def findReg (a : Nat) : Option RegSpec :=
  if a < 0x100000000 then
    (if scopeOf (a / 0x1000000) = 0 then none
     else findRow (scopeOf (a / 0x1000000)) (a % 0x10000) (blockRegs (a / 0x10000 % 0x100)))
  else findRow 8 (a - 0x100000000) (blockRegs 0)

/-- The word a register holds at reset. A mailbox's response vector resets to its number (Table 12.4); PWR_FALLBACK and
CLK_GATE_EN differ by the kind of die (Tables 14.5 and 14.9). -/
def resetWord (a : Nat) : Word :=
  match findReg a with
  | none => 0
  | some r =>
    if r.scope = 8 ∧ 0x100010000 ≤ a ∧ a < 0x100020000 ∧ a % 0x1000 = 0 then
      BitVec.ofNat 32 (r.reset + (a / 0x1000 % 16) * 32)
    else if a % 0x1000000 = 0x110010 then (if a < 0x10000000 then 0x4E20#32 else 0x55F0#32)
    else if a % 0x1000000 = 0x120004 then
      (if a < 0x10000000 then 0x1#32 else if a < 0x20000000 then 0x7F#32 else 0x3F#32)
    else BitVec.ofNat 32 r.reset

/-- The word a register holds. -/
def Dev.rdWord (d : Dev) (a : Nat) : Word := d.regs.get a (resetWord a)

/-- The device with a register's word replaced. -/
def Dev.wrWord (d : Dev) (a : Nat) (w : Word) : Dev := { d with regs := d.regs.put a w (resetWord a) }

/-- The field [lsb + w - 1:lsb] of a word. -/
def bits (v : Word) (lsb w : Nat) : Nat := v.toNat / 2 ^ lsb % 2 ^ w

/-- A word with a field replaced. -/
def setBits (v : Word) (lsb w n : Nat) : Word :=
  BitVec.ofNat 32 (v.toNat - bits v lsb w * 2 ^ lsb + n % 2 ^ w * 2 ^ lsb)

/-- A field's value. -/
def Dev.get (d : Dev) (f : Fld) : Nat := bits (d.rdWord f.addr) f.lsb f.w

/-- Sets a field. -/
def Dev.set (d : Dev) (f : Fld) (n : Nat) : Dev := d.wrWord f.addr (setBits (d.rdWord f.addr) f.lsb f.w n)

/-- Whether a field is not 0. -/
def Dev.on (d : Dev) (f : Fld) : Bool := d.get f != 0

/-- One bit of a field. -/
def Dev.bit (d : Dev) (f : Fld) (i : Nat) : Bool := d.get f / 2 ^ i % 2 == 1

/-- Sets one bit of a field. -/
def Dev.setBit (d : Dev) (f : Fld) (i : Nat) (b : Bool) : Dev :=
  d.set f (d.get f - d.get f / 2 ^ i % 2 * 2 ^ i + (if b then 2 ^ i else 0))

/-- Adds to a counter that saturates. -/
def Dev.bump (d : Dev) (f : Fld) (n : Nat := 1) : Dev := d.set f (min (d.get f + n) (2 ^ f.w - 1))

/-- Adds to a counter that wraps. -/
def Dev.wrap (d : Dev) (f : Fld) (n : Nat := 1) : Dev := d.set f ((d.get f + n) % 2 ^ f.w)

/-- A 64-bit value held in a register pair, by the addresses of its words (R514). -/
def Dev.pair (d : Dev) (lo hi : Nat) : Nat := (d.rdWord lo).toNat + (d.rdWord hi).toNat * 2 ^ 32

/-- Sets a register pair. -/
def Dev.setPair (d : Dev) (lo hi n : Nat) : Dev :=
  (d.wrWord lo (BitVec.ofNat 32 n)).wrWord hi (BitVec.ofNat 32 (n / 2 ^ 32))

/-- Puts every register from `lo` up to but not including `hi` back to its reset word, by a command that clears them: the latches of
pairs stay as they are (R514). -/
def Dev.clearRegs (d : Dev) (lo hi : Nat) : Dev := { d with regs := d.regs.clear lo hi }

/-- Resets the registers from `lo` up to but not including `hi`. R514 does not say what a reset does to the latches of their pairs: they
are emptied (DESIGN CHOICE, log entry 129). -/
def Dev.resetRegs (d : Dev) (lo hi : Nat) : Dev :=
  { d.clearRegs lo hi with latch := d.latch.clear lo hi }

/-- The registers of one block of a die (R38). -/
def Dev.resetBlock (d : Dev) (die block : Nat) : Dev :=
  d.resetRegs (die * 0x1000000 + block * 0x10000) (die * 0x1000000 + (block + 1) * 0x10000)

/-! ### Free values (log entry 1) -/

/-- The open value at hand. -/
def Dev.freeVal (d : Dev) : BitVec 512 := Config.free d.free

/-- The device with the open value at hand used up. -/
def Dev.spend (d : Dev) : Dev := { d with free := d.free + 1 }

/-! ### Lists -/

/-- Applies an action for each item, in order. -/
def each {α : Type} (l : List α) (f : α → Dev → Dev) (d : Dev) : Dev := l.foldl (fun d x => f x d) d

/-- The items of a list that satisfy `p`, and whether the list held any. -/
def without {α : Type} [DecidableEq α] (l : List α) (x : α) : List α := l.filter (fun y => y != x)

/-- Adds an item that is not there yet. -/
def withItem {α : Type} [DecidableEq α] (l : List α) (x : α) : List α := if x ∈ l then l else l ++ [x]

/-- The bytes of a value, least significant first. -/
def toBytes (v : Nat) : Nat → List Byte
  | 0 => []
  | n + 1 => BitVec.ofNat 8 v :: toBytes (v / 256) n

/-- A value from bytes, least significant first. -/
def ofBytes : List Byte → Nat
  | [] => 0
  | b :: r => b.toNat + 256 * ofBytes r

/-- `n` bytes from place `k`, 0 beyond the end. -/
def slice (l : List Byte) (k n : Nat) : List Byte :=
  (l.drop k).take n ++ List.replicate (n - ((l.drop k).take n).length) 0

/-- A little-endian value at byte `k`. -/
def leAt (l : List Byte) (k n : Nat) : Nat := ofBytes (slice l k n)

/-- A list with the items from place `k` replaced. -/
def patch {α : Type} (l : List α) (k : Nat) (x : List α) : List α := l.take k ++ x ++ l.drop (k + x.length)

/-! ### Time -/

/-- Ticks of the timebase in a microsecond (62.5 ps each, R127). -/
def ticksPerUs : Nat := 16000

/-- The timebase count. -/
def Dev.now (d : Dev) : Nat := d.pac.tb

/-! ### Dies and fields (R16, R17, R38) -/

/-- The compute die of a field. -/
def dieOf (f : Nat) : Nat := 6 * (f / 192) + f % 48 / 8

/-- The local field index of a field on its die. -/
def idxOf (f : Nat) : Nat := 8 * (f / 48 % 4) + f % 8

/-- The field with a local index on a die. -/
def fieldAt (die i : Nat) : Nat := 48 * (4 * (die / 6) + i / 8) + 8 * (die % 6) + i % 8

/-- The fields of a compute die, by local index. -/
def dieFields (die : Nat) : List Nat := (List.range 32).map (fieldAt die)

/-- The base die that carries a compute die (Table 1.1). -/
def baseOf (die : Nat) : Nat := die / 3

/-- The register selector of base die Bb. -/
def baseSel (b : Nat) : Nat := 16 + b

/-- The die index of a selector: compute dies 0 to 11, base dies 12 to 15; the package's records and resets go with B0. -/
def dieIndex (sel : Nat) : Nat := if sel ≤ 11 then sel else if 16 ≤ sel ∧ sel ≤ 19 then sel - 4 else 12

/-- The selector of a die index. -/
def dieSel (i : Nat) : Nat := if i ≤ 11 then i else i + 4

/-- Whether a die is held in per-die reset. -/
def Dev.heldDie (d : Dev) (sel : Nat) : Bool := sel != 32 && d.pwr.held.getLsbD (dieIndex sel)

/-- A field's part in the design cycle. -/
def Dev.fld (d : Dev) (f : Nat) : FieldDyn := d.flds.get f {}

/-- Sets a field's part in the design cycle. -/
def Dev.setFld (d : Dev) (f : Nat) (v : FieldDyn) : Dev := { d with flds := d.flds.put f v {} }

/-- Changes the pacer's state. -/
def Dev.modPac (d : Dev) (g : Pacer → Pacer) : Dev := { d with pac := g d.pac }

/-- Changes the fabric's values. -/
def Dev.modFab (d : Dev) (g : Fabric → Fabric) : Dev := { d with fab := g d.fab }

/-- Whether the pacer runs: PACE_STATUS.running (Table 4.5). -/
def Dev.running (d : Dev) : Bool := d.on Reg.PACE_STATUS_running

/-- Whether the device is halted (R387). -/
def Dev.halted (d : Dev) : Bool := d.on Reg.ERR_HALT_STATUS_halted

/-- PACE_COMMITTED. -/
def Dev.committed (d : Dev) : Nat := d.pair Reg.PACE_COMMITTED_LO Reg.PACE_COMMITTED_HI

/-! ### Interrupts to the host (R413) -/

/-- Sends an MSI-X vector; one that is masked sets its pending bit (R413). -/
def Dev.sendVector (d : Dev) (v : Nat) : Dev :=
  if d.on (Reg.MSIX_CTL_mask v) then
    { d with host := { d.host with pendingBits := d.host.pendingBits ||| BitVec.ofNat 64 (2 ^ v) } }
  else { d with host := { d.host with vectors := d.host.vectors ++ [v] } }

/-- An event vector of service firmware 3.2, 16 to 21, while it runs (Table 12.7): its bit in ID_EVENTS and its vector. -/
def Dev.hostEvent (d : Dev) (v : Nat) : Dev :=
  if d.get Reg.ID_STATE_sp_state = 3 then (d.setBit Reg.ID_EVENTS_pending (v - 16) true).sendVector v else d

/-! ### Host memory (R402, R405) -/

/-- What the host has done with its memory. -/
def Dev.hostTake (d : Dev) (h : HostMem) : Dev :=
  { d with host := { d.host with
      mem := h.stores.foldl (fun (m : Memory) (x : Nat × List Byte) => m.writeBytes x.1 x.2) d.host.mem
      fails := h.fails } }

/-- Whether the device reaches `n` bytes of host memory: the link is up, and none of them answers with an error. -/
def Dev.hostReaches (d : Dev) (a n : Nat) : Bool :=
  d.host.linkUp && !d.host.fails.any (fun x => decide (a ≤ x) && decide (x < a + n))

/-- Bytes of host memory, none on a host DMA error. -/
def Dev.hostRead (d : Dev) (a n : Nat) : Option (List Byte) :=
  if d.hostReaches a n then some (Memory.readBytes d.host.mem a n) else none

/-- The firmware queues CONTROL messages on a lane. -/
def Dev.sendOn (d : Dev) (n dst : Nat) (toLocal : Bool) (ws : List (BitVec 256)) : Dev :=
  let l := d.links.get n {}
  { d with links := d.links.put n { l with ctlQ := l.ctlQ ++ ws.map (fun w => { toLocal := toLocal, dst := dst, data := w }) } {} }

/-- The firmware queues CONTROL messages for a position, on the lane of its forwarding entry (R309). -/
def Dev.sendTo (d : Dev) (pos : Nat) (ws : List (BitVec 256)) : Dev :=
  let n := d.get (Reg.LCH_FWD_lane 16 pos)
  if d.on (Reg.LCH_FWD_valid 16 pos) ∧ n < 192 then d.sendOn n pos false ws else d

/-- The firmware queues a cluster message for a position: CONTROL slots on the lane of its forwarding entry (R145, R309). -/
def Dev.clusterSend (d : Dev) (x : ClusterMsg) (pos : Nat) : Dev :=
  d.sendTo pos (Config.clusterWords x)

/-- A manager broadcasts to every positioned worker, in order of position (R145). -/
def Dev.clusterAll (d : Dev) (x : ClusterMsg) : Dev :=
  each ((List.range d.cluster.members.length).drop 1) (fun p d => d.clusterSend x p) d

/-- A missed stop-at of a position is noted, and is a cluster event (R145, Table 12.7). -/
def Dev.noteMissed (d : Dev) (pos : Nat) : Dev :=
  let d : Dev := { d with cluster := { d.cluster with missed := d.cluster.missed.filter (fun p => p != pos) ++ [pos] } }
  d.hostEvent 20

/-- The level of the CFG_DONE line: 0 while this device or another drives it low (R342). -/
def Dev.doneIn (d : Dev) : Bool := !d.on Reg.CFG_STATUS_done_drive && !d.cfg.doneHeld

/-! ### Error records (R378 to R384) -/

/-- The error FIFO of a die. -/
def Dev.errDie (d : Dev) (i : Nat) : ErrDie := d.errs.get i {}

/-- Places a record that is not merged (R381, R382): the queue after it, with the record's overflow and nested flag. -/
def ErrDie.enter (e : ErrDie) (r : ErrRec) : ErrDie :=
  let r := { r with seq := e.seq }
  let e := { e with seq := e.seq + 1 }
  let flagged (o : Nat) : ErrRec :=
    { r with
      overflow := o
      flags := r.flags ||| (if e.fifo ≠ [] ∨ e.urgent ≠ none then 1#8 else 0#8) ||| (if o = 0 then 0#8 else 2#8) }
  if 4 ≤ r.severity ∧ e.urgent = none then
    { e with urgent := some (flagged e.ovf), ovf := 0 }
  else if e.fifo.length < 16 then
    { e with fifo := e.fifo ++ [flagged e.ovf], ovf := 0 }
  else if 4 ≤ r.severity ∧ e.fifo.any (fun x => decide (x.severity < 4)) then
    let kept := (e.fifo.reverse.eraseP (fun x => decide (x.severity < 4))).reverse
    { e with fifo := kept ++ [flagged (min (e.ovf + 1) 0xFFFF)], ovf := 0 }
  else { e with ovf := min (e.ovf + 1) 0xFFFF }

/-- Whether a record merges into the newest record of a FIFO (R381). -/
def ErrRec.mergesWith (r x : ErrRec) : Bool :=
  x.die == r.die && x.block == r.block && x.unit == r.unit && x.cls == r.cls && x.address == r.address

/-- The FIFO after a record is raised: merged into the newest record, or entered. -/
def ErrDie.raise (e : ErrDie) (r : ErrRec) : ErrDie :=
  match e.fifo.getLast? with
  | some x =>
    if r.mergesWith x then
      { e with fifo := e.fifo.dropLast ++ [{ x with count := min (x.count + 1) 0xFFFFFFFF }] }
    else e.enter r
  | none => e.enter r

/-- Writes an error record, stamped with the timebase and the cycle count, to the FIFO of its source's die; a record of
severity ERR_CTL.irq_min or more raises the die's error interrupt (R381, R383). -/
def Dev.report (d : Dev) (r : ErrRec) : Dev :=
  let i := dieIndex r.die
  let r := { r with time := d.now, cycle := d.committed, block := r.cls / 0x100 }
  let irq := d.on (Reg.ERR_CTL_irq_en (dieSel i)) && decide (d.get (Reg.ERR_CTL_irq_min (dieSel i)) ≤ r.severity)
  { d with
    errs := d.errs.put i ((d.errDie i).raise r) {}
    errIrq := if irq then d.errIrq ||| BitVec.ofNat 16 (2 ^ i) else d.errIrq }

/-- A record's `flags` bit that says its address is valid. -/
def addrValid : BitVec 8 := 4

/-- A record without an address. -/
def Dev.err (d : Dev) (die unit severity cls : Nat) : Dev :=
  d.report { die := die, unit := unit, severity := severity, cls := cls }

/-- A record with an address. -/
def Dev.errAt (d : Dev) (die unit severity cls address : Nat) (syndrome : Nat := 0) (info : Nat := 0) : Dev :=
  d.report { die := die, unit := unit, severity := severity, cls := cls, address := address, syndrome := syndrome,
             info := info, flags := addrValid }

/-- The 64 bytes of a record (Table 11.6). -/
def ErrRec.bytes (r : ErrRec) : List Byte :=
  toBytes r.seq.toNat 4 ++ toBytes r.die 1 ++ toBytes r.block 1 ++ toBytes r.unit 2 ++ toBytes r.severity 1 ++
  toBytes r.flags.toNat 1 ++ toBytes r.cls 2 ++ toBytes r.count 4 ++ toBytes r.time 8 ++ toBytes r.address 8 ++
  toBytes r.syndrome 8 ++ toBytes r.cycle 8 ++ toBytes r.overflow 4 ++ toBytes r.info 4 ++ toBytes r.logIndex 4 ++
  toBytes 0 4

/-- The head record (R383). -/
def ErrDie.head (e : ErrDie) : Option ErrRec :=
  match e.urgent with
  | some r => some r
  | none => e.fifo.head?

/-- The word of bit flags for which something holds. -/
def flagBits (n : Nat) (p : Nat → Bool) : Nat := (List.range n).foldl (fun x i => if p i then x + 2 ^ i else x) 0

/-- The urgent error interrupt of the dies: raised while a die's urgent entry is occupied, whatever irq_en holds (R383). -/
def Dev.urgentIrq (d : Dev) : BitVec 16 := BitVec.ofNat 16 (flagBits 16 (fun i => (d.errDie i).urgent.isSome))

/-- Removes the head record (R383). -/
def ErrDie.pop (e : ErrDie) : ErrDie :=
  match e.urgent with
  | some _ => { e with urgent := none }
  | none => { e with fifo := e.fifo.drop 1 }

/-! ### Leaky buckets (R373) -/

/-- Adds a corrected error to a bucket: its level register, threshold, overflow bit, and the record's source. -/
def Dev.bucketAdd (d : Dev) (level overflow threshold : Fld) (die unit cls : Nat) : Dev :=
  let l := min (d.get level + 1) 0xFFFF
  if max (d.get threshold) 1 < l then
    let d := ((d.set overflow 1).set level 0).err die unit 1 cls
    { d with errIrq := d.errIrq ||| BitVec.ofNat 16 (2 ^ dieIndex die) }
  else d.set level l

/-- The class of a scrubber's bucket record (Table 11.8), by die selector and scrubber index (Table 11.3). -/
def bucketClass (die k : Nat) : Nat :=
  if die ≤ 11 then (if k = 0 then 0x0302 else 0x0403)
  else if k = 0 then 0x0E04 else if k = 3 then 0x0B09 else 0x0808

/-- Counts a corrected error in a scrubber's bucket. -/
def Dev.scrubBucket (d : Dev) (die k : Nat) : Dev :=
  d.bucketAdd (Reg.ERR_BKT_STATUS_level die k) (Reg.ERR_BKT_STATUS_overflow die k) (Reg.ERR_BKT_CFG_threshold die k)
    die k (bucketClass die k)

/-- Counts a corrected error in the gleaner's bucket: GLEAN_BKT_CFG and GLEAN_BKT_STATUS, laid out as ERR_BKT_CFG and
ERR_BKT_STATUS. -/
def Dev.gleanBucket (d : Dev) (die : Nat) : Dev :=
  d.bucketAdd ⟨Reg.GLEAN_BKT_STATUS die, 0, 16⟩ ⟨Reg.GLEAN_BKT_STATUS die, 16, 1⟩ ⟨Reg.GLEAN_BKT_CFG die, 16, 16⟩
    die 0 0x0D06

/-! ### Key derivation (R427) -/

/-- The bytes of an ASCII string. -/
def ascii (s : String) : List Byte := s.toList.map (fun c => BitVec.ofNat 8 c.toNat)

/-- The 4 bytes of a number, big-endian. -/
def be32 (n : Nat) : List Byte := (toBytes n 4).reverse

/-- The NIST SP 800-108 counter-mode KDF with HMAC-SHA-384, a 32-bit counter and the fixed input label ‖ 0x00 ‖ context ‖ L (R427).
Counter and L stand big-endian as in that standard (PRESUMED, log entry 4). -/
def kdf (key : List Byte) (label : String) (context : List Byte) (l : Nat) : List Byte :=
  ((List.range ((l + 383) / 384)).flatMap (fun i =>
    Config.hmac384 key (be32 (i + 1) ++ ascii label ++ [0] ++ context ++ be32 l))).take (l / 8)

/-- The link direction key of Table 13.3. -/
def directionKey (linkKey : List Byte) (linkId : Nat) : List Byte := kdf linkKey "ML-LINK" (toBytes linkId 4) 256

/-! ### Check marks of memory (Table 11.1) -/

/-- The errors of the check unit at an address. -/
def Dev.mark (d : Dev) (a : Nat) : Mark := d.marks.get a {}

/-- Sets the errors of a check unit. -/
def Dev.setMark (d : Dev) (a : Nat) (m : Mark) : Dev := { d with marks := d.marks.put a m {} }

/-- Flips bits of a list. -/
def toggleAll (l : List Nat) : List Nat → List Nat
  | [] => l
  | x :: r => toggleAll (if x ∈ l then l.filter (fun y => y != x) else l ++ [x]) r

/-- Whether a mark is an uncorrectable error. -/
def Mark.bad (m : Mark) : Bool := m.poison || decide (2 ≤ m.flips.length)

/-- Whether a mark is a single-bit error. -/
def Mark.single (m : Mark) : Bool := !m.poison && m.flips.length == 1

/-- Bytes as stored: the bytes written with the flipped bits of a mark. -/
def asStored (l : List Byte) (m : Mark) : List Byte :=
  m.flips.foldl (fun l i => l.modify (i / 8) (fun b => b ^^^ BitVec.ofNat 8 (2 ^ (i % 8)))) l

/-- Turns a clock node of a die on, with its parent (R463): a unit that needs its clock does so. -/
def Dev.clockOn (d : Dev) (sel node : Nat) : Dev :=
  let d := d.setBit ⟨Reg.CLK_GATE_EN sel, 0, 16⟩ node true
  if 16 ≤ sel ∧ sel ≤ 19 ∧ (node = 2 ∨ node = 3) then d.setBit ⟨Reg.CLK_GATE_EN sel, 0, 16⟩ 1 true
  else if sel = 32 ∧ (node = 3 ∨ node = 4) then d.setBit ⟨Reg.CLK_GATE_EN sel, 0, 16⟩ 2 true
  else d

/-- The register selector of a stack. -/
def stackSel (m : Nat) : Nat := baseSel (m / 2)

/-- A die's last sample set (R456). -/
def Dev.sample (d : Dev) (i : Nat) : Sample := d.pwr.samples.get i {}

/-- THERM_ALERT_N from the last samples and the stacks (R457). -/
def Dev.alertCheck (d : Dev) : Dev :=
  let a : Int := 10 * (d.get Reg.TEL_ALERT_CTL_alert_c : Int)
  let live := (List.range 16).filter (fun i => !d.heldDie (dieSel i))
  let hot := (List.range 8).any (fun m => d.on (Reg.HBM_STK_STATUS_hot (stackSel m) (m % 2)))
  if d.on Reg.TEL_ALERT_STATUS_alert then
    if live.all (fun i => decide ((d.sample i).tmax ≤ a - 50)) && !hot then d.set Reg.TEL_ALERT_STATUS_alert 0 else d
  else if live.any (fun i => decide (a ≤ (d.sample i).tmax)) || hot then
    (d.set Reg.TEL_ALERT_STATUS_alert 1).err 32 0 0 0x1001
  else d

end Sys2Proof.Machine
end

