-- ==== Sys2Proof/Machine/Fabric.lean ====
section
/-! DEFINITION. The fabric of chapter 2 of spec/: configuration bits of a stook (R82 to R86, R515 to R518), product terms,
macrocells, routing, isolation cells, wire registers and bridges, as functions of the stored state. -/

namespace Sys2Proof.Machine

/-! ### Configuration bits (R82, R329) -/

/-- A frame address (Table 10.5). -/
def frameAddr (die idx col minor ty : Nat) : Nat := die * 0x100000 + idx * 0x8000 + col * 0x400 + minor * 16 + ty

/-- Where a frame starts in the configuration frame window (R35). -/
def frameBase (fa : Nat) : Nat := 0x5000000000 + fa * 0x1000

/-- The logic frame of a field's stook column and minor. -/
def logicFrame (f col minor : Nat) : Nat := frameAddr (dieOf f) (idxOf f) col minor 0

/-- The number of a stook: field, stook column, stook row. -/
def stook (f col row : Nat) : Nat := (f * 32 + col) * 32 + row

/-- A stook's field, column and row. -/
def stookField (k : Nat) : Nat := k / 1024
def stookCol (k : Nat) : Nat := k / 32 % 32
def stookRow (k : Nat) : Nat := k % 32

/-- Byte `b` of a stook's minor, as stored: the byte written with the bits that upsets have flipped. -/
def Dev.cfgByte (d : Dev) (k minor b : Nat) : Nat :=
  let base := frameBase (logicFrame (stookField k) (stookCol k) minor)
  let o := 128 * stookRow k + b
  (d.mark base).flips.foldl (fun x q => if q / 8 = o then x ^^^ 2 ^ (q % 8) else x) (d.mem.read (base + o)).toNat

/-- `n` bytes of a span of minors from byte `b` of the span, least significant first (R84). -/
def Dev.spanBytes (d : Dev) (k minor b : Nat) : Nat → Nat
  | 0 => 0
  | n + 1 => d.cfgByte k (minor + b / 128) (b % 128) + 256 * d.spanBytes k minor (b + 1) n

/-- A field of a number: `w` bits from bit `lsb`. -/
def fieldOf (v lsb w : Nat) : Nat := v / 2 ^ lsb % 2 ^ w

/-- One bit of a number, as a level. -/
def bitOf (v i : Nat) : Bool := v / 2 ^ i % 2 == 1

/-- The macrocell word of MCn in Ss (R84). -/
def Dev.mcWord (d : Dev) (k s n : Nat) : Nat := d.spanBytes k 40 (5 * (16 * s + n)) 5

/-- The selection of input Im of Ss (R83, R516). -/
def Dev.inSel (d : Dev) (k s m : Nat) : Nat := d.spanBytes k 45 (4 * (40 * s + m)) 4

/-- The driver word of a segment that starts at the stook: class 0 L1, 1 L4, 2 L16, 3 L64 (R517). -/
def Dev.driverWord (d : Dev) (k cls dir i : Nat) : Nat :=
  match cls with
  | 0 => d.spanBytes k 55 (2 * (16 * dir + i)) 2
  | 1 => d.spanBytes k 55 (2 * (64 + 8 * dir + i)) 2
  | 2 => d.spanBytes k 59 (2 * (2 * dir + i)) 2
  | _ => d.spanBytes k 59 (2 * (8 + dir)) 2

/-- The slot of a segment end's wire register at a stook (R518). -/
def wireSlot (cls dir i : Nat) : Nat :=
  if cls = 1 then 8 * dir + i else if cls = 2 then 32 + 2 * dir + i else 40 + dir

/-- Whether the wire register of a slot is enabled at a stook (R518). -/
def Dev.wireOn (d : Dev) (k slot : Nat) : Bool := bitOf (d.cfgByte k 62 (slot / 8)) (slot % 8)

/-- Selector Kq of a stook: design clock number and enable (R85). -/
def Dev.clkSel (d : Dev) (k q : Nat) : Nat × Bool :=
  let v := d.spanBytes k 63 0 4
  (fieldOf v (7 * q) 6, bitOf v (7 * q + 6))

/-- Where configuration bytes of a field may be non-zero in minors `lo` to `hi`: stook and byte of the span from `lo`. -/
def Dev.usedBytes (d : Dev) (f lo hi : Nat) : List (Nat × Nat) :=
  let place (a : Nat) : Option (Nat × Nat) :=
    if a < 0x5000000000 ∨ 0x6000000000 ≤ a then none
    else
      let fa := (a - 0x5000000000) / 0x1000
      let minor := fa / 16 % 64
      let o := a % 0x1000
      if fa % 16 = 0 ∧ fa / 0x100000 = dieOf f ∧ fa / 0x8000 % 32 = idxOf f ∧ lo ≤ minor ∧ minor ≤ hi then
        some (stook f (fa / 0x400 % 32) (o / 128), (minor - lo) * 128 + o % 128)
      else none
  d.mem.filterMap (fun c => place c.1) ++
    d.marks.flatMap (fun m => m.2.flips.filterMap (fun q => place (m.1 + q / 8)))

/-- The macrocells of a field whose word is not 0: stook, sheaf, macrocell. -/
def Dev.usedMcs (d : Dev) (f : Nat) : List (Nat × Nat × Nat) :=
  ((d.usedBytes f 40 44).map (fun x => (x.1, x.2 / 5 / 16, x.2 / 5 % 16))).eraseDups

/-- The sheaf inputs of a field whose selection is not 0: stook, sheaf, input. -/
def Dev.usedInputs (d : Dev) (f : Nat) : List (Nat × Nat × Nat) :=
  ((d.usedBytes f 45 54).map (fun x => (x.1, x.2 / 4 / 40, x.2 / 4 % 40))).eraseDups

/-! ### Product terms and sums (R42 to R52) -/

/-- The key of a sheaf input's level. -/
def inKey (k s m : Nat) : Nat := k * 1024 + 64 * s + m

/-- The level of sheaf input Im of Ss. -/
def Dev.level (d : Dev) (k s m : Nat) : Bool := d.fab.levels.get (inKey k s m) false

/-- Array bit: whether input Im of Ss connects its true (c = 0) or complement column to product term p (Table 2.8). -/
def Dev.arrayBit (d : Dev) (k s m c p : Nat) : Bool :=
  bitOf (d.cfgByte k m (16 * s + 8 * c + p / 8)) (p % 8)

/-- Product term p of Ss: the AND of its connected columns, 0 with none (R43). -/
def Dev.pterm (d : Dev) (k s p : Nat) : Bool :=
  let r := (List.range 40).foldl (fun (acc : Bool × Bool) m =>
    let t := d.arrayBit k s m 0 p
    let c := d.arrayBit k s m 1 p
    let v := d.level k s m
    (acc.1 || t || c, acc.2 && (!t || v) && (!c || !v))) (false, true)
  r.1 && r.2

/-- Fields of a macrocell word (Table 2.9). -/
def mcXorSrc (w : Nat) : Nat := fieldOf w 10 2
def mcMode (w : Nat) : Nat := fieldOf w 12 2
def mcCommitSrc (w : Nat) : Bool := bitOf w 14
def mcClkSel (w : Nat) : Nat := fieldOf w 15 2
def mcEdge (w : Nat) : Nat := fieldOf w 17 2
def mcSetEn (w : Nat) : Bool := bitOf w 19
def mcResetEn (w : Nat) : Bool := bitOf w 20
def mcSrAsync (w : Nat) : Bool := bitOf w 21
def mcCeEn (w : Nat) : Bool := bitOf w 22
def mcCapSrc (w : Nat) : Nat := fieldOf w 23 6
def mcInit (w : Nat) : Bool := bitOf w 29
def mcFbSel (w : Nat) : Bool := bitOf w 30
def mcOutSel (w : Nat) : Bool := bitOf w 31
def mcOutEn (w : Nat) : Bool := bitOf w 32

/-- Whether P3 is the local capture source (Table 2.2, R51). -/
def mcP3Capture (w : Nat) : Bool := mcCommitSrc w && mcCapSrc w == 40 && mcMode w != 0

/-- Whether a term of the own group is taken for a control use (Table 2.2, R50). -/
def mcTakes (w t : Nat) : Bool :=
  match t with
  | 0 => decide (2 ≤ mcXorSrc w)
  | 1 => mcSetEn w && mcMode w != 0
  | 2 => mcResetEn w && mcMode w != 0
  | _ => (mcCeEn w && mcMode w != 0) || mcP3Capture w

/-- A group's sum, less the terms its owner takes (R45, R50). -/
def Dev.groupSum (d : Dev) (k s g : Nat) : Bool :=
  let w := d.mcWord k s g
  (List.range 4).any (fun t => !mcTakes w t && d.pterm k s (4 * g + t))

/-- The group a slot selector names for MCn (Table 2.1, R47). -/
def slotGroup (n code : Nat) : Option Nat :=
  match code with
  | 1 => if 2 ≤ n then some (n - 2) else none
  | 2 => if 1 ≤ n then some (n - 1) else none
  | 3 => if n + 1 ≤ 15 then some (n + 1) else none
  | 4 => if n + 2 ≤ 15 then some (n + 2) else none
  | _ => none

/-- The groups in the slots of MCn (R46). -/
def slotGroups (w n : Nat) : List Nat :=
  (if bitOf w 0 then [n] else []) ++
    [fieldOf w 1 3, fieldOf w 4 3, fieldOf w 7 3].filterMap (slotGroup n)

/-- A macrocell's combinational output (R49, R52). -/
def Dev.comb (d : Dev) (k s n : Nat) : Bool :=
  let w := d.mcWord k s n
  let sum := (slotGroups w n).any (fun g => d.groupSum k s g)
  let x :=
    match mcXorSrc w with
    | 0 => false
    | 1 => true
    | 2 => d.pterm k s (4 * n)
    | _ => !d.pterm k s (4 * n)
  sum ^^ x

/-! ### Storage (R53 to R64) -/

/-- Whether a field takes part in completion (R104). -/
def Dev.part (d : Dev) (f : Nat) : Bool := (d.fld f).part

/-- The key of a storage element. -/
def qKey (k s n : Nat) : Nat := k * 128 + 16 * s + n

/-- The level of design clock c in the current cycle (Table 3.1). -/
def Dev.clkLevel (d : Dev) (c : Nat) : Bool :=
  if c < 32 then d.bit Reg.PACE_CLK_LEVEL0_level c else d.bit Reg.PACE_CLK_LEVEL1_level (c - 32)

/-- Whether design clock c has an edge in the current cycle. -/
def Dev.clkEdge (d : Dev) (c : Nat) : Bool :=
  if c < 32 then d.bit Reg.PACE_CLK_EDGE0_edge c else d.bit Reg.PACE_CLK_EDGE1_edge (c - 32)

/-- Whether a design clock has an edge of a kind in the current cycle: 0 rising, 1 falling, 2 both (Table 2.4). After a
rising edge the clock is high. -/
def Dev.edgeOf (d : Dev) (c kind : Nat) : Bool :=
  d.clkEdge c &&
    (match kind with
     | 0 => d.clkLevel c
     | 1 => !d.clkLevel c
     | 2 => true
     | _ => false)

/-- The level of a macrocell's capture source (R58). -/
def Dev.capLevel (d : Dev) (k s n w : Nat) : Bool :=
  if mcCapSrc w ≤ 39 then d.level k s (mcCapSrc w) else d.pterm k s (4 * n + 3)

/-- Whether a LATCH is transparent (R54, R55, Table 2.4). -/
def Dev.transparent (d : Dev) (k s n w : Nat) : Bool :=
  if mcCommitSrc w then
    decide (mcCapSrc w ≤ 40) &&
      (match mcEdge w with
       | 0 => d.capLevel k s n w
       | 1 => !d.capLevel k s n w
       | _ => false)
  else
    (d.clkSel k (mcClkSel w)).2 &&
      (match mcEdge w with
       | 0 => d.clkLevel (d.clkSel k (mcClkSel w)).1
       | 1 => !d.clkLevel (d.clkSel k (mcClkSel w)).1
       | _ => false)

/-- The level to which an enabled reset or set term forces Q now, reset first (Table 2.5). -/
def Dev.srForce (d : Dev) (k s n w : Nat) : Option Bool :=
  if mcResetEn w && d.pterm k s (4 * n + 2) then some false
  else if mcSetEn w && d.pterm k s (4 * n + 1) then some true
  else none

/-- Whether a storage element is forced (R122). -/
def Dev.forced (d : Dev) (k s n : Nat) : Bool := d.fab.force.get (qKey k s n) false

/-- The level to which a macrocell's set or reset acts on Q without a commit event: an asynchronous one, or that of a
LATCH (R60, R62). -/
def Dev.srActs (d : Dev) (k s n w : Nat) : Option Bool :=
  if mcSrAsync w || mcMode w == 3 then d.srForce k s n w else none

/-- Whether a LATCH passes comb now: a captured-wire LATCH while it is transparent, a design-clock LATCH while it is
transparent and a design cycle runs its waves. Between cycles it shows the value committed (R54, R111, R120). -/
def Dev.latchOpen (d : Dev) (k s n w : Nat) : Bool :=
  mcMode w == 3 && (mcCommitSrc w || d.pac.phase == .waves) && d.transparent k s n w

/-- The value that a storage element holds by itself: the level that a set or reset forced it to in this cycle, where it is an
opaque LATCH (R62), else the value stored. -/
def Dev.held (d : Dev) (k s n : Nat) : Bool :=
  match d.fab.srq.get (qKey k s n) 0 with
  | 1 => false
  | 2 => true
  | _ => d.fab.q.get (qKey k s n) false

/-- Q of a storage element that takes its inputs: the level of an active set or reset that needs no commit event, comb in a
LATCH that is open, else the value held. -/
def Dev.qLive (d : Dev) (k s n : Nat) : Bool :=
  let w := d.mcWord k s n
  match d.srActs k s n w with
  | some v => v
  | none => if d.latchOpen k s n w then d.comb k s n else d.held k s n

/-- Q of a macrocell: comb in BYPASS; the forced value of a forced one (R122); the value held in a field that takes no part
(R104) and after the release of a force until the next commit event (R69; log entry 118); else what its inputs give. -/
def Dev.q (d : Dev) (k s n : Nat) : Bool :=
  if mcMode (d.mcWord k s n) = 0 then d.comb k s n
  else if d.forced k s n then d.fab.forceVal.get (qKey k s n) false
  else if !d.part (stookField k) || d.fab.kept.get (qKey k s n) false then d.held k s n
  else d.qLive k s n

/-- Stores Q of a macrocell. -/
def Dev.setQ (d : Dev) (k s n : Nat) (v : Bool) : Dev :=
  { d with fab := { d.fab with q := d.fab.q.put (qKey k s n) v false, srq := d.fab.srq.erase (qKey k s n) } }

/-- A commit event ends what a released force has kept (R69). -/
def Dev.endKept (d : Dev) (k s n : Nat) : Dev :=
  { d with fab := { d.fab with kept := d.fab.kept.erase (qKey k s n) } }

/-- The value a storage element takes at a commit event (Table 2.5, R53, R60). -/
def Dev.qAtCommit (d : Dev) (k s n : Nat) (sample : Bool) : Bool :=
  let w := d.mcWord k s n
  let cur := d.q k s n
  match d.srForce k s n w with
  | some v => v
  | none =>
    if mcCeEn w && !mcP3Capture w && !d.pterm k s (4 * n + 3) then cur
    else if mcMode w = 2 then cur ^^ sample
    else sample

/-- The routing output of a macrocell; none while out_en is 0 (R64). -/
def Dev.routeOut (d : Dev) (k s n : Nat) : Option Bool :=
  let w := d.mcWord k s n
  if mcOutEn w then some (if mcOutSel w then d.comb k s n else d.q k s n) else none

/-- The feedback output of a macrocell (R64). -/
def Dev.feedback (d : Dev) (k s n : Nat) : Bool :=
  if mcFbSel (d.mcWord k s n) then d.comb k s n else d.q k s n

/-! ### Places on a compute die (R74, R77, R78, R97) -/

/-- The position of a stook on its die: column 0 to 255, row 0 to 127. -/
def stookX (k : Nat) : Nat := 32 * (stookField k % 48 % 8) + stookCol k
def stookY (k : Nat) : Nat := 32 * (stookField k / 48 % 4) + stookRow k

/-- The stook at a position of a die. -/
def stookAt (die x y : Nat) : Nat := stook (fieldAt die (8 * (y / 32) + x / 32)) (x % 32) (y % 32)

/-- The position `a` stooks back along direction `dir` from (x, y): none past the die's edge. -/
def stepBack (x y dir a : Nat) : Option (Nat × Nat) :=
  match dir with
  | 0 => if y + a < 128 then some (x, y + a) else none
  | 1 => if a ≤ x then some (x - a, y) else none
  | 2 => if a ≤ y then some (x, y - a) else none
  | _ => if x + a < 256 then some (x + a, y) else none

/-- The field beyond a field's side on the same die: 0 north, 1 east, 2 south, 3 west. -/
def sideField (f dir : Nat) : Option Nat :=
  match dir with
  | 0 => if f / 48 % 4 = 0 then none else some (f - 48)
  | 1 => if f % 8 = 7 then none else some (f + 1)
  | 2 => if f / 48 % 4 = 3 then none else some (f + 48)
  | _ => if f % 8 = 0 then none else some (f - 1)

/-- The field that faces a field across a die edge (R78, R97). -/
def faceField (f dir : Nat) : Option Nat :=
  match dir with
  | 0 => if f / 48 = 4 then some (f - 48) else none
  | 1 => if f % 8 = 7 ∧ f % 48 ≠ 47 then some (f + 1) else none
  | 2 => if f / 48 = 3 then some (f + 48) else none
  | _ => if f % 8 = 0 ∧ f % 48 ≠ 0 then some (f - 1) else none

/-- The neighbor of a compute die in a bridge direction (R87). -/
def dieNeighbor (c dir : Nat) : Option Nat :=
  match dir with
  | 0 => if 6 ≤ c then some (c - 6) else none
  | 1 => if c % 6 ≠ 5 then some (c + 1) else none
  | 2 => if c ≤ 5 then some (c + 6) else none
  | _ => if c % 6 ≠ 0 then some (c - 1) else none

/-- A field's wave neighbors (R97). -/
def waveNeighbors (f : Nat) : List Nat :=
  (List.range 4).flatMap (fun dir =>
    match sideField f dir with
    | some g => [g] ++ (sideField g dir).toList
    | none => (faceField f dir).toList)

end Sys2Proof.Machine
end

