-- ==== Sys2Proof/Machine/Bins.lean ====
section
/-! DEFINITION. Hard-block pins, and the bins of chapter 5 of spec/: ports, check units, cascades and the network's access
(R152 to R165). A bin's data stand in memory at its address (R33); its upsets are marks of its 64-bit rows, whose bits 0 to
63 are the row's data and 64 to 71 its check bits (under byte parity bit 64 + j is the parity bit of byte j). -/

namespace Sys2Proof.Machine

/-! ### Pins of hard blocks -/

/-- The number of a bin port signal. -/
def BinSig.num : BinSig → Nat
  | .addr => 0 | .wdata => 1 | .we => 2 | .re => 3 | .be => 4

/-- The number of a MAC tile input. -/
def MacSig.num : MacSig → Nat
  | .a => 0 | .b => 1 | .accOp => 2 | .bxClr => 3 | .run => 4 | .ldEn => 5 | .ldSel => 6 | .ldAddr => 7 | .ldData => 8

/-- The number of a latent-memory port signal. -/
def DockSig.num : DockSig → Nat
  | .raddr => 0 | .ren => 1 | .waddr => 2 | .wen => 3 | .wdata => 4 | .be => 5

/-- The number of a channel port signal. -/
def ChanSig.num : ChanSig → Nat
  | .data => 0 | .nbytes => 1 | .eom => 2 | .valid => 3 | .ren => 4

/-- The width of a pin, in bits. -/
def Pin.width : Pin → Nat
  | .bin _ _ .addr => 23
  | .bin _ _ .wdata => 64
  | .bin _ _ .be => 8
  | .bin _ _ _ => 1
  | .mac _ .a => 16
  | .mac _ .b => 16
  | .mac _ .accOp => 2
  | .mac _ .ldAddr => 9
  | .mac _ .ldData => 16
  | .mac _ _ => 1
  | .dock _ _ .raddr => 48
  | .dock _ _ .waddr => 48
  | .dock _ _ .wdata => 512
  | .dock _ _ .be => 64
  | .dock _ _ _ => 1
  | .chan _ .data => 256
  | .chan _ .nbytes => 3
  | .chan _ _ => 1
  | .sio _ => 1

/-- The key of a pin of a field. -/
def pinKey (f : Nat) (p : Pin) : Nat :=
  f * 2048 +
    (match p with
     | .bin k b s => k.val * 10 + (if b then 5 else 0) + s.num
     | .mac t s => 480 + t.val * 9 + s.num
     | .dock j p s => 1344 + (j.val * 8 + p.val) * 6 + s.num
     | .chan p s => 1440 + p.val * 5 + s.num
     | .sio n => 1520 + n.val)

/-- The level of a pin. -/
def Dev.pinAt (d : Dev) (f code : Nat) : Nat := d.fab.pins.get (f * 2048 + code) 0
def Dev.binPin (d : Dev) (f k : Nat) (b : Bool) (s : BinSig) : Nat := d.pinAt f (k * 10 + (if b then 5 else 0) + s.num)
def Dev.macPin (d : Dev) (f t : Nat) (s : MacSig) : Nat := d.pinAt f (480 + t * 9 + s.num)
def Dev.dockPin (d : Dev) (f j p : Nat) (s : DockSig) : Nat := d.pinAt f (1344 + (j * 8 + p) * 6 + s.num)
def Dev.chanPin (d : Dev) (f p : Nat) (s : ChanSig) : Nat := d.pinAt f (1440 + p * 5 + s.num)

/-! ### Control words (Table 5.4) -/

/-- Where a bin's data start (R33). -/
def binBase (f k : Nat) : Nat := 0x4100000000 + dieOf f * 0x2000000 + idxOf f * 0xC0000 + k * 0x4000

/-- A bin's control word. -/
def Dev.binWord (d : Dev) (f k : Nat) : Nat := (d.binCtl.get (f * 48 + k) 0).toNat

/-- Port fields of a control word. -/
def binWidthCode (w : Nat) (b : Bool) : Nat := if b then fieldOf w 3 3 else fieldOf w 0 3
def binClk (w : Nat) (b : Bool) : Nat := if b then fieldOf w 12 6 else fieldOf w 6 6
def binEdge (w : Nat) (b : Bool) : Nat := if b then fieldOf w 19 1 else fieldOf w 18 1
def binFlow (w : Nat) (b : Bool) : Bool := if b then bitOf w 21 else bitOf w 20
def binOff (w : Nat) (b : Bool) : Bool := binWidthCode w b == 7

/-- A port's width in bits, and its address bits (Table 5.1). -/
def binWidth (w : Nat) (b : Bool) : Nat := 2 ^ binWidthCode w b
def binAddrBits (w : Nat) (b : Bool) : Nat := 17 - binWidthCode w b

/-- Whether a bin uses SEC-DED (R158). -/
def binSecded (w : Nat) : Bool :=
  bitOf w 22 && (binOff w false || binWidthCode w false == 6) && (binOff w true || binWidthCode w true == 6)

/-! ### Rows and check units (R157 to R160) -/

/-- The address of a 64-bit row. -/
def rowAddr (f k row : Nat) : Nat := binBase f k + 8 * row

/-- Whether byte j of a row fails its parity: an odd number of its nine bits are flipped. -/
def byteParityBad (m : Mark) (j : Nat) : Bool :=
  (m.flips.filter (fun q => decide (8 * j ≤ q ∧ q < 8 * j + 8) || q == 64 + j)).length % 2 == 1

/-- What a read of the masked bytes of a row finds: data, corrected, uncorrectable (Table 5.3). -/
def Dev.rowRead (d : Dev) (f k row mask : Nat) : Nat × Bool × Bool :=
  let a := rowAddr f k row
  let m := d.mark a
  let data := d.mem.readBytes a 8
  if binSecded (d.binWord f k) then
    (if m.bad then (ofBytes (asStored data m), false, true) else (ofBytes data, m.single, false))
  else
    (ofBytes (asStored data m), false, (List.range 8).any (fun j => bitOf mask j && byteParityBad m j))

/-- The row after a write of the masked bits (R160), with its mark. -/
def Dev.rowWrite (d : Dev) (f k row mask data : Nat) : Dev :=
  let a := rowAddr f k row
  let m := d.mark a
  let stored := asStored (d.mem.readBytes a 8) m
  let merge (old : List Byte) : List Byte :=
    (List.range 8).map (fun j =>
      let o := (old.getD j 0).toNat
      let mk := mask / 256 ^ j % 256
      BitVec.ofNat 8 ((o &&& (255 - mk)) ||| (data / 256 ^ j % 256 &&& mk)))
  if binSecded (d.binWord f k) then
    if mask % 2 ^ 64 = 2 ^ 64 - 1 then { d with mem := d.mem.writeBytes a (merge stored) }.setMark a {}
    else if m.bad then { d with mem := d.mem.writeBytes a (merge stored) }.setMark a { poison := true }
    else { d with mem := d.mem.writeBytes a (merge (d.mem.readBytes a 8)) }.setMark a {}
  else
    let flips := (List.range 8).flatMap (fun j =>
      let mk := mask / 256 ^ j % 256
      if mk = 0 then m.flips.filter (fun q => decide (8 * j ≤ q ∧ q < 8 * j + 8) || q == 64 + j)
      else if mk ≠ 255 ∧ byteParityBad m j then [64 + j] else [])
    let bytes := (List.range 8).map (fun j =>
      if mask / 256 ^ j % 256 = 0 then (d.mem.readBytes a 8).getD j 0 else (merge stored).getD j 0)
    { d with mem := d.mem.writeBytes a bytes }.setMark a { flips := flips }

/-- A change of check kind recomputes every row's check bits from the stored data (R158). -/
def Dev.binRecheck (d : Dev) (f k : Nat) : Dev :=
  let lo := binBase f k
  let hit := d.marks.filter (fun m => decide (lo ≤ m.1 ∧ m.1 < lo + 0x4000))
  each hit (fun m d =>
    { d with mem := d.mem.writeBytes m.1 (asStored (d.mem.readBytes m.1 8) m.2) }.setMark m.1 {}) d

/-- Sets a bin's control word (R158, R164). -/
def Dev.setBinWord (d : Dev) (f k : Nat) (w : Word) : Dev :=
  let d' := { d with binCtl := d.binCtl.put (f * 48 + k) w 0 }
  if binSecded (d.binWord f k) = binSecded w.toNat then d' else d'.binRecheck f k

/-! ### Read errors (Table 5.3, R519) -/

/-- Who found a bin error: 0 port A, 1 port B, 2 the network, 3 the scrubber (R519). -/
def Dev.binUeRecord (d : Dev) (f k row severity finder : Nat) : Dev :=
  d.errAt (dieOf f) (idxOf f) severity 0x0301 (rowAddr f k row) (Config.syndrome (d.mark (rowAddr f k row)).flips)
    (k + 64 * finder)

/-- Counts what a read of a row found; `addr` is the word address at the port's width or the row index. -/
def Dev.binReadEffect (d : Dev) (f k row finder addr : Nat) (ce ue : Bool) : Dev :=
  let i := idxOf f
  let last (d : Dev) (kind : Nat) : Dev :=
    d.wrWord (Reg.BIN_FLD_LAST_ERR (dieOf f) i)
      (BitVec.ofNat 32 (k + (if finder = 1 then 64 else 0) + 128 * kind + 256 * (addr % 2 ^ 17) +
        (if finder = 2 then 2 ^ 25 else 0)))
  if ue then
    last ((d.bump (Reg.BIN_FLD_ERRCNT_ue (dieOf f) i)).binUeRecord f k row (if finder = 2 then 3 else 2) finder) 1
  else if ce then last ((d.bump (Reg.BIN_FLD_ERRCNT_ce (dieOf f) i)).scrubBucket (dieOf f) 0) 0
  else d

/-! ### Cascades (R161, R162) -/

/-- The bin south of a bin in its hard-block column. -/
def binSouth (f k : Nat) : Option (Nat × Nat) :=
  if k % 16 < 15 then some (f, k + 1)
  else
    match sideField f 2 with
    | some g => some (g, k - 15)
    | none => none

/-- The bins of the chain that a bin heads, itself first. -/
def Dev.binChain (d : Dev) : Nat → Nat → Nat → List (Nat × Nat)
  | 0, _, _ => []
  | n + 1, f, k =>
    (f, k) ::
      (match binSouth f k with
       | some (g, j) => if bitOf (d.binWord g j) 23 then d.binChain n g j else []
       | none => [])

/-- The least h with n ≤ 2^h, up to 6. -/
def ceilLog2 (n : Nat) : Nat := ((List.range 7).find? (fun h => decide (n ≤ 2 ^ h))).getD 6

/-- Where a head's port access falls: the chain's bin, and the word address in it; none where no bin answers. -/
def Dev.binTarget (d : Dev) (f k : Nat) (b : Bool) : Option (Nat × Nat) × Nat :=
  let w := d.binWord f k
  let chain := d.binChain 64 f k
  let a := d.binPin f k b .addr
  let bits := binAddrBits w b
  let q := fieldOf a bits (ceilLog2 chain.length)
  (chain[q]?, a % 2 ^ bits)

/-- The 64-bit mask of a port's access in its row. -/
def binMask (w : Nat) (b : Bool) (word be : Nat) : Nat :=
  let n := binWidth w b
  let sh := word * n % 64
  if n < 16 then (2 ^ n - 1) * 2 ^ sh
  else (List.range (n / 8)).foldl (fun m j => if bitOf be j then m + 255 * 2 ^ (sh + 8 * j) else m) 0

/-- The bytes of a row that a port's word touches. -/
def binByteMask (w : Nat) (b : Bool) (word : Nat) : Nat :=
  let n := binWidth w b
  let sh := word * n % 64
  (List.range 8).foldl (fun m j => if sh / 8 ≤ j ∧ j ≤ (sh + n - 1) / 8 then m + 2 ^ j else m) 0

/-- What a port's read answers: data, error output, and the effects of the read, found in `d` and applied to `e`. Only the field
of the bin that answers counts for R162: whether a field between it and the head takes part is not looked at (DESIGN CHOICE, log
entry 120). -/
def Dev.binPortRead (d : Dev) (f k : Nat) (b : Bool) (e : Dev) : Nat × Bool × Dev :=
  let w := d.binWord f k
  match d.binTarget f k b with
  | (none, _) => (0, false, e)
  | (some (g, j), word) =>
    if ¬ d.part g then (0, true, e)
    else
      let n := binWidth w b
      let row := word * n / 64
      let r := d.rowRead g j row (binByteMask w b word)
      (r.1 / 2 ^ (word * n % 64) % 2 ^ n, r.2.2,
        e.binReadEffect g j row (if b then 1 else 0) word r.2.1 r.2.2)

/-- A port's write of this commit, if it makes one: bin, row, mask, data (R154). -/
def Dev.binPortWrite (d : Dev) (f k : Nat) (b : Bool) : Option (Nat × Nat × Nat × Nat × Nat) :=
  let w := d.binWord f k
  if binOff w b ∨ d.binPin f k b .we % 2 = 0 ∨ ¬ d.edgeOf (binClk w b) (binEdge w b) then none
  else
    match d.binTarget f k b with
    | (none, _) => none
    | (some (g, j), word) =>
      if ¬ d.part g then none
      else
        let n := binWidth w b
        some (g, j, word * n / 64, binMask w b word (d.binPin f k b .be),
          d.binPin f k b .wdata % 2 ^ n * 2 ^ (word * n % 64))

/-- The key of a bin port's read data. -/
def binPortKey (f k : Nat) (b : Bool) : Nat := (f * 48 + k) * 2 + (if b then 1 else 0)

/-- What a bin port presents on its read data and error outputs: 0 while it is off, and on a bin that its chain's head serves
(R153, R161; log entry 119); what its address reads now in FLOW mode (R155, R159); else what it took. -/
def Dev.binShown (d : Dev) (f k : Nat) (b : Bool) : Nat × Bool :=
  let w := d.binWord f k
  if binOff w b || bitOf w 23 then (0, false)
  else if binFlow w b then ((d.binPortRead f k b d).1, (d.binPortRead f k b d).2.1)
  else ((d.binOut.get (binPortKey f k b) {}).data, (d.binOut.get (binPortKey f k b) {}).err)

/-- One port's reads at a commit: a REGISTERED read, or the counting of a FLOW read (R155, R159). -/
def Dev.binCommitRead (d : Dev) (f k : Nat) (b : Bool) (e : Dev) : Dev :=
  let w := d.binWord f k
  if binOff w b then e
  else if binFlow w b then (d.binPortRead f k b e).2.2
  else if d.binPin f k b .re % 2 = 1 ∧ d.edgeOf (binClk w b) (binEdge w b) then
    let r := d.binPortRead f k b e
    let o := e.binOut.get (binPortKey f k b) {}
    { r.2.2 with binOut := r.2.2.binOut.put (binPortKey f k b) { o with next := some (r.1, r.2.1) } {} }
  else e

/-- One bin's commit events; `d` is the state settled at the end of wave W, `e` the state that takes them (Table 5.2). Where
several reads of one commit find errors, the last in BIN_FLD_LAST_ERR is port A's of the highest bin (bins ascending, port B before
port A: DESIGN CHOICE, log entry 121). -/
def Dev.binCommit (d : Dev) (f k : Nat) (e : Dev) : Dev :=
  if bitOf (d.binWord f k) 23 then e
  else
    let e := d.binCommitRead f k false (d.binCommitRead f k true e)
    let a := d.binPortWrite f k false
    let b := d.binPortWrite f k true
    let put (o : Option (Nat × Nat × Nat × Nat × Nat)) (e : Dev) : Dev :=
      match o with
      | some (g, j, row, mask, data) => if mask = 0 then e else e.rowWrite g j row mask data
      | none => e
    let e := put a (put b e)
    match a, b with
    | some (g, j, row, mask, _), some (g', j', row', mask', _) =>
      if g = g' ∧ j = j' ∧ row = row' ∧ mask &&& mask' ≠ 0 then
        (if j < 32 then e.setBit (Reg.BIN_FLD_COLL_LO_coll (dieOf g) (idxOf g)) j true
         else e.setBit (Reg.BIN_FLD_COLL_HI_coll (dieOf g) (idxOf g)) (j - 32) true)
      else e
    | _, _ => e

/-- A field's launch presents what registered bin ports and latent-memory ports took (R116, R155). -/
def presentPorts (m : SMap PortOut) (lo hi : Nat) : SMap PortOut :=
  m.map (fun e =>
    if lo ≤ e.1 ∧ e.1 < hi then
      (e.1, match e.2.next with
            | some (v, er) => { data := v, err := er, next := none }
            | none => e.2)
    else e) |>.filter (fun e => e.2 != {})

/-- Read data and error outputs of a field's REGISTERED bin ports return to 0 (R181, R353). -/
def Dev.clearBinOut (d : Dev) (f : Nat) : Dev :=
  { d with binOut := d.binOut.clear (f * 96) ((f + 1) * 96) }

/-! ### The network's access (R159, R160, R163) -/

/-- Bytes of a bin read by the network: none is a bus error. -/
def Dev.binNetRead (d : Dev) (f k off n : Nat) : Option (List Byte) × Dev :=
  let rows := (List.range (n / 8 + 1)).map (fun i => off / 8 + i) |>.filter (fun r => decide (8 * r < off + n))
  let mask (row : Nat) : Nat :=
    (List.range 8).foldl (fun m j => if off ≤ 8 * row + j ∧ 8 * row + j < off + n then m + 2 ^ j else m) 0
  let res := rows.map (fun r => (r, d.rowRead f k r (mask r)))
  let e := res.foldl (fun e x => e.binReadEffect f k x.1 2 x.1 x.2.2.1 x.2.2.2) d
  if res.any (fun x => x.2.2.2) then (none, e)
  else
    let all := res.flatMap (fun x => toBytes x.2.1 8)
    (some ((all.drop (off % 8)).take n), e)

/-- Masked bytes written to a bin by the network. -/
def Dev.binNetWrite (d : Dev) (f k off : Nat) (l : List (Byte × Bool)) : Dev :=
  let rows := (List.range (l.length / 8 + 1)).map (fun i => off / 8 + i) |>.filter (fun r => decide (8 * r < off + l.length))
  each rows (fun r d =>
    let at_ (j : Nat) : Option (Byte × Bool) := if off ≤ 8 * r + j then l[8 * r + j - off]? else none
    let mask := (List.range 8).foldl (fun m j =>
      match at_ j with
      | some (_, true) => m + 255 * 256 ^ j
      | _ => m) 0
    let data := (List.range 8).foldl (fun m j =>
      match at_ j with
      | some (v, true) => m + v.toNat * 256 ^ j
      | _ => m) 0
    if mask = 0 then d else d.rowWrite f k r mask data) d

end Sys2Proof.Machine
end

