-- ==== Sys2Proof/Machine/Mac.lean ====
section
/-! DEFINITION. The MAC tiles of chapter 5 of spec/: datapath, block exponent, fabric mode, programs, address generators and
the network's access (R166 to R182, R359). -/

namespace Sys2Proof.Machine

/-! ### Places and memories (R34, R359) -/

/-- Where a tile's memories start (R34). -/
def tileBase (f t : Nat) : Nat := 0x4200000000 + dieOf f * 0x400000 + idxOf f * 0x1E000 + t * 0x500

/-- A tile's instance number in the MAC block of its die (R182). -/
def tileNum (f t : Nat) : Nat := 96 * idxOf f + t

/-- A tile's key. -/
def tileKey (f t : Nat) : Nat := f * 96 + t

/-- A tile's state. -/
def Dev.tile (d : Dev) (f t : Nat) : Tile := d.tiles.get (tileKey f t) {}

/-- Sets a tile's state. -/
def Dev.setTile (d : Dev) (f t : Nat) (v : Tile) : Dev := { d with tiles := d.tiles.put (tileKey f t) v {} }

/-- MAC_TILE_CFG.mode. -/
def Dev.tileMode (d : Dev) (f t : Nat) : Nat := d.get (Reg.MAC_TILE_CFG_mode (dieOf f) (tileNum f t))

/-- A record of class MAC_UE for the word at an address (R519). -/
def Dev.macUe (d : Dev) (f t severity a : Nat) : Dev :=
  d.errAt (dieOf f) (tileNum f t) severity 0x0402 a (Config.syndrome (d.mark a).flips)

/-- A tile's own read of a word of `n` bytes: corrected, or as stored with a record (R359). -/
def Dev.tileRead (d : Dev) (f t a n : Nat) : Nat × Dev :=
  let m := d.mark a
  let bytes := d.mem.readBytes a n
  if m.bad then (ofBytes (asStored bytes m), d.macUe f t 2 a)
  else if m.single then (ofBytes bytes, d.scrubBucket (dieOf f) 1)
  else (ofBytes bytes, d)

/-- A tile's write of a 16-bit word. -/
def Dev.tileWrite (d : Dev) (a v : Nat) : Dev :=
  { d with mem := d.mem.writeBytes a (toBytes v 2) }.setMark a {}

/-- The check unit of a tile memory offset: its first byte and its size (Table 11.1). -/
def tileUnit (off : Nat) : Nat × Nat := if off < 0x100 then (off / 4 * 4, 4) else (off / 2 * 2, 2)

/-- The check units that `n` bytes from a tile memory offset touch. -/
def tileUnits (off n : Nat) : List (Nat × Nat) :=
  ((List.range n).map (fun i => tileUnit (off + i))).eraseDups

/-- Bytes of a tile's memories read by the network: none is a bus error (R359). -/
def Dev.tileNetRead (d : Dev) (f t off n : Nat) : Option (List Byte) × Dev :=
  let us := tileUnits off n
  let bad := us.filter (fun u => (d.mark (tileBase f t + u.1)).bad)
  let d' := each us (fun u e =>
    let a := tileBase f t + u.1
    if (d.mark a).bad then e.macUe f t 3 a
    else if (d.mark a).single then e.scrubBucket (dieOf f) 1 else e) d
  if bad = [] then (some (d.mem.readBytes (tileBase f t + off) n), d') else (none, d')

/-- Masked bytes written to a tile's memories by the network: a write that covers part of a unit merges; it keeps an
uncorrectable unit so (R160, by R359's code). -/
def Dev.tileNetWrite (d : Dev) (f t off : Nat) (l : List (Byte × Bool)) : Dev :=
  let b := tileBase f t
  let covered (u : Nat × Nat) : List Bool :=
    (List.range u.2).map (fun i => if off ≤ u.1 + i then (l.getD (u.1 + i - off) (0, false)).2 else false)
  let us := (tileUnits off l.length).filter (fun u => (covered u).any id)
  let d := each us (fun u d =>
    let m := d.mark (b + u.1)
    if (covered u).all id then d.setMark (b + u.1) {}
    else if m.bad then
      { d with mem := d.mem.writeBytes (b + u.1) (asStored (d.mem.readBytes (b + u.1) u.2) m) }.setMark (b + u.1)
        { poison := true }
    else d.setMark (b + u.1) {}) d
  { d with mem := d.mem.writeMasked (b + off) l }

/-! ### Datapath (R166 to R169) -/

/-- A value read as two's complement of `w` bits. -/
def signedOf (v w : Nat) : Int := if v % 2 ^ w < 2 ^ (w - 1) then (v % 2 ^ w : Nat) else (v % 2 ^ w : Nat) - (2 ^ w : Nat)

/-- The product (R166). -/
def macProduct (a b : Nat) (aSigned bSigned : Bool) : Int :=
  (if aSigned then signedOf a 16 else (a % 2 ^ 16 : Nat)) * (if bSigned then signedOf b 16 else (b % 2 ^ 16 : Nat))

/-- The accumulator after an exact result: wrapped, with the sticky overflow flag (R167). -/
def accSet (t : Tile) (x : Int) : Tile :=
  { t with acc := BitVec.ofInt 40 x, ovf := t.ovf || decide (x < -(2 ^ 39) ∨ 2 ^ 39 ≤ x) }

/-- An operation on the accumulator: 1 load, 2 add, 3 subtract (R167, R171). -/
def accOp (t : Tile) (op : Nat) (p : Int) : Tile :=
  match op with
  | 1 => accSet t p
  | 2 => accSet t (t.acc.toInt + p)
  | 3 => accSet t (t.acc.toInt - p)
  | _ => t

/-- O from ACC, rounding position and saturation (R168). -/
def macO (acc : BitVec 40) (p : Nat) (sat : Bool) : BitVec 16 :=
  let p := if 24 < p then 24 else p
  let x := acc.toInt
  let q :=
    if p = 0 then x
    else
      let q := x.fdiv (2 ^ p)
      let r := x - q * 2 ^ p
      let half : Int := 2 ^ (p - 1)
      if half < r ∨ (r = half ∧ q.emod 2 = 1) then q + 1 else q
  if sat then BitVec.ofInt 16 (min (max q (-32768)) 32767) else BitVec.ofInt 16 q

/-- Redundant sign bits of a 16-bit value (R169). -/
def rsb (v : BitVec 16) : Nat :=
  ((List.range 15).takeWhile (fun i => v.getLsbD (14 - i) == v.getLsbD 15)).length

/-- The detector takes an O (R169). -/
def detect (t : Tile) (o : BitVec 16) : Tile := { t with det := min t.det (rsb o) }

/-! ### Fabric mode (R170, R171) -/

/-- A tile's configured clock has its configured edge in the current cycle. -/
def Dev.tileEdge (d : Dev) (f t : Nat) : Bool :=
  d.edgeOf (d.get (Reg.MAC_TILE_CFG_clk (dieOf f) (tileNum f t))) (d.get (Reg.MAC_TILE_CFG_edge (dieOf f) (tileNum f t)))

/-- A tile's commit in fabric mode. -/
def Dev.macFabricTile (d : Dev) (f t : Nat) : Tile :=
  let x := d.tile f t
  let x := if d.macPin f t .bxClr % 2 = 1 then { x with det := 15 } else x
  let op := d.macPin f t .accOp % 4
  let p := macProduct (d.macPin f t .a) (d.macPin f t .b) (d.on (Reg.MAC_TILE_CFG_a_signed (dieOf f) (tileNum f t)))
    (d.on (Reg.MAC_TILE_CFG_b_signed (dieOf f) (tileNum f t)))
  let x := accOp x op p
  let x :=
    if op = 0 then x
    else
      let o := macO x.acc (d.get (Reg.MAC_TILE_CFG_p (dieOf f) (tileNum f t)))
        (d.on (Reg.MAC_TILE_CFG_sat (dieOf f) (tileNum f t)))
      detect { x with o := o } o
  { x with pub := x.det }

/-- One tile's commit; `d` is the state settled at the end of wave W: a fabric-mode step, or the load port of a
sequenced-mode tile (R171, R172). -/
def Dev.macCommit (d : Dev) (f t : Nat) (e : Dev) : Dev :=
  if ¬ d.tileEdge f t then e
  else
    match d.tileMode f t with
    | 1 => e.setTile f t (d.macFabricTile f t)
    | 2 =>
      if d.macPin f t .ldEn % 2 = 1 then
        e.tileWrite (tileBase f t + (if d.macPin f t .ldSel % 2 = 1 then 0x300 else 0x100) +
          2 * (d.macPin f t .ldAddr % 256)) (d.macPin f t .ldData)
      else e
    | _ => e

/-- The chain value of a tile (R170, R178). -/
def Dev.chainValue (d : Dev) (f : Nat) : Nat → Nat
  | 0 => if d.tileMode f 0 = 1 ∨ d.tileMode f 0 = 2 then (d.tile f 0).pub else 15
  | t + 1 =>
    if d.tileMode f (t + 1) = 1 ∨ d.tileMode f (t + 1) = 2 then
      (if d.on (Reg.MAC_TILE_CFG_bx_casc (dieOf f) (tileNum f (t + 1))) then
         min (d.tile f (t + 1)).pub (d.chainValue f t)
       else (d.tile f (t + 1)).pub)
    else 15

/-- A field's launch presents ACC, O, OUT, chain value and ovf of its tiles in fabric and sequenced mode (R170 to R172). -/
def Dev.presentTiles (d : Dev) (f : Nat) : Dev :=
  each ((List.range 96).filter (fun t => d.tileMode f t == 1 || d.tileMode f t == 2)) (fun t e =>
    let x := d.tile f t
    e.setTile f t { x with shown := { acc := x.acc, o := x.o, out := x.out, bx := d.chainValue f t, ovf := x.ovf } }) d

/-- What a tile presents on its fabric outputs: 0 on every one in UNUSED and SERVICE mode (R178). -/
def Dev.tileShown (d : Dev) (f t : Nat) : TileOut :=
  if d.tileMode f t = 1 ∨ d.tileMode f t = 2 then (d.tile f t).shown else { bx := 0 }

/-- A tile's fault output (R176, R178). -/
def Dev.tileFaultShown (d : Dev) (f t : Nat) : Bool := d.tileMode f t == 2 && (d.tile f t).faultOut

/-! ### Programs (R172 to R177) -/

/-- Starts a tile's program (R172, R178): address 0, both offsets 0, no loop, no fault. The fault output ends there by R176;
that MAC_TILE_STATUS.fault_code returns to 0 with it is a DESIGN CHOICE (log entry 122). -/
def Dev.tileStart (d : Dev) (f t : Nat) : Dev :=
  d.setTile f t { d.tile f t with pc := 0, o0 := 0, o1 := 0, busy := true, faultCode := 0, faultOut := false, loopOn := false }

/-- Reverses the low `n` bits of a value and keeps the others (R177). -/
def revLow (o n : Nat) : Nat :=
  o / 2 ^ n * 2 ^ n + (List.range n).foldl (fun x i => if bitOf o i then x + 2 ^ (n - 1 - i) else x) 0

/-- A generator's address (R177). -/
def agAddr (d : Dev) (reg : Nat) (o size : Nat) : Nat :=
  let n := min (d.get ⟨reg, 27, 4⟩) 9
  (d.get ⟨reg, 0, 9⟩ + revLow o n) % size

/-- A generator's next offset (R177). -/
def agNext (d : Dev) (reg : Nat) (o : Nat) : Nat := (o + d.get ⟨reg, 9, 9⟩) % (d.get ⟨reg, 18, 9⟩ + 1)

/-- Whether a tile is leased (R178). -/
def Dev.leased (d : Dev) (f t : Nat) : Bool := d.tileMode f t == 3

/-- The instruction word a running tile executes next, with the effects of its fetch. -/
def Dev.tileFetch (d : Dev) (f t : Nat) : Nat × Dev := d.tileRead f t (tileBase f t + 4 * (d.tile f t).pc) 4

/-- Where execution goes on after an instruction that is no JMP (R175). -/
def tileNext (x : Tile) : Tile :=
  if x.loopOn ∧ x.pc = x.loopEnd then
    (if 1 < x.loopLeft then { x with loopLeft := x.loopLeft - 1, pc := x.loopStart }
     else { x with loopOn := false, loopLeft := 0, pc := (x.pc + 1) % 64 })
  else { x with pc := (x.pc + 1) % 64 }

/-- Steps 1 to 3 and 5 of R173 around an accumulator step, for the instruction word `w`. -/
def Dev.tileArith (d : Dev) (f t w : Nat) (acc : Tile → Int → Tile) : Dev :=
  let x := d.tile f t
  let sv := d.leased f t
  let size := if sv then 512 else 256
  let r0 := Reg.MAC_TILE_AG0 (dieOf f) (tileNum f t)
  let r1 := Reg.MAC_TILE_AG1 (dieOf f) (tileNum f t)
  let a0 := tileBase f t + 0x100 + 2 * agAddr d r0 x.o0 size
  let a1 := tileBase f t + (if sv then 0x100 else 0x300) + 2 * agAddr d r1 x.o1 size
  let rx := if bitOf w 27 then d.tileRead f t a0 2 else (x.xr.toNat, d)
  let d := rx.2
  let ry := if bitOf w 26 then d.tileRead f t a1 2 else (x.yr.toNat, d)
  let d := ry.2
  let o := macO x.acc (fieldOf w 16 5) (bitOf w 15)
  let d := if bitOf w 25 then d.tileWrite a0 o.toNat else d
  let d := if bitOf w 24 then d.tileWrite a1 o.toNat else d
  let x := { x with xr := BitVec.ofNat 16 rx.1, yr := BitVec.ofNat 16 ry.1 }
  let x := if bitOf w 21 then { x with out := o } else x
  let x := if bitOf w 25 || bitOf w 24 || bitOf w 21 then detect x o else x
  let a := if bitOf w 14 then x.yr else x.xr
  let b :=
    match fieldOf w 12 2 with
    | 0 => x.yr
    | 1 => x.k0
    | 2 => x.k1
    | _ => x.xr
  let x := acc x (macProduct a.toNat b.toNat (d.on (Reg.MAC_TILE_CFG_a_signed (dieOf f) (tileNum f t)))
    (d.on (Reg.MAC_TILE_CFG_b_signed (dieOf f) (tileNum f t))))
  let x := if bitOf w 23 then { x with o0 := agNext d r0 x.o0 } else x
  let x := if bitOf w 22 then { x with o1 := agNext d r1 x.o1 } else x
  d.setTile f t (tileNext x)

/-- A tile's fault: it halts at once; a record of class MAC_FAULT (R176, R519). -/
def Dev.tileFault (d : Dev) (f t code : Nat) : Dev :=
  let x := d.tile f t
  (d.setTile f t { x with busy := false, faultCode := code, faultOut := true, loopOn := false }).errAt (dieOf f)
    (tileNum f t) 2 0x0401 (tileBase f t + 4 * x.pc) 0 (code + 256 * x.pc)

/-- LOOP (R175). Where a loop is active and the new one's end is its own address, the code is NESTED (DESIGN CHOICE, log entry
123). -/
def Dev.tileLoop (d : Dev) (f t w : Nat) : Dev :=
  let x := d.tile f t
  let e := fieldOf w 10 6
  if x.loopOn then d.tileFault f t 2
  else if e = x.pc then d.tileFault f t 1
  else
    d.setTile f t { x with loopOn := true, loopStart := (x.pc + 1) % 64, loopEnd := e, loopLeft := fieldOf w 0 10 + 1,
                           pc := (x.pc + 1) % 64 }

/-- JMP (R175). -/
def Dev.tileJmp (d : Dev) (f t w : Nat) : Dev :=
  let x := d.tile f t
  let target := fieldOf w 0 6
  let inside := decide ((target + 64 - x.loopStart) % 64 ≤ (x.loopEnd + 64 - x.loopStart) % 64)
  d.setTile f t { x with pc := target, loopOn := x.loopOn && inside }

/-- HALT (R170, R174). -/
def Dev.tileHalt (d : Dev) (f t : Nat) : Dev :=
  let x := d.tile f t
  d.setTile f t { x with busy := false, loopOn := false, pub := x.det }

/-- Sequenced-mode tiles of a field that run a program. -/
def Dev.tilesBusy (d : Dev) (f : Nat) : Bool :=
  d.tiles.any (fun e => e.1 / 96 == f && e.2.busy && d.tileMode f (e.1 % 96) == 2)

/-- The end of wave W: programs of a field start (R172). -/
def Dev.programStart (d : Dev) (f : Nat) : Dev :=
  each (List.range 96) (fun t e =>
    if d.tileMode f t = 2 ∧ d.macPin f t .run % 2 = 1 ∧ d.tileEdge f t ∧ ¬ (d.tile f t).busy then e.tileStart f t
    else e) d

/-- Every running program of a participating field halts with code TIMEOUT (R176). -/
def Dev.tileTimeouts (d : Dev) : Dev :=
  { d with tiles := d.tiles.map (fun e =>
      if e.2.busy ∧ d.tileMode (e.1 / 96) (e.1 % 96) = 2 ∧ d.part (e.1 / 96) then
        (e.1, { e.2 with busy := false, faultCode := 3, faultOut := true, loopOn := false })
      else e) }

/-- A per-field reset of a field's tiles; leased tiles are not touched (R181). O of fabric mode and the published value, which
R181 does not name, stay (DESIGN CHOICE, log entry 124). -/
def Dev.resetTiles (d : Dev) (f : Nat) : Dev :=
  { d with tiles :=
      (d.tiles.map (fun e =>
        if e.1 / 96 = f ∧ ¬ d.leased f (e.1 % 96) then
          (e.1, { e.2 with acc := 0, ovf := false, k0 := 0, k1 := 0, xr := 0, yr := 0, out := 0, o0 := 0, o1 := 0, det := 15 })
        else e)).filter (fun e => e.2 != {}) }

end Sys2Proof.Machine
end

