-- ==== Sys2Proof/Machine/Route.lean ====
section
/-! DEFINITION. Routing of chapter 2 of spec/: segments, switch points and isolation cells (R70 to R77, R515 to R518), fabric
bridges (R78 to R81), the sources of sheaf inputs and how their levels settle, wire registers, and state-capture frames. -/

namespace Sys2Proof.Machine

/-! ### Segments (R70, R74, R515) -/

/-- The span of a segment class. -/
def segSpan (cls : Nat) : Nat := 4 ^ cls

/-- The segments of a class and direction that start at a stook. -/
def segCount (cls : Nat) : Nat :=
  match cls with
  | 0 => 16
  | 1 => 8
  | 2 => 2
  | _ => 1

/-- A segment by its start: die, position, class, direction, index. -/
structure Seg where
  die : Nat
  x : Nat
  y : Nat
  cls : Nat
  dir : Nat
  i : Nat
  deriving DecidableEq, Repr

/-- Whether a segment of a class and direction may start at a position: an L64 line starts at every fourth stook along it (R515,
R517). -/
def segStarts (x y cls dir : Nat) : Bool := cls != 3 || (if dir % 2 = 1 then x else y) % 4 == 0

/-- The segment that passes or ends at a stook with an age and index; none where no such track exists (R515). -/
def segAt (k cls dir age i : Nat) : Option Seg :=
  if age = 0 ∨ segSpan cls < age ∨ segCount cls ≤ i then none
  else
    match stepBack (stookX k) (stookY k) dir age with
    | none => none
    | some (x, y) =>
      if (cls = 3 ∧ age % 4 ≠ 0) ∨ !segStarts x y cls dir then none
      else some ⟨dieOf (stookField k), x, y, cls, dir, i⟩

/-- The stook that a segment reaches at an age. -/
def Seg.at (g : Seg) (a : Nat) : Nat :=
  match g.dir with
  | 0 => stookAt g.die g.x (g.y - a)
  | 1 => stookAt g.die (g.x + a) g.y
  | 2 => stookAt g.die g.x (g.y + a)
  | _ => stookAt g.die (g.x - a) g.y

/-- The age at which a segment ends: its span, or that of the last stook of the die (R74, R515). -/
def Seg.len (g : Seg) : Nat :=
  min (segSpan g.cls)
    (match g.dir with
     | 0 => g.y
     | 1 => 255 - g.x
     | 2 => 127 - g.y
     | _ => g.x)

/-- The ages of a segment up to its end on the die. -/
def Seg.ages (g : Seg) : List Nat := (List.range g.len).map (· + 1)

/-- The number of a segment among those that start at its stook, as of its driver word (R517). -/
def Seg.word (g : Seg) : Nat :=
  match g.cls with
  | 0 => 16 * g.dir + g.i
  | 1 => 64 + 8 * g.dir + g.i
  | 2 => 96 + 2 * g.dir + g.i
  | _ => 104 + g.dir

/-- The key of a segment. -/
def Seg.key (g : Seg) : Nat := g.at 0 * 128 + g.word

/-- The segments of a class, direction and index that end at a stook, with their ages: one, but for a die edge, where those cut
short end as well (R74, R515). -/
def endsAt (k cls dir i : Nat) : List (Nat × Seg) :=
  (List.range (segSpan cls)).filterMap (fun a =>
    match segAt k cls dir (a + 1) i with
    | some g => if g.len = a + 1 then some (a + 1, g) else none
    | none => none)

/-- The key of the wire register at the end of a segment of an age at a stook's slot. -/
def wireKey (k slot age : Nat) : Nat := (k * 64 + slot) * 128 + age

/-! ### Isolation cells (R77, R349) -/

/-- The port of the near field whose border a segment crosses between ages a - 1 and a (R349). -/
def Seg.port (g : Seg) (a : Nat) : Nat :=
  let near := g.at (a - 1)
  let k := if g.dir % 2 = 0 then stookCol near else stookRow near
  let track :=
    match g.cls with
    | 0 => g.i
    | 1 => 16 + 8 * (a - 1) + g.i
    | 2 => 48 + 2 * (a - 1) + g.i
    | _ => 80 + (a - 1) / 4
  3072 * g.dir + 96 * k + track

/-- The key of an isolation cell. -/
def isoKey (f port : Nat) : Nat := f * 12288 + port

/-- Whether a segment crosses a field border between ages a - 1 and a. -/
def Seg.crosses (g : Seg) (a : Nat) : Bool := stookField (g.at (a - 1)) != stookField (g.at a)

/-- The segment of an isolation cell, and the age just past the border, from the cell's key. -/
def cellSeg (key : Nat) : Option (Seg × Nat) :=
  let f := key / 12288
  let dir := key % 12288 / 3072
  let k := key % 3072 / 96
  let t := key % 96
  let near :=
    match dir with
    | 0 => stook f k 0
    | 1 => stook f 31 k
    | 2 => stook f k 31
    | _ => stook f 0 k
  let (cls, a, i) :=
    if t < 16 then (0, 1, t)
    else if t < 48 then (1, (t - 16) / 8 + 1, (t - 16) % 8)
    else if t < 80 then (2, (t - 48) / 2 + 1, (t - 48) % 2)
    else (3, 4 * (t - 80) + (if dir = 1 ∨ dir = 2 then 4 else 1), 0)
  match stepBack (stookX near) (stookY near) dir (a - 1), sideField f dir with
  | some (x, y), some _ => if segStarts x y cls dir then some (⟨dieOf f, x, y, cls, dir, i⟩, a) else none
  | _, _ => none

/-- The value a held isolation cell presents: the choice of the driving field's table (R77, R349). -/
def Dev.isoValue (d : Dev) (key : Nat) : Bool :=
  match d.fab.isoTab.get key 0 with
  | 1 => false
  | 2 => true
  | _ => d.fab.iso.get key false

/-- The value of the nearest holding isolation cell between a segment's start and age `a`, if any (R77). -/
def Dev.heldOn (d : Dev) (g : Seg) : Nat → Option Bool
  | 0 => none
  | a + 1 =>
    if g.crosses (a + 1) && !(d.part (stookField (g.at a)) && d.part (stookField (g.at (a + 1)))) then
      some (d.isoValue (isoKey (stookField (g.at a)) (g.port (a + 1))))
    else d.heldOn g a

/-! ### Values of segments (R72, R73, R517) -/

/-- What an enabled driver word takes: nothing, the routing output of a macrocell, or a segment end by class, direction and index
(Table 2.13). A word that names the other kind of source has no effect (R517). -/
inductive Driver where
  | off
  | mc (s n : Nat)
  | track (cls dir i : Nat)
  deriving DecidableEq, Repr

/-- The driver of a segment. -/
def Dev.driver (d : Dev) (g : Seg) : Driver :=
  let w := d.driverWord (g.at 0) g.cls g.dir g.i
  if !bitOf w 15 || !segStarts g.x g.y g.cls g.dir then .off
  else if fieldOf w 13 2 = 0 ∧ g.cls ≤ 1 then .mc (fieldOf w 0 7 / 16) (fieldOf w 0 7 % 16)
  else if (fieldOf w 13 2 = 1 ∨ fieldOf w 13 2 = 2) ∧ 2 ≤ g.cls then
    let cls := fieldOf w 13 2
    if 4 ≤ fieldOf w 0 5 / segCount cls then .off
    else .track cls (fieldOf w 0 5 / segCount cls) (fieldOf w 0 5 % segCount cls)
  else .off

/-- The segment end that a switch point takes: the one of the class, direction and index that ends at the stook. Where a die edge
cuts several, the one that has a driver; among several of those, one that nothing says (log entry 19). -/
def Dev.endTaken (d : Dev) (k cls dir i : Nat) : Option (Nat × Seg) :=
  let all := endsAt k cls dir i
  match all.filter (fun e => d.driver e.2 != .off) with
  | [] => all.getLast?
  | [e] => some e
  | l => l[Config.edgeEnd (k * 64 + wireSlot cls dir i) % l.length]?

/-- Whether the values of a field are to be taken as it sent them in its wave before: the reading field has not launched that
field's wave yet (R98). -/
def Dev.ahead (d : Dev) (r f : Nat) : Bool :=
  d.part r && d.part f && decide ((d.fld r).wave < (d.fld f).wave)

/-- The value that a segment carries at an age, before the wire register at its end, as field `r` sees it in its present wave: its
driver's value (R72, R73, R517), or that of a holding isolation cell on the way. A chain of segments that returns to itself has no
source and reads 0. -/
def Dev.segValue (d : Dev) : Nat → Nat → Seg → Nat → Bool
  | 0, _, _, _ => false
  | fuel + 1, r, g, a =>
    match d.heldOn g a with
    | some v => v
    | none =>
      let k := g.at 0
      if d.ahead r (stookField k) then d.fab.sent.get g.key false
      else
        match d.driver g with
        | .off => false
        | .mc s n => (d.routeOut k s n).getD false
        | .track cls dir i =>
          match d.endTaken k cls dir i with
          | none => false
          | some (age, e) =>
            if d.wireOn k (wireSlot cls dir i) then d.fab.wreg.get (wireKey k (wireSlot cls dir i) age) false
            else d.segValue fuel (stookField k) e age

/-- More segments than a die has L16 segments cannot stand in one chain. -/
def routeFuel : Nat := 262146

/-- The value a track presents at a stook: that of its wire register where it ends at one that is enabled (R75, R518). -/
def Dev.trackValue (d : Dev) (k cls dir age i : Nat) : Bool :=
  match segAt k cls dir age i with
  | none => false
  | some g =>
    if cls ≠ 0 ∧ age = g.len ∧ d.wireOn k (wireSlot cls dir i) then
      d.fab.wreg.get (wireKey k (wireSlot cls dir i) age) false
    else d.segValue routeFuel (stookField k) g age

/-- The fields that a change at age `a` of a segment has crossed a border from, last first: the field of each segment of its chain
back to a macrocell or a wire register (R101). None where an isolation cell on the way holds: it lets no change through (R77). -/
def Dev.segPath (d : Dev) : Nat → Seg → Nat → Option (List Nat)
  | 0, _, _ => some []
  | fuel + 1, g, a =>
    if (d.heldOn g a).isSome then none
    else
      let k := g.at 0
      let mine := if stookField (g.at a) = stookField k then [] else [stookField k]
      match d.driver g with
      | .track cls dir i =>
        (match d.endTaken k cls dir i with
         | none => some mine
         | some (age, e) =>
           if d.wireOn k (wireSlot cls dir i) then some mine
           else (d.segPath fuel e age).map (fun l => mine ++ l))
      | _ => some mine

/-! ### Bridges (R78 to R81) -/

/-- The key of a bridge wire that enters field f: die edge, stook along it, wire. -/
def bridgeKey (f dir k i : Nat) : Nat := ((f * 4 + dir) * 32 + k) * 16 + i

/-- The bridge wires that enter a field at a die edge. -/
def bridgeWires (f dir : Nat) : List Nat :=
  (List.range 32).flatMap (fun k => (List.range (if dir % 2 = 1 then 16 else 8)).map (bridgeKey f dir k))

/-- FAB_BRIDGE_STATUS.holding of a die's bridge direction. -/
def bridgeHolding (c dir : Nat) : Fld := ⟨Reg.FAB_BRIDGE_STATUS c, 4 * dir + 2, 1⟩

/-- Whether the receivers of field f's wires over a die edge hold (R81): the direction holds, or the far die is in
per-die reset, or the driving field does not take part. -/
def Dev.bridgeHolds (d : Dev) (f dir : Nat) : Bool :=
  match faceField f dir with
  | none => true
  | some g => d.on (bridgeHolding (dieOf f) dir) || d.heldDie (dieOf g) || !d.part g

/-- The value a bridge wire presents at a stook of a die edge (R516, kind 0x6). -/
def Dev.bridgeValue (d : Dev) (k dir i : Nat) : Bool :=
  let f := stookField k
  let onEdge :=
    match dir with
    | 0 => stookY k == 0
    | 1 => stookX k == 255
    | 2 => stookY k == 127
    | _ => stookX k == 0
  if onEdge && (faceField f dir).isSome && decide (i < (if dir % 2 = 1 then 16 else 8)) then
    d.fab.bridgeOut.get (bridgeKey f dir (if dir % 2 = 1 then stookRow k else stookCol k) i) false
  else false

/-- The directions of a die's bridges whose far die is in per-die reset hold from here on: a wave boundary, or a time at which no
wave is in progress (R81; log entry 125). -/
def Dev.bridgeHoldBegin (d : Dev) (c : Nat) : Dev :=
  if d.heldDie c then d
  else
    each [0, 1, 2, 3] (fun dir d =>
      match dieNeighbor c dir with
      | some n => if d.heldDie n then d.set (bridgeHolding c dir) 1 else d
      | none => d) d

/-- Those of every die. -/
def Dev.bridgesHold (d : Dev) : Dev := each (List.range 12) (fun c d => d.bridgeHoldBegin c) d

/-- Bridge directions stop holding when the far die has left reset and its bridges are ready (R81). -/
def Dev.bridgeHoldEnd (d : Dev) : Dev :=
  each (List.range 12) (fun c d =>
    each [0, 1, 2, 3] (fun dir d =>
      match dieNeighbor c dir with
      | some n =>
        if d.on (bridgeHolding c dir) ∧ ¬ d.heldDie n ∧ d.bit (Reg.D2D_VERT_STATUS_ready (baseSel (baseOf n))) (8 * (n % 3)) then
          d.set (bridgeHolding c dir) 0
        else d
      | none => d) d) d

/-- While no wave is in progress, directions begin and stop to hold at once (R521; log entry 125). -/
def Dev.bridgesAtRest (d : Dev) : Dev :=
  if d.running ∧ d.pac.phase = .waves then d else d.bridgeHoldEnd.bridgesHold

/-! ### Outputs of hard blocks (R71, R152, R516) -/

/-- A signal that a hard block sends to the fabric. Bins and MAC tiles have their places of R152; through which gap a dock, a channel
port or a sideband pin reaches the fabric is in the device database. -/
inductive Signal where
  | bin (k : Nat) (portB : Bool) (bit : Nat)
  | tileAcc (t bit : Nat)
  | tileO (t bit : Nat)
  | tileOut (t bit : Nat)
  | tileBx (t bit : Nat)
  | tileOvf (t : Nat)
  | tileFault (t : Nat)
  | dock (q bit : Nat)
  | chan (p bit : Nat)
  | sio (n : Nat)
  deriving DecidableEq, Repr

/-- The hard-block column beside a stook column, on its west (side 0) or east (side 1): the gaps stand after stook columns 7, 15 and
23. -/
def gapColumn (col side : Nat) : Option Nat :=
  if side = 1 then (if col = 7 ∨ col = 15 ∨ col = 23 then some (col / 8) else none)
  else if col = 8 ∨ col = 16 ∨ col = 24 then some (col / 8 - 1)
  else none

/-- The signal of a number at a row of a hard-block column: those of the bin and of the tile that span the row (R152) first, bit 64 of
a bin port and bit 512 of a dock port being its error output. -/
def gapSignal (column row n : Nat) : Option Signal :=
  let k := 16 * column + row / 2
  let t := 32 * column + row
  if n < 130 then some (.bin k (decide (65 ≤ n)) (n % 65))
  else if n < 170 then some (.tileAcc t (n - 130))
  else if n < 186 then some (.tileO t (n - 170))
  else if n < 202 then some (.tileOut t (n - 186))
  else if n < 206 then some (.tileBx t (n - 202))
  else if n = 206 then some (.tileOvf t)
  else if n = 207 then some (.tileFault t)
  else if n < 8416 then some (.dock ((n - 208) / 513) ((n - 208) % 513))
  else if n < 10464 then some (.chan ((n - 8416) / 256) ((n - 8416) % 256))
  else if n < 10528 then some (.sio (n - 10464))
  else none

/-- What the design reads from a sideband pin: 0 from an OFF pin, the sample from an INPUT or EDGE pin, and the value it last
committed from an OUTPUT pin (R146 to R148). -/
def Dev.sioSeen (d : Dev) (n : Nat) : Bool :=
  match d.get (Reg.SIO_PIN_CTL_mode n) with
  | 0 => false
  | 3 => bitOf (d.pair Reg.SIO_OUT_LO Reg.SIO_OUT_HI) n
  | _ => bitOf (d.pair Reg.SIO_IN_LO Reg.SIO_IN_HI) n

/-- The level of a hard block's signal in a field: a channel port presents the word of its receive context in a synchronous
channel, and its stream outputs otherwise (R298, R300, R305). -/
def Dev.signal (d : Dev) (f : Nat) : Signal → Bool
  | .bin k b i => if i = 64 then (d.binShown f k b).2 else bitOf (d.binShown f k b).1 i
  | .tileAcc t i => (d.tileShown f t).acc.getLsbD i
  | .tileO t i => (d.tileShown f t).o.getLsbD i
  | .tileOut t i => (d.tileShown f t).out.getLsbD i
  | .tileBx t i => bitOf (d.tileShown f t).bx i
  | .tileOvf t => (d.tileShown f t).ovf
  | .tileFault t => d.tileFaultShown f t
  | .dock q i =>
    let o := d.ports.get (f * 16 + q) {}
    if i = 512 then o.err else bitOf o.data i
  | .chan p i =>
    let c := Config.portContext f p
    if (d.ctxs.get c {}).d0.getLsbD 1 then (d.chan.presented.get c 0).getLsbD i else bitOf (d.chan.streamOut.get (f * 8 + p) 0) i
  | .sio n => d.sioSeen n

/-- The level of an output wire of the gap beside a stook; 0 where no hard block stands (R516). -/
def Dev.blockLevel (d : Dev) (k side out : Nat) : Bool :=
  match gapColumn (stookCol k) side with
  | none => false
  | some c =>
    match gapSignal c (stookRow k) (Config.gapWire c (stookRow k) out) with
    | some x => d.signal (stookField k) x
    | none => false

/-! ### Sheaf inputs (R71, R516) -/

/-- The level that a sheaf input's source presents now. -/
def Dev.sourceLevel (d : Dev) (k s m : Nat) : Bool :=
  let v := d.inSel k s m
  match fieldOf v 0 4 with
  | 1 => d.feedback k (fieldOf v 4 7 / 16) (fieldOf v 4 7 % 16)
  | 2 => d.trackValue k 0 (fieldOf v 4 2) (fieldOf v 6 7) (fieldOf v 13 4)
  | 3 => d.trackValue k 1 (fieldOf v 4 2) (fieldOf v 6 7) (fieldOf v 13 4)
  | 4 => d.trackValue k 2 (fieldOf v 4 2) (fieldOf v 6 7) (fieldOf v 13 4)
  | 5 => d.trackValue k 3 (fieldOf v 4 2) (fieldOf v 6 7) (fieldOf v 13 4)
  | 6 => d.bridgeValue k (fieldOf v 4 2) (fieldOf v 13 4)
  | 7 => d.blockLevel k (fieldOf v 4 1) (fieldOf v 5 10)
  | _ => false

/-- The fields that a change of a sheaf input's source has crossed borders from; none where an isolation cell holds it back (R77,
R101). -/
def Dev.inputPath (d : Dev) (k s m : Nat) : Option (List Nat) :=
  let v := d.inSel k s m
  if 2 ≤ fieldOf v 0 4 ∧ fieldOf v 0 4 ≤ 5 then
    match segAt k (fieldOf v 0 4 - 2) (fieldOf v 4 2) (fieldOf v 6 7) (fieldOf v 13 4) with
    | some g => d.segPath routeFuel g (fieldOf v 6 7)
    | none => some []
  else some []

/-- Sets the level of a sheaf input. -/
def Dev.setLevel (d : Dev) (k s m : Nat) (v : Bool) : Dev :=
  { d with fab := { d.fab with levels := d.fab.levels.put (inKey k s m) v false } }

/-- What a storage element holds after a change of its sheaf's inputs; `old` is the device before it. The level of an active set or
reset stays after it (R60, R62); in a design-clock LATCH, which R62 forces only within the cycle, until the next commit. A
captured-wire LATCH that closes holds the comb of that moment (R53, R55), and one that opens is no longer kept by a released force
(R69). -/
def mcAfterChange (old : Dev) (k s n : Nat) (d : Dev) : Dev :=
  let w := d.mcWord k s n
  let captured := mcMode w = 3 ∧ mcCommitSrc w
  if mcMode w = 0 ∨ d.forced k s n then d
  else if d.fab.kept.get (qKey k s n) false then
    (if captured ∧ ¬ old.transparent k s n w ∧ d.transparent k s n w then d.endKept k s n else d)
  else
    match (d.srActs k s n w).or (old.srActs k s n w) with
    | some v =>
      if mcMode w = 3 ∧ ¬ mcCommitSrc w ∧ ¬ mcSrAsync w then
        d.modFab (fun x => { x with srq := x.srq.put (qKey k s n) (if v then 2 else 1) 0 })
      else d.setQ k s n v
    | none => if captured ∧ old.transparent k s n w ∧ ¬ d.transparent k s n w then d.setQ k s n (old.q k s n) else d

/-- A sheaf input takes a level; the storage elements of the sheaf hold what the change makes them hold. -/
def Dev.changeInput (d : Dev) (k s m : Nat) (v : Bool) : Dev :=
  each (List.range 16) (fun n e => mcAfterChange d k s n e) (d.setLevel k s m v)

/-- The sheaf inputs of a field that have a selection or a level. -/
def Dev.liveInputs (d : Dev) (f : Nat) : List (Nat × Nat × Nat) :=
  let listed := (d.fab.levels.filter (fun e => stookField (e.1 / 1024) == f)).map
    (fun (e : Nat × Bool) => (e.1 / 1024, e.1 % 1024 / 64, e.1 % 64))
  (d.usedInputs f ++ listed).eraseDups

/-- One pass over the sheaf inputs of fields: each takes its source's present level. -/
def Dev.settlePass (d : Dev) (fs : List Nat) : Dev :=
  each (fs.flatMap d.liveInputs) (fun x d => d.changeInput x.1 x.2.1 x.2.2 (d.sourceLevel x.1 x.2.1 x.2.2)) d

/-- Passes until nothing changes, at most `n`. -/
def Dev.settleN (d : Dev) (fs : List Nat) : Nat → Dev
  | 0 => d
  | n + 1 =>
    let d' := d.settlePass fs
    if d'.fab.levels = d.fab.levels ∧ d'.fab.q = d.fab.q then d' else d'.settleN fs n

/-- The sheaf inputs of fields settled: every change has arrived (R101; DEDUCED, log entry 13). A loop that goes on changing has
made as many passes as there are inputs. -/
def Dev.settle (d : Dev) (fs : List Nat) : Dev := d.settleN fs ((fs.flatMap d.liveInputs).length + 1)

/-! ### The end of a wave: wire registers, bridges, isolation cells (R75, R77, R79, R81, R98) -/

/-- The enabled wire registers of a field: stook, slot, age of the segment that ends there. -/
def Dev.wireRegs (d : Dev) (f : Nat) : List (Nat × Nat × Nat) :=
  let slots := ((d.usedBytes f 62 62).flatMap (fun x =>
    ((List.range 8).filter (fun b => decide (8 * x.2 + b < 44) && d.wireOn x.1 (8 * x.2 + b))).map
      (fun b => (x.1, 8 * x.2 + b)))).eraseDups
  slots.flatMap (fun x =>
    let ends :=
      if x.2 < 32 then endsAt x.1 1 (x.2 / 8) (x.2 % 8)
      else if x.2 < 40 then endsAt x.1 2 ((x.2 - 32) / 2) ((x.2 - 32) % 2)
      else endsAt x.1 3 (x.2 - 40) 0
    ends.map (fun e => (x.1, x.2, e.1)))

/-- The value at the input of a wire register. -/
def Dev.wireInput (d : Dev) (k slot age : Nat) : Bool :=
  let g :=
    if slot < 32 then segAt k 1 (slot / 8) age (slot % 8)
    else if slot < 40 then segAt k 2 ((slot - 32) / 2) age ((slot - 32) % 2)
    else segAt k 3 (slot - 40) age 0
  match g with
  | some e => d.segValue routeFuel (stookField k) e age
  | none => false

/-- The segments that start in a field and have a driver word: those that may carry a 1. -/
def Dev.drivenSegs (d : Dev) (f : Nat) : List Seg :=
  let c := dieOf f
  (((d.usedBytes f 55 58).filterMap (fun x =>
      let w := x.2 / 2
      let g : Seg :=
        if w < 64 then ⟨c, stookX x.1, stookY x.1, 0, w / 16, w % 16⟩
        else ⟨c, stookX x.1, stookY x.1, 1, (w - 64) / 8, w % 8⟩
      if w < 96 then some g else none)) ++
    ((d.usedBytes f 59 61).filterMap (fun x =>
      let w := x.2 / 2
      let g : Seg :=
        if w < 8 then ⟨c, stookX x.1, stookY x.1, 2, w / 2, w % 2⟩
        else ⟨c, stookX x.1, stookY x.1, 3, w - 8, 0⟩
      if w < 12 ∧ segStarts g.x g.y g.cls g.dir then some g else none))).eraseDups

/-- The isolation cells at the borders of a field through which a segment may carry a 1: those of driven segments, and those of
segments on which another cell may hold one. -/
def Dev.borderCells (d : Dev) (f : Nat) : List (Seg × Nat) :=
  let driven := (dieFields (dieOf f)).flatMap d.drivenSegs
  let listed := ((d.fab.iso.map (fun e => e.1)) ++ (d.fab.isoTab.map (fun e => e.1))).filterMap (fun key => (cellSeg key).map (·.1))
  ((driven ++ listed).eraseDups.filter (fun g => g.die == dieOf f)).flatMap (fun g =>
    (g.ages.filter (fun a => g.crosses a && (stookField (g.at (a - 1)) == f || stookField (g.at a) == f))).map (fun a => (g, a)))

/-- The transparent isolation cells at the borders of a field keep the value that they pass at the end of its wave (R77); `d` is the
settled state, `e` takes them. -/
def Dev.recordIso (d : Dev) (f : Nat) (e : Dev) : Dev :=
  let open_ (near far : Nat) : Bool := (near == f || far == f) && d.part near && d.part far
  let kept := e.fab.iso.filter (fun c =>
    match sideField (c.1 / 12288) (c.1 % 12288 / 3072) with
    | some far => !open_ (c.1 / 12288) far
    | none => true)
  let cells := (d.borderCells f).filter (fun c => open_ (stookField (c.1.at (c.2 - 1))) (stookField (c.1.at c.2)))
  e.modFab (fun x =>
    { x with iso := cells.foldl (fun m c =>
        let near := stookField (c.1.at (c.2 - 1))
        m.put (isoKey near (c.1.port c.2)) (d.segValue routeFuel f c.1 (if near = f then c.2 - 1 else c.2)) false) kept })

/-- What a field has sent in the wave that ends, for neighbors that are still in it (R98). -/
def Dev.recordSent (d : Dev) (f : Nat) (e : Dev) : Dev :=
  e.modFab (fun x =>
    let old : SMap Bool := x.sent.clear (stook f 0 0 * 128) ((stook f 31 31 + 1) * 128)
    { x with sent := (d.drivenSegs f).foldl (fun m g => m.put g.key (d.segValue routeFuel f g 0) false) old })

/-- What a held bridge receiver presents (Table 2.10): the choice of the direction, or its wire register. -/
def Dev.heldBridge (d : Dev) (f dir key : Nat) : Bool :=
  match d.get ⟨Reg.FAB_BRIDGE_HOLD (dieOf f), 2 * dir, 2⟩ with
  | 1 => false
  | 2 => true
  | _ => d.fab.bridgeReg.get key false

/-- The receivers of a field's bridge wires that hold present their hold value, at a launch (R81, R88). -/
def Dev.presentHeld (d : Dev) (f : Nat) : Dev :=
  let keys := ([0, 1, 2, 3].filter (fun dir => (faceField f dir).isSome && d.bridgeHolds f dir)).flatMap
    (fun dir => (bridgeWires f dir).map (fun key => (dir, key)))
  d.modFab (fun x => { x with bridgeOut := keys.foldl (fun m e => m.put e.2 (d.heldBridge f e.1 e.2) false) x.bridgeOut })

/-- The wire registers of a field and of the bridge wires that it receives step: each takes its settled input in `d`; a bridge
receiver that holds keeps its register (R81). `e` takes them. -/
def Dev.stepWiresIn (d : Dev) (f : Nat) (e : Dev) : Dev :=
  let wires := ([0, 1, 2, 3].filter (fun dir => (faceField f dir).isSome && !d.bridgeHolds f dir)).flatMap (bridgeWires f)
  let e := e.modFab (fun x =>
    { x with
      wreg := (d.wireRegs f).foldl (fun m r => m.put (wireKey r.1 r.2.1 r.2.2) (d.wireInput r.1 r.2.1 r.2.2) false) x.wreg
      bridgeReg := wires.foldl (fun m key => m.put key (d.fab.bridgeIn.get key false) false) x.bridgeReg
      bridgeOut := wires.foldl (fun m key => m.put key (d.fab.bridgeIn.get key false) false) x.bridgeOut
      bridgeIn := (x.bridgeNext.filter (fun r => r.1 / 2048 == f)).foldl (fun m r => m.put r.1 (r.2 == 2) false) x.bridgeIn
      bridgeNext := x.bridgeNext.filter (fun r => r.1 / 2048 != f) })
  (e.bridgeHoldBegin (dieOf f)).presentHeld f

/-- The end of a field's wave: isolation cells and what it sent are kept, and its wire registers step. `d` is the settled state, `e`
takes all. -/
def Dev.waveEnd (d : Dev) (f : Nat) (e : Dev) : Dev := d.stepWiresIn f (d.recordSent f (d.recordIso f e))

/-! ### Loads and resets (R63, R76, R77) -/

/-- The storage elements of a field take their init values; forces end (R63). -/
def Dev.initQ (d : Dev) (f : Nat) : Dev :=
  let lo := stook f 0 0 * 128
  let hi := (stook f 31 31 + 1) * 128
  let d := d.modFab (fun x =>
    { x with q := x.q.clear lo hi, srq := x.srq.clear lo hi, kept := x.kept.clear lo hi, force := x.force.clear lo hi,
             forceVal := x.forceVal.clear lo hi })
  each (d.usedMcs f) (fun x d =>
    let w := d.mcWord x.1 x.2.1 x.2.2
    if mcMode w ≠ 0 ∧ mcInit w then d.setQ x.1 x.2.1 x.2.2 true else d) d

/-- The storage elements of a field that leaves completion keep the values that they show (R104). -/
def Dev.holdQ (d : Dev) (f : Nat) : Dev :=
  each (d.usedMcs f) (fun x e =>
    if mcMode (d.mcWord x.1 x.2.1 x.2.2) = 0 ∨ d.forced x.1 x.2.1 x.2.2 then e
    else e.setQ x.1 x.2.1 x.2.2 (d.q x.1 x.2.1 x.2.2)) d

/-- The wire registers of a field, those of its bridge wires among them, are cleared (R76, R79). -/
def Dev.clearWires (d : Dev) (f : Nat) : Dev :=
  d.modFab (fun x =>
    { x with
      wreg := x.wreg.clear (wireKey (stook f 0 0) 0 0) (wireKey (stook f 31 31 + 1) 0 0)
      bridgeReg := x.bridgeReg.clear (bridgeKey f 0 0 0) (bridgeKey (f + 1) 0 0 0)
      bridgeOut := x.bridgeOut.clear (bridgeKey f 0 0 0) (bridgeKey (f + 1) 0 0 0) })

/-- The configuration of a field is all 0, and every wire presents 0 (the cleared state), those of the bridges that it drives among
them. -/
def Dev.clearLogic (d : Dev) (f : Nat) : Dev :=
  let lo := frameBase (frameAddr (dieOf f) (idxOf f) 0 0 0)
  let hi := lo + 0x8000000
  let keep (a : Nat) : Bool := a < lo || hi ≤ a || a / 0x1000 % 16 != 0
  let far := [0, 1, 2, 3].filterMap (fun dir => (faceField f dir).map (fun g => bridgeKey g ((dir + 2) % 4) 0 0))
  { d with
    mem := d.mem.filter (fun c => keep c.1)
    marks := d.marks.filter (fun c => keep c.1)
    fab := { d.fab with
      levels := d.fab.levels.clear (inKey (stook f 0 0) 0 0) (inKey (stook f 31 31 + 1) 0 0)
      sent := d.fab.sent.clear (stook f 0 0 * 128) ((stook f 31 31 + 1) * 128)
      bridgeIn := far.foldl (fun m k => m.clear k (k + 512)) d.fab.bridgeIn
      bridgeNext := far.foldl (fun m k => m.clear k (k + 512)) d.fab.bridgeNext } }

/-! ### State-capture frames (R120 to R122) -/

/-- Byte `b` of minor 0, 1 or 2 of a stook in a state-capture frame. -/
def Dev.captureByte (d : Dev) (k minor b : Nat) : Nat :=
  if 16 ≤ b ∨ 3 ≤ minor then 0
  else
    (List.range 8).foldl (fun x i =>
      let n := 8 * b + i
      let v :=
        match minor with
        | 0 => d.q k (n / 16) (n % 16)
        | 1 => d.forced k (n / 16) (n % 16)
        | _ => d.fab.forceVal.get (qKey k (n / 16) (n % 16)) false
      if v then x + 2 ^ i else x) 0

/-- Writes bit n of a stook's minor of a state-capture frame: Q, force or forced value. A release keeps the forced value
until the next commit event (R69). -/
def Dev.captureWriteBit (d : Dev) (k minor n : Nat) (v : Bool) : Dev :=
  let s := n / 16
  let m := n % 16
  let w := d.mcWord k s m
  match minor with
  | 0 => if mcMode w = 0 then d else d.setQ k s m v
  | 1 =>
    let d :=
      if d.forced k s m ∧ ¬ v ∧ mcMode w ≠ 0 then
        (d.setQ k s m (d.fab.forceVal.get (qKey k s m) false)).modFab (fun x =>
          { x with kept := x.kept.put (qKey k s m) true false })
      else d
    d.modFab (fun x => { x with force := x.force.put (qKey k s m) v false })
  | 2 => d.modFab (fun x => { x with forceVal := x.forceVal.put (qKey k s m) v false })
  | _ => d

/-- Writes byte `b` of a stook's minor of a state-capture frame. -/
def Dev.captureWrite (d : Dev) (k minor b v : Nat) : Dev :=
  if 16 ≤ b then d
  else each (List.range 8) (fun i d => d.captureWriteBit k minor (8 * b + i) (bitOf v i)) d

end Sys2Proof.Machine
end

