-- ==== Sys2Proof/Machine/Pacer.lean ====
section
/-! DEFINITION. The design clock ledger of chapter 3 (R89 to R95), and the pacer and sideband pins of chapter 4 of spec/
(R127 to R151), but for the release of a cycle (Machine/Waves.lean). -/

namespace Sys2Proof.Machine

/-! ### Ledger (R89 to R94) -/

/-- A ledger entry: period, rise, high time (Table 3.1). -/
def Dev.clkPeriod (d : Dev) (n : Nat) : Nat := d.get (Reg.PACE_DCLK_PERIOD_period n)
def Dev.clkRise (d : Dev) (n : Nat) : Nat := d.get (Reg.PACE_DCLK_RISE_rise n)
def Dev.clkHigh (d : Dev) (n : Nat) : Nat := d.get (Reg.PACE_DCLK_HIGH_high n)
def Dev.clkEnabled (d : Dev) (n : Nat) : Bool := d.on (Reg.PACE_DCLK_CTL_enable n)

/-- Whether an entry is valid (R91). -/
def Dev.clkValid (d : Dev) (n : Nat) : Bool :=
  decide (2 ≤ d.clkPeriod n) && decide (d.clkRise n < d.clkPeriod n) && decide (1 ≤ d.clkHigh n) &&
    decide (d.clkHigh n < d.clkPeriod n)

/-- Whether a clock is in the schedule: enabled and valid. -/
def Dev.clkLive (d : Dev) (n : Nat) : Bool := d.clkEnabled n && d.clkValid n

/-- A clock's phase at a design time (R89). -/
def Dev.clkPhase (d : Dev) (n t : Nat) : Nat := (t + (d.clkPeriod n - d.clkRise n)) % d.clkPeriod n

/-- A clock's level just after a design time, and whether it has an edge then (R89, R92). -/
def Dev.clkLevelAt (d : Dev) (n t : Nat) : Bool := d.clkLive n && decide (d.clkPhase n t < d.clkHigh n)
def Dev.clkEdgeAt (d : Dev) (n t : Nat) : Bool :=
  d.clkLive n && (d.clkPhase n t == 0 || d.clkPhase n t == d.clkHigh n)

/-- A clock's earliest edge at or after a design time (R89). -/
def Dev.clkNextEdge (d : Dev) (n t : Nat) : Nat :=
  let p := d.clkPhase n t
  if p = 0 ∨ p = d.clkHigh n then t
  else if p < d.clkHigh n then t + (d.clkHigh n - p)
  else t + (d.clkPeriod n - p)

/-- The earliest edge of any clock in the schedule at or after a design time (R90). -/
def Dev.earliestEdge (d : Dev) (t : Nat) : Option Nat :=
  (List.range 64).foldl (fun best n =>
    if d.clkLive n then
      (match best with
       | none => some (d.clkNextEdge n t)
       | some b => some (min b (d.clkNextEdge n t)))
    else best) none

/-- Whether the schedule is empty, and whether design time has reached its end (R94). -/
def Dev.scheduleEmpty (d : Dev) : Bool := (List.range 64).all (fun n => !d.clkLive n)
def Dev.timeEnd (d : Dev) : Bool :=
  match d.earliestEdge d.pac.next with
  | some t => decide (2 ^ 64 ≤ t)
  | none => false

/-- The number of the next cycle to be released: the cycle that runs its waves is not committed yet (R138). -/
def Dev.nextCycle (d : Dev) : Nat := d.committed + (if d.running ∧ d.pac.phase = .waves then 1 else 0)

/-- The design time of the next cycle to be released; none where no next cycle exists (R90, R94). -/
def Dev.nextTime (d : Dev) : Option Nat :=
  if 2 ^ 64 - 1 ≤ d.nextCycle then none
  else
    match d.earliestEdge d.pac.next with
    | some t => if t < 2 ^ 64 then some t else none
    | none => none

/-- A bit per clock. -/
def clkBits (p : Nat → Bool) : Nat := (List.range 64).foldl (fun x n => if p n then x + 2 ^ n else x) 0

/-- Shows a cycle in the ledger's status: design time, levels, edges (R95). -/
def Dev.showCycle (d : Dev) (t levels edges : Nat) : Dev :=
  ((d.setPair Reg.PACE_CYCLE_TIME_LO Reg.PACE_CYCLE_TIME_HI t).setPair Reg.PACE_CLK_LEVEL0 Reg.PACE_CLK_LEVEL1
    levels).setPair Reg.PACE_CLK_EDGE0 Reg.PACE_CLK_EDGE1 edges

/-- A write to a ledger entry is taken while the pacer is stopped (R93). -/
def Dev.ledgerWrite (d : Dev) (a : Nat) (v : Word) : Dev :=
  if d.running then d.set Reg.PACE_CLK_STATUS_write_refused 1 else d.wrWord a v

/-! ### Deadlines and debt (R131, R134) -/

/-- Whether the pacer paces: every mode but FREE_RUN (Table 4.5). -/
def Dev.paced (d : Dev) : Bool := d.get Reg.PACE_CTL_mode != 1

/-- The ratio, 32.32 fixed point. -/
def Dev.ratio (d : Dev) : Nat := d.pair Reg.PACE_RATIO_FRAC Reg.PACE_RATIO_INT

/-- Ticks from T0 to the deadline of a design time (R131). -/
def Dev.deadlineTicks (d : Dev) (t : Nat) : Nat := (t * d.ratio * 16 + (1000 * 2 ^ 32 - 1)) / (1000 * 2 ^ 32)

/-- The deadline of the next cycle (R131). -/
def Dev.deadline (d : Dev) : Option Int := d.nextTime.map (fun t => d.pac.t0 + d.deadlineTicks t)

/-- The deadline of the next cycle is out of the range of R131. -/
def Dev.deadlineOut (d : Dev) : Bool :=
  d.paced && (match d.deadline with
    | some x => decide (x < 0 ∨ (2 ^ 63 : Int) ≤ x)
    | none => false)

/-- The schedule debt in ticks, against the next cycle to be released: live while running in PACED mode, held while stopped
(R133, R134). -/
def Dev.debt (d : Dev) : Int :=
  if d.running then
    (if d.paced then
       (match d.deadline with
        | some x => (d.now : Int) - x
        | none => 0)
     else 0)
  else d.pac.debt

/-- The debt in whole ns, truncated toward zero. -/
def Dev.debtNs (d : Dev) : Int := Int.tdiv d.debt 16

/-- A fresh debt of 0 or less arms the schedule-lost event again (R136). -/
def Dev.rearmLost (d : Dev) : Dev :=
  if d.debt ≤ 0 then d.modPac (fun p => { p with lostArmed := true }) else d

/-! ### Stops (R138, R140, R143, Table 4.4) -/

/-- Records that a command or write was refused. -/
def Dev.paceRefuse (d : Dev) : Dev := d.set Reg.PACE_STATUS_cmd_refused 1

/-- The correction that PACE_TB_ADJ still holds. -/
def Dev.tbAdj (d : Dev) : Int := (d.rdWord Reg.PACE_TB_ADJ).toInt

/-- Applies the remaining timebase correction at once (R130). -/
def Dev.applyAdj (d : Dev) : Dev :=
  let a := d.tbAdj
  (d.modPac (fun p => { p with tb := ((p.tb : Int) + a).emod (2 ^ 64) |>.toNat })).wrWord Reg.PACE_TB_ADJ 0

/-- The pacer stops with a cause: the debt is held, the timebase takes its correction, the cause is shown and the host
told (R130, R134, R138, Table 12.7). -/
def Dev.pacerStop (d : Dev) (cause : Nat) : Dev :=
  let debt := d.debt
  let d := d.modPac (fun p => { p with debt := debt, stepLeft := none, causes := [], phase := .boundary })
  let d := (d.set Reg.PACE_STATUS_running 0).set Reg.PACE_STATUS_stop_cause cause
  d.applyAdj.hostEvent 18

/-- Stop causes from the highest priority down (Table 4.4). -/
def stopPriority : List Nat := [9, 5, 6, 4, 8, 7, 3, 2, 1]

/-- The causes that keep the pacer from releasing the next cycle. -/
def Dev.dueCauses (d : Dev) : List Nat :=
  d.pac.causes ++
    (if d.pac.stepLeft = some 0 then [2] else []) ++
    (match d.pac.stopAt with
     | some c => if c ≤ d.committed then [3] else []
     | none => []) ++
    (if d.nextTime = none then [7] else if d.deadlineOut then [8] else [])

/-- Disarms a stop-at that has come due; one already passed reports stop_at_missed (R140; DEDUCED, log entry 14). -/
def Dev.disarmDue (d : Dev) : Dev :=
  match d.pac.stopAt with
  | some c =>
    if c ≤ d.committed then
      let d := (d.modPac (fun p => { p with stopAt := none })).set Reg.PACE_STATUS_stop_at_armed 0
      if c < d.committed then d.set Reg.PACE_STATUS_stop_at_missed 1 else d
    else d
  | none => d

/-- What the firmware does about the device's own missed stop-at (R145): a worker with a position tells the manager, another
device notes it as its own. -/
def Dev.ownMissed (d : Dev) : Dev :=
  let worker := d.boot.role == 2 && d.on (Reg.LCH_CTL_pos_valid 16) && d.get Reg.ID_STATE_sp_state == 3
  if worker then (d.clusterSend .missed 0).hostEvent 20 else d.noteMissed (d.get (Reg.LCH_CTL_position 16))

/-- Stops the pacer if a cause has come due; a missed stop-at is a cluster event (R140, R143, R145). -/
def Dev.stopIfDue (d : Dev) : Dev :=
  let due := d.dueCauses
  match stopPriority.find? (fun c => decide (c ∈ due)) with
  | some c =>
    let missed : Bool :=
      match d.pac.stopAt with
      | some x => decide (x < d.committed)
      | none => false
    let d := d.disarmDue.pacerStop c
    if missed then d.ownMissed else d
  | none => d

/-- Whether the design rests at a boundary: the pacer is stopped, or runs and pads (R521). -/
def Dev.atRest (d : Dev) : Bool := !d.running || d.pac.phase == .boundary

/-! ### Commands (Table 4.3) -/

/-- START, or STEP with a count: refused while running, halted, while CFG_DONE is low, or in PACED mode with a ratio of 0
(R132, R139, R343, R387); with no next cycle it releases nothing and the cause becomes SCHEDULE_END (R94). A deadline out of range
stops it at once with DEADLINE_RANGE (R131). T0 is an unbounded integer, of which the registers show 64 bits (DESIGN CHOICE, log
entry 126). -/
def Dev.cmdStart (d : Dev) (step : Option Nat) (atTime : Bool) : Dev :=
  if d.running ∨ d.halted ∨ ¬ d.doneIn ∨ step = some 0 ∨ (d.paced ∧ d.ratio = 0) then d.paceRefuse
  else
    match d.nextTime with
    | none => d.set Reg.PACE_STATUS_stop_cause 7
    | some t =>
      let s := if atTime then d.pair Reg.PACE_START_TIME_LO Reg.PACE_START_TIME_HI else d.now
      let d := (d.modPac (fun p =>
        { p with phase := .boundary, t0 := (s : Int) - d.deadlineTicks t, start := s, stepLeft := step, causes := [],
                 lostArmed := true })).set Reg.PACE_STATUS_running 1
      if d.deadlineOut then d.pacerStop 8 else d

/-- STOP. -/
def Dev.cmdStop (d : Dev) : Dev :=
  if ¬ d.running then d
  else if d.pac.phase = .boundary then d.pacerStop 1
  else d.modPac (fun p => { p with causes := withItem p.causes 1 })

/-- STOP_AT_ARM takes the value of PACE_STOP_AT as it stands (R140). -/
def Dev.cmdArm (d : Dev) : Dev :=
  (d.modPac (fun p => { p with stopAt := some (d.pair Reg.PACE_STOP_AT_LO Reg.PACE_STOP_AT_HI) })).set
    Reg.PACE_STATUS_stop_at_armed 1

/-- STOP_AT_DISARM. -/
def Dev.cmdDisarm (d : Dev) : Dev :=
  (d.modPac (fun p => { p with stopAt := none })).set Reg.PACE_STATUS_stop_at_armed 0

/-- A write of PACE_CMD (Table 4.3). -/
def Dev.paceCmd (d : Dev) (v : Word) : Dev :=
  match bits v 0 3 with
  | 1 => d.cmdStart none (v.getLsbD 3)
  | 2 => d.cmdStop
  | 3 => d.cmdStart (some (d.pair Reg.PACE_STEP_COUNT_LO Reg.PACE_STEP_COUNT_HI)) (v.getLsbD 3)
  | 4 => d.cmdArm
  | 5 => d.cmdDisarm
  | _ => d.paceRefuse

/-- A write of PACE_CTL: the mode is taken only while stopped, lost_policy at any time (R132; DEDUCED, log entry 15). -/
def Dev.paceCtl (d : Dev) (v : Word) : Dev :=
  let d := d.set Reg.PACE_CTL_lost_policy (bits v 2 2)
  if d.running ∧ bits v 0 2 ≠ d.get Reg.PACE_CTL_mode then d.paceRefuse
  else d.set Reg.PACE_CTL_mode (bits v 0 2)

/-- A write that is taken only while the pacer is stopped, else refused (R132). -/
def Dev.writeStopped (d : Dev) (a : Nat) (v : Word) : Dev := if d.running then d.paceRefuse else d.wrWord a v

/-- A write of PACE_RESUME_TIME makes the next cycle the earliest edge at or after the written time (R142). -/
def Dev.resumeWrite (d : Dev) (a : Nat) (v : Word) : Dev :=
  if d.running then d.paceRefuse
  else
    let d := d.wrWord a v
    d.modPac (fun p => { p with next := d.pair Reg.PACE_RESUME_TIME_LO Reg.PACE_RESUME_TIME_HI })

/-- Schedule lost (R136, Table 4.2): in PACED mode, armed, with a debt past the bound. -/
def Dev.scheduleLost (d : Dev) : Dev :=
  if d.running ∧ d.paced ∧ d.pac.lostArmed ∧ (max (d.get Reg.PACE_LOST_BOUND_bound) 1 * 16 : Nat) < d.debt then
    let d := (d.set Reg.PACE_STATUS_lost 1).wrap Reg.PACE_LOST_COUNT_count
    let d := (d.err 32 0 0 0x0201).modPac (fun p => { p with lostArmed := false })
    match d.get Reg.PACE_CTL_lost_policy with
    | 0 =>
      let debt := d.debt
      d.modPac (fun p => { p with t0 := p.t0 + debt, lostArmed := true })
    | 2 => d
    | _ =>
      if d.pac.phase = .boundary then d.pacerStop 4
      else d.modPac (fun p => { p with causes := withItem p.causes 4 })
  else d

/-! ### Timebase (R127 to R130) -/

/-- Whether a measured frequency of PACE_REF is in range: 90 to 110 MHz. -/
def refInRange (khz : Nat) : Bool := decide (90000 ≤ khz) && decide (khz ≤ 110000)

/-- A monitor window of 10 µs ends with a measured frequency, 0 when PACE_REF stopped (R128, R129). A switch to the internal
oscillator begins; it completes, or is forced, under R465. A switch back that has not completed is given up. -/
def Dev.refWindow (d : Dev) (khz : Nat) : Dev :=
  let d := d.set Reg.PACE_REF_FREQ_khz khz
  if refInRange khz then
    let d := d.modPac (fun p => { p with good := p.good + 1 })
    if 100 ≤ d.pac.good then d.set Reg.PACE_TB_CTL_osc_cal_valid 1 else d
  else
    let d := d.modPac (fun p => { p with good := 0 })
    if d.pwr.tbSwitch = some false then { d with pwr := { d.pwr with tbSwitch := if d.pac.osc then none else some true } }
    else if d.on Reg.PACE_STATUS_degraded then d
    else { d.set Reg.PACE_STATUS_degraded 1 with pwr := { d.pwr with tbSwitch := some true } }

/-- The return to PACE_REF begins (R129): a use_ref that is pending, with the reference in range for 1 ms. The switch clears
degraded when it completes (`Dev.clkSwitched`). -/
def Dev.tbReturn (d : Dev) : Dev :=
  if d.on Reg.PACE_TB_CTL_use_ref ∧ 100 ≤ d.pac.good then
    { d.set Reg.PACE_TB_CTL_use_ref 0 with pwr := { d.pwr with tbSwitch := some false } }
  else d

/-- A write of PACE_TB_ADJ: at once while stopped, else slewed (R130). The count of 64 steps starts anew with the write, and the
64th of them is the slewed one (DESIGN CHOICE, log entry 127). -/
def Dev.tbAdjWrite (d : Dev) (v : Word) : Dev :=
  let d := (d.wrWord Reg.PACE_TB_ADJ v).modPac (fun p => { p with slew := 0 })
  if d.running then d else d.applyAdj

/-- One step of the timebase (R127, R130): 10 ticks, and 11 or 9 in one step of 64 while a correction remains. -/
def Dev.tbStep (d : Dev) : Dev :=
  let a := d.tbAdj
  let turn := decide (a ≠ 0) && d.pac.slew % 64 == 63
  let k := if !turn then 10 else if 0 < a then 11 else 9
  let d := d.modPac (fun p => { p with tb := (p.tb + k) % 2 ^ 64, slew := if a = 0 then 0 else p.slew + 1 })
  if turn then d.wrWord Reg.PACE_TB_ADJ (BitVec.ofInt 32 (if 0 < a then a - 1 else a + 1)) else d

/-- Of `n` steps on, the number that are slewed. -/
def Dev.slewed (d : Dev) (n : Nat) : Nat := min d.tbAdj.natAbs ((d.pac.slew % 64 + n) / 64)

/-- Ticks by which `n` steps advance the timebase. -/
def Dev.stepTicks (d : Dev) (n : Nat) : Nat := if 0 < d.tbAdj then 10 * n + d.slewed n else 10 * n - d.slewed n

/-- The timebase after `n` steps. -/
def Dev.tbSteps (d : Dev) (n : Nat) : Dev :=
  let a := d.tbAdj
  let k := d.slewed n
  let rest : Int := if 0 < a then a - k else a + k
  let d := d.modPac (fun p => { p with tb := (p.tb + d.stepTicks n) % 2 ^ 64, slew := if rest = 0 then 0 else p.slew + n })
  if k = 0 then d else d.wrWord Reg.PACE_TB_ADJ (BitVec.ofInt 32 rest)

/-- The least number of steps that advance the timebase by `x` ticks or more. -/
def Dev.stepsFor (d : Dev) (x : Nat) : Nat :=
  if x = 0 then 0
  else (List.range 64).reverse.foldl (fun n i => if d.stepTicks (n + 2 ^ i) < x then n + 2 ^ i else n) 0 + 1

/-! ### Sideband pins (R146 to R149) -/

/-- A pin's mode: 0 OFF, 1 INPUT, 2 EDGE, 3 OUTPUT (Table 4.6). -/
def Dev.sioMode (d : Dev) (n : Nat) : Nat := d.get (Reg.SIO_PIN_CTL_mode n)

/-- A pad takes a level; an edge of the selected kind on an EDGE pin counts (R148). -/
def Dev.sioEdge (d : Dev) (n : Nat) (level : Bool) : Dev :=
  let was := d.sio.pads.getLsbD n
  let sel := d.get (Reg.SIO_PIN_CTL_edge n)
  let hit := was != level && d.sioMode n == 2 && (if sel = 0 then level else if sel = 1 then !level else true)
  { d with sio := { d.sio with
      pads := if level then d.sio.pads ||| BitVec.ofNat 64 (2 ^ n) else d.sio.pads &&& ~~~ BitVec.ofNat 64 (2 ^ n)
      cnt := if hit then d.sio.cnt.put n (min (d.sio.cnt.get n 0 + 1) 255) 0 else d.sio.cnt } }

/-- The sample at a release (R147, R148). A pin that has left EDGE mode keeps its count until it is sampled in EDGE mode again (DESIGN
CHOICE, log entry 128). INPUT pins take their pad, an uncertain one (in `unsure`) its old or its new
level, a free value; EDGE pins show whether they counted, and their counts move to SIO_CNT. -/
def Dev.sioSample (d : Dev) (unsure : BitVec 64) : Dev :=
  let fv := d.freeVal
  let old := d.pair Reg.SIO_IN_LO Reg.SIO_IN_HI
  let seen (n : Nat) : Bool :=
    match d.sioMode n with
    | 1 => if unsure.getLsbD n then fv.getLsbD n else d.sio.pads.getLsbD n
    | 2 => decide (1 ≤ d.sio.cnt.get n 0)
    | _ => bitOf old n
  let d' := d.setPair Reg.SIO_IN_LO Reg.SIO_IN_HI (clkBits seen)
  let d' := each ((List.range 64).filter (fun n => d.sioMode n == 2)) (fun n e =>
    e.set ⟨Reg.SIO_CNT (n / 4), 8 * (n % 4), 8⟩ (d.sio.cnt.get n 0)) d'
  let d' := { d' with sio := { d'.sio with cnt := d'.sio.cnt.filter (fun e => d.sioMode e.1 != 2) } }
  if unsure = 0 then d' else d'.spend

/-- OUTPUT pins take the values the design committed (R149); `d` is the state settled at the end of wave W. -/
def Dev.sioCommit (d : Dev) (e : Dev) : Dev :=
  let out := d.pair Reg.SIO_OUT_LO Reg.SIO_OUT_HI
  let lit := (d.fab.pins.filter (fun p => decide (1520 ≤ p.1 % 2048) && decide (p.1 % 2048 < 1584) && p.2 % 2 == 1)).map
    (fun p => p.1 % 2048 - 1520)
  let e := e.setPair Reg.SIO_OUT_LO Reg.SIO_OUT_HI (clkBits (fun n => if d.sioMode n = 3 then decide (n ∈ lit) else bitOf out n))
  { e with sio := { e.sio with committed := true } }

end Sys2Proof.Machine
end

