-- ==== Sys2Proof/Machine/Memsec.lean ====
section
/-! DEFINITION. MEMSEC of chapter 7 of spec/ below the accesses: regions (R240 to R242), tags and nonces (R243, R244), the
metadata area (Table 7.9), the metadata cache (R245), and its halt (R248). Stack Mm is the local stack m mod 2 of base die
B(m div 2). -/

namespace Sys2Proof.Machine

/-- The stack offset at which the metadata area starts (R240). -/
def metaStart : Nat := 0x4D0000000

/-! ### Regions (R240 to R242) -/

/-- A region's range in stack offset: first byte and one past its last. -/
def Dev.rgnRange (d : Dev) (m r : Nat) : Nat × Nat :=
  let b := d.get (Reg.MEMSEC_RGN_RANGE_base (stackSel m) (m % 2) r) * 0x10000000
  (b, b + d.get (Reg.MEMSEC_RGN_RANGE_size (stackSel m) (m % 2) r) * 0x10000000)

/-- A region's state (Table 7.8): 0 INACTIVE, 1 INIT, 2 ACTIVE, 3 CLOSING. -/
def Dev.rgnState (d : Dev) (m r : Nat) : Nat := d.get (Reg.MEMSEC_RGN_STATUS_state (stackSel m) (m % 2) r)

/-- The region of a stack offset that is not INACTIVE. -/
def Dev.rgnAt (d : Dev) (m o : Nat) : Option Nat :=
  (List.range 4).find? (fun r =>
    d.rgnState m r != 0 && decide ((d.rgnRange m r).1 ≤ o) && decide (o < (d.rgnRange m r).2))

/-- The key in a MEMSEC key slot (Table 13.4: use 1). -/
def Dev.memsecKey (d : Dev) (slot : Nat) : List Byte := d.sec.keys.get (1 * 16 + slot) []

/-- The key of a region. -/
def Dev.rgnKey (d : Dev) (m r : Nat) : List Byte :=
  d.memsecKey (d.get (Reg.MEMSEC_RGN_CTL_key_slot (stackSel m) (m % 2) r))

/-- The key of the region that a line lies in. -/
def Dev.lineKey (d : Dev) (m line : Nat) : List Byte := ((d.rgnAt m (64 * line)).map (d.rgnKey m)).getD []

/-! ### Encryption and tags (R243, R244) -/

/-- The nonce of a line: stack, line, write counter (R243). -/
def lineNonce (m line ctr : Nat) : List Byte := toBytes (ctr + line * 2 ^ 64 + m * 2 ^ 93) 12

/-- Bytes combined with the keystream of a key and a nonce: encryption and decryption alike. -/
def xorStream (key nonce l : List Byte) : List Byte := l.zipIdx.map (fun e => e.1 ^^^ Config.gcmStream key nonce e.2)

/-- The 64-bit tag of a line: the GCM tag of its ciphertext, without additional data, truncated to its first 64 bits (R243). -/
def lineTag (key : List Byte) (m line ctr : Nat) (cipher : List Byte) : List Byte :=
  slice (Config.gcmTag key (lineNonce m line ctr) [] cipher) 0 8

/-- The 64-bit tag of counter block `i` of a level: the GMAC of its 64 bytes under a nonce from level, index and parent
counter (R244). -/
def blockTag (key : List Byte) (m level i parent : Nat) (block : List Byte) : List Byte :=
  slice (Config.gcmTag key (Config.blockNonce m level i parent) block []) 0 8

/-! ### The metadata area (R244, Table 7.9)

Block `i` of kind `l` (1 to 5) holds the counters 8 i to 8 i + 7 of level l - 1, that is those of lines for l = 1 and those of the
blocks of level l - 1 above; block `i` of kind 8 + l holds the tags 8 i to 8 i + 7 of level l, 0 the lines. -/

/-- Offset, size and kind of each part of the metadata area. -/
def metaTable : List (Nat × Nat × Nat) :=
  [(0, 0x80000000, 1), (0x80000000, 0x80000000, 8), (0x100000000, 0x10000000, 9), (0x110000000, 0x10000000, 2),
   (0x120000000, 0x2000000, 10), (0x122000000, 0x2000000, 3), (0x124000000, 0x400000, 11), (0x124400000, 0x400000, 4),
   (0x124800000, 0x80000, 12), (0x124880000, 0x80000, 5), (0x124900000, 0x10000, 13)]

/-- The offset of a block in the metadata area. -/
def metaOff (kind i : Nat) : Nat := (((metaTable.find? (fun e => e.2.2 == kind)).map (fun e => e.1)).getD 0) + 64 * i

/-- The kind and index of the block at an offset of the metadata area; none in its reserved part. -/
def metaAt (o : Nat) : Option (Nat × Nat) :=
  (metaTable.find? (fun e => decide (e.1 ≤ o) && decide (o < e.1 + e.2.1))).map (fun e => (e.2.2, (o - e.1) / 64))

/-- The first line that a block holds counters or tags for. -/
def metaLine (kind i : Nat) : Nat := if kind < 8 then i * 8 ^ kind else i * 8 ^ (kind - 8 + 1)

/-- The key of a counter or a tag: stack, level, index. -/
def ctrKey (m level i : Nat) : Nat := (m * 8 + level) * 2 ^ 32 + i

/-- The key of a metadata block: stack, kind, index. -/
def metaKey (m kind i : Nat) : Nat := (m * 16 + kind) * 2 ^ 32 + i

/-- The stack, kind and index of a block's key, and the stack offset of the first line it serves. -/
def keyStack (k : Nat) : Nat := k / 2 ^ 36
def keyKind (k : Nat) : Nat := k / 2 ^ 32 % 16
def keyIdx (k : Nat) : Nat := k % 2 ^ 32
def keyOff (k : Nat) : Nat := 64 * metaLine (keyKind k) (keyIdx k)

/-- The counter `i` of a level: 0 the lines, 1 to 4 the blocks of that level, 5 the root counters, on the die. -/
def Dev.ctr (d : Dev) (m level i : Nat) : Nat := d.msec.ctr.get (ctrKey m level i) 0

/-- The stack offset that a place of the data or the metadata area belongs to: its own, or that of its first line. -/
def ownerOf (o : Nat) : Nat :=
  if o < metaStart then o
  else
    match metaAt (o - metaStart) with
    | some (k, i) => 64 * metaLine k i
    | none => o

/-- Whether a stack offset belongs to an area: initialized with it, and not written as plain memory since. -/
def Area.holds (s : Area) (m o : Nat) : Bool :=
  s.stack == m && decide (s.lo ≤ ownerOf o) && decide (ownerOf o < s.hi) &&
    !s.plain.any (fun p => decide (p.1 ≤ o) && decide (o < p.2))

/-- The area that a stack offset belongs to. -/
def Dev.areaAt (d : Dev) (m o : Nat) : Option Area := d.msec.areas.find? (fun s => s.holds m o)

/-- What initialization stored for a byte of a line: zero data under counter 0. -/
def Area.first (s : Area) (m o : Nat) : Byte := Config.gcmStream s.key (lineNonce m (o / 64) 0) (o % 64)

/-- The tag that initialization stored for line or block `i` of a level (R242). -/
def Dev.firstTag (d : Dev) (m level i : Nat) : List Byte :=
  match d.areaAt m (64 * (i * 8 ^ level)) with
  | some s =>
    if level = 0 then lineTag s.key m i 0 ((List.range 64).map (fun j => s.first m (64 * i + j)))
    else blockTag s.key m level i 0 (List.replicate 64 0)
  | none => []

/-- The tag of line or block `i` of a level, as the cached or else the stored tag block holds it. -/
def Dev.tag (d : Dev) (m level i : Nat) : List Byte :=
  let t := d.msec.tags.get (ctrKey m level i) []
  if t = [] then d.firstTag m level i else t

/-- The 64 bytes of a metadata block: 8 counters or 8 tags of 8 bytes, least significant byte first. -/
def Dev.blockBytes (d : Dev) (m kind i : Nat) : List Byte :=
  (List.range 8).flatMap (fun j =>
    if kind < 8 then toBytes (d.ctr m (kind - 1) (8 * i + j)) 8 else slice (d.tag m (kind - 8) (8 * i + j)) 0 8)

/-- A metadata block takes 64 bytes. -/
def Dev.setBlock (d : Dev) (m kind i : Nat) (l : List Byte) : Dev :=
  each (List.range 8) (fun j (d : Dev) =>
    if kind < 8 then { d with msec := { d.msec with ctr := d.msec.ctr.put (ctrKey m (kind - 1) (8 * i + j)) (leAt l (8 * j) 8) 0 } }
    else { d with msec := { d.msec with tags := d.msec.tags.put (ctrKey m (kind - 8) (8 * i + j)) (slice l (8 * j) 8) [] } }) d

/-- The 64 bytes that the stack stores in a block's place: those of a dirty block are not written back yet (R245). -/
def Dev.storedBlock (d : Dev) (m kind i : Nat) : List Byte :=
  match d.msec.dirty.find? (fun e => e.1 == metaKey m kind i) with
  | some e => e.2
  | none => d.blockBytes m kind i

/-! ### The metadata cache (R245) -/

/-- A cached block is about to change: it is dirty, and the stack keeps what it stores. -/
def Dev.markDirty (d : Dev) (m kind i : Nat) : Dev :=
  if d.msec.dirty.any (fun e => e.1 == metaKey m kind i) then d
  else { d with msec := { d.msec with dirty := d.msec.dirty ++ [(metaKey m kind i, d.blockBytes m kind i)] } }

/-- A dirty block is written back, a counter block with a tag computed from its parent's current counter (R245). Its tag block
is then dirty where it is cached, and is written in the stack otherwise (DESIGN CHOICE, log entry 145). -/
def Dev.writeBack (d : Dev) (k : Nat) : Dev :=
  if ¬ d.msec.dirty.any (fun e => e.1 == k) then d
  else
    let m := keyStack k
    let l := keyKind k
    let i := keyIdx k
    let d : Dev := { d with msec := { d.msec with dirty := d.msec.dirty.filter (fun e => e.1 != k) } }
    if 8 ≤ l then d
    else
      let t := blockTag (d.lineKey m (metaLine l i)) m l i (d.ctr m l i) (d.blockBytes m l i)
      let d := if metaKey m (8 + l) (i / 8) ∈ d.msec.cache then d.markDirty m (8 + l) (i / 8) else d
      { d with msec := { d.msec with tags := d.msec.tags.put (ctrKey m l i) t [] } }

/-- A block leaves the cache, written back where it is dirty. -/
def Dev.metaEvict (d : Dev) (k : Nat) : Dev :=
  let d := d.writeBack k
  { d with msec := { d.msec with cache := without d.msec.cache k } }

/-- A verified block enters the cache of its stack, 16,384 blocks of 64 bytes, and counts as a miss. A full cache gives up a block of
its own choosing (a free value, log entry 16). -/
def Dev.metaEnter (d : Dev) (m kind i : Nat) : Dev :=
  let mine := d.msec.cache.filter (fun k => keyStack k == m)
  let d := d.wrap (Reg.MEMSEC_CACHE_MISSES_count (stackSel m) (m % 2))
  let d := if mine.length < 16384 then d else (d.metaEvict (mine.getD (d.freeVal.toNat % 16384) 0)).spend
  { d with msec := { d.msec with cache := d.msec.cache ++ [metaKey m kind i] } }

/-- The cached blocks that `p` names are written back, counter blocks before the tag blocks that they make dirty, and dropped
(R242). -/
def Dev.metaClose (d : Dev) (p : Nat → Bool) : Dev :=
  let mine := d.msec.cache.filter p
  each (mine.filter (fun k => decide (keyKind k < 8)) ++ mine.filter (fun k => decide (8 ≤ keyKind k))) (fun k d => d.metaEvict k) d

/-- The cached blocks that `p` names are dropped without writing back: the stack's own copies stand (R248). -/
def Dev.metaDrop (d : Dev) (p : Nat → Bool) : Dev :=
  let d := each (d.msec.dirty.filter (fun e => p e.1)) (fun e d => d.setBlock (keyStack e.1) (keyKind e.1) (keyIdx e.1) e.2) d
  { d with msec := { d.msec with cache := d.msec.cache.filter (fun k => !p k), dirty := d.msec.dirty.filter (fun e => !p e.1) } }

/-! ### Halt and wipe (R248, R436) -/

/-- The regions of a stack that are not INACTIVE: stack, first byte, one past the last. -/
def Dev.openRanges (d : Dev) (m : Nat) : List (Nat × Nat × Nat) :=
  ((List.range 4).filter (fun r => d.rgnState m r != 0)).map (fun r => (m, d.rgnRange m r))

/-- MEMSEC closes every protected session: caches dropped without writing back, halted set, and the regions that were not INACTIVE
shut (R248). -/
def Dev.memsecHalt (d : Dev) : Dev :=
  let d : Dev := { d with msec := { d.msec with shut := d.msec.shut ++ (List.range 8).flatMap d.openRanges } }
  (each (List.range 8) (fun m d => d.set (Reg.MEMSEC_STK_STATUS_halted (stackSel m) (m % 2)) 1) d).metaDrop (fun _ => true)

/-- Whether a stack offset lies in a region that a halt shut. -/
def Dev.shutAt (d : Dev) (m o : Nat) : Bool :=
  d.msec.shut.any (fun e => e.1 == m && decide (e.2.1 ≤ o) && decide (o < e.2.2))

/-- What a wipe of MEMSEC leaves: no cached metadata, root counters 0, every region INACTIVE with enable 0 (Table 13.9). -/
def Dev.memsecWipe (d : Dev) : Dev :=
  let d := d.metaDrop (fun _ => true)
  let d := each (List.range 8) (fun m d =>
    let d := each (List.range 4) (fun r d => d.set (Reg.MEMSEC_RGN_STATUS_state (stackSel m) (m % 2) r) 0) d
    d.set (Reg.MEMSEC_STK_CTL_enable (stackSel m) (m % 2)) 0) d
  { d with msec := { d.msec with ctr := d.msec.ctr.filter (fun e => e.1 / 2 ^ 32 % 8 != 5) } }

end Sys2Proof.Machine
end

