-- ==== Sys2Proof/Machine/Fields.lean ====
section
/-! DEFINITION. Participation of fields in completion (R104), actions of a field at a boundary (R24, R521), per-field resets
(R473), and the integrity halt (R385 to R388). -/

namespace Sys2Proof.Machine

/-! ### Statistics of an initiator (R200) -/

/-- An initiator's set counts a transaction that it injects. -/
def Dev.statInject (d : Dev) (sel i : Nat) : Dev :=
  let n := min (d.get (Reg.NOC_STAT_OUT_now sel i) + 1) 255
  let d := d.set (Reg.NOC_STAT_OUT_now sel i) n
  if d.on (Reg.NOC_STAT_CTL_en sel i) then
    d.set (Reg.NOC_STAT_OUT_peak sel i) (max n (d.get (Reg.NOC_STAT_OUT_peak sel i)))
  else d

/-- Edge j of an initiator's histogram. -/
def Dev.statEdge (d : Dev) (sel i j : Nat) : Nat :=
  if j % 2 = 0 then d.get (Reg.NOC_STAT_EDGE_edge_a sel i (j / 2)) else d.get (Reg.NOC_STAT_EDGE_edge_b sel i (j / 2))

/-- An initiator's set counts a transaction that ends after `ns`. -/
def Dev.statEnd (d : Dev) (sel i bytes ns : Nat) : Dev :=
  let d := d.set (Reg.NOC_STAT_OUT_now sel i) (d.get (Reg.NOC_STAT_OUT_now sel i) - 1)
  if ¬ d.on (Reg.NOC_STAT_CTL_en sel i) then d
  else
    let d := d.setPair (Reg.NOC_STAT_BYTES_LO sel i) (Reg.NOC_STAT_BYTES_HI sel i)
      ((d.pair (Reg.NOC_STAT_BYTES_LO sel i) (Reg.NOC_STAT_BYTES_HI sel i) + bytes) % 2 ^ 64)
    let d := d.setPair (Reg.NOC_STAT_TXN_LO sel i) (Reg.NOC_STAT_TXN_HI sel i)
      ((d.pair (Reg.NOC_STAT_TXN_LO sel i) (Reg.NOC_STAT_TXN_HI sel i) + 1) % 2 ^ 64)
    let j := ((List.range 15).find? (fun j => decide (ns < d.statEdge sel i j))).getD 15
    d.bump ⟨Reg.NOC_STAT_BUCKET sel i j, 0, 32⟩

/-- The number of a field's dock among those of its die (R200, R220), for port 8 j + p. -/
def dockNum (f q : Nat) : Nat := 2 * idxOf f + q / 8

/-! ### Participation (R104) -/

/-- Per-field bits of the FAB block. -/
def Dev.loaded (d : Dev) (f : Nat) : Bool := d.bit (Reg.FAB_FIELD_LOADED_loaded (dieOf f)) (idxOf f)
def Dev.excluded (d : Dev) (f : Nat) : Bool := d.bit (Reg.FAB_FIELD_EXCLUDE_exclude (dieOf f)) (idxOf f)
def Dev.frozen (d : Dev) (f : Nat) : Bool := d.bit (Reg.FAB_FROZEN_frozen (dieOf f)) (idxOf f)

/-- Marks a field loaded or not. -/
def Dev.setLoaded (d : Dev) (f : Nat) (b : Bool) : Dev := d.setBit (Reg.FAB_FIELD_LOADED_loaded (dieOf f)) (idxOf f) b

/-- Whether a field is being reconfigured (R350). -/
def Dev.reconfiguring (d : Dev) (f : Nat) : Bool := decide (f ∈ d.cfg.reconf)

/-- Whether nothing of R104 keeps a field out of completion. -/
def Dev.mayTakePart (d : Dev) (f : Nat) : Bool :=
  d.loaded f && !d.excluded f && !d.reconfiguring f && !d.frozen f && !d.heldDie (dieOf f)

/-- A field leaves completion: its storage elements hold what they show, and it gives up its wave and its reads (R77, R104). -/
def Dev.leave (d : Dev) (f : Nat) : Dev :=
  if d.part f then
    (d.holdQ f).setFld f { launched := (d.fld f).launched }
  else d

/-- A field joins completion with the values it holds (R104). -/
def Dev.join (d : Dev) (f : Nat) : Dev :=
  if d.part f then d else d.setFld f { part := true, launched := (d.fld f).launched }

/-- Fields that may have to join or leave. -/
def Dev.partCandidates (d : Dev) : List Nat :=
  (List.range 384).filter (fun f => d.part f != d.mayTakePart f)

/-- Every field enters or leaves completion as R104 says. -/
def Dev.updateParts (d : Dev) : Dev :=
  let fs := d.partCandidates
  let out := fs.filter (fun f => d.part f)
  let inn := fs.filter (fun f => !d.part f)
  each inn (fun f d => d.join f) (each out (fun f d => d.leave f) d)

/-- A change of participation that falls while the design rests applies at once (R521). -/
def Dev.updateIfAtRest (d : Dev) : Dev := if d.atRest then d.updateParts else d

/-! ### Actions of a field at a boundary -/

/-- Freezes a field (R363, R367), and ends a freeze (R368). -/
def Dev.setFrozen (d : Dev) (f : Nat) (b : Bool) : Dev := d.setBit (Reg.FAB_FROZEN_frozen (dieOf f)) (idxOf f) b

/-- A per-field reset (R63, R76, R181, Table 14.6). -/
def Dev.fieldReset (d : Dev) (f : Nat) : Dev :=
  (((d.initQ f).clearWires f).clearBinOut f).resetTiles f

/-- A field's state-access reads as 0 and takes no writes: it is being reconfigured, or its die is held (R120, R41). -/
def Dev.stateBlind (d : Dev) (f : Nat) : Bool := d.reconfiguring f || d.heldDie (dieOf f)

/-- The 4,096 bytes of minor 0 of a state-capture frame (R121). -/
def Dev.stateFrame (d : Dev) (f col : Nat) : List Byte :=
  if d.stateBlind f then List.replicate 4096 0
  else (List.range 4096).map (fun b => BitVec.ofNat 8 (d.captureByte (stook f col (b / 128)) 0 (b % 128)))

/-- A force or release of one storage element (R122). -/
def Dev.forceAct (d : Dev) (k n : Nat) (v : Option Bool) : Dev :=
  if d.stateBlind (stookField k) then d
  else
    match v with
    | some b => (d.captureWriteBit k 2 n b).captureWriteBit k 1 n true
    | none => d.captureWriteBit k 1 n false

/-- A release of every forced element of a field (R122). -/
def Dev.releaseAll (d : Dev) (f : Nat) : Dev :=
  if d.stateBlind f then d
  else
    each ((d.fab.force.filter (fun e => stookField (e.1 / 128) == f)).map (fun e => e.1))
      (fun key d => d.captureWriteBit (key / 128) 1 (key % 128) false) d

/-- A freeze, unfreeze or per-field reset takes effect; PWR_FLD_RESET and GLEAN_UNFREEZE then read 0 (R368, R473). -/
def Dev.simpleAct (d : Dev) (a : BAct) : Dev :=
  match a with
  | .freeze f => d.setFrozen f true
  | .unfreeze f => (d.setFrozen f false).setBit (Reg.GLEAN_UNFREEZE_release (dieOf f)) (idxOf f) false
  | .margin die v =>
    if d.get (Reg.FAB_WAVE_CTL_margin die) < v ∧ d.on (Reg.PWR_WEAR_CTL_auto die) then d.set (Reg.FAB_WAVE_CTL_margin die) v else d
  | .fieldReset f => (d.fieldReset f).setBit (Reg.PWR_FLD_RESET_reset (dieOf f)) (idxOf f) false
  | .force k n v => d.forceAct k n v
  | .releaseAll f => d.releaseAll f
  | .stateRead m f col =>
    let x := d.mbs.get m {}
    { d with mbs := d.mbs.put m { x with job := x.job.map (fun j => { j with data := d.stateFrame f col }) } {} }
  | _ => d

/-- Such an action applies at once while the design rests, and waits for the next boundary otherwise (R521). -/
def Dev.actOrQueue (d : Dev) (a : BAct) : Dev :=
  if d.atRest then (d.simpleAct a).updateParts else { d with bacts := d.bacts ++ [a] }

/-- While PWR_WEAR_CTL.auto is 1, a recommended margin above the die's own is written to it at the next boundary (R459). -/
def Dev.wearDue (d : Dev) (c : Nat) : Dev :=
  let m := d.get (Reg.PWR_WEAR_STATUS_margin_rec c)
  if d.on (Reg.PWR_WEAR_CTL_auto c) ∧ d.get (Reg.FAB_WAVE_CTL_margin c) < m then d.actOrQueue (.margin c m) else d

/-! ### Integrity halt (R385 to R388, Table 11.9) -/

/-- Every key slot is cleared (R428). -/
def Dev.clearKeys (d : Dev) : Dev :=
  let ls := (d.links.map (fun e => (e.1, { e.2 with keyNew := 0 }))).filter (fun e => e.2 != {})
  { d with sec := { d.sec with keys := [] }, links := ls }

/-- Every lane in UP will send one HALTED frame; every other lane enters IDLE_FORCED; every link enters HALTED (R268,
R289). -/
def Dev.lanesHalt (d : Dev) : Dev :=
  each [0, 1, 2, 3] (fun b d =>
    each (List.range 48) (fun n d =>
      let sel := baseSel b
      let d := d.set (Reg.LCH_LINK_STATUS_state sel n) 5
      if d.get (Reg.LANE_STATUS_state sel n) = 4 then
        { d with lanes := d.lanes.put (48 * b + n) { d.lanes.get (48 * b + n) {} with haltDue := true } {} }
      else d.set (Reg.LANE_STATUS_state sel n) 6) d) d

/-- A field's part in completion before wave 1. -/
def FieldDyn.fresh (x : FieldDyn) : FieldDyn :=
  { x with wave := 0, st := .idle, delay := false, unacked := 0, latent := [], issued := false }

/-- Every field stops without a commit: the cycle in progress will be the next again. A field that evaluates finishes its wave first,
and stops then (R110, R111, R386, R387). -/
def Dev.fieldsStop (d : Dev) : Dev :=
  let d : Dev := { d with flds := d.flds.map (fun e => (e.1, if e.2.st = .eval then e.2 else e.2.fresh)) }
  let d := d.modFab (fun x => { x with srq := [] })
  if d.running ∧ d.pac.phase = .waves then
    (d.modPac (fun p => { p with next := d.pair Reg.PACE_CYCLE_TIME_LO Reg.PACE_CYCLE_TIME_HI })).showCycle
      d.pac.last.1 d.pac.last.2.1 d.pac.last.2.2
  else d

/-- The cause of a halt is latched (Table 11.9, Table 11.11). -/
def Dev.haltCause (d : Dev) (cls die unit address : Nat) : Dev :=
  let d := (d.set Reg.ERR_HALT_STATUS_cause_valid 1).set Reg.ERR_HALT_CAUSE_class cls
  let d := (d.set Reg.ERR_HALT_CAUSE_die die).set Reg.ERR_HALT_CAUSE_block (cls / 0x100)
  let d := d.set Reg.ERR_HALT_UNIT_unit unit
  (d.setPair Reg.ERR_HALT_TIME_LO Reg.ERR_HALT_TIME_HI d.now).setPair Reg.ERR_HALT_ADDR_LO Reg.ERR_HALT_ADDR_HI
    (address % 2 ^ 48)

/-- An integrity halt with its class, source die, unit and address. A halt while halted only counts; a latched
cause that outlived a warm reset stays (R388; DEDUCED, log entry 44). -/
def Dev.integrityHalt (d : Dev) (cls die unit : Nat) (address : Nat := 0) (flags : BitVec 8 := 0) : Dev :=
  if d.halted then d.bump Reg.ERR_HALT_STATUS_halt_count
  else
    let latched := d.on Reg.ERR_HALT_STATUS_cause_valid
    let d := d.set Reg.ERR_HALT_STATUS_halted 1
    let d := if latched then d.bump Reg.ERR_HALT_STATUS_halt_count else d.haltCause cls die unit address
    let d := if d.cfg.started then (d.set Reg.CFG_STATUS_state 0).hostEvent 19 else d
    let d := { d with cfg := { d.cfg with errDrive := true, started := false, reading := .none, waiting := [], fence := false } }
    let d := d.report { die := die, unit := unit, severity := 5, cls := cls, address := address, flags := flags }
    let d := d.fieldsStop
    let d := if d.running then d.pacerStop 9 else d.set Reg.PACE_STATUS_stop_cause 9
    (d.lanesHalt.memsecHalt).clearKeys

end Sys2Proof.Machine
end

