-- ==== Sys2Proof/Machine/Directory.lean ====
section
/-! DEFINITION. Where an address lies in the HBM stacks and which die is a line's home (R208, R223 to R229), and the directories of
the homes (R210 to R213): every write of a home's memory passes them. -/

namespace Sys2Proof.Machine

/-! ### Address mapping (R225 to R229) -/

/-- The size of a stack: 16 channels of two pseudo-channels of 768 MiB (R223). -/
def stackBytes : Nat := 0x600000000

/-- The order in force: 0 LINEAR, 1 CHANNEL_INTERLEAVE, 2 BANK_INTERLEAVE; 3 acts as 1. -/
def Dev.hbmOrder (d : Dev) : Nat :=
  let o := d.get (Reg.HBM_MAP_CTL_order (baseSel 0))
  if o = 3 then 1 else o

/-- The stack and stack offset of a physical address under an order (R226). -/
def hbmSplit (order a : Nat) : Nat × Nat :=
  if order = 1 then (a / 256 % 8, a / 2048 * 256 + a % 256) else (a / stackBytes, a % stackBytes)

/-- The physical address of a stack offset. -/
def hbmJoin (order m o : Nat) : Nat :=
  if order = 1 then o / 256 * 2048 + m * 256 + o % 256 else m * stackBytes + o

/-- Where a byte lies in a stack (R223): channel 0 to 15, pseudo-channel 0 or 1 of it, SID 0 to 2, bank group 0 to 3, bank 0 to 3 of it,
row 0 to 16,383, burst 0 to 31 of its 1 KiB page, byte 0 to 31. -/
structure HbmPlace where
  channel : Nat
  pc : Nat
  sid : Nat
  group : Nat
  bank : Nat
  row : Nat
  burst : Nat
  byte : Nat
  deriving DecidableEq, Repr

/-- The decode of an offset in a pseudo-channel under LINEAR (R227, Table 7.2). -/
def placeLinear (o : Nat) : HbmPlace :=
  let g := o / 0x30000000
  let u := o % 0x30000000
  { channel := g / 2, pc := g % 2, sid := u / 2 ^ 28, group := u / 2 ^ 12 % 4, bank := u / 2 ^ 10 % 4, row := u / 2 ^ 14 % 2 ^ 14,
    burst := u / 32 % 32, byte := u % 32 }

/-- The decode of an address under CHANNEL_INTERLEAVE (R228, Table 7.3). -/
def placeChannel (a : Nat) : HbmPlace :=
  { channel := a / 2 ^ 11 % 16, pc := a / 2 ^ 15 % 2, sid := a / 2 ^ 36 % 4, group := a / 2 ^ 20 % 4, bank := a / 2 ^ 18 % 4,
    row := a / 2 ^ 22 % 2 ^ 14, burst := a / 2 ^ 5 % 8 + 8 * (a / 2 ^ 16 % 4), byte := a % 32 }

/-- The decode of a stack offset under BANK_INTERLEAVE (R229, Table 7.4); line n of a page is its bursts 2 n and 2 n + 1. -/
def placeBank (o : Nat) : HbmPlace :=
  { channel := o / 2 ^ 6 % 16, pc := o / 2 ^ 14 % 2, sid := o / 2 ^ 33, group := o / 2 ^ 10 % 4, bank := o / 2 ^ 12 % 4,
    row := o / 2 ^ 19 % 2 ^ 14, burst := 2 * (o / 2 ^ 15 % 16) + o / 32 % 2, byte := o % 32 }

/-- Where a physical address lies in its stack, under an order. -/
def hbmPlace (order a : Nat) : HbmPlace :=
  match order with
  | 0 => placeLinear (a % stackBytes)
  | 1 => placeChannel a
  | _ => placeBank (a % stackBytes)

/-- The pseudo-channel of a physical address, 2 × channel + pseudo-channel (R227 to R229, Table 7.10). -/
def hbmPc (order a : Nat) : Nat := 2 * (hbmPlace order a).channel + (hbmPlace order a).pc

/-- The pseudo-channel controller of its base die that serves a physical address: controller k serves channel k mod 16 of local
stack k div 16 (R223). -/
def hbmController (order a : Nat) : Nat := 16 * ((hbmSplit order a).1 % 2) + (hbmPlace order a).channel

/-- The NI of a controller: NI 2 s carries channels 0 to 7 of local stack s, NI 2 s + 1 channels 8 to 15 (Table 6.1). -/
def controllerNi (k : Nat) : Nat := 2 * (k / 16) + k % 16 / 8

/-- The home of a line (R208). -/
def Dev.homeOf (d : Dev) (a : Nat) : Nat :=
  if a < 0x3000000000 then (hbmSplit d.hbmOrder a).1 / 2 else (a - 0x4000000000) / 0x1800000

/-! ### Directory (R210 to R213) -/

/-- A directory entry of a line; none where the line has no entry. -/
def Dev.dirAt (d : Dev) (line : Nat) : Option DirEntry := (d.rc.dir.find? (fun e => e.1 == line)).map (fun e => e.2)

/-- Sets or frees a line's entry. -/
def Dev.setDir (d : Dev) (line : Nat) (e : Option DirEntry) : Dev :=
  { d with rc := { d.rc with dir := match e with
                                    | some e => (d.rc.dir.erase line).insert line e
                                    | none => d.rc.dir.erase line } }

/-- The compute dies of a sharer vector. -/
def sharerList (v : BitVec 12) : List Nat := (List.range 12).filter (fun c => v.getLsbD c)

/-- The next order number of packets (R195). -/
def Dev.countUp (d : Dev) : Dev := { d with noc := { d.noc with count := d.noc.count + 1 } }

/-- INVAL on its way from a line's home to a compute die. The spec gives these messages no route ids of their own: they stand at their
destination at once, and are taken there in the order sent (DESIGN CHOICE, log entry 47; R212). -/
def Dev.sendInval (d : Dev) (line c : Nat) : Dev :=
  Dev.countUp { d with noc := { d.noc with flights := d.noc.flights ++
      [{ pkt := { vc := 3, type := 0xB, addr := line, dst := c * 2048, src := (baseSel (d.homeOf line)) * 2048 },
         die := c, router := 0, arrived := true, sent := d.noc.count, came := d.noc.count }] } }

/-- The compute dies of a vector that are not held: a held one acknowledges at once (R206). -/
def Dev.liveSharers (d : Dev) (v : BitVec 12) : BitVec 12 :=
  (sharerList v).foldl (fun m c => if d.heldDie c then m &&& ~~~(1#12 <<< c) else m) v

/-- INVAL goes to the compute dies of `dests`; each is counted (RCACHE_DIR_INVALS). The entry keeps the sharers `left`, waits for the
acknowledgments of those that are not held, and with `frees` is then free. True says that there is nothing to wait for. -/
def Dev.sendInvals (d : Dev) (line : Nat) (dests left : BitVec 12) (frees : Bool) : Bool × Dev :=
  let live := d.liveSharers dests
  let d := d.wrap (Reg.RCACHE_DIR_INVALS_count (baseSel (d.homeOf line))) (sharerList dests).length
  let d := each (sharerList live) (fun c d => d.sendInval line c) d
  if live = 0 then (true, d.setDir line (if frees then none else some { sharers := left }))
  else (false, d.setDir line (some { sharers := left, pend := live, frees := frees }))

/-- Before a write of HBM or the granary the line's sharers are invalidated, but for a writing remote cache's own die `c`, whose bit
stays as it was (Table 6.7): true says that the write may go on. -/
def Dev.dirWrite (d : Dev) (a : Nat) (c : Option Nat := none) : Bool × Dev :=
  let line := a / 64 * 64
  match d.dirAt line with
  | none => (true, d)
  | some e =>
    if e.pend ≠ 0 then (false, d)
    else
      match c with
      | none => d.sendInvals line e.sharers 0 true
      | some c =>
        let own : BitVec 12 := 1#12 <<< c
        if e.sharers &&& ~~~own = 0 then (true, d) else d.sendInvals line (e.sharers &&& ~~~own) (e.sharers &&& own) false

/-- The entry of a line once the acknowledgments of `v` have come: a home that waits for no further one goes on (R212, R213). -/
def DirEntry.acked (e : DirEntry) (v : BitVec 12) : Option DirEntry :=
  if e.pend &&& ~~~v = 0 ∧ e.pend ≠ 0 ∧ e.frees then none
  else some { e with pend := e.pend &&& ~~~v, frees := e.frees && e.pend &&& ~~~v != 0 }

/-- A write of many lines of a home's memory at once, those that `p` names, invalidates their sharers as other writes do (R210): true
says that no entry of them is left, and the write may go on. -/
def Dev.dirPurge (d : Dev) (p : Nat → Bool) : Bool × Dev :=
  let d := each (d.rc.dir.filter (fun e => p e.1 && e.2.pend == 0)) (fun e d => (d.sendInvals e.1 e.2.sharers 0 true).2) d
  (d.rc.dir.all (fun e => !p e.1), d)

end Sys2Proof.Machine
end

