-- ==== Sys2Proof/Machine/Hbm.lean ====
section
/-! DEFINITION. The HBM stacks and MEMSEC of chapter 7 of spec/ (R223 to R250): address mapping, access states, controller
ECC, protected regions, initialization, training and frequency change. Stack Mm is the local stack m mod 2 of base die
B(m div 2). HBM bytes stand in memory at their physical address; the marks of a 32 B burst stand at its address. -/

namespace Sys2Proof.Machine

/-- A stack's controller. -/
def Dev.stack (d : Dev) (m : Nat) : Stack := d.stk.get m {}
def Dev.setStack (d : Dev) (m : Nat) (v : Stack) : Dev := { d with stk := d.stk.put m v {} }

/-- A stack's state (Table 7.10): 0 OFF, 1 INIT, 2 READY, 3 FREQ_CHANGE, 4 OVERHEAT, 5 FAILED. -/
def Dev.stackState (d : Dev) (m : Nat) : Nat := d.get (Reg.HBM_STK_STATUS_state (stackSel m) (m % 2))
def Dev.setStackState (d : Dev) (m n : Nat) : Dev := d.set (Reg.HBM_STK_STATUS_state (stackSel m) (m % 2)) n

/-- CLK_PLL_STATUS shows whether the PHY of a stack is locked (Table 14.10). -/
def Dev.showLock (d : Dev) (m : Nat) (v : Bool) : Dev := d.setBit (Reg.CLK_PLL_STATUS_lock (stackSel m)) (1 + m % 2) v

/-! ### Controller ECC (R237) -/

/-- The address check of a burst at a stack offset: its bits [37:5], folded by XOR into 6 bits, from the lowest up (DEDUCED, log entry
146). -/
def addrFold (o : Nat) : BitVec 6 :=
  (List.range 6).foldl (fun x i => x ^^^ BitVec.ofNat 6 (o / 32 % 2 ^ 33 / 2 ^ (6 * i))) 0

/-- The address check that a burst at a stack offset holds: the one written with it, with the flips of its 6 bits, positions 266 to 271
of the unit after 256 data bits and 10 code bits. -/
def storedFold (o : Nat) (k : Mark) : BitVec 6 :=
  k.flips.foldl (fun x i => if 266 ≤ i then x ^^^ BitVec.ofNat 6 (2 ^ (i - 266)) else x) (addrFold o)

/-- The flips of a burst that its SEC-DED code sees: those of its data and of the code's own bits. -/
def codeFlips (k : Mark) : List Nat := k.flips.filter (fun i => decide (i < 266))

/-- Whether a burst reads as uncorrectable: poison, an address check that disagrees, or two flips. -/
def Mark.burstBad (k : Mark) (o : Nat) : Bool :=
  k.poison || storedFold o k != addrFold o || decide (2 ≤ (codeFlips k).length)

/-- Whether the burst at a physical address reads as uncorrectable, and whether it reads with one flip corrected. -/
def Dev.burstBad (d : Dev) (b : Nat) : Bool := (d.mark b).burstBad (hbmSplit d.hbmOrder b).2
def Dev.burstSingle (d : Dev) (b : Nat) : Bool := !d.burstBad b && (codeFlips (d.mark b)).length == 1

/-! ### Error records and counts (Table 7.7) -/

/-- Counts a corrected burst (R238, R373). -/
def Dev.hbmCe (d : Dev) (m : Nat) : Dev :=
  (d.bump (Reg.HBM_STK_ERRCNT_ce (stackSel m) (m % 2))).scrubBucket (stackSel m) (1 + m % 2)

/-- Counts an uncorrectable burst. -/
def Dev.ueCount (d : Dev) (m : Nat) : Dev := d.bump (Reg.HBM_STK_ERRCNT_ue (stackSel m) (m % 2))

/-- Counts an uncorrectable burst and writes its record. -/
def Dev.hbmUe (d : Dev) (m severity a : Nat) : Dev :=
  (d.ueCount m).errAt (stackSel m) (m % 2) severity 0x0806 a (Config.syndrome (d.mark a).flips)

/-- A read of bursts of a stack: the corrected ones are counted, and the uncorrectable ones counted and recorded (Table 7.7). -/
def Dev.readBursts (d : Dev) (m : Nat) (l : List Nat) : Dev :=
  each l (fun b d => if d.burstBad b then d.hbmUe m 3 b else if d.burstSingle b then d.hbmCe m else d) d

/-- The bursts that `n` bytes from an address touch. -/
def hbmBursts (a n : Nat) : List Nat :=
  ((List.range 3).map (fun i => a / 32 * 32 + 32 * i)).filter (fun b => decide (b < a + n))

/-! ### What a stack stores (R242 to R244) -/

/-- The byte that a stack stores at an offset: in an area that a protected region was initialized over the ciphertext, and the
counters and tags of its lines in the metadata area. -/
def Dev.storedByte (d : Dev) (order m o : Nat) : Byte :=
  match d.areaAt m o with
  | none => d.mem.read (hbmJoin order m o)
  | some s =>
    if o < metaStart then d.mem.read (hbmJoin order m o) ^^^ s.first m o
    else
      match metaAt (o - metaStart) with
      | some (k, i) => (d.storedBlock m k i).getD (o % 64) 0
      | none => 0

/-- The 64 bytes that a stack stores in a line. -/
def Dev.storedLine (d : Dev) (order m line : Nat) : List Byte := (List.range 64).map (fun j => d.storedByte order m (64 * line + j))

/-- A stack stores 64 bytes in a line of a protected area. -/
def Dev.putLine (d : Dev) (order m line : Nat) (l : List Byte) : Dev :=
  let first (j : Nat) : Byte := match d.areaAt m (64 * line) with
    | some s => s.first m (64 * line + j)
    | none => 0
  { d with mem := (List.range 64).foldl (fun x j => x.write (hbmJoin order m (64 * line + j)) (l.getD j 0 ^^^ first j)) d.mem }

/-- Before plain memory is written in such an area, the line becomes the bytes it reads as. -/
def Dev.unsealLine (d : Dev) (order m o : Nat) : Dev :=
  match d.areaAt m o with
  | none => d
  | some s =>
    let lo := o / 64 * 64
    let l := d.storedLine order m (o / 64)
    { d with
      mem := (List.range 64).foldl (fun x j => x.write (hbmJoin order m (lo + j)) (l.getD j 0)) d.mem
      msec := { d.msec with areas := d.msec.areas.map (fun t =>
        if t = s then { t with plain := t.plain ++ [(lo, lo + 64)] } else t) } }

/-! ### Accesses -/

/-- What keeps an access to a stack from being served: a bus error with its record, or a wait (R230, R231, R233, R236, R240,
R242, R248, R462). -/
def Dev.hbmGate (d : Dev) (a : Nat) : Option (BusRes × Dev) :=
  let order := d.hbmOrder
  let (m, o) := hbmSplit order a
  let sel := stackSel m
  let st := d.stackState m
  if st = 0 ∨ st = 1 ∨ st = 5 then some (.err, d.errAt sel (m % 2) 3 0x0801 a)
  else if d.on (Reg.MEMSEC_STK_CTL_enable sel (m % 2)) ∧ metaStart ≤ o then some (.err, d.errAt sel (m % 2) 3 0x0807 a)
  else
    let r := d.rgnAt m o
    if d.shutAt m o then some (.err, d)
    else if (r.map (fun r => d.rgnState m r)).getD 2 ≠ 2 then some (.err, d.errAt sel (m % 2) 3 0x0906 a)
    else if d.bit (Reg.HBM_STK_PC_FAILED_failed sel (m % 2)) (hbmPc order a) then some (.err, d)
    else if st = 3 ∨ st = 4 ∨ (d.stack m).unlocked then some (.wait, d)
    else if d.bit (Reg.HBM_STK_PC_BUSY_busy sel (m % 2)) (hbmPc order a) then some (.wait, d)
    else none

/-- A failed tag: an integrity halt, and the access ends in a bus error (R247, R248). -/
def Dev.tagFail (d : Dev) (m cls a : Nat) : BusRes × Dev := (.err, d.integrityHalt cls (stackSel m) (m % 2) a addrValid)

/-! ### Metadata lookups (R245, R247) -/

/-- The two bursts of a metadata block. -/
def blockBursts (order m kind i : Nat) : List Nat :=
  [hbmJoin order m (metaStart + metaOff kind i), hbmJoin order m (metaStart + metaOff kind i + 32)]

/-- A metadata block is read from the stack, with what became of it: its bits that flipped, and the 64 bytes that stand there. Single
errors are counted. An uncorrectable block is no data: MEMSEC_META and MEMSEC_META_ERR (R247). -/
def Dev.fetchBlock (d : Dev) (m kind i a : Nat) (u : Upset) : Except (BusRes × Dev) (List Byte × Dev) :=
  let order := d.hbmOrder
  let b := hbmJoin order m (metaStart + metaOff kind i)
  let d :=
    match u.metaFlips.find? (fun e => e.1 == kind) with
    | some e => d.setMark b { d.mark b with flips := toggleAll (d.mark b).flips e.2 }
    | none => d
  let l := blockBursts order m kind i
  let bad := l.filter d.burstBad
  let d := each (l.filter d.burstSingle) (fun _ d => d.hbmCe m) d
  if bad ≠ [] then
    let d := each bad (fun _ d => d.ueCount m) d
    .error (.err, (d.bump (Reg.MEMSEC_META_ERR_ue (stackSel m) (m % 2))).errAt (stackSel m) (m % 2) 3 0x0909 a)
  else
    .ok (((u.blocks.find? (fun e => e.1 == kind)).map (fun e => slice e.2 0 64)).getD (d.storedBlock m kind i), d)

/-- Looks up a tag block: a hit, or a fetch. Tag blocks carry no tag of their own. -/
def Dev.lookTags (d : Dev) (m kind i a : Nat) (u : Upset) : Except (BusRes × Dev) Dev :=
  if metaKey m kind i ∈ d.msec.cache then .ok (d.wrap (Reg.MEMSEC_CACHE_HITS_count (stackSel m) (m % 2)))
  else
    match d.fetchBlock m kind i a u with
    | .error e => .error e
    | .ok (l, d) => .ok ((d.setBlock m kind i l).metaEnter m kind i)

/-- Looks up the counter block of a level on a line's path, once its parent has been looked up: a hit, or a fetch that is verified
against its parent counter (R245, R247). -/
def Dev.lookCtrs (d : Dev) (m line level a : Nat) (u : Upset) : Except (BusRes × Dev) Dev :=
  let i := line / 8 ^ level
  if metaKey m level i ∈ d.msec.cache then .ok (d.wrap (Reg.MEMSEC_CACHE_HITS_count (stackSel m) (m % 2)))
  else
    match d.lookTags m (8 + level) (i / 8) a u with
    | .error e => .error e
    | .ok d =>
      match d.fetchBlock m level i a u with
      | .error e => .error e
      | .ok (l, d) =>
        if blockTag (d.lineKey m line) m level i (d.ctr m level i) l ≠ slice (d.tag m level i) 0 8 then
          .error (d.tagFail m 0x0908 a)
        else .ok ((d.setBlock m level i l).metaEnter m level i)

/-- Lookups one after another, to the first that fails. -/
def lookAll (l : List Nat) (f : Nat → Dev → Except (BusRes × Dev) Dev) (d : Dev) : Except (BusRes × Dev) Dev :=
  l.foldl (fun x k => match x with
    | .ok d => f k d
    | .error e => .error e) (.ok d)

/-- The lookups of an access to a line: the block of its tag, and counter blocks from the innermost that is cached (`all`: of every
level, as a write needs) down to level 1, each verified before those below it (R245, R246). -/
def Dev.metaAccess (d : Dev) (m line a : Nat) (all : Bool) (u : Upset) : Except (BusRes × Dev) Dev :=
  match d.lookTags m 8 (line / 8) a u with
  | .error e => .error e
  | .ok d =>
    let inner := ([1, 2, 3, 4, 5].find? (fun l => decide (metaKey m l (line / 8 ^ l) ∈ d.msec.cache))).getD 5
    lookAll ((List.range (if all then 5 else inner)).reverse.map (· + 1)) (fun l d => d.lookCtrs m line l a u) d

/-- The keys of the counters on a line's path: the line's own and that of its block at each level (R246). -/
def ctrPath (m line : Nat) : List Nat := (List.range 6).map (fun l => ctrKey m l (line / 8 ^ l))

/-- Whether a counter on a line's path is at its end (R246). -/
def Dev.ctrAtEnd (d : Dev) (m line : Nat) : Bool :=
  (ctrPath m line).any (fun k => d.msec.ctr.get k 0 == 2 ^ 64 - 1)

/-- Counts a write of a line: the counters of its path step, in blocks that are then dirty (R245, R246). -/
def Dev.ctrBump (d : Dev) (m line : Nat) : Dev :=
  let d := each [1, 2, 3, 4, 5] (fun l d => d.markDirty m l (line / 8 ^ l)) d
  { d with msec := { d.msec with ctr := (ctrPath m line).foldl (fun c k => c.put k (c.get k 0 + 1) 0) d.msec.ctr } }

/-- A line's tag is stored, in its cached tag block (R245, R246). -/
def Dev.putTag (d : Dev) (m line : Nat) (t : List Byte) : Dev :=
  let d := d.markDirty m 8 (line / 8)
  { d with msec := { d.msec with tags := d.msec.tags.put (ctrKey m 0 line) t [] } }

/-- A line was altered behind the device's back: the stack stores other bytes there, with check bits that agree. -/
def Dev.alterLine (d : Dev) (order m line : Nat) (u : Upset) : Dev :=
  match u.line with
  | some l => d.putLine order m line (slice l 0 64)
  | none => d

/-- Whether the tag of a line agrees with its ciphertext and counter (R247). -/
def Dev.lineGood (d : Dev) (order m line : Nat) : Bool :=
  lineTag (d.lineKey m line) m line (d.ctr m 0 line) (d.storedLine order m line) == slice (d.tag m 0 line) 0 8

/-- The data of a line: its ciphertext decrypted under its counter. -/
def Dev.plainLine (d : Dev) (order m line : Nat) : List Byte :=
  xorStream (d.lineKey m line) (lineNonce m line (d.ctr m 0 line)) (d.storedLine order m line)

/-- A line takes 64 bytes of data, encrypted under its counter, with their tag (R243, R246). -/
def Dev.sealLine (d : Dev) (order m line : Nat) (l : List Byte) : Dev :=
  let c := xorStream (d.lineKey m line) (lineNonce m line (d.ctr m 0 line)) l
  (d.putLine order m line c).putTag m line (lineTag (d.lineKey m line) m line (d.ctr m 0 line) c)

/-! ### Reads and writes (R238, R239, R246, R247) -/

/-- The bursts of a line. -/
def lineBursts (a : Nat) : List Nat := hbmBursts (a / 64 * 64) 64

/-- A read of a protected line: its metadata, the line's bursts, its tag, and its data (R247). -/
def Dev.protRead (d : Dev) (order m o a n : Nat) (u : Upset) : BusRes × Dev :=
  let line := o / 64
  match (d.alterLine order m line u).metaAccess m line a false u with
  | .error e => e
  | .ok d =>
    let e := d.readBursts m (lineBursts a)
    if (lineBursts a).any d.burstBad then (.err, e)
    else if ¬ e.lineGood order m line then e.tagFail m 0x0908 a
    else (.ok (slice (e.plainLine order m line) (o % 64) n), e)

/-- A read of up to 64 bytes within one 64-byte block; `u` says what became of the stored line and its metadata (R238,
R247). -/
def Dev.hbmRead (d : Dev) (a n : Nat) (u : Upset := {}) : BusRes × Dev :=
  match d.hbmGate a with
  | some r => r
  | none =>
    let order := d.hbmOrder
    let (m, o) := hbmSplit order a
    if (d.rgnAt m o).isSome then d.protRead order m o a n u
    else
      let e := d.readBursts m (hbmBursts a n)
      if (hbmBursts a n).any d.burstBad then (.err, e)
      else (.ok ((List.range n).map (fun i => d.storedByte order m (o + i))), e)

/-- Stores the enabled bytes of a write of plain memory, burst by burst (R239). -/
def Dev.hbmStore (d : Dev) (m a : Nat) (l : List (Byte × Bool)) : Dev :=
  let d := each (hbmBursts a l.length) (fun b d =>
    let ens := (List.range 32).map (fun i => decide (a ≤ b + i) && (l.getD (b + i - a) (0, false)).2)
    if ens.all id then d.setMark b {}
    else if !ens.any id then d
    else if d.burstBad b then
      (({ d.hbmUe m 2 b with mem := d.mem.writeBytes b (asStored (d.mem.readBytes b 32) (d.mark b)) } : Dev).setMark b
        { poison := true })
    else if d.burstSingle b then (d.hbmCe m).setMark b {}
    else d) d
  { d with mem := d.mem.writeMasked a l }

/-- The bytes of a line with a masked write at byte `k` merged in. -/
def mergeAt (old : List Byte) (k : Nat) (l : List (Byte × Bool)) : List Byte :=
  old.zipIdx.map (fun e => if k ≤ e.2 ∧ (l.getD (e.2 - k) (0, false)).2 then (l.getD (e.2 - k) (0, false)).1 else e.1)

/-- A write of a protected line: its metadata; for a part of it the old line, read and verified; its counters; and the new line under the
new counter (R246). -/
def Dev.protWrite (d : Dev) (order m o a : Nat) (l : List (Byte × Bool)) (u : Upset) : BusRes × Dev :=
  let line := o / 64
  let whole := decide (l.length = 64) && l.all (fun x => x.2)
  match (d.alterLine order m line u).metaAccess m line a true u with
  | .error e => e
  | .ok d =>
    let e := if whole then d else d.readBursts m (lineBursts a)
    if ¬ whole ∧ (lineBursts a).any d.burstBad then (.err, e)
    else if ¬ whole ∧ ¬ e.lineGood order m line then e.tagFail m 0x0908 a
    else if e.ctrAtEnd m line then e.tagFail m 0x0907 a
    else
      let new := if whole then l.map (fun x => x.1) else mergeAt (e.plainLine order m line) (o % 64) l
      (.ok [], (each (lineBursts a) (fun b d => d.setMark b {}) (e.ctrBump m line)).sealLine order m line new)

/-- A write of masked bytes within one 64-byte block (R239, R246). -/
def Dev.hbmWrite (d : Dev) (a : Nat) (l : List (Byte × Bool)) (u : Upset := {}) : BusRes × Dev :=
  match d.hbmGate a with
  | some r => r
  | none =>
    let order := d.hbmOrder
    let (m, o) := hbmSplit order a
    if (d.rgnAt m o).isSome then d.protWrite order m o a l u else (.ok [], (d.unsealLine order m o).hbmStore m a l)

/-! ### Region commands (R240 to R242) -/

/-- Whether every region of a stack is INACTIVE. -/
def Dev.rgnsIdle (d : Dev) (m : Nat) : Bool := (List.range 4).all (fun r => d.rgnState m r == 0)

/-- A write of MEMSEC_STK_CTL (R240). -/
def Dev.memsecEnable (d : Dev) (m : Nat) (v : Word) : Dev :=
  if d.rgnsIdle m then d.set (Reg.MEMSEC_STK_CTL_enable (stackSel m) (m % 2)) (bits v 0 1)
  else d.set (Reg.MEMSEC_STK_STATUS_cmd_refused (stackSel m) (m % 2)) 1

/-- Whether an init of a region is refused (R241). -/
def Dev.rgnBad (d : Dev) (m r : Nat) : Bool :=
  let (lo, hi) := d.rgnRange m r
  !d.on (Reg.MEMSEC_STK_CTL_enable (stackSel m) (m % 2)) || lo == hi || decide (0x400000000 < hi) ||
    (List.range 4).any (fun q => q != r && d.rgnState m q != 0 &&
      decide (lo < (d.rgnRange m q).2) && decide ((d.rgnRange m q).1 < hi))

/-- A write of MEMSEC_RGN_CTL.init (R241, R242); only an INACTIVE region takes it. -/
def Dev.rgnInit (d : Dev) (m r : Nat) : Dev :=
  if d.rgnState m r ≠ 0 then d
  else if d.rgnBad m r then d.set (Reg.MEMSEC_RGN_STATUS_bad_range (stackSel m) (m % 2) r) 1
  else d.set (Reg.MEMSEC_RGN_STATUS_state (stackSel m) (m % 2) r) 1

/-- Whether a physical address lies in a range of a stack's offset. -/
def inStackRange (order m lo hi a : Nat) : Bool :=
  decide (a < 0x3000000000) && (hbmSplit order a).1 == m && decide (lo ≤ (hbmSplit order a).2) &&
    decide ((hbmSplit order a).2 < hi)

/-- A range of a stack holds zero data with valid check bits; nothing in it is ciphertext or metadata of a former region. -/
def Dev.zeroStack (d : Dev) (m lo hi : Nat) : Dev :=
  let order := d.hbmOrder
  { d with
    mem := d.mem.filter (fun c => !inStackRange order m lo hi c.1)
    marks := d.marks.filter (fun c => !inStackRange order m lo hi c.1)
    msec := { d.msec with areas :=
      if lo = 0 ∧ hi = stackBytes then d.msec.areas.filter (fun s => s.stack != m)
      else d.msec.areas.map (fun s => if s.stack = m then { s with plain := s.plain ++ [(lo, hi)] } else s) } }

/-- The areas of former regions without a range that a new one takes. -/
def carve (areas : List Area) (m lo hi : Nat) : List Area :=
  areas.flatMap (fun s =>
    if s.stack = m ∧ lo < s.hi ∧ s.lo < hi then
      (if s.lo < lo then [{ s with hi := lo }] else []) ++ (if hi < s.hi then [{ s with lo := hi }] else [])
    else [s])

/-- Whether a physical address holds metadata of a range of a stack's offset. -/
def inMetaOf (order m lo hi a : Nat) : Bool :=
  inStackRange order m metaStart stackBytes a && (metaAt ((hbmSplit order a).2 - metaStart)).isSome &&
    decide (lo ≤ ownerOf (hbmSplit order a).2) && decide (ownerOf (hbmSplit order a).2 < hi)

/-- Every line of a range of a stack is written as zero data with counter 0 at every level, under a key (R242). -/
def Dev.initArea (d : Dev) (m lo hi : Nat) (key : List Byte) : Dev :=
  let d := d.zeroStack m lo hi
  let mine (k : Nat) : Bool := k / 2 ^ 35 == m && decide (lo ≤ 64 * (k % 2 ^ 32 * 8 ^ (k / 2 ^ 32 % 8))) &&
    decide (64 * (k % 2 ^ 32 * 8 ^ (k / 2 ^ 32 % 8)) < hi)
  let block (k : Nat) : Bool := keyStack k == m && decide (lo ≤ keyOff k) && decide (keyOff k < hi)
  { d with
    mem := d.mem.filter (fun c => !inMetaOf d.hbmOrder m lo hi c.1)
    marks := d.marks.filter (fun c => !inMetaOf d.hbmOrder m lo hi c.1)
    msec := { d.msec with
      ctr := d.msec.ctr.filter (fun e => !mine e.1)
      tags := d.msec.tags.filter (fun e => !mine e.1)
      cache := d.msec.cache.filter (fun k => !block k)
      dirty := d.msec.dirty.filter (fun e => !block e.1)
      areas := carve d.msec.areas m lo hi ++ [{ stack := m, lo := lo, hi := hi, key := key }] } }

/-- Region initialization ends (R242): zero data, counters 0, ACTIVE; once the directory has no sharer of its lines (R210). -/
def Dev.rgnActive (d : Dev) (m r : Nat) : Dev :=
  if d.rgnState m r ≠ 1 then d
  else
    let (lo, hi) := d.rgnRange m r
    let x := d.dirPurge (inStackRange d.hbmOrder m lo hi)
    if ¬ x.1 then x.2
    else (x.2.initArea m lo hi (d.rgnKey m r)).set (Reg.MEMSEC_RGN_STATUS_state (stackSel m) (m % 2) r) 2

/-- A write of MEMSEC_RGN_CTL.close (R242). -/
def Dev.rgnClose (d : Dev) (m r : Nat) : Dev :=
  if d.rgnState m r = 2 then d.set (Reg.MEMSEC_RGN_STATUS_state (stackSel m) (m % 2) r) 3 else d

/-- Closing ends (R242): the region's dirty metadata is written back, its cache lines are dropped, and the contents read as
ciphertext. -/
def Dev.rgnInactive (d : Dev) (m r : Nat) : Dev :=
  if d.rgnState m r ≠ 3 then d
  else
    let (lo, hi) := d.rgnRange m r
    (d.metaClose (fun k => keyStack k == m && decide (lo ≤ keyOff k) && decide (keyOff k < hi))).set
      (Reg.MEMSEC_RGN_STATUS_state (stackSel m) (m % 2) r) 0

/-! ### Initialization and training (R230, R231, R448) -/

/-- The longest run of passing steps of a sweep, its first and last step; the lowest of equally long ones (DESIGN CHOICE, log entry
147). None where no step passes. -/
def longestRun (p : BitVec 128) : Option (Nat × Nat) :=
  ((List.range 128).foldl (fun (x : Option (Nat × Nat) × Nat) i =>
    if !p.getLsbD i then (x.1, i + 1)
    else
      match x.1 with
      | some w => (if w.2 - w.1 < i - x.2 then some (x.2, i) else some w, x.2)
      | none => (some (x.2, i), x.2)) (none, 0)).1

/-- Whether a window is at least of a width. -/
def wideEnough (minWin : Nat) : Option (Nat × Nat) → Bool
  | some (l, r) => decide (l + minWin ≤ r)
  | none => false

/-- A HBM_TRAIN word of a window: the delay at its center, with repair and failure. -/
def trainWord (w : Option (Nat × Nat)) (repaired failed : Bool) : Nat :=
  let x := w.getD (0, 0)
  x.1 + x.2 * 2 ^ 8 + (x.1 + x.2) / 2 * 2 ^ 16 + (if repaired then 2 ^ 29 else 0) + (if failed then 2 ^ 30 else 0) + 2 ^ 31

/-- The training of a byte lane: a sweep; where the window falls short, the remap of its weakest DQ and one more sweep (R231). -/
def trainLane (minWin : Nat) (s : Sweep) : Nat :=
  let w := longestRun s.pass
  if wideEnough minWin w then trainWord w false false
  else
    let w := longestRun s.repaired
    trainWord w true (!wideEnough minWin w)

/-- Trains pseudo-channel p of a stack at a rate with what the sweeps find (four read lanes, then four write lanes); a lane
that falls short marks the pseudo-channel failed, with a record for each training that it fails (R231; DEDUCED, log entry 147). -/
def Dev.trainPc (d : Dev) (m rate p : Nat) (sweeps : List Sweep) : Dev :=
  let minWin := d.get (Reg.HBM_TRAIN_CTL_min_window (stackSel m))
  let words := (List.range 8).map (fun i => trainLane minWin (sweeps.getD i {}))
  let s := d.stack m
  let tr := (List.range 8).foldl (fun t i =>
    t.put (rate * 256 + i / 4 * 128 + 4 * p + i % 4) (BitVec.ofNat 32 (words.getD i 0)) 0) s.train
  let d := d.setStack m { s with train := tr }
  if words.any (fun w => bitOf w 30) then
    (d.setBit (Reg.HBM_STK_PC_FAILED_failed (stackSel m) (m % 2)) p true).report
      { die := stackSel m, unit := m % 2, severity := 3, cls := 0x0802, info := p }
  else d

/-- The initialization of a stack begins (R230). -/
def Dev.stackBegin (d : Dev) (m : Nat) : Dev :=
  let d := (((d.clockOn (stackSel m) (2 + m % 2)).setBit (Reg.CLK_PLL_STATUS_lock (stackSel m)) 0 true).showLock m true)
  (d.setStackState m 1).setStack m { starting := true }

/-- Stacks are initialized one at a time, the lowest base die first, west stack first (R230, R448). A start found to meet
differing orders ends on every base die (R225). -/
def Dev.hbmNext (d : Dev) : Dev :=
  if (List.range 8).any (fun m => (d.stack m).starting) then d
  else
    match (List.range 4).find? (fun b => d.on (Reg.HBM_INIT_start (baseSel b))) with
    | none => d
    | some b =>
      let ord (b : Nat) : Nat := let o := d.get (Reg.HBM_MAP_CTL_order (baseSel b)); if o = 3 then 1 else o
      if (List.range 4).any (fun c => ord c != ord 0) then
        each [0, 1, 2, 3] (fun c d =>
          (d.set (Reg.HBM_INIT_order_mismatch (baseSel c)) 1).set (Reg.HBM_INIT_start (baseSel c)) 0) d
      else
        let d := each [0, 1, 2, 3] (fun c d => d.set (Reg.HBM_INIT_order_mismatch (baseSel c)) 0) d
        let d := d.set (Reg.HBM_INIT_done (baseSel b)) 0
        d.stackBegin (2 * b)

/-- A write of HBM_INIT.start on base die b (R225, R230). -/
def Dev.hbmStart (d : Dev) (b : Nat) : Dev :=
  let short := [0, 1].filter (fun s => d.get (Reg.HBM_TSET_LAT_rl (baseSel b) s 0) == 0)
  if d.on (Reg.HBM_INIT_start (baseSel b)) then d
  else if short ≠ [] then each short (fun s d => d.set (Reg.HBM_STK_CMD_cmd_refused (baseSel b) s) 1) d
  else ((d.set (Reg.HBM_MAP_CTL_lock (baseSel b)) 1).set (Reg.HBM_INIT_start (baseSel b)) 1).hbmNext

/-- The rate of a timing set; 3 acts as 2. -/
def Dev.tsetRate (d : Dev) (m t : Nat) : Nat := min (d.get (Reg.HBM_TSET_RATE_rate (stackSel m) (m % 2) t)) 2

/-- A stack's own bytes of its temperature fields. -/
def tempByte (t : Int) : Nat := (BitVec.ofInt 8 t).toNat

/-- The initialization of a stack is over: after the west stack comes the east one, and after both the next base die (R230, R448). -/
def Dev.initNext (d : Dev) (m : Nat) : Dev :=
  if m % 2 = 0 then d.stackBegin (m + 1)
  else ((d.set (Reg.HBM_INIT_done (stackSel m)) 1).set (Reg.HBM_INIT_start (stackSel m)) 0).hbmNext

/-- The initialization of a stack ends (R230): its identity, its temperature, and what the sweeps found, by rate and
pseudo-channel (32 lists of 8 sweeps for each of the three rates; a missing one passes everywhere). A stack whose temperature
was read during it had given its identity (R235). -/
def Dev.hbmInitDone (d : Dev) (m : Nat) (identity : Bool) (temp : Int) (sweeps : List (List Sweep)) : Dev :=
  if d.stackState m ≠ 1 then d
  else
    let sel := stackSel m
    let s := m % 2
    let identity := identity || (d.stack m).idRead
    let d := d.setStack m { d.stack m with starting := false, idRead := identity }
    let d :=
      if identity then
        let d := each (List.range 96) (fun i d => d.trainPc m (i / 32) (i % 32) (sweeps.getD i [])) d
        let d := d.zeroStack m 0 stackBytes
        let d := ((d.set (Reg.HBM_STK_STATUS_active_set sel s) 0).set (Reg.HBM_STK_STATUS_rate sel s) (d.tsetRate m 0)).set
          (Reg.HBM_STK_RATES_valid sel s) 7
        let d := (d.set (Reg.HBM_STK_STATUS_temp sel s) (tempByte temp)).set (Reg.HBM_STK_STATUS_train_temp sel s) (tempByte temp)
        let d := d.setStack m { d.stack m with trainTemp := [(0, temp), (1, temp), (2, temp)].filter (fun e => e.2 != 0) }
        d.setStackState m (if d.get (Reg.HBM_STK_PC_FAILED_failed sel s) = 2 ^ 32 - 1 then 5 else 2)
      else d.setStackState m 5
    let d := if d.stackState m = 5 then d.showLock m false else d
    d.initNext m

/-! ### Retraining and frequency change (R232 to R234) -/

/-- The pseudo-channels that can retrain, from p up: those that have not failed. -/
def Dev.nextPc (d : Dev) (m p : Nat) : Option Nat :=
  ((List.range 32).filter (fun q => decide (p ≤ q) && !d.bit (Reg.HBM_STK_PC_FAILED_failed (stackSel m) (m % 2)) q)).head?

/-- Retraining of a stack begins or goes on at pseudo-channel p, or ends after the last: the other two rates' results are
then not valid, and the rate's temperature is the present one (R232). -/
def Dev.retrainFrom (d : Dev) (m p : Nat) : Dev :=
  let sel := stackSel m
  let s := m % 2
  let rate := d.get (Reg.HBM_STK_STATUS_rate sel s)
  match d.nextPc m p with
  | some q =>
    (d.set (Reg.HBM_STK_PC_BUSY_busy sel s) (2 ^ q)).setStack m { d.stack m with retrain := some q, retrainDue := false }
  | none =>
    let temp := signedOf (d.get (Reg.HBM_STK_STATUS_temp sel s)) 8
    let d := d.setStack m { d.stack m with retrain := none, retrainDue := false,
                                           trainTemp := (d.stack m).trainTemp.put rate temp 0 }
    let d := (d.set (Reg.HBM_STK_PC_BUSY_busy sel s) 0).set (Reg.HBM_STK_STATUS_train_temp sel s) (tempByte temp)
    (d.set (Reg.HBM_STK_RATES_valid sel s) (2 ^ rate)).set (Reg.HBM_STK_CMD_retrain sel s) 0

/-- Starts a retrain that is due, where the stack can (R232, R234, R236). -/
def Dev.retrainIfDue (d : Dev) (m : Nat) : Dev :=
  if (d.stack m).retrainDue ∧ (d.stack m).retrain = none ∧ d.stackState m = 2 ∧ ¬ (d.stack m).unlocked then
    d.retrainFrom m 0
  else d

/-- Asks for a retrain of the current rate (R232). -/
def Dev.askRetrain (d : Dev) (m : Nat) : Dev :=
  (d.setStack m { d.stack m with retrainDue := true }).retrainIfDue m

/-- A frequency change begins: requests are held (Table 7.6). -/
def Dev.freqBegin (d : Dev) (m : Nat) : Dev :=
  (d.setStackState m 3).setStack m { d.stack m with freqDue := false }

/-- A write of HBM_STK_CMD (R232, R233, R234, Table 7.10). -/
def Dev.stackCmd (d : Dev) (m : Nat) (v : Word) : Dev :=
  let sel := stackSel m
  let s := m % 2
  let st := d.stackState m
  let d := d.set (Reg.HBM_STK_CMD_retrain_pause sel s) (bits v 2 1)
  let d := if v.getLsbD 3 then d.set (Reg.HBM_STK_CMD_cmd_refused sel s) 0 else d
  let d :=
    if v.getLsbD 1 ∧ (st = 2 ∨ st = 3 ∨ st = 4) then
      (d.set (Reg.HBM_STK_CMD_retrain sel s) 1).askRetrain m
    else d
  if v.getLsbD 0 then
    (if st ≠ 2 ∨ d.on (Reg.HBM_STK_CMD_freq_change sel s) then d.set (Reg.HBM_STK_CMD_cmd_refused sel s) 1
     else
       let d := d.set (Reg.HBM_STK_CMD_freq_change sel s) 1
       if (d.stack m).retrain.isSome then d.setStack m { d.stack m with freqDue := true } else d.freqBegin m)
  else d

/-- One pseudo-channel ends its retraining with what the sweep found: a frequency change that waits starts, and the
retraining then goes on at the new rate; else the next pseudo-channel begins (R232, R234). -/
def Dev.pcRetrained (d : Dev) (m : Nat) (sweeps : List Sweep) : Dev :=
  match (d.stack m).retrain with
  | none => d
  | some p =>
    if d.stackState m ≠ 2 then d
    else
      let d := d.trainPc m (d.get (Reg.HBM_STK_STATUS_rate (stackSel m) (m % 2))) p sweeps
      let d := d.set (Reg.HBM_STK_PC_BUSY_busy (stackSel m) (m % 2)) 0
      if (d.stack m).freqDue then (d.setStack m { d.stack m with retrain := some (p + 1) }).freqBegin m
      else d.retrainFrom m (p + 1)

/-- A frequency change completes (Table 7.6, R234): the other set is active at its rate; results not valid for it make the
stack retrain at once; a retraining under way goes on; a stack that reached 105 °C stays in self-refresh in OVERHEAT. -/
def Dev.freqDone (d : Dev) (m : Nat) : Dev :=
  if d.stackState m ≠ 3 then d
  else
    let sel := stackSel m
    let s := m % 2
    let set := 1 - d.get (Reg.HBM_STK_STATUS_active_set sel s)
    let rate := d.tsetRate m set
    let d := (d.set (Reg.HBM_STK_STATUS_active_set sel s) set).set (Reg.HBM_STK_STATUS_rate sel s) rate
    let d := d.set (Reg.HBM_STK_STATUS_train_temp sel s) (tempByte ((d.stack m).trainTemp.get rate 0))
    let x := d.stack m
    let stale := !bitOf (d.get (Reg.HBM_STK_RATES_valid sel s)) rate
    let goOn := x.retrain
    let d := d.setStack m { x with retrainDue := x.retrainDue || stale, retrain := none, overDue := false }
    if x.overDue then
      (d.setStackState m 4).setStack m { d.stack m with retrainDue := (d.stack m).retrainDue || goOn.isSome }
    else
      let d := (d.setStackState m 2).set (Reg.HBM_STK_CMD_freq_change sel s) 0
      match goOn with
      | some p => if stale then d.retrainIfDue m else d.retrainFrom m p
      | none => d.retrainIfDue m

/-! ### Temperature (R235, R236) -/

/-- A stack enters OVERHEAT: a retraining under way keeps its earlier results and comes again after exit (R236). -/
def Dev.enterOverheat (d : Dev) (m : Nat) : Dev :=
  let sel := stackSel m
  let s := m % 2
  let x := d.stack m
  let d := d.setStack m { x with retrain := none, retrainDue := x.retrainDue || x.retrain.isSome, overDue := false }
  ((d.set (Reg.HBM_STK_PC_BUSY_busy sel s) 0).setStackState m 4).err sel s 2 0x0804

/-- A stack leaves OVERHEAT: one that was being initialized goes on with that, a frequency change that waits starts, and step 5 of one
that completed is done (R230, R234, R236). That OVERHEAT only delays initialization is a DESIGN CHOICE (log entry 148). -/
def Dev.leaveOverheat (d : Dev) (m : Nat) : Dev :=
  if (d.stack m).starting then d.setStackState m 1
  else
    let d := d.setStackState m 2
    if (d.stack m).freqDue then d.freqBegin m
    else (d.set (Reg.HBM_STK_CMD_freq_change (stackSel m) (m % 2)) 0).retrainIfDue m

/-- The controller reads a stack's temperature (R232, R235, R236). A reading of a stack in INIT says that its identity has been
read. -/
def Dev.hbmTemp (d : Dev) (m : Nat) (temp : Int) : Dev :=
  let sel := stackSel m
  let s := m % 2
  let st := d.stackState m
  let d := if st = 1 then d.setStack m { d.stack m with idRead := true } else d
  if ¬ (d.stack m).idRead then d
  else
    let d := d.set (Reg.HBM_STK_STATUS_temp sel s) (tempByte temp)
    if st = 0 ∨ st = 5 then d
    else
      let hot := d.on (Reg.HBM_STK_STATUS_hot sel s)
      let d :=
        if 95 < temp ∧ ¬ hot then (d.set (Reg.HBM_STK_STATUS_hot sel s) 1).err sel s 0 0x0803
        else if temp ≤ 90 then d.set (Reg.HBM_STK_STATUS_hot sel s) 0
        else d
      if 105 ≤ temp ∧ (st = 1 ∨ st = 2) then d.enterOverheat m
      else if 105 ≤ temp ∧ st = 3 then
        (if (d.stack m).overDue then d
         else (d.setStack m { d.stack m with overDue := true }).err sel s 2 0x0804)
      else if temp < 100 ∧ st = 4 then
        d.leaveOverheat m
      else
        let rate := d.get (Reg.HBM_STK_STATUS_rate sel s)
        let last := (d.stack m).trainTemp.get rate 0
        if (st = 2 ∨ st = 3) ∧ (20 ≤ temp - last ∨ 20 ≤ last - temp) ∧
            ¬ d.on (Reg.HBM_STK_CMD_retrain_pause sel s) ∧ (d.stack m).retrain = none then d.askRetrain m
        else d

/-- A stack's temperature is read (R235), and THERM_ALERT_N follows (R457). -/
def Dev.hbmTempRead (d : Dev) (m : Nat) (temp : Int) : Dev := (d.hbmTemp m temp).alertCheck

/-- A request held for 1 ms ends in a bus error: counted, with a record (R236). -/
def Dev.holdExpired (d : Dev) (m a : Nat) : Dev :=
  (d.bump (Reg.HBM_STK_HOLD_expired (stackSel m) (m % 2))).errAt (stackSel m) (m % 2) 3 0x0805 a

/-- Whether requests to a stack are held (R233, R236, R462). -/
def Dev.stackHolds (d : Dev) (m : Nat) : Bool :=
  d.stackState m == 3 || d.stackState m == 4 || (d.stack m).unlocked

/-- A stack loses its contents and returns to OFF (Table 14.6), or fails (R462); nothing is then under way in it. -/
def Dev.stackLost (d : Dev) (m st : Nat) : Dev :=
  let d := d.zeroStack m 0 stackBytes
  let d : Dev := { d with msec := { d.msec with
    ctr := d.msec.ctr.filter (fun e => e.1 / 2 ^ 35 != m)
    tags := d.msec.tags.filter (fun e => e.1 / 2 ^ 35 != m)
    cache := d.msec.cache.filter (fun k => keyStack k != m)
    dirty := d.msec.dirty.filter (fun e => keyStack e.1 != m) } }
  let d := (d.set (Reg.HBM_STK_PC_BUSY_busy (stackSel m) (m % 2)) 0).set (Reg.HBM_STK_CMD_freq_change (stackSel m) (m % 2)) 0
  let d := (d.set (Reg.HBM_STK_CMD_retrain (stackSel m) (m % 2)) 0).showLock m false
  (d.setStackState m st).setStack m (if st = 5 then { idRead := (d.stack m).idRead } else {})

end Sys2Proof.Machine
end

