-- ==== Sys2Proof/Machine/Integrity.lean ====
section
/-! DEFINITION. Stored-state integrity of chapter 11 of spec/: the granary and its transparent test (R358, R374 to R377),
logic frames, golden copies and the gleaner (R357, R360 to R368), and the scrubbers of the bins, the tile memories, the
granary and the stacks (R369 to R373). The link-queue scrubber stands in Machine/Lch.lean. -/

namespace Sys2Proof.Machine

/-! ### Laps (R372) -/

/-- A unit begins to read: a lap starts if none is in progress. -/
def Dev.lapBegin (d : Dev) (key : Nat) (inProgress : Fld) : Dev :=
  if d.on inProgress then d
  else { d.set inProgress 1 with scrub := { d.scrub with lapStart := d.scrub.lapStart.put key d.now 0 } }

/-- A lap is complete, and the next one begins. -/
def Dev.lapEnd (d : Dev) (key : Nat) (laps us : Fld) : Dev :=
  let t := (d.now - d.scrub.lapStart.get key 0) / ticksPerUs
  let d := (d.wrap laps).set us t
  { d with scrub := { d.scrub with lapStart := d.scrub.lapStart.put key d.now 0 } }

/-- A unit's key among the laps: 16 x die index + scrubber, 8 the gleaner, 9 the granary test. -/
def lapKey (i k : Nat) : Nat := 16 * i + k

/-! ### Granary (R358, R374) -/

/-- Where a base die's granary starts, and its size. -/
def granBase (b : Nat) : Nat := 0x4000000000 + b * 0x1800000
def granBytes : Nat := 0x1800000

/-- The 64-bit words that `n` bytes from an address touch. -/
def granWords (a n : Nat) : List Nat :=
  ((List.range (n / 8 + 2)).map (fun i => a / 8 * 8 + 8 * i)).filter (fun w => decide (w < a + n))

/-- Where the save buffer of a base die stands in the model's memory: beyond every physical address, so that no access names
it (DESIGN CHOICE, log entry 56). -/
def saveBase (b : Nat) : Nat := 2 ^ 48 + 0x1000 * b

/-- Where a granary byte is stored now: the save buffer answers for the region under transparent test (R375 step 2). -/
def Dev.granAt (d : Dev) (a : Nat) : Nat :=
  let b := (a - granBase 0) / granBytes
  let o := (a - granBase 0) % granBytes
  if d.on (Reg.GRAN_TEST_STATUS_active (baseSel b)) ∧ o / 0x1000 = d.get (Reg.GRAN_TEST_STATUS_region (baseSel b)) then
    saveBase b + o % 0x1000
  else a

/-- The errors of a granary word. -/
def Dev.granMark (d : Dev) (w : Nat) : Mark := d.mark (d.granAt w)

/-- Sets the errors of a granary word. -/
def Dev.setGranMark (d : Dev) (w : Nat) (m : Mark) : Dev := d.setMark (d.granAt w) m

/-- Bytes of the granary as they are. -/
def Dev.granBytesAt (d : Dev) (a n : Nat) : List Byte := (List.range n).map (fun i => d.mem.read (d.granAt (a + i)))

/-- Stores bytes of the granary whose enable is 1. -/
def Dev.granPut (d : Dev) (a : Nat) (l : List (Byte × Bool)) : Dev :=
  let mem := l.zipIdx.foldl
    (fun (m : Memory) (x : (Byte × Bool) × Nat) => if x.1.2 then m.write (d.granAt (a + x.2)) x.1.1 else m) d.mem
  { d with mem := mem }

/-- A record of class GRAN_UE for the word at an address. -/
def Dev.granUe (d : Dev) (b severity w : Nat) : Dev :=
  d.errAt (baseSel b) 0 severity 0x0E01 w (Config.syndrome (d.granMark w).flips)

/-- Bytes of the granary: none is a bus error (R358). -/
def Dev.granRead (d : Dev) (a n : Nat) : Option (List Byte) × Dev :=
  let b := (a - granBase 0) / granBytes
  let ws := granWords a n
  let e := each ws (fun w e =>
    if (d.granMark w).bad then e.granUe b 3 w
    else if (d.granMark w).single then e.scrubBucket (baseSel b) 0 else e) d
  if ws.any (fun w => (d.granMark w).bad) then (none, e) else (some (d.granBytesAt a n), e)

/-- Masked bytes written to the granary: a write of part of a word merges with it and keeps an uncorrectable word so
(R160, R358). -/
def Dev.granWrite (d : Dev) (a : Nat) (l : List (Byte × Bool)) : Dev :=
  let d := each (granWords a l.length) (fun w d =>
    let ens := (List.range 8).map (fun i => decide (a ≤ w + i) && (l.getD (w + i - a) (0, false)).2)
    if ens.all id then d.setGranMark w {}
    else if !ens.any id then d
    else
      let k := d.granMark w
      if k.bad then
        (d.granPut w ((asStored (d.granBytesAt w 8) k).map (fun b => (b, true)))).setGranMark w { poison := true }
      else d.setGranMark w {}) d
  d.granPut a l

/-! ### Transparent granary test (R375 to R377) -/

/-- A granary row over the base dies, by region and row of the region, and the key of its bank's first row. -/
def granRow (b region j : Nat) : Nat := b * 49152 + region * 8 + j

/-- The spares of a row's bank in use (R374). -/
def Dev.sparesUsed (d : Dev) (row : Nat) : List Nat :=
  (d.scrub.remaps.filter (fun x => x / 4 / 512 == row / 512)).map (fun x => x % 4)

/-- Moves 4 KiB raw, bytes and check marks together, and leaves 0 with valid check bits behind (R375 steps 1, 3 and 5). -/
def Dev.moveRaw (d : Dev) (src dst : Nat) : Dev :=
  let inside (k : Nat) : Bool := decide (src ≤ k) && decide (k < src + 0x1000)
  let bytes := d.mem.filter (fun e => inside e.1)
  let errors := d.marks.filter (fun e => inside e.1)
  let d := { d with mem := SMap.clear (α := Byte) (SMap.clear (α := Byte) d.mem src (src + 0x1000)) dst (dst + 0x1000),
                    marks := (d.marks.clear src (src + 0x1000)).clear dst (dst + 0x1000) }
  { d with mem := bytes.foldl (fun (m : Memory) (e : Host.Cell) => m.write (dst + (e.1 - src)) e.2) d.mem,
           marks := errors.foldl (fun (m : SMap Mark) (e : Nat × Mark) => m.put (dst + (e.1 - src)) e.2 {}) d.marks }

/-- The address of a granary region of 4 KiB (R374). -/
def granRegion (b n : Nat) : Nat := granBase b + 0x1000 * n

/-- The region of a base die becomes the one under test: its contents go raw to the save buffer, which answers for it, and the
March test leaves 0 in its cells (R375 steps 1 to 3). -/
def Dev.granSave (d : Dev) (b n : Nat) : Dev :=
  ((d.moveRaw (granRegion b n) (saveBase b)).set (Reg.GRAN_TEST_STATUS_region (baseSel b)) n).set
    (Reg.GRAN_TEST_STATUS_active (baseSel b)) 1

/-- The save buffer goes back raw to the region under test, and accesses return to it (R375 step 5). -/
def Dev.granRestore (d : Dev) (b : Nat) : Dev :=
  let s := baseSel b
  if d.on (Reg.GRAN_TEST_STATUS_active s) then
    (d.moveRaw (saveBase b) (granRegion b (d.get (Reg.GRAN_TEST_STATUS_region s)))).set (Reg.GRAN_TEST_STATUS_active s) 0
  else d

/-- A wipe of the region under test wipes the save buffer and ends the redirection (R377). -/
def Dev.granDrop (d : Dev) (b : Nat) : Dev :=
  let d := { d with mem := SMap.clear (α := Byte) d.mem (saveBase b) (saveBase b + 0x1000),
                    marks := d.marks.clear (saveBase b) (saveBase b + 0x1000) }
  d.set (Reg.GRAN_TEST_STATUS_active (baseSel b)) 0

/-- The first region at or after `n` of a base die that is not skipped; `asleep` names the sixteenths of the granary that
retention keeps from being read (R375, R454). -/
def granNext (asleep : Nat → Bool) (n : Nat) : Option Nat :=
  ((List.range 16).filter (fun g => decide (n < (g + 1) * 384) && !asleep g)).head?.map (fun g => max n (g * 384))

/-- A lap of the granary test is complete. -/
def Dev.granLap (d : Dev) (b : Nat) : Dev :=
  d.lapEnd (lapKey (12 + b) 9) (Reg.GRAN_TEST_STATUS_laps (baseSel b)) (Reg.GRAN_TEST_LAP_US_us (baseSel b))

/-- Whether interval_us has passed since the region before ended (R375). -/
def Dev.granDue (d : Dev) (b : Nat) : Bool :=
  match d.scrub.testEnd.get b 0 with
  | 0 => true
  | t + 1 => decide (t + ticksPerUs * max 1 (d.get (Reg.GRAN_TEST_CTL_interval_us (baseSel b))) ≤ d.now)

/-- The test of the next region starts (R375); where every region that is left sleeps, a lap is complete (R454). -/
def Dev.granStart (d : Dev) (b : Nat) (asleep : Nat → Bool) : Dev :=
  let s := baseSel b
  if d.on (Reg.GRAN_TEST_CTL_pause s) ∨ d.on (Reg.GRAN_TEST_STATUS_active s) ∨ d.halted ∨ d.heldDie s ∨ ¬ d.granDue b then d
  else
    match granNext asleep 0 with
    | none => d
    | some first =>
      let d := d.lapBegin (lapKey (12 + b) 9) (Reg.GRAN_TEST_STATUS_in_progress s)
      match granNext asleep (d.get (Reg.GRAN_TEST_STATUS_region s)) with
      | some n => d.granSave b n
      | none => (d.granLap b).granSave b first

/-- A failing row takes the lowest free spare that passes; `badSpares` are the spares of its bank that fail (R375 step 4,
R376). -/
def Dev.granRemap (d : Dev) (b row : Nat) (badSpares : List Nat) : Dev :=
  let s := baseSel b
  let bank := row / 512 % 96
  let taken := d.sparesUsed row
  match ([0, 1, 2, 3].filter (fun j => !decide (j ∈ taken))).find? (fun j => !decide (j ∈ badSpares)) with
  | some j =>
    let remaps := d.scrub.remaps.filter (fun x => x / 4 != row) ++ [4 * row + j]
    let d := { d with scrub := { d.scrub with remaps := remaps } }
    ((d.set (Reg.GRAN_SPARE_used s bank) (d.sparesUsed row).length).bump (Reg.GRAN_REPAIRS_remapped s)).errAt s 0 0 0x0E02
      (granBase b + row % 49152 * 512)
  | none =>
    ((d.set (Reg.GRAN_SPARE_exhausted s bank) 1).bump (Reg.GRAN_REPAIRS_no_spare s)).errAt s 0 2 0x0E03
      (granBase b + row % 49152 * 512)

/-- A region's test ends with the rows of it that fail and the spares of its bank that fail; the contents return to the
region, and the next one follows (R375 steps 4 and 5). -/
def Dev.granTestEnd (d : Dev) (b : Nat) (badRows badSpares : List Nat) : Dev :=
  let s := baseSel b
  if ¬ d.on (Reg.GRAN_TEST_STATUS_active s) ∨ d.halted then d
  else
    let region := d.get (Reg.GRAN_TEST_STATUS_region s)
    let d := each badRows (fun j d => d.granRemap b (granRow b region j) badSpares) d
    let d := d.granRestore b
    let d := { d with scrub := { d.scrub with testEnd := d.scrub.testEnd.put b (d.now + 1) 0 } }
    if region = 6143 then (d.set (Reg.GRAN_TEST_STATUS_region s) 0).granLap b
    else d.set (Reg.GRAN_TEST_STATUS_region s) (region + 1)

/-! ### Logic frames (R330, R357, R362, R364) -/

/-- The die, field, and index on its die of a logic frame (R364). -/
def frameDie (fa : Nat) : Nat := fa / 0x100000
def frameField (fa : Nat) : Nat := fieldAt (fa / 0x100000) (fa / 0x8000 % 32)
def frameIndex (fa : Nat) : Nat := fa / 0x8000 % 32 * 2048 + fa / 16 % 2048

/-- The logic frame with an index on a die. -/
def frameOfIndex (die x : Nat) : Nat := die * 0x100000 + x * 16

/-- The golden copy's place of a logic frame (R364). -/
def Dev.goldenAddr (d : Dev) (fa : Nat) : Nat :=
  let die := frameDie fa
  d.get (Reg.GLEAN_GOLDEN_LO_base die) * 0x1000 + d.get (Reg.GLEAN_GOLDEN_HI_base die) * 2 ^ 32 + 0x1000 * frameIndex fa

/-- The frame writer copies a changed logic frame into the golden copy (R364). -/
def Dev.goldenCopy (d : Dev) (fa : Nat) : Dev :=
  if ¬ d.on (Reg.GLEAN_CTL_golden_en (frameDie fa)) then d
  else
    each (List.range 64) (fun i d =>
      let a := d.goldenAddr fa + 64 * i
      if a + 64 ≤ 0x3000000000 then
        (d.hbmWrite a ((d.mem.readBytes (frameBase fa + 64 * i) 64).map (fun b => (b, true)))).2
      else d) d

/-- Rewrites and reloads of a logic frame that wait are dropped (R362). -/
def Dev.dropFix (d : Dev) (fa : Nat) : Dev :=
  { d with bacts := d.bacts.filter (fun a => a != .rewrite fa && a != .reload fa) }

/-- Those of a whole field. -/
def Dev.dropFixes (d : Dev) (f : Nat) : Dev :=
  { d with bacts := d.bacts.filter (fun a =>
      match a with
      | .rewrite fa => frameField fa != f
      | .reload fa => frameField fa != f
      | _ => true) }

/-- A logic frame takes 4,096 bytes (R330, R362, R364). -/
def Dev.logicWrite (d : Dev) (fa : Nat) (bytes : List Byte) : Dev :=
  let d := { d with mem := d.mem.writeBytes (frameBase fa) bytes }.setMark (frameBase fa) {}
  (d.dropFix fa).goldenCopy fa

/-- Part of a logic frame read through the frame window: none is a bus error (R357). -/
def Dev.logicRead (d : Dev) (fa off n : Nat) : Option (List Byte) × Dev :=
  let m := d.mark (frameBase fa)
  if m.bad then
    (none, d.errAt (frameDie fa) (fa / 0x8000 % 32) 3 0x0D02 fa (Config.syndrome m.flips))
  else
    (some (d.mem.readBytes (frameBase fa + off) n), if m.single then d.gleanBucket (frameDie fa) else d)

/-! ### The gleaner (R360 to R368) -/

/-- Whether the gleaner reads a field (R29, R360). -/
def Dev.gleanable (d : Dev) (f : Nat) : Bool := d.loaded f && !d.excluded f && !d.reconfiguring f

/-- The first logic frame index at or after `x` of a field that the gleaner reads. -/
def Dev.gleanNext (d : Dev) (die x : Nat) : Option Nat :=
  ((List.range 32).filter (fun i => decide (x < (i + 1) * 2048) && d.gleanable (fieldAt die i))).head?.map
    (fun i => max x (i * 2048))

/-- The entry of ERR_CRIT that names a field (R365); map_mb 24 to 31 makes an entry inapplicable (Table 11.11). -/
def Dev.critEntry (d : Dev) (f : Nat) : Option Nat :=
  (List.range 16).find? (fun k =>
    d.on (Reg.ERR_CRIT_enable k) && d.get (Reg.ERR_CRIT_field k) == f && decide (d.get (Reg.ERR_CRIT_map_mb k) < 24))

/-- Whether the essential-bit map marks a flipped bit of a logic frame, read as the granary is read (R358, R366). A flip of the
check word has no map bit (DEDUCED, log entry 27). -/
def Dev.essential (d : Dev) (fa k bit : Nat) : Bool × Dev :=
  if 32768 ≤ bit then (false, d)
  else
    let q := bit / 8
    let a := granBase (baseOf (frameDie fa)) + d.get (Reg.ERR_CRIT_map_mb k) * 0x100000 + 512 * (frameIndex fa % 2048) + q / 8
    match d.granRead a 1 with
    | (some [v], d) => (v.getLsbD (q % 8), d)
    | (_, d) => (true, d)

/-- The gleaner rewrites the segment of the oldest flip (R361). -/
def Dev.gleanRewrite (d : Dev) (fa : Nat) : Dev :=
  let m := d.mark (frameBase fa)
  d.setMark (frameBase fa) { m with flips := m.flips.drop 1 }

/-- The golden copy of a frame: its bytes, or none on a bus error; `wait` while the stack holds the reads. -/
def Dev.goldenRead (d : Dev) (fa : Nat) : BusRes × Dev :=
  let r := (List.range 64).foldl (fun (r : BusRes × Dev) i =>
    match r.1 with
    | .ok l =>
      let a := r.2.goldenAddr fa + 64 * i
      if a + 64 ≤ 0x3000000000 then
        (match r.2.hbmRead a 64 with
         | (.ok x, e) => (.ok (l ++ x), e)
         | (b, e) => (b, e))
      else (.err, r.2)
    | _ => r) (.ok [], d)
  r

/-- A golden reload: the frame takes the golden copy and is checked, or stays corrupted (R364). None while the golden read
waits. -/
def Dev.goldenReload (d : Dev) (fa : Nat) : Option Dev :=
  let die := frameDie fa
  let i := fa / 0x8000 % 32
  match d.goldenRead fa with
  | (.wait, _) => none
  | (.err, d) => some (d.errAt die i 3 0x0D05 fa)
  | (.ok l, d) =>
    let d := { d with mem := d.mem.writeBytes (frameBase fa) l }.setMark (frameBase fa) {}
    some ((d.setBit (Reg.GLEAN_CORRUPT_corrupt die) i false).errAt die i 1 0x0D04 fa)

/-- A rewrite or reload is made at once while the design rests or the field is frozen, and else waits for the boundary
(R361, R364). -/
def Dev.fixOrQueue (d : Dev) (a : BAct) (f : Nat) : Dev :=
  if d.atRest || d.frozen f then
    (match a with
     | .rewrite fa => d.gleanRewrite fa
     | .reload fa => (d.goldenReload fa).getD { d with bacts := withItem d.bacts a }
     | _ => d)
  else { d with bacts := withItem d.bacts a }

/-- What the gleaner does with a frame in error (R361, R363, Table 11.2). -/
def Dev.gleanError (d : Dev) (fa : Nat) : Dev :=
  let die := frameDie fa
  let i := fa / 0x8000 % 32
  let f := frameField fa
  let m := d.mark (frameBase fa)
  let crit := d.critEntry f
  if m.bad then
    let d := (d.setBit (Reg.GLEAN_CORRUPT_corrupt die) i true).bump (Reg.GLEAN_UE_ue die)
    let d := if crit.isSome then d.bump (Reg.GLEAN_UE_essential die) else d
    let d := d.errAt die i 3 0x0D02 fa (Config.syndrome m.flips)
    let first := (crit.map (fun k => d.on (Reg.ERR_CRIT_freeze_first k))).getD false
    let d := if d.on (Reg.GLEAN_CTL_ue_freeze die) || first then d.actOrQueue (.freeze f) else d
    if d.on (Reg.GLEAN_CTL_golden_en die) then d.fixOrQueue (.reload fa) f else d
  else
    let syn := Config.syndrome m.flips
    let d :=
      match crit with
      | none => d
      | some k =>
        let e := d.essential fa k (m.flips.headD 0)
        let d := e.2
        if e.1 then
          let d := (d.bump (Reg.GLEAN_UE_essential die)).errAt die i 2 0x0D03 fa syn
          if d.on (Reg.ERR_CRIT_freeze_first k) then d.actOrQueue (.freeze f) else d
        else d.errAt die i 1 0x0D01 fa syn
    ((d.bump (Reg.GLEAN_CE_count die)).gleanBucket die).fixOrQueue (.rewrite fa) f

/-- The gleaner reads its next logic frame; `flips` are the bits of it that an environment has flipped since (R360). -/
def Dev.gleanRead (d : Dev) (die : Nat) (flips : List Nat) : Dev :=
  if d.on (Reg.GLEAN_CTL_pause die) ∨ d.halted ∨ d.heldDie die then d
  else
    match d.gleanNext die 0 with
    | none => d.set (Reg.GLEAN_STATUS_in_progress die) 0
    | some first =>
      let d := d.lapBegin (lapKey die 8) (Reg.GLEAN_STATUS_in_progress die)
      let x := (d.gleanNext die (d.get (Reg.GLEAN_POS_frame die))).getD first
      let fa := frameOfIndex die x
      let m := d.mark (frameBase fa)
      let d := d.setMark (frameBase fa) { m with flips := toggleAll m.flips flips }
      let d := if (d.mark (frameBase fa)).bad || (d.mark (frameBase fa)).single then d.gleanError fa else d
      match d.gleanNext die (x + 1) with
      | some y => d.set (Reg.GLEAN_POS_frame die) y
      | none =>
        (d.set (Reg.GLEAN_POS_frame die) first).lapEnd (lapKey die 8) (Reg.GLEAN_STATUS_laps die)
          (Reg.GLEAN_LAP_US_us die)

/-! ### Scrubbers (R369 to R372) -/

/-- The number of check units of a scrubber's store, by die index and scrubber (Table 11.3). -/
def scrubCount (i k : Nat) : Nat :=
  if i < 12 then (if k = 0 then 3145728 else 1769472) else if k = 0 then 3145728 else 805306368

/-- Whether a scrubber skips a field (R29, R350). -/
def Dev.scrubSkips (d : Dev) (f : Nat) : Bool := d.excluded f || d.reconfiguring f

/-- Where a check unit starts: its address. -/
def Dev.scrubAddr (d : Dev) (i k u : Nat) : Nat :=
  if i < 12 then
    (if k = 0 then 0x4100000000 + i * 0x2000000 + 8 * u
     else
       let t := u / 576
       let w := u % 576
       tileBase (fieldAt i (t / 96)) (t % 96) + (if w < 64 then 4 * w else 0x100 + 2 * (w - 64)))
  else if k = 0 then granBase (i - 12) + 8 * u
  else hbmJoin d.hbmOrder (2 * (i - 12) + (k - 1)) (32 * u)

/-- Whether a scrubber skips a check unit (Table 11.3); `asleep` says which memories retention keeps from being read. -/
def Dev.scrubSkip (d : Dev) (asleep : Dev → Nat → Bool) (i k u : Nat) : Bool :=
  let a := d.scrubAddr i k u
  if i < 12 then
    let f := fieldAt i (if k = 0 then u / 98304 else u / 576 / 96)
    d.scrubSkips f || asleep d a
  else if k = 0 then asleep d a
  else
    let m := 2 * (i - 12) + (k - 1)
    let pc := hbmPc d.hbmOrder a
    d.bit (Reg.HBM_STK_PC_FAILED_failed (stackSel m) (m % 2)) pc || d.bit (Reg.HBM_STK_PC_BUSY_busy (stackSel m) (m % 2)) pc

/-- The first check unit at or after `u` that is not skipped, within `n` units. -/
def Dev.scrubFind (d : Dev) (asleep : Dev → Nat → Bool) (i k u : Nat) : Nat → Option Nat
  | 0 => none
  | n + 1 =>
    if scrubCount i k ≤ u then none
    else if d.scrubSkip asleep i k u then d.scrubFind asleep i k (u + 1) n
    else some u

/-- A scrubber's correction of a unit: counted, with the unit written back. -/
def Dev.scrubFixed (d : Dev) (i k a : Nat) : Dev :=
  ((d.setMark a {}).bump (Reg.ERR_SCRUB_CE_count (dieSel i) k)).scrubBucket (dieSel i) k

/-- A scrubber reads a unit and corrects or reports what it finds (R369, R519); the save buffer is scrubbed in place of the
granary region under test (R30). -/
def Dev.scrubCheck (d : Dev) (i k u : Nat) : Dev :=
  let a := d.scrubAddr i k u
  let s := dieSel i
  let at_ := if 12 ≤ i ∧ k = 0 then d.granAt a else a
  let m := d.mark at_
  let bad (d : Dev) : Dev := d.bump (Reg.ERR_SCRUB_UE_count s k)
  if i < 12 ∧ k = 0 then
    let f := fieldAt i (u / 98304)
    let b := u % 98304 / 2048
    let r := d.rowRead f b (u % 2048) 255
    if r.2.2 then (bad d).binUeRecord f b (u % 2048) 2 3 else if r.2.1 then d.scrubFixed i k a else d
  else if (if 12 ≤ i ∧ k ≠ 0 then d.burstBad a else m.bad) then
    (if i < 12 then (bad d).macUe (fieldAt i (u / 576 / 96)) (u / 576 % 96) 2 a
     else if k = 0 then (bad d).granUe (i - 12) 2 a
     else (bad d).hbmUe (2 * (i - 12) + (k - 1)) 2 a)
  else if (if 12 ≤ i ∧ k ≠ 0 then d.burstSingle a else m.single) then d.scrubFixed i k at_
  else d

/-- Bits of a check unit that an environment has flipped. -/
def Dev.scrubFlips (d : Dev) (i k u : Nat) (flips : List Nat) : Dev :=
  let a := d.scrubAddr i k u
  let a := if 12 ≤ i ∧ k = 0 then d.granAt a else a
  let m := d.mark a
  d.setMark a { m with flips := toggleAll m.flips flips }

/-- A scrubber reads its next check unit; `flips` are the bits of it that an environment has flipped since (R369). A
stack that cannot be read is not scrubbed. -/
def Dev.scrubUnit (d : Dev) (asleep : Dev → Nat → Bool) (i k : Nat) (flips : List Nat) : Dev :=
  let s := dieSel i
  if d.on (Reg.ERR_SCRUB_CTL_pause s k) ∨ d.halted ∨ d.heldDie s ∨
      (12 ≤ i ∧ k ≠ 0 ∧ (d.stackState (2 * (i - 12) + (k - 1)) ≠ 2 ∨ (d.stack (2 * (i - 12) + (k - 1))).unlocked)) then d
  else
    let n := scrubCount i k
    match d.scrubFind asleep i k 0 n with
    | none => d
    | some first =>
      let d := d.lapBegin (lapKey i k) (Reg.ERR_SCRUB_STATUS_in_progress s k)
      let u := (d.scrubFind asleep i k (d.get (Reg.ERR_SCRUB_POS_unit s k)) n).getD first
      let d := (d.scrubFlips i k u flips).scrubCheck i k u
      match d.scrubFind asleep i k (u + 1) n with
      | some y => d.set (Reg.ERR_SCRUB_POS_unit s k) y
      | none =>
        (d.set (Reg.ERR_SCRUB_POS_unit s k) first).lapEnd (lapKey i k) (Reg.ERR_SCRUB_STATUS_laps s k)
          (Reg.ERR_SCRUB_LAP_US_us s k)

/-- The configuration register of a bucket: k is a scrubber, 4 the gleaner. -/
def bucketCfg (i k : Nat) : Nat := if k = 4 then Reg.GLEAN_BKT_CFG (dieSel i) else Reg.ERR_BKT_CFG (dieSel i) k

/-- The ticks between two leaks of a bucket: leak_ms, of which 0 acts as 1 (R373). -/
def Dev.leakTicks (d : Dev) (i k : Nat) : Nat := 1000 * ticksPerUs * max 1 (bits (d.rdWord (bucketCfg i k)) 0 16)

/-- A bucket's configuration register is written: its leaks count from now (R373). -/
def Dev.leakFrom (d : Dev) (i k : Nat) : Dev :=
  { d with scrub := { d.scrub with leakAt := d.scrub.leakAt.put (lapKey i k) d.now 0 } }

/-- A bucket leaks once leak_ms ms have passed since the leak before, or since its configuration register was written (R373). -/
def Dev.bucketLeak (d : Dev) (i k : Nat) : Dev :=
  let last := d.scrub.leakAt.get (lapKey i k) 0
  if d.now < last + d.leakTicks i k then d
  else
    let lv : Fld := if k = 4 then Reg.GLEAN_BKT_STATUS_level (dieSel i) else Reg.ERR_BKT_STATUS_level (dieSel i) k
    let d := d.set lv (d.get lv - 1)
    { d with scrub := { d.scrub with leakAt := d.scrub.leakAt.put (lapKey i k) (last + d.leakTicks i k) 0 } }

/-! ### The error log of service firmware 3.2 (R384) -/

/-- The log with a record appended: a full one gives up its oldest record below DEFERRED, or its oldest. -/
def ErrLog.add (g : ErrLog) (r : ErrRec) : ErrLog :=
  let r := { r with logIndex := g.next }
  let kept :=
    if g.entries.length < 1024 then g.entries
    else if g.entries.any (fun x => decide (x.severity < 2)) then g.entries.eraseP (fun x => decide (x.severity < 2))
    else g.entries.drop 1
  { entries := kept ++ [r], next := (g.next + 1) % 2 ^ 32 }

/-- The firmware takes every record: urgent entries of all dies first, then the FIFOs in ascending die selector. -/
def Dev.takeRecords (d : Dev) : List ErrRec × Dev :=
  let urgent := (List.range 16).filterMap (fun i => (d.errDie i).urgent)
  let queued := (List.range 16).flatMap (fun i => (d.errDie i).fifo)
  let all := urgent ++ queued
  (all,
   { d with
     log := all.foldl (fun g r => g.add r) d.log
     errs := (d.errs.map (fun e => (e.1, { e.2 with fifo := [], urgent := none }))).filter (fun e => e.2 != {})
     errIrq := 0 })

end Sys2Proof.Machine
end

