-- ==== Sys2Proof/Machine/World.lean ====
section
/-! DEFINITION. Fuses and lifecycle (R431), worlds of initiators and objects (R421 to R424, R393), what a physical address
names (R31 to R38), and retention of bins and granary regions (R454, R455). -/

namespace Sys2Proof.Machine

/-! ### Fuses (R431, Table 13.6, Table 13.7) -/

/-- Whether a thermometer bit reads as blown: at least two of its three fuses are (R431). -/
def lifeBit (life : BitVec 15) (i : Nat) : Bool :=
  decide (2 ≤ (((List.range 3).filter (fun k => life.getLsbD (3 * i + k))).length))

/-- The lifecycle state of the fuses: the index of the highest blown bit plus 1, or 0 (R431). -/
def lifeState (life : BitVec 15) : Nat := (List.range 5).foldl (fun n i => if lifeBit life i then i + 1 else n) 0

/-- The lifecycle state (Table 13.6): 0 MAKER, 1 OPEN, 2 PROVISIONED, 3 LOCKED, 4 RETURN, 5 SCRAP. -/
def Fuses.lc (fz : Fuses) : Nat := lifeState fz.life

/-- Whether a mailbox is secure (Table 13.2): MB00 in MAKER and OPEN, the fused mask afterwards. -/
def Fuses.mbxSecure (fz : Fuses) (m : Nat) : Bool := if fz.lc < 2 then m == 0 else fz.mbxWorld.getLsbD m

/-- Debug access (Table 13.7): 0 none, 1 non-secure, 2 full. -/
def Dev.debugLevel (d : Dev) (fz : Fuses) : Nat :=
  match fz.lc with
  | 0 => 2
  | 1 => if d.sec.unlockFull then 2 else 1
  | 2 => 1
  | 3 => if d.sec.unlockNs then 1 else 0
  | 4 => if d.sec.unlockFull then 2 else 0
  | _ => 0

/-! ### Worlds of objects (Table 13.2) -/

/-- Whether a field is secure. -/
def Dev.fieldSecure (d : Dev) (f : Nat) : Bool := d.bit (Reg.SEC_FIELD_WORLD_secure (f / 32)) (f % 32)

/-- The size of the secure partition of a base die, in bytes (R423). -/
def Dev.partitionBytes (d : Dev) (b : Nat) : Nat := min 8 (d.get (Reg.SEC_GRAN_WORLD_partition_mb b)) * 0x100000

/-- Whether a granary byte is secure (R423). -/
def Dev.granSecure (d : Dev) (b off : Nat) : Bool :=
  decide (off < d.partitionBytes b) || d.bit (Reg.SEC_GRAN_WORLD_region b) (off / 0x180000)

/-- Whether an HBM byte is secure (Table 13.2, kind 2). -/
def Dev.hbmSecure (d : Dev) (a : Nat) : Bool :=
  let h := a / 0xC0000000
  if h < 32 then d.bit Reg.SEC_HBM_WORLD_LO_secure h else d.bit Reg.SEC_HBM_WORLD_HI_secure (h - 32)

/-- Whether a register page is secure: MEMSEC, SEC and LC always are (Table 13.2, kind 3). -/
def Dev.pageSecure (d : Dev) (block : Nat) : Bool :=
  block == 9 || block == 19 || block == 20 || d.bit Reg.SEC_PAGE_WORLD_secure block

/-- The world of an initiator (Table 13.1, R393): true is secure. -/
def Dev.whoSecure (d : Dev) (w : Who) : Bool :=
  match w with
  | .host => false
  | .core c => c.val == 0
  | .dma s => s
  | .dock f => d.fieldSecure f.val
  | .tile _ s => s
  | .cfg => true
  | .mgmt => true
  | .debug s => s

/-! ### What an address names -/

/-- What a physical address names: HBM, a granary byte, a byte of a bin or of a tile's memories, a byte of a frame, a
register, or service-processor memory (Table 1.6). -/
inductive Place where
  | hbm
  | gran (b off : Nat)
  | bin (f k off : Nat)
  | tile (f t off : Nat)
  | frame (fa off : Nat)
  | reg (a : Nat)
  | sp (off : Nat)
  deriving DecidableEq, Repr

/-- Whether a frame address names a frame: a reserved die, frame type or frame index is an unused part of the window
(R32, Tables 10.5 to 10.7; DEDUCED, log entry 30). -/
def frameUsed (fa : Nat) : Bool :=
  let j := fa / 16 % 2048
  decide (frameDie fa < 12) &&
    (match fa % 16 with
     | 0 => true
     | 1 => decide (j ≤ 192)
     | 2 => decide (j ≤ 30)
     | 3 => true
     | _ => false)

/-- What an address names; none outside every range and in an unused part of one (R31 to R35). -/
def placeOf (a : Nat) : Option Place :=
  if a < 0x3000000000 then some .hbm
  else if 0x4000000000 ≤ a ∧ a < 0x4006000000 then
    some (.gran ((a - 0x4000000000) / 0x1800000) ((a - 0x4000000000) % 0x1800000))
  else if 0x4100000000 ≤ a ∧ a < 0x4118000000 then
    let o := (a - 0x4100000000) % 0x2000000
    if o < 0x1800000 then
      some (.bin (fieldAt ((a - 0x4100000000) / 0x2000000) (o / 0xC0000)) (o % 0xC0000 / 0x4000) (o % 0x4000))
    else none
  else if 0x4200000000 ≤ a ∧ a < 0x4203000000 then
    let o := (a - 0x4200000000) % 0x400000
    if o < 0x3C0000 then
      some (.tile (fieldAt ((a - 0x4200000000) / 0x400000) (o / 0x1E000)) (o % 0x1E000 / 0x500) (o % 0x500))
    else none
  else if 0x5000000000 ≤ a ∧ a < 0x6000000000 then
    let fa := (a - 0x5000000000) / 0x1000
    if frameUsed fa then some (.frame fa (a % 0x1000)) else none
  else if 0x6000000000 ≤ a ∧ a < 0x6100000000 then some (.reg (a - 0x6000000000))
  else if 0x7000000000 ≤ a ∧ a < 0x7000400000 then some (.sp (a - 0x7000000000))
  else none

/-- Whether what an address names is a secure target (Table 13.2, R393). The registers of R439 take either world. -/
def Dev.placeSecure (d : Dev) (a : Nat) (p : Place) : Bool :=
  match p with
  | .hbm => d.hbmSecure a
  | .gran b off => d.granSecure b off
  | .bin f _ _ => d.fieldSecure f
  | .tile f _ _ => d.fieldSecure f
  | .frame fa _ => d.fieldSecure (frameField fa)
  | .reg r => decide (r / 0x10000 % 0x100 ≠ 20) && d.pageSecure (r / 0x10000 % 0x100)
  | .sp off => decide (off < 0x100000)

/-- The record of an access refused for its world (R424). -/
def Dev.worldFault (d : Dev) (a : Nat) (secure : Bool) : Dev :=
  d.report { die := 32, unit := 0, severity := 3, cls := 0x1301, address := a,
             flags := addrValid ||| (if secure then 8#8 else 0#8) }

/-- The network interface of an initiator in the package's domain (Table 6.1). -/
def whoNi (w : Who) : Nat :=
  match w with
  | .host => 20
  | .core _ => 19
  | .dma _ => 19
  | _ => 18

/-- The record of an access outside every defined range or block (R32, R39). The spec does not say which die's NOC block
writes it; it is that of B0, at the initiator's interface (DEDUCED, log entry 31). -/
def Dev.addrDecode (d : Dev) (w : Who) (a : Nat) : Dev :=
  d.report { die := 16, unit := whoNi w, severity := 3, cls := 0x0506, address := a,
             flags := addrValid ||| (if d.whoSecure w then 8#8 else 0#8) }

/-! ### Retention (R454, R455) -/

/-- The number of a memory that retention holds: a field's bins, or 384 + 16 b + g for granary region g of base die b. -/
def retGran (b g : Nat) : Nat := 384 + 16 * b + g

/-- The bit of PWR_RET_CTL and PWR_RET_STATUS of such a memory: die selector and bit. -/
def retBit (u : Nat) : Nat × Nat := if u < 384 then (dieOf u, idxOf u) else (baseSel ((u - 384) / 16), u % 16)

/-- Whether a memory is in retention. -/
def Dev.retained (d : Dev) (u : Nat) : Bool := d.bit (Reg.PWR_RET_STATUS_held (retBit u).1) (retBit u).2

/-- Whether a memory cannot be accessed yet: in retention, or waking. -/
def Dev.asleep (d : Dev) (u : Nat) : Bool := d.retained u || decide (u ∈ d.pwr.waking)

/-- A memory starts to wake. -/
def Dev.wake (d : Dev) (u : Nat) : Dev :=
  if d.retained u then
    let d := d.setBit (Reg.PWR_RET_STATUS_held (retBit u).1) (retBit u).2 false
    { d with pwr := { d.pwr with waking := withItem d.pwr.waking u } }
  else d

/-- Whether the check unit at an address lies in a memory that sleeps: a bin row or a granary word. -/
def Dev.asleepAt (d : Dev) (a : Nat) : Bool :=
  match placeOf a with
  | some (.bin f _ _) => d.asleep f
  | some (.gran b off) => d.asleep (retGran b (off / 0x180000))
  | _ => false

/-- Whether a granary region of a base die holds the region under transparent test. -/
def Dev.underTest (d : Dev) (b g : Nat) : Bool :=
  d.on (Reg.GRAN_TEST_STATUS_active (baseSel b)) &&
    d.get (Reg.GRAN_TEST_STATUS_region (baseSel b)) * 0x1000 / 0x180000 == g

/-- The transparent test of a base die starts its next region; it skips retained ones (R375, R454). -/
def Dev.granTestStart (d : Dev) (b : Nat) : Dev := d.granStart b (fun g => d.asleep (retGran b g))

/-- A write of PWR_RET_CTL: each bit that is 1 puts its memory into retention, each 0 wakes it; a refused memory keeps its
bit (R454, R455). Answers the word as taken. -/
def Dev.retCtl (d : Dev) (sel : Nat) (v : Word) : Dev :=
  let n := if sel ≤ 11 then 32 else 16
  each (List.range n) (fun i d =>
    let u := if sel ≤ 11 then fieldAt sel i else retGran (sel - 16) i
    let want := v.getLsbD i
    if want then
      if d.retained u then d.setBit (Reg.PWR_RET_CTL_ret sel) i true
      else if (if sel ≤ 11 then d.part u || decide (u ∈ d.cfg.reconf) else d.underTest (sel - 16) i) then
        d.set (Reg.PWR_DIE_STATUS_cmd_refused sel) 1
      else
        let d := (d.setBit (Reg.PWR_RET_CTL_ret sel) i true).setBit (Reg.PWR_RET_STATUS_held sel) i true
        { d with pwr := { d.pwr with waking := without d.pwr.waking u } }
    else (d.setBit (Reg.PWR_RET_CTL_ret sel) i false).wake u) d

/-- A memory has woken: its scrubber scrubs it completely before it resumes its lap (R455). -/
def Dev.wakeDone (d : Dev) (u : Nat) : Dev :=
  if u ∈ d.pwr.waking then
    { d with pwr := { d.pwr with waking := without d.pwr.waking u,
                                 scrubFull := d.pwr.scrubFull.filter (fun e => e.1 != u) ++ [(u, 0)] } }
  else d

/-- The check units of a memory that retention holds: the index of its first one at its scrubber, and how many. -/
def retUnits (u : Nat) : Nat × Nat := if u < 384 then (idxOf u * 98304, 98304) else (u % 16 * 196608, 196608)

/-- The die index of the scrubber of such a memory; it is scrubber 0 of its die (Table 11.3). -/
def retDie (u : Nat) : Nat := if u < 384 then dieOf u else 12 + (u - 384) / 16

/-- Scrubber k of die index i reads a unit (R369): the next one of a memory that has just woken, which it scrubs
completely before it resumes its lap (R455), or the next one of its lap. -/
def Dev.scrubAny (d : Dev) (i k : Nat) (flips : List Nat) : Dev :=
  match d.pwr.scrubFull.find? (fun e => k == 0 && retDie e.1 == i) with
  | none => d.scrubUnit Dev.asleepAt i k flips
  | some (u, pos) =>
    if d.on (Reg.ERR_SCRUB_CTL_pause (dieSel i) k) ∨ d.halted ∨ d.heldDie (dieSel i) then d
    else
      let x := (retUnits u).1 + pos
      let d := (d.scrubFlips i k x flips).scrubCheck i k x
      let rest := d.pwr.scrubFull.filter (fun e => e.1 != u)
      { d with pwr := { d.pwr with scrubFull := if pos + 1 < (retUnits u).2 then (u, pos + 1) :: rest else rest } }

end Sys2Proof.Machine
end

