-- ==== Sys2Proof/Machine/Net.lean ====
section
/-! DEFINITION. Lateral links, route tables, remote-cache flushes and network interfaces' counters (R193, R198 to R206,
R214, R215, R220 to R222). Packets stand in Machine/Noc.lean. -/

namespace Sys2Proof.Machine

/-! ### Lateral links (R18, R201 to R205) -/

/-- The ends of a lateral link (Table 6.4, links): 0 B0–B1, 1 B1–B3, 2 B3–B2, 3 B2–B0, each end a base die and its link
number there (R221: 0 east–west, 1 north–south). -/
def latEnds (l : Nat) : List (Nat × Nat) :=
  match l with
  | 0 => [(0, 0), (1, 0)]
  | 1 => [(1, 1), (3, 1)]
  | 2 => [(3, 0), (2, 0)]
  | _ => [(2, 1), (0, 1)]

/-- The lateral link at a base die. -/
def latIndex (b j : Nat) : Nat := if j = 0 then (if b < 2 then 0 else 2) else if b % 2 = 0 then 3 else 1

/-- The base die at the other end. -/
def latPartner (b j : Nat) : Nat := if j = 0 then b ^^^ 1 else b ^^^ 2

/-- A lateral-link receiver. -/
def Dev.latSide (d : Dev) (b j : Nat) : LatLink := d.lat.get (2 * b + j) {}
def Dev.setLatSide (d : Dev) (b j : Nat) (v : LatLink) : Dev := { d with lat := d.lat.put (2 * b + j) v {} }

/-- The state of a link at one end (Table 6.11): 0 DOWN, 1 TRAINING, 2 UP, 3 HELD, 4 PARTNER_RESET. -/
def Dev.latState (d : Dev) (b j : Nat) : Nat := d.get (Reg.D2D_LAT_STATUS_state (baseSel b) j)

/-- Sets the state of a link at both ends. -/
def Dev.setLat (d : Dev) (l st : Nat) : Dev :=
  each (latEnds l) (fun e d => d.set (Reg.D2D_LAT_STATUS_state (baseSel e.1) e.2) st) d

/-- Whether a lateral link is down, or one of its ends held (R204, R205). -/
def Dev.linkDown (d : Dev) (l : Nat) : Bool := (latEnds l).any (fun e => (d.latSide e.1 e.2).down)

/-- Marks a link down or up at both ends. -/
def Dev.markLink (d : Dev) (l : Nat) (down : Bool) : Dev :=
  each (latEnds l) (fun e d => d.setLatSide e.1 e.2 { d.latSide e.1 e.2 with down := down }) d

/-- A route entry with alt_active set as the links it crosses stand (R204). -/
def Dev.altActive (d : Dev) (e : BitVec 64) : BitVec 64 :=
  let hit := [0, 1, 2, 3].any (fun l => e.getLsbD (48 + l) && d.linkDown l)
  if hit then e ||| 0x0020000000000000#64 else e &&& ~~~0x0020000000000000#64

/-- alt_active of every route entry as the links stand (R204 step 3). -/
def Dev.routesFail (d : Dev) : Dev :=
  { d with noc := { d.noc with routes := d.noc.routes.map (fun e => (e.1, d.altActive e.2)) } }

/-- A device-wide flush of the remote caches starts (R215). -/
def Dev.flushStart (d : Dev) : Dev := { d with rc := { d.rc with flushAll := true } }

/-- Packets that wait at an end of a link are lost with it, and so are those in its replay buffers (R204 step 2). -/
def Dev.dropAtLink (d : Dev) (l : Nat) : Dev :=
  let d := { d with noc := { d.noc with flights := d.noc.flights.filter (fun x =>
      !((latEnds l).any (fun e =>
          x.die == baseSel e.1 && !x.arrived && x.pkt.hops[x.pkt.hopPtr]? == some 5 &&
            (if e.2 == 0 then x.router % 6 == (if e.1 % 2 == 0 then 5 else 0)
             else x.router / 6 == (if e.1 < 2 then 7 else 0))))) } }
  each (latEnds l) (fun e d => d.setLatSide e.1 e.2 { d.latSide e.1 e.2 with wire := [], replay := [], half := none }) d

/-- Routes leave a link that is down or whose end is held (R204 steps 2 to 4, R205). -/
def Dev.linkOut (d : Dev) (l : Nat) : Dev := (((d.dropAtLink l).markLink l true).routesFail).flushStart

/-- A link is declared down (R204). The record comes from its end on the lower base die (DEDUCED, log entry 33). -/
def Dev.latDown (d : Dev) (l : Nat) : Dev :=
  let e := (latEnds l).headD (0, 0)
  let e2 := (latEnds l).getLastD (0, 0)
  let src := if e.1 ≤ e2.1 then e else e2
  let d := each (latEnds l) (fun e d => (d.bump (Reg.D2D_LAT_ERRCNT_downs (baseSel e.1) e.2)).set
    (Reg.D2D_LAT_CTL_retrain (baseSel e.1) e.2) 0) d
  ((d.setLat l 0).err (baseSel src.1) src.2 3 0x0601).linkOut l

/-- The proposal of a receiver with the groups that pass its test (R201 step 1); 15 is none. -/
def latProposal (maxCode : Nat) (groups : BitVec 16) : Nat :=
  let n := ((List.range 16).filter (fun i => groups.getLsbD i)).length
  if n < 4 then 15 else min (n - 4) (min maxCode 12)

/-- A training attempt of a link ends with the groups that passed at its first and its second end (R201, R203, R204). -/
def Dev.trainingEnd (d : Dev) (l : Nat) (g0 g1 : BitVec 16) : Dev :=
  let ends := latEnds l
  if ends.any (fun e => (d.latState e.1 e.2 ≠ 1 ∧ d.latState e.1 e.2 ≠ 3) ∨ d.heldDie (baseSel e.1)) then d
  else
    let prop (e : Nat × Nat) (g : BitVec 16) : Nat := latProposal (d.get (Reg.D2D_LAT_CTL_max_code (baseSel e.1) e.2)) g
    let e0 := ends.headD (0, 0)
    let e1 := ends.getLastD (0, 0)
    let p0 := prop e0 g0
    let p1 := prop e1 g1
    let show1 (d : Dev) (e : Nat × Nat) (own other : Nat) (g : BitVec 16) : Dev :=
      ((d.set (Reg.D2D_LAT_STATUS_local_prop (baseSel e.1) e.2) own).set
        (Reg.D2D_LAT_STATUS_partner_prop (baseSel e.1) e.2) other).set (Reg.D2D_LAT_GOOD_groups (baseSel e.1) e.2) g.toNat
    let d := show1 (show1 d e0 p0 p1 g0) e1 p1 p0 g1
    if p0 = 15 ∨ p1 = 15 then
      let n := d.get (Reg.D2D_LAT_STATUS_attempts (baseSel e0.1) e0.2)
      let d := each ends (fun e d => d.bump (Reg.D2D_LAT_STATUS_attempts (baseSel e.1) e.2)) d
      if 2 ≤ n then d.latDown l else d
    else
      let w := min p0 p1
      let d := each ends (fun e d =>
        let d := (d.set (Reg.D2D_LAT_STATUS_attempts (baseSel e.1) e.2) 0).set (Reg.D2D_LAT_STATUS_width_code (baseSel e.1) e.2) w
        let d := d.set (Reg.D2D_LAT_CTL_retrain (baseSel e.1) e.2) 0
        let x := d.latSide e.1 e.2
        let again := x.replay.map (fun y => { y with width := w })
        d.setLatSide e.1 e.2 { x with crcFails := 0, replayFrom := none, replay := again, wire := again }) d
      let d := d.setLat l 2
      if d.linkDown l then ((d.markLink l false).routesFail).flushStart else d

/-- A write of D2D_LAT_CTL.retrain: the link trains (R204). -/
def Dev.latRetrain (d : Dev) (b j : Nat) : Dev :=
  let d := d.set (Reg.D2D_LAT_CTL_retrain (baseSel b) j) 1
  if d.heldDie (baseSel (latPartner b j)) then d else d.setLat (latIndex b j) 1

/-- Both sides hold traffic and retrain; what the wires carried is lost, what the replay buffers hold stays (R203). -/
def Dev.latMismatch (d : Dev) (b j : Nat) : Dev :=
  let d := d.setLatSide b j { d.latSide b j with crcFails := 0 }
  let d := (d.bump (Reg.D2D_LAT_ERRCNT_mismatches (baseSel b) j)).setLat (latIndex b j) 3
  each (latEnds (latIndex b j)) (fun e d => d.setLatSide e.1 e.2 { d.latSide e.1 e.2 with wire := [] }) d

/-- A base die enters per-die reset: its partners show PARTNER_RESET and routes fail over, without a record (R205). -/
def Dev.latPartnersReset (d : Dev) (b : Nat) : Dev :=
  each [0, 1] (fun j d =>
    let d := d.set (Reg.D2D_LAT_STATUS_state (baseSel (latPartner b j)) j) 4
    d.linkOut (latIndex b j)) d

/-- A base die leaves per-die reset: its links train, where the other end is out of reset (R205). -/
def Dev.latRestart (d : Dev) (b : Nat) : Dev :=
  each [0, 1] (fun j d =>
    if d.heldDie (baseSel (latPartner b j)) then d.set (Reg.D2D_LAT_STATUS_state (baseSel b) j) 4
    else
      let d := d.setLat (latIndex b j) 1
      each (latEnds (latIndex b j)) (fun e d => d.set (Reg.D2D_LAT_STATUS_attempts (baseSel e.1) e.2) 0) d) d

/-! ### Route tables (R189, R193) -/

/-- The key of a route entry: die selector, table, entry. -/
def routeKey (sel table entry : Nat) : Nat := (sel * 64 + table) * 256 + entry

/-- A route entry. -/
def Dev.route (d : Dev) (sel table entry : Nat) : BitVec 64 := d.noc.routes.get (routeKey sel table entry) 0

/-- The entry that NOC_RT_SEL names. -/
def Dev.routeSel (d : Dev) (sel : Nat) : Nat :=
  routeKey sel (d.get (Reg.NOC_RT_SEL_table sel)) (d.get (Reg.NOC_RT_SEL_entry sel))

/-- A write of NOC_RT_DATA_HI commits the selected entry with the last NOC_RT_DATA_LO (R193); bit 53 and the reserved bits
are not taken from the write. -/
def Dev.routeCommit (d : Dev) (sel : Nat) (v : Word) : Dev :=
  let raw : BitVec 64 := (v ++ d.rdWord (Reg.NOC_RT_DATA_LO sel) : BitVec 64) &&& 0x001FFFFFFFFFFFFF#64
  { d with noc := { d.noc with routes := d.noc.routes.put (d.routeSel sel) (d.altActive raw) 0,
                               loDue := without d.noc.loDue sel } }

/-- A write of NOC_RT_DATA_LO, which the next write of NOC_RT_DATA_HI commits. -/
def Dev.routeLo (d : Dev) (sel : Nat) (v : Word) : Dev :=
  { d.wrWord (Reg.NOC_RT_DATA_LO sel) v with noc := { d.noc with loDue := withItem d.noc.loDue sel } }

/-- NOC_RT_DATA_LO and _HI read the selected entry; a value of NOC_RT_DATA_LO that no write of NOC_RT_DATA_HI has committed reads
itself (R9, R193). -/
def Dev.routeWord (d : Dev) (sel : Nat) (hi : Bool) : Word :=
  let e := d.noc.routes.get (d.routeSel sel) 0
  if hi then e.extractLsb' 32 32
  else if sel ∈ d.noc.loDue then d.rdWord (Reg.NOC_RT_DATA_LO sel) else e.extractLsb' 0 32

/-! ### Statistics and counters (R198, R200, R220) -/

/-- A write of NOC_STAT_CTL.clear clears an initiator's set; `now` keeps counting (R200). -/
def Dev.statClear (d : Dev) (sel i : Nat) : Dev :=
  let d := (d.setPair (Reg.NOC_STAT_BYTES_LO sel i) (Reg.NOC_STAT_BYTES_HI sel i) 0).setPair (Reg.NOC_STAT_TXN_LO sel i)
    (Reg.NOC_STAT_TXN_HI sel i) 0
  let d := d.set (Reg.NOC_STAT_OUT_peak sel i) (d.get (Reg.NOC_STAT_OUT_now sel i))
  each (List.range 16) (fun j d => d.wrWord (Reg.NOC_STAT_BUCKET sel i j) 0) d

/-! ### Remote caches: flushes and resets (R214, R215) -/

/-- The key of a remote-cache line: compute die and line address. -/
def rcKey (c line : Nat) : Nat := c * 2 ^ 48 + line

/-- A compute die's remote cache is emptied. -/
def Dev.rcEmpty (d : Dev) (c : Nat) : Dev :=
  { d with rc := { d.rc with lines := d.rc.lines.clear (c * 2 ^ 48) ((c + 1) * 2 ^ 48) } }

/-- A home clears a compute die's bit in every entry; an acknowledgment that it awaits of that die counts as come (R206, R214). -/
def Dev.dieGone (d : Dev) (b c : Nat) : Dev :=
  { d with rc := { d.rc with dir := d.rc.dir.filterMap (fun e =>
      if d.homeOf e.1 == b && (e.2.sharers ||| e.2.pend).getLsbD c then
        ({ e.2 with sharers := e.2.sharers &&& ~~~(1#12 <<< c) }.acked (1#12 <<< c)).map (fun x => (e.1, x))
      else some e) } }

/-- A compute die drops every line homed on a base die (R214). -/
def Dev.dropHomed (d : Dev) (c b : Nat) : Dev :=
  { d with rc := { d.rc with lines := d.rc.lines.filter (fun e =>
      !(e.1 / 2 ^ 48 == c && d.homeOf (e.1 % 2 ^ 48) == b)) } }

/-- A base die's directory is emptied. -/
def Dev.dirEmpty (d : Dev) (b : Nat) : Dev :=
  { d with rc := { d.rc with dir := d.rc.dir.filter (fun e => d.homeOf e.1 != b) } }

/-- Whether remote-cache requests are outstanding (R215 step 2): an RC_READ or RC_WRITE without its answer, a home that waits for
acknowledgments, or traffic of VC3. -/
def Dev.rcBusy (d : Dev) : Bool :=
  d.noc.outstanding.any (fun o => o.pkt.type == 8 || o.pkt.type == 9) || d.rc.dir.any (fun e => e.2.pend != 0) ||
    d.noc.flights.any (fun x => x.pkt.vc == 3) || d.noc.waiting.any (fun p => p.vc == 3)

/-- A word of a world register takes effect (R425): a granary region whose zeroing still runs stays secure until it ends. -/
def Dev.worldApply (d : Dev) (a : Nat) (w : Word) : Dev :=
  match [0, 1, 2, 3].find? (fun b => Reg.SEC_GRAN_WORLD b == a) with
  | none => d.wrWord a w
  | some b =>
    let held := (List.range 16).filter (fun g => decide (16 * b + g ∈ d.sec.zeroing))
    let w2 := held.foldl (fun w g => setBits w g 1 1) w
    let d := d.wrWord a w2
    { d with sec := { d.sec with worldWait := if held = [] then d.sec.worldWait.filter (fun e => e.1 != a)
                                                else d.sec.worldWait.filter (fun e => e.1 != a) ++ [(a, w)] } }

/-- A flush completes: caches and directories are emptied, world changes that waited take effect, and a die's own flush
ends (R215, R222). Requests that wait go on (Machine/Noc.lean). -/
def Dev.flushEnd (d : Dev) : Dev :=
  let d :=
    if d.rc.flushAll then { d with rc := { d.rc with lines := [], dir := [] } } else d
  let d := each d.rc.flushing (fun c d =>
    let d := d.rcEmpty c
    let off := decide (c ∈ d.rc.disabling)
    (if off then d.set (Reg.RCACHE_CTL_enable c) 0 else d).set (Reg.RCACHE_CTL_flush c) 0) d
  let pend := d.rc.afterFlush
  let d := { d with rc := { d.rc with flushAll := false, flushing := [], disabling := [], afterFlush := [] } }
  each pend (fun e d => d.worldApply e.1 e.2) d

/-- A write of RCACHE_CTL.flush (R215, R222). -/
def Dev.rcFlush (d : Dev) (c : Nat) : Dev :=
  ({ d with rc := { d.rc with flushing := withItem d.rc.flushing c } }).set (Reg.RCACHE_CTL_flush c) 1

/-- A write of 0 to RCACHE_CTL.enable: the cache is flushed first (R222). -/
def Dev.rcDisable (d : Dev) (c : Nat) : Dev :=
  if d.on (Reg.RCACHE_CTL_enable c) then
    { d with rc := { d.rc with flushing := withItem d.rc.flushing c, disabling := withItem d.rc.disabling c } }
  else d

/-- A write of RCACHE_CTL (R219, R222): a compute die of stepping B0 has no prefetch. -/
def Dev.rcacheCtl (d : Dev) (c : Nat) (v : Word) : Dev :=
  let d := if Config.stepping c = 0xB1 then d.set (Reg.RCACHE_CTL_prefetch c) (bits v 2 1) else d
  let d :=
    if bits v 0 1 = 1 then
      ({ d with rc := { d.rc with disabling := without d.rc.disabling c } }).set (Reg.RCACHE_CTL_enable c) 1
    else d.rcDisable c
  if bits v 1 1 = 1 then d.rcFlush c else d

/-- D2D_VERT_STATUS.ready of the eight vertical ports of a compute die (R206). -/
def Dev.vertSet (d : Dev) (c : Nat) (ready : Bool) : Dev :=
  each (List.range 8) (fun i d => d.setBit (Reg.D2D_VERT_STATUS_ready (baseSel (baseOf c))) (8 * (c % 3) + i) ready) d

/-- The vertical ports of a compute die that has left reset have exchanged credits and report ready; its bridges are ready with them
(R81, R206; log entry 125). -/
def Dev.vertReady (d : Dev) (c : Nat) : Dev :=
  if d.heldDie c ∨ d.heldDie (baseSel (baseOf c)) then d else (d.vertSet c true).bridgesAtRest

/-! ### Feature masks (R218, R219) -/

/-- The feature mask of a die. -/
def dieFeatures (sel : Nat) : Word := if sel ≤ 11 ∧ Config.stepping sel = 0xB0 then 0x000001FF#32 else 0x000301FF#32

/-- The device's feature mask. -/
def deviceFeatures : Word :=
  (List.range 12).foldl (fun w c => w &&& dieFeatures c) 0x000301FF#32

/-- NOC_DIE_ID of a die. -/
def dieId (sel : Nat) : Word := if sel ≤ 11 then BitVec.ofNat 32 (Config.stepping sel * 16) else BitVec.ofNat 32 (1 + 0xA1 * 16)

end Sys2Proof.Machine
end

