-- ==== Sys2Proof/Machine/Packet.lean ====
section
/-! DEFINITION. Packets and what carries them (R183 to R204): nodes and network interfaces (Table 6.1), the bits of a header flit
(Table 6.2), injection on a route, routers with their buffers, credits and arbitration, and the flits of a lateral link. What targets
and remote caches do with packets stands in Machine/Noc.lean. Die selectors name dies. -/

namespace Sys2Proof.Machine

/-! ### Nodes and routers (Table 6.1, R186) -/

/-- Die selector, router or vertical port, and local endpoint of a node id. -/
def nodeDie (n : Nat) : Nat := n / 2048 % 32
def nodePort (n : Nat) : Nat := n / 32 % 64
def nodeEnd (n : Nat) : Nat := n % 32

/-- The node id of an endpoint: on a base die an NI number serves as local endpoint (DEDUCED, log entry 48). -/
def nodeId (sel port ep : Nat) : Nat := sel * 2048 + port * 32 + ep

/-- Rows and columns of a base die that Table 6.1 names. -/
def memoryRow (b : Nat) : Nat := if b < 2 then 0 else 7
def innerRow (b : Nat) : Nat := if b < 2 then 7 else 0
def sliceRow (b : Nat) : Nat := if b < 2 then 1 else 6
def laneColumn (b : Nat) : Nat := if b % 2 = 0 then 0 else 5
def innerColumn (b : Nat) : Nat := if b % 2 = 0 then 5 else 0

/-- The router of an NI of base die b. -/
def niRouter (b ni : Nat) : Nat :=
  let xy : Nat × Nat :=
    if ni < 4 then (1 + ni, memoryRow b)
    else if ni < 10 then (ni - 4, sliceRow b)
    else if ni < 18 then (laneColumn b, ni - 10)
    else if ni = 18 then (innerColumn b, memoryRow b)
    else (5, 7)
  6 * xy.2 + xy.1

/-- Whether base die b has an NI of a number: 19 and 20 stand on B0 only. -/
def hasNi (b ni : Nat) : Bool := decide (ni ≤ 18 ∨ (b = 0 ∧ ni ≤ 20))

/-- The router where vertical port c of the compute die at position p lands. -/
def vertRouter (p c : Nat) : Nat := 6 * (2 + c / 2) + (2 * p + c % 2)

/-- Where a packet that leaves an NI of a die enters the mesh: base die and router. -/
def entryPoint (sel ni : Nat) : Nat × Nat :=
  if sel ≤ 11 then (sel / 3, vertRouter (sel % 3) ni) else (sel - 16, niRouter (sel - 16) ni)

/-- The NI of a node: a compute die's vertical port, or the local endpoint of a base die. -/
def nodeNi (n : Nat) : Nat := if nodeDie n ≤ 11 then nodePort n else nodeEnd n

/-- Local endpoints of a compute die: dock j of the field at local row r is 2 r + j on its column's vertical port; 8 is the remote
cache, 9 the MAC tiles in service mode, 10 the state-access port and the frame writer, 11 every other unit. The spec numbers none of
them (DESIGN CHOICE, log entry 130). -/
def dockNode (f j : Nat) : Nat := nodeId (dieOf f) (idxOf f % 8) (2 * (idxOf f / 8) + j)
def cacheNode (c line : Nat) : Nat := nodeId c (line / 64 % 8) 8
def unitNode (sel : Nat) : Nat := if sel ≤ 11 then nodeId sel 0 11 else nodeId sel (niRouter (sel - 16) 18) 18
def serviceNode : Nat := nodeId 16 (niRouter 0 19) 19

/-- The number of a node among the initiators of its die (R200): docks 2 i + j, 64 to 66, or the NI number on a base die. -/
def nodeInit (n : Nat) : Nat :=
  if 11 < nodeDie n then nodeEnd n
  else if nodeEnd n < 8 then 2 * (8 * (nodeEnd n / 2) + nodePort n % 8) + nodeEnd n % 2
  else if nodeEnd n = 8 then 64
  else if nodeEnd n = 9 then 65
  else 66

/-- The node of the endpoint that serves an address (Tables 1.6, 6.1): HBM at its channel's port, the granary at its slice, registers
at their die's register endpoint; package registers and the service processor's memory at the service processor (DEDUCED, log entry
131). None outside every range. -/
def Dev.targetNode (d : Dev) (a : Nat) : Option Nat :=
  (placeOf a).map (fun p =>
    match p with
    | .hbm =>
      let m := (hbmSplit d.hbmOrder a).1
      let ni := controllerNi (hbmController d.hbmOrder a)
      nodeId (baseSel (m / 2)) (niRouter (m / 2) ni) ni
    | .gran b off => nodeId (baseSel b) (niRouter b (4 + off / 0x400000)) (4 + off / 0x400000)
    | .bin f _ _ => nodeId (dieOf f) (idxOf f % 8) 11
    | .tile f _ _ => nodeId (dieOf f) (idxOf f % 8) 11
    | .frame fa _ => nodeId (dieOf (frameField fa)) (idxOf (frameField fa) % 8) 10
    | .reg r => if r / 0x1000000 = 32 then serviceNode else unitNode (r / 0x1000000)
    | .sp _ => serviceNode)

/-- Whether the endpoint at a node is the one that serves an address: the die's, and on a base die the NI's. -/
def Dev.servesAddr (d : Dev) (node a : Nat) : Bool :=
  match d.targetNode a with
  | some t => nodeDie t == nodeDie node && (decide (nodeDie t ≤ 11) || nodeEnd t == nodeEnd node)
  | none => true

/-! ### Packets (R187, R188, Table 6.3) -/

/-- The initiator of a packet, with the world of its secure bit (R421). -/
def Packet.who (p : Packet) : Who :=
  if nodeDie p.src = 16 ∧ nodeEnd p.src = 19 then .core (if p.secure then 0 else 1)
  else if nodeDie p.src = 16 ∧ nodeEnd p.src = 20 ∧ ¬ p.secure then .host
  else if nodeDie p.src = 16 ∧ nodeEnd p.src = 20 then .dma true
  else .tile 0 p.secure

/-- Whether a packet is a request that gets a response. -/
def Packet.isRequest (p : Packet) : Bool := p.type == 0 || p.type == 1 || p.type == 8 || p.type == 9

/-- Whether a packet answers another one: these have buffers of their own (R194). -/
def Packet.isResponse (p : Packet) : Bool := p.type == 2 || p.type == 3 || p.type == 10 || p.type == 12

/-- Whether a type is reserved (Table 6.3). -/
def Packet.reservedType (p : Packet) : Bool := p.type == 5 || p.type == 6 || p.type == 7 || decide (15 ≤ p.type)

/-- The virtual channel of a source's plane (Tables 1.3 and 6.3): VC3 for the remote caches' types; VC2 for a base die's management
units and for budget messages; VC0 for the service processor and the host port (DEDUCED, log entry 132); VC1 for the rest. -/
def Packet.planeVc (p : Packet) : Nat :=
  if 8 ≤ p.type then 3
  else if p.type = 4 then (if nodeDie p.src = 16 ∧ nodeEnd p.src = 20 then 0 else 2)
  else if nodeDie p.src ≤ 11 then 1
  else if nodeEnd p.src = 18 then 2
  else if 19 ≤ nodeEnd p.src then 0
  else 1

/-- The hop codes of a header, code i at bits [3 i + 2:3 i]. -/
def hopsWord : List Nat → Nat
  | [] => 0
  | c :: r => c % 8 + 8 * hopsWord r

/-- The fields of a header flit: lowest bit, width, value (Table 6.2). -/
def Packet.headerFields (p : Packet) : List (Nat × Nat × Nat) :=
  [(0, 2, p.vc), (2, 4, p.type), (6, 8, p.route), (14, 8, p.respRoute), (22, 4, p.hopPtr), (26, 36, hopsWord (p.hops.take 12)),
   (62, 4, p.hops.length), (66, 16, p.src), (82, 16, p.dst), (98, 12, p.tag), (110, 48, p.addr), (158, 6, p.lenM1),
   (164, 1, if p.secure then 1 else 0), (165, 2, p.status), (167, 64, p.bmask.toNat)]

/-- Bit 504 + k over bits [64 k + 63:64 k], bit 511 over bits [503:448]: whether their number of ones is odd. -/
def groupOdd (w k : Nat) : Bool :=
  ((List.range (if k = 7 then 56 else 64)).filter (fun i => (w / 2 ^ (64 * k + i)) % 2 == 1)).length % 2 == 1

/-- A packet's header flit with even parity (R187). -/
def Packet.header (p : Packet) : Nat :=
  let w := p.headerFields.foldl (fun w e => w + e.2.2 % 2 ^ e.2.1 * 2 ^ e.1) 0
  (List.range 8).foldl (fun x k => x + if groupOdd w k then 2 ^ (504 + k) else 0) w

/-- Whether the parity of a header flit holds. -/
def headerOk (w : Nat) : Bool := (List.range 8).all (fun k => groupOdd w k == ((w / 2 ^ (504 + k)) % 2 == 1))

/-- The field of a header flit at a bit, of a width. -/
def headerField (w lsb n : Nat) : Nat := w / 2 ^ lsb % 2 ^ n

/-- A packet with the fields of a header flit as it was received. -/
def Packet.readHeader (p : Packet) (w : Nat) : Packet :=
  { p with
    vc := headerField w 0 2, type := headerField w 2 4, route := headerField w 6 8, respRoute := headerField w 14 8
    hopPtr := headerField w 22 4
    hops := (List.range (headerField w 62 4)).map (fun i => if i < 12 then headerField w (26 + 3 * i) 3 else 0)
    src := headerField w 66 16, dst := headerField w 82 16, tag := headerField w 98 12, addr := headerField w 110 48
    lenM1 := headerField w 158 6, secure := headerField w 164 1 == 1, status := headerField w 165 2
    bmask := BitVec.ofNat 64 (headerField w 167 64) }

/-- A word with the bits at some places inverted, one after another. -/
def flipBits (w : Nat) (l : List Nat) : Nat := l.foldl (fun w i => w ^^^ 2 ^ i) w

/-- The data flit of a packet: byte k in bits [8 k + 7:8 k] (R188). -/
def Packet.dataFlit (p : Packet) : Nat := ofBytes (p.data.take 64)

/-- What SEC-DED finds in a data flit whose bits at `flips` differ from what the source NI sent: 64-bit word w with its 8 check bits
stands at places 72 w to 72 w + 71. The number of words with a single-bit error, and whether any word has more (R198; DEDUCED, log
entry 133). -/
def dataCheck (flips : List Nat) : Nat × Bool :=
  let n (w : Nat) : Nat := (toggleAll [] (flips.filter (fun i => decide (i / 72 = w)))).length
  (((List.range 8).filter (fun w => n w == 1)).length, (List.range 8).any (fun w => decide (2 ≤ n w)))

/-- The bus error that a request ends in. -/
def Packet.busError (p : Packet) : Packet :=
  { p with type := if p.type = 1 ∨ p.type = 9 then 3 else 2, src := p.dst, dst := p.src, status := 1, data := [] }

/-! ### Initiators (R190, R192, R199, R200) -/

/-- A response, the bus error in its place, or a message is delivered to an endpoint. -/
def Dev.deliver (d : Dev) (p : Packet) : Dev := { d with noc := { d.noc with delivered := d.noc.delivered ++ [p] } }

/-- The key of a source NI, and the tag that it gives its next request: its tags follow one another (DESIGN CHOICE, log entry
134). -/
def niKey (n : Nat) : Nat := nodeDie n * 64 + nodeNi n
def Dev.nextTag (d : Dev) (n : Nat) : Nat := d.noc.tags.get (niKey n) 0

/-- An NI gives its tag to a request; nothing that came for an earlier request with it is left. -/
def Dev.useTag (d : Dev) (n : Nat) : Dev :=
  { d with noc := { d.noc with
      tags := d.noc.tags.put (niKey n) ((d.nextTag n + 1) % 4096) 0
      delivered := d.noc.delivered.filter (fun p => !(niKey p.dst == niKey n && p.tag == d.nextTag n && p.type != 4)) } }

/-- A request is outstanding from its injection on, and counted in its initiator's statistics. -/
def Dev.begin (d : Dev) (p : Packet) (own : Bool) (asks : List Packet := []) : Dev :=
  let d := d.statInject (nodeDie p.src) (nodeInit p.src)
  { d with noc := { d.noc with outstanding := d.noc.outstanding ++
      [{ src := p.src, tag := p.tag, pkt := p, time := d.now, own := own, asks := asks }] } }

/-- The outstanding request that a response answers. -/
def Dev.reqOf (d : Dev) (src tag : Nat) : Option OutReq := d.noc.outstanding.find? (fun o => o.src == src && o.tag == tag)

/-- A request is outstanding no more; its statistics take its latency in ns. -/
def Dev.endReq (d : Dev) (o : OutReq) : Dev :=
  ({ d with noc := { d.noc with outstanding := d.noc.outstanding.erase o } } : Dev).statEnd (nodeDie o.src) (nodeInit o.src)
    (o.pkt.lenM1 + 1) ((d.now - o.time) / 16)

/-- A request ends at its initiator with a response; one to no outstanding request is discarded (R199). -/
def Dev.finishOne (d : Dev) (p : Packet) : Dev :=
  match d.reqOf p.dst p.tag with
  | none => d
  | some o => (d.endReq o).deliver p

/-- The answer to a request, with a status and the data of its 64-byte block. -/
def Packet.answer (p : Packet) (status : Nat) (data : List Byte) : Packet := { p.busError with status := status, data := data }

/-- A request ends; those that it was sent for end with the same status. -/
def Dev.finishReq (d : Dev) (p : Packet) : Dev :=
  match d.reqOf p.dst p.tag with
  | none => d
  | some o =>
    if o.asks = [] then (d.endReq o).deliver p
    else each o.asks (fun w d => d.finishOne (w.answer p.status [])) (d.endReq o)

/-! ### Injection (R190, R192) -/

/-- The route entry that a route id takes at an NI: its alternate while alt_active is set; with the id actually used. -/
def Dev.routeUse (d : Dev) (sel ni id : Nat) : Nat × BitVec 64 :=
  let e := d.route sel ni id
  if e.getLsbD 53 then (((e >>> 40).toNat) % 256, d.route sel ni (((e >>> 40).toNat) % 256)) else (id, e)

/-- Whether an entry is usable: valid, and at most 12 codes (Table 6.4). -/
def entryOk (e : BitVec 64) : Bool := e.getLsbD 52 && decide ((e >>> 36).toNat % 16 ≤ 12)

/-- The hop codes of an entry. -/
def entryHops (e : BitVec 64) : List Nat := (List.range ((e >>> 36).toNat % 16)).map (fun i => (e >>> (3 * i)).toNat % 8)

/-- A record of class NOC_ROUTE at a router or NI. -/
def Dev.routeError (d : Dev) (sel unit : Nat) : Dev := d.err sel unit 3 0x0501

/-- Whether a packet's route id names a usable entry at its NI. -/
def Dev.routed (d : Dev) (sel ni : Nat) (p : Packet) : Bool := entryOk (d.routeUse sel ni p.route).2

/-- A packet leaves an NI: false says that its route entry is invalid, and a record is written. A compute die's packet comes to the
router of its vertical port at once (DESIGN CHOICE, log entry 135). -/
def Dev.launch (d : Dev) (sel ni : Nat) (p : Packet) : Bool × Dev :=
  let u := d.routeUse sel ni p.route
  if entryOk u.2 then
    (true, Dev.countUp { d with noc := { d.noc with flights := d.noc.flights ++
      [{ pkt := { p with route := u.1, hops := entryHops u.2, hopPtr := 0 },
         die := 16 + (entryPoint sel ni).1, router := (entryPoint sel ni).2, input := if sel ≤ 11 then 4 else 6,
         sent := d.noc.count, came := d.noc.count }] } })
  else (false, d.routeError sel ni)

/-- What an NI answers at once in place of a base die that is held (R41, R214): a bus error for its memory, zeros for its registers;
nothing for any other target. -/
def Dev.heldAnswer (d : Dev) (p : Packet) : Option Packet :=
  match placeOf p.addr, (d.targetNode p.addr).map nodeDie with
  | some (.reg r), some s =>
    if r / 0x1000000 = 32 ∨ s < 16 ∨ ¬ d.heldDie s then none else some (p.answer 0 (List.replicate 64 0))
  | some (.sp _), _ => none
  | some _, some s => if 16 ≤ s ∧ d.heldDie s then some (p.answer 1 []) else none
  | _, _ => none

/-- A request leaves its NI on the virtual channel of its plane and is outstanding, `asks` being the requests that its response
answers; with a held base die as target, or on an invalid route, it ends at once in the answer given (R192, R214). -/
def Dev.trySend (d : Dev) (p : Packet) (asks : List Packet) : Option Packet × Dev :=
  let p := { p with vc := p.planeVc, tag := d.nextTag p.src }
  let d := d.useTag p.src
  match d.heldAnswer p with
  | some r => (some r, d)
  | none =>
    if d.routed (nodeDie p.src) (nodeNi p.src) p then
      (none, ((d.launch (nodeDie p.src) (nodeNi p.src) p).2).begin p true asks)
    else (some p.busError, d.routeError (nodeDie p.src) (nodeNi p.src))

/-- A request is sent, or ends at once. -/
def Dev.injectFor (d : Dev) (p : Packet) (asks : List Packet) : Dev :=
  match d.trySend p asks with
  | (none, d) => d
  | (some r, d) => if asks = [] then d.deliver r else each asks (fun w d => d.finishOne (w.answer r.status [])) d

/-- An initiator injects a packet at its NI. -/
def Dev.inject (d : Dev) (p : Packet) : Dev :=
  if p.isRequest then d.injectFor p []
  else (d.launch (nodeDie p.src) (nodeNi p.src) { p with vc := if p.reservedType ∨ p.isResponse then p.vc else p.planeVc }).2

/-- The route id that an initiator's own configuration gives a message to a node (R190); the spec does not say where that stands (log
entry 136). -/
def ownRoute (src dst : Nat) : Nat := Config.ownRoute src dst % 256

/-- A message of 64 bytes leaves for a node (Table 6.3, MSG). -/
def Dev.sendMsg (d : Dev) (src dst : Nat) (data : List Byte) : Dev :=
  d.inject { type := 4, src := src, dst := dst, route := ownRoute src dst, lenM1 := 63, data := data }

/-! ### Routers (R189 to R197) -/

/-- Replaces or removes flight `i`. -/
def Dev.setFlight (d : Dev) (i : Nat) (x : Option Flight) : Dev :=
  { d with noc := { d.noc with flights := match x with
                                          | some f => d.noc.flights.set i f
                                          | none => d.noc.flights.eraseIdx i } }

/-- The router beyond a mesh link: N, E, S, W. -/
def meshStep (router code : Nat) : Option Nat :=
  let x := router % 6
  let y := router / 6
  match code with
  | 0 => if y = 0 then none else some (router - 6)
  | 1 => if x = 5 then none else some (router + 1)
  | 2 => if y = 7 then none else some (router + 6)
  | 3 => if x = 0 then none else some (router - 1)
  | _ => none

/-- The lateral link attached to a router of base die b: 0 east–west, 1 north–south. -/
def lateralAt (b router : Nat) : Option Nat :=
  let x := router % 6
  let y := router / 6
  if x = innerColumn b ∧ 2 ≤ y ∧ y ≤ 5 then some 0
  else if y = innerRow b ∧ 1 ≤ x ∧ x ≤ 4 then some 1
  else none

/-- The compute die whose vertical port is attached to a router of base die b, with the port. -/
def vertAt (b router : Nat) : Option (Nat × Nat) :=
  if 2 ≤ router / 6 ∧ router / 6 ≤ 5 then some (3 * b + router % 6 / 2, (router / 6 - 2) * 2 + router % 2) else none

/-- The router where a lateral link's wires from a router land on the partner. -/
def lateralLand (b j router : Nat) : Nat :=
  if j = 0 then 6 * (router / 6) + innerColumn (latPartner b j) else 6 * innerRow (latPartner b j) + router % 6

/-- The hop code that a packet is at; past the last code it is delivered here, as by EJECT (R190). -/
def Packet.hop (p : Packet) : Nat := (p.hops[p.hopPtr]?).getD 6

/-- Whether a packet stands at the router of its destination, which has the local port that it names (Table 6.5, R192). -/
def Flight.home (x : Flight) : Bool :=
  let b := x.die - 16
  nodeDie x.pkt.dst == x.die && nodePort x.pkt.dst == x.router && niRouter b (nodeEnd x.pkt.dst) == x.router &&
    hasNi b (nodeEnd x.pkt.dst)

/-- Whether a packet's hop can be made at all from where it stands (R192): no reserved code or type, no way out of the mesh, no port
that its router lacks. A packet that comes up a vertical port is for that port's die. -/
def Flight.hopExists (x : Flight) : Bool :=
  let b := x.die - 16
  !x.pkt.reservedType &&
    (match x.pkt.hop with
     | 4 => (match vertAt b x.router with
             | some (c, _) => nodeDie x.pkt.dst == c
             | none => false)
     | 5 => (lateralAt b x.router).isSome
     | 6 => x.home
     | 7 => false
     | c => (meshStep x.router c).isSome)

/-- Whether two packets stand in the same buffer of a router: requests and responses have separate ones in each virtual channel
(R194). -/
def Flight.sameBuffer (x y : Flight) : Bool :=
  !x.arrived && !y.arrived && x.die == y.die && x.router == y.router && x.input == y.input && x.pkt.vc == y.pkt.vc &&
    x.pkt.isResponse == y.pkt.isResponse

/-- Whether a packet is the first of its buffer. -/
def Dev.isHead (d : Dev) (x : Flight) : Bool := d.noc.flights.all (fun y => !(x.sameBuffer y && decide (y.came < x.came)))

/-- Flits that a packet takes on a link: its header, and its data (R187). -/
def Packet.flits (p : Packet) : Nat := if hasFlit p.type then 2 else 1

/-- Whether there is a credit for a packet's next buffer (R194): room in the buffer of the next router, whose depth the spec does not
give (log entry 137), in the replay buffer of a lateral link that is up (R202, R203), or at a vertical port that is ready or whose die
is held (R206). An endpoint takes what comes. -/
def Dev.credit (d : Dev) (x : Flight) : Bool :=
  let b := x.die - 16
  match x.pkt.hop with
  | 4 => (match vertAt b x.router with
          | some (c, p) => d.heldDie c || d.bit (Reg.D2D_VERT_STATUS_ready (baseSel b)) (8 * (c % 3) + p)
          | none => true)
  | 5 => (match lateralAt b x.router with
          | some j => d.latState b j == 2 && decide ((d.latSide (latPartner b j) j).replay.length + x.pkt.flits ≤ 64)
          | none => true)
  | 6 => true
  | c => (match meshStep x.router c with
          | some r =>
            let y := { x with router := r, input := (c + 2) % 4 }
            let n := (d.noc.flights.filter (fun z => y.sameBuffer z)).length
            n == 0 || decide (n < Config.routerBuffer)
          | none => true)

/-- The output of a router that a packet waits at: a hop code, or 8 + the local port. -/
def Flight.output (x : Flight) : Nat := if x.pkt.hop = 6 then 8 + nodeEnd x.pkt.dst else x.pkt.hop

/-- The key of a router's output among the turns, and the weight of a virtual channel there: NOC_VC_WEIGHT, 0 acting as 1. -/
def Flight.outKey (x : Flight) : Nat := (x.die * 48 + x.router) * 64 + x.output
def Dev.vcWeight (d : Dev) (sel vc : Nat) : Nat := max 1 (d.get (Reg.NOC_VC_WEIGHT_w sel) / 16 ^ vc % 16)

/-- Whether a virtual channel has, at a packet's output, a packet at the head of its buffer and a credit for it. -/
def Dev.vcReady (d : Dev) (x : Flight) (vc : Nat) : Bool :=
  d.noc.flights.any (fun y => !y.arrived && y.die == x.die && y.router == x.router && y.pkt.vc == vc && y.hopExists &&
    y.output == x.output && d.isHead y && d.credit y)

/-- The virtual channel whose turn it is at a packet's output (R194): the one served last until it has sent its weight of packets, then
the next one that is ready (DESIGN CHOICE, log entry 137). -/
def Dev.vcTurn (d : Dev) (x : Flight) : Nat :=
  let t := d.noc.turns.get x.outKey 0
  let v := t % 4
  if d.vcReady x v ∧ t / 4 < d.vcWeight x.die v then v
  else (([v + 1, v + 2, v + 3].map (fun u => u % 4)).find? (fun u => d.vcReady x u)).getD v

/-- A virtual channel has sent a packet at an output. -/
def Dev.turnTaken (d : Dev) (x : Flight) : Dev :=
  let t := d.noc.turns.get x.outKey 0
  let v := x.pkt.vc
  let n := if t % 4 = v ∧ t / 4 < d.vcWeight x.die v then t / 4 + 1 else 1
  { d with noc := { d.noc with turns := d.noc.turns.put x.outKey (v + 4 * n) 0 } }

/-- Whether a packet may leave its router now: it is at the head of its buffer, has a credit, and its channel has the turn. -/
def Dev.mayHop (d : Dev) (x : Flight) : Bool := d.isHead x && d.credit x && d.vcTurn x == x.pkt.vc

/-- The flits of a packet enter a lateral link toward the receiver of base die b (R202), never interleaved with another packet's
(R194). -/
def Dev.linkSend (d : Dev) (b j : Nat) (x : Flight) : Dev :=
  let y := d.latSide b j
  let w := d.get (Reg.D2D_LAT_STATUS_width_code (baseSel (latPartner b j)) j)
  let fs := (List.range x.pkt.flits).map (fun k => ({ seq := (y.next + k) % 256, width := w, flight := x, isData := k == 1 } : LinkFlit))
  d.setLatSide b j { y with next := (y.next + x.pkt.flits) % 256, wire := y.wire ++ fs, replay := y.replay ++ fs }

/-- A packet moves over one link (Table 6.5): it stands in the next buffer, at its destination, or on a lateral link. -/
def Dev.moveOn (d : Dev) (i : Nat) (x : Flight) : Dev :=
  let b := x.die - 16
  let at_ (y : Flight) : Dev := (d.setFlight i (some { y with stalled := false, came := d.noc.count })).countUp
  match x.pkt.hop with
  | 4 => (match vertAt b x.router with
          | some (c, p) => at_ { x with die := c, router := p, arrived := true }
          | none => d)
  | 5 => (match lateralAt b x.router with
          | some j => (d.setFlight i none).linkSend (latPartner b j) j x
          | none => d)
  | 6 => at_ { x with arrived := true }
  | c => (match meshStep x.router c with
          | some r => at_ { x with router := r, input := (c + 2) % 4, pkt := { x.pkt with hopPtr := x.pkt.hopPtr + 1 } }
          | none => d)

/-- A router receives packet `i` of those in flight and moves it on. `flips` are the bits of its header flit that the link changed, and
`again` those of the one resend that a parity failure asks for; if that fails too the packet is discarded (R197). A packet with
no way on is discarded (R192); one that may not leave yet waits (R194). One that comes to a link that is down is lost as those that
waited for it were (R204; DEDUCED, log entry 33). -/
def Dev.packetHop (d : Dev) (i : Nat) (flips again : List Nat) : Dev :=
  match d.noc.flights[i]? with
  | none => d
  | some x =>
    if x.arrived then d
    else
      let first := flipBits x.pkt.header flips
      let second := flipBits x.pkt.header again
      let resent := !headerOk first
      let d := if resent then d.bump (Reg.NOC_ERRCNT_hdr x.die) else d
      if resent ∧ ¬ headerOk second then (d.setFlight i none).err x.die x.router 3 0x0503
      else
        let w := if resent then second else first
        let x := if w = x.pkt.header then x else { x with pkt := x.pkt.readHeader w }
        if ¬ x.hopExists then (d.setFlight i none).routeError x.die x.router
        else
          let d := d.setFlight i (some x)
          if x.pkt.hop = 5 ∧ d.linkDown (latIndex (x.die - 16) ((lateralAt (x.die - 16) x.router).getD 0)) then d.setFlight i none
          else if d.mayHop x then (d.turnTaken x).moveOn i x else d

/-- A packet has been held at a router output for longer than NOC_STALL_LIMIT: one record for it, with the output's hop code in
info [2:0] and the channel in info [4:3] (DESIGN CHOICE, log entry 50). -/
def Dev.packetStall (d : Dev) (i : Nat) : Dev :=
  match d.noc.flights[i]? with
  | none => d
  | some x =>
    if x.arrived ∨ x.stalled then d
    else
      (d.setFlight i (some { x with stalled := true })).report
        { die := x.die, unit := x.router, severity := 3, cls := 0x0502, info := x.pkt.hop + x.pkt.vc * 8 }

/-- Whether packet `y` of those in flight goes before `x`: both are from one NI on one channel and route (R195), requests apart from
responses (R194), or both are a home's FILL and INVAL messages to one remote cache (R212); `y` was sent earlier. -/
def Flight.before (y x : Flight) : Bool :=
  let same := niKey y.pkt.src == niKey x.pkt.src && y.pkt.vc == x.pkt.vc && y.pkt.route == x.pkt.route &&
    y.pkt.isResponse == x.pkt.isResponse && y.pkt.dst == x.pkt.dst
  let toCache (p : Packet) : Bool := p.type == 10 || p.type == 11
  decide (y.sent < x.sent) && ((same && y.pkt.type != 11) ||
    (toCache y.pkt && toCache x.pkt && nodeDie y.pkt.src == nodeDie x.pkt.src && nodeDie y.pkt.dst == nodeDie x.pkt.dst))

/-- Packets in flight, on lateral links too. -/
def Dev.inFlight (d : Dev) : List Flight :=
  d.noc.flights ++ d.lat.flatMap (fun e => (e.2.replay.filter (fun y => !y.isData)).map (fun y => y.flight))

/-- Takes packet `i` of those in flight at its destination, if it is of a type asked for: none where one that goes before it is still on
its way. On a compute die the packet's destination then names the vertical port at which it arrived (R185). -/
def Dev.takeFlight (d : Dev) (i type : Nat) : Option (Packet × Dev) :=
  match d.noc.flights[i]? with
  | none => none
  | some x =>
    if ¬ x.arrived ∨ x.pkt.type ≠ type ∨ d.inFlight.any (fun y => y.before x) then none
    else
      some (if x.die ≤ 11 then { x.pkt with dst := nodeId x.die x.router (nodeEnd x.pkt.dst) } else x.pkt, d.setFlight i none)

/-! ### Flits of a lateral link (R202, R203) -/

/-- CRC-16 with x^16 + x^12 + x^5 + 1 over bits, from a value of 0. The spec gives no initial value and no order of the bits, and no
outcome here depends on them: the same code checks what it made (DESIGN CHOICE, log entry 138). -/
def crc16 (l : List Bool) : BitVec 16 :=
  l.foldl (fun c b => if c.getLsbD 15 != b then (c <<< 1) ^^^ 0x1021#16 else c <<< 1) 0

/-- The bits of a value, least significant first. -/
def lowBits (v n : Nat) : List Bool := (List.range n).map (fun i => v / 2 ^ i % 2 == 1)

/-- The CRC over a link header's bits [15:0] and the 512 bits of its flit. -/
def flitCrc (w : Nat) : Nat := (crc16 (lowBits (w % 65536) 16 ++ lowBits (w / 2 ^ 32) 512)).toNat

/-- A flit as it stands on a lateral link: the 32-bit link header in bits [31:0] with width code, virtual channel, sequence number and
CRC-16, and the flit above it (R202). -/
def LinkFlit.word (x : LinkFlit) : Nat :=
  let w := x.width % 16 + x.flight.pkt.vc % 4 * 16 + x.seq % 256 * 256 +
    (if x.isData then x.flight.pkt.dataFlit else x.flight.pkt.header) * 2 ^ 32
  w + flitCrc w * 65536

/-- A packet arrives over a lateral link at base die b: hops and count come from the transit table (R191). An invalid entry there discards
the packet as a route error (DEDUCED, log entry 49). -/
def Dev.lateralArrive (d : Dev) (x : Flight) (b j : Nat) : Dev :=
  let e := d.route (16 + b) (32 + j) x.pkt.route
  let r := lateralLand (latPartner b j) j x.router
  if entryOk e then
    Dev.countUp { d with noc := { d.noc with flights := d.noc.flights ++
        [{ x with pkt := { x.pkt with hops := entryHops e, hopPtr := 0 }, die := 16 + b, router := r, input := 5, stalled := false,
                  came := d.noc.count }] } }
  else d.routeError (16 + b) r

/-- A receiver takes a flit with the number it expects: the packet goes on once its last flit is there. `w` is the flit as received. -/
def Dev.linkTake (d : Dev) (b j : Nat) (x : LinkFlit) (w : Nat) : Dev :=
  let y := d.latSide b j
  let y := { y with expect := (y.expect + 1) % 256, crcFails := 0, replayFrom := none, replay := y.replay.drop 1 }
  if x.isData then
    let f := y.half.getD x.flight
    let f := if w = x.word then f else { f with pkt := { f.pkt with data := toBytes (w / 2 ^ 32) 64 } }
    (d.setLatSide b j { y with half := none }).lateralArrive f b j
  else
    let f := if w = x.word then x.flight else { x.flight with pkt := x.flight.pkt.readHeader (w / 2 ^ 32 % 2 ^ 512) }
    if hasFlit x.flight.pkt.type then d.setLatSide b j { y with half := some f }
    else (d.setLatSide b j y).lateralArrive f b j

/-- The next flit on the wires toward base die b's link j arrives, its bits at `flips` changed (R202, R203): with a failing CRC the
receiver asks for a replay from the number it expects, and what the replay buffer holds follows what is on the wires; four failures in
a row or another width code are a mismatch; a flit with another number than expected is passed over. -/
def Dev.latFlit (d : Dev) (b j : Nat) (flips : List Nat) : Dev :=
  if d.latState b j ≠ 2 then d
  else
    let y := d.latSide b j
    match y.wire with
    | [] => d
    | x :: rest =>
      let w := flipBits x.word flips
      let d := d.setLatSide b j { y with wire := rest }
      if flitCrc w ≠ w / 65536 % 65536 then
        let d := (d.setLatSide b j { y with wire := rest ++ y.replay,
                                            crcFails := y.crcFails + 1, replayFrom := some y.expect }).bump
          (Reg.D2D_LAT_ERRCNT_replays (baseSel b) j)
        if 3 ≤ y.crcFails then d.latMismatch b j else d
      else if w % 16 ≠ d.get (Reg.D2D_LAT_STATUS_width_code (baseSel b) j) then d.latMismatch b j
      else if w / 256 % 256 = y.expect then d.linkTake b j x w
      else d.setLatSide b j { y with wire := rest, crcFails := 0 }

end Sys2Proof.Machine
end

