-- ==== Sys2Proof/Machine/Codes.lean ====
section
/-! DEFINITION. The codes the spec defines bit by bit: CRC-32C (R279), the scrambler, symbols, stuffing and test patterns of the lanes
(R256 to R258, R273) and the CRC-4 of the debug port (R484). -/

namespace Sys2Proof.Machine

/-- One bit of a reflected CRC-32C. -/
def crcBit (c : BitVec 32) : BitVec 32 := if c.getLsbD 0 then (c >>> 1) ^^^ 0x82F63B78#32 else c >>> 1

/-- One byte of a CRC-32C state. -/
def crcByte (c : BitVec 32) (b : Byte) : BitVec 32 :=
  (List.range 8).foldl (fun x _ => crcBit x) (c ^^^ b.setWidth 32)

/-- The CRC-32C state after bytes. -/
def crcRun (c : BitVec 32) (l : List Byte) : BitVec 32 := l.foldl crcByte c

/-- The initial state, and the value of a state (R279). -/
def crcInit : BitVec 32 := 0xFFFFFFFF#32
def crcValue (c : BitVec 32) : BitVec 32 := c ^^^ 0xFFFFFFFF#32

/-- CRC-32C of bytes. -/
def crc32c (l : List Byte) : BitVec 32 := crcValue (crcRun crcInit l)

/-- The scrambler: the 31-bit state and the bits it has put out (R256). -/
def scramble : Nat → BitVec 31 → List Bool
  | 0, _ => []
  | n + 1, s =>
    let o := s.getLsbD 30 ^^ s.getLsbD 27
    o :: scramble n ((s <<< 1) ||| (if o then 1#31 else 0#31))

/-- The scrambler's seed at each marker (R256). -/
def scrambleSeed : BitVec 31 := 0x55555555#31

/-- The scrambled form of bits; the same again restores them (R256). -/
def scrambled (l : List Bool) : List Bool := List.zipWith (fun a b => a ^^ b) l (scramble l.length scrambleSeed)

/-- The PAM4 level of a bit pair, the first bit sent first (R258). -/
def pam4 (first second : Bool) : Nat :=
  match first, second with
  | false, false => 0
  | false, true => 1
  | true, true => 2
  | true, false => 3

/-- The symbols of line bits: an NRZ bit as 0 or 1, a PAM4 pair as its level (R255, R258). -/
def toSyms (pam : Bool) : List Bool → List Nat
  | [] => []
  | b :: r =>
    if pam then
      match r with
      | c :: r => pam4 b c :: toSyms pam r
      | [] => [pam4 b false]
    else (if b then 1 else 0) :: toSyms pam r

/-- The line bits of symbols. -/
def ofSyms (pam : Bool) (l : List Nat) : List Bool :=
  l.flatMap (fun s => if pam then [decide (2 ≤ s), s == 1 || s == 2] else [s == 1])

/-- The symbol an inverted pair carries (LANE_CTL.tx_pol, rx_pol). -/
def invertSym (pam : Bool) (s : Nat) : Nat := if pam then 3 - s else 1 - s

/-- The length of the run after which a symbol is stuffed, and the symbol stuffed after a run (R257, R258). -/
def runLimit (pam : Bool) : Nat := if pam then 12 else 24
def stuffSym (pam : Bool) (s : Nat) : Nat := if pam then (if s ≤ 1 then 3 else 0) else 1 - s

/-- A run with one more symbol. -/
def Run.step (r : Run) (s : Nat) : Run := if s = r.sym ∧ r.count ≠ 0 then { r with count := r.count + 1 } else { sym := s, count := 1 }

/-- Stuffing: a symbol goes out after every full run, and begins the next run (R257, R258). -/
def stuff (pam : Bool) (r : Run) : List Nat → List Nat × Run
  | [] => ([], r)
  | s :: l =>
    let q := r.step s
    if q.count = runLimit pam then
      let x := stuff pam { sym := stuffSym pam s, count := 1 } l
      (s :: stuffSym pam s :: x.1, x.2)
    else
      let x := stuff pam q l
      (s :: x.1, x.2)

/-- The receiver removes the symbol after every full run, whatever it is; the number of those that were not the stuffed symbol comes with the
rest (R257, R258). -/
def unstuff (pam : Bool) (r : Run) : List Nat → List Nat × Nat × Run
  | [] => ([], 0, r)
  | s :: l =>
    if r.count = runLimit pam then
      let x := unstuff pam { sym := s, count := 1 } l
      (x.1, x.2.1 + (if s = stuffSym pam r.sym then 0 else 1), x.2.2)
    else
      let x := unstuff pam (r.step s) l
      (s :: x.1, x.2)

/-- The taps of a PRBS generator: 0 PRBS7, 1 PRBS15, 2 and 3 PRBS31 (R273). -/
def prbsTaps (pat : Nat) : Nat × Nat := match pat with
  | 0 => (6, 5)
  | 1 => (14, 13)
  | _ => (30, 27)

/-- The next bit of a PRBS from its last 31 bits, the newest in bit 0 (R273). -/
def prbsNext (pat : Nat) (s : BitVec 31) : Bool := s.getLsbD (prbsTaps pat).1 ^^ s.getLsbD (prbsTaps pat).2

/-- The last 31 bits with one more. -/
def shiftIn (s : BitVec 31) (b : Bool) : BitVec 31 := (s <<< 1) ||| (if b then 1#31 else 0#31)

/-- `n` bits of a PRBS, and the generator after them. -/
def prbsBits (pat : Nat) : Nat → BitVec 31 → List Bool × BitVec 31
  | 0, s => ([], s)
  | n + 1, s =>
    let b := prbsNext pat s
    let x := prbsBits pat n (shiftIn s b)
    (b :: x.1, x.2)

/-- The CRC-4 of the debug port over bits in send order (R484). -/
def crc4 (l : List Bool) : BitVec 4 :=
  l.foldl (fun c b => (c <<< 1) ^^^ (if b ^^ c.getLsbD 3 then 3#4 else 0#4)) 15#4

/-- The low bits of a value, least significant first. -/
def bitList (v : Nat) (n : Nat) : List Bool := (List.range n).map (fun i => v / 2 ^ i % 2 == 1)

/-- The value of bits, least significant first. -/
def bitsVal (l : List Bool) : Nat := l.foldr (fun b x => 2 * x + (if b then 1 else 0)) 0

/-- The bits of bytes, each least significant bit first (R255). -/
def byteBits (l : List Byte) : List Bool := l.flatMap (fun b => bitList b.toNat 8)

/-- Bits in groups of `k`, at most `n` of them. -/
def groups (k : Nat) : Nat → List Bool → List (List Bool)
  | 0, _ => []
  | n + 1, l => if l = [] then [] else l.take k :: groups k n (l.drop k)

/-- The bytes of bits. -/
def bitsBytes (l : List Bool) : List Byte := (groups 8 (l.length / 8 + 1) l).map (fun g => BitVec.ofNat 8 (bitsVal g))

end Sys2Proof.Machine
end

