-- ==== Sys2Proof/Machine/Fec.lean ====
section
/-! DEFINITION. Forward error correction of the lanes (R259, R260): RS(544,514) over GF(2^10). The field x^10 + x^3 + 1, the generator
with the roots α^0 to α^29, the first symbol sent as the highest coefficient and the first bit sent as a symbol's least
significant bit are those of IEEE 802.3 Clause 91, which the spec names (PRESUMED, log entry 150). -/

namespace Sys2Proof.Machine

/-! ### The field -/

/-- A symbol, a polynomial of degree below 10. -/
abbrev Gf := BitVec 10

/-- The product with x. -/
def gfX (a : Gf) : Gf := if a.getLsbD 9 then (a <<< 1) ^^^ 9#10 else a <<< 1

/-- The product. -/
def gfMul (a b : Gf) : Gf :=
  ((List.range 10).foldl (fun (r : Gf × Gf) i => (if b.getLsbD i then r.1 ^^^ r.2 else r.1, gfX r.2)) (0, a)).1

/-- α to a power. -/
def gfExp (n : Nat) : Gf := (List.range n).foldl (fun a _ => gfX a) 1

/-- The inverse, the 1022nd power; 0 for 0. -/
def gfInv (a : Gf) : Gf :=
  ((List.range 9).foldl (fun (r : Gf × Gf) _ => let s := gfMul r.2 r.2; (gfMul r.1 s, s)) (1, a)).1

/-! ### Polynomials, lowest coefficient first -/

/-- The value of a polynomial. -/
def polyAt (p : List Gf) (x : Gf) : Gf := p.foldr (fun c v => gfMul v x ^^^ c) 0

/-- A coefficient. -/
def polyGet (p : List Gf) (i : Nat) : Gf := p.getD i 0

/-- The product. -/
def polyMul (p q : List Gf) : List Gf :=
  (List.range (p.length + q.length - 1)).map (fun k =>
    (List.range (k + 1)).foldl (fun v i => v ^^^ gfMul (polyGet p i) (polyGet q (k - i))) 0)

/-- The sum of a polynomial and another times c x^k. -/
def polyAdd (p q : List Gf) (c : Gf) (k : Nat) : List Gf :=
  (List.range (max p.length (q.length + k))).map (fun i =>
    polyGet p i ^^^ (if k ≤ i then gfMul c (polyGet q (i - k)) else 0))

/-! ### Encoding -/

/-- The generator, of degree 30. -/
def rsGen : List Gf := (List.range 30).foldl (fun g i => polyMul g [gfExp i, 1]) [1]

/-- The 30 parity symbols of message symbols, both in the order sent: the remainder of the message times x^30. -/
def rsParity (msg : List Gf) : List Gf :=
  let g := (rsGen.take 30).reverse
  msg.foldl (fun r m =>
    let f := m ^^^ r.headD 0
    List.zipWith (fun a b => a ^^^ gfMul f b) (r.drop 1 ++ [0]) g) (List.replicate 30 0)

/-! ### Decoding -/

/-- The 30 syndromes of a codeword in the order sent. -/
def rsSyndromes (c : List Gf) : List Gf := (List.range 30).map (fun i => c.foldl (fun v x => gfMul v (gfExp i) ^^^ x) 0)

/-- The error locator of syndromes and its assumed degree (Berlekamp and Massey): the locator, the one before its last change, their
degree, the steps since that change and its discrepancy. -/
def rsLocator (s : List Gf) : List Gf × Nat :=
  let r := (List.range 30).foldl (fun (x : List Gf × List Gf × Nat × Nat × Gf) n =>
    let (sig, old, deg, m, b) := x
    let e := (List.range (deg + 1)).foldl (fun v i => v ^^^ gfMul (polyGet sig i) (polyGet s (n - i))) 0
    if e = 0 then (sig, old, deg, m + 1, b)
    else if 2 * deg ≤ n then (polyAdd sig old (gfMul e (gfInv b)) m, sig, n + 1 - deg, 1, e)
    else (polyAdd sig old (gfMul e (gfInv b)) m, old, deg, m + 1, b)) ([1], [1], 0, 1, 1)
  (r.1, r.2.2.1)

/-- A codeword in the order sent, corrected, with the number of its symbols that were in error; none where more than 15 are, so that it
cannot be corrected (R260). -/
def rsDecode (c : List Gf) : Option (List Gf × Nat) :=
  let s := rsSyndromes c
  if s.all (fun x => x == 0) then some (c, 0)
  else
    let (sig, deg) := rsLocator s
    let omega := (polyMul s sig).take 30
    let der := (List.range sig.length).map (fun i => if i % 2 = 0 then polyGet sig (i + 1) else 0)
    let fix := (c.zipIdx).map (fun e =>
      let x := gfExp (543 - e.2)
      let y := gfInv x
      if polyAt sig y = 0 then gfMul x (gfMul (polyAt omega y) (gfInv (polyAt der y))) else 0)
    let n := (fix.filter (fun v => v != 0)).length
    let good := List.zipWith (fun a b => a ^^^ b) c fix
    if deg ≤ 15 ∧ n = deg ∧ (rsSyndromes good).all (fun x => x == 0) then some (good, n) else none

/-! ### Blocks (R259, Table 8.3) -/

/-- The chaff word and the FEC block word, as sent. -/
def chaffBits : List Bool := bitList 0x0F0F0F0FF0F0F0F0 64
def blockWord : List Bool := bitList 0xE4B1 16

/-- Bits as symbols, and symbols as bits. -/
def bitsSyms (l : List Bool) : List Gf := (groups 10 (l.length / 10 + 1) l).map (fun g => BitVec.ofNat 10 (bitsVal g))
def symsBits (l : List Gf) : List Bool := l.flatMap (fun s => bitList s.toNat 10)

/-- The 5,440 bits of a codeword of 5,140 message bits. -/
def fecEncode (l : List Bool) : List Bool := l ++ symsBits (rsParity (bitsSyms l))

/-- The bits of a block of five frames: block word, one chaff word and the frames, in four codewords. -/
def fecBlock (frames : List (List Bool)) : List Bool :=
  let m := blockWord ++ chaffBits ++ frames.flatten
  (List.range 4).flatMap (fun c => fecEncode ((m.drop (5140 * c)).take 5140))

/-- The message bits of a received codeword with its corrected symbols, or as they stand where it cannot be corrected (R260). -/
def fecDecode (l : List Bool) : List Bool × Option Nat :=
  match rsDecode (bitsSyms l) with
  | some (c, n) => ((symsBits c).take 5140, some n)
  | none => (l.take 5140, none)

end Sys2Proof.Machine
end

