-- ==== Sys2Proof/Machine/Lanes.lean ====
section
/-! DEFINITION. The serial lanes of chapter 8 of spec/ (R251 to R277): banks and references, lane states, the receiver's locks,
the elastic buffer, tests. Lane Lnnn is local lane nnn mod 48 of base die B(nnn div 48). -/

namespace Sys2Proof.Machine

/-- A lane's register selector and local number. -/
def laneSel (n : Nat) : Nat := baseSel (n / 48)
def laneJ (n : Nat) : Nat := n % 48

/-- The lane beside its registers. -/
def Dev.lane (d : Dev) (n : Nat) : Lane := d.lanes.get n {}
def Dev.setLane (d : Dev) (n : Nat) (v : Lane) : Dev := { d with lanes := d.lanes.put n v {} }

/-- A lane's state (Table 8.4): 0 OFF, 1 PLL, 2 ACQUIRE, 3 ALIGN, 4 UP, 5 TEST, 6 IDLE_FORCED. -/
def Dev.laneState (d : Dev) (n : Nat) : Nat := d.get (Reg.LANE_STATUS_state (laneSel n) (laneJ n))
def Dev.setLaneState (d : Dev) (n st : Nat) : Dev := d.set (Reg.LANE_STATUS_state (laneSel n) (laneJ n)) st

/-- A link's state (Table 9.6): 0 OFF, 1 HELLO, 2 ACTIVE, 3 FAILED, 4 PARTNER_HALTED, 5 HALTED. -/
def Dev.linkState (d : Dev) (n : Nat) : Nat := d.get (Reg.LCH_LINK_STATUS_state (laneSel n) (laneJ n))
def Dev.setLinkState (d : Dev) (n st : Nat) : Dev := d.set (Reg.LCH_LINK_STATUS_state (laneSel n) (laneJ n)) st

/-- The link beside its registers. -/
def Dev.link (d : Dev) (n : Nat) : Link := d.links.get n {}
def Dev.setLink (d : Dev) (n : Nat) (v : Link) : Dev := { d with links := d.links.put n v {} }

/-- Whether forward error correction is in use (R254). -/
def Dev.fecOn (d : Dev) (n : Nat) : Bool :=
  let r := d.get (Reg.LANE_CTL_rate (laneSel n) (laneJ n))
  r == 6 || r == 7 || d.on (Reg.LANE_CTL_fec_en (laneSel n) (laneJ n))

/-- Whether the lane's coding is PAM4 (Table 8.1). -/
def Dev.pamOn (d : Dev) (n : Nat) : Bool := decide (5 ≤ d.get (Reg.LANE_CTL_rate (laneSel n) (laneJ n)))

/-- The loop of a lane (Table 8.6): 0 NONE, 1 NEAR_SERIAL, 2 NEAR_PARALLEL, 3 FAR. -/
def Dev.loopOf (d : Dev) (n : Nat) : Nat := d.get (Reg.LANE_CTL_loop (laneSel n) (laneJ n))

/-- Whether a loop or the PRBS generator is set (R272). -/
def Dev.laneTest (d : Dev) (n : Nat) : Bool :=
  d.on (Reg.LANE_CTL_loop (laneSel n) (laneJ n)) || d.on (Reg.LANE_PRBS_CTL_gen_en (laneSel n) (laneJ n))

/-! ### Leaving and entering UP (R266, R281, R287, R288) -/

/-- What a link does when its lane leaves UP. -/
def Dev.linkLaneDown (d : Dev) (n : Nat) : Dev := if d.linkState n = 1 then d.setLinkState n 0 else d

/-- What a link does when its lane is disabled: it is OFF, unless the device has halted; its replay buffer is discarded (Table 9.6). -/
def Dev.linkOff (d : Dev) (n : Nat) : Dev :=
  if d.linkState n = 5 then d else (d.setLink n { d.link n with buf := [], replay := none }).setLinkState n 0

/-- What a link does when its lane enters UP: an ACTIVE link replays every unacknowledged frame; a FAILED or HALTED one
stays so; any other enters HELLO. -/
def Dev.linkLaneUp (d : Dev) (n : Nat) : Dev :=
  match d.linkState n with
  | 2 =>
    let l := d.link n
    if l.buf = [] then d else d.setLink n { l with replay := some 0 }
  | 3 => d
  | 5 => d
  | _ => d.setLinkState n 1

/-- A receiver that has lost its locks, and with `all` its input too: nothing of it goes to the link layer. -/
def Lane.unlock (l : Lane) (all : Bool) : Lane :=
  let l := { l with good := 0, missed := 0, goodFec := 0, missedFec := 0, pipe := [], eb := [], lost := false, asm := [],
                    asmBad := false, frames := [] }
  if all then { l with rxRun := {}, rxRaw := [], cw := 0, rxBits := [], gap := 0, block := [], txRun := {}, loopQ := [], pins := [] }
  else l

/-- A lane leaves its state with a cause (Table 8.5): its cause is kept and recorded when it leaves UP; a lost reference
is a cause for every enabled lane of the bank (R253). -/
def Dev.laneLeave (d : Dev) (n cause st : Nat) : Dev :=
  let sel := laneSel n
  let j := laneJ n
  let up := d.laneState n == 4
  let d := if up || cause == 3 then d.set (Reg.LANE_STATUS_down_cause sel j) cause else d
  let d := if up ∧ cause ≠ 6 ∧ cause ≠ 7 then
      (d.report { die := sel, unit := n, severity := 0, cls := 0x0A01, info := cause }).hostEvent 21
    else d
  let d := (d.set (Reg.LANE_STATUS_marker_lock sel j) 0).set (Reg.LANE_STATUS_fec_lock sel j) 0
  let d := (d.setLane n ((d.lane n).unlock (decide (st < 3)))).setLaneState n st
  if up then d.linkLaneDown n else d

/-- CDR lock is lost: an eye-scan point in progress ends invalid (R274), and the checker loses its lock. -/
def Dev.cdrLost (d : Dev) (n : Nat) : Dev :=
  let sel := laneSel n
  let j := laneJ n
  let d := (d.set (Reg.LANE_STATUS_cdr_lock sel j) 0).set (Reg.LANE_PRBS_CTL_chk_lock sel j) 0
  let d := d.setLane n { d.lane n with chkCnt := 0 }
  if (d.lane n).eye then
    ((d.set (Reg.LANE_EYE_CTL_done sel j) 1).set (Reg.LANE_EYE_CTL_invalid sel j) 1).setLane n { d.lane n with eye := false }
  else d

/-- A lane returns to PLL: nothing of it is locked. -/
def Dev.laneToPll (d : Dev) (n cause : Nat) : Dev :=
  let sel := laneSel n
  let j := laneJ n
  if d.laneState n = 0 then d
  else
    let d := if d.laneState n = 6 then d else d.laneLeave n cause 1
    ((d.set (Reg.LANE_STATUS_pll_lock sel j) 0).set (Reg.LANE_STATUS_adapt_done sel j) 0).cdrLost n

/-! ### Banks (R252, R253) -/

/-- The selector and local number of bank LBkk, and its lanes. -/
def bankSel (k : Nat) : Nat := baseSel (k / 3)
def bankLanes (k : Nat) : List Nat := (List.range 16).map (fun i => 16 * k + i)

/-- A bank's reference is gone (R253). -/
def Dev.refLost (d : Dev) (k : Nat) : Dev := each (bankLanes k) (fun n d => d.laneToPll n 3) d

/-- A write of LANE_BANK_CTL: an enable is pending until it takes effect (R252). A write of 0 stops the bank's reference
(DEDUCED, log entry 28). -/
def Dev.bankCtl (d : Dev) (k : Nat) (v : Word) : Dev :=
  let sel := bankSel k
  let j := k % 3
  let was := d.on (Reg.LANE_BANK_CTL_enable sel j)
  if v.getLsbD 0 then
    (if was then d
     else ((d.set (Reg.LANE_BANK_CTL_enable sel j) 1).set (Reg.LANE_BANK_CTL_pending sel j) 1).clockOn sel (4 + j))
  else
    let d := ((d.set (Reg.LANE_BANK_CTL_enable sel j) 0).set (Reg.LANE_BANK_CTL_pending sel j) 0)
    if d.on (Reg.LANE_BANK_STATUS_ref_ok sel j) then (d.set (Reg.LANE_BANK_STATUS_ref_ok sel j) 0).refLost k else d

/-- A pending enable takes effect. -/
def Dev.bankEffect (d : Dev) (k : Nat) : Dev := d.set (Reg.LANE_BANK_CTL_pending (bankSel k) (k % 3)) 0

/-- A 10 µs window of a bank's reference monitor ends with a measured frequency in kHz: 156.25 MHz ± 0.1 % is in range. -/
def Dev.lrefWindow (d : Dev) (k khz : Nat) : Dev :=
  let sel := bankSel k
  let j := k % 3
  if ¬ d.on (Reg.LANE_BANK_CTL_enable sel j) ∨ d.on (Reg.LANE_BANK_CTL_pending sel j) then d
  else
    let d := d.set (Reg.LANE_BANK_STATUS_ref_khz sel j) (min khz 0x3FFFF)
    if 156093750 ≤ khz * 1000 ∧ khz * 1000 ≤ 156406250 then d.set (Reg.LANE_BANK_STATUS_ref_ok sel j) 1
    else if d.on (Reg.LANE_BANK_STATUS_ref_ok sel j) then
      ((d.set (Reg.LANE_BANK_STATUS_ref_ok sel j) 0).set (Reg.LANE_BANK_STATUS_ref_lost sel j) 1).refLost k
    else d

/-! ### Enable, disable, settings (R269) -/

/-- Records that a write of a lane was refused. -/
def Dev.laneRefuse (d : Dev) (n : Nat) : Dev := d.set (Reg.LANE_STATUS_cmd_refused (laneSel n) (laneJ n)) 1

/-- The bits of LANE_CTL that are settings: rate, fec_en, chaff_gap, tx_pol, rx_pol and loop. -/
def laneSettings : Word := 0x0001FFFE#32

/-- A write of LANE_CTL (R269): settings are taken while enable is 0; an enable with a reserved rate or loop code is
refused; adapt_pause is taken at any time. -/
def Dev.laneCtl (d : Dev) (n : Nat) (v : Word) : Dev :=
  let sel := laneSel n
  let j := laneJ n
  let old := d.rdWord (Reg.LANE_CTL sel j)
  let d := d.set (Reg.LANE_CTL_adapt_pause sel j) (bits v 17 1)
  if old.getLsbD 0 then
    let d := if old &&& laneSettings = v &&& laneSettings then d else d.laneRefuse n
    if v.getLsbD 0 then d
    else
      let d := d.set (Reg.LANE_CTL_enable sel j) 0
      if d.laneState n = 6 then d
      else
        let d := ((d.laneLeave n 6 0).linkOff n).cdrLost n
        (d.set (Reg.LANE_STATUS_pll_lock sel j) 0).set (Reg.LANE_STATUS_adapt_done sel j) 0
  else
    let d := d.wrWord (Reg.LANE_CTL sel j)
      ((d.rdWord (Reg.LANE_CTL sel j) &&& ~~~laneSettings) ||| (v &&& laneSettings))
    if ¬ v.getLsbD 0 then d
    else if 8 ≤ bits v 1 4 ∨ 4 ≤ bits v 14 3 then d.laneRefuse n
    else
      let d := (d.set (Reg.LANE_CTL_enable sel j) 1).set (Reg.LANE_STATUS_down_cause sel j) 0
      if d.laneState n = 6 then d else d.setLaneState n 1

/-- A write of LANE_PRBS_CTL (R269, R273): generator settings are taken while the lane is disabled; inject flips one
generated bit; a checker that is turned off loses its lock. -/
def Dev.prbsCtl (d : Dev) (n : Nat) (v : Word) : Dev :=
  let sel := laneSel n
  let j := laneJ n
  let old := d.rdWord (Reg.LANE_PRBS_CTL sel j)
  let d := ((d.set (Reg.LANE_PRBS_CTL_chk_pat sel j) (bits v 3 2)).set (Reg.LANE_PRBS_CTL_chk_en sel j) (bits v 5 1)).set
    (Reg.LANE_PRBS_CTL_invert sel j) (bits v 6 1)
  let d := if v.getLsbD 5 then d
    else (d.set (Reg.LANE_PRBS_CTL_chk_lock sel j) 0).setLane n { d.lane n with chkCnt := 0 }
  let d :=
    if d.on (Reg.LANE_CTL_enable sel j) then (if bits old 0 3 = bits v 0 3 then d else d.laneRefuse n)
    else (d.set (Reg.LANE_PRBS_CTL_gen_pat sel j) (bits v 0 2)).set (Reg.LANE_PRBS_CTL_gen_en sel j) (bits v 2 1)
  if v.getLsbD 7 then d.setLane n { d.lane n with inject := (d.lane n).inject + 1 } else d

/-- The taps of a LANE_TX_FIR word: where they sum above 63, the main cursor is less by as much (Table 8.8). -/
def firTaps (v : Word) : Word := setBits v 16 6 (min (bits v 16 6) (63 - (bits v 0 4 + bits v 4 6 + bits v 10 6)))

/-- A write of LANE_TX_FIR: it applies from the next frame boundary, or at once where the lane sends no frames (R269). -/
def Dev.txFir (d : Dev) (n : Nat) (v : Word) : Dev :=
  let st := d.laneState n
  let d := d.wrWord (Reg.LANE_TX_FIR (laneSel n) (laneJ n)) (v &&& 0x003FFFFF#32)
  if 2 ≤ st ∧ st ≤ 5 then d else d.setLane n { d.lane n with fir := firTaps (v &&& 0x003FFFFF#32) }

/-- A write of LANE_EYE_CTL: the settings, and a start that begins one point unless one runs (R274). -/
def Dev.eyeCtl (d : Dev) (n : Nat) (v : Word) : Dev :=
  let sel := laneSel n
  let j := laneJ n
  let d := d.wrWord (Reg.LANE_EYE_CTL sel j)
    ((d.rdWord (Reg.LANE_EYE_CTL sel j) &&& ~~~0x7FFFF#32) ||| (v &&& 0x7FFFF#32))
  if v.getLsbD 19 ∧ ¬ (d.lane n).eye then
    ((d.set (Reg.LANE_EYE_CTL_done sel j) 0).set (Reg.LANE_EYE_CTL_invalid sel j) 0).setLane n { d.lane n with eye := true }
  else d

/-- A write of LANE_CNT_CLR.clear: +0x00C to +0x020 and the PRBS counts are 0 (R275). -/
def Dev.laneCntClr (d : Dev) (n : Nat) : Dev :=
  let b := Reg.LANE_CTL (laneSel n) (laneJ n)
  d.clearRegs (b + 0x00C) (b + 0x024) |>.clearRegs (b + 0x034) (b + 0x040)

/-! ### The receiver (R257, R260 to R267, R271, R273, R274) -/

/-- A lane's PLL locks (R265, R272): with its reference in order the lane leaves PLL. -/
def Dev.pllLock (d : Dev) (n : Nat) : Dev :=
  if d.laneState n ≠ 1 ∨ ¬ d.on (Reg.LANE_BANK_STATUS_ref_ok (bankSel (n / 16)) (n / 16 % 3)) then d
  else (d.set (Reg.LANE_STATUS_pll_lock (laneSel n) (laneJ n)) 1).setLaneState n (if d.laneTest n then 5 else 2)

/-- The receiver detects signal and its CDR locks. A lane whose equalizer is adapted and frozen has nothing more to wait for in ACQUIRE
(R266, R271). -/
def Dev.cdrLock (d : Dev) (n : Nat) : Dev :=
  let st := d.laneState n
  if st = 0 ∨ st = 1 then d
  else
    let d := (d.set (Reg.LANE_STATUS_los (laneSel n) (laneJ n)) 0).set (Reg.LANE_STATUS_cdr_lock (laneSel n) (laneJ n)) 1
    if st = 2 ∧ d.on (Reg.LANE_CTL_adapt_pause (laneSel n) (laneJ n)) ∧ d.on (Reg.LANE_STATUS_adapt_done (laneSel n) (laneJ n)) then
      d.setLaneState n 3
    else d

/-- Initial adaptation completes with the equalizer's setting (R271). -/
def Dev.adapted (d : Dev) (n ctle dfe1 : Nat) : Dev :=
  let sel := laneSel n
  let j := laneJ n
  let st := d.laneState n
  if st < 2 ∨ ¬ d.on (Reg.LANE_STATUS_cdr_lock sel j) ∨ d.on (Reg.LANE_CTL_adapt_pause sel j) then d
  else
    let d := ((d.set (Reg.LANE_RX_EQ_ctle sel j) ctle).set (Reg.LANE_RX_EQ_dfe1 sel j) dfe1).set
      (Reg.LANE_STATUS_adapt_done sel j) 1
    if st = 2 then d.setLaneState n 3 else d

/-- Counts frames flagged bad. -/
def Dev.flagBad (d : Dev) (n k : Nat) : Dev := d.bump (Reg.LANE_BAD_FRAMES_flagged (laneSel n) (laneJ n)) k

/-- An expected marker or block word is found (0), displaced within the limit (1) or not found (2): lock, realignment and
loss (R261). -/
def Dev.markerSeen (d : Dev) (n kind : Nat) (fec : Bool) : Dev :=
  let sel := laneSel n
  let j := laneJ n
  let l := d.lane n
  let lock := if fec then Reg.LANE_STATUS_fec_lock sel j else Reg.LANE_STATUS_marker_lock sel j
  let put (d : Dev) (good missed : Nat) : Dev :=
    d.setLane n (if fec then { d.lane n with goodFec := good, missedFec := missed }
                 else { d.lane n with good := good, missed := missed })
  let good := if fec then l.goodFec else l.good
  let missed := if fec then l.missedFec else l.missed
  if d.on lock then
    match kind with
    | 0 => put d 4 0
    | 1 => (put d 4 0).bump (Reg.LANE_ERRCNT_slips sel j)
    | _ =>
      if missed + 1 < 4 then put d 4 (missed + 1)
      else if d.laneState n = 4 then d.laneLeave n (if fec then 5 else 4) 3
      else (put d 0 0).set lock 0
  else if kind = 0 then
    let d := put d (min (good + 1) 4) 0
    if good + 1 < 4 then d else d.set lock 1
  else put d 0 0

/-- A lane that has every lock it needs enters UP. -/
def Dev.laneAligned (d : Dev) (n : Nat) : Dev :=
  let sel := laneSel n
  let j := laneJ n
  if d.laneState n = 3 ∧ d.on (Reg.LANE_STATUS_marker_lock sel j) ∧
      (d.fecOn n = false ∨ d.on (Reg.LANE_STATUS_fec_lock sel j)) then (d.setLaneState n 4).linkLaneUp n
  else d

/-! ### The transmitter (R255 to R259, R263, R272, R273) -/

/-- The bits of a frame on the line: bits 32 to 4,095 scrambled (R255, R256). The same again gives the frame back. -/
def frameLine (l : List Bool) : List Bool := l.take 32 ++ scrambled (l.drop 32)

/-- The frames after which a chaff word is sent: 1 to 32, and 32 for 0 and 33 to 63 (R263). -/
def Dev.chaffGap (d : Dev) (n : Nat) : Nat :=
  let g := d.get (Reg.LANE_CTL_chaff_gap (laneSel n) (laneJ n))
  if g = 0 ∨ 32 < g then 32 else g

/-- Symbols as they stand on a pair: inverted with its polarity bit. -/
def onPair (pam pol : Bool) (l : List Nat) : List Nat := if pol then l.map (invertSym pam) else l

/-- Symbols leave the transmitter: to the pins, or where the loop leads them (Table 8.6). -/
def Dev.symsOut (d : Dev) (n : Nat) (l : List Nat) : Dev :=
  let x := d.lane n
  let pair := onPair (d.pamOn n) (d.on (Reg.LANE_CTL_tx_pol (laneSel n) (laneJ n))) l
  d.setLane n (match d.loopOf n with
    | 1 => { x with line := l, pins := pair, loopQ := x.loopQ ++ pair }
    | 2 => { x with line := l, pins := [], loopQ := x.loopQ ++ l }
    | 3 => { x with line := l }
    | _ => { x with line := l, pins := pair })

/-- Line bits are stuffed, mapped and sent (R255, R257, R258). -/
def Dev.bitsOut (d : Dev) (n : Nat) (l : List Bool) : Dev :=
  let s := stuff (d.pamOn n) (d.lane n).txRun (toSyms (d.pamOn n) l)
  (d.setLane n { d.lane n with txRun := s.2 }).symsOut n s.1

/-- A frame goes to the line coding: without FEC with a chaff word after every `chaffGap` frames, with FEC in blocks of five (R255, R259,
R263). -/
def Dev.frameOut (d : Dev) (n : Nat) (l : List Bool) : Dev :=
  let x := d.lane n
  if d.fecOn n then
    (if x.block.length < 4 then (d.setLane n { x with block := x.block ++ [frameLine l] }).bitsOut n []
     else (d.setLane n { x with block := [] }).bitsOut n (fecBlock (x.block ++ [frameLine l])))
  else if x.gap + 1 < d.chaffGap n then (d.setLane n { x with gap := x.gap + 1 }).bitsOut n (frameLine l)
  else (d.setLane n { x with gap := 0 }).bitsOut n (frameLine l ++ chaffBits)

/-- The PRBS generator's next 4,096 bits go out in place of the line stream: inverted with `invert`, one of them flipped for each inject
(R273; that it is the next one is a DESIGN CHOICE, log entry 152). -/
def Dev.prbsOut (d : Dev) (n : Nat) : Dev :=
  let x := d.lane n
  let c := Reg.LANE_PRBS_CTL_gen_pat (laneSel n) (laneJ n)
  let (l, s) := prbsBits (d.get c) 4096 (x.prbs.getD Config.prbsSeed)
  let inv := d.on (Reg.LANE_PRBS_CTL_invert (laneSel n) (laneJ n))
  let l := l.zipIdx.map (fun e => (e.1 ^^ decide (e.2 < x.inject)) ^^ inv)
  (d.setLane n { x with prbs := some s, inject := x.inject - 4096 }).symsOut n (toSyms (d.pamOn n) l)

/-- A lane sends 512 bytes of a frame, with the taps of LANE_TX_FIR from this boundary on (R269), or the PRBS in their place. -/
def Dev.laneSend (d : Dev) (n : Nat) (bytes : List Byte) : Dev :=
  let d := d.setLane n { d.lane n with fir := firTaps (d.rdWord (Reg.LANE_TX_FIR (laneSel n) (laneJ n))) }
  if d.on (Reg.LANE_PRBS_CTL_gen_en (laneSel n) (laneJ n)) then d.prbsOut n else d.frameOut n (byteBits bytes)

/-- The frame marker, as sent (Table 8.3). -/
def markerBits : List Bool := bitList 0x3C5A96E1 32

/-- A lane that transmits without a link frame sends a frame whose content the spec leaves open (log entry 151). -/
def Dev.laneFill (d : Dev) (n : Nat) : Dev := d.laneSend n (toBytes 0x3C5A96E1 4 ++ slice Config.fillFrame 0 508)

/-! ### The receiver's bits (R255, R257, R258, R261, R272) -/

/-- Whether a receiver takes symbols: its CDR is locked, in ALIGN, UP, TEST or IDLE_FORCED. -/
def Dev.rxOn (d : Dev) (n : Nat) : Bool :=
  decide (3 ≤ d.laneState n) && d.on (Reg.LANE_STATUS_cdr_lock (laneSel n) (laneJ n))

/-- The symbols that a receiver takes from its input or from its own transmitter, and FAR's symbols at the pins (Table 8.6). -/
def Dev.symsIn (d : Dev) (n : Nat) (input : List Nat) : List Nat × Dev :=
  let x := d.lane n
  let p := d.pamOn n
  let rxPol := d.on (Reg.LANE_CTL_rx_pol (laneSel n) (laneJ n))
  let txPol := d.on (Reg.LANE_CTL_tx_pol (laneSel n) (laneJ n))
  match d.loopOf n with
  | 1 => (onPair p rxPol x.loopQ, d.setLane n { x with loopQ := [] })
  | 2 => (x.loopQ, d.setLane n { x with loopQ := [] })
  | 3 => (onPair p rxPol input, d.setLane n { x with pins := onPair p txPol (onPair p rxPol input) })
  | _ => (onPair p rxPol input, d)

/-- Symbols come in: unstuffed and unmapped, they follow the bits that wait for a codeword or for their frame (R255, R257, R258). -/
def Dev.bitsIn (d : Dev) (n : Nat) (input : List Nat) : Dev :=
  let (s, d) := d.symsIn n input
  let x := d.lane n
  let (s, viol, run) := unstuff (d.pamOn n) x.rxRun s
  let l := ofSyms (d.pamOn n) s
  let d := d.bump (Reg.LANE_ERRCNT_stuff_viol (laneSel n) (laneJ n)) viol
  d.setLane n (if d.fecOn n then { x with rxRun := run, rxRaw := x.rxRaw ++ l }
               else { x with rxRun := run, rxBits := x.rxBits ++ l.map (fun b => (b, false)) })

/-- Whether a word stands at a place in bits. -/
def wordAt (w l : List Bool) (k : Nat) : Bool := (l.drop k).take w.length == w

/-- The first place of a word in bits. -/
def findWord (w l : List Bool) : Option Nat := (List.range l.length).find? (wordAt w l)

/-- The places where a word expected at `k` counts as found, once the receiver is locked: displaced by 1 or 2 bits (NRZ), or by one symbol
(PAM4) (R261). -/
def places (pam locked : Bool) (k : Nat) : List Nat :=
  if ¬ locked then [k] else if pam then [k, k + 2, k - 2] else [k, k + 1, k - 1, k + 2, k - 2]

/-! ### The elastic buffer (R264) -/

/-- The link layer takes a word: it discards chaff, and has a frame with its last word. An empty buffer presents none. -/
def Lane.ebTake (l : Lane) : Lane :=
  match l.eb with
  | [] => l
  | w :: r =>
    let l := { l with eb := r }
    if w.chaff then l
    else if w.last then
      { l with frames := l.frames ++ [{ bytes := l.asm ++ w.bytes, flagged := l.asmBad || w.bad }], asm := [], asmBad := false }
    else { l with asm := l.asm ++ w.bytes, asmBad := l.asmBad || w.bad }

/-- A word of a frame arrives. A full buffer drops it, and its frame is bad: the words that follow say so, or, where it was the last,
the frame's newest word in the buffer, which then ends it. -/
def Lane.ebPut (l : Lane) (w : EbWord) : Lane :=
  if l.eb.length < 8 then { l with eb := l.eb ++ [{ w with bad := w.bad || l.lost }], lost := l.lost && !w.last }
  else if w.last then
    { l with lost := false, eb := l.eb.modify 7 (fun x => if x.chaff || x.last then x else { x with last := true, bad := true }) }
  else { l with lost := true }

/-- Takes a number of words. -/
def Lane.ebTakes (l : Lane) (k : Nat) : Lane := (List.range (min k 8)).foldl (fun l _ => l.ebTake) l

/-- The words of frames that wait for the buffer go into it, up to the next chaff word. `drains` says how many words the link layer took
before each (one where it does not say), and after the last (none). -/
def Dev.ebFrames (d : Dev) (n : Nat) (drains : List Nat) : Dev :=
  let x := d.lane n
  let ws := x.pipe.takeWhile (fun w => !w.chaff)
  let r := (ws.zipIdx).foldl (fun (r : Lane × Nat) e =>
    let l := r.1.ebTakes (drains.getD e.2 1)
    (l.ebPut e.1, r.2 + (if l.eb.length < 8 then 0 else 1))) ({ x with pipe := x.pipe.drop ws.length }, 0)
  (d.setLane n (r.1.ebTakes (drains.getD ws.length 0))).bump (Reg.LANE_BAD_FRAMES_eb_ovf (laneSel n) (laneJ n)) r.2

/-- A chaff word that waits for the buffer reaches it: at a fill of 6 or more it is deleted, at 2 or less repeated. -/
def Dev.ebChaff (d : Dev) (n : Nat) (drains : List Nat) : Dev :=
  let x := d.lane n
  match x.pipe with
  | w :: rest =>
    if ¬ w.chaff then d
    else
      let l := ({ x with pipe := rest } : Lane).ebTakes (drains.getD 0 1)
      let fill := l.eb.length
      let copies := if 6 ≤ fill then 0 else if fill ≤ 2 then 2 else 1
      let l := { l with eb := l.eb ++ List.replicate copies w }
      let d := d.setLane n (l.ebTakes (drains.getD 1 0))
      if 6 ≤ fill then d.wrap (Reg.LANE_EB_DEL_count (laneSel n) (laneJ n))
      else if fill ≤ 2 then d.wrap (Reg.LANE_EB_REP_count (laneSel n) (laneJ n))
      else d
  | [] => d

/-- After the buffer moved: LANE_STATUS.eb_fill, and the frames that came out since there were `before`: those flagged bad are counted,
and only a lane in UP has given them to the link layer (R264, R265). -/
def Dev.ebDone (d : Dev) (n before : Nat) : Dev :=
  let x := d.lane n
  let new := x.frames.drop before
  let d := d.flagBad n (new.filter (fun f => f.flagged)).length
  let d := d.set (Reg.LANE_STATUS_eb_fill (laneSel n) (laneJ n)) (min x.eb.length 7)
  if d.laneState n = 4 then d else d.setLane n { x with frames := x.frames.take before }

/-! ### Frame positions (R260, R261) -/

/-- The words of a frame's received bits: descrambled, 8 bytes each, bad where one of the bits is or where `bad` says so. -/
def frameWords (l : List (Bool × Bool)) (bad : Bool) : List EbWord :=
  let bytes := bitsBytes (frameLine (l.map (fun b => b.1)))
  let bad := bad || l.any (fun b => b.2)
  (List.range 64).map (fun i => { bytes := slice bytes (8 * i) 8, last := i == 63, bad := bad })

/-- The place of the next marker after a frame, and whether a chaff word stands before it: none where neither stands at a place that
counts. -/
def nextMarker (pam locked : Bool) (l : List Bool) : Option (Nat × Bool) :=
  ((places pam locked 4096).flatMap (fun k => [(k, false), (k, true)])).find? (fun e =>
    if e.2 then wordAt chaffBits l e.1 && wordAt markerBits l (e.1 + 64) else wordAt markerBits l e.1)

/-- A frame whose marker has passed goes on to the elastic buffer, with the chaff word that follows it; the bits from place `k` on are the
next frame's. -/
def Dev.frameThrough (d : Dev) (n k : Nat) (chaff bad : Bool) : Dev :=
  let x := d.lane n
  let ws := frameWords (x.rxBits.take 4096) bad ++ (if chaff then [{ chaff := true }] else [])
  let x := { x with rxBits := x.rxBits.drop (k + if chaff then 64 else 0) }
  d.setLane n (if d.laneState n = 4 ∨ d.laneState n = 5 then { x with pipe := x.pipe ++ ws } else x)

/-- A frame position passes the receiver (R261): while it searches, it aligns itself to the first marker; then the marker at the next
position is found, displaced, or, once all its bits are here, not found. The frame before a displaced marker is flagged bad. -/
def Dev.framePos (d : Dev) (n : Nat) : Dev :=
  let x := d.lane n
  let l := x.rxBits.map (fun b => b.1)
  let locked := d.on (Reg.LANE_STATUS_marker_lock (laneSel n) (laneJ n))
  if ¬ locked ∧ x.good = 0 then
    match findWord markerBits l with
    | some k => d.setLane n { x with rxBits := x.rxBits.drop k, good := 1 }
    | none => d.setLane n { x with rxBits := x.rxBits.drop (l.length - 31) }
  else
    match nextMarker (d.pamOn n) locked l with
    | some (k, chaff) => (d.frameThrough n k chaff (k != 4096)).markerSeen n (if k = 4096 then 0 else 1) false
    | none =>
      if l.length < 4096 + 98 then d
      else (d.frameThrough n 4096 (wordAt chaffBits l 4096) false).markerSeen n 2 false

/-- Symbols of a frame position come in (R261, R264). -/
def Dev.laneFrame (d : Dev) (n : Nat) (input drains : List Nat) : Dev :=
  if ¬ d.rxOn n then d
  else
    let before := (d.lane n).frames.length
    let d := ((d.bitsIn n input).framePos n).laneAligned n
    (d.ebFrames n drains).ebDone n (min before (d.lane n).frames.length)

/-- A chaff word reaches the elastic buffer (R264). -/
def Dev.chaff (d : Dev) (n : Nat) (input drains : List Nat) : Dev :=
  if ¬ d.rxOn n then d
  else
    let before := (d.lane n).frames.length
    ((d.bitsIn n input).ebChaff n drains).ebDone n before

/-- A codeword is decoded (R259, R260): corrected symbols are counted; one that cannot be corrected is passed on as it stands, and its
bits are bad. The block word is removed, and the chaff word stands where the block has it. -/
def Dev.codeword (d : Dev) (n : Nat) : Dev :=
  let x := d.lane n
  let (m, fixed) := fecDecode (x.rxRaw.take 5440)
  let m := if x.cw = 0 then chaffBits ++ m.drop 80 else m
  let d := d.setLane n { x with rxBits := x.rxBits ++ m.map (fun b => (b, fixed.isNone)), cw := (x.cw + 1) % 4 }
  match fixed with
  | some k => d.bump (Reg.LANE_FEC_SYM_count (laneSel n) (laneJ n)) k
  | none => d.bump (Reg.LANE_FEC_UNCORR_count (laneSel n) (laneJ n))

/-- Symbols of a codeword come in (R260, R261): while it searches, the receiver aligns itself to the first block word; then a codeword is
decoded once it is here, and after the fourth of a block the block word at the next position is found, displaced or not found. -/
def Dev.fecWord (d : Dev) (n : Nat) (input : List Nat) : Dev :=
  if ¬ d.rxOn n ∨ d.fecOn n = false then d
  else
    let d := d.bitsIn n input
    let x := d.lane n
    let locked := d.on (Reg.LANE_STATUS_fec_lock (laneSel n) (laneJ n))
    let cut (k : Nat) (d : Dev) : Dev := d.setLane n { d.lane n with rxRaw := (d.lane n).rxRaw.drop k }
    if ¬ locked ∧ x.goodFec = 0 then
      match findWord blockWord x.rxRaw with
      | some k => d.setLane n { x with rxRaw := x.rxRaw.drop k, goodFec := 1, cw := 0 }
      | none => d.setLane n { x with rxRaw := x.rxRaw.drop (x.rxRaw.length - 15) }
    else if x.cw ≠ 3 then (if x.rxRaw.length < 5440 then d else cut 5440 (d.codeword n))
    else
      match (places (d.pamOn n) locked 5440).find? (wordAt blockWord x.rxRaw) with
      | some k => ((cut k (d.codeword n)).markerSeen n (if k = 5440 then 0 else 1) true).laneAligned n
      | none => if x.rxRaw.length < 5440 + 18 then d else (cut 5440 (d.codeword n)).markerSeen n 2 true

/-- Loss of signal (R267); a near loop takes the receiver off its input (Table 8.6). -/
def Dev.lossOfSignal (d : Dev) (n : Nat) : Dev :=
  let st := d.laneState n
  if st < 2 ∨ d.loopOf n = 1 ∨ d.loopOf n = 2 then d
  else
    let d := (d.set (Reg.LANE_STATUS_los (laneSel n) (laneJ n)) 1).cdrLost n
    if st = 3 ∨ st = 4 then d.laneLeave n 1 2 else d

/-- An eye-scan point ends with its mismatches (R274). -/
def Dev.eyeDone (d : Dev) (n errs : Nat) (lost : Bool) : Dev :=
  let sel := laneSel n
  let j := laneJ n
  if ¬ (d.lane n).eye then d
  else
    let d := (d.set (Reg.LANE_EYE_CTL_done sel j) 1).set (Reg.LANE_EYE_ERR_errors sel j) (min errs 0xFFFFFFFF)
    let d := if lost then d.set (Reg.LANE_EYE_CTL_invalid sel j) 1 else d
    d.setLane n { d.lane n with eye := false }

/-- The PRBS checker takes bits (R273): it synchronizes itself on 31 of them; from then on it runs on by itself, and compares. The answer
gives its bits, how many it has of the 31, and the bits compared and found wrong. -/
def checkBits (pat : Nat) : List Bool → BitVec 31 → Nat → BitVec 31 × Nat × Nat × Nat
  | [], s, k => (s, k, 0, 0)
  | b :: r, s, k =>
    if k < 31 then checkBits pat r (shiftIn s b) (k + 1)
    else
      let x := checkBits pat r (shiftIn s (prbsNext pat s)) k
      (x.1, x.2.1, x.2.2.1 + 1, x.2.2.2 + (if b = prbsNext pat s then 0 else 1))

/-- Symbols come to the PRBS checker (R273). -/
def Dev.prbsCheck (d : Dev) (n : Nat) (input : List Nat) : Dev :=
  let sel := laneSel n
  let j := laneJ n
  if ¬ d.on (Reg.LANE_PRBS_CTL_chk_en sel j) ∨ ¬ d.on (Reg.LANE_STATUS_cdr_lock sel j) then d
  else
    let (s, d) := d.symsIn n input
    let inv := d.on (Reg.LANE_PRBS_CTL_invert sel j)
    let l := (ofSyms (d.pamOn n) s).map (fun b => b ^^ inv)
    let (c, k, compared, errs) := checkBits (d.get (Reg.LANE_PRBS_CTL_chk_pat sel j)) l (d.lane n).chk (d.lane n).chkCnt
    let d := d.setLane n { d.lane n with chk := c, chkCnt := k }
    let d := if k < 31 then d else d.set (Reg.LANE_PRBS_CTL_chk_lock sel j) 1
    let d := d.bump (Reg.LANE_PRBS_ERR_errors sel j) errs
    let lo := Reg.LANE_PRBS_BITS_LO sel j
    let hi := Reg.LANE_PRBS_BITS_HI sel j
    d.setPair lo hi ((d.pair lo hi + compared) % 2 ^ 48)

/-! ### Load failure (R268, R346, R347) -/

/-- Every lane is held idle. -/
def Dev.lanesIdle (d : Dev) : Dev :=
  each (List.range 192) (fun n d =>
    if d.laneState n = 6 then d
    else
      let d := d.laneLeave n 7 6
      d.setLane n { d.lane n with loadIdle := true }) d

/-- A restart releases the lanes that a load failure held into OFF. -/
def Dev.lanesRelease (d : Dev) : Dev :=
  each (List.range 192) (fun n d =>
    if (d.lane n).loadIdle then
      let d := d.setLane n { d.lane n with loadIdle := false }
      if d.halted then d else (d.setLaneState n 0).set (Reg.LANE_CTL_enable (laneSel n) (laneJ n)) 0
    else d) d

end Sys2Proof.Machine
end

