-- ==== Sys2Proof/Machine/Lch.lean ====
section
/-! DEFINITION. Link channels of chapter 9 of spec/: contexts and hot slots (R291 to R294), synchronous channels (R295 to R297),
stream channels (R300 to R305), the frame and the link layer (R278 to R290), encryption (R307, R308) and forwarding (R309,
R310). A frame's body is its directory and slots: slot i stands at bytes 8 + 32 i. -/

namespace Sys2Proof.Machine

/-! ### Contexts (Table 9.12) -/

/-- A context. -/
def Dev.ctx (d : Dev) (c : Nat) : Ctx := d.ctxs.get c {}
def Dev.setCtx (d : Dev) (c : Nat) (v : Ctx) : Dev := { d with ctxs := d.ctxs.put c v {} }

/-- Fields of a context. -/
def Ctx.valid (x : Ctx) : Bool := x.d0.getLsbD 0
def Ctx.sync (x : Ctx) : Bool := x.d0.getLsbD 1
def Ctx.recv (x : Ctx) : Bool := x.d0.getLsbD 2
def Ctx.secure (x : Ctx) : Bool := x.d0.getLsbD 3
def Ctx.staleCode (x : Ctx) : Nat := bits x.d0 8 4
def Ctx.peerPos (x : Ctx) : Nat := bits x.d0 16 7
def Ctx.laneNo (x : Ctx) : Nat := bits x.d0 24 8
def Ctx.peerCtx (x : Ctx) : Nat := bits x.d1 0 16
def Ctx.credit (x : Ctx) : Nat := bits x.d1 16 16
def Ctx.capacity (x : Ctx) : Nat := (bits x.d2 19 10 + 1) * 64

/-- The base die of a context, and a context that is a stream of a direction. -/
def ctxBase (c : Nat) : Nat := c / 16384
def Ctx.streamSend (x : Ctx) : Bool := x.valid && !x.sync && !x.recv
def Ctx.streamRecv (x : Ctx) : Bool := x.valid && !x.sync && x.recv
def Ctx.syncSend (x : Ctx) : Bool := x.valid && x.sync && !x.recv

/-- Sets a context's credit. -/
def Ctx.setCredit (x : Ctx) (n : Nat) : Ctx := { x with d1 := setBits x.d1 16 16 (min n 0xFFFF) }

/-- DATA0 and DATA3 as they read. -/
def Ctx.data0 (x : Ctx) : Word := setBits x.d0 4 1 (if x.hot.isSome then 1 else 0)
def Ctx.data3 (x : Ctx) : Word :=
  BitVec.ofNat 32 (min x.queue.length 0x1FFFF + min x.ce 255 * 2 ^ 17 + (if x.part = [] then 0 else 2 ^ 25) +
    (if x.overflow then 2 ^ 26 else 0))

/-! ### Hot slots (R293, R294) -/

/-- The contexts of a base die that hold a hot slot. -/
def Dev.hotCtxs (d : Dev) (b : Nat) : List (Nat × Ctx) :=
  d.ctxs.filter (fun e => ctxBase e.1 == b && e.2.hot.isSome)

/-- The slots of a base die that are held, and its lowest free one. -/
def Dev.hotUsed (d : Dev) (b : Nat) : List Nat := (d.hotCtxs b).filterMap (fun e => e.2.hot.map (·.1))
def Dev.hotFree (d : Dev) (b : Nat) : Option Nat := (List.range 2048).find? (fun s => !decide (s ∈ d.hotUsed b))

/-! ### Queues (R293, R302) -/

/-- Whether the word at place `i` of a queue is held in registers: the two oldest and the two newest of a context with a hot slot. -/
def Ctx.inRegs (x : Ctx) (i : Nat) : Bool := x.hot.isSome && (decide (i < 2) || decide (x.queue.length ≤ i + 2))

/-- Where the word at place `i` of a queue lies in the context's spill area: 40 bytes a word, in a ring (Table 9.12; the ring and the 8
bytes that follow the data are a DESIGN CHOICE, log entry 155). -/
def Dev.spillAt (d : Dev) (c i : Nat) : Nat :=
  let x := d.ctx c
  granBase (ctxBase c) + 64 * bits x.d2 0 19 + 40 * ((x.head + i) % x.capacity)

/-- A queue word whose data comes from the spill area: the granary's check words are its own (R302). -/
def Dev.wordIn (d : Dev) (a : Nat) (w : QWord) : QWord :=
  if ¬ w.out then w
  else
    { w with data := d.mem.readBytes a 32, out := false
             poison := w.poison || (List.range 4).any (fun k => (d.mark (a + 8 * k)).poison)
             flips := (List.range 4).flatMap (fun k => (d.mark (a + 8 * k)).flips.map (fun p => 72 * k + p)) }

/-- A queue word goes to the spill area with the state of its check words. -/
def Dev.wordOut (d : Dev) (a : Nat) (w : QWord) : QWord × Dev :=
  if w.out then (w, d)
  else
    let d := d.granWrite a ((slice w.data 0 32 ++ Config.spillTag w.valid w.eom w.poison).map (fun b => (b, true)))
    let d := each (List.range 4) (fun k d =>
      d.setMark (a + 8 * k) { flips := (w.flips.filter (fun p => p / 72 == k)).map (fun p => p % 72) }) d
    ({ w with data := [], flips := [], out := true }, d)

/-- After a change of a queue or of its hot slot, each word lies where it belongs. -/
def Dev.settleQueue (d : Dev) (c : Nat) : Dev :=
  let x := d.ctx c
  let r := (x.queue.zipIdx).foldl (fun (r : List QWord × Dev) e =>
    let a := d.spillAt c e.2
    if x.inRegs e.2 then (r.1 ++ [r.2.wordIn a e.1], r.2)
    else
      let y := r.2.wordOut a e.1
      (r.1 ++ [y.1], y.2)) ([], d)
  r.2.setCtx c { r.2.ctx c with queue := r.1 }

/-- Words join a queue; the timer of one that was empty starts (R301). -/
def Dev.queueAdd (d : Dev) (c : Nat) (ws : List QWord) : Dev :=
  let x := d.ctx c
  let x := if x.queue = [] ∧ x.part = [] then { x with since := d.now } else x
  (d.setCtx c { x with queue := x.queue ++ ws }).settleQueue c

/-- The oldest words leave a queue: the timer starts again, and stops where none is left (R301, R293). -/
def Dev.queueDrop (d : Dev) (c k : Nat) : Dev :=
  let x := d.ctx c
  (d.setCtx c { x with queue := x.queue.drop k, head := (x.head + k) % x.capacity, since := d.now }).settleQueue c

/-- The bits of a queue word that an environment has flipped, by check word: how many of the four have one, and whether any has more. -/
def qwordCheck (flips : List Nat) : Nat × Bool :=
  let n (k : Nat) : Nat := (toggleAll [] (flips.filter (fun p => p / 72 == k))).length
  (((List.range 4).filter (fun k => n k == 1)).length, (List.range 4).any (fun k => decide (2 ≤ n k)))

/-- The queue word at place `i` is read: single-bit errors are corrected and counted, an uncorrectable word is recorded (R302, R373). -/
def Dev.queueRead (d : Dev) (c i : Nat) (w : QWord) : QWord × Dev :=
  let w := d.wordIn (d.spillAt c i) w
  let (ones, bad) := qwordCheck w.flips
  let d := each (List.range ones) (fun _ d => d.scrubBucket (baseSel (ctxBase c)) 3)
    (d.setCtx c { d.ctx c with ce := min ((d.ctx c).ce + ones) 255 })
  ({ w with poison := w.poison || bad, flips := [] },
   if bad then d.err (baseSel (ctxBase c)) (c % 16384) 2 0x0B05 else d)

/-- A stream context that receives a word takes a free hot slot. -/
def Dev.takeHot (d : Dev) (c : Nat) : Dev :=
  if (d.ctx c).hot.isSome then d
  else
    match d.hotFree (ctxBase c) with
    | some s => (d.setCtx c { d.ctx c with hot := some (s, d.now) }).settleQueue c
    | none => d

/-- A hot slot for a synchronous context: a free one, or that of the stream context that has held its slot longest, whose words go to
its spill area (R294). -/
def Dev.reclaimHot (d : Dev) (b : Nat) : Option (Nat × Dev) :=
  match d.hotFree b with
  | some s => some (s, d)
  | none =>
    let streams := (d.hotCtxs b).filter (fun e => !e.2.sync)
    let oldest := streams.foldl (fun (best : Option (Nat × Ctx)) e =>
      match best with
      | none => some e
      | some o => if (e.2.hot.map (·.2)).getD 0 < (o.2.hot.map (·.2)).getD 0 then some e else best) none
    match oldest with
    | some (c, x) => some ((x.hot.map (·.1)).getD 0, (d.setCtx c { x with hot := none }).settleQueue c)
    | none => none

/-- A stream context gives its hot slot up after 100 µs with an empty queue (R293). -/
def Dev.hotRelease (d : Dev) (c : Nat) : Dev :=
  let x := d.ctx c
  if x.hot.isSome ∧ ¬ x.sync ∧ x.queue = [] ∧ x.part = [] ∧ x.since + 100 * ticksPerUs ≤ d.now then
    d.setCtx c { x with hot := none }
  else d

/-! ### Context commands (R291, R294, Table 9.11) -/

/-- LCH_CTX_CMD.read. -/
def Dev.ctxRead (d : Dev) (b : Nat) : Dev :=
  let s := baseSel b
  let c := d.get (Reg.LCH_CTX_SEL_ctx s)
  if ctxBase c ≠ b then d.set (Reg.LCH_CTX_CMD_refused s) 1
  else
    let x := d.ctx c
    (((d.wrWord (Reg.LCH_CTX_DATA s 0) x.data0).wrWord (Reg.LCH_CTX_DATA s 1) x.d1).wrWord (Reg.LCH_CTX_DATA s 2)
      x.d2).wrWord (Reg.LCH_CTX_DATA s 3) x.data3

/-- The bits of DATA0 and DATA2 that a write sets. -/
def ctxMask0 : Word := 0xFF7F0F0F#32
def ctxMask2 : Word := 0x1FFFFFFF#32

/-- A context takes the three words: its queue empties and its counts clear. -/
def Dev.ctxPut (d : Dev) (c : Nat) (w0 w1 w2 : Word) : Option Dev :=
  let b := ctxBase c
  let old := d.ctx c
  let x : Ctx := { d0 := w0 &&& ctxMask0, d1 := w1, d2 := w2 &&& ctxMask2, since := d.now }
  if old.valid ∧ old.sync ∧ d.running then none
  else if x.valid ∧ x.sync then
    (if old.hot.isSome then some (d.setCtx c { x with hot := old.hot })
     else (d.reclaimHot b).map (fun r => r.2.setCtx c { x with hot := some (r.1, d.now) }))
  else some (d.setCtx c { x with hot := if old.sync then none else old.hot })

/-- LCH_CTX_CMD.write. -/
def Dev.ctxWrite (d : Dev) (b : Nat) : Dev :=
  let s := baseSel b
  let c := d.get (Reg.LCH_CTX_SEL_ctx s)
  let r :=
    if ctxBase c ≠ b then none
    else d.ctxPut c (d.rdWord (Reg.LCH_CTX_DATA s 0)) (d.rdWord (Reg.LCH_CTX_DATA s 1)) (d.rdWord (Reg.LCH_CTX_DATA s 2))
  r.getD (d.set (Reg.LCH_CTX_CMD_refused s) 1)

/-! ### Slot tables (R295) -/

/-- The key of a slot-table entry: base die, local lane, direction (1 receive), entry. -/
def slotKey (n dir e : Nat) : Nat := (n * 2 + dir) * 256 + e

/-- The contexts of a lane's table in use, in table order. -/
def Dev.tableCtxs (d : Dev) (n dir : Nat) : List Nat :=
  let cnt := if dir = 0 then d.get (Reg.LCH_LINK_SYNC_tx_count (laneSel n) (laneJ n))
             else d.get (Reg.LCH_LINK_SYNC_rx_count (laneSel n) (laneJ n))
  (List.range (min cnt 256)).map (fun e => d.slots.get (slotKey n dir e) 0)

/-- Records that a write of a link's register was refused (R281, R316). -/
def Dev.linkRefuse (d : Dev) (n : Nat) : Dev := d.set (Reg.LCH_LINK_STATUS_cmd_refused (laneSel n) (laneJ n)) 1

/-- A write of LCH_SLOT_DATA: the selected entry, while the pacer is stopped (R316). -/
def Dev.slotWrite (d : Dev) (b : Nat) (v : Word) : Dev :=
  let s := baseSel b
  let n := 48 * b + d.get (Reg.LCH_SLOT_SEL_lane s)
  if 48 ≤ d.get (Reg.LCH_SLOT_SEL_lane s) then d
  else if d.running then d.linkRefuse n
  else
    let k := slotKey n (d.get (Reg.LCH_SLOT_SEL_dir s)) (d.get (Reg.LCH_SLOT_SEL_entry s))
    { d with slots := d.slots.put k (bits v 0 16) 0 }

/-- A write of LCH_LINK_SYNC, while the pacer is stopped (R316). -/
def Dev.linkSyncWrite (d : Dev) (n : Nat) (v : Word) : Dev :=
  if d.running then d.linkRefuse n
  else
    (d.set (Reg.LCH_LINK_SYNC_tx_count (laneSel n) (laneJ n)) (bits v 0 9)).set
      (Reg.LCH_LINK_SYNC_rx_count (laneSel n) (laneJ n)) (bits v 16 9)

/-! ### Synchronous channels (R295 to R298) -/

/-- Every synchronous send context samples its port; `d` is the state settled at the end of wave W. -/
def Dev.syncSample (d : Dev) (e : Dev) : Dev :=
  let secure (f : Nat) : Bool := d.bit (Reg.SEC_FIELD_WORLD_secure (f / 32)) (f % 32)
  let ports := (List.range 3072).filter (fun q =>
    (d.ctx (Config.portContext (q / 8) (q % 8))).syncSend && d.loaded (q / 8) &&
    ((d.ctx (Config.portContext (q / 8) (q % 8))).secure == secure (q / 8)))
  let samples := ports.foldl (fun m q =>
    m.put (Config.portContext (q / 8) (q % 8)) (BitVec.ofNat 256 (d.chanPin (q / 8) (q % 8) .data)) 0) e.chan.samples
  { e with chan := { e.chan with samples := samples } }

/-- The lanes whose table in a direction is in use. -/
def Dev.syncLanes (d : Dev) (dir : Nat) : List Nat :=
  (List.range 192).filter (fun n =>
    if dir = 0 then d.on (Reg.LCH_LINK_SYNC_tx_count (laneSel n) (laneJ n))
    else d.on (Reg.LCH_LINK_SYNC_rx_count (laneSel n) (laneJ n)))

/-- At the boundary each lane with transmit entries forms the burst for the next design cycle. -/
def Dev.syncForm (d : Dev) : Dev :=
  each (d.syncLanes 0) (fun n d =>
    let b : Burst := { cyc := d.committed % 8, words := (d.tableCtxs n 0).map (fun c => d.chan.samples.get c 0) }
    { d with chan := { d.chan with formed := d.chan.formed.put n (d.chan.formed.get n [] ++ [b]) [] } }) d

/-- Whether all inbound synchronous data of the next cycle has arrived (R297). -/
def Dev.syncReady (d : Dev) : Bool :=
  d.pac.firstSync || (d.syncLanes 1).all (fun n => decide (d.chan.held.get n [] ≠ []))

/-- At a release each receive context presents its word and the burst is consumed; the first cycle after a load or a write
of PACE_COMMITTED consumes none (R297). -/
def Dev.syncConsume (d : Dev) : Dev :=
  if d.pac.firstSync then d.modPac (fun p => { p with firstSync := false })
  else
    each (d.syncLanes 1) (fun n d =>
      match d.chan.held.get n [] with
      | [] => d
      | b :: r =>
        let presented := ((d.tableCtxs n 1).zip b.words).foldl (fun m x => m.put x.1 x.2 0) d.chan.presented
        let l := d.link n
        ({ d with chan := { d.chan with held := d.chan.held.put n r [], presented := presented } }).setLink n
          { l with syncUsed := (l.syncUsed + 1) % 4 }) d

/-- Every held burst is discarded, and the next cycle released needs none (R297). -/
def Dev.syncDiscard (d : Dev) : Dev :=
  { d with chan := { d.chan with held := [], partials := [] }, pac := { d.pac with firstSync := true } }

/-- The design cycle whose burst a lane receives next: the one after the bursts it holds. -/
def Dev.syncExpected (d : Dev) (n : Nat) : Nat :=
  let next :=
    if d.running ∧ d.pac.phase ≠ .boundary then d.committed + 1
    else if d.pac.firstSync then d.committed + 1 else d.committed
  next + (d.chan.held.get n []).length

/-- A burst is discarded with its record (R296). -/
def Dev.syncBad (d : Dev) (n : Nat) : Dev := d.err (laneSel n) n 3 0x0B03

/-- A SYNC slot arrives (R296). -/
def Dev.syncSlot (d : Dev) (n cyc : Nat) (w : BitVec 256) : Dev :=
  let sel := laneSel n
  let need := d.get (Reg.LCH_LINK_SYNC_rx_count sel (laneJ n))
  if need = 0 then d.bump (Reg.LCH_LINK_ERR_discards sel (laneJ n))
  else
    let (got, d) :=
      match d.chan.partials.get n none with
      | some b => if b.cyc = cyc then (b, d) else ({ cyc := cyc, words := [] }, d.syncBad n)
      | none => (({ cyc := cyc, words := [] } : Burst), d)
    let got : Burst := { got with words := got.words ++ [w] }
    if got.words.length < need then
      { d with chan := { d.chan with partials := d.chan.partials.put n (some got) none } }
    else
      let d := { d with chan := { d.chan with partials := d.chan.partials.put n none none } }
      let held := d.chan.held.get n []
      if got.cyc ≠ d.syncExpected n % 8 ∨ 4 ≤ held.length then d.syncBad n
      else { d with chan := { d.chan with held := d.chan.held.put n (held ++ [got]) [] } }

/-! ### Stream channels (R300 to R303) -/

/-- The key of a stream port's outputs. -/
def portKey (f p : Nat) : Nat := f * 8 + p

/-- Outputs of a stream port: data [31:0], nbytes [34:32], eom [35], error [36], empty [37], full [38]. -/
def streamOutputs (data nbytes : Nat) (eom err : Bool) (empty full : Bool) : Nat :=
  data % 2 ^ 32 + nbytes * 2 ^ 32 + (if eom then 2 ^ 35 else 0) + (if err then 2 ^ 36 else 0) +
    (if empty then 2 ^ 37 else 0) + (if full then 2 ^ 38 else 0)

/-- What a stream port presents from the next launch. -/
def Dev.setStreamNext (d : Dev) (f p v : Nat) : Dev :=
  { d with chan := { d.chan with streamNext := d.chan.streamNext.put (portKey f p) v 0 } }

/-- A field's launch presents what its stream ports took. -/
def Dev.presentStreams (d : Dev) (f : Nat) : Dev :=
  let m := (List.range 8).foldl (fun m p => m.put (portKey f p) (d.chan.streamNext.get (portKey f p) 0) 0) d.chan.streamOut
  { d with chan := { d.chan with streamOut := m } }

/-- Whether a queue cannot take `n` more words. -/
def Ctx.full (x : Ctx) (n : Nat) : Bool :=
  decide (x.capacity < x.queue.length + (if x.part = [] then 0 else 1) + n)

/-- One write of a send port packs into its queue (R300). -/
def Dev.streamPut (d : Dev) (c data nbytes : Nat) (last : Bool) : Dev :=
  let x := d.ctx c
  if x.part = [] ∧ x.full 1 then
    (d.setCtx c { x with overflow := true }).err (baseSel (ctxBase c)) (c % 16384) 2 0x0B04
  else
    let n := if last ∧ nbytes ≠ 0 then nbytes else 4
    let part := x.part ++ toBytes data n
    let x := if x.queue = [] ∧ x.part = [] then { x with since := d.now } else x
    if last ∨ 32 ≤ part.length then
      (((d.setCtx c { x with part := [] }).takeHot c).queueAdd c [{ data := slice part 0 32, valid := part.length, eom := last }])
    else (d.setCtx c { x with part := part }).takeHot c

/-- The ticks that a stale code selects: 250 ns × 2^q (R301). -/
def Ctx.staleTicks (x : Ctx) : Nat := 4000 * 2 ^ x.staleCode

/-- The stale timer reaches its time: it closes the open partial word (R301). -/
def Dev.staleClose (d : Dev) (c : Nat) : Dev :=
  let x := d.ctx c
  if ¬ x.streamSend ∨ x.staleCode = 15 ∨ x.part = [] ∨ d.now < x.since + x.staleTicks then d
  else
    (d.setCtx c { x with part := [], queue := x.queue ++ [{ data := slice x.part 0 32, valid := x.part.length, eom := false }] }).settleQueue c

/-- Freed credits go to the peer in a CREDIT descriptor (R303). -/
def Dev.creditSend (d : Dev) (c : Nat) : Dev :=
  let x := d.ctx c
  if ¬ x.streamRecv ∨ x.freed = 0 ∨ 192 ≤ x.laneNo then d
  else
    let l := d.link x.laneNo
    (d.setCtx c { x with freed := x.freed - min x.freed 4095 }).setLink x.laneNo
      { l with creditQ := l.creditQ ++ [(x.peerPos, x.peerCtx, min x.freed 4095)] }

/-- A word has been read to its last valid byte: it frees a credit, and the sixteenth sends them (R303). -/
def Dev.creditFree (d : Dev) (c : Nat) : Dev :=
  let x := d.ctx c
  let d := d.setCtx c { x with freed := x.freed + 1, freedAt := if x.freed = 0 then d.now else x.freedAt }
  if 16 ≤ x.freed + 1 then d.creditSend c else d

/-- The oldest of the freed credits is 1 µs old (R303). -/
def Dev.creditReturn (d : Dev) (c : Nat) : Dev := if d.now < (d.ctx c).freedAt + ticksPerUs then d else d.creditSend c

/-- One read of a receive port: the next 1 to 4 valid bytes of the oldest word (R303, R305). -/
def Dev.streamGet (d : Dev) (f p c : Nat) : Dev :=
  let x := d.ctx c
  match x.queue with
  | [] => d.setStreamNext f p (streamOutputs 0 0 false false true false)
  | w :: rest =>
    if bitOf (d.chan.streamOut.get (portKey f p) 0) 37 then d.setStreamNext f p (streamOutputs 0 0 false false false false)
    else
      let (w, d) := d.queueRead c 0 w
      let x := d.ctx c
      let n := min 4 (w.valid - x.taken)
      let done := decide (w.valid ≤ x.taken + n)
      let out := streamOutputs (ofBytes (slice w.data x.taken n)) n (done && w.eom) w.poison (done && rest.isEmpty) false
      (if done then ((d.setCtx c { x with taken := 0 }).queueDrop c 1).creditFree c
       else d.setCtx c { x with queue := w :: rest, taken := x.taken + n }).setStreamNext f p out

/-- The commit of a field's channel ports; `d` is the state settled at the end of wave W (R292, R300, R305). -/
def Dev.chanCommit (d : Dev) (f p : Nat) (e : Dev) : Dev :=
  let c := Config.portContext f p
  let x := d.ctx c
  let (clk, fall) := Config.streamClock f p
  if x.secure ≠ d.bit (Reg.SEC_FIELD_WORLD_secure (f / 32)) (f % 32) then e
  else if x.streamSend then
    let e :=
      if d.edgeOf clk (if fall then 1 else 0) ∧ d.chanPin f p .valid % 2 = 1 then
        e.streamPut c (d.chanPin f p .data) (d.chanPin f p .nbytes % 4) (d.chanPin f p .eom % 2 = 1)
      else e
    e.setStreamNext f p (streamOutputs 0 0 false false false ((e.ctx c).full 8))
  else if x.streamRecv then
    (if d.edgeOf clk (if fall then 1 else 0) ∧ d.chanPin f p .ren % 2 = 1 then e.streamGet f p c
     else
       let old := e.chan.streamNext.get (portKey f p) 0
       e.setStreamNext f p (old % 2 ^ 37 + (if (e.ctx c).queue = [] then 2 ^ 37 else 0)))
  else e

/-! ### Sending (R279, R282, R290, R303, R304, R306, R307) -/

/-- Own position. -/
def Dev.ownPos (d : Dev) (b : Nat) : Nat := d.get (Reg.LCH_CTL_position (baseSel b))

/-- The slots of a frame that is being built: codes with 32 bytes each, destination and local flag once chosen, cyc. -/
structure Build where
  slots : List (Nat × List Byte) := []
  dest : Option (Nat × Bool) := none
  cyc : Nat := 0
  deriving DecidableEq, Repr

/-- Whether a slot for a destination fits the frame. -/
def Build.takes (b : Build) (dst : Nat) (loc : Bool) : Bool :=
  decide (b.slots.length < 15) && (b.dest.isNone || b.dest == some (dst, loc))

/-- Adds a slot. -/
def Build.add (b : Build) (dst : Nat) (loc : Bool) (code : Nat) (bytes : List Byte) : Build :=
  { b with slots := b.slots ++ [(code, bytes)], dest := some (dst, loc) }

/-- Whether a link may send DATA to a destination: its partner's hold keeps frames for others back (R310). -/
def Dev.holdAllows (d : Dev) (n dst : Nat) (loc : Bool) : Bool :=
  loc || !d.on (Reg.LCH_LINK_STATUS_hold_in (laneSel n) (laneJ n)) ||
    dst == d.get (Reg.LCH_LINK_CFG_partner (laneSel n) (laneJ n))

/-- SYNC slots of the oldest burst not yet sent, from its place on, in table order; words for one destination go in one
frame. -/
def Dev.buildSync (d : Dev) (n : Nat) : Nat → Build → Build × Dev
  | 0, b => (b, d)
  | fuel + 1, b =>
    match d.chan.formed.get n [] with
    | [] => (b, d)
    | u :: rest =>
      let k := d.chan.place.get n 0
      let ctxs := d.tableCtxs n 0
      match u.words[k]?, ctxs[k]? with
      | some w, some c =>
        let dst := (d.ctx c).peerPos
        if b.takes dst false && d.holdAllows n dst false && (b.slots.isEmpty || b.cyc == u.cyc) then
          let last := decide (u.words.length ≤ k + 1)
          let d := { d with chan := { d.chan with
            formed := d.chan.formed.put n (if last then rest else u :: rest) []
            place := d.chan.place.put n (if last then 0 else k + 1) 0 } }
          let b := { b.add dst false 1 (toBytes w.toNat 32) with cyc := u.cyc }
          if last then (b, d) else d.buildSync n fuel b
        else (b, d)
      | _, _ =>
        ({ b with cyc := b.cyc }, { d with chan := { d.chan with
            formed := d.chan.formed.put n rest [], place := d.chan.place.put n 0 0 } })

/-- CONTROL (code 4) or MGMT (code 5) slots, at most `m`, in order (R290). -/
def Dev.buildMsgs (d : Dev) (n : Nat) (mgmt : Bool) : Nat → Build → Build × Dev
  | 0, b => (b, d)
  | m + 1, b =>
    let l := d.link n
    match (if mgmt then l.mgmtQ else l.ctlQ) with
    | [] => (b, d)
    | x :: rest =>
      let out := if mgmt then (l.mgmtSent + 256 - l.pMgmt) % 256 else (l.ctlSent + 256 - l.pCtl) % 256
      if 32 ≤ out ∨ ¬ b.takes x.dst x.toLocal ∨ ¬ d.holdAllows n x.dst x.toLocal then (b, d)
      else
        let l := if mgmt then { l with mgmtQ := rest, mgmtSent := (l.mgmtSent + 1) % 256 }
                 else { l with ctlQ := rest, ctlSent := (l.ctlSent + 1) % 256 }
        (d.setLink n l).buildMsgs n mgmt m (b.add x.dst x.toLocal (if mgmt then 5 else 4) (toBytes x.data.toNat 32))

/-- The words that one descriptor covers: full ones, up to the first that closed partial or with eom. -/
def descRun : List QWord → List QWord
  | [] => []
  | w :: r => if w.valid = 32 ∧ ¬ w.eom then w :: descRun r else [w]

/-- Send contexts of a lane and destination that hold a credit and a word, in context order (DESIGN CHOICE, log entry 29). -/
def Dev.sendCtxs (d : Dev) (n dst : Nat) : List Nat :=
  (d.ctxs.filter (fun e => e.2.streamSend && e.2.laneNo == n && e.2.peerPos == dst && decide (0 < e.2.credit) &&
    decide (e.2.queue ≠ []))).map (·.1)

/-- DATA descriptors and their words, for `k` free word slots (R304). -/
def Dev.buildData (d : Dev) (dst n : Nat) : Nat → Nat → List Nat → List (Nat × List Byte) →
    List Nat × List (Nat × List Byte) × Dev
  | 0, _, ds, ws => (ds, ws, d)
  | fuel + 1, k, ds, ws =>
    if 8 ≤ ds.length ∨ k = 0 then (ds, ws, d)
    else
      match d.sendCtxs n dst with
      | [] => (ds, ws, d)
      | c :: _ =>
        let x := d.ctx c
        let run := (descRun x.queue).take (min k (min x.credit 14))
        let (sent, d) := (run.zipIdx).foldl (fun (r : List (Nat × List Byte) × Dev) e =>
          let (w, d) := r.2.queueRead c e.2 e.1
          (r.1 ++ [(if w.poison then 6 else 3, w.data)], d)) ([], d)
        let lastW := run.getLast?.getD { data := [], valid := 32, eom := false }
        let desc := x.peerCtx + run.length * 2 ^ 16 + lastW.valid * 2 ^ 20 + (if lastW.eom then 2 ^ 28 else 0) + 2 ^ 30
        let d := (d.setCtx c ((d.ctx c).setCredit (x.credit - run.length))).queueDrop c run.length
        d.buildData dst n fuel (k - run.length) (ds ++ [desc]) (ws ++ sent)

/-- A destination that stream data or credits wait for on a lane. -/
def Dev.streamDest (d : Dev) (n : Nat) : Option Nat :=
  match (d.link n).creditQ with
  | (dst, _, _) :: _ => some dst
  | [] =>
    (d.ctxs.find? (fun e => e.2.streamSend && e.2.laneNo == n && decide (0 < e.2.credit) && decide (e.2.queue ≠ []))).map
      (fun e => e.2.peerPos)

/-- One DESC slot with the STREAM slots its DATA descriptors cover (R304). -/
def Dev.buildStream (d : Dev) (n : Nat) (b : Build) : Build × Dev :=
  let dest :=
    match b.dest with
    | some (dst, false) => some dst
    | some (_, true) => none
    | none => d.streamDest n
  match dest with
  | none => (b, d)
  | some dst =>
    if ¬ b.takes dst false ∨ ¬ d.holdAllows n dst false then (b, d)
    else
      let l := d.link n
      let mine := (l.creditQ.filter (fun q => q.1 == dst)).take 8
      let creds := mine.map (fun q => q.2.1 + q.2.2 * 2 ^ 16 + 2 ^ 29 + 2 ^ 30)
      let d := d.setLink n { l with creditQ := l.creditQ.filter (fun q => !decide (q ∈ mine)) }
      let (ds, ws, d) := d.buildData dst n 8 (14 - b.slots.length) creds []
      if ds = [] then (b, d)
      else
        let b := b.add dst false 2 (slice (ds.flatMap (fun x => toBytes x 4)) 0 32)
        (ws.foldl (fun b w => b.add dst false w.1 w.2) b, d)

/-- The 488 bytes of a frame's directory and slots. -/
def Build.body (b : Build) (src : Nat) (tmark : Bool) : List Byte :=
  let codes := (b.slots.zipIdx).foldl (fun x s => x + s.1.1 * 2 ^ (3 * s.2)) 0
  let (dst, loc) := b.dest.getD (0, true)
  let dir := codes + dst * 2 ^ 45 + src * 2 ^ 52 + (if tmark then 2 ^ 59 else 0) + (if loc then 2 ^ 60 else 0) +
    (if b.slots.any (fun s => s.1 == 1) then b.cyc * 2 ^ 61 else 0)
  slice (toBytes dir 8 ++ b.slots.flatMap (fun s => slice s.2 0 32)) 0 488

/-- Whether a link asks its partner to send no frame for forwarding: an output lane that it feeds has fewer than 4 places
free (R310). -/
def Dev.holdOut (d : Dev) (n : Nat) : Bool :=
  d.links.any (fun e => decide (12 < e.2.fwd.length) && e.2.fwd.any (fun x => x.1 == n))

/-- A link's credit field (Table 9.5). -/
def Dev.creditField (d : Dev) (n : Nat) : Word :=
  let l := d.link n
  BitVec.ofNat 32 (l.accepted % 4096 + (if l.nak then 2 ^ 12 else 0) + (if d.holdOut n then 2 ^ 13 else 0) +
    l.ctlFreed * 2 ^ 14 + l.mgmtFreed * 2 ^ 22 + l.syncUsed * 2 ^ 30)

/-- The nonce of a DATA frame: link id and extended sequence number (R307). -/
def frameNonce (linkId ext : Nat) : List Byte := toBytes (ext + linkId * 2 ^ 64) 12

/-- The link ids of a lane's two directions (R307). -/
def linkId (srcPos srcLane dstPos dstLane : Nat) : Nat := srcPos * 2 ^ 25 + srcLane * 2 ^ 17 + dstPos * 2 ^ 10 + dstLane * 4
def Dev.partnerLane (d : Dev) (n : Nat) : Nat := leAt (d.link n).hello 11 1
def Dev.txLinkId (d : Dev) (n : Nat) : Nat :=
  linkId (d.ownPos (n / 48)) n (d.get (Reg.LCH_LINK_CFG_partner (laneSel n) (laneJ n))) (d.partnerLane n)
def Dev.rxLinkId (d : Dev) (n : Nat) : Nat :=
  linkId (d.get (Reg.LCH_LINK_CFG_partner (laneSel n) (laneJ n))) (d.partnerLane n) (d.ownPos (n / 48)) n

/-- Bytes under a keystream. -/
def gcmMask (key iv l : List Byte) (k : Nat) : List Byte :=
  (l.zipIdx).map (fun x => x.1 ^^^ Config.gcmStream key iv (k + x.2))

/-- Whether a link is encrypted. -/
def Dev.linkEnc (d : Dev) (n : Nat) : Bool := d.on (Reg.LCH_LINK_CFG_enc (laneSel n) (laneJ n))

/-- A link enters FAILED (R285): recorded, its replay buffer discarded, the host told. -/
def Dev.linkFail (d : Dev) (n : Nat) : Dev :=
  let d := (d.setLinkState n 3).err (laneSel n) n 3 0x0B01
  (d.setLink n { d.link n with buf := [], replay := none }).hostEvent 21

/-- A time mark leaves with a frame (R306). -/
def Dev.markSent (d : Dev) (n seq : Nat) : Dev :=
  let s := laneSel n
  let j := laneJ n
  (((d.setPair (Reg.LCH_TMARK_TX_LO s j) (Reg.LCH_TMARK_TX_HI s j) d.now).set (Reg.LCH_TMARK_TX_SEQ_seq s j) seq).set
    (Reg.LCH_TMARK_CTL_tx_valid s j) 1).set (Reg.LCH_TMARK_CTL_send s j) 0

/-- The 512 bytes of a frame, bit k of it being bit k mod 8 of byte k div 8 (Table 9.1): marker, type, seq, directory and slots, credit,
tag, and the CRC-32C of bytes 4 to 507, complemented in a stomped frame (R278, R279). -/
def Frame.inner (f : Frame) : List Byte :=
  toBytes f.type 1 ++ toBytes f.seq 3 ++ slice f.body 0 488 ++ toBytes f.credit.toNat 4 ++ slice f.tag 0 8
def Frame.bytes (f : Frame) : List Byte :=
  let c := crc32c f.inner
  toBytes 0x3C5A96E1 4 ++ f.inner ++ toBytes (if f.stomped then ~~~c else c).toNat 4

/-- A received frame: its fields, and what its crc field says (R279, R283). -/
def RxFrame.frame (r : RxFrame) : Frame :=
  let l := slice r.bytes 0 512
  let c := crc32c (slice l 4 504)
  let crc : Word := BitVec.ofNat 32 (leAt l 508 4)
  { type := leAt l 4 1, seq := leAt l 5 3, body := slice l 8 488, credit := BitVec.ofNat 32 (leAt l 496 4), tag := slice l 500 8,
    flagged := r.flagged, crcOk := crc == c, stomped := crc == ~~~c }

/-- A link sends a frame on its lane. -/
def Dev.sendRaw (d : Dev) (n : Nat) (f : Frame) : Dev := (d.setLink n { d.link n with out := some f }).laneSend n f.bytes

/-- A link sends a frame with its current credit field. -/
def Dev.putOut (d : Dev) (n : Nat) (f : Frame) : Dev := d.sendRaw n { f with credit := d.creditField n }

/-- A new DATA frame takes the next sequence number (R282, R307). -/
def Dev.sendData (d : Dev) (n : Nat) (plain : List Byte) (tmark : Bool) : Dev :=
  let l := d.link n
  let ext := l.epochTx * 2 ^ 24 + l.seq
  if d.linkEnc n ∧ 2 ^ 64 ≤ ext then d.linkFail n
  else
    let nonce := frameNonce (d.txLinkId n) ext
    let body := if d.linkEnc n then gcmMask l.txKey nonce plain 0 else plain
    let tag := if d.linkEnc n then (Config.gcmTag l.txKey nonce (toBytes (1 + l.seq * 256) 4) body).take 8 else []
    let wrap := decide (l.seq = 0xFFFFFF)
    let d := d.setLink n { l with
      seq := (l.seq + 1) % 2 ^ 24
      epochTx := if wrap then l.epochTx + 1 else l.epochTx
      tmarkDue := l.tmarkDue && !tmark
      buf := l.buf ++ [{ seq := l.seq, body := body, tag := tag, tmark := tmark, time := d.now }] }
    let d := if tmark then d.markSent n l.seq else d
    d.putOut n { type := 1, seq := l.seq, body := body, tag := tag }

/-- An IDLE frame (Table 9.2). -/
def Dev.sendIdle (d : Dev) (n : Nat) : Dev :=
  d.putOut n { type := 2, seq := (d.link n).seq, body := slice (toBytes (if d.linkState n = 2 then 2 ^ 60 else 0) 8) 0 488 }

/-- A HELLO frame: LCH_HELLO_TX with the lane number at byte 11 (R312). -/
def Dev.sendHello (d : Dev) (n : Nat) : Dev :=
  let s := laneSel n
  let bytes := (List.range 8).flatMap (fun i => toBytes (d.rdWord (Reg.LCH_HELLO_TX s i)).toNat 4)
  d.putOut n { type := 3, body := slice (toBytes (2 ^ 60) 8 ++ patch bytes 11 [BitVec.ofNat 8 n]) 0 488 }

/-- The next frame of a replay (R284, R287): as first sent, with current credit. -/
def Dev.sendReplay (d : Dev) (n k : Nat) : Dev :=
  let l := d.link n
  match l.buf[k]? with
  | none => d.setLink n { l with replay := none }
  | some s =>
    let d := d.setLink n { l with replay := if k + 1 < l.buf.length then some (k + 1) else none
                                  buf := l.buf.set k { s with time := d.now } }
    let d := if s.tmark then d.markSent n s.seq else d
    d.putOut n { type := 1, seq := s.seq, body := s.body, tag := s.tag }

/-- The next frame of an ACTIVE link (R281, R282, R290, R310): a replay, an IDLE frame while the partner is not known to be
ACTIVE or 64 frames wait for their acknowledgment, a forwarded frame, or one built from what waits. -/
def Dev.sendActive (d : Dev) (n : Nat) : Dev :=
  let l := d.link n
  match l.replay with
  | some k => d.sendReplay n k
  | none =>
    if ¬ l.partnerUp ∨ 64 ≤ l.buf.length then d.sendIdle n
    else
      match l.fwd with
      | (_, body) :: rest =>
        if d.holdAllows n (leAt body 0 8 / 2 ^ 45 % 128) false then
          (d.setLink n { l with fwd := rest }).sendData n body (leAt body 0 8 / 2 ^ 59 % 2 = 1)
        else d.sendIdle n
      | [] =>
        let s := laneSel n
        let j := laneJ n
        let (b, d) := d.buildSync n 15 {}
        let (b, d) := d.buildMsgs n false (d.get (Reg.LCH_LINK_CFG_ctl_max s j)) b
        let (b, d) := d.buildMsgs n true (d.get (Reg.LCH_LINK_CFG_mgmt_max s j)) b
        let (b, d) := d.buildStream n b
        let (b, d) := d.buildMsgs n false 15 b
        let (b, d) := d.buildMsgs n true 15 b
        if b.slots = [] ∧ ¬ l.tmarkDue then d.sendIdle n
        else d.sendData n (b.body (d.ownPos (n / 48)) l.tmarkDue) l.tmarkDue

/-- A link sends its next frame; in HELLO `hello` says that 10 µs have passed since the last HELLO (Table 9.6). A lane in ACQUIRE, ALIGN or
TEST transmits without a link (Table 8.4). -/
def Dev.frameSend (d : Dev) (n : Nat) (hello : Bool) : Dev :=
  if d.laneState n = 2 ∨ d.laneState n = 3 ∨ d.laneState n = 5 then d.laneFill n
  else if d.laneState n ≠ 4 then d
  else
    match d.linkState n with
    | 1 => if hello then d.sendHello n else d.sendIdle n
    | 2 => d.sendActive n
    | 3 => d.sendIdle n
    | 4 => d.sendIdle n
    | _ => d

/-- A lane sends its HALTED frame, all of it 0 after type except crc, and goes idle (R268, R289, Table 9.2). With FEC the frames that its block
lacks are sent too (DESIGN CHOICE, log entry 151). -/
def Dev.haltedSent (d : Dev) (n : Nat) : Dev :=
  if ¬ (d.lane n).haltDue then d
  else
    let d := (d.setLane n { d.lane n with haltDue := false }).sendRaw n { type := 4 }
    let d := each (List.range (if (d.lane n).block = [] then 0 else 5 - (d.lane n).block.length)) (fun _ d => d.laneFill n) d
    d.laneLeave n 7 6

/-! ### Replays (R284, R285) -/

/-- A replay starts from the oldest unacknowledged frame; too many without a new ack fail the link. -/
def Dev.startReplay (d : Dev) (n : Nat) : Dev :=
  let l := d.link n
  if l.buf = [] then d
  else
    let c := if l.acked then 0 else l.retries + 1
    let d := (d.bump (Reg.LCH_LINK_ERR_replays (laneSel n) (laneJ n))).setLink n
      { l with replay := some 0, acked := false, retries := c }
    if max (d.get (Reg.LCH_RETRY_limit (laneSel n))) 1 < c then d.linkFail n else d

/-- LCH_RETRY.timeout of a lane's link in ticks: 0 acts as 1 (Table 9.11). -/
def Dev.retryTicks (d : Dev) (n : Nat) : Nat := max (d.get (Reg.LCH_RETRY_timeout (laneSel n))) 1 * 1600

/-- The oldest unacknowledged frame has waited LCH_RETRY.timeout since it was last sent (R284). -/
def Dev.replayTimeout (d : Dev) (n : Nat) : Dev :=
  match (d.link n).buf with
  | [] => d
  | s :: _ => if d.linkState n = 2 ∧ d.laneState n = 4 ∧ s.time + d.retryTicks n ≤ d.now then d.startReplay n else d

/-- A good frame's credit field is taken (R283 step 2, R284). -/
def Dev.creditIn (d : Dev) (n : Nat) (w : Word) : Dev :=
  let s := laneSel n
  let j := laneJ n
  let ack := bits w 0 12
  let l := d.link n
  let d := d.set (Reg.LCH_LINK_STATUS_hold_in s j) (bits w 13 1)
  let l := { l with pCtl := bits w 14 8, pMgmt := bits w 22 8, pSync := bits w 30 2 }
  let l :=
    match (l.buf.zipIdx).find? (fun x => x.1.seq % 4096 == ack) with
    | some (x, i) =>
      { l with
        buf := l.buf.drop (i + 1), ackSeq := x.seq, acked := true, retries := 0
        replay := l.replay.bind (fun k => if i + 1 ≤ k then some (k - (i + 1)) else if i + 1 < l.buf.length then some 0 else none) }
    | none => l
  let d := d.setLink n l
  if w.getLsbD 12 ∧ (l.nakSeen ≠ some ack ∨ l.nakTime + d.retryTicks n ≤ d.now) then
    (d.setLink n { l with nakSeen := some ack, nakTime := d.now }).startReplay n
  else d

/-! ### Activation (R281, R288) -/

/-- A link enters ACTIVE: its numbers start at 0, and an encrypted link takes its direction keys (R281, R428). -/
def Dev.linkActivate (d : Dev) (n : Nat) : Dev :=
  let l := d.link n
  let slot := d.get (Reg.LCH_LINK_CFG_key_slot (laneSel n) (laneJ n))
  if d.linkState n ≠ 1 ∨ (d.linkEnc n ∧ l.keyNew.getLsbD slot = false) then d.linkRefuse n
  else
    let key := d.sec.keys.get (2 * 16 + slot) []
    let enc := d.linkEnc n
    let l : Link := { hello := l.hello, ctlQ := l.ctlQ, mgmtQ := l.mgmtQ, fwd := l.fwd, creditQ := l.creditQ, out := l.out,
                      tmarkDue := l.tmarkDue, ctlRx := l.ctlRx,
                      txKey := if enc then directionKey key (d.txLinkId n) else [],
                      rxKey := if enc then directionKey key (d.rxLinkId n) else [],
                      keyNew := 0 }
    ((d.setLink n l).setLinkState n 2).set (Reg.LCH_LINK_CFG_activate (laneSel n) (laneJ n)) 1

/-- A link leaves ACTIVE, FAILED or PARTNER_HALTED by a write of 0. -/
def Dev.linkDeactivate (d : Dev) (n : Nat) : Dev :=
  let d := d.set (Reg.LCH_LINK_CFG_activate (laneSel n) (laneJ n)) 0
  let st := d.linkState n
  if st = 2 ∨ st = 3 ∨ st = 4 then
    (d.setLink n { d.link n with buf := [], replay := none }).setLinkState n (if d.laneState n = 4 then 1 else 0)
  else d

/-- A write of LCH_LINK_CFG (R281, R316). -/
def Dev.linkCfg (d : Dev) (n : Nat) (v : Word) : Dev :=
  let a := Reg.LCH_LINK_CFG (laneSel n) (laneJ n)
  let old := d.rdWord a
  let mask : Word := 0x0007FFFE#32
  let st := d.linkState n
  let d :=
    if st = 0 ∨ st = 1 then d.wrWord a ((old &&& ~~~mask) ||| (v &&& mask))
    else if old &&& mask = v &&& mask then d
    else d.linkRefuse n
  if v.getLsbD 0 then d.linkActivate n else d.linkDeactivate n

/-! ### Receiving (R283, R288, R296, R305, R309, R310) -/

/-- Takes the message of a CONTROL or MGMT slot into a receive entry; the boot ROM or the firmware takes CONTROL messages,
and the management units MGMT messages, from it (R290). -/
def Dev.msgIn (d : Dev) (n src : Nat) (loc mgmt : Bool) (w : BitVec 256) : Dev :=
  let l := d.link n
  let x : InMsg := { lane := n, src := src, toLocal := loc, data := w }
  if mgmt then d.setLink n { l with mgmtFreed := (l.mgmtFreed + 1) % 256 }
  else if d.get Reg.ID_STATE_sp_state ≤ 3 then
    { d.setLink n { l with ctlFreed := (l.ctlFreed + 1) % 256 } with
      fw := { d.fw with inbox := d.fw.inbox ++ [x] } }
  else if l.ctlRx.length < 32 then d.setLink n { l with ctlRx := l.ctlRx ++ [x] }
  else d

/-- The service processor takes the messages that wait in the receive entries (R290). -/
def Dev.msgsTake (d : Dev) : Dev :=
  each (List.range 192) (fun n d =>
    let l := d.link n
    if l.ctlRx = [] then d
    else
      { d.setLink n { l with ctlRx := [], ctlFreed := (l.ctlFreed + l.ctlRx.length) % 256 } with
        fw := { d.fw with inbox := d.fw.inbox ++ l.ctlRx } }) d

/-- A record of class LCH_DESC (R305). -/
def Dev.descBad (d : Dev) (n : Nat) : Dev := d.err (laneSel n) n 3 0x0B06

/-- The words of one DATA descriptor are delivered (R303, R305). -/
def Dev.streamIn (d : Dev) (c lastValid : Nat) (eom : Bool) (ws : List (Nat × List Byte)) : Dev :=
  let new := (ws.zipIdx).map (fun w =>
    let last := decide (ws.length ≤ w.2 + 1)
    ({ data := w.1.2, valid := if last then lastValid else 32, eom := last && eom, poison := w.1.1 == 6 } : QWord))
  (d.takeHot c).queueAdd c new

/-- Descriptors of a DESC slot in order, over the stream slots that follow it; the slots left over come back. -/
def Dev.descsIn (d : Dev) (n src : Nat) : List Nat → List (Nat × List Byte) → List (Nat × List Byte) × Dev
  | [], ws => (ws, d)
  | x :: r, ws =>
    if ¬ bitOf x 30 then d.descsIn n src r ws
    else
      let c := x % 65536
      let y := d.ctx c
      if bitOf x 29 then
        (if y.streamSend && y.peerPos == src then d.setCtx c (y.setCredit (y.credit + fieldOf x 16 12)) else d).descsIn n src r ws
      else
        let k := fieldOf x 16 4
        let lv := fieldOf x 20 6
        if y.streamRecv && y.peerPos == src && decide (1 ≤ k ∧ k ≤ ws.length ∧ 1 ≤ lv ∧ lv ≤ 32) then
          (d.streamIn c lv (bitOf x 28) (ws.take k)).descsIn n src r (ws.drop k)
        else (d.descBad n).descsIn n src r (ws.drop k)

/-- The slots of a delivered frame, in order (R290, R296, R305). `lead` are the stream slots that follow slot by slot. -/
def Dev.slotsIn (d : Dev) (n src cyc : Nat) (loc : Bool) : Nat → List (Nat × List Byte) → Dev
  | 0, _ => d
  | _, [] => d
  | fuel + 1, (code, bytes) :: r =>
    let w : BitVec 256 := BitVec.ofNat 256 (ofBytes bytes)
    match code with
    | 0 => d.slotsIn n src cyc loc fuel r
    | 1 => (d.syncSlot n cyc w).slotsIn n src cyc loc fuel r
    | 2 =>
      let isS (s : Nat × List Byte) : Bool := s.1 == 3 || s.1 == 6
      let ws := r.takeWhile isS
      let descs := (List.range 8).map (fun q => leAt bytes (4 * q) 4)
      let (left, d) := d.descsIn n src descs ws
      let d := if left = [] then d else d.descBad n
      d.slotsIn n src cyc loc fuel (r.drop ws.length)
    | 4 => (d.msgIn n src loc false w).slotsIn n src cyc loc fuel r
    | 5 => (d.msgIn n src loc true w).slotsIn n src cyc loc fuel r
    | 7 => (d.bump (Reg.LCH_LINK_ERR_discards (laneSel n) (laneJ n))).slotsIn n src cyc loc fuel r
    | _ => (d.descBad n).slotsIn n src cyc loc fuel (r.dropWhile (fun s => s.1 == 3 || s.1 == 6))

/-- Counts a discarded frame. -/
def Dev.linkDiscard (d : Dev) (n : Nat) : Dev := d.bump (Reg.LCH_LINK_ERR_discards (laneSel n) (laneJ n))

/-- An accepted frame is delivered, forwarded or discarded (R309, R310). -/
def Dev.frameIn (d : Dev) (n : Nat) (plain : List Byte) : Dev :=
  let s := laneSel n
  let dir := leAt plain 0 8
  let dst := fieldOf dir 45 7
  let src := fieldOf dir 52 7
  let slots := (List.range 15).map (fun i => (fieldOf dir (3 * i) 3, slice plain (8 + 32 * i) 32))
  let valid := d.on (Reg.LCH_CTL_pos_valid s)
  if bitOf dir 60 ∨ (valid ∧ dst = d.ownPos (n / 48)) then d.slotsIn n src (fieldOf dir 61 3) (bitOf dir 60) 16 slots
  else if ¬ valid then d.linkDiscard n
  else
    let m := d.get (Reg.LCH_FWD_lane s dst)
    if ¬ d.on (Reg.LCH_FWD_valid s dst) ∨ 192 ≤ m then d.err s n 3 0x0B07
    else
      let l := d.link m
      if 16 ≤ l.fwd.length then d.linkDiscard n else d.setLink m { l with fwd := l.fwd ++ [(n, plain)] }

/-- Directory and slots of a received DATA frame, decrypted (R307). -/
def Dev.plainBody (d : Dev) (n : Nat) (f : Frame) : List Byte :=
  let l := d.link n
  if d.linkEnc n then gcmMask l.rxKey (frameNonce (d.rxLinkId n) (l.epochRx * 2 ^ 24 + f.seq)) f.body 0 else f.body

/-- Directory and slots as a link's next DATA frame would carry them (R307). -/
def Dev.cipherBody (d : Dev) (m : Nat) (plain : List Byte) : List Byte :=
  let l := d.link m
  if d.linkEnc m then gcmMask l.txKey (frameNonce (d.txLinkId m) (l.epochTx * 2 ^ 24 + l.seq)) plain 0 else plain

/-- Whether a link would send a forwarded frame for a position at once: the forwarder has then begun it (R310). -/
def Dev.forwardsNow (d : Dev) (m dst : Nat) : Bool :=
  let l := d.link m
  d.linkState m == 2 && d.laneState m == 4 && l.replay.isNone && l.partnerUp && decide (l.buf.length < 64) && l.fwd.isEmpty &&
    d.holdAllows m dst false

/-- A frame that is not good and was being forwarded leaves stomped; it takes no sequence number (R286, R310). -/
def Dev.stompOut (d : Dev) (n : Nat) (f : Frame) : Dev :=
  let s := laneSel n
  let plain := d.plainBody n f
  let dir := leAt plain 0 8
  let dst := fieldOf dir 45 7
  let m := d.get (Reg.LCH_FWD_lane s dst)
  if ¬ d.on (Reg.LCH_CTL_pos_valid s) ∨ bitOf dir 60 ∨ dst = d.ownPos (n / 48) ∨ ¬ d.on (Reg.LCH_FWD_valid s dst) ∨ 192 ≤ m ∨
      ¬ d.forwardsNow m dst then d
  else d.putOut m { type := 1, seq := (d.link m).seq, body := d.cipherBody m plain, stomped := true }

/-- The oldest frame that a lane has delivered, where it is of a type that `p` names, is taken by the link layer (R265, R283). -/
def Dev.takeFrame (d : Dev) (n : Nat) (p : Nat → Bool) (act : Frame → Dev → Dev) : Dev :=
  match (d.lane n).frames with
  | r :: rest =>
    if p r.frame.type ∧ d.laneState n = 4 then act r.frame (d.setLane n { d.lane n with frames := rest }) else d
  | [] => d

/-- Whether a frame is good (R283). -/
def Frame.good (f : Frame) : Bool := !f.flagged && f.crcOk && !f.stomped

/-- What a frame that is not good does to an ACTIVE link (R283 step 1). -/
def Dev.badFrame (d : Dev) (n : Nat) (f : Frame) : Dev :=
  let s := laneSel n
  let j := laneJ n
  let d := if f.stomped then d.bump (Reg.LCH_LINK_ERR_stomped s j) else d.bump (Reg.LCH_LINK_ERR_crc s j)
  d.setLink n { d.link n with nak := true }

/-- A DATA frame arrives (R283, R307, R308). -/
def Dev.dataFrame (d : Dev) (n : Nat) (f : Frame) : Dev :=
  if d.laneState n ≠ 4 ∨ d.linkState n ≠ 2 then d
  else if ¬ f.good then (d.badFrame n f).stompOut n f
  else
    let s := laneSel n
    let j := laneJ n
    let d := d.creditIn n f.credit
    let d := d.setLink n { d.link n with partnerUp := true }
    if d.linkState n ≠ 2 then d
    else
      let l := d.link n
      if f.seq ≠ l.expect then
        let d := d.linkDiscard n
        if (f.seq + 2 ^ 24 - l.expect) % 2 ^ 24 < 2 ^ 23 then d.setLink n { d.link n with nak := true } else d
      else
        let nonce := frameNonce (d.rxLinkId n) (l.epochRx * 2 ^ 24 + f.seq)
        if d.linkEnc n ∧ slice f.tag 0 8 ≠ (Config.gcmTag l.rxKey nonce (toBytes (1 + f.seq * 256) 4) f.body).take 8 then
          d.integrityHalt 0x0B08 s n
        else
          let plain := d.plainBody n f
          let d := d.setLink n { l with
            expect := (l.expect + 1) % 2 ^ 24
            epochRx := if l.expect = 0xFFFFFF then l.epochRx + 1 else l.epochRx
            accepted := f.seq, nak := false }
          let d :=
            if bitOf (leAt plain 0 8) 59 then
              ((d.setPair (Reg.LCH_TMARK_RX_LO s j) (Reg.LCH_TMARK_RX_HI s j) d.now).set (Reg.LCH_TMARK_RX_SEQ_seq s j)
                f.seq).set (Reg.LCH_TMARK_CTL_rx_valid s j) 1
            else d
          d.frameIn n plain

/-- An IDLE frame arrives (R281, R283). -/
def Dev.idleFrame (d : Dev) (n : Nat) (f : Frame) : Dev :=
  if d.laneState n ≠ 4 ∨ d.linkState n ≠ 2 then d
  else if ¬ f.good then d.badFrame n f
  else
    let d := d.creditIn n f.credit
    if bitOf (leAt f.body 0 8) 60 then d.setLink n { d.link n with partnerUp := true } else d

/-- A HALTED frame arrives (R283 step 4, R288). -/
def Dev.haltedFrame (d : Dev) (n : Nat) (f : Frame) : Dev :=
  if d.laneState n ≠ 4 ∨ d.linkState n ≠ 2 then d
  else if ¬ f.good then d.badFrame n f
  else (d.setLinkState n 4).err (laneSel n) n 3 0x0B02

/-- A frame of a reserved type arrives (Table 9.2). -/
def Dev.reservedFrame (d : Dev) (n : Nat) (f : Frame) : Dev :=
  if d.laneState n ≠ 4 ∨ d.linkState n = 0 ∨ 3 ≤ d.linkState n then d
  else if ¬ f.good then (if d.linkState n = 2 then d.badFrame n f else d)
  else d.linkDiscard n

/-- A HELLO frame arrives: a link in HELLO latches it (R280, R312). -/
def Dev.helloLatch (d : Dev) (n : Nat) (f : Frame) : Dev :=
  if d.laneState n ≠ 4 then d
  else if d.linkState n = 2 then (if f.good then d else d.badFrame n f)
  else if d.linkState n ≠ 1 ∨ ¬ f.good then d
  else d.setLink n { d.link n with hello := slice f.body 8 32 }

/-! ### The link-queue scrubber (R369 to R371) -/

/-- The scrubber reads a context's words in registers, of which `flips` are the bits that an environment has flipped since, in the order of
the words; a word with single-bit errors is written back, one with more is recorded (R302, R369). -/
def Dev.scrubWords (d : Dev) (s c : Nat) (flips : List Nat) : Dev :=
  let x := d.ctx c
  let held := (x.queue.zipIdx).filter (fun e => !e.1.out)
  each held.zipIdx (fun e d =>
    let w := e.1.1
    let fl := toggleAll w.flips ((flips.filter (fun p => p / 288 == e.2)).map (fun p => p % 288))
    let (ones, bad) := qwordCheck fl
    let put (d : Dev) (fl : List Nat) : Dev := d.setCtx c { d.ctx c with queue := (d.ctx c).queue.set e.1.2 { w with flips := fl } }
    if bad then ((put d fl).bump (Reg.ERR_SCRUB_UE_count s 3)).err s (c % 16384) 2 0x0B05
    else each (List.range ones) (fun _ d => (d.bump (Reg.ERR_SCRUB_CE_count s 3)).scrubBucket s 3) (put d [])) d

/-- The link-queue scrubber of a base die reads the registers of its next held hot slot (R369 to R371). -/
def Dev.scrubQueue (d : Dev) (b : Nat) (flips : List Nat) : Dev :=
  let s := baseSel b
  let used := d.hotUsed b
  let nextFrom (u : Nat) : Option Nat := ((List.range 2048).filter (fun k => decide (u ≤ k) && decide (k ∈ used))).head?
  if d.on (Reg.ERR_SCRUB_CTL_pause s 3) ∨ d.halted ∨ d.heldDie s then d
  else
    match nextFrom 0 with
    | none => d
    | some first =>
      let d := if d.on (Reg.ERR_SCRUB_STATUS_in_progress s 3) then d
        else { d.set (Reg.ERR_SCRUB_STATUS_in_progress s 3) 1 with
               scrub := { d.scrub with lapStart := d.scrub.lapStart.put (16 * (12 + b) + 3) d.now 0 } }
      let u := (nextFrom (d.get (Reg.ERR_SCRUB_POS_unit s 3))).getD first
      let d :=
        match (d.hotCtxs b).find? (fun e => e.2.hot.map (·.1) == some u) with
        | none => d
        | some (c, _) => d.scrubWords s c flips
      match nextFrom (u + 1) with
      | some y => d.set (Reg.ERR_SCRUB_POS_unit s 3) y
      | none =>
        let t := (d.now - d.scrub.lapStart.get (16 * (12 + b) + 3) 0) / ticksPerUs
        let d := ((d.set (Reg.ERR_SCRUB_POS_unit s 3) first).wrap (Reg.ERR_SCRUB_STATUS_laps s 3)).set
          (Reg.ERR_SCRUB_LAP_US_us s 3) t
        { d with scrub := { d.scrub with lapStart := d.scrub.lapStart.put (16 * (12 + b) + 3) d.now 0 } }

end Sys2Proof.Machine
end

