-- ==== Sys2Proof/Machine/Sec.lean ====
section
/-! DEFINITION. Security and lifecycle of chapter 13 of spec/: changes of world (R425), key slots and the unwrap engine
(R428, R429), lifecycle requests and fuses (R431 to R433), tamper (R434, R435) and wipes (R436). -/

namespace Sys2Proof.Machine

/-! ### Clearing -/

/-- Bytes and check marks of a range become 0 with valid check bits. -/
def Dev.zeroRange (d : Dev) (lo hi : Nat) : Dev :=
  { d with mem := SMap.clear (α := Byte) d.mem lo hi, marks := d.marks.clear lo hi }

/-- Every logic frame of a field becomes 0; corrections that wait are dropped, and golden copies follow (R326, R362, R364). -/
def Dev.clearFrames (d : Dev) (f : Nat) : Dev :=
  let d := (d.clearLogic f).dropFixes f
  if d.on (Reg.GLEAN_CTL_golden_en (dieOf f)) then
    each (List.range 2048) (fun x d => d.goldenCopy (frameAddr (dieOf f) (idxOf f) (x / 64) (x % 64) 0)) d
  else d

/-- Every bin and MAC tile memory of a field holds 0 with valid check bits (R326). -/
def Dev.zeroMem (d : Dev) (f : Nat) : Dev :=
  let d := d.zeroRange (binBase f 0) (binBase f 0 + 0xC0000)
  d.zeroRange (tileBase f 0) (tileBase f 0 + 0x1E000)

/-! ### Changes of world (R425) -/

/-- Records that a write was refused. -/
def Dev.secRefuse (d : Dev) : Dev := d.set Reg.SEC_STATUS_cmd_refused 1

/-- What the hardware clears of a field that turns from secure to non-secure. -/
def Dev.worldClear (d : Dev) (f : Nat) : Dev := (((d.clearFrames f).zeroMem f).setLoaded f false)

/-- A write of SEC_FIELD_WORLDk. A field that turns non-secure is cleared, and its bit changes when that is done. -/
def Dev.fieldWorldWrite (d : Dev) (k : Nat) (v : Word) : Dev :=
  let old := d.rdWord (Reg.SEC_FIELD_WORLD k)
  let moved := (List.range 32).filter (fun i => old.getLsbD i != v.getLsbD i)
  if d.running ∨ moved.any (fun i => d.reconfiguring (32 * k + i)) then d.secRefuse
  else
    let d := d.wrWord (Reg.SEC_FIELD_WORLD k) (old ||| v)
    let turning := moved.filter (fun i => old.getLsbD i)
    let d := { d with sec := { d.sec with
      clearing := d.sec.clearing.filter (fun f => !(f / 32 == k && v.getLsbD (f % 32))) } }
    (each turning (fun i d =>
      let f := 32 * k + i
      let d := d.worldClear f
      { d with sec := { d.sec with clearing := withItem d.sec.clearing f } }) d).updateIfAtRest

/-- The clearing of a field is done: it is non-secure. -/
def Dev.fieldWorldDone (d : Dev) (f : Nat) : Dev :=
  if f ∈ d.sec.clearing then
    let d := (d.worldClear f).setBit (Reg.SEC_FIELD_WORLD_secure (f / 32)) (f % 32) false
    ({ d with sec := { d.sec with clearing := without d.sec.clearing f } }).updateIfAtRest
  else d

/-- A word of a world register waits for step 2 of a flush (R215, R425). -/
def Dev.worldLater (d : Dev) (a : Nat) (w : Word) : Dev :=
  let d := d.flushStart
  { d with rc := { d.rc with afterFlush := d.rc.afterFlush.filter (fun e => e.1 != a) ++ [(a, w)] } }

/-- The word of SEC_GRAN_WORLDb that a write asks for: partition_mb is locked under SEC_LOCK (R426). -/
def Dev.granWorldWord (d : Dev) (b : Nat) (v : Word) : Word :=
  let old := d.rdWord (Reg.SEC_GRAN_WORLD b)
  if d.on Reg.SEC_LOCK_lock then setBits old 0 16 (bits v 0 16)
  else setBits (setBits old 0 16 (bits v 0 16)) 16 4 (bits v 16 4)

/-- A write of SEC_GRAN_WORLDb: regions that turn non-secure are zeroed, and the change applies within a flush. -/
def Dev.granWorldWrite (d : Dev) (b : Nat) (v : Word) : Dev :=
  let old := d.rdWord (Reg.SEC_GRAN_WORLD b)
  let w := d.granWorldWord b v
  if w = old ∧ ¬ d.rc.afterFlush.any (fun e => e.1 == Reg.SEC_GRAN_WORLD b) then d
  else
    let turning := (List.range 16).filter (fun g => old.getLsbD g && !w.getLsbD g)
    let d := { d with sec := { d.sec with
      zeroing := turning.foldl (fun l g => withItem l (16 * b + g)) d.sec.zeroing } }
    d.worldLater (Reg.SEC_GRAN_WORLD b) w

/-- A granary region is zeroed, once the directory has no sharer of its lines (R210), and the save buffer with it while it answers
for part of the region (R377); it turns non-secure where its change has only waited for that. -/
def Dev.granZeroDone (d : Dev) (b g : Nat) : Dev :=
  if 16 * b + g ∈ d.sec.zeroing then
    let lo := granBase b + g * 0x180000
    let x := d.dirPurge (fun a => decide (lo ≤ a ∧ a < lo + 0x180000))
    if ¬ x.1 then x.2
    else
    let d := x.2.zeroRange lo (lo + 0x180000)
    let d := if d.underTest b g then d.zeroRange (saveBase b) (saveBase b + 0x1000) else d
    let d := { d with sec := { d.sec with zeroing := without d.sec.zeroing (16 * b + g) } }
    match d.sec.worldWait.find? (fun e => e.1 == Reg.SEC_GRAN_WORLD b) with
    | some (a, w) => d.worldApply a w
    | none => d
  else d

/-- A write of SEC_HBM_WORLD_LO or _HI: the change applies within a flush (R425; DEDUCED, log entry 32). -/
def Dev.hbmWorldWrite (d : Dev) (hi : Bool) (v : Word) : Dev :=
  let a := if hi then Reg.SEC_HBM_WORLD_HI else Reg.SEC_HBM_WORLD_LO
  if v = d.rdWord a ∧ ¬ d.rc.afterFlush.any (fun e => e.1 == a) then d else d.worldLater a v

/-- A write of SEC_PAGE_WORLD while it is not locked: bit 0 is reserved, bits 9, 19 and 20 read 1 (Table 13.11). -/
def Dev.pageWorldWrite (d : Dev) (v : Word) : Dev :=
  if d.on Reg.SEC_LOCK_lock then d
  else d.wrWord Reg.SEC_PAGE_WORLD ((v &&& 0x03FFFFFE#32) ||| 0x00180200#32)

/-! ### Wipes (R436, Table 13.9) -/

/-- The granary regions of a base die's secure partition. -/
def Dev.partitionRegions (d : Dev) (b : Nat) : List Nat :=
  (List.range 16).filter (fun g => decide (g * 0x180000 < d.partitionBytes b))

/-- A wipe of an area starts: a retained memory in it wakes (R455), and a test of a region in it ends (R377). -/
def Dev.wipeStart (d : Dev) (tamper : Bool) (area : WipeArea) : Dev :=
  let d := { d with sec := { d.sec with
    wipes := if d.sec.wipes.any (fun e => e.1 == area) then
        d.sec.wipes.map (fun e => if e.1 = area then (e.1, e.2 || tamper) else e)
      else d.sec.wipes ++ [(area, tamper)] } }
  match area with
  | .granary =>
    each [0, 1, 2, 3] (fun b d =>
      let d := each (d.partitionRegions b) (fun g d => d.wake (retGran b g)) d
      if (d.partitionRegions b).any (fun g => d.underTest b g) ∧
          d.get (Reg.GRAN_TEST_STATUS_region (baseSel b)) * 0x1000 < d.partitionBytes b then
        d.granDrop b
      else d) d
  | _ => d

/-- What a wipe does to its area. -/
def Dev.wipeArea (d : Dev) (area : WipeArea) : Dev :=
  match area with
  | .keys => d.clearKeys
  | .memsec => d.memsecWipe
  | .granary => each [0, 1, 2, 3] (fun b d => d.zeroRange (granBase b) (granBase b + d.partitionBytes b)) d
  | .sp => d.zeroRange 0x7000000000 0x7000100000

/-- A wipe of an area completes; that of the granary waits for memories that wake. After the last one the fuses of a lifecycle change are
blown (R433). -/
def Dev.wipeDone (d : Dev) (area : WipeArea) : Dev :=
  if d.sec.wipes.any (fun e => e.1 == area) then
    if area = .granary ∧ [0, 1, 2, 3].any (fun b => (d.partitionRegions b).any (fun g => d.asleep (retGran b g))) then d
    else
      let d := d.wipeArea area
      let wipes := d.sec.wipes.filter (fun e => e.1 != area)
      { d with sec := { d.sec with wipes := wipes,
                                   lc := d.sec.lc.map (fun j => ({ j with blowing := j.blowing || wipes == [] } : LcJob)) } }
  else d

/-- What a wipe does to an access: none, a bus error (some true), or a wait (R436). -/
def Dev.wipeGate (d : Dev) (a : Nat) (p : Place) : Option Bool :=
  let hit (area : WipeArea) : Option Bool := (d.sec.wipes.find? (fun e => e.1 == area)).map (fun e => e.2)
  match p with
  | .hbm => if (d.rgnAt (hbmSplit d.hbmOrder a).1 (hbmSplit d.hbmOrder a).2).isSome then hit .memsec else none
  | .gran b off => if off < d.partitionBytes b then hit .granary else none
  | .sp off => if off < 0x100000 then hit .sp else none
  | _ => none

/-! ### Key slots and the unwrap engine (R427 to R429) -/

/-- The context of the identity key (Table 13.3). -/
def Fuses.keyContext (fz : Fuses) : Nat := if lifeBit fz.life 3 || lifeBit fz.life 4 then 1 else 0

/-- The order of the group of P-384 (PRESUMED from FIPS 186, log entry 4). -/
def p384Order : Nat :=
  0xFFFFFFFFFFFFFFFFFFFFFFFFFFFFFFFFFFFFFFFFFFFFFFFFC7634D81F4372DDF581A0DB248B0A77AECEC196ACCC52973

/-- The identity private key: derived from the device-unique key, reduced modulo the group order, with 0 replaced by 1 (Table 13.3). -/
def Fuses.identityKey (fz : Fuses) : Nat :=
  let k := ofBytes (kdf (toBytes fz.duk.toNat 32) "ML-ID" (toBytes fz.keyContext 1) 384).reverse % p384Order
  if k = 0 then 1 else k

/-- The identity public key (R427). -/
def Fuses.identityPub (fz : Fuses) : List Byte := Config.p384Public fz.identityKey

/-- The wrap key of a blob (Table 13.3, R429 steps 2 and 3). -/
def Fuses.wrapKey (fz : Fuses) (blob : List Byte) : List Byte :=
  kdf (Config.ecdh384 fz.identityKey (slice blob 8 96)) "ML-WRAP" (slice blob 0 8) 256

/-- The number of slots of a use (Table 13.4). -/
def keySlots (use : Nat) : Nat := match use with | 0 => 16 | 1 => 16 | 2 => 16 | 3 => 8 | _ => 0

/-- The key in a slot; empty where none is loaded. -/
def Dev.keyAt (d : Dev) (use slot : Nat) : List Byte := if slot < keySlots use then d.sec.keys.get (use * 16 + slot) [] else []

/-- A slot takes a key. Every link may then be activated with a LINK slot anew (R281). -/
def Dev.keyLoad (d : Dev) (use slot : Nat) (key : List Byte) : Dev :=
  let d := { d with sec := { d.sec with keys := d.sec.keys.put (use * 16 + slot) key [] } }
  if use = 2 then
    each (List.range 192) (fun n d =>
      let l := d.link n
      d.setLink n { l with keyNew := if key = [] then l.keyNew &&& ~~~(1#16 <<< slot) else l.keyNew ||| (1#16 <<< slot) }) d
  else d

/-- A bit per loaded slot of a use. -/
def Dev.keyBits (d : Dev) (use : Nat) : Nat :=
  (List.range (keySlots use)).foldl (fun n s => if d.keyAt use s = [] then n else n + 2 ^ s) 0

/-- Whether a MEMSEC slot is named by a region that is not INACTIVE (R429). -/
def Dev.slotInUse (d : Dev) (slot : Nat) : Bool :=
  (List.range 8).any (fun m => (List.range 4).any (fun r =>
    d.rgnState m r != 0 && d.get (Reg.MEMSEC_RGN_CTL_key_slot (stackSel m) (m % 2) r) == slot))

/-- The blob at the offset that SEC_UNWRAP_CTL names. -/
def Dev.blob (d : Dev) : List Byte := d.mem.readBytes (0x7000000000 + d.get Reg.SEC_UNWRAP_CTL_offset) 256

/-- What unwrapping a blob gives: a key for a slot, or a fail code (R429 steps 1 to 4): 1 FORMAT, 2 TAG, 3 SLOT_IN_USE. An
offset that is not 256-byte aligned is a FORMAT failure (DEDUCED, log entry 34). -/
def Dev.unwrap (d : Dev) (fz : Fuses) : Nat × Nat × (Nat ⊕ List Byte) :=
  let x := d.blob
  let use := leAt x 4 1
  let slot := leAt x 5 1
  let n := leAt x 6 1
  if d.get Reg.SEC_UNWRAP_CTL_offset % 256 ≠ 0 ∨ leAt x 0 4 ≠ 0x4B424C57 ∨ keySlots use ≤ slot ∨
      n ≠ (if use = 3 then 96 else 32) then (use, slot, .inl 1)
  else if use = 1 ∧ d.slotInUse slot then (use, slot, .inl 3)
  else
    let key := fz.wrapKey x
    let ct := slice x 116 96
    let iv := slice x 104 12
    if Config.gcmTag key iv (slice x 0 8) ct ≠ slice x 212 16 then (use, slot, .inl 2)
    else (use, slot, .inr ((gcmMask key iv ct 0).take n))

/-- A write of SEC_UNWRAP_CTL.go: writes from cores 1 to 3 are ignored (Table 13.11). -/
def Dev.unwrapGo (d : Dev) (w : Who) : Dev :=
  match w with
  | .core c => if c.val = 0 then d.set Reg.SEC_UNWRAP_STATUS_busy 1 else d
  | _ => d.set Reg.SEC_UNWRAP_STATUS_busy 1

/-- An unwrap ends. -/
def Dev.unwrapDone (d : Dev) (fz : Fuses) : Dev :=
  if ¬ d.on Reg.SEC_UNWRAP_STATUS_busy then d
  else
    let d := d.set Reg.SEC_UNWRAP_STATUS_busy 0
    match d.unwrap fz with
    | (use, slot, .inr key) => (d.set Reg.SEC_UNWRAP_STATUS_fail_code 0).keyLoad use slot key
    | (_, _, .inl c) =>
      ((d.set Reg.SEC_UNWRAP_STATUS_fail 1).set Reg.SEC_UNWRAP_STATUS_fail_code c).err 32 0 3 0x1302

/-- A write of SEC_UNWRAP_CTL.clear clears the slot that the blob names. -/
def Dev.unwrapClear (d : Dev) : Dev :=
  let x := d.blob
  if leAt x 5 1 < keySlots (leAt x 4 1) then d.keyLoad (leAt x 4 1) (leAt x 5 1) [] else d

/-! ### Lifecycle (R431 to R433) -/

/-- A fuse blows. Numbers: 0 to 14 the lifecycle's, 100 on partition_mb, 110 on tamper enables, 120 on the policy, 130 on
mailbox worlds, 200 on the hash of the customer root key. -/
def Fuses.blow (fz : Fuses) (n : Nat) : Fuses :=
  if n < 15 then { fz with life := fz.life ||| (1#15 <<< n) }
  else if n < 100 then fz
  else if n < 108 then { fz with partition := fz.partition ||| (1#8 <<< (n - 100)) }
  else if n < 110 then fz
  else if n < 118 then { fz with tamper := fz.tamper ||| (1#8 <<< (n - 110)) }
  else if n < 120 then fz
  else if n < 128 then { fz with policy := fz.policy ||| (1#8 <<< (n - 120)) }
  else if n < 130 then fz
  else if n < 146 then { fz with mbxWorld := fz.mbxWorld ||| (1#16 <<< (n - 130)) }
  else if n < 200 then fz
  else { fz with rootHash := fz.rootHash ||| (1#384 <<< (n - 200)) }

/-- The request in LC_REQ. -/
def Dev.lcReq (d : Dev) : List Byte := (List.range 60).flatMap (fun n => toBytes (d.rdWord (Reg.LC_REQ n)).toNat 4)

/-- Where an action leads from a state (Table 13.7): the new state (none: unchanged) and whether the Wesifort maker key signs
(false: the customer root, or the request's own key in action 0x02). -/
def lcAction (action st : Nat) : Option (Option Nat × Bool) :=
  match action with
  | 0x01 => if st = 0 then some (some 1, true) else none
  | 0x02 => if st = 1 then some (some 2, false) else none
  | 0x03 => if st = 2 then some (some 3, false) else none
  | 0x04 => if st = 2 ∨ st = 3 then some (some 4, false) else none
  | 0x05 => if st = 2 ∨ st = 3 then some (some 5, false) else if st ≤ 4 then some (some 5, true) else none
  | 0x10 => if st = 3 then some (none, false) else none
  | 0x20 => if st = 1 ∨ st = 4 then some (none, true) else none
  | _ => none

/-- Numbers of the set bits of a value. -/
def setBitsOf (v base n : Nat) : List Nat := ((List.range n).filter (fun i => bitOf v i)).map (fun i => base + i)

/-- The fuses that a change blows, in order: action 0x02's own before the state's (R433 step 3). -/
def lcPlan (x : List Byte) (action target : Nat) : List Nat :=
  (if action = 2 then
    setBitsOf (leAt x 5 1) 100 8 ++ setBitsOf (leAt x 6 1) 110 8 ++ setBitsOf (leAt x 7 1) 120 8 ++
      setBitsOf (leAt x 32 2) 130 16 ++ setBitsOf (ofBytes (Config.sha384 (slice x 48 96))) 200 384
   else []) ++ [3 * (target - 1), 3 * (target - 1) + 1, 3 * (target - 1) + 2]

/-- A lifecycle request fails. -/
def Dev.lcFail (d : Dev) (code : Nat) : Dev := (d.set Reg.LC_REQ_STATUS_fail 1).set Reg.LC_REQ_STATUS_fail_code code

/-- A request that R432 does not accept. -/
def Dev.lcAuthFail (d : Dev) (code : Nat) : Dev := (d.lcFail code).err 32 0 3 0x1402

/-- Whether the challenge is unused and less than 60 s old (R432). -/
def Dev.challengeValid (d : Dev) : Bool :=
  d.on Reg.LC_CHALLENGE_CTL_valid && decide (d.now < d.sec.challengeAt + 60000000 * ticksPerUs)

/-- Whether an action changes the state: its request waits for a stopped pacer (R433). -/
def changesState (action : Nat) : Bool := decide (1 ≤ action) && decide (action ≤ 5)

/-- A write of LC_REQ_GO (R432, R433); `vcc` says whether VCC_FUSE is at 1.8 V. The order of the checks that end in
different codes is this model's (DESIGN CHOICE, log entry 35). -/
def Dev.lcGo (d : Dev) (fz : Fuses) (vcc : Bool) : Dev :=
  let d := { d with pwr := { d.pwr with vccFuse := vcc } }
  let x := d.lcReq
  let action := leAt x 4 1
  if d.on Reg.LC_REQ_STATUS_busy then d
  else if changesState action ∧ d.running then d.lcFail 6
  else
    let valid := d.challengeValid
    let nonce := (List.range 4).flatMap (fun n => toBytes (d.rdWord (Reg.LC_CHALLENGE n)).toNat 4)
    let d := d.set Reg.LC_CHALLENGE_CTL_valid 0
    if leAt x 0 4 ≠ 0x4C435251 ∨ (action ≠ 2 ∧ (leAt x 5 3 ≠ 0 ∨ leAt x 32 2 ≠ 0)) then d.lcFail 1
    else
      match lcAction action fz.lc with
      | none => d.lcFail 4
      | some (target, maker) =>
        let hash := Config.sha384 (slice x 48 96)
        let signerOk :=
          if action = 2 then true
          else if maker then hash == Config.makerHash
          else BitVec.ofNat 384 (ofBytes hash) == fz.rootHash
        if leAt x 8 8 ≠ fz.serial.toNat then d.lcAuthFail 1
        else if ¬ valid ∨ slice x 16 16 ≠ nonce then d.lcAuthFail 3
        else if ¬ Config.ecdsaVerify (slice x 48 96) (Config.sha384 (slice x 0 144)) (slice x 144 96) ∨ ¬ signerOk then
          d.lcAuthFail 2
        else
          match target with
          | none =>
            let d := d.set Reg.LC_REQ_STATUS_fail_code 0
            let d := { d with sec := { d.sec with unlockNs := d.sec.unlockNs || action == 0x10,
                                                   unlockFull := d.sec.unlockFull || action == 0x20 } }
            d.err 32 0 0 0x1404
          | some t =>
            if ¬ vcc then d.lcFail 5
            else
              let d := (d.set Reg.LC_REQ_STATUS_busy 1).set Reg.LC_REQ_STATUS_fail_code 0
              let d := ((d.wipeStart false .keys).wipeStart false .memsec).wipeStart false .granary
              { d with sec := { d.sec with lc := some { old := fz.lc, plan := lcPlan x action t } } }

/-- Whether the fuses of a change are being blown (LC_STATE.fuse_busy): its wipes are done (R433 steps 2 and 3). -/
def Dev.fuseBusy (d : Dev) : Bool := d.sec.lc.any (fun j => j.blowing)

/-- A fuse finishes blowing: the fuses after it (R433 step 3). -/
def Dev.fuseBlown (d : Dev) (fz : Fuses) (ok : Bool) : Fuses :=
  match d.sec.lc with
  | some j => if d.fuseBusy ∧ ok then (match j.plan with | n :: _ => fz.blow n | [] => fz) else fz
  | none => fz

/-- A lifecycle change has ended: the new state applies, an unlock of the old state ends (DEDUCED, log entry 164), and the change is
recorded (R433, Table 13.10). -/
def Dev.lcEnd (d : Dev) (fz : Fuses) (old : Nat) : Dev :=
  let d := ({ d with sec := { d.sec with lc := none } }).set Reg.LC_REQ_STATUS_busy 0
  if fz.lc = old then d
  else
    let d := { d with sec := { d.sec with unlockNs := false, unlockFull := false } }
    d.report { die := 32, unit := 0, severity := 0, cls := 0x1401, info := old + 256 * fz.lc }

/-- The device after a fuse has finished: one that does not read back blown is recorded; after the last, the change ends; a tamper that
came while it was being blown halts the device now (R433, R435). `fz` are the fuses after it. -/
def Dev.fuseNext (d : Dev) (fz : Fuses) (ok : Bool) : Dev :=
  match d.sec.lc with
  | none => d
  | some j =>
    if ¬ j.blowing then d
    else
      let d := if ok then d else d.err 32 0 4 0x1403
      match d.sec.haltDue with
      | some c => ({ d.lcEnd fz j.old with sec := { (d.lcEnd fz j.old).sec with haltDue := none } } : Dev).integrityHalt c 32 0
      | none =>
        match j.plan.drop 1 with
        | [] => d.lcEnd fz j.old
        | rest => { d with sec := { d.sec with lc := some { j with plan := rest } } }

/-- A write of LC_CHALLENGE_CTL.new: the nonce is random. -/
def Dev.challengeNew (d : Dev) : Dev :=
  let v := d.freeVal
  let d := each (List.range 4) (fun n d => d.wrWord (Reg.LC_CHALLENGE n) (v.extractLsb' (32 * n) 32)) d
  ({ d with sec := { d.sec with challengeAt := d.now } }.set Reg.LC_CHALLENGE_CTL_valid 1).spend

/-! ### Tamper (R434, R435) -/

/-- An enabled tamper source is detected: its wipe starts, core 0 is held, and the device halts, after a fuse that is being blown; the
rest of a lifecycle change does not happen (R435). -/
def Dev.tamper (d : Dev) (i : Nat) : Dev :=
  let d := if i = 0 then { d with sec := { d.sec with tamperPin := false } } else d
  if ¬ d.bit Reg.SEC_TAMPER_EN_enable i then d
  else
    let d := d.setBit Reg.SEC_TAMPER_STATUS_seen i true
    let d := (((d.wipeStart true .keys).wipeStart true .memsec).wipeStart true .granary).wipeStart true .sp
    let d := d.set Reg.SEC_STATUS_core0_held 1
    let core0 : CoreState := d.cores.get 0 {}
    let core0 : CoreState := { core0 with running := false }
    let d := { d with cores := d.cores.put 0 core0 ({} : CoreState) }
    if d.fuseBusy then { d with sec := { d.sec with haltDue := some (d.sec.haltDue.getD (0x1303 + i)) } }
    else
      let d := if d.sec.lc.isSome then ({ d with sec := { d.sec with lc := none } } : Dev).set Reg.LC_REQ_STATUS_busy 0 else d
      d.integrityHalt (0x1303 + i) 32 0

/-- A write of SEC_TAMPER_EN while it is not locked: a fused bit stays 1 (R426). An enable set while TAMPER_N is low detects
at once (R435). -/
def Dev.tamperEn (d : Dev) (fz : Fuses) (v : Word) : Dev :=
  if d.on Reg.SEC_LOCK_lock then d
  else
    let was := d.bit Reg.SEC_TAMPER_EN_enable 0
    let d := d.set Reg.SEC_TAMPER_EN_enable (bits (v ||| fz.tamper.setWidth 32) 0 5)
    if ¬ was ∧ d.bit Reg.SEC_TAMPER_EN_enable 0 ∧ ¬ d.sec.tamperPin then d.tamper 0 else d

end Sys2Proof.Machine
end

