-- ==== Sys2Proof/Machine/Power.lean ====
section
/-! DEFINITION. Power, clocks and resets of chapter 14 of spec/: the start sequencer (R446, R447), budgets and throttling
(R216, R217, R449 to R453), PMBus and SMBus (R443 to R445), telemetry, heat and wear (R456 to R459), clock gates and
switches (R462 to R467), and per-die and block resets (R470 to R474). -/

namespace Sys2Proof.Machine

/-! ### Per-die reset (R41, R81, R104, R205 to R207, R214, R270, R316, R353, R470, R471) -/

/-- A field of a compute die that enters per-die reset: its configuration, its storage elements, wire registers and the
tiles' state return to reset; the data of bins and tile memories stay (R353). -/
def Dev.fieldLost (d : Dev) (f : Nat) : Dev :=
  let d := (((d.clearLogic f).dropFixes f).initQ f).clearWires f
  let d := each (List.range 48) (fun k d => d.setBinWord f k 0) d
  let d := d.clearBinOut f
  { d with
    tiles := d.tiles.clear (tileKey f 0) (tileKey f 96)
    effDelay := d.effDelay.clear (16 * f) (16 * f + 16)
    trimDue := d.trimDue.clear f (f + 1)
    bacts := d.bacts.filter (fun a => a != .freeze f && a != .unfreeze f && a != .fieldReset f)
    cfg := { d.cfg with reconf := without d.cfg.reconf f } }

/-- PWR_STATUS shows the skews that last (R453). -/
def Dev.skewFlags (d : Dev) : Dev :=
  (d.set Reg.PWR_STATUS_volt_skew (if d.pwr.volts = [] then 0 else 1)).set Reg.PWR_STATUS_therm_skew
    (if d.pwr.temps = [] then 0 else 1)

/-- A die that is held has no sample, and no pair of its is in skew (R453). -/
def Dev.dropSamples (d : Dev) (i : Nat) : Dev :=
  let keep (e : Nat × Nat) : Bool := decide (12 ≤ i) || (e.1 / 16 != i && e.1 % 16 != i)
  ({ d with pwr := { d.pwr with
      samples := d.pwr.samples.clear i (i + 1)
      volts := d.pwr.volts.filter keep
      temps := d.pwr.temps.filter keep } } : Dev).skewFlags.alertCheck

/-- The fields of a compute die that enters per-die reset leave completion and return to reset. -/
def Dev.holdFields (d : Dev) (c : Nat) : Dev :=
  let d := each (dieFields c) (fun f d => d.leave f) d
  let d := { d with pwr := { d.pwr with
    held := d.pwr.held ||| (1#16 <<< c)
    heldAt := d.pwr.heldAt.put c (d.now + 1) 0
    wokeAt := d.pwr.wokeAt.put c 0 0
    awake := d.pwr.awake.filter (fun f => dieOf f != c) } }
  each (dieFields c) (fun f d => d.fieldLost f) d

/-- A die's registers return to reset, but for those of its error FIFO, its fallback budget and its wear control (R389,
R451, R459), and two more that are given. -/
def Dev.resetDie (d : Dev) (sel : Nat) : Dev :=
  let fb := d.rdWord (Reg.PWR_FALLBACK sel)
  let wear := d.rdWord (Reg.PWR_WEAR_CTL sel)
  let d := d.resetRegs (sel * 0x1000000) (sel * 0x1000000 + 0xA0000)
  let d := d.resetRegs (sel * 0x1000000 + 0xC0000) (sel * 0x1000000 + 0xF0000)
  let d := d.resetRegs (sel * 0x1000000 + 0xF0100) ((sel + 1) * 0x1000000)
  (d.wrWord (Reg.PWR_FALLBACK sel) fb).wrWord (Reg.PWR_WEAR_CTL sel) wear

/-- A die's routes, the requests of its NIs, what waits at its targets and stands in its routers, the wave margin that it had found and
its budget are gone (DEDUCED, log entry 141). -/
def Dev.dropDie (d : Dev) (sel : Nat) : Dev :=
  { d with noc := { d.noc with
             routes := d.noc.routes.clear (routeKey sel 0 0) (routeKey (sel + 1) 0 0)
             loDue := without d.noc.loDue sel
             outstanding := d.noc.outstanding.filter (fun o => nodeDie o.src != sel)
             delivered := d.noc.delivered.filter (fun p => nodeDie p.dst != sel)
             waiting := d.noc.waiting.filter (fun p => nodeDie p.dst != sel)
             flights := d.noc.flights.filter (fun x => decide (sel ≤ 11) || x.die != sel)
             turns := d.noc.turns.clear (sel * 3072) ((sel + 1) * 3072) }
           effMargin := d.effMargin.clear sel (sel + 1)
           bud := d.bud.clear (dieIndex sel) (dieIndex sel + 1) }

/-- The caches and directories that hear of a compute die's reset (R206, R214). -/
def Dev.tellHomes (d : Dev) (c : Nat) : Dev :=
  let homes := [0, 1, 2, 3].filter (fun b => b != baseOf c)
  { d with rc := { d.rc with
      flushing := without d.rc.flushing c
      waiting := d.rc.waiting.filter (fun p => nodeDie p.src != c)
      gone := homes.foldl (fun l b => withItem l (b, c)) d.rc.gone
      homes := d.rc.homes.filter (fun e => e.1 != c) } }

/-- A compute die enters per-die reset. -/
def Dev.holdCompute (d : Dev) (c : Nat) : Dev :=
  let d := d.holdFields c
  let vset := d.rdWord (Reg.PWR_VSET c)
  let d := ((d.resetDie c).wrWord (Reg.PWR_VSET c) vset).dropDie c
  (((((d.rcEmpty c).vertSet c false).bridgesAtRest).dieGone (baseOf c) c).tellHomes c).dropSamples c

/-- The lanes and link channels of a base die return to reset; LCH_CTL and LCH_ROLE stay (R270, R316). -/
def Dev.lchReset (d : Dev) (b : Nat) : Dev :=
  let ctl := d.rdWord (Reg.LCH_CTL (baseSel b))
  let d := (d.resetBlock (baseSel b) 0x0B).wrWord (Reg.LCH_CTL (baseSel b)) ctl
  let lo := 48 * b
  let hi := 48 * b + 48
  { d with
    links := d.links.clear lo hi
    ctxs := d.ctxs.filter (fun e => ctxBase e.1 != b)
    slots := d.slots.clear (slotKey lo 0 0) (slotKey hi 0 0)
    chan := { d.chan with
      samples := d.chan.samples.filter (fun e => ctxBase e.1 != b)
      presented := d.chan.presented.filter (fun e => ctxBase e.1 != b)
      formed := d.chan.formed.clear lo hi
      place := d.chan.place.clear lo hi
      partials := d.chan.partials.clear lo hi
      held := d.chan.held.clear lo hi } }

/-- The lanes of a base die return to reset; their links leave with them. -/
def Dev.laneReset (d : Dev) (b : Nat) : Dev :=
  let d := each (List.range 48) (fun j d => d.linkLaneDown (48 * b + j)) d
  let d : Dev := { d.resetBlock (baseSel b) 0x0A with lanes := d.lanes.clear (48 * b) (48 * b + 48) }
  if d.halted then each (List.range 48) (fun j d => d.setLaneState (48 * b + j) 6) d else d

/-- The compute dies and caches that hear of a base die's reset (R214). -/
def Dev.tellCaches (d : Dev) (b : Nat) : Dev :=
  let others := (List.range 12).filter (fun c => baseOf c != b && !d.heldDie c)
  { d with rc := { d.rc with
      gone := d.rc.gone.filter (fun e => e.1 != b)
      homes := others.foldl (fun l c => withItem l (c, b)) d.rc.homes } }

/-- A base die enters per-die reset, and its compute dies with it (R207). -/
def Dev.holdBase (d : Dev) (b : Nat) : Dev :=
  let s := baseSel b
  let d := each [3 * b, 3 * b + 1, 3 * b + 2] (fun c d => if d.heldDie c then d else d.holdCompute c) d
  let d := { d with pwr := { d.pwr with
    held := d.pwr.held ||| (1#16 <<< (12 + b))
    heldAt := d.pwr.heldAt.put (12 + b) (d.now + 1) 0 } }
  let d := each [2 * b, 2 * b + 1] (fun m d => d.stackLost m 0) d
  let map := d.rdWord (Reg.HBM_MAP_CTL s)
  let d := ((((d.laneReset b).lchReset b).resetDie s).wrWord (Reg.HBM_MAP_CTL s) map).dropDie s
  ((((d.dirEmpty b).latPartnersReset b).tellCaches b).hbmNext).dropSamples (12 + b)

/-- A die enters per-die reset, by die index; that of a base die whose granary is under test waits for the test's end
(R377). -/
def Dev.hold (d : Dev) (i : Nat) : Dev :=
  if d.pwr.held.getLsbD i then d
  else if i < 12 then d.holdCompute i
  else if d.on (Reg.GRAN_TEST_STATUS_active (baseSel (i - 12))) then
    { d with pwr := { d.pwr with resetWait := withItem d.pwr.resetWait i } }
  else d.holdBase (i - 12)

/-- Whether PWR_DIE_RESET holds a die. -/
def Dev.resetBit (d : Dev) (i : Nat) : Bool :=
  if i < 12 then d.bit Reg.PWR_DIE_RESET_cd i else d.bit Reg.PWR_DIE_RESET_bd (i - 12)

/-- A compute die leaves reset; its fields wake under FIELD_WAKE (R447). -/
def Dev.releaseCompute (d : Dev) (c : Nat) : Dev :=
  ({ d with pwr := { d.pwr with
      held := d.pwr.held &&& ~~~(1#16 <<< c)
      wokeAt := d.pwr.wokeAt.put c (d.now + 1) 0 } } : Dev).bridgesAtRest

/-- Whether `us` microseconds of the timebase have passed since a time. -/
def Dev.past (d : Dev) (t us : Nat) : Bool := decide (t + us * ticksPerUs ≤ d.now)

/-- Whether `us` microseconds have passed since a time that is kept as one more than it is; 0 is none. -/
def Dev.since (d : Dev) (t us : Nat) : Bool :=
  match t with
  | 0 => true
  | t + 1 => d.past t us

/-- A compute die leaves per-die reset (R471): not while its bit is 1, nor one that was never started or whose base die is held (R207),
and after 1 µs at the least. -/
def Dev.releaseOne (d : Dev) (c : Nat) : Dev :=
  if ¬ d.heldDie c ∨ d.resetBit c ∨ ¬ d.bit Reg.PWR_START_started c ∨ d.heldDie (baseSel (baseOf c)) then d
  else if d.since (d.pwr.heldAt.get c 0) 1 then d.releaseCompute c
  else { d with pwr := { d.pwr with releaseDue := withItem d.pwr.releaseDue c } }

/-- A die leaves per-die reset (R471); the compute dies of a base die leave with it. -/
def Dev.release (d : Dev) (i : Nat) : Dev :=
  if i < 12 then d.releaseOne i
  else if ¬ d.pwr.held.getLsbD i ∨ d.resetBit i then d
  else if d.since (d.pwr.heldAt.get i 0) 1 then
    let b := i - 12
    let d := { d with pwr := { d.pwr with held := d.pwr.held &&& ~~~(1#16 <<< i) } }
    (each [3 * b, 3 * b + 1, 3 * b + 2] (fun c d => d.releaseOne c) d).latRestart b
  else { d with pwr := { d.pwr with releaseDue := withItem d.pwr.releaseDue i } }

/-- The dies whose release waited for the shortest time of a reset leave it. -/
def Dev.releasesDue (d : Dev) : Dev :=
  each d.pwr.releaseDue (fun i d => d.release i) { d with pwr := { d.pwr with releaseDue := [] } }

/-- A write of PWR_DIE_RESET: a bit that turns 1 puts its die into reset; one that turns 0 lets it leave (R471). -/
def Dev.dieResetWrite (d : Dev) (v : Word) : Dev :=
  let d := d.wrWord Reg.PWR_DIE_RESET (v &&& 0x000F0FFF#32)
  each (List.range 16) (fun i d => if d.resetBit i then d.hold i else d.release i) d

/-- A granary test ends on a base die: a reset that waited for it goes on (R377), and ends at once where its bit is 0 again. -/
def Dev.resumeResets (d : Dev) : Dev :=
  let ready := d.pwr.resetWait.filter (fun i => !d.on (Reg.GRAN_TEST_STATUS_active (baseSel (i - 12))))
  let d := { d with pwr := { d.pwr with resetWait := d.pwr.resetWait.filter (fun i => !decide (i ∈ ready)) } }
  each ready (fun i d => (d.hold i).release i) d

/-! ### Staggered start (R446, R447) -/

/-- Whether PWR_STATUS.start_done is due: every die is decided, and every field of the started ones has woken. -/
def Dev.startCheck (d : Dev) : Dev :=
  if d.pwr.went ∧ d.pwr.startQueue = [] then
    let d := d.set Reg.PWR_START_busy 0
    let left := (List.range 12).any (fun c => d.bit Reg.PWR_START_started c &&
      (dieFields c).any (fun f => !decide (f ∈ d.pwr.awake)))
    if left then d else d.set Reg.PWR_STATUS_start_done 1
  else d

/-- A write of PWR_START.go. -/
def Dev.startGo (d : Dev) : Dev :=
  if d.pwr.went then d.set Reg.PWR_STATUS_cmd_refused 1
  else
    ({ d with pwr := { d.pwr with went := true, startQueue := List.range 12, goAt := d.now } }).set Reg.PWR_START_busy 1

/-- Whether the sequencer has come to a die: 50 µs × d after the write of go (R447). -/
def Dev.startTurn (d : Dev) (c : Nat) : Bool := decide (c ∈ d.pwr.startQueue) && d.past d.pwr.goAt (50 * c)

/-- The sequencer sends OPERATION on to a die's regulator, which comes up at the voltage set (DEDUCED, log entry 165); one without a
valid address gets none. -/
def Dev.regulatorOn (d : Dev) (c : Nat) : Dev :=
  if d.startTurn c ∧ d.on (Reg.PWR_PMB_ADDR_valid c) then
    { d with pwr := { d.pwr with
        regOn := d.pwr.regOn ||| (1#12 <<< c)
        vout := d.pwr.vout.put c (d.get (Reg.PWR_VOLT_target c)) 750 } }
  else d

/-- A die's rail is in tolerance: the die leaves reset, after the dies before it in the order and at least 50 µs after the last one that
did. -/
def Dev.dieRelease (d : Dev) (c : Nat) : Dev :=
  if d.pwr.startQueue.head? = some c ∧ d.pwr.regOn.getLsbD c ∧ d.since d.pwr.releasedAt 50 then
    let d := { d with pwr := { d.pwr with startQueue := without d.pwr.startQueue c, releasedAt := d.now + 1 } }
    ((d.setBit Reg.PWR_START_started c true).releaseOne c).startCheck
  else d

/-- A die's rail is not in tolerance 1 ms after OPERATION on, or it has no regulator. -/
def Dev.railTimeout (d : Dev) (c : Nat) : Dev :=
  if d.startTurn c ∧ (d.on (Reg.PWR_PMB_ADDR_valid c) = false ∨ d.past d.pwr.goAt (50 * c + 1000)) then
    ((({ d with pwr := { d.pwr with startQueue := without d.pwr.startQueue c } }).err c 0 3 0x1107)).startCheck
  else d

/-- The next field of a die wakes, in ascending local index, 2 µs after the one before it (the first at once, DEDUCED, log entry 165). -/
def Dev.fieldWake (d : Dev) (f : Nat) : Dev :=
  let c := dieOf f
  let first : Bool := (dieFields c).head? == some f
  if d.heldDie c then d
  else if (dieFields c).find? (fun g => !decide (g ∈ d.pwr.awake)) = some f ∧ (first ∨ d.since (d.pwr.wokeAt.get c 0) 2) then
    ({ d with pwr := { d.pwr with awake := d.pwr.awake ++ [f], wokeAt := d.pwr.wokeAt.put c (d.now + 1) 0 } }).startCheck
  else d

/-! ### Budgets and throttling (R216, R217, R449 to R453) -/

/-- A die's budget. -/
def Dev.budget (d : Dev) (i : Nat) : Budget := d.bud.get i {}
def Dev.setBudget (d : Dev) (i : Nat) (v : Budget) : Dev := { d with bud := d.bud.put i v {} }
/-- Whether a die has taken a sample set since it left reset; its voltage and heat are compared from then on (DEDUCED, log entry 165). -/
def Dev.sampled (d : Dev) (i : Nat) : Bool := d.sample i != {}

/-- The effective cap in mW that the registers give (R449, Table 14.8); the one in force is that of the window's start, `Power.cap`. -/
def Dev.capMw (d : Dev) : Nat := min (min (max (d.get Reg.PWR_CAP_cap_w) 150) 700) (d.get Reg.PWR_CAP_SMB_limit_w) * 1000

/-- Pairs of neighboring compute dies (R20), each by its lower number and the direction of the other. -/
def diePairs (c : Nat) : List (Nat × Nat) :=
  [1, 2].filterMap (fun dir => (dieNeighbor c dir).map (fun n => (c, n)))

/-- The neighbors of a die with the key of their pair. -/
def skewKeys (c : Nat) : List (Nat × Nat) :=
  [0, 1, 2, 3].filterMap (fun dir => (dieNeighbor c dir).map (fun n => (n, min c n * 16 + max c n)))

/-- A die's voltage limits in force: its budget's, narrowed by voltage skew (R453). -/
def Dev.voltLimits (d : Dev) (c : Nat) : Nat × Nat :=
  let b := d.budget c
  (skewKeys c).foldl (fun (l : Nat × Nat) e =>
    if d.pwr.volts.get e.2 0 = 0 then l
    else
      let mine := (d.sample c).mv
      let other := (d.sample e.1).mv
      if other < mine then (l.1, min l.2 (max 600 (min 900 (other + 100))))
      else (max l.1 (max 600 (min 900 (other - 100))), l.2)) (b.lo, b.hi)

/-- One reduction by 10 % per window. -/
def lessTenth (n : Nat) : Nat → Nat
  | 0 => n
  | k + 1 => lessTenth (n - n / 10) k

/-- A die's budget in force: PWR_BUDGET, reduced while it is the hotter die of a thermal skew, under the guard's ceiling. -/
def Dev.budgetMw (d : Dev) (c : Nat) : Nat :=
  let b := d.get (Reg.PWR_BUDGET_mw c)
  let b := (skewKeys c).foldl (fun b e =>
    if (d.sample e.1).tmax < (d.sample c).tmax then lessTenth b (d.pwr.temps.get e.2 0) else b) b
  match d.pwr.ceiling with
  | some x => min b x
  | none => b

/-- A pair's skew of one kind in one window (R453): its count of windows, and the record of its onset. -/
def Dev.skewStep (d : Dev) (volt present : Bool) (c key : Nat) : Dev :=
  let m := if volt then d.pwr.volts else d.pwr.temps
  let n := if present then m.get key 0 + 1 else 0
  let d := { d with pwr := if volt then { d.pwr with volts := m.put key n 0 } else { d.pwr with temps := m.put key n 0 } }
  let d := if n = 1 then d.err 32 c 0 (if volt then 0x1101 else 0x1102) else d
  if n = 10 then
    let d := d.err 32 c 3 0x1103
    if d.running then (d.modPac (fun p => { p with causes := withItem p.causes 6 })) else d
  else d

/-- The skew checks of a window for the pairs that a die leads (R453). -/
def Dev.skewCheck (d : Dev) (c : Nat) : Dev :=
  let d := each (diePairs c) (fun e d =>
    let key := min e.1 e.2 * 16 + max e.1 e.2
    let out := !d.heldDie e.1 && !d.heldDie e.2 && d.sampled e.1 && d.sampled e.2
    let a := d.sample e.1
    let b := d.sample e.2
    let dv := max a.mv b.mv - min a.mv b.mv
    let d := d.skewStep true (out && decide (150 < dv)) c key
    d.skewStep false (out && decide (400 < a.tmax - b.tmax ∨ 400 < b.tmax - a.tmax)) c key) d
  d.skewFlags

/-- PWR_DIE_STATUS.throttle from what the die's settings are (Table 14.9; its 0b01, a voltage below PWR_VSET, is DEDUCED, log entry
165). -/
def Dev.showThrottle (d : Dev) (c : Nat) : Dev :=
  d.set (Reg.PWR_DIE_STATUS_throttle c)
    (if 0 < d.get (Reg.FAB_WAVE_SPACING_spacing c) then 2 else if d.get (Reg.PWR_VOLT_target c) < d.get (Reg.PWR_VSET_mv c) then 1 else 0)

/-- A die enters a budget: at once its voltage moves into the limits (R450). -/
def Dev.applyBudget (d : Dev) (i : Nat) (mw lo hi seq : Nat) : Dev :=
  let d := d.setBudget i { d.budget i with seq := some seq, pending := none, lo := lo, hi := hi }
  let d := (d.set (Reg.PWR_BUDGET_mw (dieSel i)) mw).set (Reg.PWR_DIE_STATUS_fallback (dieSel i)) 0
  if i < 12 then
    let t := d.get (Reg.PWR_VOLT_target i)
    (d.set (Reg.PWR_VOLT_target i) (if t < lo then lo else if hi < t then hi else t)).showThrottle i
  else d

/-- A budget that waits for the die's next window applies (R216). -/
def Dev.budgetDue (d : Dev) (i : Nat) : Dev :=
  match (d.budget i).pending with
  | some (seq, mw, lo, hi) => d.applyBudget i mw lo hi seq
  | none => d

/-- A stop cause that arises while the pacer pads takes effect at once (R521). -/
def Dev.stopIfIdle (d : Dev) : Dev := if d.running ∧ d.pac.phase = .boundary then d.stopIfDue else d

/-- The end of a compute die's 1 ms window (R450, R453). Limits that skew has narrowed past the present voltage move it into range at once,
as a DIE_BUDGET's do, beside the one change of R450 (DEDUCED, log entry 165). -/
def Dev.budgetWindow (d : Dev) (c : Nat) : Dev :=
  if d.heldDie c then d
  else
    let d := (d.budgetDue c).skewCheck c
    if d.on (Reg.PWR_DIE_STATUS_trip c) then d.stopIfIdle
    else
      let p := (d.sample c).mw
      let b := d.budgetMw c
      let (lo, hi) := d.voltLimits c
      let hi := min hi (d.get (Reg.PWR_VSET_mv c))
      let t := d.get (Reg.PWR_VOLT_target c)
      let s := d.get (Reg.FAB_WAVE_SPACING_spacing c)
      let t0 := if t < lo then lo else if (d.voltLimits c).2 < t then (d.voltLimits c).2 else t
      let d := d.set (Reg.PWR_VOLT_target c) t0
      let d :=
        if b < p then
          (if lo < t0 then d.set (Reg.PWR_VOLT_target c) (max lo (t0 - 10))
           else d.set (Reg.FAB_WAVE_SPACING_spacing c) (min 4095 (s + 16)))
        else if 100 * p < 95 * b then
          (if 0 < s then d.set (Reg.FAB_WAVE_SPACING_spacing c) (s - 16)
           else if t0 < hi then d.set (Reg.PWR_VOLT_target c) (min hi (t0 + 10)) else d)
        else d
      (d.showThrottle c).stopIfIdle

/-- The 64 bytes of a DIE_REPORT (Table 6.8). -/
def Dev.reportBytes (d : Dev) (i : Nat) : List Byte :=
  let sel := dieSel i
  let x := d.sample i
  toBytes 1 1 ++ toBytes sel 1 ++ toBytes (d.budget i).reportSeq 2 ++ toBytes x.mw 4 ++ toBytes x.mv 2 ++
    toBytes (BitVec.ofInt 16 x.tmax).toNat 2 ++ toBytes (if i < 12 then d.get (Reg.FAB_WAVE_SPACING_spacing i) else 0) 2 ++
    toBytes (if i < 12 then d.get (Reg.PWR_DIE_STATUS_throttle i) else 0) 1 ++ toBytes 0 49

/-- The power that a die last reported, mW; a die that is held reports none. -/
def Dev.reported (d : Dev) (i : Nat) : Nat := if d.heldDie (dieSel i) then 0 else leAt (d.budget i).report 4 4

/-- The budget that service firmware 3.2 gives a die (R452). -/
def Dev.serviceBudget (d : Dev) (i : Nat) : Nat :=
  let base (b : Nat) : Nat := d.reported (12 + b) + d.reported (12 + b) / 10
  if 12 ≤ i then base (i - 12)
  else
    let left := d.pwr.cap - (base 0 + base 1 + base 2 + base 3)
    let live := (List.range 12).filter (fun c => !d.heldDie c)
    let w (c : Nat) : Nat := (d.budget c).history.foldl (· + ·) 0
    let total := live.foldl (fun n c => n + w c) 0
    max 4000 (if total = 0 then left / max 1 live.length else left * w i / total)

/-- The ceiling of each compute die that is out of reset (R452). -/
def Dev.ceilingMw (d : Dev) (cap : Nat) : Nat :=
  let n := ((List.range 12).filter (fun c => !d.heldDie c)).length
  max 2000 ((cap - (d.reported 12 + d.reported 13 + d.reported 14 + d.reported 15)) / max 1 n)

/-- The cap guard at the end of a package window, which ends with the report of B3 (R452; DEDUCED, log entry 37). -/
def Dev.guardCheck (d : Dev) : Dev :=
  let total := d.get Reg.PWR_TOTAL_mw
  let cap := d.pwr.cap
  if d.on Reg.PWR_STATUS_guard then
    let n := if 100 * total ≤ 95 * cap then d.pwr.guard + 1 else 0
    if 10 ≤ n then ({ d with pwr := { d.pwr with guard := 0, overCap := 0, ceiling := none } }).set Reg.PWR_STATUS_guard 0
    else { d with pwr := { d.pwr with guard := n, ceiling := some (d.ceilingMw cap) } }
  else
    let n := if cap < total then d.pwr.overCap + 1 else 0
    if 3 ≤ n then
      (({ d with pwr := { d.pwr with guard := 0, overCap := 0, ceiling := some (d.ceilingMw cap) } }).set
        Reg.PWR_STATUS_guard 1).err 32 0 0 0x1104
    else { d with pwr := { d.pwr with overCap := n } }

/-- The end of a package window: the guard is judged by the cap in force, and a changed cap applies from the next window (R449). -/
def Dev.capGuard (d : Dev) : Dev := let d := d.guardCheck; { d with pwr := { d.pwr with cap := d.capMw } }

/-- Takes the first budget message of a class (Table 6.8) about a die that has arrived at a node. -/
def Dev.takeMsg (d : Dev) (node cls sel : Nat) : Option (Packet × Dev) :=
  match d.noc.flights.findIdx? (fun x => x.arrived && x.pkt.type == 4 && nodeDie x.pkt.dst == nodeDie node &&
      nodeEnd x.pkt.dst == nodeEnd node && leAt x.pkt.data 0 1 == cls && leAt x.pkt.data 1 1 == sel) with
  | some i => d.takeFlight i 4
  | none => none

/-- A die sends its report to the budget service, as a MSG packet (R216). -/
def Dev.sendReport (d : Dev) (i : Nat) : Dev :=
  let b := d.budget i
  (d.setBudget i { b with reportSeq := (b.reportSeq + 1) % 65536 }).sendMsg (unitNode (dieSel i)) serviceNode (d.reportBytes i)

/-- The budget service has a report: PWR_TOTAL is the sum of the last ones (R449), and the service firmware, while it runs, answers
with a DIE_BUDGET (R216, R452). -/
def Dev.takeReport (d : Dev) (i : Nat) (rep : List Byte) : Dev :=
  let b := d.budget i
  let d := d.setBudget i { b with report := rep, history := (b.history ++ [leAt rep 4 4]).drop (b.history.length + 1 - 8) }
  let d := d.set Reg.PWR_TOTAL_mw ((List.range 16).foldl (fun n j => n + d.reported j) 0)
  if d.get Reg.ID_STATE_sp_state = 3 then
    let msg := toBytes 2 1 ++ toBytes (dieSel i) 1 ++ slice rep 2 2 ++ toBytes (d.serviceBudget i) 4 ++
      toBytes 600 2 ++ toBytes 900 2 ++ toBytes 0 52
    (d.setBudget i { d.budget i with sent := msg }).sendMsg serviceNode (unitNode (dieSel i)) msg
  else d

/-- DIE_REPORT: the report of a die that has reached the budget service is taken, and the die sends its next one (R216). -/
def Dev.dieReport (d : Dev) (i : Nat) : Dev :=
  let d : Dev := match d.takeMsg serviceNode 1 (dieSel i) with
    | some (p, d) => d.takeReport i p.data
    | none => d
  if d.heldDie (dieSel i) then d
  else
    let d := (if 12 ≤ i then d.budgetDue i else d).sendReport i
    if i = 15 then d.capGuard else d

/-- A die receives a DIE_BUDGET: it applies from the next window, unless it is older than the last one applied (R216). The
sequence number wraps (DEDUCED, log entry 38). -/
def Dev.takeBudget (d : Dev) (i : Nat) (x : List Byte) : Dev :=
  let b := d.budget i
  let seq := leAt x 2 2
  let stale : Bool :=
    match b.seq with
    | some l => decide (32768 ≤ (seq + 65536 - l) % 65536)
    | none => false
  if d.heldDie (dieSel i) ∨ stale ∨ leAt x 0 1 ≠ 2 ∨ leAt x 1 1 ≠ dieSel i then d
  else d.setBudget i { b with pending := some (seq, leAt x 4 4, leAt x 8 2, leAt x 10 2) }

/-- DIE_BUDGET: the message that has arrived at the die is taken. -/
def Dev.dieBudget (d : Dev) (i : Nat) : Dev :=
  match d.takeMsg (unitNode (dieSel i)) 2 (dieSel i) with
  | some (p, d) => d.takeBudget i p.data
  | none => d

/-- A die has applied no budget for 10 ms (R217, R451): the fallback budget applies until the next DIE_BUDGET does, also one that has
arrived already. -/
def Dev.budgetFallback (d : Dev) (i : Nat) : Dev :=
  let s := dieSel i
  if d.heldDie s ∨ d.on (Reg.PWR_DIE_STATUS_fallback s) then d
  else
    let hi := d.get (Reg.PWR_VSET_mv s)
    let b := d.budget i
    let d := d.applyBudget i (d.get (Reg.PWR_FALLBACK_mw s)) 600 hi 0
    let d := d.setBudget i { d.budget i with seq := b.seq, pending := b.pending }
    (d.set (Reg.PWR_DIE_STATUS_fallback s) 1).err s 0 0 0x1105

/-! ### Telemetry, heat and wear (R456 to R459) -/

/-- A die's trip (R458). -/
def Dev.tripCheck (d : Dev) (i : Nat) : Dev :=
  let s := dieSel i
  let trip : Int := 10 * ((min (d.get Reg.TEL_ALERT_CTL_trip_c) 160 : Nat) : Int)
  let t := (d.sample i).tmax
  if d.on (Reg.PWR_DIE_STATUS_trip s) then
    if t < trip - 100 then d.set (Reg.PWR_DIE_STATUS_trip s) 0 else d
  else if trip ≤ t then
    let d :=
      if i < 12 then
        ((d.set (Reg.FAB_WAVE_SPACING_spacing i) 4095).set (Reg.PWR_VOLT_target i) (d.voltLimits i).1).showThrottle i
      else d
    ((d.set (Reg.PWR_DIE_STATUS_trip s) 1).set Reg.TEL_ALERT_STATUS_tripped 1).err s 0 3 0x1108
  else d

/-- A sensed core voltage leaves its range: the die is put in per-die reset (R444). The rail of a die that was not started is not in that
range yet, and leaves nothing. -/
def Dev.voltFault (d : Dev) (c mv : Nat) : Dev :=
  if 550 ≤ mv ∧ mv ≤ 950 ∨ ¬ d.bit Reg.PWR_START_started c then d
  else (d.setBit Reg.PWR_DIE_RESET_cd c true).hold c

/-- A die takes a sample set (R456). -/
def Dev.telemetry (d : Dev) (i : Nat) (x : Sample) : Dev :=
  let s := dieSel i
  if d.heldDie s then d
  else
    let d := { d with pwr := { d.pwr with samples := d.pwr.samples.put i x {} } }
    let d := d.set (Reg.PWR_VOLT_sensed s) (min x.mv 1023)
    let d :=
      if d.on (Reg.TEL_CTL_pause s) then d
      else
        let d := (d.wrap ⟨Reg.TEL_SEQ s, 0, 32⟩).set (Reg.TEL_TEMP_max s) (BitVec.ofInt 16 x.tmax).toNat
        let d := d.set (Reg.TEL_TEMP_min s) (BitVec.ofInt 16 x.tmin).toNat
        (d.set (Reg.TEL_POWER_mw s) x.mw).set (Reg.TEL_VOLT_mv s) x.mv
    let d := (d.tripCheck i).alertCheck
    if i < 12 then d.voltFault i x.mv else d

/-- A wear measurement of a die with its highest slowdown in 0.1 % (R459). -/
def Dev.wear (d : Dev) (i slow : Nat) : Dev :=
  let s := dieSel i
  if d.heldDie s ∨ d.on (Reg.PWR_WEAR_CTL_pause s) then d
  else
    let x := min slow 255
    let m := (x * 64 + 999) / 1000
    let d := (d.set (Reg.PWR_WEAR_STATUS_index s) x).set (Reg.PWR_WEAR_STATUS_margin_rec s) m
    if i < 12 then d.wearDue i else d

/-! ### PMBus and SMBus (R443 to R445) -/

/-- A die's regulator at the voltage that it was set to, mV. -/
def Dev.voutOf (d : Dev) (c : Nat) : Nat := d.pwr.vout.get c 750

/-- One VOUT_COMMAND: a step of at most 10 mV from a voltage to its target (R443). -/
def voutStep (v target : Nat) : Nat := if v < target then min target (v + 10) else max target (v - 10)

/-- A regulator's STATUS_WORD is latched, with a record (R444); the device addresses those alone whose entry is valid (R443). -/
def Dev.pmbFault (d : Dev) (c : Nat) (w : BitVec 16) : Dev :=
  if ¬ d.on (Reg.PWR_PMB_ADDR_valid c) then d
  else
  let d := (d.set Reg.PWR_PMB_STATUS_addr (d.get (Reg.PWR_PMB_ADDR_addr c))).set Reg.PWR_PMB_STATUS_fault 1
  (d.set Reg.PWR_PMB_STATUS_status_word w.toNat).err 32 c 3 0x1106

/-- A transaction with a die's regulator ends; one that carries a VOUT_COMMAND moves the regulator a step towards PWR_VOLT.target (R443).
After three retries the fault is latched, and the regulator keeps its last voltage (R444). -/
def Dev.pmbEnd (d : Dev) (c : Nat) (ok : Bool) (w : BitVec 16) : Dev :=
  let n := d.pwr.pmbTries.get c 0
  if ¬ d.on (Reg.PWR_PMB_ADDR_valid c) then d
  else if ok then
    { d with pwr := { d.pwr with
        pmbTries := d.pwr.pmbTries.put c 0 0
        vout := if d.pwr.regOn.getLsbD c then d.pwr.vout.put c (voutStep (d.voutOf c) (d.get (Reg.PWR_VOLT_target c))) 750
                else d.pwr.vout } }
  else if n < 3 then { d with pwr := { d.pwr with pmbTries := d.pwr.pmbTries.put c (n + 1) 0 } }
  else ({ d with pwr := { d.pwr with pmbTries := d.pwr.pmbTries.put c 0 0 } }).pmbFault c w

/-- The packet error code of SMBus: the CRC-8 of a message's bytes, polynomial x^8 + x^2 + x + 1 (PRESUMED, log entry 166). -/
def smbPec (bytes : List Byte) : Byte :=
  bytes.foldl (fun c x => (List.range 8).foldl (fun (c : Byte) _ => if c.msb then (c <<< 1) ^^^ 7#8 else c <<< 1) (c ^^^ x)) 0#8

/-- The device's SMBus address byte, for a write or a read. -/
def Dev.smbAddr (d : Dev) (read : Bool) : Byte := BitVec.ofNat 8 (2 * d.get Reg.PWR_SMB_ADDR_addr + if read then 1 else 0)

/-- The answer of an SMBus read (R445, Table 14.2): its bytes, and the code over the whole message. The access turns the target's clock on
(R463). -/
def Dev.smbAnswer (d : Dev) (code : Nat) (bytes : List Byte) : Dev :=
  { d.clockOn 32 4 with pwr := { d.pwr with
      smb := bytes ++ [smbPec ([d.smbAddr false, BitVec.ofNat 8 code, d.smbAddr true] ++ bytes)] } }

/-- The STATUS byte. -/
def Dev.smbStatus (d : Dev) : Nat :=
  let b (p : Bool) (n : Nat) : Nat := if p then 2 ^ n else 0
  b d.halted 0 + b (d.cfg.errDrive || d.cfg.errHeld) 1 +
    b ((List.range 12).any (fun c => d.on (Reg.PWR_DIE_STATUS_throttle c))) 2 +
    b (d.on Reg.PWR_STATUS_volt_skew || d.on Reg.PWR_STATUS_therm_skew) 3 +
    b (d.on Reg.TEL_ALERT_STATUS_alert) 4 + b (d.on Reg.PWR_STATUS_guard) 5

/-- The highest value of a list. -/
def maxOf (l : List Int) : Int := l.foldl max (l.headD 0)

/-- A stack's temperature as it reads, and the highest over the stacks whose identity was read. -/
def Dev.hbmHighest (d : Dev) : Int :=
  maxOf (((List.range 8).filter (fun m => (d.stack m).idRead)).map (fun m =>
    (BitVec.ofNat 8 (d.get (Reg.HBM_STK_STATUS_temp (stackSel m) (m % 2)))).toInt))

/-- The highest junction of the logic dies out of reset, in their last sample sets that were not stopped by TEL_CTL.pause (R456). -/
def Dev.logicHighest (d : Dev) : Int :=
  maxOf (((List.range 16).filter (fun i => !d.heldDie (dieSel i))).map (fun i =>
    (BitVec.ofNat 16 (d.get (Reg.TEL_TEMP_max (dieSel i)))).toInt))

/-! ### Clocks (R462 to R467) -/

/-- A CLK_GATE_CMD (R463, Table 14.5). -/
def Dev.clkGate (d : Dev) (sel : Nat) (v : Word) : Dev :=
  let n := bits v 0 4
  let on := bits v 4 1 = 1
  let en (k : Nat) : Bool := d.bit (Reg.CLK_GATE_EN_en sel) k
  let gateable : Bool :=
    if sel = 32 then n == 3 || n == 4 else if sel ≤ 11 then false else decide (1 ≤ n ∧ n ≤ 6)
  let busy : Bool :=
    if sel = 32 then n == 3 && d.cfg.started && d.get Reg.CFG_CTL_path == 3
    else if n = 2 ∨ n = 3 then
      let st := d.stackState (2 * (sel - 16) + (n - 2))
      st != 0 && st != 5
    else decide (4 ≤ n) && d.on (Reg.LANE_BANK_CTL_enable sel (n - 4))
  let child : Bool := sel != 32 && n == 1 && (en 2 || en 3)
  if ¬ gateable then d.set (Reg.CLK_GATE_RESULT_result sel) 3
  else if on then (d.clockOn sel n).set (Reg.CLK_GATE_RESULT_result sel) 0
  else if child then d.set (Reg.CLK_GATE_RESULT_result sel) 1
  else if busy then d.set (Reg.CLK_GATE_RESULT_result sel) 2
  else (d.setBit (Reg.CLK_GATE_EN_en sel) n false).set (Reg.CLK_GATE_RESULT_result sel) 0

/-- What CLK_CLKOUT_CTL.src and bank select: sources 6 and 7 act as 0, a bank above 11 as 0, and only source 3 has one (R464, Table
14.10). -/
def clkSourceOf (v : Word) : Nat × Nat :=
  let s := bits v 1 3
  let k := bits v 4 4
  (if 6 ≤ s then 0 else s, if s = 3 ∧ k < 12 then k else 0)

/-- What CLKOUT carries: its source and bank, its divisor, the source cycles of its high time, and its spread, in 0.1 % and kHz; none
while it is off. -/
structure Clkout where
  source : Nat × Nat
  divisor : Nat
  high : Nat
  depth : Nat
  rate : Nat
  deriving DecidableEq, Repr

/-- CLKOUT as its registers set it (R464): off while the load-failure state holds; with the pacer PLL a divisor of 1 acts as 2, an odd
divisor n is high for (n + 1) / 2 cycles, a depth above 20 acts as 20 and a rate below 30 as 30. The source is that of the last switch that
completed. -/
def Dev.clkout (d : Dev) : Option Clkout :=
  let n := d.get Reg.CLK_CLKOUT_CTL_div_m1 + 1
  let n := if d.pwr.clkSource.1 = 1 then max 2 n else n
  if d.cfg.loadFailure ∨ ¬ d.on Reg.CLK_CLKOUT_CTL_en then none
  else some { source := d.pwr.clkSource, divisor := n, high := (n + 1) / 2,
              depth := min 20 (d.get Reg.CLK_CLKOUT_SSC_depth), rate := max 30 (d.get Reg.CLK_CLKOUT_SSC_rate_khz) }

/-- A write of CLK_CLKOUT_CTL (R464): en is ignored in the load-failure state; a new source starts a switch while the output runs, and is
taken at once while it is off. -/
def Dev.clkoutCtl (d : Dev) (v : Word) : Dev :=
  let ran := d.clkout.isSome
  let w := v &&& 0x00FFFFFF#32
  let w := if d.cfg.loadFailure then setBits w 0 1 (d.get Reg.CLK_CLKOUT_CTL_en) else w
  let d := d.wrWord Reg.CLK_CLKOUT_CTL w
  let want := clkSourceOf w
  if want = d.pwr.clkSource ∧ d.pwr.clkSwitch = none then d
  else if ran then
    ({ d with pwr := { d.pwr with clkSwitch := some want } }).set Reg.CLK_CLKOUT_STATUS_switching 1
  else ({ d with pwr := { d.pwr with clkSwitch := none, clkSource := want } }).set Reg.CLK_CLKOUT_STATUS_switching 0

/-- A clock switch completes: the timebase's, or CLKOUT's (R465). One back to PACE_REF clears degraded (R129). -/
def Dev.clkSwitched (d : Dev) (timebase : Bool) : Dev :=
  if timebase then
    match d.pwr.tbSwitch with
    | some toOsc =>
      let d : Dev := { d.modPac (fun p => { p with osc := toOsc }) with pwr := { d.pwr with tbSwitch := none } }
      if toOsc then d else d.set Reg.PACE_STATUS_degraded 0
    | none => d
  else
    match d.pwr.clkSwitch with
    | some x => ({ d with pwr := { d.pwr with clkSwitch := none, clkSource := x } }).set Reg.CLK_CLKOUT_STATUS_switching 0
    | none => d

/-- A clock switch is forced (R465). -/
def Dev.clkForced (d : Dev) (timebase : Bool) : Dev :=
  let under := if timebase then d.pwr.tbSwitch.isSome else d.pwr.clkSwitch.isSome
  if ¬ under then d
  else
    let d := d.clkSwitched timebase
    (if timebase then d.set Reg.PACE_STATUS_tb_forced 1 else d.set Reg.CLK_CLKOUT_STATUS_forced 1).err 32 0 0 0x1202

/-- MREF leaves its range on a base die (which 0), or the PHY of its stack 0 or 1 loses lock (which 1 or 2) (R462). -/
def Dev.phyLost (d : Dev) (b which : Nat) : Dev :=
  let s := baseSel b
  if d.heldDie s then d
  else
    let d := (d.setBit (Reg.CLK_PLL_STATUS_lock s) which false).err s which 3 0x1203
    each (if which = 0 then [2 * b, 2 * b + 1] else [2 * b + (which - 1)]) (fun m d =>
      if d.stackState m = 0 ∨ d.stackState m = 5 then d else d.setStack m { d.stack m with unlocked := true }) d

/-- Lock of a stack returns in time: the stack retrains before it serves (R462). -/
def Dev.phyBack (d : Dev) (m : Nat) : Dev :=
  if ¬ (d.stack m).unlocked then d
  else
    let d := d.setStack m { d.stack m with unlocked := false }
    let d := (d.setBit (Reg.CLK_PLL_STATUS_lock (stackSel m)) 0 true).setBit (Reg.CLK_PLL_STATUS_lock (stackSel m)) (1 + m % 2) true
    d.askRetrain m

/-- A stack has stayed unlocked for longer than 1 ms: it fails (R462); where it was being initialized, that is over for it (R230). -/
def Dev.phyExpired (d : Dev) (m : Nat) : Dev :=
  if ¬ (d.stack m).unlocked then d
  else if (d.stack m).starting then (d.stackLost m 5).initNext m
  else d.stackLost m 5

/-- A crossing of a block is abandoned (R467). -/
def Dev.cdcTimeout (d : Dev) (sel block : Nat) : Dev :=
  (d.bump (Reg.CLK_CDC_STATUS_timeouts sel)).report { die := sel, unit := 0, severity := 3, cls := 0x1201, info := block }

/-! ### Block resets (R474) -/

/-- A block reset of a die: LANE, LCH, GLEAN, GRAN, TEL, or the CLKOUT registers of the package. None for another block. -/
def Dev.blockReset (d : Dev) (sel block : Nat) : Option Dev :=
  if block = 0x0A ∧ scopeOf sel = 2 then some (d.laneReset (sel - 16))
  else if block = 0x0B ∧ scopeOf sel = 2 then some (d.lchReset (sel - 16))
  else if block = 0x0D ∧ scopeOf sel = 1 then
    some { d.resetBlock sel 0x0D with bacts := d.bacts.filter (fun a =>
      match a with
      | .rewrite fa => frameDie fa != sel
      | .reload fa => frameDie fa != sel
      | .unfreeze f => dieOf f != sel
      | _ => true) }
  else if block = 0x0E ∧ scopeOf sel = 2 then
    let d := (d.granRestore (sel - 16)).resetBlock sel 0x0E
    some { d with scrub := { d.scrub with remaps := d.scrub.remaps.filter (fun x => x / 4 / 49152 != sel - 16) } }
  else if block = 0x10 ∧ scopeOf sel ≠ 0 then some (d.resetBlock sel 0x10)
  else if block = 0x12 ∧ sel = 32 then
    some ({ d.resetRegs Reg.CLK_CLKOUT_CTL (Reg.CLK_CLKOUT_STATUS + 4) with pwr := { d.pwr with clkSwitch := none, clkSource := (0, 0) } })
  else none

end Sys2Proof.Machine
end

