-- ==== Sys2Proof/Machine/Debug.lean ====
section
/-! DEFINITION. Run control of the service processor's cores, trace and watchdog (R490 to R498). The debug port's requests
stand in Machine/Port.lean. -/

namespace Sys2Proof.Machine

/-- A core. -/
def Dev.core (d : Dev) (c : Nat) : CoreState := d.cores.get c {}
def Dev.setCore (d : Dev) (c : Nat) (v : CoreState) : Dev := { d with cores := d.cores.put c v {} }

/-- A general register: g0 reads 0 (R490). -/
def CoreState.reg (x : CoreState) (n : Nat) : Word := if n = 0 then 0 else x.g.get n 0

/-- A core's PSR: bit 7 is its world, which is read-only, and core 0 is the secure one (R393, R490). -/
def Dev.psr (d : Dev) (c : Nat) : BitVec 8 := ((d.core c).psr &&& 0x7F#8) ||| (if c = 0 then 0x80#8 else 0#8)

/-- Whether a core is in the monitor, and whether any is. -/
def Dev.inMonitor (d : Dev) (c : Nat) : Bool := d.on (Reg.SP_CORE_DBG_STATUS_in_monitor c)
def Dev.anyMonitor (d : Dev) : Bool := [0, 1, 2, 3].any (fun c => d.inMonitor c)

/-- Whether a peripheral is frozen: its SP_FREEZE bit (0 watchdog, 5 DMA, 6 mailbox fetch) while a core is in the monitor. -/
def Dev.frozenSp (d : Dev) (bit : Nat) : Bool := d.anyMonitor && (d.rdWord Reg.SP_FREEZE).getLsbD bit

/-- The watchdog's load: 0 acts as 1. -/
def Dev.wdtLoad (d : Dev) : Nat := max 1 (d.get Reg.SP_WDT_LOAD_us)

/-- A frozen watchdog that is released resumes from its held count, at least 1,000 µs (R498). `was` is the device before. -/
def Dev.wdtResume (d was : Dev) : Dev :=
  if was.frozenSp 0 ∧ ¬ d.frozenSp 0 then d.set Reg.SP_WDT_COUNT_us (max 1000 (d.get Reg.SP_WDT_COUNT_us)) else d

/-- A write of SP_FREEZE (R497). -/
def Dev.freezeWrite (d : Dev) (v : Word) : Dev := (d.wrWord Reg.SP_FREEZE (v &&& 0x7F#32)).wdtResume d

/-- A write of SP_WDT_KICK reloads the watchdog, frozen or not (R498). -/
def Dev.wdtKick (d : Dev) : Dev := d.set Reg.SP_WDT_COUNT_us d.wdtLoad

/-- The watchdog counts `n` µs (R498). -/
def Dev.wdtTick (d : Dev) (n : Nat) : Dev :=
  if d.frozenSp 0 then d else d.set Reg.SP_WDT_COUNT_us (d.get Reg.SP_WDT_COUNT_us - n)

/-- A FATAL record of the SP block: the service processor is done until a device-wide reset (R420). -/
def Dev.spFatal (d : Dev) (cls address : Nat) (flags : BitVec 8) : Dev :=
  (d.report { die := 32, unit := 0, severity := 4, cls := cls, address := address, flags := flags }).set
    Reg.ID_STATE_sp_state 5

/-- The watchdog has reached 0 (R498). -/
def Dev.wdtExpire (d : Dev) : Dev :=
  if d.frozenSp 0 ∨ d.get Reg.SP_WDT_COUNT_us ≠ 0 ∨ d.get Reg.ID_STATE_sp_state = 5 then d else d.spFatal 0x1602 0 0

/-! ### The monitor (R491 to R493) -/

/-- The save record's address in memory, where it lies in service-processor memory (R493). -/
def Dev.saveAddr (d : Dev) (c : Nat) : Option Nat :=
  let a := d.get (Reg.SP_CORE_DBG_SAVE_addr c)
  if a + 132 ≤ 0x400000 then some (0x7000000000 + a) else none

/-- The firmware's monitor stores g1 to g31, PC and PSR of the stopped core (R493). -/
def Dev.saveRecord (d : Dev) (c : Nat) : Dev :=
  match d.saveAddr c with
  | none => d
  | some a =>
    let x := d.core c
    let ws := (List.range 31).map (fun i => x.reg (i + 1)) ++
      [d.rdWord (Reg.SP_CORE_EPC c), d.rdWord (Reg.SP_CORE_EPSR c)]
    { d with mem := d.mem.writeBytes a (ws.flatMap (fun w => toBytes w.toNat 4)) }

/-- An exception saves PC and PSR and writes the cause (R490). Where a vector lies is not in the spec: the PC it takes is a
free value; PSR.ie stays, and so does the level but in the monitor (log entry 39). -/
def Dev.exception (d : Dev) (c cause : Nat) (epc : Word) (monitor : Bool) : Dev :=
  let x := d.core c
  let d := (d.wrWord (Reg.SP_CORE_EPC c) epc).set (Reg.SP_CORE_EPSR_psr c) (d.psr c).toNat
  let d := d.set (Reg.SP_CORE_ECAUSE_cause c) cause
  let level : Nat := if monitor then min 14 (d.get (Reg.SP_CORE_DBG_CTL_mon_prio c)) else x.psr.toNat / 2 % 16
  let psr : BitVec 8 := (d.psr c &&& 0x81#8) ||| BitVec.ofNat 8 (2 * level) ||| 0x20#8 |||
    (if monitor then 0x40#8 else x.psr &&& 0x40#8)
  (d.setCore c { x with pc := d.freeVal.setWidth 32, psr := psr, stepping := false }).spend

/-- A debug event enters the monitor (R491). -/
def Dev.monitorEnter (d : Dev) (c cause : Nat) (epc : Word) : Dev :=
  let d := (d.exception c cause epc true).set (Reg.SP_CORE_DBG_STATUS_in_monitor c) 1
  if d.get Reg.ID_STATE_sp_state = 3 then d.saveRecord c else d

/-- A breakpoint instruction at the core's PC (R491, R492): ignored in the monitor. -/
def Dev.brk (d : Dev) (c : Nat) : Dev :=
  if d.inMonitor c then d
  else if d.on (Reg.SP_CORE_DBG_CTL_mon_en c) then d.monitorEnter c 8 (d.core c).pc
  else d.exception c 8 (d.core c).pc false

/-- Whether comparator k of a core matches an access: kind 0 a fetch, 1 a load, 2 a store, of `n` bytes (R494). -/
def Dev.cmpMatch (d : Dev) (c k kind addr n : Nat) : Bool :=
  let lo := d.get (Reg.SP_CMP_LO_lo c k)
  let hi := if d.on (Reg.SP_CMP_CTL_range c k) then d.get (Reg.SP_CMP_HI_hi c k) else lo
  let acc := d.get (Reg.SP_CMP_CTL_acc c k)
  let data := d.on (Reg.SP_CMP_CTL_kind c k)
  d.on (Reg.SP_CMP_CTL_en c k) &&
    (if kind = 0 then !data && decide (lo ≤ addr ∧ addr ≤ hi)
     else data && (acc == 0 || acc == 3 || (acc == 1 && kind == 1) || (acc == 2 && kind == 2)) &&
       decide (lo < addr + n ∧ addr ≤ hi ∧ lo ≤ hi))

/-- An access of a core meets its comparators; `next` is the instruction after it (R494). -/
def Dev.comparator (d : Dev) (c kind : Nat) (addr : Word) (n : Nat) (next : Word) : Dev :=
  if d.inMonitor c ∨ ¬ d.on (Reg.SP_CORE_DBG_CTL_mon_en c) then d
  else
    let hits := (List.range 8).filter (fun k => d.cmpMatch c k kind addr.toNat n)
    if hits = [] then d
    else
      let d := each hits (fun k d => d.setBit (Reg.SP_CORE_DBG_STATUS_cmp_hit c) k true) d
      d.monitorEnter c 9 (if kind = 0 then addr else next)

/-- One stepped instruction has executed; `next` is the one after it (R492). -/
def Dev.stepEvent (d : Dev) (c : Nat) (next : Word) : Dev :=
  if d.inMonitor c ∨ ¬ (d.core c).stepping then d
  else
    let d := d.setCore c { d.core c with stepping := false }
    if d.on (Reg.SP_CORE_DBG_CTL_mon_en c) then d.monitorEnter c 10 next else d

/-- A halt request (R491, R492): pending in the monitor, ignored while mon_en is 0. -/
def Dev.haltRequest (d : Dev) (c : Nat) : Dev :=
  if d.inMonitor c then d.set (Reg.SP_CORE_DBG_STATUS_halt_pending c) 1
  else if d.on (Reg.SP_CORE_DBG_CTL_mon_en c) then d.monitorEnter c 11 (d.core c).pc
  else d

/-- A write of SP_CORE_DBG_CTL. -/
def Dev.coreDbgCtl (d : Dev) (c : Nat) (v : Word) : Dev :=
  let d := d.wrWord (Reg.SP_CORE_DBG_CTL c) (v &&& 0x5F#32)
  if v.getLsbD 5 then d.haltRequest c else d

/-- The monitor of a core returns: the registers come back from the save record, freezes end, and a pending halt request
is taken (R492, R493, R497). -/
def Dev.monitorReturn (d : Dev) (c : Nat) : Dev :=
  if ¬ d.inMonitor c then d
  else
    let was := d
    let x := d.core c
    let x : CoreState :=
      match d.saveAddr c with
      | none => { x with pc := d.rdWord (Reg.SP_CORE_EPC c), psr := BitVec.ofNat 8 (d.get (Reg.SP_CORE_EPSR_psr c)) }
      | some a =>
        let w (i : Nat) : Word := BitVec.ofNat 32 (ofBytes (d.mem.readBytes (a + 4 * i) 4))
        { x with g := (List.range 31).foldl (fun (m : SMap Word) i => m.put (i + 1) (w i) 0) x.g
                 pc := w 31
                 psr := ((w 32).setWidth 8 &&& 0x7F#8) ||| (d.psr c &&& 0x80#8) }
    let x : CoreState := { x with stepping := d.on (Reg.SP_CORE_DBG_CTL_step c) }
    let d := ((d.setCore c x).set (Reg.SP_CORE_DBG_STATUS_in_monitor c) 0).wdtResume was
    if d.on (Reg.SP_CORE_DBG_STATUS_halt_pending c) then
      (d.set (Reg.SP_CORE_DBG_STATUS_halt_pending c) 0).haltRequest c
    else d

/-! ### Trace (R495, R496) -/

/-- A core's store of `n` bytes to its SP_MARK_DATA, by the instruction at `at_`. -/
def Dev.traceMark (d : Dev) (c n : Nat) (v at_ : Word) : Dev :=
  let cls := d.get (Reg.SP_MARK_ID_class c)
  if ¬ d.bit (Reg.SP_MARK_EN_en c) cls ∨ ¬ (n = 1 ∨ n = 2 ∨ n = 4) then d
  else
    let q := d.trace.fifo.get c []
    if 8 ≤ q.length then
      { d.bump Reg.DBG_TRACE_LOST_count with trace := { d.trace with lost := withItem d.trace.lost c } }
    else
      let lost := if c ∈ d.trace.lost then 32 else 0
      let seq := d.trace.seq.get c 0
      let pkt := toBytes (cls + 32 * d.get (Reg.SP_MARK_ID_tag c)) 2 ++ toBytes (c + 4 * n + lost) 1 ++ toBytes 0 1 ++
        toBytes seq 2 ++ toBytes 0 2 ++ toBytes (v.toNat % 256 ^ n) 4 ++ toBytes at_.toNat 4 ++ toBytes d.now 8 ++
        toBytes d.committed 8
      { d with trace := { d.trace with fifo := d.trace.fifo.put c (q ++ [pkt]) []
                                       seq := d.trace.seq.put c ((seq + 1) % 65536) 0
                                       lost := without d.trace.lost c } }

/-- Where the trace buffer starts: a granary offset of B0 (R496). -/
def Dev.traceBase (d : Dev) : Nat := d.get Reg.DBG_TRACE_BASE_base * 0x40000

/-- Whether the trace buffer lies in B0's granary, and whether all of it is secure. -/
def Dev.traceFits (d : Dev) : Bool := decide (d.traceBase + 0x40000 ≤ 0x1800000)
def Dev.traceSecure (d : Dev) : Bool :=
  decide (d.traceBase + 0x40000 ≤ d.partitionBytes 0) ||
    ((List.range 64).all (fun i => d.granSecure 0 (d.traceBase + i * 0x1000)))

/-- The oldest packet of a core is written to the trace buffer, or dropped and counted. A buffer beyond B0's granary, or
while B0 is held, takes none (DEDUCED, log entry 40). -/
def Dev.tracePacket (d : Dev) (c : Nat) : Dev :=
  match d.trace.fifo.get c [] with
  | [] => d
  | p :: rest =>
    if ¬ d.on Reg.DBG_TRACE_CTL_en then d
    else
      let d := { d with trace := { d.trace with fifo := d.trace.fifo.put c rest [] } }
      let stop := d.on Reg.DBG_TRACE_CTL_mode
      if (stop ∧ d.trace.full) ∨ ¬ d.traceFits ∨ d.heldDie 16 ∨ (c = 0 ∧ ¬ d.traceSecure) then d.bump Reg.DBG_TRACE_LOST_count
      else
        let wp := d.get Reg.DBG_TRACE_WP_wp
        let d := d.granWrite (granBase 0 + d.traceBase + 32 * wp) (p.map (fun b => (b, true)))
        let d := d.set Reg.DBG_TRACE_WP_wp ((wp + 1) % 8192)
        { d with trace := { d.trace with full := stop && wp == 8191 } }

/-- A write of DBG_TRACE_CTL: in WRAP mode the buffer is never full. -/
def Dev.traceCtl (d : Dev) (v : Word) : Dev :=
  let d := d.wrWord Reg.DBG_TRACE_CTL (v &&& 0x3#32)
  if v.getLsbD 1 then d else { d with trace := { d.trace with full := false } }

end Sys2Proof.Machine
end

