-- ==== Sys2Proof/Machine/Cfg.lean ====
section
/-! DEFINITION. The configuration front end of chapter 10 of spec/: arming and ending a stream (R324, R338), failures and the
states they leave (R345 to R347), and CFG_DONE (R342 to R344). Sections and packets are in Machine/Stream.lean. -/

namespace Sys2Proof.Machine

/-- CFG_STATUS.state (Table 10.13): 0 IDLE, 1 ARMED, 2 READING, 3 SKIPPING, 4 CHECKING, 5 FAILED. A change is a host event
(Table 12.7). -/
def Dev.setCfgState (d : Dev) (st : Nat) : Dev :=
  if d.get Reg.CFG_STATUS_state = st then d else (d.set Reg.CFG_STATUS_state st).hostEvent 19

/-- CFG_STATUS.design_loaded; a change is a host event (Table 12.7). -/
def Dev.setDesign (d : Dev) (b : Bool) : Dev :=
  if d.on Reg.CFG_STATUS_design_loaded = b then d
  else (d.set Reg.CFG_STATUS_design_loaded (if b then 1 else 0)).hostEvent 19

/-- The fields that a region mask holds. -/
def regionFields (r : BitVec 384) : List Nat := (List.range 384).filter (fun f => r.getLsbD f)

/-- The stream that was being read is over. -/
def Dev.streamOver (d : Dev) : Dev :=
  { d with cfg := { d.cfg with started := false, reading := .none, waiting := [], fence := false, stored := [] } }

/-- Every field is cleared and unloaded (R336, R346). -/
def Dev.clearAllFields (d : Dev) : Dev :=
  let d := each (List.range 384) (fun f d => (d.clearFrames f).setLoaded f false) d
  { d with cfg := { d.cfg with reconf := [], toClear := [] } }

/-- The load-failure state (R346). OUTPUT pins are high impedance until a commit; CFG_DONE is low (DEDUCED, log entry 42). -/
def Dev.loadFail (d : Dev) : Dev :=
  let d := ((d.clearAllFields).setDesign false).lanesIdle
  let d := (d.set Reg.CLK_CLKOUT_CTL_en 0).set Reg.CFG_STATUS_done_drive 1
  ({ d with
    sio := { d.sio with committed := false }
    cfg := { d.cfg with loadFailure := true } }).updateIfAtRest

/-- A field of a failed PARTIAL section is cleared, at once where it is out of completion, else when it has left. -/
def Dev.clearOut (d : Dev) (f : Nat) : Dev :=
  if d.part f then { d with cfg := { d.cfg with toClear := withItem d.cfg.toClear f } } else d.clearFrames f

/-- A partial failure (R346). -/
def Dev.partialFail (d : Dev) : Dev :=
  let fs := regionFields d.cfg.region
  let d := { d with cfg := { d.cfg with reconf := d.cfg.reconf.filter (fun f => !d.cfg.region.getLsbD f) } }
  let d := (each fs (fun f d => d.setLoaded f false) d).updateIfAtRest
  each fs (fun f d => d.clearOut f) d

/-- A stream fails with a cause (Table 10.11) at a byte offset of its section (R345, R346). The record's info is the cause
(DEDUCED, log entry 41). -/
def Dev.cfgFail (d : Dev) (cause off : Nat) : Dev :=
  let c := d.cfg
  let d := (d.set Reg.CFG_FAIL_cause cause).set Reg.CFG_FAIL_section (min c.section_ 255)
  let d := d.set Reg.CFG_FAIL_OFFSET_offset (min off 0xFFFFFFFF)
  let d := d.report { die := 32, unit := 0, severity := 3, cls := 0x0C01, info := cause }
  let d := { d with cfg := { c with errDrive := true } }
  let d :=
    if !c.loadedAtStart || c.full then d.loadFail
    else if c.reading = .body ∧ c.kind = 2 then d.partialFail
    else d
  d.streamOver.setCfgState 5

/-- A write of CFG_CTL.arm (R338): ignored while armed or while a stream is being read. -/
def Dev.cfgArm (d : Dev) : Dev :=
  if d.cfg.started ∨ d.get Reg.CFG_STATUS_state = 1 then d
  else (d.set Reg.CFG_CTL_arm 1).setCfgState 1

/-- The first byte of a stream arrives (R324, R338): the front end is armed. -/
def Dev.streamStart (d : Dev) : Dev :=
  let d := ((d.set Reg.CFG_CTL_arm 0).wrWord Reg.CFG_SECTIONS 0).setPair Reg.CFG_RX_BYTES_LO Reg.CFG_RX_BYTES_HI 0
  let d := if d.get Reg.CFG_CTL_path = 3 then d.clockOn 32 3 else d
  let d := { d with cfg := { d.cfg with
    started := true, full := false, any := false, loadedAtStart := d.on Reg.CFG_STATUS_design_loaded,
    section_ := 0, offset := 0, reading := .none, stored := [], fence := false, waiting := [] } }
  d.setCfgState 2

/-- Bytes of the stream have been read. -/
def Dev.rxBytes (d : Dev) (n : Nat) : Dev :=
  d.setPair Reg.CFG_RX_BYTES_LO Reg.CFG_RX_BYTES_HI (d.pair Reg.CFG_RX_BYTES_LO Reg.CFG_RX_BYTES_HI + n)

/-- The stream's path ends, or an abort: a started stream fails with TRUNCATED at the first byte that did not arrive, an
armed front end disarms (R324, R345). -/
def Dev.pathEnd (d : Dev) : Dev :=
  if d.cfg.started then d.cfgFail 5 d.cfg.offset
  else if d.get Reg.CFG_STATUS_state = 1 then (d.set Reg.CFG_CTL_arm 0).setCfgState 0
  else d

/-- A write of CFG_CTL.restart (R347). -/
def Dev.cfgRestart (d : Dev) : Dev :=
  let d := (d.wrWord Reg.CFG_FAIL 0).wrWord Reg.CFG_FAIL_OFFSET 0
  let lf := d.cfg.loadFailure
  let d := { d with cfg := { d.cfg with errDrive := false, loadFailure := false } }
  let d := if d.get Reg.CFG_STATUS_state = 5 then d.setCfgState 0 else d
  if lf then each (List.range 64) (fun n d => d.set (Reg.SIO_PIN_CTL_mode n) 0) d.lanesRelease else d

/-- A write of CFG_CTL.done_release (R342). -/
def Dev.doneRelease (d : Dev) : Dev := d.set Reg.CFG_STATUS_done_drive 0

/-- A write of CFG_CTL: path is taken while no stream is being read, then what the write asks for. -/
def Dev.cfgCtl (d : Dev) (v : Word) : Dev :=
  let d := if d.cfg.started then d else d.set Reg.CFG_CTL_path (bits v 0 2)
  let d := if v.getLsbD 4 then d.cfgRestart else d
  let d := if v.getLsbD 5 then d.doneRelease else d
  let d := if v.getLsbD 3 then d.pathEnd else d
  if v.getLsbD 2 then d.cfgArm else d

/-- CFG_DONE has stayed low for CFG_DONE_TIMEOUT after this device released it (R344). -/
def Dev.doneTimeout (d : Dev) : Dev :=
  if d.on Reg.CFG_STATUS_done_drive ∨ d.doneIn then d
  else (d.set Reg.CFG_STATUS_done_timeout 1).err 32 0 0 0x0C02

/-- STB has stayed low for CFG_BUS_IDLE during a CFGBUS stream (R341). -/
def Dev.busIdle (d : Dev) : Dev :=
  if d.cfg.started ∧ d.get Reg.CFG_CTL_path = 2 then d.cfgFail 5 d.cfg.offset else d

/-- The path of a stream ends; CFGBUS has no end of its own (R324). -/
def Dev.streamPathEnd (d : Dev) : Dev := if d.get Reg.CFG_CTL_path = 2 then d else d.pathEnd

/-- A worker's firmware writes restart 10 ms after a load failure of a broadcast stream, and reports the cause to the manager (R347). -/
def Dev.workerRestart (d : Dev) : Dev :=
  if d.get Reg.ID_STATE_sp_state = 3 ∧ d.boot.role = 2 ∧ d.get Reg.CFG_CTL_path = 1 ∧ d.cfg.loadFailure then
    let cause := d.get Reg.CFG_FAIL_cause
    d.cfgRestart.clusterSend (.loadFailed cause) 0
  else d

end Sys2Proof.Machine
end

