-- ==== Sys2Proof/Machine/Reset.lean ====
section
/-! DEFINITION. The device-wide resets of chapters 12 and 14 of spec/ (R442, R446, R470, Table 14.6) and the boot ROM (R395 to
R397). -/

namespace Sys2Proof.Machine

/-- Whether the device is held in reset by a pin. -/
def Dev.inReset (d : Dev) : Bool := !d.pwr.porst || !d.pwr.sysrst

/-- What no reset touches: the host's memory and what it was sent, the levels that the board drives, and the place in the
open values. -/
def Dev.bare (d : Dev) : Dev :=
  { ({} : Dev) with
    sio := { pads := d.sio.pads }
    sec := { tamperPin := d.sec.tamperPin }
    cfg := { doneHeld := d.cfg.doneHeld, errHeld := d.cfg.errHeld }
    host := { mem := d.host.mem, vectors := d.host.vectors, linkUp := false }
    pwr := { held := 0xFFFF, porst := d.pwr.porst, sysrst := d.pwr.sysrst, vccFuse := d.pwr.vccFuse }
    free := d.free }

/-- Registers that a warm reset keeps: the FIFO registers of every die's ERR block (R389), the halt cause (R388) and the DBG
block (R499). -/
def warmKeeps (a : Nat) : Bool :=
  (a / 0x10000 % 0x100 == 0x0F && a / 0x1000000 != 32 && decide (a % 0x10000 < 0x100)) ||
  (decide (Reg.ERR_HALT_STATUS ≤ a) && decide (a < Reg.ERR_HALT_CLR)) ||
  a / 0x10000 == 0x2017 || a == Reg.SEC_TAMPER_STATUS

/-- The state in which SYSRST_N leaves the device (Table 14.6, warm): the error FIFOs and log, the halt cause, the tamper
sources seen, the debug port and the straps of the last PORST_N are kept. -/
def Dev.warm (d : Dev) : Dev :=
  { d.bare with
    regs := (d.regs.filter (fun e => warmKeeps e.1))
    latch := d.latch.filter (fun e => warmKeeps e.1)
    errs := d.errs
    errIrq := d.errIrq
    log := d.log
    dbg := d.dbg
    boot := { mode := d.boot.mode, role := d.boot.role } }

/-- PORST_N falls, or power comes on (R442, R470). -/
def Dev.porstAssert (d : Dev) : Dev := { d.bare with pwr := { d.bare.pwr with porst := false } }

/-- SYSRST_N falls (R442, R470). -/
def Dev.sysrstAssert (d : Dev) : Dev :=
  if ¬ d.pwr.porst then { d with pwr := { d.pwr with sysrst := false } }
  else
    let d := d.warm.set Reg.ERR_HALT_STATUS_halted 0
    { d with pwr := { d.pwr with sysrst := false } }

/-- The device leaves reset (R446): base dies leave it, the tamper enables are loaded from the fuses before any unit does
(R426), a TAMPER_N that is low with its enable fused halts the device again (R435), and the boot ROM runs (R395). -/
def Dev.leaveReset (d : Dev) (fz : Fuses) : Dev :=
  let d := { d with pwr := { d.pwr with held := 0x0FFF }, host := { d.host with linkUp := true } }
  let d := d.set Reg.SEC_TAMPER_EN_enable fz.tamper.toNat
  if d.bit Reg.SEC_TAMPER_EN_enable 0 ∧ ¬ d.sec.tamperPin then d.tamper 0 else d

/-- PORST_N rises, with the straps as sampled (R395, R311) and the level of TAMPER_N. -/
def Dev.porstRelease (d : Dev) (fz : Fuses) (mode role : Nat) (tamperPin : Bool) : Dev :=
  if d.pwr.porst then d
  else
    let d := { d with
      pwr := { d.pwr with porst := true }
      sec := { d.sec with tamperPin := tamperPin }
      boot := { mode := mode, role := role } }
    if d.pwr.sysrst then d.leaveReset fz else d

/-- SYSRST_N rises, with the level of TAMPER_N. -/
def Dev.sysrstRelease (d : Dev) (fz : Fuses) (tamperPin : Bool) : Dev :=
  if d.pwr.sysrst then d
  else
    let d := { d with pwr := { d.pwr with sysrst := true }, sec := { d.sec with tamperPin := tamperPin } }
    if d.pwr.porst then d.leaveReset fz else d

/-! ### The boot ROM (R395 to R397, Table 12.3) -/

/-- ID_STATE.sp_state (Table 12.3): 0 ROM, 1 LOADING, 2 VERIFYING, 3 RUNNING, 4 BOOT_FAILED, 5 FATAL. -/
def Dev.spState (d : Dev) : Nat := d.get Reg.ID_STATE_sp_state

/-- The service processor is not running, so BAR2 offsets below 2 MiB reach the staging area (R396): in modes HOST and, after
the flash image failed, FLASH_HOST, until the image verifies. -/
def Dev.staging (d : Dev) : Bool :=
  !d.boot.started && (d.boot.mode == 1 || (d.boot.mode == 3 && (d.spState == 4 || d.boot.doorbell))) && decide (d.spState ≠ 5)

/-- A boot attempt fails: cause in ID_BOOT_CAUSE, and a record (R397). -/
def Dev.bootFail (d : Dev) (cause : Nat) : Dev :=
  let d := (d.set Reg.ID_STATE_sp_state 4).set Reg.ID_BOOT_CAUSE_cause cause
  ({ d with boot := { d.boot with attempt := false } }).err 32 0 3 0x1603

end Sys2Proof.Machine
end

