-- ==== Sys2Proof/Machine/RegRead.lean ====
section
/-! DEFINITION. What reads of registers return (R9 to R12, R514): most registers read the word held for them; those whose value
the device's state gives, or that the fuses give, read that. -/

namespace Sys2Proof.Machine

/-- The bits of a die's 32 fields for which something holds, by local field index. -/
def dieBits (die : Nat) (p : Nat → Bool) : Word :=
  BitVec.ofNat 32 ((List.range 32).foldl (fun n i => if p (fieldAt die i) then n + 2 ^ i else n) 0)

/-- One of the two words of a 64-bit value. -/
def half (v : Nat) (hi : Bool) : Word := BitVec.ofNat 32 (if hi then v / 2 ^ 32 else v)

/-- FAB_FLD_STATUS (Table 3.6). -/
def Dev.fldStatus (d : Dev) (f : Nat) : Word :=
  let x := d.fld f
  let st :=
    if ¬ x.part then 4
    else match x.st with
      | .idle => 0
      | .eval => if ¬ x.delay ∧ x.latent ≠ [] then 2 else 1
      | .complete => 3
  BitVec.ofNat 32 ((x.wave - 1) + st * 16)

/-- FAB_BRIDGE_STATUS (Table 2.10): holding is held for it, present and far_reset follow the dies. -/
def Dev.bridgeStatus (d : Dev) (c : Nat) : Word :=
  let held := d.rdWord (Reg.FAB_BRIDGE_STATUS c) &&& 0x4444#32
  let live := flagBits 16 (fun i =>
    match dieNeighbor c (i / 4) with
    | none => false
    | some n => i % 4 == 0 || (i % 4 == 1 && d.heldDie n))
  held ||| BitVec.ofNat 32 live

/-- MAC_TILE_STATUS (Table 5.8). -/
def Dev.tileStatus (d : Dev) (f t : Nat) : Word :=
  let x := d.tile f t
  BitVec.ofNat 32 (x.pc % 64 + (if x.busy then 64 else 0) + x.faultCode % 4 * 128 + (if x.ovf then 512 else 0) +
    x.det % 16 * 1024 + (if x.busy ∧ d.leased f t then 0x4000 else 0))

/-- HBM_TRAIN_RD and HBM_TRAIN_WR show the results for the current rate (Table 7.10). -/
def Dev.trainRead (d : Dev) (m k : Nat) : Word :=
  let rate := d.get (Reg.HBM_STK_STATUS_rate (stackSel m) (m % 2))
  let w := (d.stack m).train.get (rate * 256 + k) 0
  if d.bit (Reg.HBM_STK_RATES_valid (stackSel m) (m % 2)) rate then w else w &&& 0x7FFFFFFF#32

/-- Requests to a stack that are held now (HBM_STK_HOLD.held): none unless the stack holds its requests. -/
def Dev.hbmHeld (d : Dev) (m : Nat) : Nat :=
  if ¬ d.stackHolds m then 0
  else (d.noc.waiting.filter (fun p => decide (p.addr < 0x3000000000) && (hbmSplit d.hbmOrder p.addr).1 == m)).length

/-- Words of the blocks 0x01 to 0x07 that the state gives. -/
def Dev.liveFabric (d : Dev) (die blk off a : Nat) : Option Word :=
  if blk = 1 ∧ die ≤ 11 then
    (if off = 0x4 then some (d.bridgeStatus die)
     else if off = 0x110 then some (dieBits die (fun f => (d.fld f).part && decide ((d.fld f).st = .eval)))
     else if off = 0x118 then some (dieBits die d.part)
     else if 0x1000 ≤ off ∧ (off - 0x1000) % 0x200 = 0 ∧ off < 0x5000 then
       some (d.fldStatus (fieldAt die ((off - 0x1000) / 0x200)))
     else none)
  else if a = Reg.PACE_CLK_STATUS then
    some ((d.rdWord a &&& 0xA#32) ||| (if d.scheduleEmpty then 1#32 else 0#32) ||| (if d.timeEnd then 4#32 else 0#32))
  else if a = Reg.PACE_CLK_INVALID0 then some (BitVec.ofNat 32 (flagBits 32 (fun n => d.clkEnabled n && !d.clkValid n)))
  else if a = Reg.PACE_CLK_INVALID1 then
    some (BitVec.ofNat 32 (flagBits 32 (fun n => d.clkEnabled (32 + n) && !d.clkValid (32 + n))))
  else if a = Reg.PACE_T0_LO ∨ a = Reg.PACE_T0_HI then some (half (BitVec.ofInt 64 d.pac.t0).toNat (a == Reg.PACE_T0_HI))
  else if a = Reg.PACE_DEBT_LO ∨ a = Reg.PACE_DEBT_HI then
    some (half ((BitVec.ofInt 48 d.debtNs).signExtend 64).toNat (a == Reg.PACE_DEBT_HI))
  else if a = Reg.PACE_TB_LO ∨ a = Reg.PACE_TB_HI then some (half (d.pac.tb % 2 ^ 64) (a == Reg.PACE_TB_HI))
  else if blk = 4 ∧ die ≤ 11 ∧ 0x4000 ≤ off ∧ off % 16 = 12 then
    some (d.tileStatus (fieldAt die ((off - 0x4000) / 16 / 96)) ((off - 0x4000) / 16 % 96))
  else if blk = 5 ∧ off = 0 then some (dieId die)
  else if blk = 5 ∧ off = 4 then some (dieFeatures die)
  else if blk = 5 ∧ off = 0x34 then some (d.routeWord die false)
  else if blk = 5 ∧ off = 0x38 then some (d.routeWord die true)
  else if blk = 7 ∧ off = 0x100 then
    some (BitVec.ofNat 32 (d.rc.dir.filter (fun e => d.homeOf e.1 == die - 16)).length)
  else none

/-- Words of the blocks 0x08 to 0x0F that the state gives. -/
def Dev.liveMemory (d : Dev) (fz : Fuses) (die blk off a : Nat) : Option Word :=
  let b := die - 16
  if blk = 8 ∧ (off = 0x118 ∨ off = 0x198) then
    let m := 2 * b + (off - 0x118) / 0x80
    some (setBits (d.rdWord a) 0 16 (min (d.hbmHeld m) 0xFFFF))
  else if blk = 8 ∧ 0x2000 ≤ off ∧ off < 0x2800 then
    let o := off - 0x2000
    some (d.trainRead (2 * b + o / 0x400) (o % 0x20 / 16 * 128 + 4 * (o % 0x400 / 0x20) + o % 16 / 4))
  else if blk = 10 ∧ (off = 0xF000 ∨ off = 0xF004) then
    some (half (flagBits 48 (fun j => d.laneState (48 * b + j) == 4)) (off == 0xF004))
  else if blk = 11 ∧ off = 4 then some (BitVec.ofNat 32 d.boot.role)
  else if blk = 11 ∧ off = 0x34 then
    let sel := d.rdWord (Reg.LCH_SLOT_SEL die)
    some (BitVec.ofNat 32 (d.slots.get (slotKey (48 * b + bits sel 8 6) (bits sel 14 1) (bits sel 0 8)) 0))
  else if blk = 11 ∧ 0x140 ≤ off ∧ off < 0x160 then
    some (BitVec.ofNat 32 (leAt (d.link (48 * b + d.get (Reg.LCH_HELLO_RX_SEL_lane die))).hello (off - 0x140) 4))
  else if blk = 11 ∧ 0x1000 ≤ off ∧ off < 0x1C00 ∧ off % 0x40 = 4 then
    let l := d.link (48 * b + (off - 0x1000) / 0x40)
    some (setBits (d.rdWord a) 8 24 l.seq)
  else if blk = 11 ∧ 0x1000 ≤ off ∧ off < 0x1C00 ∧ off % 0x40 = 8 then
    let l := d.link (48 * b + (off - 0x1000) / 0x40)
    some (BitVec.ofNat 32 (l.ackSeq % 2 ^ 24 + l.buf.length % 128 * 2 ^ 24))
  else if a = Reg.CFG_FEATURE_MASK then some deviceFeatures
  else if a = Reg.CFG_STATUS then
    let v := d.rdWord a
    some (setBits (setBits (setBits v 4 1 (if d.doneIn then 1 else 0)) 5 1
      (if d.cfg.errDrive ∨ d.cfg.errHeld then 0 else 1)) 8 1 (if d.cfg.reconf = [] then 0 else 1))
  else if a = Reg.CFG_SERIAL_LO ∨ a = Reg.CFG_SERIAL_HI then some (half fz.serial.toNat (a == Reg.CFG_SERIAL_HI))
  else if blk = 12 ∧ die = 32 ∧ 0x40 ≤ off ∧ off < 0x70 then
    some (BitVec.ofNat 32 (flagBits 32 (fun n => d.reconfiguring (32 * ((off - 0x40) / 4) + n))))
  else if a = Reg.CFG_ISO_DATA then
    let sel := d.rdWord Reg.CFG_ISO_SEL
    some (if 383 < bits sel 0 9 ∨ 12287 < bits sel 9 14 then 0#32
      else BitVec.ofNat 32 (d.fab.isoTab.get (isoKey (bits sel 0 9) (bits sel 9 14)) 0))
  else if blk = 12 ∧ die ≤ 11 ∧ off = 0 then
    let clears := d.cfg.clearing || d.cfg.waiting.any (fun e =>
      decide (0x1000000 ≤ e.1) && (List.range 32).any (fun i => d.cfg.region.getLsbD (fieldAt die i)))
    let busy := clears || d.cfg.waiting.any (fun e => e.1 / 0x100000 == die)
    some ((if busy then 1#32 else 0#32) ||| (if clears then 2#32 else 0#32))
  else if blk = 13 ∧ off = 4 then
    let v := if (d.gleanNext die 0).isNone then setBits (d.rdWord a) 0 1 0 else d.rdWord a
    some (setBits v 1 1 (if d.bacts.any (fun x =>
      match x with
      | .reload fa => frameDie fa == die
      | _ => false) then 1 else 0))
  else if blk = 15 ∧ die ≠ 32 ∧ off = 4 then
    let e := d.errDie (dieIndex die)
    some (BitVec.ofNat 32 (e.fifo.length % 32 + (if e.urgent.isSome then 32 else 0) + e.ovf % 0x10000 * 0x10000))
  else if blk = 15 ∧ die ≠ 32 ∧ off = 12 then some (d.errDie (dieIndex die)).seq
  else if blk = 15 ∧ die ≠ 32 ∧ 0x40 ≤ off ∧ off < 0x80 then
    some (match (d.errDie (dieIndex die)).head with
      | some r => BitVec.ofNat 32 (leAt r.bytes (off - 0x40) 4)
      | none => 0#32)
  else none

/-- Words of the blocks 0x12 to 0x17 and of BAR0 that the state gives. -/
def Dev.livePackage (d : Dev) (fz : Fuses) (a : Nat) : Option Word :=
  if a = Reg.SEC_MBX_WORLD ∨ a = Reg.ID_WORLDS then some (BitVec.ofNat 32 (flagBits 16 fz.mbxSecure))
  else if a = Reg.SEC_STATUS then some (setBits (d.rdWord a) 0 1 (if d.sec.wipes = [] then 0 else 1))
  else if a = Reg.SEC_TAMPER_STATUS then some (setBits (d.rdWord a) 5 1 (if d.sec.tamperPin then 1 else 0))
  else if a = Reg.SEC_POLICY then some (fz.policy.setWidth 32 &&& 1#32)
  else if a = Reg.SEC_KEY_VALID0 then some (BitVec.ofNat 32 (d.keyBits 0 + d.keyBits 1 * 0x10000))
  else if a = Reg.SEC_KEY_VALID1 then some (BitVec.ofNat 32 (d.keyBits 2 + d.keyBits 3 * 0x10000))
  else if Reg.SEC_DEVICE_PUB 0 ≤ a ∧ a < Reg.SEC_DEVICE_PUB 24 then
    some (BitVec.ofNat 32 (leAt fz.identityPub (a - Reg.SEC_DEVICE_PUB 0) 4))
  else if a = Reg.LC_STATE then
    some (BitVec.ofNat 32 (fz.lc + (if d.fuseBusy then 8 else 0) + (if d.pwr.vccFuse then 16 else 0) + d.debugLevel fz * 32))
  else if Reg.LC_REQ 0 ≤ a ∧ a < Reg.LC_REQ 60 then some 0#32
  else if a = Reg.LC_CHALLENGE_CTL then some (setBits (d.rdWord a) 1 1 (if d.challengeValid then 1 else 0))
  else if a = Reg.CLK_PLL_STATUS 32 then
    some ((d.rdWord a &&& 0xFFFFFFFC#32) ||| (if d.pac.osc then 0#32 else 1#32) ||| (if d.host.linkUp then 2#32 else 0#32))
  else if a = Reg.DBG_STATUS then
    some (setBits (setBits (d.rdWord a) 2 1 (if d.dbg.pending.isSome then 1 else 0)) 3 2 (d.debugLevel fz))
  else if a = Reg.ID_STATE then
    some (BitVec.ofNat 32 (d.spState + (if d.halted then 8 else 0) +
      (if d.cfg.errDrive ∨ d.cfg.errHeld then 16 else 0) + (if d.on Reg.CFG_STATUS_design_loaded then 32 else 0) +
      (if d.running then 64 else 0) + fz.lc * 128 + d.boot.role % 4 * 1024 +
      d.get (Reg.LCH_CTL_position 16) * 0x1000 + d.get (Reg.LCH_CTL_pos_valid 16) * 0x80000))
  else if a = Reg.ID_SERIAL_LO ∨ a = Reg.ID_SERIAL_HI then some (half fz.serial.toNat (a == Reg.ID_SERIAL_HI))
  else if a = Reg.ID_FEATURES then some deviceFeatures
  else if Reg.MB_CTL 0 ≤ a ∧ a < Reg.MB_CTL 16 ∧ a % 0x1000 = 0 then
    some (setBits (d.rdWord a) 4 1 (if fz.mbxSecure ((a - Reg.MB_CTL 0) / 0x1000) then 1 else 0))
  else if Reg.MB_CTL 0 ≤ a ∧ a < Reg.MB_CTL 16 ∧ a % 0x1000 = 4 then
    let m := (a - Reg.MB_CTL 0) / 0x1000
    let x := d.mbs.get m {}
    let longs := (x.fetched.filter (fun y => y.long && !y.busy)).length + (if x.job.isSome then 1 else 0)
    let fetching := d.on (Reg.MB_CTL_enable m) && !d.on (Reg.MB_STATUS_error m)
    some (setBits (setBits (d.rdWord a) 0 1 (if fetching then 1 else 0)) 4 3 (min longs 7))
  else if a = Reg.MSIX_PBA 0 ∨ a = Reg.MSIX_PBA 1 then some (half d.host.pendingBits.toNat (a == Reg.MSIX_PBA 1))
  else none

/-- The word a register reads as now. A reserved offset reads 0 (R12). -/
def Dev.liveWord (d : Dev) (fz : Fuses) (a : Nat) : Word :=
  if (findReg a).isNone then 0
  else
    let die := a / 0x1000000
    let blk := a / 0x10000 % 0x100
    let off := a % 0x10000
    let x :=
      if 0x100000000 ≤ a then d.livePackage fz a
      else if blk ≤ 7 then d.liveFabric die blk off a
      else if blk ≤ 15 then d.liveMemory fz die blk off a
      else d.livePackage fz a
    x.getD (d.rdWord a)

/-- The register pairs of R514: kind of die, block, offset of the _LO word, instance strides. -/
def pairRows : List (Nat × Nat × Nat × List (Nat × Nat)) :=
  [(4, 2, 0x18, []), (4, 2, 0x20, []), (4, 2, 0x28, []), (4, 2, 0x30, []), (4, 2, 0x38, []), (4, 2, 0x40, []),
   (4, 2, 0x50, []), (4, 2, 0x68, []), (4, 2, 0x828, []), (4, 0x18, 0x100, []), (4, 0x18, 0x108, []),
   (1, 3, 0x1008, [(64, 32)]), (3, 5, 0x34, []), (1, 5, 0x1000, [(16, 64)])] ++
  [(3, 5, 0x4008, [(128, 67)]), (3, 5, 0x4010, [(128, 67)]), (2, 10, 0x38, [(1024, 48)]), (2, 10, 0xF000, []),
   (2, 11, 0x1020, [(64, 48)]), (2, 11, 0x102C, [(64, 48)]), (4, 12, 0x24, []), (4, 12, 0x2C, []), (4, 15, 0xC, []),
   (4, 15, 0x14, []), (1, 13, 0x28, []), (4, 0x13, 0x50, []), (8, 0, 0x10, []), (8, 0, 0x10008, [(4096, 16)]),
   (8, 0, 0x10020, [(4096, 16)])]

/-- Whether an address is the _LO word of a register pair. -/
def isLo (a : Nat) : Bool :=
  let scope := if a < 0x100000000 then scopeOf (a / 0x1000000) else 8
  let blk := if a < 0x100000000 then a / 0x10000 % 0x100 else 0
  let off := if a < 0x100000000 then a % 0x10000 else a - 0x100000000
  pairRows.any (fun r => decide (scope ≠ 0) && r.1 / scope % 2 == 1 && r.2.1 == blk && decide (r.2.2.1 ≤ off) &&
    dimsMatch (off - r.2.2.1) r.2.2.2)

/-- A read of a register word that all checks have let through (R514): a _LO word latches its _HI word, and the next read of
the _HI word returns and empties the latch. -/
def Dev.regRead (d : Dev) (fz : Fuses) (a : Nat) : Word × Dev :=
  if isLo a then
    (d.liveWord fz a, { d with latch := d.latch.put a (some (d.liveWord fz (a + 4))) none })
  else if decide (4 ≤ a) && isLo (a - 4) then
    match d.latch.get (a - 4) none with
    | some v => (v, { d with latch := d.latch.put (a - 4) none none })
    | none => (d.liveWord fz a, d)
  else (d.liveWord fz a, d)

end Sys2Proof.Machine
end

