-- ==== Sys2Proof/Machine/RegWrite.lean ====
section
/-! DEFINITION. What writes of registers do (R9 to R12, R514, and the rules of each register), once an access has passed its
checks; and the checks themselves (R32, R39, R41, R424, R472). BAR0 is written in Machine/Host.lean. -/

namespace Sys2Proof.Machine

/-- A field's bits after a plain write (Table 0.4): RW takes the value, W1C clears what is 1; the others stay. -/
def FieldSpec.write (f : FieldSpec) (old v : Word) : Word :=
  match f.acc with
  | .rw => setBits old f.lsb f.w (bits v f.lsb f.w)
  | .w1c => old &&& ~~~(v &&& setBits 0 f.lsb f.w (2 ^ f.w - 1))
  | _ => old

/-- The word after a plain write of a register. -/
def RegSpec.write (r : RegSpec) (old v : Word) : Word := r.fields.foldl (fun w f => f.write w v) old

/-- A plain write of a register: its RW and W1C fields; a reserved offset ignores it (R12). -/
def Dev.plainWrite (d : Dev) (a : Nat) (v : Word) : Dev :=
  match findReg a with
  | none => d
  | some r => d.wrWord a (r.write (d.rdWord a) v)

/-- A write's value with reserved and read-only bits taken from the register. -/
def Dev.masked (d : Dev) (a : Nat) (v : Word) : Word :=
  match findReg a with
  | none => d.rdWord a
  | some r => r.write (d.rdWord a) v

/-! ### FAB, PACE and SIO -/

/-- The wave delays that a WDELAY register holds, with their keys 16 f + w (Table 3.6). -/
def wdelayPairs (a : Nat) (w : Word) : List (Nat × Nat) :=
  let die := a / 0x1000000
  let off := a % 0x10000
  let o := (off - 0x1000) % 0x200
  if die ≤ 11 ∧ a / 0x10000 % 0x100 = 1 ∧ 0x1000 ≤ off ∧ off < 0x5000 ∧ 0x10 ≤ o ∧ o < 0x30 then
    let f := fieldAt die ((off - 0x1000) / 0x200)
    let k := (o - 0x10) / 4
    [(16 * f + 2 * k, bits w 0 12), (16 * f + 2 * k + 1, bits w 16 12)]
  else []

/-- Wave delays, margins and trims that were written or found since the last boundary apply (R112 to R114). -/
def Dev.applyDelays (d : Dev) : Dev :=
  let d := { d with
    effDelay := (d.regs.flatMap (fun e => wdelayPairs e.1 e.2)).foldl (fun m p => m.put p.1 p.2 0) []
    effMargin := (List.range 12).foldl (fun m c => m.put c (d.get (Reg.FAB_WAVE_CTL_margin c)) 0) [] }
  let d := each d.trimDue (fun e d => d.set (Reg.FAB_FLD_TRIM_trim (dieOf e.1) (idxOf e.1)) e.2) d
  { d with trimDue := [] }

/-- They apply at once while the design rests (R521). -/
def Dev.applyIfAtRest (d : Dev) : Dev := if d.atRest then d.applyDelays else d

/-- The bits of FAB_BRIDGE_HOLD of a die's directions that have a neighbor (R87). -/
def bridgeHoldMask (c : Nat) : Word :=
  BitVec.ofNat 32 (([0, 1, 2, 3].filter (fun dir => (dieNeighbor c dir).isSome)).foldl (fun x dir => x + 3 * 4 ^ dir) 0)

/-- Writes of the FAB block (R87, R88, R104, R112 to R114). -/
def Dev.wrFab (d : Dev) (die off a : Nat) (v : Word) : Dev :=
  let d := d.plainWrite a (if off = 8 then v &&& bridgeHoldMask die else v)
  if off = 0x108 then (if v.getLsbD 1 then d.set (Reg.FAB_CAL_CTL_cal_now die) 1 else d)
  else if off = 0x11C then d.updateIfAtRest
  else if off = 0x100 then (d.wearDue die).applyIfAtRest
  else if (0x1000 ≤ off ∧ off < 0x5000 ∧ 0x10 ≤ off % 0x200 ∧ off % 0x200 < 0x30) then d.applyIfAtRest
  else d

/-- A write of PACE_TB_CTL.use_ref: kept pending while the timebase runs on the internal oscillator or is on its way there (R129). -/
def Dev.useRef (d : Dev) (v : Word) : Dev :=
  if v.getLsbD 0 ∧ d.on Reg.PACE_STATUS_degraded ∧ d.pwr.tbSwitch ≠ some false then d.set Reg.PACE_TB_CTL_use_ref 1 else d

/-- A write of PACE_COMMITTED: taken while stopped; held synchronous bursts are discarded (R132, R297). -/
def Dev.committedWrite (d : Dev) (a : Nat) (v : Word) : Dev :=
  if d.running then d.paceRefuse else (d.wrWord a v).syncDiscard

/-- Writes of the PACE block. -/
def Dev.wrPace (d : Dev) (off a : Nat) (v : Word) : Dev :=
  if off = 0x800 then (if d.pac.locked then d else d.set Reg.PACE_WAVE_CFG_waves_m1 (bits v 0 4))
  else if 0x900 ≤ off then (if (findReg a).isNone then d else d.ledgerWrite a (d.masked a v))
  else if off = 0x000 then d.paceCtl v
  else if off = 0x004 then d.paceCmd v
  else if off = 0x00C ∨ off = 0x010 then d.writeStopped a v
  else if off = 0x028 ∨ off = 0x02C then d.committedWrite a v
  else if off = 0x058 then d.tbAdjWrite v
  else if off = 0x05C then d.useRef v
  else if off = 0x068 ∨ off = 0x06C then d.resumeWrite a v
  else d.plainWrite a v

/-- Writes of the SIO block (R151). -/
def Dev.wrSio (d : Dev) (off a : Nat) (v : Word) : Dev :=
  if off < 0x100 then (if d.running then d.paceRefuse else d.plainWrite a v) else d.plainWrite a v

/-! ### BIN and MAC -/

/-- Writes of the BIN block (Table 5.5). -/
def Dev.wrBin (d : Dev) (off a : Nat) (v : Word) : Dev :=
  if off % 0x40 = 4 ∧ 0x1000 ≤ off ∧ off < 0x1800 then (if v.getLsbD 0 then d.wrWord (a - 4) 0 else d)
  else d.plainWrite a v

/-- Whether an initiator is the service processor. -/
def Who.isCore (w : Who) : Bool :=
  match w with
  | .core _ => true
  | _ => false

/-- A write of MAC_TILE_CFG (R178, R182). -/
def Dev.macCfgWrite (d : Dev) (w : Who) (f t a : Nat) (v : Word) : Dev :=
  let mode := bits v 0 2
  let x := d.tile f t
  if d.leased f t then
    (if ¬ w.isCore ∨ x.busy ∨ mode = 1 ∨ mode = 2 then d else d.plainWrite a v)
  else if mode = 3 then
    (if w.isCore ∧ d.tileMode f t = 0 ∧ (d.fieldSecure f → d.whoSecure w) then
       (d.plainWrite a v).setTile f t { x with busy := false, faultOut := false }
     else d)
  else if d.running then d
  else d.plainWrite a v

/-- A write of MAC_TILE_AG0 or MAC_TILE_AG1 (R182). -/
def Dev.macAgWrite (d : Dev) (w : Who) (f t a : Nat) (v : Word) : Dev :=
  if d.leased f t then (if w.isCore ∧ ¬ (d.tile f t).busy then d.plainWrite a v else d)
  else if d.running then d
  else d.plainWrite a v

/-- A write of MAC_TILE_STATUS: ovf clears; run starts a halted leased tile (R178, Table 5.8). -/
def Dev.macStatusWrite (d : Dev) (f t : Nat) (v : Word) : Dev :=
  let d := if v.getLsbD 9 then d.setTile f t { d.tile f t with ovf := false } else d
  if v.getLsbD 14 ∧ d.leased f t ∧ ¬ (d.tile f t).busy then d.tileStart f t else d

/-- Writes of the MAC block. -/
def Dev.wrMac (d : Dev) (w : Who) (die off a : Nat) (v : Word) : Dev :=
  if off < 0x4000 then d
  else
    let n := (off - 0x4000) / 16
    let f := fieldAt die (n / 96)
    if off % 16 = 0 then d.macCfgWrite w f (n % 96) a v
    else if off % 16 = 12 then d.macStatusWrite f (n % 96) v
    else if off % 4 = 0 then d.macAgWrite w f (n % 96) a v
    else d

/-! ### NOC, D2D and RCACHE -/

/-- Writes of the NOC block (R193, R200, R220): dock registers are taken while the pacer is stopped; write combining exists
on a die of stepping B1. NOC_STAT_EDGE7 has one edge only. Base dies B1 to B3 hold the sets of NI 19 and 20 too, which count nothing there
(DESIGN CHOICE, log entry 84). -/
def Dev.wrNoc (d : Dev) (die off a : Nat) (v : Word) : Dev :=
  if off = 0x24 then (if v.getLsbD 0 then d.wrWord (Reg.NOC_ERRCNT die) 0 else d)
  else if off = 0x34 then d.routeLo die v
  else if off = 0x38 then (d.plainWrite a v).routeCommit die v
  else if 0x1000 ≤ off ∧ off < 0x1400 ∧ die ≤ 11 then
    (if d.running then d
     else if off % 16 = 12 ∧ Config.stepping die = 0xB0 then d.plainWrite a (v &&& 0xFFEFFFFF#32)
     else d.plainWrite a v)
  else if 0x4000 ≤ off ∧ off % 0x80 = 0 then
    let d := d.plainWrite a v
    if v.getLsbD 1 ∧ (findReg a).isSome then d.statClear die ((off - 0x4000) / 0x80) else d
  else if 0x4000 ≤ off ∧ off % 0x80 = 0x3C then d.plainWrite a (v &&& 0xFFFF#32)
  else d.plainWrite a v

/-- Writes of the D2D block (R204, R221). -/
def Dev.wrD2d (d : Dev) (die off a : Nat) (v : Word) : Dev :=
  if off = 0x00 ∨ off = 0x40 then
    let d := d.plainWrite a v
    if v.getLsbD 4 then d.latRetrain (die - 16) (off / 0x40) else d
  else if off = 0x10 ∨ off = 0x50 then (if v.getLsbD 0 then d.wrWord (a - 4) 0 else d)
  else d.plainWrite a v

/-! ### HBM and MEMSEC -/

/-- A write of a timing set (R233): the active set of a stack that is not OFF refuses it. -/
def Dev.tsetWrite (d : Dev) (sel s t a : Nat) (v : Word) : Dev :=
  if d.get (Reg.HBM_STK_STATUS_state sel s) ≠ 0 ∧ d.get (Reg.HBM_STK_STATUS_active_set sel s) = t then
    d.set (Reg.HBM_STK_CMD_cmd_refused sel s) 1
  else d.plainWrite a v

/-- Writes of the HBM block (R225, R230, R232, R233, R249). -/
def Dev.wrHbm (d : Dev) (die off a : Nat) (v : Word) : Dev :=
  let b := die - 16
  if off = 0 then (if d.on (Reg.HBM_MAP_CTL_lock die) then d else d.set (Reg.HBM_MAP_CTL_order die) (bits v 0 2))
  else if off = 4 then (if v.getLsbD 0 then d.hbmStart b else d)
  else if off = 0x104 ∨ off = 0x184 then d.stackCmd (2 * b + (off - 0x104) / 0x80) v
  else if off = 0x10C ∨ off = 0x18C then (if v.getLsbD 0 then d.wrWord (a - 4) 0 else d)
  else if 0x400 ≤ off ∧ off < 0x600 ∧ (findReg a).isSome then
    d.tsetWrite die ((off - 0x400) / 0x100) (off % 0x100 / 0x40) a v
  else d.plainWrite a v

/-- A write of MEMSEC_RGN_CTL: the key slot of an INACTIVE region, init and close (R241, R242). -/
def Dev.rgnCtl (d : Dev) (m r : Nat) (v : Word) : Dev :=
  let d := if d.rgnState m r = 0 then d.set (Reg.MEMSEC_RGN_CTL_key_slot (stackSel m) (m % 2) r) (bits v 0 4) else d
  let d := if v.getLsbD 4 then d.rgnInit m r else d
  if v.getLsbD 5 then d.rgnClose m r else d

/-- Writes of the MEMSEC block (R240 to R242, R250): range and key slot belong to a region that is INACTIVE. -/
def Dev.wrMemsec (d : Dev) (die off a : Nat) (v : Word) : Dev :=
  let m := 2 * (die - 16) + off / 0x1000
  let o := off % 0x1000
  if 0x2000 ≤ off then d
  else if o = 0 then d.memsecEnable m v
  else if 0x100 ≤ o ∧ o < 0x140 then
    let r := (o - 0x100) / 0x10
    if o % 0x10 = 0 then (if d.rgnState m r = 0 then d.plainWrite a v else d)
    else if o % 0x10 = 4 then d.rgnCtl m r v
    else d.plainWrite a v
  else d.plainWrite a v

/-! ### LANE and LCH -/

/-- Writes of the LANE block (R252, R269, R273 to R275). -/
def Dev.wrLane (d : Dev) (die off a : Nat) (v : Word) : Dev :=
  let b := die - 16
  if off < 0xC000 then
    let n := 48 * b + off / 0x400
    let o := off % 0x400
    if o = 0 then d.laneCtl n v
    else if o = 8 then d.txFir n v
    else if o = 0x24 then (if v.getLsbD 0 then d.laneCntClr n else d)
    else if o = 0x30 then d.prbsCtl n v
    else if o = 0x40 then d.eyeCtl n v
    else d.plainWrite a v
  else if off < 0xC0C0 ∧ off % 0x40 = 0 then d.bankCtl (3 * b + (off - 0xC000) / 0x40) v
  else d.plainWrite a v

/-- A write of LCH_CTL (R311, R316): position and pos_valid until the lock, and the lock. -/
def Dev.lchCtl (d : Dev) (die : Nat) (v : Word) : Dev :=
  let d :=
    if d.on (Reg.LCH_CTL_lock die) then d
    else (d.set (Reg.LCH_CTL_position die) (bits v 0 7)).set (Reg.LCH_CTL_pos_valid die) (bits v 7 1)
  if v.getLsbD 31 then d.set (Reg.LCH_CTL_lock die) 1 else d

/-- A write of LCH_TMARK_CTL (R306): send marks the next DATA frame; a write of 1 clears a latch's flag. -/
def Dev.tmarkCtl (d : Dev) (n a : Nat) (v : Word) : Dev :=
  let d := d.plainWrite a v
  if v.getLsbD 0 then
    (d.setLink n { d.link n with tmarkDue := true }).set (Reg.LCH_TMARK_CTL_send (laneSel n) (laneJ n)) 1
  else d

/-- Writes of the LCH block (R281, R291, R294, R306, R316). -/
def Dev.wrLch (d : Dev) (die off a : Nat) (v : Word) : Dev :=
  let b := die - 16
  if off = 0 then d.lchCtl die v
  else if off = 0x14 then
    let d := d.plainWrite a v
    let d := if v.getLsbD 1 then d.ctxWrite b else d
    if v.getLsbD 0 then d.ctxRead b else d
  else if off = 0x18 then d.plainWrite a ((d.rdWord a &&& 0x10#32) ||| (v &&& ctxMask0))
  else if off = 0x20 then d.plainWrite a (v &&& ctxMask2)
  else if off = 0x24 then d
  else if off = 0x34 then d.slotWrite b v
  else if 0x1000 ≤ off ∧ off < 0x1C00 then
    let n := 48 * b + (off - 0x1000) / 0x40
    let o := off % 0x40
    if o = 0 then d.linkCfg n v
    else if o = 0x10 then d.linkSyncWrite n v
    else if o = 0x14 then (if v.getLsbD 0 then d.wrWord (a - 8) 0 else d)
    else if o = 0x18 then d.tmarkCtl n a v
    else d.plainWrite a v
  else d.plainWrite a v

/-! ### GLEAN, ERR, PWR, CLK and TEL -/

/-- A write of GLEAN_CTL: golden_en changes only while no design is loaded (R364). -/
def Dev.gleanCtl (d : Dev) (die : Nat) (v : Word) : Dev :=
  let d := (d.set (Reg.GLEAN_CTL_pause die) (bits v 0 1)).set (Reg.GLEAN_CTL_ue_freeze die) (bits v 2 1)
  if d.get (Reg.GLEAN_CTL_golden_en die) = bits v 1 1 then d
  else if d.on Reg.CFG_STATUS_design_loaded then d.set (Reg.GLEAN_STATUS_cmd_refused die) 1
  else d.set (Reg.GLEAN_CTL_golden_en die) (bits v 1 1)

/-- A write of GLEAN_UNFREEZE (R368, R521): each bit that names a frozen field releases it at the next boundary. -/
def Dev.gleanUnfreeze (d : Dev) (die : Nat) (v : Word) : Dev :=
  each (List.range 32) (fun i d =>
    if v.getLsbD i ∧ d.frozen (fieldAt die i) then
      (d.setBit (Reg.GLEAN_UNFREEZE_release die) i true).actOrQueue (.unfreeze (fieldAt die i))
    else d) d

/-- Writes of the GLEAN block (R364, R368). -/
def Dev.wrGlean (d : Dev) (die off a : Nat) (v : Word) : Dev :=
  if off = 0 then d.gleanCtl die v
  else if off = 0x24 then d.gleanUnfreeze die v
  else if off = 0x28 ∨ off = 0x2C then
    (if d.on Reg.CFG_STATUS_design_loaded then d.set (Reg.GLEAN_STATUS_cmd_refused die) 1 else d.plainWrite a v)
  else if off = 0x18 then (d.plainWrite a v).leakFrom (dieIndex die) 4
  else d.plainWrite a v

/-- A write of ERR_HALT_CLR (R388): the latched cause goes, halted stays. -/
def Dev.haltClr (d : Dev) : Dev :=
  let h := d.get Reg.ERR_HALT_STATUS_halted
  ((d.clearRegs Reg.ERR_HALT_STATUS Reg.ERR_HALT_CLR).set Reg.ERR_HALT_STATUS_halted h)

/-- Writes of the ERR block (R383, R388, R389). -/
def Dev.wrErr (d : Dev) (die off a : Nat) (v : Word) : Dev :=
  if die = 32 then (if off = 0x1C then (if v.getLsbD 0 then d.haltClr else d) else d.plainWrite a v)
  else if off = 8 then
    (if v.getLsbD 0 then { d with errs := d.errs.put (dieIndex die) (d.errDie (dieIndex die)).pop {} } else d)
  else if 0x100 ≤ off ∧ off < 0x200 ∧ off % 0x40 = 0x18 then (d.plainWrite a v).leakFrom (dieIndex die) ((off - 0x100) / 0x40)
  else d.plainWrite a v

/-- A write of PWR_FLD_RESET (R473): each bit that is 1 resets its field at the next boundary. -/
def Dev.fldResetWrite (d : Dev) (die : Nat) (v : Word) : Dev :=
  each (List.range 32) (fun i d =>
    if v.getLsbD i then
      (d.setBit (Reg.PWR_FLD_RESET_reset die) i true).actOrQueue (.fieldReset (fieldAt die i))
    else d) d

/-- Writes of a die's PWR block (R454, R473, R477). -/
def Dev.wrDiePwr (d : Dev) (die off a : Nat) (v : Word) : Dev :=
  if off = 8 then (if die ≤ 11 then d.set (Reg.PWR_VSET_mv die) (min (max (bits v 0 10) 600) 900) else d)
  else if off = 0x14 then d.retCtl die v
  else if off = 0x1C then (if die ≤ 11 then d.fldResetWrite die v else d)
  else if off = 0x20 then (if die ≤ 11 then ((d.plainWrite a v).wearDue die).applyIfAtRest else d.plainWrite a v)
  else d.plainWrite a v

/-- Writes of the package PWR block (R447, R471, R476). -/
def Dev.wrPkgPwr (d : Dev) (off a : Nat) (v : Word) : Dev :=
  if off = 0x10 then (if v.getLsbD 0 then d.startGo else d)
  else if off = 0x14 then d.dieResetWrite v
  else if 0x20 ≤ off ∧ off < 0x50 then
    (if d.pwr.went then d.set Reg.PWR_STATUS_cmd_refused 1 else d.plainWrite a v)
  else d.plainWrite a v

/-- Writes of the CLK block (R463, R464). -/
def Dev.wrClk (d : Dev) (die off a : Nat) (v : Word) : Dev :=
  if off = 0 then d.clkGate die v
  else if a = Reg.CLK_CLKOUT_CTL then d.clkoutCtl v
  else d.plainWrite a v

/-! ### SEC, LC, SP and DBG -/

/-- Writes of the SEC block (R425, R426, R429, R438). -/
def Dev.wrSec (d : Dev) (fz : Fuses) (w : Who) (off a : Nat) (v : Word) : Dev :=
  if off < 0x30 then d.fieldWorldWrite (off / 4) v
  else if 0x40 ≤ off ∧ off < 0x50 then d.granWorldWrite ((off - 0x40) / 4) v
  else if off = 0x50 then d.hbmWorldWrite false v
  else if off = 0x54 then d.hbmWorldWrite true v
  else if off = 0x58 then d.pageWorldWrite v
  else if off = 0x60 then (if v.getLsbD 0 then d.set Reg.SEC_LOCK_lock 1 else d)
  else if off = 0x68 then d.tamperEn fz v
  else if off = 0x90 then
    let d := d.set Reg.SEC_UNWRAP_CTL_offset (bits v 0 20)
    let d := if v.getLsbD 21 then d.unwrapClear else d
    if v.getLsbD 20 then d.unwrapGo w else d
  else d.plainWrite a v

/-- Writes of the LC block (R432, R433, R439). -/
def Dev.wrLc (d : Dev) (fz : Fuses) (off a : Nat) (v : Word) : Dev :=
  if off = 0x20 then (if v.getLsbD 0 then d.challengeNew else d)
  else if 0x100 ≤ off ∧ off < 0x1F0 then (if (findReg a).isSome then d.wrWord a v else d)
  else if off = 0x200 then (if v.getLsbD 0 then d.lcGo fz d.pwr.vccFuse else d)
  else d.plainWrite a v

/-- The core whose own store a write is. -/
def Who.isCoreNum (w : Who) (c : Nat) : Bool :=
  match w with
  | .core x => x.val == c
  | _ => false

/-- Writes of the SP block (R489, R492, R495, R497, R498): a core's mark registers take only its own stores. -/
def Dev.wrSp (d : Dev) (w : Who) (off a : Nat) (v : Word) : Dev :=
  if off = 0 then d.freezeWrite v
  else if off = 0xC then (if v.getLsbD 0 then d.wdtKick else d)
  else if 0x1000 ≤ off ∧ off < 0x2000 then
    let c := (off - 0x1000) / 0x400
    let o := off % 0x400
    if o = 0 then d.coreDbgCtl c v
    else if o = 0x200 then (if w.isCoreNum c then d.plainWrite a v else d)
    else if o = 0x204 then (if w.isCoreNum c then d.traceMark c 4 v (d.core c).pc else d)
    else d.plainWrite a v
  else d.plainWrite a v

/-- Writes of the DBG block (R496, R499). -/
def Dev.wrDbg (d : Dev) (off a : Nat) (v : Word) : Dev :=
  if off = 0x10 then d.traceCtl v else d.plainWrite a v

/-! ### One write -/

/-- A write of a register-space word that all checks have let through. -/
def Dev.regWrite (d : Dev) (fz : Fuses) (w : Who) (a : Nat) (v : Word) : Dev :=
  let die := a / 0x1000000
  let off := a % 0x10000
  match a / 0x10000 % 0x100 with
  | 0x01 => d.wrFab die off a v
  | 0x02 => d.wrPace off a v
  | 0x03 => d.wrBin off a v
  | 0x04 => d.wrMac w die off a v
  | 0x05 => d.wrNoc die off a v
  | 0x06 => d.wrD2d die off a v
  | 0x07 => if off = 0 ∧ die ≤ 11 then d.rcacheCtl die v else d.plainWrite a v
  | 0x08 => d.wrHbm die off a v
  | 0x09 => d.wrMemsec die off a v
  | 0x0A => d.wrLane die off a v
  | 0x0B => d.wrLch die off a v
  | 0x0C => if a = Reg.CFG_CTL then d.cfgCtl v else d.plainWrite a v
  | 0x0D => d.wrGlean die off a v
  | 0x0F => d.wrErr die off a v
  | 0x10 => let d := d.plainWrite a v; if a = Reg.TEL_ALERT_CTL then d.alertCheck else d
  | 0x11 => if die = 32 then d.wrPkgPwr off a v else d.wrDiePwr die off a v
  | 0x12 => d.wrClk die off a v
  | 0x13 => d.wrSec fz w off a v
  | 0x14 => d.wrLc fz off a v
  | 0x16 => d.wrSp w off a v
  | 0x17 => d.wrDbg off a v
  | 0x18 => d.wrSio off a v
  | _ => d.plainWrite a v

/-! ### The checks of an access -/

/-- Whether an initiator lies in the package's domain and needs B0's routers for every access beyond the package blocks
(R472). -/
def Who.inPackage (w : Who) : Bool :=
  match w with
  | .host => true
  | .core _ => true
  | .dma _ => true
  | .debug _ => true
  | .cfg => true
  | _ => false

/-- Where the blocks of Table 1.7 are present: block id, kinds of die. -/
def blockScopes : List (Nat × Nat) :=
  [(1, 1), (2, 4), (3, 1), (4, 1), (5, 3), (6, 2), (7, 3), (8, 2), (9, 2), (10, 2), (11, 2), (12, 5), (13, 1)] ++
  [(14, 2), (15, 7), (16, 7), (17, 7), (18, 7), (19, 4), (20, 4), (21, 4), (22, 4), (23, 4), (24, 4), (25, 4)]

/-- Whether a register-space address names a block that is present (R38, R39). -/
def blockPresent (a : Nat) : Bool :=
  let s := scopeOf (a / 0x1000000)
  decide (s ≠ 0) && blockScopes.any (fun r => r.1 == a / 0x10000 % 0x100 && r.2 / s % 2 == 1)

/-- The field whose probe taps or MAC tiles a register belongs to: they take the field's world (Table 13.2 kind 0; DEDUCED, log entry
163). -/
def fieldReg (a : Nat) : Option Nat :=
  let die := a / 0x1000000
  let blk := a / 0x10000 % 0x100
  let off := a % 0x10000
  if 11 < die then none
  else if blk = 1 ∧ 0x1000 ≤ off ∧ off < 0x5000 ∧ 0x100 ≤ off % 0x200 then some (fieldAt die ((off - 0x1000) / 0x200))
  else if blk = 4 ∧ 0x4000 ≤ off then some (fieldAt die ((off - 0x4000) / 16 / 96))
  else none

/-- Whether an access from a world may reach a register (R422, R424, R439, R489): core 0's debug registers are secure whatever
the SP page is, and the LC registers take either world. -/
def Dev.regAllowed (d : Dev) (a : Nat) (secure : Bool) : Bool :=
  secure || !((a / 0x10000 == 0x2016 && decide (0x1000 ≤ a % 0x10000) && decide (a % 0x10000 < 0x1400)) ||
    (match fieldReg a with | some f => d.fieldSecure f | none => false) || d.placeSecure (0x6000000000 + a) (.reg a))

/-- The order of the checks of a register access: B0 held (R472), decoding (R32, R39), world (R424), the die held (R41).
`inl true` is a bus error, `inl false` an access to a held die. A non-secure access to a secure page of a held die meets R41 (zeros, no
record) and R424 (bus error, record): its world is checked first (DESIGN CHOICE, log entry 142). -/
def Dev.regGate (d : Dev) (w : Who) (a : Nat) : Option Bool × Dev :=
  let die := a / 0x1000000
  if w.inPackage ∧ die ≠ 32 ∧ d.heldDie 16 then (some true, d)
  else if ¬ blockPresent a then (some true, d.addrDecode w (0x6000000000 + a))
  else if ¬ d.regAllowed a (d.whoSecure w) then (some true, d.worldFault (0x6000000000 + a) (d.whoSecure w))
  else if d.heldDie die then (some false, d)
  else (none, d)

/-- A write of a register-space word by an initiator: false is a bus error. -/
def Dev.regAccessWrite (d : Dev) (fz : Fuses) (w : Who) (a : Nat) (v : Word) : Bool × Dev :=
  match d.regGate w a with
  | (some e, d) => (!e, d)
  | (none, d) => (true, d.regWrite fz w (a / 4 * 4) v)

/-- A read of a register-space word by an initiator: none is a bus error. -/
def Dev.regAccessRead (d : Dev) (fz : Fuses) (w : Who) (a : Nat) : Option Word × Dev :=
  match d.regGate w a with
  | (some true, d) => (none, d)
  | (some false, d) => (some 0, d)
  | (none, d) =>
    let r := d.regRead fz (a / 4 * 4)
    (some r.1, r.2)

end Sys2Proof.Machine
end

