-- ==== Sys2Proof/Machine/MemBus.lean ====
section
/-! DEFINITION. Accesses to the physical address map (R31 to R41): the order of their checks, what serves each range, and
what keeps an access waiting. An access here lies within one 64-byte block (R188); longer ones are split (busReadN,
busWriteN). -/

namespace Sys2Proof.Machine

/-! ### Frames in the configuration frame window (R35, R120 to R122, R330, R331, R357) -/

/-- The address of tile register 0, 1 or 2 (MAC_TILE_CFG, _AG0, _AG1) of tile t of a field. -/
def tileReg (f t k : Nat) : Nat := dieOf f * 0x1000000 + 0x44000 + tileNum f t * 16 + 4 * k

/-- One byte of the frame of control words of a field's bins, and of that of its tiles' registers. -/
def Dev.binCtlByte (d : Dev) (f off : Nat) : Byte :=
  if off < 192 then BitVec.ofNat 8 (d.binWord f (off / 4) / 256 ^ (off % 4)) else 0
def Dev.tileRegByte (d : Dev) (f off : Nat) : Byte :=
  if off < 1536 ∧ off % 16 < 12 then
    BitVec.ofNat 8 ((d.rdWord (tileReg f (off / 16) (off % 16 / 4))).toNat / 256 ^ (off % 4))
  else 0

/-- The index j of a bin or tile content frame: 64 × stook column + minor (R329). -/
def frameIdx (fa : Nat) : Nat := fa / 16 % 2048

/-- The stook and the byte in its row of byte `off` of a state-capture frame (R121). -/
def captureStook (fa off : Nat) : Nat × Nat := (stook (frameField fa) (fa / 1024 % 32) (off / 128), off % 128)

/-- Part of a frame read through the window. -/
def Dev.frameRead (d : Dev) (fa off n : Nat) : Option (List Byte) × Dev :=
  let f := frameField fa
  let j := frameIdx fa
  match fa % 16 with
  | 0 => d.logicRead fa off n
  | 1 =>
    if j < 192 then d.binNetRead f (j / 4) (4096 * (j % 4) + off) n
    else (some ((List.range n).map (fun i => d.binCtlByte f (off + i))), d)
  | 2 =>
    if j < 30 then d.tileNetRead f ((4096 * j + off) / 0x500) ((4096 * j + off) % 0x500) n
    else (some ((List.range n).map (fun i => d.tileRegByte f (off + i))), d)
  | _ =>
    (some ((List.range n).map (fun i =>
      BitVec.ofNat 8 (d.captureByte (captureStook fa (off + i)).1 (fa / 16 % 64) (captureStook fa (off + i)).2))), d)

/-- Part of a logic frame written through the window: the frame is merged, and stays uncorrectable where it was so. -/
def Dev.logicMerge (d : Dev) (fa off : Nat) (l : List (Byte × Bool)) : Dev :=
  let m := d.mark (frameBase fa)
  let old := asStored (d.mem.readBytes (frameBase fa) 4096) (if m.bad then m else {})
  let new := patch old off (List.zipWith (fun (o : Byte) (x : Byte × Bool) => if x.2 then x.1 else o) (slice old off l.length) l)
  let d := d.logicWrite fa new
  if m.bad then d.setMark (frameBase fa) { poison := true } else d

/-- The 32-bit words that masked bytes at an offset cover wholly, by offset. -/
def wordsOf (off : Nat) (l : List (Byte × Bool)) : List (Nat × Word) :=
  ((List.range (l.length / 4 + 2)).map (fun i => (off / 4 + i) * 4)).filterMap (fun o =>
    let b := (List.range 4).map (fun j => if off ≤ o + j then l.getD (o + j - off) (0, false) else (0, false))
    if b.all (fun x => x.2) then some (o, BitVec.ofNat 32 (ofBytes (b.map (fun x => x.1)))) else none)

/-- Part of a frame written through the window. Tile registers in it are written as registers are (DEDUCED, log entry 46). -/
def Dev.frameWrite (d : Dev) (w : Who) (fa off : Nat) (l : List (Byte × Bool)) : Dev :=
  let f := frameField fa
  let j := frameIdx fa
  match fa % 16 with
  | 0 => d.logicMerge fa off l
  | 1 =>
    if j < 192 then d.binNetWrite f (j / 4) (4096 * (j % 4) + off) l
    else each (wordsOf off l) (fun e d => if e.1 < 192 then d.setBinWord f (e.1 / 4) e.2 else d) d
  | 2 =>
    if j < 30 then d.tileNetWrite f ((4096 * j + off) / 0x500) ((4096 * j + off) % 0x500) l
    else
      each (wordsOf off l) (fun e d =>
        if 1536 ≤ e.1 then d
        else if e.1 % 16 = 0 then d.macCfgWrite w f (e.1 / 16) (tileReg f (e.1 / 16) 0) e.2
        else if e.1 % 16 < 12 then d.macAgWrite w f (e.1 / 16) (tileReg f (e.1 / 16) (e.1 % 16 / 4)) e.2
        else d) d
  | _ =>
    (l.zipIdx).foldl (fun (d : Dev) e =>
      if e.1.2 then d.captureWrite (captureStook fa (off + e.2)).1 (fa / 16 % 64) (captureStook fa (off + e.2)).2 e.1.1.toNat
      else d) d

/-! ### What keeps an access from being served -/

/-- The field that holds what an address names. -/
def Place.field (p : Place) : Option Nat :=
  match p with
  | .bin f _ _ => some f
  | .tile f _ _ => some f
  | .frame fa _ => some (frameField fa)
  | _ => none

/-- The die selector of what an address names, where it lies on a logic die. -/
def Place.die (d : Dev) (a : Nat) (p : Place) : Option Nat :=
  match p with
  | .hbm => some (stackSel (hbmSplit d.hbmOrder a).1)
  | .gran b _ => some (baseSel b)
  | .reg r => if r / 0x1000000 = 32 then none else some (r / 0x1000000)
  | .sp _ => none
  | p => p.field.map dieOf

/-- Whether an access is served only at a design-cycle boundary (R120, R163): the pacer runs, not resting, and it names a bin or
tile of a field that takes part, one of their content frames, or a state-capture frame. -/
def Dev.boundaryBound (d : Dev) (p : Place) : Bool :=
  !d.atRest &&
    (match p with
     | .bin f _ _ => d.part f
     | .tile f t _ => d.part f && !d.leased f t
     | .frame fa _ =>
       (match fa % 16 with
        | 0 => false
        | 3 => true
        | _ => d.part (frameField fa))
     | _ => false)

/-- Whether an access meets a field that is being reconfigured, where reads return 0 and writes are ignored (R120, R163);
a leased tile is reached all the same (R178). -/
def Dev.blind (d : Dev) (p : Place) : Bool :=
  match p with
  | .bin f _ _ => d.reconfiguring f
  | .tile f t _ => d.reconfiguring f && !d.leased f t
  | .frame fa _ => decide (fa % 16 ≠ 0) && d.reconfiguring (frameField fa)
  | _ => false

/-- The memory in retention, or waking, that an access meets (R455). -/
def Place.sleeper (p : Place) : Option Nat :=
  match p with
  | .bin f _ _ => some f
  | .frame fa _ => if fa % 16 = 1 ∧ frameIdx fa < 192 then some (frameField fa) else none
  | .gran b off => some (retGran b (off / 0x180000))
  | _ => none

/-- What the checks before an access say (R32, R472, R424, R214, R206, R436, R425, R455, R120, R163): its place, an answer, or
nothing for an access to a held compute die. -/
inductive Gate where
  | serve (p : Place)
  | held
  | answer (r : BusRes)
  deriving DecidableEq, Repr

/-- When a target serves an access: when it arrives, again after it has waited, or at a boundary for which it has waited. -/
inductive Turn where
  | first
  | again
  | boundary
  deriving DecidableEq, Repr

/-- Whether an access to what an address names lacks the world for it (R424). -/
def Dev.worldBad (d : Dev) (secure : Bool) (a : Nat) : Bool :=
  !secure && (match placeOf a with
    | some p => d.placeSecure a p
    | none => false)

/-- The checks of an access to anything but a register, in order. The world is checked at decode, when the access arrives, and an
access that has waited completes under the world that it was decoded with (R424). -/
def Dev.busGate (d : Dev) (w : Who) (a : Nat) (t : Turn) : Gate × Dev :=
  match placeOf a with
  | none => (.answer .err, if w.inPackage ∧ d.heldDie 16 then d else d.addrDecode w a)
  | some p =>
    let inPkg : Bool := match p with
      | .sp _ => true
      | _ => false
    if w.inPackage ∧ !inPkg ∧ d.heldDie 16 then (.answer .err, d)
    else if t = .first ∧ d.worldBad (d.whoSecure w) a then (.answer .err, d.worldFault a false)
    else
      let heldAt : Bool := match p.die d a with
        | some s => d.heldDie s
        | none => false
      if heldAt then (if p.field.isSome then (.held, d) else (.answer .err, d))
      else
        match d.wipeGate a p with
        | some true => (.answer .err, d)
        | some false => (.answer .wait, d)
        | none =>
          let zeroing : Bool := match p with
            | .gran b off => decide (16 * b + off / 0x180000 ∈ d.sec.zeroing)
            | _ => false
          if zeroing then (.answer .wait, d)
          else
            match p.sleeper with
            | some u =>
              if d.asleep u then (.answer .wait, d.wake u)
              else if t ≠ .boundary ∧ d.boundaryBound p then (.answer .wait, d) else (.serve p, d)
            | none => if t ≠ .boundary ∧ d.boundaryBound p then (.answer .wait, d) else (.serve p, d)

/-- A list of bytes as an answer; none is a bus error. -/
def answerOf (r : Option (List Byte) × Dev) : BusRes × Dev :=
  match r with
  | (some l, d) => (.ok l, d)
  | (none, d) => (.err, d)

/-- Bytes read from the registers at a register-space address: the words they lie in, each with its own checks. -/
def Dev.regsRead (d : Dev) (fz : Fuses) (w : Who) (r n : Nat) : BusRes × Dev :=
  let words := (List.range (n / 4 + 2)).map (fun i => (r / 4 + i) * 4) |>.filter (fun x => decide (x < r + n))
  let res := words.foldl (fun (x : Option (List Byte) × Dev) o =>
    match x.2.regAccessRead fz w o with
    | (some v, d) => (x.1.map (fun l => l ++ toBytes v.toNat 4), d)
    | (none, d) => (none, d)) (some [], d)
  answerOf (res.1.map (fun l => (l.drop (r % 4)).take n), res.2)

/-- Bytes written to registers: the words that they cover wholly (R37 has software write whole words). -/
def Dev.regsWrite (d : Dev) (fz : Fuses) (w : Who) (r : Nat) (l : List (Byte × Bool)) : BusRes × Dev :=
  let res := (wordsOf r l).foldl (fun (x : Bool × Dev) e =>
    let y := x.2.regAccessWrite fz w e.1 e.2
    (x.1 && y.1, y.2)) (true, d)
  (if res.1 then .ok [] else .err, res.2)

/-- The address of the first check unit that an access of a place reads (Table 11.1, R237): a burst of HBM, a 64-bit word of
the granary or of a bin, a word of a tile, a logic frame. -/
def Place.unitAt (p : Place) (a : Nat) : Option Nat :=
  match p with
  | .hbm => some (a / 32 * 32)
  | .gran _ _ => some (a / 8 * 8)
  | .bin _ _ _ => some (a / 8 * 8)
  | .tile f t off => some (tileBase f t + (if off < 0x100 then off / 4 * 4 else off / 2 * 2))
  | .frame fa _ => if fa % 16 = 0 then some (frameBase fa) else none
  | .reg _ => none
  | .sp _ => none

/-- Stored bits that have flipped before an access reads them, and on-die corrections that a stack reports
(HBM_STK_ERRCNT.ondie). -/
def Dev.upsetAt (d : Dev) (p : Place) (a : Nat) (u : Upset) : Dev :=
  let d :=
    if u.flips = [] then d
    else
      match p.unitAt a with
      | some b => d.setMark b { d.mark b with flips := toggleAll (d.mark b).flips u.flips }
      | none => d
  if u.ondie = 0 then d
  else
    match p with
    | .hbm =>
      let m := (hbmSplit d.hbmOrder a).1
      d.bump (Reg.HBM_STK_ERRCNT_ondie (stackSel m) (m % 2)) u.ondie
    | _ => d

/-- A read of up to 64 bytes within one 64-byte block; `u` says what became of the stored bits. -/
def Dev.busRead (d : Dev) (fz : Fuses) (w : Who) (a n : Nat) (u : Upset := {}) (t : Turn := .first) : BusRes × Dev :=
  match placeOf a with
  | some (.reg r) => d.regsRead fz w r n
  | _ =>
    match d.busGate w a t with
    | (.answer r, d) => (r, d)
    | (.held, d) => (.ok (List.replicate n 0), d)
    | (.serve p, d) =>
      if d.blind p then (.ok (List.replicate n 0), d)
      else
        let d := d.upsetAt p a u
        match p with
        | .hbm => d.hbmRead a n u
        | .gran _ _ => answerOf (d.granRead a n)
        | .bin f k off => answerOf (d.binNetRead f k off n)
        | .tile f t off => answerOf (d.tileNetRead f t off n)
        | .frame fa off => answerOf (d.frameRead fa off n)
        | .sp off => (.ok (d.mem.readBytes (0x7000000000 + off) n), d)
        | .reg _ => (.err, d)

/-- A write of masked bytes within one 64-byte block; `c` is the compute die of a writing remote cache. -/
def Dev.busWrite (d : Dev) (fz : Fuses) (w : Who) (a : Nat) (l : List (Byte × Bool)) (u : Upset := {}) (t : Turn := .first)
    (c : Option Nat := none) : BusRes × Dev :=
  match placeOf a with
  | some (.reg r) => d.regsWrite fz w r l
  | _ =>
    match d.busGate w a t with
    | (.answer r, d) => (r, d)
    | (.held, d) => (.ok [], d)
    | (.serve pl, d) =>
      if d.blind pl then (.ok [], d)
      else
        let d := d.upsetAt pl a u
        match pl with
        | .hbm =>
          (match d.dirWrite a c with
           | (false, d) => (.wait, d)
           | (true, d) => d.hbmWrite a l u)
        | .gran _ _ =>
          (match d.dirWrite a c with
           | (false, d) => (.wait, d)
           | (true, d) => (.ok [], d.granWrite a l))
        | .bin f k off => (.ok [], d.binNetWrite f k off l)
        | .tile f t off => (.ok [], d.tileNetWrite f t off l)
        | .frame fa off => (.ok [], d.frameWrite w fa off l)
        | .sp off => (.ok [], { d with mem := d.mem.writeMasked (0x7000000000 + off) l })
        | .reg _ => (.err, d)

/-- The 64-byte blocks of a range: place and size of each piece. -/
def pieces (a : Nat) : Nat → Nat → List (Nat × Nat)
  | 0, _ => []
  | _ + 1, 0 => []
  | fuel + 1, n =>
    let k := min n (64 - a % 64)
    (a, k) :: pieces (a + k) fuel (n - k)

/-- The statistics set of an initiator that the package's units stand for (R200), as die selector and number: the service processor and
its DMA engine 19, the host port 20. -/
def whoSet (w : Who) : Option (Nat × Nat) :=
  match w with
  | .host => some (16, 20)
  | .core _ => some (16, 19)
  | .dma _ => some (16, 19)
  | .tile f _ => some (dieOf f.val, 65)
  | .mgmt => some (16, 18)
  | _ => none

/-- Whether an address lies on a logic die, so that an access of the package's units travels there (Table 6.1). -/
def overNet (a : Nat) : Bool :=
  match placeOf a with
  | some (.sp _) => false
  | some (.reg r) => r / 0x1000000 != 32
  | some _ => true
  | none => false

/-- A transaction of such an initiator, which a command makes as a whole: its latency is a free value (DESIGN CHOICE, log entry 140). -/
def Dev.statWhole (d : Dev) (w : Who) (a n : Nat) : Dev :=
  match whoSet w with
  | none => d
  | some (sel, i) =>
    if overNet a ∧ d.on (Reg.NOC_STAT_CTL_en sel i) then ((d.statInject sel i).spend).statEnd sel i n d.freeVal.toNat else d

/-- A read of any length, split into blocks (R188). The first answer that is no data ends it. -/
def Dev.busReadN (d : Dev) (fz : Fuses) (w : Who) (a n : Nat) (us : List Upset := []) (t : Turn := .first) : BusRes × Dev :=
  ((pieces a (n / 64 + 2) n).zipIdx).foldl (fun (x : BusRes × Dev) e =>
    match x with
    | (.ok l, d) =>
      (match (d.statWhole w e.1.1 e.1.2).busRead fz w e.1.1 e.1.2 (us.getD e.2 {}) t with
       | (.ok m, d) => (.ok (l ++ m), d)
       | r => r)
    | r => r) (.ok [], d)

/-- A write of any length, split into blocks. The first answer that is no acceptance ends it. -/
def Dev.busWriteN (d : Dev) (fz : Fuses) (w : Who) (a : Nat) (l : List Byte) (us : List Upset := []) (t : Turn := .first) :
    BusRes × Dev :=
  ((pieces a (l.length / 64 + 2) l.length).zipIdx).foldl (fun (x : BusRes × Dev) e =>
    match x with
    | (.ok _, d) =>
      (d.statWhole w e.1.1 e.1.2).busWrite fz w e.1.1 ((slice l (e.1.1 - a) e.1.2).map (fun b => (b, true))) (us.getD e.2 {}) t
    | r => r) (.ok [], d)

end Sys2Proof.Machine
end

