-- ==== Sys2Proof/Machine/Noc.lean ====
section
/-! DEFINITION. What remote caches (R208, R209, R211), homes (R211 to R214) and other targets (R188, R198, R199, R212) do with
packets. -/

namespace Sys2Proof.Machine

/-! ### Remote caches (R208, R209, Table 6.6) -/

/-- Whether a request of compute die c is cacheable (R208); NOC_DOCK_CTL.cache is the sending dock's matter. -/
def Dev.cacheable (d : Dev) (c : Nat) (p : Packet) : Bool :=
  match placeOf p.addr with
  | some .hbm => d.homeOf p.addr != baseOf c && !p.secure && !d.hbmSecure p.addr && d.on (Reg.RCACHE_CTL_enable c)
  | some (.gran b off) => b != baseOf c && !p.secure && !d.granSecure b off && d.on (Reg.RCACHE_CTL_enable c)
  | _ => false

/-- A line of a remote cache, and its replacement by another state. -/
def Dev.rcLine (d : Dev) (c line : Nat) : Option RcLine := (d.rc.lines.find? (fun e => e.1 == rcKey c line)).map (fun e => e.2)
def Dev.setRcLine (d : Dev) (c line : Nat) (x : Option RcLine) : Dev :=
  { d with rc := { d.rc with lines := match x with
                                      | some x => (d.rc.lines.erase (rcKey c line)).insert (rcKey c line) x
                                      | none => d.rc.lines.erase (rcKey c line) } }

/-- The pseudo-LRU bits of a set after a use of way w: bit n of the tree of 15 nodes (1 the root, 2 n and 2 n + 1 below node n) points
away from it. The rule names no form of pseudo-LRU (DESIGN CHOICE, log entry 139). -/
def plruUse (t w : Nat) : Nat :=
  [0, 1, 2, 3].foldl (fun t k =>
    let n := 2 ^ k + w / 2 ^ (4 - k)
    t - t / 2 ^ n % 2 * 2 ^ n + (1 - w / 2 ^ (3 - k) % 2) * 2 ^ n) t

/-- The way that the bits of a set point at among those that `ok` admits: `l` levels below node 2^(4 - l) + pre. -/
def plruPick (t : Nat) (ok : Nat → Bool) : Nat → Nat → Nat
  | 0, pre => pre
  | l + 1, pre =>
    let x := t / 2 ^ (2 ^ (3 - l) + pre) % 2
    let some_ := (List.range 16).any (fun w => w / 2 ^ l == 2 * pre + x && ok w)
    plruPick t ok l (2 * pre + if some_ then x else 1 - x)

/-- The lines of a remote cache in the set of a line, and the key of the set's bits. -/
def Dev.rcSet (d : Dev) (c line : Nat) : List (Nat × RcLine) :=
  d.rc.lines.filter (fun e => e.1 / 2 ^ 48 == c && e.1 % 2 ^ 48 / 64 % 2048 == line / 64 % 2048)
def plruKey (c line : Nat) : Nat := c * 2048 + line / 64 % 2048

/-- A use of a way of a line's set. -/
def Dev.rcUse (d : Dev) (c line way : Nat) : Dev :=
  { d with rc := { d.rc with plru := d.rc.plru.put (plruKey c line) (plruUse (d.rc.plru.get (plruKey c line) 0) way) 0 } }

/-- A way for a line in its set (R209): one in state I, else the pseudo-LRU one among those in state V, whose line is dropped; none
where all 16 are in state P. -/
def Dev.rcRoom (d : Dev) (c line : Nat) : Option (Nat × Dev) :=
  let set := d.rcSet c line
  match (List.range 16).find? (fun w => set.all (fun e => e.2.way != w)) with
  | some w => some (w, d.rcUse c line w)
  | none =>
    if set.any (fun e => e.2.valid) then
      let w := plruPick (d.rc.plru.get (plruKey c line) 0) (fun w => set.any (fun e => e.2.way == w && e.2.valid)) 4 0
      some (w, ({ d with rc := { d.rc with lines := d.rc.lines.filter (fun e => !(set.contains e && e.2.way == w)) } }).rcUse c line w)
    else none

/-- A request of a remote cache to a line's home: by the vertical port that bits [8:6] of the line name (R185), on the routes of
the request that caused it (DESIGN CHOICE, log entry 53). -/
def Dev.rcRequest (d : Dev) (c : Nat) (p : Packet) (type line : Nat) : Packet :=
  { p with type := type, src := cacheNode c line, dst := (d.targetNode line).getD p.dst, secure := false }

/-- Ends a cacheable read at its initiator. -/
def Dev.rcAnswer (d : Dev) (p : Packet) (status : Nat) (line : List Byte) : Dev :=
  d.finishOne (p.answer status (if status = 0 then line else []))

/-- A line in I sends RC_READ (Table 6.6) and stands in P; a request that ends at once ends its waiting reads (R192, R214). None where
the set has no way for it. -/
def Dev.rcMiss (d : Dev) (c line : Nat) (p : Packet) (waiters : List Packet) : Option Dev :=
  (d.rcRoom c line).map (fun r =>
    match r.2.trySend { d.rcRequest c p 8 line with addr := line, lenM1 := 63, bmask := 0, data := [] } [] with
    | (none, d) =>
      (d.wrap (Reg.RCACHE_MISSES_count c)).setRcLine c line (some { valid := false, data := [], waiters := waiters, way := r.1 })
    | (some x, d) => each waiters (fun w d => d.rcAnswer w x.status []) d)

/-- A cacheable read reaches a remote cache; a miss also fetches the next line where that is asked for (R219). -/
def Dev.cacheRead (d : Dev) (p : Packet) : Dev :=
  let c := nodeDie p.src
  let line := p.addr / 64 * 64
  if d.rc.flushAll ∨ c ∈ d.rc.flushing then { d with rc := { d.rc with waiting := d.rc.waiting ++ [p] } }
  else
    match d.rcLine c line with
    | some x =>
      if x.valid then ((d.wrap (Reg.RCACHE_HITS_count c)).rcUse c line x.way).rcAnswer p 0 x.data
      else d.setRcLine c line (some { x with waiters := x.waiters ++ [p] })
    | none =>
      match d.rcMiss c line p [p] with
      | none => { d with rc := { d.rc with waiting := d.rc.waiting ++ [p] } }
      | some d =>
        let q : Packet := { p with addr := line + 64, lenM1 := 0 }
        if d.on (Reg.RCACHE_CTL_prefetch c) && d.cacheable c q && (d.rcLine c (line + 64)).isNone &&
            !d.heldDie (baseSel (d.homeOf (line + 64))) then
          (d.rcMiss c (line + 64) q []).getD d
        else d

/-- The bytes that a write covers, with their enables. -/
def Packet.bytes (p : Packet) : List (Byte × Bool) :=
  (List.range (p.lenM1 + 1)).map (fun i => (p.data.getD (p.addr % 64 + i) 0, p.bmask.getLsbD (p.addr % 64 + i)))

/-- A line's bytes after a write. -/
def Packet.over (p : Packet) (line : List Byte) : List Byte :=
  patch line (p.addr % 64) (List.zipWith (fun (o : Byte) (e : Byte × Bool) => if e.2 then e.1 else o)
    (slice line (p.addr % 64) (p.lenM1 + 1)) p.bytes)

/-- A cacheable write reaches a remote cache: it updates the copy, if there is one in V, and goes to the home in every case (R209). -/
def Dev.cacheWrite (d : Dev) (p : Packet) : Dev :=
  let c := nodeDie p.src
  let line := p.addr / 64 * 64
  if d.rc.flushAll ∨ c ∈ d.rc.flushing then { d with rc := { d.rc with waiting := d.rc.waiting ++ [p] } }
  else
    let d : Dev := match d.rcLine c line with
      | some x => if x.valid then (d.rcUse c line x.way).setRcLine c line (some { x with data := p.over x.data }) else d
      | none => d
    d.injectFor (d.rcRequest c p 9 line) [p]

/-- A request of a compute die is made: through the remote cache where it is cacheable, else uncached to its target (R208). -/
def Dev.issue (d : Dev) (p : Packet) (cached : Bool) : Dev :=
  if cached && decide (nodeDie p.src ≤ 11) && d.cacheable (nodeDie p.src) p then
    let q := { p with tag := d.nextTag p.src }
    let d := (d.useTag p.src).begin q false
    if p.type = 1 then d.cacheWrite q else d.cacheRead q
  else d.inject p

/-- A cacheable request reaches a remote cache (Table 6.6). A held die makes none. -/
def Dev.cacheRequest (d : Dev) (type : Nat) (p : Packet) : Dev :=
  if p.type ≠ type ∨ d.heldDie (nodeDie p.src) then d else d.issue p true

/-- Cacheable requests that waited for a flush or a way go on, in order: uncached where they are no longer cacheable. -/
def Dev.cacheWaiting (d : Dev) : Dev :=
  let ws := d.rc.waiting
  ws.foldl (fun (d : Dev) p =>
      if ¬ d.cacheable (nodeDie p.src) p then d.injectFor p [p] else if p.type = 1 then d.cacheWrite p else d.cacheRead p)
    { d with rc := { d.rc with waiting := [] } }

/-- An RC_READ ends without data: its line leaves P for I, and the reads that wait end in bus errors. -/
def Dev.rcLost (d : Dev) (o : OutReq) : Dev :=
  let d := d.endReq o
  match d.rcLine (nodeDie o.src) o.pkt.addr with
  | some x => if x.valid then d else each x.waiters (fun w d => d.rcAnswer w 1 []) (d.setRcLine (nodeDie o.src) o.pkt.addr none)
  | none => d

/-- An outstanding request ends in a bus error. -/
def Dev.failReq (d : Dev) (o : OutReq) : Dev :=
  if o.pkt.type = 8 then (d.rcLost o).cacheWaiting else d.finishReq o.pkt.busError

/-- A request without a response past NOC_NI_TIMEOUT (R199): the initiator gets a bus error, whence severity UNCORRECTED (DEDUCED, log
entry 51). -/
def Dev.nocTimeout (d : Dev) (src tag : Nat) : Dev :=
  match d.reqOf src tag with
  | none => d
  | some o => if o.own then (d.failReq o).err (nodeDie src) (nodeNi src) 3 0x0505 else d

/-! ### Targets (R188, R198, R212) -/

/-- A target answers a request: the response leaves the NI at which the request arrived, on resp_route (R185, R191). With an invalid
route the initiator gets the bus error of R192. -/
def Dev.respond (d : Dev) (p : Packet) (status : Nat) (data : List Byte) : Dev :=
  let r : Packet := { p with type := (if p.type = 8 then 10 else if p.type = 0 then 2 else 3), route := p.respRoute,
                             src := p.dst, dst := p.src, status := status, data := data, bmask := 0 }
  let x := d.launch (nodeDie p.dst) (nodeNi p.dst) r
  if x.1 then x.2
  else
    match x.2.reqOf p.src p.tag with
    | some o => x.2.failReq o
    | none => x.2

/-- Data in the data bits of their 64-byte block (R188). -/
def inBlock (a : Nat) (l : List Byte) : List Byte := List.replicate (a % 64) 0 ++ l ++ List.replicate (64 - a % 64 - l.length) 0

/-- The compute die of a remote cache's request. -/
def Packet.cacheDie (p : Packet) : Option Nat := if p.type = 9 then some (nodeDie p.src) else none

/-- Whether an address is of memory whose lines have a home (R208). -/
def homed (a : Nat) : Bool :=
  match placeOf a with
  | some .hbm => true
  | some (.gran _ _) => true
  | _ => false

/-- Whether a request for a line must wait at its home: for acknowledgments, or behind an older request for the line (R211). -/
def Dev.lineHeld (d : Dev) (a : Nat) : Bool :=
  homed a &&
    ((match d.dirAt (a / 64 * 64) with
      | some e => e.pend != 0
      | none => false) ||
     d.noc.waiting.any (fun q => q.addr / 64 == a / 64))

/-- A directory entry for a line is made free in its set (R213): true says that one is free now. The entry given up is a free value,
its set is named by the line's low bits (log entry 52); while an entry of the set waits to be freed no further one is given up. -/
def Dev.dirRoom (d : Dev) (line : Nat) : Bool × Dev :=
  let b := d.homeOf line
  let set := d.rc.dir.filter (fun e => d.homeOf e.1 == b && e.1 / 64 % 1024 == line / 64 % 1024)
  if set.length < 16 then (true, d)
  else if set.any (fun e => e.2.frees) then (false, d)
  else
    let free := set.filter (fun e => e.2.pend == 0)
    match free[d.freeVal.toNat % (max free.length 1)]? with
    | none => (false, d)
    | some e => (d.spend.wrap (Reg.RCACHE_DIR_EVICTS_count (baseSel b))).sendInvals e.1 e.2.sharers 0 true

/-- DIE_GONE messages from a compute die that have not reached a home are taken before a new RC_READ of that die (R214). -/
def Dev.goneFirst (d : Dev) (b c : Nat) : Dev :=
  if (b, c) ∈ d.rc.gone then
    let d := d.dieGone b c
    { d with rc := { d.rc with gone := without d.rc.gone (b, c) } }
  else d

/-- A home gives a line to compute die c (Table 6.7). -/
def Dev.homeLine (d : Dev) (fz : Fuses) (w : Who) (c line : Nat) (u : Upset) (t : Turn) : BusRes × Dev :=
  let r : Bool × Dev := match d.dirAt line with
    | some _ => (true, d)
    | none => d.dirRoom line
  if !r.1 then (.wait, r.2)
  else
    match r.2.busRead fz w line 64 u t with
    | (.ok l, d) =>
      let old := match d.dirAt line with
        | some e => e.sharers
        | none => 0
      (.ok l, d.setDir line (some { sharers := old ||| (1#12 <<< c) }))
    | r => r

/-- What a served request does, with what its access gave. False says that it waits. A read whose tag fails halts the device and does
not return (R119). -/
def Dev.answerWith (p : Packet) (halted : Bool) (r : BusRes × Dev) : Bool × Dev :=
  match r with
  | (.wait, d) => (false, d)
  | (.err, d) => (true, if d.halted ∧ ¬ halted ∧ p.type ≠ 1 ∧ p.type ≠ 9 then d else d.respond p 1 [])
  | (.ok l, d) => (true, d.respond p 0 (if p.type = 0 then inBlock p.addr l else l))

/-- A target serves a request: false says that it waits. A request at an endpoint that does not serve its address ends in a bus error
(DESIGN CHOICE, log entry 131). -/
def Dev.serve (d : Dev) (fz : Fuses) (p : Packet) (u : Upset) (t : Turn) : Bool × Dev :=
  if ¬ d.servesAddr p.dst p.addr then (true, d.respond p 1 [])
  else if t = .first ∧ d.worldBad p.secure p.addr then
    Dev.answerWith p d.halted (if p.type = 1 ∨ p.type = 9 then d.busWrite fz p.who p.addr p.bytes else d.busRead fz p.who p.addr 1)
  else
    let d := if p.type = 8 then d.goneFirst (d.homeOf p.addr) (nodeDie p.src) else d
    if d.lineHeld p.addr then (false, d)
    else
      Dev.answerWith p d.halted
        (if p.type = 8 then d.homeLine fz p.who (nodeDie p.src) (p.addr / 64 * 64) u t
         else if p.type = 0 then d.busRead fz p.who p.addr (p.lenM1 + 1) u t
         else d.busWrite fz p.who p.addr p.bytes u t p.cacheDie)

/-- A request that cannot be served now waits: for a boundary, or for what holds it. -/
def Dev.hold_ (d : Dev) (p : Packet) : Dev :=
  let bound : Bool := match placeOf p.addr with
    | some pl => d.boundaryBound pl && p.type != 8 && p.type != 9
    | none => false
  if bound then { d with bacts := d.bacts ++ [.packet p] } else { d with noc := { d.noc with waiting := d.noc.waiting ++ [p] } }

/-- A target serves a request, or holds it. -/
def Dev.serveOrHold (d : Dev) (fz : Fuses) (p : Packet) (u : Upset) (t : Turn) : Dev :=
  let r := d.serve fz p u t
  if r.1 then r.2 else r.2.hold_ p

/-- What a NI does with what SEC-DED finds in a data flit (R198): single-bit errors are corrected and counted, worse is counted and
recorded. -/
def Dev.checkData (d : Dev) (sel ni addr : Nat) (flips : List Nat) : Dev :=
  let d := d.bump (Reg.NOC_ERRCNT_ce sel) (dataCheck flips).1
  if (dataCheck flips).2 then (d.bump (Reg.NOC_ERRCNT_ue sel)).errAt sel ni 3 0x0504 addr else d

/-- Request `i` of those in flight, of a type, reaches its target. A write's data are checked first: `flips` are the bits of its data flit
that changed on the way, and an uncorrectable error stops the write (R198). -/
def Dev.request (d : Dev) (fz : Fuses) (i type : Nat) (flips : List Nat) (u : Upset) : Dev :=
  match d.takeFlight i type with
  | none => d
  | some (p, d) =>
    let d := if hasFlit type then d.checkData (nodeDie p.dst) (nodeNi p.dst) p.addr flips else d
    if hasFlit type ∧ (dataCheck flips).2 then d.respond p 2 [] else d.serveOrHold fz p u .first

/-- Request `i` of those that wait ends in a bus error (R236, R467). -/
def Dev.failWaiting (d : Dev) (i : Nat) : Dev :=
  match d.noc.waiting[i]? with
  | some p => ({ d with noc := { d.noc with waiting := d.noc.waiting.eraseIdx i } }).respond p 1 []
  | none => d

/-! ### BAR2 (R120, R412) -/

/-- A BAR2 access ends in an error: a read returns ones, a write is dropped, and the first one of a run on one 4 KiB
page is recorded (R412). -/
def Dev.barFault (d : Dev) (a n : Nat) (read : Bool) : Dev :=
  let d := if d.host.faultPage = some (a / 0x1000) then d else d.errAt 32 0 3 0x1903 a
  { d with host := { d.host with
    faultPage := some (a / 0x1000)
    lastRead := if read then List.replicate n 0xFF else d.host.lastRead } }

/-- A BAR2 access of `n` bytes at an address, a write where it brings data: false says that it waits. -/
def Dev.barServe (d : Dev) (fz : Fuses) (a n : Nat) (data : Option (List Byte)) (us : List Upset) (t : Turn) : Bool × Dev :=
  match data with
  | some l =>
    (match d.busWriteN fz .host a (l.take n) us t with
     | (.err, d) => (true, d.barFault a n false)
     | (.wait, d) => (false, d)
     | (.ok _, d) => (true, { d with host := { d.host with faultPage := none } }))
  | none =>
    (match d.busReadN fz .host a n us t with
     | (.err, d) => (true, d.barFault a n true)
     | (.wait, d) => (false, d)
     | (.ok l, d) => (true, { d with host := { d.host with faultPage := none, lastRead := l } }))

/-- A BAR2 access that cannot be served now waits: for the boundary (R120, R163), or for what holds it. -/
def Dev.barHold (d : Dev) (a n : Nat) (data : Option (List Byte)) : Dev :=
  let bound : Bool := match placeOf a with
    | some pl => d.boundaryBound pl
    | none => false
  if bound then { d with bacts := d.bacts ++ [.bar2 a n data] }
  else { d with host := { d.host with waits := d.host.waits ++ [(a, n, data)] } }

/-- BAR2 accesses that wait are tried again, in order. -/
def Dev.barRetry (d : Dev) (fz : Fuses) : Dev :=
  d.host.waits.foldl (fun (d : Dev) x =>
    let r := d.barServe fz x.1 x.2.1 x.2.2 [] .again
    if r.1 then r.2 else r.2.barHold x.1 x.2.1 x.2.2) { d with host := { d.host with waits := [] } }

/-- Requests that wait at their targets are tried again, in order, and so are the host's. -/
def Dev.serveWaiting (d : Dev) (fz : Fuses) : Dev :=
  (d.noc.waiting.foldl (fun (d : Dev) p => d.serveOrHold fz p {} .again) { d with noc := { d.noc with waiting := [] } }).barRetry fz

/-! ### Responses reach their initiator (R198, R199, R212) -/

/-- Response `i` of those in flight, of a type, reaches its initiator, whose NI checks a read's data. A status other than OK, or data past
correction, is a bus error. One to no outstanding request is discarded. -/
def Dev.response (d : Dev) (i type : Nat) (flips : List Nat) : Dev :=
  match d.takeFlight i type with
  | none => d
  | some (p, d) =>
    match d.reqOf p.dst p.tag with
    | none => d
    | some _ =>
      let d := if type = 2 then d.checkData (nodeDie p.dst) (nodeNi p.dst) p.addr flips else d
      d.finishReq (if p.status ≠ 0 ∨ (type = 2 ∧ (dataCheck flips).2) then { p with status := 1, data := [] } else p)

/-- FILL `i` of those in flight reaches a remote cache: its data are checked as a read response's are (R198); a line in P installs them
and answers its reads. A bus error installs nothing. -/
def Dev.fill (d : Dev) (i : Nat) (flips : List Nat) : Dev :=
  match d.takeFlight i 10 with
  | none => d
  | some (p, d) =>
    let c := nodeDie p.dst
    match d.reqOf p.dst p.tag with
    | none => d
    | some o =>
      let d := d.checkData c (nodeNi p.dst) p.addr flips
      if p.status ≠ 0 ∨ (dataCheck flips).2 then (d.rcLost o).cacheWaiting
      else
        let d := d.endReq o
        match d.rcLine c o.pkt.addr with
        | none => d
        | some x =>
          if x.valid then d
          else
            (each x.waiters (fun w d => d.rcAnswer w 0 p.data)
              (d.setRcLine c o.pkt.addr (some { x with valid := true, data := p.data, waiters := [] }))).cacheWaiting

/-- INVAL `i` of those in flight reaches a compute die (Table 6.6); a held one acknowledges at once (R206). -/
def Dev.inval (d : Dev) (i : Nat) : Dev :=
  match d.takeFlight i 11 with
  | none => d
  | some (p, d) =>
    let c := nodeDie p.dst
    let line := p.addr / 64 * 64
    let d :=
      if d.heldDie c then d
      else
        let d := d.wrap (Reg.RCACHE_INVALS_count c)
        match d.rcLine c line with
        | some x => if x.valid then d.setRcLine c line none else d
        | none => d
    Dev.countUp { d with noc := { d.noc with flights := d.noc.flights ++
        [{ pkt := { vc := 3, type := 12, addr := line, src := p.dst, dst := p.src }, die := nodeDie p.src, router := 0,
           arrived := true, sent := d.noc.count, came := d.noc.count }] } }

/-- INV_ACK `i` of those in flight reaches the home; after the last one the line's requests go on (R211 to R213). -/
def Dev.invAck (d : Dev) (fz : Fuses) (i : Nat) : Dev :=
  match d.takeFlight i 12 with
  | none => d
  | some (p, d) =>
    let line := p.addr / 64 * 64
    match d.dirAt line with
    | none => d
    | some e =>
      let x := e.acked (1#12 <<< nodeDie p.src)
      let d := d.setDir line x
      if e.pend ≠ 0 ∧ (x.map (fun x => x.pend)).getD 0 = 0 then d.serveWaiting fz else d

/-- A DIE_GONE reaches a home, where one is on its way; requests that waited for the die go on (R214). -/
def Dev.dieGoneAt (d : Dev) (fz : Fuses) (b c : Nat) : Dev := if (b, c) ∈ d.rc.gone then (d.goneFirst b c).serveWaiting fz else d

/-- A compute die drops every line homed on a base die; what it has asked of that die ends (R214). -/
def Dev.homeReset (d : Dev) (c b : Nat) : Dev :=
  (each (d.noc.outstanding.filter (fun o => o.pkt.type == 8 && nodeDie o.src == c && d.homeOf o.pkt.addr == b))
    (fun o d => d.rcLost o) d).dropHomed c b

/-- A HOME_RESET reaches a compute die, where one is on its way. -/
def Dev.homeResetAt (d : Dev) (c b : Nat) : Dev :=
  if (c, b) ∈ d.rc.homes then
    let d := d.homeReset c b
    ({ d with rc := { d.rc with homes := without d.rc.homes (c, b) } }).cacheWaiting
  else d

/-- Whether what a flush waits for is outstanding (R215 step 2): of every die, or of those whose own cache is flushed. -/
def Dev.flushWaits (d : Dev) : Bool :=
  if d.rc.flushAll then d.rcBusy
  else d.noc.outstanding.any (fun o => (o.pkt.type == 8 || o.pkt.type == 9) && d.rc.flushing.contains (nodeDie o.src))

/-- Step 3 of a flush, once what was outstanding has completed: caches and directories are emptied, and the waiting requests
proceed (R215). -/
def Dev.flushComplete (d : Dev) (fz : Fuses) : Dev :=
  if d.flushWaits ∨ (¬ d.rc.flushAll ∧ d.rc.flushing = []) then d
  else (d.flushEnd.serveWaiting fz).cacheWaiting

end Sys2Proof.Machine
end

