-- ==== Sys2Proof/Machine/Stream.lean ====
section
/-! DEFINITION. Sections and packets of a configuration stream (R317 to R337, R349 to R352), as they come over the load path. -/

namespace Sys2Proof.Machine

/-! ### The load path (R338, R339) -/

/-- The path of a part of a stream, as CFG_CTL.path selects it. -/
def Feed.path (x : Feed) : Nat :=
  match x with
  | .host _ _ => 0
  | .lanes _ => 1
  | .bus _ => 2
  | .flash _ => 3

/-- Its bytes: a CFGBUS cycle with STB high carries two, that of the rising edge first, and one with STB low none (R339). Those that
LOAD_DATA moves stand in host memory. -/
def Feed.bytes (x : Feed) : List Byte :=
  match x with
  | .host _ _ => []
  | .lanes l => l
  | .bus l => l.flatMap (fun c => if c.stb then [c.rise, c.fall] else [])
  | .flash l => l

/-- The LOAD_DATA that runs: its mailbox, host address, length, and bytes moved so far. -/
def Dev.loadJob (d : Dev) : Option (Nat × Nat × Nat × Nat) :=
  d.mbs.findSome? (fun (e : Nat × Mailbox) =>
    match e.2.job.map (fun j => j.wait) with
    | some (JobWait.loadData host len at_) => some (e.1, host, len, at_)
    | _ => none)

/-- LOAD_DATA has moved `n` more bytes. -/
def Dev.loadMoved (d : Dev) (m n : Nat) : Dev :=
  let x := d.mbs.get m {}
  { d with mbs := d.mbs.put m { x with job := x.job.map (fun j =>
      match j.wait with
      | .loadData host len at_ => { j with wait := .loadData host len (at_ + n) }
      | _ => j) } {} }

/-- The front end takes what comes over the selected path, and ignores every other one (R338). On the host path the bytes are the next
ones of the buffer in host memory that a running LOAD_DATA moves (Table 12.9). -/
def Dev.fed (d : Dev) (x : Feed) (act : Dev → List Byte → Dev) : Dev :=
  if x.path ≠ d.get Reg.CFG_CTL_path then d
  else
    match x with
    | .host h n =>
      let d := d.hostTake h
      (match d.loadJob with
       | some (m, host, len, at_) =>
         (match d.hostRead (host + at_) n with
          | some l => if at_ + n ≤ len ∧ ¬ d.frozenSp 5 then act (d.loadMoved m n) l else d
          | none => d)
       | none => d)
    | _ => act d x.bytes

/-! ### Frames (R327, R330, R331) -/

/-- A tile's registers as a stream writes them: SERVICE becomes UNUSED, a lease ends, and a program stops at once (R178,
R331). -/
def Dev.tileStreamWrite (d : Dev) (f t : Nat) (cfg ag0 ag1 : Nat) : Dev :=
  let reg (k v : Nat) (d : Dev) : Dev := d.wrWord (tileReg f t k) 0 |>.plainWrite (tileReg f t k) (BitVec.ofNat 32 v)
  let d := reg 2 ag1 (reg 1 ag0 (reg 0 (if cfg % 4 = 3 then cfg - 3 else cfg) d))
  let x := d.tile f t
  if x.busy then d.setTile f t { x with busy := false } else d

/-- A frame writer places a frame. -/
def Dev.placeFrame (d : Dev) (fa : Nat) (bytes : List Byte) : Dev :=
  let f := frameField fa
  let j := frameIdx fa
  let d :=
    match fa % 16 with
    | 0 => d.logicWrite fa bytes
    | 1 =>
      if j < 192 then d.binNetWrite f (j / 4) (4096 * (j % 4)) (bytes.map (fun b => (b, true)))
      else each (List.range 48) (fun k d => d.setBinWord f k (BitVec.ofNat 32 (leAt bytes (4 * k) 4))) d
    | 2 =>
      if j < 30 then
        each (List.range 64) (fun i d =>
          let o := 4096 * j + 64 * i
          d.tileNetWrite f (o / 0x500) (o % 0x500) ((slice bytes (64 * i) 64).map (fun b => (b, true)))) d
      else
        each (List.range 96) (fun t d =>
          d.tileStreamWrite f t (leAt bytes (16 * t) 4) (leAt bytes (16 * t + 4) 4) (leAt bytes (16 * t + 8) 4)) d
    | _ => d
  d.wrap (Reg.CFG_FW_FRAMES_count (frameDie fa))

/-- Whether a frame may be written by the section in progress (R327). -/
def Dev.frameAllowed (d : Dev) (fa : Nat) : Bool :=
  decide (fa < 0xC00000) && !d.heldDie (frameDie fa) && d.cfg.region.getLsbD (frameField fa) && decide (fa % 16 ≤ 2) &&
    frameUsed fa

/-- Entries of the frame queue that stand for the actions CLEAR and ZERO_MEM. -/
def clearEntry : Nat := 0x1000000
def zeroEntry : Nat := 0x1000001

/-- Whether the frame writers may place frames: no bulk clear runs, and the region's fields have left completion (R336, R350). -/
def Dev.writersReady (d : Dev) : Bool :=
  !d.cfg.clearing && (regionFields d.cfg.region).all (fun f => !d.part f || decide (d.cfg.kind ≠ 2))

/-- One entry of the frame queue. -/
def Dev.placeEntry (d : Dev) (e : Nat × Nat × List Byte) : Dev :=
  if e.1 = clearEntry then each (regionFields d.cfg.region) (fun f d => d.clearFrames f) d
  else if e.1 = zeroEntry then each (regionFields d.cfg.region) (fun f d => d.zeroMem f) d
  else if d.heldDie (frameDie e.1) then (if d.cfg.started then d.cfgFail 0xA e.2.1 else d)
  else d.placeFrame e.1 e.2.2

/-- Frames and actions that waited are placed, in order. -/
def Dev.drainFrames (d : Dev) : Dev :=
  if d.writersReady then
    let ws := d.cfg.waiting
    ws.foldl (fun (d : Dev) e => d.placeEntry e) { d with cfg := { d.cfg with waiting := [] } }
  else d

/-- An entry is placed, or waits. -/
def Dev.queueEntry (d : Dev) (e : Nat × Nat × List Byte) : Dev :=
  if d.cfg.waiting = [] ∧ d.writersReady then d.placeEntry e
  else { d with cfg := { d.cfg with waiting := d.cfg.waiting ++ [e] } }

/-! ### Section headers (R318 to R323, R430) -/

/-- Fields of a header. -/
def hdrRegion (h : List Byte) : BitVec 384 := BitVec.ofNat 384 (leAt h 64 48)
def hdrIso (h : List Byte) : Nat := leAt h 52 2
def hdrLen (h : List Byte) : Nat := leAt h 32 8

/-- Step 1, format: the offset of the first field at fault (R317 to R319). -/
def headerFormat (h : List Byte) : Option Nat :=
  let kind := leAt h 6 1
  let fields := (regionFields (hdrRegion h)).length
  if leAt h 0 4 ≠ 0x38344C4D then some 0
  else if leAt h 5 1 ≠ 2 then some 4
  else if kind ≠ 1 ∧ kind ≠ 2 ∧ kind ≠ 0x0F then some 6
  else if 2 < leAt h 7 1 ∨ (kind = 0x0F ∧ leAt h 7 1 ≠ 0) then some 7
  else if hdrLen h % 4 ≠ 0 ∨ hdrLen h < 256 ∨ (kind = 0x0F ∧ hdrLen h ≠ 256) then some 32
  else if kind = 1 ∧ hdrIso h ≠ 0 then some 52
  else if kind = 2 ∧ fields = 0 then some 64
  else if kind = 2 ∧ hdrIso h ≠ fields then some 52
  else if hdrLen h < 256 + 3072 * hdrIso h ∧ kind = 2 then some 32
  else none

/-- Step 2, target. -/
def Dev.headerMine (d : Dev) (fz : Fuses) (h : List Byte) : Bool :=
  match leAt h 7 1 with
  | 0 => true
  | 1 => d.on (Reg.LCH_CTL_pos_valid 16) && leAt h 16 1 == d.get (Reg.LCH_CTL_position 16)
  | _ => leAt h 24 8 == fz.serial.toNat

/-- Steps 3 to 5: cause and offset of the first check that fails (R320). -/
def Dev.headerChecks (d : Dev) (h : List Byte) : Option (Nat × Nat) :=
  let kind := leAt h 6 1
  let fs := if kind = 1 then List.range 384 else regionFields (hdrRegion h)
  let enc := leAt h 17 1 == 1
  let auth := leAt h 19 1 == 1
  if leAt h 8 4 ≠ 0x4812 then some (2, 8)
  else if BitVec.ofNat 32 (leAt h 12 4) &&& ~~~deviceFeatures ≠ 0 then some (2, 12)
  else if kind = 1 ∧ (d.cfg.any ∨ d.running) then some (3, 6)
  else if kind = 2 ∧ ¬ d.on Reg.CFG_STATUS_design_loaded then some (3, 6)
  else if kind = 2 ∧ fs.any (fun f => d.heldDie (dieOf f)) then some (3, 64)
  else if fs.any (fun f => d.fieldSecure f) ∧ !enc then some (9, 17)
  else if d.on Reg.SEC_POLICY_auth_required ∧ !auth then some (7, 19)
  else if enc ∧ d.keyAt 0 (leAt h 18 1) = [] then some (8, 18)
  else if auth ∧ d.keyAt 3 (leAt h 20 1) = [] then some (8, 20)
  else none

/-! ### Acceptance (R326, R336, R350) -/

/-- The registers that a FULL section may write (R328) return to their reset values (R336). -/
def Dev.streamRegsReset (d : Dev) : Dev :=
  let d := d.clearRegs 0x20020800 0x20020D00
  let d := each (List.range 64) (fun n d => d.wrWord (Reg.SIO_PIN_CTL n) (resetWord (Reg.SIO_PIN_CTL n))) d
  let d := each (List.range 12) (fun c d =>
    let b := c * 0x1000000
    let d := (d.wrWord (Reg.FAB_WAVE_CTL c) 0).wearDue c
    let d := d.clearRegs (b + 0x11000) (b + 0x15000)
    d.clearRegs (b + 0x51000) (b + 0x51400)) d
  (d.modPac (fun p => { p with locked := false })).applyDelays

/-- The frame writers' share of a FULL section: memories, control words and tile registers return to 0; programs and leases end;
memories in retention wake. Values held in tiles and by registered bin ports stay (DEDUCED, log entry 43). -/
def Dev.streamMemReset (d : Dev) : Dev :=
  each (List.range 384) (fun f d =>
    let d := (d.wake f).zeroMem f
    each (List.range 96) (fun t d =>
      let d := (((d.wrWord (tileReg f t 0) 0).wrWord (tileReg f t 1) 0).wrWord (tileReg f t 2) 0)
      if (d.tile f t).busy then d.setTile f t { d.tile f t with busy := false } else d) d)
    { d with binCtl := [] }

/-- A FULL section is accepted (R336). -/
def Dev.fullAccept (d : Dev) : Dev :=
  let d := (d.setDesign false).set Reg.CFG_STATUS_done_drive 1
  let d := d.clearAllFields.updateParts
  let d := d.streamMemReset.streamRegsReset
  { d with cfg := { d.cfg with clearing := true, full := true } }

/-- The isolation choices of a field (R349), from its table. -/
def Dev.setIso (d : Dev) (f : Nat) (table : List Byte) : Dev :=
  let clean := d.fab.isoTab.clear (isoKey f 0) (isoKey (f + 1) 0)
  let put (m : SMap Nat) (p : Nat) : SMap Nat :=
    let v := ((table.getD (p / 4) 0).toNat / 4 ^ (p % 4)) % 4
    m.put (isoKey f p) (if v = 3 then 0 else v) 0
  let used := (table.zipIdx.filter (fun e => e.1 != 0)).flatMap (fun e => (List.range 4).map (fun i => 4 * e.2 + i))
  d.modFab (fun x => { x with isoTab := used.foldl put clean })

/-- A PARTIAL section is accepted (R350): its fields leave at the next boundary, or at once while the design rests. -/
def Dev.partialAccept (d : Dev) (h : List Byte) : Dev :=
  let fs := regionFields (hdrRegion h)
  let d := (fs.zipIdx).foldl (fun (d : Dev) e => (d.setIso e.1 (slice h (128 + 3072 * e.2) 3072)).dropFixes e.1) d
  ({ d with cfg := { d.cfg with reconf := (d.cfg.reconf ++ fs).eraseDups } }).updateIfAtRest

/-- The front end goes to the bytes of a section that it takes, or checks only the end of. -/
def Dev.openSection (d : Dev) (h : List Byte) (r : Reading) : Dev :=
  let kind := leAt h 6 1
  let enc := leAt h 17 1 == 1
  let auth := leAt h 19 1 == 1
  { d with cfg := { d.cfg with
    reading := r, stored := h, header := h, offset := h.length, length := hdrLen h, kind := kind,
    region := if kind = 1 then BitVec.allOnes 384 else hdrRegion h,
    enc := enc, key := if enc then d.keyAt 0 (leAt h 18 1) else [], iv := slice h 40 12,
    auth := auth, authKey := if auth then d.keyAt 3 (leAt h 20 1) else [],
    address := 0, burst := 1, check := crcInit, fence := false } }

/-- A section that passes the checks is accepted. -/
def Dev.acceptSection (d : Dev) (h : List Byte) : Dev :=
  let d := (d.bump Reg.CFG_SECTIONS_accepted).openSection h .body
  let d := { d with cfg := { d.cfg with any := true } }
  let d := if leAt h 6 1 = 1 then d.fullAccept else d.partialAccept h
  if d.cfg.length = d.cfg.offset + 128 then d.setCfgState 4 else d

/-- A section header is checked (R320 to R322). -/
def Dev.checkHeader (d : Dev) (fz : Fuses) (h : List Byte) : Dev :=
  match headerFormat h with
  | some off => d.cfgFail 1 off
  | none =>
    if leAt h 6 1 = 0x0F then d.openSection h .body
    else if d.headerMine fz h = false then ((d.bump Reg.CFG_SECTIONS_skipped).openSection h .skip).setCfgState 3
    else
      match d.headerChecks h with
      | some (cause, off) => d.cfgFail cause off
      | none => d.acceptSection h

/-- Whether a section header may arrive: between the sections of a stream. -/
def Dev.wantsHeader (d : Dev) : Bool := d.cfg.started && d.cfg.reading == .none

/-- A section header arrives, with its isolation tables (R320). -/
def Dev.sectionHeader (d : Dev) (fz : Fuses) (h : List Byte) : Dev :=
  let d := if d.get Reg.CFG_STATUS_state = 1 then d.streamStart else d
  if d.wantsHeader && decide (128 ≤ h.length) then
    let d := (d.rxBytes h.length).setCfgState 2
    { d with cfg := { d.cfg with offset := h.length } }.checkHeader fz h
  else d

/-! ### Packets (R325 to R328) -/

/-- The next bytes of a body under the keystream where the section is encrypted (R334): as stored gives plaintext, and plaintext as
stored. -/
def Dev.underKey (d : Dev) (l : List Byte) : List Byte :=
  let c := d.cfg
  let at_ := c.offset - c.header.length
  if c.enc then (l.zipIdx).map (fun e => e.1 ^^^ Config.gcmStream c.key c.iv (at_ + e.2)) else l

/-- Bytes of a body are kept as stored, for the crc, tag and signature. -/
def Dev.storeBody (d : Dev) (plain : List Byte) : Dev :=
  let c := d.cfg
  { d with cfg := { c with stored := c.stored ++ d.underKey plain, offset := c.offset + plain.length } }

/-- A packet arrives: its header word and its data words. `act` is what it does, given the offset of its header; a packet that
runs past the trailer's start is a fault (R325). -/
def Dev.packet (d : Dev) (w : Word) (data : List Byte) (act : Nat → Dev → Dev) : Dev :=
  let c := d.cfg
  if c.reading ≠ .body ∨ c.fence ∨ c.length ≤ c.offset + 128 then d
  else if c.length < c.offset + 132 + data.length then (d.rxBytes (4 + data.length)).cfgFail 1 c.offset
  else
    let d := act c.offset ((d.rxBytes (4 + data.length)).storeBody (toBytes w.toNat 4 ++ data))
    if d.cfg.reading = .body ∧ d.cfg.length = d.cfg.offset + 128 then d.setCfgState 4 else d

/-- Bytes of words. -/
def wordBytes (ws : List Word) : List Byte := ws.flatMap (fun w => toBytes w.toNat 4)

/-- One word written to a configuration register by a packet whose header stands at `off` (Tables 10.3 and 10.4). -/
def Dev.cfgRegWrite (d : Dev) (reg off : Nat) (v : Word) : Dev :=
  if d.cfg.reading ≠ .body then d
  else
    match reg with
    | 1 => if 0x1000000 ≤ v.toNat then d.cfgFail 1 off else { d with cfg := { d.cfg with address := v.toNat } }
    | 2 => { d with cfg := { d.cfg with burst := v.toNat } }
    | 3 => if crcValue d.cfg.check = v then { d with cfg := { d.cfg with check := crcInit } } else d.cfgFail 6 off
    | 4 =>
      (match v.toNat with
       | 0 => d
       | 1 => d.queueEntry (clearEntry, off, [])
       | 2 => d.queueEntry (zeroEntry, off, [])
       | 3 => { d with cfg := { d.cfg with fence := true } }
       | _ => d.cfgFail 1 off)
    | _ => d.cfgFail 1 off

/-- A FRAMES packet (R327, R332): frame i of it lands at the address 0x10 × i above CFG_ADDRESS. -/
def Dev.framesPacket (d : Dev) (w : Word) (frames : List (List Byte)) : Dev :=
  if frames.length ≠ d.cfg.burst then
    (if d.cfg.burst = 0 then d.packet w [] (fun off d => d.cfgFail 1 off) else d)
  else if d.cfg.burst = 0 then d.packet w [] (fun off d => d.cfgFail 1 off)
  else
    d.packet w (frames.flatMap (fun b => slice b 0 4096)) (fun off d =>
      (frames.zipIdx).foldl (fun (d : Dev) e =>
        if d.cfg.reading ≠ .body then d
        else
          let fa := d.cfg.address
          let b := slice e.1 0 4096
          let at_ := off + 4 + 4096 * e.2
          if ¬ d.frameAllowed fa then d.cfgFail 0xA at_
          else
            let d := { d with cfg := { d.cfg with address := fa + 0x10, check := crcRun d.cfg.check b } }
            d.queueEntry (fa, at_, b)) d)

/-- Whether a stream may write a register (R328), and the register takes the write under its own rules. -/
def Dev.devWriteOk (d : Dev) (a : Nat) : Bool :=
  let die := a / 0x1000000
  let blk := a / 0x10000 % 0x100
  let off := a % 0x10000
  let full := d.cfg.kind == 1
  let field :=
    if blk = 1 ∧ 0x1000 ≤ off ∧ off < 0x5000 then some ((off - 0x1000) / 0x200)
    else if blk = 5 ∧ 0x1000 ≤ off ∧ off < 0x1400 then some ((off - 0x1000) / 0x20)
    else none
  let writable : Bool := match findReg a with
    | some r => r.fields.any (fun f => f.acc == .rw || f.acc == .w1c || f.acc == .rwl)
    | none => false
  writable && decide (a % 4 = 0) &&
    (if die ≤ 11 then
       !d.heldDie die &&
         (match field with
          | some i => (full || d.cfg.region.getLsbD (fieldAt die i)) && (blk == 1 || !d.running)
          | none => full && blk == 1 && off == 0x100)
     else if die = 32 then
       full && (if blk = 2 then
                  decide (0x800 ≤ off) && decide (off < 0xD00) && !(off == 0x800 && d.pac.locked) &&
                    !(decide (0x900 ≤ off) && d.running)
                else Reg.SIO_PIN_CTL 0 ≤ a && decide (a ≤ Reg.SIO_PIN_CTL 63) && !d.running)
     else false)

/-- A WRITE_DEV packet (R328). -/
def Dev.devPacket (d : Dev) (fz : Fuses) (pairs : List (Word × Word)) : Dev :=
  d.packet (BitVec.ofNat 32 (0x30000000 + pairs.length % 0x10000)) (pairs.flatMap (fun e => wordBytes [e.1, e.2])) (fun off d =>
    (pairs.zipIdx).foldl (fun (d : Dev) e =>
      if d.cfg.reading ≠ .body then d
      else if ¬ d.devWriteOk e.1.1.toNat then d.cfgFail 0xB (off + 4 + 8 * e.2)
      else d.regWrite fz .cfg e.1.1.toNat e.1.2) d)

/-- Any packet by its header word and the words that follow it: a reserved opcode is a fault (R325). -/
def Dev.anyPacket (d : Dev) (fz : Fuses) (w : Word) (ws : List Word) : Dev :=
  let n := w.toNat % 0x10000
  let more := ws.take n
  match w.toNat / 0x10000000 with
  | 0 => d.packet w (wordBytes more) (fun _ d => d)
  | 1 =>
    let reg := w.toNat / 0x10000 % 0x100
    d.packet w (wordBytes more) (fun off d =>
      if reg = 0 ∨ 4 < reg then d.cfgFail 1 off else each more (fun v d => d.cfgRegWrite reg off v) d)
  | 2 =>
    d.framesPacket w ((List.range d.cfg.burst).map (fun i => wordBytes ((ws.drop (1024 * i)).take 1024)))
  | 3 => d.devPacket fz ((List.range n).map (fun i => (ws.getD (2 * i) 0, ws.getD (2 * i + 1) 0)))
  | _ => d.packet w [] (fun off d => d.cfgFail 1 off)

/-- The data words that follow a packet's header word (Table 10.2). -/
def Dev.packetWords (d : Dev) (w : Nat) : Nat :=
  match w / 0x10000000 with
  | 0 => w % 0x10000
  | 1 => w % 0x10000
  | 2 => d.cfg.burst * 1024
  | 3 => w % 0x10000 * 2
  | _ => 0

/-- The words of bytes. -/
def bytesWords (l : List Byte) : List Word := (List.range (l.length / 4)).map (fun i => BitVec.ofNat 32 (leAt l (4 * i) 4))

/-- A packet of a body comes in whole, of the kind that `want` names by its header word and data words: the front end decrypts it as it reads
(R334). One that runs past the start of the trailer fails with its header word (R325). -/
def Dev.bodyItem (d : Dev) (fz : Fuses) (want : Nat → List Word → Bool) (raw : List Byte) : Dev :=
  let c := d.cfg
  let plain := d.underKey raw
  let w := leAt plain 0 4
  let ws := bytesWords (plain.drop 4)
  let n := d.packetWords w
  if c.reading ≠ .body ∨ c.fence ∨ c.length ≤ c.offset + 128 ∨ raw.length < 4 ∨ want w ws = false then d
  else if c.length < c.offset + 132 + 4 * n then (d.rxBytes raw.length).cfgFail 1 c.offset
  else if raw.length ≠ 4 + 4 * n then d
  else d.anyPacket fz (BitVec.ofNat 32 w) ws

/-- The kinds of packets: by opcode, and of WRITE packets by register and action. -/
def isOp (op : Nat) (w : Nat) (_ : List Word) : Bool := w / 0x10000000 == op
def isReg (reg : Nat) (w : Nat) (_ : List Word) : Bool := w / 0x10000000 == 1 && w / 0x10000 % 0x100 == reg
def isAction (a : Nat) (w : Nat) (ws : List Word) : Bool := isReg 4 w ws && ws.any (fun v => v.toNat == a)
/-- Every other packet: reserved opcodes, and WRITE packets to no register or with no action. -/
def isOther (w : Nat) (ws : List Word) : Bool :=
  decide (4 ≤ w / 0x10000000) || (w / 0x10000000 == 1 && (w / 0x10000 % 0x100 == 0 || decide (4 < w / 0x10000 % 0x100) ||
    (isReg 4 w ws && !(isAction 1 w ws || isAction 2 w ws || isAction 3 w ws))))

/-- A FENCE is over once every frame written so far has been placed. -/
def Dev.fenceComplete (d : Dev) : Dev :=
  let d := d.drainFrames
  if d.cfg.fence ∧ d.cfg.waiting = [] ∧ ¬ d.cfg.clearing then { d with cfg := { d.cfg with fence := false } } else d

/-- The bulk clear of a FULL section is done: frames that waited are placed (R336). -/
def Dev.bulkClearDone (d : Dev) : Dev :=
  if ¬ d.cfg.clearing then d
  else
    let d := each (List.range 384) (fun f d => d.clearFrames f) d
    ({ d with cfg := { d.cfg with clearing := false } }).drainFrames

/-! ### Trailers (R321, R322, R333, R337, R352) -/

/-- The design clock edges and pacer state of a fresh design (R150, R297, R337). -/
def Dev.freshDesign (d : Dev) : Dev :=
  let d := (d.setPair Reg.PACE_COMMITTED_LO Reg.PACE_COMMITTED_HI 0).setPair Reg.PACE_RESUME_TIME_LO Reg.PACE_RESUME_TIME_HI 0
  let d := (d.set Reg.PACE_STATUS_stop_cause 0).setPair Reg.SIO_OUT_LO Reg.SIO_OUT_HI 0
  let d := (d.modPac (fun p => { p with next := 0 })).syncDiscard
  { d with sio := { d.sio with committed := false } }

/-- A FULL section succeeds (R337). -/
def Dev.fullSuccess (d : Dev) (crc : Nat) : Dev :=
  let d := each (List.range 384) (fun f d =>
    let d := (d.initQ f).clearWires f
    if d.heldDie (dieOf f) then d else d.setLoaded f true) d
  let d := (d.freshDesign.setDesign true).set Reg.CFG_STATUS_done_drive 0
  ({ d with cfg := { d.cfg with loadFailure := false, digest := BitVec.ofNat 32 crc } }).updateParts

/-- A PARTIAL section succeeds (R352). -/
def Dev.partialSuccess (d : Dev) : Dev :=
  let fs := regionFields d.cfg.region
  let d := each fs (fun f d => ((d.initQ f).clearWires f).setLoaded f true) d
  ({ d with cfg := { d.cfg with reconf := d.cfg.reconf.filter (fun f => !d.cfg.region.getLsbD f) } }).updateIfAtRest

/-- A section is over; the next one follows it. -/
def Dev.sectionOver (d : Dev) : Dev :=
  ({ d with cfg := { d.cfg with reading := .none, section_ := d.cfg.section_ + 1, offset := 0, stored := [] } }).setCfgState 2

/-- The END section has been read: the stream ends (R321, R324). -/
def Dev.streamEnd (d : Dev) : Dev := if d.cfg.any then d.streamOver.setCfgState 0 else d.cfgFail 4 0

/-- The trailer's checks in order: cause and offset within it (R333). An END section's tag and signature are not checked. -/
def Dev.trailerChecks (d : Dev) (t : List Byte) : Option (Nat × Nat) :=
  let c := d.cfg
  if leAt t 0 4 ≠ 0x4C494154 then some (1, 0)
  else if BitVec.ofNat 32 (leAt t 4 4) ≠ crc32c c.stored then some (6, 4)
  else if c.kind = 0x0F then none
  else if c.enc ∧ slice t 8 16 ≠ Config.gcmTag c.key c.iv c.header (c.stored.drop c.header.length) then some (7, 8)
  else if c.auth ∧ ¬ Config.ecdsaVerify c.authKey (Config.sha384 (c.stored ++ slice t 0 32)) (slice t 32 96) then some (7, 32)
  else none

/-- A section trailer arrives. Before the frames are placed it waits. -/
def Dev.sectionTrailer (d : Dev) (t : List Byte) : Dev :=
  let c := d.cfg
  let base := c.length - 128
  match c.reading with
  | .none => d
  | .skip =>
    let d := d.rxBytes (c.length - c.offset)
    if leAt t 0 4 = 0x4C494154 then d.sectionOver else d.cfgFail 1 base
  | .body =>
    if c.offset ≠ base ∨ c.fence ∨ c.waiting ≠ [] ∨ c.clearing then d
    else
      let d := d.rxBytes 128
      match d.trailerChecks t with
      | some (cause, off) => d.cfgFail cause (base + off)
      | none =>
        if c.kind = 0x0F then d.streamEnd
        else (if c.kind = 1 then d.fullSuccess (leAt t 4 4) else d.partialSuccess).sectionOver

/-- The END section: header and trailer. -/
def Dev.endSection (d : Dev) (fz : Fuses) (l : List Byte) : Dev :=
  if leAt l 6 1 ≠ 0x0F then d else (d.sectionHeader fz (slice l 0 128)).sectionTrailer (slice l 128 128)

/-- The path of a stream ends, or STB stays low, after `k` bytes of the item under way have arrived (R324, R341, R345). -/
def Dev.partBytes (d : Dev) (k : Nat) : Dev :=
  if d.cfg.started then
    let d := d.rxBytes k
    { d with cfg := { d.cfg with offset := d.cfg.offset + k } }
  else d

end Sys2Proof.Machine
end

