-- ==== Sys2Proof/Machine/Waves.lean ====
section
/-! DEFINITION. Waves and design cycles (R96 to R124): changes that arrive, captures, completion, commit, boundary and release. -/

namespace Sys2Proof.Machine

/-- The number of waves W (R96). -/
def Dev.waves (d : Dev) : Nat := d.get Reg.PACE_WAVE_CFG_waves_m1 + 1

/-- The fields that take part in completion. -/
def Dev.parts (d : Dev) : List Nat := (d.flds.filter (fun e => e.2.part)).map (fun e => e.1)

/-- An input handshake of a field's wave: its wave delay restarts, and a completion is withdrawn (R101). -/
def Dev.handshake (d : Dev) (f : Nat) : Dev :=
  let x := d.fld f
  if x.part ∧ x.st ≠ .idle then d.setFld f { x with st := .eval, delay := true } else d

/-- A wave that is reported complete: nothing of R102 keeps it open. -/
def FieldDyn.done (x : FieldDyn) : Bool := x.st == .complete && !x.delay && x.unacked == 0 && x.latent == []

/-! ### Changes that arrive (R101) -/

/-- A field has sent a change that is not acknowledged yet; a completion that it has reported is withdrawn (R101, R102). -/
def Dev.changeSent (d : Dev) (g : Nat) : Dev :=
  let x := d.fld g
  if x.part ∧ x.st ≠ .idle then d.setFld g { x with st := .eval, unacked := x.unacked + 1 } else d

/-- The fields that a change at the input of a wire register has crossed borders from; none where an isolation cell holds it back. -/
def Dev.wirePath (d : Dev) (k slot : Nat) : Option (List Nat) :=
  let e :=
    if slot < 32 then d.endTaken k 1 (slot / 8) (slot % 8)
    else if slot < 40 then d.endTaken k 2 ((slot - 32) / 2) ((slot - 32) % 2)
    else d.endTaken k 3 (slot - 40) 0
  match e with
  | some (age, g) => d.segPath routeFuel g age
  | none => some []

/-- A change over a bridge wire (R78, R81). What drives an outgoing bridge wire is in the device database (log entry 24), so its value
comes with the command. A receiver that holds takes no change, yet the wire's value is the live one that it takes when it stops
holding; a far die in reset sends nothing. A value that the far field has sent from its next wave waits for this field's. -/
def Dev.bridgeChange (d : Dev) (f dir k i : Nat) (v : Bool) : Dev :=
  match faceField f dir with
  | none => d
  | some g =>
    let key := bridgeKey f dir k i
    if d.heldDie (dieOf g) ∨ (dir % 2 = 0 ∧ 8 ≤ i) then d
    else if d.bridgeHolds f dir then d.modFab (fun x => { x with bridgeIn := x.bridgeIn.put key v false })
    else if d.ahead f g then
      ((d.modFab (fun x => { x with bridgeNext := x.bridgeNext.put key (if v then 2 else 1) 0 })).changeSent g).handshake f
    else ((d.modFab (fun x => { x with bridgeIn := x.bridgeIn.put key v false })).changeSent g).handshake f

/-- A field takes a change: a sheaf input takes its source's level, a wire register's input has changed, a bridge wire or a hard
block's input takes `v`. A change from another field is one that the sender has not yet seen acknowledged. A field that does not take
part, an isolation cell and a bridge wire that hold, take none (R77, R81, R105). What drives a hard block's input is in the device
database (log entry 24). -/
def Dev.inputChange (d : Dev) (f : Nat) (sink : Sink) (v : BitVec 512) : Dev :=
  if ¬ d.part f then d
  else
    match sink with
    | .sheaf col row s m =>
      let k := stook f col.val row.val
      (match d.inputPath k s.val m.val with
       | none => d
       | some gs =>
         (each gs (fun g d => d.changeSent g) (d.changeInput k s.val m.val (d.sourceLevel k s.val m.val))).handshake f)
    | .wire col row slot =>
      (match d.wirePath (stook f col.val row.val) slot.val with
       | none => d
       | some gs => (each gs (fun g d => d.changeSent g) d).handshake f)
    | .bridge dir k i => d.bridgeChange f dir.val k.val i.val (v.getLsbD 0)
    | .pin p =>
      (d.modFab (fun x => { x with pins := x.pins.put (pinKey f p) (v.toNat % 2 ^ p.width) 0 })).handshake f

/-- A capture event of a macrocell (R58, R65, R66): its source has made a transition of the kind that the edge field names. When
comb was not stable in the window, the sample is a free bit. -/
def Dev.capture (d : Dev) (m : Mc) (stable : Bool) : Dev :=
  let f := m.f.val
  let k := stook f m.col.val m.row.val
  let s := m.s.val
  let n := m.n.val
  let w := d.mcWord k s n
  let level := d.capLevel k s n w
  let kind : Bool := match mcEdge w with
    | 0 => level
    | 1 => !level
    | 2 => true
    | _ => false
  if d.part f ∧ (mcMode w = 1 ∨ mcMode w = 2) ∧ mcCommitSrc w ∧ mcCapSrc w ≤ 40 ∧ kind then
    let d := d.setBit (Reg.FAB_CAPTURE_SEEN_seen (dieOf f)) (idxOf f) true
    if d.forced k s n then d
    else if stable then ((d.setQ k s n (d.qAtCommit k s n (d.comb k s n))).endKept k s n).handshake f
    else ((d.spend.setQ k s n (d.qAtCommit k s n (d.freeVal.getLsbD 0))).endKept k s n).handshake f
  else d

/-- An enabled asynchronous set or reset term is 1 (R60, R61): Q takes its level, but for a forced element and one that keeps the
value of a released force (R69). -/
def Dev.asyncForce (d : Dev) (m : Mc) : Dev :=
  let f := m.f.val
  let k := stook f m.col.val m.row.val
  let w := d.mcWord k m.s.val m.n.val
  if d.part f ∧ mcMode w ≠ 0 ∧ mcSrAsync w ∧ ¬ d.forced k m.s.val m.n.val ∧ ¬ d.fab.kept.get (qKey k m.s.val m.n.val) false then
    match d.srForce k m.s.val m.n.val w with
    | some v => (d.setQ k m.s.val m.n.val v).handshake f
    | none => d
  else d

/-! ### Latent-memory ports (R116 to R119, R220) -/

/-- The key of a latent-memory port's outputs: port 8 j + p of a field. -/
def latKey (f q : Nat) : Nat := f * 16 + q

/-- Whether a port's dock is off, and its word size in bytes. -/
def Dev.dockOff (d : Dev) (f q : Nat) : Bool := d.get (Reg.NOC_DOCK_SIZE_size (dieOf f) (dockNum f q)) == 0
def Dev.dockWord (d : Dev) (f q : Nat) : Nat :=
  let c := d.get (Reg.NOC_DOCK_CTL_width (dieOf f) (dockNum f q))
  4 * 2 ^ (if 4 < c then 0 else c)

/-- The byte address of a port's word: the window is a ring (R220). -/
def Dev.dockAddr (d : Dev) (f q word : Nat) : Nat :=
  let n := dockNum f q
  let base := d.get (Reg.NOC_DOCK_BASE_LO_base (dieOf f) n) * 0x1000 + d.get (Reg.NOC_DOCK_BASE_HI_base (dieOf f) n) * 2 ^ 32
  base + word * d.dockWord f q % (d.get (Reg.NOC_DOCK_SIZE_size (dieOf f) n) * 0x1000)

/-- The initiator of a field's docks. -/
def dockWho (f : Nat) : Who := .dock (Fin.ofNat 384 f)

/-- What a port presents from the field's next launch. -/
def Dev.setLatent (d : Dev) (f q data : Nat) (err : Bool) : Dev :=
  { d with ports := d.ports.put (latKey f q) { d.ports.get (latKey f q) {} with next := some (data, err) } {} }

/-- The packet that carries `n` bytes of a port's access at an address (R190, R208, R220). -/
def Dev.dockPacket (d : Dev) (f q type a n : Nat) : Packet :=
  { type := type, src := dockNode f (q / 8), dst := (d.targetNode a).getD 0, addr := a, lenM1 := n - 1, secure := d.fieldSecure f
    route := d.get (Reg.NOC_DOCK_CTL_route (dieOf f) (dockNum f q))
    respRoute := d.get (Reg.NOC_DOCK_CTL_resp_route (dieOf f) (dockNum f q)) }

/-- A port's packet leaves its dock; an address outside every range ends at once in a bus error (R32). -/
def Dev.dockSend (d : Dev) (f q : Nat) (p : Packet) : Dev :=
  if (placeOf p.addr).isSome then d.issue p (d.on (Reg.NOC_DOCK_CTL_cache (dieOf f) (dockNum f q)))
  else (((d.useTag p.src).addrDecode (dockWho f) p.addr)).deliver ({ p with tag := d.nextTag p.src }.answer 1 [])

/-- A port issues its read. Where the dock combines, the read takes its whole line, and a read of a line that another port of the dock
reads in the wave travels with that one (Table 6.9). -/
def Dev.issueRead (d : Dev) (f q : Nat) : Dev :=
  let a := d.dockAddr f q (d.dockPin f (q / 8) (q % 8) .raddr)
  let n := d.dockWord f q
  let comb := d.on (Reg.NOC_DOCK_CTL_combine (dieOf f) (dockNum f q))
  let add (tag : Nat) (d : Dev) : Dev :=
    d.setFld f { d.fld f with latent := (d.fld f).latent ++ [{ f := f, q := q, addr := a, size := n, tag := tag }] }
  match (d.fld f).latent.find? (fun r => comb && r.q / 8 == q / 8 && r.addr / 64 == a / 64) with
  | some r => add r.tag d
  | none =>
    let p := if comb then d.dockPacket f q 0 (a / 64 * 64) 64 else d.dockPacket f q 0 a n
    add (d.nextTag p.src) (d.dockSend f q p)

/-- The latent reads of a field at the end of its wave: each port whose read enable is 1 issues one; at a dock that is off the
port presents zeros with its error output (R116, R119). -/
def Dev.issueReads (d : Dev) (f : Nat) : Dev :=
  let on := (List.range 16).filter (fun q => d.dockPin f (q / 8) (q % 8) .ren % 2 == 1)
  let d := each on (fun q d => if d.dockOff f q then d.setLatent f q 0 true else d.issueRead f q) d
  if (d.fld f).latent = [] then d else d.wrap (Reg.FAB_FLD_WAVE_TIME_dock_waits (dieOf f) (idxOf f))

/-- The answer that a dock's NI has for a port's request. -/
def Dev.dockAnswer (d : Dev) (r : LatentReq) : Option Packet :=
  d.noc.delivered.find? (fun p => p.dst == dockNode r.f (r.q / 8) && p.tag == r.tag && p.type != 4)

/-- An answer that has been taken is gone. -/
def Dev.dropAnswer (d : Dev) (p : Packet) : Dev := { d with noc := { d.noc with delivered := d.noc.delivered.erase p } }

/-! ### Completion of a wave (R101, R116, R172) -/

/-- Whether a design cycle runs its waves. -/
def Dev.cycling (d : Dev) : Bool := d.running && d.pac.phase == .waves

/-- The wave delay used for a field's wave, in steps (R112, R113): the delay in force, 0 acting as 1, with the margin of the die, up to
4,095. -/
def Dev.delayUsed (d : Dev) (f wave : Nat) : Nat :=
  let x := max (d.effDelay.get (16 * f + (wave - 1)) 0) 1
  min (x + (x * d.effMargin.get (dieOf f) 0 + 63) / 64) 4095

/-- What the end of a field's wave starts, once: its latent reads (R116) and, in wave W of a cycle, its programs (R172). -/
def Dev.waveReads (d : Dev) (f : Nat) : Dev :=
  let d := d.issueReads f
  let d := d.setFld f { d.fld f with issued := true }
  if d.cycling ∧ (d.fld f).wave = d.waves then d.programStart f else d

/-- A field whose delay has run out and whose changes are acknowledged is at the end of its wave, its inputs settled: it starts what
the end of the wave starts, and with none of that outstanding it completes the wave; after a wave timeout or a halt it stops instead
(R101, R110, R386). `steps` is the time since the launch, which its wave delay is part of. -/
def Dev.tryComplete (d : Dev) (f steps : Nat) : Dev :=
  let x := d.fld f
  if ¬ x.part ∨ x.st ≠ .eval ∨ x.delay ∨ x.unacked ≠ 0 then d
  else
    let d := d.settle [f]
    let d := if x.issued then d else d.waveReads f
    let x := d.fld f
    if x.latent ≠ [] ∨ d.tilesBusy f then d
    else if ¬ d.cycling then d.setFld f x.fresh
    else
      (d.setFld f { x with st := .complete }).set (Reg.FAB_FLD_WAVE_TIME_steps (dieOf f) (idxOf f))
        (min (max steps (d.delayUsed f x.wave)) 0xFFFF)

/-- A field's wave delay runs out. -/
def Dev.delayOut (d : Dev) (f steps : Nat) : Dev :=
  let x := d.fld f
  if x.part ∧ x.st = .eval ∧ x.delay then (d.setFld f { x with delay := false }).tryComplete f steps else d

/-- One change that a field sent is acknowledged. -/
def Dev.changeAcked (d : Dev) (f steps : Nat) : Dev :=
  let x := d.fld f
  if x.unacked = 0 then d else (d.setFld f { x with unacked := x.unacked - 1 }).tryComplete f steps

/-- The read of a latent-memory port returns, once its NI has the answer: data, or zeros with the error output after a bus error (R116,
R119). Reads that travelled together share the answer. -/
def Dev.latentReturn (d : Dev) (f q steps : Nat) : Dev :=
  match (d.fld f).latent.find? (fun e => e.q == q) with
  | none => d
  | some e =>
    match d.dockAnswer e with
    | none => d
    | some p =>
      let rest := (d.fld f).latent.erase e
      let d := if rest.any (fun r => r.q / 8 == q / 8 && r.tag == e.tag) then d else d.dropAnswer p
      let ok := p.status == 0
      ((d.setFld f { d.fld f with latent := rest }).setLatent f q (if ok then ofBytes (slice p.data (e.addr % 64) e.size) else 0)
        (!ok)).tryComplete f steps

/-! ### Launch (R97 to R99) -/

/-- Whether a field may launch its next wave: wave 1 once the release has reached it, a later one when it and its wave neighbors
that take part have completed the wave before (R97, R102). -/
def Dev.mayLaunch (d : Dev) (f : Nat) : Bool :=
  let x := d.fld f
  d.cycling && x.part &&
    (if x.wave = 0 then true
     else x.done && decide (x.wave < d.waves) &&
       (waveNeighbors f).all (fun g =>
         let y := d.fld g
         !y.part || decide (x.wave < y.wave) || (y.wave == x.wave && y.done)))

/-- The fields that have completed a wave and not launched the next. -/
def Dev.doneIn_ (d : Dev) (wave : Nat) : List Nat := d.parts.filter (fun g => (d.fld g).wave == wave && (d.fld g).done)

/-- The outputs of a field's ports and tiles show what they took (R116, R155, R171, R172, R300). -/
def Dev.present (d : Dev) (f : Nat) : Dev :=
  let d := { d with binOut := presentPorts d.binOut (f * 96) ((f + 1) * 96), ports := presentPorts d.ports (f * 16) (f * 16 + 16) }
  (d.presentStreams f).presentTiles f

/-- A field launches its next wave: at the end of an earlier one, with the values settled in it, its wire registers step (R98); then
its hard blocks present. -/
def Dev.launchWave (d : Dev) (f : Nat) : Dev :=
  if ¬ d.mayLaunch f then d
  else
    let x := d.fld f
    let d :=
      if x.wave = 0 then d.presentHeld f
      else
        let d := d.settle (d.doneIn_ x.wave)
        d.waveEnd f d
    (d.present f).setFld f
      { x with wave := x.wave + 1, st := .eval, delay := true, unacked := 0, issued := false, launched := x.launched + 1 }

/-! ### Commit (R53 to R60, R106, R124) -/

/-- What one macrocell stores at the commit: `d` is the state settled at the end of wave W, `e` takes it. A commit event takes its
value and ends what a released force has kept; without one, an asynchronous set or reset and a LATCH leave what they show. A
design-clock LATCH has its commit event in each cycle in which it is transparent (R54; DEDUCED, log entry 118). -/
def Dev.mcCommit (d : Dev) (k s n : Nat) (e : Dev) : Dev :=
  let w := d.mcWord k s n
  let kept := d.fab.kept.get (qKey k s n) false
  if mcMode w = 0 ∨ d.forced k s n then e
  else if mcCommitSrc w then (if (mcSrAsync w ∨ mcMode w = 3) ∧ ¬ kept then e.setQ k s n (d.q k s n) else e)
  else if mcMode w = 3 then
    (if kept ∧ ¬ d.transparent k s n w then e else (e.setQ k s n (d.qLive k s n)).endKept k s n)
  else
    let sel := d.clkSel k (mcClkSel w)
    if sel.2 ∧ d.edgeOf sel.1 (mcEdge w) then (e.setQ k s n (d.qAtCommit k s n (d.comb k s n))).endKept k s n
    else if mcSrAsync w ∧ ¬ kept then e.setQ k s n (d.q k s n)
    else e

/-- The latent writes that a field issues at the commit (R117), with the packets that carry them. -/
def Dev.latentIssue (d : Dev) (f : Nat) : List (LatentReq × Packet) :=
  (List.range 16).filterMap (fun q =>
    let (clk, fall) := Config.latentClock f q
    if d.dockPin f (q / 8) (q % 8) .wen % 2 = 1 ∧ ¬ d.dockOff f q ∧ d.edgeOf clk (if fall then 1 else 0) then
      let n := d.dockWord f q
      let a := d.dockAddr f q (d.dockPin f (q / 8) (q % 8) .waddr)
      let be := BitVec.ofNat 64 (d.dockPin f (q / 8) (q % 8) .be % 2 ^ n * 2 ^ (a % 64))
      some ({ f := f, q := q, addr := a, size := n },
        { d.dockPacket f q 1 a n with data := inBlock a (toBytes (d.dockPin f (q / 8) (q % 8) .wdata) n), bmask := be })
    else none)

/-- A port's write leaves its dock; the boundary waits for it (R107). -/
def Dev.latentSend (d : Dev) (w : LatentReq × Packet) : Dev :=
  let d' := d.dockSend w.1.f w.1.q w.2
  { d' with latentWrites := d'.latentWrites ++ [{ w.1 with tag := d.nextTag w.2.src }] }

/-- The enabled probe taps, as 64 × field + tap in ascending order, with their words (Table 3.6). -/
def Dev.taps (d : Dev) : List (Nat × Word) :=
  d.regs.foldl (fun (m : SMap Word) e =>
    let off := e.1 % 0x10000
    if e.1 < 0xC000000 ∧ e.1 / 0x10000 % 0x100 = 1 ∧ 0x1000 ≤ off ∧ off < 0x5000 ∧ 0x100 ≤ off % 0x200 ∧ e.2.getLsbD 18 then
      SMap.insert m (64 * fieldAt (e.1 / 0x1000000) ((off - 0x1000) / 0x200) + (off % 0x200 - 0x100) / 4) e.2
    else m) []

/-- What a tap samples: the committed Q in `e`, or the comb settled in wave W in `d` (R124). -/
def Dev.tapValue (d e : Dev) (tap : Nat × Word) : Bool :=
  let k := stook (tap.1 / 64) (bits tap.2 0 5) (bits tap.2 5 5)
  if tap.2.getLsbD 17 then d.comb k (bits tap.2 10 3) (bits tap.2 13 4) else e.q k (bits tap.2 10 3) (bits tap.2 13 4)

/-- A capture session takes the samples of a commit (R417): armed, it keeps its pre-trigger cycles and watches for its trigger;
triggered, it counts its post-trigger cycles. Its ring holds what its size admits. -/
def Session.take (x : Session) (cycle : Nat) (row : List Bool) (trigger : Bool) : Session :=
  let room := x.size * 0x100000 / (8 + (row.length + 63) / 64 * 8)
  let all := x.samples ++ [(cycle, row)]
  let fit (n : Nat) : List (Nat × List Bool) := all.drop (all.length - n)
  if ¬ x.capture then x
  else if x.state = 1 then
    let hit := x.trig == 0 || (trigger && decide (x.nth ≤ 1))
    if hit then
      { x with samples := fit (min room (x.pre + 1)), cycle := cycle, state := if x.post = 0 then 3 else 2 }
    else { x with samples := fit (min room x.pre), nth := if trigger then x.nth - 1 else x.nth }
  else if x.state = 2 then
    { x with samples := fit room, post := x.post - 1, state := if x.post ≤ 1 then 3 else 2 }
  else x

/-- Probe taps sample at the commit, for every capture session. -/
def Dev.probeSample (d e : Dev) : Dev :=
  if e.fw.sessions.all (fun x => !x.capture) then e
  else
    let row := e.taps.map (fun t => d.tapValue e t)
    let comb (site : Nat) : Bool := d.comb (site / 128) (site / 16 % 8) (site % 16)
    { e with fw := { e.fw with sessions := e.fw.sessions.map (fun x => x.take d.committed row (comb x.site)) } }

/-- Every participating field's commit events, all from the state settled at the end of wave W (R106). -/
def Dev.commitFields (d : Dev) (fs : List Nat) : Dev :=
  let e := each fs (fun f e => each (d.usedMcs f) (fun x e => d.mcCommit x.1 x.2.1 x.2.2 e) e) d
  let e := each fs (fun f e => each (List.range 48) (fun k e => d.binCommit f k e) e) e
  let e := each fs (fun f e => each (List.range 96) (fun t e => d.macCommit f t e) e) e
  let e := each fs (fun f e => each (List.range 8) (fun p e => d.chanCommit f p e) e) e
  let e := each (fs.flatMap d.latentIssue) (fun w e => e.latentSend w) e
  each fs (fun f e => d.waveEnd f e) e

/-- Whether the package completion tree reports wave W complete (R102, R103). -/
def Dev.waveWDone (d : Dev) : Bool := d.parts.all (fun f => (d.fld f).wave == d.waves && (d.fld f).done)

/-- The commit pulse (R103, R106): wave W is complete in every field that takes part, and all their inputs are settled. -/
def Dev.commitPulse (d : Dev) : Dev :=
  let fs := d.parts
  if ¬ d.cycling ∨ ¬ d.waveWDone then d
  else
    let d0 := d.settle fs
    let t := d.pair Reg.PACE_CYCLE_TIME_LO Reg.PACE_CYCLE_TIME_HI
    let shown := (t, d.pair Reg.PACE_CLK_LEVEL0 Reg.PACE_CLK_LEVEL1, d.pair Reg.PACE_CLK_EDGE0 Reg.PACE_CLK_EDGE1)
    let e := (d0.commitFields fs).modPac (fun p =>
      { p with phase := .commit, last := shown, next := t + 1, stepLeft := p.stepLeft.map (fun n => n - 1) })
    let e := d0.probeSample (d0.syncSample (if fs = [] then e else d0.sioCommit e))
    let e := each fs (fun f e => e.setFld f (e.fld f).fresh) e
    e.setPair Reg.PACE_COMMITTED_LO Reg.PACE_COMMITTED_HI (d.committed + 1)

/-- A latent write is accepted, or its bus error has returned and it is lost (R117), once its NI has the answer. -/
def Dev.latentAccept (d : Dev) (i : Nat) : Dev :=
  match d.latentWrites[i]? with
  | none => d
  | some r =>
    match d.dockAnswer r with
    | none => d
    | some p => { d.dropAnswer p with latentWrites := d.latentWrites.eraseIdx i }

/-! ### The boundary (R24, R81, R104, R107, R112, R295, R455) -/

/-- Tries actions in order: those that must still wait stay, in `kept`. -/
def Dev.tryActs (d : Dev) (fz : Fuses) : List BAct → List BAct × Dev
  | [] => ([], d)
  | a :: r =>
    let x : Bool × Dev :=
      match a with
      | .packet p => d.serve fz p {} .boundary
      | .bar2 a n data => d.barServe fz a n data [] .boundary
      | .rewrite fa => (true, d.gleanRewrite fa)
      | .reload fa =>
        (match d.goldenReload fa with
         | some e => (true, e)
         | none => (false, d))
      | a => (true, d.simpleAct a)
    let y := x.2.tryActs fz r
    (if x.1 then y.1 else a :: y.1, y.2)

/-- The step of R24 to which an action belongs: 1 reads, 2 writes and what acts with them, 3 what follows step 2. -/
def BAct.stage (a : BAct) : Nat :=
  match a with
  | .packet p => if p.type = 0 then 1 else 2
  | .bar2 _ _ data => if data.isNone then 1 else 2
  | .stateRead _ _ _ => 1
  | .rewrite _ => 3
  | .reload _ => 3
  | _ => 2

/-- The actions of one step; those of later steps stay for their turn. -/
def Dev.actStage (d : Dev) (fz : Fuses) (n : Nat) : Dev :=
  let mine := d.bacts.filter (fun a => a.stage == n)
  let rest := d.bacts.filter (fun a => a.stage != n)
  let r := ({ d with bacts := [] }).tryActs fz mine
  { r.2 with bacts := r.1 ++ rest ++ r.2.bacts }

/-- Whether an action of a step still waits. -/
def Dev.actsLeft (d : Dev) (n : Nat) : Bool := d.bacts.any (fun a => decide (a.stage ≤ n))

/-- All actions of the boundary, step by step; a step begins once the one before it is done. -/
def Dev.runActs (d : Dev) (fz : Fuses) : Dev :=
  let d := d.actStage fz 1
  if d.actsLeft 1 then d
  else
    let d := d.actStage fz 2
    if d.actsLeft 2 then d else d.actStage fz 3

/-- Fields of a failed PARTIAL section that have left are cleared (R346). -/
def Dev.clearLeft (d : Dev) : Dev :=
  let fs := d.cfg.toClear.filter (fun f => !d.part f)
  each fs (fun f d => d.clearFrames f) { d with cfg := { d.cfg with toClear := d.cfg.toClear.filter (fun f => d.part f) } }

/-- Memories in retention of fields that are about to join, which wake (R455). -/
def Dev.joiners (d : Dev) : List Nat := d.partCandidates.filter (fun f => !d.part f && d.asleep f)

/-- What follows the actions at a boundary, before the pacer's commands (R24, R104). -/
def Dev.boundaryEnd (d : Dev) : Dev :=
  let d := (d.updateParts.clearLeft.drainFrames.bridgeHoldEnd.bridgesHold).applyDelays
  if d.running ∧ d.pac.phase = .commit then
    ((d.syncForm.modPac (fun p => { p with phase := .boundary })).rearmLost).stopIfDue
  else d

/-- The boundary is reached: commits and latent writes are done, and so are its actions (R107). While the design rests, actions
that still wait are tried again. -/
def Dev.boundary (d : Dev) (fz : Fuses) : Dev :=
  if (d.running ∧ d.pac.phase = .commit ∧ d.latentWrites = []) ∨ (d.atRest ∧ d.bacts ≠ []) then
    let d := d.runActs fz
    if d.bacts ≠ [] then d
    else
      let js := d.joiners
      if js ≠ [] then each js (fun f d => d.wake f) d else d.boundaryEnd
  else d

/-! ### Release (R108, R133 to R135, R141, R147) -/

/-- Whether the time has come: the deadline in PACED mode, and the start time S of the last START (R139, R141). -/
def Dev.dueNow (d : Dev) : Bool :=
  decide (d.pac.start ≤ d.now) &&
    (!d.paced || (match d.deadline with
      | some x => decide (x ≤ d.now)
      | none => false))

/-- Whether nothing else keeps the next cycle back. -/
def Dev.releasable (d : Dev) : Bool :=
  d.running && d.pac.phase == .boundary && d.bacts.isEmpty && d.syncReady && !d.halted &&
    d.parts.all (fun f => !d.asleep f)

/-- Fields that still finish a wave of a run that a timeout ended start the cycle anew (R111). -/
def Dev.freshFields (d : Dev) : Dev :=
  each (d.parts.filter (fun f => (d.fld f).fresh != d.fld f)) (fun f d =>
    d.setFld f (d.fld f).fresh) d

/-- The pacer releases the next cycle; a stop that is due stops it instead (R138, R140). Memories of participating fields that
sleep wake first (R455). -/
def Dev.release_ (d : Dev) (unsure : BitVec 64) : Dev :=
  if d.running ∧ d.pac.phase = .boundary ∧ d.dueCauses ≠ [] then d.stopIfDue
  else if ¬ d.releasable then each (d.parts.filter (fun f => d.running && d.retained f)) (fun f d => d.wake f) d
  else
    match d.nextTime with
    | none => d
    | some t =>
      let late := d.paced && decide (0 < d.debt)
      let d := d.rearmLost
      let levels := clkBits (fun n => d.clkLevelAt n t)
      let edges := clkBits (fun n => d.clkEdgeAt n t)
      let d := (d.showCycle t levels edges).sioSample unsure
      let d := if late then d.wrap Reg.PACE_LATE_COUNT_count else d
      d.freshFields.syncConsume.modPac (fun p => { p with phase := .waves, locked := true, next := t + 1 })

/-- A release at its time. -/
def Dev.releaseNow (d : Dev) (unsure : BitVec 64) : Dev := if d.dueNow then d.release_ unsure else d

/-- The deadline of the next cycle arrives: the timebase has made the steps that reach it (R127, R130, R133). -/
def Dev.deadlineArrives (d : Dev) (unsure : BitVec 64) : Dev :=
  if ¬ d.running ∨ d.pac.phase ≠ .boundary then d
  else
    let due := max (match (if d.paced then d.deadline else none) with
      | some x => x.toNat
      | none => 0) d.pac.start
    (d.tbSteps (d.stepsFor (due - d.now))).releaseNow unsure

/-! ### The wave limit (R109 to R111) -/

/-- The wire registers of fields, and those of the bridge wires that they receive and that do not hold, take arbitrary values: a
free bit for each (R111). -/
def Dev.wiresFree (d : Dev) (fs : List Nat) : Dev :=
  let regs := fs.flatMap (fun f => (d.wireRegs f).map (fun r => wireKey r.1 r.2.1 r.2.2))
  let wires := fs.flatMap (fun f =>
    ([0, 1, 2, 3].filter (fun dir => (faceField f dir).isSome && !d.bridgeHolds f dir)).flatMap (bridgeWires f))
  let bit (i : Nat) : Bool := (Config.free (d.free + i / 512)).getLsbD (i % 512)
  let put (off : Nat) (l : List Nat) (m : SMap Bool) : SMap Bool :=
    l.zipIdx.foldl (fun m e => SMap.put m e.1 (bit (off + e.2)) false) m
  { d.modFab (fun x =>
      { x with wreg := put 0 regs x.wreg, bridgeReg := put regs.length wires x.bridgeReg,
               bridgeOut := put regs.length wires x.bridgeOut }) with
    free := d.free + (regs.length + wires.length + 511) / 512 }

/-- A field passes the wave limit (R110, R111): no wave is launched any more, fields that evaluate finish theirs and stop, nothing
commits, and the pacer stops. -/
def Dev.waveTimeout (d : Dev) (f : Nat) : Dev :=
  let x := d.fld f
  if ¬ d.cycling ∨ ¬ x.part ∨ x.wave = 0 ∨ x.done then d
  else
    let fs := d.parts
    let open_ := fs.filter (fun g => !(d.fld g).done)
    let d := each open_ (fun g d => d.setBit (Reg.FAB_TIMEOUT_FIELDS_timed_out (dieOf g)) (idxOf g) true) d
    let d := (d.set Reg.PACE_CLK_STATUS_wave_timeout 1).report
      { die := dieOf f, unit := idxOf f, severity := 3, cls := 0x0101, info := x.wave + f * 0x10000 }
    ((d.settle fs).tileTimeouts.wiresFree fs).fieldsStop.pacerStop 5

/-! ### Calibration (R28, R114) -/

/-- A calibration of a die runs, with the junction temperature and the trims it finds by local field index: when its timer or a
move of temperature asks, when cal_now does, and, paused, only after a move of 10 °C. The trims apply at the next boundary. -/
def Dev.calibrate (d : Dev) (die : Nat) (temp : Int) (trims : List Nat) : Dev :=
  let now := d.on (Reg.FAB_CAL_CTL_cal_now die)
  let paused := d.on (Reg.FAB_CAL_CTL_pause die)
  let last : Int := signedOf (d.get (Reg.FAB_CAL_STATUS_cal_temp die)) 9
  let moved := decide (10 ≤ (temp - last).natAbs)
  if d.heldDie die ∨ (paused ∧ ¬ now ∧ ¬ moved) then d
  else
    let d := if paused ∧ ¬ now then d.set (Reg.FAB_CAL_STATUS_pause_overridden die) 1 else d
    let d := d.set (Reg.FAB_CAL_STATUS_cal_temp die) (BitVec.ofInt 9 (max (-256) (min 255 temp))).toNat
    let d := (d.wrap (Reg.FAB_CAL_STATUS_cal_count die)).set (Reg.FAB_CAL_CTL_cal_now die) 0
    { d with trimDue := (List.range 32).foldl (fun m i =>
        match trims[i]? with
        | some v => (m.erase (fieldAt die i)).insert (fieldAt die i) (v % 1024)
        | none => m) d.trimDue }.applyIfAtRest

end Sys2Proof.Machine
end

