-- ==== Sys2Proof/Machine/Port.lean ====
section
/-! DEFINITION. The debug port (R480 to R488). -/

namespace Sys2Proof.Machine

/-- Acknowledgment codes (Table 15.2). -/
def ackOk : Nat := 6
def ackWait : Nat := 10
def ackFault : Nat := 12
def ackLocked : Nat := 9

/-- Fields of a request header (Table 15.1). -/
def hdrRnw (h : BitVec 16) : Bool := h.getLsbD 4
def hdrSpace (h : BitVec 16) : Nat := h.toNat / 32 % 4
def hdrSecure (h : BitVec 16) : Bool := h.getLsbD 7

/-- Whether a header is one that the port takes (R483). -/
def hdrGood (h : BitVec 16) : Bool :=
  h.toNat % 16 == 9 && h.toNat / 0x1000 == 0 && hdrSpace h != 3

/-- The bits of a request in send order: header, address, and data of a write (R484). -/
def requestBits (h : BitVec 16) (a : Word) (data : Option Word) : List Bool :=
  bitList h.toNat 16 ++ bitList a.toNat 32 ++ (match data with
    | some v => bitList v.toNat 32
    | none => [])

/-- The register-space address that a request names: an offset of the DBG block in space 0b00, and the address itself in space 0b01. -/
def dbgReg (h : BitVec 16) (a : Word) : Nat :=
  if hdrSpace h = 0 then Reg.DBG_IDCODE / 0x10000 * 0x10000 + a.toNat % 0x10000 else a.toNat

/-- Whether a request needs a block outside the port: none does that names the DBG block. -/
def dbgOutside (h : BitVec 16) (a : Word) : Bool := hdrSpace h == 2 || dbgReg h a / 0x10000 != Reg.DBG_IDCODE / 0x10000

/-- Cycles of a transfer (R483): header, address and a write's data, its CRC, the turnaround, the acknowledgment, a read's data and
their CRC, and the last turnaround. -/
def dbgCycles (read ok : Bool) : Nat := 16 + 32 + (if read then 0 else 32) + 4 + 2 + 4 + (if read && ok then 32 + 4 else 0) + 2

/-- Whether a request is one that every access level admits (Table 15.3); in SCRAP the LC registers are not. -/
def Dev.dbgExcept (fz : Fuses) (h : BitVec 16) (a : Word) : Bool :=
  let n := dbgReg h a / 4 * 4
  let lc := n == Reg.LC_STATE || (decide (Reg.LC_CHALLENGE 0 ≤ n) && decide (n < Reg.LC_CHALLENGE 0 + 32)) ||
    n == Reg.LC_CHALLENGE_CTL || (decide (Reg.LC_REQ 0 ≤ n) && decide (n < Reg.LC_REQ 0 + 240)) || n == Reg.LC_REQ_GO ||
    n == Reg.LC_REQ_STATUS
  hdrSpace h != 2 && (n == Reg.DBG_STATUS || (hdrRnw h && n == Reg.DBG_IDCODE) || (lc && fz.lc != 5))

/-- Whether the access level refuses a request (R488). -/
def Dev.dbgLocked (d : Dev) (fz : Fuses) (h : BitVec 16) (a : Word) : Bool :=
  match d.debugLevel fz with
  | 0 => !Dev.dbgExcept fz h a
  | 1 => hdrSecure h
  | _ => false

/-- The port answers. -/
def Dev.dbgAnswer (d : Dev) (ack : Nat) : Dev := { d with dbg := { d.dbg with ack := ack } }

/-- The port answers a read with data. -/
def Dev.dbgData (d : Dev) (v : Word) : Dev :=
  { d with dbg := { d.dbg with ack := ackOk, data := v, crc := (crc4 (bitList v.toNat 32)).toNat } }

/-- A request with a bad CRC, or a bad header, makes no access (R483, R485). -/
def Dev.dbgCheck (d : Dev) (h : BitVec 16) (a : Word) (data : Option Word) (crc : BitVec 4) : Option Dev :=
  if crc ≠ crc4 (requestBits h a data) then some ((d.set Reg.DBG_STATUS_crc_err 1).dbgAnswer ackFault)
  else if ¬ hdrGood h ∨ hdrRnw h = data.isSome then some (d.dbgAnswer ackFault)
  else none

/-- The access of a read: none while it is pending. -/
def Dev.dbgRead (d : Dev) (fz : Fuses) (h : BitVec 16) (a : Word) : Option (Option Word) × Dev :=
  let w : Who := .debug (hdrSecure h)
  match hdrSpace h with
  | 2 =>
    (match d.busReadN fz w (d.get Reg.DBG_MEM_BASE_base * 2 ^ 32 + a.toNat) 4 with
     | (.ok l, d) => (some (some (BitVec.ofNat 32 (ofBytes l))), d)
     | (.err, d) => (some none, d)
     | (.wait, d) => (none, d))
  | _ =>
    let r := d.regAccessRead fz w (dbgReg h a)
    (some r.1, r.2)

/-- The result of a read, when it is ready: data, or FAULT for a bus error (Table 15.2). -/
def Dev.dbgResult (d : Dev) (r : Option Word) : Dev :=
  let d := { d with dbg := { d.dbg with pending := none, ready := none } }
  match r with
  | some v => d.dbgData v
  | none => d.dbgAnswer ackFault

/-- What answers a request before its access: the access level (R488), SYSRST_N (R482), a bus error that was not cleared
(R487). -/
def Dev.dbgGate (d : Dev) (fz : Fuses) (h : BitVec 16) (a : Word) : Option Dev :=
  if d.dbgLocked fz h a then some (d.dbgAnswer ackLocked)
  else if ¬ d.pwr.sysrst ∧ dbgOutside h a then some (d.dbgAnswer ackWait)
  else if d.on Reg.DBG_STATUS_bus_err ∧ hdrSpace h ≠ 0 then some (d.dbgAnswer ackFault)
  else none

/-- A read request; `slow` says that its data are not ready by the end of the turnaround (R486). -/
def Dev.dbgReadRequest (d : Dev) (fz : Fuses) (h : BitVec 16) (a : Word) (crc : BitVec 4) (slow : Bool) : Dev :=
  match (d.dbgCheck h a none crc).or (d.dbgGate fz h a) with
  | some d => d
  | none =>
    match d.dbg.pending with
    | some p =>
      if p = (h.toNat, a.toNat) then
        (match d.dbg.ready with
         | some r => d.dbgResult r
         | none =>
           (match d.dbgRead fz h a with
            | (some r, d) => d.dbgResult r
            | (none, d) => d.dbgAnswer ackWait))
      else d.dbgAnswer ackWait
    | none =>
      match d.dbgRead fz h a with
      | (some r, d) =>
        if slow then { d with dbg := { d.dbg with pending := some (h.toNat, a.toNat), ready := some r } }.dbgAnswer ackWait
        else d.dbgResult r
      | (none, d) => { d with dbg := { d.dbg with pending := some (h.toNat, a.toNat), ready := none } }.dbgAnswer ackWait

/-- A write request (R487). One that its target holds is answered WAIT, to be repeated. -/
def Dev.dbgWriteRequest (d : Dev) (fz : Fuses) (h : BitVec 16) (a v : Word) (crc : BitVec 4) : Dev :=
  match (d.dbgCheck h a (some v) crc).or (d.dbgGate fz h a) with
  | some d => d
  | none =>
    if d.dbg.pending.isSome then d.dbgAnswer ackWait
    else
      let w : Who := .debug (hdrSecure h)
      match hdrSpace h with
      | 2 =>
        (match d.busWriteN fz w (d.get Reg.DBG_MEM_BASE_base * 2 ^ 32 + a.toNat) (toBytes v.toNat 4) with
         | (.ok _, d) => d.dbgAnswer ackOk
         | (.err, d) => (d.set Reg.DBG_STATUS_bus_err 1).dbgAnswer ackOk
         | (.wait, d) => d.dbgAnswer ackWait)
      | _ =>
        let r := d.regAccessWrite fz w (dbgReg h a) v
        (if r.1 then r.2 else r.2.set Reg.DBG_STATUS_bus_err 1).dbgAnswer ackOk

/-- The bits that the device sends after the turnaround (R484, R485): its acknowledgment, and the data and CRC of a read answered OK. -/
def Dev.dbgSent (d : Dev) (read : Bool) : List Bool :=
  bitList d.dbg.ack 4 ++ (if read ∧ d.dbg.ack = ackOk then bitList d.dbg.data.toNat 32 ++ bitList d.dbg.crc 4 else [])

/-- A line reset discards the result of a pending access (R481). -/
def Dev.lineReset (d : Dev) : Dev := { d with dbg := { d.dbg with pending := none, ready := none } }

end Sys2Proof.Machine
end

