-- ==== Sys2Proof/Machine/Cluster.lean ====
section
/-! DEFINITION. The cluster that service firmware 3.2 forms (R311 to R313): HELLO contents, discovery and positions, routes, the settings
of links, and what a worker's firmware does with the manager's messages. The formats of the messages are not in the spec (log
entry 143); which firmware sends which, and in what order, follows R313. -/

namespace Sys2Proof.Machine

/-- The device's role: 0 standalone, 1 manager, 2 worker (R311). -/
def Dev.role (d : Dev) : Nat := if d.boot.role = 3 then 0 else d.boot.role

/-- Whether the device acts for a whole cluster: a manager with a position (R416). -/
def Dev.leads (d : Dev) : Bool := d.role == 1 && d.on (Reg.LCH_CTL_pos_valid 16)

/-- A register write that the firmware makes on core 1, or on core 0. -/
def Dev.coreWrite (d : Dev) (fz : Fuses) (c : Fin 4) (a v : Nat) : Dev := (d.regAccessWrite fz (.core c) a (BitVec.ofNat 32 v)).2

/-! ### HELLO contents (R312) -/

/-- ID_FW_VERSION's three bytes. -/
def Dev.fwVersion (d : Dev) : Nat :=
  d.get Reg.ID_FW_VERSION_major + d.get Reg.ID_FW_VERSION_minor * 256 + d.get Reg.ID_FW_VERSION_patch * 65536

/-- The content of HELLO frames (Table 9.10), on every base die; the lane number comes from the engine. -/
def Dev.helloFill (d : Dev) (fz : Fuses) (hops : Nat) : Dev :=
  let pos := if d.on (Reg.LCH_CTL_pos_valid 16) then d.get (Reg.LCH_CTL_position 16) else 0xFF
  let l := toBytes fz.serial.toNat 8 ++ toBytes d.role 1 ++ toBytes pos 1 ++ toBytes hops 1 ++ toBytes 0 1 ++
    toBytes deviceFeatures.toNat 4 ++ toBytes d.fwVersion 3 ++ List.replicate 13 0
  each [0, 1, 2, 3] (fun b d =>
    each (List.range 8) (fun i d => d.wrWord (Reg.LCH_HELLO_TX (baseSel b) i) (BitVec.ofNat 32 (leAt l (4 * i) 4))) d) d

/-- What a HELLO says. -/
def helloSerial (h : List Byte) : Nat := leAt h 0 8
def helloRole (h : List Byte) : Nat := leAt h 8 1
def helloPos (h : List Byte) : Nat := leAt h 9 1
def helloHops (h : List Byte) : Nat := leAt h 10 1

/-- Whether a HELLO shows a worker that has no position. -/
def newWorker (h : List Byte) : Bool := helloRole h == 2 && helloPos h == 0xFF && !h.isEmpty

/-- Whether a HELLO's firmware version and feature mask are the manager's (R313). -/
def Dev.helloFits (d : Dev) (h : List Byte) : Bool := leAt h 12 4 == deviceFeatures.toNat && leAt h 16 3 == d.fwVersion

/-! ### Discovery (R313 steps 1 and 2) -/

/-- Every HELLO that the manager knows: its own lanes' and those that workers report, with the position and lane of the receiver. -/
def Dev.hellos (d : Dev) : List (Nat × Nat × List Byte) :=
  (List.range 192).filterMap (fun n => if (d.link n).hello = [] then none else some (0, n, (d.link n).hello)) ++ d.cluster.found

/-- The devices that another manager's role shows on: a conflict (R313). -/
def Dev.otherManagers (d : Dev) : Nat := (d.hellos.filter (fun e => helloRole e.2.2 == 1)).length

/-- Whether a HELLO with role 1 has been seen. -/
def Dev.otherManager (d : Dev) : Bool := d.cluster.conflict || decide (d.otherManagers ≠ 0)

/-- Puts a candidate before those of larger serial number; a serial number that stands there already stays as it is. -/
def bySerial (l : List Member) (x : Member) : List Member :=
  match l with
  | [] => [x]
  | y :: r => if x.serial = y.serial then y :: r else if x.serial < y.serial then x :: y :: r else y :: bySerial r x

/-- The workers without a position that devices of the cluster see, in order of serial number. One seen by several is the first one's.
With `fit` only those that may have a position. -/
def Dev.candidates (d : Dev) (fit : Bool) : List Member :=
  let new := d.hellos.filter (fun e => newWorker e.2.2 && (!fit || d.helloFits e.2.2) &&
    decide (e.1 < d.cluster.members.length) && !d.cluster.members.any (fun m => m.serial == helloSerial e.2.2))
  new.foldl (fun l e =>
    bySerial l { serial := helloSerial e.2.2, hops := (d.cluster.members.getD e.1 {}).hops + 1, parent := e.1, lane := e.2.1 }) []

/-- Sends a message to a device that has no position yet: on the lane on which the manager sees it, or through the device that does
(R313). -/
def Dev.sendNew (d : Dev) (x : Member) (msg : ClusterMsg) : Dev :=
  if x.parent = 0 then d.sendOn x.lane 0 true (Config.clusterWords msg)
  else each (Config.clusterWords msg) (fun w d => d.clusterSend (.onward x.lane w) x.parent) d

/-- The lanes by which the devices on the way to a position reach it: its parent, and every device above. -/
def Dev.tellPath (d : Dev) (fz : Fuses) (p lane : Nat) : Nat → Nat → Dev
  | 0, _ => d
  | fuel + 1, q =>
    let x := d.cluster.members.getD q {}
    if q = 0 then each [16, 17, 18, 19] (fun s d => d.coreWrite fz 1 (Reg.LCH_FWD s (p % 128)) (lane % 192 + 256)) d
    else (d.clusterSend (.route p lane) q).tellPath fz p x.lane fuel x.parent

/-- A worker takes the next position, up to 127: it is told, and so are the devices between. -/
def Dev.place (d : Dev) (fz : Fuses) (x : Member) : Dev :=
  let p := d.cluster.members.length
  if 128 ≤ p then d
  else
    let d := d.sendNew x (.position p x.hops)
    let d := { d with cluster := { d.cluster with members := d.cluster.members ++ [x] } }
    d.tellPath fz p x.lane 128 x.parent

/-- The workers of the next hop count take their positions, in order of serial number. -/
def Dev.placeLevel (d : Dev) (fz : Fuses) : Dev := each (d.candidates true) (fun x d => d.place fz x) d

/-! ### Routes (R313 step 3) -/

/-- The links between positioned devices: position, lane, position of the device that its HELLO shows. -/
def Dev.clusterEdges (d : Dev) : List (Nat × Nat × Nat) :=
  d.hellos.filterMap (fun e =>
    let q := d.cluster.members.findIdx (fun m => m.serial == helloSerial e.2.2)
    if q < d.cluster.members.length then some (e.1, e.2.1, q) else none)

/-- Hops to a position from every position, 128 where none leads there: after `fuel` rounds. -/
def hopsTo (edges : List (Nat × Nat × Nat)) (n q : Nat) : Nat → List Nat
  | 0 => (List.range n).map (fun p => if p = q then 0 else 128)
  | fuel + 1 =>
    let ds := hopsTo edges n q fuel
    (List.range n).map (fun p =>
      (edges.filter (fun e => e.1 == p)).foldl (fun best e => min best (ds.getD e.2.2 128 + 1)) (ds.getD p 128))

/-- The lane by which a position sends toward another on a route of fewest hops: of several, the first known (DESIGN CHOICE, log entry
157). -/
def laneTo (edges : List (Nat × Nat × Nat)) (n p q : Nat) : Option Nat :=
  let ds := hopsTo edges n q n
  (edges.find? (fun e => e.1 == p && decide (p ≠ q) && ds.getD e.2.2 128 + 1 == ds.getD p 128)).map (fun e => e.2.1)

/-- A device's forwarding entry for a position, and the lane of its contexts for it (R313 step 3). -/
def Dev.routeSet (d : Dev) (fz : Fuses) (q lane : Nat) : Dev :=
  let d := each [16, 17, 18, 19] (fun s d => d.coreWrite fz 1 (Reg.LCH_FWD s (q % 128)) (lane % 192 + 256)) d
  { d with ctxs := d.ctxs.map (fun e =>
      if e.2.peerPos = q ∧ lane / 48 = ctxBase e.1 then (e.1, { e.2 with d0 := setBits e.2.d0 24 8 lane }) else e) }

/-- Every device takes its routes, the farthest first, the manager last. -/
def Dev.clusterRoutes (d : Dev) (fz : Fuses) : Dev :=
  let n := d.cluster.members.length
  let edges := d.clusterEdges
  each (List.range n).reverse (fun p d =>
    each (List.range n) (fun q d =>
      match laneTo edges n p q with
      | none => d
      | some k => if p = 0 then d.routeSet fz q k else d.clusterSend (.route q k) p) d) d

/-! ### Links (R313 steps 1 and 4) -/

/-- The key blob that the firmware forms for its own identity key is not followed here: a LINK slot takes the agreed key. -/
def Dev.agreeKey (d : Dev) (slot : Nat) : Dev := (d.keyLoad 2 slot (Config.agreedKey d.free)).spend

/-- LCH_LINK_CFG of a lane with activate, enc, key slot and partner, and its message limits as they stand. -/
def Dev.linkCfgWord (d : Dev) (n act enc slot partner : Nat) : Nat :=
  act + enc * 2 + slot * 4 + partner * 64 + (d.rdWord (Reg.LCH_LINK_CFG (laneSel n) (laneJ n))).toNat / 2 ^ 13 * 2 ^ 13

/-- A link of the cluster takes its partner's position and, where it is to be encrypted, an agreed key, and is activated with them. -/
def Dev.clusterLink (d : Dev) (fz : Fuses) (n partner : Nat) (slot : Option Nat) : Dev :=
  let a := Reg.LCH_LINK_CFG (laneSel n) (laneJ n)
  let d := if d.linkState n = 2 then d.coreWrite fz 1 a (d.linkCfgWord n 0 0 0 partner) else d
  let d := d.coreWrite fz 1 a (d.linkCfgWord n 0 (if slot.isSome then 1 else 0) (slot.getD 0 % 16) partner)
  let d := match slot with
    | some k => d.agreeKey (k % 16)
    | none => d
  d.coreWrite fz 1 a ((d.rdWord a).toNat / 2 * 2 + 1)

/-- Every link of the cluster takes its settings, the farthest first, the manager's last; the i-th of a device uses key slot i mod 16
(DESIGN CHOICE, log entry 101). -/
def Dev.clusterLinks (d : Dev) (fz : Fuses) (encrypt : Bool) : Dev :=
  let edges := d.clusterEdges
  each (List.range d.cluster.members.length).reverse (fun p d =>
    each ((edges.filter (fun e => e.1 == p)).zipIdx) (fun e d =>
      let slot := if encrypt then some (e.2 % 16) else none
      if p = 0 then d.clusterLink fz e.1.2.1 e.1.2.2 slot
      else d.clusterSend (.link e.1.2.1 e.1.2.2 slot) p) d) d

/-- The 64 bytes of a device's map entry (CLUSTER_MAP, Table 12.9). -/
def Dev.mapEntry (d : Dev) (p : Nat) : List Byte :=
  match d.cluster.members[p]? with
  | none => List.replicate 64 0
  | some x =>
    let lost := decide (p ≠ 0) && x.parent == 0 && (d.linkState x.lane == 3 || d.linkState x.lane == 4)
    toBytes x.serial 8 ++ toBytes x.hops 1 ++ toBytes x.lane 1 ++ [Config.mapState lost] ++ List.replicate 5 0 ++ slice x.identity 0 48

/-- The manager begins to form a cluster: position 0 and the links to workers without a position (R313 step 1). -/
def Dev.formBegin (d : Dev) (fz : Fuses) : Dev :=
  let d := each [16, 17, 18, 19] (fun s d => d.coreWrite fz 1 (Reg.LCH_CTL s) 0x80000080) d
  let d := d.helloFill fz 0
  let d := { d with cluster := { d.cluster with
    formed := false, members := [{ serial := fz.serial.toNat, identity := Config.sha384 fz.identityPub }], found := [] } }
  each (List.range 192) (fun n d =>
    let a := Reg.LCH_LINK_CFG (laneSel n) (laneJ n)
    if d.linkState n = 1 ∧ newWorker (d.link n).hello then d.coreWrite fz 1 a ((d.rdWord a).toNat / 2 * 2 + 1) else d) d

/-- The manager has positioned every worker: routes, links, encryption (R313 steps 3 and 4). -/
def Dev.formEnd (d : Dev) (fz : Fuses) (encrypt : Bool) : Dev :=
  let d := (d.clusterRoutes fz).clusterLinks fz encrypt
  { d with cluster := { d.cluster with formed := true } }

/-! ### Messages -/

/-- The firmware arms a stop-at on its own pacer (R140). -/
def Dev.armStop (d : Dev) (fz : Fuses) (c : Nat) : Dev :=
  let d := (d.coreWrite fz 0 Reg.PACE_STOP_AT_LO c).coreWrite fz 0 Reg.PACE_STOP_AT_HI (c / 2 ^ 32)
  d.coreWrite fz 0 Reg.PACE_CMD 4

/-- The firmware arms a start at a wall time on its own pacer (R133). -/
def Dev.armStart (d : Dev) (fz : Fuses) (t : Nat) : Dev :=
  let d := (d.coreWrite fz 0 Reg.PACE_START_TIME_LO t).coreWrite fz 0 Reg.PACE_START_TIME_HI (t / 2 ^ 32)
  d.coreWrite fz 0 Reg.PACE_CMD 9

/-- A worker activates a link in HELLO and tells the manager whom it sees there (R313 step 2). -/
def Dev.workerLink (d : Dev) (fz : Fuses) (n : Nat) : Dev :=
  if (d.link n).hello = [] then d
  else
    let a := Reg.LCH_LINK_CFG (laneSel n) (laneJ n)
    let d := if d.linkState n = 1 then d.coreWrite fz 1 a ((d.rdWord a).toNat / 2 * 2 + 1) else d
    d.clusterSend (.report n (d.link n).hello) 0

/-- A worker takes its position: on all four base dies, locked; its HELLOs show it, the lane that the message came on leads to the
manager, and it activates its other links and reports what it has latched (R311, R313 step 2). -/
def Dev.workerPlaced (d : Dev) (fz : Fuses) (n p hops : Nat) : Dev :=
  if d.on (Reg.LCH_CTL_lock 16) then d
  else
    let d := each [16, 17, 18, 19] (fun s d => d.coreWrite fz 1 (Reg.LCH_CTL s) (p % 128 + 0x80000080)) d
    let d := (d.helloFill fz hops).routeSet fz 0 n
    let d := d.clusterSend (.identity (Config.sha384 fz.identityPub)) 0
    each (List.range 192) (fun k d => d.workerLink fz k) d

/-- What the firmware does with a cluster message. A worker acts for the manager (R145, R313); a manager notes what workers tell it. That the
cycle number of a start is compared with nothing is a DESIGN CHOICE (log entry 143). -/
def Dev.clusterAct (d : Dev) (fz : Fuses) (e : InMsg) (x : ClusterMsg) : Dev :=
  if d.role = 2 then
    match x with
    | .start t _ => d.armStart fz t
    | .stopAt c => d.armStop fz c
    | .disarm => d.coreWrite fz 0 Reg.PACE_CMD 5
    | .position p hops => d.workerPlaced fz e.lane p hops
    | .route q k => d.routeSet fz q k
    | .link k q slot => d.clusterLink fz k q slot
    | .onward k w => d.sendOn k 0 true [w]
    | _ => d
  else
    match x with
    | .missed => d.noteMissed e.src
    | .report k h => { d with cluster := { d.cluster with found := d.cluster.found ++ [(e.src, k, h)] } }
    | .identity h => { d with cluster := { d.cluster with
        members := d.cluster.members.modify e.src (fun m => { m with identity := h }) } }
    | .loadFailed c => { d with cluster := { d.cluster with loadFails := d.cluster.loadFails ++ [(e.src, c)] } }
    | .answer k w =>
      let q := d.cluster.members.findIdx (fun m => m.parent == e.src && m.lane == k)
      { d with fw := { d.fw with inbox := d.fw.inbox ++ [{ lane := e.lane, src := q, toLocal := false, data := w }] } }
    | _ => d

/-- Takes the first messages of one sender in the inbox that are a cluster message, in order (R145, R313). -/
def Dev.clusterNext (d : Dev) (fz : Fuses) : Option Dev :=
  let mine (e x : InMsg) : Bool := x.lane == e.lane && x.src == e.src && x.toLocal == e.toLocal
  let read (e : InMsg) : Option (InMsg × ClusterMsg × Nat) :=
    (Config.clusterRead ((d.fw.inbox.filter (mine e)).map (fun x => x.data))).map (fun r => (e, r.1, r.2))
  (d.fw.inbox.findSome? read).map (fun r =>
    let rest := d.fw.inbox.foldl (fun (l : List InMsg × Nat) x =>
      if mine r.1 x && decide (0 < l.2) then (l.1, l.2 - 1) else (l.1 ++ [x], l.2)) ([], max r.2.2 1)
    ({ d with fw := { d.fw with inbox := rest.1 } }).clusterAct fz r.1 r.2.1)

/-- A positioned worker sends what a device without a position answers on to the manager (R313). -/
def Dev.answersOn (d : Dev) : Dev :=
  let p (e : InMsg) : Bool := e.toLocal && e.lane != d.get (Reg.LCH_FWD_lane 16 0)
  if d.role = 2 ∧ d.on (Reg.LCH_FWD_valid 16 0) then
    each (d.fw.inbox.filter p) (fun e d => d.clusterSend (.answer e.lane e.data) 0)
      { d with fw := { d.fw with inbox := d.fw.inbox.filter (fun e => !p e) } }
  else d

/-- Takes cluster messages one after another. -/
def Dev.clusterTakes (d : Dev) (fz : Fuses) : Nat → Dev
  | 0 => d
  | k + 1 =>
    match d.clusterNext fz with
    | some e => e.clusterTakes fz k
    | none => d

/-- The firmware of a device of a cluster takes the cluster messages among the CONTROL messages that have come in. -/
def Dev.clusterMsgs (d : Dev) (fz : Fuses) : Dev :=
  if d.spState ≠ 3 ∨ d.role = 0 then d
  else
    let d := d.answersOn
    d.clusterTakes fz d.fw.inbox.length

end Sys2Proof.Machine
end

