-- ==== Sys2Proof/Machine/Host.lean ====
section
/-! DEFINITION. The host port, the mailboxes and their rings, BAR0 and BAR2, the boot ROM and what the commands of service
firmware 3.2 share: chapter 12 of spec/ (R393 to R420). The commands themselves are in Machine/Fw*Cmds.lean. -/

namespace Sys2Proof.Machine

/-! ### The firmware takes error records (R384, Table 12.7) -/

/-- The firmware takes every record into its log and raises vectors 16 and 17. -/
def Dev.logPoll (d : Dev) : Dev :=
  if d.spState ≠ 3 then d
  else
    let x := d.takeRecords
    let d := x.2
    let d := if x.1.any (fun r => decide (4 ≤ r.severity)) then d.hostEvent 16 else d
    if x.1.any (fun r => decide (d.fw.irqSev ≤ r.severity)) then d.hostEvent 17 else d

/-! ### Rings (R402 to R405) -/

/-- A mailbox. -/
def Dev.mb (d : Dev) (m : Nat) : Mailbox := d.mbs.get m {}
/-- Sets a mailbox. -/
def Dev.setMb (d : Dev) (m : Nat) (x : Mailbox) : Dev := { d with mbs := d.mbs.put m x {} }

/-- A ring's size: log2 4 to 10, other values act as 4 (Table 12.4). -/
def ringSize (log2 : Nat) : Nat := 2 ^ (if 4 ≤ log2 ∧ log2 ≤ 10 then log2 else 4)

/-- The entries that a ring holds (R402). -/
def ringHeld (tail head : Nat) : Nat := (tail + 65536 - head) % 65536

/-- The free entries of a mailbox's response ring. -/
def Dev.rspFree (d : Dev) (m : Nat) : Nat :=
  ringSize (d.get (Reg.MB_RSP_SIZE_log2 m)) - ringHeld (d.get (Reg.MB_RSP_TAIL_tail m)) (d.get (Reg.MB_RSP_HEAD_head m))

/-- A mailbox is in error with a cause: 1 BAD_INDEX, 2 DMA_FAULT, with its record (R403, R405, Table 12.10). -/
def Dev.mbError (d : Dev) (m cause : Nat) : Dev :=
  let d := (d.set (Reg.MB_STATUS_error m) 1).set (Reg.MB_STATUS_cause m) cause
  d.err 32 m (if cause = 1 then 0 else 3) (0x1500 + cause)

/-- Commands that are long (Table 12.9), and RUN commands, which are long on a manager (R416). -/
def longOps : List Nat :=
  [0x0102, 0x0202, 0x0203, 0x0307, 0x0401, 0x0402, 0x0403, 0x0501, 0x0504, 0x0602, 0x0603, 0x0604, 0x0605, 0x0606, 0x0607] ++
  [0x0608, 0x0701, 0x0705, 0x0706, 0x0709, 0x0801, 0x0802, 0x0803, 0x0805, 0x0901, 0x0A01, 0x0A03, 0x0A04, 0x0A06, 0x0A07] ++
  [0x0B01]
/-- Commands that are short wherever they run. -/
def shortOps : List Nat :=
  [0x0101, 0x0103, 0x0104, 0x0201, 0x0204, 0x0205, 0x0301, 0x0306, 0x0404, 0x0405, 0x0502, 0x0503, 0x0505, 0x0601, 0x0702] ++
  [0x0703, 0x0704, 0x0707, 0x0708, 0x0804, 0x0902, 0x0903, 0x0904, 0x0905, 0x0906, 0x0907, 0x0A02, 0x0A05, 0x0B02]
/-- RUN_START, RUN_STOP, RUN_STEP and RUN_STOP_AT. -/
def runOps : List Nat := [0x0302, 0x0303, 0x0304, 0x0305]
/-- Commands that name a session (Table 12.9). -/
def sessionOps : List Nat := [0x0202, 0x0203, 0x0502, 0x0503, 0x0504, 0x0505]

/-- A descriptor's fields (Table 12.5). -/
def descOf (l : List Byte) (leads : Bool) : Desc :=
  let op := leAt l 0 2
  let flags := leAt l 2 2
  { op := op
    irq := bitOf flags 0
    progress := bitOf flags 1
    barrier := bitOf flags 2
    rsvd := decide (8 ≤ flags) || leAt l 12 4 != 0
    tag := BitVec.ofNat 32 (leAt l 4 4)
    session := leAt l 8 4
    p := slice l 16 48
    long := decide (op ∈ longOps) || (leads && decide (op ∈ runOps)) }

/-- Whether a mailbox may fetch now (R403, R404, R405, R420, R497). -/
def Dev.mayFetch (d : Dev) (m : Nat) : Bool :=
  d.on (Reg.MB_CTL_enable m) && !d.on (Reg.MB_STATUS_error m) && decide (d.spState ≠ 5) && !d.frozenSp 6 &&
    decide (1 < d.rspFree m) && d.get (Reg.MB_CMD_TAIL_tail m) != d.get (Reg.MB_CMD_HEAD_head m)

/-- Long commands of a mailbox that are fetched and not complete. -/
def Mailbox.longs (x : Mailbox) : Nat :=
  (x.fetched.filter (fun y => y.long && !y.busy)).length + (if x.job.isSome then 1 else 0)

/-- A command joins those fetched: a long one that finds four queued will be answered BUSY (Table 12.8). -/
def Dev.enqueue (d : Dev) (m : Nat) (l : List Byte) : Dev :=
  let x := d.mb m
  let c := descOf l d.leads
  d.setMb m { x with fetched := x.fetched ++ [{ c with busy := c.long && decide (4 ≤ x.longs) }] }

/-- The entry of a mailbox's command ring at MB_CMD_HEAD: base + (i mod size) × 64 (R402, R403). -/
def Dev.cmdEntry (d : Dev) (m : Nat) : Nat :=
  d.get (Reg.MB_CMD_BASE_LO_base m) + d.get (Reg.MB_CMD_BASE_HI_base m) * 2 ^ 32 +
    d.get (Reg.MB_CMD_HEAD_head m) % ringSize (d.get (Reg.MB_CMD_SIZE_log2 m)) * 64

/-- Fetches up to `n` entries in ring order; a host DMA error puts the mailbox in error (R403, R405). -/
def Dev.fetch (d : Dev) (m : Nat) : Nat → Dev
  | 0 => d
  | n + 1 =>
    if ¬ d.mayFetch m then d
    else
      match d.hostRead (d.cmdEntry m) 64 with
      | none => d.mbError m 2
      | some l => ((d.wrap (Reg.MB_CMD_HEAD_head m)).enqueue m l).fetch m n

/-- Fetches what the ring holds. -/
def Dev.fetchAll (d : Dev) (m : Nat) : Dev :=
  d.fetch m (ringHeld (d.get (Reg.MB_CMD_TAIL_tail m)) (d.get (Reg.MB_CMD_HEAD_head m)))

/-- A response interrupt goes out now. -/
def Dev.sendIrq (d : Dev) (m : Nat) : Dev :=
  (d.setMb m { d.mb m with irqLast := some d.now, irqDue := false }).sendVector (d.get (Reg.MB_CTL_vector m))

/-- A response asks for an interrupt, which MB_IRQ_HOLDOFF may hold back (Table 12.4). -/
def Dev.askIrq (d : Dev) (m : Nat) : Dev :=
  let due := match (d.mb m).irqLast with
    | some t => decide (t + d.get (Reg.MB_IRQ_HOLDOFF_us m) * ticksPerUs ≤ d.now)
    | none => true
  if due then d.sendIrq m else d.setMb m { d.mb m with irqDue := true }

/-- The 32 bytes of a response (Table 12.6). -/
def Rsp.bytes (x : Rsp) (phase : Bool) : List Byte :=
  toBytes x.tag.toNat 4 ++ toBytes x.status 2 ++
    toBytes ((if x.final then 1 else 0) + (if x.progress then 2 else 0) + (if phase then 128 else 0)) 1 ++
    toBytes x.unitKind 1 ++ toBytes x.steps 4 ++
    (List.range 5).flatMap (fun i => toBytes (x.r.getD i 0).toNat 4)

/-- Writes bytes to host memory. -/
def Dev.hostWrite (d : Dev) (a : Nat) (l : List Byte) : Dev :=
  { d with host := { d.host with mem := Memory.writeBytes d.host.mem a l } }

/-- Writes a response at MB_RSP_TAIL (R403, R404); a write that the host does not take is a host DMA error (R405). -/
def Dev.writeRsp (d : Dev) (m : Nat) (x : Rsp) : Dev :=
  let size := ringSize (d.get (Reg.MB_RSP_SIZE_log2 m))
  let tail := d.get (Reg.MB_RSP_TAIL_tail m)
  let a := d.get (Reg.MB_RSP_BASE_LO_base m) + d.get (Reg.MB_RSP_BASE_HI_base m) * 2 ^ 32 + tail % size * 32
  if ¬ d.hostReaches a 32 then d.mbError m 2
  else
    let d := d.hostWrite a (x.bytes (tail / size % 2 == 0))
    let d := d.wrap (Reg.MB_RSP_TAIL_tail m)
    if x.final ∧ x.irq ∧ d.on (Reg.MB_CTL_irq_en m) then d.askIrq m else d

/-- The place of descriptors that a manager relays, beside the 16 mailboxes (R418). -/
def relayMb : Nat := 16

/-- A command posts a response, to the manager where it was relayed: discarded once its mailbox was disabled since (R400, R405); without room a progress
response is dropped and any other held (R404). -/
def Dev.post (d : Dev) (m : Nat) (mute : Bool) (x : Rsp) : Dev :=
  let b := d.mb m
  if mute then d
  else if m = relayMb then d.sendTo 0 [BitVec.ofNat 256 (ofBytes (x.bytes false))]
  else if b.held ≠ [] ∨ d.rspFree m ≤ 1 then
    (if x.progress then d else d.setMb m { b with held := b.held ++ [x] })
  else d.writeRsp m x

/-- Held responses go out while there is room (R404). -/
def Dev.flushHeld (d : Dev) (m : Nat) : List Rsp → Dev
  | [] => d.setMb m { d.mb m with held := [] }
  | x :: r => if 1 < d.rspFree m then (d.writeRsp m x).flushHeld m r else d.setMb m { d.mb m with held := x :: r }

/-! ### Sessions (R414) -/

/-- The front end reads a stream (Table 10.13: READING, SKIPPING, CHECKING). -/
def Dev.streaming (d : Dev) : Bool :=
  let st := d.get Reg.CFG_STATUS_state
  st == 2 || st == 3 || st == 4

/-- Ends the leases of a session's tiles: each is halted first. -/
def Dev.endLeases (d : Dev) (tiles : List Nat) : Dev :=
  each tiles (fun k d =>
    let f := k / 96
    let t := k % 96
    if d.leased f t then
      (d.set (Reg.MAC_TILE_CFG_mode (dieOf f) (tileNum f t)) 0).setTile f t { d.tile f t with busy := false }
    else d) d

/-- A session closes: a LOAD session as LOAD_CLOSE with abort does, a CAPTURE session as CAPTURE_CLOSE does. -/
def Dev.closeSession (d : Dev) (x : Session) : Dev :=
  let d := { d with fw := { d.fw with sessions := d.fw.sessions.filter (fun y => y.num != x.num) } }
  if x.capture then d.endLeases x.tiles else d.pathEnd

/-- Every session of a mailbox closes. -/
def Dev.closeSessions (d : Dev) (m : Nat) : Dev :=
  each (d.fw.sessions.filter (fun x => x.mb == m)) (fun x d => d.closeSession x) d

/-- A session by number, where it belongs to the mailbox and is of the kind asked for. -/
def Dev.session (d : Dev) (m num : Nat) (capture : Bool) : Option Session :=
  d.fw.sessions.find? (fun x => x.num == num && x.mb == m && x.capture == capture)

/-- Replaces a session. -/
def Dev.setSession (d : Dev) (x : Session) : Dev :=
  { d with fw := { d.fw with sessions := d.fw.sessions.map (fun y => if y.num = x.num then x else y) } }

/-! ### Enabling and disabling (R400, R405) -/

/-- Responses of what a mailbox has fetched will be discarded. -/
def Dev.muteMb (d : Dev) (m : Nat) : Dev :=
  let x := d.mb m
  d.setMb m { x with
    fetched := x.fetched.map (fun c => { c with mute := true })
    job := x.job.map (fun j => { j with desc := { j.desc with mute := true } })
    held := [], irqDue := false }

/-- A write of 0 to MB_CTL.enable: fetching stops, sessions close. -/
def Dev.mbDisable (d : Dev) (m : Nat) : Dev :=
  let was := d.on (Reg.MB_CTL_enable m)
  let d := d.set (Reg.MB_CTL_enable m) 0
  if was then (d.muteMb m).closeSessions m else d

/-- A write of 1 to MB_CTL.enable: all four indices are 0; an error ends with the write of 1 that follows one of 0. -/
def Dev.mbEnable (d : Dev) (m : Nat) : Dev :=
  let d := if d.on (Reg.MB_CTL_enable m) then d
    else (d.set (Reg.MB_STATUS_error m) 0).set (Reg.MB_STATUS_cause m) 0
  let d := (d.set (Reg.MB_CMD_TAIL_tail m) 0).set (Reg.MB_CMD_HEAD_head m) 0
  ((d.set (Reg.MB_RSP_TAIL_tail m) 0).set (Reg.MB_RSP_HEAD_head m) 0).set (Reg.MB_CTL_enable m) 1

/-- A write of MB_CTL. -/
def Dev.mbCtl (d : Dev) (m : Nat) (v : Word) : Dev :=
  let on := d.get (Reg.MB_CTL_enable m)
  let d := (d.plainWrite (Reg.MB_CTL m) v).set (Reg.MB_CTL_enable m) on
  if v.getLsbD 0 then d.mbEnable m else d.mbDisable m

/-- The doorbell (R403). -/
def Dev.mbTail (d : Dev) (m tail : Nat) : Dev :=
  let d := d.set (Reg.MB_CMD_TAIL_tail m) tail
  if ¬ d.on (Reg.MB_CTL_enable m) ∨ d.on (Reg.MB_STATUS_error m) then d
  else if ringSize (d.get (Reg.MB_CMD_SIZE_log2 m)) < ringHeld (d.get (Reg.MB_CMD_TAIL_tail m)) (d.get (Reg.MB_CMD_HEAD_head m)) then
    d.mbError m 1
  else d.fetchAll m

/-- The host frees response entries: held responses and fetching resume (R404). -/
def Dev.mbRspHead (d : Dev) (m head : Nat) : Dev :=
  let d := d.set (Reg.MB_RSP_HEAD_head m) head
  (d.flushHeld m (d.mb m).held).fetchAll m

/-- PE_PERST_N and Function Level Reset (R400, R401): the host port, the window base, every mailbox page and the
identity page's own state return to reset. -/
def Dev.hostReset (d : Dev) : Dev :=
  let d := each (List.range 16) (fun m d => d.mbDisable m) d
  let d := each (List.range 16) (fun m d => d.muteMb m) d
  let d := d.resetRegs 0x100010000 0x100022000
  let d := ((d.set Reg.ID_EVENTS_pending 0).set Reg.ID_HEARTBEAT_count 0).set Reg.ID_BOOT_CAUSE_cause 0
  { d with host := { mem := d.host.mem, vectors := d.host.vectors } }

/-! ### The boot ROM (R395 to R397) -/

/-- In mode MANAGER the ROM brings up all lanes and sends HELLO frames with role 2 and position 0xFF (Table 12.1). -/
def Dev.romLanes (d : Dev) (fz : Fuses) : Dev :=
  if d.boot.mode ≠ 2 then d
  else
    let d := d.helloFill fz 0xFF
    let d := each [0, 1, 2, 3] (fun b d =>
      let a := Reg.LCH_HELLO_TX (baseSel b) 2
      d.wrWord a (setBits (setBits (d.rdWord a) 0 8 2) 8 8 0xFF)) d
    each (List.range 12) (fun k d => d.bankCtl k 1) d

/-- The image that came in CONTROL slots of local frames, on the first lane that delivered one (Table 12.1). -/
def Dev.controlImage (d : Dev) : Option (List Byte) :=
  (d.fw.inbox.find? (fun e => e.toLocal)).map (fun e =>
    (d.fw.inbox.filter (fun x => x.toLocal && x.lane == e.lane)).flatMap (fun x => toBytes x.data.toNat 32))

/-- The image of the boot source (Table 12.1): what the lanes brought, the staging area where the doorbell has been written, or what
the ROM reads from the flash. -/
def Dev.bootImage (d : Dev) (flash : Option (List Byte)) : Option (List Byte) :=
  if d.boot.mode = 2 then d.controlImage
  else if d.boot.mode = 1 ∨ d.boot.doorbell then
    (if d.boot.staging = [] then none else some (Memory.readBytes d.boot.staging 0 0x200000))
  else flash

/-- What keeps an image from running (R396): the cause of Table 12.3. -/
def imageCause (fz : Fuses) (src : Option (List Byte)) : Option Nat :=
  match src with
  | none => some 1
  | some l =>
    let h := Config.imageHeader (slice l 0 256)
    if h.magic ≠ 0x53504657 ∨ h.length < 256 ∨ 0x200000 < h.length + 96 ∨ l.length < h.length + 96 then some 2
    else if Config.sha384 h.key ≠ Config.bootHash ∨
        ¬ Config.ecdsaVerify h.key (Config.sha384 (slice l 0 h.length)) (slice l h.length 96) then some 3
    else if h.security < fz.secVersion then some 4
    else none

/-- The ROM finishes checking an image: one that verifies goes to service-processor memory, and core 0 starts at its entry offset; else
the attempt has failed (R396, R397). In mode HOST an attempt begins with the doorbell. -/
def Dev.imageVerified (d : Dev) (fz : Fuses) (flash : Option (List Byte)) : Dev :=
  if ¬ d.boot.attempt ∨ d.boot.started ∨ d.spState = 5 ∨ (d.boot.mode = 1 ∧ ¬ d.boot.doorbell) then d
  else
    match imageCause fz (d.bootImage flash) with
    | some cause => d.bootFail cause
    | none =>
      let l := (d.bootImage flash).getD []
      let h := Config.imageHeader (slice l 0 256)
      let l := slice l 0 (h.length + 96)
      let d := { d with
        boot := { d.boot with started := true, attempt := false, version := h.version, image := l, staging := [] }
        fw := { d.fw with inbox := [] }
        mem := Memory.writeBytes d.mem 0x7000000000 l }
      { d with cores := d.cores.put 0 { d.core 0 with pc := BitVec.ofNat 32 h.entry, running := true } {} }

/-- ID_BOOT_DOORBELL: the ROM begins to verify the staging area (R396), another attempt after a failure (R397). -/
def Dev.bootDoorbell (d : Dev) : Dev :=
  if ¬ d.staging then d
  else (({ d with boot := { d.boot with attempt := true, doorbell := true } }).set Reg.ID_STATE_sp_state 2).msgsTake

/-- The boot source delivers no image in time (R397). -/
def Dev.bootTimeout (d : Dev) : Dev :=
  if ¬ d.boot.attempt ∨ d.boot.started ∨ d.spState = 5 then d else d.bootFail 5

/-- The started firmware reports ready (R397) and does what service firmware 3.2 does at boot: the granary partitions from the
fuses, then SEC_LOCK (R426); the cores' monitors as the debug level admits (R492); its HELLO content (R312). -/
def Dev.firmwareReady (d : Dev) (fz : Fuses) : Dev :=
  if ¬ d.boot.started ∨ d.spState = 3 ∨ d.spState = 5 then d
  else
    let d := (d.set Reg.ID_STATE_sp_state 3).wrWord Reg.ID_FW_VERSION (d.boot.version &&& 0x00FFFFFF#32)
    let d := each (List.range 4) (fun b d => d.set (Reg.SEC_GRAN_WORLD_partition_mb b) (fz.partition.toNat % 16)) d
    let d := d.set Reg.SEC_LOCK_lock 1
    let d := each (List.range 4) (fun c d =>
      let d := { d with cores := d.cores.put c { d.core c with running := !(c == 0 && d.on Reg.SEC_STATUS_core0_held) } {} }
      if c ≠ 0 ∨ d.debugLevel fz = 2 then d.set (Reg.SP_CORE_DBG_CTL_mon_en c) 1 else d) d
    d.helloFill fz 0xFF

/-! ### BAR0 and BAR2 (R396, R401, R412) -/

/-- A host write of a BAR0 word. -/
def Dev.barWrite (d : Dev) (off : Nat) (v : Word) : Dev :=
  let d := { d with host := { d.host with linkUp := true } }
  let a := 0x100000000 + off
  if off % 4 ≠ 0 then d
  else if a = Reg.ID_BOOT_DOORBELL then (if v.getLsbD 0 then d.bootDoorbell else d)
  else if off < 0x10000 then d.plainWrite a v
  else if off < 0x20000 then
    let m := (off - 0x10000) / 0x1000
    let o := off % 0x1000
    if o = 0 then d.mbCtl m v
    else if o = 0x14 then d.mbTail m (v.toNat % 65536)
    else if o = 0x30 then d.mbRspHead m (v.toNat % 65536)
    else if o = 0x34 then d.plainWrite a v
    else if d.on (Reg.MB_CTL_enable m) then d
    else d.plainWrite a v
  else if off < 0x20400 ∧ off % 16 = 12 then
    let i := (off - 0x20000) / 16
    let d := d.plainWrite a v
    if ¬ v.getLsbD 0 ∧ d.host.pendingBits.getLsbD i then
      { d with host := { d.host with pendingBits := d.host.pendingBits &&& ~~~(BitVec.ofNat 64 (2 ^ i)),
                                     vectors := d.host.vectors ++ [i] } }
    else d
  else d.plainWrite a v

/-- A BAR2 access of `n` bytes at an offset, a write where it brings data. -/
def Dev.bar2 (d : Dev) (fz : Fuses) (x n : Nat) (data : Option (List Byte)) (us : List Upset) : Dev :=
  let d := { d with host := { d.host with linkUp := true } }
  if d.staging ∧ x + n ≤ 0x200000 then
    match data with
    | some l => { d with boot := { d.boot with staging := Memory.writeBytes d.boot.staging x (l.take n) } }
    | none => { d with host := { d.host with lastRead := Memory.readBytes d.boot.staging x n } }
  else
    let r := d.barServe fz (d.host.window + x) n data us .first
    if r.1 then r.2 else r.2.barHold (d.host.window + x) n data

/-! ### Running commands (R394, R406 to R411, R415) -/

/-- The initiators of a mailbox's commands: the core that serves its world, and the DMA engine for it (R394). -/
def mbWho (fz : Fuses) (m : Nat) : Who := if fz.mbxSecure m then .core 0 else .core 1
/-- The DMA engine in the world of a mailbox. -/
def mbDma (fz : Fuses) (m : Nat) : Who := .dma (fz.mbxSecure m)

/-- Whether the mailboxes of a world can be served: the firmware runs, and core 0 is not held for the secure ones (R394, R435). -/
def Dev.served (d : Dev) (fz : Fuses) (m : Nat) : Bool :=
  decide (d.spState = 3) && !(fz.mbxSecure m && d.on Reg.SEC_STATUS_core0_held)

/-- The command at the head of a mailbox, where it may start: with a long command running neither another long one nor one with
barrier starts (R410). One that is answered BUSY at once runs as a short one. -/
def Dev.headCmd (d : Dev) (m : Nat) : Option Desc :=
  match (d.mb m).fetched with
  | [] => none
  | x :: _ => if (d.mb m).job = none ∨ ¬ (x.barrier ∨ (x.long ∧ ¬ x.busy)) then some x else none

/-- Whether a mailbox has a short command to start. -/
def Dev.shortReady (d : Dev) (m : Nat) : Bool :=
  match d.headCmd m with
  | some x => !x.long || x.busy
  | none => false

/-- Whether a mailbox has a step of a long command to run. -/
def Dev.longReady (d : Dev) (m : Nat) : Bool :=
  (d.mb m).job.isSome || (match d.headCmd m with | some x => x.long && !x.busy | none => false)

/-- A mailbox's priority, 7 the highest; relayed commands have the lowest (R410; DESIGN CHOICE, log entry 159). -/
def Dev.priority (d : Dev) (m : Nat) : Nat := if m < 16 then d.get (Reg.MB_CTL_priority m) else 0

/-- Mailboxes in the order in which a core takes them: higher priority first, then those nearer after a place in the round. -/
def Dev.ranked (d : Dev) (after : Nat) (l : List Nat) : List Nat :=
  (List.range 8).reverse.flatMap (fun p => ((List.range 17).map (fun i => (after + 1 + i) % 17)).filter (fun m =>
    decide (m ∈ l) && d.priority m == p))

/-- The mailboxes of a mailbox's world that no core is busy with, and the cores of that world that are free: core 0 serves the secure
mailboxes, three cores the others (R394). -/
def Dev.idleMbs (d : Dev) (fz : Fuses) (m : Nat) : List Nat × Nat :=
  let l := (List.range 17).filter (fun k => fz.mbxSecure k == fz.mbxSecure m)
  (l.filter (fun k => !(d.mb k).waits), (if fz.mbxSecure m then 1 else 3) - (l.filter (fun k => (d.mb k).waits)).length)

/-- Whether a core that is free takes a mailbox's short command next: highest priority, then lowest number (R410). -/
def Dev.shortTurn (d : Dev) (fz : Fuses) (m : Nat) : Bool :=
  let w := d.idleMbs fz m
  (d.mb m).waits || (decide (0 < w.2) && (d.ranked 16 (w.1.filter d.shortReady)).head? == some m)

/-- Whether a core that is free takes a step of a mailbox's long command next: no short command waits, highest priority first, round robin
among equals; of the three cores of the non-secure world each may run one (R410). -/
def Dev.longTurn (d : Dev) (fz : Fuses) (m : Nat) : Bool :=
  let w := d.idleMbs fz m
  let after := d.fw.turn.getD (if fz.mbxSecure m then 1 else 0) 16
  (d.mb m).waits ||
    (!w.1.any d.shortReady && decide (m ∈ (d.ranked after (w.1.filter d.longReady)).take w.2))

/-- The firmware has run a step of a mailbox's long command. -/
def Dev.tookTurn (d : Dev) (fz : Fuses) (m : Nat) : Dev :=
  { d with fw := { d.fw with turn := d.fw.turn.set (if fz.mbxSecure m then 1 else 0) m } }

/-- The command that a mailbox starts next, where it has the opcode, may start, and is the one that a core takes (R394, R410). -/
def Dev.nextCmd (d : Dev) (fz : Fuses) (m op : Nat) : Option Desc :=
  match d.headCmd m with
  | none => none
  | some x =>
    if x.op = op ∧ d.served fz m ∧ (if x.long ∧ ¬ x.busy then d.longTurn fz m else d.shortTurn fz m) then some x else none

/-- The urgent error interrupt comes before any other work (R383, R410). -/
def Dev.urgentFirst (d : Dev) : Dev := if d.urgentIrq = 0 then d else d.logPoll

/-- A core waits for an access that the command of a mailbox makes. -/
def Dev.blocked (d : Dev) (m : Nat) : Dev := d.setMb m { d.mb m with waits := true }

/-- The status of a command that fails a check common to all (Table 12.8, R406, R415, R416), in this order: format, world,
halt, role. -/
def Dev.cmdGate (d : Dev) (fz : Fuses) (m : Nat) (x : Desc) : Option Nat :=
  let cat := x.op / 256
  if x.busy then some 0x104
  else if x.rsvd ∨ (x.session ≠ 0 ∧ x.op ∉ sessionOps) then some 0x101
  else if cat = 0x0A ∧ ¬ fz.mbxSecure m then some 0x102
  else if d.halted ∧ cat ≠ 0x01 ∧ cat ≠ 0x09 ∧ cat ≠ 0x0A ∧ cat ≠ 0x0B then some 0x300
  else if cat = 0x03 ∧ d.role = 2 then some 0x103
  else none

/-- Takes a mailbox's next command from those fetched. -/
def Dev.takeCmd (d : Dev) (m : Nat) : Dev := d.setMb m { d.mb m with fetched := (d.mb m).fetched.drop 1, waits := false }

/-- What a command answers: status, result words, unit kind, and the device after it. -/
structure Ans where
  st : Nat := 0
  r : List Word := []
  unit : Nat := 0
  wait : JobWait := .none
  dev : Dev

/-- A final response with a status. -/
def Dev.finish (d : Dev) (m : Nat) (x : Desc) (st : Nat) (r : List Word) (unit steps : Nat) : Dev :=
  d.post m x.mute { tag := x.tag, irq := x.irq, status := st, unitKind := unit, steps := steps, r := r }

/-- A short command runs: its checks, its effect, its one response (R407, R408). `body` answers the device alone where what
the command accesses keeps it waiting: it has then not started. -/
def Dev.short (d : Dev) (fz : Fuses) (m op : Nat) (body : Desc → Dev → Except Dev Ans) : Dev :=
  let d := d.urgentFirst
  match d.nextCmd fz m op with
  | none => d
  | some x =>
    match d.cmdGate fz m x with
    | some st => (d.takeCmd m).finish m x st [] 0 0
    | none =>
      match body x d with
      | .error e => e.blocked m
      | .ok a => (a.dev.takeCmd m).finish m x a.st a.r a.unit 0

/-- A long command starts: it answers STEPPING, and then runs as a job (R408). -/
def Dev.startJob (d : Dev) (fz : Fuses) (m : Nat) (j : Job) : Dev :=
  let d := (d.takeCmd m).tookTurn fz m
  let d := d.setMb m { d.mb m with job := some { j with since := d.now } }
  d.post m j.desc.mute { tag := j.desc.tag, status := 1, final := false }

/-- A job that ends with a status and changes nothing. -/
def refuse (x : Desc) (st : Nat) : Job := { desc := x, status := st }

/-- A long command runs: its checks, its effect, and the job that ends it. One that found four queued is answered at once. -/
def Dev.long (d : Dev) (fz : Fuses) (m op : Nat) (body : Desc → Dev → Except Dev (Job × Dev)) : Dev :=
  let d := d.urgentFirst
  match d.nextCmd fz m op with
  | none => d
  | some x =>
    match d.cmdGate fz m x with
    | some st => if x.busy then (d.takeCmd m).finish m x st [] 0 0 else d.startJob fz m (refuse x st)
    | none =>
      match body x d with
      | .error e => e.blocked m
      | .ok (j, e) => e.startJob fz m j

/-- A command whose data the DMA engine moves: while the engine is frozen it starts no burst, and the command waits (R497). -/
def Dev.byDma {α : Type} (body : Desc → Dev → Except Dev α) (x : Desc) (d : Dev) : Except Dev α :=
  if d.frozenSp 5 then .error d else body x d

/-- A command that is long on a manager with a position and short elsewhere (R416). -/
def Dev.either (d : Dev) (fz : Fuses) (m op : Nat) (body : Desc → Dev → Except Dev Ans) : Dev :=
  let d := d.urgentFirst
  match d.nextCmd fz m op with
  | none => d
  | some x =>
    if x.long ∧ ¬ x.busy then
      d.long fz m op (fun x d => (body x d).map (fun a => ({ desc := x, status := a.st, r := a.r, unitKind := a.unit, wait := a.wait }, a.dev)))
    else d.short fz m op body

/-- A DEVICE_ERROR: r0 is the log index of the record that the failing operation writes (Table 12.8), which the firmware
takes before it answers; 0 where it writes none. -/
def Dev.deviceError (d : Dev) (run : Dev → Dev) : Nat × Word × Dev :=
  let d := d.logPoll
  let e := (run d).logPoll
  (0x201, if e.log.next = d.log.next then 0 else BitVec.ofNat 32 d.log.next, e)

/-- The same as an answer. -/
def Dev.failed (d : Dev) (run : Dev → Dev) : Ans :=
  let x := d.deviceError run
  { st := x.1, r := [x.2.1], dev := x.2.2 }

/-- The same as a job. -/
def Dev.failedJob (d : Dev) (x : Desc) (run : Dev → Dev) : Job × Dev :=
  let y := d.deviceError run
  ({ desc := x, status := y.1, r := [y.2.1] }, y.2.2)

/-- An answer that only has a status. -/
def Dev.status (d : Dev) (st : Nat) : Except Dev Ans := .ok { st := st, dev := d }

/-- A register write that a command makes as its own effect. -/
def Dev.fwWrite (d : Dev) (fz : Fuses) (m a : Nat) (v : Nat) : Dev :=
  (d.regAccessWrite fz (mbWho fz m) a (BitVec.ofNat 32 v)).2
/-- A register read that a command makes. -/
def Dev.fwRead (d : Dev) (fz : Fuses) (m a : Nat) : Word × Dev :=
  let x := d.regAccessRead fz (mbWho fz m) a
  (x.1.getD 0, x.2)

/-- Several register reads in order. -/
def Dev.fwReads (d : Dev) (fz : Fuses) (m : Nat) : List Nat → List Word × Dev
  | [] => ([], d)
  | a :: r =>
    let x := d.fwRead fz m a
    let y := x.2.fwReads fz m r
    (x.1 :: y.1, y.2)

/-- Whether a long command that runs holds what `p` names (R419). -/
def Dev.heldBy (d : Dev) (p : Job → Bool) : Bool :=
  d.mbs.any (fun e => match e.2.job with | some j => p j | none => false)

/-- A bit per unit that failed, as r1 to r4 of a PARTIAL response, after r0. -/
def unitMask (units : List Nat) : List Word :=
  let v := units.foldl (fun x u => x + 2 ^ u) 0
  0#32 :: (List.range 4).map (fun i => BitVec.ofNat 32 (v / 2 ^ (32 * i)))

/-- The log index of the newest record of one of some classes since a time, 0 where the log holds none. -/
def Dev.logIndexOf (d : Dev) (since : Nat) (classes : List Nat) : Word :=
  match (d.log.entries.reverse.find? (fun r => decide (r.cls ∈ classes) && decide (since ≤ r.time))) with
  | some r => BitVec.ofNat 32 r.logIndex
  | none => 0

/-- A job ends in DEVICE_ERROR: r0 is the log index of its record, which the firmware has taken by then (Table 12.8, R384). -/
def Dev.errorEnd (d : Dev) (j : Job) (classes : List Nat) : Nat × Nat × List Word × Dev :=
  let d := d.logPoll
  (0x201, 0, [d.logIndexOf j.since classes], d)

/-- The end of a command on several units (R411): DONE, PARTIAL with the mask of the failed ones, or, where all failed,
DEVICE_ERROR as one unit would give. -/
def Dev.unitsEnd (d : Dev) (j : Job) (units failed : List Nat) (kind : Nat) (classes : List Nat) : Nat × Nat × List Word × Dev :=
  if failed = [] then (0, 0, [], d)
  else if failed.length = units.length then d.errorEnd j classes
  else (0x200, kind, unitMask failed, d)

/-! ### Steps of long commands (R408, R409) -/

/-- The registers that LOAD_CLOSE and LOAD_STATUS report. -/
def loadRegs : List Nat := [Reg.CFG_STATUS, Reg.CFG_FAIL, Reg.CFG_FAIL_OFFSET, Reg.CFG_SECTIONS]

/-- LANE_EYE_CTL for point k of a full eye scan: phases −32 to 31, in each voltages −63 to 63 (R274, Table 12.9). -/
def eyePoint (desc : Desc) (k : Nat) : Nat :=
  (k / 127 + 32) % 64 + (k % 127 + 65) % 128 * 64 + leAt desc.p 1 1 % 4 * 2 ^ 13 + leAt desc.p 2 1 % 16 * 2 ^ 15 + 2 ^ 19

/-- Whether `ms` milliseconds have passed since a job started. -/
def Dev.passed (d : Dev) (j : Job) (ms : Nat) : Bool := decide (j.since + ms * 1000 * ticksPerUs ≤ d.now)

/-- The end of a job whose wait is over: status, unit kind, result words, device; none while it still waits. `done` says that the
firmware gives up waiting for lanes or workers, for the spec gives no time. -/
def Dev.jobEnd (d : Dev) (fz : Fuses) (m : Nat) (j : Job) (done : Bool) : Option (Nat × Nat × List Word × Dev) :=
  match j.wait with
  | .none => some (j.status, j.unitKind, j.r, d)
  | .warm => some (0, 0, [], { d with fw := { d.fw with warmAt := some d.now } })
  | .dieReset bit => some (0, 0, [], d.fwWrite fz m Reg.PWR_DIE_RESET (setBits (d.rdWord Reg.PWR_DIE_RESET) bit 1 0).toNat)
  | .fieldReset f =>
    if d.bit (Reg.PWR_FLD_RESET_reset (dieOf f)) (idxOf f) then none else some (0, 0, [], d)
  | .loadData _ len at_ =>
    if at_ < len ∧ (d.streaming ∨ d.get Reg.CFG_STATUS_state = 1) then none else some (0, 0, [BitVec.ofNat 32 len], d)
  | .loadClose =>
    if d.streaming then none
    else
      let x := d.fwReads fz m loadRegs
      let d : Dev := { x.2 with fw := { x.2.fw with sessions := x.2.fw.sessions.filter (fun y => y.capture) } }
      if d.get Reg.CFG_STATUS_state = 5 then
        let e := d.errorEnd j [0x0C01]
        some (e.1, e.2.1, e.2.2.1 ++ x.1.drop 1, e.2.2.2)
      else some (0, 0, x.1, d)
  | .pacerStopped =>
    if d.running then none
    else
      let x := d.fwReads fz m [Reg.PACE_STATUS, Reg.PACE_COMMITTED_LO, Reg.PACE_COMMITTED_HI]
      some (0, 0, x.1, x.2)
  | .stateRead host => if j.data = [] ∨ d.frozenSp 5 then none else some (0, 0, [], d.hostWrite host j.data)
  | .hbmInit bases =>
    let ms := bases.flatMap (fun b => [2 * b, 2 * b + 1])
    if bases.any (fun b => !d.heldDie (baseSel b) && d.on (Reg.HBM_INIT_start (baseSel b))) then none
    else some (d.unitsEnd j ms (ms.filter (fun s => d.stackState s ≠ 2)) 1 [0x0801, 0x0802])
  | .hbmStacks ms =>
    if ms.any (fun s => d.stackState s == 3 || d.rdWord (Reg.HBM_STK_PC_BUSY (stackSel s) (s % 2)) != 0) then none
    else some (d.unitsEnd j ms (ms.filter (fun s => d.stackState s ≠ 2)) 1 [0x0801, 0x0802])
  | .region s r target =>
    if d.rgnState s r = target then some (0, 0, [], d)
    else if d.rgnState s r = 1 ∨ d.rgnState s r = 3 then none
    else some (d.errorEnd j [0x0906])
  | .lanes b ls =>
    let down := ls.filter (fun i => d.laneState (48 * b + i) ≠ 4)
    if down = [] ∨ done then some (d.unitsEnd j ls down 4 [0x0A01]) else none
  | .prbs n =>
    if ¬ d.passed j (leAt j.desc.p 4 4) then none
    else
      let x := d.fwReads fz m [Reg.LANE_PRBS_BITS_LO (laneSel n) (laneJ n), Reg.LANE_PRBS_BITS_HI (laneSel n) (laneJ n),
        Reg.LANE_PRBS_ERR (laneSel n) (laneJ n)]
      let d := x.2.fwWrite fz m (Reg.LANE_CTL (laneSel n) (laneJ n)) ((x.2.rdWord (Reg.LANE_CTL (laneSel n) (laneJ n))).toNat / 2 * 2)
      some (0, 0, x.1, d.fwWrite fz m (Reg.LANE_PRBS_CTL (laneSel n) (laneJ n)) 0)
  | .eye n k host =>
    if d.on (Reg.LANE_EYE_CTL_done (laneSel n) (laneJ n)) ∧ k = 64 * 127 - 1 ∧ ¬ d.frozenSp 5 then
      some (0, 0, [], d.hostWrite (host + 4 * k) (toBytes (d.rdWord (Reg.LANE_EYE_ERR (laneSel n) (laneJ n))).toNat 4))
    else none
  | .fieldWorld f => if d.sec.clearing.any (fun g => g == f) then none else some (0, 0, [], d)
  | .worldFlush => if d.rc.flushAll ∨ d.sec.zeroing ≠ [] ∨ d.sec.worldWait ≠ [] then none else some (0, 0, [], d)
  | .unwrap =>
    if d.on Reg.SEC_UNWRAP_STATUS_busy then none
    else if d.on Reg.SEC_UNWRAP_STATUS_fail then some (d.errorEnd j [0x1302])
    else some (0, 0, [], d)
  | .lifecycle =>
    if d.on Reg.LC_REQ_STATUS_busy then none
    else if d.on Reg.LC_REQ_STATUS_fail then
      (if d.get Reg.LC_REQ_STATUS_fail_code = 4 ∨ d.get Reg.LC_REQ_STATUS_fail_code = 6 then some (0x103, 0, [], d.logPoll)
       else some (d.errorEnd j [0x1402]))
    else if j.desc.op = 0x0A04 ∧ fz.lc ≠ leAt j.desc.p 0 1 then some (d.errorEnd j [0x1403])
    else some (0, 0, [], d)
  | .wipes => if d.sec.wipes ≠ [] then none else some (0, 0, [], d)
  | .cluster =>
    if ¬ done then none
    else
      let missed := d.cluster.missed
      some ({ d with cluster := { d.cluster with missed := [] } }.unitsEnd j (List.range d.cluster.members.length) missed 3 [])
  | .form encrypt =>
    let left := (d.candidates false).length
    if d.otherManager then
      some (0, 0, [0, BitVec.ofNat 32 left, BitVec.ofNat 32 (max 1 d.otherManagers)],
        { d with cluster := { d.cluster with conflict := true, formed := false, members := [], found := [] } })
    else if ¬ done ∨ (d.candidates true ≠ [] ∧ d.cluster.members.length < 128) then none
    else some (0, 0, [BitVec.ofNat 32 (d.cluster.members.length - 1), BitVec.ofNat 32 left, 0], d.formEnd fz encrypt)
  | .relay pos host =>
    match d.fw.inbox.find? (fun e => e.src == pos && e.data.getLsbD 48 && !d.frozenSp 5) with
    | none => none
    | some e =>
      let d := { d with fw := { d.fw with inbox := d.fw.inbox.filter (fun x => x.src != pos) } }
      some (0, 0, [], d.hostWrite host (toBytes e.data.toNat 32))

/-- A job that has not ended goes on: an eye scan stores a point that is done and starts the next; where the reports of one hop count are
in, a forming cluster takes the workers of the next (R313 step 2). -/
def Dev.jobGoes (d : Dev) (fz : Fuses) (m : Nat) (j : Job) (done : Bool) : Job × Dev :=
  match j.wait with
  | .form _ => (j, if done then d.placeLevel fz else d)
  | .eye n k host =>
    if d.on (Reg.LANE_EYE_CTL_done (laneSel n) (laneJ n)) ∧ ¬ d.frozenSp 5 then
      let d := d.hostWrite (host + 4 * k) (toBytes (d.rdWord (Reg.LANE_EYE_ERR (laneSel n) (laneJ n))).toNat 4)
      ({ j with done := j.done + 1, wait := .eye n (min (k + 1) 8127) host },
        d.fwWrite fz m (Reg.LANE_EYE_CTL (laneSel n) (laneJ n)) (eyePoint j.desc (min (k + 1) 8127)))
    else (j, d)
  | .loadData _ _ at_ => ({ j with done := at_ / 0x400000 }, d)
  | _ => (j, d)

/-- One step of a mailbox's long command: its end with the final response, or a progress response where a further
sixteenth of its units is done and the command asked for them (R408, R409). -/
def Dev.jobStep (d : Dev) (fz : Fuses) (m : Nat) (done : Bool) : Dev :=
  let d := d.urgentFirst
  match (d.mb m).job with
  | none => d
  | some j =>
    if ¬ d.served fz m ∨ ¬ d.longTurn fz m then d
    else
      let d := d.tookTurn fz m
      match d.jobEnd fz m j done with
      | some (st, unit, r, e) =>
        (e.setMb m { e.mb m with job := none }).finish m j.desc st r unit (j.steps + 1)
      | none =>
        let x := d.jobGoes fz m { j with steps := j.steps + 1 } done
        let q := x.1.done * 16 / x.1.total
        let tell := x.1.desc.progress && decide (x.1.posted < q) && decide (x.1.done < x.1.total)
        let k := { x.1 with posted := if tell then q else x.1.posted }
        let d := x.2.setMb m { x.2.mb m with job := some k }
        if tell then
          d.post m k.desc.mute { tag := k.desc.tag, status := 1, final := false, progress := true, steps := k.steps,
                                 r := [BitVec.ofNat 32 k.done, BitVec.ofNat 32 k.total] }
        else d

/-- The running command of a mailbox ends in DEVICE_ERROR once its limit has passed, where it has one: in ms from its start. -/
def Dev.jobLimit (d : Dev) (m : Nat) (limit : Job → Option Nat) : Dev :=
  match (d.mb m).job with
  | some j =>
    (match limit j with
     | some ms =>
       if j.since + ms * 1000 * ticksPerUs ≤ d.now then
         (d.setMb m { d.mb m with job := none }).finish m j.desc 0x201 [0] 0 j.steps
       else d
     | none => d)
  | none => d

end Sys2Proof.Machine
end

