-- ==== Sys2Proof/Machine/Fw1.lean ====
section
/-! DEFINITION. Commands of service firmware 3.2, first part: DEV, LOAD, RUN, STATE, CAPTURE and MEM (R415 to R419, Table 12.9
of spec/). `m` is the mailbox whose next command runs. -/

namespace Sys2Proof.Machine

/-- A parameter of a command: `n` bytes from p[k], little-endian. -/
def Desc.par (x : Desc) (k n : Nat) : Nat := leAt x.p k n

/-- A result word. -/
def word (n : Nat) : Word := BitVec.ofNat 32 n

/-- Whether a mailbox lacks the world that a register needs (R424, Table 12.8). -/
def Dev.noWorld (d : Dev) (fz : Fuses) (m a : Nat) : Bool := !d.regAllowed a (fz.mbxSecure m)

/-- Whether a mailbox lacks the world of a field. -/
def Dev.noField (d : Dev) (fz : Fuses) (m f : Nat) : Bool := d.fieldSecure f && !fz.mbxSecure m

/-- Whether a range of device addresses names a secure target that a mailbox may not reach. -/
def Dev.noRange (d : Dev) (fz : Fuses) (m a n : Nat) : Bool :=
  !fz.mbxSecure m && (pieces a n (n / 64 + 2)).any (fun x =>
    match placeOf x.1 with
    | some p => d.placeSecure x.1 p
    | none => false)

/-! ### DEV -/

/-- DEV_INFO. -/
def Dev.fwDevInfo (d : Dev) (fz : Fuses) (m : Nat) : Dev :=
  d.short fz m 0x0101 (fun _ d => .ok
    { r := [d.rdWord Reg.ID_FW_VERSION, deviceFeatures, d.liveWord fz Reg.ID_STATE, half fz.serial.toNat false,
            half fz.serial.toNat true], dev := d })

/-- DEV_RESET: 0 warm (R470), 1 a die, 2 a field (R473), 3 a block (R474). -/
def Dev.fwDevReset (d : Dev) (fz : Fuses) (m : Nat) : Dev :=
  d.long fz m 0x0102 (fun x d =>
    let sel := x.par 4 2
    let no (st : Nat) : Except Dev (Job × Dev) := .ok (refuse x st, d)
    match x.par 0 1 with
    | 0 => .ok ({ desc := x, wait := .warm }, d)
    | 1 =>
      if ¬ (sel ≤ 11 ∨ (16 ≤ sel ∧ sel ≤ 19)) then no 0x101
      else if d.noWorld fz m Reg.PWR_DIE_RESET then no 0x102
      else
        let old := d.rdWord Reg.PWR_DIE_RESET
        .ok ({ desc := x, wait := if old.getLsbD sel then .none else .dieReset sel },
             d.fwWrite fz m Reg.PWR_DIE_RESET (setBits old sel 1 1).toNat)
    | 2 =>
      if 384 ≤ sel then no 0x101
      else if d.noField fz m sel ∨ d.noWorld fz m (Reg.PWR_FLD_RESET (dieOf sel)) then no 0x102
      else
        .ok ({ desc := x, wait := .fieldReset sel }, d.fwWrite fz m (Reg.PWR_FLD_RESET (dieOf sel)) (2 ^ idxOf sel))
    | 3 =>
      (match d.blockReset (x.par 4 1) (x.par 5 1) with
       | some e =>
         if d.noWorld fz m (x.par 4 1 * 0x1000000 + x.par 5 1 * 0x10000) then no 0x102 else .ok ({ desc := x }, e)
       | none => no 0x101)
    | _ => no 0x101)

/-- DEV_REG_READ (R38, R39, R41). -/
def Dev.fwRegRead (d : Dev) (fz : Fuses) (m : Nat) : Dev :=
  d.short fz m 0x0103 (fun x d =>
    let a := x.par 0 4
    if a % 4 ≠ 0 then d.status 0x101
    else if blockPresent a ∧ d.noWorld fz m a then d.status 0x102
    else
      match d.regAccessRead fz (mbWho fz m) a with
      | (some v, e) => .ok { r := [v], dev := e }
      | (none, _) => .ok (d.failed (fun d => (d.regAccessRead fz (mbWho fz m) a).2)))

/-- DEV_REG_WRITE. -/
def Dev.fwRegWrite (d : Dev) (fz : Fuses) (m : Nat) : Dev :=
  d.short fz m 0x0104 (fun x d =>
    let a := x.par 0 4
    let v := word (x.par 4 4)
    if a % 4 ≠ 0 then d.status 0x101
    else if blockPresent a ∧ d.noWorld fz m a then d.status 0x102
    else
      match d.regAccessWrite fz (mbWho fz m) a v with
      | (true, e) => .ok { dev := e }
      | (false, _) => .ok (d.failed (fun d => (d.regAccessWrite fz (mbWho fz m) a v).2)))

/-- DEV_RESET kind 0 answered DONE 1 ms ago: SYSRST_N acts (R470). -/
def Dev.warmReset (d : Dev) (fz : Fuses) : Dev :=
  match d.fw.warmAt with
  | none => d
  | some t => if d.now < t + 1000 * ticksPerUs then d else ((d.sysrstAssert).sysrstRelease fz d.sec.tamperPin).romLanes fz

/-! ### LOAD -/

/-- The open LOAD session, where there is one. -/
def Dev.loadOpen (d : Dev) : Bool := d.fw.sessions.any (fun x => !x.capture)

/-- LOAD_OPEN: arms the front end on a path (R338); one LOAD session at a time (R414), none beside a STATE_RESTORE (R419). -/
def Dev.fwLoadOpen (d : Dev) (fz : Fuses) (m : Nat) : Dev :=
  d.short fz m 0x0201 (fun x d =>
    let path := x.par 0 1
    if 3 < path then d.status 0x101
    else if path = 1 ∧ d.role ≠ 1 then d.status 0x103
    else if d.loadOpen then d.status 0x105
    else if d.heldBy (fun j => j.desc.op == 0x0402) then d.status 0x104
    else if d.noWorld fz m Reg.CFG_CTL then d.status 0x102
    else if d.streaming then d.status 0x103
    else
      let d := (d.fwWrite fz m Reg.CFG_CTL path).fwWrite fz m Reg.CFG_CTL (path + 4)
      let n := d.fw.nextSession
      .ok { r := [word n],
            dev := { d with fw := { d.fw with sessions := d.fw.sessions ++ [{ num := n, mb := m, capture := false }],
                                              nextSession := n + 1 } } })

/-- LOAD_DATA: the stream's bytes reach the front end by the commands of chapter 10; this one runs in steps of 4 MiB (Table
12.11). -/
def Dev.fwLoadData (d : Dev) (fz : Fuses) (m : Nat) : Dev :=
  d.long fz m 0x0202 (fun x d =>
    let n := x.par 8 4
    .ok (if (d.session m x.session false).isNone ∨ n % 4 ≠ 0 then refuse x 0x101
         else if d.get Reg.CFG_CTL_path ≠ 0 then refuse x 0x103
         else { desc := x, total := (n + 0x3FFFFF) / 0x400000, wait := .loadData (x.par 0 8) n 0 }, d))

/-- LOAD_CLOSE: a stream that has not ended ends with TRUNCATED, an armed front end disarms (R324). -/
def Dev.fwLoadClose (d : Dev) (fz : Fuses) (m : Nat) : Dev :=
  d.long fz m 0x0203 (fun x d =>
    if (d.session m x.session false).isNone then .ok (refuse x 0x101, d)
    else
      .ok ({ desc := x, wait := .loadClose }, if d.streaming ∨ d.get Reg.CFG_STATUS_state = 1 then d.pathEnd else d))

/-- LOAD_STATUS. -/
def Dev.fwLoadStatus (d : Dev) (fz : Fuses) (m : Nat) : Dev :=
  d.short fz m 0x0204 (fun _ d =>
    if d.noWorld fz m Reg.CFG_CTL then d.status 0x102
    else
      let x := d.fwReads fz m loadRegs
      .ok { r := x.1, dev := x.2 })

/-- LOAD_RESTART writes CFG_CTL.restart (R347). -/
def Dev.fwLoadRestart (d : Dev) (fz : Fuses) (m : Nat) : Dev :=
  d.short fz m 0x0205 (fun _ d =>
    if d.noWorld fz m Reg.CFG_CTL then d.status 0x102
    else (d.fwWrite fz m Reg.CFG_CTL (d.get Reg.CFG_CTL_path + 16)).status 0)

/-! ### RUN -/

/-- Writes a register pair, low word first. -/
def Dev.fwPair (d : Dev) (fz : Fuses) (m a v : Nat) : Dev :=
  (d.fwWrite fz m a (v % 2 ^ 32)).fwWrite fz m (a + 4) (v / 2 ^ 32)

/-- Whether a start is refused: running, CFG_DONE low, or PACED with a ratio of 0 (R132, R139, R343). -/
def Dev.noStart (d : Dev) : Bool := d.running || !d.doneIn || (d.paced && d.ratio == 0)

/-- RUN_CONFIG. -/
def Dev.fwRunConfig (d : Dev) (fz : Fuses) (m : Nat) : Dev :=
  d.short fz m 0x0301 (fun x d =>
    if 3 < x.par 0 1 ∨ 3 < x.par 1 1 then d.status 0x101
    else if d.noWorld fz m Reg.PACE_CTL then d.status 0x102
    else if d.running then d.status 0x103
    else
      let d := d.fwWrite fz m Reg.PACE_CTL (x.par 0 1 + x.par 1 1 * 4)
      let d := (d.fwWrite fz m Reg.PACE_RATIO_INT (x.par 4 4)).fwWrite fz m Reg.PACE_RATIO_FRAC (x.par 8 4)
      (d.fwWrite fz m Reg.PACE_LOST_BOUND (x.par 12 4)).status 0)

/-- The start wall time of a manager's broadcast: the one the host gives, or one a free time ahead, for the firmware's choice of
a time that every device can arm before is not in the spec (R145). -/
def Dev.commonStart (d : Dev) (given : Option Nat) : Nat := given.getD (d.pac.tb + d.freeVal.toNat % 2 ^ 32)

/-- A manager starts the cluster: it broadcasts the start wall time and the cycle at which the run begins, and arms its own
pacer with them (R145). -/
def Dev.clusterStart (d : Dev) (fz : Fuses) (m : Nat) (given : Option Nat) : Dev :=
  let t := d.commonStart given
  let d := d.spend.clusterAll (.start t d.committed)
  (d.fwPair fz m Reg.PACE_START_TIME_LO t).fwWrite fz m Reg.PACE_CMD 9

/-- RUN_START; a manager starts the cluster (R145, R416). -/
def Dev.fwRunStart (d : Dev) (fz : Fuses) (m : Nat) : Dev :=
  d.either fz m 0x0302 (fun x d =>
    if 1 < x.par 8 1 then d.status 0x101
    else if d.noWorld fz m Reg.PACE_CTL then d.status 0x102
    else if d.noStart then d.status 0x103
    else if d.leads then (d.clusterStart fz m (if x.par 8 1 = 1 then some (x.par 0 8) else none)).status 0
    else ((d.fwPair fz m Reg.PACE_START_TIME_LO (x.par 0 8)).fwWrite fz m Reg.PACE_CMD (1 + 8 * x.par 8 1)).status 0)

/-- Arms stop-at for a cycle. -/
def Dev.fwStopAt (d : Dev) (fz : Fuses) (m c : Nat) : Dev :=
  (d.fwPair fz m Reg.PACE_STOP_AT_LO c).fwWrite fz m Reg.PACE_CMD 4

/-- The common cycle at which a manager stops its cluster: one that every device can still honor (R145, R315). The
firmware's choice is a free value. -/
def Dev.commonCycle (d : Dev) : Nat := d.committed + d.freeVal.toNat % 2 ^ 32

/-- The command goes on until the workers' reports are in; it then names those that missed the stop-at (R145). -/
def Dev.clusterWait (d : Dev) : Except Dev Ans := .ok { wait := .cluster, dev := d }

/-- Whether a RUN command still waits for the cluster's reports: the next one must wait for it (R419). -/
def Dev.runHeld (d : Dev) : Bool := d.heldBy (fun j => j.wait == .cluster)

/-- A manager stops the cluster at a cycle: it broadcasts the stop-at and arms its own (R145). -/
def Dev.clusterStopAt (d : Dev) (fz : Fuses) (m c : Nat) : Dev :=
  let d := d.clusterAll (.stopAt c)
  ({ d with cluster := { d.cluster with missed := [] } }).fwStopAt fz m c

/-- RUN_STOP: STOP, or on a manager a stop-at for one common cycle (R145). -/
def Dev.fwRunStop (d : Dev) (fz : Fuses) (m : Nat) : Dev :=
  d.either fz m 0x0303 (fun _ d =>
    if d.noWorld fz m Reg.PACE_CTL then d.status 0x102
    else if d.leads ∧ d.runHeld then d.status 0x104
    else if d.leads then (if d.running then (d.spend.clusterStopAt fz m d.commonCycle).clusterWait else d.status 0)
    else (d.fwWrite fz m Reg.PACE_CMD 2).status 0)

/-- RUN_STEP: STEP, or on a manager a stop-at N cycles on and a start, both broadcast (R145). -/
def Dev.fwRunStep (d : Dev) (fz : Fuses) (m : Nat) : Dev :=
  d.either fz m 0x0304 (fun x d =>
    let n := x.par 0 8
    if n = 0 then d.status 0x101
    else if d.noWorld fz m Reg.PACE_CTL then d.status 0x102
    else if d.noStart then d.status 0x103
    else if d.leads ∧ d.runHeld then d.status 0x104
    else if d.leads then ((d.clusterStopAt fz m (d.committed + n)).clusterStart fz m none).clusterWait
    else ((d.fwPair fz m Reg.PACE_STEP_COUNT_LO n).fwWrite fz m Reg.PACE_CMD 3).status 0)

/-- RUN_STOP_AT; a manager broadcasts it (R145). -/
def Dev.fwRunStopAt (d : Dev) (fz : Fuses) (m : Nat) : Dev :=
  d.either fz m 0x0305 (fun x d =>
    if 1 < x.par 8 1 then d.status 0x101
    else if d.noWorld fz m Reg.PACE_CTL then d.status 0x102
    else if x.par 8 1 = 1 then ((if d.leads then d.clusterAll .disarm else d).fwWrite fz m Reg.PACE_CMD 5).status 0
    else if d.leads ∧ d.runHeld then d.status 0x104
    else if d.leads then (d.clusterStopAt fz m (x.par 0 8)).clusterWait
    else (d.fwStopAt fz m (x.par 0 8)).status 0)

/-- RUN_STATUS. -/
def Dev.fwRunStatus (d : Dev) (fz : Fuses) (m : Nat) : Dev :=
  d.short fz m 0x0306 (fun _ d =>
    if d.noWorld fz m Reg.PACE_CTL then d.status 0x102
    else
      let x := d.fwReads fz m [Reg.PACE_STATUS, Reg.PACE_COMMITTED_LO, Reg.PACE_COMMITTED_HI, Reg.PACE_DEBT_LO, Reg.PACE_DEBT_HI]
      .ok { r := x.1, dev := x.2 })

/-- RUN_WAIT: it ends when the pacer stops. -/
def Dev.fwRunWait (d : Dev) (fz : Fuses) (m : Nat) : Dev :=
  d.long fz m 0x0307 (fun x d => .ok ({ desc := x, wait := .pacerStopped }, d))

/-! ### STATE -/

/-- The layout of a checkpoint image. It is not in the spec (log entry 72). -/
opaque imageLayout : Checkpoint → List Byte

/-- The bytes of a checkpoint image, at most 512 MiB (DESIGN CHOICE, log entry 72; R417: about 340 MiB). -/
def imageBytes (c : Checkpoint) : List Byte := (imageLayout c).take 0x20000000

/-- The checkpoint that stands in memory at an address, where the image there was not written by this device. -/
opaque imageAt : List Host.Cell → Nat → Option Checkpoint

/-- Whether a tile is in fabric or sequenced mode, where it holds design state (R180). -/
def Dev.designTile (d : Dev) (f t : Nat) : Bool := d.tileMode f t == 1 || d.tileMode f t == 2

/-- Whether an address is of design state in a mailbox's world: a bin, or a memory of a tile that holds design state (R123, R180). -/
def Dev.designByte (d : Dev) (fz : Fuses) (m a : Nat) : Bool :=
  match placeOf a with
  | some (.bin f _ _) => !d.noField fz m f
  | some (.tile f t _) => !d.noField fz m f && d.designTile f t
  | _ => false

/-- A tile with the design state of another (R180); its O follows its ACC. -/
def Tile.withDesign (t s : Tile) : Tile :=
  { t with acc := s.acc, ovf := s.ovf, det := s.det, pub := s.pub, k0 := s.k0, k1 := s.k1, xr := s.xr, yr := s.yr, out := s.out
           o := s.o, o0 := s.o0, o1 := s.o1 }

/-- The design state that a mailbox's world reaches (R123, R180, R298, R417): leased and unused tiles hold none (R178). -/
def Dev.checkpoint (d : Dev) (fz : Fuses) (m : Nat) : Checkpoint :=
  let mine (f : Nat) : Bool := !d.noField fz m f
  { q := d.fab.q.filter (fun e => mine (stookField (e.1 / 128)))
    mem := d.mem.filter (fun e => d.designByte fz m e.1)
    marks := d.marks.filter (fun e => d.designByte fz m e.1)
    tiles := d.tiles.filter (fun e => mine (e.1 / 96) && d.designTile (e.1 / 96) (e.1 % 96))
    binOut := d.binOut.filter (fun e => mine (e.1 / 96))
    presented := d.chan.presented
    streamOut := d.chan.streamOut
    committed := d.committed
    time := d.nextTime.getD 0
    digest := d.cfg.digest }

/-- A checkpoint's design state replaces the device's, within a mailbox's world; PACE_COMMITTED and PACE_RESUME_TIME come
last (R417). -/
def Dev.restore (d : Dev) (fz : Fuses) (m : Nat) (c : Checkpoint) : Dev :=
  let mine (f : Nat) : Bool := !d.noField fz m f
  let keep (k : Nat) : Bool := !mine (k / 96) || !d.designTile (k / 96) (k % 96)
  let old : SMap Tile := d.tiles.map (fun (x : Nat × Tile) => if keep x.1 then x else (x.1, x.2.withDesign {}))
  let tiles : SMap Tile := (c.tiles.filter (fun (x : Nat × Tile) => !keep x.1)).foldl
    (fun (s : SMap Tile) (x : Nat × Tile) => s.put x.1 ((s.get x.1 {}).withDesign x.2) {})
    (old.filter (fun (x : Nat × Tile) => x.2 != {}))
  let e : Dev := { d with
    fab := { d.fab with q := c.q.foldl (fun (s : SMap Bool) (x : Nat × Bool) => s.put x.1 x.2 false)
                              (d.fab.q.filter (fun x => !mine (stookField (x.1 / 128)))) }
    mem := d.mem.filter (fun x => !d.designByte fz m x.1)
    marks := (c.marks.filter (fun x => d.designByte fz m x.1)).foldl (fun (s : SMap Mark) (x : Nat × Mark) => s.put x.1 x.2 {})
              (d.marks.filter (fun x => !d.designByte fz m x.1))
    tiles := tiles
    binOut := c.binOut.foldl (fun (s : SMap PortOut) (x : Nat × PortOut) => s.put x.1 x.2 {}) (d.binOut.filter (fun x => !mine (x.1 / 96)))
    chan := { d.chan with presented := c.presented, streamOut := c.streamOut } }
  let e := { e with mem := (c.mem.filter (fun (x : Nat × Byte) => d.designByte fz m x.1)).foldl (fun (s : Memory) (x : Nat × Byte) => s.write x.1 x.2)
                             e.mem }
  (e.fwPair fz m Reg.PACE_COMMITTED_LO c.committed).fwPair fz m Reg.PACE_RESUME_TIME_LO c.time

/-- Whether an address range lies in HBM. -/
def hbmRange (a n : Nat) : Bool :=
  match placeOf a, placeOf (a + n - 1) with
  | some (.hbm), some (.hbm) => true
  | _, _ => false

/-- STATE_CHECKPOINT writes an image to HBM while the pacer is stopped. -/
def Dev.fwCheckpoint (d : Dev) (fz : Fuses) (m : Nat) : Dev :=
  d.long fz m 0x0401 (Dev.byDma fun x d =>
    let a := x.par 0 8
    let c := d.checkpoint fz m
    let l := imageBytes c
    if a % 4096 ≠ 0 ∨ ¬ hbmRange a l.length then .ok (refuse x 0x101, d)
    else if d.noRange fz m a l.length then .ok (refuse x 0x102, d)
    else if d.running then .ok (refuse x 0x103, d)
    else
      match d.busWriteN fz (mbDma fz m) a l with
      | (.wait, e) => .error e
      | (.err, _) => .ok (d.failedJob x (fun d => (d.busWriteN fz (mbDma fz m) a l).2))
      | (.ok _, e) =>
        .ok ({ desc := x, r := [word l.length] }, { e with fw := { e.fw with images := e.fw.images ++ [c] } }))

/-- The image at an address: one that this device has written and that stands there unchanged, or what else stands there. -/
def Dev.imageFor (d : Dev) (a : Nat) : Option Checkpoint :=
  match d.fw.images.find? (fun c => d.mem.readBytes a (imageBytes c).length == imageBytes c) with
  | some c => some c
  | none => imageAt d.mem a

/-- STATE_RESTORE writes an image back, if its digest is that of the design that is loaded (R417); not beside a LOAD
session (R419). -/
def Dev.fwRestore (d : Dev) (fz : Fuses) (m : Nat) : Dev :=
  d.long fz m 0x0402 (Dev.byDma fun x d =>
    let a := x.par 0 8
    let no (st : Nat) : Except Dev (Job × Dev) := .ok (refuse x st, d)
    if ¬ hbmRange a 1 then no 0x101
    else if d.noRange fz m a 1 then no 0x102
    else if d.running then no 0x103
    else if d.loadOpen then no 0x104
    else
      match d.hbmGate a with
      | some (.wait, e) => .error e
      | some _ => .ok (d.failedJob x (fun d => ((d.hbmGate a).map (fun y => y.2)).getD d))
      | none =>
        match d.imageFor a with
        | none => no 0x101
        | some c => if c.digest ≠ d.cfg.digest then no 0x101 else .ok ({ desc := x }, d.restore fz m c))

/-- STATE_READ copies minor 0 of a state-capture frame at a boundary (R120, R121). -/
def Dev.fwStateRead (d : Dev) (fz : Fuses) (m : Nat) : Dev :=
  d.long fz m 0x0403 (fun x d =>
    let f := x.par 0 2
    let col := x.par 2 1
    let host := x.par 8 8
    if 384 ≤ f ∨ 32 ≤ col then .ok (refuse x 0x101, d)
    else if d.noField fz m f then .ok (refuse x 0x102, d)
    else if d.atRest then .ok ({ desc := x, wait := .stateRead host, data := d.stateFrame f col }, d)
    else .ok ({ desc := x, wait := .stateRead host }, { d with bacts := d.bacts ++ [.stateRead m f col] }))

/-- Whether STATE_FORCE or STATE_RELEASE name a macrocell that exists. -/
def siteOk (x : Desc) : Bool :=
  decide (x.par 0 2 < 384) && decide (x.par 2 1 < 32) && decide (x.par 3 1 < 32) && decide (x.par 4 1 < 8) && decide (x.par 5 1 < 16)

/-- STATE_FORCE applies at the next boundary (R24, R122). -/
def Dev.fwForce (d : Dev) (fz : Fuses) (m : Nat) : Dev :=
  d.short fz m 0x0404 (fun x d =>
    if ¬ siteOk x ∨ 1 < x.par 6 1 then d.status 0x101
    else if d.noField fz m (x.par 0 2) then d.status 0x102
    else
      (d.actOrQueue (.force (stook (x.par 0 2) (x.par 2 1) (x.par 3 1)) (16 * x.par 4 1 + x.par 5 1)
        (some (x.par 6 1 == 1)))).status 0)

/-- STATE_RELEASE releases one or all forced elements of a field. -/
def Dev.fwRelease (d : Dev) (fz : Fuses) (m : Nat) : Dev :=
  d.short fz m 0x0405 (fun x d =>
    if ¬ siteOk x ∨ 1 < x.par 7 1 then d.status 0x101
    else if d.noField fz m (x.par 0 2) then d.status 0x102
    else if x.par 7 1 = 1 then (d.actOrQueue (.releaseAll (x.par 0 2))).status 0
    else
      (d.actOrQueue (.force (stook (x.par 0 2) (x.par 2 1) (x.par 3 1)) (16 * x.par 4 1 + x.par 5 1) none)).status 0)

/-! ### CAPTURE (R414, R417) -/

/-- The word that leases a tile (R178). -/
def leaseWord : Word := 3#32

/-- CAPTURE_OPEN leases the tiles that compression asks for; which ones and how many is the firmware's choice and comes with
the command as 96 × field + tile. -/
def Dev.fwCaptureOpen (d : Dev) (fz : Fuses) (m : Nat) (tiles : List Nat) : Dev :=
  d.long fz m 0x0501 (fun x d =>
    let use := if x.par 12 1 = 1 then tiles else []
    if 1 < x.par 12 1 ∨ ¬ hbmRange (x.par 0 8) (x.par 8 4 * 0x100000) then .ok (refuse x 0x101, d)
    else if d.noRange fz m (x.par 0 8) 1 then .ok (refuse x 0x102, d)
    else if 4 ≤ (d.fw.sessions.filter (fun y => y.capture)).length then .ok (refuse x 0x105, d)
    else if use.any (fun k => decide (36864 ≤ k) || d.tileMode (k / 96) (k % 96) != 0 || d.noField fz m (k / 96)) then
      .ok (refuse x 0x105, d)
    else
      let d := each use (fun k d => d.fwWrite fz m (tileReg (k / 96) (k % 96) 0) leaseWord.toNat) d
      let n := d.fw.nextSession
      let y : Session := { num := n, mb := m, capture := true, base := x.par 0 8, size := x.par 8 4, pre := x.par 16 4, tiles := use }
      .ok ({ desc := x, r := [word n, word use.length] },
           { d with fw := { d.fw with sessions := d.fw.sessions ++ [y], nextSession := n + 1 } }))

/-- CAPTURE_TRIGGER arms a session on the comb of a macrocell. -/
def Dev.fwCaptureTrigger (d : Dev) (fz : Fuses) (m : Nat) : Dev :=
  d.short fz m 0x0502 (fun x d =>
    match d.session m x.session true with
    | none => d.status 0x101
    | some y =>
      if ¬ siteOk x ∨ 2 < x.par 6 1 then d.status 0x101
      else if d.noField fz m (x.par 0 2) then d.status 0x102
      else
        let z := { y with site := qKey (stook (x.par 0 2) (x.par 2 1) (x.par 3 1)) (x.par 4 1) (x.par 5 1), trig := x.par 6 1,
                          nth := if x.par 6 1 = 2 then x.par 8 4 else 1, post := x.par 12 4, state := 1, cycle := 0, samples := [] }
        (d.setSession z).status 0)

/-- CAPTURE_STATUS. -/
def Dev.fwCaptureStatus (d : Dev) (fz : Fuses) (m : Nat) : Dev :=
  d.short fz m 0x0503 (fun x d =>
    match d.session m x.session true with
    | none => d.status 0x101
    | some y => .ok { r := [word y.state, half y.cycle false, half y.cycle true, word y.samples.length], dev := d })

/-- The bytes of a sample: its cycle number, then the taps, one bit each, padded to 64 bits (R417). -/
def sampleBytes (x : Nat × List Bool) : List Byte :=
  toBytes x.1 8 ++
    toBytes ((List.range x.2.length).foldl (fun n i => n + if x.2.getD i false then 2 ^ i else 0) 0) ((x.2.length + 63) / 64 * 8)

/-- CAPTURE_READ copies samples from a first cycle on. -/
def Dev.fwCaptureRead (d : Dev) (fz : Fuses) (m : Nat) : Dev :=
  d.long fz m 0x0504 (Dev.byDma fun x d =>
    match d.session m x.session true with
    | none => .ok (refuse x 0x101, d)
    | some y =>
      let l := (y.samples.filter (fun e => decide (x.par 0 8 ≤ e.1))).take (x.par 8 4)
      .ok ({ desc := x, r := [word l.length] }, d.hostWrite (x.par 16 8) (l.flatMap sampleBytes)))

/-- CAPTURE_CLOSE ends the leases. -/
def Dev.fwCaptureClose (d : Dev) (fz : Fuses) (m : Nat) : Dev :=
  d.short fz m 0x0505 (fun x d =>
    match d.session m x.session true with
    | none => d.status 0x101
    | some y => (d.closeSession y).status 0)

/-! ### MEM -/

/-- MEM_WINDOW: a multiple of 1 MiB (R412). -/
def Dev.fwWindow (d : Dev) (fz : Fuses) (m : Nat) : Dev :=
  d.short fz m 0x0601 (fun x d =>
    let w := x.par 0 8
    if w % 0x100000 ≠ 0 ∨ 2 ^ 48 ≤ w then d.status 0x101
    else ({ d with host := { d.host with window := w } }).status 0)

/-- MEM_READ; `us` is what became of the stored lines it reads. -/
def Dev.fwMemRead (d : Dev) (fz : Fuses) (m : Nat) (us : List Upset) : Dev :=
  d.long fz m 0x0602 (Dev.byDma fun x d =>
    let a := x.par 0 8
    let n := x.par 16 8
    if 2 ^ 48 < a + n then .ok (refuse x 0x101, d)
    else if d.noRange fz m a n then .ok (refuse x 0x102, d)
    else
      match d.busReadN fz (mbDma fz m) a n us with
      | (.wait, e) => .error e
      | (.err, _) => .ok (d.failedJob x (fun d => (d.busReadN fz (mbDma fz m) a n us).2))
      | (.ok l, e) => .ok ({ desc := x, r := [word n] }, e.hostWrite (x.par 8 8) l))

/-- A write of device memory by a command: data from its place on. -/
def Dev.memPut (d : Dev) (fz : Fuses) (m : Nat) (x : Desc) (a : Nat) (l : List Byte) (us : List Upset) (r : List Word) :
    Except Dev (Job × Dev) :=
  if 2 ^ 48 < a + l.length then .ok (refuse x 0x101, d)
  else if d.noRange fz m a l.length then .ok (refuse x 0x102, d)
  else
    match d.busWriteN fz (mbDma fz m) a l us with
    | (.wait, e) => .error e
    | (.err, _) => .ok (d.failedJob x (fun d => (d.busWriteN fz (mbDma fz m) a l us).2))
    | (.ok _, e) => .ok ({ desc := x, r := r }, e)

/-- MEM_WRITE: the DMA engine reads host memory, and writes what it read. -/
def Dev.fwMemWrite (d : Dev) (fz : Fuses) (m : Nat) (us : List Upset) : Dev :=
  d.long fz m 0x0603 (Dev.byDma fun x d =>
    match d.hostRead (x.par 8 8) (x.par 16 8) with
    | some l => d.memPut fz m x (x.par 0 8) l us [word (x.par 16 8)]
    | none => .ok (d.failedJob x (fun d => d)))

/-- MEM_FILL with an 8-byte pattern. -/
def Dev.fwMemFill (d : Dev) (fz : Fuses) (m : Nat) (us : List Upset) : Dev :=
  d.long fz m 0x0604 (Dev.byDma fun x d =>
    if x.par 8 8 % 8 ≠ 0 then .ok (refuse x 0x101, d)
    else d.memPut fz m x (x.par 0 8) ((List.replicate (x.par 8 8 / 8) (slice x.p 16 8)).flatten) us [])

/-- Fills a timing set of a stack with the firmware's values for a rate (R520). -/
def Dev.fillSet (d : Dev) (fz : Fuses) (m s t rate : Nat) : Dev :=
  let v := Config.timing rate
  let a := Reg.HBM_TSET_RATE (stackSel s) (s % 2) t
  (((d.fwWrite fz m a rate).fwWrite fz m (a + 4) v.1.toNat).fwWrite fz m (a + 8) v.2.1.toNat).fwWrite fz m (a + 12) v.2.2.toNat

/-- The stacks of a mask. -/
def stacksOf (mask : Nat) : List Nat := (List.range 8).filter (fun s => bitOf mask s)

/-- Whether a long command works on one of these stacks (R419). -/
def Dev.stacksHeld (d : Dev) (l : List Nat) : Bool :=
  d.heldBy (fun j => match j.wait with
    | .hbmStacks k => k.any (fun s => decide (s ∈ l))
    | .hbmInit b => l.any (fun s => decide (s / 2 ∈ b))
    | _ => false)

/-- MEM_HBM_INIT (R520): the order, timing set A of every stack, and start on B0 to B3 in that order; once the order is
locked, only where the stacks are OFF. -/
def Dev.fwHbmInit (d : Dev) (fz : Fuses) (m : Nat) : Dev :=
  d.long fz m 0x0605 (fun x d =>
    let order := x.par 0 1
    let rate := x.par 1 1
    let act (n : Nat) : Nat := if n = 3 then 1 else n
    let locked := [0, 1, 2, 3].any (fun b => d.on (Reg.HBM_MAP_CTL_lock (baseSel b)))
    let clash := [0, 1, 2, 3].any (fun b => d.on (Reg.HBM_MAP_CTL_lock (baseSel b)) &&
      act (d.get (Reg.HBM_MAP_CTL_order (baseSel b))) != act order)
    let off (b : Nat) : Bool := !d.heldDie (baseSel b) && d.stackState (2 * b) == 0 && d.stackState (2 * b + 1) == 0
    let bases := [0, 1, 2, 3].filter (fun b => !locked || off b)
    if 3 < order ∨ 3 < rate then .ok (refuse x 0x101, d)
    else if d.noWorld fz m (Reg.HBM_MAP_CTL 16) then .ok (refuse x 0x102, d)
    else if clash then .ok (refuse x 0x103, d)
    else if d.stacksHeld (List.range 8) then .ok (refuse x 0x104, d)
    else
      let d := each bases (fun b d => d.fwWrite fz m (Reg.HBM_MAP_CTL (baseSel b)) order) d
      let d := each bases (fun b d => (d.fillSet fz m (2 * b) 0 rate).fillSet fz m (2 * b + 1) 0 rate) d
      let d := each bases (fun b d => d.fwWrite fz m (Reg.HBM_INIT (baseSel b)) 1) d
      .ok ({ desc := x, wait := .hbmInit bases }, d))

/-- MEM_HBM_TRAIN retrains stacks. -/
def Dev.fwHbmTrain (d : Dev) (fz : Fuses) (m : Nat) : Dev :=
  d.long fz m 0x0606 (fun x d =>
    let l := stacksOf (x.par 0 1)
    if d.noWorld fz m (Reg.HBM_MAP_CTL 16) then .ok (refuse x 0x102, d)
    else if d.stacksHeld l then .ok (refuse x 0x104, d)
    else
      .ok ({ desc := x, wait := .hbmStacks l },
           each l (fun s d =>
             let a := Reg.HBM_STK_CMD (stackSel s) (s % 2)
             d.fwWrite fz m a (2 + d.get (Reg.HBM_STK_CMD_retrain_pause (stackSel s) (s % 2)) * 4)) d))

/-- MEM_HBM_RATE fills the inactive timing sets and changes the rate. -/
def Dev.fwHbmRate (d : Dev) (fz : Fuses) (m : Nat) : Dev :=
  d.long fz m 0x0607 (fun x d =>
    let l := stacksOf (x.par 0 1)
    let rate := x.par 1 1
    if 3 < rate then .ok (refuse x 0x101, d)
    else if d.noWorld fz m (Reg.HBM_MAP_CTL 16) then .ok (refuse x 0x102, d)
    else if d.stacksHeld l then .ok (refuse x 0x104, d)
    else
      .ok ({ desc := x, wait := .hbmStacks l },
           each l (fun s d =>
             let t := 1 - d.get (Reg.HBM_STK_STATUS_active_set (stackSel s) (s % 2))
             (d.fillSet fz m s t rate).fwWrite fz m (Reg.HBM_STK_CMD (stackSel s) (s % 2))
               (1 + d.get (Reg.HBM_STK_CMD_retrain_pause (stackSel s) (s % 2)) * 4)) d))

/-- MEM_PROTECT initializes or closes a protected region (R241, R242); secure mailboxes only. -/
def Dev.fwProtect (d : Dev) (fz : Fuses) (m : Nat) : Dev :=
  d.long fz m 0x0608 (fun x d =>
    let s := x.par 0 1
    let r := x.par 1 1
    let ctl := Reg.MEMSEC_RGN_CTL (stackSel s) (s % 2) r
    let no (st : Nat) : Except Dev (Job × Dev) := .ok (refuse x st, d)
    if 8 ≤ s ∨ 4 ≤ r ∨ 16 ≤ x.par 4 1 ∨ 1 < x.par 5 1 ∨ 64 ≤ x.par 2 1 ∨ 128 ≤ x.par 3 1 then no 0x101
    else if ¬ fz.mbxSecure m then no 0x102
    else if d.heldBy (fun j => match j.wait with | .region s' r' _ => s' == s && r' == r | _ => false) then no 0x104
    else if x.par 5 1 = 1 then
      (if d.rgnState s r ≠ 2 then no 0x103
       else .ok ({ desc := x, wait := .region s r 0 }, d.fwWrite fz m ctl (32 + d.get (Reg.MEMSEC_RGN_CTL_key_slot (stackSel s) (s % 2) r))))
    else if d.rgnState s r ≠ 0 then no 0x103
    else
      let d := if d.on (Reg.MEMSEC_STK_CTL_enable (stackSel s) (s % 2)) then d
        else d.fwWrite fz m (Reg.MEMSEC_STK_CTL (stackSel s) (s % 2)) 1
      let d := d.fwWrite fz m (Reg.MEMSEC_RGN_RANGE (stackSel s) (s % 2) r) (x.par 2 1 + x.par 3 1 * 256)
      .ok ({ desc := x, wait := .region s r 2 }, d.fwWrite fz m ctl (16 + x.par 4 1)))

end Sys2Proof.Machine
end

