-- ==== Sys2Proof/Machine/Fw2.lean ====
section
/-! DEFINITION. Commands of service firmware 3.2, second part: LINK, CLUSTER, HEALTH, SEC and DEBUG (R415 to R419, Table 12.9
of spec/). `m` is the mailbox whose next command runs. -/

namespace Sys2Proof.Machine

/-- A long command that only answers a status. -/
def no (d : Dev) (x : Desc) (st : Nat) : Except Dev (Job × Dev) := .ok (refuse x st, d)

/-! ### LINK -/

/-- The lanes of base die b in a 48-bit local mask. -/
def lanesOf (b mask : Nat) : List Nat := ((List.range 48).filter (fun i => bitOf mask i)).map (fun i => 48 * b + i)

/-- Whether a long command works on one of these lanes (R419). -/
def Dev.lanesHeld (d : Dev) (l : List Nat) : Bool :=
  d.heldBy (fun j => match j.wait with
    | .lanes b k => k.any (fun i => decide (48 * b + i ∈ l))
    | .prbs n => decide (n ∈ l)
    | .eye n _ _ => decide (n ∈ l)
    | _ => false)

/-- Turns a lane off and on again with settings for LANE_CTL, bits [5:0] aside of enable given: its bank is enabled first. -/
def Dev.laneOn (d : Dev) (fz : Fuses) (m n rateFec : Nat) : Dev :=
  let k := n / 16
  let bank := Reg.LANE_BANK_CTL (bankSel k) (k % 3)
  let d := if d.on (Reg.LANE_BANK_CTL_enable (bankSel k) (k % 3)) then d else d.fwWrite fz m bank 1
  let a := Reg.LANE_CTL (laneSel n) (laneJ n)
  let keep := (d.rdWord a).toNat / 64 * 64
  let d := d.fwWrite fz m a ((d.rdWord a).toNat / 2 * 2)
  (d.fwWrite fz m a (keep + rateFec * 2)).fwWrite fz m a (keep + rateFec * 2 + 1)

/-- LINK_UP brings lanes up: profile 0 low-latency (rate 4), 1 bandwidth (rate 7), 2 custom (Table 8.2). -/
def Dev.fwLinkUp (d : Dev) (fz : Fuses) (m : Nat) : Dev :=
  d.long fz m 0x0701 (fun x d =>
    let b := x.par 0 1
    let l := lanesOf b (x.par 8 6)
    let s := match x.par 14 1 with
      | 0 => 4
      | 1 => 7
      | _ => x.par 15 1 + x.par 16 1 * 16
    if 4 ≤ b ∨ 3 ≤ x.par 14 1 ∨ (x.par 14 1 = 2 ∧ (16 ≤ x.par 15 1 ∨ 2 ≤ x.par 16 1)) then no d x 0x101
    else if d.noWorld fz m (Reg.LANE_CTL 16 0) then no d x 0x102
    else if d.lanesHeld l then no d x 0x104
    else .ok ({ desc := x, wait := .lanes b (l.map laneJ) }, each l (fun n d => d.laneOn fz m n s) d))

/-- LINK_DOWN disables lanes. -/
def Dev.fwLinkDown (d : Dev) (fz : Fuses) (m : Nat) : Dev :=
  d.short fz m 0x0702 (fun x d =>
    if 4 ≤ x.par 0 1 then d.status 0x101
    else if d.noWorld fz m (Reg.LANE_CTL 16 0) then d.status 0x102
    else if d.lanesHeld (lanesOf (x.par 0 1) (x.par 8 6)) then d.status 0x104
    else
      (each (lanesOf (x.par 0 1) (x.par 8 6)) (fun n d =>
        let a := Reg.LANE_CTL (laneSel n) (laneJ n)
        d.fwWrite fz m a ((d.rdWord a).toNat / 2 * 2)) d).status 0)

/-- LINK_STATUS. -/
def Dev.fwLinkStatus (d : Dev) (fz : Fuses) (m : Nat) : Dev :=
  d.short fz m 0x0703 (fun x d =>
    let n := x.par 0 1
    if 192 ≤ n then d.status 0x101
    else if d.noWorld fz m (Reg.LANE_CTL 16 0) ∨ d.noWorld fz m (Reg.LCH_LINK_CFG 16 0) then d.status 0x102
    else
      let s := laneSel n
      let j := laneJ n
      let y := d.fwReads fz m [Reg.LANE_STATUS s j, Reg.LCH_LINK_STATUS s j, Reg.LCH_LINK_ERR s j, Reg.LANE_ERRCNT s j]
      .ok { r := y.1, dev := y.2 })

/-- LINK_ACTIVATE, of a standalone device; where the hardware would refuse the activation (R281), the command has changed nothing
(R407). -/
def Dev.fwLinkActivate (d : Dev) (fz : Fuses) (m : Nat) : Dev :=
  d.short fz m 0x0704 (fun x d =>
    let n := x.par 0 1
    let act := x.par 1 1 % 2
    if 192 ≤ n ∨ 4 ≤ x.par 1 1 ∨ 16 ≤ x.par 2 1 ∨ 128 ≤ x.par 3 1 then d.status 0x101
    else if d.noWorld fz m (Reg.LCH_LINK_CFG 16 0) then d.status 0x102
    else if d.role ≠ 0 then d.status 0x103
    else
      let e := d.fwWrite fz m (Reg.LCH_LINK_CFG (laneSel n) (laneJ n))
        (d.linkCfgWord n act (x.par 1 1 / 2) (x.par 2 1) (x.par 3 1))
      if act = 1 ∧ e.linkState n ≠ 2 then d.status 0x103 else e.status 0)

/-- LINK_PRBS counts errors of a pattern for a time. -/
def Dev.fwLinkPrbs (d : Dev) (fz : Fuses) (m : Nat) : Dev :=
  d.long fz m 0x0705 (fun x d =>
    let n := x.par 0 1
    let s := laneSel n
    let j := laneJ n
    let a := Reg.LANE_CTL s j
    if 192 ≤ n ∨ 4 ≤ x.par 1 1 then no d x 0x101
    else if d.noWorld fz m (Reg.LANE_CTL 16 0) then no d x 0x102
    else if d.lanesHeld [n] then no d x 0x104
    else
      let v := (d.rdWord a).toNat / 2 * 2
      let d := (d.fwWrite fz m a v).fwWrite fz m (Reg.LANE_PRBS_CTL s j) (x.par 1 1 + 4 + x.par 1 1 * 8 + 32)
      .ok ({ desc := x, wait := .prbs n }, (d.fwWrite fz m (Reg.LANE_CNT_CLR s j) 1).fwWrite fz m a (v + 1)))

/-- LINK_EYE scans 64 × 127 points. -/
def Dev.fwLinkEye (d : Dev) (fz : Fuses) (m : Nat) : Dev :=
  d.long fz m 0x0706 (fun x d =>
    let n := x.par 0 1
    if 192 ≤ n ∨ 4 ≤ x.par 1 1 ∨ 16 ≤ x.par 2 1 then no d x 0x101
    else if d.noWorld fz m (Reg.LANE_CTL 16 0) then no d x 0x102
    else if d.lanesHeld [n] then no d x 0x104
    else
      .ok ({ desc := x, wait := .eye n 0 (x.par 8 8), total := 64 * 127 },
           d.fwWrite fz m (Reg.LANE_EYE_CTL (laneSel n) (laneJ n)) (eyePoint x 0)))

/-- LINK_CTX_WRITE; where the hardware would refuse the write, the command has changed nothing (R407). -/
def Dev.fwCtxWrite (d : Dev) (fz : Fuses) (m : Nat) : Dev :=
  d.short fz m 0x0707 (fun x d =>
    let c := x.par 0 2
    let s := baseSel (ctxBase c)
    let secure := (d.ctx c).secure || bitOf (x.par 4 4) 3
    if (secure && !fz.mbxSecure m) ∨ d.noWorld fz m (Reg.LCH_CTX_SEL 16) then d.status 0x102
    else
      let e := (d.fwWrite fz m (Reg.LCH_CTX_CMD s) 8).fwWrite fz m (Reg.LCH_CTX_SEL s) c
      let e := each [0, 1, 2] (fun i d => d.fwWrite fz m (Reg.LCH_CTX_DATA s i) (x.par (4 + 4 * i) 4)) e
      let e := e.fwWrite fz m (Reg.LCH_CTX_CMD s) 2
      if ¬ e.on (Reg.LCH_CTX_CMD_refused s) then e.status 0
      else d.status (if d.running ∧ (d.ctx c).valid then 0x103 else 0x105))

/-- LINK_CTX_READ. -/
def Dev.fwCtxRead (d : Dev) (fz : Fuses) (m : Nat) : Dev :=
  d.short fz m 0x0708 (fun x d =>
    let c := x.par 0 2
    let s := baseSel (ctxBase c)
    if ((d.ctx c).secure && !fz.mbxSecure m) ∨ d.noWorld fz m (Reg.LCH_CTX_SEL 16) then d.status 0x102
    else
      let d := (d.fwWrite fz m (Reg.LCH_CTX_SEL s) c).fwWrite fz m (Reg.LCH_CTX_CMD s) 1
      let y := d.fwReads fz m ((List.range 4).map (Reg.LCH_CTX_DATA s))
      .ok { r := y.1, dev := y.2 })

/-- LINK_SLOTS writes a lane's slot table with the context numbers that the DMA engine reads from host memory. -/
def Dev.fwLinkSlots (d : Dev) (fz : Fuses) (m : Nat) : Dev :=
  d.long fz m 0x0709 (Dev.byDma fun x d =>
    let b := x.par 0 1
    let j := x.par 1 1
    let dir := x.par 2 1
    let cnt := x.par 4 2
    let s := baseSel b
    if 4 ≤ b ∨ 48 ≤ j ∨ 2 ≤ dir ∨ 256 < cnt then no d x 0x101
    else if d.noWorld fz m (Reg.LCH_CTX_SEL 16) then no d x 0x102
    else if d.running then no d x 0x103
    else
      match d.hostRead (x.par 8 8) (2 * cnt) with
      | none => .ok (d.failedJob x (fun d => d))
      | some data =>
      let d := each (List.range cnt) (fun e d =>
        (d.fwWrite fz m (Reg.LCH_SLOT_SEL s) (e + j * 2 ^ 8 + dir * 2 ^ 14)).fwWrite fz m (Reg.LCH_SLOT_DATA s)
          (leAt data (2 * e) 2)) d
      let a := Reg.LCH_LINK_SYNC s j
      .ok ({ desc := x }, d.fwWrite fz m a (setBits (d.rdWord a) (16 * dir) 9 cnt).toNat))

/-! ### CLUSTER (R311 to R315, R418) -/

/-- CLUSTER_FORM (R313), manager only: it begins, and goes on from hop count to hop count as the reports come in. -/
def Dev.fwClusterForm (d : Dev) (fz : Fuses) (m : Nat) : Dev :=
  d.long fz m 0x0801 (fun x d =>
    if d.role ≠ 1 then no d x 0x103
    else if d.heldBy (fun j => match j.wait with | .form _ => true | _ => false) then no d x 0x104
    else if d.noWorld fz m (Reg.LCH_LINK_CFG 16 0) then no d x 0x102
    else
      let d := { d with cluster := { d.cluster with conflict := false, found := [] } }
      .ok ({ desc := x, wait := .form (x.par 0 1 % 2 == 1) }, if d.otherManager then d else d.formBegin fz))

/-- CLUSTER_MAP writes 128 entries of 64 bytes. -/
def Dev.fwClusterMap (d : Dev) (fz : Fuses) (m : Nat) : Dev :=
  d.long fz m 0x0802 (Dev.byDma fun x d =>
    .ok ({ desc := x }, d.hostWrite (x.par 8 8) ((List.range 128).flatMap (fun i => d.mapEntry i))))

/-- Commands that carry a host address, and those of SEC, which are not relayed (R418). -/
def noRelay (op : Nat) : Bool :=
  op / 256 == 0x0A || decide (op ∈ [0x0202, 0x0403, 0x0504, 0x0602, 0x0603, 0x0706, 0x0709, 0x0802, 0x0803, 0x0901, 0x0B01])

/-- CLUSTER_RELAY sends a descriptor, as the DMA engine reads it from host memory, to a worker: two CONTROL messages, bytes 0 to 31
first. -/
def Dev.fwClusterRelay (d : Dev) (fz : Fuses) (m : Nat) : Dev :=
  d.long fz m 0x0803 (Dev.byDma fun x d =>
    let pos := x.par 0 1
    let lane := d.get (Reg.LCH_FWD_lane 16 pos)
    match d.hostRead (x.par 8 8) 64 with
    | none => .ok (d.failedJob x (fun d => d))
    | some entry =>
    if 128 ≤ pos ∨ noRelay (leAt entry 0 2) then no d x 0x101
    else if d.role ≠ 1 ∨ ¬ d.cluster.formed ∨ ¬ d.on (Reg.LCH_FWD_valid 16 pos) ∨ 192 ≤ lane then no d x 0x103
    else if d.heldBy (fun j => match j.wait with | .relay p _ => p == pos | _ => false) then no d x 0x104
    else
      .ok ({ desc := x, wait := .relay pos (x.par 16 8) },
           { d.sendTo pos [BitVec.ofNat 256 (leAt entry 0 32), BitVec.ofNat 256 (leAt entry 32 32)] with
             fw := { d.fw with inbox := d.fw.inbox.filter (fun e => e.src != pos) } }))

/-- CLUSTER_TIME. -/
def Dev.fwClusterTime (d : Dev) (fz : Fuses) (m : Nat) : Dev :=
  d.short fz m 0x0804 (fun _ d => .ok { r := [word d.cluster.offset, word d.cluster.offsetPos], dev := d })

/-- CLUSTER_DISBAND deactivates every cluster link. -/
def Dev.fwClusterDisband (d : Dev) (fz : Fuses) (m : Nat) : Dev :=
  d.long fz m 0x0805 (fun x d =>
    if d.noWorld fz m (Reg.LCH_LINK_CFG 16 0) then no d x 0x102
    else
      let d := each (List.range 192) (fun n d =>
        let a := Reg.LCH_LINK_CFG (laneSel n) (laneJ n)
        if (d.rdWord a).getLsbD 0 then d.fwWrite fz m a ((d.rdWord a).toNat / 2 * 2) else d) d
      .ok ({ desc := x }, { d with cluster := { d.cluster with formed := false, members := [], found := [] } }))

/-! ### HEALTH -/

/-- HEALTH_LOG_READ. -/
def Dev.fwLogRead (d : Dev) (fz : Fuses) (m : Nat) : Dev :=
  d.long fz m 0x0901 (Dev.byDma fun x d =>
    let l := (d.log.entries.filter (fun r => decide (x.par 0 4 ≤ r.logIndex))).take (x.par 4 4)
    let oldest := (d.log.entries.head?.map (fun r => r.logIndex)).getD d.log.next
    .ok ({ desc := x, r := [word l.length, word oldest, word d.log.next] },
         d.hostWrite (x.par 8 8) (l.flatMap ErrRec.bytes)))

/-- HEALTH_LOG_CLEAR. -/
def Dev.fwLogClear (d : Dev) (fz : Fuses) (m : Nat) : Dev :=
  d.short fz m 0x0902 (fun _ d => ({ d with log := { d.log with entries := [] } }).status 0)

/-- Whether a byte is the selector of a logic die. -/
def isDieSel (s : Nat) : Bool := decide (s ≤ 11) || (decide (16 ≤ s) && decide (s ≤ 19))

/-- HEALTH_TELEMETRY answers bytes 4 to 15 of a die's last report (Table 6.8). -/
def Dev.fwTelemetry (d : Dev) (fz : Fuses) (m : Nat) : Dev :=
  d.short fz m 0x0903 (fun x d =>
    let s := x.par 0 1
    if ¬ isDieSel s then d.status 0x101
    else
      let l := (d.budget (dieIndex s)).report
      .ok { r := [word (leAt l 4 4), word (leAt l 8 4), word (leAt l 12 4)], dev := d })

/-- HEALTH_BUDGET writes PWR_CAP (R449). -/
def Dev.fwBudget (d : Dev) (fz : Fuses) (m : Nat) : Dev :=
  d.short fz m 0x0904 (fun x d =>
    if x.par 0 4 < 150 ∨ 700 < x.par 0 4 then d.status 0x101
    else if d.noWorld fz m Reg.PWR_CAP then d.status 0x102
    else (d.fwWrite fz m Reg.PWR_CAP (x.par 0 4)).status 0)

/-- HEALTH_SCRUB pauses or resumes a scrubber, or a compute die's gleaner. -/
def Dev.fwScrub (d : Dev) (fz : Fuses) (m : Nat) : Dev :=
  d.short fz m 0x0905 (fun x d =>
    let s := x.par 0 1
    let k := x.par 1 1
    let a := if k = 0xFF then Reg.GLEAN_CTL s else Reg.ERR_SCRUB_CTL s k
    if ¬ isDieSel s ∨ 1 < x.par 2 1 ∨ (k = 0xFF ∧ 12 ≤ s) ∨ (k ≠ 0xFF ∧ (if s ≤ 11 then 2 else 4) ≤ k) then d.status 0x101
    else if d.noWorld fz m a then d.status 0x102
    else (d.fwWrite fz m a (setBits (d.rdWord a) 0 1 (x.par 2 1)).toNat).status 0)

/-- HEALTH_IRQ sets the least severity for vector 17 (R413). -/
def Dev.fwIrq (d : Dev) (fz : Fuses) (m : Nat) : Dev :=
  d.short fz m 0x0906 (fun x d =>
    if 5 < x.par 0 1 then d.status 0x101
    else ({ d with fw := { d.fw with irqSev := x.par 0 1 } }).status 0)

/-- HEALTH_HALT. -/
def Dev.fwHalt (d : Dev) (fz : Fuses) (m : Nat) : Dev :=
  d.short fz m 0x0907 (fun _ d =>
    if d.noWorld fz m Reg.ERR_HALT_STATUS then d.status 0x102
    else
      let y := d.fwReads fz m [Reg.ERR_HALT_STATUS, Reg.ERR_HALT_CAUSE, Reg.ERR_HALT_UNIT, Reg.ERR_HALT_TIME_LO,
        Reg.ERR_HALT_TIME_HI]
      .ok { r := y.1, dev := y.2 })

/-! ### SEC (chapter 13) -/

/-- Where the firmware puts a key blob: the last 256 bytes of the secure region of service-processor memory (log entry 68). -/
def blobOffset : Nat := 0xFFF00

/-- A blob stands where the unwrap engine will read it. -/
def Dev.blobPut (d : Dev) (l : List Byte) : Dev :=
  { d with mem := Memory.writeBytes d.mem (0x7000000000 + blobOffset) l }

/-- SEC_KEY_INSTALL with the 256-byte blob that the DMA engine reads from host memory (R429). -/
def Dev.fwKeyInstall (d : Dev) (fz : Fuses) (m : Nat) : Dev :=
  d.long fz m 0x0A01 (Dev.byDma fun x d =>
    match d.hostRead (x.par 8 8) 256 with
    | none => .ok (d.failedJob x (fun d => d))
    | some l =>
    if keySlots (x.par 0 1) ≤ x.par 1 1 ∨ leAt l 4 1 ≠ x.par 0 1 ∨ leAt l 5 1 ≠ x.par 1 1 then no d x 0x101
    else if d.on Reg.SEC_UNWRAP_STATUS_busy then no d x 0x104
    else
      let d := (d.blobPut l).fwWrite fz m Reg.SEC_UNWRAP_STATUS 2
      .ok ({ desc := x, wait := .unwrap }, d.fwWrite fz m Reg.SEC_UNWRAP_CTL (blobOffset + 2 ^ 20)))

/-- SEC_KEY_CLEAR clears a slot through the unwrap engine (Table 13.11). -/
def Dev.fwKeyClear (d : Dev) (fz : Fuses) (m : Nat) : Dev :=
  d.short fz m 0x0A02 (fun x d =>
    if keySlots (x.par 0 1) ≤ x.par 1 1 then d.status 0x101
    else
      let d := d.blobPut (slice (toBytes (0x4B424C57 + x.par 0 1 * 2 ^ 32 + x.par 1 1 * 2 ^ 40) 8) 0 256)
      (d.fwWrite fz m Reg.SEC_UNWRAP_CTL (blobOffset + 2 ^ 21)).status 0)

/-- The firmware fills an HBM region with zeros, through the directory (R210, R425). -/
def Dev.zeroHbmRegion (d : Dev) (h : Nat) : Dev :=
  let d := (d.dirPurge (fun a => decide (a / 0xC0000000 = h))).2
  if d.hbmOrder = 1 then each (List.range 8) (fun m d => d.zeroStack m (h * 0x18000000) ((h + 1) * 0x18000000)) d
  else d.zeroStack (h / 8) (h % 8 * 0xC0000000) ((h % 8 + 1) * 0xC0000000)

/-- SEC_WORLD_SET (R422, R425): kinds 0 to 3; mailboxes and cores are not set (Table 13.2). -/
def Dev.fwWorldSet (d : Dev) (fz : Fuses) (m : Nat) : Dev :=
  d.long fz m 0x0A03 (fun x d =>
    let i := x.par 2 2
    let w := x.par 4 1
    if 1 < w then no d x 0x101
    else
      match x.par 0 1 with
      | 0 =>
        let a := Reg.SEC_FIELD_WORLD (i / 32)
        if 384 ≤ i then no d x 0x101
        else if d.running ∨ d.reconfiguring i then no d x 0x103
        else .ok ({ desc := x, wait := .fieldWorld i }, d.fwWrite fz m a (setBits (d.rdWord a) (i % 32) 1 w).toNat)
      | 1 =>
        let a := Reg.SEC_GRAN_WORLD (i / 16)
        if 64 ≤ i then no d x 0x101
        else .ok ({ desc := x, wait := .worldFlush }, d.fwWrite fz m a (setBits (d.rdWord a) (i % 16) 1 w).toNat)
      | 2 =>
        let a := if i < 32 then Reg.SEC_HBM_WORLD_LO else Reg.SEC_HBM_WORLD_HI
        if 64 ≤ i then no d x 0x101
        else
          let d := if w = 0 ∧ (d.rdWord a).getLsbD (i % 32) then d.zeroHbmRegion i else d
          .ok ({ desc := x, wait := .worldFlush }, d.fwWrite fz m a (setBits (d.rdWord a) (i % 32) 1 w).toNat)
      | 3 =>
        if i = 0 ∨ 26 ≤ i then no d x 0x101
        else if d.on Reg.SEC_LOCK_lock ∨ (w = 0 ∧ (i = 9 ∨ i = 19 ∨ i = 20)) then no d x 0x103
        else
          .ok ({ desc := x }, d.fwWrite fz m Reg.SEC_PAGE_WORLD (setBits (d.rdWord Reg.SEC_PAGE_WORLD) i 1 w).toNat)
      | _ => no d x 0x101)

/-- A lifecycle record goes into LC_REQ and LC_REQ_GO is written (R433). -/
def Dev.lcSubmit (d : Dev) (fz : Fuses) (m : Nat) (l : List Byte) (vcc : Bool) : Dev :=
  let d := each (List.range 60) (fun n d => d.fwWrite fz m (Reg.LC_REQ n) (leAt l (4 * n) 4)) d
  let d := d.fwWrite fz m Reg.LC_REQ_STATUS 2
  ({ d with pwr := { d.pwr with vccFuse := vcc } }).fwWrite fz m Reg.LC_REQ_GO 1

/-- SEC_LIFECYCLE with the 240-byte record that the DMA engine reads from host memory; `vcc` says whether VCC_FUSE is at 1.8 V. A record whose
action does not lead to the state that p0 names is answered BAD_PARAM (DEDUCED, log entry 69). -/
def Dev.fwLifecycle (d : Dev) (fz : Fuses) (m : Nat) (vcc : Bool) : Dev :=
  d.long fz m 0x0A04 (Dev.byDma fun x d =>
    match d.hostRead (x.par 8 8) 240 with
    | none => .ok (d.failedJob x (fun d => d))
    | some request =>
    if x.par 0 1 = 0 ∨ 5 < x.par 0 1 ∨ leAt request 4 1 ≠ x.par 0 1 then no d x 0x101
    else if d.on Reg.LC_REQ_STATUS_busy then no d x 0x104
    else .ok ({ desc := x, wait := .lifecycle }, d.lcSubmit fz m request vcc))

/-- SEC_CHALLENGE. -/
def Dev.fwChallenge (d : Dev) (fz : Fuses) (m : Nat) : Dev :=
  d.short fz m 0x0A05 (fun _ d =>
    let d := d.fwWrite fz m Reg.LC_CHALLENGE_CTL 1
    let y := d.fwReads fz m ((List.range 4).map Reg.LC_CHALLENGE)
    .ok { r := y.1, dev := y.2 })

/-- SEC_UNLOCK with the 240-byte record that the DMA engine reads from host memory. -/
def Dev.fwUnlock (d : Dev) (fz : Fuses) (m : Nat) (vcc : Bool) : Dev :=
  d.long fz m 0x0A06 (Dev.byDma fun x d =>
    match d.hostRead (x.par 8 8) 240 with
    | none => .ok (d.failedJob x (fun d => d))
    | some request =>
    if leAt request 4 1 ≠ 0x10 ∧ leAt request 4 1 ≠ 0x20 then no d x 0x101
    else if d.on Reg.LC_REQ_STATUS_busy then no d x 0x104
    else .ok ({ desc := x, wait := .lifecycle }, d.lcSubmit fz m request vcc))

/-- SEC_WIPE (R436, Table 13.9). -/
def Dev.fwWipe (d : Dev) (fz : Fuses) (m : Nat) : Dev :=
  d.long fz m 0x0A07 (fun x d =>
    let v := x.par 0 1
    let areas : List WipeArea := (if bitOf v 2 then [.keys] else []) ++ (if bitOf v 1 then [.memsec] else []) ++
      (if bitOf v 0 then [.granary] else [])
    if 8 ≤ v then no d x 0x101
    else .ok ({ desc := x, wait := .wipes }, each areas (fun a d => d.wipeStart false a) d))

/-! ### DEBUG (R496) -/

/-- DEBUG_TRACE_READ copies part of the trace buffer. -/
def Dev.fwTraceRead (d : Dev) (fz : Fuses) (m : Nat) : Dev :=
  d.long fz m 0x0B01 (Dev.byDma fun x d =>
    let a := granBase 0 + d.traceBase + x.par 0 4
    let n := x.par 4 4
    if 0x40000 < x.par 0 4 + n then no d x 0x101
    else if d.noRange fz m a n then no d x 0x102
    else
      match d.busReadN fz (mbDma fz m) a n with
      | (.wait, e) => .error e
      | (.err, _) => .ok (d.failedJob x (fun d => (d.busReadN fz (mbDma fz m) a n).2))
      | (.ok l, e) => .ok ({ desc := x, r := [word n] }, e.hostWrite (x.par 8 8) l))

/-- DEBUG_TRACE_CTL writes SP_MARK_EN of a core; core 0's is secure (R489). -/
def Dev.fwTraceCtl (d : Dev) (fz : Fuses) (m : Nat) : Dev :=
  d.short fz m 0x0B02 (fun x d =>
    let c := x.par 4 1
    if 4 ≤ c then d.status 0x101
    else if d.noWorld fz m (Reg.SP_MARK_EN c) then d.status 0x102
    else ({ d with regs := (d.wrWord (Reg.SP_MARK_EN c) (word (x.par 0 4))).regs }).status 0)

/-- A command whose opcode Table 12.9 does not define (R406): status BAD_OPCODE, 0x0100. -/
def Dev.badOpcode (d : Dev) (fz : Fuses) (m : Nat) : Dev :=
  let d := d.urgentFirst
  match d.headCmd m with
  | none => d
  | some x =>
    if x.op ∈ longOps ∨ x.op ∈ shortOps ∨ x.op ∈ runOps then d
    else
      match d.nextCmd fz m x.op with
      | none => d
      | some y => (d.takeCmd m).finish m y 0x100 [] 0 0

/-- A RUN_WAIT ends at its limit, where it has one, and a relay after 100 ms (R415, R418): DEVICE_ERROR. -/
def Dev.runWaitLimit (d : Dev) (m : Nat) : Dev :=
  d.jobLimit m (fun j => match j.wait with
    | .pacerStopped => if leAt j.desc.p 0 4 = 0 then none else some (leAt j.desc.p 0 4)
    | _ => none)
/-- A relayed command that no worker answers. -/
def Dev.relayTimeout (d : Dev) (m : Nat) : Dev :=
  d.jobLimit m (fun j => match j.wait with | .relay _ _ => some 100 | _ => none)

end Sys2Proof.Machine
end

