-- ==== Sys2Proof/Machine/Steps.lean ====
section
/-! DEFINITION. What some commands of the opcode table do on the device, beyond the operations of the chapters' own files: writes
by an initiator, one instruction of a MAC tile, service firmware 3.2 around links and time (R311 to R315), the SMBus answers
and what follows a test, a wake or a change of clock. -/

namespace Sys2Proof.Machine

/-! ### Register writes -/

/-- A write of a register by an initiator, with all checks of a register access (R39, R41, R424). -/
def Dev.regPut (d : Dev) (fz : Fuses) (who : Who) (a : Nat) (v : Word) : Dev := (d.regAccessWrite fz who a v).2

/-- A word with one bit set, or cleared. -/
def withBit (v : Word) (i : Nat) (b : Bool) : Word := setBits v i 1 (if b then 1 else 0)

/-- Writes a register pair, its low word first. -/
def Dev.pairPut (d : Dev) (fz : Fuses) (who : Who) (lo : Nat) (hi : Bool) (v : Word) : Dev :=
  d.regPut fz who (if hi then lo + 4 else lo) v

/-- Pad levels with one changed. -/
def setPad (pads : BitVec 64) (n : Nat) (level : Bool) : BitVec 64 :=
  if level then pads ||| BitVec.ofNat 64 (2 ^ n) else pads &&& ~~~ BitVec.ofNat 64 (2 ^ n)

/-- The selector of a die index, 16 the package (R38). -/
def anyDie (i : Nat) : Nat := if i = 16 then 32 else dieSel i

/-! ### MAC instructions (R173 to R176) -/

/-- The opcodes that are illegal (Table 5.6). -/
def macIllegal (op : Nat) : Bool := decide (op = 5 ∨ op = 6 ∨ op = 7 ∨ op = 0xD ∨ op = 0xE)

/-- A tile that runs executes the instruction that it fetches, where that has the opcode asked for. -/
def Dev.macStep (d : Dev) (f t : Nat) (op : Nat → Bool) (act : Nat → Dev → Dev) : Dev :=
  if ¬ (d.tile f t).busy then d
  else
    let x := d.tileFetch f t
    if op (x.1 / 2 ^ 28) then act x.1 x.2 else d

/-- A program's end may let its field complete its wave (R172). -/
def Dev.macEnd (d : Dev) (f t : Nat) (steps : Nat) : Dev := if (d.tile f t).busy then d else d.tryComplete f steps

/-- NOP, LOAD, MAC, MSU and CLR: the accumulator step between the fetches and the pointers' advance. -/
def Dev.macArith (d : Dev) (f t opcode : Nat) (acc : Tile → Int → Tile) : Dev :=
  d.macStep f t (fun o => o == opcode) (fun w d => d.tileArith f t w acc)

/-- LDK0 and LDK1 load a constant with bits [15:0]. -/
def Dev.macConst (d : Dev) (f t opcode : Nat) (put : Tile → BitVec 16 → Tile) : Dev :=
  d.macStep f t (fun o => o == opcode) (fun w d => d.setTile f t (tileNext (put (d.tile f t) (BitVec.ofNat 16 w))))

/-- BXCLR clears the detector and ovf. -/
def Dev.macBxclr (d : Dev) (f t : Nat) : Dev :=
  d.macStep f t (fun o => o == 0xC) (fun _ d => d.setTile f t (tileNext { d.tile f t with det := 15, ovf := false }))

/-! ### Service firmware 3.2 and the boot ROM around links (R311 to R315, R395) -/

/-- The 256-bit CONTROL messages that carry bytes, 32 each. -/
def bytesTo256 (l : List Byte) : List (BitVec 256) :=
  (List.range ((l.length + 31) / 32)).map (fun i => BitVec.ofNat 256 (leAt l (32 * i) 32))

/-- A HELLO frame arrives: it is latched, and firmware or ROM activate the lane's link where they do (R313, Table 12.1); a
manager sends its firmware image to a worker without a position, as local frames (Table 12.1), and one that sees another manager reports
a conflict. -/
def Dev.helloFrame (d : Dev) (fz : Fuses) (n : Nat) (f : Frame) : Dev :=
  let took := d.laneState n == 4 && d.linkState n == 1 && f.good
  let d := d.helloLatch n f
  if ¬ took then d
  else
    let h := (d.link n).hello
    let role := helloRole h
    let pos := helloPos h
    let rom := d.boot.mode == 2 && !d.boot.started && decide (d.spState ≠ 5)
    let placed := d.spState == 3 && d.role == 2 && d.on (Reg.LCH_CTL_pos_valid 16)
    let worker := d.spState == 3 && d.role == 2 && (role == 1 || (decide (pos < 128) && helloHops h != 0xFF))
    let manager := d.spState == 3 && d.role == 1 && role == 2 && pos == 0xFF
    let d : Dev := if d.spState == 3 && d.role == 1 && role == 1 then { d with cluster := { d.cluster with conflict := true } } else d
    if placed then d.workerLink fz n
    else if (rom && role == 1) || worker || manager then
      let a := Reg.LCH_LINK_CFG (laneSel n) (laneJ n)
      let d := d.regPut fz (.core 1) a (withBit (d.rdWord a) 0 true)
      if manager ∧ d.linkState n = 2 then d.sendOn n 0xFF true (bytesTo256 d.boot.image) else d
    else d

/-- A worker takes the descriptors that its manager relays, two CONTROL messages each, bytes 0 to 31 first (R418). -/
def Dev.relayTake (d : Dev) : Nat → Dev
  | 0 => d
  | k + 1 =>
    match d.fw.inbox.filter (fun e => e.src == 0 && !e.toLocal) with
    | a :: b :: _ =>
      (({ d with fw := { d.fw with inbox := (d.fw.inbox.erase a).erase b } }).enqueue relayMb
        (toBytes a.data.toNat 32 ++ toBytes b.data.toNat 32)).relayTake k
    | _ => d

/-- The firmware takes the cluster messages and the relayed descriptors that have come in (R145, R313, R418). -/
def Dev.clusterTake (d : Dev) (fz : Fuses) : Dev :=
  let d := d.clusterMsgs fz
  if d.spState = 3 ∧ d.role = 2 then d.relayTake d.fw.inbox.length else d

/-- The manager's firmware answers the loss of a cluster link: a stop-at for a common cycle, its own choice, and a report to
the host (R315). -/
def Dev.clusterLoss (d : Dev) (fz : Fuses) : Dev :=
  let d := d.hostEvent 20
  if d.running then
    let c := d.commonCycle
    (d.spend.clusterAll (.stopAt c)).armStop fz c
  else d

/-- Whether a link is FAILED or PARTNER_HALTED. -/
def Dev.linkLost (d : Dev) (n : Nat) : Bool := d.linkState n == 3 || d.linkState n == 4

/-- The boot ROM begins, once no pin holds the device in reset. -/
def Dev.romRuns (d : Dev) (fz : Fuses) : Dev := if d.inReset then d else d.romLanes fz

/-- After what happens to link `n`, a manager of a formed cluster answers its loss; for a worker it is a cluster event (R315, Table
12.7). -/
def Dev.watchLink (d : Dev) (fz : Fuses) (n : Nat) (run : Dev → Dev) : Dev :=
  let e := run d
  if ¬ e.linkLost n ∨ d.linkLost n then e
  else if e.spState = 3 ∧ e.role = 1 ∧ e.cluster.formed then e.clusterLoss fz
  else if e.role = 2 ∧ e.on (Reg.LCH_CTL_pos_valid 16) then e.hostEvent 20
  else e

/-- A lane has been out of UP for 10 ms: its ACTIVE link fails (R287). -/
def Dev.laneAbsence (d : Dev) (n : Nat) : Dev := if d.linkState n = 2 ∧ d.laneState n ≠ 4 then d.linkFail n else d

/-- A link loses lock of its lane's PLL (R266, Table 8.5: cause 2). -/
def Dev.pllUnlock (d : Dev) (n : Nat) : Dev := d.laneToPll n 2

/-- A bank enable takes effect; in boot mode MANAGER the ROM then enables the bank's lanes at the low-latency profile (R252,
Table 12.1). -/
def Dev.bankEnabled (d : Dev) (fz : Fuses) (k : Nat) : Dev :=
  let due := d.on (Reg.LANE_BANK_CTL_pending (bankSel k) (k % 3))
  let d := d.bankEffect k
  if due ∧ d.boot.mode = 2 ∧ ¬ d.boot.started then
    each (bankLanes k) (fun n d => d.regPut fz (.core 1) (Reg.LANE_CTL (laneSel n) (laneJ n))
      (BitVec.ofNat 32 ((d.rdWord (Reg.LANE_CTL (laneSel n) (laneJ n))).toNat / 64 * 64 + 9))) d
  else d

/-- An exchange of time marks over lane `n` (R306, R314): this end's two times are its latches, the partner's come with the exchange, its
transmit time first. A worker, whose parent's times are t1 and t4, corrects its timebase by −((t2 − t1) − (t4 − t3)) / 2 ticks; a manager
keeps the largest offset seen, in ns, and its position. -/
def Dev.timeExchange (d : Dev) (fz : Fuses) (n pos : Nat) (tx rx : BitVec 64) : Dev :=
  let own (lo hi : Nat → Nat → Nat) : BitVec 64 := BitVec.ofNat 64 (d.pair (lo (laneSel n) (laneJ n)) (hi (laneSel n) (laneJ n)))
  let ownTx := own Reg.LCH_TMARK_TX_LO Reg.LCH_TMARK_TX_HI
  let ownRx := own Reg.LCH_TMARK_RX_LO Reg.LCH_TMARK_RX_HI
  let (t1, t2, t3, t4) := if d.role = 2 then (tx, ownRx, ownTx, rx) else (ownTx, rx, tx, ownRx)
  let x : Int := (((t2 - t1) - (t4 - t3)) : BitVec 64).toInt
  let off : Int := - (Int.tdiv x 2)
  if d.spState ≠ 3 then d
  else if d.role = 2 then d.regPut fz (.core 0) Reg.PACE_TB_ADJ (BitVec.ofInt 32 off)
  else if d.role = 1 ∧ d.cluster.offset ≤ off.natAbs / 16 then
    { d with cluster := { d.cluster with offset := off.natAbs / 16, offsetPos := pos } }
  else d

/-! ### Memories, tests and clocks -/

/-- A scrubber reads its next unit: k = 3 on a base die is the link-queue scrubber (Table 11.3). -/
def Dev.scrubStep (d : Dev) (i k : Nat) (flips : List Nat) : Dev :=
  if 12 ≤ i ∧ k = 3 then d.scrubQueue (i - 12) flips
  else if k < (if i < 12 then 2 else 3) then d.scrubAny i k flips
  else d

/-- A granary test ends; a reset and the requests that it held go on (R375, R377). -/
def Dev.testEnd (d : Dev) (fz : Fuses) (b : Nat) (badRows badSpares : List Nat) : Dev :=
  ((d.granTestEnd b badRows badSpares).resumeResets).serveWaiting fz

/-- A request that waits ends in a bus error after a crossing was abandoned (R467). `merged` says that a further pulse of the
crossing arrived while the first one awaited its acknowledgment, and merged with it (R469). -/
def Dev.crossingLost (d : Dev) (sel block : Nat) (i : Option Nat) (merged : Bool) : Dev :=
  let d := (if merged then d.set (Reg.CLK_CDC_STATUS_overrun sel) 1 else d).cdcTimeout sel block
  match i with
  | some k => d.failWaiting k
  | none => d

/-- A request held for 1 ms ends in a bus error (R236, R462). -/
def Dev.holdOver (d : Dev) (m i : Nat) : Dev :=
  match d.noc.waiting[i]? with
  | some p => if d.stackHolds m ∧ (hbmSplit d.hbmOrder p.addr).1 = m then (d.holdExpired m p.addr).failWaiting i else d
  | none => d

/-! ### Time (R127, R497, R498) -/

/-- `n` microseconds pass: the watchdog counts, and so do timers that are not frozen, to values that the spec does not give
(free values, log entry 1); dies whose reset has lasted long enough leave it (R471). -/
def Dev.usPass (d : Dev) (n : Nat) : Dev :=
  let d := (d.wdtTick n).releasesDue
  let x := d.freeVal
  let timers := d.fw.timers.zipIdx.map (fun e =>
    if d.frozenSp (1 + e.2) then e.1 else (x.extractLsb' (32 * e.2) 32).toNat)
  let d := d.spend
  { d with fw := { d.fw with timers := timers } }

/-- What counts microseconds follows the timebase; `was` is its count before. -/
def Dev.usSince (d : Dev) (was : Nat) : Dev :=
  if was / ticksPerUs < d.now / ticksPerUs then d.usPass (d.now / ticksPerUs - was / ticksPerUs) else d

/-- One step of the timebase, and what counts microseconds. -/
def Dev.tick (d : Dev) : Dev := (d.tbStep).usSince d.now

/-- A deadline arrives (R133), after the steps of the timebase that reach it. -/
def Dev.deadline_ (d : Dev) (unsure : BitVec 64) : Dev := (d.deadlineArrives unsure).usSince d.now

/-! ### Service processor and host -/

/-- HEARTBEAT: the firmware counts (R401). -/
def Dev.heartbeat (d : Dev) : Dev := if d.spState = 3 then d.wrap Reg.ID_HEARTBEAT_count else d

/-- The host link leaves L0 other than to L1 (R420). -/
def Dev.hostLinkDown (d : Dev) : Dev :=
  ({ d with host := { d.host with linkUp := false } }).err 32 0 0 0x1901

/-- A mailbox's interrupt spacing is over: an interrupt that was held goes out (Table 12.4). -/
def Dev.holdoffOver (d : Dev) (m : Nat) : Dev := if (d.mb m).irqDue then d.askIrq m else d

/-- A challenge is 60 s old (R432). -/
def Dev.challengeOld (d : Dev) : Dev := if d.challengeValid then d else d.set Reg.LC_CHALLENGE_CTL_valid 0

/-! ### SMBus (Table 14.2) -/

/-- STATUS. -/
def Dev.smbusStatus (d : Dev) : Dev := d.smbAnswer 0x00 (toBytes d.smbStatus 1)
/-- POWER: package power over the last window, W. -/
def Dev.smbusPower (d : Dev) : Dev := d.smbAnswer 0x01 (toBytes (d.get Reg.PWR_TOTAL_mw / 1000) 2)
/-- TEMP_LOGIC: signed, 0.1 °C. -/
def Dev.smbusLogic (d : Dev) : Dev := d.smbAnswer 0x02 (toBytes (BitVec.ofInt 16 d.logicHighest).toNat 2)
/-- TEMP_HBM: signed, °C. -/
def Dev.smbusHbm (d : Dev) : Dev := d.smbAnswer 0x03 (toBytes (BitVec.ofInt 16 d.hbmHighest).toNat 2)
/-- CAP_LIMIT: a write is clamped to 150 to 700 W. One that carries a packet error code that does not match is not taken (R445; PRESUMED,
log entry 166). -/
def Dev.smbusCap (d : Dev) (v : Option (BitVec 16 × Option Byte)) : Dev :=
  match v with
  | some (w, pec) =>
    let good : Bool := match pec with
      | some x => x == smbPec ([d.smbAddr false, 0x04] ++ toBytes w.toNat 2)
      | none => true
    if good then (d.clockOn 32 4).set Reg.PWR_CAP_SMB_limit_w (min 700 (max 150 w.toNat)) else d.clockOn 32 4
  | none => d.smbAnswer 0x04 (toBytes (d.get Reg.PWR_CAP_SMB_limit_w) 2)
/-- DIE_POWER: a block of 32 bytes, after their count: 16 words in 0.1 W. -/
def Dev.smbusDies (d : Dev) : Dev :=
  d.smbAnswer 0x10 (32#8 :: (List.range 16).flatMap (fun i => toBytes (d.get (Reg.TEL_POWER_mw (dieSel i)) / 100) 2))

end Sys2Proof.Machine
end

