-- ==== Sys2Proof/Machine/Act.lean ====
section
/-! DEFINITION. The three ways in which a command acts on the device: only out of reset, unless PORST_N is low, or always. -/

namespace Sys2Proof.Machine

/-- A command that acts on the device while no reset pin holds it (R442): otherwise nothing happens. -/
def State.onDev (s : State) (act : Fuses → Dev → Dev) : Host.Outcome State Fault Refusal :=
  .next (if s.dev.inReset then s else { s with dev := act s.fuses s.dev })

/-- A command of the debug port or the SMBus, which only PORST_N holds (Table 14.6). -/
def State.onPorst (s : State) (act : Fuses → Dev → Dev) : Host.Outcome State Fault Refusal :=
  .next (if s.dev.pwr.porst then { s with dev := act s.fuses s.dev } else s)

/-- An event of the pins and the supplies themselves. -/
def State.always (s : State) (act : Fuses → Dev → Dev) : Host.Outcome State Fault Refusal :=
  .next { s with dev := act s.fuses s.dev }

/-- Time goes on by one step of the timebase, out of reset. -/
def tick (s : State) : Host.Outcome State Fault Refusal := s.onDev (fun _ d => d.tick)

end Sys2Proof.Machine
end

