-- ==== Sys2Proof/Machine/Bus.lean ====
section
/-! DEFINITION. Meanings of commands of writes of registers. -/

namespace Sys2Proof.Machine

/-- REGISTER_WRITE (R12). -/
def execRegisterWrite (who : Who) (a : BitVec 33) (v : Word) (s : State) : Host.Outcome State Fault Refusal :=
  if s.dev.inReset then .next s
  else if a.toNat % 4 ≠ 0 then .fault .unguaranteed
  else if 2 ^ 32 ≤ a.toNat then
    s.onDev (fun _ d => if who = .host then d.barWrite (a.toNat - 2 ^ 32) v else d)
  else s.onDev (fun fz d => d.regPut fz who a.toNat v)

end Sys2Proof.Machine
end

