-- ==== Sys2Proof/Machine/CfgCmds.lean ====
section
/-! DEFINITION. Meanings of commands of configuration (chapter 10). -/

namespace Sys2Proof.Machine

/-- CFG_ARM (R338). -/
def execCfgArm (who : Who) (v : Word) (s : State) : Host.Outcome State Fault Refusal :=
  s.onDev (fun fz d => d.regPut fz who Reg.CFG_CTL (withBit v 2 true))

/-- CFG_ABORT (R324). -/
def execCfgAbort (who : Who) (v : Word) (s : State) : Host.Outcome State Fault Refusal :=
  s.onDev (fun fz d => d.regPut fz who Reg.CFG_CTL (withBit v 3 true))

/-- CFG_RESTART (R347). -/
def execCfgRestart (who : Who) (v : Word) (s : State) : Host.Outcome State Fault Refusal :=
  s.onDev (fun fz d => d.regPut fz who Reg.CFG_CTL (withBit v 4 true))

/-- DONE_RELEASE (R342). -/
def execDoneRelease (who : Who) (v : Word) (s : State) : Host.Outcome State Fault Refusal :=
  s.onDev (fun fz d => d.regPut fz who Reg.CFG_CTL (withBit v 5 true))

/-- SECTION_HEADER (R320), with FULL_ACCEPT (R336), PARTIAL_ACCEPT (R350). -/
def execSectionHeader (x : Feed) (s : State) : Host.Outcome State Fault Refusal :=
  s.onDev (fun fz d => d.fed x (fun d l => d.sectionHeader fz l))

/-- END_SECTION (R321). -/
def execEndSection (x : Feed) (s : State) : Host.Outcome State Fault Refusal :=
  s.onDev (fun fz d => d.fed x (fun d l => d.endSection fz l))

/-- SECTION_TRAILER (R333), with FULL_SUCCESS (R337), PARTIAL_SUCCESS (R352), CFG_LOAD (R346). -/
def execSectionTrailer (x : Feed) (s : State) : Host.Outcome State Fault Refusal :=
  s.onDev (fun _ d => d.fed x (fun d l => d.sectionTrailer l))

/-- NOP_PACKET (R325). -/
def execNopPacket (x : Feed) (s : State) : Host.Outcome State Fault Refusal :=
  s.onDev (fun fz d => d.fed x (fun d l => d.bodyItem fz (isOp 0) l))

/-- CFG_ADDRESS (R326). -/
def execCfgAddress (x : Feed) (s : State) : Host.Outcome State Fault Refusal :=
  s.onDev (fun fz d => d.fed x (fun d l => d.bodyItem fz (isReg 1) l))

/-- CFG_BURST_COUNT (R326). -/
def execCfgBurstCount (x : Feed) (s : State) : Host.Outcome State Fault Refusal :=
  s.onDev (fun fz d => d.fed x (fun d l => d.bodyItem fz (isReg 2) l))

/-- CFG_CHECK (R332). -/
def execCfgCheck (x : Feed) (s : State) : Host.Outcome State Fault Refusal :=
  s.onDev (fun fz d => d.fed x (fun d l => d.bodyItem fz (isReg 3) l))

/-- CLEAR (R326). -/
def execClear (x : Feed) (s : State) : Host.Outcome State Fault Refusal :=
  s.onDev (fun fz d => d.fed x (fun d l => d.bodyItem fz (isAction 1) l))

/-- ZERO_MEM (R326). -/
def execZeroMem (x : Feed) (s : State) : Host.Outcome State Fault Refusal :=
  s.onDev (fun fz d => d.fed x (fun d l => d.bodyItem fz (isAction 2) l))

/-- FENCE (R326). -/
def execFence (x : Feed) (s : State) : Host.Outcome State Fault Refusal :=
  s.onDev (fun fz d => d.fed x (fun d l => d.bodyItem fz (isAction 3) l))

/-- FENCE_COMPLETE (R326). -/
def execFenceComplete (s : State) : Host.Outcome State Fault Refusal :=
  s.onDev (fun _ d => d.fenceComplete)

/-- FRAMES (R327), with BIN_CHECK_RECOMPUTE (R158). -/
def execFrames (x : Feed) (s : State) : Host.Outcome State Fault Refusal :=
  s.onDev (fun fz d => d.fed x (fun d l => d.bodyItem fz (isOp 2) l))

/-- WRITE_DEV (R328). -/
def execWriteDev (x : Feed) (s : State) : Host.Outcome State Fault Refusal :=
  s.onDev (fun fz d => d.fed x (fun d l => d.bodyItem fz (isOp 3) l))

/-- RESERVED_PACKET_OPCODE (R325). -/
def execReservedPacketOpcode (x : Feed) (s : State) : Host.Outcome State Fault Refusal :=
  s.onDev (fun fz d => d.fed x (fun d l => d.bodyItem fz isOther l))

/-- BULK_CLEAR_DONE (R336). -/
def execBulkClearDone (s : State) : Host.Outcome State Fault Refusal :=
  s.onDev (fun _ d => d.bulkClearDone)

/-- STREAM_PATH_END (R324). -/
def execStreamPathEnd (k : Nat) (s : State) : Host.Outcome State Fault Refusal :=
  s.onDev (fun _ d => (d.partBytes k).streamPathEnd)

/-- CFGBUS_IDLE_TIMEOUT (R341). -/
def execCfgbusIdleTimeout (k : Nat) (s : State) : Host.Outcome State Fault Refusal :=
  s.onDev (fun _ d => (d.partBytes k).busIdle)

/-- CFG_DONE_TIMEOUT (R344). -/
def execCfgDoneTimeout (s : State) : Host.Outcome State Fault Refusal :=
  s.onDev (fun _ d => d.doneTimeout)

/-- WORKER_LOAD_RESTART (R347). -/
def execWorkerLoadRestart (s : State) : Host.Outcome State Fault Refusal :=
  s.onDev (fun _ d => d.workerRestart)

end Sys2Proof.Machine
end

