-- ==== Sys2Proof/Machine/ClusterCmds.lean ====
section
/-! DEFINITION. Meanings of commands of the LINK and CLUSTER commands of service firmware 3.2 (chapter 12). -/

namespace Sys2Proof.Machine

/-- LINK_UP (R415). -/
def execLinkUp (m : Fin 17) (s : State) : Host.Outcome State Fault Refusal :=
  s.onDev (fun fz d => d.fwLinkUp fz m)

/-- LINK_DOWN_CMD (R415). -/
def execLinkDownCmd (m : Fin 17) (s : State) : Host.Outcome State Fault Refusal :=
  s.onDev (fun fz d => d.fwLinkDown fz m)

/-- LINK_STATUS (R415). -/
def execLinkStatus (m : Fin 17) (s : State) : Host.Outcome State Fault Refusal :=
  s.onDev (fun fz d => d.fwLinkStatus fz m)

/-- LINK_ACTIVATE (R415). -/
def execLinkActivate (m : Fin 17) (s : State) : Host.Outcome State Fault Refusal :=
  s.onDev (fun fz d => d.fwLinkActivate fz m)

/-- LINK_PRBS (R415). -/
def execLinkPrbs (m : Fin 17) (s : State) : Host.Outcome State Fault Refusal :=
  s.onDev (fun fz d => d.fwLinkPrbs fz m)

/-- LINK_EYE (R415). -/
def execLinkEye (m : Fin 17) (s : State) : Host.Outcome State Fault Refusal :=
  s.onDev (fun fz d => d.fwLinkEye fz m)

/-- LINK_CTX_WRITE (R415). -/
def execLinkCtxWrite (m : Fin 17) (s : State) : Host.Outcome State Fault Refusal :=
  s.onDev (fun fz d => d.fwCtxWrite fz m)

/-- LINK_CTX_READ (R415). -/
def execLinkCtxRead (m : Fin 17) (s : State) : Host.Outcome State Fault Refusal :=
  s.onDev (fun fz d => d.fwCtxRead fz m)

/-- LINK_SLOTS (R415). -/
def execLinkSlots (m : Fin 17) (h : HostMem) (s : State) : Host.Outcome State Fault Refusal :=
  s.onDev (fun fz d => (d.hostTake h).fwLinkSlots fz m)

/-- CLUSTER_FORM (R313). -/
def execClusterForm (m : Fin 17) (s : State) : Host.Outcome State Fault Refusal :=
  s.onDev (fun fz d => d.fwClusterForm fz m)

/-- CLUSTER_MAP (R415). -/
def execClusterMap (m : Fin 17) (s : State) : Host.Outcome State Fault Refusal :=
  s.onDev (fun fz d => d.fwClusterMap fz m)

/-- CLUSTER_RELAY (R418). -/
def execClusterRelay (m : Fin 17) (h : HostMem) (s : State) : Host.Outcome State Fault Refusal :=
  s.onDev (fun fz d => (d.hostTake h).fwClusterRelay fz m)

/-- RELAY_TIMEOUT (R418). -/
def execRelayTimeout (m : Fin 17) (s : State) : Host.Outcome State Fault Refusal :=
  s.onDev (fun _ d => d.relayTimeout m)

/-- CLUSTER_TIME (R415). -/
def execClusterTime (m : Fin 17) (s : State) : Host.Outcome State Fault Refusal :=
  s.onDev (fun fz d => d.fwClusterTime fz m)

/-- CLUSTER_DISBAND (R415). -/
def execClusterDisband (m : Fin 17) (s : State) : Host.Outcome State Fault Refusal :=
  s.onDev (fun fz d => d.fwClusterDisband fz m)

end Sys2Proof.Machine
end

