-- ==== Sys2Proof/Machine/DebugCmds.lean ====
section
/-! DEFINITION. Meanings of commands of the debug port and run control (chapter 15). -/

namespace Sys2Proof.Machine

/-- DBG_LINE_RESET (R481). -/
def execDbgLineReset (s : State) : Host.Outcome State Fault Refusal :=
  s.onPorst (fun _ d => d.lineReset)

/-- DBG_READ_REQUEST (R486). -/
def execDbgReadRequest (h : BitVec 16) (a : Word) (crc : BitVec 4) (slow : Bool) (s : State) : Host.Outcome State Fault Refusal :=
  s.onPorst (fun fz d => d.dbgReadRequest fz h a crc slow)

/-- DBG_WRITE_REQUEST (R487). -/
def execDbgWriteRequest (h : BitVec 16) (a : Word) (v : Word) (crc : BitVec 4) (s : State) : Host.Outcome State Fault Refusal :=
  s.onPorst (fun fz d => d.dbgWriteRequest fz h a v crc)

/-- BREAK (R491). -/
def execBreak (c : Fin 4) (s : State) : Host.Outcome State Fault Refusal :=
  s.onDev (fun _ d => d.brk c)

/-- COMPARATOR (R494). -/
def execComparator (c : Fin 4) (kind : Fin 3) (addr : Word) (n : Nat) (next : Word) (s : State) : Host.Outcome State Fault Refusal :=
  s.onDev (fun _ d => d.comparator c kind addr n next)

/-- STEP_EVENT (R492). -/
def execStepEvent (c : Fin 4) (next : Word) (s : State) : Host.Outcome State Fault Refusal :=
  s.onDev (fun _ d => d.stepEvent c next)

/-- HALT_REQUEST (R492). -/
def execHaltRequest (who : Who) (c : Fin 4) (v : Word) (s : State) : Host.Outcome State Fault Refusal :=
  s.onDev (fun fz d => d.regPut fz who (Reg.SP_CORE_DBG_CTL c) (withBit v 5 true))

/-- MONITOR_RETURN (R492). -/
def execMonitorReturn (c : Fin 4) (s : State) : Host.Outcome State Fault Refusal :=
  s.onDev (fun _ d => d.monitorReturn c)

/-- TRACE_MARK (R495). -/
def execTraceMark (c : Fin 4) (n : Nat) (v : Word) (at_ : Word) (s : State) : Host.Outcome State Fault Refusal :=
  s.onDev (fun _ d => d.traceMark c n v at_)

/-- TRACE_PACKET_WRITE (R496). -/
def execTracePacketWrite (c : Fin 4) (s : State) : Host.Outcome State Fault Refusal :=
  s.onDev (fun _ d => d.tracePacket c)

/-- WATCHDOG_EXPIRY (R498). -/
def execWatchdogExpiry (s : State) : Host.Outcome State Fault Refusal :=
  s.onDev (fun _ d => d.wdtExpire)

/-- SP_WDT_KICK (R498). -/
def execSpWdtKick (who : Who) (s : State) : Host.Outcome State Fault Refusal :=
  s.onDev (fun fz d => d.regPut fz who Reg.SP_WDT_KICK 1)

end Sys2Proof.Machine
end

