-- ==== Sys2Proof/Machine/DevCmds.lean ====
section
/-! DEFINITION. Meanings of commands of the DEV, LOAD and RUN commands of service firmware 3.2 (chapter 12). -/

namespace Sys2Proof.Machine

/-- DEV_INFO (R415). -/
def execDevInfo (m : Fin 17) (s : State) : Host.Outcome State Fault Refusal :=
  s.onDev (fun fz d => d.fwDevInfo fz m)

/-- DEV_RESET (R415), with BLOCK_RESET (R474). -/
def execDevReset (m : Fin 17) (s : State) : Host.Outcome State Fault Refusal :=
  s.onDev (fun fz d => d.fwDevReset fz m)

/-- WARM_RESET_DELAY (R470). -/
def execWarmResetDelay (s : State) : Host.Outcome State Fault Refusal :=
  s.onDev (fun fz d => d.warmReset fz)

/-- DEV_REG_READ (R415). -/
def execDevRegRead (m : Fin 17) (s : State) : Host.Outcome State Fault Refusal :=
  s.onDev (fun fz d => d.fwRegRead fz m)

/-- DEV_REG_WRITE (R415). -/
def execDevRegWrite (m : Fin 17) (s : State) : Host.Outcome State Fault Refusal :=
  s.onDev (fun fz d => d.fwRegWrite fz m)

/-- LOAD_OPEN (R415). -/
def execLoadOpen (m : Fin 17) (s : State) : Host.Outcome State Fault Refusal :=
  s.onDev (fun fz d => d.fwLoadOpen fz m)

/-- LOAD_DATA (R415). -/
def execLoadData (m : Fin 17) (s : State) : Host.Outcome State Fault Refusal :=
  s.onDev (fun fz d => d.fwLoadData fz m)

/-- LOAD_CLOSE (R415). -/
def execLoadClose (m : Fin 17) (s : State) : Host.Outcome State Fault Refusal :=
  s.onDev (fun fz d => d.fwLoadClose fz m)

/-- LOAD_STATUS (R415). -/
def execLoadStatus (m : Fin 17) (s : State) : Host.Outcome State Fault Refusal :=
  s.onDev (fun fz d => d.fwLoadStatus fz m)

/-- LOAD_RESTART (R415). -/
def execLoadRestart (m : Fin 17) (s : State) : Host.Outcome State Fault Refusal :=
  s.onDev (fun fz d => d.fwLoadRestart fz m)

/-- RUN_CONFIG (R415). -/
def execRunConfig (m : Fin 17) (s : State) : Host.Outcome State Fault Refusal :=
  s.onDev (fun fz d => d.fwRunConfig fz m)

/-- RUN_START (R416). -/
def execRunStart (m : Fin 17) (s : State) : Host.Outcome State Fault Refusal :=
  s.onDev (fun fz d => d.fwRunStart fz m)

/-- RUN_STOP (R416). -/
def execRunStop (m : Fin 17) (s : State) : Host.Outcome State Fault Refusal :=
  s.onDev (fun fz d => d.fwRunStop fz m)

/-- RUN_STEP (R416). -/
def execRunStep (m : Fin 17) (s : State) : Host.Outcome State Fault Refusal :=
  s.onDev (fun fz d => d.fwRunStep fz m)

/-- RUN_STOP_AT (R416). -/
def execRunStopAt (m : Fin 17) (s : State) : Host.Outcome State Fault Refusal :=
  s.onDev (fun fz d => d.fwRunStopAt fz m)

/-- RUN_STATUS (R415). -/
def execRunStatus (m : Fin 17) (s : State) : Host.Outcome State Fault Refusal :=
  s.onDev (fun fz d => d.fwRunStatus fz m)

/-- RUN_WAIT (R415). -/
def execRunWait (m : Fin 17) (s : State) : Host.Outcome State Fault Refusal :=
  s.onDev (fun fz d => d.fwRunWait fz m)

/-- RUN_WAIT_LIMIT (R415). -/
def execRunWaitLimit (m : Fin 17) (s : State) : Host.Outcome State Fault Refusal :=
  s.onDev (fun _ d => d.runWaitLimit m)

end Sys2Proof.Machine
end

