-- ==== Sys2Proof/Machine/FabricCmds.lean ====
section
/-! DEFINITION. Meanings of commands of the fabric, waves and design cycles (chapters 2 and 3). -/

namespace Sys2Proof.Machine

/-- CAPTURE_EVENT (R65). -/
def execCaptureEvent (m : Mc) (stable : Bool) (s : State) : Host.Outcome State Fault Refusal :=
  s.onDev (fun _ d => d.capture m stable)

/-- ASYNC_SET_RESET (R60). -/
def execAsyncSetReset (m : Mc) (s : State) : Host.Outcome State Fault Refusal :=
  s.onDev (fun _ d => d.asyncForce m)

/-- INPUT_HANDSHAKE (R101). -/
def execInputHandshake (f : Fin 384) (sink : Sink) (v : BitVec 512) (s : State) : Host.Outcome State Fault Refusal :=
  s.onDev (fun _ d => d.inputChange f sink v)

/-- WAVE_DELAY_EXPIRY (R101), with LATENT_READ_ISSUE (R116), PROGRAM_START (R172). -/
def execWaveDelayExpiry (f : Fin 384) (steps : Nat) (s : State) : Host.Outcome State Fault Refusal :=
  s.onDev (fun _ d => d.delayOut f steps)

/-- CHANGE_ACKNOWLEDGED (R101). -/
def execChangeAcknowledged (f : Fin 384) (steps : Nat) (s : State) : Host.Outcome State Fault Refusal :=
  s.onDev (fun _ d => d.changeAcked f steps)

/-- WAVE_LAUNCH (R97), with WIRE_REGISTER_STEP (R98). -/
def execWaveLaunch (f : Fin 384) (s : State) : Host.Outcome State Fault Refusal :=
  s.onDev (fun _ d => d.launchWave f)

/-- COMMIT_PULSE (R106), with BIN_PORT_WRITE (R154), BIN_REGISTERED_READ (R155), MAC_FABRIC_COMMIT (R171), LATENT_WRITE_ISSUE
(R117), PROBE_SAMPLE (R124), SIO_OUTPUT_COMMIT (R149), STREAM_PORT_WRITE (R300), STREAM_PORT_READ (R305), SYNC_SAMPLE (R295). -/
def execCommitPulse (s : State) : Host.Outcome State Fault Refusal :=
  s.onDev (fun _ d => d.commitPulse)

/-- BOUNDARY_REACHED (R107), with STATE_CAPTURE_READ (R120), STATE_CAPTURE_WRITE (R122), FIELD_FREEZE (R363),
FIELD_PARTICIPATION_CHANGE (R104), BRIDGE_HOLD_END (R81), PACER_STOP (R138), SYNC_BURST_FORM (R295), GLEAN_REWRITE (R361),
GOLDEN_RELOAD (R364). -/
def execBoundaryReached (s : State) : Host.Outcome State Fault Refusal :=
  s.onDev (fun fz d => d.boundary fz)

/-- DESIGN_CYCLE_RELEASE (R108), with SIO_SAMPLE (R147), SYNC_BURST_CONSUME (R297). -/
def execDesignCycleRelease (unsure : BitVec 64) (s : State) : Host.Outcome State Fault Refusal :=
  s.onDev (fun _ d => d.releaseNow unsure)

/-- WAVE_TIMEOUT (R110), with ERROR_RECORD (R381). -/
def execWaveTimeout (f : Fin 384) (s : State) : Host.Outcome State Fault Refusal :=
  s.onDev (fun _ d => d.waveTimeout f)

/-- LATENT_READ_RETURN (R116). -/
def execLatentReadReturn (f : Fin 384) (q : Fin 16) (steps : Nat) (s : State) : Host.Outcome State Fault Refusal :=
  s.onDev (fun _ d => d.latentReturn f q steps)

/-- LATENT_WRITE_ACCEPT (R117). -/
def execLatentWriteAccept (i : Nat) (s : State) : Host.Outcome State Fault Refusal :=
  s.onDev (fun _ d => d.latentAccept i)

/-- DELAY_CALIBRATION (R114). -/
def execDelayCalibration (die : Fin 12) (temp : Int) (trims : List Nat) (s : State) : Host.Outcome State Fault Refusal :=
  s.onDev (fun _ d => d.calibrate die temp trims)

/-- CAL_NOW (R114). -/
def execCalNow (who : Who) (die : Fin 12) (temp : Int) (trims : List Nat) (s : State) : Host.Outcome State Fault Refusal :=
  s.onDev (fun fz d =>
    let d := d.regPut fz who (Reg.FAB_CAL_CTL die) (withBit (d.rdWord (Reg.FAB_CAL_CTL die)) 1 true)
    if d.on (Reg.FAB_CAL_CTL_cal_now die) then d.calibrate die temp trims else d)

/-- FAB_BRIDGE_HOLD_WRITE (R88). -/
def execFabBridgeHoldWrite (who : Who) (die : Fin 12) (v : Word) (s : State) : Host.Outcome State Fault Refusal :=
  s.onDev (fun fz d => d.regPut fz who (Reg.FAB_BRIDGE_HOLD die) v)

end Sys2Proof.Machine
end

