-- ==== Sys2Proof/Machine/HbmCmds.lean ====
section
/-! DEFINITION. Meanings of commands of HBM stacks and protected regions (chapter 7). -/

namespace Sys2Proof.Machine

/-- HBM_INIT_START (R230), with ORDER_MISMATCH (R225). -/
def execHbmInitStart (who : Who) (b : Fin 4) (s : State) : Host.Outcome State Fault Refusal :=
  s.onDev (fun fz d => d.regPut fz who (Reg.HBM_INIT (baseSel b)) 1)

/-- HBM_STACK_INIT_DONE (R230). -/
def execHbmStackInitDone (m : Fin 8) (identity : Bool) (temp : Int) (sweeps : List (List Sweep)) (s : State) : Host.Outcome State Fault Refusal :=
  s.onDev (fun fz d => (d.hbmInitDone m identity temp sweeps).serveWaiting fz)

/-- HBM_RETRAIN (R232). -/
def execHbmRetrain (who : Who) (m : Fin 8) (pause : Bool) (s : State) : Host.Outcome State Fault Refusal :=
  s.onDev (fun fz d => d.regPut fz who (Reg.HBM_STK_CMD (stackSel m) (m.val % 2)) (if pause then 6 else 2))

/-- PSEUDO_CHANNEL_RETRAIN_DONE (R232). -/
def execPseudoChannelRetrainDone (m : Fin 8) (sweeps : List Sweep) (s : State) : Host.Outcome State Fault Refusal :=
  s.onDev (fun fz d => (d.pcRetrained m sweeps).serveWaiting fz)

/-- FREQ_CHANGE (R233). -/
def execFreqChange (who : Who) (m : Fin 8) (pause : Bool) (s : State) : Host.Outcome State Fault Refusal :=
  s.onDev (fun fz d => d.regPut fz who (Reg.HBM_STK_CMD (stackSel m) (m.val % 2)) (if pause then 5 else 1))

/-- FREQ_CHANGE_DONE (R233). -/
def execFreqChangeDone (m : Fin 8) (s : State) : Host.Outcome State Fault Refusal :=
  s.onDev (fun fz d => (d.freqDone m).serveWaiting fz)

/-- HBM_TEMP_READ (R235), with HBM_OVERTEMP (R236). -/
def execHbmTempRead (m : Fin 8) (temp : Int) (s : State) : Host.Outcome State Fault Refusal :=
  s.onDev (fun fz d => (d.hbmTempRead m temp).serveWaiting fz)

/-- HBM_HOLD_EXPIRY (R236). -/
def execHbmHoldExpiry (m : Fin 8) (i : Nat) (s : State) : Host.Outcome State Fault Refusal :=
  s.onDev (fun _ d => d.holdOver m i)

/-- HBM_STK_ERRCLR (R249). -/
def execHbmStkErrclr (who : Who) (m : Fin 8) (s : State) : Host.Outcome State Fault Refusal :=
  s.onDev (fun fz d => d.regPut fz who (Reg.HBM_STK_ERRCLR (stackSel m) (m.val % 2)) 1)

/-- MEMSEC_ENABLE_WRITE (R240). -/
def execMemsecEnableWrite (who : Who) (m : Fin 8) (v : Word) (s : State) : Host.Outcome State Fault Refusal :=
  s.onDev (fun fz d => d.regPut fz who (Reg.MEMSEC_STK_CTL (stackSel m) (m.val % 2)) v)

/-- MEMSEC_REGION_INIT (R241). -/
def execMemsecRegionInit (who : Who) (m : Fin 8) (r : Fin 4) (v : Word) (s : State) : Host.Outcome State Fault Refusal :=
  s.onDev (fun fz d => d.regPut fz who (Reg.MEMSEC_RGN_CTL (stackSel m) (m.val % 2) r) (withBit v 4 true))

/-- MEMSEC_REGION_ACTIVE (R242). -/
def execMemsecRegionActive (m : Fin 8) (r : Fin 4) (s : State) : Host.Outcome State Fault Refusal :=
  s.onDev (fun fz d => (d.rgnActive m r).serveWaiting fz)

/-- MEMSEC_REGION_CLOSE (R242). -/
def execMemsecRegionClose (who : Who) (m : Fin 8) (r : Fin 4) (v : Word) (s : State) : Host.Outcome State Fault Refusal :=
  s.onDev (fun fz d => d.regPut fz who (Reg.MEMSEC_RGN_CTL (stackSel m) (m.val % 2) r) (withBit v 5 true))

/-- MEMSEC_REGION_INACTIVE (R242). -/
def execMemsecRegionInactive (m : Fin 8) (r : Fin 4) (s : State) : Host.Outcome State Fault Refusal :=
  s.onDev (fun fz d => (d.rgnInactive m r).serveWaiting fz)

end Sys2Proof.Machine
end

