-- ==== Sys2Proof/Machine/HealthCmds.lean ====
section
/-! DEFINITION. Meanings of commands of the HEALTH, SEC and DEBUG commands of service firmware 3.2 (chapter 12). -/

namespace Sys2Proof.Machine

/-- HEALTH_LOG_READ (R415). -/
def execHealthLogRead (m : Fin 17) (s : State) : Host.Outcome State Fault Refusal :=
  s.onDev (fun fz d => d.fwLogRead fz m)

/-- HEALTH_LOG_CLEAR (R415). -/
def execHealthLogClear (m : Fin 17) (s : State) : Host.Outcome State Fault Refusal :=
  s.onDev (fun fz d => d.fwLogClear fz m)

/-- HEALTH_TELEMETRY (R415). -/
def execHealthTelemetry (m : Fin 17) (s : State) : Host.Outcome State Fault Refusal :=
  s.onDev (fun fz d => d.fwTelemetry fz m)

/-- HEALTH_BUDGET (R449). -/
def execHealthBudget (m : Fin 17) (s : State) : Host.Outcome State Fault Refusal :=
  s.onDev (fun fz d => d.fwBudget fz m)

/-- HEALTH_SCRUB (R415). -/
def execHealthScrub (m : Fin 17) (s : State) : Host.Outcome State Fault Refusal :=
  s.onDev (fun fz d => d.fwScrub fz m)

/-- HEALTH_IRQ (R413). -/
def execHealthIrq (m : Fin 17) (s : State) : Host.Outcome State Fault Refusal :=
  s.onDev (fun fz d => d.fwIrq fz m)

/-- HEALTH_HALT (R415). -/
def execHealthHalt (m : Fin 17) (s : State) : Host.Outcome State Fault Refusal :=
  s.onDev (fun fz d => d.fwHalt fz m)

/-- SEC_KEY_INSTALL (R429). -/
def execSecKeyInstall (m : Fin 17) (h : HostMem) (s : State) : Host.Outcome State Fault Refusal :=
  s.onDev (fun fz d => (d.hostTake h).fwKeyInstall fz m)

/-- SEC_KEY_CLEAR (R415). -/
def execSecKeyClear (m : Fin 17) (s : State) : Host.Outcome State Fault Refusal :=
  s.onDev (fun fz d => d.fwKeyClear fz m)

/-- SEC_WORLD_SET (R425). -/
def execSecWorldSet (m : Fin 17) (s : State) : Host.Outcome State Fault Refusal :=
  s.onDev (fun fz d => d.fwWorldSet fz m)

/-- SEC_LIFECYCLE (R433). -/
def execSecLifecycle (m : Fin 17) (h : HostMem) (vcc : Bool) (s : State) : Host.Outcome State Fault Refusal :=
  s.onDev (fun fz d => (d.hostTake h).fwLifecycle fz m vcc)

/-- SEC_CHALLENGE (R415). -/
def execSecChallenge (m : Fin 17) (s : State) : Host.Outcome State Fault Refusal :=
  s.onDev (fun fz d => d.fwChallenge fz m)

/-- SEC_UNLOCK (R433). -/
def execSecUnlock (m : Fin 17) (h : HostMem) (vcc : Bool) (s : State) : Host.Outcome State Fault Refusal :=
  s.onDev (fun fz d => (d.hostTake h).fwUnlock fz m vcc)

/-- SEC_WIPE (R436). -/
def execSecWipe (m : Fin 17) (s : State) : Host.Outcome State Fault Refusal :=
  s.onDev (fun fz d => d.fwWipe fz m)

/-- DEBUG_TRACE_READ (R496). -/
def execDebugTraceRead (m : Fin 17) (s : State) : Host.Outcome State Fault Refusal :=
  s.onDev (fun fz d => d.fwTraceRead fz m)

/-- DEBUG_TRACE_CTL (R496). -/
def execDebugTraceCtl (m : Fin 17) (s : State) : Host.Outcome State Fault Refusal :=
  s.onDev (fun fz d => d.fwTraceCtl fz m)

end Sys2Proof.Machine
end

