-- ==== Sys2Proof/Machine/HostCmds.lean ====
section
/-! DEFINITION. Meanings of commands of the boot ROM, the host port and mailboxes (chapter 12). -/

namespace Sys2Proof.Machine

/-- ID_BOOT_DOORBELL (R396). -/
def execIdBootDoorbell (s : State) : Host.Outcome State Fault Refusal :=
  s.onDev (fun _ d => d.bootDoorbell)

/-- IMAGE_VERIFIED (R397). -/
def execImageVerified (flash : Option (List Byte)) (s : State) : Host.Outcome State Fault Refusal :=
  s.onDev (fun fz d => d.imageVerified fz flash)

/-- FIRMWARE_READY (R397). -/
def execFirmwareReady (s : State) : Host.Outcome State Fault Refusal :=
  s.onDev (fun fz d => d.firmwareReady fz)

/-- BOOT_SOURCE_TIMEOUT (R397). -/
def execBootSourceTimeout (s : State) : Host.Outcome State Fault Refusal :=
  s.onDev (fun _ d => d.bootTimeout)

/-- SP_MEM_UE (R420). -/
def execSpMemUe (address : BitVec 48) (s : State) : Host.Outcome State Fault Refusal :=
  s.onDev (fun _ d => d.spFatal 0x1601 address.toNat addrValid)

/-- HOST_LINK_DOWN (R420). -/
def execHostLinkDown (s : State) : Host.Outcome State Fault Refusal :=
  s.onDev (fun _ d => d.hostLinkDown)

/-- PE_PERST_N (R400). -/
def execPePerstN (s : State) : Host.Outcome State Fault Refusal :=
  s.onDev (fun _ d => d.hostReset)

/-- FUNCTION_LEVEL_RESET (R400). -/
def execFunctionLevelReset (s : State) : Host.Outcome State Fault Refusal :=
  s.onDev (fun _ d => d.hostReset)

/-- MB_CMD_TAIL (R403). -/
def execMbCmdTail (m : Fin 16) (tail : BitVec 16) (h : HostMem) (s : State) : Host.Outcome State Fault Refusal :=
  s.onDev (fun _ d => (d.hostTake h).mbTail m tail.toNat)

/-- MB_RSP_HEAD (R404). -/
def execMbRspHead (m : Fin 16) (head : BitVec 16) (h : HostMem) (s : State) : Host.Outcome State Fault Refusal :=
  s.onDev (fun _ d => (d.hostTake h).mbRspHead m head.toNat)

/-- MB_ENABLE (R405). -/
def execMbEnable (m : Fin 16) (v : Word) (s : State) : Host.Outcome State Fault Refusal :=
  s.onDev (fun _ d => d.mbCtl m (withBit v 0 true))

/-- MB_DISABLE (R405). -/
def execMbDisable (m : Fin 16) (v : Word) (s : State) : Host.Outcome State Fault Refusal :=
  s.onDev (fun _ d => d.mbCtl m (withBit v 0 false))

/-- MB_IRQ_HOLDOFF_EXPIRY (R405). -/
def execMbIrqHoldoffExpiry (m : Fin 16) (s : State) : Host.Outcome State Fault Refusal :=
  s.onDev (fun _ d => d.holdoffOver m)

/-- LONG_COMMAND_STEP (R408). -/
def execLongCommandStep (m : Fin 17) (done : Bool) (s : State) : Host.Outcome State Fault Refusal :=
  s.onDev (fun fz d => d.jobStep fz m done)

/-- BAD_OPCODE (R407). -/
def execBadOpcode (m : Fin 17) (s : State) : Host.Outcome State Fault Refusal :=
  s.onDev (fun fz d => d.badOpcode fz m)

/-- HEARTBEAT (R401). -/
def execHeartbeat (s : State) : Host.Outcome State Fault Refusal :=
  s.onDev (fun _ d => d.heartbeat)

/-- BAR2_ACCESS (R412). -/
def execBar2Access (x : BitVec 36) (n : Nat) (data : Option (List Byte)) (us : List Upset) (s : State) : Host.Outcome State Fault Refusal :=
  s.onDev (fun fz d => d.bar2 fz x.toNat n data us)

end Sys2Proof.Machine
end

