-- ==== Sys2Proof/Machine/IntegrityCmds.lean ====
section
/-! DEFINITION. Meanings of commands of integrity and errors (chapter 11). -/

namespace Sys2Proof.Machine

/-- GLEAN_FRAME_READ (R360). -/
def execGleanFrameRead (die : Fin 12) (flips : List Nat) (s : State) : Host.Outcome State Fault Refusal :=
  s.onDev (fun _ d => d.gleanRead die flips)

/-- GLEAN_CTL_WRITE (R364). -/
def execGleanCtlWrite (who : Who) (die : Fin 12) (k : Fin 3) (v : Word) (s : State) : Host.Outcome State Fault Refusal :=
  s.onDev (fun fz d =>
    d.regPut fz who (match k with | 0 => Reg.GLEAN_CTL die | 1 => Reg.GLEAN_GOLDEN_LO die | 2 => Reg.GLEAN_GOLDEN_HI die) v)

/-- GLEAN_UNFREEZE (R368). -/
def execGleanUnfreeze (who : Who) (die : Fin 12) (v : Word) (s : State) : Host.Outcome State Fault Refusal :=
  s.onDev (fun fz d => d.regPut fz who (Reg.GLEAN_UNFREEZE die) v)

/-- SCRUB_UNIT (R369), with BUCKET_OVERFLOW (R373). -/
def execScrubUnit (i : Fin 16) (k : Fin 4) (flips : List Nat) (s : State) : Host.Outcome State Fault Refusal :=
  s.onDev (fun _ d => d.scrubStep i k flips)

/-- BUCKET_LEAK (R373). -/
def execBucketLeak (i : Fin 16) (k : Fin 5) (s : State) : Host.Outcome State Fault Refusal :=
  s.onDev (fun _ d => d.bucketLeak i k)

/-- ERR_BKT_CFG_WRITE (R373). -/
def execErrBktCfgWrite (who : Who) (i : Fin 16) (k : Fin 5) (v : Word) (s : State) : Host.Outcome State Fault Refusal :=
  s.onDev (fun fz d => d.regPut fz who (if k.val = 4 then Reg.GLEAN_BKT_CFG (dieSel i) else Reg.ERR_BKT_CFG (dieSel i) k) v)

/-- GRAN_TEST_START (R375). -/
def execGranTestStart (b : Fin 4) (s : State) : Host.Outcome State Fault Refusal :=
  s.onDev (fun _ d => d.granTestStart b)

/-- GRAN_TEST_END (R375). -/
def execGranTestEnd (b : Fin 4) (badRows : List Nat) (badSpares : List Nat) (s : State) : Host.Outcome State Fault Refusal :=
  s.onDev (fun fz d => d.testEnd fz b badRows badSpares)

/-- ERR_FIFO_POP (R383). -/
def execErrFifoPop (who : Who) (i : Fin 16) (s : State) : Host.Outcome State Fault Refusal :=
  s.onDev (fun fz d => d.regPut fz who (Reg.ERR_FIFO_POP (dieSel i)) 1)

/-- ERR_LOG_POLL (R384). -/
def execErrLogPoll (s : State) : Host.Outcome State Fault Refusal :=
  s.onDev (fun _ d => d.logPoll)

/-- ERR_HALT_CLR (R388). -/
def execErrHaltClr (who : Who) (s : State) : Host.Outcome State Fault Refusal :=
  s.onDev (fun fz d => d.regPut fz who Reg.ERR_HALT_CLR 1)

end Sys2Proof.Machine
end

