-- ==== Sys2Proof/Machine/LaneCmds.lean ====
section
/-! DEFINITION. Meanings of commands of serial lanes (chapter 8). -/

namespace Sys2Proof.Machine

/-- LANE_BANK_ENABLE (R252). -/
def execLaneBankEnable (who : Who) (k : Fin 12) (v : Word) (s : State) : Host.Outcome State Fault Refusal :=
  s.onDev (fun fz d => d.regPut fz who (Reg.LANE_BANK_CTL (bankSel k) (k.val % 3)) v)

/-- BANK_ENABLE_EFFECT (R252). -/
def execBankEnableEffect (k : Fin 12) (s : State) : Host.Outcome State Fault Refusal :=
  s.onDev (fun fz d => d.bankEnabled fz k)

/-- LREF_MONITOR_WINDOW (R253). -/
def execLrefMonitorWindow (k : Fin 12) (khz : Nat) (s : State) : Host.Outcome State Fault Refusal :=
  s.onDev (fun _ d => d.lrefWindow k khz)

/-- LANE_ENABLE (R269). -/
def execLaneEnable (who : Who) (n : Fin 192) (v : Word) (s : State) : Host.Outcome State Fault Refusal :=
  s.onDev (fun fz d => d.regPut fz who (Reg.LANE_CTL (laneSel n) (laneJ n)) (withBit v 0 true))

/-- LANE_DISABLE (R269). -/
def execLaneDisable (who : Who) (n : Fin 192) (v : Word) (s : State) : Host.Outcome State Fault Refusal :=
  s.onDev (fun fz d => d.regPut fz who (Reg.LANE_CTL (laneSel n) (laneJ n)) (withBit v 0 false))

/-- LANE_SETTING_WRITE (R269). -/
def execLaneSettingWrite (who : Who) (n : Fin 192) (prbs : Bool) (v : Word) (s : State) : Host.Outcome State Fault Refusal :=
  s.onDev (fun fz d =>
    d.regPut fz who (if prbs then Reg.LANE_PRBS_CTL (laneSel n) (laneJ n) else Reg.LANE_CTL (laneSel n) (laneJ n)) v)

/-- LANE_TX_FIR_WRITE (R269). -/
def execLaneTxFirWrite (who : Who) (n : Fin 192) (v : Word) (s : State) : Host.Outcome State Fault Refusal :=
  s.onDev (fun fz d => d.regPut fz who (Reg.LANE_TX_FIR (laneSel n) (laneJ n)) v)

/-- LANE_PLL_LOCK (R265). -/
def execLanePllLock (n : Fin 192) (s : State) : Host.Outcome State Fault Refusal :=
  s.onDev (fun _ d => d.pllLock n)

/-- PLL_UNLOCK (R266). -/
def execPllUnlock (n : Fin 192) (s : State) : Host.Outcome State Fault Refusal :=
  s.onDev (fun _ d => d.pllUnlock n)

/-- CDR_LOCK (R265). -/
def execCdrLock (n : Fin 192) (s : State) : Host.Outcome State Fault Refusal :=
  s.onDev (fun _ d => d.cdrLock n)

/-- ADAPTATION_DONE (R271). -/
def execAdaptationDone (n : Fin 192) (ctle : Nat) (dfe1 : Nat) (s : State) : Host.Outcome State Fault Refusal :=
  s.onDev (fun _ d => d.adapted n ctle dfe1)

/-- LANE_FRAME_RECEIVE (R261). -/
def execLaneFrameReceive (n : Fin 192) (line : List Nat) (drains : List Nat) (s : State) : Host.Outcome State Fault Refusal :=
  s.onDev (fun _ d => d.laneFrame n line drains)

/-- FEC_CODEWORD_RECEIVE (R260). -/
def execFecCodewordReceive (n : Fin 192) (line : List Nat) (s : State) : Host.Outcome State Fault Refusal :=
  s.onDev (fun _ d => d.fecWord n line)

/-- CHAFF_RECEIVE (R264). -/
def execChaffReceive (n : Fin 192) (line : List Nat) (drains : List Nat) (s : State) : Host.Outcome State Fault Refusal :=
  s.onDev (fun _ d => d.chaff n line drains)

/-- LOSS_OF_SIGNAL (R267). -/
def execLossOfSignal (n : Fin 192) (s : State) : Host.Outcome State Fault Refusal :=
  s.onDev (fun _ d => d.lossOfSignal n)

/-- PRBS_INJECT (R273). -/
def execPrbsInject (who : Who) (n : Fin 192) (s : State) : Host.Outcome State Fault Refusal :=
  s.onDev (fun fz d =>
    d.regPut fz who (Reg.LANE_PRBS_CTL (laneSel n) (laneJ n)) (withBit (d.rdWord (Reg.LANE_PRBS_CTL (laneSel n) (laneJ n))) 7 true))

/-- PRBS_CHECKER_LOCK (R273). -/
def execPrbsCheckerLock (n : Fin 192) (line : List Nat) (s : State) : Host.Outcome State Fault Refusal :=
  s.onDev (fun _ d => d.prbsCheck n line)

/-- EYE_SCAN_START (R274). -/
def execEyeScanStart (who : Who) (n : Fin 192) (v : Word) (s : State) : Host.Outcome State Fault Refusal :=
  s.onDev (fun fz d => d.regPut fz who (Reg.LANE_EYE_CTL (laneSel n) (laneJ n)) (withBit v 19 true))

/-- EYE_POINT_DONE (R274). -/
def execEyePointDone (n : Fin 192) (errs : Nat) (lost : Bool) (s : State) : Host.Outcome State Fault Refusal :=
  s.onDev (fun _ d => d.eyeDone n errs lost)

/-- LANE_CNT_CLR (R275). -/
def execLaneCntClr (who : Who) (n : Fin 192) (s : State) : Host.Outcome State Fault Refusal :=
  s.onDev (fun fz d => d.regPut fz who (Reg.LANE_CNT_CLR (laneSel n) (laneJ n)) 1)

/-- HALTED_FRAME_SEND (R268). -/
def execHaltedFrameSend (n : Fin 192) (s : State) : Host.Outcome State Fault Refusal :=
  s.onDev (fun _ d => d.haltedSent n)

end Sys2Proof.Machine
end

