-- ==== Sys2Proof/Machine/LinkCmds.lean ====
section
/-! DEFINITION. Meanings of commands of link channels and the cluster (chapter 9). -/

namespace Sys2Proof.Machine

/-- FRAME_SEND (R290). -/
def execFrameSend (n : Fin 192) (hello : Bool) (s : State) : Host.Outcome State Fault Refusal :=
  s.onDev (fun fz d => d.watchLink fz n (fun d => d.frameSend n hello))

/-- DATA_FRAME (R283), with FORWARD (R310), SYNC_SLOT_RECEIVE (R296), STREAM_DESCRIPTOR (R305), CONTROL_MESSAGE (R290). -/
def execDataFrame (n : Fin 192) (s : State) : Host.Outcome State Fault Refusal :=
  s.onDev (fun fz d =>
    d.watchLink fz n (fun d => d.takeFrame n (fun t => t == 1) (fun f d => (d.dataFrame n f).clusterTake fz)))

/-- IDLE_FRAME (R283). -/
def execIdleFrame (n : Fin 192) (s : State) : Host.Outcome State Fault Refusal :=
  s.onDev (fun fz d => d.watchLink fz n (fun d => d.takeFrame n (fun t => t == 2) (fun f d => d.idleFrame n f)))

/-- HELLO_FRAME (R312). -/
def execHelloFrame (n : Fin 192) (s : State) : Host.Outcome State Fault Refusal :=
  s.onDev (fun fz d => d.watchLink fz n (fun d => d.takeFrame n (fun t => t == 3) (fun f d => d.helloFrame fz n f)))

/-- HALTED_FRAME (R288). -/
def execHaltedFrame (n : Fin 192) (s : State) : Host.Outcome State Fault Refusal :=
  s.onDev (fun fz d => d.watchLink fz n (fun d => d.takeFrame n (fun t => t == 4) (fun f d => d.haltedFrame n f)))

/-- RESERVED_FRAME_TYPE (R280). -/
def execReservedFrameType (n : Fin 192) (s : State) : Host.Outcome State Fault Refusal :=
  s.onDev (fun fz d =>
    d.watchLink fz n (fun d => d.takeFrame n (fun t => t == 0 || decide (4 < t)) (fun f d => d.reservedFrame n f)))

/-- LINK_CFG_ACTIVATE (R281). -/
def execLinkCfgActivate (who : Who) (n : Fin 192) (v : Word) (s : State) : Host.Outcome State Fault Refusal :=
  s.onDev (fun fz d => d.regPut fz who (Reg.LCH_LINK_CFG (laneSel n) (laneJ n)) (withBit v 0 true))

/-- LINK_CFG_DEACTIVATE (R281). -/
def execLinkCfgDeactivate (who : Who) (n : Fin 192) (v : Word) (s : State) : Host.Outcome State Fault Refusal :=
  s.onDev (fun fz d => d.regPut fz who (Reg.LCH_LINK_CFG (laneSel n) (laneJ n)) (withBit v 0 false))

/-- REPLAY_TIMEOUT (R284), with LCH_LINK_FAIL (R285). -/
def execReplayTimeout (n : Fin 192) (s : State) : Host.Outcome State Fault Refusal :=
  s.onDev (fun fz d => d.watchLink fz n (fun d => d.replayTimeout n))

/-- LANE_ABSENCE_TIMEOUT (R287). -/
def execLaneAbsenceTimeout (n : Fin 192) (s : State) : Host.Outcome State Fault Refusal :=
  s.onDev (fun fz d => d.watchLink fz n (fun d => d.laneAbsence n))

/-- LCH_CTX_READ (R291). -/
def execLchCtxRead (who : Who) (b : Fin 4) (s : State) : Host.Outcome State Fault Refusal :=
  s.onDev (fun fz d => d.regPut fz who (Reg.LCH_CTX_CMD (baseSel b)) 1)

/-- LCH_CTX_WRITE (R294). -/
def execLchCtxWrite (who : Who) (b : Fin 4) (s : State) : Host.Outcome State Fault Refusal :=
  s.onDev (fun fz d => d.regPut fz who (Reg.LCH_CTX_CMD (baseSel b)) 2)

/-- HOT_SLOT_RELEASE (R293). -/
def execHotSlotRelease (c : BitVec 16) (s : State) : Host.Outcome State Fault Refusal :=
  s.onDev (fun _ d => d.hotRelease c.toNat)

/-- STALE_TIMER (R301). -/
def execStaleTimer (c : BitVec 16) (s : State) : Host.Outcome State Fault Refusal :=
  s.onDev (fun _ d => d.staleClose c.toNat)

/-- CREDIT_RETURN (R303). -/
def execCreditReturn (c : BitVec 16) (s : State) : Host.Outcome State Fault Refusal :=
  s.onDev (fun _ d => d.creditReturn c.toNat)

/-- TMARK_SEND (R306). -/
def execTmarkSend (who : Who) (n : Fin 192) (s : State) : Host.Outcome State Fault Refusal :=
  s.onDev (fun fz d => d.regPut fz who (Reg.LCH_TMARK_CTL (laneSel n) (laneJ n)) 1)

/-- LCH_SLOT_DATA_WRITE (R316). -/
def execLchSlotDataWrite (who : Who) (b : Fin 4) (sync : Option (Fin 48)) (v : Word) (s : State) : Host.Outcome State Fault Refusal :=
  s.onDev (fun fz d =>
    d.regPut fz who (match sync with | none => Reg.LCH_SLOT_DATA (baseSel b) | some j => Reg.LCH_LINK_SYNC (baseSel b) j) v)

/-- LCH_LINK_CLR (R316). -/
def execLchLinkClr (who : Who) (n : Fin 192) (s : State) : Host.Outcome State Fault Refusal :=
  s.onDev (fun fz d => d.regPut fz who (Reg.LCH_LINK_CLR (laneSel n) (laneJ n)) 1)

/-- LCH_CTL_LOCK (R311). -/
def execLchCtlLock (who : Who) (b : Fin 4) (v : Word) (s : State) : Host.Outcome State Fault Refusal :=
  s.onDev (fun fz d => d.regPut fz who (Reg.LCH_CTL (baseSel b)) (withBit v 31 true))

/-- TIME_EXCHANGE (R314). -/
def execTimeExchange (n : Fin 192) (pos : Fin 128) (tx : BitVec 64) (rx : BitVec 64) (s : State) : Host.Outcome State Fault Refusal :=
  s.onDev (fun fz d => d.timeExchange fz n pos tx rx)

end Sys2Proof.Machine
end

