-- ==== Sys2Proof/Machine/MacCmds.lean ====
section
/-! DEFINITION. Meanings of commands of bins and MAC tiles (chapter 5). -/

namespace Sys2Proof.Machine

/-- BIN_FLD_CNT_CLR (R165). -/
def execBinFldCntClr (who : Who) (f : Fin 384) (s : State) : Host.Outcome State Fault Refusal :=
  s.onDev (fun fz d => d.regPut fz who (Reg.BIN_FLD_CNT_CLR (dieOf f) (idxOf f)) 1)

/-- NOP (R174). -/
def execNop (f : Fin 384) (t : Fin 96) (s : State) : Host.Outcome State Fault Refusal :=
  s.onDev (fun _ d => d.macArith f t 0 (fun x _ => x))

/-- LOAD (R174). -/
def execLoad (f : Fin 384) (t : Fin 96) (s : State) : Host.Outcome State Fault Refusal :=
  s.onDev (fun _ d => d.macArith f t 1 (fun x p => accOp x 1 p))

/-- MAC (R174). -/
def execMac (f : Fin 384) (t : Fin 96) (s : State) : Host.Outcome State Fault Refusal :=
  s.onDev (fun _ d => d.macArith f t 2 (fun x p => accOp x 2 p))

/-- MSU (R174). -/
def execMsu (f : Fin 384) (t : Fin 96) (s : State) : Host.Outcome State Fault Refusal :=
  s.onDev (fun _ d => d.macArith f t 3 (fun x p => accOp x 3 p))

/-- CLR (R174). -/
def execClr (f : Fin 384) (t : Fin 96) (s : State) : Host.Outcome State Fault Refusal :=
  s.onDev (fun _ d => d.macArith f t 4 (fun x _ => { x with acc := 0 }))

/-- LDK0 (R174). -/
def execLdk0 (f : Fin 384) (t : Fin 96) (s : State) : Host.Outcome State Fault Refusal :=
  s.onDev (fun _ d => d.macConst f t 8 (fun x k => { x with k0 := k }))

/-- LDK1 (R174). -/
def execLdk1 (f : Fin 384) (t : Fin 96) (s : State) : Host.Outcome State Fault Refusal :=
  s.onDev (fun _ d => d.macConst f t 9 (fun x k => { x with k1 := k }))

/-- LOOP (R175). -/
def execLoop (f : Fin 384) (t : Fin 96) (steps : Nat) (s : State) : Host.Outcome State Fault Refusal :=
  s.onDev (fun _ d => (d.macStep f t (fun o => o == 0xA) (fun w d => (d.tileLoop f t w).macEnd f t steps)))

/-- JMP (R175). -/
def execJmp (f : Fin 384) (t : Fin 96) (s : State) : Host.Outcome State Fault Refusal :=
  s.onDev (fun _ d => d.macStep f t (fun o => o == 0xB) (fun w d => d.tileJmp f t w))

/-- BXCLR (R174). -/
def execBxclr (f : Fin 384) (t : Fin 96) (s : State) : Host.Outcome State Fault Refusal :=
  s.onDev (fun _ d => d.macBxclr f t)

/-- HALT (R174). -/
def execHalt (f : Fin 384) (t : Fin 96) (steps : Nat) (s : State) : Host.Outcome State Fault Refusal :=
  s.onDev (fun _ d => d.macStep f t (fun o => o == 0xF) (fun _ d => (d.tileHalt f t).macEnd f t steps))

/-- ILLEGAL_OPCODE (R176). -/
def execIllegalOpcode (f : Fin 384) (t : Fin 96) (steps : Nat) (s : State) : Host.Outcome State Fault Refusal :=
  s.onDev (fun _ d => d.macStep f t macIllegal (fun _ d => (d.tileFault f t 1).macEnd f t steps))

/-- MAC_TILE_CFG_WRITE (R182). -/
def execMacTileCfgWrite (who : Who) (f : Fin 384) (t : Fin 96) (v : Word) (s : State) : Host.Outcome State Fault Refusal :=
  s.onDev (fun fz d => d.regPut fz who (tileReg f t 0) v)

/-- MAC_TILE_AG_WRITE (R182). -/
def execMacTileAgWrite (who : Who) (f : Fin 384) (t : Fin 96) (g : Fin 2) (v : Word) (s : State) : Host.Outcome State Fault Refusal :=
  s.onDev (fun fz d => d.regPut fz who (tileReg f t (1 + g.val)) v)

/-- MAC_TILE_RUN (R178). -/
def execMacTileRun (who : Who) (f : Fin 384) (t : Fin 96) (s : State) : Host.Outcome State Fault Refusal :=
  s.onDev (fun fz d => d.regPut fz who (tileReg f t 3) (withBit 0 14 true))

end Sys2Proof.Machine
end

