-- ==== Sys2Proof/Machine/MemCmds.lean ====
section
/-! DEFINITION. Meanings of commands of the STATE, CAPTURE and MEM commands of service firmware 3.2 (chapter 12). -/

namespace Sys2Proof.Machine

/-- STATE_CHECKPOINT (R417). -/
def execStateCheckpoint (m : Fin 17) (s : State) : Host.Outcome State Fault Refusal :=
  s.onDev (fun fz d => d.fwCheckpoint fz m)

/-- STATE_RESTORE (R417). -/
def execStateRestore (m : Fin 17) (s : State) : Host.Outcome State Fault Refusal :=
  s.onDev (fun fz d => d.fwRestore fz m)

/-- STATE_READ (R415). -/
def execStateRead (m : Fin 17) (s : State) : Host.Outcome State Fault Refusal :=
  s.onDev (fun fz d => d.fwStateRead fz m)

/-- STATE_FORCE (R415). -/
def execStateForce (m : Fin 17) (s : State) : Host.Outcome State Fault Refusal :=
  s.onDev (fun fz d => d.fwForce fz m)

/-- STATE_RELEASE (R415). -/
def execStateRelease (m : Fin 17) (s : State) : Host.Outcome State Fault Refusal :=
  s.onDev (fun fz d => d.fwRelease fz m)

/-- CAPTURE_OPEN (R415). -/
def execCaptureOpen (m : Fin 17) (tiles : List Nat) (s : State) : Host.Outcome State Fault Refusal :=
  s.onDev (fun fz d => d.fwCaptureOpen fz m tiles)

/-- CAPTURE_TRIGGER (R415). -/
def execCaptureTrigger (m : Fin 17) (s : State) : Host.Outcome State Fault Refusal :=
  s.onDev (fun fz d => d.fwCaptureTrigger fz m)

/-- CAPTURE_STATUS (R415). -/
def execCaptureStatus (m : Fin 17) (s : State) : Host.Outcome State Fault Refusal :=
  s.onDev (fun fz d => d.fwCaptureStatus fz m)

/-- CAPTURE_READ (R417). -/
def execCaptureRead (m : Fin 17) (s : State) : Host.Outcome State Fault Refusal :=
  s.onDev (fun fz d => d.fwCaptureRead fz m)

/-- CAPTURE_CLOSE (R415). -/
def execCaptureClose (m : Fin 17) (s : State) : Host.Outcome State Fault Refusal :=
  s.onDev (fun fz d => d.fwCaptureClose fz m)

/-- MEM_WINDOW (R412). -/
def execMemWindow (m : Fin 17) (s : State) : Host.Outcome State Fault Refusal :=
  s.onDev (fun fz d => d.fwWindow fz m)

/-- MEM_READ (R415). -/
def execMemRead (m : Fin 17) (us : List Upset) (s : State) : Host.Outcome State Fault Refusal :=
  s.onDev (fun fz d => d.fwMemRead fz m us)

/-- MEM_WRITE (R415). -/
def execMemWrite (m : Fin 17) (h : HostMem) (us : List Upset) (s : State) : Host.Outcome State Fault Refusal :=
  s.onDev (fun fz d => (d.hostTake h).fwMemWrite fz m us)

/-- MEM_FILL (R415). -/
def execMemFill (m : Fin 17) (us : List Upset) (s : State) : Host.Outcome State Fault Refusal :=
  s.onDev (fun fz d => d.fwMemFill fz m us)

/-- MEM_HBM_INIT (R520). -/
def execMemHbmInit (m : Fin 17) (s : State) : Host.Outcome State Fault Refusal :=
  s.onDev (fun fz d => d.fwHbmInit fz m)

/-- MEM_HBM_TRAIN (R415). -/
def execMemHbmTrain (m : Fin 17) (s : State) : Host.Outcome State Fault Refusal :=
  s.onDev (fun fz d => d.fwHbmTrain fz m)

/-- MEM_HBM_RATE (R415). -/
def execMemHbmRate (m : Fin 17) (s : State) : Host.Outcome State Fault Refusal :=
  s.onDev (fun fz d => d.fwHbmRate fz m)

/-- MEM_PROTECT (R415). -/
def execMemProtect (m : Fin 17) (s : State) : Host.Outcome State Fault Refusal :=
  s.onDev (fun fz d => d.fwProtect fz m)

end Sys2Proof.Machine
end

