-- ==== Sys2Proof/Machine/NocCmds.lean ====
section
/-! DEFINITION. Meanings of commands of the network, remote caches and dies (chapter 6). -/

namespace Sys2Proof.Machine

/-- PACKET_INJECT (R190). -/
def execPacketInject (p : Packet) (s : State) : Host.Outcome State Fault Refusal :=
  s.onDev (fun _ d => d.inject p)

/-- PACKET_HOP (R189), with LATERAL_ARRIVAL (R191). -/
def execPacketHop (i : Nat) (flips : List Nat) (again : List Nat) (s : State) : Host.Outcome State Fault Refusal :=
  s.onDev (fun _ d => d.packetHop i flips again)

/-- READ (R188), with ADDR_DECODE (R32), INTEGRITY_HALT (R386). -/
def execRead (i : Nat) (u : Upset) (s : State) : Host.Outcome State Fault Refusal :=
  s.onDev (fun fz d => d.request fz i 0 [] u)

/-- WRITE (R188). -/
def execWrite (i : Nat) (flips : List Nat) (u : Upset) (s : State) : Host.Outcome State Fault Refusal :=
  s.onDev (fun fz d => d.request fz i 1 flips u)

/-- READ_RESP (R198). -/
def execReadResp (i : Nat) (flips : List Nat) (s : State) : Host.Outcome State Fault Refusal :=
  s.onDev (fun _ d => d.response i 2 flips)

/-- WRITE_RESP (R212). -/
def execWriteResp (i : Nat) (s : State) : Host.Outcome State Fault Refusal :=
  s.onDev (fun _ d => d.response i 3 [])

/-- CACHEABLE_READ (R211). -/
def execCacheableRead (p : Packet) (s : State) : Host.Outcome State Fault Refusal :=
  s.onDev (fun _ d => d.cacheRequest 0 p)

/-- CACHEABLE_WRITE (R211). -/
def execCacheableWrite (p : Packet) (s : State) : Host.Outcome State Fault Refusal :=
  s.onDev (fun _ d => d.cacheRequest 1 p)

/-- RC_READ (R211), with DIRECTORY_EVICT (R213). -/
def execRcRead (i : Nat) (u : Upset) (s : State) : Host.Outcome State Fault Refusal :=
  s.onDev (fun fz d => d.request fz i 8 [] u)

/-- RC_WRITE (R211). -/
def execRcWrite (i : Nat) (flips : List Nat) (u : Upset) (s : State) : Host.Outcome State Fault Refusal :=
  s.onDev (fun fz d => d.request fz i 9 flips u)

/-- FILL (R211). -/
def execFill (i : Nat) (flips : List Nat) (s : State) : Host.Outcome State Fault Refusal :=
  s.onDev (fun _ d => d.fill i flips)

/-- INVAL (R211). -/
def execInval (i : Nat) (s : State) : Host.Outcome State Fault Refusal :=
  s.onDev (fun _ d => d.inval i)

/-- INV_ACK (R212). -/
def execInvAck (i : Nat) (s : State) : Host.Outcome State Fault Refusal :=
  s.onDev (fun fz d => d.invAck fz i)

/-- DIE_GONE (R214). -/
def execDieGone (b : Fin 4) (c : Fin 12) (s : State) : Host.Outcome State Fault Refusal :=
  s.onDev (fun fz d => d.dieGoneAt fz b c)

/-- HOME_RESET (R214). -/
def execHomeReset (c : Fin 12) (b : Fin 4) (s : State) : Host.Outcome State Fault Refusal :=
  s.onDev (fun _ d => d.homeResetAt c b)

/-- NOC_STALL (R196). -/
def execNocStall (i : Nat) (s : State) : Host.Outcome State Fault Refusal :=
  s.onDev (fun _ d => d.packetStall i)

/-- NOC_TIMEOUT (R199). -/
def execNocTimeout (src : Nat) (tag : Nat) (s : State) : Host.Outcome State Fault Refusal :=
  s.onDev (fun _ d => d.nocTimeout src tag)

/-- NOC_RT_DATA_HI_WRITE (R193). -/
def execNocRtDataHiWrite (who : Who) (i : Fin 16) (v : Word) (s : State) : Host.Outcome State Fault Refusal :=
  s.onDev (fun fz d => d.regPut fz who (Reg.NOC_RT_DATA_HI (dieSel i)) v)

/-- NOC_ERRCNT_CLR (R220). -/
def execNocErrcntClr (who : Who) (i : Fin 16) (s : State) : Host.Outcome State Fault Refusal :=
  s.onDev (fun fz d => d.regPut fz who (Reg.NOC_ERRCNT_CLR (dieSel i)) 1)

/-- NOC_STAT_CLEAR (R200). -/
def execNocStatClear (who : Who) (i : Fin 16) (n : Fin 67) (s : State) : Host.Outcome State Fault Refusal :=
  s.onDev (fun fz d =>
    d.regPut fz who (Reg.NOC_STAT_CTL (dieSel i) n) (withBit (d.rdWord (Reg.NOC_STAT_CTL (dieSel i) n)) 1 true))

/-- LINK_FLIT_RECEIVE (R202). -/
def execLinkFlitReceive (b : Fin 4) (j : Fin 2) (flips : List Nat) (s : State) : Host.Outcome State Fault Refusal :=
  s.onDev (fun _ d => d.latFlit b j flips)

/-- TRAINING_ATTEMPT_END (R201), with LINK_DOWN (R204). -/
def execTrainingAttemptEnd (l : Fin 4) (g0 : BitVec 16) (g1 : BitVec 16) (s : State) : Host.Outcome State Fault Refusal :=
  s.onDev (fun _ d => d.trainingEnd l g0 g1)

/-- D2D_RETRAIN (R204). -/
def execD2dRetrain (who : Who) (b : Fin 4) (j : Fin 2) (s : State) : Host.Outcome State Fault Refusal :=
  s.onDev (fun fz d =>
    d.regPut fz who (Reg.D2D_LAT_CTL (baseSel b) j) (withBit (d.rdWord (Reg.D2D_LAT_CTL (baseSel b) j)) 4 true))

/-- D2D_LAT_ERRCLR (R221). -/
def execD2dLatErrclr (who : Who) (b : Fin 4) (j : Fin 2) (s : State) : Host.Outcome State Fault Refusal :=
  s.onDev (fun fz d => d.regPut fz who (Reg.D2D_LAT_ERRCLR (baseSel b) j) 1)

/-- VERT_PORT_READY (R206). -/
def execVertPortReady (c : Fin 12) (s : State) : Host.Outcome State Fault Refusal :=
  s.onDev (fun _ d => d.vertReady c)

/-- FLUSH_COMPLETE (R215). -/
def execFlushComplete (s : State) : Host.Outcome State Fault Refusal :=
  s.onDev (fun fz d => d.flushComplete fz)

/-- RCACHE_FLUSH (R215). -/
def execRcacheFlush (who : Who) (c : Fin 12) (s : State) : Host.Outcome State Fault Refusal :=
  s.onDev (fun fz d => d.regPut fz who (Reg.RCACHE_CTL c) (withBit (d.rdWord (Reg.RCACHE_CTL c)) 1 true))

/-- RCACHE_DISABLE (R222). -/
def execRcacheDisable (who : Who) (c : Fin 12) (v : Word) (s : State) : Host.Outcome State Fault Refusal :=
  s.onDev (fun fz d => d.regPut fz who (Reg.RCACHE_CTL c) (withBit v 0 false))

/-- DIE_REPORT (R216). -/
def execDieReport (i : Fin 16) (s : State) : Host.Outcome State Fault Refusal :=
  s.onDev (fun _ d => d.dieReport i)

/-- DIE_BUDGET (R216). -/
def execDieBudget (i : Fin 16) (s : State) : Host.Outcome State Fault Refusal :=
  s.onDev (fun _ d => d.dieBudget i)

/-- BUDGET_FALLBACK (R451). -/
def execBudgetFallback (i : Fin 16) (s : State) : Host.Outcome State Fault Refusal :=
  s.onDev (fun _ d => d.budgetFallback i)

end Sys2Proof.Machine
end

