-- ==== Sys2Proof/Machine/PacerCmds.lean ====
section
/-! DEFINITION. Meanings of commands of the pacer, its timebase and the sideband pins (chapter 4). -/

namespace Sys2Proof.Machine

/-- LEDGER_WRITE (R93). -/
def execLedgerWrite (who : Who) (n : Fin 64) (k : Fin 4) (v : Word) (s : State) : Host.Outcome State Fault Refusal :=
  s.onDev (fun fz d => d.regPut fz who (Reg.PACE_DCLK_PERIOD n.val + 4 * k.val) v)

/-- REF_MONITOR_WINDOW (R128). -/
def execRefMonitorWindow (khz : Nat) (s : State) : Host.Outcome State Fault Refusal :=
  s.onDev (fun _ d => d.refWindow khz)

/-- USE_REF (R129). -/
def execUseRef (who : Who) (s : State) : Host.Outcome State Fault Refusal :=
  s.onDev (fun fz d => d.regPut fz who Reg.PACE_TB_CTL (withBit (d.rdWord Reg.PACE_TB_CTL) 0 true))

/-- TIMEBASE_RETURN (R129). -/
def execTimebaseReturn (s : State) : Host.Outcome State Fault Refusal :=
  s.onDev (fun _ d => d.tbReturn)

/-- PACE_TB_ADJ_WRITE (R130). -/
def execPaceTbAdjWrite (who : Who) (v : Word) (s : State) : Host.Outcome State Fault Refusal :=
  s.onDev (fun fz d => d.regPut fz who Reg.PACE_TB_ADJ v)

/-- DEADLINE_ARRIVAL (R133). -/
def execDeadlineArrival (unsure : BitVec 64) (s : State) : Host.Outcome State Fault Refusal :=
  s.onDev (fun _ d => d.deadline_ unsure)

/-- SCHEDULE_LOST (R136). -/
def execScheduleLost (s : State) : Host.Outcome State Fault Refusal :=
  s.onDev (fun _ d => d.scheduleLost)

/-- START (R139). -/
def execStart (who : Who) (atTime : Bool) (s : State) : Host.Outcome State Fault Refusal :=
  s.onDev (fun fz d => d.regPut fz who Reg.PACE_CMD (if atTime then 9 else 1))

/-- STOP (R139). -/
def execStop (who : Who) (s : State) : Host.Outcome State Fault Refusal :=
  s.onDev (fun fz d => d.regPut fz who Reg.PACE_CMD 2)

/-- STEP (R139). -/
def execStep (who : Who) (atTime : Bool) (s : State) : Host.Outcome State Fault Refusal :=
  s.onDev (fun fz d => d.regPut fz who Reg.PACE_CMD (if atTime then 11 else 3))

/-- STOP_AT_ARM (R140). -/
def execStopAtArm (who : Who) (s : State) : Host.Outcome State Fault Refusal :=
  s.onDev (fun fz d => d.regPut fz who Reg.PACE_CMD 4)

/-- STOP_AT_DISARM (R139). -/
def execStopAtDisarm (who : Who) (s : State) : Host.Outcome State Fault Refusal :=
  s.onDev (fun fz d => d.regPut fz who Reg.PACE_CMD 5)

/-- PACE_RESUME_TIME_WRITE (R142). -/
def execPaceResumeTimeWrite (who : Who) (hi : Bool) (v : Word) (s : State) : Host.Outcome State Fault Refusal :=
  s.onDev (fun fz d => d.pairPut fz who Reg.PACE_RESUME_TIME_LO hi v)

/-- PACE_COMMITTED_WRITE (R297). -/
def execPaceCommittedWrite (who : Who) (hi : Bool) (v : Word) (s : State) : Host.Outcome State Fault Refusal :=
  s.onDev (fun fz d => d.pairPut fz who Reg.PACE_COMMITTED_LO hi v)

/-- SIO_EDGE (R148). -/
def execSioEdge (n : Fin 64) (level : Bool) (s : State) : Host.Outcome State Fault Refusal :=
  s.always (fun _ d =>
    if d.inReset then { d with sio := { d.sio with pads := setPad d.sio.pads n.val level } } else d.sioEdge n level)

/-- SIO_PIN_CTL_WRITE (R151). -/
def execSioPinCtlWrite (who : Who) (n : Fin 64) (v : Word) (s : State) : Host.Outcome State Fault Refusal :=
  s.onDev (fun fz d => d.regPut fz who (Reg.SIO_PIN_CTL n) v)

end Sys2Proof.Machine
end

