-- ==== Sys2Proof/Machine/PowerCmds.lean ====
section
/-! DEFINITION. Meanings of commands of power and clocks (chapter 14). -/

namespace Sys2Proof.Machine

/-- PMB_TRANSACTION_END (R444). -/
def execPmbTransactionEnd (c : Fin 12) (ok : Bool) (w : BitVec 16) (s : State) : Host.Outcome State Fault Refusal :=
  s.onDev (fun _ d => d.pmbEnd c ok w)

/-- PMB_ALERT (R444). -/
def execPmbAlert (regs : List (Fin 12 × BitVec 16)) (s : State) : Host.Outcome State Fault Refusal :=
  s.onDev (fun _ d => each regs (fun e d => d.pmbFault e.1 e.2) d)

/-- CORE_VOLTAGE_FAULT (R444). -/
def execCoreVoltageFault (c : Fin 12) (mv : Nat) (s : State) : Host.Outcome State Fault Refusal :=
  s.onDev (fun _ d => d.voltFault c mv)

/-- STATUS (R445). -/
def execStatus (s : State) : Host.Outcome State Fault Refusal :=
  s.onPorst (fun _ d => d.smbusStatus)

/-- POWER (R445). -/
def execPower (s : State) : Host.Outcome State Fault Refusal :=
  s.onPorst (fun _ d => d.smbusPower)

/-- TEMP_LOGIC (R445). -/
def execTempLogic (s : State) : Host.Outcome State Fault Refusal :=
  s.onPorst (fun _ d => d.smbusLogic)

/-- TEMP_HBM (R445). -/
def execTempHbm (s : State) : Host.Outcome State Fault Refusal :=
  s.onPorst (fun _ d => d.smbusHbm)

/-- CAP_LIMIT (R445). -/
def execCapLimit (v : Option (BitVec 16 × Option Byte)) (s : State) : Host.Outcome State Fault Refusal :=
  s.onPorst (fun _ d => d.smbusCap v)

/-- DIE_POWER (R445). -/
def execDiePower (s : State) : Host.Outcome State Fault Refusal :=
  s.onPorst (fun _ d => d.smbusDies)

/-- PWR_START_GO (R447). -/
def execPwrStartGo (who : Who) (s : State) : Host.Outcome State Fault Refusal :=
  s.onDev (fun fz d => d.regPut fz who Reg.PWR_START 1)

/-- REGULATOR_ON (R447). -/
def execRegulatorOn (c : Fin 12) (s : State) : Host.Outcome State Fault Refusal :=
  s.onDev (fun _ d => d.regulatorOn c)

/-- DIE_RELEASE (R447). -/
def execDieRelease (c : Fin 12) (s : State) : Host.Outcome State Fault Refusal :=
  s.onDev (fun _ d => d.dieRelease c)

/-- RAIL_TIMEOUT (R447). -/
def execRailTimeout (c : Fin 12) (s : State) : Host.Outcome State Fault Refusal :=
  s.onDev (fun _ d => d.railTimeout c)

/-- FIELD_WAKE (R447). -/
def execFieldWake (f : Fin 384) (s : State) : Host.Outcome State Fault Refusal :=
  s.onDev (fun _ d => d.fieldWake f)

/-- BUDGET_WINDOW (R450), with CAP_GUARD (R452), SKEW_CHECK (R453). -/
def execBudgetWindow (c : Fin 12) (s : State) : Host.Outcome State Fault Refusal :=
  s.onDev (fun _ d => d.budgetWindow c)

/-- RETENTION_ENTER (R454). -/
def execRetentionEnter (who : Who) (u : Fin 448) (s : State) : Host.Outcome State Fault Refusal :=
  s.onDev (fun fz d =>
    d.regPut fz who (Reg.PWR_RET_CTL (retBit u).1) (withBit (d.rdWord (Reg.PWR_RET_CTL (retBit u).1)) (retBit u).2 true))

/-- RETENTION_WAKE (R455). -/
def execRetentionWake (who : Who) (u : Fin 448) (s : State) : Host.Outcome State Fault Refusal :=
  s.onDev (fun fz d =>
    d.regPut fz who (Reg.PWR_RET_CTL (retBit u).1) (withBit (d.rdWord (Reg.PWR_RET_CTL (retBit u).1)) (retBit u).2 false))

/-- WAKE_DONE (R455). -/
def execWakeDone (u : Fin 448) (s : State) : Host.Outcome State Fault Refusal :=
  s.onDev (fun fz d => (d.wakeDone u).serveWaiting fz)

/-- TELEMETRY_SAMPLE (R456), with THERM_ALERT (R457), THERM_TRIP (R458). -/
def execTelemetrySample (i : Fin 16) (x : Sample) (s : State) : Host.Outcome State Fault Refusal :=
  s.onDev (fun _ d => d.telemetry i x)

/-- WEAR_MEASUREMENT (R459). -/
def execWearMeasurement (i : Fin 16) (slow : Nat) (s : State) : Host.Outcome State Fault Refusal :=
  s.onDev (fun _ d => d.wear i slow)

/-- MREF_LOSS (R462). -/
def execMrefLoss (b : Fin 4) (which : Fin 3) (s : State) : Host.Outcome State Fault Refusal :=
  s.onDev (fun _ d => d.phyLost b which)

/-- PHY_LOCK_RETURN (R462). -/
def execPhyLockReturn (m : Fin 8) (s : State) : Host.Outcome State Fault Refusal :=
  s.onDev (fun fz d => (d.phyBack m).serveWaiting fz)

/-- PHY_UNLOCK_EXPIRY (R462). -/
def execPhyUnlockExpiry (m : Fin 8) (s : State) : Host.Outcome State Fault Refusal :=
  s.onDev (fun fz d => (d.phyExpired m).serveWaiting fz)

/-- CLK_GATE_CMD (R463). -/
def execClkGateCmd (who : Who) (i : Fin 17) (v : Word) (s : State) : Host.Outcome State Fault Refusal :=
  s.onDev (fun fz d => d.regPut fz who (Reg.CLK_GATE_CMD (anyDie i)) v)

/-- CLKOUT_CTL_WRITE (R464). -/
def execClkoutCtlWrite (who : Who) (ssc : Bool) (v : Word) (s : State) : Host.Outcome State Fault Refusal :=
  s.onDev (fun fz d => d.regPut fz who (if ssc then Reg.CLK_CLKOUT_SSC else Reg.CLK_CLKOUT_CTL) v)

/-- CLOCK_SWITCH (R465). -/
def execClockSwitch (timebase : Bool) (s : State) : Host.Outcome State Fault Refusal :=
  s.onDev (fun _ d => d.clkSwitched timebase)

/-- CLK_FORCED (R465). -/
def execClkForced (timebase : Bool) (s : State) : Host.Outcome State Fault Refusal :=
  s.onDev (fun _ d => d.clkForced timebase)

/-- CDC_TIMEOUT (R467). -/
def execCdcTimeout (i : Fin 17) (block : BitVec 8) (waiting : Option Nat) (merged : Bool) (s : State) : Host.Outcome State Fault Refusal :=
  s.onDev (fun _ d => d.crossingLost (anyDie i) block.toNat waiting merged)

end Sys2Proof.Machine
end

