-- ==== Sys2Proof/Machine/ResetCmds.lean ====
section
/-! DEFINITION. Meanings of commands of resets (chapters 12 and 14). -/

namespace Sys2Proof.Machine

/-- POWER_ON (R470). -/
def execPowerOn (s : State) : Host.Outcome State Fault Refusal :=
  s.always (fun _ d => d.porstAssert)

/-- PORST_N_ASSERT (R442). -/
def execPorstNAssert (s : State) : Host.Outcome State Fault Refusal :=
  s.always (fun _ d => d.porstAssert)

/-- PORST_N_RELEASE (R395). -/
def execPorstNRelease (mode : Fin 4) (role : Fin 4) (tamperPin : Bool) (s : State) : Host.Outcome State Fault Refusal :=
  s.always (fun fz d => if d.pwr.porst then d else (d.porstRelease fz mode role tamperPin).romRuns fz)

/-- SYSRST_N_ASSERT (R470). -/
def execSysrstNAssert (s : State) : Host.Outcome State Fault Refusal :=
  s.always (fun _ d => d.sysrstAssert)

/-- SYSRST_N_RELEASE (R446). -/
def execSysrstNRelease (tamperPin : Bool) (s : State) : Host.Outcome State Fault Refusal :=
  s.always (fun fz d => if d.pwr.sysrst then d else (d.sysrstRelease fz tamperPin).romRuns fz)

/-- PER_DIE_RESET (R470). -/
def execPerDieReset (who : Who) (i : Fin 16) (s : State) : Host.Outcome State Fault Refusal :=
  s.onDev (fun fz d => d.regPut fz who Reg.PWR_DIE_RESET (withBit (d.rdWord Reg.PWR_DIE_RESET) (dieSel i) true))

/-- PER_DIE_RESET_RELEASE (R471). -/
def execPerDieResetRelease (who : Who) (i : Fin 16) (s : State) : Host.Outcome State Fault Refusal :=
  s.onDev (fun fz d => d.regPut fz who Reg.PWR_DIE_RESET (withBit (d.rdWord Reg.PWR_DIE_RESET) (dieSel i) false))

/-- PER_FIELD_RESET (R473). -/
def execPerFieldReset (who : Who) (f : Fin 384) (s : State) : Host.Outcome State Fault Refusal :=
  s.onDev (fun fz d => d.regPut fz who (Reg.PWR_FLD_RESET (dieOf f)) (withBit 0 (idxOf f) true))

end Sys2Proof.Machine
end

