-- ==== Sys2Proof/Machine/SecCmds.lean ====
section
/-! DEFINITION. Meanings of commands of worlds, keys and the lifecycle (chapter 13). -/

namespace Sys2Proof.Machine

/-- SEC_FIELD_WORLD_WRITE (R425). -/
def execSecFieldWorldWrite (who : Who) (k : Fin 12) (v : Word) (s : State) : Host.Outcome State Fault Refusal :=
  s.onDev (fun fz d => d.regPut fz who (Reg.SEC_FIELD_WORLD k) v)

/-- FIELD_WORLD_CLEAR_DONE (R425). -/
def execFieldWorldClearDone (f : Fin 384) (s : State) : Host.Outcome State Fault Refusal :=
  s.onDev (fun _ d => d.fieldWorldDone f)

/-- SEC_GRAN_WORLD_WRITE (R425). -/
def execSecGranWorldWrite (who : Who) (b : Fin 4) (v : Word) (s : State) : Host.Outcome State Fault Refusal :=
  s.onDev (fun fz d => d.regPut fz who (Reg.SEC_GRAN_WORLD b) v)

/-- GRANARY_ZERO_DONE (R425). -/
def execGranaryZeroDone (b : Fin 4) (g : Fin 16) (s : State) : Host.Outcome State Fault Refusal :=
  s.onDev (fun fz d => (d.granZeroDone b g).serveWaiting fz)

/-- SEC_HBM_WORLD_WRITE (R425). -/
def execSecHbmWorldWrite (who : Who) (hi : Bool) (v : Word) (s : State) : Host.Outcome State Fault Refusal :=
  s.onDev (fun fz d => d.regPut fz who (if hi then Reg.SEC_HBM_WORLD_HI else Reg.SEC_HBM_WORLD_LO) v)

/-- SEC_LOCK (R426). -/
def execSecLock (who : Who) (s : State) : Host.Outcome State Fault Refusal :=
  s.onDev (fun fz d => d.regPut fz who Reg.SEC_LOCK 1)

/-- SEC_UNWRAP_GO (R429). -/
def execSecUnwrapGo (who : Who) (offset : BitVec 20) (s : State) : Host.Outcome State Fault Refusal :=
  s.onDev (fun fz d => d.regPut fz who Reg.SEC_UNWRAP_CTL (BitVec.ofNat 32 (offset.toNat + 2 ^ 20)))

/-- KEY_UNWRAP_DONE (R429). -/
def execKeyUnwrapDone (s : State) : Host.Outcome State Fault Refusal :=
  s.onDev (fun fz d => d.unwrapDone fz)

/-- SEC_UNWRAP_CLEAR (R438). -/
def execSecUnwrapClear (who : Who) (offset : BitVec 20) (s : State) : Host.Outcome State Fault Refusal :=
  s.onDev (fun fz d => d.regPut fz who Reg.SEC_UNWRAP_CTL (BitVec.ofNat 32 (offset.toNat + 2 ^ 21)))

/-- LC_CHALLENGE_NEW (R432). -/
def execLcChallengeNew (who : Who) (s : State) : Host.Outcome State Fault Refusal :=
  s.onDev (fun fz d => d.regPut fz who Reg.LC_CHALLENGE_CTL 1)

/-- CHALLENGE_EXPIRY (R432). -/
def execChallengeExpiry (s : State) : Host.Outcome State Fault Refusal :=
  s.onDev (fun _ d => d.challengeOld)

/-- LC_REQ_GO (R432). -/
def execLcReqGo (who : Who) (vcc : Bool) (s : State) : Host.Outcome State Fault Refusal :=
  s.onDev (fun fz d => ({ d with pwr := { d.pwr with vccFuse := vcc } } : Dev).regPut fz who Reg.LC_REQ_GO 1)

/-- FUSE_BLOW_DONE (R433). -/
def execFuseBlowDone (ok : Bool) (s : State) : Host.Outcome State Fault Refusal :=
  if s.dev.inReset then .next s
  else
    let fz := s.dev.fuseBlown s.fuses ok
    .next { s with fuses := fz, dev := s.dev.fuseNext fz ok }

/-- TAMPER_DETECT (R435). -/
def execTamperDetect (i : Fin 5) (s : State) : Host.Outcome State Fault Refusal :=
  s.onDev (fun _ d => d.tamper i)

/-- WIPE_DONE (R436). -/
def execWipeDone (area : WipeArea) (s : State) : Host.Outcome State Fault Refusal :=
  s.onDev (fun fz d => (d.wipeDone area).serveWaiting fz)

end Sys2Proof.Machine
end

