-- ==== Sys2Proof/Machine/Dispatch.lean ====
section
/-! DEFINITION. One arm per command: the call of its meaning. -/

namespace Sys2Proof.Machine

/-- What a command does to everything but the queue. -/
def exec (i : Instr) (s : State) : Host.Outcome State Fault Refusal :=
  match i with
  -- writes of registers
  | .registerWrite who a v => Sys2Proof.Machine.execRegisterWrite who a v s
  -- the fabric, waves and design cycles (chapters 2 and 3)
  | .captureEvent m stable => Sys2Proof.Machine.execCaptureEvent m stable s
  | .asyncSetReset m => Sys2Proof.Machine.execAsyncSetReset m s
  | .inputHandshake f sink v => Sys2Proof.Machine.execInputHandshake f sink v s
  | .waveDelayExpiry f steps => Sys2Proof.Machine.execWaveDelayExpiry f steps s
  | .changeAcknowledged f steps => Sys2Proof.Machine.execChangeAcknowledged f steps s
  | .waveLaunch f => Sys2Proof.Machine.execWaveLaunch f s
  | .commitPulse => Sys2Proof.Machine.execCommitPulse s
  | .boundaryReached => Sys2Proof.Machine.execBoundaryReached s
  | .designCycleRelease unsure => Sys2Proof.Machine.execDesignCycleRelease unsure s
  | .waveTimeout f => Sys2Proof.Machine.execWaveTimeout f s
  | .latentReadReturn f q steps => Sys2Proof.Machine.execLatentReadReturn f q steps s
  | .latentWriteAccept idx => Sys2Proof.Machine.execLatentWriteAccept idx s
  | .delayCalibration die temp trims => Sys2Proof.Machine.execDelayCalibration die temp trims s
  | .calNow who die temp trims => Sys2Proof.Machine.execCalNow who die temp trims s
  | .fabBridgeHoldWrite who die v => Sys2Proof.Machine.execFabBridgeHoldWrite who die v s
  -- the pacer, its timebase and the sideband pins (chapter 4)
  | .ledgerWrite who n k v => Sys2Proof.Machine.execLedgerWrite who n k v s
  | .refMonitorWindow khz => Sys2Proof.Machine.execRefMonitorWindow khz s
  | .useRef who => Sys2Proof.Machine.execUseRef who s
  | .timebaseReturn => Sys2Proof.Machine.execTimebaseReturn s
  | .paceTbAdjWrite who v => Sys2Proof.Machine.execPaceTbAdjWrite who v s
  | .deadlineArrival unsure => Sys2Proof.Machine.execDeadlineArrival unsure s
  | .scheduleLost => Sys2Proof.Machine.execScheduleLost s
  | .start who atTime => Sys2Proof.Machine.execStart who atTime s
  | .stop who => Sys2Proof.Machine.execStop who s
  | .step who atTime => Sys2Proof.Machine.execStep who atTime s
  | .stopAtArm who => Sys2Proof.Machine.execStopAtArm who s
  | .stopAtDisarm who => Sys2Proof.Machine.execStopAtDisarm who s
  | .paceResumeTimeWrite who hi v => Sys2Proof.Machine.execPaceResumeTimeWrite who hi v s
  | .paceCommittedWrite who hi v => Sys2Proof.Machine.execPaceCommittedWrite who hi v s
  | .sioEdge n level => Sys2Proof.Machine.execSioEdge n level s
  | .sioPinCtlWrite who n v => Sys2Proof.Machine.execSioPinCtlWrite who n v s
  -- bins and MAC tiles (chapter 5)
  | .binFldCntClr who f => Sys2Proof.Machine.execBinFldCntClr who f s
  | .nop f t => Sys2Proof.Machine.execNop f t s
  | .load f t => Sys2Proof.Machine.execLoad f t s
  | .mac f t => Sys2Proof.Machine.execMac f t s
  | .msu f t => Sys2Proof.Machine.execMsu f t s
  | .clr f t => Sys2Proof.Machine.execClr f t s
  | .ldk0 f t => Sys2Proof.Machine.execLdk0 f t s
  | .ldk1 f t => Sys2Proof.Machine.execLdk1 f t s
  | .loop f t steps => Sys2Proof.Machine.execLoop f t steps s
  | .jmp f t => Sys2Proof.Machine.execJmp f t s
  | .bxclr f t => Sys2Proof.Machine.execBxclr f t s
  | .halt f t steps => Sys2Proof.Machine.execHalt f t steps s
  | .illegalOpcode f t steps => Sys2Proof.Machine.execIllegalOpcode f t steps s
  | .macTileCfgWrite who f t v => Sys2Proof.Machine.execMacTileCfgWrite who f t v s
  | .macTileAgWrite who f t g v => Sys2Proof.Machine.execMacTileAgWrite who f t g v s
  | .macTileRun who f t => Sys2Proof.Machine.execMacTileRun who f t s
  -- the network, remote caches and dies (chapter 6)
  | .packetInject p => Sys2Proof.Machine.execPacketInject p s
  | .packetHop idx flips again => Sys2Proof.Machine.execPacketHop idx flips again s
  | .read idx u => Sys2Proof.Machine.execRead idx u s
  | .write idx flips u => Sys2Proof.Machine.execWrite idx flips u s
  | .readResp idx flips => Sys2Proof.Machine.execReadResp idx flips s
  | .writeResp idx => Sys2Proof.Machine.execWriteResp idx s
  | .cacheableRead p => Sys2Proof.Machine.execCacheableRead p s
  | .cacheableWrite p => Sys2Proof.Machine.execCacheableWrite p s
  | .rcRead idx u => Sys2Proof.Machine.execRcRead idx u s
  | .rcWrite idx flips u => Sys2Proof.Machine.execRcWrite idx flips u s
  | .fill idx flips => Sys2Proof.Machine.execFill idx flips s
  | .inval idx => Sys2Proof.Machine.execInval idx s
  | .invAck idx => Sys2Proof.Machine.execInvAck idx s
  | .dieGone b c => Sys2Proof.Machine.execDieGone b c s
  | .homeReset c b => Sys2Proof.Machine.execHomeReset c b s
  | .nocStall idx => Sys2Proof.Machine.execNocStall idx s
  | .nocTimeout src tag => Sys2Proof.Machine.execNocTimeout src tag s
  | .nocRtDataHiWrite who idx v => Sys2Proof.Machine.execNocRtDataHiWrite who idx v s
  | .nocErrcntClr who idx => Sys2Proof.Machine.execNocErrcntClr who idx s
  | .nocStatClear who idx n => Sys2Proof.Machine.execNocStatClear who idx n s
  | .linkFlitReceive b j flips => Sys2Proof.Machine.execLinkFlitReceive b j flips s
  | .trainingAttemptEnd l g0 g1 => Sys2Proof.Machine.execTrainingAttemptEnd l g0 g1 s
  | .d2dRetrain who b j => Sys2Proof.Machine.execD2dRetrain who b j s
  | .d2dLatErrclr who b j => Sys2Proof.Machine.execD2dLatErrclr who b j s
  | .vertPortReady c => Sys2Proof.Machine.execVertPortReady c s
  | .flushComplete => Sys2Proof.Machine.execFlushComplete s
  | .rcacheFlush who c => Sys2Proof.Machine.execRcacheFlush who c s
  | .rcacheDisable who c v => Sys2Proof.Machine.execRcacheDisable who c v s
  | .dieReport idx => Sys2Proof.Machine.execDieReport idx s
  | .dieBudget idx => Sys2Proof.Machine.execDieBudget idx s
  | .budgetFallback idx => Sys2Proof.Machine.execBudgetFallback idx s
  -- HBM stacks and protected regions (chapter 7)
  | .hbmInitStart who b => Sys2Proof.Machine.execHbmInitStart who b s
  | .hbmStackInitDone m identity temp sweeps => Sys2Proof.Machine.execHbmStackInitDone m identity temp sweeps s
  | .hbmRetrain who m pause => Sys2Proof.Machine.execHbmRetrain who m pause s
  | .pseudoChannelRetrainDone m sweeps => Sys2Proof.Machine.execPseudoChannelRetrainDone m sweeps s
  | .freqChange who m pause => Sys2Proof.Machine.execFreqChange who m pause s
  | .freqChangeDone m => Sys2Proof.Machine.execFreqChangeDone m s
  | .hbmTempRead m temp => Sys2Proof.Machine.execHbmTempRead m temp s
  | .hbmHoldExpiry m idx => Sys2Proof.Machine.execHbmHoldExpiry m idx s
  | .hbmStkErrclr who m => Sys2Proof.Machine.execHbmStkErrclr who m s
  | .memsecEnableWrite who m v => Sys2Proof.Machine.execMemsecEnableWrite who m v s
  | .memsecRegionInit who m r v => Sys2Proof.Machine.execMemsecRegionInit who m r v s
  | .memsecRegionActive m r => Sys2Proof.Machine.execMemsecRegionActive m r s
  | .memsecRegionClose who m r v => Sys2Proof.Machine.execMemsecRegionClose who m r v s
  | .memsecRegionInactive m r => Sys2Proof.Machine.execMemsecRegionInactive m r s
  -- serial lanes (chapter 8)
  | .laneBankEnable who k v => Sys2Proof.Machine.execLaneBankEnable who k v s
  | .bankEnableEffect k => Sys2Proof.Machine.execBankEnableEffect k s
  | .lrefMonitorWindow k khz => Sys2Proof.Machine.execLrefMonitorWindow k khz s
  | .laneEnable who n v => Sys2Proof.Machine.execLaneEnable who n v s
  | .laneDisable who n v => Sys2Proof.Machine.execLaneDisable who n v s
  | .laneSettingWrite who n prbs v => Sys2Proof.Machine.execLaneSettingWrite who n prbs v s
  | .laneTxFirWrite who n v => Sys2Proof.Machine.execLaneTxFirWrite who n v s
  | .lanePllLock n => Sys2Proof.Machine.execLanePllLock n s
  | .pllUnlock n => Sys2Proof.Machine.execPllUnlock n s
  | .cdrLock n => Sys2Proof.Machine.execCdrLock n s
  | .adaptationDone n ctle dfe1 => Sys2Proof.Machine.execAdaptationDone n ctle dfe1 s
  | .laneFrameReceive n line drains => Sys2Proof.Machine.execLaneFrameReceive n line drains s
  | .fecCodewordReceive n line => Sys2Proof.Machine.execFecCodewordReceive n line s
  | .chaffReceive n line drains => Sys2Proof.Machine.execChaffReceive n line drains s
  | .lossOfSignal n => Sys2Proof.Machine.execLossOfSignal n s
  | .prbsInject who n => Sys2Proof.Machine.execPrbsInject who n s
  | .prbsCheckerLock n line => Sys2Proof.Machine.execPrbsCheckerLock n line s
  | .eyeScanStart who n v => Sys2Proof.Machine.execEyeScanStart who n v s
  | .eyePointDone n errs lost => Sys2Proof.Machine.execEyePointDone n errs lost s
  | .laneCntClr who n => Sys2Proof.Machine.execLaneCntClr who n s
  | .haltedFrameSend n => Sys2Proof.Machine.execHaltedFrameSend n s
  -- link channels and the cluster (chapter 9)
  | .frameSend n hello => Sys2Proof.Machine.execFrameSend n hello s
  | .dataFrame n => Sys2Proof.Machine.execDataFrame n s
  | .idleFrame n => Sys2Proof.Machine.execIdleFrame n s
  | .helloFrame n => Sys2Proof.Machine.execHelloFrame n s
  | .haltedFrame n => Sys2Proof.Machine.execHaltedFrame n s
  | .reservedFrameType n => Sys2Proof.Machine.execReservedFrameType n s
  | .linkCfgActivate who n v => Sys2Proof.Machine.execLinkCfgActivate who n v s
  | .linkCfgDeactivate who n v => Sys2Proof.Machine.execLinkCfgDeactivate who n v s
  | .replayTimeout n => Sys2Proof.Machine.execReplayTimeout n s
  | .laneAbsenceTimeout n => Sys2Proof.Machine.execLaneAbsenceTimeout n s
  | .lchCtxRead who b => Sys2Proof.Machine.execLchCtxRead who b s
  | .lchCtxWrite who b => Sys2Proof.Machine.execLchCtxWrite who b s
  | .hotSlotRelease c => Sys2Proof.Machine.execHotSlotRelease c s
  | .staleTimer c => Sys2Proof.Machine.execStaleTimer c s
  | .creditReturn c => Sys2Proof.Machine.execCreditReturn c s
  | .tmarkSend who n => Sys2Proof.Machine.execTmarkSend who n s
  | .lchSlotDataWrite who b sync v => Sys2Proof.Machine.execLchSlotDataWrite who b sync v s
  | .lchLinkClr who n => Sys2Proof.Machine.execLchLinkClr who n s
  | .lchCtlLock who b v => Sys2Proof.Machine.execLchCtlLock who b v s
  | .timeExchange n pos tx rx => Sys2Proof.Machine.execTimeExchange n pos tx rx s
  -- configuration (chapter 10)
  | .cfgArm who v => Sys2Proof.Machine.execCfgArm who v s
  | .cfgAbort who v => Sys2Proof.Machine.execCfgAbort who v s
  | .cfgRestart who v => Sys2Proof.Machine.execCfgRestart who v s
  | .doneRelease who v => Sys2Proof.Machine.execDoneRelease who v s
  | .sectionHeader x => Sys2Proof.Machine.execSectionHeader x s
  | .endSection x => Sys2Proof.Machine.execEndSection x s
  | .sectionTrailer x => Sys2Proof.Machine.execSectionTrailer x s
  | .nopPacket x => Sys2Proof.Machine.execNopPacket x s
  | .cfgAddress x => Sys2Proof.Machine.execCfgAddress x s
  | .cfgBurstCount x => Sys2Proof.Machine.execCfgBurstCount x s
  | .cfgCheck x => Sys2Proof.Machine.execCfgCheck x s
  | .clear x => Sys2Proof.Machine.execClear x s
  | .zeroMem x => Sys2Proof.Machine.execZeroMem x s
  | .fence x => Sys2Proof.Machine.execFence x s
  | .fenceComplete => Sys2Proof.Machine.execFenceComplete s
  | .frames x => Sys2Proof.Machine.execFrames x s
  | .writeDev x => Sys2Proof.Machine.execWriteDev x s
  | .reservedPacketOpcode x => Sys2Proof.Machine.execReservedPacketOpcode x s
  | .bulkClearDone => Sys2Proof.Machine.execBulkClearDone s
  | .streamPathEnd k => Sys2Proof.Machine.execStreamPathEnd k s
  | .cfgbusIdleTimeout k => Sys2Proof.Machine.execCfgbusIdleTimeout k s
  | .cfgDoneTimeout => Sys2Proof.Machine.execCfgDoneTimeout s
  | .workerLoadRestart => Sys2Proof.Machine.execWorkerLoadRestart s
  -- integrity and errors (chapter 11)
  | .gleanFrameRead die flips => Sys2Proof.Machine.execGleanFrameRead die flips s
  | .gleanCtlWrite who die k v => Sys2Proof.Machine.execGleanCtlWrite who die k v s
  | .gleanUnfreeze who die v => Sys2Proof.Machine.execGleanUnfreeze who die v s
  | .scrubUnit idx k flips => Sys2Proof.Machine.execScrubUnit idx k flips s
  | .bucketLeak idx k => Sys2Proof.Machine.execBucketLeak idx k s
  | .errBktCfgWrite who idx k v => Sys2Proof.Machine.execErrBktCfgWrite who idx k v s
  | .granTestStart b => Sys2Proof.Machine.execGranTestStart b s
  | .granTestEnd b badRows badSpares => Sys2Proof.Machine.execGranTestEnd b badRows badSpares s
  | .errFifoPop who idx => Sys2Proof.Machine.execErrFifoPop who idx s
  | .errLogPoll => Sys2Proof.Machine.execErrLogPoll s
  | .errHaltClr who => Sys2Proof.Machine.execErrHaltClr who s
  -- resets (chapters 12 and 14)
  | .powerOn => Sys2Proof.Machine.execPowerOn s
  | .porstNAssert => Sys2Proof.Machine.execPorstNAssert s
  | .porstNRelease mode role tamperPin => Sys2Proof.Machine.execPorstNRelease mode role tamperPin s
  | .sysrstNAssert => Sys2Proof.Machine.execSysrstNAssert s
  | .sysrstNRelease tamperPin => Sys2Proof.Machine.execSysrstNRelease tamperPin s
  | .perDieReset who idx => Sys2Proof.Machine.execPerDieReset who idx s
  | .perDieResetRelease who idx => Sys2Proof.Machine.execPerDieResetRelease who idx s
  | .perFieldReset who f => Sys2Proof.Machine.execPerFieldReset who f s
  -- the boot ROM, the host port and mailboxes (chapter 12)
  | .idBootDoorbell => Sys2Proof.Machine.execIdBootDoorbell s
  | .imageVerified flash => Sys2Proof.Machine.execImageVerified flash s
  | .firmwareReady => Sys2Proof.Machine.execFirmwareReady s
  | .bootSourceTimeout => Sys2Proof.Machine.execBootSourceTimeout s
  | .spMemUe address => Sys2Proof.Machine.execSpMemUe address s
  | .hostLinkDown => Sys2Proof.Machine.execHostLinkDown s
  | .pePerstN => Sys2Proof.Machine.execPePerstN s
  | .functionLevelReset => Sys2Proof.Machine.execFunctionLevelReset s
  | .mbCmdTail m tail h => Sys2Proof.Machine.execMbCmdTail m tail h s
  | .mbRspHead m head h => Sys2Proof.Machine.execMbRspHead m head h s
  | .mbEnable m v => Sys2Proof.Machine.execMbEnable m v s
  | .mbDisable m v => Sys2Proof.Machine.execMbDisable m v s
  | .mbIrqHoldoffExpiry m => Sys2Proof.Machine.execMbIrqHoldoffExpiry m s
  | .longCommandStep m done => Sys2Proof.Machine.execLongCommandStep m done s
  | .badOpcode m => Sys2Proof.Machine.execBadOpcode m s
  | .heartbeat => Sys2Proof.Machine.execHeartbeat s
  | .bar2Access x n data us => Sys2Proof.Machine.execBar2Access x n data us s
  -- the DEV, LOAD and RUN commands of service firmware 3.2 (chapter 12)
  | .devInfo m => Sys2Proof.Machine.execDevInfo m s
  | .devReset m => Sys2Proof.Machine.execDevReset m s
  | .warmResetDelay => Sys2Proof.Machine.execWarmResetDelay s
  | .devRegRead m => Sys2Proof.Machine.execDevRegRead m s
  | .devRegWrite m => Sys2Proof.Machine.execDevRegWrite m s
  | .loadOpen m => Sys2Proof.Machine.execLoadOpen m s
  | .loadData m => Sys2Proof.Machine.execLoadData m s
  | .loadClose m => Sys2Proof.Machine.execLoadClose m s
  | .loadStatus m => Sys2Proof.Machine.execLoadStatus m s
  | .loadRestart m => Sys2Proof.Machine.execLoadRestart m s
  | .runConfig m => Sys2Proof.Machine.execRunConfig m s
  | .runStart m => Sys2Proof.Machine.execRunStart m s
  | .runStop m => Sys2Proof.Machine.execRunStop m s
  | .runStep m => Sys2Proof.Machine.execRunStep m s
  | .runStopAt m => Sys2Proof.Machine.execRunStopAt m s
  | .runStatus m => Sys2Proof.Machine.execRunStatus m s
  | .runWait m => Sys2Proof.Machine.execRunWait m s
  | .runWaitLimit m => Sys2Proof.Machine.execRunWaitLimit m s
  -- the STATE, CAPTURE and MEM commands of service firmware 3.2 (chapter 12)
  | .stateCheckpoint m => Sys2Proof.Machine.execStateCheckpoint m s
  | .stateRestore m => Sys2Proof.Machine.execStateRestore m s
  | .stateRead m => Sys2Proof.Machine.execStateRead m s
  | .stateForce m => Sys2Proof.Machine.execStateForce m s
  | .stateRelease m => Sys2Proof.Machine.execStateRelease m s
  | .captureOpen m tiles => Sys2Proof.Machine.execCaptureOpen m tiles s
  | .captureTrigger m => Sys2Proof.Machine.execCaptureTrigger m s
  | .captureStatus m => Sys2Proof.Machine.execCaptureStatus m s
  | .captureRead m => Sys2Proof.Machine.execCaptureRead m s
  | .captureClose m => Sys2Proof.Machine.execCaptureClose m s
  | .memWindow m => Sys2Proof.Machine.execMemWindow m s
  | .memRead m us => Sys2Proof.Machine.execMemRead m us s
  | .memWrite m h us => Sys2Proof.Machine.execMemWrite m h us s
  | .memFill m us => Sys2Proof.Machine.execMemFill m us s
  | .memHbmInit m => Sys2Proof.Machine.execMemHbmInit m s
  | .memHbmTrain m => Sys2Proof.Machine.execMemHbmTrain m s
  | .memHbmRate m => Sys2Proof.Machine.execMemHbmRate m s
  | .memProtect m => Sys2Proof.Machine.execMemProtect m s
  -- the LINK and CLUSTER commands of service firmware 3.2 (chapter 12)
  | .linkUp m => Sys2Proof.Machine.execLinkUp m s
  | .linkDownCmd m => Sys2Proof.Machine.execLinkDownCmd m s
  | .linkStatus m => Sys2Proof.Machine.execLinkStatus m s
  | .linkActivate m => Sys2Proof.Machine.execLinkActivate m s
  | .linkPrbs m => Sys2Proof.Machine.execLinkPrbs m s
  | .linkEye m => Sys2Proof.Machine.execLinkEye m s
  | .linkCtxWrite m => Sys2Proof.Machine.execLinkCtxWrite m s
  | .linkCtxRead m => Sys2Proof.Machine.execLinkCtxRead m s
  | .linkSlots m h => Sys2Proof.Machine.execLinkSlots m h s
  | .clusterForm m => Sys2Proof.Machine.execClusterForm m s
  | .clusterMap m => Sys2Proof.Machine.execClusterMap m s
  | .clusterRelay m h => Sys2Proof.Machine.execClusterRelay m h s
  | .relayTimeout m => Sys2Proof.Machine.execRelayTimeout m s
  | .clusterTime m => Sys2Proof.Machine.execClusterTime m s
  | .clusterDisband m => Sys2Proof.Machine.execClusterDisband m s
  -- the HEALTH, SEC and DEBUG commands of service firmware 3.2 (chapter 12)
  | .healthLogRead m => Sys2Proof.Machine.execHealthLogRead m s
  | .healthLogClear m => Sys2Proof.Machine.execHealthLogClear m s
  | .healthTelemetry m => Sys2Proof.Machine.execHealthTelemetry m s
  | .healthBudget m => Sys2Proof.Machine.execHealthBudget m s
  | .healthScrub m => Sys2Proof.Machine.execHealthScrub m s
  | .healthIrq m => Sys2Proof.Machine.execHealthIrq m s
  | .healthHalt m => Sys2Proof.Machine.execHealthHalt m s
  | .secKeyInstall m h => Sys2Proof.Machine.execSecKeyInstall m h s
  | .secKeyClear m => Sys2Proof.Machine.execSecKeyClear m s
  | .secWorldSet m => Sys2Proof.Machine.execSecWorldSet m s
  | .secLifecycle m h vcc => Sys2Proof.Machine.execSecLifecycle m h vcc s
  | .secChallenge m => Sys2Proof.Machine.execSecChallenge m s
  | .secUnlock m h vcc => Sys2Proof.Machine.execSecUnlock m h vcc s
  | .secWipe m => Sys2Proof.Machine.execSecWipe m s
  | .debugTraceRead m => Sys2Proof.Machine.execDebugTraceRead m s
  | .debugTraceCtl m => Sys2Proof.Machine.execDebugTraceCtl m s
  -- worlds, keys and the lifecycle (chapter 13)
  | .secFieldWorldWrite who k v => Sys2Proof.Machine.execSecFieldWorldWrite who k v s
  | .fieldWorldClearDone f => Sys2Proof.Machine.execFieldWorldClearDone f s
  | .secGranWorldWrite who b v => Sys2Proof.Machine.execSecGranWorldWrite who b v s
  | .granaryZeroDone b g => Sys2Proof.Machine.execGranaryZeroDone b g s
  | .secHbmWorldWrite who hi v => Sys2Proof.Machine.execSecHbmWorldWrite who hi v s
  | .secLock who => Sys2Proof.Machine.execSecLock who s
  | .secUnwrapGo who offset => Sys2Proof.Machine.execSecUnwrapGo who offset s
  | .keyUnwrapDone => Sys2Proof.Machine.execKeyUnwrapDone s
  | .secUnwrapClear who offset => Sys2Proof.Machine.execSecUnwrapClear who offset s
  | .lcChallengeNew who => Sys2Proof.Machine.execLcChallengeNew who s
  | .challengeExpiry => Sys2Proof.Machine.execChallengeExpiry s
  | .lcReqGo who vcc => Sys2Proof.Machine.execLcReqGo who vcc s
  | .fuseBlowDone ok => Sys2Proof.Machine.execFuseBlowDone ok s
  | .tamperDetect idx => Sys2Proof.Machine.execTamperDetect idx s
  | .wipeDone area => Sys2Proof.Machine.execWipeDone area s
  -- power and clocks (chapter 14)
  | .pmbTransactionEnd c ok w => Sys2Proof.Machine.execPmbTransactionEnd c ok w s
  | .pmbAlert regs => Sys2Proof.Machine.execPmbAlert regs s
  | .coreVoltageFault c mv => Sys2Proof.Machine.execCoreVoltageFault c mv s
  | .status => Sys2Proof.Machine.execStatus s
  | .power => Sys2Proof.Machine.execPower s
  | .tempLogic => Sys2Proof.Machine.execTempLogic s
  | .tempHbm => Sys2Proof.Machine.execTempHbm s
  | .capLimit v => Sys2Proof.Machine.execCapLimit v s
  | .diePower => Sys2Proof.Machine.execDiePower s
  | .pwrStartGo who => Sys2Proof.Machine.execPwrStartGo who s
  | .regulatorOn c => Sys2Proof.Machine.execRegulatorOn c s
  | .dieRelease c => Sys2Proof.Machine.execDieRelease c s
  | .railTimeout c => Sys2Proof.Machine.execRailTimeout c s
  | .fieldWake f => Sys2Proof.Machine.execFieldWake f s
  | .budgetWindow c => Sys2Proof.Machine.execBudgetWindow c s
  | .retentionEnter who u => Sys2Proof.Machine.execRetentionEnter who u s
  | .retentionWake who u => Sys2Proof.Machine.execRetentionWake who u s
  | .wakeDone u => Sys2Proof.Machine.execWakeDone u s
  | .telemetrySample idx x => Sys2Proof.Machine.execTelemetrySample idx x s
  | .wearMeasurement idx slow => Sys2Proof.Machine.execWearMeasurement idx slow s
  | .mrefLoss b which => Sys2Proof.Machine.execMrefLoss b which s
  | .phyLockReturn m => Sys2Proof.Machine.execPhyLockReturn m s
  | .phyUnlockExpiry m => Sys2Proof.Machine.execPhyUnlockExpiry m s
  | .clkGateCmd who idx v => Sys2Proof.Machine.execClkGateCmd who idx v s
  | .clkoutCtlWrite who ssc v => Sys2Proof.Machine.execClkoutCtlWrite who ssc v s
  | .clockSwitch timebase => Sys2Proof.Machine.execClockSwitch timebase s
  | .clkForced timebase => Sys2Proof.Machine.execClkForced timebase s
  | .cdcTimeout idx block waiting merged => Sys2Proof.Machine.execCdcTimeout idx block waiting merged s
  -- the debug port and run control (chapter 15)
  | .dbgLineReset => Sys2Proof.Machine.execDbgLineReset s
  | .dbgReadRequest h a crc slow => Sys2Proof.Machine.execDbgReadRequest h a crc slow s
  | .dbgWriteRequest h a v crc => Sys2Proof.Machine.execDbgWriteRequest h a v crc s
  | .brk c => Sys2Proof.Machine.execBreak c s
  | .comparator c kind addr n next => Sys2Proof.Machine.execComparator c kind addr n next s
  | .stepEvent c next => Sys2Proof.Machine.execStepEvent c next s
  | .haltRequest who c v => Sys2Proof.Machine.execHaltRequest who c v s
  | .monitorReturn c => Sys2Proof.Machine.execMonitorReturn c s
  | .traceMark c n v at_ => Sys2Proof.Machine.execTraceMark c n v at_ s
  | .tracePacketWrite c => Sys2Proof.Machine.execTracePacketWrite c s
  | .watchdogExpiry => Sys2Proof.Machine.execWatchdogExpiry s
  | .spWdtKick who => Sys2Proof.Machine.execSpWdtKick who s

end Sys2Proof.Machine
end

