-- ==== Sys2Proof/Safety.lean ====
section
/-! DEFINITION. What claims use: whether a command runs without a stop, and states that hold what the spec says they hold. -/

namespace Sys2Proof.Machine

/-- A command runs: it answers a next state. -/
def Runs (i : Instr) (s : State) : Prop := ∃ t, exec i s = .next t

/-- Whether the device is out of device-wide reset (R442). -/
def State.live (s : State) : Bool := !s.dev.inReset

/-- The device is out of reset and lets an initiator's access through to a register: every check of an access passes (R39,
R41, R424, R472). -/
abbrev State.reaches (s : State) (w : Who) (a : Nat) : Prop := s.live = true ∧ s.dev.regGate w a = (none, s.dev)

/-- The state with the device replaced; the fuses and the commands that wait stay. -/
def State.withDev (s : State) (d : Dev) : State := { s with dev := d }

/-- Mailbox `m` may start command `x` with opcode `op` next, out of reset and with no urgent error record to take first, and `x` passes
the checks that all commands of service firmware 3.2 share (R383, R394, R406, R410, R415, R416). -/
abbrev State.starts (s : State) (m op : Nat) (x : Desc) : Prop :=
  s.live = true ∧ s.dev.urgentIrq = 0 ∧ s.dev.nextCmd s.fuses m op = some x ∧ s.dev.cmdGate s.fuses m x = none

/-- The device after a short command has answered (R407). -/
def Dev.answer (d : Dev) (m : Nat) (x : Desc) (status : Nat) (r : List Word) : Dev := (d.takeCmd m).finish m x status r 0 0

/-- The bytes that a feed brings the configuration front end, with the device after them (R320, R321): those of the pins or of the lanes as
they come, those of a LOAD_DATA command from host memory by DMA, none where that may not be read. -/
def Dev.feedTaken (d : Dev) (x : Feed) : Option (List Byte × Dev) :=
  match x with
  | .host h n =>
    match (d.hostTake h).loadJob with
    | some (m, host, len, at_) =>
      match (d.hostTake h).hostRead (host + at_) n with
      | some b => if at_ + n ≤ len ∧ d.frozenSp 5 = false then some (b, (d.hostTake h).loadMoved m n) else none
      | none => none
    | none => none
  | _ => some (x.bytes, d)

/-- The device once a target has packet `i` of those in flight, and has checked the data that a write brought (R187, R196). -/
def Dev.atTarget (d : Dev) (i : Nat) (p : Packet) (flips : List Nat) : Dev :=
  let d := d.setFlight i none
  if p.type = 1 ∨ p.type = 9 then d.checkData (nodeDie p.dst) (nodeNi p.dst) p.addr flips else d

/-- A request as its NI sends it: with the tag that the NI gives next (R195). -/
def Dev.withTag (d : Dev) (p : Packet) : Packet := { p with tag := d.nextTag p.src }

/-- The RC_READ of a whole line that a remote cache sends for a request (R211). -/
def Dev.lineAsk (d : Dev) (c : Nat) (p : Packet) (line : Nat) : Packet :=
  { d.rcRequest c p 8 line with addr := line, lenM1 := 63, bmask := 0, data := [] }

/-- A remote cache's request of a line leaves its die: its target is not held, and its route entry is usable (R190, R214). -/
def Dev.cacheSends (d : Dev) (c line type : Nat) (r : Packet) : Bool :=
  let r := { r with vc := 3, tag := d.nextTag (cacheNode c line) }
  r.type == type && d.heldAnswer r == none && d.routed c (nodeNi (cacheNode c line)) r

/-- The device with its host link up. -/
def Dev.linkedUp (d : Dev) : Dev := { d with host := { d.host with linkUp := true } }

end Sys2Proof.Machine
end

