-- ==== Sys2Proof/Certificates/Slice0/Obligations.lean ====
section
/-! DEFINITION. The statements for the provers: what each command does, and what holds of the machine as a whole. A statement
of basis `stated` in OBLIGATIONS.json formalises the rules that it cites; one that rests on a choice of the model says so and
names the log entry. -/

section
open Sys2Proof Sys2Proof.Machine

/-! ### The machine -/

/-- A step takes the command at the front of the queue and runs it with the rest of the queue. -/
def Obligations.StepRunsTheFrontCommand : Prop :=
  ∀ (s : State) (c : Instr), step (s.withFront c) = exec c s

/-- With no command waiting a step lets time go on by one step of the timebase: the model's choice (log entry 70). In reset
nothing moves. -/
def Obligations.IdleStepIsATick : Prop :=
  ∀ s : State, s.pending = [] →
    (s.live = true → step s = .next (s.withDev s.dev.tick)) ∧ (s.live = false → step s = .next s)

/-- Every command answers a next state, in every state; only a write of a register at an address that is not a multiple of 4
stops, out of reset (R13, R37). -/
def Obligations.EveryCommandRunsOrIsAMisalignedWrite : Prop :=
  ∀ (c : Instr) (s : State),
    (∃ t, exec c s = .next t) ∨
      (∃ who a v, c = .registerWrite who a v ∧ s.live = true ∧ a.toNat % 4 ≠ 0 ∧ exec c s = .fault .unguaranteed)

/-- No command reads or changes the queue: with any other commands waiting behind it, it does the same. -/
def Obligations.NoCommandUsesTheQueue : Prop :=
  ∀ (c : Instr) (s : State) (q : List Instr),
    (∀ t, exec c s = .next t → t.pending = s.pending ∧ exec c { s with pending := q } = .next { t with pending := q }) ∧
    (∀ r, exec c s = .fault r → exec c { s with pending := q } = .fault r)

/-- A fuse that is blown stays blown, and the lifecycle never goes back, whatever runs (R427, R431, R433). -/
def Obligations.NoStepClearsAFuse : Prop :=
  ∀ (s t : State), step s = .next t →
    (∀ k, s.fuses.life.getLsbD k = true → t.fuses.life.getLsbD k = true) ∧
    (∀ k, s.fuses.tamper.getLsbD k = true → t.fuses.tamper.getLsbD k = true) ∧
    (∀ k, s.fuses.mbxWorld.getLsbD k = true → t.fuses.mbxWorld.getLsbD k = true) ∧
    (∀ k, s.fuses.rootHash.getLsbD k = true → t.fuses.rootHash.getLsbD k = true) ∧
    s.fuses.lc ≤ t.fuses.lc

/-- Only FUSE_BLOW_DONE changes a fuse, and only while a lifecycle change blows its fuses (R433). -/
def Obligations.OnlyFuseBlowDoneChangesFuses : Prop :=
  ∀ (c : Instr) (s t : State), exec c s = .next t → t.fuses ≠ s.fuses →
    (∃ ok, c = .fuseBlowDone ok) ∧ s.live = true ∧ s.dev.fuseBusy = true

/-! ### Fabric, waves and design cycles (chapters 2 and 3) -/

/-- The events of a field's wave: an input change, an asynchronous set or reset, a delay that runs out and
an acknowledgment (R60, R69, R77, R78, R81, R98, R101, R105). A set or reset that is 1 puts Q at its level, but for a forced element
and one that keeps a released value. A change at a sheaf input gives it its source's level, and each field whose border it crossed owes
an acknowledgment; an isolation cell that holds lets none through. A bridge wire that holds keeps its receiver still. A delay that runs
out, or a last acknowledgment, completes the wave of a field that waits for nothing else, with the time it took. -/
def Obligations.FieldEvents : Prop :=
  ∀ s : State, s.live = true →
    (∀ m : Mc, exec (.asyncSetReset m) s = .next (s.withDev (
      let d := s.dev
      let k := stook m.f.val m.col.val m.row.val
      let w := d.mcWord k m.s.val m.n.val
      if d.part m.f.val ∧ mcMode w ≠ 0 ∧ mcSrAsync w ∧ ¬ d.forced k m.s.val m.n.val ∧
          ¬ d.fab.kept.get (qKey k m.s.val m.n.val) false then
        (match d.srForce k m.s.val m.n.val w with
         | some v => (d.setQ k m.s.val m.n.val v).handshake m.f.val
         | none => d)
      else d))) ∧
    (∀ (f : Fin 384) (p : Pin) (v : BitVec 512), exec (.inputHandshake f (.pin p) v) s = .next (s.withDev (
      let d := s.dev
      if d.part f.val then
        ({ d with fab := { d.fab with pins := d.fab.pins.put (pinKey f.val p) (v.toNat % 2 ^ p.width) 0 } } : Dev).handshake f.val
      else d))) ∧
    (∀ (f : Fin 384) (dir : Fin 4) (k : Fin 32) (i : Fin 16) (v : BitVec 512), s.dev.part f.val = true →
      (faceField f.val dir.val = none → exec (.inputHandshake f (.bridge dir k i) v) s = .next s) ∧
      (∀ g, faceField f.val dir.val = some g →
        (s.dev.heldDie (dieOf g) = true ∨ (dir.val % 2 = 0 ∧ 8 ≤ i.val) →
          exec (.inputHandshake f (.bridge dir k i) v) s = .next s) ∧
        (s.dev.heldDie (dieOf g) = false → (dir.val % 2 = 0 → i.val < 8) →
          let key := bridgeKey f.val dir.val k.val i.val
          let bit := v.getLsbD 0
          let taken : Dev := { s.dev with fab := { s.dev.fab with bridgeIn := s.dev.fab.bridgeIn.put key bit false } }
          let early : Dev :=
            { s.dev with fab := { s.dev.fab with bridgeNext := s.dev.fab.bridgeNext.put key (if bit then 2 else 1) 0 } }
          (s.dev.bridgeHolds f.val dir.val = true → exec (.inputHandshake f (.bridge dir k i) v) s = .next (s.withDev taken)) ∧
          (s.dev.bridgeHolds f.val dir.val = false →
            (s.dev.ahead f.val g = false → exec (.inputHandshake f (.bridge dir k i) v) s =
              .next (s.withDev ((taken.changeSent g).handshake f.val))) ∧
            (s.dev.ahead f.val g = true → exec (.inputHandshake f (.bridge dir k i) v) s =
              .next (s.withDev ((early.changeSent g).handshake f.val))))))) ∧
    (∀ (f : Fin 384) (sink : Sink) (v : BitVec 512), s.dev.part f.val = false → exec (.inputHandshake f sink v) s = .next s) ∧
    (∀ (f : Fin 384) (col row : Fin 32) (q : Fin 8) (m : Fin 40) (v : BitVec 512), s.dev.part f.val = true →
      let k := stook f.val col.val row.val
      (s.dev.inputPath k q.val m.val = none → exec (.inputHandshake f (.sheaf col row q m) v) s = .next s) ∧
      (∀ gs, s.dev.inputPath k q.val m.val = some gs → exec (.inputHandshake f (.sheaf col row q m) v) s = .next (s.withDev (
        (each gs (fun g d => d.changeSent g)
          (s.dev.changeInput k q.val m.val (s.dev.sourceLevel k q.val m.val))).handshake f.val)))) ∧
    (∀ (f : Fin 384) (col row : Fin 32) (slot : Fin 44) (v : BitVec 512), s.dev.part f.val = true →
      let k := stook f.val col.val row.val
      (s.dev.wirePath k slot.val = none → exec (.inputHandshake f (.wire col row slot) v) s = .next s) ∧
      (∀ gs, s.dev.wirePath k slot.val = some gs → exec (.inputHandshake f (.wire col row slot) v) s = .next (s.withDev (
        (each gs (fun g d => d.changeSent g) s.dev).handshake f.val)))) ∧
    (∀ (f : Fin 384) (n : Nat), exec (.waveDelayExpiry f n) s = .next (s.withDev (
      let x := s.dev.fld f.val
      if x.part ∧ x.st = .eval ∧ x.delay then (s.dev.setFld f.val { x with delay := false }).tryComplete f.val n else s.dev))) ∧
    (∀ (f : Fin 384) (n : Nat), exec (.changeAcknowledged f n) s = .next (s.withDev (
      let x := s.dev.fld f.val
      if x.unacked = 0 then s.dev else (s.dev.setFld f.val { x with unacked := x.unacked - 1 }).tryComplete f.val n))) ∧
    (∀ (f : Fin 384) (n : Nat), let x := s.dev.fld f.val
      x.part = true → x.st = .eval → x.issued = true → x.latent = [] → s.dev.tilesBusy f.val = false → s.dev.cycling = true →
      (x.delay = true → x.unacked = 0 → ∃ t, exec (.waveDelayExpiry f n) s = .next t ∧
        t.dev.fld f.val = { x with delay := false, st := .complete } ∧
        t.dev.get (Reg.FAB_FLD_WAVE_TIME_steps (dieOf f.val) (idxOf f.val)) = min (max n (s.dev.delayUsed f.val x.wave)) 0xFFFF) ∧
      (x.delay = true → x.unacked ≠ 0 → ∃ t, exec (.waveDelayExpiry f n) s = .next t ∧
        t.dev.fld f.val = { x with delay := false }) ∧
      (x.delay = false → x.unacked = 1 → ∃ t, exec (.changeAcknowledged f n) s = .next t ∧
        t.dev.fld f.val = { x with unacked := 0, st := .complete } ∧
        t.dev.get (Reg.FAB_FLD_WAVE_TIME_steps (dieOf f.val) (idxOf f.val)) = min (max n (s.dev.delayUsed f.val x.wave)) 0xFFFF))

/-- The launch of a wave (R97, R98, R99): out of a release or of a completed wave, once every wave neighbor that takes part has
completed that wave too, a field's wave index and its launch count rise by one and its wave delay starts; no other field's part
changes, nor any memory or the pacer, nor any register but FAB_BRIDGE_STATUS of its die, which shows bridges that begin to hold (R81).
A field does not launch while a wave neighbor that takes part is behind it, or while anything of R102 keeps its own wave open. -/
def Obligations.WaveLaunch : Prop :=
  ∀ (s : State) (f : Fin 384), s.live = true →
    (s.dev.mayLaunch f.val = true → ∃ t, exec (.waveLaunch f) s = .next t ∧
      t.dev.fld f.val = { s.dev.fld f.val with
        wave := (s.dev.fld f.val).wave + 1, st := .eval, delay := true, unacked := 0, issued := false,
        launched := (s.dev.fld f.val).launched + 1 } ∧
      (∀ g, g ≠ f.val → t.dev.fld g = s.dev.fld g) ∧ t.dev.mem = s.dev.mem ∧ t.dev.pac = s.dev.pac ∧
      (∀ a, a ≠ Reg.FAB_BRIDGE_STATUS (dieOf f.val) → t.dev.rdWord a = s.dev.rdWord a)) ∧
    (s.dev.mayLaunch f.val = false → exec (.waveLaunch f) s = .next s) ∧
    (∀ g ∈ waveNeighbors f.val, 1 ≤ (s.dev.fld f.val).wave → (s.dev.fld g).part = true →
      ((s.dev.fld g).wave < (s.dev.fld f.val).wave ∨
        ((s.dev.fld g).wave = (s.dev.fld f.val).wave ∧ (s.dev.fld g).done = false)) →
      s.dev.mayLaunch f.val = false) ∧
    (1 ≤ (s.dev.fld f.val).wave →
      ((s.dev.fld f.val).st ≠ .complete ∨ (s.dev.fld f.val).delay = true ∨ (s.dev.fld f.val).unacked ≠ 0 ∨
        (s.dev.fld f.val).latent ≠ []) → s.dev.mayLaunch f.val = false)

/-- A capture event (R58, R65, R66, R69): the macrocell's field takes part, its mode is a register that a captured wire commits, and
the wire made a transition of the kind that the edge field names. Q takes the value of its commit rule, from comb where comb was
stable and from a free bit where it was not; what a released force kept ends; FAB_CAPTURE_SEEN shows the event. -/
def Obligations.CaptureEvent : Prop :=
  ∀ (s : State) (m : Mc) (stable : Bool), s.live = true →
    let d := s.dev
    let k := stook m.f.val m.col.val m.row.val
    let w := d.mcWord k m.s.val m.n.val
    let level := d.capLevel k m.s.val m.n.val w
    d.part m.f.val = true → mcMode w = 1 ∨ mcMode w = 2 → mcCommitSrc w = true → mcCapSrc w ≤ 40 →
    (mcEdge w = 0 ∧ level = true) ∨ (mcEdge w = 1 ∧ level = false) ∨ mcEdge w = 2 →
    exec (.captureEvent m stable) s = .next (s.withDev (
      let d := d.setBit (Reg.FAB_CAPTURE_SEEN_seen (dieOf m.f.val)) (idxOf m.f.val) true
      if d.forced k m.s.val m.n.val then d
      else if stable then
        ((d.setQ k m.s.val m.n.val (d.qAtCommit k m.s.val m.n.val (d.comb k m.s.val m.n.val))).endKept k m.s.val
          m.n.val).handshake m.f.val
      else
        ((d.spend.setQ k m.s.val m.n.val (d.qAtCommit k m.s.val m.n.val (d.freeVal.getLsbD 0))).endKept k m.s.val
          m.n.val).handshake m.f.val))

/-- The commit pulse (R102, R103, R106): once wave W is complete in every field that takes part, PACE_COMMITTED rises by one, the next
cycle is searched from the design time after this one, and every field is idle before wave 1. Outside the waves of a cycle, or
while a field that takes part has not completed wave W, nothing commits. -/
def Obligations.CommitPulse : Prop :=
  ∀ s : State, s.live = true →
    (s.dev.running = true → s.dev.pac.phase = .waves →
      (∀ f ∈ s.dev.parts, (s.dev.fld f).wave = s.dev.waves ∧ (s.dev.fld f).done = true) →
      ∃ t, exec .commitPulse s = .next t ∧
        t.dev.committed = (s.dev.committed + 1) % 2 ^ 64 ∧
        t.dev.pac.phase = .commit ∧
        t.dev.pac.next = s.dev.pair Reg.PACE_CYCLE_TIME_LO Reg.PACE_CYCLE_TIME_HI + 1 ∧
        (∀ f ∈ s.dev.parts, (t.dev.fld f).wave = 0 ∧ (t.dev.fld f).st = .idle)) ∧
    (∀ f, (s.dev.pac.phase ≠ .waves ∨ s.dev.running = false ∨
        (f ∈ s.dev.parts ∧ ((s.dev.fld f).wave ≠ s.dev.waves ∨ (s.dev.fld f).done = false))) →
      exec .commitPulse s = .next s)

/-- The boundary (R24, R104, R107, R112, R113, R140): with every latent write done, no action waiting and no memory to wake, the cycle
ends. Fields enter and leave completion, margins come into force, PACE_COMMITTED stays. With no stop cause due the pacer goes on to the
release of the next cycle; else it stops with the cause of the highest priority. While a latent write is outstanding the boundary is not
reached. -/
def Obligations.BoundaryReached : Prop :=
  ∀ s : State, s.live = true → s.dev.running = true → s.dev.pac.phase = .commit →
    (s.dev.latentWrites = [] → s.dev.bacts = [] → s.dev.joiners = [] →
      exec .boundaryReached s = .next (s.withDev s.dev.boundaryEnd)) ∧
    (s.dev.latentWrites = [] → s.dev.bacts = [] → s.dev.joiners = [] → s.dev.cfg.waiting = [] → s.dev.cfg.toClear = [] →
      s.dev.trimDue = [] →
      ∃ t, exec .boundaryReached s = .next t ∧ t.dev.pac.phase = .boundary ∧ t.dev.committed = s.dev.committed ∧
        (∀ f : Fin 384, (t.dev.fld f.val).part = s.dev.mayTakePart f.val) ∧
        (∀ c : Fin 12, t.dev.effMargin.get c.val 0 = s.dev.get (Reg.FAB_WAVE_CTL_margin c.val)) ∧
        (s.dev.dueCauses = [] → t.dev.running = true) ∧
        (∀ c, stopPriority.find? (fun c => decide (c ∈ s.dev.dueCauses)) = some c →
          t.dev.running = false ∧ t.dev.get Reg.PACE_STATUS_stop_cause = c)) ∧
    (s.dev.latentWrites ≠ [] → exec .boundaryReached s = .next s)

/-- The release of a cycle (R90, R95, R108): at a boundary, at its time, with no stop due and nothing that keeps the next cycle
back, the earliest edge gives the design time; PACE_CYCLE_TIME, PACE_CLK_LEVEL and PACE_CLK_EDGE show it, and the waves begin. -/
def Obligations.DesignCycleRelease : Prop :=
  ∀ (s : State) (unsure : BitVec 64) (t : Nat), s.live = true → s.dev.dueNow = true → s.dev.dueCauses = [] →
    s.dev.releasable = true → s.dev.nextTime = some t →
    ∃ u, exec (.designCycleRelease unsure) s = .next u ∧
      u.dev.pac.phase = .waves ∧ u.dev.pac.locked = true ∧
      u.dev.pair Reg.PACE_CYCLE_TIME_LO Reg.PACE_CYCLE_TIME_HI = t ∧
      u.dev.pair Reg.PACE_CLK_LEVEL0 Reg.PACE_CLK_LEVEL1 = clkBits (fun n => s.dev.clkLevelAt n t) % 2 ^ 64 ∧
      u.dev.pair Reg.PACE_CLK_EDGE0 Reg.PACE_CLK_EDGE1 = clkBits (fun n => s.dev.clkEdgeAt n t) % 2 ^ 64 ∧
      u.dev.committed = s.dev.committed

/-- A wave that passes its limit (R110): a field that takes part has not completed its wave in time; the pacer stops with cause
WAVE_TIMEOUT and PACE_CLK_STATUS.wave_timeout is set, and nothing commits. -/
def Obligations.WaveTimeout : Prop :=
  ∀ (s : State) (f : Fin 384), s.live = true → s.dev.running = true → s.dev.pac.phase = .waves →
    (s.dev.fld f.val).part = true → (s.dev.fld f.val).wave ≠ 0 → (s.dev.fld f.val).done = false →
    ∃ t, exec (.waveTimeout f) s = .next t ∧ t.dev.running = false ∧
      t.dev.get Reg.PACE_STATUS_stop_cause = 5 ∧ t.dev.pac.phase = .boundary ∧
      t.dev.get Reg.PACE_CLK_STATUS_wave_timeout = 1 ∧ t.dev.committed = s.dev.committed

/-- Latent memory (R107, R116, R117, R119). A read whose answer stands at its dock's NI is no longer outstanding, and its port presents,
from the field's next launch, the bytes of its word, or zeros with the error output after a bus error. A write whose answer stands there
is accepted, or lost to a bus error: it leaves the list of those outstanding. Without an answer both wait. -/
def Obligations.LatentMemory : Prop :=
  (∀ (s : State) (f : Fin 384) (q : Fin 16) (steps : Nat) (e : LatentReq) (p : Packet), s.live = true →
    (s.dev.fld f.val).latent.find? (fun e => e.q == q.val) = some e → (s.dev.fld f.val).issued = true →
    s.dev.noc.delivered.find? (fun p => p.dst == dockNode e.f (e.q / 8) && p.tag == e.tag && p.type != 4) = some p →
    ∃ t, exec (.latentReadReturn f q steps) s = .next t ∧ (t.dev.fld f.val).latent = (s.dev.fld f.val).latent.erase e ∧
      (p.status = 0 →
        (t.dev.ports.get (latKey f.val q.val) {}).next = some (ofBytes (slice p.data (e.addr % 64) e.size), false)) ∧
      (p.status ≠ 0 → (t.dev.ports.get (latKey f.val q.val) {}).next = some (0, true))) ∧
  (∀ (s : State) (f : Fin 384) (q : Fin 16) (steps : Nat) (e : LatentReq), s.live = true →
    (s.dev.fld f.val).latent.find? (fun e => e.q == q.val) = some e →
    s.dev.noc.delivered.find? (fun p => p.dst == dockNode e.f (e.q / 8) && p.tag == e.tag && p.type != 4) = none →
    exec (.latentReadReturn f q steps) s = .next s) ∧
  (∀ (s : State) (i : Nat) (r : LatentReq) (p : Packet), s.live = true → s.dev.latentWrites[i]? = some r →
    s.dev.noc.delivered.find? (fun p => p.dst == dockNode r.f (r.q / 8) && p.tag == r.tag && p.type != 4) = some p →
    exec (.latentWriteAccept i) s = .next (s.withDev
      { s.dev with latentWrites := s.dev.latentWrites.eraseIdx i,
                   noc := { s.dev.noc with delivered := s.dev.noc.delivered.erase p } })) ∧
  (∀ (s : State) (i : Nat) (r : LatentReq), s.live = true → s.dev.latentWrites[i]? = some r →
    s.dev.noc.delivered.find? (fun p => p.dst == dockNode r.f (r.q / 8) && p.tag == r.tag && p.type != 4) = none →
    exec (.latentWriteAccept i) s = .next s)

/-- Calibration (R114) and the value of held bridges (R88): a calibration of a die that is not paused shows the junction
temperature and counts; FAB_CAL_CTL.cal_now runs one at once; FAB_BRIDGE_HOLD takes hold_sel in the directions that have a neighbor,
and 0 in the others (R87). -/
def Obligations.CalibrationAndBridgeHold : Prop :=
  ∀ (s : State) (die : Fin 12),
    (∀ (temp : Int) (trims : List Nat), s.live = true → s.dev.heldDie die.val = false →
      s.dev.on (Reg.FAB_CAL_CTL_pause die.val) = false → -256 ≤ temp → temp ≤ 255 →
      ∃ t, exec (.delayCalibration die temp trims) s = .next t ∧
        t.dev.get (Reg.FAB_CAL_STATUS_cal_temp die.val) = (BitVec.ofInt 9 temp).toNat ∧
        t.dev.get (Reg.FAB_CAL_STATUS_cal_count die.val) = (s.dev.get (Reg.FAB_CAL_STATUS_cal_count die.val) + 1) % 2 ^ 16) ∧
    (∀ (who : Who) (temp : Int) (trims : List Nat), s.reaches who (Reg.FAB_CAL_CTL die.val) → -256 ≤ temp → temp ≤ 255 →
      s.dev.heldDie die.val = false →
      ∃ t, exec (.calNow who die temp trims) s = .next t ∧
        t.dev.get (Reg.FAB_CAL_STATUS_cal_temp die.val) = (BitVec.ofInt 9 temp).toNat ∧
        t.dev.on (Reg.FAB_CAL_CTL_cal_now die.val) = false) ∧
    (∀ (who : Who) (v : Word), s.reaches who (Reg.FAB_BRIDGE_HOLD die.val) →
      ∃ t, exec (.fabBridgeHoldWrite who die v) s = .next t ∧
        (∀ dir : Fin 4, t.dev.get ⟨Reg.FAB_BRIDGE_HOLD die.val, 2 * dir.val, 2⟩ =
          if (dieNeighbor die.val dir.val).isSome then bits v (2 * dir.val) 2 else 0) ∧
        (∀ a, a ≠ Reg.FAB_BRIDGE_HOLD die.val → t.dev.rdWord a = s.dev.rdWord a))

/-! ### Design clocks, the pacer and sideband pins (chapters 3 and 4) -/

/-- Which ledger entries are valid, and what an entry that is enabled and not valid does (R91): it has no edge, its level is 0, and
its bit in PACE_CLK_INVALID reads 1. The next edge of a clock in the schedule is right: it is not before the time asked for, the
clock has an edge there, and it has none in between. -/
def Obligations.NextEdgeIsTheEarliest : Prop :=
  ∀ (d : Dev) (fz : Fuses) (n : Fin 64) (t : Nat),
    (d.clkValid n = true ↔ 2 ≤ d.get (Reg.PACE_DCLK_PERIOD_period n) ∧
      d.get (Reg.PACE_DCLK_RISE_rise n) < d.get (Reg.PACE_DCLK_PERIOD_period n) ∧ 1 ≤ d.get (Reg.PACE_DCLK_HIGH_high n) ∧
      d.get (Reg.PACE_DCLK_HIGH_high n) ≤ d.get (Reg.PACE_DCLK_PERIOD_period n) - 1) ∧
    (d.on (Reg.PACE_DCLK_CTL_enable n) = true → d.clkValid n = false → d.clkEdgeAt n t = false ∧ d.clkLevelAt n t = false ∧
      (d.liveWord fz (if n.val < 32 then Reg.PACE_CLK_INVALID0 else Reg.PACE_CLK_INVALID1)).getLsbD (n.val % 32) = true) ∧
    (d.on (Reg.PACE_DCLK_CTL_enable n) = true → d.clkValid n = true →
      t ≤ d.clkNextEdge n t ∧ d.clkEdgeAt n (d.clkNextEdge n t) = true ∧
      ∀ u, t ≤ u → u < d.clkNextEdge n t → d.clkEdgeAt n u = false)

/-- Ledger writes (R93): taken while the pacer is stopped, refused with PACE_CLK_STATUS.write_refused while it runs. -/
def Obligations.LedgerWrites : Prop :=
  ∀ (s : State) (who : Who) (n : Fin 64) (k : Fin 4) (v : Word), s.reaches who (Reg.PACE_DCLK_PERIOD n.val + 4 * k.val) →
    (s.dev.running = false → exec (.ledgerWrite who n k v) s = .next (s.withDev
      (s.dev.wrWord (Reg.PACE_DCLK_PERIOD n.val + 4 * k.val)
        (if k.val = 3 then setBits (s.dev.rdWord (Reg.PACE_DCLK_PERIOD n.val + 4 * k.val)) 0 1 (bits v 0 1) else v)))) ∧
    (s.dev.running = true → exec (.ledgerWrite who n k v) s = .next (s.withDev
      (s.dev.set Reg.PACE_CLK_STATUS_write_refused 1)))

/-- The pacer's commands (Table 4.3, R94, R131, R132, R138 to R140). START and STEP are refused while running or halted, while
CFG_DONE is low, in PACED mode with a ratio of 0, and for a STEP of 0 cycles; otherwise the pacer runs from the next cycle, whose
deadline falls on the start time; a deadline out of range stops it at once with cause 8. STOP stops a pacer at its boundary, and one in
a cycle at the next. STOP_AT_ARM takes PACE_STOP_AT, STOP_AT_DISARM drops it. -/
def Obligations.PacerCommands : Prop :=
  ∀ (s : State) (who : Who) (atTime : Bool), s.reaches who Reg.PACE_CMD →
    let d := s.dev
    let now := if atTime then d.pair Reg.PACE_START_TIME_LO Reg.PACE_START_TIME_HI else d.now
    let count := d.pair Reg.PACE_STEP_COUNT_LO Reg.PACE_STEP_COUNT_HI
    let runs (t : Nat) (left : Option Nat) : Dev :=
      ({ d with pac := { d.pac with
          phase := .boundary, t0 := (now : Int) - d.deadlineTicks t, start := now, stepLeft := left, causes := [],
          lostArmed := true } } : Dev).set Reg.PACE_STATUS_running 1
    let refused : Dev := d.set Reg.PACE_STATUS_cmd_refused 1
    (d.running = true ∨ d.halted = true ∨ d.doneIn = false ∨ (d.paced = true ∧ d.ratio = 0) →
      exec (.start who atTime) s = .next (s.withDev refused) ∧ exec (.step who atTime) s = .next (s.withDev refused)) ∧
    (count = 0 → exec (.step who atTime) s = .next (s.withDev refused)) ∧
    (d.running = false → d.halted = false → d.doneIn = true → (d.paced = true → d.ratio ≠ 0) →
      (∀ t, d.nextTime = some t →
        ((runs t none).deadlineOut = false → exec (.start who atTime) s = .next (s.withDev (runs t none))) ∧
        ((runs t none).deadlineOut = true →
          exec (.start who atTime) s = .next (s.withDev ((runs t none).pacerStop 8)))) ∧
      (∀ t, d.nextTime = some t → count ≠ 0 →
        ((runs t (some count)).deadlineOut = false → exec (.step who atTime) s = .next (s.withDev (runs t (some count)))) ∧
        ((runs t (some count)).deadlineOut = true →
          exec (.step who atTime) s = .next (s.withDev ((runs t (some count)).pacerStop 8)))) ∧
      (d.nextTime = none → exec (.start who atTime) s = .next (s.withDev (d.set Reg.PACE_STATUS_stop_cause 7)) ∧
        (count ≠ 0 → exec (.step who atTime) s = .next (s.withDev (d.set Reg.PACE_STATUS_stop_cause 7))))) ∧
    (d.running = true → d.pac.phase = .boundary → exec (.stop who) s = .next (s.withDev (d.pacerStop 1))) ∧
    (d.running = true → d.pac.phase ≠ .boundary → exec (.stop who) s =
      .next (s.withDev { d with pac := { d.pac with causes := withItem d.pac.causes 1 } })) ∧
    (d.running = false → exec (.stop who) s = .next s) ∧
    exec (.stopAtArm who) s = .next (s.withDev (({ d with pac := { d.pac with
      stopAt := some (d.pair Reg.PACE_STOP_AT_LO Reg.PACE_STOP_AT_HI) } } : Dev).set Reg.PACE_STATUS_stop_at_armed 1)) ∧
    exec (.stopAtDisarm who) s = .next (s.withDev (({ d with pac := { d.pac with stopAt := none } } : Dev).set
      Reg.PACE_STATUS_stop_at_armed 0))

/-- The timebase (R127 to R130): a step adds 10 ticks, 11 or 9 in every 64th step while a correction is left, and takes that tick
from the correction; a correction written while the pacer is stopped applies at once. The monitor of PACE_REF: 100 windows in
range make the calibration valid, one out of range begins the switch to the internal oscillator, or gives up a return that has not completed;
use_ref, kept while the timebase runs on the oscillator or is on its way there and not taken otherwise, begins the return once the
reference has been in range for 1 ms. -/
def Obligations.Timebase : Prop :=
  ∀ s : State, s.live = true →
    (s.dev.rdWord Reg.PACE_TB_ADJ = 0 → s.dev.tbStep.pac.tb = (s.dev.pac.tb + 10) % 2 ^ 64 ∧
      s.dev.tbStep.rdWord Reg.PACE_TB_ADJ = 0) ∧
    (0 < (s.dev.rdWord Reg.PACE_TB_ADJ).toInt → s.dev.pac.slew % 64 = 63 →
      s.dev.tbStep.pac.tb = (s.dev.pac.tb + 11) % 2 ^ 64 ∧
      (s.dev.tbStep.rdWord Reg.PACE_TB_ADJ).toInt = (s.dev.rdWord Reg.PACE_TB_ADJ).toInt - 1) ∧
    ((s.dev.rdWord Reg.PACE_TB_ADJ).toInt < 0 → s.dev.pac.slew % 64 = 63 →
      s.dev.tbStep.pac.tb = (s.dev.pac.tb + 9) % 2 ^ 64 ∧
      (s.dev.tbStep.rdWord Reg.PACE_TB_ADJ).toInt = (s.dev.rdWord Reg.PACE_TB_ADJ).toInt + 1) ∧
    (s.dev.rdWord Reg.PACE_TB_ADJ ≠ 0 → s.dev.pac.slew % 64 ≠ 63 → s.dev.tbStep.pac.tb = (s.dev.pac.tb + 10) % 2 ^ 64) ∧
    (∀ (who : Who) (v : Word), s.reaches who Reg.PACE_TB_ADJ →
      (s.dev.running = false → ∃ t, exec (.paceTbAdjWrite who v) s = .next t ∧
        t.dev.pac.tb = (((s.dev.pac.tb : Int) + v.toInt).emod (2 ^ 64)).toNat ∧ t.dev.rdWord Reg.PACE_TB_ADJ = 0) ∧
      (s.dev.running = true → ∃ t, exec (.paceTbAdjWrite who v) s = .next t ∧ t.dev.pac.tb = s.dev.pac.tb ∧
        t.dev.rdWord Reg.PACE_TB_ADJ = v)) ∧
    (∀ khz : Nat, 90000 ≤ khz → khz ≤ 110000 → exec (.refMonitorWindow khz) s = .next (s.withDev (
      let e : Dev := { s.dev.set Reg.PACE_REF_FREQ_khz khz with pac := { s.dev.pac with good := s.dev.pac.good + 1 } }
      if 100 ≤ s.dev.pac.good + 1 then e.set Reg.PACE_TB_CTL_osc_cal_valid 1 else e))) ∧
    (∀ khz : Nat, khz < 90000 ∨ 110000 < khz → s.dev.on Reg.PACE_STATUS_degraded = false → s.dev.pwr.tbSwitch ≠ some false →
      ∃ t, exec (.refMonitorWindow khz) s = .next t ∧ t.dev.on Reg.PACE_STATUS_degraded = true ∧ t.dev.pac.good = 0 ∧
        t.dev.pwr.tbSwitch = some true) ∧
    (∀ who : Who, s.reaches who Reg.PACE_TB_CTL →
      (s.dev.on Reg.PACE_STATUS_degraded = true → s.dev.pwr.tbSwitch ≠ some false → exec (.useRef who) s =
        .next (s.withDev (s.dev.set Reg.PACE_TB_CTL_use_ref 1))) ∧
      (s.dev.on Reg.PACE_STATUS_degraded = false ∨ s.dev.pwr.tbSwitch = some false → exec (.useRef who) s = .next s)) ∧
    (s.dev.on Reg.PACE_TB_CTL_use_ref = true → 100 ≤ s.dev.pac.good → ∃ t, exec .timebaseReturn s = .next t ∧
      t.dev.on Reg.PACE_TB_CTL_use_ref = false ∧ t.dev.pwr.tbSwitch = some false) ∧
    (∀ khz : Nat, khz < 90000 ∨ 110000 < khz → s.dev.pwr.tbSwitch = some false →
      ∃ t, exec (.refMonitorWindow khz) s = .next t ∧ t.dev.pac.good = 0 ∧
        t.dev.pwr.tbSwitch = if s.dev.pac.osc then none else some true)

/-- Deadlines and design time (R127, R130, R133, R136, R142, R297). A deadline that arrives finds the timebase after the least number of
its steps that reach it, slewed steps counted, and releases the next cycle: with no correction left, after the steps of 10 ticks that
are needed, and the waves of that cycle begin. A debt past the bound is a schedule lost: it is shown and counted, and under lost_policy 0
the schedule moves by the debt, under 1 the pacer stops with cause 4, at the next boundary where a cycle is in progress.
PACE_RESUME_TIME and PACE_COMMITTED are taken while the pacer is stopped and refused while it runs. -/
def Obligations.DeadlinesAndDesignTime : Prop :=
  ∀ s : State,
    (∀ (unsure : BitVec 64) (t : Nat) (x : Int), s.live = true → s.dev.running = true → s.dev.pac.phase = .boundary →
      s.dev.paced = true → s.dev.rdWord Reg.PACE_TB_ADJ = 0 → s.dev.dueCauses = [] → s.dev.releasable = true →
      s.dev.pwr.releaseDue = [] → s.dev.nextTime = some t → s.dev.deadline = some x →
      let due := max x.toNat s.dev.pac.start
      due + 10 < 2 ^ 64 → s.dev.pac.tb < 2 ^ 64 →
      ∃ u, exec (.deadlineArrival unsure) s = .next u ∧ u.dev.pac.phase = .waves ∧
        u.dev.pair Reg.PACE_CYCLE_TIME_LO Reg.PACE_CYCLE_TIME_HI = t ∧
        u.dev.pac.tb = s.dev.pac.tb + 10 * ((due - s.dev.pac.tb + 9) / 10)) ∧
    (s.live = true → s.dev.running = true → s.dev.paced = true → s.dev.pac.lostArmed = true →
      ((max (s.dev.get Reg.PACE_LOST_BOUND_bound) 1 * 16 : Nat) : Int) < s.dev.debt →
      (s.dev.get Reg.PACE_CTL_lost_policy = 0 → ∃ t, exec .scheduleLost s = .next t ∧
        t.dev.pac.t0 = s.dev.pac.t0 + s.dev.debt ∧ t.dev.on Reg.PACE_STATUS_lost = true) ∧
      (s.dev.get Reg.PACE_CTL_lost_policy = 1 → s.dev.pac.phase = .boundary → ∃ t, exec .scheduleLost s = .next t ∧
        t.dev.running = false ∧ t.dev.get Reg.PACE_STATUS_stop_cause = 4) ∧
      (s.dev.get Reg.PACE_CTL_lost_policy = 1 → s.dev.pac.phase ≠ .boundary → ∃ t, exec .scheduleLost s = .next t ∧
        t.dev.running = true ∧ t.dev.pac.causes = withItem s.dev.pac.causes 4)) ∧
    (∀ (who : Who) (hi : Bool) (v : Word), s.reaches who (if hi then Reg.PACE_RESUME_TIME_HI else Reg.PACE_RESUME_TIME_LO) →
      (s.dev.running = false → ∃ t, exec (.paceResumeTimeWrite who hi v) s = .next t ∧
        t.dev.rdWord (if hi then Reg.PACE_RESUME_TIME_HI else Reg.PACE_RESUME_TIME_LO) = v ∧
        t.dev.pac.next = t.dev.pair Reg.PACE_RESUME_TIME_LO Reg.PACE_RESUME_TIME_HI) ∧
      (s.dev.running = true → exec (.paceResumeTimeWrite who hi v) s =
        .next (s.withDev (s.dev.set Reg.PACE_STATUS_cmd_refused 1)))) ∧
    (∀ (who : Who) (hi : Bool) (v : Word), s.reaches who (if hi then Reg.PACE_COMMITTED_HI else Reg.PACE_COMMITTED_LO) →
      (s.dev.running = false → ∃ t, exec (.paceCommittedWrite who hi v) s = .next t ∧
        t.dev.rdWord (if hi then Reg.PACE_COMMITTED_HI else Reg.PACE_COMMITTED_LO) = v ∧ t.dev.pac.firstSync = true ∧
        t.dev.chan.held = []) ∧
      (s.dev.running = true → exec (.paceCommittedWrite who hi v) s =
        .next (s.withDev (s.dev.set Reg.PACE_STATUS_cmd_refused 1)))) ∧
    (∀ unsure : BitVec 64, s.live = true → s.dev.running = true → s.dev.pac.phase = .boundary →
      exec (.deadlineArrival unsure) s = .next (s.withDev (
        let due := max (match (if s.dev.paced then s.dev.deadline else none) with
          | some x => x.toNat
          | none => 0) s.dev.pac.start
        ((s.dev.tbSteps (s.dev.stepsFor (due - s.dev.now))).releaseNow unsure).usSince s.dev.now))) ∧
    (∀ x, 0 < x → x < 2 ^ 64 →
      x ≤ s.dev.stepTicks (s.dev.stepsFor x) ∧ ∀ m, m < s.dev.stepsFor x → s.dev.stepTicks m < x)

/-- Sideband pins (R146, R148, R151): a pad takes its level, in reset too; on an EDGE pin a change of the selected kind counts, up
to 255, and nothing else counts. SIO_PIN_CTL is taken while the pacer is stopped. -/
def Obligations.SidebandPins : Prop :=
  ∀ (s : State) (n : Fin 64) (level : Bool),
    (∃ t, exec (.sioEdge n level) s = .next t ∧ t.dev.sio.pads.getLsbD n.val = level ∧
      (∀ m : Fin 64, m ≠ n → t.dev.sio.pads.getLsbD m.val = s.dev.sio.pads.getLsbD m.val) ∧
      t.dev.regs = s.dev.regs ∧
      (s.live = true → t.dev.sio.cnt.get n.val 0 =
        if s.dev.sio.pads.getLsbD n.val ≠ level ∧ s.dev.sioMode n.val = 2 ∧
            ((s.dev.get (Reg.SIO_PIN_CTL_edge n.val) = 0 ∧ level = true) ∨
              (s.dev.get (Reg.SIO_PIN_CTL_edge n.val) = 1 ∧ level = false) ∨ 2 ≤ s.dev.get (Reg.SIO_PIN_CTL_edge n.val)) then
          min (s.dev.sio.cnt.get n.val 0 + 1) 255
        else s.dev.sio.cnt.get n.val 0)) ∧
    (∀ (who : Who) (v : Word), s.reaches who (Reg.SIO_PIN_CTL n.val) →
      (s.dev.running = true → exec (.sioPinCtlWrite who n v) s =
        .next (s.withDev (s.dev.set Reg.PACE_STATUS_cmd_refused 1))) ∧
      (s.dev.running = false → ∃ t, exec (.sioPinCtlWrite who n v) s = .next t ∧
        t.dev.sioMode n.val = bits v 0 2 ∧ t.dev.get (Reg.SIO_PIN_CTL_edge n.val) = bits v 2 2 ∧
        (∀ a, a ≠ Reg.SIO_PIN_CTL n.val → t.dev.rdWord a = s.dev.rdWord a)))

/-! ### Bins and MAC tiles (chapter 5) -/

/-- O (R168): ACC over 2 to the power p rounded to the nearest number, and to the even one of two equally near, a p above 24
taken as 24; then saturated to 16 bits where saturation is on, and wrapped where it is off. -/
def Obligations.MacOutputRoundsToNearestEven : Prop :=
  ∀ (acc : BitVec 40) (p : BitVec 5),
    let n := min p.toNat 24
    ∃ q : Int, 2 * (acc.toInt - q * 2 ^ n).natAbs ≤ 2 ^ n ∧
      (0 < n → 2 * (acc.toInt - q * 2 ^ n).natAbs = 2 ^ n → q.emod 2 = 0) ∧
      macO acc p.toNat false = BitVec.ofInt 16 q ∧
      (macO acc p.toNat true).toInt = (if q < -32768 then -32768 else if 32767 < q then 32767 else q)

/-- The accumulator (R167): a LOAD puts a product into ACC, an add adds it and a subtract takes it away; the 40 bits wrap, and the
sticky overflow flag is set when the exact result does not fit; nothing else of the tile changes. The product is that of the two
operands, each as two's complement where its sign bit of MAC_TILE_CFG is 1 and as unsigned otherwise. -/
def Obligations.AccumulatorWrapsAndFlags : Prop :=
  ∀ (x : Tile) (p : Int),
    (∀ op exact, (op = 1 ∧ exact = p) ∨ (op = 2 ∧ exact = x.acc.toInt + p) ∨ (op = 3 ∧ exact = x.acc.toInt - p) →
      (accOp x op p).acc.toInt = exact.bmod (2 ^ 40) ∧
      ((accOp x op p).ovf = true ↔ x.ovf = true ∨ exact < -(2 ^ 39) ∨ 2 ^ 39 - 1 < exact) ∧
      accOp x op p = { x with acc := (accOp x op p).acc, ovf := (accOp x op p).ovf }) ∧
    accOp x 0 p = x ∧
    (∀ (a b : BitVec 16) (sa sb : Bool), macProduct a.toNat b.toNat sa sb =
      (if sa then a.toInt else (a.toNat : Int)) * (if sb then b.toInt else (b.toNat : Int)))

/-- One instruction of a tile's program (R173 to R176): a running tile fetches the word at its program counter. `e` is the device
after the fetch. NOP, LOAD, MAC, MSU and CLR fetch, write and advance around their step of the accumulator; LDK0 and LDK1 load a
constant, BXCLR clears the detector; LOOP, JMP and HALT steer; an opcode that is none of these, a LOOP inside a loop and a LOOP
whose end is itself are faults. -/
def Obligations.MacInstructions : Prop :=
  ∀ (s : State) (f : Fin 384) (t : Fin 96) (n w : Nat) (e : Dev), s.live = true → (s.dev.tile f.val t.val).busy = true →
    s.dev.tileFetch f.val t.val = (w, e) →
    let x := e.tile f.val t.val
    let op := w / 2 ^ 28
    let put (y : Tile) : State := s.withDev (e.setTile f.val t.val y)
    (op = 0 → exec (.nop f t) s = .next (s.withDev (e.tileArith f.val t.val w (fun x _ => x)))) ∧
    (op = 1 → exec (.load f t) s = .next (s.withDev (e.tileArith f.val t.val w (fun x p => accOp x 1 p)))) ∧
    (op = 2 → exec (.mac f t) s = .next (s.withDev (e.tileArith f.val t.val w (fun x p => accOp x 2 p)))) ∧
    (op = 3 → exec (.msu f t) s = .next (s.withDev (e.tileArith f.val t.val w (fun x p => accOp x 3 p)))) ∧
    (op = 4 → exec (.clr f t) s = .next (s.withDev (e.tileArith f.val t.val w (fun x _ => { x with acc := 0 })))) ∧
    (op = 8 → exec (.ldk0 f t) s = .next (put (tileNext { x with k0 := BitVec.ofNat 16 w }))) ∧
    (op = 9 → exec (.ldk1 f t) s = .next (put (tileNext { x with k1 := BitVec.ofNat 16 w }))) ∧
    (op = 12 → exec (.bxclr f t) s = .next (put (tileNext { x with det := 15, ovf := false }))) ∧
    (op = 10 → x.busy = true → x.loopOn = false → fieldOf w 10 6 ≠ x.pc → exec (.loop f t n) s =
      .next (put { x with loopOn := true, loopStart := (x.pc + 1) % 64, loopEnd := fieldOf w 10 6,
                          loopLeft := fieldOf w 0 10 + 1, pc := (x.pc + 1) % 64 })) ∧
    (op = 10 → x.loopOn = true → exec (.loop f t n) s =
      .next (s.withDev ((e.tileFault f.val t.val 2).macEnd f.val t.val n))) ∧
    (op = 10 → x.loopOn = false → fieldOf w 10 6 = x.pc → exec (.loop f t n) s =
      .next (s.withDev ((e.tileFault f.val t.val 1).macEnd f.val t.val n))) ∧
    (op = 11 → exec (.jmp f t) s =
      .next (put { x with pc := fieldOf w 0 6, loopOn := x.loopOn && decide ((fieldOf w 0 6 + 64 - x.loopStart) % 64 ≤
        (x.loopEnd + 64 - x.loopStart) % 64) })) ∧
    (op = 15 → exec (.halt f t n) s = .next (s.withDev
      ((e.setTile f.val t.val { x with busy := false, loopOn := false, pub := x.det }).tryComplete f.val n))) ∧
    (op = 5 ∨ op = 6 ∨ op = 7 ∨ op = 13 ∨ op = 14 → exec (.illegalOpcode f t n) s =
      .next (s.withDev ((e.tileFault f.val t.val 1).macEnd f.val t.val n)))

/-- Registers of bins and tiles (R165, R178, R182, Table 5.8). BIN_FLD_CNT_CLR clears the error counts of its field. MAC_TILE_CFG
and the generators are taken while the pacer is stopped, those of a leased tile from a core while the tile is halted; mode 3 from
a core leases an idle tile that its world may use. MAC_TILE_STATUS.run starts a leased tile that is halted at instruction 0. -/
def Obligations.BinAndTileRegisters : Prop :=
  ∀ (s : State) (who : Who) (f : Fin 384) (t : Fin 96) (v : Word),
    (s.reaches who (Reg.BIN_FLD_CNT_CLR (dieOf f.val) (idxOf f.val)) →
      exec (.binFldCntClr who f) s = .next (s.withDev
        (s.dev.wrWord (Reg.BIN_FLD_ERRCNT (dieOf f.val) (idxOf f.val)) 0))) ∧
    (s.reaches who (tileReg f.val t.val 0) →
      (s.dev.leased f.val t.val = false → bits v 0 2 ≠ 3 → s.dev.running = false → exec (.macTileCfgWrite who f t v) s =
        .next (s.withDev (s.dev.plainWrite (tileReg f.val t.val 0) v))) ∧
      (s.dev.leased f.val t.val = false → bits v 0 2 ≠ 3 → s.dev.running = true → exec (.macTileCfgWrite who f t v) s = .next s) ∧
      (s.dev.tileMode f.val t.val = 0 → bits v 0 2 = 3 → who.isCore = true →
        (s.dev.fieldSecure f.val = true → s.dev.whoSecure who = true) →
        ∃ u, exec (.macTileCfgWrite who f t v) s = .next u ∧ (u.dev.tile f.val t.val).busy = false ∧
          u.dev.leased f.val t.val = true)) ∧
    (∀ g : Fin 2, s.reaches who (tileReg f.val t.val (1 + g.val)) →
      (s.dev.leased f.val t.val = false → s.dev.running = false → exec (.macTileAgWrite who f t g v) s =
        .next (s.withDev (s.dev.plainWrite (tileReg f.val t.val (1 + g.val)) v))) ∧
      (s.dev.leased f.val t.val = false → s.dev.running = true → exec (.macTileAgWrite who f t g v) s = .next s) ∧
      (s.dev.leased f.val t.val = true → who.isCore = true → (s.dev.tile f.val t.val).busy = false →
        exec (.macTileAgWrite who f t g v) s = .next (s.withDev (s.dev.plainWrite (tileReg f.val t.val (1 + g.val)) v)))) ∧
    (s.reaches who (tileReg f.val t.val 3) →
      (s.dev.leased f.val t.val = true → (s.dev.tile f.val t.val).busy = false → exec (.macTileRun who f t) s =
        .next (s.withDev (s.dev.setTile f.val t.val { s.dev.tile f.val t.val with
          pc := 0, o0 := 0, o1 := 0, busy := true, faultCode := 0, faultOut := false, loopOn := false }))) ∧
      (s.dev.leased f.val t.val = false ∨ (s.dev.tile f.val t.val).busy = true → exec (.macTileRun who f t) s = .next s))

/-! ### Registers (chapters 0 and 1) -/

/-- A write of a register (R12, R37, R39, R41, R424, R472): an address that is not a multiple of 4 breaks a duty and stops the
model; the host's write to BAR0 goes there; else, in this order, a held B0 ends an access of the package's units beyond the package
blocks, a block that is not there gets a record, a world that may not reach the register gets a record, a held die ignores the
write, and the register takes it. -/
def Obligations.RegisterWriteCommand : Prop :=
  ∀ (s : State) (who : Who) (a : BitVec 33) (v : Word), s.live = true →
    let d := s.dev
    let n := a.toNat
    (n % 4 ≠ 0 → exec (.registerWrite who a v) s = .fault .unguaranteed) ∧
    (n % 4 = 0 → 2 ^ 32 ≤ n → who = .host →
      exec (.registerWrite who a v) s = .next (s.withDev (d.barWrite (n - 2 ^ 32) v))) ∧
    (n % 4 = 0 → 2 ^ 32 ≤ n → who ≠ .host → exec (.registerWrite who a v) s = .next s) ∧
    (n % 4 = 0 → n < 2 ^ 32 →
      exec (.registerWrite who a v) s = .next (s.withDev (
        if who.inPackage ∧ n / 0x1000000 ≠ 32 ∧ d.heldDie 16 then d
        else if ¬ blockPresent n then d.addrDecode who (0x6000000000 + n)
        else if ¬ d.regAllowed n (d.whoSecure who) then d.worldFault (0x6000000000 + n) (d.whoSecure who)
        else if d.heldDie (n / 0x1000000) then d
        else d.regWrite s.fuses who n v)))

/-- Access types (Table 0.4, R9): in every register of the register tables, after a plain write a RW field holds the bits written,
a W1C field has lost the bits written as 1, and every other field is as it was. -/
def Obligations.PlainWritesFollowTheAccessTypes : Prop :=
  ∀ (b : Nat) (r : RegSpec) (f : FieldSpec) (old v : Word), r ∈ blockRegs b → f ∈ r.fields →
    (f.acc = .rw → bits (r.write old v) f.lsb f.w = bits v f.lsb f.w) ∧
    (f.acc = .w1c → ∀ i, i < f.w → (r.write old v).getLsbD (f.lsb + i) = (old.getLsbD (f.lsb + i) && !v.getLsbD (f.lsb + i))) ∧
    (f.acc ≠ .rw → f.acc ≠ .w1c → bits (r.write old v) f.lsb f.w = bits old f.lsb f.w)

/-- Reserved offsets of a block that is present (R12): a read returns 0 and a write is ignored. -/
def Obligations.ReservedOffsetsReadZeroAndIgnoreWrites : Prop :=
  ∀ (d : Dev) (fz : Fuses) (who : Who) (a : Nat) (v : Word), a < 2 ^ 32 → a % 4 = 0 → blockPresent a = true → findReg a = none →
    d.regWrite fz who a v = d ∧ d.liveWord fz a = 0

/-- Register pairs (R514): a read of the _LO word latches the _HI word; the first read of the _HI word after that, whatever has
changed in between but the latch, returns the latched word and empties the latch; a read with the latch empty is live. -/
def Obligations.HighWordsAreLatched : Prop :=
  ∀ (d e : Dev) (fz : Fuses) (lo : Nat), isLo lo = true → isLo (lo + 4) = false →
    (d.regRead fz lo).1 = d.liveWord fz lo ∧
    (e.latch = (d.regRead fz lo).2.latch → (e.regRead fz (lo + 4)).1 = d.liveWord fz (lo + 4) ∧
      (e.regRead fz (lo + 4)).2.latch.get lo none = none) ∧
    (e.latch.get lo none = none → (e.regRead fz (lo + 4)).1 = e.liveWord fz (lo + 4))

/-- After reset (R442, R446): the device is out of reset with every register at the reset word of its table, the compute dies held
in per-die reset and the base dies not, the boot ROM running, nothing waiting, and memory in its canonical form. What the memories
hold then is the model's choice (log entry 2). -/
def Obligations.StateAfterReset : Prop :=
  State.reset.live = true ∧ State.reset.pending = [] ∧ (∀ a, State.reset.dev.rdWord a = resetWord a) ∧
  (∀ c : Fin 12, State.reset.dev.heldDie c.val = true) ∧ (∀ b : Fin 4, State.reset.dev.heldDie (baseSel b.val) = false) ∧
  State.reset.dev.running = false ∧ State.reset.dev.halted = false ∧ State.reset.dev.spState = 0 ∧
  State.reset.dev.parts = [] ∧ Memory.wf State.reset.dev.mem = true ∧ State.reset.fuses.lc = 0

/-! ### The network, lateral links and remote caches (chapter 6) -/

/-- What a router does with a packet (R183, R187, R189 to R192, R194, R197, R204). A header flit of bad parity is counted and asked for
again, and a second failure discards the packet with a record of class NOC_HDR_PARITY. A packet whose code leaves the mesh, names a port
that its router lacks, or is reserved, one of a reserved type and one that is delivered anywhere but at its destination are discarded
with a record of severity UNCORRECTED and class NOC_ROUTE. Any other packet, once it is first in its buffer, has a credit and its channel
has the turn, moves: by a mesh code to the neighbor on that side and to the next code; at EJECT, or past the last code, it is delivered;
at VERT it comes to the compute die whose port stands there; at LAT its flits enter the link toward the partner, or it is lost where the
link is down. Until then it stays where it is. Two mesh links between neighbors undo each other. -/
def Obligations.RoutersMovePackets : Prop :=
  (∀ r c q, r < 48 → c < 4 → meshStep r c = some q →
    q < 48 ∧ meshStep q ((c + 2) % 4) = some r ∧
      (c = 0 → q % 6 = r % 6 ∧ q / 6 + 1 = r / 6) ∧ (c = 1 → q % 6 = r % 6 + 1 ∧ q / 6 = r / 6)) ∧
  (∀ p : Packet, headerOk p.header = true) ∧
  ∀ (s : State) (i : Nat) (x : Flight) (again : List Nat), s.live = true → s.dev.noc.flights[i]? = some x → x.arrived = false →
    let moves (y : Flight) : Prop := ∃ t, exec (.packetHop i [] again) s = .next t ∧ t.dev.noc.flights = s.dev.noc.flights.set i
      { y with stalled := false, came := s.dev.noc.count } ∧ t.dev.mem = s.dev.mem
    let gone : Dev := { s.dev with noc := { s.dev.noc with flights := s.dev.noc.flights.eraseIdx i } }
    (x.hopExists = false → exec (.packetHop i [] again) s = .next (s.withDev (gone.err x.die x.router 3 0x0501))) ∧
    (x.pkt.reservedType = true ∨ x.pkt.hop = 7 ∨ (x.pkt.hop < 4 ∧ meshStep x.router x.pkt.hop = none) ∨
      (x.pkt.hop = 4 ∧ vertAt (x.die - 16) x.router = none) ∨ (x.pkt.hop = 5 ∧ lateralAt (x.die - 16) x.router = none) ∨
      (x.pkt.hop = 6 ∧ (nodeDie x.pkt.dst ≠ x.die ∨ nodePort x.pkt.dst ≠ x.router)) → x.hopExists = false) ∧
    (x.hopExists = true → x.pkt.hop ≠ 5 → s.dev.mayHop x = false → exec (.packetHop i [] again) s = .next s) ∧
    (x.hopExists = true → s.dev.mayHop x = true →
      (∀ q, x.pkt.hop < 4 → meshStep x.router x.pkt.hop = some q →
        moves { x with router := q, input := (x.pkt.hop + 2) % 4, pkt := { x.pkt with hopPtr := x.pkt.hopPtr + 1 } }) ∧
      (x.pkt.hop = 6 → moves { x with arrived := true }) ∧
      (∀ c p, x.pkt.hop = 4 → vertAt (x.die - 16) x.router = some (c, p) → moves { x with die := c, router := p, arrived := true })) ∧
    (∀ j, x.hopExists = true → x.pkt.hop = 5 → lateralAt (x.die - 16) x.router = some j →
      (s.dev.linkDown (latIndex (x.die - 16) j) = true → exec (.packetHop i [] again) s = .next (s.withDev gone)) ∧
      (s.dev.linkDown (latIndex (x.die - 16) j) = false → s.dev.mayHop x = true →
        ∃ t, exec (.packetHop i [] again) s = .next t ∧ t.dev.noc.flights = s.dev.noc.flights.eraseIdx i ∧
          let y := s.dev.latSide (latPartner (x.die - 16) j) j
          (t.dev.latSide (latPartner (x.die - 16) j) j).wire = y.wire ++ (List.range x.pkt.flits).map (fun k =>
            ({ seq := (y.next + k) % 256, flight := x, isData := k == 1,
               width := s.dev.get (Reg.D2D_LAT_STATUS_width_code
                 (baseSel (latPartner (latPartner (x.die - 16) j) j)) j) } : LinkFlit)))) ∧
    (∀ flips, headerOk (flipBits x.pkt.header flips) = false →
      (headerOk (flipBits x.pkt.header again) = false → exec (.packetHop i flips again) s = .next (s.withDev
        (((s.dev.bump (Reg.NOC_ERRCNT_hdr x.die)).setFlight i none).err x.die x.router 3 0x0503))) ∧
      exec (.packetHop i flips []) s = exec (.packetHop i [] again) (s.withDev (s.dev.bump (Reg.NOC_ERRCNT_hdr x.die))))

/-- Requests and responses at their initiators (R190, R192, R195, R196, R198, R199, R214). A request whose target is not held, on a route
entry that is valid and has at most 12 codes, leaves its NI with that entry's hop codes, its plane's channel and the NI's next tag, and
is outstanding; on an unusable entry it ends at once in a bus error with a record. A response to an outstanding request ends it and is
delivered, one with another status than OK and read data past correction as a bus error; one to no outstanding request is discarded. A
request past its time ends in a bus error. A packet held too long keeps its place and gets one record. -/
def Obligations.RequestsAndResponses : Prop :=
  ∀ s : State, s.live = true →
    (∀ p : Packet, p.isRequest = true →
      let sel := nodeDie p.src
      let ni := nodeNi p.src
      let taken := s.dev.routeUse sel ni p.route
      let q : Packet := { p with vc := p.planeVc, tag := s.dev.nextTag p.src }
      s.dev.heldAnswer q = none →
      (taken.2.getLsbD 52 = true → (taken.2 >>> 36).toNat % 16 ≤ 12 → ∃ t, exec (.packetInject p) s = .next t ∧
        t.dev.noc.flights = s.dev.noc.flights ++
          [{ pkt := { q with route := taken.1, hops := (List.range ((taken.2 >>> 36).toNat % 16)).map (fun i =>
                       (taken.2 >>> (3 * i)).toNat % 8), hopPtr := 0 },
             die := 16 + (entryPoint sel ni).1, router := (entryPoint sel ni).2, input := if sel ≤ 11 then 4 else 6,
             arrived := false, stalled := false, sent := s.dev.noc.count, came := s.dev.noc.count }] ∧
        t.dev.noc.outstanding = s.dev.noc.outstanding ++
          [{ src := p.src, tag := s.dev.nextTag p.src, pkt := q, time := s.dev.now, own := true, asks := [] }] ∧
        t.dev.nextTag p.src = (s.dev.nextTag p.src + 1) % 4096 ∧ t.dev.mem = s.dev.mem) ∧
      (taken.2.getLsbD 52 = false ∨ 12 < (taken.2 >>> 36).toNat % 16 → ∃ t, exec (.packetInject p) s = .next t ∧
        q.busError ∈ t.dev.noc.delivered ∧ t.dev.noc.flights = s.dev.noc.flights ∧
        t.dev.noc.outstanding = s.dev.noc.outstanding ∧ t.dev.mem = s.dev.mem)) ∧
    (∀ p : Packet, p.isRequest = false →
      let taken := s.dev.routeUse (nodeDie p.src) (nodeNi p.src) p.route
      taken.2.getLsbD 52 = true → (taken.2 >>> 36).toNat % 16 ≤ 12 → ∃ t, exec (.packetInject p) s = .next t ∧
        t.dev.noc.outstanding = s.dev.noc.outstanding ∧
        ∃ x ∈ t.dev.noc.flights, x.pkt.type = p.type ∧ x.pkt.src = p.src ∧ x.pkt.dst = p.dst ∧ x.pkt.data = p.data ∧ x.pkt.hopPtr = 0) ∧
    (∀ (i : Nat) (x : Flight) (flips : List Nat), s.dev.noc.flights[i]? = some x → x.arrived = true →
      (∀ y ∈ s.dev.inFlight, y.before x = false) →
      let p : Packet := if x.die ≤ 11 then { x.pkt with dst := nodeId x.die x.router (nodeEnd x.pkt.dst) } else x.pkt
      let rest : Dev := { s.dev with noc := { s.dev.noc with flights := s.dev.noc.flights.eraseIdx i } }
      (s.dev.reqOf p.dst p.tag = none →
        (p.type = 2 → exec (.readResp i flips) s = .next (s.withDev rest)) ∧
        (p.type = 3 → exec (.writeResp i) s = .next (s.withDev rest))) ∧
      (∀ o, s.dev.reqOf p.dst p.tag = some o → o.asks = [] →
        (p.type = 2 → p.status = 0 → (dataCheck flips).2 = false → ∃ t, exec (.readResp i flips) s = .next t ∧
          t.dev.noc.delivered = s.dev.noc.delivered ++ [p] ∧ t.dev.noc.outstanding = s.dev.noc.outstanding.erase o ∧
          t.dev.noc.flights = s.dev.noc.flights.eraseIdx i ∧ t.dev.mem = s.dev.mem) ∧
        (p.type = 2 → p.status ≠ 0 ∨ (dataCheck flips).2 = true → ∃ t, exec (.readResp i flips) s = .next t ∧
          t.dev.noc.delivered = s.dev.noc.delivered ++ [{ p with status := 1, data := [] }] ∧
          t.dev.noc.outstanding = s.dev.noc.outstanding.erase o) ∧
        (p.type = 3 → ∃ t, exec (.writeResp i) s = .next t ∧
          t.dev.noc.delivered = s.dev.noc.delivered ++ [if p.status = 0 then p else { p with status := 1, data := [] }] ∧
          t.dev.noc.outstanding = s.dev.noc.outstanding.erase o ∧ t.dev.noc.flights = s.dev.noc.flights.eraseIdx i ∧
          t.dev.mem = s.dev.mem))) ∧
    (∀ (src tag : Nat) (o : OutReq), s.dev.reqOf src tag = some o → o.own = true → o.pkt.type ≠ 8 → o.asks = [] →
      o.pkt.src = src → o.pkt.tag = tag → ∃ t, exec (.nocTimeout src tag) s = .next t ∧
        t.dev.noc.delivered = s.dev.noc.delivered ++ [o.pkt.busError] ∧
        t.dev.noc.outstanding = s.dev.noc.outstanding.erase o ∧ t.dev.mem = s.dev.mem) ∧
    (∀ (i : Nat) (x : Flight), s.dev.noc.flights[i]? = some x → x.arrived = false → x.stalled = false →
      ∃ t, exec (.nocStall i) s = .next t ∧ t.dev.noc.flights = s.dev.noc.flights.set i { x with stalled := true } ∧
        exec (.nocStall i) t = .next t)

/-- Requests at their targets (R188, R198, R210 to R212). Request `i` stands at its base die's endpoint, which serves its address; none
goes before it. `d` is the device with the request taken and its data checked. A READ answers with the bytes of the granary or of plain
HBM in their places of the block, and status OK; or with a bus error where the checks of the access say so; one that they keep back
waits. A WRITE or RC_WRITE stores its enabled bytes, changes no other and answers OK; with uncorrectable data it stores nothing and answers
data error. An RC_READ answers with the line, and its home's entry then holds the reader's bit. -/
def Obligations.TargetsServeRequests : Prop :=
  ∀ (s : State) (i : Nat) (x : Flight) (flips : List Nat), s.live = true → s.dev.noc.flights[i]? = some x → x.arrived = true →
    11 < x.die → (∀ y ∈ s.dev.inFlight, y.before x = false) →
    let p := x.pkt
    let n := p.lenM1 + 1
    let line := p.addr / 64 * 64
    let c := nodeDie p.src
    let d : Dev := s.dev.atTarget i p flips
    let order := d.hbmOrder
    let m := (hbmSplit order p.addr).1
    let o := (hbmSplit order p.addr).2
    let answers (t : State) (type status : Nat) (data : List Byte) : Prop :=
      ∃ y ∈ t.dev.noc.flights, y.pkt.type = type ∧ y.pkt.src = p.dst ∧ y.pkt.dst = p.src ∧ y.pkt.tag = p.tag ∧
        y.pkt.status = status ∧ y.pkt.data = data
    let stores (t : State) : Prop :=
      (∀ k, k < n → p.bmask.getLsbD (p.addr % 64 + k) = true → t.dev.mem.read (p.addr + k) = p.data.getD (p.addr % 64 + k) 0) ∧
      (∀ a, a < p.addr ∨ p.addr + n ≤ a ∨ p.bmask.getLsbD (p.addr % 64 + (a - p.addr)) = false →
        t.dev.mem.read a = s.dev.mem.read a)
    let granGood : Prop := ∀ w ∈ granWords p.addr n, (d.granMark w).bad = false ∧ (d.granMark w).single = false
    let hbmGood : Prop := d.hbmGate p.addr = none ∧ d.rgnAt m o = none ∧
      ∀ b ∈ hbmBursts p.addr n, d.burstBad b = false ∧ d.burstSingle b = false
    entryOk (d.routeUse (nodeDie p.dst) (nodeNi p.dst) p.respRoute).2 = true → d.servesAddr p.dst p.addr = true →
    d.worldBad p.secure p.addr = false →
    (p.type = 0 → d.lineHeld p.addr = false →
      (∀ b off, placeOf p.addr = some (.gran b off) → d.busGate p.who p.addr .first = (.serve (.gran b off), d) → granGood →
        ∃ t, exec (.read i {}) s = .next t ∧ answers t 2 0 (inBlock p.addr (s.dev.granBytesAt p.addr n)) ∧ t.dev.mem = s.dev.mem) ∧
      (placeOf p.addr = some .hbm → d.busGate p.who p.addr .first = (.serve .hbm, d) → hbmGood →
        ∃ t, exec (.read i {}) s = .next t ∧
          answers t 2 0 (inBlock p.addr ((List.range n).map (fun k => s.dev.storedByte order m (o + k)))) ∧ t.dev.mem = s.dev.mem) ∧
      (placeOf p.addr = some .hbm → d.busGate p.who p.addr .first = (.serve .hbm, d) →
        d.stackState m = 0 ∨ d.stackState m = 1 ∨ d.stackState m = 5 →
        ∃ t, exec (.read i {}) s = .next t ∧ answers t 2 1 [] ∧ t.dev.mem = s.dev.mem) ∧
      (∀ b off, placeOf p.addr = some (.gran b off) → d.busGate p.who p.addr .first = (.answer .wait, d) →
        ∃ t, exec (.read i {}) s = .next t ∧ t.dev.noc.waiting = s.dev.noc.waiting ++ [p] ∧ t.dev.mem = s.dev.mem)) ∧
    (p.type = 1 ∨ p.type = 9 → (dataCheck flips).2 = false → d.lineHeld p.addr = false → d.dirAt line = none →
      (∀ b off, placeOf p.addr = some (.gran b off) → d.busGate p.who p.addr .first = (.serve (.gran b off), d) → granGood →
        d.on (Reg.GRAN_TEST_STATUS_active (baseSel ((p.addr - granBase 0) / granBytes))) = false →
        p.addr % 64 + n ≤ 64 →
        (p.type = 1 → ∃ t, exec (.write i flips {}) s = .next t ∧ answers t 3 0 [] ∧ stores t) ∧
        (p.type = 9 → ∃ t, exec (.rcWrite i flips {}) s = .next t ∧ answers t 3 0 [] ∧ stores t)) ∧
      (placeOf p.addr = some .hbm → d.busGate p.who p.addr .first = (.serve .hbm, d) → hbmGood → d.areaAt m o = none →
        (p.type = 1 → ∃ t, exec (.write i flips {}) s = .next t ∧ answers t 3 0 [] ∧ stores t) ∧
        (p.type = 9 → ∃ t, exec (.rcWrite i flips {}) s = .next t ∧ answers t 3 0 [] ∧ stores t))) ∧
    ((dataCheck flips).2 = true →
      (p.type = 1 → ∃ t, exec (.write i flips {}) s = .next t ∧ answers t 3 2 [] ∧ t.dev.mem = s.dev.mem) ∧
      (p.type = 9 → ∃ t, exec (.rcWrite i flips {}) s = .next t ∧ answers t 3 2 [] ∧ t.dev.mem = s.dev.mem)) ∧
    (p.type = 8 → d.lineHeld p.addr = false → (d.homeOf p.addr, c) ∉ d.rc.gone →
      ((d.dirAt line).isSome = true ∨ d.dirRoom line = (true, d)) →
      ∀ b off, placeOf line = some (.gran b off) → d.busGate p.who line .first = (.serve (.gran b off), d) →
        (∀ w ∈ granWords line 64, (d.granMark w).bad = false ∧ (d.granMark w).single = false) →
        ∃ t, exec (.rcRead i {}) s = .next t ∧ answers t 10 0 (s.dev.granBytesAt line 64) ∧ t.dev.mem = s.dev.mem ∧
          (c < 12 → ((t.dev.dirAt line).map (fun e => e.sharers.getLsbD c)) = some true))

/-- The remote caches (Tables 6.6 and 6.7, R206, R209, R211 to R215, R222). A read of a line in V returns its data and counts a hit; one of
a line in P waits for its FILL; one of a line in I, with a way free, sends RC_READ to the home and puts the line in P; one that meets a
flush waits. A write updates a line in V, leaves one in P, and sends RC_WRITE in every case. A FILL with good data puts a line in P in V;
one that ends in a bus error takes it to I. An INVAL drops a line in V, leaves one in P, and is acknowledged. An INV_ACK takes its die from
those that the line's entry waits for, and the last one frees an entry that is to be freed. DIE_GONE and HOME_RESET take effect once each.
A flush, once nothing that it waits for is outstanding, empties the caches. -/
def Obligations.RemoteCaches : Prop :=
  ∀ s : State, s.live = true →
    (∀ p : Packet, nodeDie p.src ≤ 11 → s.dev.heldDie (nodeDie p.src) = false → s.dev.cacheable (nodeDie p.src) p = true →
      let c := nodeDie p.src
      let line := p.addr / 64 * 64
      let q := s.dev.withTag p
      let d : Dev := (s.dev.useTag p.src).begin q false
      let asked (t : State) (type : Nat) : Prop :=
        ∃ y ∈ t.dev.noc.flights, y.pkt.type = type ∧ y.pkt.src = cacheNode c line ∧ y.pkt.vc = 3
      (p.type = 0 → s.dev.rc.flushAll = true ∨ c ∈ s.dev.rc.flushing →
        ∃ t, exec (.cacheableRead p) s = .next t ∧ t.dev.rc.waiting = s.dev.rc.waiting ++ [q]) ∧
      (p.type = 1 → s.dev.rc.flushAll = true ∨ c ∈ s.dev.rc.flushing →
        ∃ t, exec (.cacheableWrite p) s = .next t ∧ t.dev.rc.waiting = s.dev.rc.waiting ++ [q]) ∧
      (s.dev.rc.flushAll = false → c ∉ s.dev.rc.flushing →
        (∀ x : RcLine, s.dev.rcLine c line = some x →
          (p.type = 0 → x.valid = true → ∃ t, exec (.cacheableRead p) s = .next t ∧ q.answer 0 x.data ∈ t.dev.noc.delivered ∧
            t.dev.get (Reg.RCACHE_HITS_count c) = (s.dev.get (Reg.RCACHE_HITS_count c) + 1) % 2 ^ 32 ∧
            t.dev.rc.lines = s.dev.rc.lines) ∧
          (p.type = 0 → x.valid = false → ∃ t, exec (.cacheableRead p) s = .next t ∧
            t.dev.rcLine c line = some { x with waiters := x.waiters ++ [q] } ∧ t.dev.noc.flights = s.dev.noc.flights) ∧
          (p.type = 1 → x.valid = true → d.cacheSends c line 9 (d.rcRequest c q 9 line) = true → ∃ t, exec (.cacheableWrite p) s = .next t ∧
            t.dev.rcLine c line = some { x with data := p.over x.data } ∧ asked t 9)) ∧
        (s.dev.rcLine c line = none →
          (p.type = 0 → s.dev.on (Reg.RCACHE_CTL_prefetch c) = false →
            d.cacheSends c line 8 (d.lineAsk c q line) = true →
            ∀ w, (List.range 16).find? (fun w => (s.dev.rcSet c line).all (fun e => e.2.way != w)) = some w →
            ∃ t, exec (.cacheableRead p) s = .next t ∧ asked t 8 ∧
              t.dev.rcLine c line = some { valid := false, data := [], waiters := [q], way := w } ∧
              t.dev.get (Reg.RCACHE_MISSES_count c) = (s.dev.get (Reg.RCACHE_MISSES_count c) + 1) % 2 ^ 32) ∧
          (p.type = 1 → d.cacheSends c line 9 (d.rcRequest c q 9 line) = true → ∃ t, exec (.cacheableWrite p) s = .next t ∧
            t.dev.rcLine c line = none ∧ asked t 9)))) ∧
    (∀ (i : Nat) (x : Flight) (flips : List Nat), s.dev.noc.flights[i]? = some x → x.arrived = true → x.die ≤ 11 →
      (∀ y ∈ s.dev.inFlight, y.before x = false) →
      let dst := nodeId x.die x.router (nodeEnd x.pkt.dst)
      let line := x.pkt.addr / 64 * 64
      (x.pkt.type = 10 → s.dev.rc.waiting = [] → ∀ (o : OutReq) (y : RcLine), s.dev.reqOf dst x.pkt.tag = some o →
        s.dev.rcLine (nodeDie dst) o.pkt.addr = some y → y.valid = false → y.waiters = [] →
        (x.pkt.status = 0 → (dataCheck flips).2 = false → ∃ t, exec (.fill i flips) s = .next t ∧
          t.dev.rcLine (nodeDie dst) o.pkt.addr = some { y with valid := true, data := x.pkt.data } ∧
          t.dev.noc.outstanding = s.dev.noc.outstanding.erase o) ∧
        (x.pkt.status ≠ 0 ∨ (dataCheck flips).2 = true → nodeDie o.src = nodeDie dst → ∃ t, exec (.fill i flips) s = .next t ∧
          t.dev.rcLine (nodeDie dst) o.pkt.addr = none ∧ t.dev.noc.outstanding = s.dev.noc.outstanding.erase o)) ∧
      (x.pkt.type = 11 → s.dev.heldDie (nodeDie dst) = false → ∃ t, exec (.inval i) s = .next t ∧
        (∀ y, s.dev.rcLine (nodeDie dst) line = some y →
          t.dev.rcLine (nodeDie dst) line = if y.valid then none else some y) ∧
        t.dev.noc.flights = s.dev.noc.flights.eraseIdx i ++
          [{ pkt := { vc := 3, type := 12, addr := line, src := dst, dst := x.pkt.src },
             die := nodeDie x.pkt.src, router := 0, arrived := true, sent := s.dev.noc.count, came := s.dev.noc.count }])) ∧
    (∀ (i : Nat) (x : Flight) (e : DirEntry), s.dev.noc.flights[i]? = some x → x.arrived = true → 11 < x.die → x.pkt.type = 12 →
      (∀ y ∈ s.dev.inFlight, y.before x = false) → s.dev.noc.waiting = [] → s.dev.host.waits = [] →
      s.dev.dirAt (x.pkt.addr / 64 * 64) = some e →
      let left := e.pend &&& ~~~(1#12 <<< nodeDie x.pkt.src)
      ∃ t, exec (.invAck i) s = .next t ∧ t.dev.dirAt (x.pkt.addr / 64 * 64) =
        (if left = 0 ∧ e.pend ≠ 0 ∧ e.frees = true then none
         else some { e with pend := left, frees := e.frees && left != 0 })) ∧
    (∀ (b : Fin 4) (c : Fin 12),
      (((b.val, c.val) ∈ s.dev.rc.gone) → s.dev.noc.waiting = [] → s.dev.host.waits = [] → ∃ t, exec (.dieGone b c) s = .next t ∧
        (∀ e ∈ t.dev.rc.dir, s.dev.homeOf e.1 = b.val → e.2.sharers.getLsbD c.val = false) ∧ t.dev.rc.lines = s.dev.rc.lines) ∧
      (((b.val, c.val) ∉ s.dev.rc.gone) → exec (.dieGone b c) s = .next s) ∧
      (((c.val, b.val) ∈ s.dev.rc.homes) → s.dev.rc.waiting = [] → ∃ t, exec (.homeReset c b) s = .next t ∧
        (∀ e ∈ t.dev.rc.lines, e.1 / 2 ^ 48 = c.val → s.dev.homeOf (e.1 % 2 ^ 48) ≠ b.val) ∧
        t.dev.rc.dir = s.dev.rc.dir) ∧
      (((c.val, b.val) ∉ s.dev.rc.homes) → exec (.homeReset c b) s = .next s)) ∧
    (s.dev.flushWaits = true → exec .flushComplete s = .next s) ∧
    (s.dev.flushWaits = false → s.dev.rc.flushAll = true ∨ s.dev.rc.flushing ≠ [] → s.dev.noc.waiting = [] → s.dev.host.waits = [] →
      s.dev.rc.waiting = [] → s.dev.rc.afterFlush = [] → ∃ t, exec .flushComplete s = .next t ∧
        t.dev.rc.flushAll = false ∧ t.dev.rc.flushing = [] ∧
        (s.dev.rc.flushAll = true → t.dev.rc.lines = [] ∧ t.dev.rc.dir = []) ∧
        (∀ c : Fin 12, c.val ∈ s.dev.rc.flushing → t.dev.on (Reg.RCACHE_CTL_flush c.val) = false ∧
          (∀ e ∈ t.dev.rc.lines, e.1 / 2 ^ 48 ≠ c.val) ∧
          (c.val ∈ s.dev.rc.disabling → t.dev.on (Reg.RCACHE_CTL_enable c.val) = false)))

/-- Lateral links (R201 to R204) and the registers of the network (R193, R200, R206, R220 to R222). A flit with a good CRC, the width of
the link and the number expected advances the receiver; a failed CRC asks for a replay from there; a sound flit of another width, and a
fourth failure in a row, make both sides hold. An attempt in which both sides make a proposal brings the link up at the lower width; the
third in a row that fails brings it down. A write of retrain trains it. The vertical ports of a compute die that has left reset, over a
base die that is not held, report ready. -/
def Obligations.LateralLinksAndNetworkRegisters : Prop :=
  ∀ (s : State) (who : Who) (i : Fin 16) (b : Fin 4) (j : Fin 2) (c : Fin 12),
    (s.live = true → s.dev.latState b j = 2 → ∀ (flips : List Nat) (z : LinkFlit) (rest : List LinkFlit),
      (s.dev.latSide b j).wire = z :: rest →
      let x := s.dev.latSide b j
      let w := flipBits z.word flips
      let width := s.dev.get (Reg.D2D_LAT_STATUS_width_code (baseSel b) j)
      (flitCrc w = w / 65536 % 65536 → w % 16 = width → w / 256 % 256 = x.expect → ∃ t, exec (.linkFlitReceive b j flips) s = .next t ∧
        (t.dev.latSide b j).expect = (x.expect + 1) % 256 ∧ (t.dev.latSide b j).crcFails = 0 ∧
        (t.dev.latSide b j).replayFrom = none ∧ (t.dev.latSide b j).wire = rest ∧ (t.dev.latSide b j).replay = x.replay.drop 1) ∧
      (flitCrc w = w / 65536 % 65536 → w % 16 = width → w / 256 % 256 ≠ x.expect → exec (.linkFlitReceive b j flips) s =
        .next (s.withDev (s.dev.setLatSide b j { x with wire := rest, crcFails := 0 }))) ∧
      (flitCrc w ≠ w / 65536 % 65536 → x.crcFails < 3 → ∃ t, exec (.linkFlitReceive b j flips) s = .next t ∧
        t.dev.latSide b j = { x with wire := rest ++ x.replay, crcFails := x.crcFails + 1, replayFrom := some x.expect } ∧
        t.dev.latState b j = 2) ∧
      (flitCrc w = w / 65536 % 65536 → w % 16 ≠ width →
        ∃ t, exec (.linkFlitReceive b j flips) s = .next t ∧
          ∀ e ∈ latEnds (latIndex b j), t.dev.latState e.1 e.2 = 3) ∧
      (flitCrc w ≠ w / 65536 % 65536 → 3 ≤ x.crcFails → ∃ t, exec (.linkFlitReceive b j flips) s = .next t ∧
          ∀ e ∈ latEnds (latIndex b j), t.dev.latState e.1 e.2 = 3)) ∧
    (s.live = true → ∀ (l : Fin 4) (g0 g1 : BitVec 16),
      (∀ e ∈ latEnds l, (s.dev.latState e.1 e.2 = 1 ∨ s.dev.latState e.1 e.2 = 3) ∧ s.dev.heldDie (baseSel e.1) = false) →
      let prop (e : Nat × Nat) (g : BitVec 16) : Nat := latProposal (s.dev.get (Reg.D2D_LAT_CTL_max_code (baseSel e.1) e.2)) g
      let p0 := prop ((latEnds l).headD (0, 0)) g0
      let p1 := prop ((latEnds l).getLastD (0, 0)) g1
      (p0 ≠ 15 → p1 ≠ 15 → ∃ t, exec (.trainingAttemptEnd l g0 g1) s = .next t ∧
        ∀ e ∈ latEnds l, t.dev.latState e.1 e.2 = 2 ∧
          t.dev.get (Reg.D2D_LAT_STATUS_width_code (baseSel e.1) e.2) = min p0 p1 ∧
          t.dev.get (Reg.D2D_LAT_STATUS_attempts (baseSel e.1) e.2) = 0) ∧
      (p0 = 15 ∨ p1 = 15 → 2 ≤ s.dev.get (Reg.D2D_LAT_STATUS_attempts (baseSel ((latEnds l).headD (0, 0)).1) ((latEnds l).headD (0, 0)).2) →
        ∃ t, exec (.trainingAttemptEnd l g0 g1) s = .next t ∧ t.dev.rc.flushAll = true ∧ t.dev.linkDown l = true ∧
          ∀ e ∈ latEnds l, t.dev.latState e.1 e.2 = 0)) ∧
    (∀ n, latProposal n 0x0007#16 = 15 ∧ latProposal n 0xFFFF#16 = min 12 n) ∧
    (s.reaches who (Reg.D2D_LAT_CTL (baseSel b) j) → ∃ t, exec (.d2dRetrain who b j) s = .next t ∧
      t.dev.on (Reg.D2D_LAT_CTL_retrain (baseSel b) j) = true ∧
      (s.dev.heldDie (baseSel (latPartner b j)) = false → ∀ e ∈ latEnds (latIndex b j), t.dev.latState e.1 e.2 = 1)) ∧
    (s.reaches who (Reg.D2D_LAT_ERRCLR (baseSel b) j) → exec (.d2dLatErrclr who b j) s = .next (s.withDev
      (s.dev.wrWord (Reg.D2D_LAT_ERRCNT (baseSel b) j) 0))) ∧
    (s.reaches who (Reg.NOC_RT_DATA_HI (dieSel i)) → ∀ v : Word, ∃ t, exec (.nocRtDataHiWrite who i v) s = .next t ∧
      t.dev.route (dieSel i) (s.dev.get (Reg.NOC_RT_SEL_table (dieSel i))) (s.dev.get (Reg.NOC_RT_SEL_entry (dieSel i))) =
        s.dev.altActive ((v ++ s.dev.rdWord (Reg.NOC_RT_DATA_LO (dieSel i))) &&& 0x001FFFFFFFFFFFFF#64) ∧
      (∀ table entry, table < 64 → entry < 256 → (table, entry) ≠
          (s.dev.get (Reg.NOC_RT_SEL_table (dieSel i)), s.dev.get (Reg.NOC_RT_SEL_entry (dieSel i))) →
        t.dev.route (dieSel i) table entry = s.dev.route (dieSel i) table entry)) ∧
    (s.reaches who (Reg.NOC_ERRCNT_CLR (dieSel i)) → exec (.nocErrcntClr who i) s = .next (s.withDev
      (s.dev.wrWord (Reg.NOC_ERRCNT (dieSel i)) 0))) ∧
    (∀ n : Fin 67, i.val ≤ 11 ∨ n.val ≤ 20 → s.reaches who (Reg.NOC_STAT_CTL (dieSel i) n) → ∃ t, exec (.nocStatClear who i n) s = .next t ∧
      t.dev.pair (Reg.NOC_STAT_BYTES_LO (dieSel i) n) (Reg.NOC_STAT_BYTES_HI (dieSel i) n) = 0 ∧
      t.dev.pair (Reg.NOC_STAT_TXN_LO (dieSel i) n) (Reg.NOC_STAT_TXN_HI (dieSel i) n) = 0 ∧
      t.dev.get (Reg.NOC_STAT_OUT_peak (dieSel i) n) = s.dev.get (Reg.NOC_STAT_OUT_now (dieSel i) n) ∧
      (∀ k : Fin 16, t.dev.rdWord (Reg.NOC_STAT_BUCKET (dieSel i) n k) = 0)) ∧
    (s.live = true → s.dev.heldDie c.val = false → s.dev.heldDie (baseSel (baseOf c)) = false → ∃ t, exec (.vertPortReady c) s = .next t ∧
      (∀ q : Fin 8, t.dev.bit (Reg.D2D_VERT_STATUS_ready (baseSel (baseOf c))) (8 * (c.val % 3) + q.val) = true)) ∧
    (s.live = true → s.dev.heldDie c.val = true ∨ s.dev.heldDie (baseSel (baseOf c)) = true → exec (.vertPortReady c) s = .next s) ∧
    (s.reaches who (Reg.RCACHE_CTL c) → s.dev.on (Reg.RCACHE_CTL_enable c) = true →
      (∃ t, exec (.rcacheFlush who c) s = .next t ∧ t.dev.on (Reg.RCACHE_CTL_flush c) = true ∧ c.val ∈ t.dev.rc.flushing ∧
        t.dev.on (Reg.RCACHE_CTL_enable c) = true) ∧
      (∀ v : Word, ∃ t, exec (.rcacheDisable who c v) s = .next t ∧ t.dev.on (Reg.RCACHE_CTL_enable c) = true ∧
        c.val ∈ t.dev.rc.flushing ∧ c.val ∈ t.dev.rc.disabling))

/-! ### HBM stacks and protected regions (chapter 7) -/

/-- The address mapping (R223, R226 to R229): under each of the three orders a physical address of the HBM range names one byte of one
stack, each byte of each stack has one address, the decoded channel, pseudo-channel, SID, bank group, bank, row, burst and byte lie in
the ranges of a stack, no two bytes of a stack have the same place, a 64-byte block lies in one page of one pseudo-channel, and the
block's controller is one of 32 behind the four NIs of its base die. -/
def Obligations.HbmAddressMapping : Prop :=
  ∀ order, order ≤ 2 →
    (∀ a, a < 0x3000000000 → (hbmSplit order a).1 < 8 ∧ (hbmSplit order a).2 < 0x600000000 ∧
      hbmJoin order (hbmSplit order a).1 (hbmSplit order a).2 = a ∧ hbmPc order a < 32 ∧
      hbmController order a < 32 ∧ controllerNi (hbmController order a) < 4) ∧
    (∀ m o, m < 8 → o < 0x600000000 → hbmSplit order (hbmJoin order m o) = (m, o) ∧ hbmJoin order m o < 0x3000000000) ∧
    (∀ a b, a / 64 = b / 64 → (hbmSplit order a).1 = (hbmSplit order b).1 ∧ hbmPc order a = hbmPc order b ∧
      (hbmPlace order a).sid = (hbmPlace order b).sid ∧ (hbmPlace order a).group = (hbmPlace order b).group ∧
      (hbmPlace order a).bank = (hbmPlace order b).bank ∧ (hbmPlace order a).row = (hbmPlace order b).row) ∧
    (∀ a, a < 0x3000000000 →
      let p := hbmPlace order a
      p.channel < 16 ∧ p.pc < 2 ∧ p.sid < 3 ∧ p.group < 4 ∧ p.bank < 4 ∧ p.row < 16384 ∧ p.burst < 32 ∧ p.byte < 32 ∧
      ∀ b, b < 0x3000000000 → hbmPlace order b = p → (hbmSplit order b).1 = (hbmSplit order a).1 → b = a)

/-- The stacks' initialization, retraining, frequency change and temperature (R225, R230 to R236, R249). A start with a set whose rl is 0
is refused; one on base dies whose orders differ ends on all four; one while another stack is being initialized waits; else the west stack
goes to INIT and the order is locked. A stack without an identity fails; one that is initialized is READY, or FAILED where every
pseudo-channel has failed, runs set A and holds zeros; the east stack follows the west one, and done the east one. A retrain takes one
pseudo-channel after another, and a byte lane without a window fails its pseudo-channel. A frequency change makes the other set active. At
105 °C a stack goes to OVERHEAT, below 100 °C it leaves it. A request held for 1 ms ends in a bus error. An access to a stack that is OFF,
in INIT or FAILED ends in a bus error at once. -/
def Obligations.HbmStacks : Prop :=
  ∀ (s : State) (who : Who) (m : Fin 8),
    let d := s.dev
    let sel := stackSel m
    let k := m.val % 2
    let quiet : Prop := s.live = true ∧ d.noc.waiting = [] ∧ d.host.waits = []
    (∀ b : Fin 4, s.reaches who (Reg.HBM_INIT (baseSel b)) → d.on (Reg.HBM_INIT_start (baseSel b)) = false →
      let shown (c : Nat) : Nat := if d.get (Reg.HBM_MAP_CTL_order (baseSel c)) = 3 then 1 else d.get (Reg.HBM_MAP_CTL_order (baseSel c))
      (∀ i : Fin 2, d.get (Reg.HBM_TSET_LAT_rl (baseSel b) i 0) = 0 → ∃ t, exec (.hbmInitStart who b) s = .next t ∧
        t.dev.on (Reg.HBM_STK_CMD_cmd_refused (baseSel b) i) = true ∧ (∀ n : Fin 8, t.dev.stackState n = d.stackState n)) ∧
      ((∀ i : Fin 2, d.get (Reg.HBM_TSET_LAT_rl (baseSel b) i 0) ≠ 0) →
        (∀ n : Fin 8, (d.stack n).starting = true → ∃ t, exec (.hbmInitStart who b) s = .next t ∧
          t.dev.on (Reg.HBM_INIT_start (baseSel b)) = true ∧ (∀ n : Fin 8, t.dev.stackState n = d.stackState n)) ∧
        ((∀ n : Fin 8, (d.stack n).starting = false) → (∀ c : Fin 4, d.on (Reg.HBM_INIT_start (baseSel c)) = false) →
          ((∃ c : Fin 4, shown c ≠ shown 0) → ∃ t, exec (.hbmInitStart who b) s = .next t ∧
            (∀ c : Fin 4, t.dev.on (Reg.HBM_INIT_order_mismatch (baseSel c)) = true ∧ t.dev.on (Reg.HBM_INIT_start (baseSel c)) = false) ∧
            (∀ n : Fin 8, t.dev.stackState n = d.stackState n)) ∧
          ((∀ c : Fin 4, shown c = shown 0) → ∃ t, exec (.hbmInitStart who b) s = .next t ∧
            t.dev.stackState (2 * b.val) = 1 ∧ t.dev.on (Reg.HBM_MAP_CTL_lock (baseSel b)) = true ∧
            t.dev.on (Reg.HBM_INIT_start (baseSel b)) = true ∧ t.dev.on (Reg.HBM_INIT_done (baseSel b)) = false ∧
            (∀ n : Fin 8, n.val ≠ 2 * b.val → t.dev.stackState n = d.stackState n))))) ∧
    (quiet → ∀ (identity : Bool) (temp : Int) (sweeps : List (List Sweep)),
      (d.stackState m ≠ 1 → exec (.hbmStackInitDone m identity temp sweeps) s = .next s) ∧
      (d.stackState m = 1 → ∃ t, exec (.hbmStackInitDone m identity temp sweeps) s = .next t ∧
        (identity = false → (d.stack m).idRead = false → t.dev.stackState m = 5) ∧
        (identity = true ∨ (d.stack m).idRead = true →
          t.dev.stackState m = (if t.dev.get (Reg.HBM_STK_PC_FAILED_failed sel k) = 0xFFFFFFFF then 5 else 2) ∧
          (sweeps = [] → t.dev.get (Reg.HBM_STK_PC_FAILED_failed sel k) = d.get (Reg.HBM_STK_PC_FAILED_failed sel k)) ∧
          t.dev.get (Reg.HBM_STK_STATUS_active_set sel k) = 0 ∧ t.dev.get (Reg.HBM_STK_RATES_valid sel k) = 7 ∧
          (-128 ≤ temp → temp ≤ 127 → t.dev.get (Reg.HBM_STK_STATUS_temp sel k) = (BitVec.ofInt 8 temp).toNat) ∧
          (∀ o, o < 0x600000000 → t.dev.mem.read (hbmJoin d.hbmOrder m o) = 0)) ∧
        (k = 0 → t.dev.stackState (m.val + 1) = 1) ∧
        (k = 1 → t.dev.on (Reg.HBM_INIT_done sel) = true ∧ t.dev.on (Reg.HBM_INIT_start sel) = false))) ∧
    (∀ pause : Bool, s.reaches who (Reg.HBM_STK_CMD sel k) →
      (∀ q, d.stackState m = 2 → (d.stack m).retrain = none → (d.stack m).unlocked = false → d.nextPc m 0 = some q →
        ∃ t, exec (.hbmRetrain who m pause) s = .next t ∧ (t.dev.stack m).retrain = some q ∧
          t.dev.get (Reg.HBM_STK_PC_BUSY_busy sel k) = 2 ^ q ∧ t.dev.on (Reg.HBM_STK_CMD_retrain_pause sel k) = pause) ∧
      (d.stackState m = 0 ∨ d.stackState m = 1 ∨ d.stackState m = 5 → exec (.hbmRetrain who m pause) s =
        .next (s.withDev (d.set (Reg.HBM_STK_CMD_retrain_pause sel k) (if pause then 1 else 0)))) ∧
      (d.stackState m = 2 → d.on (Reg.HBM_STK_CMD_freq_change sel k) = false → (d.stack m).retrain = none →
        ∃ t, exec (.freqChange who m pause) s = .next t ∧ t.dev.stackState m = 3 ∧
          t.dev.on (Reg.HBM_STK_CMD_freq_change sel k) = true) ∧
      (∀ p, d.stackState m = 2 → d.on (Reg.HBM_STK_CMD_freq_change sel k) = false → (d.stack m).retrain = some p →
        ∃ t, exec (.freqChange who m pause) s = .next t ∧ t.dev.stackState m = 2 ∧ (t.dev.stack m).freqDue = true) ∧
      (d.stackState m ≠ 2 ∨ d.on (Reg.HBM_STK_CMD_freq_change sel k) = true →
        ∃ t, exec (.freqChange who m pause) s = .next t ∧ t.dev.on (Reg.HBM_STK_CMD_cmd_refused sel k) = true ∧
          t.dev.stackState m = d.stackState m)) ∧
    (quiet → ∀ (sweeps : List Sweep),
      ((d.stack m).retrain = none ∨ d.stackState m ≠ 2 → exec (.pseudoChannelRetrainDone m sweeps) s = .next s) ∧
      (∀ p : Fin 32, (d.stack m).retrain = some p.val → d.stackState m = 2 →
        ∃ t, exec (.pseudoChannelRetrainDone m sweeps) s = .next t ∧
          ((∃ i : Fin 8, (sweeps.getD i {}).pass = 0 ∧ (sweeps.getD i {}).repaired = 0) →
            t.dev.bit (Reg.HBM_STK_PC_FAILED_failed sel k) p = true) ∧
          (sweeps = [] → t.dev.get (Reg.HBM_STK_PC_FAILED_failed sel k) = d.get (Reg.HBM_STK_PC_FAILED_failed sel k)) ∧
          ((d.stack m).freqDue = true → t.dev.stackState m = 3 ∧ (t.dev.stack m).retrain = some (p.val + 1)) ∧
          ((d.stack m).freqDue = false →
            (∀ q, d.nextPc m (p.val + 1) = some q → (t.dev.stack m).retrain = some q ∧
              t.dev.get (Reg.HBM_STK_PC_BUSY_busy sel k) = 2 ^ q) ∧
            (d.nextPc m (p.val + 1) = none → d.get (Reg.HBM_STK_STATUS_rate sel k) ≤ 2 →
              (t.dev.stack m).retrain = none ∧ t.dev.on (Reg.HBM_STK_CMD_retrain sel k) = false ∧
              t.dev.get (Reg.HBM_STK_RATES_valid sel k) = 2 ^ d.get (Reg.HBM_STK_STATUS_rate sel k) ∧
              t.dev.get (Reg.HBM_STK_PC_BUSY_busy sel k) = 0)))) ∧
    (quiet →
      (d.stackState m ≠ 3 → exec (.freqChangeDone m) s = .next s) ∧
      (d.stackState m = 3 → ∃ t, exec (.freqChangeDone m) s = .next t ∧
        t.dev.get (Reg.HBM_STK_STATUS_active_set sel k) = 1 - d.get (Reg.HBM_STK_STATUS_active_set sel k) ∧
        t.dev.get (Reg.HBM_STK_STATUS_rate sel k) =
          min (d.get (Reg.HBM_TSET_RATE_rate sel k (1 - d.get (Reg.HBM_STK_STATUS_active_set sel k)))) 2 ∧
        ((d.stack m).overDue = true → t.dev.stackState m = 4) ∧
        ((d.stack m).overDue = false → t.dev.stackState m = 2 ∧ t.dev.on (Reg.HBM_STK_CMD_freq_change sel k) = false))) ∧
    (quiet → ∀ temp : Int, -128 ≤ temp → temp ≤ 127 → ∃ t, exec (.hbmTempRead m temp) s = .next t ∧
      ((d.stack m).idRead = false → d.stackState m ≠ 1 → t.dev.stackState m = d.stackState m ∧
        t.dev.get (Reg.HBM_STK_STATUS_temp sel k) = d.get (Reg.HBM_STK_STATUS_temp sel k)) ∧
      ((d.stack m).idRead = true ∨ d.stackState m = 1 →
        t.dev.get (Reg.HBM_STK_STATUS_temp sel k) = (BitVec.ofInt 8 temp).toNat ∧
        (d.stackState m = 0 ∨ d.stackState m = 5 → t.dev.stackState m = d.stackState m ∧
          t.dev.on (Reg.HBM_STK_STATUS_hot sel k) = d.on (Reg.HBM_STK_STATUS_hot sel k)) ∧
        (d.stackState m = 1 ∨ d.stackState m = 2 → 105 ≤ temp → t.dev.stackState m = 4 ∧
          t.dev.get (Reg.HBM_STK_PC_BUSY_busy sel k) = 0) ∧
        (d.stackState m = 3 → 105 ≤ temp → t.dev.stackState m = 3 ∧ (t.dev.stack m).overDue = true) ∧
        (d.stackState m = 4 → temp < 100 → t.dev.stackState m =
          if (d.stack m).starting then 1 else if (d.stack m).freqDue then 3 else 2) ∧
        (d.stackState m = 4 → 100 ≤ temp → t.dev.stackState m = 4) ∧
        (d.stackState m ∈ [1, 2, 3, 4] → 95 < temp → t.dev.on (Reg.HBM_STK_STATUS_hot sel k) = true) ∧
        (d.stackState m ∈ [1, 2, 3, 4] → temp ≤ 90 → t.dev.on (Reg.HBM_STK_STATUS_hot sel k) = false))) ∧
    (∀ (i : Nat) (p : Packet), s.live = true → d.noc.waiting[i]? = some p →
      (d.stackState m ≠ 3 → d.stackState m ≠ 4 → (d.stack m).unlocked = false → exec (.hbmHoldExpiry m i) s = .next s) ∧
      (d.stackState m = 3 ∨ d.stackState m = 4 ∨ (d.stack m).unlocked = true → (hbmSplit d.hbmOrder p.addr).1 = m.val → p.type ≤ 1 →
        entryOk (d.routeUse (nodeDie p.dst) (nodeNi p.dst) p.respRoute).2 = true → ∃ t, exec (.hbmHoldExpiry m i) s = .next t ∧
          t.dev.noc.waiting = d.noc.waiting.eraseIdx i ∧
          t.dev.get (Reg.HBM_STK_HOLD_expired sel k) = min (d.get (Reg.HBM_STK_HOLD_expired sel k) + 1) 0xFFFF ∧
          ∃ y ∈ t.dev.noc.flights, y.pkt.type = p.type + 2 ∧ y.pkt.status = 1 ∧ y.pkt.dst = p.src ∧ y.pkt.tag = p.tag)) ∧
    (s.reaches who (Reg.HBM_STK_ERRCLR sel k) → exec (.hbmStkErrclr who m) s =
      .next (s.withDev (d.wrWord (Reg.HBM_STK_ERRCNT sel k) 0))) ∧
    (∀ (a n : Nat) (u : Upset), (hbmSplit d.hbmOrder a).1 = m.val → d.stackState m = 0 ∨ d.stackState m = 1 ∨ d.stackState m = 5 →
      d.hbmRead a n u = (.err, d.errAt sel k 3 0x0801 a))

/-- Protected regions (R240 to R242, Table 7.8). The enable is taken while every region is INACTIVE, refused else. An init of an INACTIVE
region takes its key slot; with the enable at 0, a size of 0, an end past 16 GiB or an overlap it is refused with bad_range, else the region
goes to INIT, and once no cache holds a line of it, to ACTIVE with zero data; no other byte of data changes. A close takes an ACTIVE region
to CLOSING; then it goes to INACTIVE, and no block of its metadata is cached. What was stored stays, so it reads as ciphertext. -/
def Obligations.ProtectedRegions : Prop :=
  ∀ (s : State) (who : Who) (m : Fin 8) (r : Fin 4) (v : Word),
    let d := s.dev
    let sel := stackSel m
    let k := m.val % 2
    let lo := d.get (Reg.MEMSEC_RGN_RANGE_base sel k r) * 0x10000000
    let hi := lo + d.get (Reg.MEMSEC_RGN_RANGE_size sel k r) * 0x10000000
    let quiet : Prop := s.live = true ∧ d.noc.waiting = [] ∧ d.host.waits = []
    (s.reaches who (Reg.MEMSEC_STK_CTL sel k) →
      ((∀ q : Fin 4, d.rgnState m q = 0) → exec (.memsecEnableWrite who m v) s =
        .next (s.withDev (d.set (Reg.MEMSEC_STK_CTL_enable sel k) (bits v 0 1)))) ∧
      (∀ q : Fin 4, d.rgnState m q ≠ 0 → exec (.memsecEnableWrite who m v) s =
        .next (s.withDev (d.set (Reg.MEMSEC_STK_STATUS_cmd_refused sel k) 1)))) ∧
    (s.reaches who (Reg.MEMSEC_RGN_CTL sel k r) →
      (d.rgnState m r = 0 →
        (d.on (Reg.MEMSEC_STK_CTL_enable sel k) = false ∨ lo = hi ∨ 0x400000000 < hi ∨
            (∃ q : Fin 4, q ≠ r ∧ d.rgnState m q ≠ 0 ∧ lo < (d.rgnRange m q).2 ∧ (d.rgnRange m q).1 < hi) →
          ∃ t, exec (.memsecRegionInit who m r v) s = .next t ∧ t.dev.rgnState m r = 0 ∧
            t.dev.on (Reg.MEMSEC_RGN_STATUS_bad_range sel k r) = true) ∧
        (d.on (Reg.MEMSEC_STK_CTL_enable sel k) = true → lo ≠ hi → hi ≤ 0x400000000 →
            (∀ q : Fin 4, q ≠ r → d.rgnState m q ≠ 0 → (d.rgnRange m q).2 ≤ lo ∨ hi ≤ (d.rgnRange m q).1) →
          ∃ t, exec (.memsecRegionInit who m r v) s = .next t ∧ t.dev.rgnState m r = 1 ∧
            t.dev.get (Reg.MEMSEC_RGN_CTL_key_slot sel k r) = bits v 0 4)) ∧
      (d.rgnState m r ≠ 0 → v.getLsbD 5 = false → exec (.memsecRegionInit who m r v) s = .next s) ∧
      (d.rgnState m r = 2 → exec (.memsecRegionClose who m r v) s =
        .next (s.withDev (d.set (Reg.MEMSEC_RGN_STATUS_state sel k r) 3))) ∧
      (d.rgnState m r = 1 ∨ d.rgnState m r = 3 → exec (.memsecRegionClose who m r v) s = .next s)) ∧
    (quiet →
      (d.rgnState m r ≠ 1 → exec (.memsecRegionActive m r) s = .next s) ∧
      (d.rgnState m r = 1 → (∀ e ∈ d.rc.dir, inStackRange d.hbmOrder m lo hi e.1 = false) →
        ∃ t, exec (.memsecRegionActive m r) s = .next t ∧ t.dev.rgnState m r = 2 ∧
          (∀ o, lo ≤ o → o < hi → o < 0x600000000 → t.dev.mem.read (hbmJoin d.hbmOrder m o) = 0) ∧
          (∀ o, (o < lo ∨ hi ≤ o) → o < metaStart →
            t.dev.mem.read (hbmJoin d.hbmOrder m o) = d.mem.read (hbmJoin d.hbmOrder m o)) ∧
          (∀ n o, n < 8 → n ≠ m.val → o < 0x600000000 →
            t.dev.mem.read (hbmJoin d.hbmOrder n o) = d.mem.read (hbmJoin d.hbmOrder n o))) ∧
      (d.rgnState m r ≠ 3 → exec (.memsecRegionInactive m r) s = .next s) ∧
      (d.rgnState m r = 3 → ∃ t, exec (.memsecRegionInactive m r) s = .next t ∧ t.dev.rgnState m r = 0 ∧
        t.dev.mem = d.mem ∧ t.dev.msec.areas = d.msec.areas ∧
        (∀ e ∈ t.dev.msec.cache, keyStack e = m.val → keyOff e < lo ∨ hi ≤ keyOff e)))

/-! ### Serial lanes (chapter 8) -/

/-- Writes that command a lane or a bank (R252, R253, R269, R273 to R275). A bank enable is pending until it takes effect; a lane takes its
settings while it is disabled, goes to PLL when it is enabled, and to OFF when it is disabled, without a record; settings written while it
is enabled, and an enable with a reserved rate or loop code, are refused. The taps of a lane that sends no frames apply at once, with the
main cursor reduced where they sum above 63. An injection flips one bit more; an eye scan begins unless one runs; a counter clear clears
the lane's counters. -/
def Obligations.LaneWrites : Prop :=
  ∀ (s : State) (who : Who) (n : Fin 192) (v : Word),
    let d := s.dev
    let sel := laneSel n
    let j := laneJ n
    (∀ b : Fin 12, s.reaches who (Reg.LANE_BANK_CTL (bankSel b) (b.val % 3)) →
      (v.getLsbD 0 = true → d.on (Reg.LANE_BANK_CTL_enable (bankSel b) (b.val % 3)) = false →
        ∃ t, exec (.laneBankEnable who b v) s = .next t ∧ t.dev.on (Reg.LANE_BANK_CTL_enable (bankSel b) (b.val % 3)) = true ∧
          t.dev.on (Reg.LANE_BANK_CTL_pending (bankSel b) (b.val % 3)) = true) ∧
      (v.getLsbD 0 = true → d.on (Reg.LANE_BANK_CTL_enable (bankSel b) (b.val % 3)) = true →
        exec (.laneBankEnable who b v) s = .next s) ∧
      (v.getLsbD 0 = false → ∃ t, exec (.laneBankEnable who b v) s = .next t ∧
        t.dev.on (Reg.LANE_BANK_CTL_enable (bankSel b) (b.val % 3)) = false ∧
        t.dev.on (Reg.LANE_BANK_STATUS_ref_ok (bankSel b) (b.val % 3)) = false)) ∧
    (s.reaches who (Reg.LANE_CTL sel j) →
      (d.on (Reg.LANE_CTL_enable sel j) = false →
        (bits v 1 4 < 8 → bits v 14 3 < 4 → ∃ t, exec (.laneEnable who n v) s = .next t ∧
          t.dev.on (Reg.LANE_CTL_enable sel j) = true ∧ bits (t.dev.rdWord (Reg.LANE_CTL sel j)) 1 16 = bits v 1 16 ∧
          (d.laneState n ≠ 6 → t.dev.laneState n = 1)) ∧
        (8 ≤ bits v 1 4 ∨ 4 ≤ bits v 14 3 → ∃ t, exec (.laneEnable who n v) s = .next t ∧
          t.dev.on (Reg.LANE_CTL_enable sel j) = false ∧ t.dev.on (Reg.LANE_STATUS_cmd_refused sel j) = true ∧
          t.dev.laneState n = d.laneState n) ∧
        (v.getLsbD 0 = false → ∃ t, exec (.laneSettingWrite who n false v) s = .next t ∧
          bits (t.dev.rdWord (Reg.LANE_CTL sel j)) 1 16 = bits v 1 16 ∧ t.dev.on (Reg.LANE_CTL_enable sel j) = false ∧
          t.dev.laneState n = d.laneState n)) ∧
      (d.on (Reg.LANE_CTL_enable sel j) = true →
        (v.getLsbD 0 = true → bits v 1 16 ≠ bits (d.rdWord (Reg.LANE_CTL sel j)) 1 16 →
          ∃ t, exec (.laneSettingWrite who n false v) s = .next t ∧ t.dev.on (Reg.LANE_STATUS_cmd_refused sel j) = true ∧
            bits (t.dev.rdWord (Reg.LANE_CTL sel j)) 0 17 = bits (d.rdWord (Reg.LANE_CTL sel j)) 0 17) ∧
        (d.laneState n ≠ 6 → ∃ t, exec (.laneDisable who n v) s = .next t ∧ t.dev.on (Reg.LANE_CTL_enable sel j) = false ∧
          t.dev.laneState n = 0 ∧ t.dev.errs = d.errs ∧ (d.linkState n ≠ 5 → t.dev.linkState n = 0 ∧ (t.dev.link n).buf = []) ∧
          (d.laneState n = 4 → t.dev.get (Reg.LANE_STATUS_down_cause sel j) = 6)) ∧
        (d.laneState n = 6 → ∃ t, exec (.laneDisable who n v) s = .next t ∧ t.dev.on (Reg.LANE_CTL_enable sel j) = false ∧
          t.dev.laneState n = 6))) ∧
    (s.reaches who (Reg.LANE_PRBS_CTL sel j) →
      (d.on (Reg.LANE_CTL_enable sel j) = false → ∃ t, exec (.laneSettingWrite who n true v) s = .next t ∧
        t.dev.get (Reg.LANE_PRBS_CTL_gen_pat sel j) = bits v 0 2 ∧ t.dev.get (Reg.LANE_PRBS_CTL_gen_en sel j) = bits v 2 1) ∧
      (d.on (Reg.LANE_CTL_enable sel j) = true → bits v 0 3 ≠ bits (d.rdWord (Reg.LANE_PRBS_CTL sel j)) 0 3 →
        ∃ t, exec (.laneSettingWrite who n true v) s = .next t ∧ t.dev.on (Reg.LANE_STATUS_cmd_refused sel j) = true ∧
          bits (t.dev.rdWord (Reg.LANE_PRBS_CTL sel j)) 0 3 = bits (d.rdWord (Reg.LANE_PRBS_CTL sel j)) 0 3) ∧
      (∃ t, exec (.prbsInject who n) s = .next t ∧ (t.dev.lane n).inject = (d.lane n).inject + 1 ∧
        bits (t.dev.rdWord (Reg.LANE_PRBS_CTL sel j)) 0 7 = bits (d.rdWord (Reg.LANE_PRBS_CTL sel j)) 0 7)) ∧
    (s.reaches who (Reg.LANE_TX_FIR sel j) → ∃ t, exec (.laneTxFirWrite who n v) s = .next t ∧
      bits (t.dev.rdWord (Reg.LANE_TX_FIR sel j)) 0 22 = bits v 0 22 ∧
      (d.laneState n < 2 ∨ 5 < d.laneState n →
        bits (t.dev.lane n).fir 0 16 = bits v 0 16 ∧
        bits (t.dev.lane n).fir 16 6 = min (bits v 16 6) (63 - (bits v 0 4 + bits v 4 6 + bits v 10 6))) ∧
      (∀ a, a ≠ Reg.LANE_TX_FIR sel j → t.dev.rdWord a = d.rdWord a)) ∧
    (s.reaches who (Reg.LANE_EYE_CTL sel j) → ∃ t, exec (.eyeScanStart who n v) s = .next t ∧
      bits (t.dev.rdWord (Reg.LANE_EYE_CTL sel j)) 0 19 = bits v 0 19 ∧ (t.dev.lane n).eye = true ∧
      ((d.lane n).eye = false → t.dev.on (Reg.LANE_EYE_CTL_done sel j) = false ∧
        t.dev.on (Reg.LANE_EYE_CTL_invalid sel j) = false)) ∧
    (s.reaches who (Reg.LANE_CNT_CLR sel j) → ∃ t, exec (.laneCntClr who n) s = .next t ∧
      (∀ a ∈ [Reg.LANE_ERRCNT sel j, Reg.LANE_EB_DEL sel j, Reg.LANE_EB_REP sel j, Reg.LANE_FEC_SYM sel j, Reg.LANE_FEC_UNCORR sel j,
          Reg.LANE_BAD_FRAMES sel j, Reg.LANE_PRBS_ERR sel j, Reg.LANE_PRBS_BITS_LO sel j, Reg.LANE_PRBS_BITS_HI sel j],
        t.dev.rdWord a = 0) ∧
      t.dev.rdWord (Reg.LANE_CTL sel j) = d.rdWord (Reg.LANE_CTL sel j) ∧
      t.dev.rdWord (Reg.LANE_STATUS sel j) = d.rdWord (Reg.LANE_STATUS sel j))

/-- The line coding and the receiver of a lane (R252, R253, R257, R258, R260, R261, R264 to R267, R271, R273). What the coding does to a
frame its reverse undoes, without a violation, and a checker that has seen 31 bits of its pattern finds no error in those that follow. A
lane leaves PLL on a lock with its reference in order, ACQUIRE on the adaptation, ALIGN on the fourth marker or block word in its place; it
returns to PLL on an unlock, to ACQUIRE on a loss of signal and to ALIGN on the fourth missed, with its cause; the halted frame ends in
IDLE_FORCED. A frame of a lane in UP comes descrambled to the link layer, flagged where its marker was displaced. A codeword's corrected
symbols are counted, and one beyond correction as such. Chaff is deleted from a full elastic buffer and repeated in an empty one. -/
def Obligations.LaneReceiver : Prop :=
  ((∀ (pam : Bool) (r : Run) (l : List Nat), r.count < runLimit pam →
      unstuff pam r (stuff pam r l).1 = (l, 0, (stuff pam r l).2)) ∧
    (∀ l : List Bool, scrambled (scrambled l) = l ∧ ofSyms false (toSyms false l) = l ∧
      (l.length % 2 = 0 → ofSyms true (toSyms true l) = l)) ∧
    (∀ (pat n : Nat) (g c : BitVec 31), (checkBits pat (prbsBits pat n g).1 c 0).2.2 = (n - 31, 0))) ∧
  ∀ (s : State) (n : Fin 192), s.live = true →
    let d := s.dev
    let sel := laneSel n
    let j := laneJ n
    let x := d.lane n
    let up (a k : Nat) : Nat := min (a + k) 0xFFFFFFFF
    let pair (l : List Nat) : List Nat := onPair (d.pamOn n) (d.on (Reg.LANE_CTL_rx_pol sel j)) l
    let input (line : List Nat) : List Nat := if d.loopOf n = 1 then pair x.loopQ else if d.loopOf n = 2 then x.loopQ else pair line
    let rx (line : List Nat) : List Nat × Nat × Run := unstuff (d.pamOn n) x.rxRun (input line)
    let bits (line : List Nat) : List Bool := x.rxBits.map (fun b => b.1) ++ ofSyms (d.pamOn n) (rx line).1
    let raw (line : List Nat) : List Bool := x.rxRaw ++ ofSyms (d.pamOn n) (rx line).1
    (∀ b : Fin 12, d.boot.mode ≠ 2 ∨ d.boot.started = true → exec (.bankEnableEffect b) s =
      .next (s.withDev (d.set (Reg.LANE_BANK_CTL_pending (bankSel b) (b.val % 3)) 0))) ∧
    (∀ (b : Fin 12) (khz : Nat), d.on (Reg.LANE_BANK_CTL_enable (bankSel b) (b.val % 3)) = true →
      d.on (Reg.LANE_BANK_CTL_pending (bankSel b) (b.val % 3)) = false →
      (156094 ≤ khz → khz ≤ 156406 → ∃ t, exec (.lrefMonitorWindow b khz) s = .next t ∧
        t.dev.on (Reg.LANE_BANK_STATUS_ref_ok (bankSel b) (b.val % 3)) = true ∧
        t.dev.get (Reg.LANE_BANK_STATUS_ref_khz (bankSel b) (b.val % 3)) = khz) ∧
      (khz < 156094 ∨ 156406 < khz → d.on (Reg.LANE_BANK_STATUS_ref_ok (bankSel b) (b.val % 3)) = true →
        ∃ t, exec (.lrefMonitorWindow b khz) s = .next t ∧
          t.dev.on (Reg.LANE_BANK_STATUS_ref_ok (bankSel b) (b.val % 3)) = false ∧
          t.dev.on (Reg.LANE_BANK_STATUS_ref_lost (bankSel b) (b.val % 3)) = true ∧
          (∀ l ∈ bankLanes b, d.laneState l ≠ 0 → d.laneState l ≠ 6 → t.dev.laneState l = 1))) ∧
    (d.laneState n = 1 → d.on (Reg.LANE_BANK_STATUS_ref_ok (bankSel (n.val / 16)) (n.val / 16 % 3)) = true →
      exec (.lanePllLock n) s = .next (s.withDev
        ((d.set (Reg.LANE_STATUS_pll_lock sel j) 1).set (Reg.LANE_STATUS_state sel j) (if d.laneTest n then 5 else 2)))) ∧
    (d.laneState n ≠ 0 → d.laneState n ≠ 6 → ∃ t, exec (.pllUnlock n) s = .next t ∧ t.dev.laneState n = 1 ∧
      t.dev.on (Reg.LANE_STATUS_pll_lock sel j) = false ∧ t.dev.on (Reg.LANE_STATUS_cdr_lock sel j) = false ∧
      (d.laneState n = 4 → t.dev.get (Reg.LANE_STATUS_down_cause sel j) = 2)) ∧
    (2 ≤ d.laneState n → ∃ t, exec (.cdrLock n) s = .next t ∧ t.dev.on (Reg.LANE_STATUS_los sel j) = false ∧
      t.dev.on (Reg.LANE_STATUS_cdr_lock sel j) = true ∧
      t.dev.laneState n = if d.laneState n = 2 ∧ d.on (Reg.LANE_CTL_adapt_pause sel j) = true ∧
        d.on (Reg.LANE_STATUS_adapt_done sel j) = true then 3 else d.laneState n) ∧
    (∀ ctle dfe1 : Nat, 2 ≤ d.laneState n → d.on (Reg.LANE_STATUS_cdr_lock sel j) = true → d.on (Reg.LANE_CTL_adapt_pause sel j) = false →
      ctle < 32 → dfe1 < 256 → ∃ t, exec (.adaptationDone n ctle dfe1) s = .next t ∧
        t.dev.laneState n = (if d.laneState n = 2 then 3 else d.laneState n) ∧ t.dev.on (Reg.LANE_STATUS_adapt_done sel j) = true ∧
        t.dev.get (Reg.LANE_RX_EQ_ctle sel j) = ctle ∧ t.dev.get (Reg.LANE_RX_EQ_dfe1 sel j) = dfe1) ∧
    (∀ line drains : List Nat, d.on (Reg.LANE_STATUS_cdr_lock sel j) = true → d.fecOn n = false →
      (d.laneState n = 3 → d.on (Reg.LANE_STATUS_marker_lock sel j) = false →
        (∀ k, x.good = 0 → findWord markerBits (bits line) = some k → ∃ t, exec (.laneFrameReceive n line drains) s = .next t ∧
          t.dev.laneState n = 3 ∧ (t.dev.lane n).good = 1 ∧ (t.dev.lane n).rxBits.map (fun b => b.1) = (bits line).drop k) ∧
        (1 ≤ x.good → x.good < 3 → wordAt markerBits (bits line) 4096 = true →
          ∃ t, exec (.laneFrameReceive n line drains) s = .next t ∧ t.dev.laneState n = 3 ∧ (t.dev.lane n).good = x.good + 1 ∧
            t.dev.get (Reg.LANE_ERRCNT_stuff_viol sel j) = min (d.get (Reg.LANE_ERRCNT_stuff_viol sel j) + (rx line).2.1) 0xFFFF) ∧
        (3 ≤ x.good → wordAt markerBits (bits line) 4096 = true →
          ∃ t, exec (.laneFrameReceive n line drains) s = .next t ∧ t.dev.laneState n = 4 ∧
            t.dev.on (Reg.LANE_STATUS_marker_lock sel j) = true ∧
            (d.linkState n = 0 → t.dev.linkState n = 1) ∧ (d.linkState n = 3 → t.dev.linkState n = 3)) ∧
        (1 ≤ x.good → nextMarker (d.pamOn n) false (bits line) = none → 4194 ≤ (bits line).length →
          ∃ t, exec (.laneFrameReceive n line drains) s = .next t ∧ t.dev.laneState n = 3 ∧ (t.dev.lane n).good = 0)) ∧
      (d.laneState n = 4 → d.on (Reg.LANE_STATUS_marker_lock sel j) = true →
        (∀ k chaff, nextMarker (d.pamOn n) true (bits line) = some (k, chaff) →
          ∃ t, exec (.laneFrameReceive n line drains) s = .next t ∧ t.dev.laneState n = 4 ∧ (t.dev.lane n).missed = 0 ∧
            t.dev.get (Reg.LANE_ERRCNT_slips sel j) =
              min (d.get (Reg.LANE_ERRCNT_slips sel j) + if k = 4096 then 0 else 1) 0xFFFF) ∧
        (nextMarker (d.pamOn n) true (bits line) = none → 4194 ≤ (bits line).length →
          (x.missed < 3 → ∃ t, exec (.laneFrameReceive n line drains) s = .next t ∧ t.dev.laneState n = 4 ∧
            (t.dev.lane n).missed = x.missed + 1) ∧
          (3 ≤ x.missed → ∃ t, exec (.laneFrameReceive n line drains) s = .next t ∧ t.dev.laneState n = 3 ∧
            t.dev.get (Reg.LANE_STATUS_down_cause sel j) = 4)) ∧
        (∀ k, nextMarker (d.pamOn n) true (bits line) = some (k, false) → (∀ e ∈ x.rxBits, e.2 = false) → x.pipe = [] → x.eb = [] →
          x.asm = [] → x.asmBad = false → x.lost = false → drains = List.replicate 65 1 →
          ∃ t, exec (.laneFrameReceive n line drains) s = .next t ∧ (t.dev.lane n).eb = [] ∧
            (t.dev.lane n).frames = x.frames ++ [{ bytes := bitsBytes (frameLine ((bits line).take 4096)), flagged := k != 4096 }] ∧
            t.dev.get (Reg.LANE_BAD_FRAMES_flagged sel j) =
              min (d.get (Reg.LANE_BAD_FRAMES_flagged sel j) + if k = 4096 then 0 else 1) 0xFFFF))) ∧
    (∀ line : List Nat, 3 ≤ d.laneState n → d.on (Reg.LANE_STATUS_cdr_lock sel j) = true → d.fecOn n = true →
      (∀ k, d.on (Reg.LANE_STATUS_fec_lock sel j) = false → x.goodFec = 0 → findWord blockWord (raw line) = some k →
        ∃ t, exec (.fecCodewordReceive n line) s = .next t ∧ (t.dev.lane n).goodFec = 1 ∧ (t.dev.lane n).cw = 0 ∧
          (t.dev.lane n).rxRaw = (raw line).drop k ∧ t.dev.laneState n = d.laneState n) ∧
      (d.on (Reg.LANE_STATUS_fec_lock sel j) = true ∨ x.goodFec ≠ 0 → x.cw < 3 →
        ((raw line).length < 5440 → ∃ t, exec (.fecCodewordReceive n line) s = .next t ∧ (t.dev.lane n).rxRaw = raw line ∧
          t.dev.laneState n = d.laneState n) ∧
        (5440 ≤ (raw line).length → ∃ t, exec (.fecCodewordReceive n line) s = .next t ∧
          (t.dev.lane n).rxRaw = (raw line).drop 5440 ∧ (t.dev.lane n).cw = x.cw + 1 ∧ t.dev.laneState n = d.laneState n ∧
          (∀ m k, fecDecode ((raw line).take 5440) = (m, some k) →
            t.dev.get (Reg.LANE_FEC_SYM_count sel j) = up (d.get (Reg.LANE_FEC_SYM_count sel j)) k ∧
            (t.dev.lane n).rxBits = x.rxBits ++ (if x.cw = 0 then chaffBits ++ m.drop 80 else m).map (fun b => (b, false))) ∧
          (∀ m, fecDecode ((raw line).take 5440) = (m, none) →
            t.dev.get (Reg.LANE_FEC_UNCORR_count sel j) = up (d.get (Reg.LANE_FEC_UNCORR_count sel j)) 1 ∧
            (t.dev.lane n).rxBits = x.rxBits ++ (if x.cw = 0 then chaffBits ++ m.drop 80 else m).map (fun b => (b, true))))) ∧
      (x.cw = 3 → d.laneState n = 3 → d.on (Reg.LANE_STATUS_marker_lock sel j) = true → d.on (Reg.LANE_STATUS_fec_lock sel j) = false →
        3 ≤ x.goodFec → wordAt blockWord (raw line) 5440 = true → ∃ t, exec (.fecCodewordReceive n line) s = .next t ∧
          t.dev.laneState n = 4 ∧ t.dev.on (Reg.LANE_STATUS_fec_lock sel j) = true ∧ (t.dev.lane n).cw = 0) ∧
      (x.cw = 3 → d.laneState n = 4 → d.on (Reg.LANE_STATUS_fec_lock sel j) = true →
        (places (d.pamOn n) true 5440).find? (wordAt blockWord (raw line)) = none → 5458 ≤ (raw line).length →
        (x.missedFec < 3 → ∃ t, exec (.fecCodewordReceive n line) s = .next t ∧ t.dev.laneState n = 4 ∧
          (t.dev.lane n).missedFec = x.missedFec + 1) ∧
        (3 ≤ x.missedFec → ∃ t, exec (.fecCodewordReceive n line) s = .next t ∧ t.dev.laneState n = 3 ∧
          t.dev.get (Reg.LANE_STATUS_down_cause sel j) = 5))) ∧
    (∀ (line : List Nat) (w : EbWord) (rest : List EbWord), 3 ≤ d.laneState n → d.on (Reg.LANE_STATUS_cdr_lock sel j) = true →
      x.pipe = w :: rest → w.chaff = true →
      ∃ t, exec (.chaffReceive n line [0, 0]) s = .next t ∧ (t.dev.lane n).pipe = rest ∧
        (t.dev.lane n).eb = x.eb ++ List.replicate (if 6 ≤ x.eb.length then 0 else if x.eb.length ≤ 2 then 2 else 1) w ∧
        t.dev.get (Reg.LANE_STATUS_eb_fill sel j) = min (t.dev.lane n).eb.length 7 ∧
        t.dev.get (Reg.LANE_EB_DEL_count sel j) = (d.get (Reg.LANE_EB_DEL_count sel j) + if 6 ≤ x.eb.length then 1 else 0) % 2 ^ 32 ∧
        t.dev.get (Reg.LANE_EB_REP_count sel j) = (d.get (Reg.LANE_EB_REP_count sel j) + if x.eb.length ≤ 2 then 1 else 0) % 2 ^ 32) ∧
    (d.laneState n = 3 ∨ d.laneState n = 4 → d.loopOf n ≠ 1 → d.loopOf n ≠ 2 → ∃ t, exec (.lossOfSignal n) s = .next t ∧ t.dev.laneState n = 2 ∧
      t.dev.on (Reg.LANE_STATUS_los sel j) = true ∧ t.dev.on (Reg.LANE_STATUS_cdr_lock sel j) = false ∧
      (d.laneState n = 4 → t.dev.get (Reg.LANE_STATUS_down_cause sel j) = 1)) ∧
    (d.loopOf n = 1 ∨ d.loopOf n = 2 → exec (.lossOfSignal n) s = .next s) ∧
    (∀ (line : List Nat) (c : BitVec 31) (k compared errs : Nat), d.on (Reg.LANE_PRBS_CTL_chk_en sel j) = true →
      d.on (Reg.LANE_STATUS_cdr_lock sel j) = true →
      checkBits (d.get (Reg.LANE_PRBS_CTL_chk_pat sel j))
        ((ofSyms (d.pamOn n) (input line)).map (fun b => b ^^ d.on (Reg.LANE_PRBS_CTL_invert sel j))) x.chk x.chkCnt = (c, k, compared, errs) →
      ∃ t, exec (.prbsCheckerLock n line) s = .next t ∧ (31 ≤ k → t.dev.on (Reg.LANE_PRBS_CTL_chk_lock sel j) = true) ∧
        t.dev.get (Reg.LANE_PRBS_ERR_errors sel j) = up (d.get (Reg.LANE_PRBS_ERR_errors sel j)) errs ∧
        t.dev.pair (Reg.LANE_PRBS_BITS_LO sel j) (Reg.LANE_PRBS_BITS_HI sel j) =
          (d.pair (Reg.LANE_PRBS_BITS_LO sel j) (Reg.LANE_PRBS_BITS_HI sel j) + compared) % 2 ^ 48) ∧
    (∀ (errs : Nat) (lost : Bool), x.eye = true → ∃ t, exec (.eyePointDone n errs lost) s = .next t ∧
      (t.dev.lane n).eye = false ∧ t.dev.on (Reg.LANE_EYE_CTL_done sel j) = true ∧
      t.dev.get (Reg.LANE_EYE_ERR_errors sel j) = min errs 0xFFFFFFFF ∧
      (lost = true → t.dev.on (Reg.LANE_EYE_CTL_invalid sel j) = true)) ∧
    (x.haltDue = true → ∃ t, exec (.haltedFrameSend n) s = .next t ∧ t.dev.laneState n = 6 ∧ (t.dev.lane n).haltDue = false ∧
      (x.block = [] → d.fecOn n = false → (t.dev.link n).out = some { type := 4 })) ∧
    (x.haltDue = false → exec (.haltedFrameSend n) s = .next s)

/-! ### Link channels and the cluster (chapter 9) -/

/-- The link layer (R278, R279, R281 to R285, R287, R288, R290, R307, R309, R310, R312). A frame's bytes give its fields back, with a good
crc unless it is stomped. Which frame a link sends. What it does with the oldest frame that its lane delivered, of each type: one that is
not good, not expected, accepted, of a tag that fails. Where an accepted frame goes. When a replay starts, and when the link fails. A frame
that a lane not in UP, or another type, offers is not taken. -/
def Obligations.LinkLayer : Prop :=
  (∀ (f : Frame) (flagged : Bool), f.type < 256 → f.seq < 2 ^ 24 → f.body.length = 488 → f.tag.length = 8 →
    f.bytes.length = 512 ∧
    ({ bytes := f.bytes, flagged := flagged } : RxFrame).frame = { f with flagged := flagged, crcOk := !f.stomped }) ∧
  ∀ (s : State) (n : Fin 192) (hello : Bool), s.live = true →
    let d := s.dev
    let sel := laneSel n
    let j := laneJ n
    let l := d.link n
    let sends (type : Nat) : Prop := ∃ t, exec (.frameSend n hello) s = .next t ∧ (t.dev.link n).out.map (·.type) = some type ∧
      (t.dev.link n).buf = l.buf ∧ (t.dev.link n).seq = l.seq ∧ t.dev.linkState n = d.linkState n
    (d.laneState n = 2 ∨ d.laneState n = 3 ∨ d.laneState n = 5 → ∃ t, exec (.frameSend n hello) s = .next t ∧ t.dev.link n = l ∧
      t.dev.laneState n = d.laneState n ∧ t.dev.linkState n = d.linkState n) ∧
    (d.laneState n < 2 ∨ 5 < d.laneState n → exec (.frameSend n hello) s = .next s) ∧
    (d.laneState n = 4 →
      (d.linkState n = 1 → sends (if hello then 3 else 2)) ∧
      (d.linkState n = 3 ∨ d.linkState n = 4 → sends 2) ∧
      (d.linkState n = 2 → l.replay = none → l.partnerUp = false ∨ 64 ≤ l.buf.length → sends 2) ∧
      (∀ (i : Nat) (x : Sent), d.linkState n = 2 → l.replay = some i → l.buf[i]? = some x → ∃ t, exec (.frameSend n hello) s = .next t ∧
        (t.dev.link n).out.map (fun o => (o.type, o.seq, o.body, o.tag)) = some (1, x.seq, x.body, x.tag) ∧
        (t.dev.link n).seq = l.seq ∧ (t.dev.link n).buf.map (·.seq) = l.buf.map (·.seq) ∧
        (t.dev.link n).replay = if i + 1 < l.buf.length then some (i + 1) else none) ∧
      (∀ m : Msg, d.linkState n = 2 → l.replay = none → l.partnerUp = true → l.buf.length < 64 → l.fwd = [] →
        d.chan.formed.get n [] = [] → l.ctlQ = [m] → l.mgmtQ = [] → l.creditQ = [] → l.tmarkDue = false → d.linkEnc n = false →
        (∀ e ∈ d.ctxs, e.2.laneNo ≠ n.val) → (l.ctlSent + 256 - l.pCtl) % 256 < 32 → 1 ≤ d.get (Reg.LCH_LINK_CFG_ctl_max sel j) →
        m.toLocal = true ∨ d.on (Reg.LCH_LINK_STATUS_hold_in sel j) = false → m.dst < 128 →
        ∃ t, exec (.frameSend n hello) s = .next t ∧
          (t.dev.link n).out.map (fun o => (o.type, o.seq, slice o.body 8 32, fieldOf (leAt o.body 0 8) 0 45, fieldOf (leAt o.body 0 8) 45 7,
            bitOf (leAt o.body 0 8) 60)) = some (1, l.seq, toBytes m.data.toNat 32, 4, m.dst, m.toLocal) ∧
          (t.dev.link n).seq = (l.seq + 1) % 2 ^ 24 ∧ (t.dev.link n).ctlQ = [] ∧
          (t.dev.link n).ctlSent = (l.ctlSent + 1) % 256 ∧ (t.dev.link n).buf.map (·.seq) = l.buf.map (·.seq) ++ [l.seq])) ∧
    (d.laneState n ≠ 4 ∨ (d.lane n).frames = [] → exec (.dataFrame n) s = .next s ∧ exec (.idleFrame n) s = .next s ∧
      exec (.helloFrame n) s = .next s ∧ exec (.haltedFrame n) s = .next s ∧ exec (.reservedFrameType n) s = .next s) ∧
    (∀ (r : RxFrame) (rest : List RxFrame), d.laneState n = 4 → (d.lane n).frames = r :: rest →
      let f := r.frame
      let took (t : State) : Prop := (t.dev.lane n).frames = rest
      let calm : Prop := d.spState ≠ 3 ∨ d.role = 0
      (f.type ≠ 1 → exec (.dataFrame n) s = .next s) ∧
      (f.type ≠ 3 → exec (.helloFrame n) s = .next s) ∧
      (f.type = 1 → d.linkState n = 2 → calm →
        (f.good = false → ∃ t, exec (.dataFrame n) s = .next t ∧ took t ∧ (t.dev.link n).nak = true ∧
          (t.dev.link n).expect = l.expect ∧ t.dev.ctxs = d.ctxs ∧
          t.dev.get (Reg.LCH_LINK_ERR_crc sel j) = min (d.get (Reg.LCH_LINK_ERR_crc sel j) + if f.stomped then 0 else 1) 255 ∧
          t.dev.get (Reg.LCH_LINK_ERR_stomped sel j) = min (d.get (Reg.LCH_LINK_ERR_stomped sel j) + if f.stomped then 1 else 0) 255) ∧
        (f.good = true → f.credit.getLsbD 12 = false → f.seq ≠ l.expect → ∃ t, exec (.dataFrame n) s = .next t ∧ took t ∧
          (t.dev.link n).expect = l.expect ∧ t.dev.ctxs = d.ctxs ∧
          t.dev.get (Reg.LCH_LINK_ERR_discards sel j) = min (d.get (Reg.LCH_LINK_ERR_discards sel j) + 1) 255 ∧
          ((f.seq + 2 ^ 24 - l.expect) % 2 ^ 24 < 2 ^ 23 → (t.dev.link n).nak = true)) ∧
        (f.good = true → f.credit.getLsbD 12 = false → f.seq = l.expect → d.linkEnc n = true →
          slice f.tag 0 8 ≠ (Config.gcmTag l.rxKey (frameNonce (d.rxLinkId n) (l.epochRx * 2 ^ 24 + f.seq))
            (toBytes (1 + f.seq * 256) 4) f.body).take 8 →
          ∃ t, exec (.dataFrame n) s = .next t ∧ t.dev.halted = true ∧ t.dev.ctxs = d.ctxs) ∧
        (f.good = true → f.credit.getLsbD 12 = false → f.seq = l.expect → d.linkEnc n = false →
          let dir := leAt f.body 0 8
          let dst := fieldOf dir 45 7
          let accepts (t : State) : Prop := took t ∧ (t.dev.link n).expect = (f.seq + 1) % 2 ^ 24 ∧
            (t.dev.link n).accepted = f.seq ∧ (t.dev.link n).nak = false ∧ (t.dev.link n).partnerUp = true
          (bitOf dir 60 = true → fieldOf dir 0 45 = 4 → d.get Reg.ID_STATE_sp_state ≤ 3 →
            ∃ t, exec (.dataFrame n) s = .next t ∧ accepts t ∧ t.dev.fw.inbox = d.fw.inbox ++
              [{ lane := n, src := fieldOf dir 52 7, toLocal := true, data := BitVec.ofNat 256 (ofBytes (slice f.body 8 32)) }] ∧
              (t.dev.link n).ctlFreed = (l.ctlFreed + 1) % 256) ∧
          (bitOf dir 60 = false → d.on (Reg.LCH_CTL_pos_valid sel) = false → ∃ t, exec (.dataFrame n) s = .next t ∧ accepts t ∧
            t.dev.get (Reg.LCH_LINK_ERR_discards sel j) = min (d.get (Reg.LCH_LINK_ERR_discards sel j) + 1) 255) ∧
          (bitOf dir 60 = false → d.on (Reg.LCH_CTL_pos_valid sel) = true → dst ≠ d.get (Reg.LCH_CTL_position sel) →
            (d.on (Reg.LCH_FWD_valid sel dst) = false → ∃ t, exec (.dataFrame n) s = .next t ∧ accepts t ∧ t.dev.ctxs = d.ctxs) ∧
            (∀ m : Fin 192, m ≠ n → d.on (Reg.LCH_FWD_valid sel dst) = true → d.get (Reg.LCH_FWD_lane sel dst) = m.val →
              (d.link m).fwd.length < 16 → ∃ t, exec (.dataFrame n) s = .next t ∧ accepts t ∧
                (t.dev.link m).fwd = (d.link m).fwd ++ [(n.val, f.body)])))) ∧
      (f.type = 2 → d.linkState n = 2 → f.good = true → f.credit.getLsbD 12 = false → bitOf (leAt f.body 0 8) 60 = true →
        ∃ t, exec (.idleFrame n) s = .next t ∧ took t ∧ (t.dev.link n).partnerUp = true ∧ (t.dev.link n).expect = l.expect) ∧
      (f.type = 3 → d.linkState n = 1 → f.good = true →
        (d.boot.mode ≠ 2 → d.spState ≠ 3 → ∃ t, exec (.helloFrame n) s = .next t ∧ took t ∧ t.dev.linkState n = 1 ∧
          (t.dev.link n).hello = slice f.body 8 32) ∧
        (d.boot.mode = 2 → d.boot.started = false → d.spState ≠ 5 → d.spState ≠ 3 → helloRole (slice f.body 8 32) = 1 →
          d.linkEnc n = false → s.reaches (.core 1) (Reg.LCH_LINK_CFG sel j) → ∃ t, exec (.helloFrame n) s = .next t ∧
            t.dev.linkState n = 2 ∧ (t.dev.link n).hello = slice f.body 8 32)) ∧
      (f.type = 4 → d.linkState n = 2 → f.good = true → d.cluster.formed = false → ∃ t, exec (.haltedFrame n) s = .next t ∧ took t ∧
        t.dev.linkState n = 4) ∧
      (f.type = 0 ∨ 5 ≤ f.type → d.linkState n = 1 ∨ d.linkState n = 2 → f.good = true → ∃ t, exec (.reservedFrameType n) s = .next t ∧
        took t ∧ t.dev.link n = l ∧
        t.dev.get (Reg.LCH_LINK_ERR_discards sel j) = min (d.get (Reg.LCH_LINK_ERR_discards sel j) + 1) 255)) ∧
    (∀ (x : Sent) (r : List Sent), d.linkState n = 2 → d.laneState n = 4 → l.buf = x :: r →
      let due := x.time + max (d.get (Reg.LCH_RETRY_timeout sel)) 1 * 1600
      (d.now < due → exec (.replayTimeout n) s = .next s) ∧
      (due ≤ d.now → l.acked = true → ∃ t, exec (.replayTimeout n) s = .next t ∧ (t.dev.link n).replay = some 0 ∧
        t.dev.linkState n = 2 ∧ t.dev.get (Reg.LCH_LINK_ERR_replays sel j) = min (d.get (Reg.LCH_LINK_ERR_replays sel j) + 1) 255) ∧
      (due ≤ d.now → l.acked = false → max (d.get (Reg.LCH_RETRY_limit sel)) 1 < l.retries + 1 → d.cluster.formed = false →
        ∃ t, exec (.replayTimeout n) s = .next t ∧ t.dev.linkState n = 3 ∧ (t.dev.link n).buf = [])) ∧
    (d.linkState n = 2 → d.laneState n ≠ 4 → d.cluster.formed = false → ∃ t, exec (.laneAbsenceTimeout n) s = .next t ∧
      t.dev.linkState n = 3 ∧ (t.dev.link n).buf = []) ∧
    (d.linkState n ≠ 2 ∨ d.laneState n = 4 → exec (.laneAbsenceTimeout n) s = .next s)

/-- Commands to links, contexts and the cluster's registers (R281, R291, R293, R294, R301, R303, R306, R311, R314, R316). -/
def Obligations.LinkCommands : Prop :=
  ∀ (s : State) (who : Who) (n : Fin 192) (b : Fin 4) (c : BitVec 16) (v : Word),
    let d := s.dev
    let sel := laneSel n
    let j := laneJ n
    let x := d.ctx c.toNat
    let chosen := d.get (Reg.LCH_CTX_SEL_ctx (baseSel b))
    (s.reaches who (Reg.LCH_LINK_CFG sel j) →
      (d.linkState n = 1 → v.getLsbD 1 = false → ∃ t, exec (.linkCfgActivate who n v) s = .next t ∧ t.dev.linkState n = 2 ∧
        t.dev.on (Reg.LCH_LINK_CFG_activate sel j) = true ∧ (t.dev.link n).seq = 0 ∧ (t.dev.link n).expect = 0 ∧
        (t.dev.link n).buf = [] ∧ (t.dev.link n).partnerUp = false) ∧
      (d.linkState n = 1 → v.getLsbD 1 = true →
        ((d.link n).keyNew.getLsbD (bits v 2 4) = true → ∃ t, exec (.linkCfgActivate who n v) s = .next t ∧ t.dev.linkState n = 2 ∧
          (t.dev.link n).keyNew = 0) ∧
        ((d.link n).keyNew.getLsbD (bits v 2 4) = false → ∃ t, exec (.linkCfgActivate who n v) s = .next t ∧ t.dev.linkState n = 1 ∧
          t.dev.on (Reg.LCH_LINK_STATUS_cmd_refused sel j) = true)) ∧
      (d.linkState n ≠ 1 → ∃ t, exec (.linkCfgActivate who n v) s = .next t ∧ t.dev.linkState n = d.linkState n ∧
        t.dev.on (Reg.LCH_LINK_STATUS_cmd_refused sel j) = true ∧ t.dev.link n = d.link n) ∧
      (d.linkState n = 2 ∨ d.linkState n = 3 ∨ d.linkState n = 4 → ∃ t, exec (.linkCfgDeactivate who n v) s = .next t ∧
        (t.dev.link n).buf = [] ∧ t.dev.linkState n = (if d.laneState n = 4 then 1 else 0) ∧
        t.dev.on (Reg.LCH_LINK_CFG_activate sel j) = false)) ∧
    (s.reaches who (Reg.LCH_CTX_CMD (baseSel b)) →
      (chosen / 16384 = b.val →
        (∃ t, exec (.lchCtxRead who b) s = .next t ∧ t.dev.rdWord (Reg.LCH_CTX_DATA (baseSel b) 1) = (d.ctx chosen).d1 ∧
          t.dev.rdWord (Reg.LCH_CTX_DATA (baseSel b) 2) = (d.ctx chosen).d2 ∧ t.dev.ctxs = d.ctxs) ∧
        ((d.ctx chosen).valid = false ∨ (d.ctx chosen).sync = false ∨ d.running = false →
          bits (d.rdWord (Reg.LCH_CTX_DATA (baseSel b) 0)) 0 2 ≠ 3 ∨ (d.hotFree b).isSome = true →
          ∃ t, exec (.lchCtxWrite who b) s = .next t ∧ (t.dev.ctx chosen).d0 = d.rdWord (Reg.LCH_CTX_DATA (baseSel b) 0) &&& ctxMask0 ∧
            (t.dev.ctx chosen).d1 = d.rdWord (Reg.LCH_CTX_DATA (baseSel b) 1) ∧
            (t.dev.ctx chosen).d2 = d.rdWord (Reg.LCH_CTX_DATA (baseSel b) 2) &&& ctxMask2 ∧ (t.dev.ctx chosen).queue = [] ∧
            (bits (d.rdWord (Reg.LCH_CTX_DATA (baseSel b) 0)) 0 2 = 3 → (t.dev.ctx chosen).hot.isSome = true)) ∧
        ((d.ctx chosen).valid = true → (d.ctx chosen).sync = true → d.running = true → ∃ t, exec (.lchCtxWrite who b) s = .next t ∧
          t.dev.on (Reg.LCH_CTX_CMD_refused (baseSel b)) = true ∧ t.dev.ctxs = d.ctxs) ∧
        (bits (d.rdWord (Reg.LCH_CTX_DATA (baseSel b) 0)) 0 2 = 3 → (d.ctx chosen).valid = false → (d.ctx chosen).hot = none →
          d.hotFree b = none → (∀ e ∈ d.hotCtxs b, e.2.sync = true) →
          ∃ t, exec (.lchCtxWrite who b) s = .next t ∧ t.dev.on (Reg.LCH_CTX_CMD_refused (baseSel b)) = true ∧ t.dev.ctxs = d.ctxs)) ∧
      (chosen / 16384 ≠ b.val → ∃ t, exec (.lchCtxWrite who b) s = .next t ∧ t.dev.on (Reg.LCH_CTX_CMD_refused (baseSel b)) = true ∧
        t.dev.ctxs = d.ctxs)) ∧
    (s.live = true →
      (x.hot.isSome = true → x.sync = false → x.queue = [] → x.part = [] → x.since + 100 * 16000 ≤ d.now →
        exec (.hotSlotRelease c) s = .next (s.withDev (d.setCtx c.toNat { x with hot := none }))) ∧
      (x.queue ≠ [] ∨ x.sync = true ∨ d.now < x.since + 100 * 16000 → exec (.hotSlotRelease c) s = .next s) ∧
      (x.streamSend = true → x.staleCode ≠ 15 → x.part ≠ [] → x.since + 4000 * 2 ^ x.staleCode ≤ d.now →
        ∃ t, exec (.staleTimer c) s = .next t ∧ (t.dev.ctx c.toNat).part = [] ∧
          (t.dev.ctx c.toNat).queue.map (fun w => (w.valid, w.eom)) = x.queue.map (fun w => (w.valid, w.eom)) ++ [(x.part.length, false)]) ∧
      (x.part = [] ∨ x.staleCode = 15 ∨ d.now < x.since + 4000 * 2 ^ x.staleCode → exec (.staleTimer c) s = .next s) ∧
      (x.streamRecv = true → 0 < x.freed → x.freed ≤ 4095 → x.laneNo < 192 → x.freedAt + 16000 ≤ d.now →
        ∃ t, exec (.creditReturn c) s = .next t ∧ (t.dev.ctx c.toNat).freed = 0 ∧
          (t.dev.link x.laneNo).creditQ = (d.link x.laneNo).creditQ ++ [(x.peerPos, x.peerCtx, x.freed)]) ∧
      (x.freed = 0 ∨ d.now < x.freedAt + 16000 → exec (.creditReturn c) s = .next s) ∧
      (∀ (pos : Fin 128) (tx rx : BitVec 64),
        let ownTx := BitVec.ofNat 64 (d.pair (Reg.LCH_TMARK_TX_LO sel j) (Reg.LCH_TMARK_TX_HI sel j))
        let ownRx := BitVec.ofNat 64 (d.pair (Reg.LCH_TMARK_RX_LO sel j) (Reg.LCH_TMARK_RX_HI sel j))
        (d.spState ≠ 3 ∨ d.role = 0 → exec (.timeExchange n pos tx rx) s = .next s) ∧
        (d.spState = 3 → d.role = 2 → s.reaches (.core 0) Reg.PACE_TB_ADJ →
          let adj := BitVec.ofInt 32 (-(Int.tdiv ((ownRx - tx) - (rx - ownTx)).toInt 2))
          (d.running = true → ∃ t, exec (.timeExchange n pos tx rx) s = .next t ∧ t.dev.rdWord Reg.PACE_TB_ADJ = adj) ∧
          (d.running = false → ∃ t, exec (.timeExchange n pos tx rx) s = .next t ∧
            t.dev.pac.tb = (((d.pac.tb : Int) + adj.toInt).emod (2 ^ 64)).toNat)) ∧
        (d.spState = 3 → d.role = 1 →
          let ns := (Int.tdiv ((rx - ownTx) - (ownRx - tx)).toInt 2).natAbs / 16
          ∃ t, exec (.timeExchange n pos tx rx) s = .next t ∧
            t.dev.cluster.offset = max d.cluster.offset ns ∧
            t.dev.cluster.offsetPos = if d.cluster.offset ≤ ns then pos.val else d.cluster.offsetPos))) ∧
    (s.reaches who (Reg.LCH_TMARK_CTL sel j) → ∃ t, exec (.tmarkSend who n) s = .next t ∧ (t.dev.link n).tmarkDue = true ∧
      t.dev.on (Reg.LCH_TMARK_CTL_send sel j) = true) ∧
    (s.reaches who (Reg.LCH_SLOT_DATA (baseSel b)) → d.get (Reg.LCH_SLOT_SEL_lane (baseSel b)) < 48 →
      let lane := 48 * b.val + d.get (Reg.LCH_SLOT_SEL_lane (baseSel b))
      (d.running = false → ∃ t, exec (.lchSlotDataWrite who b none v) s = .next t ∧
        t.dev.slots.get (slotKey lane (d.get (Reg.LCH_SLOT_SEL_dir (baseSel b))) (d.get (Reg.LCH_SLOT_SEL_entry (baseSel b)))) 0 = bits v 0 16 ∧
        (∀ k, k ≠ slotKey lane (d.get (Reg.LCH_SLOT_SEL_dir (baseSel b))) (d.get (Reg.LCH_SLOT_SEL_entry (baseSel b))) →
          t.dev.slots.get k 0 = d.slots.get k 0)) ∧
      (d.running = true → exec (.lchSlotDataWrite who b none v) s =
        .next (s.withDev (d.set (Reg.LCH_LINK_STATUS_cmd_refused (laneSel lane) (laneJ lane)) 1)))) ∧
    (∀ i : Fin 48, s.reaches who (Reg.LCH_LINK_SYNC (baseSel b) i) →
      (d.running = false → ∃ t, exec (.lchSlotDataWrite who b (some i) v) s = .next t ∧
        t.dev.get (Reg.LCH_LINK_SYNC_tx_count (baseSel b) i) = bits v 0 9 ∧
        t.dev.get (Reg.LCH_LINK_SYNC_rx_count (baseSel b) i) = bits v 16 9) ∧
      (d.running = true → exec (.lchSlotDataWrite who b (some i) v) s =
        .next (s.withDev (d.set (Reg.LCH_LINK_STATUS_cmd_refused (baseSel b) i) 1)))) ∧
    (s.reaches who (Reg.LCH_LINK_CLR sel j) → exec (.lchLinkClr who n) s = .next (s.withDev (d.wrWord (Reg.LCH_LINK_ERR sel j) 0))) ∧
    (s.reaches who (Reg.LCH_CTL (baseSel b)) → ∃ t, exec (.lchCtlLock who b v) s = .next t ∧
      t.dev.on (Reg.LCH_CTL_lock (baseSel b)) = true ∧
      (d.on (Reg.LCH_CTL_lock (baseSel b)) = false → t.dev.get (Reg.LCH_CTL_position (baseSel b)) = bits v 0 7) ∧
      (d.on (Reg.LCH_CTL_lock (baseSel b)) = true → t.dev.get (Reg.LCH_CTL_position (baseSel b)) = d.get (Reg.LCH_CTL_position (baseSel b))))

/-! ### Configuration (chapter 10) -/

/-- Control of the configuration front end (R324, R338, R341, R342, R344 to R347): arming, aborting, restarting, releasing CFG_DONE, and
the ends of a path. A stream that fails is over, and CFG_STATUS shows FAILED; where a design was loaded at its start and no section of it
was under way, nothing of the design changes. -/
def Obligations.ConfigurationControl : Prop :=
  ∀ (s : State) (who : Who) (v : Word) (k : Nat),
    let d := s.dev
    let st := d.get Reg.CFG_STATUS_state
    (∀ cause off : Nat, (d.cfgFail cause off).get Reg.CFG_STATUS_state = 5 ∧ (d.cfgFail cause off).cfg.started = false ∧
      (cause < 16 → d.cfg.loadedAtStart = true → d.cfg.full = false → d.cfg.reading ≠ .body →
        (d.cfgFail cause off).get Reg.CFG_FAIL_cause = cause ∧ (d.cfgFail cause off).get Reg.CFG_FAIL_OFFSET_offset = min off 0xFFFFFFFF ∧
        (d.cfgFail cause off).cfg.errDrive = true ∧ (d.cfgFail cause off).mem = d.mem ∧
        (d.cfgFail cause off).on Reg.CFG_STATUS_design_loaded = d.on Reg.CFG_STATUS_design_loaded)) ∧
    (s.reaches who Reg.CFG_CTL →
      (d.cfg.started = false → st ≠ 1 → ∃ t, exec (.cfgArm who v) s = .next t ∧ t.dev.get Reg.CFG_STATUS_state = 1 ∧
        t.dev.on Reg.CFG_CTL_arm = true ∧ t.dev.get Reg.CFG_CTL_path = bits v 0 2) ∧
      (d.cfg.started = true → bits v 3 3 = 0 → exec (.cfgArm who v) s = .next s) ∧
      (v.getLsbD 2 = false → v.getLsbD 4 = false →
        (d.cfg.started = true → ∃ t, exec (.cfgAbort who v) s = .next t ∧ t.dev.get Reg.CFG_STATUS_state = 5 ∧
          t.dev.cfg.started = false) ∧
        (d.cfg.started = false → st = 1 → ∃ t, exec (.cfgAbort who v) s = .next t ∧ t.dev.get Reg.CFG_STATUS_state = 0 ∧
          t.dev.on Reg.CFG_CTL_arm = false ∧ t.dev.errs = d.errs)) ∧
      (bits v 2 2 = 0 → ∃ t, exec (.cfgRestart who v) s = .next t ∧ t.dev.get Reg.CFG_FAIL_cause = 0 ∧
        t.dev.cfg.errDrive = false ∧ t.dev.cfg.loadFailure = false ∧
        (st = 5 → t.dev.get Reg.CFG_STATUS_state = 0) ∧
        (d.cfg.loadFailure = true → ∀ n : Fin 64, t.dev.get (Reg.SIO_PIN_CTL_mode n) = 0)) ∧
      (bits v 2 3 = 0 → ∃ t, exec (.doneRelease who v) s = .next t ∧ t.dev.on Reg.CFG_STATUS_done_drive = false ∧
        t.dev.cfg = d.cfg)) ∧
    (s.live = true →
      let cut (t : State) : Prop := t.dev.get Reg.CFG_STATUS_state = 5 ∧ t.dev.cfg.started = false ∧
        (d.cfg.loadedAtStart = true → d.cfg.full = false → d.cfg.reading ≠ .body → t.dev.get Reg.CFG_FAIL_cause = 5 ∧
          t.dev.get Reg.CFG_FAIL_OFFSET_offset = min (d.cfg.offset + k) 0xFFFFFFFF)
      (d.cfg.started = true → d.get Reg.CFG_CTL_path ≠ 2 → ∃ t, exec (.streamPathEnd k) s = .next t ∧ cut t) ∧
      (d.cfg.started = false → st = 1 → d.get Reg.CFG_CTL_path ≠ 2 → ∃ t, exec (.streamPathEnd k) s = .next t ∧
        t.dev.get Reg.CFG_STATUS_state = 0 ∧ t.dev.errs = d.errs) ∧
      (d.cfg.started = false → st ≠ 1 ∨ d.get Reg.CFG_CTL_path = 2 → exec (.streamPathEnd k) s = .next s) ∧
      (d.cfg.started = true → d.get Reg.CFG_CTL_path = 2 → ∃ t, exec (.cfgbusIdleTimeout k) s = .next t ∧ cut t) ∧
      (d.cfg.started = false → exec (.cfgbusIdleTimeout k) s = .next s) ∧
      (d.on Reg.CFG_STATUS_done_drive = false → d.cfg.doneHeld = true → exec .cfgDoneTimeout s =
        .next (s.withDev ((d.set Reg.CFG_STATUS_done_timeout 1).err 32 0 0 0x0C02))) ∧
      (d.on Reg.CFG_STATUS_done_drive = true ∨ d.cfg.doneHeld = false → exec .cfgDoneTimeout s = .next s) ∧
      (d.spState = 3 → d.boot.role = 2 → d.get Reg.CFG_CTL_path = 1 → d.cfg.loadFailure = true → ∃ t, exec .workerLoadRestart s = .next t ∧
        t.dev.get Reg.CFG_FAIL_cause = 0 ∧ t.dev.cfg.errDrive = false ∧ t.dev.cfg.loadFailure = false) ∧
      (d.spState ≠ 3 ∨ d.boot.role ≠ 2 ∨ d.cfg.loadFailure = false → exec .workerLoadRestart s = .next s))

/-- Sections and packets (R320 to R322, R325 to R328, R333, R336 to R339, R352). The front end takes bytes over the selected path, and
nothing over another. A header that is not well formed, or whose checks fail, ends the stream; one of another target is skipped; one that
is accepted opens its section, and one of a FULL section unloads the design. A packet, decrypted as it is read, moves the stream on and does
what its kind does; frames and actions wait for the bulk clear and for the fields to leave; what runs past the trailer fails. The trailer
of a FULL section loads the design, that of a PARTIAL one its fields, and an END section ends the stream. -/
def Obligations.SectionsAndPackets : Prop :=
  ∀ (s : State) (x : Feed) (l : List Byte), s.live = true →
    let d := s.dev
    let c := d.cfg
    let st := d.get Reg.CFG_STATUS_state
    let took := d.feedTaken x
    let e := ((took.map (·.2)).getD d)
    let goes (i : Instr) (p : State → Prop) : Prop := ∃ t, exec i s = .next t ∧ p t
    let failed (t : State) : Prop := t.dev.get Reg.CFG_STATUS_state = 5 ∧ t.dev.cfg.started = false
    (x.path ≠ d.get Reg.CFG_CTL_path →
      ∀ i ∈ [Instr.sectionHeader x, .endSection x, .sectionTrailer x, .nopPacket x, .cfgAddress x, .cfgBurstCount x, .cfgCheck x, .clear x,
        .zeroMem x, .fence x, .frames x, .writeDev x, .reservedPacketOpcode x], exec i s = .next s) ∧
    (x.path = d.get Reg.CFG_CTL_path → took.map (·.1) = some l →
      (128 ≤ l.length → st = 1 ∨ (st = 2 ∧ c.started = true ∧ c.reading = .none) →
        let e1 := if st = 1 then e.streamStart else e
        (∀ off, headerFormat l = some off → goes (.sectionHeader x) (fun t => failed t ∧
          (e1.cfg.loadedAtStart = true → e1.cfg.full = false → t.dev.get Reg.CFG_FAIL_cause = 1 ∧
            t.dev.get Reg.CFG_FAIL_OFFSET_offset = min off 0xFFFFFFFF))) ∧
        (headerFormat l = none → leAt l 6 1 = 0x0F → goes (.sectionHeader x) (fun t => t.dev.cfg.reading = .body ∧ t.dev.cfg.header = l ∧
          t.dev.cfg.offset = l.length ∧ t.dev.cfg.length = 256 ∧ t.dev.cfg.started = true)) ∧
        (headerFormat l = none → leAt l 6 1 ≠ 0x0F → e1.headerMine s.fuses l = false → goes (.sectionHeader x) (fun t =>
          t.dev.cfg.reading = .skip ∧ t.dev.get Reg.CFG_STATUS_state = 3 ∧ t.dev.cfg.length = hdrLen l ∧ t.dev.mem = d.mem)) ∧
        (headerFormat l = none → leAt l 6 1 ≠ 0x0F → e1.headerMine s.fuses l = true →
          (∀ cause off, e1.headerChecks l = some (cause, off) → goes (.sectionHeader x) (fun t => failed t ∧
            (e1.cfg.loadedAtStart = true → e1.cfg.full = false → t.dev.get Reg.CFG_FAIL_cause = cause ∧
              t.dev.get Reg.CFG_FAIL_OFFSET_offset = min off 0xFFFFFFFF))) ∧
          (e1.headerChecks l = none → leAt l 6 1 = 1 → goes (.sectionHeader x) (fun t => t.dev.cfg.reading = .body ∧ t.dev.cfg.header = l ∧
            t.dev.cfg.length = hdrLen l ∧ t.dev.cfg.clearing = true ∧ t.dev.cfg.region = BitVec.allOnes 384 ∧
            t.dev.on Reg.CFG_STATUS_design_loaded = false ∧ t.dev.on Reg.CFG_STATUS_done_drive = true)) ∧
          (e1.headerChecks l = none → leAt l 6 1 = 2 → goes (.sectionHeader x) (fun t => t.dev.cfg.reading = .body ∧ t.dev.cfg.header = l ∧
            t.dev.cfg.length = hdrLen l ∧ t.dev.cfg.region = hdrRegion l ∧
            (∀ f ∈ regionFields (hdrRegion l), f ∈ t.dev.cfg.reconf) ∧
            t.dev.on Reg.CFG_STATUS_design_loaded = d.on Reg.CFG_STATUS_design_loaded)))) ∧
      (st ≠ 1 → c.started = false ∨ c.reading ≠ .none → exec (.sectionHeader x) s = .next (s.withDev e)) ∧
      (st = 2 → c.started = true → c.reading = .none → l.length = 256 → headerFormat (slice l 0 128) = none → leAt l 6 1 = 0x0F →
        leAt l 128 4 = 0x4C494154 → BitVec.ofNat 32 (leAt l 132 4) = crc32c (slice l 0 128) → c.fence = false → c.waiting = [] →
        c.clearing = false →
        (c.any = true → goes (.endSection x) (fun t => t.dev.get Reg.CFG_STATUS_state = 0 ∧ t.dev.cfg.started = false)) ∧
        (c.any = false → goes (.endSection x) failed)) ∧
      (let plain := d.underKey l
       let word (i : Nat) : Nat := leAt plain (4 * i) 4
       let op := word 0 / 0x10000000
       let reg := word 0 / 0x10000 % 0x100
       let n := word 0 % 0x10000
       let inBody : Prop := c.reading = .body ∧ c.fence = false ∧ c.offset + 128 < c.length
       let fits : Prop := inBody ∧ l.length = 4 + 4 * d.packetWords (word 0) ∧ c.offset + 128 + l.length ≤ c.length
       let past : Prop := inBody ∧ 4 ≤ l.length ∧ c.length < c.offset + 132 + 4 * d.packetWords (word 0)
       let moved (t : State) : Prop := t.dev.cfg.offset = c.offset + l.length ∧ t.dev.cfg.reading = .body ∧
         t.dev.get Reg.CFG_STATUS_state = if c.offset + l.length + 128 = c.length then 4 else st
       let waits (t : State) (q : Nat × Nat × List Byte) : Prop := t.dev.cfg.waiting = c.waiting ++ [q] ∧ t.dev.mem = d.mem
       let ready : Prop := c.waiting = [] ∧ d.writersReady = true
       (¬ inBody → ∀ i ∈ [Instr.nopPacket x, .cfgAddress x, .cfgBurstCount x, .cfgCheck x, .clear x, .zeroMem x, .fence x, .frames x,
         .writeDev x, .reservedPacketOpcode x], exec i s = .next (s.withDev e)) ∧
       (past → (op = 0 → goes (.nopPacket x) failed) ∧ (op = 2 → goes (.frames x) failed) ∧ (op = 3 → goes (.writeDev x) failed)) ∧
       (fits →
         (op = 0 → goes (.nopPacket x) (fun t => moved t ∧ t.dev.cfg.address = c.address ∧ t.dev.cfg.burst = c.burst ∧
           t.dev.mem = d.mem)) ∧
         (op = 1 → reg = 1 → n = 1 →
           (word 1 < 0x1000000 → goes (.cfgAddress x) (fun t => moved t ∧ t.dev.cfg.address = word 1 ∧ t.dev.cfg.burst = c.burst)) ∧
           (0x1000000 ≤ word 1 → goes (.cfgAddress x) failed)) ∧
         (op = 1 → reg = 2 → n = 1 → goes (.cfgBurstCount x) (fun t => moved t ∧ t.dev.cfg.burst = word 1 ∧
           t.dev.cfg.address = c.address)) ∧
         (op = 1 → reg = 3 → n = 1 →
           (crcValue c.check = BitVec.ofNat 32 (word 1) → goes (.cfgCheck x) (fun t => moved t ∧ t.dev.cfg.check = 0xFFFFFFFF#32)) ∧
           (crcValue c.check ≠ BitVec.ofNat 32 (word 1) → goes (.cfgCheck x) failed)) ∧
         (op = 1 → reg = 4 → n = 1 →
           (word 1 = 1 → ¬ ready → goes (.clear x) (fun t => moved t ∧ waits t (clearEntry, c.offset, []))) ∧
           (word 1 = 1 → ready → goes (.clear x) (fun t => moved t ∧ t.dev.cfg.waiting = [] ∧
             ∀ f ∈ regionFields c.region, ∀ j < 2048, ∀ k < 4096,
               t.dev.mem.read (frameBase (frameAddr (dieOf f) (idxOf f) (j / 64) (j % 64) 0) + k) = 0)) ∧
           (word 1 = 2 → ¬ ready → goes (.zeroMem x) (fun t => moved t ∧ waits t (zeroEntry, c.offset, []))) ∧
           (word 1 = 2 → ready → goes (.zeroMem x) (fun t => moved t ∧ t.dev.cfg.waiting = [] ∧
             ∀ f ∈ regionFields c.region, ∀ k < 0xC0000, t.dev.mem.read (binBase f 0 + k) = 0)) ∧
           (word 1 = 3 → goes (.fence x) (fun t => moved t ∧ t.dev.cfg.fence = true ∧ t.dev.mem = d.mem))) ∧
         (op = 2 → c.burst = 1 →
           (d.frameAllowed c.address = false → goes (.frames x) failed) ∧
           (d.frameAllowed c.address = true → ¬ ready → goes (.frames x) (fun t => moved t ∧ t.dev.cfg.address = c.address + 0x10 ∧
             waits t (c.address, c.offset + 4, slice plain 4 4096))) ∧
           (d.frameAllowed c.address = true → ready → c.address % 16 = 0 → d.on (Reg.GLEAN_CTL_golden_en (frameDie c.address)) = false →
             goes (.frames x) (fun t => moved t ∧ t.dev.cfg.address = c.address + 0x10 ∧ t.dev.cfg.waiting = [] ∧
               t.dev.mem.readBytes (frameBase c.address) 4096 = slice plain 4 4096))) ∧
         (op = 2 → c.burst = 0 → goes (.frames x) failed) ∧
         (op = 3 → n = 1 →
           (d.devWriteOk (word 1) = false → goes (.writeDev x) failed) ∧
           (∀ p : Fin 64, c.kind = 1 → d.running = false → word 1 = Reg.SIO_PIN_CTL p → goes (.writeDev x) (fun t => moved t ∧
             t.dev.get (Reg.SIO_PIN_CTL_mode p) = word 2 % 4 ∧ t.dev.get (Reg.SIO_PIN_CTL_edge p) = word 2 / 4 % 4))) ∧
         (4 ≤ op → goes (.reservedPacketOpcode x) failed))) ∧
      (c.reading = .none → exec (.sectionTrailer x) s = .next (s.withDev e)) ∧
      (c.reading = .skip →
        (leAt l 0 4 = 0x4C494154 → goes (.sectionTrailer x) (fun t => t.dev.cfg.reading = .none ∧ t.dev.cfg.section_ = c.section_ + 1 ∧
          t.dev.get Reg.CFG_STATUS_state = 2)) ∧
        (leAt l 0 4 ≠ 0x4C494154 → goes (.sectionTrailer x) failed)) ∧
      (c.reading = .body → c.fence = true ∨ c.waiting ≠ [] ∨ c.clearing = true → exec (.sectionTrailer x) s = .next (s.withDev e)) ∧
      (c.reading = .body → c.fence = false → c.waiting = [] → c.clearing = false → c.offset = c.length - 128 →
        (∀ cause off, d.trailerChecks l = some (cause, off) → goes (.sectionTrailer x) failed) ∧
        (d.trailerChecks l = none →
          (c.kind = 0x0F → c.any = true → goes (.sectionTrailer x) (fun t => t.dev.get Reg.CFG_STATUS_state = 0 ∧
            t.dev.cfg.started = false)) ∧
          (c.kind = 1 → goes (.sectionTrailer x) (fun t => t.dev.on Reg.CFG_STATUS_design_loaded = true ∧
            t.dev.on Reg.CFG_STATUS_done_drive = false ∧ t.dev.committed = 0 ∧ t.dev.cfg.reading = .none ∧
            t.dev.cfg.section_ = c.section_ + 1 ∧ t.dev.cfg.loadFailure = false ∧
            (∀ f : Fin 384, d.heldDie (dieOf f) = false → t.dev.loaded f = true))) ∧
          (c.kind = 2 → goes (.sectionTrailer x) (fun t => t.dev.cfg.reading = .none ∧ t.dev.cfg.section_ = c.section_ + 1 ∧
            (∀ f ∈ regionFields c.region, t.dev.loaded f = true ∧ f ∉ t.dev.cfg.reconf)))))) ∧
    (c.waiting = [] → c.fence = true → c.clearing = false → exec .fenceComplete s =
      .next (s.withDev { d with cfg := { c with fence := false } })) ∧
    (c.fence = false → c.waiting = [] → exec .fenceComplete s = .next s) ∧
    (c.clearing = true → c.waiting = [] → ∃ t, exec .bulkClearDone s = .next t ∧ t.dev.cfg.clearing = false ∧
      ∀ f : Fin 384, ∀ j < 2048, ∀ k < 4096, t.dev.mem.read (frameBase (frameAddr (dieOf f) (idxOf f) (j / 64) (j % 64) 0) + k) = 0) ∧
    (c.clearing = false → exec .bulkClearDone s = .next s)


/-! ### Integrity and errors (chapter 11) -/

/-- Stored-state integrity (R360, R361, R363, R364, R366, R368, R369, R373, R374, R375, R376): what the commands of the gleaner, the
scrubbers, the leaky buckets and the granary test do, and what a unit does about a frame, a word or a row in error. That the first region
of a granary test starts at once, and that leaks count from time 0 where a bucket's register was never written, is the model's choice (log
entry 162). -/
def Obligations.StoredStateIntegrity : Prop :=
  ∀ (s : State) (who : Who) (die : Fin 12) (i : Fin 16) (b : Fin 4) (flips badRows badSpares : List Nat) (v : Word),
    let d := s.dev
    let base := baseSel b
    let up (x : Fld) : Nat := min (d.get x + 1) (2 ^ x.w - 1)
    let goes (c : Instr) (p : State → Prop) : Prop := ∃ t, exec c s = .next t ∧ p t
    (s.live = true →
      (d.on (Reg.GLEAN_CTL_pause die) = true ∨ d.halted = true ∨ d.heldDie die = true →
        exec (.gleanFrameRead die flips) s = .next s) ∧
      (d.on (Reg.GLEAN_CTL_pause die) = false → d.halted = false → d.heldDie die = false →
        (d.gleanNext die 0 = none → goes (.gleanFrameRead die flips) (fun t => t.dev.on (Reg.GLEAN_STATUS_in_progress die) = false ∧
          t.dev.mem = d.mem ∧ t.dev.marks = d.marks ∧ t.dev.errs = d.errs)) ∧
        (∀ first x : Nat, d.gleanNext die 0 = some first → (d.gleanNext die (d.get (Reg.GLEAN_POS_frame die))).getD first = x →
          let fa := frameOfIndex die x
          let fl := toggleAll (d.mark (frameBase fa)).flips flips
          let f := frameField fa
          (d.mark (frameBase fa)).poison = false →
          (fl = [] → goes (.gleanFrameRead die flips) (fun t => (t.dev.mark (frameBase fa)).flips = [] ∧ t.dev.mem = d.mem ∧
            t.dev.errs = d.errs ∧ t.dev.bacts = d.bacts ∧
            t.dev.get (Reg.GLEAN_POS_frame die) = ((d.gleanNext die (x + 1)).getD first) % 65536 ∧
            (d.gleanNext die (x + 1) = none → t.dev.get (Reg.GLEAN_STATUS_laps die) =
              (d.get (Reg.GLEAN_STATUS_laps die) + 1) % 2 ^ (Reg.GLEAN_STATUS_laps die).w))) ∧
          (fl.length = 1 → d.critEntry f = none → goes (.gleanFrameRead die flips) (fun t =>
            t.dev.get (Reg.GLEAN_CE_count die) = up (Reg.GLEAN_CE_count die) ∧ t.dev.mem = d.mem ∧
            (d.atRest = true ∨ d.frozen f = true → (t.dev.mark (frameBase fa)).flips = [] ∧ t.dev.bacts = d.bacts) ∧
            (d.atRest = false → d.frozen f = false → (t.dev.mark (frameBase fa)).flips = fl ∧ BAct.rewrite fa ∈ t.dev.bacts))) ∧
          (2 ≤ fl.length → d.on (Reg.GLEAN_CTL_golden_en die) = false → goes (.gleanFrameRead die flips) (fun t =>
            t.dev.bit (Reg.GLEAN_CORRUPT_corrupt die) (x / 2048 % 32) = true ∧ t.dev.get (Reg.GLEAN_UE_ue die) = up (Reg.GLEAN_UE_ue die) ∧
            (t.dev.mark (frameBase fa)).flips = fl ∧ t.dev.mem = d.mem ∧
            (d.on (Reg.GLEAN_CTL_ue_freeze die) = true → d.atRest = false → BAct.freeze f ∈ t.dev.bacts))))) ∧
      (∀ k : Fin 4, (if i.val < 12 then 2 else 3) ≤ k.val → ¬ (12 ≤ i.val ∧ k.val = 3) → exec (.scrubUnit i k flips) s = .next s) ∧
      (∀ k : Fin 4, d.on (Reg.ERR_SCRUB_CTL_pause (dieSel i) k) = true ∨ d.halted = true ∨ d.heldDie (dieSel i) = true →
        exec (.scrubUnit i k flips) s = .next s) ∧
      (∀ k : Fin 4, k.val < (if i.val < 12 then 2 else 3) → d.on (Reg.ERR_SCRUB_CTL_pause (dieSel i) k) = false → d.halted = false →
        d.heldDie (dieSel i) = false → d.pwr.scrubFull = [] →
        (12 ≤ i.val → k.val ≠ 0 → d.stackState (2 * (i.val - 12) + (k.val - 1)) = 2 ∧
          (d.stack (2 * (i.val - 12) + (k.val - 1))).unlocked = false) →
        ∀ first u : Nat, d.scrubFind Dev.asleepAt i k 0 (scrubCount i k) = some first →
          (d.scrubFind Dev.asleepAt i k (d.get (Reg.ERR_SCRUB_POS_unit (dieSel i) k)) (scrubCount i k)).getD first = u →
          let a := if 12 ≤ i.val ∧ k.val = 0 then d.granAt (d.scrubAddr i k u) else d.scrubAddr i k u
          let fl := toggleAll (d.mark a).flips flips
          let ce := Reg.ERR_SCRUB_CE_count (dieSel i) k
          let ue := Reg.ERR_SCRUB_UE_count (dieSel i) k
          (fl = [] → (d.mark a).poison = false → ¬ (i.val < 12 ∧ k.val = 0) → ¬ (12 ≤ i.val ∧ k.val ≠ 0) →
            goes (.scrubUnit i k flips) (fun t => (t.dev.mark a).flips = [] ∧ t.dev.mem = d.mem ∧ t.dev.errs = d.errs ∧
              t.dev.get ce = d.get ce ∧ t.dev.get ue = d.get ue ∧
              (d.scrubFind Dev.asleepAt i k (u + 1) (scrubCount i k) = none →
                t.dev.on (Reg.ERR_SCRUB_STATUS_in_progress (dieSel i) k) = true ∧
                t.dev.get (Reg.ERR_SCRUB_STATUS_laps (dieSel i) k) =
                  (d.get (Reg.ERR_SCRUB_STATUS_laps (dieSel i) k) + 1) % 2 ^ (Reg.ERR_SCRUB_STATUS_laps (dieSel i) k).w))) ∧
          (fl.length = 1 → (d.mark a).poison = false → ¬ (i.val < 12 ∧ k.val = 0) → ¬ (12 ≤ i.val ∧ k.val ≠ 0) →
            goes (.scrubUnit i k flips) (fun t => t.dev.mark a = {} ∧ t.dev.get ce = up ce ∧ t.dev.mem = d.mem)) ∧
          (2 ≤ fl.length → ¬ (i.val < 12 ∧ k.val = 0) → ¬ (12 ≤ i.val ∧ k.val ≠ 0) →
            goes (.scrubUnit i k flips) (fun t => (t.dev.mark a).flips = fl ∧ t.dev.get ue = up ue ∧ t.dev.mem = d.mem)) ∧
          (12 ≤ i.val → k.val ≠ 0 → (d.scrubFlips i k u flips).burstBad a = true → goes (.scrubUnit i k flips) (fun t =>
            (t.dev.mark a).flips = fl ∧ t.dev.get ue = up ue)) ∧
          (12 ≤ i.val → k.val ≠ 0 → (d.scrubFlips i k u flips).burstBad a = false → goes (.scrubUnit i k flips) (fun t =>
            t.dev.get ce = if (d.scrubFlips i k u flips).burstSingle a then up ce else d.get ce)) ∧
          (i.val < 12 → k.val = 0 →
            let r := (d.scrubFlips i k u flips).rowRead (fieldAt i (u / 98304)) (u % 98304 / 2048) (u % 2048) 255
            (r.2.2 = true → goes (.scrubUnit i k flips) (fun t => t.dev.get ue = up ue ∧ (t.dev.mark a).flips = fl)) ∧
            (r.2.2 = false → r.2.1 = true → goes (.scrubUnit i k flips) (fun t => t.dev.get ce = up ce ∧ t.dev.mark a = {})) ∧
            (r.2.2 = false → r.2.1 = false → goes (.scrubUnit i k flips) (fun t => t.dev.get ue = d.get ue ∧ t.dev.get ce = d.get ce ∧
              t.dev.errs = d.errs)))) ∧
      (d.on (Reg.ERR_SCRUB_CTL_pause base 3) = false → d.halted = false → d.heldDie base = false →
        let q : Fin 16 := ⟨b.val + 12, by omega⟩
        (d.hotUsed b = [] → exec (.scrubUnit q 3 flips) s = .next s) ∧
        (∀ (c u : Nat) (x : Ctx) (w : QWord), d.hotCtxs b = [(c, x)] → d.ctx c = x → x.hot.map (·.1) = some u → u < 2048 →
          x.queue = [w] → w.out = false →
          let fl := toggleAll w.flips (flips.filter (fun p => p / 288 = 0))
          ((qwordCheck fl).2 = true → goes (.scrubUnit q 3 flips) (fun t =>
            t.dev.get (Reg.ERR_SCRUB_UE_count base 3) = up (Reg.ERR_SCRUB_UE_count base 3) ∧
            (t.dev.ctx c).queue = [{ w with flips := fl }])) ∧
          (qwordCheck fl = (0, false) → goes (.scrubUnit q 3 flips) (fun t =>
            t.dev.get (Reg.ERR_SCRUB_CE_count base 3) = d.get (Reg.ERR_SCRUB_CE_count base 3) ∧ t.dev.errs = d.errs)) ∧
          (qwordCheck fl = (1, false) → goes (.scrubUnit q 3 flips) (fun t =>
            t.dev.get (Reg.ERR_SCRUB_CE_count base 3) = up (Reg.ERR_SCRUB_CE_count base 3) ∧
            (t.dev.ctx c).queue = [{ w with flips := [] }])))) ∧
      (∀ k : Fin 5,
        let lv : Fld := if k.val = 4 then Reg.GLEAN_BKT_STATUS_level (dieSel i) else Reg.ERR_BKT_STATUS_level (dieSel i) k
        let ms := if k.val = 4 then d.get (Reg.GLEAN_BKT_CFG_leak_ms (dieSel i)) else d.get (Reg.ERR_BKT_CFG_leak_ms (dieSel i) k)
        let due := d.scrub.leakAt.get (16 * i.val + k.val) 0 + 16000000 * max 1 ms
        (due ≤ d.now → goes (.bucketLeak i k) (fun t => t.dev.get lv = d.get lv - 1 ∧
          t.dev.scrub.leakAt.get (16 * i.val + k.val) 0 = due)) ∧
        (d.now < due → exec (.bucketLeak i k) s = .next s)) ∧
      (d.on (Reg.GRAN_TEST_CTL_pause base) = true ∨ d.on (Reg.GRAN_TEST_STATUS_active base) = true ∨ d.halted = true ∨
        d.heldDie base = true → exec (.granTestStart b) s = .next s) ∧
      (∀ e : Nat, d.scrub.testEnd.get b 0 = e + 1 → d.now < e + 16000 * max 1 (d.get (Reg.GRAN_TEST_CTL_interval_us base)) →
        exec (.granTestStart b) s = .next s) ∧
      (d.on (Reg.GRAN_TEST_CTL_pause base) = false → d.on (Reg.GRAN_TEST_STATUS_active base) = false → d.halted = false →
        d.heldDie base = false → d.mem.wf = true →
        (d.scrub.testEnd.get b 0 = 0 ∨
          d.scrub.testEnd.get b 0 - 1 + 16000 * max 1 (d.get (Reg.GRAN_TEST_CTL_interval_us base)) ≤ d.now) →
        let awake (g : Nat) : Bool := d.asleep (384 + 16 * b.val + g)
        ∀ first n : Nat, granNext awake 0 = some first → (granNext awake (d.get (Reg.GRAN_TEST_STATUS_region base))).getD first = n →
          goes (.granTestStart b) (fun t => t.dev.on (Reg.GRAN_TEST_STATUS_active base) = true ∧
            t.dev.get (Reg.GRAN_TEST_STATUS_region base) = n ∧
            (∀ k < 4096, t.dev.mem.read (saveBase b + k) = d.mem.read (granRegion b n + k) ∧ t.dev.mem.read (granRegion b n + k) = 0) ∧
            (∀ k < 0x1800000, t.dev.mem.read (t.dev.granAt (granBase b + k)) = d.mem.read (granBase b + k)))) ∧
      (d.on (Reg.GRAN_TEST_STATUS_active base) = false ∨ d.halted = true → d.noc.waiting = [] → d.host.waits = [] → d.pwr.resetWait = [] →
        exec (.granTestEnd b badRows badSpares) s = .next s) ∧
      (d.on (Reg.GRAN_TEST_STATUS_active base) = true → d.halted = false → d.noc.waiting = [] → d.host.waits = [] →
        d.pwr.resetWait = [] →
        let n := d.get (Reg.GRAN_TEST_STATUS_region base)
        goes (.granTestEnd b badRows badSpares) (fun t => t.dev.on (Reg.GRAN_TEST_STATUS_active base) = false ∧
          t.dev.get (Reg.GRAN_TEST_STATUS_region base) = (if n = 6143 then 0 else (n + 1) % 8192) ∧
          t.dev.scrub.testEnd.get b 0 = d.now + 1 ∧
          (d.mem.wf = true → n < 6144 → ∀ k < 4096, t.dev.mem.read (granRegion b n + k) = d.mem.read (saveBase b + k)) ∧
          (n = 6143 → t.dev.get (Reg.GRAN_TEST_STATUS_laps base) =
            (d.get (Reg.GRAN_TEST_STATUS_laps base) + 1) % 2 ^ (Reg.GRAN_TEST_STATUS_laps base).w) ∧
          (∀ j sp : Nat, badRows = [j] → sp < 4 →
            let row := b.val * 49152 + n * 8 + j
            sp ∉ d.sparesUsed row → sp ∉ badSpares → (∀ q < sp, q ∈ d.sparesUsed row ∨ q ∈ badSpares) →
            4 * row + sp ∈ t.dev.scrub.remaps ∧ t.dev.get (Reg.GRAN_REPAIRS_remapped base) = up (Reg.GRAN_REPAIRS_remapped base))))) ∧
    (∀ row : Nat, (∀ j ∈ [0, 1, 2, 3], j ∈ d.sparesUsed row ∨ j ∈ badSpares) →
      d.granRemap b row badSpares =
        ((d.set (Reg.GRAN_SPARE_exhausted base (row / 512 % 96)) 1).bump (Reg.GRAN_REPAIRS_no_spare base)).errAt base 0 2 0x0E03
          (granBase b + row % 49152 * 512)) ∧
    (s.reaches who (Reg.GLEAN_CTL die) →
      (d.get (Reg.GLEAN_CTL_golden_en die) = bits v 1 1 ∨ d.on Reg.CFG_STATUS_design_loaded = false →
        ∃ t, exec (.gleanCtlWrite who die 0 v) s = .next t ∧ t.dev.get (Reg.GLEAN_CTL_pause die) = bits v 0 1 ∧
          t.dev.get (Reg.GLEAN_CTL_golden_en die) = bits v 1 1 ∧ t.dev.get (Reg.GLEAN_CTL_ue_freeze die) = bits v 2 1) ∧
      (d.get (Reg.GLEAN_CTL_golden_en die) ≠ bits v 1 1 → d.on Reg.CFG_STATUS_design_loaded = true →
        ∃ t, exec (.gleanCtlWrite who die 0 v) s = .next t ∧ t.dev.on (Reg.GLEAN_STATUS_cmd_refused die) = true ∧
          t.dev.get (Reg.GLEAN_CTL_golden_en die) = d.get (Reg.GLEAN_CTL_golden_en die))) ∧
    (s.reaches who (Reg.GLEAN_GOLDEN_LO die) → exec (.gleanCtlWrite who die 1 v) s = .next (s.withDev
      (if d.on Reg.CFG_STATUS_design_loaded then d.set (Reg.GLEAN_STATUS_cmd_refused die) 1
       else d.plainWrite (Reg.GLEAN_GOLDEN_LO die) v))) ∧
    (s.reaches who (Reg.GLEAN_GOLDEN_HI die) → exec (.gleanCtlWrite who die 2 v) s = .next (s.withDev
      (if d.on Reg.CFG_STATUS_design_loaded then d.set (Reg.GLEAN_STATUS_cmd_refused die) 1
       else d.plainWrite (Reg.GLEAN_GOLDEN_HI die) v))) ∧
    (s.reaches who (Reg.GLEAN_UNFREEZE die) →
      ((∀ k : Fin 32, v.getLsbD k = true → d.frozen (fieldAt die k) = false) → exec (.gleanUnfreeze who die v) s = .next s) ∧
      (∀ k : Fin 32, v = 1#32 <<< k.val → d.frozen (fieldAt die k) = true →
        (d.atRest = true → goes (.gleanUnfreeze who die v) (fun t => t.dev.frozen (fieldAt die k) = false ∧ t.dev.mem = d.mem)) ∧
        (d.atRest = false → goes (.gleanUnfreeze who die v) (fun t => t.dev.bacts = d.bacts ++ [.unfreeze (fieldAt die k)] ∧
          t.dev.bit (Reg.GLEAN_UNFREEZE_release die) k = true ∧ t.dev.frozen (fieldAt die k) = true)))) ∧
    (∀ k : Fin 4, s.reaches who (Reg.ERR_BKT_CFG (dieSel i) k) → goes (.errBktCfgWrite who i k.castSucc v) (fun t =>
      t.dev.get (Reg.ERR_BKT_CFG_leak_ms (dieSel i) k) = bits v 0 16 ∧ t.dev.get (Reg.ERR_BKT_CFG_threshold (dieSel i) k) = bits v 16 16 ∧
      t.dev.scrub.leakAt.get (16 * i.val + k.val) 0 = d.now)) ∧
    (s.reaches who (Reg.GLEAN_BKT_CFG die) → goes (.errBktCfgWrite who ⟨die.val, by omega⟩ 4 v) (fun t =>
      t.dev.get (Reg.GLEAN_BKT_CFG_leak_ms die) = bits v 0 16 ∧ t.dev.get (Reg.GLEAN_BKT_CFG_threshold die) = bits v 16 16 ∧
      t.dev.scrub.leakAt.get (16 * die.val + 4) 0 = d.now)) ∧
    (∀ fa : Nat,
      let f := frameField fa
      let c := frameDie fa
      let j := fa / 0x8000 % 32
      let m := d.mark (frameBase fa)
      (m.bad = true → d.critEntry f = none → d.on (Reg.GLEAN_CTL_ue_freeze c) = false → d.on (Reg.GLEAN_CTL_golden_en c) = false →
        c < 12 → d.gleanError fa = ((d.setBit (Reg.GLEAN_CORRUPT_corrupt c) j true).bump (Reg.GLEAN_UE_ue c)).errAt c j 3 0x0D02 fa
          (Config.syndrome m.flips)) ∧
      (m.bad = false → d.critEntry f = none → d.gleanError fa =
        ((d.bump (Reg.GLEAN_CE_count c)).gleanBucket c).fixOrQueue (.rewrite fa) f) ∧
      (∀ k : Nat, m.bad = false → d.critEntry f = some k →
        let e := d.essential fa k (m.flips.headD 0)
        (e.1 = false → d.gleanError fa =
          (((e.2.errAt c j 1 0x0D01 fa (Config.syndrome m.flips)).bump (Reg.GLEAN_CE_count c)).gleanBucket c).fixOrQueue
            (.rewrite fa) f) ∧
        (e.1 = true → d.on (Reg.ERR_CRIT_freeze_first k) = false → d.gleanError fa =
          ((((e.2.bump (Reg.GLEAN_UE_essential c)).errAt c j 2 0x0D03 fa (Config.syndrome m.flips)).bump
            (Reg.GLEAN_CE_count c)).gleanBucket c).fixOrQueue (.rewrite fa) f)) ∧
      (d.atRest = true ∨ d.frozen f = true → ((d.fixOrQueue (.rewrite fa) f).mark (frameBase fa)).flips = m.flips.drop 1) ∧
      (d.atRest = false → d.frozen f = false → d.fixOrQueue (.rewrite fa) f = { d with bacts := withItem d.bacts (.rewrite fa) })) ∧
    (∀ k : Nat, k < 4 →
      let lv := Reg.ERR_BKT_STATUS_level (dieSel i) k
      let limit := max (d.get (Reg.ERR_BKT_CFG_threshold (dieSel i) k)) 1
      (d.get lv < limit → (d.scrubBucket (dieSel i) k).get lv = d.get lv + 1 ∧ (d.scrubBucket (dieSel i) k).errs = d.errs) ∧
      (limit ≤ d.get lv → d.get lv < 65535 → (d.scrubBucket (dieSel i) k).get lv = 0 ∧
        (d.scrubBucket (dieSel i) k).on (Reg.ERR_BKT_STATUS_overflow (dieSel i) k) = true ∧
        (d.scrubBucket (dieSel i) k).errIrq.getLsbD i = true))

/-- Error records (R381 to R384): a record that repeats the newest one of its FIFO is counted into it; another takes the urgent entry
where it is FATAL or worse and that is free, else a place of the 16, else displaces the newest one below FATAL, else is
counted as lost; the urgent entry is read and removed first; the service firmware empties every queue into a log of at most
1,024 records. -/
def Obligations.ErrorRecords : Prop :=
  (∀ (e : ErrDie) (r : ErrRec), e.fifo.length ≤ 16 → (e.raise r).fifo.length ≤ 16) ∧
  (∀ (e : ErrDie) (r x : ErrRec) (l : List ErrRec), e.fifo = l ++ [x] → r.mergesWith x = true →
    e.raise r = { e with fifo := l ++ [{ x with count := min (x.count + 1) 0xFFFFFFFF }] }) ∧
  (∀ (e : ErrDie) (r : ErrRec), (∀ x, e.fifo.getLast? = some x → r.mergesWith x = false) →
    (e.raise r).seq = e.seq + 1 ∧
    (4 ≤ r.severity → e.urgent = none → (e.raise r).fifo = e.fifo ∧ (e.raise r).ovf = 0 ∧
      (e.raise r).urgent.map (fun y => (y.cls, y.severity, y.seq, y.overflow)) = some (r.cls, r.severity, e.seq, e.ovf)) ∧
    (r.severity < 4 → e.fifo.length < 16 → (e.raise r).urgent = e.urgent ∧ (e.raise r).ovf = 0 ∧
      ∃ y, (e.raise r).fifo = e.fifo ++ [y] ∧ (y.cls, y.severity, y.seq, y.overflow) = (r.cls, r.severity, e.seq, e.ovf)) ∧
    (r.severity < 4 → 16 ≤ e.fifo.length → (e.raise r).fifo = e.fifo ∧ (e.raise r).urgent = e.urgent ∧
      (e.raise r).ovf = min (e.ovf + 1) 0xFFFF) ∧
    (4 ≤ r.severity → e.urgent ≠ none → 16 ≤ e.fifo.length → (∀ x ∈ e.fifo, 4 ≤ x.severity) →
      (e.raise r).fifo = e.fifo ∧ (e.raise r).ovf = min (e.ovf + 1) 0xFFFF)) ∧
  (∀ (g : ErrLog) (r : ErrRec), g.entries.length ≤ 1024 →
    (g.add r).entries.length ≤ 1024 ∧ (g.add r).entries.getLast? = some { r with logIndex := g.next } ∧
    (g.add r).next = (g.next + 1) % 2 ^ 32) ∧
  (∀ (s : State) (who : Who) (i : Fin 16),
    let d := s.dev
    (s.reaches who (Reg.ERR_FIFO_POP (dieSel i)) → ∃ t, exec (.errFifoPop who i) s = .next t ∧
      (∀ u, (d.errDie i).urgent = some u → (t.dev.errDie i).urgent = none ∧ (t.dev.errDie i).fifo = (d.errDie i).fifo) ∧
      ((d.errDie i).urgent = none → (t.dev.errDie i).fifo = (d.errDie i).fifo.drop 1) ∧
      (∀ j : Fin 16, j ≠ i → t.dev.errDie j = d.errDie j) ∧ t.dev.regs = d.regs) ∧
    (s.live = true → d.spState ≠ 3 → exec .errLogPoll s = .next s) ∧
    (s.live = true → d.spState = 3 → ∃ t, exec .errLogPoll s = .next t ∧
      (∀ j : Fin 16, (t.dev.errDie j).fifo = [] ∧ (t.dev.errDie j).urgent = none) ∧ t.dev.errIrq = 0 ∧
      (d.log.entries.length ≤ 1024 → t.dev.log.entries.length ≤ 1024)))

/-- The integrity halt (R387, R388, Table 11.9): it stops the pacer with cause 9, drives CFG_ERR_N, ends a stream, clears every key slot
and the caches of protected memory, and sends every link to HALTED; a halt while halted is only counted; ERR_HALT_CLR clears the
cause and leaves the device halted. -/
def Obligations.IntegrityHalt : Prop :=
  (∀ (d : Dev) (cls die unit address : Nat) (flags : BitVec 8),
    let e := d.integrityHalt cls die unit address flags
    (d.halted = true → e = d.bump Reg.ERR_HALT_STATUS_halt_count) ∧
    (d.halted = false → e.halted = true ∧ e.sec.keys = [] ∧ e.msec.cache = [] ∧ e.cfg.errDrive = true ∧
      e.cfg.started = false ∧ e.mem = d.mem ∧
      (∀ n : Fin 192, e.linkState n = 5) ∧
      (∀ n : Fin 192, d.laneState n ≠ 4 → e.laneState n = 6) ∧
      (∀ n : Fin 192, d.laneState n = 4 → e.laneState n = 4 ∧ (e.lanes.get n {}).haltDue = true) ∧
      (d.on Reg.ERR_HALT_STATUS_cause_valid = false → cls < 65536 →
        e.on Reg.ERR_HALT_STATUS_cause_valid = true ∧ e.get Reg.ERR_HALT_CAUSE_class = cls))) ∧
  (∀ (s : State) (who : Who), s.reaches who Reg.ERR_HALT_CLR → ∃ t, exec (.errHaltClr who) s = .next t ∧
    t.dev.halted = s.dev.halted ∧ t.dev.on Reg.ERR_HALT_STATUS_cause_valid = false ∧
    t.dev.get Reg.ERR_HALT_STATUS_halt_count = 0 ∧ t.dev.rdWord Reg.ERR_HALT_CAUSE = 0 ∧ t.dev.mem = s.dev.mem)

/-! ### Resets (chapters 12 and 14) -/

/-- Resets (R395, R400, R426, R442, R446, R470, R471, R473). Power or PORST_N clears everything but what no reset touches; SYSRST_N keeps
the error records, the log and the straps, and ends a halt; either pin holds the device until both are high; on leaving
reset the compute dies are held, the base dies are not, and the tamper enables come from the fuses. A die whose bit of
PWR_DIE_RESET turns 1 is put into reset; a per-field reset acts on its field at once while the design rests, else at the next
boundary. That power-on leaves PORST_N low until its release is the model's choice. -/
def Obligations.Resets : Prop :=
  ∀ (s : State) (who : Who) (mode role : Fin 4) (tamperPin : Bool) (i : Fin 16) (f : Fin 384),
    let d := s.dev
    (∀ c : Instr, c = .powerOn ∨ c = .porstNAssert → ∃ t, exec c s = .next t ∧ t.live = false ∧ t.dev.pwr.porst = false ∧
      t.dev.regs = [] ∧ t.dev.mem = [] ∧ t.dev.tiles = [] ∧ t.dev.errs = [] ∧ t.dev.log = {} ∧ t.dev.sec.keys = [] ∧
      t.dev.dbg = {} ∧ t.dev.boot = {} ∧ t.dev.host.mem = d.host.mem ∧ t.fuses = s.fuses ∧ t.pending = s.pending) ∧
    (d.pwr.porst = true → ∃ t, exec .sysrstNAssert s = .next t ∧ t.live = false ∧ t.dev.pwr.porst = true ∧
      t.dev.errs = d.errs ∧ t.dev.log = d.log ∧ t.dev.dbg = d.dbg ∧ t.dev.boot.mode = d.boot.mode ∧ t.dev.boot.role = d.boot.role ∧
      t.dev.halted = false ∧ t.dev.rdWord Reg.ERR_HALT_CAUSE = d.rdWord Reg.ERR_HALT_CAUSE ∧
      t.dev.mem = [] ∧ t.dev.tiles = [] ∧ t.dev.sec.keys = [] ∧ t.dev.rdWord Reg.CFG_STATUS = resetWord Reg.CFG_STATUS) ∧
    (d.pwr.porst = false → ∃ t, exec .sysrstNAssert s = .next t ∧ t.live = false ∧ t.dev.pwr.sysrst = false ∧ t.dev.boot = d.boot) ∧
    (d.pwr.porst = true → exec (.porstNRelease mode role tamperPin) s = .next s) ∧
    (d.pwr.porst = false → d.pwr.sysrst = false → ∃ t, exec (.porstNRelease mode role tamperPin) s = .next t ∧
      t.live = false ∧ t.dev.boot.mode = mode ∧ t.dev.boot.role = role) ∧
    (d.pwr.porst = false → d.pwr.sysrst = true → ∃ t, exec (.porstNRelease mode role tamperPin) s = .next t ∧ t.live = true ∧
      t.dev.boot.mode = mode ∧ t.dev.boot.role = role ∧ t.fuses = s.fuses) ∧
    (d.pwr.sysrst = false → d.pwr.porst = true → ∃ t, exec (.sysrstNRelease tamperPin) s = .next t ∧ t.live = true ∧
      t.dev.boot.mode = d.boot.mode ∧ t.dev.boot.role = d.boot.role) ∧
    (d.pwr.sysrst = false → d.pwr.porst = false → ∃ t, exec (.sysrstNRelease tamperPin) s = .next t ∧ t.live = false ∧
      t.dev.pwr.sysrst = true ∧ t.dev.boot = d.boot) ∧
    (d.pwr.porst = false → d.pwr.sysrst = true → tamperPin = true → mode ≠ 2 →
      ∃ t, exec (.porstNRelease mode role tamperPin) s = .next t ∧ t.live = true ∧ t.dev.boot.mode = mode ∧
        t.dev.boot.role = role ∧ (∀ c : Fin 12, t.dev.heldDie c = true) ∧ (∀ b : Fin 4, t.dev.heldDie (baseSel b) = false) ∧
        t.dev.get Reg.SEC_TAMPER_EN_enable = s.fuses.tamper.toNat % 32) ∧
    (d.pwr.sysrst = true → exec (.sysrstNRelease tamperPin) s = .next s) ∧
    (d.pwr.sysrst = false → d.pwr.porst = true → tamperPin = true → d.boot.mode ≠ 2 →
      ∃ t, exec (.sysrstNRelease tamperPin) s = .next t ∧ t.live = true ∧ t.dev.boot = d.boot ∧
        (∀ c : Fin 12, t.dev.heldDie c = true) ∧ (∀ b : Fin 4, t.dev.heldDie (baseSel b) = false) ∧
        t.dev.get Reg.SEC_TAMPER_EN_enable = s.fuses.tamper.toNat % 32) ∧
    (s.reaches who Reg.PWR_DIE_RESET →
      let mine (k : Fin 16) : Prop := k = i ∨ (12 ≤ i.val ∧ k.val < 12 ∧ baseOf k = i.val - 12)
      (∀ k : Fin 16, ¬ mine k → d.pwr.held.getLsbD k = d.resetBit k) →
      (d.pwr.held.getLsbD i = true → (∀ k : Fin 16, mine k → d.pwr.held.getLsbD k = true) →
        ∃ t, exec (.perDieReset who i) s = .next t ∧ t.dev.resetBit i = true ∧ t.dev.pwr.held = d.pwr.held ∧ t.dev.mem = d.mem) ∧
      (i.val < 12 → d.pwr.held.getLsbD i = false → ∃ t, exec (.perDieReset who i) s = .next t ∧ t.dev.resetBit i = true ∧
        t.dev.pwr.held = d.pwr.held ||| (1#16 <<< i.val) ∧ t.dev.pwr.heldAt.get i 0 = d.now + 1 ∧
        (∀ k : Fin 32, t.dev.part (fieldAt i k) = false)) ∧
      (12 ≤ i.val → d.pwr.held.getLsbD i = false → (∀ k : Fin 16, mine k → d.pwr.held.getLsbD k = d.resetBit k) →
        (d.on (Reg.GRAN_TEST_STATUS_active (dieSel i)) = true → ∃ t, exec (.perDieReset who i) s = .next t ∧ t.dev.resetBit i = true ∧
          t.dev.pwr.held = d.pwr.held ∧ i.val ∈ t.dev.pwr.resetWait) ∧
        (d.on (Reg.GRAN_TEST_STATUS_active (dieSel i)) = false → ∃ t, exec (.perDieReset who i) s = .next t ∧ t.dev.resetBit i = true ∧
          (∀ k : Fin 16, t.dev.pwr.held.getLsbD k = (d.pwr.held.getLsbD k || decide (k = i) ||
            decide (k.val < 12 ∧ baseOf k = i.val - 12))) ∧
          (∀ n : Fin 48, t.dev.link (48 * (i.val - 12) + n) = {} ∧ (d.halted = false → t.dev.lane (48 * (i.val - 12) + n) = {})) ∧
          t.dev.rdWord (Reg.HBM_MAP_CTL (dieSel i)) = d.rdWord (Reg.HBM_MAP_CTL (dieSel i)) ∧
          t.dev.rdWord (Reg.LCH_CTL (dieSel i)) = d.rdWord (Reg.LCH_CTL (dieSel i)))) ∧
      (d.pwr.held.getLsbD i = false → (∀ k : Fin 16, mine k → k ≠ i → d.pwr.held.getLsbD k = d.resetBit k) →
        ∃ t, exec (.perDieResetRelease who i) s = .next t ∧ t.dev.resetBit i = false ∧ t.dev.pwr.held = d.pwr.held ∧ t.dev.mem = d.mem) ∧
      (i.val < 12 → d.pwr.held.getLsbD i = true →
        (d.bit Reg.PWR_START_started i = false ∨ d.heldDie (baseSel (baseOf i)) = true →
          ∃ t, exec (.perDieResetRelease who i) s = .next t ∧ t.dev.resetBit i = false ∧ t.dev.pwr.held = d.pwr.held) ∧
        (d.bit Reg.PWR_START_started i = true → d.heldDie (baseSel (baseOf i)) = false →
          (d.since (d.pwr.heldAt.get i 0) 1 = true → ∃ t, exec (.perDieResetRelease who i) s = .next t ∧ t.dev.resetBit i = false ∧
            t.dev.pwr.held = d.pwr.held &&& ~~~(1#16 <<< i.val) ∧ t.dev.pwr.wokeAt.get i 0 = d.now + 1) ∧
          (d.since (d.pwr.heldAt.get i 0) 1 = false → ∃ t, exec (.perDieResetRelease who i) s = .next t ∧ t.dev.resetBit i = false ∧
            t.dev.pwr.held = d.pwr.held ∧ i.val ∈ t.dev.pwr.releaseDue))) ∧
      (12 ≤ i.val → d.pwr.held.getLsbD i = true → (∀ k : Fin 16, mine k → d.pwr.held.getLsbD k = true) → d.since (d.pwr.heldAt.get i 0) 1 = true →
        ∃ t, exec (.perDieResetRelease who i) s = .next t ∧ t.dev.resetBit i = false ∧ ∀ k : Fin 16, t.dev.pwr.held.getLsbD k =
          if k = i then false
          else if k.val < 12 ∧ baseOf k = i.val - 12 ∧ d.bit Reg.PWR_START_started k = true ∧ d.resetBit k = false ∧
            d.since (d.pwr.heldAt.get k 0) 1 = true then false
          else d.pwr.held.getLsbD k)) ∧
    (∀ v : Word, d.dieResetWrite v = each (List.range 16) (fun k e => if e.resetBit k then e.hold k else e.release k)
      (d.wrWord Reg.PWR_DIE_RESET (v &&& 0x000F0FFF#32))) ∧
    (d.pwr.held.getLsbD i = true → d.hold i = d) ∧
    (i.val < 12 → d.pwr.held.getLsbD i = false → (d.hold i).pwr.held = d.pwr.held ||| (1#16 <<< i.val) ∧
      (∀ k : Fin 32, (d.hold i).part (fieldAt i k) = false)) ∧
    (12 ≤ i.val → d.pwr.held.getLsbD i = false → d.hold i =
      if d.on (Reg.GRAN_TEST_STATUS_active (dieSel i)) then { d with pwr := { d.pwr with resetWait := withItem d.pwr.resetWait i } }
      else d.holdBase (i.val - 12)) ∧
    (d.resetBit i = true ∨ d.pwr.held.getLsbD i = false → d.release i = d) ∧
    (i.val < 12 → d.pwr.held.getLsbD i = true → d.resetBit i = false →
      (d.bit Reg.PWR_START_started i = false ∨ d.heldDie (baseSel (baseOf i)) = true → d.release i = d) ∧
      (d.bit Reg.PWR_START_started i = true → d.heldDie (baseSel (baseOf i)) = false → d.since (d.pwr.heldAt.get i 0) 1 = true →
        (d.release i).pwr.held = d.pwr.held &&& ~~~(1#16 <<< i.val) ∧ (d.release i).pwr.wokeAt = d.pwr.wokeAt.put i (d.now + 1) 0)) ∧
    (s.reaches who (Reg.PWR_FLD_RESET (dieOf f)) →
      (d.atRest = true → ∃ t, exec (.perFieldReset who f) s = .next t ∧ t.dev.mem = d.mem ∧
        t.dev.bit (Reg.PWR_FLD_RESET_reset (dieOf f)) (idxOf f) = false ∧
        (∀ k m : Nat, k < 1024 → m < 128 → t.dev.fab.force.get ((f.val * 1024 + k) * 128 + m) false = false ∧
          (m < 44 → ∀ a < 128, t.dev.fab.wreg.get (((f.val * 1024 + k) * 64 + m) * 128 + a) false = false))) ∧
      (d.atRest = false → ∃ t, exec (.perFieldReset who f) s = .next t ∧ t.dev.bacts = d.bacts ++ [.fieldReset f] ∧
        t.dev.bit (Reg.PWR_FLD_RESET_reset (dieOf f)) (idxOf f) = true ∧ t.dev.fab = d.fab ∧ t.dev.mem = d.mem)) ∧
    (∀ k m : Nat, k < 1024 → m < 128 → (d.fieldReset f).fab.force.get ((f.val * 1024 + k) * 128 + m) false = false ∧
      (m < 44 → ∀ a < 128, (d.fieldReset f).fab.wreg.get (((f.val * 1024 + k) * 64 + m) * 128 + a) false = false)) ∧
    (d.fieldReset f).mem = d.mem

/-! ### The boot ROM, the host port and mailboxes (chapter 12) -/

/-- The boot ROM and the host port (R395 to R397, R400, R401, R412, R420): an image that a check refuses ends the attempt with the cause
of that check; one that passes goes to service-processor memory and starts core 0 at its entry; firmware that reports ready locks the
partitions that the fuses give; a host reset clears the host port and every mailbox and leaves the service processor running; an access
through BAR2 goes to the staging area, or to the window, where an error reads as ones. The image header's layout is not in the spec (log
entry 158). -/
def Obligations.BootAndHostPort : Prop :=
  ∀ (s : State) (flash : Option (List Byte)) (address : BitVec 48) (o : BitVec 36) (n : Nat) (l : List Byte) (us : List Upset),
    s.live = true →
    let d := s.dev
    let up := d.linkedUp
    let open_ := d.boot.attempt = true ∧ d.boot.started = false ∧ d.spState ≠ 5
    let given := d.boot.mode = 1 → d.boot.doorbell = true
    let src : Option (List Byte) :=
      if d.boot.mode = 2 then d.controlImage
      else if d.boot.mode = 1 ∨ d.boot.doorbell = true then
        (if d.boot.staging = [] then none else some (Memory.readBytes d.boot.staging 0 0x200000))
      else flash
    let fails (t : State) (cause : Nat) : Prop := t.dev.spState = 4 ∧ t.dev.get Reg.ID_BOOT_CAUSE_cause = cause ∧
      t.dev.boot.attempt = false ∧ t.dev.boot.started = false ∧ t.dev.mem = d.mem
    (∀ cause : Nat, cause < 16 → (d.bootFail cause).spState = 4 ∧ (d.bootFail cause).get Reg.ID_BOOT_CAUSE_cause = cause ∧
      (d.bootFail cause).boot.attempt = false) ∧
    (d.staging = false → exec .idBootDoorbell s = .next s) ∧
    (d.staging = true → ∃ t, exec .idBootDoorbell s = .next t ∧ t.dev.spState = 2 ∧ t.dev.boot.attempt = true ∧
      t.dev.boot.doorbell = true ∧ t.dev.mem = d.mem) ∧
    (¬ open_ → exec .bootSourceTimeout s = .next s) ∧
    (¬ (open_ ∧ given) → exec (.imageVerified flash) s = .next s) ∧
    (open_ → ∃ t, exec .bootSourceTimeout s = .next t ∧ fails t 5) ∧
    (open_ → given → ∃ t, exec (.imageVerified flash) s = .next t ∧
      match src with
      | none => fails t 1
      | some l =>
        let h := Config.imageHeader (slice l 0 256)
        (h.magic ≠ 0x53504657 ∨ h.length < 256 ∨ 0x200000 < h.length + 96 ∨ l.length < h.length + 96 → fails t 2) ∧
        (h.magic = 0x53504657 → 256 ≤ h.length → h.length + 96 ≤ 0x200000 → h.length + 96 ≤ l.length →
          let good := Config.sha384 h.key = Config.bootHash ∧
            Config.ecdsaVerify h.key (Config.sha384 (slice l 0 h.length)) (slice l h.length 96) = true
          (¬ good → fails t 3) ∧
          (good → h.security < s.fuses.secVersion → fails t 4) ∧
          (good → s.fuses.secVersion ≤ h.security → t.dev.boot.started = true ∧ t.dev.boot.attempt = false ∧
            t.dev.boot.version = h.version ∧ (t.dev.core 0).pc = BitVec.ofNat 32 h.entry ∧ (t.dev.core 0).running = true ∧
            t.dev.spState = d.spState ∧ t.dev.mem = Memory.writeBytes d.mem 0x7000000000 (slice l 0 (h.length + 96))))) ∧
    (d.boot.started = false ∨ d.spState = 3 ∨ d.spState = 5 → exec .firmwareReady s = .next s) ∧
    (d.boot.started = true → d.spState ≠ 3 → d.spState ≠ 5 → ∃ t, exec .firmwareReady s = .next t ∧ t.dev.spState = 3 ∧
      t.dev.on Reg.SEC_LOCK_lock = true ∧ t.dev.rdWord Reg.ID_FW_VERSION = d.boot.version &&& 0x00FFFFFF#32 ∧
      (∀ b : Fin 4, t.dev.get (Reg.SEC_GRAN_WORLD_partition_mb b) = s.fuses.partition.toNat % 16) ∧
      (∀ c : Fin 4, c ≠ 0 → (t.dev.core c).running = true)) ∧
    (∃ t, exec (.spMemUe address) s = .next t ∧ t.dev.spState = 5 ∧ t.dev.mem = d.mem) ∧
    (∃ t, exec .hostLinkDown s = .next t ∧ t.dev.host = { d.host with linkUp := false } ∧ t.dev.regs = d.regs ∧ t.dev.mem = d.mem) ∧
    (∀ c : Instr, c = .pePerstN ∨ c = .functionLevelReset → ∃ t, exec c s = .next t ∧
      t.dev.host.window = 0 ∧ t.dev.host.pendingBits = 0 ∧ t.dev.host.mem = d.host.mem ∧ (∀ m : Fin 16, t.dev.on (Reg.MB_CTL_enable m) = false) ∧
      t.dev.get Reg.ID_EVENTS_pending = 0 ∧ t.dev.get Reg.ID_HEARTBEAT_count = 0) ∧
    (d.spState ≠ 3 → exec .heartbeat s = .next s) ∧
    (d.spState = 3 → ∃ t, exec .heartbeat s = .next t ∧
      t.dev.get Reg.ID_HEARTBEAT_count = (d.get Reg.ID_HEARTBEAT_count + 1) % 2 ^ 32 ∧ t.dev.mem = d.mem) ∧
    (d.staging = true → o.toNat + n ≤ 0x200000 →
      exec (.bar2Access o n (some l) us) s = .next (s.withDev
        { up with boot := { d.boot with staging := Memory.writeBytes d.boot.staging o.toNat (l.take n) } }) ∧
      exec (.bar2Access o n none us) s = .next (s.withDev
        { up with host := { up.host with lastRead := Memory.readBytes d.boot.staging o.toNat n } })) ∧
    (d.staging = false → us = [] → d.on (Reg.NOC_STAT_CTL_en 16 20) = false →
      let a := d.host.window + o.toNat
      (placeOf a = none → 0 < n → n ≤ 64 - a % 64 → d.heldDie 16 = false → ∃ t, exec (.bar2Access o n none us) s = .next t ∧
        t.dev.host.lastRead = List.replicate n 0xFF#8 ∧ t.dev.host.faultPage = some (a / 0x1000) ∧ t.dev.mem = d.mem) ∧
      (∀ b off : Nat, placeOf a = some (.gran b off) → 0 < n → n ≤ 64 - a % 64 → d.heldDie 16 = false →
        d.heldDie (baseSel b) = false → d.worldBad false a = false → d.wipeGate a (.gran b off) = none →
        16 * b + off / 0x180000 ∉ d.sec.zeroing → d.asleep (retGran b (off / 0x180000)) = false →
        (∀ w ∈ granWords a n, d.granMark w = {}) →
        (∃ t, exec (.bar2Access o n none us) s = .next t ∧ t.dev.host.faultPage = none ∧ t.dev.mem = d.mem ∧ t.dev.errs = d.errs ∧
          t.dev.host.lastRead = (List.range n).map (fun i => d.mem.read (d.granAt (a + i)))) ∧
        (l.length = n → d.dirAt (a / 64 * 64) = none → ∃ t, exec (.bar2Access o n (some l) us) s = .next t ∧
          t.dev.host.faultPage = none ∧ t.dev.errs = d.errs ∧
          t.dev.mem = (d.granPut a (l.map (fun b => (b, true)))).mem))) ∧
    (∀ (r : List Byte) (e : Dev), d.staging = false →
      (up.busReadN s.fuses .host (d.host.window + o.toNat) n us = (.ok r, e) → exec (.bar2Access o n none us) s =
        .next (s.withDev { e with host := { e.host with faultPage := none, lastRead := r } })) ∧
      (up.busReadN s.fuses .host (d.host.window + o.toNat) n us = (.err, e) → ∃ t, exec (.bar2Access o n none us) s = .next t ∧
        t.dev.host.lastRead = List.replicate n 0xFF#8 ∧ t.dev.mem = e.mem ∧
        (e.host.faultPage = some ((d.host.window + o.toNat) / 0x1000) → t.dev.errs = e.errs)) ∧
      (up.busReadN s.fuses .host (d.host.window + o.toNat) n us = (.wait, e) → ∃ t, exec (.bar2Access o n none us) s = .next t ∧
        t.dev.host.lastRead = e.host.lastRead ∧ t.dev.mem = e.mem ∧ t.dev.errs = e.errs) ∧
      (up.busWriteN s.fuses .host (d.host.window + o.toNat) (l.take n) us = (.ok r, e) →
        exec (.bar2Access o n (some l) us) s = .next (s.withDev { e with host := { e.host with faultPage := none } })))

/-- Mailboxes (R402 to R405, R408, R410): a doorbell beyond the ring is an error that stops the mailbox; a good entry moves the head by one
and waits in order; a failed read is a DMA error; the host's head lets held responses go; enabling returns all four indices to 0;
disabling mutes what was fetched; a held interrupt goes out when its spacing ends; a long command whose wait is over
answers its last response, and one that waits counts a step. -/
def Obligations.MailboxRings : Prop :=
  ∀ (s : State) (m : Fin 16) (tail head : BitVec 16) (h : HostMem) (l : List Byte) (v : Word) (done : Bool) (k : Fin 17),
    s.live = true →
    let d := s.dev
    let e := d.hostTake h
    let b := d.mb m
    let size := ringSize (d.get (Reg.MB_CMD_SIZE_log2 m))
    let at_ := d.get (Reg.MB_CMD_HEAD_head m)
    let entry := d.get (Reg.MB_CMD_BASE_LO_base m) + d.get (Reg.MB_CMD_BASE_HI_base m) * 2 ^ 32 + at_ % size * 64
    let held := ringHeld tail.toNat at_
    let quiet := d.on (Reg.MB_CTL_enable m) = false ∨ d.on (Reg.MB_STATUS_error m) = true
    let stored (t : State) : Prop := t.dev.host.mem = h.stores.foldl (fun (g : Memory) (x : Nat × List Byte) => g.writeBytes x.1 x.2) d.host.mem
    let rsize := ringSize (d.get (Reg.MB_RSP_SIZE_log2 m))
    let rtail := d.get (Reg.MB_RSP_TAIL_tail m)
    let rsp := d.get (Reg.MB_RSP_BASE_LO_base m) + d.get (Reg.MB_RSP_BASE_HI_base m) * 2 ^ 32 + rtail % rsize * 32
    (quiet → ∃ t, exec (.mbCmdTail m tail h) s = .next t ∧ t.dev.get (Reg.MB_CMD_TAIL_tail m) = tail.toNat ∧ stored t ∧
      t.dev.mbs = d.mbs ∧ t.dev.get (Reg.MB_CMD_HEAD_head m) = at_) ∧
    (¬ quiet → size < held → ∃ t, exec (.mbCmdTail m tail h) s = .next t ∧ t.dev.on (Reg.MB_STATUS_error m) = true ∧
      t.dev.get (Reg.MB_STATUS_cause m) = 1 ∧ t.dev.mb m = b ∧ t.dev.get (Reg.MB_CMD_HEAD_head m) = at_) ∧
    (¬ quiet → held ≤ size → (e.set (Reg.MB_CMD_TAIL_tail m) tail.toNat).mayFetch m = false →
      ∃ t, exec (.mbCmdTail m tail h) s = .next t ∧ t.dev.get (Reg.MB_CMD_TAIL_tail m) = tail.toNat ∧ stored t ∧ t.dev.mbs = d.mbs ∧
        t.dev.get (Reg.MB_CMD_HEAD_head m) = at_) ∧
    (¬ quiet → held = 1 → (e.set (Reg.MB_CMD_TAIL_tail m) tail.toNat).mayFetch m = true →
      (e.hostRead entry 64 = some l → ∃ t, exec (.mbCmdTail m tail h) s = .next t ∧ stored t ∧
        t.dev.get (Reg.MB_CMD_TAIL_tail m) = tail.toNat ∧ t.dev.get (Reg.MB_CMD_HEAD_head m) = (at_ + 1) % 65536 ∧
        (t.dev.mb m).fetched = b.fetched ++ [{ descOf l d.leads with busy := (descOf l d.leads).long && decide (4 ≤ b.longs) }]) ∧
      (e.hostRead entry 64 = none → ∃ t, exec (.mbCmdTail m tail h) s = .next t ∧ t.dev.on (Reg.MB_STATUS_error m) = true ∧
        t.dev.get (Reg.MB_STATUS_cause m) = 2 ∧ t.dev.mb m = b ∧ t.dev.get (Reg.MB_CMD_HEAD_head m) = at_)) ∧
    (∀ j : Nat, (d.mayFetch m = false → d.fetch m (j + 1) = d) ∧
      (d.mayFetch m = true → d.hostRead entry 64 = some l → d.fetch m (j + 1) =
        ((d.set (Reg.MB_CMD_HEAD_head m) ((at_ + 1) % 65536)).setMb m { b with
          fetched := b.fetched ++ [{ descOf l d.leads with busy := (descOf l d.leads).long && decide (4 ≤ b.longs) }] }).fetch m j)) ∧
    (let f := e.set (Reg.MB_RSP_HEAD_head m) head.toNat
     (b.held = [] → f.mayFetch m = false → ∃ t, exec (.mbRspHead m head h) s = .next t ∧ stored t ∧
       t.dev.get (Reg.MB_RSP_HEAD_head m) = head.toNat ∧ t.dev.get (Reg.MB_RSP_TAIL_tail m) = rtail ∧ t.dev.mb m = b ∧
       t.dev.get (Reg.MB_CMD_HEAD_head m) = at_) ∧
     (∀ x : Rsp, b.held = [x] → 1 < f.rspFree m → f.hostReaches rsp 32 = true → d.on (Reg.MB_CTL_enable m) = false →
       ∃ t, exec (.mbRspHead m head h) s = .next t ∧ (t.dev.mb m).held = [] ∧ t.dev.get (Reg.MB_RSP_TAIL_tail m) = (rtail + 1) % 65536 ∧
         t.dev.host.mem = Memory.writeBytes e.host.mem rsp (x.bytes (rtail / rsize % 2 == 0))) ∧
     exec (.mbRspHead m head h) s = .next (s.withDev ((f.flushHeld m b.held).fetchAll m))) ∧
    (∀ (x : Rsp) (r : List Rsp), d.flushHeld m (x :: r) =
      if 1 < d.rspFree m then (d.writeRsp m x).flushHeld m r else d.setMb m { b with held := x :: r }) ∧
    (∀ x : Rsp, (d.hostReaches rsp 32 = true →
        (d.writeRsp m x).get (Reg.MB_RSP_TAIL_tail m) = (rtail + 1) % 65536 ∧
        (d.writeRsp m x).host.mem = Memory.writeBytes d.host.mem rsp (x.bytes (rtail / rsize % 2 == 0))) ∧
      (d.hostReaches rsp 32 = false → (d.writeRsp m x).on (Reg.MB_STATUS_error m) = true ∧
        (d.writeRsp m x).get (Reg.MB_STATUS_cause m) = 2 ∧ (d.writeRsp m x).host = d.host)) ∧
    (∀ x : Rsp, d.post m true x = d ∧
      (b.held ≠ [] ∨ d.rspFree m ≤ 1 → x.progress = true → d.post m false x = d) ∧
      (b.held ≠ [] ∨ d.rspFree m ≤ 1 → x.progress = false → d.post m false x = d.setMb m { b with held := b.held ++ [x] }) ∧
      (b.held = [] → 1 < d.rspFree m → d.post m false x = d.writeRsp m x)) ∧
    (∃ t, exec (.mbEnable m v) s = .next t ∧ t.dev.on (Reg.MB_CTL_enable m) = true ∧
      t.dev.get (Reg.MB_CMD_TAIL_tail m) = 0 ∧ t.dev.get (Reg.MB_CMD_HEAD_head m) = 0 ∧
      t.dev.get (Reg.MB_RSP_TAIL_tail m) = 0 ∧ t.dev.get (Reg.MB_RSP_HEAD_head m) = 0 ∧
      (d.on (Reg.MB_CTL_enable m) = false → t.dev.on (Reg.MB_STATUS_error m) = false) ∧ t.dev.mbs = d.mbs) ∧
    (∃ t, exec (.mbDisable m v) s = .next t ∧ t.dev.on (Reg.MB_CTL_enable m) = false ∧
      (d.on (Reg.MB_CTL_enable m) = true → (t.dev.mb m).held = [] ∧ (t.dev.mb m).irqDue = false ∧
        (∀ c ∈ (t.dev.mb m).fetched, c.mute = true))) ∧
    (b.irqDue = false → exec (.mbIrqHoldoffExpiry m) s = .next s) ∧
    (b.irqDue = true →
      let spaced := ∀ t0 ∈ b.irqLast.toList, t0 + d.get (Reg.MB_IRQ_HOLDOFF_us m) * 16000 ≤ d.now
      (spaced → ∃ t, exec (.mbIrqHoldoffExpiry m) s = .next t ∧ (t.dev.mb m).irqDue = false ∧ (t.dev.mb m).irqLast = some d.now ∧
        (d.on (Reg.MSIX_CTL_mask (d.get (Reg.MB_CTL_vector m))) = false →
          t.dev.host.vectors = d.host.vectors ++ [d.get (Reg.MB_CTL_vector m)])) ∧
      (¬ spaced → ∃ t, exec (.mbIrqHoldoffExpiry m) s = .next t ∧ t.dev.mb m = b ∧ t.dev.host = d.host)) ∧
    (d.urgentIrq = 0 →
      let y := d.mb k
      (y.job = none ∨ d.served s.fuses k = false ∨ d.longTurn s.fuses k = false → exec (.longCommandStep k done) s = .next s) ∧
      (∀ j : Job, y.job = some j → d.served s.fuses k = true → d.longTurn s.fuses k = true →
        (j.wait = .none → exec (.longCommandStep k done) s = .next (s.withDev
          (((d.tookTurn s.fuses k).setMb k { y with job := none }).finish k j.desc j.status j.r j.unitKind (j.steps + 1)))) ∧
        (∀ i : Fin 16, k.val = i.val → j.wait = .none → j.desc.mute = false → y.held = [] → 1 < d.rspFree i →
          ∃ t, exec (.longCommandStep k done) s = .next t ∧ (t.dev.mb k).job = none ∧
            (let a := d.get (Reg.MB_RSP_BASE_LO_base i) + d.get (Reg.MB_RSP_BASE_HI_base i) * 2 ^ 32 +
                d.get (Reg.MB_RSP_TAIL_tail i) % ringSize (d.get (Reg.MB_RSP_SIZE_log2 i)) * 32
             d.hostReaches a 32 = true → t.dev.get (Reg.MB_RSP_TAIL_tail i) = (d.get (Reg.MB_RSP_TAIL_tail i) + 1) % 65536 ∧
              t.dev.host.mem = Memory.writeBytes d.host.mem a
                (({ tag := j.desc.tag, irq := j.desc.irq, status := j.status, unitKind := j.unitKind, steps := j.steps + 1, r := j.r } : Rsp).bytes
                (d.get (Reg.MB_RSP_TAIL_tail i) / ringSize (d.get (Reg.MB_RSP_SIZE_log2 i)) % 2 == 0)))) ∧
        (j.wait = .pacerStopped → d.running = true → j.desc.progress = false → ∃ t, exec (.longCommandStep k done) s = .next t ∧
          (t.dev.mb k).job = some { j with steps := j.steps + 1 } ∧ t.dev.regs = d.regs ∧ t.dev.mem = d.mem)) ∧
      (y.fetched = [] → exec (.badOpcode k) s = .next s) ∧
      (∀ (x : Desc) (r : List Desc), y.fetched = x :: r →
        (x.op ∈ longOps ∨ x.op ∈ shortOps ∨ x.op ∈ runOps → exec (.badOpcode k) s = .next s) ∧
        (x.op ∉ longOps → x.op ∉ shortOps → x.op ∉ runOps → d.nextCmd s.fuses k x.op = some x →
          exec (.badOpcode k) s = .next (s.withDev (d.answer k x 0x100 [])) ∧
          (∃ t, exec (.badOpcode k) s = .next t ∧ (t.dev.mb k).fetched = r))))

/-! ### Commands of service firmware 3.2 (chapter 12) -/

/-- What every command of service firmware 3.2 has in common (R383, R394, R406 to R408, R410, R414 to R416): it runs only as the next
command of its mailbox, while the firmware runs, after urgent error records are taken and after short commands of a higher priority; what
fails a check common to all is answered with that check's status, the first that applies of busy, format, world, halt and role; and a long
command first answers STEPPING. A command that finds four long ones queued is answered BUSY. -/
def Obligations.FirmwareCommandChecks : Prop :=
  ∀ (s : State) (m : Fin 17) (tiles : List Nat) (us : List Upset) (h : HostMem) (vcc : Bool),
    let d := s.dev
    let fz := s.fuses
    let first (e : Dev) : Dev := if e.urgentIrq = 0 then e else e.logPoll
    let u := first d
    let v := first (d.hostTake h)
    let short : List (Instr × Nat) :=
      [(.devInfo m, 0x0101), (.devRegRead m, 0x0103), (.devRegWrite m, 0x0104), (.loadOpen m, 0x0201), (.loadStatus m, 0x0204),
       (.loadRestart m, 0x0205), (.runConfig m, 0x0301), (.runStatus m, 0x0306), (.stateForce m, 0x0404), (.stateRelease m, 0x0405),
       (.captureTrigger m, 0x0502), (.captureStatus m, 0x0503), (.captureClose m, 0x0505), (.memWindow m, 0x0601),
       (.linkDownCmd m, 0x0702), (.linkStatus m, 0x0703), (.linkActivate m, 0x0704), (.linkCtxWrite m, 0x0707),
       (.linkCtxRead m, 0x0708), (.clusterTime m, 0x0804), (.healthLogClear m, 0x0902), (.healthTelemetry m, 0x0903),
       (.healthBudget m, 0x0904), (.healthScrub m, 0x0905), (.healthIrq m, 0x0906), (.healthHalt m, 0x0907),
       (.secKeyClear m, 0x0A02), (.secChallenge m, 0x0A05), (.debugTraceCtl m, 0x0B02)]
    let long : List (Instr × Nat) :=
      [(.devReset m, 0x0102), (.loadData m, 0x0202), (.loadClose m, 0x0203), (.runWait m, 0x0307), (.stateCheckpoint m, 0x0401),
       (.stateRestore m, 0x0402), (.stateRead m, 0x0403), (.captureOpen m tiles, 0x0501), (.captureRead m, 0x0504),
       (.memRead m us, 0x0602), (.memFill m us, 0x0604), (.memHbmInit m, 0x0605), (.memHbmTrain m, 0x0606), (.memHbmRate m, 0x0607),
       (.memProtect m, 0x0608), (.linkUp m, 0x0701), (.linkPrbs m, 0x0705), (.linkEye m, 0x0706), (.clusterForm m, 0x0801),
       (.clusterMap m, 0x0802), (.clusterDisband m, 0x0805), (.healthLogRead m, 0x0901), (.secWorldSet m, 0x0A03), (.secWipe m, 0x0A07),
       (.debugTraceRead m, 0x0B01)]
    let fed : List (Instr × Nat) :=
      [(.memWrite m h us, 0x0603), (.linkSlots m h, 0x0709), (.clusterRelay m h, 0x0803), (.secKeyInstall m h, 0x0A01),
       (.secLifecycle m h vcc, 0x0A04), (.secUnlock m h vcc, 0x0A06)]
    let runs : List (Instr × Nat) := [(.runStart m, 0x0302), (.runStop m, 0x0303), (.runStep m, 0x0304), (.runStopAt m, 0x0305)]
    (s.live = true → ∀ e ∈ short ++ long ++ runs, u.nextCmd fz m e.2 = none → exec e.1 s = .next (s.withDev u)) ∧
    (s.live = true → ∀ e ∈ fed, v.nextCmd fz m e.2 = none → exec e.1 s = .next (s.withDev v)) ∧
    (s.live = false → ∀ e ∈ short ++ long ++ fed ++ runs, exec e.1 s = .next s) ∧
    (∀ (e : Instr × Nat) (x : Desc) (st : Nat), s.live = true →
      (u.nextCmd fz m e.2 = some x → u.cmdGate fz m x = some st →
        (e ∈ short → exec e.1 s = .next (s.withDev (u.answer m x st []))) ∧
        (e ∈ long → x.busy = true → exec e.1 s = .next (s.withDev (u.answer m x st []))) ∧
        (e ∈ long → x.busy = false → exec e.1 s = .next (s.withDev (u.startJob fz m (refuse x st))))) ∧
      (v.nextCmd fz m e.2 = some x → v.cmdGate fz m x = some st →
        (e ∈ fed → x.busy = true → exec e.1 s = .next (s.withDev (v.answer m x st []))) ∧
        (e ∈ fed → x.busy = false → exec e.1 s = .next (s.withDev (v.startJob fz m (refuse x st)))))) ∧
    (∀ op : Nat, d.spState ≠ 3 → d.nextCmd fz m op = none) ∧
    (∀ (op : Nat) (x : Desc), d.nextCmd fz m op = some x →
      x.op = op ∧ (d.mb m).fetched.head? = some x ∧
      (x.barrier = true → (d.mb m).job = none) ∧ (x.long = true → x.busy = false → (d.mb m).job = none) ∧
      (fz.mbxSecure m = true → d.on Reg.SEC_STATUS_core0_held = false)) ∧
    (∀ (op : Nat) (k : Fin 17), (d.mb m).waits = false → (d.mb k).waits = false → fz.mbxSecure k = fz.mbxSecure m → d.priority m < d.priority k →
      d.priority k ≤ 7 → d.shortReady k = true → d.nextCmd fz m op = none) ∧
    (∀ x : Desc,
      (x.busy = true → d.cmdGate fz m x = some 0x104) ∧
      (x.busy = false → x.rsvd = true → d.cmdGate fz m x = some 0x101) ∧
      (x.busy = false → x.session ≠ 0 → x.op ∉ sessionOps → d.cmdGate fz m x = some 0x101) ∧
      (x.busy = false → x.rsvd = false → x.session = 0 → x.op / 256 = 0x0A → fz.mbxSecure m = false →
        d.cmdGate fz m x = some 0x102) ∧
      (x.busy = false → x.rsvd = false → x.session = 0 → d.halted = true → x.op / 256 ∉ [0x01, 0x09, 0x0A, 0x0B] →
        d.cmdGate fz m x = some 0x300) ∧
      (x.busy = false → x.rsvd = false → x.session = 0 → d.halted = false → x.op / 256 = 3 → d.role = 2 →
        d.cmdGate fz m x = some 0x103) ∧
      (d.cmdGate fz m x = none → x.busy = false)) ∧
    (∀ j : Job,
      ((d.startJob fz m j).mb m).job = some { j with since := d.now } ∧ ((d.startJob fz m j).mb m).fetched = (d.mb m).fetched.drop 1 ∧
      (d.startJob fz m j = (((d.takeCmd m).tookTurn fz m).setMb m { ((d.takeCmd m).tookTurn fz m).mb m with
        job := some { j with since := d.now } }).post m j.desc.mute { tag := j.desc.tag, status := 1, final := false }) ∧
      (d.takeCmd m).mb m = { d.mb m with fetched := (d.mb m).fetched.drop 1, waits := false }) ∧
    (∀ (x : Desc) (st : Nat) (r : List Word), (x.mute = true → d.answer m x st r = d.takeCmd m) ∧
      (x.mute = false → d.answer m x st r =
        (d.takeCmd m).post m false { tag := x.tag, irq := x.irq, status := st, unitKind := 0, steps := 0, r := r }))

/-- The DEV, LOAD and RUN commands (R145, R415, R416, R470, R473, R474, Table 12.9): each with the effect on the device and the answer
of its success, under what it asks for; and the statuses of the refusals that are its own. On a manager a RUN command broadcasts to its
workers; the time and the cycle that it then chooses are free. -/
def Obligations.DevLoadAndRunCommands : Prop :=
  ∀ (s : State) (m : Fin 17) (x : Desc),
    let d := s.dev
    let fz := s.fuses
    let who := mbWho fz m
    let answers (i : Instr) (e : Dev) (st : Nat) (r : List Word) : Prop := exec i s = .next (s.withDev (e.answer m x st r))
    let starts (i : Instr) (e : Dev) (j : Job) : Prop := exec i s = .next (s.withDev (e.startJob fz m j))
    (s.starts m 0x0101 x → answers (.devInfo m) d 0
      [d.rdWord Reg.ID_FW_VERSION, deviceFeatures, d.liveWord fz Reg.ID_STATE, BitVec.ofNat 32 s.fuses.serial.toNat,
       BitVec.ofNat 32 (s.fuses.serial.toNat / 2 ^ 32)]) ∧
    (s.starts m 0x0102 x →
      (x.par 0 1 = 0 → starts (.devReset m) d { desc := x, wait := .warm }) ∧
      (∀ f : Fin 384, x.par 0 1 = 2 → x.par 4 2 = f → d.noField fz m f = false → d.noWorld fz m (Reg.PWR_FLD_RESET (dieOf f)) = false →
        starts (.devReset m) (d.regPut fz who (Reg.PWR_FLD_RESET (dieOf f)) (BitVec.ofNat 32 (2 ^ idxOf f)))
          { desc := x, wait := .fieldReset f }) ∧
      (x.par 0 1 = 2 → 384 ≤ x.par 4 2 → starts (.devReset m) d (refuse x 0x101)) ∧
      (∀ i : Fin 16, x.par 0 1 = 1 → x.par 4 2 = dieSel i → d.noWorld fz m Reg.PWR_DIE_RESET = false →
        starts (.devReset m) (d.regPut fz who Reg.PWR_DIE_RESET (BitVec.ofNat 32 (setBits (d.rdWord Reg.PWR_DIE_RESET) (dieSel i) 1 1).toNat))
          { desc := x, wait := if (d.rdWord Reg.PWR_DIE_RESET).getLsbD (dieSel i) then .none else .dieReset (dieSel i) }) ∧
      (∀ e : Dev, x.par 0 1 = 3 → d.blockReset (x.par 4 1) (x.par 5 1) = some e →
        d.noWorld fz m (x.par 4 1 * 0x1000000 + x.par 5 1 * 0x10000) = false → starts (.devReset m) e { desc := x }) ∧
      (x.par 0 1 = 3 → d.blockReset (x.par 4 1) (x.par 5 1) = none → starts (.devReset m) d (refuse x 0x101)) ∧
      (3 < x.par 0 1 → starts (.devReset m) d (refuse x 0x101))) ∧
    (s.live = true → d.fw.warmAt = none → exec .warmResetDelay s = .next s) ∧
    (∀ t0 : Nat, s.live = true → d.fw.warmAt = some t0 →
      (d.now < t0 + 16000000 → exec .warmResetDelay s = .next s) ∧
      (t0 + 16000000 ≤ d.now → ∃ t, exec .warmResetDelay s = .next t ∧ t.live = true ∧ t.dev.fw.warmAt = none ∧ t.dev.mem = [] ∧
        t.dev.boot.mode = d.boot.mode ∧ (∀ c : Fin 12, t.dev.heldDie c = true) ∧ (∀ b : Fin 4, t.dev.heldDie (baseSel b) = false) ∧
        (d.sec.tamperPin = true → d.boot.mode ≠ 2 → t.dev.errs = d.errs ∧ t.dev.halted = false))) ∧
    (s.starts m 0x0103 x →
      (x.par 0 4 % 4 ≠ 0 → answers (.devRegRead m) d 0x101 []) ∧
      (x.par 0 4 % 4 = 0 → blockPresent (x.par 0 4) = true → d.noWorld fz m (x.par 0 4) = true → answers (.devRegRead m) d 0x102 []) ∧
      (x.par 0 4 % 4 = 0 → d.regGate who (x.par 0 4) = (none, d) →
        answers (.devRegRead m) (d.regRead fz (x.par 0 4)).2 0 [(d.regRead fz (x.par 0 4)).1]) ∧
      (x.par 0 4 % 4 = 0 → d.regGate who (x.par 0 4) = (some false, d) → answers (.devRegRead m) d 0 [0]) ∧
      (x.par 0 4 % 4 = 0 → blockPresent (x.par 0 4) = false →
        ∃ (w : Word) (e : Dev), answers (.devRegRead m) e 0x201 [w] ∧ e.mem = d.mem)) ∧
    (s.starts m 0x0104 x →
      (x.par 0 4 % 4 ≠ 0 → answers (.devRegWrite m) d 0x101 []) ∧
      (x.par 0 4 % 4 = 0 → blockPresent (x.par 0 4) = true → d.noWorld fz m (x.par 0 4) = true → answers (.devRegWrite m) d 0x102 []) ∧
      (x.par 0 4 % 4 = 0 → d.regGate who (x.par 0 4) = (none, d) →
        answers (.devRegWrite m) (d.regWrite fz who (x.par 0 4) (BitVec.ofNat 32 (x.par 4 4))) 0 []) ∧
      (x.par 0 4 % 4 = 0 → d.regGate who (x.par 0 4) = (some false, d) → answers (.devRegWrite m) d 0 []) ∧
      (x.par 0 4 % 4 = 0 → blockPresent (x.par 0 4) = false →
        ∃ (w : Word) (e : Dev), answers (.devRegWrite m) e 0x201 [w] ∧ e.mem = d.mem)) ∧
    (s.starts m 0x0201 x →
      (3 < x.par 0 1 → answers (.loadOpen m) d 0x101 []) ∧
      (x.par 0 1 = 1 → d.role ≠ 1 → answers (.loadOpen m) d 0x103 []) ∧
      (x.par 0 1 ≤ 3 → (x.par 0 1 = 1 → d.role = 1) →
        (d.loadOpen = true → answers (.loadOpen m) d 0x105 []) ∧
        (d.loadOpen = false → d.heldBy (fun j => j.desc.op == 0x0402) = false → d.noWorld fz m Reg.CFG_CTL = false →
          (d.streaming = true → answers (.loadOpen m) d 0x103 []) ∧
          (d.streaming = false →
            let e := (d.regPut fz who Reg.CFG_CTL (BitVec.ofNat 32 (x.par 0 1))).regPut fz who Reg.CFG_CTL (BitVec.ofNat 32 (x.par 0 1 + 4))
            let n := e.fw.nextSession
            answers (.loadOpen m)
              { e with fw := { e.fw with sessions := e.fw.sessions ++ [{ num := n, mb := m, capture := false }], nextSession := n + 1 } }
              0 [BitVec.ofNat 32 n])))) ∧
    (s.starts m 0x0202 x →
      (d.session m x.session false = none → starts (.loadData m) d (refuse x 0x101)) ∧
      (∀ y : Session, d.session m x.session false = some y → x.par 8 4 % 4 = 0 → d.get Reg.CFG_CTL_path ≠ 0 →
        starts (.loadData m) d (refuse x 0x103)) ∧
      (∀ y : Session, d.session m x.session false = some y → x.par 8 4 % 4 = 0 → d.get Reg.CFG_CTL_path = 0 →
        starts (.loadData m) d
          { desc := x, total := (x.par 8 4 + 0x3FFFFF) / 0x400000, wait := .loadData (x.par 0 8) (x.par 8 4) 0 })) ∧
    (s.starts m 0x0203 x →
      (d.session m x.session false = none → starts (.loadClose m) d (refuse x 0x101)) ∧
      (∀ y : Session, d.session m x.session false = some y → starts (.loadClose m)
        (if d.streaming = true ∨ d.get Reg.CFG_STATUS_state = 1 then d.pathEnd else d) { desc := x, wait := .loadClose })) ∧
    (s.starts m 0x0204 x → d.noWorld fz m Reg.CFG_CTL = false → answers (.loadStatus m)
      (d.fwReads fz m [Reg.CFG_STATUS, Reg.CFG_FAIL, Reg.CFG_FAIL_OFFSET, Reg.CFG_SECTIONS]).2 0
      (d.fwReads fz m [Reg.CFG_STATUS, Reg.CFG_FAIL, Reg.CFG_FAIL_OFFSET, Reg.CFG_SECTIONS]).1) ∧
    (s.starts m 0x0205 x → d.noWorld fz m Reg.CFG_CTL = false → answers (.loadRestart m)
      (d.regPut fz who Reg.CFG_CTL (BitVec.ofNat 32 (d.get Reg.CFG_CTL_path + 16))) 0 []) ∧
    (s.starts m 0x0301 x →
      (3 < x.par 0 1 ∨ 3 < x.par 1 1 → answers (.runConfig m) d 0x101 []) ∧
      (x.par 0 1 ≤ 3 → x.par 1 1 ≤ 3 → d.noWorld fz m Reg.PACE_CTL = false →
        (d.running = true → answers (.runConfig m) d 0x103 []) ∧
        (d.running = false → answers (.runConfig m)
          ((((d.regPut fz who Reg.PACE_CTL (BitVec.ofNat 32 (x.par 0 1 + x.par 1 1 * 4))).regPut fz who Reg.PACE_RATIO_INT
            (BitVec.ofNat 32 (x.par 4 4))).regPut fz who Reg.PACE_RATIO_FRAC (BitVec.ofNat 32 (x.par 8 4))).regPut fz who
            Reg.PACE_LOST_BOUND (BitVec.ofNat 32 (x.par 12 4))) 0 []))) ∧
    (d.noWorld fz m Reg.PACE_CTL = false →
      let startAt (e : Dev) (time cmd : Nat) : Dev :=
        (e.fwPair fz m Reg.PACE_START_TIME_LO time).regPut fz who Reg.PACE_CMD (BitVec.ofNat 32 cmd)
      let stopAt (e : Dev) (c : Nat) : Dev := (e.fwPair fz m Reg.PACE_STOP_AT_LO c).regPut fz who Reg.PACE_CMD 4
      let tell (e : Dev) (c : Nat) : Dev :=
        stopAt { e.clusterAll (.stopAt c) with cluster := { (e.clusterAll (.stopAt c)).cluster with missed := [] } } c
      (s.starts m 0x0302 x → x.par 8 1 ≤ 1 →
        (x.long = false → d.noStart = true → answers (.runStart m) d 0x103 []) ∧
        (x.long = true → d.noStart = true → starts (.runStart m) d (refuse x 0x103)) ∧
        (d.leads = false → d.noStart = false →
          (x.long = false → answers (.runStart m) (startAt d (x.par 0 8) (1 + 8 * x.par 8 1)) 0 []) ∧
          (x.long = true → starts (.runStart m) (startAt d (x.par 0 8) (1 + 8 * x.par 8 1)) { desc := x })) ∧
        (d.leads = true → d.noStart = false → x.long = true → ∃ time, (x.par 8 1 = 1 → time = x.par 0 8) ∧
          (x.par 8 1 = 0 → d.now ≤ time) ∧ starts (.runStart m) (startAt (d.spend.clusterAll (.start time d.committed)) time 9) { desc := x })) ∧
      (s.starts m 0x0303 x →
        (x.long = false → d.leads = false → answers (.runStop m) (d.regPut fz who Reg.PACE_CMD 2) 0 []) ∧
        (x.long = true → d.leads = true → d.runHeld = true → starts (.runStop m) d (refuse x 0x104)) ∧
        (x.long = true → d.leads = true → d.runHeld = false → d.running = false → starts (.runStop m) d { desc := x }) ∧
        (x.long = true → d.leads = true → d.runHeld = false → d.running = true → ∃ c, d.committed ≤ c ∧
          starts (.runStop m) (tell d.spend c) { desc := x, wait := .cluster })) ∧
      (s.starts m 0x0304 x →
        (x.long = false → x.par 0 8 = 0 → answers (.runStep m) d 0x101 []) ∧
        (x.long = false → d.leads = false → x.par 0 8 ≠ 0 → d.noStart = false → answers (.runStep m)
          ((d.fwPair fz m Reg.PACE_STEP_COUNT_LO (x.par 0 8)).regPut fz who Reg.PACE_CMD 3) 0 []) ∧
        (x.long = true → d.leads = true → x.par 0 8 ≠ 0 → d.noStart = false → d.runHeld = false →
          let e := tell d (d.committed + x.par 0 8)
          ∃ time, starts (.runStep m) (startAt (e.spend.clusterAll (.start time e.committed)) time 9) { desc := x, wait := .cluster })) ∧
      (s.starts m 0x0305 x →
        (x.long = false → 1 < x.par 8 1 → answers (.runStopAt m) d 0x101 []) ∧
        (x.long = false → d.leads = false → x.par 8 1 = 1 → answers (.runStopAt m) (d.regPut fz who Reg.PACE_CMD 5) 0 []) ∧
        (x.long = false → d.leads = false → x.par 8 1 = 0 → answers (.runStopAt m) (stopAt d (x.par 0 8)) 0 []) ∧
        (x.long = true → d.leads = true → x.par 8 1 = 1 →
          starts (.runStopAt m) ((d.clusterAll .disarm).regPut fz who Reg.PACE_CMD 5) { desc := x }) ∧
        (x.long = true → d.leads = true → x.par 8 1 = 0 → d.runHeld = false →
          starts (.runStopAt m) (tell d (x.par 0 8)) { desc := x, wait := .cluster }))) ∧
    (s.starts m 0x0306 x → d.noWorld fz m Reg.PACE_CTL = false →
      let y := d.fwReads fz m [Reg.PACE_STATUS, Reg.PACE_COMMITTED_LO, Reg.PACE_COMMITTED_HI, Reg.PACE_DEBT_LO, Reg.PACE_DEBT_HI]
      answers (.runStatus m) y.2 0 y.1) ∧
    (s.starts m 0x0307 x → starts (.runWait m) d { desc := x, wait := .pacerStopped }) ∧
    (s.live = true →
      ((d.mb m).job = none → exec (.runWaitLimit m) s = .next s) ∧
      (∀ j : Job, (d.mb m).job = some j → j.wait = .pacerStopped →
        (leAt j.desc.p 0 4 = 0 → exec (.runWaitLimit m) s = .next s) ∧
        (d.now < j.since + leAt j.desc.p 0 4 * 16000000 → exec (.runWaitLimit m) s = .next s) ∧
        (leAt j.desc.p 0 4 ≠ 0 → j.since + leAt j.desc.p 0 4 * 16000000 ≤ d.now → exec (.runWaitLimit m) s =
          .next (s.withDev ((d.setMb m { d.mb m with job := none }).finish m j.desc 0x201 [0] 0 j.steps)))))

/-- The STATE, CAPTURE and MEM commands (R412, R414, R415, R417, R419, R520, Table 12.9): each with the effect on the device and the
answer of its success, under what it asks for; the statuses of refusals that are its own; and the wait of those that the DMA engine
serves while it is frozen. -/
def Obligations.StateCaptureAndMemoryCommands : Prop :=
  ∀ (s : State) (m : Fin 17) (x : Desc) (tiles : List Nat) (us : List Upset) (h : HostMem),
    let d := s.dev
    let fz := s.fuses
    let who := mbWho fz m
    let dma := mbDma fz m
    let image := d.checkpoint fz m
    let site := stook (x.par 0 2) (x.par 2 1) (x.par 3 1)
    let mc := 16 * x.par 4 1 + x.par 5 1
    let answers (i : Instr) (e : Dev) (st : Nat) (r : List Word) : Prop := exec i s = .next (s.withDev (e.answer m x st r))
    let starts (i : Instr) (e : Dev) (j : Job) : Prop := exec i s = .next (s.withDev (e.startJob fz m j))
    let thaw := d.frozenSp 5 = false
    (d.frozenSp 5 = true → ∀ e ∈ [(Instr.stateCheckpoint m, 0x0401), (.stateRestore m, 0x0402), (.captureRead m, 0x0504), (.memRead m us, 0x0602),
      (.memFill m us, 0x0604)], s.starts m e.2 x → exec e.1 s = .next (s.withDev (d.setMb m { d.mb m with waits := true }))) ∧
    (s.starts m 0x0401 x → thaw →
      (x.par 0 8 % 4096 ≠ 0 ∨ 0x3000000000 ≤ x.par 0 8 → starts (.stateCheckpoint m) d (refuse x 0x101)) ∧
      (x.par 0 8 % 4096 = 0 → 0 < x.par 0 8 → x.par 0 8 ≤ 0x2FE0000000 → fz.mbxSecure m = true →
        (d.running = true → starts (.stateCheckpoint m) d (refuse x 0x103)) ∧
        (d.running = false → exec (.stateCheckpoint m) s = .next (s.withDev
          (match d.busWriteN fz dma (x.par 0 8) (imageBytes image) with
           | (.ok _, e) => ({ e with fw := { e.fw with images := e.fw.images ++ [image] } } : Dev).startJob fz m
               { desc := x, r := [BitVec.ofNat 32 (imageBytes image).length] }
           | (.err, _) => (d.failedJob x (fun d => (d.busWriteN fz dma (x.par 0 8) (imageBytes image)).2)).2.startJob fz m
               (d.failedJob x (fun d => (d.busWriteN fz dma (x.par 0 8) (imageBytes image)).2)).1
           | (.wait, e) => e.setMb m { e.mb m with waits := true }))))) ∧
    (image.committed = d.committed ∧ image.digest = d.cfg.digest ∧ image.presented = d.chan.presented ∧ image.streamOut = d.chan.streamOut ∧
      (∀ e ∈ image.q, e ∈ d.fab.q ∧ d.noField fz m (stookField (e.1 / 128)) = false) ∧
      (∀ e ∈ d.fab.q, d.noField fz m (stookField (e.1 / 128)) = false → e ∈ image.q) ∧
      (∀ e : Host.Cell, e ∈ image.mem ↔ e ∈ d.mem ∧ d.designByte fz m e.1 = true) ∧
      (∀ e : Nat × Tile, e ∈ image.tiles ↔ e ∈ d.tiles ∧ d.noField fz m (e.1 / 96) = false ∧ d.tileMode (e.1 / 96) (e.1 % 96) ∈ [1, 2])) ∧
    (s.starts m 0x0402 x → thaw → x.par 0 8 < 0x3000000000 → d.noRange fz m (x.par 0 8) 1 = false →
      (d.running = true → starts (.stateRestore m) d (refuse x 0x103)) ∧
      (d.running = false → d.loadOpen = true → starts (.stateRestore m) d (refuse x 0x104)) ∧
      (d.running = false → d.loadOpen = false → d.hbmGate (x.par 0 8) = none →
        match d.imageFor (x.par 0 8) with
        | none => starts (.stateRestore m) d (refuse x 0x101)
        | some c => (c.digest ≠ d.cfg.digest → starts (.stateRestore m) d (refuse x 0x101)) ∧
          (c.digest = d.cfg.digest → starts (.stateRestore m) (d.restore fz m c) { desc := x }))) ∧
    (∀ c : Checkpoint, ∃ e : Dev,
      d.restore fz m c = ((((e.regPut fz who Reg.PACE_COMMITTED_LO (BitVec.ofNat 32 (c.committed % 2 ^ 32))).regPut fz who
        (Reg.PACE_COMMITTED_LO + 4) (BitVec.ofNat 32 (c.committed / 2 ^ 32))).regPut fz who Reg.PACE_RESUME_TIME_LO
        (BitVec.ofNat 32 (c.time % 2 ^ 32))).regPut fz who (Reg.PACE_RESUME_TIME_LO + 4) (BitVec.ofNat 32 (c.time / 2 ^ 32))) ∧
      e.regs = d.regs ∧ e.errs = d.errs ∧ e.pac = d.pac ∧ e.chan = { d.chan with presented := c.presented, streamOut := c.streamOut } ∧
      (∀ a : Nat, d.designByte fz m a = false → e.mem.read a = d.mem.read a) ∧
      (c.mem.wf = true → d.mem.wf = true → ∀ a : Nat, d.designByte fz m a = true → e.mem.read a = c.mem.read a) ∧
      ((∀ y ∈ c.q, d.noField fz m (stookField (y.1 / 128)) = false) →
        ∀ k : Nat, d.noField fz m (stookField (k / 128)) = true → e.fab.q.get k false = d.fab.q.get k false)) ∧
    (s.starts m 0x0403 x →
      (384 ≤ x.par 0 2 ∨ 32 ≤ x.par 2 1 → starts (.stateRead m) d (refuse x 0x101)) ∧
      (x.par 0 2 < 384 → x.par 2 1 < 32 → d.noField fz m (x.par 0 2) = true → starts (.stateRead m) d (refuse x 0x102)) ∧
      (x.par 0 2 < 384 → x.par 2 1 < 32 → d.noField fz m (x.par 0 2) = false →
        (d.atRest = true → starts (.stateRead m) d
          { desc := x, wait := .stateRead (x.par 8 8), data := d.stateFrame (x.par 0 2) (x.par 2 1) }) ∧
        (d.atRest = false → starts (.stateRead m) { d with bacts := d.bacts ++ [.stateRead m (x.par 0 2) (x.par 2 1)] }
          { desc := x, wait := .stateRead (x.par 8 8) }))) ∧
    (s.starts m 0x0404 x →
      (siteOk x = false → answers (.stateForce m) d 0x101 []) ∧
      (siteOk x = true → x.par 6 1 ≤ 1 → d.noField fz m (x.par 0 2) = true → answers (.stateForce m) d 0x102 []) ∧
      (siteOk x = true → x.par 6 1 ≤ 1 → d.noField fz m (x.par 0 2) = false →
        answers (.stateForce m) (d.actOrQueue (.force site mc (some (x.par 6 1 == 1)))) 0 [])) ∧
    (s.starts m 0x0405 x → siteOk x = true →
      (1 < x.par 7 1 → answers (.stateRelease m) d 0x101 []) ∧
      (x.par 7 1 = 1 → d.noField fz m (x.par 0 2) = false → answers (.stateRelease m) (d.actOrQueue (.releaseAll (x.par 0 2))) 0 []) ∧
      (x.par 7 1 = 0 → d.noField fz m (x.par 0 2) = false → answers (.stateRelease m) (d.actOrQueue (.force site mc none)) 0 [])) ∧
    (s.starts m 0x0501 x → x.par 0 8 < 0x3000000000 → 0 < x.par 8 4 → x.par 0 8 + x.par 8 4 * 0x100000 ≤ 0x3000000000 →
      d.noRange fz m (x.par 0 8) 1 = false →
      (1 < x.par 12 1 → starts (.captureOpen m tiles) d (refuse x 0x101)) ∧
      (4 ≤ (d.fw.sessions.filter (fun y => y.capture)).length → x.par 12 1 ≤ 1 → starts (.captureOpen m tiles) d (refuse x 0x105)) ∧
      (∀ use : List Nat, x.par 12 1 ≤ 1 → use = (if x.par 12 1 = 1 then tiles else []) →
        (d.fw.sessions.filter (fun y => y.capture)).length < 4 →
        ((∃ k ∈ use, 36864 ≤ k ∨ d.tileMode (k / 96) (k % 96) ≠ 0 ∨ d.noField fz m (k / 96) = true) →
          starts (.captureOpen m tiles) d (refuse x 0x105)) ∧
        ((∀ k ∈ use, k < 36864 ∧ d.tileMode (k / 96) (k % 96) = 0 ∧ d.noField fz m (k / 96) = false) →
          let e := use.foldl (fun (e : Dev) (k : Nat) => e.regPut fz who (tileReg (k / 96) (k % 96) 0) 3#32) d
          starts (.captureOpen m tiles)
            { e with fw := { e.fw with
                sessions := e.fw.sessions ++ [{ num := e.fw.nextSession, mb := m, capture := true, base := x.par 0 8,
                                                size := x.par 8 4, pre := x.par 16 4, tiles := use }]
                nextSession := e.fw.nextSession + 1 } }
            { desc := x, r := [BitVec.ofNat 32 e.fw.nextSession, BitVec.ofNat 32 use.length] }))) ∧
    (s.starts m 0x0502 x →
      (d.session m x.session true = none → answers (.captureTrigger m) d 0x101 []) ∧
      (∀ y : Session, d.session m x.session true = some y → siteOk x = true → x.par 6 1 ≤ 2 → d.noField fz m (x.par 0 2) = false →
        answers (.captureTrigger m) (d.setSession { y with
          site := qKey site (x.par 4 1) (x.par 5 1)
          trig := x.par 6 1
          nth := if x.par 6 1 = 2 then x.par 8 4 else 1
          post := x.par 12 4
          state := 1
          cycle := 0
          samples := [] }) 0 [])) ∧
    (s.starts m 0x0503 x →
      (d.session m x.session true = none → answers (.captureStatus m) d 0x101 []) ∧
      (∀ y : Session, d.session m x.session true = some y → answers (.captureStatus m) d 0
        [BitVec.ofNat 32 y.state, BitVec.ofNat 32 y.cycle, BitVec.ofNat 32 (y.cycle / 2 ^ 32), BitVec.ofNat 32 y.samples.length])) ∧
    (s.starts m 0x0504 x → thaw →
      (d.session m x.session true = none → starts (.captureRead m) d (refuse x 0x101)) ∧
      (∀ y : Session, d.session m x.session true = some y →
        let l := (y.samples.filter (fun e => decide (x.par 0 8 ≤ e.1))).take (x.par 8 4)
        starts (.captureRead m) (d.hostWrite (x.par 16 8) (l.flatMap sampleBytes)) { desc := x, r := [BitVec.ofNat 32 l.length] })) ∧
    (s.starts m 0x0505 x →
      (d.session m x.session true = none → answers (.captureClose m) d 0x101 []) ∧
      (∀ y : Session, d.session m x.session true = some y → answers (.captureClose m) (d.closeSession y) 0 [] ∧
        (∀ z ∈ (d.closeSession y).fw.sessions, z.num ≠ y.num))) ∧
    (s.starts m 0x0601 x →
      (x.par 0 8 % 0x100000 ≠ 0 ∨ 2 ^ 48 ≤ x.par 0 8 → answers (.memWindow m) d 0x101 []) ∧
      (x.par 0 8 % 0x100000 = 0 → x.par 0 8 < 2 ^ 48 →
        answers (.memWindow m) { d with host := { d.host with window := x.par 0 8 } } 0 [])) ∧
    (s.starts m 0x0602 x → thaw →
      (2 ^ 48 < x.par 0 8 + x.par 16 8 → starts (.memRead m us) d (refuse x 0x101)) ∧
      (x.par 0 8 + x.par 16 8 ≤ 2 ^ 48 → d.noRange fz m (x.par 0 8) (x.par 16 8) = true → starts (.memRead m us) d (refuse x 0x102)) ∧
      (x.par 0 8 + x.par 16 8 ≤ 2 ^ 48 → d.noRange fz m (x.par 0 8) (x.par 16 8) = false →
        (match d.busReadN fz dma (x.par 0 8) (x.par 16 8) us with
         | (.ok l, e) => starts (.memRead m us) (e.hostWrite (x.par 8 8) l) { desc := x, r := [BitVec.ofNat 32 (x.par 16 8)] }
         | (.wait, e) => exec (.memRead m us) s = .next (s.withDev (e.setMb m { e.mb m with waits := true }))
         | (.err, _) => ∃ (e : Dev) (w : Word), starts (.memRead m us) e { desc := x, status := 0x201, r := [w] }) ∧
        (∀ off : Nat, us = [] → placeOf (x.par 0 8) = some (.sp off) → 0 < x.par 16 8 → x.par 0 8 % 64 + x.par 16 8 ≤ 64 →
          d.worldBad (fz.mbxSecure m) (x.par 0 8) = false →
          starts (.memRead m us) (d.hostWrite (x.par 8 8) (Memory.readBytes d.mem (x.par 0 8) (x.par 16 8)))
            { desc := x, r := [BitVec.ofNat 32 (x.par 16 8)] }) ∧
        (∀ b off : Nat, us = [] → placeOf (x.par 0 8) = some (.gran b off) → 0 < x.par 16 8 → x.par 0 8 % 64 + x.par 16 8 ≤ 64 →
          d.heldDie 16 = false → d.heldDie (baseSel b) = false → d.worldBad (fz.mbxSecure m) (x.par 0 8) = false →
          d.wipeGate (x.par 0 8) (.gran b off) = none → 16 * b + off / 0x180000 ∉ d.sec.zeroing →
          d.asleep (retGran b (off / 0x180000)) = false → (∀ w ∈ granWords (x.par 0 8) (x.par 16 8), d.granMark w = {}) →
          d.on (Reg.NOC_STAT_CTL_en 16 19) = false → ∃ e : Dev, e.mem = d.mem ∧ e.errs = d.errs ∧ starts (.memRead m us)
          (e.hostWrite (x.par 8 8) ((List.range (x.par 16 8)).map (fun i => d.mem.read (d.granAt (x.par 0 8 + i)))))
          { desc := x, r := [BitVec.ofNat 32 (x.par 16 8)] }))) ∧
    (∀ (l : List Byte) (v : Dev), s.live = true → v = d.hostTake h → (s.withDev v).starts m 0x0603 x →
      (v.frozenSp 5 = true → exec (.memWrite m h us) s = .next (s.withDev (v.setMb m { v.mb m with waits := true }))) ∧
      (v.frozenSp 5 = false → v.hostReaches (x.par 8 8) (x.par 16 8) = false → ∃ (e : Dev) (w : Word), e.mem = d.mem ∧
        exec (.memWrite m h us) s = .next (s.withDev (e.startJob fz m { desc := x, status := 0x201, r := [w] }))) ∧
      (v.frozenSp 5 = false → v.hostReaches (x.par 8 8) (x.par 16 8) = true → l = Memory.readBytes v.host.mem (x.par 8 8) (x.par 16 8) →
        (2 ^ 48 < x.par 0 8 + l.length → exec (.memWrite m h us) s = .next (s.withDev (v.startJob fz m (refuse x 0x101)))) ∧
        (x.par 0 8 + l.length ≤ 2 ^ 48 → v.noRange fz m (x.par 0 8) l.length = true →
          exec (.memWrite m h us) s = .next (s.withDev (v.startJob fz m (refuse x 0x102)))) ∧
        (x.par 0 8 + l.length ≤ 2 ^ 48 → v.noRange fz m (x.par 0 8) l.length = false →
          (match v.busWriteN fz dma (x.par 0 8) l us with
           | (.ok _, e) => exec (.memWrite m h us) s = .next (s.withDev
               (e.startJob fz m { desc := x, r := [BitVec.ofNat 32 (x.par 16 8)] }))
           | (.wait, e) => exec (.memWrite m h us) s = .next (s.withDev (e.setMb m { e.mb m with waits := true }))
           | (.err, _) => ∃ (e : Dev) (w : Word), exec (.memWrite m h us) s =
               .next (s.withDev (e.startJob fz m { desc := x, status := 0x201, r := [w] }))) ∧
          (∀ off : Nat, us = [] → placeOf (x.par 0 8) = some (.sp off) → 0 < l.length → x.par 0 8 % 64 + l.length ≤ 64 →
            d.worldBad (fz.mbxSecure m) (x.par 0 8) = false → exec (.memWrite m h us) s = .next (s.withDev
            (({ v with mem := Memory.writeBytes d.mem (x.par 0 8) l } : Dev).startJob fz m { desc := x, r := [BitVec.ofNat 32 (x.par 16 8)] })))))) ∧
    (s.starts m 0x0604 x → thaw →
      (x.par 8 8 % 8 ≠ 0 → starts (.memFill m us) d (refuse x 0x101)) ∧
      (∀ l : List Byte, l = (List.replicate (x.par 8 8 / 8) (slice x.p 16 8)).flatten → x.par 8 8 % 8 = 0 →
        (2 ^ 48 < x.par 0 8 + l.length → starts (.memFill m us) d (refuse x 0x101)) ∧
        (x.par 0 8 + l.length ≤ 2 ^ 48 → d.noRange fz m (x.par 0 8) l.length = true → starts (.memFill m us) d (refuse x 0x102)) ∧
        (x.par 0 8 + l.length ≤ 2 ^ 48 → d.noRange fz m (x.par 0 8) l.length = false →
          (match d.busWriteN fz dma (x.par 0 8) l us with
           | (.ok _, e) => starts (.memFill m us) e { desc := x }
           | (.wait, e) => exec (.memFill m us) s = .next (s.withDev (e.setMb m { e.mb m with waits := true }))
           | (.err, _) => ∃ (e : Dev) (w : Word), starts (.memFill m us) e { desc := x, status := 0x201, r := [w] }) ∧
          (∀ off : Nat, us = [] → placeOf (x.par 0 8) = some (.sp off) → 0 < l.length → x.par 0 8 % 64 + l.length ≤ 64 →
            d.worldBad (fz.mbxSecure m) (x.par 0 8) = false →
            starts (.memFill m us) { d with mem := Memory.writeBytes d.mem (x.par 0 8) l } { desc := x })))) ∧
    (s.starts m 0x0605 x →
      (3 < x.par 0 1 ∨ 3 < x.par 1 1 → starts (.memHbmInit m) d (refuse x 0x101)) ∧
      (x.par 0 1 ≤ 3 → x.par 1 1 ≤ 3 → d.noWorld fz m (Reg.HBM_MAP_CTL 16) = false →
        let locked (b : Nat) : Bool := d.on (Reg.HBM_MAP_CTL_lock (baseSel b))
        let order (n : Nat) : Nat := if n = 3 then 1 else n
        let clash (b : Nat) : Prop := locked b = true ∧ order (d.get (Reg.HBM_MAP_CTL_order (baseSel b))) ≠ order (x.par 0 1)
        let off (b : Nat) : Bool := !d.heldDie (baseSel b) && d.stackState (2 * b) == 0 && d.stackState (2 * b + 1) == 0
        let bases : List Nat := [0, 1, 2, 3].filter (fun b => !(locked 0 || locked 1 || locked 2 || locked 3) || off b)
        (∀ b : Fin 4, clash b → starts (.memHbmInit m) d (refuse x 0x103)) ∧
        ((∀ b : Fin 4, ¬ clash b) → d.stacksHeld (List.range 8) = true → starts (.memHbmInit m) d (refuse x 0x104)) ∧
        ((∀ b : Fin 4, ¬ clash b) → d.stacksHeld (List.range 8) = false →
          let e := each bases (fun b d => d.fwWrite fz m (Reg.HBM_MAP_CTL (baseSel b)) (x.par 0 1)) d
          let e := each bases (fun b d => (d.fillSet fz m (2 * b) 0 (x.par 1 1)).fillSet fz m (2 * b + 1) 0 (x.par 1 1)) e
          let e := each bases (fun b d => d.fwWrite fz m (Reg.HBM_INIT (baseSel b)) 1) e
          starts (.memHbmInit m) e { desc := x, wait := .hbmInit bases }))) ∧
    (s.starts m 0x0606 x → d.noWorld fz m (Reg.HBM_MAP_CTL 16) = false →
      (d.stacksHeld (stacksOf (x.par 0 1)) = true → starts (.memHbmTrain m) d (refuse x 0x104)) ∧
      (d.stacksHeld (stacksOf (x.par 0 1)) = false → starts (.memHbmTrain m)
        (each (stacksOf (x.par 0 1)) (fun k d => d.regPut fz who (Reg.HBM_STK_CMD (stackSel k) (k % 2))
          (BitVec.ofNat 32 (2 + d.get (Reg.HBM_STK_CMD_retrain_pause (stackSel k) (k % 2)) * 4))) d)
        { desc := x, wait := .hbmStacks (stacksOf (x.par 0 1)) })) ∧
    (s.starts m 0x0607 x →
      (3 < x.par 1 1 → starts (.memHbmRate m) d (refuse x 0x101)) ∧
      (x.par 1 1 ≤ 3 → d.noWorld fz m (Reg.HBM_MAP_CTL 16) = false →
        (d.stacksHeld (stacksOf (x.par 0 1)) = true → starts (.memHbmRate m) d (refuse x 0x104)) ∧
        (d.stacksHeld (stacksOf (x.par 0 1)) = false → starts (.memHbmRate m)
          (each (stacksOf (x.par 0 1)) (fun k d =>
            (d.fillSet fz m k (1 - d.get (Reg.HBM_STK_STATUS_active_set (stackSel k) (k % 2))) (x.par 1 1)).regPut fz who
              (Reg.HBM_STK_CMD (stackSel k) (k % 2))
              (BitVec.ofNat 32 (1 + d.get (Reg.HBM_STK_CMD_retrain_pause (stackSel k) (k % 2)) * 4))) d)
          { desc := x, wait := .hbmStacks (stacksOf (x.par 0 1)) }))) ∧
    (∀ (k : Fin 8) (t : Fin 2) (rate : Fin 4),
      let v := Config.timing rate
      let a := Reg.HBM_TSET_RATE (stackSel k) (k % 2) t
      d.fillSet fz m k t rate = (((d.regPut fz who a (BitVec.ofNat 32 rate)).regPut fz who (a + 4) v.1).regPut fz who (a + 8) v.2.1).regPut fz
        who (a + 12) v.2.2) ∧
    (s.starts m 0x0608 x → ∀ (k : Fin 8) (r : Fin 4), x.par 0 1 = k → x.par 1 1 = r → x.par 4 1 < 16 → x.par 2 1 < 64 → x.par 3 1 < 128 →
      let ctl := Reg.MEMSEC_RGN_CTL (stackSel k) (k % 2) r
      let held := d.heldBy (fun j => match j.wait with | .region a b _ => a == k.val && b == r.val | _ => false)
      (1 < x.par 5 1 → starts (.memProtect m) d (refuse x 0x101)) ∧
      (x.par 5 1 ≤ 1 → fz.mbxSecure m = false → starts (.memProtect m) d (refuse x 0x102)) ∧
      (x.par 5 1 ≤ 1 → fz.mbxSecure m = true → held = true → starts (.memProtect m) d (refuse x 0x104)) ∧
      (x.par 5 1 = 1 → fz.mbxSecure m = true → held = false →
        (d.rgnState k r ≠ 2 → starts (.memProtect m) d (refuse x 0x103)) ∧
        (d.rgnState k r = 2 → starts (.memProtect m)
          (d.regPut fz who ctl (BitVec.ofNat 32 (32 + d.get (Reg.MEMSEC_RGN_CTL_key_slot (stackSel k) (k % 2) r))))
          { desc := x, wait := .region k r 0 })) ∧
      (x.par 5 1 = 0 → fz.mbxSecure m = true → held = false →
        (d.rgnState k r ≠ 0 → starts (.memProtect m) d (refuse x 0x103)) ∧
        (∀ e : Dev, d.rgnState k r = 0 →
          e = (if d.on (Reg.MEMSEC_STK_CTL_enable (stackSel k) (k % 2)) = true then d
               else d.regPut fz who (Reg.MEMSEC_STK_CTL (stackSel k) (k % 2)) 1) →
          starts (.memProtect m)
            ((e.regPut fz who (Reg.MEMSEC_RGN_RANGE (stackSel k) (k % 2) r) (BitVec.ofNat 32 (x.par 2 1 + x.par 3 1 * 256))).regPut fz who
              ctl (BitVec.ofNat 32 (16 + x.par 4 1)))
            { desc := x, wait := .region k r 2 })))
/-- The LINK and CLUSTER commands (R311, R313, R315, R411, R415, R418, R419, Table 12.9): each with the effect on the device and the answer
of its success, under what it asks for; the statuses of refusals that are its own; and the steps in which those that wait for lanes, for a
forming cluster, for workers or for a relayed answer go on and end. The formats of the firmware's messages between devices are not in the
spec (log entry 143). -/
def Obligations.LinkAndClusterCommands : Prop :=
  ∀ (s : State) (m : Fin 17) (x : Desc) (n : Fin 192) (h : HostMem) (done : Bool),
    let d := s.dev
    let fz := s.fuses
    let who := mbWho fz m
    let sel := laneSel n
    let j := laneJ n
    let lanes := lanesOf (x.par 0 1) (x.par 8 6)
    let base := baseSel (ctxBase (x.par 0 2))
    let answers (i : Instr) (e : Dev) (st : Nat) (r : List Word) : Prop := exec i s = .next (s.withDev (e.answer m x st r))
    let starts (i : Instr) (e : Dev) (j : Job) : Prop := exec i s = .next (s.withDev (e.startJob fz m j))
    let thaw := d.frozenSp 5 = false
    let forming := d.heldBy (fun j => match j.wait with | .form _ => true | _ => false)
    let laneCtl := d.noWorld fz m (Reg.LANE_CTL 16 0) = false
    let linkCfg := d.noWorld fz m (Reg.LCH_LINK_CFG 16 0) = false
    (s.starts m 0x0701 x →
      (4 ≤ x.par 0 1 ∨ 3 ≤ x.par 14 1 → starts (.linkUp m) d (refuse x 0x101)) ∧
      (x.par 0 1 < 4 → x.par 14 1 < 3 → (x.par 14 1 = 2 → x.par 15 1 < 16 ∧ x.par 16 1 < 2) → laneCtl →
        (d.lanesHeld lanes = true → starts (.linkUp m) d (refuse x 0x104)) ∧
        (d.lanesHeld lanes = false → starts (.linkUp m)
          (each lanes (fun k d => d.laneOn fz m k
            (if x.par 14 1 = 0 then 4 else if x.par 14 1 = 1 then 7 else x.par 15 1 + x.par 16 1 * 16)) d)
          { desc := x, wait := .lanes (x.par 0 1) (lanes.map laneJ) }))) ∧
    (∀ v : Nat, d.on (Reg.LANE_BANK_CTL_enable (bankSel (n / 16)) (n / 16 % 3)) = true →
      let a := Reg.LANE_CTL sel j
      let keep := (d.rdWord a).toNat / 64 * 64
      d.laneOn fz m n v = ((d.regPut fz who a (BitVec.ofNat 32 ((d.rdWord a).toNat / 2 * 2))).regPut fz who a
        (BitVec.ofNat 32 (keep + v * 2))).regPut fz who a (BitVec.ofNat 32 (keep + v * 2 + 1))) ∧
    (s.starts m 0x0702 x →
      (4 ≤ x.par 0 1 → answers (.linkDownCmd m) d 0x101 []) ∧
      (x.par 0 1 < 4 → laneCtl → d.lanesHeld lanes = true → answers (.linkDownCmd m) d 0x104 []) ∧
      (x.par 0 1 < 4 → laneCtl → d.lanesHeld lanes = false → answers (.linkDownCmd m)
        (each lanes (fun k d => d.regPut fz who (Reg.LANE_CTL (laneSel k) (laneJ k))
          (BitVec.ofNat 32 ((d.rdWord (Reg.LANE_CTL (laneSel k) (laneJ k))).toNat / 2 * 2))) d) 0 [])) ∧
    (s.starts m 0x0703 x →
      (192 ≤ x.par 0 1 → answers (.linkStatus m) d 0x101 []) ∧
      (x.par 0 1 = n → laneCtl → linkCfg →
        let y := d.fwReads fz m [Reg.LANE_STATUS sel j, Reg.LCH_LINK_STATUS sel j, Reg.LCH_LINK_ERR sel j, Reg.LANE_ERRCNT sel j]
        answers (.linkStatus m) y.2 0 y.1)) ∧
    (s.starts m 0x0704 x →
      (192 ≤ x.par 0 1 ∨ 4 ≤ x.par 1 1 ∨ 16 ≤ x.par 2 1 ∨ 128 ≤ x.par 3 1 → answers (.linkActivate m) d 0x101 []) ∧
      (x.par 0 1 = n → x.par 1 1 < 4 → x.par 2 1 < 16 → x.par 3 1 < 128 → linkCfg →
        (d.role ≠ 0 → answers (.linkActivate m) d 0x103 []) ∧
        (d.role = 0 →
          let e := d.regPut fz who (Reg.LCH_LINK_CFG sel j)
            (BitVec.ofNat 32 (d.linkCfgWord n (x.par 1 1 % 2) (x.par 1 1 / 2) (x.par 2 1) (x.par 3 1)))
          (x.par 1 1 % 2 = 0 ∨ e.linkState n = 2 → answers (.linkActivate m) e 0 []) ∧
          (x.par 1 1 % 2 = 1 → e.linkState n ≠ 2 → answers (.linkActivate m) d 0x103 [])))) ∧
    (s.starts m 0x0705 x →
      (192 ≤ x.par 0 1 ∨ 4 ≤ x.par 1 1 → starts (.linkPrbs m) d (refuse x 0x101)) ∧
      (x.par 0 1 = n → x.par 1 1 < 4 → laneCtl →
        (d.lanesHeld [n.val] = true → starts (.linkPrbs m) d (refuse x 0x104)) ∧
        (d.lanesHeld [n.val] = false →
          let v := (d.rdWord (Reg.LANE_CTL sel j)).toNat / 2 * 2
          starts (.linkPrbs m)
            ((((d.regPut fz who (Reg.LANE_CTL sel j) (BitVec.ofNat 32 v)).regPut fz who (Reg.LANE_PRBS_CTL sel j)
              (BitVec.ofNat 32 (x.par 1 1 + 4 + x.par 1 1 * 8 + 32))).regPut fz who (Reg.LANE_CNT_CLR sel j) 1).regPut fz who
              (Reg.LANE_CTL sel j) (BitVec.ofNat 32 (v + 1))) { desc := x, wait := .prbs n }))) ∧
    (s.starts m 0x0706 x →
      (192 ≤ x.par 0 1 ∨ 4 ≤ x.par 1 1 ∨ 16 ≤ x.par 2 1 → starts (.linkEye m) d (refuse x 0x101)) ∧
      (x.par 0 1 = n → x.par 1 1 < 4 → x.par 2 1 < 16 → laneCtl →
        (d.lanesHeld [n.val] = true → starts (.linkEye m) d (refuse x 0x104)) ∧
        (d.lanesHeld [n.val] = false → starts (.linkEye m) (d.regPut fz who (Reg.LANE_EYE_CTL sel j) (BitVec.ofNat 32 (eyePoint x 0)))
          { desc := x, wait := .eye n 0 (x.par 8 8), total := 8128 }))) ∧
    (s.starts m 0x0707 x → d.noWorld fz m (Reg.LCH_CTX_SEL 16) = false →
      (((d.ctx (x.par 0 2)).secure || bitOf (x.par 4 4) 3) = true → fz.mbxSecure m = false → answers (.linkCtxWrite m) d 0x102 []) ∧
      (((d.ctx (x.par 0 2)).secure || bitOf (x.par 4 4) 3) = false ∨ fz.mbxSecure m = true →
        let e := (d.regPut fz who (Reg.LCH_CTX_CMD base) 8).regPut fz who (Reg.LCH_CTX_SEL base) (BitVec.ofNat 32 (x.par 0 2))
        let e := each [0, 1, 2] (fun i d => d.regPut fz who (Reg.LCH_CTX_DATA base i) (BitVec.ofNat 32 (x.par (4 + 4 * i) 4))) e
        let e := e.regPut fz who (Reg.LCH_CTX_CMD base) 2
        (e.on (Reg.LCH_CTX_CMD_refused base) = false → answers (.linkCtxWrite m) e 0 []) ∧
        (e.on (Reg.LCH_CTX_CMD_refused base) = true →
          answers (.linkCtxWrite m) d (if d.running = true ∧ (d.ctx (x.par 0 2)).valid = true then 0x103 else 0x105) []))) ∧
    (s.starts m 0x0708 x → d.noWorld fz m (Reg.LCH_CTX_SEL 16) = false →
      ((d.ctx (x.par 0 2)).secure = true → fz.mbxSecure m = false → answers (.linkCtxRead m) d 0x102 []) ∧
      ((d.ctx (x.par 0 2)).secure = false ∨ fz.mbxSecure m = true →
        let e := (d.regPut fz who (Reg.LCH_CTX_SEL base) (BitVec.ofNat 32 (x.par 0 2))).regPut fz who (Reg.LCH_CTX_CMD base) 1
        let y := e.fwReads fz m [Reg.LCH_CTX_DATA base 0, Reg.LCH_CTX_DATA base 1, Reg.LCH_CTX_DATA base 2, Reg.LCH_CTX_DATA base 3]
        answers (.linkCtxRead m) y.2 0 y.1)) ∧
    (∀ v : Dev, s.live = true → v = d.hostTake h → (s.withDev v).starts m 0x0709 x → x.par 0 1 < 4 → x.par 1 1 < 48 → x.par 2 1 < 2 →
      x.par 4 2 ≤ 256 → v.noWorld fz m (Reg.LCH_CTX_SEL 16) = false → v.frozenSp 5 = false →
      let begins (e : Dev) (j : Job) : Prop := exec (.linkSlots m h) s = .next (s.withDev (e.startJob fz m j))
      (v.running = true → begins v (refuse x 0x103)) ∧
      (v.running = false → v.hostReaches (x.par 8 8) (2 * x.par 4 2) = false → ∃ (e : Dev) (w : Word), e.slots = d.slots ∧
        begins e { desc := x, status := 0x201, r := [w] }) ∧
      (v.running = false → v.hostReaches (x.par 8 8) (2 * x.par 4 2) = true →
        let b := baseSel (x.par 0 1)
        let l := Memory.readBytes v.host.mem (x.par 8 8) (2 * x.par 4 2)
        let e := each (List.range (x.par 4 2)) (fun i d =>
          (d.regPut fz who (Reg.LCH_SLOT_SEL b) (BitVec.ofNat 32 (i + x.par 1 1 * 2 ^ 8 + x.par 2 1 * 2 ^ 14))).regPut fz who
            (Reg.LCH_SLOT_DATA b) (BitVec.ofNat 32 (leAt l (2 * i) 2))) v
        let a := Reg.LCH_LINK_SYNC b (x.par 1 1)
        begins (e.regPut fz who a (BitVec.ofNat 32 (setBits (e.rdWord a) (16 * x.par 2 1) 9 (x.par 4 2)).toNat)) { desc := x })) ∧
    (s.starts m 0x0801 x →
      (d.role ≠ 1 → starts (.clusterForm m) d (refuse x 0x103)) ∧
      (d.role = 1 → forming = true → starts (.clusterForm m) d (refuse x 0x104)) ∧
      (d.role = 1 → forming = false → linkCfg →
        let e : Dev := { d with cluster := { d.cluster with conflict := false, found := [] } }
        (e.otherManager = true → starts (.clusterForm m) e { desc := x, wait := .form (x.par 0 1 % 2 == 1) }) ∧
        (e.otherManager = false → ∃ t, exec (.clusterForm m) s = .next t ∧ t.dev.cluster = { e.cluster with
            formed := false, members := [{ serial := fz.serial.toNat, identity := Config.sha384 fz.identityPub }] } ∧
          (x.mute = true → (t.dev.mb m).job = some { desc := x, wait := .form (x.par 0 1 % 2 == 1), since := d.now })))) ∧
    (s.starts m 0x0802 x → thaw → starts (.clusterMap m)
      (d.hostWrite (x.par 8 8) ((List.range 128).flatMap (fun i => d.mapEntry i))) { desc := x }) ∧
    (∀ p : Nat, (d.cluster.members[p]? = none → d.mapEntry p = List.replicate 64 0) ∧
      (∀ y : Member, d.cluster.members[p]? = some y → p ≠ 0 → d.linkState y.lane ∉ [3, 4] →
        d.mapEntry p = toBytes y.serial 8 ++ toBytes y.hops 1 ++ toBytes y.lane 1 ++ [Config.mapState false] ++ List.replicate 5 0 ++
          slice y.identity 0 48)) ∧
    (∀ v : Dev, s.live = true → v = d.hostTake h → (s.withDev v).starts m 0x0803 x → v.frozenSp 5 = false →
      let begins (e : Dev) (j : Job) : Prop := exec (.clusterRelay m h) s = .next (s.withDev (e.startJob fz m j))
      let l := Memory.readBytes v.host.mem (x.par 8 8) 64
      let lane := v.get (Reg.LCH_FWD_lane 16 (x.par 0 1))
      let ways := v.role = 1 ∧ v.cluster.formed = true ∧ v.on (Reg.LCH_FWD_valid 16 (x.par 0 1)) = true ∧ lane < 192
      (v.hostReaches (x.par 8 8) 64 = false → ∃ (e : Dev) (w : Word), e.links = d.links ∧ begins e { desc := x, status := 0x201, r := [w] }) ∧
      (v.hostReaches (x.par 8 8) 64 = true →
        (128 ≤ x.par 0 1 ∨ leAt l 0 2 / 256 = 0x0A ∨
          leAt l 0 2 ∈ [0x0202, 0x0403, 0x0504, 0x0602, 0x0603, 0x0706, 0x0709, 0x0802, 0x0803, 0x0901, 0x0B01] →
          begins v (refuse x 0x101)) ∧
        (x.par 0 1 < 128 → noRelay (leAt l 0 2) = false → ¬ ways → begins v (refuse x 0x103)) ∧
        (x.par 0 1 < 128 → noRelay (leAt l 0 2) = false → ways →
          v.heldBy (fun j => match j.wait with | .relay p _ => p == x.par 0 1 | _ => false) = false → begins
            { v with
              links := v.links.put lane { v.link lane with ctlQ := (v.link lane).ctlQ ++
                [{ toLocal := false, dst := x.par 0 1, data := BitVec.ofNat 256 (leAt l 0 32) },
                 { toLocal := false, dst := x.par 0 1, data := BitVec.ofNat 256 (leAt l 32 32) }] } {}
              fw := { v.fw with inbox := v.fw.inbox.filter (fun e => e.src != x.par 0 1) } }
            { desc := x, wait := .relay (x.par 0 1) (x.par 16 8) }))) ∧
    (s.live = true →
      ((d.mb m).job = none → exec (.relayTimeout m) s = .next s) ∧
      (∀ (k : Job) (pos host : Nat), (d.mb m).job = some k → k.wait = .relay pos host →
        (d.now < k.since + 1600000000 → exec (.relayTimeout m) s = .next s) ∧
        (k.since + 1600000000 ≤ d.now → exec (.relayTimeout m) s =
          .next (s.withDev ((d.setMb m { d.mb m with job := none }).finish m k.desc 0x201 [0] 0 k.steps))))) ∧
    (s.starts m 0x0804 x → answers (.clusterTime m) d 0 [BitVec.ofNat 32 d.cluster.offset, BitVec.ofNat 32 d.cluster.offsetPos]) ∧
    (s.starts m 0x0805 x →
      (linkCfg → ∃ t, exec (.clusterDisband m) s = .next t ∧
        t.dev.cluster.formed = false ∧ t.dev.cluster.members = [] ∧ t.dev.cluster.found = []) ∧
      (d.noWorld fz m (Reg.LCH_LINK_CFG 16 0) = true → starts (.clusterDisband m) d (refuse x 0x102))) ∧
    (∀ k : Job, s.live = true → d.urgentIrq = 0 → (d.mb m).job = some k → d.served fz m = true → d.longTurn fz m = true →
      let u := d.tookTurn fz m
      let ends (e : Dev) (st : Nat) (r : List Word) (unit : Nat) : Prop := exec (.longCommandStep m done) s =
        .next (s.withDev ((e.setMb m { e.mb m with job := none }).finish m k.desc st r unit (k.steps + 1)))
      let goes (e : Dev) : Prop := exec (.longCommandStep m done) s = .next (s.withDev (e.setMb m { e.mb m with
        job := some { k with steps := k.steps + 1 } }))
      (∀ (b : Fin 4) (ls down : List Nat), k.wait = .lanes b ls → down = ls.filter (fun i => d.laneState (48 * b + i) ≠ 4) →
        (down = [] → ends u 0 [] 0) ∧
        (down ≠ [] → done = true → down.length ≠ ls.length → ends u 0x200 (unitMask down) 4) ∧
        (down ≠ [] → done = false → k.desc.progress = false → goes u)) ∧
      (∀ encrypt : Bool, k.wait = .form encrypt →
        let left := BitVec.ofNat 32 (d.candidates false).length
        (d.otherManager = true → ends { u with cluster := { d.cluster with conflict := true, formed := false, members := [], found := [] } }
          0 [0, left, BitVec.ofNat 32 (max 1 d.otherManagers)] 0) ∧
        (d.otherManager = false → done = true → (d.candidates true = [] ∨ 128 ≤ d.cluster.members.length) →
          ends (u.formEnd fz encrypt) 0 [BitVec.ofNat 32 (d.cluster.members.length - 1), left, 0] 0) ∧
        (d.otherManager = false → done = true → d.candidates true ≠ [] → d.cluster.members.length < 128 → k.desc.progress = false →
          goes (u.placeLevel fz)) ∧
        (d.otherManager = false → done = false → k.desc.progress = false → goes u)) ∧
      (∀ e : Dev, (e.formEnd fz done).cluster.formed = true) ∧
      (k.wait = .cluster →
        (done = false → k.desc.progress = false → goes u) ∧
        (done = true → d.cluster.missed = [] → ends { u with cluster := { d.cluster with missed := [] } } 0 [] 0) ∧
        (done = true → d.cluster.missed ≠ [] → d.cluster.missed.length ≠ d.cluster.members.length →
          ends { u with cluster := { d.cluster with missed := [] } } 0x200 (unitMask d.cluster.missed) 3)) ∧
      (∀ (pos host : Nat), k.wait = .relay pos host → thaw →
        (∀ y : InMsg, d.fw.inbox.find? (fun e => e.src == pos && e.data.getLsbD 48) = some y →
          ends (({ u with fw := { u.fw with inbox := d.fw.inbox.filter (fun e => e.src != pos) } } : Dev).hostWrite host
            (toBytes y.data.toNat 32)) 0 [] 0) ∧
        (d.fw.inbox.find? (fun e => e.src == pos && e.data.getLsbD 48) = none → k.desc.progress = false → goes u)))

/-- The HEALTH, SEC and DEBUG commands (R384, R413, R415, R425, R429, R433, R436, R449, R496, Table 12.9): each with the effect on the
device and the answer of its success, under what it asks for; the statuses of refusals that are its own; and the steps in which those
that wait for the directory, a wipe or the lifecycle controller go on and end. Where the firmware puts a key blob is the model's choice (log
entry 68), and so is the check of a record's action against p0 (log entry 69). -/
def Obligations.HealthAndSecurityCommands : Prop :=
  ∀ (s : State) (m : Fin 17) (x : Desc) (h : HostMem) (vcc done : Bool),
    let d := s.dev
    let fz := s.fuses
    let who := mbWho fz m
    let put (d : Dev) (a n : Nat) : Dev := d.regPut fz who a (BitVec.ofNat 32 n)
    let answers (i : Instr) (e : Dev) (st : Nat) (r : List Word) : Prop := exec i s = .next (s.withDev (e.answer m x st r))
    let starts (i : Instr) (e : Dev) (j : Job) : Prop := exec i s = .next (s.withDev (e.startJob fz m j))
    let thaw := d.frozenSp 5 = false
    let sent (v : Dev) (l : List Byte) : Dev :=
      let e := put (each (List.range 60) (fun n d => put d (Reg.LC_REQ n) (leAt l (4 * n) 4)) v) Reg.LC_REQ_STATUS 2
      put { e with pwr := { e.pwr with vccFuse := vcc } } Reg.LC_REQ_GO 1
    (s.starts m 0x0901 x → thaw →
      let l := (d.log.entries.filter (fun r => decide (x.par 0 4 ≤ r.logIndex))).take (x.par 4 4)
      starts (.healthLogRead m) (d.hostWrite (x.par 8 8) (l.flatMap ErrRec.bytes))
        { desc := x, r := [BitVec.ofNat 32 l.length,
            BitVec.ofNat 32 ((d.log.entries.head?.map (fun r => r.logIndex)).getD d.log.next), BitVec.ofNat 32 d.log.next] }) ∧
    (s.starts m 0x0902 x → answers (.healthLogClear m) { d with log := { d.log with entries := [] } } 0 []) ∧
    (s.starts m 0x0903 x →
      (isDieSel (x.par 0 1) = false → answers (.healthTelemetry m) d 0x101 []) ∧
      (∀ i : Fin 16, x.par 0 1 = dieSel i → answers (.healthTelemetry m) d 0
        [BitVec.ofNat 32 (leAt (d.budget i).report 4 4), BitVec.ofNat 32 (leAt (d.budget i).report 8 4),
         BitVec.ofNat 32 (leAt (d.budget i).report 12 4)])) ∧
    (s.starts m 0x0904 x →
      (x.par 0 4 < 150 ∨ 700 < x.par 0 4 → answers (.healthBudget m) d 0x101 []) ∧
      (150 ≤ x.par 0 4 → x.par 0 4 ≤ 700 → d.noWorld fz m Reg.PWR_CAP = false →
        answers (.healthBudget m) (put d Reg.PWR_CAP (x.par 0 4)) 0 []) ∧
      (150 ≤ x.par 0 4 → x.par 0 4 ≤ 700 → d.noWorld fz m Reg.PWR_CAP = true → answers (.healthBudget m) d 0x102 [])) ∧
    (s.starts m 0x0905 x →
      (isDieSel (x.par 0 1) = false ∨ 1 < x.par 2 1 ∨ (x.par 1 1 = 0xFF ∧ 12 ≤ x.par 0 1) ∨ (4 ≤ x.par 1 1 ∧ x.par 1 1 ≠ 0xFF) →
        answers (.healthScrub m) d 0x101 []) ∧
      (x.par 2 1 ≤ 1 → x.par 0 1 ≤ 11 → x.par 1 1 = 0xFF → d.noWorld fz m (Reg.GLEAN_CTL (x.par 0 1)) = false →
        answers (.healthScrub m) (put d (Reg.GLEAN_CTL (x.par 0 1))
          (setBits (d.rdWord (Reg.GLEAN_CTL (x.par 0 1))) 0 1 (x.par 2 1)).toNat) 0 []) ∧
      (∀ (i : Fin 16) (k : Fin 4), x.par 2 1 ≤ 1 → x.par 0 1 = dieSel i → x.par 1 1 = k →
        (i.val < 12 → 2 ≤ k.val → answers (.healthScrub m) d 0x101 []) ∧
        ((i.val < 12 → k.val < 2) → d.noWorld fz m (Reg.ERR_SCRUB_CTL (dieSel i) k) = false →
          answers (.healthScrub m) (put d (Reg.ERR_SCRUB_CTL (dieSel i) k)
            (setBits (d.rdWord (Reg.ERR_SCRUB_CTL (dieSel i) k)) 0 1 (x.par 2 1)).toNat) 0 []))) ∧
    (s.starts m 0x0906 x →
      (5 < x.par 0 1 → answers (.healthIrq m) d 0x101 []) ∧
      (x.par 0 1 ≤ 5 → answers (.healthIrq m) { d with fw := { d.fw with irqSev := x.par 0 1 } } 0 [])) ∧
    (s.starts m 0x0907 x → d.noWorld fz m Reg.ERR_HALT_STATUS = false →
      let y := d.fwReads fz m [Reg.ERR_HALT_STATUS, Reg.ERR_HALT_CAUSE, Reg.ERR_HALT_UNIT, Reg.ERR_HALT_TIME_LO, Reg.ERR_HALT_TIME_HI]
      answers (.healthHalt m) y.2 0 y.1) ∧
    (∀ v : Dev, s.live = true → v = d.hostTake h → (s.withDev v).starts m 0x0A01 x →
      let begins (e : Dev) (j : Job) : Prop := exec (.secKeyInstall m h) s = .next (s.withDev (e.startJob fz m j))
      let l := Memory.readBytes v.host.mem (x.par 8 8) 256
      (v.frozenSp 5 = true → exec (.secKeyInstall m h) s = .next (s.withDev (v.setMb m { v.mb m with waits := true }))) ∧
      (v.frozenSp 5 = false → v.hostReaches (x.par 8 8) 256 = false → ∃ (e : Dev) (w : Word), e.mem = d.mem ∧
        begins e { desc := x, status := 0x201, r := [w] }) ∧
      (v.frozenSp 5 = false → v.hostReaches (x.par 8 8) 256 = true →
        (keySlots (x.par 0 1) ≤ x.par 1 1 ∨ leAt l 4 1 ≠ x.par 0 1 ∨ leAt l 5 1 ≠ x.par 1 1 → begins v (refuse x 0x101)) ∧
        (x.par 1 1 < keySlots (x.par 0 1) → leAt l 4 1 = x.par 0 1 → leAt l 5 1 = x.par 1 1 →
          (v.on Reg.SEC_UNWRAP_STATUS_busy = true → begins v (refuse x 0x104)) ∧
          (v.on Reg.SEC_UNWRAP_STATUS_busy = false → begins
            (put (put { v with mem := Memory.writeBytes d.mem 0x70000FFF00 l } Reg.SEC_UNWRAP_STATUS 2) Reg.SEC_UNWRAP_CTL
              (0xFFF00 + 2 ^ 20)) { desc := x, wait := .unwrap })))) ∧
    (s.starts m 0x0A02 x →
      (keySlots (x.par 0 1) ≤ x.par 1 1 → answers (.secKeyClear m) d 0x101 []) ∧
      (x.par 1 1 < keySlots (x.par 0 1) → answers (.secKeyClear m)
        (let l := slice (toBytes (0x4B424C57 + x.par 0 1 * 2 ^ 32 + x.par 1 1 * 2 ^ 40) 8) 0 256
         put { d with mem := Memory.writeBytes d.mem 0x70000FFF00 l } Reg.SEC_UNWRAP_CTL (0xFFF00 + 2 ^ 21)) 0 [])) ∧
    (s.starts m 0x0A03 x →
      (1 < x.par 4 1 ∨ 3 < x.par 0 1 → starts (.secWorldSet m) d (refuse x 0x101)) ∧
      (∀ f : Fin 384, x.par 0 1 = 0 → x.par 2 2 = f → x.par 4 1 ≤ 1 →
        (d.running = true ∨ d.reconfiguring f = true → starts (.secWorldSet m) d (refuse x 0x103)) ∧
        (d.running = false → d.reconfiguring f = false → starts (.secWorldSet m) (put d (Reg.SEC_FIELD_WORLD (f.val / 32))
          (setBits (d.rdWord (Reg.SEC_FIELD_WORLD (f.val / 32))) (f.val % 32) 1 (x.par 4 1)).toNat) { desc := x, wait := .fieldWorld f })) ∧
      (x.par 4 1 ≤ 1 → (x.par 0 1 = 0 ∧ 384 ≤ x.par 2 2) ∨ ((x.par 0 1 = 1 ∨ x.par 0 1 = 2) ∧ 64 ≤ x.par 2 2) ∨
        (x.par 0 1 = 3 ∧ (x.par 2 2 = 0 ∨ 26 ≤ x.par 2 2)) → starts (.secWorldSet m) d (refuse x 0x101)) ∧
      (∀ g : Fin 64, x.par 0 1 = 1 → x.par 2 2 = g → x.par 4 1 ≤ 1 → starts (.secWorldSet m) (put d (Reg.SEC_GRAN_WORLD (g.val / 16))
        (setBits (d.rdWord (Reg.SEC_GRAN_WORLD (g.val / 16))) (g.val % 16) 1 (x.par 4 1)).toNat) { desc := x, wait := .worldFlush }) ∧
      (∀ (g : Fin 64) (e : Dev), x.par 0 1 = 2 → x.par 2 2 = g → x.par 4 1 ≤ 1 →
        let a := if g.val < 32 then Reg.SEC_HBM_WORLD_LO else Reg.SEC_HBM_WORLD_HI
        e = (if x.par 4 1 = 0 ∧ (d.rdWord a).getLsbD (g.val % 32) = true then d.zeroHbmRegion g else d) →
        starts (.secWorldSet m) (put e a (setBits (e.rdWord a) (g.val % 32) 1 (x.par 4 1)).toNat) { desc := x, wait := .worldFlush }) ∧
      (x.par 0 1 = 3 → x.par 4 1 ≤ 1 → 1 ≤ x.par 2 2 → x.par 2 2 < 26 →
        (d.on Reg.SEC_LOCK_lock = true ∨ (x.par 4 1 = 0 ∧ x.par 2 2 ∈ [9, 19, 20]) → starts (.secWorldSet m) d (refuse x 0x103)) ∧
        (d.on Reg.SEC_LOCK_lock = false → (x.par 4 1 = 1 ∨ x.par 2 2 ∉ [9, 19, 20]) → starts (.secWorldSet m)
          (put d Reg.SEC_PAGE_WORLD (setBits (d.rdWord Reg.SEC_PAGE_WORLD) (x.par 2 2) 1 (x.par 4 1)).toNat) { desc := x }))) ∧
    (∀ (v : Dev) (l : List Byte), s.live = true → v = d.hostTake h → l = Memory.readBytes v.host.mem (x.par 8 8) 240 →
      (s.withDev v).starts m 0x0A04 x →
      let begins (e : Dev) (j : Job) : Prop := exec (.secLifecycle m h vcc) s = .next (s.withDev (e.startJob fz m j))
      (v.frozenSp 5 = true → exec (.secLifecycle m h vcc) s = .next (s.withDev (v.setMb m { v.mb m with waits := true }))) ∧
      (v.frozenSp 5 = false → v.hostReaches (x.par 8 8) 240 = false → ∃ (e : Dev) (w : Word), e.sec = d.sec ∧
        begins e { desc := x, status := 0x201, r := [w] }) ∧
      (v.frozenSp 5 = false → v.hostReaches (x.par 8 8) 240 = true →
        (x.par 0 1 = 0 ∨ 5 < x.par 0 1 ∨ leAt l 4 1 ≠ x.par 0 1 → begins v (refuse x 0x101)) ∧
        (1 ≤ x.par 0 1 → x.par 0 1 ≤ 5 → leAt l 4 1 = x.par 0 1 →
          (v.on Reg.LC_REQ_STATUS_busy = true → begins v (refuse x 0x104)) ∧
          (v.on Reg.LC_REQ_STATUS_busy = false → begins (sent v l) { desc := x, wait := .lifecycle })))) ∧
    (s.starts m 0x0A05 x →
      let e := put d Reg.LC_CHALLENGE_CTL 1
      let y := e.fwReads fz m [Reg.LC_CHALLENGE 0, Reg.LC_CHALLENGE 1, Reg.LC_CHALLENGE 2, Reg.LC_CHALLENGE 3]
      answers (.secChallenge m) y.2 0 y.1) ∧
    (∀ (v : Dev) (l : List Byte), s.live = true → v = d.hostTake h → l = Memory.readBytes v.host.mem (x.par 8 8) 240 →
      (s.withDev v).starts m 0x0A06 x →
      let begins (e : Dev) (j : Job) : Prop := exec (.secUnlock m h vcc) s = .next (s.withDev (e.startJob fz m j))
      (v.frozenSp 5 = true → exec (.secUnlock m h vcc) s = .next (s.withDev (v.setMb m { v.mb m with waits := true }))) ∧
      (v.frozenSp 5 = false → v.hostReaches (x.par 8 8) 240 = false → ∃ (e : Dev) (w : Word), e.sec = d.sec ∧
        begins e { desc := x, status := 0x201, r := [w] }) ∧
      (v.frozenSp 5 = false → v.hostReaches (x.par 8 8) 240 = true →
        (leAt l 4 1 ≠ 0x10 ∧ leAt l 4 1 ≠ 0x20 → begins v (refuse x 0x101)) ∧
        (leAt l 4 1 = 0x10 ∨ leAt l 4 1 = 0x20 →
          (v.on Reg.LC_REQ_STATUS_busy = true → begins v (refuse x 0x104)) ∧
          (v.on Reg.LC_REQ_STATUS_busy = false → begins (sent v l) { desc := x, wait := .lifecycle })))) ∧
    (s.starts m 0x0A07 x →
      (8 ≤ x.par 0 1 → starts (.secWipe m) d (refuse x 0x101)) ∧
      (x.par 0 1 < 8 →
        let areas : List WipeArea := (if bitOf (x.par 0 1) 2 then [.keys] else []) ++ (if bitOf (x.par 0 1) 1 then [.memsec] else []) ++
          (if bitOf (x.par 0 1) 0 then [.granary] else [])
        starts (.secWipe m) (each areas (fun a d => d.wipeStart false a) d) { desc := x, wait := .wipes })) ∧
    (s.starts m 0x0B01 x → thaw →
      let a := granBase 0 + d.traceBase + x.par 0 4
      (0x40000 < x.par 0 4 + x.par 4 4 → starts (.debugTraceRead m) d (refuse x 0x101)) ∧
      (x.par 0 4 + x.par 4 4 ≤ 0x40000 → d.noRange fz m a (x.par 4 4) = true → starts (.debugTraceRead m) d (refuse x 0x102)) ∧
      (x.par 0 4 + x.par 4 4 ≤ 0x40000 → d.noRange fz m a (x.par 4 4) = false →
        (match d.busReadN fz (mbDma fz m) a (x.par 4 4) with
         | (.ok l, e) => starts (.debugTraceRead m) (e.hostWrite (x.par 8 8) l) { desc := x, r := [BitVec.ofNat 32 (x.par 4 4)] }
         | (.wait, e) => exec (.debugTraceRead m) s = .next (s.withDev (e.setMb m { e.mb m with waits := true }))
         | (.err, _) => ∃ (e : Dev) (w : Word), starts (.debugTraceRead m) e { desc := x, status := 0x201, r := [w] }) ∧
        (∀ b off : Nat, placeOf a = some (.gran b off) → 0 < x.par 4 4 → a % 64 + x.par 4 4 ≤ 64 → d.heldDie 16 = false →
          d.heldDie (baseSel b) = false → d.worldBad (fz.mbxSecure m) a = false → d.wipeGate a (.gran b off) = none →
          16 * b + off / 0x180000 ∉ d.sec.zeroing → d.asleep (retGran b (off / 0x180000)) = false →
          (∀ w ∈ granWords a (x.par 4 4), d.granMark w = {}) → d.on (Reg.NOC_STAT_CTL_en 16 19) = false →
          ∃ e : Dev, e.mem = d.mem ∧ e.errs = d.errs ∧ starts (.debugTraceRead m)
            (e.hostWrite (x.par 8 8) ((List.range (x.par 4 4)).map (fun i => d.mem.read (d.granAt (a + i)))))
            { desc := x, r := [BitVec.ofNat 32 (x.par 4 4)] }))) ∧
    (s.starts m 0x0B02 x →
      (4 ≤ x.par 4 1 → answers (.debugTraceCtl m) d 0x101 []) ∧
      (∀ c : Fin 4, x.par 4 1 = c →
        (d.noWorld fz m (Reg.SP_MARK_EN c) = true → answers (.debugTraceCtl m) d 0x102 []) ∧
        (d.noWorld fz m (Reg.SP_MARK_EN c) = false →
          answers (.debugTraceCtl m) (d.wrWord (Reg.SP_MARK_EN c) (BitVec.ofNat 32 (x.par 0 4))) 0 []))) ∧
    (∀ k : Job, s.live = true → d.urgentIrq = 0 → (d.mb m).job = some k → d.served fz m = true → d.longTurn fz m = true →
      let u := d.tookTurn fz m
      let ends (e : Dev) (st : Nat) (r : List Word) : Prop := exec (.longCommandStep m done) s =
        .next (s.withDev ((e.setMb m { e.mb m with job := none }).finish m k.desc st r 0 (k.steps + 1)))
      let waits : Prop := k.desc.progress = false → exec (.longCommandStep m done) s = .next (s.withDev (u.setMb m { u.mb m with
        job := some { k with steps := k.steps + 1 } }))
      (∀ f : Nat, k.wait = .fieldWorld f →
        (f ∈ d.sec.clearing → waits) ∧ (f ∉ d.sec.clearing → ends u 0 [])) ∧
      (k.wait = .worldFlush →
        (d.rc.flushAll = true ∨ d.sec.zeroing ≠ [] ∨ d.sec.worldWait ≠ [] → waits) ∧
        (d.rc.flushAll = false → d.sec.zeroing = [] → d.sec.worldWait = [] → ends u 0 [])) ∧
      (k.wait = .unwrap →
        (d.on Reg.SEC_UNWRAP_STATUS_busy = true → waits) ∧
        (d.on Reg.SEC_UNWRAP_STATUS_busy = false → d.on Reg.SEC_UNWRAP_STATUS_fail = false → ends u 0 []) ∧
        (d.on Reg.SEC_UNWRAP_STATUS_busy = false → d.on Reg.SEC_UNWRAP_STATUS_fail = true →
          ends u.logPoll 0x201 [u.logPoll.logIndexOf k.since [0x1302]])) ∧
      (k.wait = .lifecycle →
        (d.on Reg.LC_REQ_STATUS_busy = true → waits) ∧
        (d.on Reg.LC_REQ_STATUS_busy = false → d.on Reg.LC_REQ_STATUS_fail = false →
          k.desc.op = 0x0A06 ∨ fz.lc = leAt k.desc.p 0 1 → ends u 0 []) ∧
        (d.on Reg.LC_REQ_STATUS_busy = false → d.on Reg.LC_REQ_STATUS_fail = true → d.get Reg.LC_REQ_STATUS_fail_code ∈ [4, 6] →
          ends u.logPoll 0x103 []) ∧
        (d.on Reg.LC_REQ_STATUS_busy = false → d.on Reg.LC_REQ_STATUS_fail = true → d.get Reg.LC_REQ_STATUS_fail_code ∉ [4, 6] →
          ends u.logPoll 0x201 [u.logPoll.logIndexOf k.since [0x1402]])) ∧
      (k.wait = .wipes → (d.sec.wipes ≠ [] → waits) ∧ (d.sec.wipes = [] → ends u 0 [])))

/-! ### Worlds, keys, the lifecycle and tamper (chapter 13) -/

/-- Changes of world (R210, R215, R423, R425, R426): a field's world changes only while the pacer is stopped; a field or region that
turns non-secure is cleared first, and is secure until that is done; granary and HBM changes wait for a flush of the remote caches;
SEC_LOCK fixes partitions, pages and tamper enables. -/
def Obligations.ChangesOfWorld : Prop :=
  ∀ (s : State) (who : Who) (k : Fin 12) (b : Fin 4) (g : Fin 16) (f : Fin 384) (hi : Bool) (v : Word),
    let d := s.dev
    let a := if hi then Reg.SEC_HBM_WORLD_HI else Reg.SEC_HBM_WORLD_LO
    let lo := granBase b + g * 0x180000
    let quiet := d.noc.waiting = [] ∧ d.host.waits = []
    (s.reaches who (Reg.SEC_FIELD_WORLD k) →
      (d.running = true → exec (.secFieldWorldWrite who k v) s = .next (s.withDev (d.set Reg.SEC_STATUS_cmd_refused 1))) ∧
      (d.running = false → d.cfg.reconf = [] →
        (∀ i : Fin 32, (d.rdWord (Reg.SEC_FIELD_WORLD k)).getLsbD i = true → v.getLsbD i = true) →
        ∃ t, exec (.secFieldWorldWrite who k v) s = .next t ∧ t.dev.rdWord (Reg.SEC_FIELD_WORLD k) = v ∧ t.dev.mem = d.mem) ∧
      (∀ i : Fin 32, d.running = false → d.cfg.reconf = [] → (d.rdWord (Reg.SEC_FIELD_WORLD k)).getLsbD i = true →
        v.getLsbD i = false →
        ∃ t, exec (.secFieldWorldWrite who k v) s = .next t ∧ t.dev.fieldSecure (32 * k.val + i.val) = true ∧ 32 * k.val + i.val ∈ t.dev.sec.clearing ∧
          (∀ x : Nat, x < 0xC0000 → t.dev.mem.read (binBase (32 * k.val + i.val) 0 + x) = 0) ∧
          (∀ x : Nat, x < 0x1E000 → t.dev.mem.read (tileBase (32 * k.val + i.val) 0 + x) = 0))) ∧
    (s.live = true →
      (f.val ∉ d.sec.clearing → exec (.fieldWorldClearDone f) s = .next s) ∧
      (f.val ∈ d.sec.clearing → ∃ t, exec (.fieldWorldClearDone f) s = .next t ∧ f.val ∉ t.dev.sec.clearing ∧
        t.dev.fieldSecure f = false ∧ (∀ x : Nat, x < 0xC0000 → t.dev.mem.read (binBase f 0 + x) = 0)) ∧
      (16 * b.val + g.val ∉ d.sec.zeroing → quiet → exec (.granaryZeroDone b g) s = .next s) ∧
      (16 * b.val + g.val ∈ d.sec.zeroing → quiet →
        ((∃ e ∈ d.rc.dir, lo ≤ e.1 ∧ e.1 < lo + 0x180000) → (∀ e ∈ d.rc.dir, lo ≤ e.1 ∧ e.1 < lo + 0x180000 → e.2.pend ≠ 0) →
          exec (.granaryZeroDone b g) s = .next s) ∧
        (∀ (l : Nat) (e : DirEntry), d.rc.dir = [(l, e)] → lo ≤ l → l < lo + 0x180000 → e.pend = 0 → d.liveSharers e.sharers ≠ 0 →
          ∃ t, exec (.granaryZeroDone b g) s = .next t ∧ 16 * b.val + g.val ∈ t.dev.sec.zeroing ∧ t.dev.mem = d.mem ∧
            t.dev.rc.dir = [(l, { pend := d.liveSharers e.sharers, frees := true })] ∧
            (∀ c : Fin 12, (d.liveSharers e.sharers).getLsbD c = true →
              ∃ p ∈ t.dev.noc.flights, p.pkt.type = 0xB ∧ p.pkt.addr = l ∧ p.die = c)) ∧
        ((∀ e ∈ d.rc.dir, ¬ (lo ≤ e.1 ∧ e.1 < lo + 0x180000)) → ∃ t, exec (.granaryZeroDone b g) s = .next t ∧
          16 * b.val + g.val ∉ t.dev.sec.zeroing ∧ (∀ x : Nat, x < 0x180000 → t.dev.mem.read (lo + x) = 0) ∧
          (∀ w : Word, d.sec.worldWait.find? (fun e => e.1 == Reg.SEC_GRAN_WORLD b) = some (Reg.SEC_GRAN_WORLD b, w) →
            d.sec.zeroing = [16 * b.val + g.val] → t.dev.rdWord (Reg.SEC_GRAN_WORLD b) = w)))) ∧
    (∀ w : Word, let e := d.worldApply (Reg.SEC_GRAN_WORLD b) w
      (16 * b.val + g.val ∈ d.sec.zeroing → (e.rdWord (Reg.SEC_GRAN_WORLD b)).getLsbD g = true) ∧
      (16 * b.val + g.val ∉ d.sec.zeroing → (e.rdWord (Reg.SEC_GRAN_WORLD b)).getLsbD g = w.getLsbD g) ∧
      (d.worldApply a w).rdWord a = w) ∧
    (s.reaches who (Reg.SEC_GRAN_WORLD b) →
      let w := d.granWorldWord b v
      (w = d.rdWord (Reg.SEC_GRAN_WORLD b) → (∀ e ∈ d.rc.afterFlush, e.1 ≠ Reg.SEC_GRAN_WORLD b) →
        exec (.secGranWorldWrite who b v) s = .next s) ∧
      (w ≠ d.rdWord (Reg.SEC_GRAN_WORLD b) → ∃ t, exec (.secGranWorldWrite who b v) s = .next t ∧ t.dev.rc.flushAll = true ∧
        (Reg.SEC_GRAN_WORLD b, w) ∈ t.dev.rc.afterFlush ∧ t.dev.regs = d.regs ∧ t.dev.mem = d.mem ∧
        ((d.rdWord (Reg.SEC_GRAN_WORLD b)).getLsbD g = true → w.getLsbD g = false → 16 * b.val + g.val ∈ t.dev.sec.zeroing))) ∧
    (d.on Reg.SEC_LOCK_lock = true → bits (d.granWorldWord b v) 16 4 = bits (d.rdWord (Reg.SEC_GRAN_WORLD b)) 16 4 ∧
      d.pageWorldWrite v = d ∧ d.tamperEn s.fuses v = d) ∧
    bits (d.granWorldWord b v) 0 16 = bits v 0 16 ∧
    (d.on Reg.SEC_LOCK_lock = false → bits (d.granWorldWord b v) 16 4 = bits v 16 4 ∧
      (d.pageWorldWrite v).rdWord Reg.SEC_PAGE_WORLD = (v &&& 0x03FFFFFE#32) ||| 0x00180200#32) ∧
    (s.reaches who a →
      (v = d.rdWord a → (∀ e ∈ d.rc.afterFlush, e.1 ≠ a) → exec (.secHbmWorldWrite who hi v) s = .next s) ∧
      (v ≠ d.rdWord a → ∃ t, exec (.secHbmWorldWrite who hi v) s = .next t ∧ t.dev.rc.flushAll = true ∧
        (a, v) ∈ t.dev.rc.afterFlush ∧ t.dev.regs = d.regs ∧ t.dev.mem = d.mem)) ∧
    (s.reaches who Reg.SEC_LOCK → ∃ t, exec (.secLock who) s = .next t ∧ t.dev.on Reg.SEC_LOCK_lock = true ∧ t.dev.mem = d.mem)

/-- Keys, the lifecycle, tamper and wipes (R428, R429, R431 to R433, R435, R436): the unwrap engine starts at a go and loads a slot or
fails with a code; a challenge is used up by any request and is good for 60 s; a lifecycle request that is refused changes no fuse, and one
that is accepted wipes keys, protected memory and the secure granary before its fuses are blown one by one; no action leads back; a tamper
source that is enabled wipes and halts, after a fuse that is being blown. The nonce is a free value (log entry 1), and the order of the
checks that end in different codes is the model's choice (log entry 35). -/
def Obligations.KeysLifecycleAndTamper : Prop :=
  ∀ (s : State) (who : Who) (offset : BitVec 20) (vcc ok : Bool) (i : Fin 5) (area : WipeArea),
    let d := s.dev
    let fz := s.fuses
    let x := d.lcReq
    let action := leAt x 4 1
    let quiet := d.noc.waiting = [] ∧ d.host.waits = []
    (s.reaches who Reg.SEC_UNWRAP_CTL →
      (∃ t, exec (.secUnwrapGo who offset) s = .next t ∧ t.dev.get Reg.SEC_UNWRAP_CTL_offset = offset.toNat ∧ t.dev.sec = d.sec ∧
        ((∀ c : Fin 4, who = .core c → c = 0) → t.dev.on Reg.SEC_UNWRAP_STATUS_busy = true) ∧
        ((∃ c : Fin 4, who = .core c ∧ c ≠ 0) → t.dev.on Reg.SEC_UNWRAP_STATUS_busy = d.on Reg.SEC_UNWRAP_STATUS_busy)) ∧
      (let l := Memory.readBytes d.mem (0x7000000000 + offset.toNat) 256
       ∃ t, exec (.secUnwrapClear who offset) s = .next t ∧ t.dev.get Reg.SEC_UNWRAP_CTL_offset = offset.toNat ∧
        (leAt l 5 1 < keySlots (leAt l 4 1) → t.dev.keyAt (leAt l 4 1) (leAt l 5 1) = []) ∧
        (∀ u n : Nat, n < 16 → (u, n) ≠ (leAt l 4 1, leAt l 5 1) → t.dev.keyAt u n = d.keyAt u n))) ∧
    (∀ (use_ slot : Nat) (key : List Byte), slot < keySlots use_ → (d.keyLoad use_ slot key).keyAt use_ slot = key ∧
      (∀ u n : Nat, n < 16 → (u, n) ≠ (use_, slot) → (d.keyLoad use_ slot key).keyAt u n = d.keyAt u n)) ∧
    (s.live = true →
      (d.on Reg.SEC_UNWRAP_STATUS_busy = false → exec .keyUnwrapDone s = .next s) ∧
      (d.on Reg.SEC_UNWRAP_STATUS_busy = true → ∃ t, exec .keyUnwrapDone s = .next t ∧
        t.dev.on Reg.SEC_UNWRAP_STATUS_busy = false ∧
        (let l := Memory.readBytes d.mem (0x7000000000 + d.get Reg.SEC_UNWRAP_CTL_offset) 256
         let use_ := leAt l 4 1
         let slot := leAt l 5 1
         let fails (code : Nat) : Prop := t.dev.on Reg.SEC_UNWRAP_STATUS_fail = true ∧ t.dev.get Reg.SEC_UNWRAP_STATUS_fail_code = code ∧
            t.dev.sec = d.sec
         let good := d.get Reg.SEC_UNWRAP_CTL_offset % 256 = 0 ∧ leAt l 0 4 = 0x4B424C57 ∧ slot < keySlots use_ ∧
           leAt l 6 1 = (if use_ = 3 then 96 else 32)
         let key := kdf (Config.ecdh384 fz.identityKey (slice l 8 96)) "ML-WRAP" (slice l 0 8) 256
         (¬ good → fails 1) ∧
         (good → use_ = 1 → d.slotInUse slot = true → fails 3) ∧
         (good → (use_ = 1 → d.slotInUse slot = false) →
           if Config.gcmTag key (slice l 104 12) (slice l 0 8) (slice l 116 96) = slice l 212 16 then
             t.dev.keyAt use_ slot = (gcmMask key (slice l 104 12) (slice l 116 96) 0).take (leAt l 6 1)
           else fails 2))) ∧
      (let fresh := d.on Reg.LC_CHALLENGE_CTL_valid = true ∧ d.now < d.sec.challengeAt + 960000000000
       (fresh → exec .challengeExpiry s = .next s) ∧
       (¬ fresh → exec .challengeExpiry s = .next (s.withDev (d.set Reg.LC_CHALLENGE_CTL_valid 0)))) ∧
      (d.sec.lc = none → exec (.fuseBlowDone ok) s = .next s) ∧
      (∀ j : LcJob, d.sec.lc = some j → j.blowing = false → exec (.fuseBlowDone ok) s = .next s) ∧
      (∀ (j : LcJob) (n : Nat) (rest : List Nat), d.sec.lc = some j → j.plan = n :: rest → j.blowing = true →
        ∃ t, exec (.fuseBlowDone ok) s = .next t ∧ t.fuses = (if ok then fz.blow n else fz) ∧
          (d.sec.haltDue = none → rest ≠ [] → t.dev.sec.lc = some { j with plan := rest }) ∧
          (rest = [] ∨ d.sec.haltDue ≠ none → t.dev.sec.lc = none ∧ t.dev.on Reg.LC_REQ_STATUS_busy = false) ∧
          (d.sec.haltDue ≠ none → t.dev.halted = true ∧ t.dev.sec.haltDue = none)) ∧
      (d.bit Reg.SEC_TAMPER_EN_enable i = false → i ≠ 0 → exec (.tamperDetect i) s = .next s) ∧
      (d.bit Reg.SEC_TAMPER_EN_enable 0 = false →
        exec (.tamperDetect 0) s = .next (s.withDev { d with sec := { d.sec with tamperPin := false } })) ∧
      (d.bit Reg.SEC_TAMPER_EN_enable i = true → ∃ t, exec (.tamperDetect i) s = .next t ∧
        t.dev.on Reg.SEC_STATUS_core0_held = true ∧ (t.dev.core 0).running = false ∧ t.dev.bit Reg.SEC_TAMPER_STATUS_seen i = true ∧
        (∀ w : WipeArea, (w, true) ∈ t.dev.sec.wipes) ∧
        (d.fuseBusy = false → t.dev.halted = true ∧ t.dev.sec.lc = none) ∧
        (d.fuseBusy = true → t.dev.halted = d.halted ∧ t.dev.sec.lc = d.sec.lc ∧
          t.dev.sec.haltDue = some (d.sec.haltDue.getD (0x1303 + i)))) ∧
      ((∀ e ∈ d.sec.wipes, e.1 ≠ area) → quiet → exec (.wipeDone area) s = .next s) ∧
      (∀ e ∈ d.sec.wipes, e.1 = area → quiet →
        (area = .granary → ∀ b : Fin 4, ∀ r : Fin 16, d.asleep (retGran b r) = false) →
        ∃ t, exec (.wipeDone area) s = .next t ∧ t.dev.sec.wipes = d.sec.wipes.filter (fun e => e.1 != area) ∧
          (area = .keys → t.dev.sec.keys = []) ∧
          (area = .memsec → ∀ (m : Fin 8) (r : Fin 4), t.dev.rgnState m r = 0) ∧
          (area = .granary → ∀ (b : Fin 4) (n : Nat), n < d.partitionBytes b → t.dev.mem.read (granBase b + n) = 0) ∧
          (area = .sp → ∀ n : Nat, n < 0x100000 → t.dev.mem.read (0x7000000000 + n) = 0) ∧
          (∀ j : LcJob, d.sec.lc = some j → t.dev.sec.wipes = [] → t.dev.sec.lc = some { j with blowing := true }))) ∧
    (s.reaches who Reg.LC_CHALLENGE_CTL → ∃ t, exec (.lcChallengeNew who) s = .next t ∧ t.dev.on Reg.LC_CHALLENGE_CTL_valid = true ∧
      t.dev.free = d.free + 1 ∧ t.dev.sec.challengeAt = d.now ∧
      (∀ n : Fin 4, t.dev.rdWord (Reg.LC_CHALLENGE n) = d.freeVal.extractLsb' (32 * n) 32)) ∧
    (∀ c : Fin 8, (d.lcFail c).on Reg.LC_REQ_STATUS_fail = true ∧ (d.lcFail c).get Reg.LC_REQ_STATUS_fail_code = c ∧
      (d.lcFail c).sec = d.sec ∧
      (d.lcAuthFail c).on Reg.LC_REQ_STATUS_fail = true ∧ (d.lcAuthFail c).get Reg.LC_REQ_STATUS_fail_code = c) ∧
    (s.reaches who Reg.LC_REQ_GO →
      let e : Dev := { d with pwr := { d.pwr with vccFuse := vcc } }
      let u := e.set Reg.LC_CHALLENGE_CTL_valid 0
      let goes (z : Dev) : Prop := exec (.lcReqGo who vcc) s = .next (s.withDev z)
      let changes := 1 ≤ action ∧ action ≤ 5
      let format := leAt x 0 4 = 0x4C435251 ∧ (action = 2 ∨ (leAt x 5 3 = 0 ∧ leAt x 32 2 = 0))
      let fresh := d.on Reg.LC_CHALLENGE_CTL_valid = true ∧ d.now < d.sec.challengeAt + 960000000000 ∧
        slice x 16 16 = (List.range 4).flatMap (fun n => toBytes (d.rdWord (Reg.LC_CHALLENGE n)).toNat 4)
      (d.on Reg.LC_REQ_STATUS_busy = true → goes e) ∧
      (d.on Reg.LC_REQ_STATUS_busy = false → changes → d.running = true → goes (e.lcFail 6)) ∧
      (d.on Reg.LC_REQ_STATUS_busy = false → (changes → d.running = false) →
        (¬ format → goes (u.lcFail 1)) ∧
        (format → lcAction action fz.lc = none → goes (u.lcFail 4)) ∧
        (∀ (r : Option Nat) (maker : Bool), format → lcAction action fz.lc = some (r, maker) →
          let good := Config.ecdsaVerify (slice x 48 96) (Config.sha384 (slice x 0 144)) (slice x 144 96) = true ∧
            (action = 2 ∨ (if maker then Config.sha384 (slice x 48 96) = Config.makerHash
              else BitVec.ofNat 384 (ofBytes (Config.sha384 (slice x 48 96))) = fz.rootHash))
          (leAt x 8 8 ≠ fz.serial.toNat → goes (u.lcAuthFail 1)) ∧
          (leAt x 8 8 = fz.serial.toNat → ¬ fresh → goes (u.lcAuthFail 3)) ∧
          (leAt x 8 8 = fz.serial.toNat → fresh → ∃ z, exec (.lcReqGo who vcc) s = .next z ∧ z.fuses = fz ∧
            z.dev.on Reg.LC_CHALLENGE_CTL_valid = false ∧
            (¬ good → z = s.withDev (u.lcAuthFail 2)) ∧
            (good → r = none → z.dev.sec.unlockNs = (d.sec.unlockNs || action == 0x10) ∧
              z.dev.sec.unlockFull = (d.sec.unlockFull || action == 0x20)) ∧
            (good → ∀ t : Nat, r = some t →
              (vcc = false → z = s.withDev (u.lcFail 5)) ∧
              (vcc = true → z.dev.on Reg.LC_REQ_STATUS_busy = true ∧ z.dev.sec.lc = some { old := fz.lc, plan := lcPlan x action t } ∧
                (∀ w : WipeArea, w ≠ .sp → ∃ p ∈ z.dev.sec.wipes, p.1 = w))))))) ∧
    (∀ (a st t : Nat) (maker : Bool), lcAction a st = some (some t, maker) → st < t ∧ t ≤ 5)

/-! ### Power and clocks (chapter 14, and the budgets of chapter 6) -/

/-- Regulators, the staggered start and budgets (R216, R217, R443, R444, R447, R449 to R453): a transaction is retried three times before its
fault is latched, and one that ends well moves its regulator by a step of at most 10 mV; a voltage outside 550 to 950 mV puts its die in
reset; the sequencer comes to compute die d 50 µs × d after go, releases the dies in order and waits 1 ms for a rail, and a die's fields wake
in order; a die over its budget lowers its voltage first and then spaces its waves, and one under 95 % of it takes back the spacing first; a
report goes to the service as a message, and a DIE_BUDGET that is older than the last one is dropped; the guard is judged by the cap in
force; a die without budgets falls back to its own. The points that the spec leaves open are those of log entries 37, 38 and 165. -/
def Obligations.RegulatorsStartAndBudgets : Prop :=
  ∀ (s : State) (who : Who) (c : Fin 12) (i : Fin 16) (f : Fin 384) (ok : Bool) (w : BitVec 16) (mv : Nat),
    let d := s.dev
    let sel := dieSel i
    let us (t n : Nat) : Prop := t + n * 16000 ≤ d.now
    let lasts (t n : Nat) : Prop := t = 0 ∨ us (t - 1) n
    let valid := d.on (Reg.PWR_PMB_ADDR_valid c) = true
    let tries := d.pwr.pmbTries.get c 0
    let turn := c.val ∈ d.pwr.startQueue ∧ us d.pwr.goAt (50 * c)
    let ready := d.pwr.startQueue.head? = some c.val ∧ d.pwr.regOn.getLsbD c = true ∧ lasts d.pwr.releasedAt 50
    let next := (dieFields (dieOf f)).find? (fun g => !decide (g ∈ d.pwr.awake)) = some f.val ∧
      ((dieFields (dieOf f)).head? = some f.val ∨ lasts (d.pwr.wokeAt.get (dieOf f) 0) 2)
    (s.live = true →
      (¬ valid → exec (.pmbTransactionEnd c ok w) s = .next s) ∧
      (valid → ok = true → ∃ t, exec (.pmbTransactionEnd c ok w) s = .next t ∧ t.dev.pwr.pmbTries.get c 0 = 0 ∧ t.dev.regs = d.regs ∧
        (d.pwr.regOn.getLsbD c = true → t.dev.voutOf c = voutStep (d.voutOf c) (d.get (Reg.PWR_VOLT_target c))) ∧
        (d.pwr.regOn.getLsbD c = false → t.dev.pwr.vout = d.pwr.vout)) ∧
      (valid → ok = false → tries < 3 → ∃ t, exec (.pmbTransactionEnd c ok w) s = .next t ∧ t.dev.pwr.pmbTries.get c 0 = tries + 1 ∧
        t.dev.regs = d.regs ∧ t.dev.pwr.vout = d.pwr.vout) ∧
      (valid → ok = false → 3 ≤ tries → ∃ t, exec (.pmbTransactionEnd c ok w) s = .next t ∧ t.dev.on Reg.PWR_PMB_STATUS_fault = true ∧
        t.dev.get Reg.PWR_PMB_STATUS_status_word = w.toNat ∧ t.dev.pwr.pmbTries.get c 0 = 0 ∧ t.dev.pwr.vout = d.pwr.vout) ∧
      exec (.pmbAlert []) s = .next s ∧
      (¬ valid → exec (.pmbAlert [(c, w)]) s = .next s) ∧
      (∀ r : List (Fin 12 × BitVec 16), valid → ∃ t, exec (.pmbAlert ((c, w) :: r)) s = .next t ∧
        t.dev.on Reg.PWR_PMB_STATUS_fault = true ∧ t.dev.pwr = d.pwr ∧ t.dev.mem = d.mem ∧
        (r = [] → t.dev.get Reg.PWR_PMB_STATUS_status_word = w.toNat ∧
          t.dev.get Reg.PWR_PMB_STATUS_addr = d.get (Reg.PWR_PMB_ADDR_addr c))) ∧
      (550 ≤ mv ∧ mv ≤ 950 ∨ d.bit Reg.PWR_START_started c = false → exec (.coreVoltageFault c mv) s = .next s) ∧
      (mv < 550 ∨ 950 < mv → d.bit Reg.PWR_START_started c = true → ∃ t, exec (.coreVoltageFault c mv) s = .next t ∧
        t.dev.heldDie c = true ∧ t.dev.bit Reg.PWR_DIE_RESET_cd c = true) ∧
      (¬ turn ∨ ¬ valid → exec (.regulatorOn c) s = .next s) ∧
      (turn → valid → ∃ t, exec (.regulatorOn c) s = .next t ∧ t.dev.pwr.regOn.getLsbD c = true ∧
        t.dev.voutOf c = d.get (Reg.PWR_VOLT_target c) ∧ t.dev.pwr.startQueue = d.pwr.startQueue ∧ t.dev.regs = d.regs) ∧
      (¬ ready → exec (.dieRelease c) s = .next s) ∧
      (ready → ∃ t, exec (.dieRelease c) s = .next t ∧ c.val ∉ t.dev.pwr.startQueue ∧ t.dev.bit Reg.PWR_START_started c = true ∧
        t.dev.pwr.releasedAt = d.now + 1 ∧
        (d.resetBit c = false → d.heldDie (baseSel (baseOf c)) = false → lasts (d.pwr.heldAt.get c 0) 1 → t.dev.heldDie c = false)) ∧
      (¬ turn ∨ (valid ∧ ¬ us d.pwr.goAt (50 * c + 1000)) → exec (.railTimeout c) s = .next s) ∧
      (turn → (valid → us d.pwr.goAt (50 * c + 1000)) → ∃ t, exec (.railTimeout c) s = .next t ∧ c.val ∉ t.dev.pwr.startQueue ∧
        t.dev.pwr.held = d.pwr.held ∧ t.dev.bit Reg.PWR_START_started c = d.bit Reg.PWR_START_started c) ∧
      (d.heldDie (dieOf f) = true ∨ ¬ next → exec (.fieldWake f) s = .next s) ∧
      (d.heldDie (dieOf f) = false → next → ∃ t, exec (.fieldWake f) s = .next t ∧ t.dev.pwr.awake = d.pwr.awake ++ [f.val]) ∧
      (d.heldDie c = true → exec (.budgetWindow c) s = .next s) ∧
      (d.noc.flights = [] → d.heldDie sel = true → exec (.dieReport i) s = .next s) ∧
      (d.noc.flights = [] → d.heldDie sel = false → (i.val < 12 ∨ (d.budget i).pending = none) →
        ∃ t, exec (.dieReport i) s = .next t ∧ (t.dev.budget i).reportSeq = ((d.budget i).reportSeq + 1) % 65536 ∧ t.dev.mem = d.mem ∧
          (d.routed sel (nodeNi (unitNode sel)) { route := ownRoute (unitNode sel) serviceNode } = true →
            ∃ p, t.dev.noc.flights = [p] ∧ p.pkt.type = 4 ∧ p.pkt.vc = 2 ∧ p.pkt.dst = serviceNode ∧ p.pkt.data = d.reportBytes i) ∧
          (i = 15 → t.dev.pwr.cap = d.capMw ∧ (d.on Reg.PWR_STATUS_guard = false →
            (d.pwr.cap < d.get Reg.PWR_TOTAL_mw → 2 ≤ d.pwr.overCap → t.dev.on Reg.PWR_STATUS_guard = true ∧
              t.dev.pwr.ceiling = some (d.ceilingMw d.pwr.cap)) ∧
            (d.get Reg.PWR_TOTAL_mw ≤ d.pwr.cap → t.dev.on Reg.PWR_STATUS_guard = false ∧ t.dev.pwr.overCap = 0)))) ∧
      (∀ (x : Flight) (msg : List Byte), d.noc.flights = [x] → d.lat = [] → x.arrived = true → x.pkt.type = 4 → x.pkt.data = msg →
        (x.pkt.dst = serviceNode → leAt msg 0 1 = 1 → leAt msg 1 1 = sel → d.heldDie sel = false →
          (i.val < 12 ∨ (d.budget i).pending = none) → ∃ t, exec (.dieReport i) s = .next t ∧ (t.dev.budget i).report = msg ∧
            t.dev.get Reg.PWR_TOTAL_mw = (List.range 16).foldl (fun n j => n + if j = i.val then leAt msg 4 4 else d.reported j) 0 %
              2 ^ Reg.PWR_TOTAL_mw.w ∧
            (d.spState = 3 → ∃ mw, (12 ≤ i.val → mw = leAt msg 4 4 + leAt msg 4 4 / 10) ∧ (i.val < 12 → 4000 ≤ mw) ∧
              (t.dev.budget i).sent = toBytes 2 1 ++ toBytes sel 1 ++ slice msg 2 2 ++ toBytes mw 4 ++ toBytes 600 2 ++ toBytes 900 2 ++
                toBytes 0 52)) ∧
        (x.pkt.dst = unitNode sel → leAt msg 0 1 = 2 → leAt msg 1 1 = sel →
          let age := (leAt msg 2 2 + 65536 - (d.budget i).seq.getD 0) % 65536
          ∃ t, exec (.dieBudget i) s = .next t ∧ t.dev.noc.flights = [] ∧ t.dev.regs = d.regs ∧
            (d.heldDie sel = true ∨ ((d.budget i).seq ≠ none ∧ 32768 ≤ age) → t.dev.budget i = d.budget i) ∧
            (d.heldDie sel = false → (d.budget i).seq = none ∨ age < 32768 →
              (t.dev.budget i).pending = some (leAt msg 2 2, leAt msg 4 4, leAt msg 8 2, leAt msg 10 2)))) ∧
      (d.noc.flights = [] → exec (.dieBudget i) s = .next s) ∧
      (d.heldDie sel = true ∨ d.on (Reg.PWR_DIE_STATUS_fallback sel) = true → exec (.budgetFallback i) s = .next s) ∧
      (d.heldDie sel = false → d.on (Reg.PWR_DIE_STATUS_fallback sel) = false →
        ∃ t, exec (.budgetFallback i) s = .next t ∧ t.dev.on (Reg.PWR_DIE_STATUS_fallback sel) = true ∧
          t.dev.get (Reg.PWR_BUDGET_mw sel) = d.get (Reg.PWR_FALLBACK_mw sel) % 2 ^ 32 ∧
          (t.dev.budget i).seq = (d.budget i).seq ∧ (t.dev.budget i).pending = (d.budget i).pending ∧ (t.dev.budget i).lo = 600 ∧
          (t.dev.budget i).hi = d.get (Reg.PWR_VSET_mv sel)) ∧
      (d.heldDie c = false → d.on (Reg.PWR_DIE_STATUS_trip c) = false → d.pwr.volts = [] → d.pwr.temps = [] →
        (∀ k : Fin 12, k ≠ c → d.sampled k = false) → d.running = false → d.pwr.ceiling = none → (d.budget c).pending = none →
        (d.budget c).lo ≤ d.get (Reg.PWR_VOLT_target c) → d.get (Reg.PWR_VOLT_target c) ≤ (d.budget c).hi →
        let v := d.get (Reg.PWR_VOLT_target c)
        let sp := d.get (Reg.FAB_WAVE_SPACING_spacing c)
        let b := d.get (Reg.PWR_BUDGET_mw c)
        let p := (d.sample c).mw
        let top := min (d.budget c).hi (d.get (Reg.PWR_VSET_mv c))
        ∃ t, exec (.budgetWindow c) s = .next t ∧
          t.dev.get (Reg.PWR_VOLT_target c) = (if b < p ∧ (d.budget c).lo < v then max (d.budget c).lo (v - 10)
            else if 100 * p < 95 * b ∧ sp = 0 ∧ v < top then min top (v + 10) else v) ∧
          t.dev.get (Reg.FAB_WAVE_SPACING_spacing c) = (if b < p ∧ ¬ (d.budget c).lo < v then min 4095 (sp + 16)
            else if 100 * p < 95 * b then sp - 16 else sp) ∧
          t.dev.get (Reg.PWR_DIE_STATUS_throttle c) = (if 0 < t.dev.get (Reg.FAB_WAVE_SPACING_spacing c) then 2
            else if t.dev.get (Reg.PWR_VOLT_target c) < d.get (Reg.PWR_VSET_mv c) then 1 else 0))) ∧
    (s.reaches who Reg.PWR_START →
      (d.pwr.went = true → exec (.pwrStartGo who) s = .next (s.withDev (d.set Reg.PWR_STATUS_cmd_refused 1))) ∧
      (d.pwr.went = false → ∃ t, exec (.pwrStartGo who) s = .next t ∧ t.dev.pwr.went = true ∧ t.dev.pwr.goAt = d.now ∧
        t.dev.pwr.startQueue = List.range 12 ∧ t.dev.on Reg.PWR_START_busy = true ∧ t.dev.pwr.held = d.pwr.held))

/-- The SMBus, retention, telemetry, wear and clocks (R445, R454 to R459, R462 to R465, R467, Tables 14.2 and 14.5): each SMBus read answers the
bytes of its table and a packet error code, and a cap that is written is clamped; a memory that is wanted again wakes before it can be used; a
paused telemetry unit shows its old sample, and a die at its trip is throttled; a wear measurement shows the margin it recommends; a lost PHY
lock holds its stacks; a gate command that may not act says why; a switch that is forced is recorded. The packet error code is the model's
choice (log entry 166). -/
def Obligations.SmbusTelemetryAndClocks : Prop :=
  ∀ (s : State) (who : Who) (i : Fin 16) (x : Sample) (slow : Nat) (b : Fin 4) (which : Fin 3) (m : Fin 8) (u : Fin 448) (v : Word)
    (cap : BitVec 16) (pec : Option Byte) (q : Fin 17) (block : BitVec 8) (merged : Bool),
    let d := s.dev
    let sel := dieSel i
    let die := anyDie q
    let r := (retBit u).1
    let n := (retBit u).2
    let quiet := d.noc.waiting = [] ∧ d.host.waits = []
    let address (k : Nat) : Byte := BitVec.ofNat 8 (2 * d.get Reg.PWR_SMB_ADDR_addr + k)
    let answers (c : Instr) (code : Byte) (l : List Byte) : Prop := ∃ t, exec c s = .next t ∧ t.dev.mem = d.mem ∧
      t.dev.pwr.smb = l ++ [smbPec ([address 0, code, address 1] ++ l)] ∧ t.dev.bit (Reg.CLK_GATE_EN_en 32) 4 = true
    let badPec := pec ≠ none ∧ pec ≠ some (smbPec ([address 0, 4] ++ toBytes cap.toNat 2))
    let trip := 10 * ((min (d.get Reg.TEL_ALERT_CTL_trip_c) 160 : Nat) : Int)
    (d.pwr.porst = false → ∀ c ∈ [Instr.status, .power, .tempLogic, .tempHbm, .diePower, .capLimit none, .capLimit (some (cap, pec))],
      exec c s = .next s) ∧
    (d.pwr.porst = true →
      answers .status 0 (toBytes d.smbStatus 1) ∧
      answers .power 1 (toBytes (d.get Reg.PWR_TOTAL_mw / 1000) 2) ∧
      answers .tempLogic 2 (toBytes (BitVec.ofInt 16 d.logicHighest).toNat 2) ∧
      answers .tempHbm 3 (toBytes (BitVec.ofInt 16 d.hbmHighest).toNat 2) ∧
      answers .diePower 16 (32#8 :: (List.range 16).flatMap (fun k => toBytes (d.get (Reg.TEL_POWER_mw (dieSel k)) / 100) 2)) ∧
      answers (.capLimit none) 4 (toBytes (d.get Reg.PWR_CAP_SMB_limit_w) 2) ∧
      (∃ t, exec (.capLimit (some (cap, pec))) s = .next t ∧ t.dev.mem = d.mem ∧ t.dev.get Reg.PWR_CAP_SMB_limit_w =
        (if badPec then d.get Reg.PWR_CAP_SMB_limit_w else min 700 (max 150 cap.toNat)))) ∧
    (d.smbStatus.testBit 0 = d.halted ∧ d.smbStatus.testBit 4 = d.on Reg.TEL_ALERT_STATUS_alert ∧
      d.smbStatus.testBit 5 = d.on Reg.PWR_STATUS_guard ∧ d.smbStatus < 64) ∧
    (s.reaches who (Reg.PWR_RET_CTL r) →
      (∃ t, exec (.retentionWake who u) s = .next t ∧ t.dev.retained u = false ∧ t.dev.bit (Reg.PWR_RET_CTL_ret r) n = false ∧
        (d.retained u = true → t.dev.asleep u = true)) ∧
      (d.retained u = true → ∃ t, exec (.retentionEnter who u) s = .next t ∧ t.dev.retained u = true ∧
        t.dev.bit (Reg.PWR_RET_CTL_ret r) n = true) ∧
      (d.retained u = false → (if u.val < 384 then d.part u = true ∨ u.val ∈ d.cfg.reconf else d.underTest (r - 16) n = true) →
        ∃ t, exec (.retentionEnter who u) s = .next t ∧ t.dev.retained u = false ∧ t.dev.on (Reg.PWR_DIE_STATUS_cmd_refused r) = true) ∧
      ((if u.val < 384 then d.part u = false ∧ u.val ∉ d.cfg.reconf else d.underTest (r - 16) n = false) →
        ∃ t, exec (.retentionEnter who u) s = .next t ∧ t.dev.retained u = true ∧ t.dev.bit (Reg.PWR_RET_CTL_ret r) n = true ∧
          t.dev.mem = d.mem)) ∧
    (s.live = true →
      (u.val ∉ d.pwr.waking → quiet → exec (.wakeDone u) s = .next s) ∧
      (u.val ∈ d.pwr.waking → quiet → ∃ t, exec (.wakeDone u) s = .next t ∧ u.val ∉ t.dev.pwr.waking ∧
        (u.val, 0) ∈ t.dev.pwr.scrubFull) ∧
      (d.heldDie sel = true → exec (.telemetrySample i x) s = .next s ∧ exec (.wearMeasurement i slow) s = .next s) ∧
      (d.heldDie sel = false → 12 ≤ i.val ∨ d.bit Reg.PWR_START_started i = false ∨ (550 ≤ x.mv ∧ x.mv ≤ 950) →
        ∃ t, exec (.telemetrySample i x) s = .next t ∧ t.dev.sample i = x ∧ t.dev.get (Reg.PWR_VOLT_sensed sel) = min x.mv 1023 ∧
        t.dev.rdWord (Reg.TEL_SEQ sel) =
          BitVec.ofNat 32 (if d.on (Reg.TEL_CTL_pause sel) then (d.rdWord (Reg.TEL_SEQ sel)).toNat
            else (d.rdWord (Reg.TEL_SEQ sel)).toNat + 1) ∧
        (d.on (Reg.TEL_CTL_pause sel) = false → t.dev.get (Reg.TEL_POWER_mw sel) = x.mw % 2 ^ 32 ∧
          t.dev.get (Reg.TEL_TEMP_max sel) = (BitVec.ofInt 16 x.tmax).toNat ∧
          t.dev.get (Reg.TEL_TEMP_min sel) = (BitVec.ofInt 16 x.tmin).toNat) ∧
        (d.on (Reg.PWR_DIE_STATUS_trip sel) = false → (t.dev.on (Reg.PWR_DIE_STATUS_trip sel) = true ↔ trip ≤ x.tmax) ∧
          (i.val < 12 → trip ≤ x.tmax → t.dev.get (Reg.FAB_WAVE_SPACING_spacing i) = 4095)) ∧
        (d.on (Reg.PWR_DIE_STATUS_trip sel) = true → (t.dev.on (Reg.PWR_DIE_STATUS_trip sel) = true ↔ trip - 100 ≤ x.tmax))) ∧
      (∀ c : Fin 12, i.val = c.val → d.heldDie c = false → d.bit Reg.PWR_START_started c = true → x.mv < 550 ∨ 950 < x.mv →
        ∃ t, exec (.telemetrySample i x) s = .next t ∧ t.dev.heldDie c = true) ∧
      (d.on (Reg.PWR_WEAR_CTL_pause sel) = true → exec (.wearMeasurement i slow) s = .next s) ∧
      (d.heldDie sel = false → d.on (Reg.PWR_WEAR_CTL_pause sel) = false → ∃ t, exec (.wearMeasurement i slow) s = .next t ∧
        t.dev.get (Reg.PWR_WEAR_STATUS_index sel) = min slow 255 ∧
        t.dev.get (Reg.PWR_WEAR_STATUS_margin_rec sel) = (min slow 255 * 64 + 999) / 1000) ∧
      (d.heldDie (baseSel b) = true → exec (.mrefLoss b which) s = .next s) ∧
      (d.heldDie (baseSel b) = false → ∃ t, exec (.mrefLoss b which) s = .next t ∧
        t.dev.bit (Reg.CLK_PLL_STATUS_lock (baseSel b)) which = false ∧
        (∀ k : Fin 2, which.val = 0 ∨ which.val = 1 + k.val → d.stackState (2 * b + k) ≠ 0 → d.stackState (2 * b + k) ≠ 5 →
          (t.dev.stack (2 * b + k)).unlocked = true)) ∧
      (quiet → (d.stack m).unlocked = false → exec (.phyLockReturn m) s = .next s ∧ exec (.phyUnlockExpiry m) s = .next s) ∧
      (quiet → (d.stack m).unlocked = true →
        (∃ t, exec (.phyLockReturn m) s = .next t ∧ (t.dev.stack m).unlocked = false ∧
          t.dev.bit (Reg.CLK_PLL_STATUS_lock (stackSel m)) (1 + m % 2) = true) ∧
        ((d.stack m).starting = false → ∃ t, exec (.phyUnlockExpiry m) s = .next t ∧ t.dev.stackState m = 5) ∧
        ((d.stack m).starting = true → m.val % 2 = 1 → ∃ t, exec (.phyUnlockExpiry m) s = .next t ∧
          t.dev.get (Reg.HBM_INIT_done (stackSel m)) = 1)) ∧
      (d.pwr.tbSwitch = none → exec (.clockSwitch true) s = .next s ∧ exec (.clkForced true) s = .next s) ∧
      (d.pwr.clkSwitch = none → exec (.clockSwitch false) s = .next s ∧ exec (.clkForced false) s = .next s) ∧
      (∀ osc : Bool, d.pwr.tbSwitch = some osc →
        (∃ t, exec (.clockSwitch true) s = .next t ∧ t.dev.pac.osc = osc ∧ t.dev.pwr.tbSwitch = none ∧
          (osc = false → t.dev.on Reg.PACE_STATUS_degraded = false)) ∧
        (∃ t, exec (.clkForced true) s = .next t ∧ t.dev.pac.osc = osc ∧ t.dev.pwr.tbSwitch = none ∧
          t.dev.on Reg.PACE_STATUS_tb_forced = true)) ∧
      (∀ want : Nat × Nat, d.pwr.clkSwitch = some want →
        (∃ t, exec (.clockSwitch false) s = .next t ∧ t.dev.pwr.clkSwitch = none ∧ t.dev.pwr.clkSource = want ∧
          t.dev.on Reg.CLK_CLKOUT_STATUS_switching = false) ∧
        (∃ t, exec (.clkForced false) s = .next t ∧ t.dev.pwr.clkSwitch = none ∧ t.dev.pwr.clkSource = want ∧
          t.dev.on Reg.CLK_CLKOUT_STATUS_forced = true)) ∧
      (∃ t, exec (.cdcTimeout q block none merged) s = .next t ∧ t.dev.noc = d.noc ∧
        t.dev.get (Reg.CLK_CDC_STATUS_timeouts die) = min (d.get (Reg.CLK_CDC_STATUS_timeouts die) + 1) 65535 ∧
        t.dev.on (Reg.CLK_CDC_STATUS_overrun die) = (merged || d.on (Reg.CLK_CDC_STATUS_overrun die))) ∧
      (∀ p : Packet, d.noc.waiting = [p] → ∃ t, exec (.cdcTimeout q block (some 0) merged) s = .next t ∧ t.dev.noc.waiting = [] ∧
        t.dev.get (Reg.CLK_CDC_STATUS_timeouts die) = min (d.get (Reg.CLK_CDC_STATUS_timeouts die) + 1) 65535)) ∧
    (s.reaches who (Reg.CLK_GATE_CMD die) →
      let k := bits v 0 4
      let goes (z : Dev) : Prop := exec (.clkGateCmd who q v) s = .next (s.withDev z)
      let result (n : Nat) : Dev := d.set (Reg.CLK_GATE_RESULT_result die) n
      let base := 12 ≤ q.val ∧ q.val < 16
      (q.val < 12 → goes (result 3)) ∧
      (base → (k = 0 ∨ 7 ≤ k) → goes (result 3)) ∧
      (q.val = 16 → k ≠ 3 → k ≠ 4 → goes (result 3)) ∧
      (base → 1 ≤ k → k ≤ 6 → bits v 4 1 = 1 → ∃ t, exec (.clkGateCmd who q v) s = .next t ∧
        t.dev.get (Reg.CLK_GATE_RESULT_result die) = 0 ∧ t.dev.bit (Reg.CLK_GATE_EN_en die) k = true ∧
        (k = 2 ∨ k = 3 → t.dev.bit (Reg.CLK_GATE_EN_en die) 1 = true)) ∧
      (base → k = 1 → bits v 4 1 = 0 → d.bit (Reg.CLK_GATE_EN_en die) 2 = true ∨ d.bit (Reg.CLK_GATE_EN_en die) 3 = true →
        goes (result 1)) ∧
      (base → 4 ≤ k → k ≤ 6 → bits v 4 1 = 0 → d.on (Reg.LANE_BANK_CTL_enable die (k - 4)) = true → goes (result 2)) ∧
      (base → 4 ≤ k → k ≤ 6 → bits v 4 1 = 0 → d.on (Reg.LANE_BANK_CTL_enable die (k - 4)) = false →
        ∃ t, exec (.clkGateCmd who q v) s = .next t ∧ t.dev.get (Reg.CLK_GATE_RESULT_result die) = 0 ∧
          t.dev.bit (Reg.CLK_GATE_EN_en die) k = false)) ∧
    (s.reaches who Reg.CLK_CLKOUT_CTL → d.cfg.loadFailure = false →
      let z := d.wrWord Reg.CLK_CLKOUT_CTL (v &&& 0x00FFFFFF#32)
      (clkSourceOf v = d.pwr.clkSource → d.pwr.clkSwitch = none → exec (.clkoutCtlWrite who false v) s = .next (s.withDev z)) ∧
      (clkSourceOf v ≠ d.pwr.clkSource → d.on Reg.CLK_CLKOUT_CTL_en = true →
        ∃ t, exec (.clkoutCtlWrite who false v) s = .next t ∧ t.dev.pwr.clkSwitch = some (clkSourceOf v) ∧
          t.dev.pwr.clkSource = d.pwr.clkSource ∧ t.dev.on Reg.CLK_CLKOUT_STATUS_switching = true) ∧
      (clkSourceOf v ≠ d.pwr.clkSource → d.on Reg.CLK_CLKOUT_CTL_en = false →
        ∃ t, exec (.clkoutCtlWrite who false v) s = .next t ∧ t.dev.pwr.clkSwitch = none ∧ t.dev.pwr.clkSource = clkSourceOf v)) ∧
    (s.reaches who Reg.CLK_CLKOUT_SSC → ∃ t, exec (.clkoutCtlWrite who true v) s = .next t ∧ t.dev.mem = d.mem ∧
      t.dev.get Reg.CLK_CLKOUT_SSC_depth = bits v 0 5 ∧ t.dev.get Reg.CLK_CLKOUT_SSC_rate_khz = bits v 5 6) ∧
    (∀ k : Clkout, d.clkout = some k → d.cfg.loadFailure = false ∧ d.on Reg.CLK_CLKOUT_CTL_en = true ∧ k.depth ≤ 20 ∧ 30 ≤ k.rate ∧
      1 ≤ k.divisor ∧ (k.source.1 = 1 → 2 ≤ k.divisor) ∧ k.high = (k.divisor + 1) / 2)
/-! ### The debug port and run control (chapter 15) -/

/-- The debug port, run control, trace and the watchdog (R481 to R488, R490 to R498, Table 15.6): a request with a bad check
value or a bad header makes no access; a locked one is refused; while SYSRST_N is low a request beyond the port waits; a register is read or
written as by any initiator, and a held die reads 0; a write that ends in a bus error is acknowledged and remembered; a pending read holds
other requests off and is answered once. A debug event of a core whose monitor is enabled enters the monitor with its cause and priority, and
none enters it again; a halt request in the monitor waits; a return takes the registers from the save record; a mark whose class is off
leaves nothing, and one that finds eight packets is counted as lost; the watchdog that has reached 0 ends the service processor unless it is
frozen. The PC that an exception takes is a free value (log entry 39); the order of the checks of a request is the model's (log entry 17). -/
def Obligations.DebugPortAndRunControl : Prop :=
  ∀ (s : State) (who : Who) (h : BitVec 16) (a v : Word) (crc : BitVec 4) (slow : Bool) (c : Fin 4) (kind : Fin 3) (addr next at_ : Word)
    (n : Nat),
    let d := s.dev
    let fz := s.fuses
    let x := d.core c
    let good := crc = crc4 (requestBits h a none)
    let goodW := crc = crc4 (requestBits h a (some v))
    let reads (o : Nat) : Prop := ∃ t, exec (.dbgReadRequest h a crc slow) s = .next t ∧ t.dev.dbg.ack = o ∧ t.dev.mem = d.mem
    let writes (o : Nat) : Prop := exec (.dbgWriteRequest h a v crc) s = .next (s.withDev (d.dbgAnswer o))
    let may := hdrGood h = true ∧ (d.debugLevel fz = 2 ∨ (d.debugLevel fz = 1 ∧ hdrSecure h = false)) ∧ d.dbg.pending = none
    let open_ := may ∧ d.pwr.sysrst = true ∧ d.on Reg.DBG_STATUS_bus_err = false ∧ hdrSpace h = 1
    let gate := d.regGate (.debug (hdrSecure h)) a.toNat
    let enabled := d.on (Reg.SP_CORE_DBG_CTL_mon_en c) = true
    let enters (t : State) (cause : Nat) (epc : Word) : Prop := t.dev.inMonitor c = true ∧ t.dev.get (Reg.SP_CORE_ECAUSE_cause c) = cause ∧
      t.dev.rdWord (Reg.SP_CORE_EPC c) = epc ∧ t.dev.get (Reg.SP_CORE_EPSR_psr c) = (d.psr c).toNat ∧
      (t.dev.psr c).getLsbD 5 = true ∧ (t.dev.psr c).getLsbD 6 = true ∧
      (t.dev.psr c).toNat / 2 % 16 = min 14 (d.get (Reg.SP_CORE_DBG_CTL_mon_prio c))
    (d.pwr.porst = false → exec .dbgLineReset s = .next s ∧ exec (.dbgReadRequest h a crc slow) s = .next s ∧
      exec (.dbgWriteRequest h a v crc) s = .next s) ∧
    (d.pwr.porst = true →
      exec .dbgLineReset s = .next (s.withDev { d with dbg := { d.dbg with pending := none, ready := none } }) ∧
      (¬ good → exec (.dbgReadRequest h a crc slow) s = .next (s.withDev ((d.set Reg.DBG_STATUS_crc_err 1).dbgAnswer 12))) ∧
      (¬ goodW → exec (.dbgWriteRequest h a v crc) s = .next (s.withDev ((d.set Reg.DBG_STATUS_crc_err 1).dbgAnswer 12))) ∧
      (good → hdrGood h = false ∨ hdrRnw h = false → exec (.dbgReadRequest h a crc slow) s = .next (s.withDev (d.dbgAnswer 12))) ∧
      (goodW → hdrGood h = false ∨ hdrRnw h = true → writes 12) ∧
      (good → hdrGood h = true → hdrRnw h = true → d.dbg.pending = none →
        (d.dbgLocked fz h a = true → exec (.dbgReadRequest h a crc slow) s = .next (s.withDev (d.dbgAnswer 9))) ∧
        (d.dbgLocked fz h a = false → d.pwr.sysrst = false → hdrSpace h ≠ 0 → dbgOutside h a = true →
          exec (.dbgReadRequest h a crc slow) s = .next (s.withDev (d.dbgAnswer 10)))) ∧
      (good → hdrRnw h = true → may → d.on Reg.DBG_STATUS_bus_err = true → hdrSpace h ≠ 0 → d.pwr.sysrst = true → reads 12) ∧
      (good → hdrRnw h = true → open_ →
        (gate = (none, d) → ∃ t, exec (.dbgReadRequest h a crc slow) s = .next t ∧
          let w := (d.regRead fz (a.toNat / 4 * 4)).1
          (slow = false → t.dev.dbg.ack = 6 ∧ t.dev.dbg.data = w ∧ t.dev.dbg.crc = (crc4 (bitList w.toNat 32)).toNat ∧
            t.dev.dbg.pending = none) ∧
          (slow = true → t.dev.dbg.ack = 10 ∧ t.dev.dbg.pending = some (h.toNat, a.toNat) ∧ t.dev.dbg.ready = some (some w))) ∧
        (gate = (some false, d) → slow = false → ∃ t, exec (.dbgReadRequest h a crc slow) s = .next t ∧ t.dev.dbg.ack = 6 ∧
          t.dev.dbg.data = 0 ∧ t.dev.regs = d.regs ∧ t.dev.mem = d.mem) ∧
        (gate.1 = some true → slow = false → ∃ t, exec (.dbgReadRequest h a crc slow) s = .next t ∧ t.dev.dbg.ack = 12 ∧
          t.dev.dbg.pending = none)) ∧
      (∀ p : Nat × Nat, d.dbg.pending = some p → d.dbgLocked fz h a = false → d.pwr.sysrst = true →
        (d.on Reg.DBG_STATUS_bus_err = false ∨ hdrSpace h = 0) →
        (goodW → hdrGood h = true → hdrRnw h = false → writes 10) ∧
        (good → hdrGood h = true → hdrRnw h = true → p ≠ (h.toNat, a.toNat) →
          exec (.dbgReadRequest h a crc slow) s = .next (s.withDev (d.dbgAnswer 10))) ∧
        (∀ r : Option Word, good → hdrGood h = true → hdrRnw h = true → p = (h.toNat, a.toNat) → d.dbg.ready = some r →
          ∃ t, exec (.dbgReadRequest h a crc slow) s = .next t ∧ t.dev.dbg.pending = none ∧ t.dev.regs = d.regs ∧ t.dev.mem = d.mem ∧
            (r = none → t.dev.dbg.ack = 12) ∧ (∀ w : Word, r = some w → t.dev.dbg.ack = 6 ∧ t.dev.dbg.data = w))) ∧
      (goodW → hdrRnw h = false → open_ →
        (gate = (none, d) → exec (.dbgWriteRequest h a v crc) s =
          .next (s.withDev ((d.regWrite fz (.debug (hdrSecure h)) (a.toNat / 4 * 4) v).dbgAnswer 6))) ∧
        (gate = (some false, d) → writes 6) ∧
        (gate.1 = some true → ∃ t, exec (.dbgWriteRequest h a v crc) s = .next t ∧ t.dev.dbg.ack = 6 ∧
          t.dev.on Reg.DBG_STATUS_bus_err = true ∧ t.dev.mem = d.mem))) ∧
    (s.live = true →
      (d.inMonitor c = true → exec (.brk c) s = .next s ∧ exec (.comparator c kind addr n next) s = .next s ∧
        exec (.stepEvent c next) s = .next s) ∧
      (d.inMonitor c = false →
        (enabled → ∃ t, exec (.brk c) s = .next t ∧ enters t 8 x.pc ∧
          (∀ k : Nat, d.spState = 3 → d.saveAddr c = some k → t.dev.mem.readBytes (k + 124) 4 = toBytes x.pc.toNat 4)) ∧
        (¬ enabled → ∃ t, exec (.brk c) s = .next t ∧ t.dev.inMonitor c = false ∧ t.dev.mem = d.mem ∧
          t.dev.get (Reg.SP_CORE_ECAUSE_cause c) = 8 ∧ t.dev.rdWord (Reg.SP_CORE_EPC c) = x.pc) ∧
        (¬ enabled ∨ (∀ k, k < 8 → d.cmpMatch c k kind addr.toNat n = false) → exec (.comparator c kind addr n next) s = .next s) ∧
        (∀ k : Fin 8, enabled → d.cmpMatch c k kind addr.toNat n = true →
          ∃ t, exec (.comparator c kind addr n next) s = .next t ∧ enters t 9 (if kind = 0 then addr else next) ∧
            t.dev.bit (Reg.SP_CORE_DBG_STATUS_cmp_hit c) k = true) ∧
        (x.stepping = false → exec (.stepEvent c next) s = .next s) ∧
        (x.stepping = true → enabled → ∃ t, exec (.stepEvent c next) s = .next t ∧ enters t 10 next) ∧
        (x.stepping = true → ¬ enabled → ∃ t, exec (.stepEvent c next) s = .next t ∧ t.dev.inMonitor c = false ∧ t.dev.regs = d.regs) ∧
        exec (.monitorReturn c) s = .next s) ∧
      (d.inMonitor c = true →
        (d.on (Reg.SP_CORE_DBG_STATUS_halt_pending c) = false → ∃ t, exec (.monitorReturn c) s = .next t ∧ t.dev.inMonitor c = false ∧
          (t.dev.core c).stepping = d.on (Reg.SP_CORE_DBG_CTL_step c) ∧
          (d.saveAddr c = none → (t.dev.core c).pc = d.rdWord (Reg.SP_CORE_EPC c)) ∧
          (∀ (k : Nat) (g : Fin 31), d.saveAddr c = some k →
            (t.dev.core c).pc = BitVec.ofNat 32 (ofBytes (d.mem.readBytes (k + 124) 4)) ∧
            (t.dev.core c).reg (g + 1) = BitVec.ofNat 32 (ofBytes (d.mem.readBytes (k + 4 * g) 4)))) ∧
        (d.on (Reg.SP_CORE_DBG_STATUS_halt_pending c) = true → enabled → ∃ t, exec (.monitorReturn c) s = .next t ∧
          t.dev.inMonitor c = true ∧ t.dev.get (Reg.SP_CORE_ECAUSE_cause c) = 11 ∧
          t.dev.on (Reg.SP_CORE_DBG_STATUS_halt_pending c) = false)) ∧
      (let cls := d.get (Reg.SP_MARK_ID_class c)
       let q := d.trace.fifo.get c []
       let bytes := n = 1 ∨ n = 2 ∨ n = 4
       (d.bit (Reg.SP_MARK_EN_en c) cls = false ∨ ¬ bytes → exec (.traceMark c n v at_) s = .next s) ∧
       (d.bit (Reg.SP_MARK_EN_en c) cls = true → bytes →
        (8 ≤ q.length → ∃ t, exec (.traceMark c n v at_) s = .next t ∧ t.dev.trace.fifo = d.trace.fifo ∧
          c.val ∈ t.dev.trace.lost ∧ t.dev.get Reg.DBG_TRACE_LOST_count =
            min (d.get Reg.DBG_TRACE_LOST_count + 1) (2 ^ Reg.DBG_TRACE_LOST_count.w - 1)) ∧
        (q.length < 8 → ∃ t, exec (.traceMark c n v at_) s = .next t ∧ c.val ∉ t.dev.trace.lost ∧ t.dev.mem = d.mem ∧
          t.dev.trace.fifo.get c [] = q ++ [toBytes (cls + 32 * d.get (Reg.SP_MARK_ID_tag c)) 2 ++
            toBytes (c + 4 * n + (if c.val ∈ d.trace.lost then 32 else 0)) 1 ++ [0] ++ toBytes (d.trace.seq.get c 0) 2 ++ [0, 0] ++
            toBytes (v.toNat % 256 ^ n) 4 ++ toBytes at_.toNat 4 ++ toBytes d.now 8 ++ toBytes d.committed 8])) ∧
       (q = [] ∨ d.on Reg.DBG_TRACE_CTL_en = false → exec (.tracePacketWrite c) s = .next s) ∧
       (∀ (p : List Byte) (r : List (List Byte)), q = p :: r → d.on Reg.DBG_TRACE_CTL_en = true →
        ∃ t, exec (.tracePacketWrite c) s = .next t ∧ t.dev.trace.fifo.get c [] = r ∧
          let kept := (d.on Reg.DBG_TRACE_CTL_mode = false ∨ d.trace.full = false) ∧ d.traceFits = true ∧ d.heldDie 16 = false ∧
            (c.val = 0 → d.traceSecure = true)
          (¬ kept → t.dev.mem = d.mem ∧ t.dev.get Reg.DBG_TRACE_LOST_count =
            min (d.get Reg.DBG_TRACE_LOST_count + 1) (2 ^ Reg.DBG_TRACE_LOST_count.w - 1)) ∧
          (kept → t.dev.get Reg.DBG_TRACE_WP_wp = (d.get Reg.DBG_TRACE_WP_wp + 1) % 8192 ∧
            (d.scrub.remaps = [] → d.on (Reg.GRAN_TEST_STATUS_active 16) = false → p.length = 32 →
              t.dev.mem.readBytes (granBase 0 + d.traceBase + 32 * d.get Reg.DBG_TRACE_WP_wp) 32 = p)))) ∧
      (d.frozenSp 0 = true ∨ d.get Reg.SP_WDT_COUNT_us ≠ 0 ∨ d.spState = 5 → exec .watchdogExpiry s = .next s) ∧
      (d.frozenSp 0 = false → d.get Reg.SP_WDT_COUNT_us = 0 → d.spState ≠ 5 → ∃ t, exec .watchdogExpiry s = .next t ∧
        t.dev.spState = 5 ∧ t.dev.mem = d.mem)) ∧
    (s.reaches who (Reg.SP_CORE_DBG_CTL c) →
      (d.inMonitor c = true → ∃ t, exec (.haltRequest who c v) s = .next t ∧
        t.dev.on (Reg.SP_CORE_DBG_STATUS_halt_pending c) = true ∧ t.dev.inMonitor c = true) ∧
      (d.inMonitor c = false → v.getLsbD 0 = true → ∃ t, exec (.haltRequest who c v) s = .next t ∧ t.dev.inMonitor c = true ∧
        t.dev.get (Reg.SP_CORE_ECAUSE_cause c) = 11 ∧ t.dev.rdWord (Reg.SP_CORE_EPC c) = x.pc) ∧
      (d.inMonitor c = false → v.getLsbD 0 = false → ∃ t, exec (.haltRequest who c v) s = .next t ∧ t.dev.inMonitor c = false ∧
        t.dev.cores = d.cores)) ∧
    (s.reaches who Reg.SP_WDT_KICK → ∃ t, exec (.spWdtKick who) s = .next t ∧
      t.dev.get Reg.SP_WDT_COUNT_us = max 1 (d.get Reg.SP_WDT_LOAD_us) ∧ t.dev.mem = d.mem)
end
end

