-- ==== Sys2Proof/Laws/Store.lean ====
section
/-! SUPPORT. Laws of the sparse stores: what a read gives after a write, and that every operation keeps the canonical form. -/

namespace Sys2Proof.Machine

section
variable {α : Type}

/-! ### Reads after writes -/

theorem SMap.get_erase_self (m : SMap α) (k : Nat) (d : α) : SMap.get (SMap.erase m k) k d = d := by
  induction m with
  | nil => rfl
  | cons e r ih =>
    obtain ⟨a, v⟩ := e
    by_cases h : a = k
    · simpa [SMap.erase, h] using ih
    · simpa [SMap.erase, SMap.get, h] using ih

theorem SMap.get_erase_ne (m : SMap α) {k j : Nat} (d : α) (h : j ≠ k) :
    SMap.get (SMap.erase m k) j d = SMap.get m j d := by
  induction m with
  | nil => rfl
  | cons e r ih =>
    obtain ⟨a, v⟩ := e
    by_cases hk : a = k
    · have : a ≠ j := by omega
      simpa [SMap.erase, SMap.get, hk, this, Ne.symm h] using ih
    · by_cases hj : a = j
      · simp [SMap.erase, SMap.get, hj, h]
      · simpa [SMap.erase, SMap.get, hk, hj] using ih

theorem SMap.get_insert_self (m : SMap α) (k : Nat) (v d : α) (h : ∀ e ∈ m, e.1 ≠ k) :
    SMap.get (SMap.insert m k v) k d = v := by
  induction m with
  | nil => simp [SMap.insert, SMap.get]
  | cons e r ih =>
    obtain ⟨a, w⟩ := e
    have ha : a ≠ k := h (a, w) (by simp)
    by_cases hk : k < a
    · simp [SMap.insert, SMap.get, hk]
    · simpa [SMap.insert, SMap.get, hk, ha] using ih (fun e he => h e (by simp [he]))

theorem SMap.get_insert_ne (m : SMap α) {k j : Nat} (v d : α) (h : j ≠ k) :
    SMap.get (SMap.insert m k v) j d = SMap.get m j d := by
  induction m with
  | nil => simp [SMap.insert, SMap.get, Ne.symm h]
  | cons e r ih =>
    obtain ⟨a, w⟩ := e
    by_cases hk : k < a
    · simp [SMap.insert, SMap.get, hk, Ne.symm h]
    · by_cases hj : a = j
      · subst hj
        simp [SMap.insert, SMap.get, hk]
      · simpa [SMap.insert, SMap.get, hk, hj] using ih

theorem SMap.erase_no_key (m : SMap α) (k : Nat) : ∀ e ∈ SMap.erase m k, e.1 ≠ k := by
  intro e he
  simpa [SMap.erase] using (List.mem_filter.mp he).2

variable [DecidableEq α]

/-- A read of the key just written gives the value written. -/
@[simp] theorem SMap.get_put_self (m : SMap α) (k : Nat) (v d : α) : SMap.get (SMap.put m k v d) k d = v := by
  unfold SMap.put
  split
  · rename_i h
    rw [SMap.get_erase_self, h]
  · exact SMap.get_insert_self _ _ _ _ (SMap.erase_no_key m k)

/-- A write leaves every other key alone. -/
theorem SMap.get_put_ne (m : SMap α) {k j : Nat} (v d e : α) (h : j ≠ k) :
    SMap.get (SMap.put m k v d) j e = SMap.get m j e := by
  unfold SMap.put
  split
  · exact SMap.get_erase_ne m e h
  · rw [SMap.get_insert_ne _ _ _ h, SMap.get_erase_ne m e h]

/-- A read after a write, at any key. -/
theorem SMap.get_put (m : SMap α) (k j : Nat) (v d : α) :
    SMap.get (SMap.put m k v d) j d = if j = k then v else SMap.get m j d := by
  split
  · rename_i h
    rw [h, SMap.get_put_self]
  · rename_i h
    exact SMap.get_put_ne m v d d h

omit [DecidableEq α] in
/-- A cleared range reads as the default; everything outside it stays. -/
theorem SMap.get_clear (m : SMap α) (lo hi k : Nat) (d : α) :
    SMap.get (SMap.clear m lo hi) k d = if lo ≤ k ∧ k < hi then d else SMap.get m k d := by
  induction m with
  | nil => simp [SMap.clear, SMap.get]
  | cons e r ih =>
    obtain ⟨a, v⟩ := e
    by_cases hin : lo ≤ a ∧ a < hi
    · have hc : SMap.clear ((a, v) :: r) lo hi = SMap.clear r lo hi := by simp [SMap.clear, hin]
      rw [hc, ih]
      by_cases hk : a = k
      · subst hk
        simp [hin]
      · simp [SMap.get, hk]
    · have hc : SMap.clear ((a, v) :: r) lo hi = (a, v) :: SMap.clear r lo hi := by
        simp only [SMap.clear]
        rw [List.filter_cons_of_pos]
        simp only [Bool.not_eq_true', Bool.and_eq_false_iff, decide_eq_false_iff_not]
        omega
      rw [hc]
      by_cases hk : a = k
      · subst hk
        simp [SMap.get, hin]
      · simpa [SMap.get, hk] using ih

/-! ### The canonical form -/

theorem SMap.wfFrom_le {d : α} {m : SMap α} {lo lo' : Nat} (h : SMap.wfFrom d lo m = true) (hl : lo' ≤ lo) :
    SMap.wfFrom d lo' m = true := by
  cases m with
  | nil => rfl
  | cons e r =>
    simp only [SMap.wfFrom, Bool.and_eq_true, decide_eq_true_eq] at h ⊢
    exact ⟨⟨by omega, h.1.2⟩, h.2⟩

theorem SMap.wfFrom_key {d : α} : ∀ {m : SMap α} {lo : Nat}, SMap.wfFrom d lo m = true → ∀ e ∈ m, lo ≤ e.1
  | [], _, _, e, he => absurd he (by simp)
  | (a, v) :: r, lo, h, e, he => by
    simp only [SMap.wfFrom, Bool.and_eq_true, decide_eq_true_eq] at h
    rcases List.mem_cons.mp he with rfl | he
    · exact h.1.1
    · have := SMap.wfFrom_key h.2 e he
      omega

/-- Keeping some of the pairs keeps the form. -/
theorem SMap.wfFrom_filter {d : α} (p : Nat × α → Bool) :
    ∀ {m : SMap α} {lo : Nat}, SMap.wfFrom d lo m = true → SMap.wfFrom d lo (List.filter p m) = true
  | [], _, _ => rfl
  | (a, v) :: r, lo, h => by
    simp only [SMap.wfFrom, Bool.and_eq_true, decide_eq_true_eq] at h
    have hr := SMap.wfFrom_filter p h.2
    by_cases hp : p (a, v) = true
    · rw [List.filter_cons_of_pos hp]
      simp only [SMap.wfFrom, Bool.and_eq_true, decide_eq_true_eq]
      exact ⟨h.1, hr⟩
    · rw [List.filter_cons_of_neg hp]
      exact SMap.wfFrom_le hr (by omega)

theorem SMap.wfFrom_insert {d v : α} {k : Nat} (hv : v ≠ d) :
    ∀ {m : SMap α} {lo : Nat}, SMap.wfFrom d lo m = true → lo ≤ k → (∀ e ∈ m, e.1 ≠ k) →
      SMap.wfFrom d lo (SMap.insert m k v) = true
  | [], lo, _, hk, _ => by simp [SMap.insert, SMap.wfFrom, hk, hv]
  | (a, w) :: r, lo, h, hk, hne => by
    simp only [SMap.wfFrom, Bool.and_eq_true, decide_eq_true_eq] at h
    have ha : a ≠ k := hne (a, w) (by simp)
    by_cases hlt : k < a
    · simp only [SMap.insert, hlt, if_true, SMap.wfFrom, Bool.and_eq_true, decide_eq_true_eq]
      exact ⟨⟨hk, hv⟩, ⟨by omega, h.1.2⟩, h.2⟩
    · simp only [SMap.insert, hlt, if_false, SMap.wfFrom, Bool.and_eq_true, decide_eq_true_eq]
      exact ⟨h.1, SMap.wfFrom_insert hv h.2 (by omega) (fun e he => hne e (by simp [he]))⟩

/-- A write keeps the canonical form. -/
theorem SMap.wf_put {d : α} {m : SMap α} (h : SMap.wf d m = true) (k : Nat) (v : α) :
    SMap.wf d (SMap.put m k v d) = true := by
  have he : SMap.wfFrom d 0 (SMap.erase m k) = true := SMap.wfFrom_filter _ h
  unfold SMap.put
  split
  · exact he
  · rename_i hv
    exact SMap.wfFrom_insert hv he (Nat.zero_le k) (SMap.erase_no_key m k)

/-- Erasing a key keeps the canonical form. -/
theorem SMap.wf_erase {d : α} {m : SMap α} (h : SMap.wf d m = true) (k : Nat) : SMap.wf d (SMap.erase m k) = true :=
  SMap.wfFrom_filter _ h

/-- Clearing a range keeps the canonical form. -/
theorem SMap.wf_clear {d : α} {m : SMap α} (h : SMap.wf d m = true) (lo hi : Nat) :
    SMap.wf d (SMap.clear m lo hi) = true :=
  SMap.wfFrom_filter _ h

end

/-! ### Memory -/

/-- A byte just written reads as written. -/
@[simp] theorem Memory.read_write_self (m : Memory) (a : Nat) (b : Byte) : (m.write a b).read a = b :=
  SMap.get_put_self m a b 0

/-- A write leaves every other byte alone. -/
theorem Memory.read_write_ne (m : Memory) {a c : Nat} (b : Byte) (h : c ≠ a) : (m.write a b).read c = m.read c :=
  SMap.get_put_ne m b 0 0 h

/-- A write of bytes leaves every byte below them alone. -/
theorem Memory.read_writeBytes_lt (l : List Byte) : ∀ (m : Memory) {a c : Nat}, c < a → (m.writeBytes a l).read c = m.read c := by
  induction l with
  | nil => intros; rfl
  | cons b r ih =>
    intro m a c h
    rw [Memory.writeBytes, ih _ (by omega), Memory.read_write_ne _ _ (by omega)]

/-- What every byte reads as after a write of bytes. -/
theorem Memory.read_writeBytes (l : List Byte) : ∀ (m : Memory) (a c : Nat),
    (m.writeBytes a l).read c = if a ≤ c ∧ c < a + l.length then l.getD (c - a) 0 else m.read c := by
  induction l with
  | nil =>
    intro m a c
    have h : ¬ (a ≤ c ∧ c < a + ([] : List Byte).length) := by simp only [List.length_nil]; omega
    rw [if_neg h]
    rfl
  | cons b r ih =>
    intro m a c
    rw [Memory.writeBytes, ih]
    by_cases hc : c = a
    · subst hc
      have h1 : ¬ (c + 1 ≤ c ∧ c < c + 1 + r.length) := by omega
      have h2 : c ≤ c ∧ c < c + (b :: r).length := by simp only [List.length_cons]; omega
      rw [if_neg h1, if_pos h2, Memory.read_write_self, Nat.sub_self]
      rfl
    · rw [Memory.read_write_ne _ _ hc]
      by_cases h1 : a + 1 ≤ c ∧ c < a + 1 + r.length
      · have h2 : a ≤ c ∧ c < a + (b :: r).length := by simp only [List.length_cons]; omega
        rw [if_pos h1, if_pos h2]
        obtain ⟨k, hk⟩ : ∃ k, c - a = k + 1 := ⟨c - a - 1, by omega⟩
        have hk' : c - (a + 1) = k := by omega
        rw [hk, hk']
        rfl
      · have h2 : ¬ (a ≤ c ∧ c < a + (b :: r).length) := by simp only [List.length_cons]; omega
        rw [if_neg h1, if_neg h2]

/-- A write of a byte keeps the canonical form. -/
theorem Memory.wf_write {m : Memory} (h : m.wf = true) (a : Nat) (b : Byte) : (m.write a b).wf = true :=
  SMap.wf_put h a b

/-- A write of bytes keeps the canonical form. -/
theorem Memory.wf_writeBytes (l : List Byte) : ∀ {m : Memory} (_ : m.wf = true) (a : Nat), (m.writeBytes a l).wf = true := by
  induction l with
  | nil => intro m h _; exact h
  | cons b r ih => intro m h a; exact ih (Memory.wf_write h a b) (a + 1)

/-- A masked write keeps the canonical form. -/
theorem Memory.wf_writeMasked (l : List (Byte × Bool)) :
    ∀ {m : Memory} (_ : m.wf = true) (a : Nat), (m.writeMasked a l).wf = true := by
  induction l with
  | nil => intro m h _; exact h
  | cons e r ih =>
    intro m h a
    refine ih ?_ (a + 1)
    split
    · exact Memory.wf_write h a e.1
    · exact h

/-- Clearing a range of memory keeps the canonical form. -/
theorem Memory.wf_clear {m : Memory} (h : m.wf = true) (lo hi : Nat) : Memory.wf (SMap.clear m lo hi) = true :=
  SMap.wf_clear h lo hi

end Sys2Proof.Machine
end

