-- ==== Sys2Proof/Laws/Regs.lean ====
section
/-! SUPPORT. Laws of registers and their fields: what a read gives after a write. -/

namespace Sys2Proof.Machine

/-! ### Words -/

@[simp] theorem Dev.rdWord_wrWord_self (d : Dev) (a : Nat) (w : Word) : (d.wrWord a w).rdWord a = w :=
  SMap.get_put_self d.regs a w (resetWord a)

theorem Dev.rdWord_wrWord_ne (d : Dev) {a b : Nat} (w : Word) (h : b ≠ a) : (d.wrWord a w).rdWord b = d.rdWord b :=
  SMap.get_put_ne d.regs w (resetWord a) (resetWord b) h

theorem Dev.rdWord_wrWord (d : Dev) (a b : Nat) (w : Word) :
    (d.wrWord a w).rdWord b = if b = a then w else d.rdWord b := by
  split
  · rename_i h
    rw [h, Dev.rdWord_wrWord_self]
  · rename_i h
    exact d.rdWord_wrWord_ne w h

/-- Registers put back read as their reset words; the others stay. -/
theorem Dev.rdWord_resetRegs (d : Dev) (lo hi a : Nat) :
    (d.resetRegs lo hi).rdWord a = if lo ≤ a ∧ a < hi then resetWord a else d.rdWord a :=
  SMap.get_clear d.regs lo hi a (resetWord a)

/-! ### Fields of a word -/

theorem bits_lt (v : Word) (l w : Nat) : bits v l w < 2 ^ w := Nat.mod_lt _ (Nat.two_pow_pos w)

theorem bits_eq_mod (v : Word) (l w : Nat) : bits v l w = v.toNat % 2 ^ (l + w) / 2 ^ l := by
  rw [Nat.pow_add, Nat.mod_mul_right_div_self, bits]

theorem bits_eq_div (v : Word) {l w m : Nat} (h : m ≤ l) : bits v l w = v.toNat / 2 ^ m / 2 ^ (l - m) % 2 ^ w := by
  rw [Nat.div_div_eq_div_mul, ← Nat.pow_add, Nat.add_sub_cancel' h, bits]

/-- A word with a field replaced, by its three parts. -/
theorem toNat_setBits (v : Word) {l w : Nat} (n : Nat) (h : l + w ≤ 32) :
    (setBits v l w n).toNat = v.toNat % 2 ^ l + (n % 2 ^ w + v.toNat / 2 ^ (l + w) * 2 ^ w) * 2 ^ l := by
  have h1 := Nat.div_add_mod v.toNat (2 ^ l)
  have h2 := Nat.div_add_mod (v.toNat / 2 ^ l) (2 ^ w)
  have ht : v.toNat / 2 ^ (l + w) = v.toNat / 2 ^ l / 2 ^ w := by rw [Nat.pow_add, Nat.div_div_eq_div_mul]
  have hn : n % 2 ^ w < 2 ^ w := Nat.mod_lt _ (Nat.two_pow_pos w)
  have hr : v.toNat % 2 ^ l < 2 ^ l := Nat.mod_lt _ (Nat.two_pow_pos l)
  have hv : v.toNat < 2 ^ 32 := v.isLt
  have hq : v.toNat / 2 ^ l / 2 ^ w < 2 ^ (32 - (l + w)) := by
    rw [← ht, Nat.div_lt_iff_lt_mul (Nat.two_pow_pos _), ← Nat.pow_add]
    rwa [Nat.sub_add_cancel h]
  have hp : 2 ^ (32 - (l + w)) * 2 ^ w * 2 ^ l = 2 ^ 32 := by
    rw [Nat.mul_assoc, ← Nat.pow_add, ← Nat.pow_add]
    congr 1
    omega
  rw [ht]
  generalize hR : v.toNat % 2 ^ l = r at *
  generalize hN : n % 2 ^ w = n' at *
  have hb : bits v l w = v.toNat / 2 ^ l % 2 ^ w := rfl
  have hsum : v.toNat - bits v l w * 2 ^ l + n' * 2 ^ l = r + (n' + v.toNat / 2 ^ l / 2 ^ w * 2 ^ w) * 2 ^ l := by
    rw [hb]
    generalize v.toNat / 2 ^ l / 2 ^ w = t at *
    generalize v.toNat / 2 ^ l % 2 ^ w = m at *
    generalize v.toNat / 2 ^ l = q at *
    have e : 2 ^ l * q = t * 2 ^ w * 2 ^ l + m * 2 ^ l := by
      rw [← h2, Nat.mul_comm, Nat.add_mul, Nat.mul_comm (2 ^ w) t]
    rw [Nat.add_mul]
    omega
  rw [setBits, BitVec.toNat_ofNat, hN, hsum]
  apply Nat.mod_eq_of_lt
  have hx : (n' + v.toNat / 2 ^ l / 2 ^ w * 2 ^ w) + 1 ≤ 2 ^ (32 - (l + w)) * 2 ^ w := by
    have := Nat.mul_le_mul_right (2 ^ w) hq
    rw [Nat.succ_mul] at this
    omega
  have := Nat.mul_le_mul_right (2 ^ l) hx
  rw [hp, Nat.succ_mul] at this
  omega

/-- A field reads as it was set. -/
theorem bits_setBits_self (v : Word) {l w : Nat} (n : Nat) (h : l + w ≤ 32) : bits (setBits v l w n) l w = n % 2 ^ w := by
  have hr : v.toNat % 2 ^ l < 2 ^ l := Nat.mod_lt _ (Nat.two_pow_pos l)
  rw [bits, toNat_setBits v n h, Nat.add_mul_div_right _ _ (Nat.two_pow_pos l), Nat.div_eq_of_lt hr, Nat.zero_add,
    Nat.add_mul_mod_self_right, Nat.mod_mod]

/-- A field below the one that is set stays. -/
theorem bits_setBits_below (v : Word) {l w i k : Nat} (n : Nat) (h : l + w ≤ 32) (hi : i + k ≤ l) :
    bits (setBits v l w n) i k = bits v i k := by
  rw [bits_eq_mod, bits_eq_mod, toNat_setBits v n h]
  have e : ∀ x, x % 2 ^ (i + k) = x % 2 ^ l % 2 ^ (i + k) := fun x =>
    (Nat.mod_mod_of_dvd x (Nat.pow_dvd_pow 2 hi)).symm
  rw [e, Nat.add_mul_mod_self_right, Nat.mod_mod, ← e]

/-- A field above the one that is set stays. -/
theorem bits_setBits_above (v : Word) {l w i k : Nat} (n : Nat) (h : l + w ≤ 32) (hi : l + w ≤ i) :
    bits (setBits v l w n) i k = bits v i k := by
  have hr : v.toNat % 2 ^ l < 2 ^ l := Nat.mod_lt _ (Nat.two_pow_pos l)
  have hn : n % 2 ^ w < 2 ^ w := Nat.mod_lt _ (Nat.two_pow_pos w)
  rw [bits_eq_div _ hi, bits_eq_div _ hi]
  congr 2
  rw [toNat_setBits v n h, Nat.pow_add, ← Nat.div_div_eq_div_mul, ← Nat.div_div_eq_div_mul,
    Nat.add_mul_div_right _ _ (Nat.two_pow_pos l), Nat.div_eq_of_lt hr, Nat.zero_add,
    Nat.add_mul_div_right _ _ (Nat.two_pow_pos w), Nat.div_eq_of_lt hn, Nat.zero_add, Nat.div_div_eq_div_mul]

/-! ### Fields of registers -/

/-- A field lies within its word. -/
abbrev Fld.ok (f : Fld) : Prop := f.lsb + f.w ≤ 32

/-- Fields of equal words are equal. -/
theorem Dev.get_congr {d e : Dev} {f : Fld} (h : d.rdWord f.addr = e.rdWord f.addr) : d.get f = e.get f := by
  simp only [Dev.get, h]

theorem Dev.get_set_self (d : Dev) (f : Fld) (n : Nat) (h : f.ok) : (d.set f n).get f = n % 2 ^ f.w := by
  simp only [Dev.get, Dev.set, Dev.rdWord_wrWord_self]
  exact bits_setBits_self _ n h

theorem Dev.rdWord_set_ne (d : Dev) (f : Fld) (n : Nat) {a : Nat} (h : a ≠ f.addr) : (d.set f n).rdWord a = d.rdWord a :=
  d.rdWord_wrWord_ne _ h

/-- A field of another register stays. -/
theorem Dev.get_set_addr (d : Dev) (f g : Fld) (n : Nat) (h : g.addr ≠ f.addr) : (d.set f n).get g = d.get g := by
  simp only [Dev.get, d.rdWord_set_ne f n h]

/-- Another field of the same register stays. -/
theorem Dev.get_set_bits (d : Dev) (f g : Fld) (n : Nat) (hf : f.ok) (h : g.lsb + g.w ≤ f.lsb ∨ f.lsb + f.w ≤ g.lsb) :
    (d.set f n).get g = d.get g := by
  by_cases ha : g.addr = f.addr
  · simp only [Dev.get, Dev.set, ha, Dev.rdWord_wrWord_self]
    rcases h with h | h
    · exact bits_setBits_below _ n hf h
    · exact bits_setBits_above _ n hf h
  · exact d.get_set_addr f g n ha

theorem Dev.on_set_self (d : Dev) (f : Fld) (n : Nat) (h : f.ok) : (d.set f n).on f = (n % 2 ^ f.w != 0) := by
  simp only [Dev.on, d.get_set_self f n h]

theorem Dev.on_set_addr (d : Dev) (f g : Fld) (n : Nat) (h : g.addr ≠ f.addr) : (d.set f n).on g = d.on g := by
  simp only [Dev.on, d.get_set_addr f g n h]

theorem Dev.on_set_bits (d : Dev) (f g : Fld) (n : Nat) (hf : f.ok) (h : g.lsb + g.w ≤ f.lsb ∨ f.lsb + f.w ≤ g.lsb) :
    (d.set f n).on g = d.on g := by
  simp only [Dev.on, d.get_set_bits f g n hf h]

/-! ### Register pairs -/

/-- A pair reads as it was set, modulo 2 to the power 64. -/
theorem Dev.pair_setPair (d : Dev) {lo hi : Nat} (n : Nat) (h : lo ≠ hi) : (d.setPair lo hi n).pair lo hi = n % 2 ^ 64 := by
  simp only [Dev.pair, Dev.setPair, Dev.rdWord_wrWord_self, Dev.rdWord_wrWord_ne _ _ h, BitVec.toNat_ofNat]
  omega

theorem Dev.rdWord_setPair_ne (d : Dev) {lo hi a : Nat} (n : Nat) (h1 : a ≠ lo) (h2 : a ≠ hi) :
    (d.setPair lo hi n).rdWord a = d.rdWord a := by
  simp only [Dev.setPair, Dev.rdWord_wrWord_ne _ _ h1, Dev.rdWord_wrWord_ne _ _ h2]

/-- A pair of other registers stays. -/
theorem Dev.pair_setPair_ne (d : Dev) {lo hi lo' hi' : Nat} (n : Nat) (h1 : lo' ≠ lo) (h2 : lo' ≠ hi) (h3 : hi' ≠ lo)
    (h4 : hi' ≠ hi) : (d.setPair lo hi n).pair lo' hi' = d.pair lo' hi' := by
  simp only [Dev.pair, d.rdWord_setPair_ne n h1 h2, d.rdWord_setPair_ne n h3 h4]

end Sys2Proof.Machine
end

