-- ==== Sys2Proof/Laws/State.lean ====
section
/-! SUPPORT. What each update of the device leaves alone, and what it puts: one lemma per update and field, each true by
unfolding the update. -/

namespace Sys2Proof.Machine

variable (d : Dev)

/-! ### Dev.wrWord -/

@[simp] theorem Dev.wrWord_latch (a : Nat) (w : Word) : (d.wrWord a w).latch = d.latch := (rfl)
@[simp] theorem Dev.wrWord_mem (a : Nat) (w : Word) : (d.wrWord a w).mem = d.mem := (rfl)
@[simp] theorem Dev.wrWord_marks (a : Nat) (w : Word) : (d.wrWord a w).marks = d.marks := (rfl)
@[simp] theorem Dev.wrWord_fab (a : Nat) (w : Word) : (d.wrWord a w).fab = d.fab := (rfl)
@[simp] theorem Dev.wrWord_flds (a : Nat) (w : Word) : (d.wrWord a w).flds = d.flds := (rfl)
@[simp] theorem Dev.wrWord_effDelay (a : Nat) (w : Word) : (d.wrWord a w).effDelay = d.effDelay := (rfl)
@[simp] theorem Dev.wrWord_effMargin (a : Nat) (w : Word) : (d.wrWord a w).effMargin = d.effMargin := (rfl)
@[simp] theorem Dev.wrWord_trimDue (a : Nat) (w : Word) : (d.wrWord a w).trimDue = d.trimDue := (rfl)
@[simp] theorem Dev.wrWord_pac (a : Nat) (w : Word) : (d.wrWord a w).pac = d.pac := (rfl)
@[simp] theorem Dev.wrWord_sio (a : Nat) (w : Word) : (d.wrWord a w).sio = d.sio := (rfl)
@[simp] theorem Dev.wrWord_binOut (a : Nat) (w : Word) : (d.wrWord a w).binOut = d.binOut := (rfl)
@[simp] theorem Dev.wrWord_binCtl (a : Nat) (w : Word) : (d.wrWord a w).binCtl = d.binCtl := (rfl)
@[simp] theorem Dev.wrWord_tiles (a : Nat) (w : Word) : (d.wrWord a w).tiles = d.tiles := (rfl)
@[simp] theorem Dev.wrWord_ports (a : Nat) (w : Word) : (d.wrWord a w).ports = d.ports := (rfl)
@[simp] theorem Dev.wrWord_latentWrites (a : Nat) (w : Word) : (d.wrWord a w).latentWrites = d.latentWrites := (rfl)
@[simp] theorem Dev.wrWord_bacts (a : Nat) (w : Word) : (d.wrWord a w).bacts = d.bacts := (rfl)
@[simp] theorem Dev.wrWord_noc (a : Nat) (w : Word) : (d.wrWord a w).noc = d.noc := (rfl)
@[simp] theorem Dev.wrWord_rc (a : Nat) (w : Word) : (d.wrWord a w).rc = d.rc := (rfl)
@[simp] theorem Dev.wrWord_lat (a : Nat) (w : Word) : (d.wrWord a w).lat = d.lat := (rfl)
@[simp] theorem Dev.wrWord_bud (a : Nat) (w : Word) : (d.wrWord a w).bud = d.bud := (rfl)
@[simp] theorem Dev.wrWord_stk (a : Nat) (w : Word) : (d.wrWord a w).stk = d.stk := (rfl)
@[simp] theorem Dev.wrWord_msec (a : Nat) (w : Word) : (d.wrWord a w).msec = d.msec := (rfl)
@[simp] theorem Dev.wrWord_errs (a : Nat) (w : Word) : (d.wrWord a w).errs = d.errs := (rfl)
@[simp] theorem Dev.wrWord_log (a : Nat) (w : Word) : (d.wrWord a w).log = d.log := (rfl)
@[simp] theorem Dev.wrWord_errIrq (a : Nat) (w : Word) : (d.wrWord a w).errIrq = d.errIrq := (rfl)
@[simp] theorem Dev.wrWord_scrub (a : Nat) (w : Word) : (d.wrWord a w).scrub = d.scrub := (rfl)
@[simp] theorem Dev.wrWord_sec (a : Nat) (w : Word) : (d.wrWord a w).sec = d.sec := (rfl)
@[simp] theorem Dev.wrWord_pwr (a : Nat) (w : Word) : (d.wrWord a w).pwr = d.pwr := (rfl)
@[simp] theorem Dev.wrWord_lanes (a : Nat) (w : Word) : (d.wrWord a w).lanes = d.lanes := (rfl)
@[simp] theorem Dev.wrWord_links (a : Nat) (w : Word) : (d.wrWord a w).links = d.links := (rfl)
@[simp] theorem Dev.wrWord_ctxs (a : Nat) (w : Word) : (d.wrWord a w).ctxs = d.ctxs := (rfl)
@[simp] theorem Dev.wrWord_slots (a : Nat) (w : Word) : (d.wrWord a w).slots = d.slots := (rfl)
@[simp] theorem Dev.wrWord_chan (a : Nat) (w : Word) : (d.wrWord a w).chan = d.chan := (rfl)
@[simp] theorem Dev.wrWord_cluster (a : Nat) (w : Word) : (d.wrWord a w).cluster = d.cluster := (rfl)
@[simp] theorem Dev.wrWord_cfg (a : Nat) (w : Word) : (d.wrWord a w).cfg = d.cfg := (rfl)
@[simp] theorem Dev.wrWord_boot (a : Nat) (w : Word) : (d.wrWord a w).boot = d.boot := (rfl)
@[simp] theorem Dev.wrWord_mbs (a : Nat) (w : Word) : (d.wrWord a w).mbs = d.mbs := (rfl)
@[simp] theorem Dev.wrWord_host (a : Nat) (w : Word) : (d.wrWord a w).host = d.host := (rfl)
@[simp] theorem Dev.wrWord_fw (a : Nat) (w : Word) : (d.wrWord a w).fw = d.fw := (rfl)
@[simp] theorem Dev.wrWord_dbg (a : Nat) (w : Word) : (d.wrWord a w).dbg = d.dbg := (rfl)
@[simp] theorem Dev.wrWord_cores (a : Nat) (w : Word) : (d.wrWord a w).cores = d.cores := (rfl)
@[simp] theorem Dev.wrWord_trace (a : Nat) (w : Word) : (d.wrWord a w).trace = d.trace := (rfl)
@[simp] theorem Dev.wrWord_free (a : Nat) (w : Word) : (d.wrWord a w).free = d.free := (rfl)

/-! ### Dev.set -/

@[simp] theorem Dev.set_latch (f : Fld) (n : Nat) : (d.set f n).latch = d.latch := (rfl)
@[simp] theorem Dev.set_mem (f : Fld) (n : Nat) : (d.set f n).mem = d.mem := (rfl)
@[simp] theorem Dev.set_marks (f : Fld) (n : Nat) : (d.set f n).marks = d.marks := (rfl)
@[simp] theorem Dev.set_fab (f : Fld) (n : Nat) : (d.set f n).fab = d.fab := (rfl)
@[simp] theorem Dev.set_flds (f : Fld) (n : Nat) : (d.set f n).flds = d.flds := (rfl)
@[simp] theorem Dev.set_effDelay (f : Fld) (n : Nat) : (d.set f n).effDelay = d.effDelay := (rfl)
@[simp] theorem Dev.set_effMargin (f : Fld) (n : Nat) : (d.set f n).effMargin = d.effMargin := (rfl)
@[simp] theorem Dev.set_trimDue (f : Fld) (n : Nat) : (d.set f n).trimDue = d.trimDue := (rfl)
@[simp] theorem Dev.set_pac (f : Fld) (n : Nat) : (d.set f n).pac = d.pac := (rfl)
@[simp] theorem Dev.set_sio (f : Fld) (n : Nat) : (d.set f n).sio = d.sio := (rfl)
@[simp] theorem Dev.set_binOut (f : Fld) (n : Nat) : (d.set f n).binOut = d.binOut := (rfl)
@[simp] theorem Dev.set_binCtl (f : Fld) (n : Nat) : (d.set f n).binCtl = d.binCtl := (rfl)
@[simp] theorem Dev.set_tiles (f : Fld) (n : Nat) : (d.set f n).tiles = d.tiles := (rfl)
@[simp] theorem Dev.set_ports (f : Fld) (n : Nat) : (d.set f n).ports = d.ports := (rfl)
@[simp] theorem Dev.set_latentWrites (f : Fld) (n : Nat) : (d.set f n).latentWrites = d.latentWrites := (rfl)
@[simp] theorem Dev.set_bacts (f : Fld) (n : Nat) : (d.set f n).bacts = d.bacts := (rfl)
@[simp] theorem Dev.set_noc (f : Fld) (n : Nat) : (d.set f n).noc = d.noc := (rfl)
@[simp] theorem Dev.set_rc (f : Fld) (n : Nat) : (d.set f n).rc = d.rc := (rfl)
@[simp] theorem Dev.set_lat (f : Fld) (n : Nat) : (d.set f n).lat = d.lat := (rfl)
@[simp] theorem Dev.set_bud (f : Fld) (n : Nat) : (d.set f n).bud = d.bud := (rfl)
@[simp] theorem Dev.set_stk (f : Fld) (n : Nat) : (d.set f n).stk = d.stk := (rfl)
@[simp] theorem Dev.set_msec (f : Fld) (n : Nat) : (d.set f n).msec = d.msec := (rfl)
@[simp] theorem Dev.set_errs (f : Fld) (n : Nat) : (d.set f n).errs = d.errs := (rfl)
@[simp] theorem Dev.set_log (f : Fld) (n : Nat) : (d.set f n).log = d.log := (rfl)
@[simp] theorem Dev.set_errIrq (f : Fld) (n : Nat) : (d.set f n).errIrq = d.errIrq := (rfl)
@[simp] theorem Dev.set_scrub (f : Fld) (n : Nat) : (d.set f n).scrub = d.scrub := (rfl)
@[simp] theorem Dev.set_sec (f : Fld) (n : Nat) : (d.set f n).sec = d.sec := (rfl)
@[simp] theorem Dev.set_pwr (f : Fld) (n : Nat) : (d.set f n).pwr = d.pwr := (rfl)
@[simp] theorem Dev.set_lanes (f : Fld) (n : Nat) : (d.set f n).lanes = d.lanes := (rfl)
@[simp] theorem Dev.set_links (f : Fld) (n : Nat) : (d.set f n).links = d.links := (rfl)
@[simp] theorem Dev.set_ctxs (f : Fld) (n : Nat) : (d.set f n).ctxs = d.ctxs := (rfl)
@[simp] theorem Dev.set_slots (f : Fld) (n : Nat) : (d.set f n).slots = d.slots := (rfl)
@[simp] theorem Dev.set_chan (f : Fld) (n : Nat) : (d.set f n).chan = d.chan := (rfl)
@[simp] theorem Dev.set_cluster (f : Fld) (n : Nat) : (d.set f n).cluster = d.cluster := (rfl)
@[simp] theorem Dev.set_cfg (f : Fld) (n : Nat) : (d.set f n).cfg = d.cfg := (rfl)
@[simp] theorem Dev.set_boot (f : Fld) (n : Nat) : (d.set f n).boot = d.boot := (rfl)
@[simp] theorem Dev.set_mbs (f : Fld) (n : Nat) : (d.set f n).mbs = d.mbs := (rfl)
@[simp] theorem Dev.set_host (f : Fld) (n : Nat) : (d.set f n).host = d.host := (rfl)
@[simp] theorem Dev.set_fw (f : Fld) (n : Nat) : (d.set f n).fw = d.fw := (rfl)
@[simp] theorem Dev.set_dbg (f : Fld) (n : Nat) : (d.set f n).dbg = d.dbg := (rfl)
@[simp] theorem Dev.set_cores (f : Fld) (n : Nat) : (d.set f n).cores = d.cores := (rfl)
@[simp] theorem Dev.set_trace (f : Fld) (n : Nat) : (d.set f n).trace = d.trace := (rfl)
@[simp] theorem Dev.set_free (f : Fld) (n : Nat) : (d.set f n).free = d.free := (rfl)

/-! ### Dev.setBit -/

@[simp] theorem Dev.setBit_latch (f : Fld) (i : Nat) (b : Bool) : (d.setBit f i b).latch = d.latch := (rfl)
@[simp] theorem Dev.setBit_mem (f : Fld) (i : Nat) (b : Bool) : (d.setBit f i b).mem = d.mem := (rfl)
@[simp] theorem Dev.setBit_marks (f : Fld) (i : Nat) (b : Bool) : (d.setBit f i b).marks = d.marks := (rfl)
@[simp] theorem Dev.setBit_fab (f : Fld) (i : Nat) (b : Bool) : (d.setBit f i b).fab = d.fab := (rfl)
@[simp] theorem Dev.setBit_flds (f : Fld) (i : Nat) (b : Bool) : (d.setBit f i b).flds = d.flds := (rfl)
@[simp] theorem Dev.setBit_effDelay (f : Fld) (i : Nat) (b : Bool) : (d.setBit f i b).effDelay = d.effDelay := (rfl)
@[simp] theorem Dev.setBit_effMargin (f : Fld) (i : Nat) (b : Bool) : (d.setBit f i b).effMargin = d.effMargin := (rfl)
@[simp] theorem Dev.setBit_trimDue (f : Fld) (i : Nat) (b : Bool) : (d.setBit f i b).trimDue = d.trimDue := (rfl)
@[simp] theorem Dev.setBit_pac (f : Fld) (i : Nat) (b : Bool) : (d.setBit f i b).pac = d.pac := (rfl)
@[simp] theorem Dev.setBit_sio (f : Fld) (i : Nat) (b : Bool) : (d.setBit f i b).sio = d.sio := (rfl)
@[simp] theorem Dev.setBit_binOut (f : Fld) (i : Nat) (b : Bool) : (d.setBit f i b).binOut = d.binOut := (rfl)
@[simp] theorem Dev.setBit_binCtl (f : Fld) (i : Nat) (b : Bool) : (d.setBit f i b).binCtl = d.binCtl := (rfl)
@[simp] theorem Dev.setBit_tiles (f : Fld) (i : Nat) (b : Bool) : (d.setBit f i b).tiles = d.tiles := (rfl)
@[simp] theorem Dev.setBit_ports (f : Fld) (i : Nat) (b : Bool) : (d.setBit f i b).ports = d.ports := (rfl)
@[simp] theorem Dev.setBit_latentWrites (f : Fld) (i : Nat) (b : Bool) : (d.setBit f i b).latentWrites = d.latentWrites := (rfl)
@[simp] theorem Dev.setBit_bacts (f : Fld) (i : Nat) (b : Bool) : (d.setBit f i b).bacts = d.bacts := (rfl)
@[simp] theorem Dev.setBit_noc (f : Fld) (i : Nat) (b : Bool) : (d.setBit f i b).noc = d.noc := (rfl)
@[simp] theorem Dev.setBit_rc (f : Fld) (i : Nat) (b : Bool) : (d.setBit f i b).rc = d.rc := (rfl)
@[simp] theorem Dev.setBit_lat (f : Fld) (i : Nat) (b : Bool) : (d.setBit f i b).lat = d.lat := (rfl)
@[simp] theorem Dev.setBit_bud (f : Fld) (i : Nat) (b : Bool) : (d.setBit f i b).bud = d.bud := (rfl)
@[simp] theorem Dev.setBit_stk (f : Fld) (i : Nat) (b : Bool) : (d.setBit f i b).stk = d.stk := (rfl)
@[simp] theorem Dev.setBit_msec (f : Fld) (i : Nat) (b : Bool) : (d.setBit f i b).msec = d.msec := (rfl)
@[simp] theorem Dev.setBit_errs (f : Fld) (i : Nat) (b : Bool) : (d.setBit f i b).errs = d.errs := (rfl)
@[simp] theorem Dev.setBit_log (f : Fld) (i : Nat) (b : Bool) : (d.setBit f i b).log = d.log := (rfl)
@[simp] theorem Dev.setBit_errIrq (f : Fld) (i : Nat) (b : Bool) : (d.setBit f i b).errIrq = d.errIrq := (rfl)
@[simp] theorem Dev.setBit_scrub (f : Fld) (i : Nat) (b : Bool) : (d.setBit f i b).scrub = d.scrub := (rfl)
@[simp] theorem Dev.setBit_sec (f : Fld) (i : Nat) (b : Bool) : (d.setBit f i b).sec = d.sec := (rfl)
@[simp] theorem Dev.setBit_pwr (f : Fld) (i : Nat) (b : Bool) : (d.setBit f i b).pwr = d.pwr := (rfl)
@[simp] theorem Dev.setBit_lanes (f : Fld) (i : Nat) (b : Bool) : (d.setBit f i b).lanes = d.lanes := (rfl)
@[simp] theorem Dev.setBit_links (f : Fld) (i : Nat) (b : Bool) : (d.setBit f i b).links = d.links := (rfl)
@[simp] theorem Dev.setBit_ctxs (f : Fld) (i : Nat) (b : Bool) : (d.setBit f i b).ctxs = d.ctxs := (rfl)
@[simp] theorem Dev.setBit_slots (f : Fld) (i : Nat) (b : Bool) : (d.setBit f i b).slots = d.slots := (rfl)
@[simp] theorem Dev.setBit_chan (f : Fld) (i : Nat) (b : Bool) : (d.setBit f i b).chan = d.chan := (rfl)
@[simp] theorem Dev.setBit_cluster (f : Fld) (i : Nat) (b : Bool) : (d.setBit f i b).cluster = d.cluster := (rfl)
@[simp] theorem Dev.setBit_cfg (f : Fld) (i : Nat) (b : Bool) : (d.setBit f i b).cfg = d.cfg := (rfl)
@[simp] theorem Dev.setBit_boot (f : Fld) (i : Nat) (b : Bool) : (d.setBit f i b).boot = d.boot := (rfl)
@[simp] theorem Dev.setBit_mbs (f : Fld) (i : Nat) (b : Bool) : (d.setBit f i b).mbs = d.mbs := (rfl)
@[simp] theorem Dev.setBit_host (f : Fld) (i : Nat) (b : Bool) : (d.setBit f i b).host = d.host := (rfl)
@[simp] theorem Dev.setBit_fw (f : Fld) (i : Nat) (b : Bool) : (d.setBit f i b).fw = d.fw := (rfl)
@[simp] theorem Dev.setBit_dbg (f : Fld) (i : Nat) (b : Bool) : (d.setBit f i b).dbg = d.dbg := (rfl)
@[simp] theorem Dev.setBit_cores (f : Fld) (i : Nat) (b : Bool) : (d.setBit f i b).cores = d.cores := (rfl)
@[simp] theorem Dev.setBit_trace (f : Fld) (i : Nat) (b : Bool) : (d.setBit f i b).trace = d.trace := (rfl)
@[simp] theorem Dev.setBit_free (f : Fld) (i : Nat) (b : Bool) : (d.setBit f i b).free = d.free := (rfl)

/-! ### Dev.bump -/

@[simp] theorem Dev.bump_latch (f : Fld) (n : Nat) : (d.bump f n).latch = d.latch := (rfl)
@[simp] theorem Dev.bump_mem (f : Fld) (n : Nat) : (d.bump f n).mem = d.mem := (rfl)
@[simp] theorem Dev.bump_marks (f : Fld) (n : Nat) : (d.bump f n).marks = d.marks := (rfl)
@[simp] theorem Dev.bump_fab (f : Fld) (n : Nat) : (d.bump f n).fab = d.fab := (rfl)
@[simp] theorem Dev.bump_flds (f : Fld) (n : Nat) : (d.bump f n).flds = d.flds := (rfl)
@[simp] theorem Dev.bump_effDelay (f : Fld) (n : Nat) : (d.bump f n).effDelay = d.effDelay := (rfl)
@[simp] theorem Dev.bump_effMargin (f : Fld) (n : Nat) : (d.bump f n).effMargin = d.effMargin := (rfl)
@[simp] theorem Dev.bump_trimDue (f : Fld) (n : Nat) : (d.bump f n).trimDue = d.trimDue := (rfl)
@[simp] theorem Dev.bump_pac (f : Fld) (n : Nat) : (d.bump f n).pac = d.pac := (rfl)
@[simp] theorem Dev.bump_sio (f : Fld) (n : Nat) : (d.bump f n).sio = d.sio := (rfl)
@[simp] theorem Dev.bump_binOut (f : Fld) (n : Nat) : (d.bump f n).binOut = d.binOut := (rfl)
@[simp] theorem Dev.bump_binCtl (f : Fld) (n : Nat) : (d.bump f n).binCtl = d.binCtl := (rfl)
@[simp] theorem Dev.bump_tiles (f : Fld) (n : Nat) : (d.bump f n).tiles = d.tiles := (rfl)
@[simp] theorem Dev.bump_ports (f : Fld) (n : Nat) : (d.bump f n).ports = d.ports := (rfl)
@[simp] theorem Dev.bump_latentWrites (f : Fld) (n : Nat) : (d.bump f n).latentWrites = d.latentWrites := (rfl)
@[simp] theorem Dev.bump_bacts (f : Fld) (n : Nat) : (d.bump f n).bacts = d.bacts := (rfl)
@[simp] theorem Dev.bump_noc (f : Fld) (n : Nat) : (d.bump f n).noc = d.noc := (rfl)
@[simp] theorem Dev.bump_rc (f : Fld) (n : Nat) : (d.bump f n).rc = d.rc := (rfl)
@[simp] theorem Dev.bump_lat (f : Fld) (n : Nat) : (d.bump f n).lat = d.lat := (rfl)
@[simp] theorem Dev.bump_bud (f : Fld) (n : Nat) : (d.bump f n).bud = d.bud := (rfl)
@[simp] theorem Dev.bump_stk (f : Fld) (n : Nat) : (d.bump f n).stk = d.stk := (rfl)
@[simp] theorem Dev.bump_msec (f : Fld) (n : Nat) : (d.bump f n).msec = d.msec := (rfl)
@[simp] theorem Dev.bump_errs (f : Fld) (n : Nat) : (d.bump f n).errs = d.errs := (rfl)
@[simp] theorem Dev.bump_log (f : Fld) (n : Nat) : (d.bump f n).log = d.log := (rfl)
@[simp] theorem Dev.bump_errIrq (f : Fld) (n : Nat) : (d.bump f n).errIrq = d.errIrq := (rfl)
@[simp] theorem Dev.bump_scrub (f : Fld) (n : Nat) : (d.bump f n).scrub = d.scrub := (rfl)
@[simp] theorem Dev.bump_sec (f : Fld) (n : Nat) : (d.bump f n).sec = d.sec := (rfl)
@[simp] theorem Dev.bump_pwr (f : Fld) (n : Nat) : (d.bump f n).pwr = d.pwr := (rfl)
@[simp] theorem Dev.bump_lanes (f : Fld) (n : Nat) : (d.bump f n).lanes = d.lanes := (rfl)
@[simp] theorem Dev.bump_links (f : Fld) (n : Nat) : (d.bump f n).links = d.links := (rfl)
@[simp] theorem Dev.bump_ctxs (f : Fld) (n : Nat) : (d.bump f n).ctxs = d.ctxs := (rfl)
@[simp] theorem Dev.bump_slots (f : Fld) (n : Nat) : (d.bump f n).slots = d.slots := (rfl)
@[simp] theorem Dev.bump_chan (f : Fld) (n : Nat) : (d.bump f n).chan = d.chan := (rfl)
@[simp] theorem Dev.bump_cluster (f : Fld) (n : Nat) : (d.bump f n).cluster = d.cluster := (rfl)
@[simp] theorem Dev.bump_cfg (f : Fld) (n : Nat) : (d.bump f n).cfg = d.cfg := (rfl)
@[simp] theorem Dev.bump_boot (f : Fld) (n : Nat) : (d.bump f n).boot = d.boot := (rfl)
@[simp] theorem Dev.bump_mbs (f : Fld) (n : Nat) : (d.bump f n).mbs = d.mbs := (rfl)
@[simp] theorem Dev.bump_host (f : Fld) (n : Nat) : (d.bump f n).host = d.host := (rfl)
@[simp] theorem Dev.bump_fw (f : Fld) (n : Nat) : (d.bump f n).fw = d.fw := (rfl)
@[simp] theorem Dev.bump_dbg (f : Fld) (n : Nat) : (d.bump f n).dbg = d.dbg := (rfl)
@[simp] theorem Dev.bump_cores (f : Fld) (n : Nat) : (d.bump f n).cores = d.cores := (rfl)
@[simp] theorem Dev.bump_trace (f : Fld) (n : Nat) : (d.bump f n).trace = d.trace := (rfl)
@[simp] theorem Dev.bump_free (f : Fld) (n : Nat) : (d.bump f n).free = d.free := (rfl)

/-! ### Dev.wrap -/

@[simp] theorem Dev.wrap_latch (f : Fld) (n : Nat) : (d.wrap f n).latch = d.latch := (rfl)
@[simp] theorem Dev.wrap_mem (f : Fld) (n : Nat) : (d.wrap f n).mem = d.mem := (rfl)
@[simp] theorem Dev.wrap_marks (f : Fld) (n : Nat) : (d.wrap f n).marks = d.marks := (rfl)
@[simp] theorem Dev.wrap_fab (f : Fld) (n : Nat) : (d.wrap f n).fab = d.fab := (rfl)
@[simp] theorem Dev.wrap_flds (f : Fld) (n : Nat) : (d.wrap f n).flds = d.flds := (rfl)
@[simp] theorem Dev.wrap_effDelay (f : Fld) (n : Nat) : (d.wrap f n).effDelay = d.effDelay := (rfl)
@[simp] theorem Dev.wrap_effMargin (f : Fld) (n : Nat) : (d.wrap f n).effMargin = d.effMargin := (rfl)
@[simp] theorem Dev.wrap_trimDue (f : Fld) (n : Nat) : (d.wrap f n).trimDue = d.trimDue := (rfl)
@[simp] theorem Dev.wrap_pac (f : Fld) (n : Nat) : (d.wrap f n).pac = d.pac := (rfl)
@[simp] theorem Dev.wrap_sio (f : Fld) (n : Nat) : (d.wrap f n).sio = d.sio := (rfl)
@[simp] theorem Dev.wrap_binOut (f : Fld) (n : Nat) : (d.wrap f n).binOut = d.binOut := (rfl)
@[simp] theorem Dev.wrap_binCtl (f : Fld) (n : Nat) : (d.wrap f n).binCtl = d.binCtl := (rfl)
@[simp] theorem Dev.wrap_tiles (f : Fld) (n : Nat) : (d.wrap f n).tiles = d.tiles := (rfl)
@[simp] theorem Dev.wrap_ports (f : Fld) (n : Nat) : (d.wrap f n).ports = d.ports := (rfl)
@[simp] theorem Dev.wrap_latentWrites (f : Fld) (n : Nat) : (d.wrap f n).latentWrites = d.latentWrites := (rfl)
@[simp] theorem Dev.wrap_bacts (f : Fld) (n : Nat) : (d.wrap f n).bacts = d.bacts := (rfl)
@[simp] theorem Dev.wrap_noc (f : Fld) (n : Nat) : (d.wrap f n).noc = d.noc := (rfl)
@[simp] theorem Dev.wrap_rc (f : Fld) (n : Nat) : (d.wrap f n).rc = d.rc := (rfl)
@[simp] theorem Dev.wrap_lat (f : Fld) (n : Nat) : (d.wrap f n).lat = d.lat := (rfl)
@[simp] theorem Dev.wrap_bud (f : Fld) (n : Nat) : (d.wrap f n).bud = d.bud := (rfl)
@[simp] theorem Dev.wrap_stk (f : Fld) (n : Nat) : (d.wrap f n).stk = d.stk := (rfl)
@[simp] theorem Dev.wrap_msec (f : Fld) (n : Nat) : (d.wrap f n).msec = d.msec := (rfl)
@[simp] theorem Dev.wrap_errs (f : Fld) (n : Nat) : (d.wrap f n).errs = d.errs := (rfl)
@[simp] theorem Dev.wrap_log (f : Fld) (n : Nat) : (d.wrap f n).log = d.log := (rfl)
@[simp] theorem Dev.wrap_errIrq (f : Fld) (n : Nat) : (d.wrap f n).errIrq = d.errIrq := (rfl)
@[simp] theorem Dev.wrap_scrub (f : Fld) (n : Nat) : (d.wrap f n).scrub = d.scrub := (rfl)
@[simp] theorem Dev.wrap_sec (f : Fld) (n : Nat) : (d.wrap f n).sec = d.sec := (rfl)
@[simp] theorem Dev.wrap_pwr (f : Fld) (n : Nat) : (d.wrap f n).pwr = d.pwr := (rfl)
@[simp] theorem Dev.wrap_lanes (f : Fld) (n : Nat) : (d.wrap f n).lanes = d.lanes := (rfl)
@[simp] theorem Dev.wrap_links (f : Fld) (n : Nat) : (d.wrap f n).links = d.links := (rfl)
@[simp] theorem Dev.wrap_ctxs (f : Fld) (n : Nat) : (d.wrap f n).ctxs = d.ctxs := (rfl)
@[simp] theorem Dev.wrap_slots (f : Fld) (n : Nat) : (d.wrap f n).slots = d.slots := (rfl)
@[simp] theorem Dev.wrap_chan (f : Fld) (n : Nat) : (d.wrap f n).chan = d.chan := (rfl)
@[simp] theorem Dev.wrap_cluster (f : Fld) (n : Nat) : (d.wrap f n).cluster = d.cluster := (rfl)
@[simp] theorem Dev.wrap_cfg (f : Fld) (n : Nat) : (d.wrap f n).cfg = d.cfg := (rfl)
@[simp] theorem Dev.wrap_boot (f : Fld) (n : Nat) : (d.wrap f n).boot = d.boot := (rfl)
@[simp] theorem Dev.wrap_mbs (f : Fld) (n : Nat) : (d.wrap f n).mbs = d.mbs := (rfl)
@[simp] theorem Dev.wrap_host (f : Fld) (n : Nat) : (d.wrap f n).host = d.host := (rfl)
@[simp] theorem Dev.wrap_fw (f : Fld) (n : Nat) : (d.wrap f n).fw = d.fw := (rfl)
@[simp] theorem Dev.wrap_dbg (f : Fld) (n : Nat) : (d.wrap f n).dbg = d.dbg := (rfl)
@[simp] theorem Dev.wrap_cores (f : Fld) (n : Nat) : (d.wrap f n).cores = d.cores := (rfl)
@[simp] theorem Dev.wrap_trace (f : Fld) (n : Nat) : (d.wrap f n).trace = d.trace := (rfl)
@[simp] theorem Dev.wrap_free (f : Fld) (n : Nat) : (d.wrap f n).free = d.free := (rfl)

/-! ### Dev.setPair -/

@[simp] theorem Dev.setPair_latch (lo hi n : Nat) : (d.setPair lo hi n).latch = d.latch := (rfl)
@[simp] theorem Dev.setPair_mem (lo hi n : Nat) : (d.setPair lo hi n).mem = d.mem := (rfl)
@[simp] theorem Dev.setPair_marks (lo hi n : Nat) : (d.setPair lo hi n).marks = d.marks := (rfl)
@[simp] theorem Dev.setPair_fab (lo hi n : Nat) : (d.setPair lo hi n).fab = d.fab := (rfl)
@[simp] theorem Dev.setPair_flds (lo hi n : Nat) : (d.setPair lo hi n).flds = d.flds := (rfl)
@[simp] theorem Dev.setPair_effDelay (lo hi n : Nat) : (d.setPair lo hi n).effDelay = d.effDelay := (rfl)
@[simp] theorem Dev.setPair_effMargin (lo hi n : Nat) : (d.setPair lo hi n).effMargin = d.effMargin := (rfl)
@[simp] theorem Dev.setPair_trimDue (lo hi n : Nat) : (d.setPair lo hi n).trimDue = d.trimDue := (rfl)
@[simp] theorem Dev.setPair_pac (lo hi n : Nat) : (d.setPair lo hi n).pac = d.pac := (rfl)
@[simp] theorem Dev.setPair_sio (lo hi n : Nat) : (d.setPair lo hi n).sio = d.sio := (rfl)
@[simp] theorem Dev.setPair_binOut (lo hi n : Nat) : (d.setPair lo hi n).binOut = d.binOut := (rfl)
@[simp] theorem Dev.setPair_binCtl (lo hi n : Nat) : (d.setPair lo hi n).binCtl = d.binCtl := (rfl)
@[simp] theorem Dev.setPair_tiles (lo hi n : Nat) : (d.setPair lo hi n).tiles = d.tiles := (rfl)
@[simp] theorem Dev.setPair_ports (lo hi n : Nat) : (d.setPair lo hi n).ports = d.ports := (rfl)
@[simp] theorem Dev.setPair_latentWrites (lo hi n : Nat) : (d.setPair lo hi n).latentWrites = d.latentWrites := (rfl)
@[simp] theorem Dev.setPair_bacts (lo hi n : Nat) : (d.setPair lo hi n).bacts = d.bacts := (rfl)
@[simp] theorem Dev.setPair_noc (lo hi n : Nat) : (d.setPair lo hi n).noc = d.noc := (rfl)
@[simp] theorem Dev.setPair_rc (lo hi n : Nat) : (d.setPair lo hi n).rc = d.rc := (rfl)
@[simp] theorem Dev.setPair_lat (lo hi n : Nat) : (d.setPair lo hi n).lat = d.lat := (rfl)
@[simp] theorem Dev.setPair_bud (lo hi n : Nat) : (d.setPair lo hi n).bud = d.bud := (rfl)
@[simp] theorem Dev.setPair_stk (lo hi n : Nat) : (d.setPair lo hi n).stk = d.stk := (rfl)
@[simp] theorem Dev.setPair_msec (lo hi n : Nat) : (d.setPair lo hi n).msec = d.msec := (rfl)
@[simp] theorem Dev.setPair_errs (lo hi n : Nat) : (d.setPair lo hi n).errs = d.errs := (rfl)
@[simp] theorem Dev.setPair_log (lo hi n : Nat) : (d.setPair lo hi n).log = d.log := (rfl)
@[simp] theorem Dev.setPair_errIrq (lo hi n : Nat) : (d.setPair lo hi n).errIrq = d.errIrq := (rfl)
@[simp] theorem Dev.setPair_scrub (lo hi n : Nat) : (d.setPair lo hi n).scrub = d.scrub := (rfl)
@[simp] theorem Dev.setPair_sec (lo hi n : Nat) : (d.setPair lo hi n).sec = d.sec := (rfl)
@[simp] theorem Dev.setPair_pwr (lo hi n : Nat) : (d.setPair lo hi n).pwr = d.pwr := (rfl)
@[simp] theorem Dev.setPair_lanes (lo hi n : Nat) : (d.setPair lo hi n).lanes = d.lanes := (rfl)
@[simp] theorem Dev.setPair_links (lo hi n : Nat) : (d.setPair lo hi n).links = d.links := (rfl)
@[simp] theorem Dev.setPair_ctxs (lo hi n : Nat) : (d.setPair lo hi n).ctxs = d.ctxs := (rfl)
@[simp] theorem Dev.setPair_slots (lo hi n : Nat) : (d.setPair lo hi n).slots = d.slots := (rfl)
@[simp] theorem Dev.setPair_chan (lo hi n : Nat) : (d.setPair lo hi n).chan = d.chan := (rfl)
@[simp] theorem Dev.setPair_cluster (lo hi n : Nat) : (d.setPair lo hi n).cluster = d.cluster := (rfl)
@[simp] theorem Dev.setPair_cfg (lo hi n : Nat) : (d.setPair lo hi n).cfg = d.cfg := (rfl)
@[simp] theorem Dev.setPair_boot (lo hi n : Nat) : (d.setPair lo hi n).boot = d.boot := (rfl)
@[simp] theorem Dev.setPair_mbs (lo hi n : Nat) : (d.setPair lo hi n).mbs = d.mbs := (rfl)
@[simp] theorem Dev.setPair_host (lo hi n : Nat) : (d.setPair lo hi n).host = d.host := (rfl)
@[simp] theorem Dev.setPair_fw (lo hi n : Nat) : (d.setPair lo hi n).fw = d.fw := (rfl)
@[simp] theorem Dev.setPair_dbg (lo hi n : Nat) : (d.setPair lo hi n).dbg = d.dbg := (rfl)
@[simp] theorem Dev.setPair_cores (lo hi n : Nat) : (d.setPair lo hi n).cores = d.cores := (rfl)
@[simp] theorem Dev.setPair_trace (lo hi n : Nat) : (d.setPair lo hi n).trace = d.trace := (rfl)
@[simp] theorem Dev.setPair_free (lo hi n : Nat) : (d.setPair lo hi n).free = d.free := (rfl)

/-! ### Dev.resetRegs -/

@[simp] theorem Dev.resetRegs_mem (lo hi : Nat) : (d.resetRegs lo hi).mem = d.mem := (rfl)
@[simp] theorem Dev.resetRegs_marks (lo hi : Nat) : (d.resetRegs lo hi).marks = d.marks := (rfl)
@[simp] theorem Dev.resetRegs_fab (lo hi : Nat) : (d.resetRegs lo hi).fab = d.fab := (rfl)
@[simp] theorem Dev.resetRegs_flds (lo hi : Nat) : (d.resetRegs lo hi).flds = d.flds := (rfl)
@[simp] theorem Dev.resetRegs_effDelay (lo hi : Nat) : (d.resetRegs lo hi).effDelay = d.effDelay := (rfl)
@[simp] theorem Dev.resetRegs_effMargin (lo hi : Nat) : (d.resetRegs lo hi).effMargin = d.effMargin := (rfl)
@[simp] theorem Dev.resetRegs_trimDue (lo hi : Nat) : (d.resetRegs lo hi).trimDue = d.trimDue := (rfl)
@[simp] theorem Dev.resetRegs_pac (lo hi : Nat) : (d.resetRegs lo hi).pac = d.pac := (rfl)
@[simp] theorem Dev.resetRegs_sio (lo hi : Nat) : (d.resetRegs lo hi).sio = d.sio := (rfl)
@[simp] theorem Dev.resetRegs_binOut (lo hi : Nat) : (d.resetRegs lo hi).binOut = d.binOut := (rfl)
@[simp] theorem Dev.resetRegs_binCtl (lo hi : Nat) : (d.resetRegs lo hi).binCtl = d.binCtl := (rfl)
@[simp] theorem Dev.resetRegs_tiles (lo hi : Nat) : (d.resetRegs lo hi).tiles = d.tiles := (rfl)
@[simp] theorem Dev.resetRegs_ports (lo hi : Nat) : (d.resetRegs lo hi).ports = d.ports := (rfl)
@[simp] theorem Dev.resetRegs_latentWrites (lo hi : Nat) : (d.resetRegs lo hi).latentWrites = d.latentWrites := (rfl)
@[simp] theorem Dev.resetRegs_bacts (lo hi : Nat) : (d.resetRegs lo hi).bacts = d.bacts := (rfl)
@[simp] theorem Dev.resetRegs_noc (lo hi : Nat) : (d.resetRegs lo hi).noc = d.noc := (rfl)
@[simp] theorem Dev.resetRegs_rc (lo hi : Nat) : (d.resetRegs lo hi).rc = d.rc := (rfl)
@[simp] theorem Dev.resetRegs_lat (lo hi : Nat) : (d.resetRegs lo hi).lat = d.lat := (rfl)
@[simp] theorem Dev.resetRegs_bud (lo hi : Nat) : (d.resetRegs lo hi).bud = d.bud := (rfl)
@[simp] theorem Dev.resetRegs_stk (lo hi : Nat) : (d.resetRegs lo hi).stk = d.stk := (rfl)
@[simp] theorem Dev.resetRegs_msec (lo hi : Nat) : (d.resetRegs lo hi).msec = d.msec := (rfl)
@[simp] theorem Dev.resetRegs_errs (lo hi : Nat) : (d.resetRegs lo hi).errs = d.errs := (rfl)
@[simp] theorem Dev.resetRegs_log (lo hi : Nat) : (d.resetRegs lo hi).log = d.log := (rfl)
@[simp] theorem Dev.resetRegs_errIrq (lo hi : Nat) : (d.resetRegs lo hi).errIrq = d.errIrq := (rfl)
@[simp] theorem Dev.resetRegs_scrub (lo hi : Nat) : (d.resetRegs lo hi).scrub = d.scrub := (rfl)
@[simp] theorem Dev.resetRegs_sec (lo hi : Nat) : (d.resetRegs lo hi).sec = d.sec := (rfl)
@[simp] theorem Dev.resetRegs_pwr (lo hi : Nat) : (d.resetRegs lo hi).pwr = d.pwr := (rfl)
@[simp] theorem Dev.resetRegs_lanes (lo hi : Nat) : (d.resetRegs lo hi).lanes = d.lanes := (rfl)
@[simp] theorem Dev.resetRegs_links (lo hi : Nat) : (d.resetRegs lo hi).links = d.links := (rfl)
@[simp] theorem Dev.resetRegs_ctxs (lo hi : Nat) : (d.resetRegs lo hi).ctxs = d.ctxs := (rfl)
@[simp] theorem Dev.resetRegs_slots (lo hi : Nat) : (d.resetRegs lo hi).slots = d.slots := (rfl)
@[simp] theorem Dev.resetRegs_chan (lo hi : Nat) : (d.resetRegs lo hi).chan = d.chan := (rfl)
@[simp] theorem Dev.resetRegs_cluster (lo hi : Nat) : (d.resetRegs lo hi).cluster = d.cluster := (rfl)
@[simp] theorem Dev.resetRegs_cfg (lo hi : Nat) : (d.resetRegs lo hi).cfg = d.cfg := (rfl)
@[simp] theorem Dev.resetRegs_boot (lo hi : Nat) : (d.resetRegs lo hi).boot = d.boot := (rfl)
@[simp] theorem Dev.resetRegs_mbs (lo hi : Nat) : (d.resetRegs lo hi).mbs = d.mbs := (rfl)
@[simp] theorem Dev.resetRegs_host (lo hi : Nat) : (d.resetRegs lo hi).host = d.host := (rfl)
@[simp] theorem Dev.resetRegs_fw (lo hi : Nat) : (d.resetRegs lo hi).fw = d.fw := (rfl)
@[simp] theorem Dev.resetRegs_dbg (lo hi : Nat) : (d.resetRegs lo hi).dbg = d.dbg := (rfl)
@[simp] theorem Dev.resetRegs_cores (lo hi : Nat) : (d.resetRegs lo hi).cores = d.cores := (rfl)
@[simp] theorem Dev.resetRegs_trace (lo hi : Nat) : (d.resetRegs lo hi).trace = d.trace := (rfl)
@[simp] theorem Dev.resetRegs_free (lo hi : Nat) : (d.resetRegs lo hi).free = d.free := (rfl)

/-! ### Dev.spend -/

@[simp] theorem Dev.spend_regs : (d.spend).regs = d.regs := (rfl)
@[simp] theorem Dev.spend_latch : (d.spend).latch = d.latch := (rfl)
@[simp] theorem Dev.spend_mem : (d.spend).mem = d.mem := (rfl)
@[simp] theorem Dev.spend_marks : (d.spend).marks = d.marks := (rfl)
@[simp] theorem Dev.spend_fab : (d.spend).fab = d.fab := (rfl)
@[simp] theorem Dev.spend_flds : (d.spend).flds = d.flds := (rfl)
@[simp] theorem Dev.spend_effDelay : (d.spend).effDelay = d.effDelay := (rfl)
@[simp] theorem Dev.spend_effMargin : (d.spend).effMargin = d.effMargin := (rfl)
@[simp] theorem Dev.spend_trimDue : (d.spend).trimDue = d.trimDue := (rfl)
@[simp] theorem Dev.spend_pac : (d.spend).pac = d.pac := (rfl)
@[simp] theorem Dev.spend_sio : (d.spend).sio = d.sio := (rfl)
@[simp] theorem Dev.spend_binOut : (d.spend).binOut = d.binOut := (rfl)
@[simp] theorem Dev.spend_binCtl : (d.spend).binCtl = d.binCtl := (rfl)
@[simp] theorem Dev.spend_tiles : (d.spend).tiles = d.tiles := (rfl)
@[simp] theorem Dev.spend_ports : (d.spend).ports = d.ports := (rfl)
@[simp] theorem Dev.spend_latentWrites : (d.spend).latentWrites = d.latentWrites := (rfl)
@[simp] theorem Dev.spend_bacts : (d.spend).bacts = d.bacts := (rfl)
@[simp] theorem Dev.spend_noc : (d.spend).noc = d.noc := (rfl)
@[simp] theorem Dev.spend_rc : (d.spend).rc = d.rc := (rfl)
@[simp] theorem Dev.spend_lat : (d.spend).lat = d.lat := (rfl)
@[simp] theorem Dev.spend_bud : (d.spend).bud = d.bud := (rfl)
@[simp] theorem Dev.spend_stk : (d.spend).stk = d.stk := (rfl)
@[simp] theorem Dev.spend_msec : (d.spend).msec = d.msec := (rfl)
@[simp] theorem Dev.spend_errs : (d.spend).errs = d.errs := (rfl)
@[simp] theorem Dev.spend_log : (d.spend).log = d.log := (rfl)
@[simp] theorem Dev.spend_errIrq : (d.spend).errIrq = d.errIrq := (rfl)
@[simp] theorem Dev.spend_scrub : (d.spend).scrub = d.scrub := (rfl)
@[simp] theorem Dev.spend_sec : (d.spend).sec = d.sec := (rfl)
@[simp] theorem Dev.spend_pwr : (d.spend).pwr = d.pwr := (rfl)
@[simp] theorem Dev.spend_lanes : (d.spend).lanes = d.lanes := (rfl)
@[simp] theorem Dev.spend_links : (d.spend).links = d.links := (rfl)
@[simp] theorem Dev.spend_ctxs : (d.spend).ctxs = d.ctxs := (rfl)
@[simp] theorem Dev.spend_slots : (d.spend).slots = d.slots := (rfl)
@[simp] theorem Dev.spend_chan : (d.spend).chan = d.chan := (rfl)
@[simp] theorem Dev.spend_cluster : (d.spend).cluster = d.cluster := (rfl)
@[simp] theorem Dev.spend_cfg : (d.spend).cfg = d.cfg := (rfl)
@[simp] theorem Dev.spend_boot : (d.spend).boot = d.boot := (rfl)
@[simp] theorem Dev.spend_mbs : (d.spend).mbs = d.mbs := (rfl)
@[simp] theorem Dev.spend_host : (d.spend).host = d.host := (rfl)
@[simp] theorem Dev.spend_fw : (d.spend).fw = d.fw := (rfl)
@[simp] theorem Dev.spend_dbg : (d.spend).dbg = d.dbg := (rfl)
@[simp] theorem Dev.spend_cores : (d.spend).cores = d.cores := (rfl)
@[simp] theorem Dev.spend_trace : (d.spend).trace = d.trace := (rfl)

/-! ### Dev.setFld -/

@[simp] theorem Dev.setFld_regs (f : Nat) (v : FieldDyn) : (d.setFld f v).regs = d.regs := (rfl)
@[simp] theorem Dev.setFld_latch (f : Nat) (v : FieldDyn) : (d.setFld f v).latch = d.latch := (rfl)
@[simp] theorem Dev.setFld_mem (f : Nat) (v : FieldDyn) : (d.setFld f v).mem = d.mem := (rfl)
@[simp] theorem Dev.setFld_marks (f : Nat) (v : FieldDyn) : (d.setFld f v).marks = d.marks := (rfl)
@[simp] theorem Dev.setFld_fab (f : Nat) (v : FieldDyn) : (d.setFld f v).fab = d.fab := (rfl)
@[simp] theorem Dev.setFld_effDelay (f : Nat) (v : FieldDyn) : (d.setFld f v).effDelay = d.effDelay := (rfl)
@[simp] theorem Dev.setFld_effMargin (f : Nat) (v : FieldDyn) : (d.setFld f v).effMargin = d.effMargin := (rfl)
@[simp] theorem Dev.setFld_trimDue (f : Nat) (v : FieldDyn) : (d.setFld f v).trimDue = d.trimDue := (rfl)
@[simp] theorem Dev.setFld_pac (f : Nat) (v : FieldDyn) : (d.setFld f v).pac = d.pac := (rfl)
@[simp] theorem Dev.setFld_sio (f : Nat) (v : FieldDyn) : (d.setFld f v).sio = d.sio := (rfl)
@[simp] theorem Dev.setFld_binOut (f : Nat) (v : FieldDyn) : (d.setFld f v).binOut = d.binOut := (rfl)
@[simp] theorem Dev.setFld_binCtl (f : Nat) (v : FieldDyn) : (d.setFld f v).binCtl = d.binCtl := (rfl)
@[simp] theorem Dev.setFld_tiles (f : Nat) (v : FieldDyn) : (d.setFld f v).tiles = d.tiles := (rfl)
@[simp] theorem Dev.setFld_ports (f : Nat) (v : FieldDyn) : (d.setFld f v).ports = d.ports := (rfl)
@[simp] theorem Dev.setFld_latentWrites (f : Nat) (v : FieldDyn) : (d.setFld f v).latentWrites = d.latentWrites := (rfl)
@[simp] theorem Dev.setFld_bacts (f : Nat) (v : FieldDyn) : (d.setFld f v).bacts = d.bacts := (rfl)
@[simp] theorem Dev.setFld_noc (f : Nat) (v : FieldDyn) : (d.setFld f v).noc = d.noc := (rfl)
@[simp] theorem Dev.setFld_rc (f : Nat) (v : FieldDyn) : (d.setFld f v).rc = d.rc := (rfl)
@[simp] theorem Dev.setFld_lat (f : Nat) (v : FieldDyn) : (d.setFld f v).lat = d.lat := (rfl)
@[simp] theorem Dev.setFld_bud (f : Nat) (v : FieldDyn) : (d.setFld f v).bud = d.bud := (rfl)
@[simp] theorem Dev.setFld_stk (f : Nat) (v : FieldDyn) : (d.setFld f v).stk = d.stk := (rfl)
@[simp] theorem Dev.setFld_msec (f : Nat) (v : FieldDyn) : (d.setFld f v).msec = d.msec := (rfl)
@[simp] theorem Dev.setFld_errs (f : Nat) (v : FieldDyn) : (d.setFld f v).errs = d.errs := (rfl)
@[simp] theorem Dev.setFld_log (f : Nat) (v : FieldDyn) : (d.setFld f v).log = d.log := (rfl)
@[simp] theorem Dev.setFld_errIrq (f : Nat) (v : FieldDyn) : (d.setFld f v).errIrq = d.errIrq := (rfl)
@[simp] theorem Dev.setFld_scrub (f : Nat) (v : FieldDyn) : (d.setFld f v).scrub = d.scrub := (rfl)
@[simp] theorem Dev.setFld_sec (f : Nat) (v : FieldDyn) : (d.setFld f v).sec = d.sec := (rfl)
@[simp] theorem Dev.setFld_pwr (f : Nat) (v : FieldDyn) : (d.setFld f v).pwr = d.pwr := (rfl)
@[simp] theorem Dev.setFld_lanes (f : Nat) (v : FieldDyn) : (d.setFld f v).lanes = d.lanes := (rfl)
@[simp] theorem Dev.setFld_links (f : Nat) (v : FieldDyn) : (d.setFld f v).links = d.links := (rfl)
@[simp] theorem Dev.setFld_ctxs (f : Nat) (v : FieldDyn) : (d.setFld f v).ctxs = d.ctxs := (rfl)
@[simp] theorem Dev.setFld_slots (f : Nat) (v : FieldDyn) : (d.setFld f v).slots = d.slots := (rfl)
@[simp] theorem Dev.setFld_chan (f : Nat) (v : FieldDyn) : (d.setFld f v).chan = d.chan := (rfl)
@[simp] theorem Dev.setFld_cluster (f : Nat) (v : FieldDyn) : (d.setFld f v).cluster = d.cluster := (rfl)
@[simp] theorem Dev.setFld_cfg (f : Nat) (v : FieldDyn) : (d.setFld f v).cfg = d.cfg := (rfl)
@[simp] theorem Dev.setFld_boot (f : Nat) (v : FieldDyn) : (d.setFld f v).boot = d.boot := (rfl)
@[simp] theorem Dev.setFld_mbs (f : Nat) (v : FieldDyn) : (d.setFld f v).mbs = d.mbs := (rfl)
@[simp] theorem Dev.setFld_host (f : Nat) (v : FieldDyn) : (d.setFld f v).host = d.host := (rfl)
@[simp] theorem Dev.setFld_fw (f : Nat) (v : FieldDyn) : (d.setFld f v).fw = d.fw := (rfl)
@[simp] theorem Dev.setFld_dbg (f : Nat) (v : FieldDyn) : (d.setFld f v).dbg = d.dbg := (rfl)
@[simp] theorem Dev.setFld_cores (f : Nat) (v : FieldDyn) : (d.setFld f v).cores = d.cores := (rfl)
@[simp] theorem Dev.setFld_trace (f : Nat) (v : FieldDyn) : (d.setFld f v).trace = d.trace := (rfl)
@[simp] theorem Dev.setFld_free (f : Nat) (v : FieldDyn) : (d.setFld f v).free = d.free := (rfl)

/-! ### Dev.modPac -/

@[simp] theorem Dev.modPac_regs (g : Pacer → Pacer) : (d.modPac g).regs = d.regs := (rfl)
@[simp] theorem Dev.modPac_latch (g : Pacer → Pacer) : (d.modPac g).latch = d.latch := (rfl)
@[simp] theorem Dev.modPac_mem (g : Pacer → Pacer) : (d.modPac g).mem = d.mem := (rfl)
@[simp] theorem Dev.modPac_marks (g : Pacer → Pacer) : (d.modPac g).marks = d.marks := (rfl)
@[simp] theorem Dev.modPac_fab (g : Pacer → Pacer) : (d.modPac g).fab = d.fab := (rfl)
@[simp] theorem Dev.modPac_flds (g : Pacer → Pacer) : (d.modPac g).flds = d.flds := (rfl)
@[simp] theorem Dev.modPac_effDelay (g : Pacer → Pacer) : (d.modPac g).effDelay = d.effDelay := (rfl)
@[simp] theorem Dev.modPac_effMargin (g : Pacer → Pacer) : (d.modPac g).effMargin = d.effMargin := (rfl)
@[simp] theorem Dev.modPac_trimDue (g : Pacer → Pacer) : (d.modPac g).trimDue = d.trimDue := (rfl)
@[simp] theorem Dev.modPac_sio (g : Pacer → Pacer) : (d.modPac g).sio = d.sio := (rfl)
@[simp] theorem Dev.modPac_binOut (g : Pacer → Pacer) : (d.modPac g).binOut = d.binOut := (rfl)
@[simp] theorem Dev.modPac_binCtl (g : Pacer → Pacer) : (d.modPac g).binCtl = d.binCtl := (rfl)
@[simp] theorem Dev.modPac_tiles (g : Pacer → Pacer) : (d.modPac g).tiles = d.tiles := (rfl)
@[simp] theorem Dev.modPac_ports (g : Pacer → Pacer) : (d.modPac g).ports = d.ports := (rfl)
@[simp] theorem Dev.modPac_latentWrites (g : Pacer → Pacer) : (d.modPac g).latentWrites = d.latentWrites := (rfl)
@[simp] theorem Dev.modPac_bacts (g : Pacer → Pacer) : (d.modPac g).bacts = d.bacts := (rfl)
@[simp] theorem Dev.modPac_noc (g : Pacer → Pacer) : (d.modPac g).noc = d.noc := (rfl)
@[simp] theorem Dev.modPac_rc (g : Pacer → Pacer) : (d.modPac g).rc = d.rc := (rfl)
@[simp] theorem Dev.modPac_lat (g : Pacer → Pacer) : (d.modPac g).lat = d.lat := (rfl)
@[simp] theorem Dev.modPac_bud (g : Pacer → Pacer) : (d.modPac g).bud = d.bud := (rfl)
@[simp] theorem Dev.modPac_stk (g : Pacer → Pacer) : (d.modPac g).stk = d.stk := (rfl)
@[simp] theorem Dev.modPac_msec (g : Pacer → Pacer) : (d.modPac g).msec = d.msec := (rfl)
@[simp] theorem Dev.modPac_errs (g : Pacer → Pacer) : (d.modPac g).errs = d.errs := (rfl)
@[simp] theorem Dev.modPac_log (g : Pacer → Pacer) : (d.modPac g).log = d.log := (rfl)
@[simp] theorem Dev.modPac_errIrq (g : Pacer → Pacer) : (d.modPac g).errIrq = d.errIrq := (rfl)
@[simp] theorem Dev.modPac_scrub (g : Pacer → Pacer) : (d.modPac g).scrub = d.scrub := (rfl)
@[simp] theorem Dev.modPac_sec (g : Pacer → Pacer) : (d.modPac g).sec = d.sec := (rfl)
@[simp] theorem Dev.modPac_pwr (g : Pacer → Pacer) : (d.modPac g).pwr = d.pwr := (rfl)
@[simp] theorem Dev.modPac_lanes (g : Pacer → Pacer) : (d.modPac g).lanes = d.lanes := (rfl)
@[simp] theorem Dev.modPac_links (g : Pacer → Pacer) : (d.modPac g).links = d.links := (rfl)
@[simp] theorem Dev.modPac_ctxs (g : Pacer → Pacer) : (d.modPac g).ctxs = d.ctxs := (rfl)
@[simp] theorem Dev.modPac_slots (g : Pacer → Pacer) : (d.modPac g).slots = d.slots := (rfl)
@[simp] theorem Dev.modPac_chan (g : Pacer → Pacer) : (d.modPac g).chan = d.chan := (rfl)
@[simp] theorem Dev.modPac_cluster (g : Pacer → Pacer) : (d.modPac g).cluster = d.cluster := (rfl)
@[simp] theorem Dev.modPac_cfg (g : Pacer → Pacer) : (d.modPac g).cfg = d.cfg := (rfl)
@[simp] theorem Dev.modPac_boot (g : Pacer → Pacer) : (d.modPac g).boot = d.boot := (rfl)
@[simp] theorem Dev.modPac_mbs (g : Pacer → Pacer) : (d.modPac g).mbs = d.mbs := (rfl)
@[simp] theorem Dev.modPac_host (g : Pacer → Pacer) : (d.modPac g).host = d.host := (rfl)
@[simp] theorem Dev.modPac_fw (g : Pacer → Pacer) : (d.modPac g).fw = d.fw := (rfl)
@[simp] theorem Dev.modPac_dbg (g : Pacer → Pacer) : (d.modPac g).dbg = d.dbg := (rfl)
@[simp] theorem Dev.modPac_cores (g : Pacer → Pacer) : (d.modPac g).cores = d.cores := (rfl)
@[simp] theorem Dev.modPac_trace (g : Pacer → Pacer) : (d.modPac g).trace = d.trace := (rfl)
@[simp] theorem Dev.modPac_free (g : Pacer → Pacer) : (d.modPac g).free = d.free := (rfl)

/-! ### Dev.modFab -/

@[simp] theorem Dev.modFab_regs (g : Fabric → Fabric) : (d.modFab g).regs = d.regs := (rfl)
@[simp] theorem Dev.modFab_latch (g : Fabric → Fabric) : (d.modFab g).latch = d.latch := (rfl)
@[simp] theorem Dev.modFab_mem (g : Fabric → Fabric) : (d.modFab g).mem = d.mem := (rfl)
@[simp] theorem Dev.modFab_marks (g : Fabric → Fabric) : (d.modFab g).marks = d.marks := (rfl)
@[simp] theorem Dev.modFab_flds (g : Fabric → Fabric) : (d.modFab g).flds = d.flds := (rfl)
@[simp] theorem Dev.modFab_effDelay (g : Fabric → Fabric) : (d.modFab g).effDelay = d.effDelay := (rfl)
@[simp] theorem Dev.modFab_effMargin (g : Fabric → Fabric) : (d.modFab g).effMargin = d.effMargin := (rfl)
@[simp] theorem Dev.modFab_trimDue (g : Fabric → Fabric) : (d.modFab g).trimDue = d.trimDue := (rfl)
@[simp] theorem Dev.modFab_pac (g : Fabric → Fabric) : (d.modFab g).pac = d.pac := (rfl)
@[simp] theorem Dev.modFab_sio (g : Fabric → Fabric) : (d.modFab g).sio = d.sio := (rfl)
@[simp] theorem Dev.modFab_binOut (g : Fabric → Fabric) : (d.modFab g).binOut = d.binOut := (rfl)
@[simp] theorem Dev.modFab_binCtl (g : Fabric → Fabric) : (d.modFab g).binCtl = d.binCtl := (rfl)
@[simp] theorem Dev.modFab_tiles (g : Fabric → Fabric) : (d.modFab g).tiles = d.tiles := (rfl)
@[simp] theorem Dev.modFab_ports (g : Fabric → Fabric) : (d.modFab g).ports = d.ports := (rfl)
@[simp] theorem Dev.modFab_latentWrites (g : Fabric → Fabric) : (d.modFab g).latentWrites = d.latentWrites := (rfl)
@[simp] theorem Dev.modFab_bacts (g : Fabric → Fabric) : (d.modFab g).bacts = d.bacts := (rfl)
@[simp] theorem Dev.modFab_noc (g : Fabric → Fabric) : (d.modFab g).noc = d.noc := (rfl)
@[simp] theorem Dev.modFab_rc (g : Fabric → Fabric) : (d.modFab g).rc = d.rc := (rfl)
@[simp] theorem Dev.modFab_lat (g : Fabric → Fabric) : (d.modFab g).lat = d.lat := (rfl)
@[simp] theorem Dev.modFab_bud (g : Fabric → Fabric) : (d.modFab g).bud = d.bud := (rfl)
@[simp] theorem Dev.modFab_stk (g : Fabric → Fabric) : (d.modFab g).stk = d.stk := (rfl)
@[simp] theorem Dev.modFab_msec (g : Fabric → Fabric) : (d.modFab g).msec = d.msec := (rfl)
@[simp] theorem Dev.modFab_errs (g : Fabric → Fabric) : (d.modFab g).errs = d.errs := (rfl)
@[simp] theorem Dev.modFab_log (g : Fabric → Fabric) : (d.modFab g).log = d.log := (rfl)
@[simp] theorem Dev.modFab_errIrq (g : Fabric → Fabric) : (d.modFab g).errIrq = d.errIrq := (rfl)
@[simp] theorem Dev.modFab_scrub (g : Fabric → Fabric) : (d.modFab g).scrub = d.scrub := (rfl)
@[simp] theorem Dev.modFab_sec (g : Fabric → Fabric) : (d.modFab g).sec = d.sec := (rfl)
@[simp] theorem Dev.modFab_pwr (g : Fabric → Fabric) : (d.modFab g).pwr = d.pwr := (rfl)
@[simp] theorem Dev.modFab_lanes (g : Fabric → Fabric) : (d.modFab g).lanes = d.lanes := (rfl)
@[simp] theorem Dev.modFab_links (g : Fabric → Fabric) : (d.modFab g).links = d.links := (rfl)
@[simp] theorem Dev.modFab_ctxs (g : Fabric → Fabric) : (d.modFab g).ctxs = d.ctxs := (rfl)
@[simp] theorem Dev.modFab_slots (g : Fabric → Fabric) : (d.modFab g).slots = d.slots := (rfl)
@[simp] theorem Dev.modFab_chan (g : Fabric → Fabric) : (d.modFab g).chan = d.chan := (rfl)
@[simp] theorem Dev.modFab_cluster (g : Fabric → Fabric) : (d.modFab g).cluster = d.cluster := (rfl)
@[simp] theorem Dev.modFab_cfg (g : Fabric → Fabric) : (d.modFab g).cfg = d.cfg := (rfl)
@[simp] theorem Dev.modFab_boot (g : Fabric → Fabric) : (d.modFab g).boot = d.boot := (rfl)
@[simp] theorem Dev.modFab_mbs (g : Fabric → Fabric) : (d.modFab g).mbs = d.mbs := (rfl)
@[simp] theorem Dev.modFab_host (g : Fabric → Fabric) : (d.modFab g).host = d.host := (rfl)
@[simp] theorem Dev.modFab_fw (g : Fabric → Fabric) : (d.modFab g).fw = d.fw := (rfl)
@[simp] theorem Dev.modFab_dbg (g : Fabric → Fabric) : (d.modFab g).dbg = d.dbg := (rfl)
@[simp] theorem Dev.modFab_cores (g : Fabric → Fabric) : (d.modFab g).cores = d.cores := (rfl)
@[simp] theorem Dev.modFab_trace (g : Fabric → Fabric) : (d.modFab g).trace = d.trace := (rfl)
@[simp] theorem Dev.modFab_free (g : Fabric → Fabric) : (d.modFab g).free = d.free := (rfl)

/-! ### Dev.setMark -/

@[simp] theorem Dev.setMark_regs (a : Nat) (m : Mark) : (d.setMark a m).regs = d.regs := (rfl)
@[simp] theorem Dev.setMark_latch (a : Nat) (m : Mark) : (d.setMark a m).latch = d.latch := (rfl)
@[simp] theorem Dev.setMark_mem (a : Nat) (m : Mark) : (d.setMark a m).mem = d.mem := (rfl)
@[simp] theorem Dev.setMark_fab (a : Nat) (m : Mark) : (d.setMark a m).fab = d.fab := (rfl)
@[simp] theorem Dev.setMark_flds (a : Nat) (m : Mark) : (d.setMark a m).flds = d.flds := (rfl)
@[simp] theorem Dev.setMark_effDelay (a : Nat) (m : Mark) : (d.setMark a m).effDelay = d.effDelay := (rfl)
@[simp] theorem Dev.setMark_effMargin (a : Nat) (m : Mark) : (d.setMark a m).effMargin = d.effMargin := (rfl)
@[simp] theorem Dev.setMark_trimDue (a : Nat) (m : Mark) : (d.setMark a m).trimDue = d.trimDue := (rfl)
@[simp] theorem Dev.setMark_pac (a : Nat) (m : Mark) : (d.setMark a m).pac = d.pac := (rfl)
@[simp] theorem Dev.setMark_sio (a : Nat) (m : Mark) : (d.setMark a m).sio = d.sio := (rfl)
@[simp] theorem Dev.setMark_binOut (a : Nat) (m : Mark) : (d.setMark a m).binOut = d.binOut := (rfl)
@[simp] theorem Dev.setMark_binCtl (a : Nat) (m : Mark) : (d.setMark a m).binCtl = d.binCtl := (rfl)
@[simp] theorem Dev.setMark_tiles (a : Nat) (m : Mark) : (d.setMark a m).tiles = d.tiles := (rfl)
@[simp] theorem Dev.setMark_ports (a : Nat) (m : Mark) : (d.setMark a m).ports = d.ports := (rfl)
@[simp] theorem Dev.setMark_latentWrites (a : Nat) (m : Mark) : (d.setMark a m).latentWrites = d.latentWrites := (rfl)
@[simp] theorem Dev.setMark_bacts (a : Nat) (m : Mark) : (d.setMark a m).bacts = d.bacts := (rfl)
@[simp] theorem Dev.setMark_noc (a : Nat) (m : Mark) : (d.setMark a m).noc = d.noc := (rfl)
@[simp] theorem Dev.setMark_rc (a : Nat) (m : Mark) : (d.setMark a m).rc = d.rc := (rfl)
@[simp] theorem Dev.setMark_lat (a : Nat) (m : Mark) : (d.setMark a m).lat = d.lat := (rfl)
@[simp] theorem Dev.setMark_bud (a : Nat) (m : Mark) : (d.setMark a m).bud = d.bud := (rfl)
@[simp] theorem Dev.setMark_stk (a : Nat) (m : Mark) : (d.setMark a m).stk = d.stk := (rfl)
@[simp] theorem Dev.setMark_msec (a : Nat) (m : Mark) : (d.setMark a m).msec = d.msec := (rfl)
@[simp] theorem Dev.setMark_errs (a : Nat) (m : Mark) : (d.setMark a m).errs = d.errs := (rfl)
@[simp] theorem Dev.setMark_log (a : Nat) (m : Mark) : (d.setMark a m).log = d.log := (rfl)
@[simp] theorem Dev.setMark_errIrq (a : Nat) (m : Mark) : (d.setMark a m).errIrq = d.errIrq := (rfl)
@[simp] theorem Dev.setMark_scrub (a : Nat) (m : Mark) : (d.setMark a m).scrub = d.scrub := (rfl)
@[simp] theorem Dev.setMark_sec (a : Nat) (m : Mark) : (d.setMark a m).sec = d.sec := (rfl)
@[simp] theorem Dev.setMark_pwr (a : Nat) (m : Mark) : (d.setMark a m).pwr = d.pwr := (rfl)
@[simp] theorem Dev.setMark_lanes (a : Nat) (m : Mark) : (d.setMark a m).lanes = d.lanes := (rfl)
@[simp] theorem Dev.setMark_links (a : Nat) (m : Mark) : (d.setMark a m).links = d.links := (rfl)
@[simp] theorem Dev.setMark_ctxs (a : Nat) (m : Mark) : (d.setMark a m).ctxs = d.ctxs := (rfl)
@[simp] theorem Dev.setMark_slots (a : Nat) (m : Mark) : (d.setMark a m).slots = d.slots := (rfl)
@[simp] theorem Dev.setMark_chan (a : Nat) (m : Mark) : (d.setMark a m).chan = d.chan := (rfl)
@[simp] theorem Dev.setMark_cluster (a : Nat) (m : Mark) : (d.setMark a m).cluster = d.cluster := (rfl)
@[simp] theorem Dev.setMark_cfg (a : Nat) (m : Mark) : (d.setMark a m).cfg = d.cfg := (rfl)
@[simp] theorem Dev.setMark_boot (a : Nat) (m : Mark) : (d.setMark a m).boot = d.boot := (rfl)
@[simp] theorem Dev.setMark_mbs (a : Nat) (m : Mark) : (d.setMark a m).mbs = d.mbs := (rfl)
@[simp] theorem Dev.setMark_host (a : Nat) (m : Mark) : (d.setMark a m).host = d.host := (rfl)
@[simp] theorem Dev.setMark_fw (a : Nat) (m : Mark) : (d.setMark a m).fw = d.fw := (rfl)
@[simp] theorem Dev.setMark_dbg (a : Nat) (m : Mark) : (d.setMark a m).dbg = d.dbg := (rfl)
@[simp] theorem Dev.setMark_cores (a : Nat) (m : Mark) : (d.setMark a m).cores = d.cores := (rfl)
@[simp] theorem Dev.setMark_trace (a : Nat) (m : Mark) : (d.setMark a m).trace = d.trace := (rfl)
@[simp] theorem Dev.setMark_free (a : Nat) (m : Mark) : (d.setMark a m).free = d.free := (rfl)

/-! ### Dev.report -/

@[simp] theorem Dev.report_regs (r : ErrRec) : (d.report r).regs = d.regs := (rfl)
@[simp] theorem Dev.report_latch (r : ErrRec) : (d.report r).latch = d.latch := (rfl)
@[simp] theorem Dev.report_mem (r : ErrRec) : (d.report r).mem = d.mem := (rfl)
@[simp] theorem Dev.report_marks (r : ErrRec) : (d.report r).marks = d.marks := (rfl)
@[simp] theorem Dev.report_fab (r : ErrRec) : (d.report r).fab = d.fab := (rfl)
@[simp] theorem Dev.report_flds (r : ErrRec) : (d.report r).flds = d.flds := (rfl)
@[simp] theorem Dev.report_effDelay (r : ErrRec) : (d.report r).effDelay = d.effDelay := (rfl)
@[simp] theorem Dev.report_effMargin (r : ErrRec) : (d.report r).effMargin = d.effMargin := (rfl)
@[simp] theorem Dev.report_trimDue (r : ErrRec) : (d.report r).trimDue = d.trimDue := (rfl)
@[simp] theorem Dev.report_pac (r : ErrRec) : (d.report r).pac = d.pac := (rfl)
@[simp] theorem Dev.report_sio (r : ErrRec) : (d.report r).sio = d.sio := (rfl)
@[simp] theorem Dev.report_binOut (r : ErrRec) : (d.report r).binOut = d.binOut := (rfl)
@[simp] theorem Dev.report_binCtl (r : ErrRec) : (d.report r).binCtl = d.binCtl := (rfl)
@[simp] theorem Dev.report_tiles (r : ErrRec) : (d.report r).tiles = d.tiles := (rfl)
@[simp] theorem Dev.report_ports (r : ErrRec) : (d.report r).ports = d.ports := (rfl)
@[simp] theorem Dev.report_latentWrites (r : ErrRec) : (d.report r).latentWrites = d.latentWrites := (rfl)
@[simp] theorem Dev.report_bacts (r : ErrRec) : (d.report r).bacts = d.bacts := (rfl)
@[simp] theorem Dev.report_noc (r : ErrRec) : (d.report r).noc = d.noc := (rfl)
@[simp] theorem Dev.report_rc (r : ErrRec) : (d.report r).rc = d.rc := (rfl)
@[simp] theorem Dev.report_lat (r : ErrRec) : (d.report r).lat = d.lat := (rfl)
@[simp] theorem Dev.report_bud (r : ErrRec) : (d.report r).bud = d.bud := (rfl)
@[simp] theorem Dev.report_stk (r : ErrRec) : (d.report r).stk = d.stk := (rfl)
@[simp] theorem Dev.report_msec (r : ErrRec) : (d.report r).msec = d.msec := (rfl)
@[simp] theorem Dev.report_log (r : ErrRec) : (d.report r).log = d.log := (rfl)
@[simp] theorem Dev.report_scrub (r : ErrRec) : (d.report r).scrub = d.scrub := (rfl)
@[simp] theorem Dev.report_sec (r : ErrRec) : (d.report r).sec = d.sec := (rfl)
@[simp] theorem Dev.report_pwr (r : ErrRec) : (d.report r).pwr = d.pwr := (rfl)
@[simp] theorem Dev.report_lanes (r : ErrRec) : (d.report r).lanes = d.lanes := (rfl)
@[simp] theorem Dev.report_links (r : ErrRec) : (d.report r).links = d.links := (rfl)
@[simp] theorem Dev.report_ctxs (r : ErrRec) : (d.report r).ctxs = d.ctxs := (rfl)
@[simp] theorem Dev.report_slots (r : ErrRec) : (d.report r).slots = d.slots := (rfl)
@[simp] theorem Dev.report_chan (r : ErrRec) : (d.report r).chan = d.chan := (rfl)
@[simp] theorem Dev.report_cluster (r : ErrRec) : (d.report r).cluster = d.cluster := (rfl)
@[simp] theorem Dev.report_cfg (r : ErrRec) : (d.report r).cfg = d.cfg := (rfl)
@[simp] theorem Dev.report_boot (r : ErrRec) : (d.report r).boot = d.boot := (rfl)
@[simp] theorem Dev.report_mbs (r : ErrRec) : (d.report r).mbs = d.mbs := (rfl)
@[simp] theorem Dev.report_host (r : ErrRec) : (d.report r).host = d.host := (rfl)
@[simp] theorem Dev.report_fw (r : ErrRec) : (d.report r).fw = d.fw := (rfl)
@[simp] theorem Dev.report_dbg (r : ErrRec) : (d.report r).dbg = d.dbg := (rfl)
@[simp] theorem Dev.report_cores (r : ErrRec) : (d.report r).cores = d.cores := (rfl)
@[simp] theorem Dev.report_trace (r : ErrRec) : (d.report r).trace = d.trace := (rfl)
@[simp] theorem Dev.report_free (r : ErrRec) : (d.report r).free = d.free := (rfl)

/-! ### Dev.err -/

@[simp] theorem Dev.err_regs (die unit sev cls : Nat) : (d.err die unit sev cls).regs = d.regs := (rfl)
@[simp] theorem Dev.err_latch (die unit sev cls : Nat) : (d.err die unit sev cls).latch = d.latch := (rfl)
@[simp] theorem Dev.err_mem (die unit sev cls : Nat) : (d.err die unit sev cls).mem = d.mem := (rfl)
@[simp] theorem Dev.err_marks (die unit sev cls : Nat) : (d.err die unit sev cls).marks = d.marks := (rfl)
@[simp] theorem Dev.err_fab (die unit sev cls : Nat) : (d.err die unit sev cls).fab = d.fab := (rfl)
@[simp] theorem Dev.err_flds (die unit sev cls : Nat) : (d.err die unit sev cls).flds = d.flds := (rfl)
@[simp] theorem Dev.err_effDelay (die unit sev cls : Nat) : (d.err die unit sev cls).effDelay = d.effDelay := (rfl)
@[simp] theorem Dev.err_effMargin (die unit sev cls : Nat) : (d.err die unit sev cls).effMargin = d.effMargin := (rfl)
@[simp] theorem Dev.err_trimDue (die unit sev cls : Nat) : (d.err die unit sev cls).trimDue = d.trimDue := (rfl)
@[simp] theorem Dev.err_pac (die unit sev cls : Nat) : (d.err die unit sev cls).pac = d.pac := (rfl)
@[simp] theorem Dev.err_sio (die unit sev cls : Nat) : (d.err die unit sev cls).sio = d.sio := (rfl)
@[simp] theorem Dev.err_binOut (die unit sev cls : Nat) : (d.err die unit sev cls).binOut = d.binOut := (rfl)
@[simp] theorem Dev.err_binCtl (die unit sev cls : Nat) : (d.err die unit sev cls).binCtl = d.binCtl := (rfl)
@[simp] theorem Dev.err_tiles (die unit sev cls : Nat) : (d.err die unit sev cls).tiles = d.tiles := (rfl)
@[simp] theorem Dev.err_ports (die unit sev cls : Nat) : (d.err die unit sev cls).ports = d.ports := (rfl)
@[simp] theorem Dev.err_latentWrites (die unit sev cls : Nat) : (d.err die unit sev cls).latentWrites = d.latentWrites := (rfl)
@[simp] theorem Dev.err_bacts (die unit sev cls : Nat) : (d.err die unit sev cls).bacts = d.bacts := (rfl)
@[simp] theorem Dev.err_noc (die unit sev cls : Nat) : (d.err die unit sev cls).noc = d.noc := (rfl)
@[simp] theorem Dev.err_rc (die unit sev cls : Nat) : (d.err die unit sev cls).rc = d.rc := (rfl)
@[simp] theorem Dev.err_lat (die unit sev cls : Nat) : (d.err die unit sev cls).lat = d.lat := (rfl)
@[simp] theorem Dev.err_bud (die unit sev cls : Nat) : (d.err die unit sev cls).bud = d.bud := (rfl)
@[simp] theorem Dev.err_stk (die unit sev cls : Nat) : (d.err die unit sev cls).stk = d.stk := (rfl)
@[simp] theorem Dev.err_msec (die unit sev cls : Nat) : (d.err die unit sev cls).msec = d.msec := (rfl)
@[simp] theorem Dev.err_log (die unit sev cls : Nat) : (d.err die unit sev cls).log = d.log := (rfl)
@[simp] theorem Dev.err_scrub (die unit sev cls : Nat) : (d.err die unit sev cls).scrub = d.scrub := (rfl)
@[simp] theorem Dev.err_sec (die unit sev cls : Nat) : (d.err die unit sev cls).sec = d.sec := (rfl)
@[simp] theorem Dev.err_pwr (die unit sev cls : Nat) : (d.err die unit sev cls).pwr = d.pwr := (rfl)
@[simp] theorem Dev.err_lanes (die unit sev cls : Nat) : (d.err die unit sev cls).lanes = d.lanes := (rfl)
@[simp] theorem Dev.err_links (die unit sev cls : Nat) : (d.err die unit sev cls).links = d.links := (rfl)
@[simp] theorem Dev.err_ctxs (die unit sev cls : Nat) : (d.err die unit sev cls).ctxs = d.ctxs := (rfl)
@[simp] theorem Dev.err_slots (die unit sev cls : Nat) : (d.err die unit sev cls).slots = d.slots := (rfl)
@[simp] theorem Dev.err_chan (die unit sev cls : Nat) : (d.err die unit sev cls).chan = d.chan := (rfl)
@[simp] theorem Dev.err_cluster (die unit sev cls : Nat) : (d.err die unit sev cls).cluster = d.cluster := (rfl)
@[simp] theorem Dev.err_cfg (die unit sev cls : Nat) : (d.err die unit sev cls).cfg = d.cfg := (rfl)
@[simp] theorem Dev.err_boot (die unit sev cls : Nat) : (d.err die unit sev cls).boot = d.boot := (rfl)
@[simp] theorem Dev.err_mbs (die unit sev cls : Nat) : (d.err die unit sev cls).mbs = d.mbs := (rfl)
@[simp] theorem Dev.err_host (die unit sev cls : Nat) : (d.err die unit sev cls).host = d.host := (rfl)
@[simp] theorem Dev.err_fw (die unit sev cls : Nat) : (d.err die unit sev cls).fw = d.fw := (rfl)
@[simp] theorem Dev.err_dbg (die unit sev cls : Nat) : (d.err die unit sev cls).dbg = d.dbg := (rfl)
@[simp] theorem Dev.err_cores (die unit sev cls : Nat) : (d.err die unit sev cls).cores = d.cores := (rfl)
@[simp] theorem Dev.err_trace (die unit sev cls : Nat) : (d.err die unit sev cls).trace = d.trace := (rfl)
@[simp] theorem Dev.err_free (die unit sev cls : Nat) : (d.err die unit sev cls).free = d.free := (rfl)

/-! ### Dev.setTile -/

@[simp] theorem Dev.setTile_regs (f t : Nat) (v : Tile) : (d.setTile f t v).regs = d.regs := (rfl)
@[simp] theorem Dev.setTile_latch (f t : Nat) (v : Tile) : (d.setTile f t v).latch = d.latch := (rfl)
@[simp] theorem Dev.setTile_mem (f t : Nat) (v : Tile) : (d.setTile f t v).mem = d.mem := (rfl)
@[simp] theorem Dev.setTile_marks (f t : Nat) (v : Tile) : (d.setTile f t v).marks = d.marks := (rfl)
@[simp] theorem Dev.setTile_fab (f t : Nat) (v : Tile) : (d.setTile f t v).fab = d.fab := (rfl)
@[simp] theorem Dev.setTile_flds (f t : Nat) (v : Tile) : (d.setTile f t v).flds = d.flds := (rfl)
@[simp] theorem Dev.setTile_effDelay (f t : Nat) (v : Tile) : (d.setTile f t v).effDelay = d.effDelay := (rfl)
@[simp] theorem Dev.setTile_effMargin (f t : Nat) (v : Tile) : (d.setTile f t v).effMargin = d.effMargin := (rfl)
@[simp] theorem Dev.setTile_trimDue (f t : Nat) (v : Tile) : (d.setTile f t v).trimDue = d.trimDue := (rfl)
@[simp] theorem Dev.setTile_pac (f t : Nat) (v : Tile) : (d.setTile f t v).pac = d.pac := (rfl)
@[simp] theorem Dev.setTile_sio (f t : Nat) (v : Tile) : (d.setTile f t v).sio = d.sio := (rfl)
@[simp] theorem Dev.setTile_binOut (f t : Nat) (v : Tile) : (d.setTile f t v).binOut = d.binOut := (rfl)
@[simp] theorem Dev.setTile_binCtl (f t : Nat) (v : Tile) : (d.setTile f t v).binCtl = d.binCtl := (rfl)
@[simp] theorem Dev.setTile_ports (f t : Nat) (v : Tile) : (d.setTile f t v).ports = d.ports := (rfl)
@[simp] theorem Dev.setTile_latentWrites (f t : Nat) (v : Tile) : (d.setTile f t v).latentWrites = d.latentWrites := (rfl)
@[simp] theorem Dev.setTile_bacts (f t : Nat) (v : Tile) : (d.setTile f t v).bacts = d.bacts := (rfl)
@[simp] theorem Dev.setTile_noc (f t : Nat) (v : Tile) : (d.setTile f t v).noc = d.noc := (rfl)
@[simp] theorem Dev.setTile_rc (f t : Nat) (v : Tile) : (d.setTile f t v).rc = d.rc := (rfl)
@[simp] theorem Dev.setTile_lat (f t : Nat) (v : Tile) : (d.setTile f t v).lat = d.lat := (rfl)
@[simp] theorem Dev.setTile_bud (f t : Nat) (v : Tile) : (d.setTile f t v).bud = d.bud := (rfl)
@[simp] theorem Dev.setTile_stk (f t : Nat) (v : Tile) : (d.setTile f t v).stk = d.stk := (rfl)
@[simp] theorem Dev.setTile_msec (f t : Nat) (v : Tile) : (d.setTile f t v).msec = d.msec := (rfl)
@[simp] theorem Dev.setTile_errs (f t : Nat) (v : Tile) : (d.setTile f t v).errs = d.errs := (rfl)
@[simp] theorem Dev.setTile_log (f t : Nat) (v : Tile) : (d.setTile f t v).log = d.log := (rfl)
@[simp] theorem Dev.setTile_errIrq (f t : Nat) (v : Tile) : (d.setTile f t v).errIrq = d.errIrq := (rfl)
@[simp] theorem Dev.setTile_scrub (f t : Nat) (v : Tile) : (d.setTile f t v).scrub = d.scrub := (rfl)
@[simp] theorem Dev.setTile_sec (f t : Nat) (v : Tile) : (d.setTile f t v).sec = d.sec := (rfl)
@[simp] theorem Dev.setTile_pwr (f t : Nat) (v : Tile) : (d.setTile f t v).pwr = d.pwr := (rfl)
@[simp] theorem Dev.setTile_lanes (f t : Nat) (v : Tile) : (d.setTile f t v).lanes = d.lanes := (rfl)
@[simp] theorem Dev.setTile_links (f t : Nat) (v : Tile) : (d.setTile f t v).links = d.links := (rfl)
@[simp] theorem Dev.setTile_ctxs (f t : Nat) (v : Tile) : (d.setTile f t v).ctxs = d.ctxs := (rfl)
@[simp] theorem Dev.setTile_slots (f t : Nat) (v : Tile) : (d.setTile f t v).slots = d.slots := (rfl)
@[simp] theorem Dev.setTile_chan (f t : Nat) (v : Tile) : (d.setTile f t v).chan = d.chan := (rfl)
@[simp] theorem Dev.setTile_cluster (f t : Nat) (v : Tile) : (d.setTile f t v).cluster = d.cluster := (rfl)
@[simp] theorem Dev.setTile_cfg (f t : Nat) (v : Tile) : (d.setTile f t v).cfg = d.cfg := (rfl)
@[simp] theorem Dev.setTile_boot (f t : Nat) (v : Tile) : (d.setTile f t v).boot = d.boot := (rfl)
@[simp] theorem Dev.setTile_mbs (f t : Nat) (v : Tile) : (d.setTile f t v).mbs = d.mbs := (rfl)
@[simp] theorem Dev.setTile_host (f t : Nat) (v : Tile) : (d.setTile f t v).host = d.host := (rfl)
@[simp] theorem Dev.setTile_fw (f t : Nat) (v : Tile) : (d.setTile f t v).fw = d.fw := (rfl)
@[simp] theorem Dev.setTile_dbg (f t : Nat) (v : Tile) : (d.setTile f t v).dbg = d.dbg := (rfl)
@[simp] theorem Dev.setTile_cores (f t : Nat) (v : Tile) : (d.setTile f t v).cores = d.cores := (rfl)
@[simp] theorem Dev.setTile_trace (f t : Nat) (v : Tile) : (d.setTile f t v).trace = d.trace := (rfl)
@[simp] theorem Dev.setTile_free (f t : Nat) (v : Tile) : (d.setTile f t v).free = d.free := (rfl)

/-! ### Dev.setStack -/

@[simp] theorem Dev.setStack_regs (m : Nat) (v : Stack) : (d.setStack m v).regs = d.regs := (rfl)
@[simp] theorem Dev.setStack_latch (m : Nat) (v : Stack) : (d.setStack m v).latch = d.latch := (rfl)
@[simp] theorem Dev.setStack_mem (m : Nat) (v : Stack) : (d.setStack m v).mem = d.mem := (rfl)
@[simp] theorem Dev.setStack_marks (m : Nat) (v : Stack) : (d.setStack m v).marks = d.marks := (rfl)
@[simp] theorem Dev.setStack_fab (m : Nat) (v : Stack) : (d.setStack m v).fab = d.fab := (rfl)
@[simp] theorem Dev.setStack_flds (m : Nat) (v : Stack) : (d.setStack m v).flds = d.flds := (rfl)
@[simp] theorem Dev.setStack_effDelay (m : Nat) (v : Stack) : (d.setStack m v).effDelay = d.effDelay := (rfl)
@[simp] theorem Dev.setStack_effMargin (m : Nat) (v : Stack) : (d.setStack m v).effMargin = d.effMargin := (rfl)
@[simp] theorem Dev.setStack_trimDue (m : Nat) (v : Stack) : (d.setStack m v).trimDue = d.trimDue := (rfl)
@[simp] theorem Dev.setStack_pac (m : Nat) (v : Stack) : (d.setStack m v).pac = d.pac := (rfl)
@[simp] theorem Dev.setStack_sio (m : Nat) (v : Stack) : (d.setStack m v).sio = d.sio := (rfl)
@[simp] theorem Dev.setStack_binOut (m : Nat) (v : Stack) : (d.setStack m v).binOut = d.binOut := (rfl)
@[simp] theorem Dev.setStack_binCtl (m : Nat) (v : Stack) : (d.setStack m v).binCtl = d.binCtl := (rfl)
@[simp] theorem Dev.setStack_tiles (m : Nat) (v : Stack) : (d.setStack m v).tiles = d.tiles := (rfl)
@[simp] theorem Dev.setStack_ports (m : Nat) (v : Stack) : (d.setStack m v).ports = d.ports := (rfl)
@[simp] theorem Dev.setStack_latentWrites (m : Nat) (v : Stack) : (d.setStack m v).latentWrites = d.latentWrites := (rfl)
@[simp] theorem Dev.setStack_bacts (m : Nat) (v : Stack) : (d.setStack m v).bacts = d.bacts := (rfl)
@[simp] theorem Dev.setStack_noc (m : Nat) (v : Stack) : (d.setStack m v).noc = d.noc := (rfl)
@[simp] theorem Dev.setStack_rc (m : Nat) (v : Stack) : (d.setStack m v).rc = d.rc := (rfl)
@[simp] theorem Dev.setStack_lat (m : Nat) (v : Stack) : (d.setStack m v).lat = d.lat := (rfl)
@[simp] theorem Dev.setStack_bud (m : Nat) (v : Stack) : (d.setStack m v).bud = d.bud := (rfl)
@[simp] theorem Dev.setStack_msec (m : Nat) (v : Stack) : (d.setStack m v).msec = d.msec := (rfl)
@[simp] theorem Dev.setStack_errs (m : Nat) (v : Stack) : (d.setStack m v).errs = d.errs := (rfl)
@[simp] theorem Dev.setStack_log (m : Nat) (v : Stack) : (d.setStack m v).log = d.log := (rfl)
@[simp] theorem Dev.setStack_errIrq (m : Nat) (v : Stack) : (d.setStack m v).errIrq = d.errIrq := (rfl)
@[simp] theorem Dev.setStack_scrub (m : Nat) (v : Stack) : (d.setStack m v).scrub = d.scrub := (rfl)
@[simp] theorem Dev.setStack_sec (m : Nat) (v : Stack) : (d.setStack m v).sec = d.sec := (rfl)
@[simp] theorem Dev.setStack_pwr (m : Nat) (v : Stack) : (d.setStack m v).pwr = d.pwr := (rfl)
@[simp] theorem Dev.setStack_lanes (m : Nat) (v : Stack) : (d.setStack m v).lanes = d.lanes := (rfl)
@[simp] theorem Dev.setStack_links (m : Nat) (v : Stack) : (d.setStack m v).links = d.links := (rfl)
@[simp] theorem Dev.setStack_ctxs (m : Nat) (v : Stack) : (d.setStack m v).ctxs = d.ctxs := (rfl)
@[simp] theorem Dev.setStack_slots (m : Nat) (v : Stack) : (d.setStack m v).slots = d.slots := (rfl)
@[simp] theorem Dev.setStack_chan (m : Nat) (v : Stack) : (d.setStack m v).chan = d.chan := (rfl)
@[simp] theorem Dev.setStack_cluster (m : Nat) (v : Stack) : (d.setStack m v).cluster = d.cluster := (rfl)
@[simp] theorem Dev.setStack_cfg (m : Nat) (v : Stack) : (d.setStack m v).cfg = d.cfg := (rfl)
@[simp] theorem Dev.setStack_boot (m : Nat) (v : Stack) : (d.setStack m v).boot = d.boot := (rfl)
@[simp] theorem Dev.setStack_mbs (m : Nat) (v : Stack) : (d.setStack m v).mbs = d.mbs := (rfl)
@[simp] theorem Dev.setStack_host (m : Nat) (v : Stack) : (d.setStack m v).host = d.host := (rfl)
@[simp] theorem Dev.setStack_fw (m : Nat) (v : Stack) : (d.setStack m v).fw = d.fw := (rfl)
@[simp] theorem Dev.setStack_dbg (m : Nat) (v : Stack) : (d.setStack m v).dbg = d.dbg := (rfl)
@[simp] theorem Dev.setStack_cores (m : Nat) (v : Stack) : (d.setStack m v).cores = d.cores := (rfl)
@[simp] theorem Dev.setStack_trace (m : Nat) (v : Stack) : (d.setStack m v).trace = d.trace := (rfl)
@[simp] theorem Dev.setStack_free (m : Nat) (v : Stack) : (d.setStack m v).free = d.free := (rfl)

/-! ### Dev.setLane -/

@[simp] theorem Dev.setLane_regs (n : Nat) (v : Lane) : (d.setLane n v).regs = d.regs := (rfl)
@[simp] theorem Dev.setLane_latch (n : Nat) (v : Lane) : (d.setLane n v).latch = d.latch := (rfl)
@[simp] theorem Dev.setLane_mem (n : Nat) (v : Lane) : (d.setLane n v).mem = d.mem := (rfl)
@[simp] theorem Dev.setLane_marks (n : Nat) (v : Lane) : (d.setLane n v).marks = d.marks := (rfl)
@[simp] theorem Dev.setLane_fab (n : Nat) (v : Lane) : (d.setLane n v).fab = d.fab := (rfl)
@[simp] theorem Dev.setLane_flds (n : Nat) (v : Lane) : (d.setLane n v).flds = d.flds := (rfl)
@[simp] theorem Dev.setLane_effDelay (n : Nat) (v : Lane) : (d.setLane n v).effDelay = d.effDelay := (rfl)
@[simp] theorem Dev.setLane_effMargin (n : Nat) (v : Lane) : (d.setLane n v).effMargin = d.effMargin := (rfl)
@[simp] theorem Dev.setLane_trimDue (n : Nat) (v : Lane) : (d.setLane n v).trimDue = d.trimDue := (rfl)
@[simp] theorem Dev.setLane_pac (n : Nat) (v : Lane) : (d.setLane n v).pac = d.pac := (rfl)
@[simp] theorem Dev.setLane_sio (n : Nat) (v : Lane) : (d.setLane n v).sio = d.sio := (rfl)
@[simp] theorem Dev.setLane_binOut (n : Nat) (v : Lane) : (d.setLane n v).binOut = d.binOut := (rfl)
@[simp] theorem Dev.setLane_binCtl (n : Nat) (v : Lane) : (d.setLane n v).binCtl = d.binCtl := (rfl)
@[simp] theorem Dev.setLane_tiles (n : Nat) (v : Lane) : (d.setLane n v).tiles = d.tiles := (rfl)
@[simp] theorem Dev.setLane_ports (n : Nat) (v : Lane) : (d.setLane n v).ports = d.ports := (rfl)
@[simp] theorem Dev.setLane_latentWrites (n : Nat) (v : Lane) : (d.setLane n v).latentWrites = d.latentWrites := (rfl)
@[simp] theorem Dev.setLane_bacts (n : Nat) (v : Lane) : (d.setLane n v).bacts = d.bacts := (rfl)
@[simp] theorem Dev.setLane_noc (n : Nat) (v : Lane) : (d.setLane n v).noc = d.noc := (rfl)
@[simp] theorem Dev.setLane_rc (n : Nat) (v : Lane) : (d.setLane n v).rc = d.rc := (rfl)
@[simp] theorem Dev.setLane_lat (n : Nat) (v : Lane) : (d.setLane n v).lat = d.lat := (rfl)
@[simp] theorem Dev.setLane_bud (n : Nat) (v : Lane) : (d.setLane n v).bud = d.bud := (rfl)
@[simp] theorem Dev.setLane_stk (n : Nat) (v : Lane) : (d.setLane n v).stk = d.stk := (rfl)
@[simp] theorem Dev.setLane_msec (n : Nat) (v : Lane) : (d.setLane n v).msec = d.msec := (rfl)
@[simp] theorem Dev.setLane_errs (n : Nat) (v : Lane) : (d.setLane n v).errs = d.errs := (rfl)
@[simp] theorem Dev.setLane_log (n : Nat) (v : Lane) : (d.setLane n v).log = d.log := (rfl)
@[simp] theorem Dev.setLane_errIrq (n : Nat) (v : Lane) : (d.setLane n v).errIrq = d.errIrq := (rfl)
@[simp] theorem Dev.setLane_scrub (n : Nat) (v : Lane) : (d.setLane n v).scrub = d.scrub := (rfl)
@[simp] theorem Dev.setLane_sec (n : Nat) (v : Lane) : (d.setLane n v).sec = d.sec := (rfl)
@[simp] theorem Dev.setLane_pwr (n : Nat) (v : Lane) : (d.setLane n v).pwr = d.pwr := (rfl)
@[simp] theorem Dev.setLane_links (n : Nat) (v : Lane) : (d.setLane n v).links = d.links := (rfl)
@[simp] theorem Dev.setLane_ctxs (n : Nat) (v : Lane) : (d.setLane n v).ctxs = d.ctxs := (rfl)
@[simp] theorem Dev.setLane_slots (n : Nat) (v : Lane) : (d.setLane n v).slots = d.slots := (rfl)
@[simp] theorem Dev.setLane_chan (n : Nat) (v : Lane) : (d.setLane n v).chan = d.chan := (rfl)
@[simp] theorem Dev.setLane_cluster (n : Nat) (v : Lane) : (d.setLane n v).cluster = d.cluster := (rfl)
@[simp] theorem Dev.setLane_cfg (n : Nat) (v : Lane) : (d.setLane n v).cfg = d.cfg := (rfl)
@[simp] theorem Dev.setLane_boot (n : Nat) (v : Lane) : (d.setLane n v).boot = d.boot := (rfl)
@[simp] theorem Dev.setLane_mbs (n : Nat) (v : Lane) : (d.setLane n v).mbs = d.mbs := (rfl)
@[simp] theorem Dev.setLane_host (n : Nat) (v : Lane) : (d.setLane n v).host = d.host := (rfl)
@[simp] theorem Dev.setLane_fw (n : Nat) (v : Lane) : (d.setLane n v).fw = d.fw := (rfl)
@[simp] theorem Dev.setLane_dbg (n : Nat) (v : Lane) : (d.setLane n v).dbg = d.dbg := (rfl)
@[simp] theorem Dev.setLane_cores (n : Nat) (v : Lane) : (d.setLane n v).cores = d.cores := (rfl)
@[simp] theorem Dev.setLane_trace (n : Nat) (v : Lane) : (d.setLane n v).trace = d.trace := (rfl)
@[simp] theorem Dev.setLane_free (n : Nat) (v : Lane) : (d.setLane n v).free = d.free := (rfl)

/-! ### Dev.setLink -/

@[simp] theorem Dev.setLink_regs (n : Nat) (v : Link) : (d.setLink n v).regs = d.regs := (rfl)
@[simp] theorem Dev.setLink_latch (n : Nat) (v : Link) : (d.setLink n v).latch = d.latch := (rfl)
@[simp] theorem Dev.setLink_mem (n : Nat) (v : Link) : (d.setLink n v).mem = d.mem := (rfl)
@[simp] theorem Dev.setLink_marks (n : Nat) (v : Link) : (d.setLink n v).marks = d.marks := (rfl)
@[simp] theorem Dev.setLink_fab (n : Nat) (v : Link) : (d.setLink n v).fab = d.fab := (rfl)
@[simp] theorem Dev.setLink_flds (n : Nat) (v : Link) : (d.setLink n v).flds = d.flds := (rfl)
@[simp] theorem Dev.setLink_effDelay (n : Nat) (v : Link) : (d.setLink n v).effDelay = d.effDelay := (rfl)
@[simp] theorem Dev.setLink_effMargin (n : Nat) (v : Link) : (d.setLink n v).effMargin = d.effMargin := (rfl)
@[simp] theorem Dev.setLink_trimDue (n : Nat) (v : Link) : (d.setLink n v).trimDue = d.trimDue := (rfl)
@[simp] theorem Dev.setLink_pac (n : Nat) (v : Link) : (d.setLink n v).pac = d.pac := (rfl)
@[simp] theorem Dev.setLink_sio (n : Nat) (v : Link) : (d.setLink n v).sio = d.sio := (rfl)
@[simp] theorem Dev.setLink_binOut (n : Nat) (v : Link) : (d.setLink n v).binOut = d.binOut := (rfl)
@[simp] theorem Dev.setLink_binCtl (n : Nat) (v : Link) : (d.setLink n v).binCtl = d.binCtl := (rfl)
@[simp] theorem Dev.setLink_tiles (n : Nat) (v : Link) : (d.setLink n v).tiles = d.tiles := (rfl)
@[simp] theorem Dev.setLink_ports (n : Nat) (v : Link) : (d.setLink n v).ports = d.ports := (rfl)
@[simp] theorem Dev.setLink_latentWrites (n : Nat) (v : Link) : (d.setLink n v).latentWrites = d.latentWrites := (rfl)
@[simp] theorem Dev.setLink_bacts (n : Nat) (v : Link) : (d.setLink n v).bacts = d.bacts := (rfl)
@[simp] theorem Dev.setLink_noc (n : Nat) (v : Link) : (d.setLink n v).noc = d.noc := (rfl)
@[simp] theorem Dev.setLink_rc (n : Nat) (v : Link) : (d.setLink n v).rc = d.rc := (rfl)
@[simp] theorem Dev.setLink_lat (n : Nat) (v : Link) : (d.setLink n v).lat = d.lat := (rfl)
@[simp] theorem Dev.setLink_bud (n : Nat) (v : Link) : (d.setLink n v).bud = d.bud := (rfl)
@[simp] theorem Dev.setLink_stk (n : Nat) (v : Link) : (d.setLink n v).stk = d.stk := (rfl)
@[simp] theorem Dev.setLink_msec (n : Nat) (v : Link) : (d.setLink n v).msec = d.msec := (rfl)
@[simp] theorem Dev.setLink_errs (n : Nat) (v : Link) : (d.setLink n v).errs = d.errs := (rfl)
@[simp] theorem Dev.setLink_log (n : Nat) (v : Link) : (d.setLink n v).log = d.log := (rfl)
@[simp] theorem Dev.setLink_errIrq (n : Nat) (v : Link) : (d.setLink n v).errIrq = d.errIrq := (rfl)
@[simp] theorem Dev.setLink_scrub (n : Nat) (v : Link) : (d.setLink n v).scrub = d.scrub := (rfl)
@[simp] theorem Dev.setLink_sec (n : Nat) (v : Link) : (d.setLink n v).sec = d.sec := (rfl)
@[simp] theorem Dev.setLink_pwr (n : Nat) (v : Link) : (d.setLink n v).pwr = d.pwr := (rfl)
@[simp] theorem Dev.setLink_lanes (n : Nat) (v : Link) : (d.setLink n v).lanes = d.lanes := (rfl)
@[simp] theorem Dev.setLink_ctxs (n : Nat) (v : Link) : (d.setLink n v).ctxs = d.ctxs := (rfl)
@[simp] theorem Dev.setLink_slots (n : Nat) (v : Link) : (d.setLink n v).slots = d.slots := (rfl)
@[simp] theorem Dev.setLink_chan (n : Nat) (v : Link) : (d.setLink n v).chan = d.chan := (rfl)
@[simp] theorem Dev.setLink_cluster (n : Nat) (v : Link) : (d.setLink n v).cluster = d.cluster := (rfl)
@[simp] theorem Dev.setLink_cfg (n : Nat) (v : Link) : (d.setLink n v).cfg = d.cfg := (rfl)
@[simp] theorem Dev.setLink_boot (n : Nat) (v : Link) : (d.setLink n v).boot = d.boot := (rfl)
@[simp] theorem Dev.setLink_mbs (n : Nat) (v : Link) : (d.setLink n v).mbs = d.mbs := (rfl)
@[simp] theorem Dev.setLink_host (n : Nat) (v : Link) : (d.setLink n v).host = d.host := (rfl)
@[simp] theorem Dev.setLink_fw (n : Nat) (v : Link) : (d.setLink n v).fw = d.fw := (rfl)
@[simp] theorem Dev.setLink_dbg (n : Nat) (v : Link) : (d.setLink n v).dbg = d.dbg := (rfl)
@[simp] theorem Dev.setLink_cores (n : Nat) (v : Link) : (d.setLink n v).cores = d.cores := (rfl)
@[simp] theorem Dev.setLink_trace (n : Nat) (v : Link) : (d.setLink n v).trace = d.trace := (rfl)
@[simp] theorem Dev.setLink_free (n : Nat) (v : Link) : (d.setLink n v).free = d.free := (rfl)

/-! ### Dev.setCtx -/

@[simp] theorem Dev.setCtx_regs (c : Nat) (v : Ctx) : (d.setCtx c v).regs = d.regs := (rfl)
@[simp] theorem Dev.setCtx_latch (c : Nat) (v : Ctx) : (d.setCtx c v).latch = d.latch := (rfl)
@[simp] theorem Dev.setCtx_mem (c : Nat) (v : Ctx) : (d.setCtx c v).mem = d.mem := (rfl)
@[simp] theorem Dev.setCtx_marks (c : Nat) (v : Ctx) : (d.setCtx c v).marks = d.marks := (rfl)
@[simp] theorem Dev.setCtx_fab (c : Nat) (v : Ctx) : (d.setCtx c v).fab = d.fab := (rfl)
@[simp] theorem Dev.setCtx_flds (c : Nat) (v : Ctx) : (d.setCtx c v).flds = d.flds := (rfl)
@[simp] theorem Dev.setCtx_effDelay (c : Nat) (v : Ctx) : (d.setCtx c v).effDelay = d.effDelay := (rfl)
@[simp] theorem Dev.setCtx_effMargin (c : Nat) (v : Ctx) : (d.setCtx c v).effMargin = d.effMargin := (rfl)
@[simp] theorem Dev.setCtx_trimDue (c : Nat) (v : Ctx) : (d.setCtx c v).trimDue = d.trimDue := (rfl)
@[simp] theorem Dev.setCtx_pac (c : Nat) (v : Ctx) : (d.setCtx c v).pac = d.pac := (rfl)
@[simp] theorem Dev.setCtx_sio (c : Nat) (v : Ctx) : (d.setCtx c v).sio = d.sio := (rfl)
@[simp] theorem Dev.setCtx_binOut (c : Nat) (v : Ctx) : (d.setCtx c v).binOut = d.binOut := (rfl)
@[simp] theorem Dev.setCtx_binCtl (c : Nat) (v : Ctx) : (d.setCtx c v).binCtl = d.binCtl := (rfl)
@[simp] theorem Dev.setCtx_tiles (c : Nat) (v : Ctx) : (d.setCtx c v).tiles = d.tiles := (rfl)
@[simp] theorem Dev.setCtx_ports (c : Nat) (v : Ctx) : (d.setCtx c v).ports = d.ports := (rfl)
@[simp] theorem Dev.setCtx_latentWrites (c : Nat) (v : Ctx) : (d.setCtx c v).latentWrites = d.latentWrites := (rfl)
@[simp] theorem Dev.setCtx_bacts (c : Nat) (v : Ctx) : (d.setCtx c v).bacts = d.bacts := (rfl)
@[simp] theorem Dev.setCtx_noc (c : Nat) (v : Ctx) : (d.setCtx c v).noc = d.noc := (rfl)
@[simp] theorem Dev.setCtx_rc (c : Nat) (v : Ctx) : (d.setCtx c v).rc = d.rc := (rfl)
@[simp] theorem Dev.setCtx_lat (c : Nat) (v : Ctx) : (d.setCtx c v).lat = d.lat := (rfl)
@[simp] theorem Dev.setCtx_bud (c : Nat) (v : Ctx) : (d.setCtx c v).bud = d.bud := (rfl)
@[simp] theorem Dev.setCtx_stk (c : Nat) (v : Ctx) : (d.setCtx c v).stk = d.stk := (rfl)
@[simp] theorem Dev.setCtx_msec (c : Nat) (v : Ctx) : (d.setCtx c v).msec = d.msec := (rfl)
@[simp] theorem Dev.setCtx_errs (c : Nat) (v : Ctx) : (d.setCtx c v).errs = d.errs := (rfl)
@[simp] theorem Dev.setCtx_log (c : Nat) (v : Ctx) : (d.setCtx c v).log = d.log := (rfl)
@[simp] theorem Dev.setCtx_errIrq (c : Nat) (v : Ctx) : (d.setCtx c v).errIrq = d.errIrq := (rfl)
@[simp] theorem Dev.setCtx_scrub (c : Nat) (v : Ctx) : (d.setCtx c v).scrub = d.scrub := (rfl)
@[simp] theorem Dev.setCtx_sec (c : Nat) (v : Ctx) : (d.setCtx c v).sec = d.sec := (rfl)
@[simp] theorem Dev.setCtx_pwr (c : Nat) (v : Ctx) : (d.setCtx c v).pwr = d.pwr := (rfl)
@[simp] theorem Dev.setCtx_lanes (c : Nat) (v : Ctx) : (d.setCtx c v).lanes = d.lanes := (rfl)
@[simp] theorem Dev.setCtx_links (c : Nat) (v : Ctx) : (d.setCtx c v).links = d.links := (rfl)
@[simp] theorem Dev.setCtx_slots (c : Nat) (v : Ctx) : (d.setCtx c v).slots = d.slots := (rfl)
@[simp] theorem Dev.setCtx_chan (c : Nat) (v : Ctx) : (d.setCtx c v).chan = d.chan := (rfl)
@[simp] theorem Dev.setCtx_cluster (c : Nat) (v : Ctx) : (d.setCtx c v).cluster = d.cluster := (rfl)
@[simp] theorem Dev.setCtx_cfg (c : Nat) (v : Ctx) : (d.setCtx c v).cfg = d.cfg := (rfl)
@[simp] theorem Dev.setCtx_boot (c : Nat) (v : Ctx) : (d.setCtx c v).boot = d.boot := (rfl)
@[simp] theorem Dev.setCtx_mbs (c : Nat) (v : Ctx) : (d.setCtx c v).mbs = d.mbs := (rfl)
@[simp] theorem Dev.setCtx_host (c : Nat) (v : Ctx) : (d.setCtx c v).host = d.host := (rfl)
@[simp] theorem Dev.setCtx_fw (c : Nat) (v : Ctx) : (d.setCtx c v).fw = d.fw := (rfl)
@[simp] theorem Dev.setCtx_dbg (c : Nat) (v : Ctx) : (d.setCtx c v).dbg = d.dbg := (rfl)
@[simp] theorem Dev.setCtx_cores (c : Nat) (v : Ctx) : (d.setCtx c v).cores = d.cores := (rfl)
@[simp] theorem Dev.setCtx_trace (c : Nat) (v : Ctx) : (d.setCtx c v).trace = d.trace := (rfl)
@[simp] theorem Dev.setCtx_free (c : Nat) (v : Ctx) : (d.setCtx c v).free = d.free := (rfl)

/-! ### Dev.setMb -/

@[simp] theorem Dev.setMb_regs (m : Nat) (v : Mailbox) : (d.setMb m v).regs = d.regs := (rfl)
@[simp] theorem Dev.setMb_latch (m : Nat) (v : Mailbox) : (d.setMb m v).latch = d.latch := (rfl)
@[simp] theorem Dev.setMb_mem (m : Nat) (v : Mailbox) : (d.setMb m v).mem = d.mem := (rfl)
@[simp] theorem Dev.setMb_marks (m : Nat) (v : Mailbox) : (d.setMb m v).marks = d.marks := (rfl)
@[simp] theorem Dev.setMb_fab (m : Nat) (v : Mailbox) : (d.setMb m v).fab = d.fab := (rfl)
@[simp] theorem Dev.setMb_flds (m : Nat) (v : Mailbox) : (d.setMb m v).flds = d.flds := (rfl)
@[simp] theorem Dev.setMb_effDelay (m : Nat) (v : Mailbox) : (d.setMb m v).effDelay = d.effDelay := (rfl)
@[simp] theorem Dev.setMb_effMargin (m : Nat) (v : Mailbox) : (d.setMb m v).effMargin = d.effMargin := (rfl)
@[simp] theorem Dev.setMb_trimDue (m : Nat) (v : Mailbox) : (d.setMb m v).trimDue = d.trimDue := (rfl)
@[simp] theorem Dev.setMb_pac (m : Nat) (v : Mailbox) : (d.setMb m v).pac = d.pac := (rfl)
@[simp] theorem Dev.setMb_sio (m : Nat) (v : Mailbox) : (d.setMb m v).sio = d.sio := (rfl)
@[simp] theorem Dev.setMb_binOut (m : Nat) (v : Mailbox) : (d.setMb m v).binOut = d.binOut := (rfl)
@[simp] theorem Dev.setMb_binCtl (m : Nat) (v : Mailbox) : (d.setMb m v).binCtl = d.binCtl := (rfl)
@[simp] theorem Dev.setMb_tiles (m : Nat) (v : Mailbox) : (d.setMb m v).tiles = d.tiles := (rfl)
@[simp] theorem Dev.setMb_ports (m : Nat) (v : Mailbox) : (d.setMb m v).ports = d.ports := (rfl)
@[simp] theorem Dev.setMb_latentWrites (m : Nat) (v : Mailbox) : (d.setMb m v).latentWrites = d.latentWrites := (rfl)
@[simp] theorem Dev.setMb_bacts (m : Nat) (v : Mailbox) : (d.setMb m v).bacts = d.bacts := (rfl)
@[simp] theorem Dev.setMb_noc (m : Nat) (v : Mailbox) : (d.setMb m v).noc = d.noc := (rfl)
@[simp] theorem Dev.setMb_rc (m : Nat) (v : Mailbox) : (d.setMb m v).rc = d.rc := (rfl)
@[simp] theorem Dev.setMb_lat (m : Nat) (v : Mailbox) : (d.setMb m v).lat = d.lat := (rfl)
@[simp] theorem Dev.setMb_bud (m : Nat) (v : Mailbox) : (d.setMb m v).bud = d.bud := (rfl)
@[simp] theorem Dev.setMb_stk (m : Nat) (v : Mailbox) : (d.setMb m v).stk = d.stk := (rfl)
@[simp] theorem Dev.setMb_msec (m : Nat) (v : Mailbox) : (d.setMb m v).msec = d.msec := (rfl)
@[simp] theorem Dev.setMb_errs (m : Nat) (v : Mailbox) : (d.setMb m v).errs = d.errs := (rfl)
@[simp] theorem Dev.setMb_log (m : Nat) (v : Mailbox) : (d.setMb m v).log = d.log := (rfl)
@[simp] theorem Dev.setMb_errIrq (m : Nat) (v : Mailbox) : (d.setMb m v).errIrq = d.errIrq := (rfl)
@[simp] theorem Dev.setMb_scrub (m : Nat) (v : Mailbox) : (d.setMb m v).scrub = d.scrub := (rfl)
@[simp] theorem Dev.setMb_sec (m : Nat) (v : Mailbox) : (d.setMb m v).sec = d.sec := (rfl)
@[simp] theorem Dev.setMb_pwr (m : Nat) (v : Mailbox) : (d.setMb m v).pwr = d.pwr := (rfl)
@[simp] theorem Dev.setMb_lanes (m : Nat) (v : Mailbox) : (d.setMb m v).lanes = d.lanes := (rfl)
@[simp] theorem Dev.setMb_links (m : Nat) (v : Mailbox) : (d.setMb m v).links = d.links := (rfl)
@[simp] theorem Dev.setMb_ctxs (m : Nat) (v : Mailbox) : (d.setMb m v).ctxs = d.ctxs := (rfl)
@[simp] theorem Dev.setMb_slots (m : Nat) (v : Mailbox) : (d.setMb m v).slots = d.slots := (rfl)
@[simp] theorem Dev.setMb_chan (m : Nat) (v : Mailbox) : (d.setMb m v).chan = d.chan := (rfl)
@[simp] theorem Dev.setMb_cluster (m : Nat) (v : Mailbox) : (d.setMb m v).cluster = d.cluster := (rfl)
@[simp] theorem Dev.setMb_cfg (m : Nat) (v : Mailbox) : (d.setMb m v).cfg = d.cfg := (rfl)
@[simp] theorem Dev.setMb_boot (m : Nat) (v : Mailbox) : (d.setMb m v).boot = d.boot := (rfl)
@[simp] theorem Dev.setMb_host (m : Nat) (v : Mailbox) : (d.setMb m v).host = d.host := (rfl)
@[simp] theorem Dev.setMb_fw (m : Nat) (v : Mailbox) : (d.setMb m v).fw = d.fw := (rfl)
@[simp] theorem Dev.setMb_dbg (m : Nat) (v : Mailbox) : (d.setMb m v).dbg = d.dbg := (rfl)
@[simp] theorem Dev.setMb_cores (m : Nat) (v : Mailbox) : (d.setMb m v).cores = d.cores := (rfl)
@[simp] theorem Dev.setMb_trace (m : Nat) (v : Mailbox) : (d.setMb m v).trace = d.trace := (rfl)
@[simp] theorem Dev.setMb_free (m : Nat) (v : Mailbox) : (d.setMb m v).free = d.free := (rfl)

/-! ### Dev.setBudget -/

@[simp] theorem Dev.setBudget_regs (i : Nat) (v : Budget) : (d.setBudget i v).regs = d.regs := (rfl)
@[simp] theorem Dev.setBudget_latch (i : Nat) (v : Budget) : (d.setBudget i v).latch = d.latch := (rfl)
@[simp] theorem Dev.setBudget_mem (i : Nat) (v : Budget) : (d.setBudget i v).mem = d.mem := (rfl)
@[simp] theorem Dev.setBudget_marks (i : Nat) (v : Budget) : (d.setBudget i v).marks = d.marks := (rfl)
@[simp] theorem Dev.setBudget_fab (i : Nat) (v : Budget) : (d.setBudget i v).fab = d.fab := (rfl)
@[simp] theorem Dev.setBudget_flds (i : Nat) (v : Budget) : (d.setBudget i v).flds = d.flds := (rfl)
@[simp] theorem Dev.setBudget_effDelay (i : Nat) (v : Budget) : (d.setBudget i v).effDelay = d.effDelay := (rfl)
@[simp] theorem Dev.setBudget_effMargin (i : Nat) (v : Budget) : (d.setBudget i v).effMargin = d.effMargin := (rfl)
@[simp] theorem Dev.setBudget_trimDue (i : Nat) (v : Budget) : (d.setBudget i v).trimDue = d.trimDue := (rfl)
@[simp] theorem Dev.setBudget_pac (i : Nat) (v : Budget) : (d.setBudget i v).pac = d.pac := (rfl)
@[simp] theorem Dev.setBudget_sio (i : Nat) (v : Budget) : (d.setBudget i v).sio = d.sio := (rfl)
@[simp] theorem Dev.setBudget_binOut (i : Nat) (v : Budget) : (d.setBudget i v).binOut = d.binOut := (rfl)
@[simp] theorem Dev.setBudget_binCtl (i : Nat) (v : Budget) : (d.setBudget i v).binCtl = d.binCtl := (rfl)
@[simp] theorem Dev.setBudget_tiles (i : Nat) (v : Budget) : (d.setBudget i v).tiles = d.tiles := (rfl)
@[simp] theorem Dev.setBudget_ports (i : Nat) (v : Budget) : (d.setBudget i v).ports = d.ports := (rfl)
@[simp] theorem Dev.setBudget_latentWrites (i : Nat) (v : Budget) : (d.setBudget i v).latentWrites = d.latentWrites := (rfl)
@[simp] theorem Dev.setBudget_bacts (i : Nat) (v : Budget) : (d.setBudget i v).bacts = d.bacts := (rfl)
@[simp] theorem Dev.setBudget_noc (i : Nat) (v : Budget) : (d.setBudget i v).noc = d.noc := (rfl)
@[simp] theorem Dev.setBudget_rc (i : Nat) (v : Budget) : (d.setBudget i v).rc = d.rc := (rfl)
@[simp] theorem Dev.setBudget_lat (i : Nat) (v : Budget) : (d.setBudget i v).lat = d.lat := (rfl)
@[simp] theorem Dev.setBudget_stk (i : Nat) (v : Budget) : (d.setBudget i v).stk = d.stk := (rfl)
@[simp] theorem Dev.setBudget_msec (i : Nat) (v : Budget) : (d.setBudget i v).msec = d.msec := (rfl)
@[simp] theorem Dev.setBudget_errs (i : Nat) (v : Budget) : (d.setBudget i v).errs = d.errs := (rfl)
@[simp] theorem Dev.setBudget_log (i : Nat) (v : Budget) : (d.setBudget i v).log = d.log := (rfl)
@[simp] theorem Dev.setBudget_errIrq (i : Nat) (v : Budget) : (d.setBudget i v).errIrq = d.errIrq := (rfl)
@[simp] theorem Dev.setBudget_scrub (i : Nat) (v : Budget) : (d.setBudget i v).scrub = d.scrub := (rfl)
@[simp] theorem Dev.setBudget_sec (i : Nat) (v : Budget) : (d.setBudget i v).sec = d.sec := (rfl)
@[simp] theorem Dev.setBudget_pwr (i : Nat) (v : Budget) : (d.setBudget i v).pwr = d.pwr := (rfl)
@[simp] theorem Dev.setBudget_lanes (i : Nat) (v : Budget) : (d.setBudget i v).lanes = d.lanes := (rfl)
@[simp] theorem Dev.setBudget_links (i : Nat) (v : Budget) : (d.setBudget i v).links = d.links := (rfl)
@[simp] theorem Dev.setBudget_ctxs (i : Nat) (v : Budget) : (d.setBudget i v).ctxs = d.ctxs := (rfl)
@[simp] theorem Dev.setBudget_slots (i : Nat) (v : Budget) : (d.setBudget i v).slots = d.slots := (rfl)
@[simp] theorem Dev.setBudget_chan (i : Nat) (v : Budget) : (d.setBudget i v).chan = d.chan := (rfl)
@[simp] theorem Dev.setBudget_cluster (i : Nat) (v : Budget) : (d.setBudget i v).cluster = d.cluster := (rfl)
@[simp] theorem Dev.setBudget_cfg (i : Nat) (v : Budget) : (d.setBudget i v).cfg = d.cfg := (rfl)
@[simp] theorem Dev.setBudget_boot (i : Nat) (v : Budget) : (d.setBudget i v).boot = d.boot := (rfl)
@[simp] theorem Dev.setBudget_mbs (i : Nat) (v : Budget) : (d.setBudget i v).mbs = d.mbs := (rfl)
@[simp] theorem Dev.setBudget_host (i : Nat) (v : Budget) : (d.setBudget i v).host = d.host := (rfl)
@[simp] theorem Dev.setBudget_fw (i : Nat) (v : Budget) : (d.setBudget i v).fw = d.fw := (rfl)
@[simp] theorem Dev.setBudget_dbg (i : Nat) (v : Budget) : (d.setBudget i v).dbg = d.dbg := (rfl)
@[simp] theorem Dev.setBudget_cores (i : Nat) (v : Budget) : (d.setBudget i v).cores = d.cores := (rfl)
@[simp] theorem Dev.setBudget_trace (i : Nat) (v : Budget) : (d.setBudget i v).trace = d.trace := (rfl)
@[simp] theorem Dev.setBudget_free (i : Nat) (v : Budget) : (d.setBudget i v).free = d.free := (rfl)

/-! ### Dev.setCore -/

@[simp] theorem Dev.setCore_regs (c : Nat) (v : CoreState) : (d.setCore c v).regs = d.regs := (rfl)
@[simp] theorem Dev.setCore_latch (c : Nat) (v : CoreState) : (d.setCore c v).latch = d.latch := (rfl)
@[simp] theorem Dev.setCore_mem (c : Nat) (v : CoreState) : (d.setCore c v).mem = d.mem := (rfl)
@[simp] theorem Dev.setCore_marks (c : Nat) (v : CoreState) : (d.setCore c v).marks = d.marks := (rfl)
@[simp] theorem Dev.setCore_fab (c : Nat) (v : CoreState) : (d.setCore c v).fab = d.fab := (rfl)
@[simp] theorem Dev.setCore_flds (c : Nat) (v : CoreState) : (d.setCore c v).flds = d.flds := (rfl)
@[simp] theorem Dev.setCore_effDelay (c : Nat) (v : CoreState) : (d.setCore c v).effDelay = d.effDelay := (rfl)
@[simp] theorem Dev.setCore_effMargin (c : Nat) (v : CoreState) : (d.setCore c v).effMargin = d.effMargin := (rfl)
@[simp] theorem Dev.setCore_trimDue (c : Nat) (v : CoreState) : (d.setCore c v).trimDue = d.trimDue := (rfl)
@[simp] theorem Dev.setCore_pac (c : Nat) (v : CoreState) : (d.setCore c v).pac = d.pac := (rfl)
@[simp] theorem Dev.setCore_sio (c : Nat) (v : CoreState) : (d.setCore c v).sio = d.sio := (rfl)
@[simp] theorem Dev.setCore_binOut (c : Nat) (v : CoreState) : (d.setCore c v).binOut = d.binOut := (rfl)
@[simp] theorem Dev.setCore_binCtl (c : Nat) (v : CoreState) : (d.setCore c v).binCtl = d.binCtl := (rfl)
@[simp] theorem Dev.setCore_tiles (c : Nat) (v : CoreState) : (d.setCore c v).tiles = d.tiles := (rfl)
@[simp] theorem Dev.setCore_ports (c : Nat) (v : CoreState) : (d.setCore c v).ports = d.ports := (rfl)
@[simp] theorem Dev.setCore_latentWrites (c : Nat) (v : CoreState) : (d.setCore c v).latentWrites = d.latentWrites := (rfl)
@[simp] theorem Dev.setCore_bacts (c : Nat) (v : CoreState) : (d.setCore c v).bacts = d.bacts := (rfl)
@[simp] theorem Dev.setCore_noc (c : Nat) (v : CoreState) : (d.setCore c v).noc = d.noc := (rfl)
@[simp] theorem Dev.setCore_rc (c : Nat) (v : CoreState) : (d.setCore c v).rc = d.rc := (rfl)
@[simp] theorem Dev.setCore_lat (c : Nat) (v : CoreState) : (d.setCore c v).lat = d.lat := (rfl)
@[simp] theorem Dev.setCore_bud (c : Nat) (v : CoreState) : (d.setCore c v).bud = d.bud := (rfl)
@[simp] theorem Dev.setCore_stk (c : Nat) (v : CoreState) : (d.setCore c v).stk = d.stk := (rfl)
@[simp] theorem Dev.setCore_msec (c : Nat) (v : CoreState) : (d.setCore c v).msec = d.msec := (rfl)
@[simp] theorem Dev.setCore_errs (c : Nat) (v : CoreState) : (d.setCore c v).errs = d.errs := (rfl)
@[simp] theorem Dev.setCore_log (c : Nat) (v : CoreState) : (d.setCore c v).log = d.log := (rfl)
@[simp] theorem Dev.setCore_errIrq (c : Nat) (v : CoreState) : (d.setCore c v).errIrq = d.errIrq := (rfl)
@[simp] theorem Dev.setCore_scrub (c : Nat) (v : CoreState) : (d.setCore c v).scrub = d.scrub := (rfl)
@[simp] theorem Dev.setCore_sec (c : Nat) (v : CoreState) : (d.setCore c v).sec = d.sec := (rfl)
@[simp] theorem Dev.setCore_pwr (c : Nat) (v : CoreState) : (d.setCore c v).pwr = d.pwr := (rfl)
@[simp] theorem Dev.setCore_lanes (c : Nat) (v : CoreState) : (d.setCore c v).lanes = d.lanes := (rfl)
@[simp] theorem Dev.setCore_links (c : Nat) (v : CoreState) : (d.setCore c v).links = d.links := (rfl)
@[simp] theorem Dev.setCore_ctxs (c : Nat) (v : CoreState) : (d.setCore c v).ctxs = d.ctxs := (rfl)
@[simp] theorem Dev.setCore_slots (c : Nat) (v : CoreState) : (d.setCore c v).slots = d.slots := (rfl)
@[simp] theorem Dev.setCore_chan (c : Nat) (v : CoreState) : (d.setCore c v).chan = d.chan := (rfl)
@[simp] theorem Dev.setCore_cluster (c : Nat) (v : CoreState) : (d.setCore c v).cluster = d.cluster := (rfl)
@[simp] theorem Dev.setCore_cfg (c : Nat) (v : CoreState) : (d.setCore c v).cfg = d.cfg := (rfl)
@[simp] theorem Dev.setCore_boot (c : Nat) (v : CoreState) : (d.setCore c v).boot = d.boot := (rfl)
@[simp] theorem Dev.setCore_mbs (c : Nat) (v : CoreState) : (d.setCore c v).mbs = d.mbs := (rfl)
@[simp] theorem Dev.setCore_host (c : Nat) (v : CoreState) : (d.setCore c v).host = d.host := (rfl)
@[simp] theorem Dev.setCore_fw (c : Nat) (v : CoreState) : (d.setCore c v).fw = d.fw := (rfl)
@[simp] theorem Dev.setCore_dbg (c : Nat) (v : CoreState) : (d.setCore c v).dbg = d.dbg := (rfl)
@[simp] theorem Dev.setCore_trace (c : Nat) (v : CoreState) : (d.setCore c v).trace = d.trace := (rfl)
@[simp] theorem Dev.setCore_free (c : Nat) (v : CoreState) : (d.setCore c v).free = d.free := (rfl)

/-! ### Dev.setLatSide -/

@[simp] theorem Dev.setLatSide_regs (b j : Nat) (v : LatLink) : (d.setLatSide b j v).regs = d.regs := (rfl)
@[simp] theorem Dev.setLatSide_latch (b j : Nat) (v : LatLink) : (d.setLatSide b j v).latch = d.latch := (rfl)
@[simp] theorem Dev.setLatSide_mem (b j : Nat) (v : LatLink) : (d.setLatSide b j v).mem = d.mem := (rfl)
@[simp] theorem Dev.setLatSide_marks (b j : Nat) (v : LatLink) : (d.setLatSide b j v).marks = d.marks := (rfl)
@[simp] theorem Dev.setLatSide_fab (b j : Nat) (v : LatLink) : (d.setLatSide b j v).fab = d.fab := (rfl)
@[simp] theorem Dev.setLatSide_flds (b j : Nat) (v : LatLink) : (d.setLatSide b j v).flds = d.flds := (rfl)
@[simp] theorem Dev.setLatSide_effDelay (b j : Nat) (v : LatLink) : (d.setLatSide b j v).effDelay = d.effDelay := (rfl)
@[simp] theorem Dev.setLatSide_effMargin (b j : Nat) (v : LatLink) : (d.setLatSide b j v).effMargin = d.effMargin := (rfl)
@[simp] theorem Dev.setLatSide_trimDue (b j : Nat) (v : LatLink) : (d.setLatSide b j v).trimDue = d.trimDue := (rfl)
@[simp] theorem Dev.setLatSide_pac (b j : Nat) (v : LatLink) : (d.setLatSide b j v).pac = d.pac := (rfl)
@[simp] theorem Dev.setLatSide_sio (b j : Nat) (v : LatLink) : (d.setLatSide b j v).sio = d.sio := (rfl)
@[simp] theorem Dev.setLatSide_binOut (b j : Nat) (v : LatLink) : (d.setLatSide b j v).binOut = d.binOut := (rfl)
@[simp] theorem Dev.setLatSide_binCtl (b j : Nat) (v : LatLink) : (d.setLatSide b j v).binCtl = d.binCtl := (rfl)
@[simp] theorem Dev.setLatSide_tiles (b j : Nat) (v : LatLink) : (d.setLatSide b j v).tiles = d.tiles := (rfl)
@[simp] theorem Dev.setLatSide_ports (b j : Nat) (v : LatLink) : (d.setLatSide b j v).ports = d.ports := (rfl)
@[simp] theorem Dev.setLatSide_latentWrites (b j : Nat) (v : LatLink) : (d.setLatSide b j v).latentWrites = d.latentWrites := (rfl)
@[simp] theorem Dev.setLatSide_bacts (b j : Nat) (v : LatLink) : (d.setLatSide b j v).bacts = d.bacts := (rfl)
@[simp] theorem Dev.setLatSide_noc (b j : Nat) (v : LatLink) : (d.setLatSide b j v).noc = d.noc := (rfl)
@[simp] theorem Dev.setLatSide_rc (b j : Nat) (v : LatLink) : (d.setLatSide b j v).rc = d.rc := (rfl)
@[simp] theorem Dev.setLatSide_bud (b j : Nat) (v : LatLink) : (d.setLatSide b j v).bud = d.bud := (rfl)
@[simp] theorem Dev.setLatSide_stk (b j : Nat) (v : LatLink) : (d.setLatSide b j v).stk = d.stk := (rfl)
@[simp] theorem Dev.setLatSide_msec (b j : Nat) (v : LatLink) : (d.setLatSide b j v).msec = d.msec := (rfl)
@[simp] theorem Dev.setLatSide_errs (b j : Nat) (v : LatLink) : (d.setLatSide b j v).errs = d.errs := (rfl)
@[simp] theorem Dev.setLatSide_log (b j : Nat) (v : LatLink) : (d.setLatSide b j v).log = d.log := (rfl)
@[simp] theorem Dev.setLatSide_errIrq (b j : Nat) (v : LatLink) : (d.setLatSide b j v).errIrq = d.errIrq := (rfl)
@[simp] theorem Dev.setLatSide_scrub (b j : Nat) (v : LatLink) : (d.setLatSide b j v).scrub = d.scrub := (rfl)
@[simp] theorem Dev.setLatSide_sec (b j : Nat) (v : LatLink) : (d.setLatSide b j v).sec = d.sec := (rfl)
@[simp] theorem Dev.setLatSide_pwr (b j : Nat) (v : LatLink) : (d.setLatSide b j v).pwr = d.pwr := (rfl)
@[simp] theorem Dev.setLatSide_lanes (b j : Nat) (v : LatLink) : (d.setLatSide b j v).lanes = d.lanes := (rfl)
@[simp] theorem Dev.setLatSide_links (b j : Nat) (v : LatLink) : (d.setLatSide b j v).links = d.links := (rfl)
@[simp] theorem Dev.setLatSide_ctxs (b j : Nat) (v : LatLink) : (d.setLatSide b j v).ctxs = d.ctxs := (rfl)
@[simp] theorem Dev.setLatSide_slots (b j : Nat) (v : LatLink) : (d.setLatSide b j v).slots = d.slots := (rfl)
@[simp] theorem Dev.setLatSide_chan (b j : Nat) (v : LatLink) : (d.setLatSide b j v).chan = d.chan := (rfl)
@[simp] theorem Dev.setLatSide_cluster (b j : Nat) (v : LatLink) : (d.setLatSide b j v).cluster = d.cluster := (rfl)
@[simp] theorem Dev.setLatSide_cfg (b j : Nat) (v : LatLink) : (d.setLatSide b j v).cfg = d.cfg := (rfl)
@[simp] theorem Dev.setLatSide_boot (b j : Nat) (v : LatLink) : (d.setLatSide b j v).boot = d.boot := (rfl)
@[simp] theorem Dev.setLatSide_mbs (b j : Nat) (v : LatLink) : (d.setLatSide b j v).mbs = d.mbs := (rfl)
@[simp] theorem Dev.setLatSide_host (b j : Nat) (v : LatLink) : (d.setLatSide b j v).host = d.host := (rfl)
@[simp] theorem Dev.setLatSide_fw (b j : Nat) (v : LatLink) : (d.setLatSide b j v).fw = d.fw := (rfl)
@[simp] theorem Dev.setLatSide_dbg (b j : Nat) (v : LatLink) : (d.setLatSide b j v).dbg = d.dbg := (rfl)
@[simp] theorem Dev.setLatSide_cores (b j : Nat) (v : LatLink) : (d.setLatSide b j v).cores = d.cores := (rfl)
@[simp] theorem Dev.setLatSide_trace (b j : Nat) (v : LatLink) : (d.setLatSide b j v).trace = d.trace := (rfl)
@[simp] theorem Dev.setLatSide_free (b j : Nat) (v : LatLink) : (d.setLatSide b j v).free = d.free := (rfl)

/-! ### What readers find after an update that does not touch them -/

@[simp] theorem Dev.wrWord_fld (a : Nat) (w : Word) (x : Nat) : (d.wrWord a w).fld x = d.fld x := (rfl)
@[simp] theorem Dev.wrWord_mark (a : Nat) (w : Word) (x : Nat) : (d.wrWord a w).mark x = d.mark x := (rfl)
@[simp] theorem Dev.wrWord_tile (a : Nat) (w : Word) (x y : Nat) : (d.wrWord a w).tile x y = d.tile x y := (rfl)
@[simp] theorem Dev.wrWord_stack (a : Nat) (w : Word) (x : Nat) : (d.wrWord a w).stack x = d.stack x := (rfl)
@[simp] theorem Dev.wrWord_lane (a : Nat) (w : Word) (x : Nat) : (d.wrWord a w).lane x = d.lane x := (rfl)
@[simp] theorem Dev.wrWord_link (a : Nat) (w : Word) (x : Nat) : (d.wrWord a w).link x = d.link x := (rfl)
@[simp] theorem Dev.wrWord_ctx (a : Nat) (w : Word) (x : Nat) : (d.wrWord a w).ctx x = d.ctx x := (rfl)
@[simp] theorem Dev.wrWord_mb (a : Nat) (w : Word) (x : Nat) : (d.wrWord a w).mb x = d.mb x := (rfl)
@[simp] theorem Dev.wrWord_core (a : Nat) (w : Word) (x : Nat) : (d.wrWord a w).core x = d.core x := (rfl)
@[simp] theorem Dev.set_fld (f : Fld) (n : Nat) (x : Nat) : (d.set f n).fld x = d.fld x := (rfl)
@[simp] theorem Dev.set_mark (f : Fld) (n : Nat) (x : Nat) : (d.set f n).mark x = d.mark x := (rfl)
@[simp] theorem Dev.set_tile (f : Fld) (n : Nat) (x y : Nat) : (d.set f n).tile x y = d.tile x y := (rfl)
@[simp] theorem Dev.set_stack (f : Fld) (n : Nat) (x : Nat) : (d.set f n).stack x = d.stack x := (rfl)
@[simp] theorem Dev.set_lane (f : Fld) (n : Nat) (x : Nat) : (d.set f n).lane x = d.lane x := (rfl)
@[simp] theorem Dev.set_link (f : Fld) (n : Nat) (x : Nat) : (d.set f n).link x = d.link x := (rfl)
@[simp] theorem Dev.set_ctx (f : Fld) (n : Nat) (x : Nat) : (d.set f n).ctx x = d.ctx x := (rfl)
@[simp] theorem Dev.set_mb (f : Fld) (n : Nat) (x : Nat) : (d.set f n).mb x = d.mb x := (rfl)
@[simp] theorem Dev.set_core (f : Fld) (n : Nat) (x : Nat) : (d.set f n).core x = d.core x := (rfl)
@[simp] theorem Dev.setBit_fld (f : Fld) (i : Nat) (b : Bool) (x : Nat) : (d.setBit f i b).fld x = d.fld x := (rfl)
@[simp] theorem Dev.setBit_mark (f : Fld) (i : Nat) (b : Bool) (x : Nat) : (d.setBit f i b).mark x = d.mark x := (rfl)
@[simp] theorem Dev.setBit_tile (f : Fld) (i : Nat) (b : Bool) (x y : Nat) : (d.setBit f i b).tile x y = d.tile x y := (rfl)
@[simp] theorem Dev.setBit_stack (f : Fld) (i : Nat) (b : Bool) (x : Nat) : (d.setBit f i b).stack x = d.stack x := (rfl)
@[simp] theorem Dev.setBit_lane (f : Fld) (i : Nat) (b : Bool) (x : Nat) : (d.setBit f i b).lane x = d.lane x := (rfl)
@[simp] theorem Dev.setBit_link (f : Fld) (i : Nat) (b : Bool) (x : Nat) : (d.setBit f i b).link x = d.link x := (rfl)
@[simp] theorem Dev.setBit_ctx (f : Fld) (i : Nat) (b : Bool) (x : Nat) : (d.setBit f i b).ctx x = d.ctx x := (rfl)
@[simp] theorem Dev.setBit_mb (f : Fld) (i : Nat) (b : Bool) (x : Nat) : (d.setBit f i b).mb x = d.mb x := (rfl)
@[simp] theorem Dev.setBit_core (f : Fld) (i : Nat) (b : Bool) (x : Nat) : (d.setBit f i b).core x = d.core x := (rfl)
@[simp] theorem Dev.bump_fld (f : Fld) (n : Nat) (x : Nat) : (d.bump f n).fld x = d.fld x := (rfl)
@[simp] theorem Dev.bump_mark (f : Fld) (n : Nat) (x : Nat) : (d.bump f n).mark x = d.mark x := (rfl)
@[simp] theorem Dev.bump_tile (f : Fld) (n : Nat) (x y : Nat) : (d.bump f n).tile x y = d.tile x y := (rfl)
@[simp] theorem Dev.bump_stack (f : Fld) (n : Nat) (x : Nat) : (d.bump f n).stack x = d.stack x := (rfl)
@[simp] theorem Dev.bump_lane (f : Fld) (n : Nat) (x : Nat) : (d.bump f n).lane x = d.lane x := (rfl)
@[simp] theorem Dev.bump_link (f : Fld) (n : Nat) (x : Nat) : (d.bump f n).link x = d.link x := (rfl)
@[simp] theorem Dev.bump_ctx (f : Fld) (n : Nat) (x : Nat) : (d.bump f n).ctx x = d.ctx x := (rfl)
@[simp] theorem Dev.bump_mb (f : Fld) (n : Nat) (x : Nat) : (d.bump f n).mb x = d.mb x := (rfl)
@[simp] theorem Dev.bump_core (f : Fld) (n : Nat) (x : Nat) : (d.bump f n).core x = d.core x := (rfl)
@[simp] theorem Dev.wrap_fld (f : Fld) (n : Nat) (x : Nat) : (d.wrap f n).fld x = d.fld x := (rfl)
@[simp] theorem Dev.wrap_mark (f : Fld) (n : Nat) (x : Nat) : (d.wrap f n).mark x = d.mark x := (rfl)
@[simp] theorem Dev.wrap_tile (f : Fld) (n : Nat) (x y : Nat) : (d.wrap f n).tile x y = d.tile x y := (rfl)
@[simp] theorem Dev.wrap_stack (f : Fld) (n : Nat) (x : Nat) : (d.wrap f n).stack x = d.stack x := (rfl)
@[simp] theorem Dev.wrap_lane (f : Fld) (n : Nat) (x : Nat) : (d.wrap f n).lane x = d.lane x := (rfl)
@[simp] theorem Dev.wrap_link (f : Fld) (n : Nat) (x : Nat) : (d.wrap f n).link x = d.link x := (rfl)
@[simp] theorem Dev.wrap_ctx (f : Fld) (n : Nat) (x : Nat) : (d.wrap f n).ctx x = d.ctx x := (rfl)
@[simp] theorem Dev.wrap_mb (f : Fld) (n : Nat) (x : Nat) : (d.wrap f n).mb x = d.mb x := (rfl)
@[simp] theorem Dev.wrap_core (f : Fld) (n : Nat) (x : Nat) : (d.wrap f n).core x = d.core x := (rfl)
@[simp] theorem Dev.setPair_fld (lo hi n : Nat) (x : Nat) : (d.setPair lo hi n).fld x = d.fld x := (rfl)
@[simp] theorem Dev.setPair_mark (lo hi n : Nat) (x : Nat) : (d.setPair lo hi n).mark x = d.mark x := (rfl)
@[simp] theorem Dev.setPair_tile (lo hi n : Nat) (x y : Nat) : (d.setPair lo hi n).tile x y = d.tile x y := (rfl)
@[simp] theorem Dev.setPair_stack (lo hi n : Nat) (x : Nat) : (d.setPair lo hi n).stack x = d.stack x := (rfl)
@[simp] theorem Dev.setPair_lane (lo hi n : Nat) (x : Nat) : (d.setPair lo hi n).lane x = d.lane x := (rfl)
@[simp] theorem Dev.setPair_link (lo hi n : Nat) (x : Nat) : (d.setPair lo hi n).link x = d.link x := (rfl)
@[simp] theorem Dev.setPair_ctx (lo hi n : Nat) (x : Nat) : (d.setPair lo hi n).ctx x = d.ctx x := (rfl)
@[simp] theorem Dev.setPair_mb (lo hi n : Nat) (x : Nat) : (d.setPair lo hi n).mb x = d.mb x := (rfl)
@[simp] theorem Dev.setPair_core (lo hi n : Nat) (x : Nat) : (d.setPair lo hi n).core x = d.core x := (rfl)
@[simp] theorem Dev.resetRegs_fld (lo hi : Nat) (x : Nat) : (d.resetRegs lo hi).fld x = d.fld x := (rfl)
@[simp] theorem Dev.resetRegs_mark (lo hi : Nat) (x : Nat) : (d.resetRegs lo hi).mark x = d.mark x := (rfl)
@[simp] theorem Dev.resetRegs_tile (lo hi : Nat) (x y : Nat) : (d.resetRegs lo hi).tile x y = d.tile x y := (rfl)
@[simp] theorem Dev.resetRegs_stack (lo hi : Nat) (x : Nat) : (d.resetRegs lo hi).stack x = d.stack x := (rfl)
@[simp] theorem Dev.resetRegs_lane (lo hi : Nat) (x : Nat) : (d.resetRegs lo hi).lane x = d.lane x := (rfl)
@[simp] theorem Dev.resetRegs_link (lo hi : Nat) (x : Nat) : (d.resetRegs lo hi).link x = d.link x := (rfl)
@[simp] theorem Dev.resetRegs_ctx (lo hi : Nat) (x : Nat) : (d.resetRegs lo hi).ctx x = d.ctx x := (rfl)
@[simp] theorem Dev.resetRegs_mb (lo hi : Nat) (x : Nat) : (d.resetRegs lo hi).mb x = d.mb x := (rfl)
@[simp] theorem Dev.resetRegs_core (lo hi : Nat) (x : Nat) : (d.resetRegs lo hi).core x = d.core x := (rfl)
@[simp] theorem Dev.spend_rdWord (x : Nat) : (d.spend).rdWord x = d.rdWord x := (rfl)
@[simp] theorem Dev.spend_get (x : Fld) : (d.spend).get x = d.get x := (rfl)
@[simp] theorem Dev.spend_on (x : Fld) : (d.spend).on x = d.on x := (rfl)
@[simp] theorem Dev.spend_bit (x : Fld) (y : Nat) : (d.spend).bit x y = d.bit x y := (rfl)
@[simp] theorem Dev.spend_pair (x y : Nat) : (d.spend).pair x y = d.pair x y := (rfl)
@[simp] theorem Dev.spend_fld (x : Nat) : (d.spend).fld x = d.fld x := (rfl)
@[simp] theorem Dev.spend_mark (x : Nat) : (d.spend).mark x = d.mark x := (rfl)
@[simp] theorem Dev.spend_tile (x y : Nat) : (d.spend).tile x y = d.tile x y := (rfl)
@[simp] theorem Dev.spend_stack (x : Nat) : (d.spend).stack x = d.stack x := (rfl)
@[simp] theorem Dev.spend_lane (x : Nat) : (d.spend).lane x = d.lane x := (rfl)
@[simp] theorem Dev.spend_link (x : Nat) : (d.spend).link x = d.link x := (rfl)
@[simp] theorem Dev.spend_ctx (x : Nat) : (d.spend).ctx x = d.ctx x := (rfl)
@[simp] theorem Dev.spend_mb (x : Nat) : (d.spend).mb x = d.mb x := (rfl)
@[simp] theorem Dev.spend_core (x : Nat) : (d.spend).core x = d.core x := (rfl)
@[simp] theorem Dev.setFld_rdWord (f : Nat) (v : FieldDyn) (x : Nat) : (d.setFld f v).rdWord x = d.rdWord x := (rfl)
@[simp] theorem Dev.setFld_get (f : Nat) (v : FieldDyn) (x : Fld) : (d.setFld f v).get x = d.get x := (rfl)
@[simp] theorem Dev.setFld_on (f : Nat) (v : FieldDyn) (x : Fld) : (d.setFld f v).on x = d.on x := (rfl)
@[simp] theorem Dev.setFld_bit (f : Nat) (v : FieldDyn) (x : Fld) (y : Nat) : (d.setFld f v).bit x y = d.bit x y := (rfl)
@[simp] theorem Dev.setFld_pair (f : Nat) (v : FieldDyn) (x y : Nat) : (d.setFld f v).pair x y = d.pair x y := (rfl)
@[simp] theorem Dev.setFld_mark (f : Nat) (v : FieldDyn) (x : Nat) : (d.setFld f v).mark x = d.mark x := (rfl)
@[simp] theorem Dev.setFld_tile (f : Nat) (v : FieldDyn) (x y : Nat) : (d.setFld f v).tile x y = d.tile x y := (rfl)
@[simp] theorem Dev.setFld_stack (f : Nat) (v : FieldDyn) (x : Nat) : (d.setFld f v).stack x = d.stack x := (rfl)
@[simp] theorem Dev.setFld_lane (f : Nat) (v : FieldDyn) (x : Nat) : (d.setFld f v).lane x = d.lane x := (rfl)
@[simp] theorem Dev.setFld_link (f : Nat) (v : FieldDyn) (x : Nat) : (d.setFld f v).link x = d.link x := (rfl)
@[simp] theorem Dev.setFld_ctx (f : Nat) (v : FieldDyn) (x : Nat) : (d.setFld f v).ctx x = d.ctx x := (rfl)
@[simp] theorem Dev.setFld_mb (f : Nat) (v : FieldDyn) (x : Nat) : (d.setFld f v).mb x = d.mb x := (rfl)
@[simp] theorem Dev.setFld_core (f : Nat) (v : FieldDyn) (x : Nat) : (d.setFld f v).core x = d.core x := (rfl)
@[simp] theorem Dev.modPac_rdWord (g : Pacer → Pacer) (x : Nat) : (d.modPac g).rdWord x = d.rdWord x := (rfl)
@[simp] theorem Dev.modPac_get (g : Pacer → Pacer) (x : Fld) : (d.modPac g).get x = d.get x := (rfl)
@[simp] theorem Dev.modPac_on (g : Pacer → Pacer) (x : Fld) : (d.modPac g).on x = d.on x := (rfl)
@[simp] theorem Dev.modPac_bit (g : Pacer → Pacer) (x : Fld) (y : Nat) : (d.modPac g).bit x y = d.bit x y := (rfl)
@[simp] theorem Dev.modPac_pair (g : Pacer → Pacer) (x y : Nat) : (d.modPac g).pair x y = d.pair x y := (rfl)
@[simp] theorem Dev.modPac_fld (g : Pacer → Pacer) (x : Nat) : (d.modPac g).fld x = d.fld x := (rfl)
@[simp] theorem Dev.modPac_mark (g : Pacer → Pacer) (x : Nat) : (d.modPac g).mark x = d.mark x := (rfl)
@[simp] theorem Dev.modPac_tile (g : Pacer → Pacer) (x y : Nat) : (d.modPac g).tile x y = d.tile x y := (rfl)
@[simp] theorem Dev.modPac_stack (g : Pacer → Pacer) (x : Nat) : (d.modPac g).stack x = d.stack x := (rfl)
@[simp] theorem Dev.modPac_lane (g : Pacer → Pacer) (x : Nat) : (d.modPac g).lane x = d.lane x := (rfl)
@[simp] theorem Dev.modPac_link (g : Pacer → Pacer) (x : Nat) : (d.modPac g).link x = d.link x := (rfl)
@[simp] theorem Dev.modPac_ctx (g : Pacer → Pacer) (x : Nat) : (d.modPac g).ctx x = d.ctx x := (rfl)
@[simp] theorem Dev.modPac_mb (g : Pacer → Pacer) (x : Nat) : (d.modPac g).mb x = d.mb x := (rfl)
@[simp] theorem Dev.modPac_core (g : Pacer → Pacer) (x : Nat) : (d.modPac g).core x = d.core x := (rfl)
@[simp] theorem Dev.modFab_rdWord (g : Fabric → Fabric) (x : Nat) : (d.modFab g).rdWord x = d.rdWord x := (rfl)
@[simp] theorem Dev.modFab_get (g : Fabric → Fabric) (x : Fld) : (d.modFab g).get x = d.get x := (rfl)
@[simp] theorem Dev.modFab_on (g : Fabric → Fabric) (x : Fld) : (d.modFab g).on x = d.on x := (rfl)
@[simp] theorem Dev.modFab_bit (g : Fabric → Fabric) (x : Fld) (y : Nat) : (d.modFab g).bit x y = d.bit x y := (rfl)
@[simp] theorem Dev.modFab_pair (g : Fabric → Fabric) (x y : Nat) : (d.modFab g).pair x y = d.pair x y := (rfl)
@[simp] theorem Dev.modFab_fld (g : Fabric → Fabric) (x : Nat) : (d.modFab g).fld x = d.fld x := (rfl)
@[simp] theorem Dev.modFab_mark (g : Fabric → Fabric) (x : Nat) : (d.modFab g).mark x = d.mark x := (rfl)
@[simp] theorem Dev.modFab_tile (g : Fabric → Fabric) (x y : Nat) : (d.modFab g).tile x y = d.tile x y := (rfl)
@[simp] theorem Dev.modFab_stack (g : Fabric → Fabric) (x : Nat) : (d.modFab g).stack x = d.stack x := (rfl)
@[simp] theorem Dev.modFab_lane (g : Fabric → Fabric) (x : Nat) : (d.modFab g).lane x = d.lane x := (rfl)
@[simp] theorem Dev.modFab_link (g : Fabric → Fabric) (x : Nat) : (d.modFab g).link x = d.link x := (rfl)
@[simp] theorem Dev.modFab_ctx (g : Fabric → Fabric) (x : Nat) : (d.modFab g).ctx x = d.ctx x := (rfl)
@[simp] theorem Dev.modFab_mb (g : Fabric → Fabric) (x : Nat) : (d.modFab g).mb x = d.mb x := (rfl)
@[simp] theorem Dev.modFab_core (g : Fabric → Fabric) (x : Nat) : (d.modFab g).core x = d.core x := (rfl)
@[simp] theorem Dev.setMark_rdWord (a : Nat) (m : Mark) (x : Nat) : (d.setMark a m).rdWord x = d.rdWord x := (rfl)
@[simp] theorem Dev.setMark_get (a : Nat) (m : Mark) (x : Fld) : (d.setMark a m).get x = d.get x := (rfl)
@[simp] theorem Dev.setMark_on (a : Nat) (m : Mark) (x : Fld) : (d.setMark a m).on x = d.on x := (rfl)
@[simp] theorem Dev.setMark_bit (a : Nat) (m : Mark) (x : Fld) (y : Nat) : (d.setMark a m).bit x y = d.bit x y := (rfl)
@[simp] theorem Dev.setMark_pair (a : Nat) (m : Mark) (x y : Nat) : (d.setMark a m).pair x y = d.pair x y := (rfl)
@[simp] theorem Dev.setMark_fld (a : Nat) (m : Mark) (x : Nat) : (d.setMark a m).fld x = d.fld x := (rfl)
@[simp] theorem Dev.setMark_tile (a : Nat) (m : Mark) (x y : Nat) : (d.setMark a m).tile x y = d.tile x y := (rfl)
@[simp] theorem Dev.setMark_stack (a : Nat) (m : Mark) (x : Nat) : (d.setMark a m).stack x = d.stack x := (rfl)
@[simp] theorem Dev.setMark_lane (a : Nat) (m : Mark) (x : Nat) : (d.setMark a m).lane x = d.lane x := (rfl)
@[simp] theorem Dev.setMark_link (a : Nat) (m : Mark) (x : Nat) : (d.setMark a m).link x = d.link x := (rfl)
@[simp] theorem Dev.setMark_ctx (a : Nat) (m : Mark) (x : Nat) : (d.setMark a m).ctx x = d.ctx x := (rfl)
@[simp] theorem Dev.setMark_mb (a : Nat) (m : Mark) (x : Nat) : (d.setMark a m).mb x = d.mb x := (rfl)
@[simp] theorem Dev.setMark_core (a : Nat) (m : Mark) (x : Nat) : (d.setMark a m).core x = d.core x := (rfl)
@[simp] theorem Dev.report_rdWord (r : ErrRec) (x : Nat) : (d.report r).rdWord x = d.rdWord x := (rfl)
@[simp] theorem Dev.report_get (r : ErrRec) (x : Fld) : (d.report r).get x = d.get x := (rfl)
@[simp] theorem Dev.report_on (r : ErrRec) (x : Fld) : (d.report r).on x = d.on x := (rfl)
@[simp] theorem Dev.report_bit (r : ErrRec) (x : Fld) (y : Nat) : (d.report r).bit x y = d.bit x y := (rfl)
@[simp] theorem Dev.report_pair (r : ErrRec) (x y : Nat) : (d.report r).pair x y = d.pair x y := (rfl)
@[simp] theorem Dev.report_fld (r : ErrRec) (x : Nat) : (d.report r).fld x = d.fld x := (rfl)
@[simp] theorem Dev.report_mark (r : ErrRec) (x : Nat) : (d.report r).mark x = d.mark x := (rfl)
@[simp] theorem Dev.report_tile (r : ErrRec) (x y : Nat) : (d.report r).tile x y = d.tile x y := (rfl)
@[simp] theorem Dev.report_stack (r : ErrRec) (x : Nat) : (d.report r).stack x = d.stack x := (rfl)
@[simp] theorem Dev.report_lane (r : ErrRec) (x : Nat) : (d.report r).lane x = d.lane x := (rfl)
@[simp] theorem Dev.report_link (r : ErrRec) (x : Nat) : (d.report r).link x = d.link x := (rfl)
@[simp] theorem Dev.report_ctx (r : ErrRec) (x : Nat) : (d.report r).ctx x = d.ctx x := (rfl)
@[simp] theorem Dev.report_mb (r : ErrRec) (x : Nat) : (d.report r).mb x = d.mb x := (rfl)
@[simp] theorem Dev.report_core (r : ErrRec) (x : Nat) : (d.report r).core x = d.core x := (rfl)
@[simp] theorem Dev.err_rdWord (die unit sev cls : Nat) (x : Nat) : (d.err die unit sev cls).rdWord x = d.rdWord x := (rfl)
@[simp] theorem Dev.err_get (die unit sev cls : Nat) (x : Fld) : (d.err die unit sev cls).get x = d.get x := (rfl)
@[simp] theorem Dev.err_on (die unit sev cls : Nat) (x : Fld) : (d.err die unit sev cls).on x = d.on x := (rfl)
@[simp] theorem Dev.err_bit (die unit sev cls : Nat) (x : Fld) (y : Nat) : (d.err die unit sev cls).bit x y = d.bit x y := (rfl)
@[simp] theorem Dev.err_pair (die unit sev cls : Nat) (x y : Nat) : (d.err die unit sev cls).pair x y = d.pair x y := (rfl)
@[simp] theorem Dev.err_fld (die unit sev cls : Nat) (x : Nat) : (d.err die unit sev cls).fld x = d.fld x := (rfl)
@[simp] theorem Dev.err_mark (die unit sev cls : Nat) (x : Nat) : (d.err die unit sev cls).mark x = d.mark x := (rfl)
@[simp] theorem Dev.err_tile (die unit sev cls : Nat) (x y : Nat) : (d.err die unit sev cls).tile x y = d.tile x y := (rfl)
@[simp] theorem Dev.err_stack (die unit sev cls : Nat) (x : Nat) : (d.err die unit sev cls).stack x = d.stack x := (rfl)
@[simp] theorem Dev.err_lane (die unit sev cls : Nat) (x : Nat) : (d.err die unit sev cls).lane x = d.lane x := (rfl)
@[simp] theorem Dev.err_link (die unit sev cls : Nat) (x : Nat) : (d.err die unit sev cls).link x = d.link x := (rfl)
@[simp] theorem Dev.err_ctx (die unit sev cls : Nat) (x : Nat) : (d.err die unit sev cls).ctx x = d.ctx x := (rfl)
@[simp] theorem Dev.err_mb (die unit sev cls : Nat) (x : Nat) : (d.err die unit sev cls).mb x = d.mb x := (rfl)
@[simp] theorem Dev.err_core (die unit sev cls : Nat) (x : Nat) : (d.err die unit sev cls).core x = d.core x := (rfl)
@[simp] theorem Dev.setTile_rdWord (f t : Nat) (v : Tile) (x : Nat) : (d.setTile f t v).rdWord x = d.rdWord x := (rfl)
@[simp] theorem Dev.setTile_get (f t : Nat) (v : Tile) (x : Fld) : (d.setTile f t v).get x = d.get x := (rfl)
@[simp] theorem Dev.setTile_on (f t : Nat) (v : Tile) (x : Fld) : (d.setTile f t v).on x = d.on x := (rfl)
@[simp] theorem Dev.setTile_bit (f t : Nat) (v : Tile) (x : Fld) (y : Nat) : (d.setTile f t v).bit x y = d.bit x y := (rfl)
@[simp] theorem Dev.setTile_pair (f t : Nat) (v : Tile) (x y : Nat) : (d.setTile f t v).pair x y = d.pair x y := (rfl)
@[simp] theorem Dev.setTile_fld (f t : Nat) (v : Tile) (x : Nat) : (d.setTile f t v).fld x = d.fld x := (rfl)
@[simp] theorem Dev.setTile_mark (f t : Nat) (v : Tile) (x : Nat) : (d.setTile f t v).mark x = d.mark x := (rfl)
@[simp] theorem Dev.setTile_stack (f t : Nat) (v : Tile) (x : Nat) : (d.setTile f t v).stack x = d.stack x := (rfl)
@[simp] theorem Dev.setTile_lane (f t : Nat) (v : Tile) (x : Nat) : (d.setTile f t v).lane x = d.lane x := (rfl)
@[simp] theorem Dev.setTile_link (f t : Nat) (v : Tile) (x : Nat) : (d.setTile f t v).link x = d.link x := (rfl)
@[simp] theorem Dev.setTile_ctx (f t : Nat) (v : Tile) (x : Nat) : (d.setTile f t v).ctx x = d.ctx x := (rfl)
@[simp] theorem Dev.setTile_mb (f t : Nat) (v : Tile) (x : Nat) : (d.setTile f t v).mb x = d.mb x := (rfl)
@[simp] theorem Dev.setTile_core (f t : Nat) (v : Tile) (x : Nat) : (d.setTile f t v).core x = d.core x := (rfl)
@[simp] theorem Dev.setStack_rdWord (m : Nat) (v : Stack) (x : Nat) : (d.setStack m v).rdWord x = d.rdWord x := (rfl)
@[simp] theorem Dev.setStack_get (m : Nat) (v : Stack) (x : Fld) : (d.setStack m v).get x = d.get x := (rfl)
@[simp] theorem Dev.setStack_on (m : Nat) (v : Stack) (x : Fld) : (d.setStack m v).on x = d.on x := (rfl)
@[simp] theorem Dev.setStack_bit (m : Nat) (v : Stack) (x : Fld) (y : Nat) : (d.setStack m v).bit x y = d.bit x y := (rfl)
@[simp] theorem Dev.setStack_pair (m : Nat) (v : Stack) (x y : Nat) : (d.setStack m v).pair x y = d.pair x y := (rfl)
@[simp] theorem Dev.setStack_fld (m : Nat) (v : Stack) (x : Nat) : (d.setStack m v).fld x = d.fld x := (rfl)
@[simp] theorem Dev.setStack_mark (m : Nat) (v : Stack) (x : Nat) : (d.setStack m v).mark x = d.mark x := (rfl)
@[simp] theorem Dev.setStack_tile (m : Nat) (v : Stack) (x y : Nat) : (d.setStack m v).tile x y = d.tile x y := (rfl)
@[simp] theorem Dev.setStack_lane (m : Nat) (v : Stack) (x : Nat) : (d.setStack m v).lane x = d.lane x := (rfl)
@[simp] theorem Dev.setStack_link (m : Nat) (v : Stack) (x : Nat) : (d.setStack m v).link x = d.link x := (rfl)
@[simp] theorem Dev.setStack_ctx (m : Nat) (v : Stack) (x : Nat) : (d.setStack m v).ctx x = d.ctx x := (rfl)
@[simp] theorem Dev.setStack_mb (m : Nat) (v : Stack) (x : Nat) : (d.setStack m v).mb x = d.mb x := (rfl)
@[simp] theorem Dev.setStack_core (m : Nat) (v : Stack) (x : Nat) : (d.setStack m v).core x = d.core x := (rfl)
@[simp] theorem Dev.setLane_rdWord (n : Nat) (v : Lane) (x : Nat) : (d.setLane n v).rdWord x = d.rdWord x := (rfl)
@[simp] theorem Dev.setLane_get (n : Nat) (v : Lane) (x : Fld) : (d.setLane n v).get x = d.get x := (rfl)
@[simp] theorem Dev.setLane_on (n : Nat) (v : Lane) (x : Fld) : (d.setLane n v).on x = d.on x := (rfl)
@[simp] theorem Dev.setLane_bit (n : Nat) (v : Lane) (x : Fld) (y : Nat) : (d.setLane n v).bit x y = d.bit x y := (rfl)
@[simp] theorem Dev.setLane_pair (n : Nat) (v : Lane) (x y : Nat) : (d.setLane n v).pair x y = d.pair x y := (rfl)
@[simp] theorem Dev.setLane_fld (n : Nat) (v : Lane) (x : Nat) : (d.setLane n v).fld x = d.fld x := (rfl)
@[simp] theorem Dev.setLane_mark (n : Nat) (v : Lane) (x : Nat) : (d.setLane n v).mark x = d.mark x := (rfl)
@[simp] theorem Dev.setLane_tile (n : Nat) (v : Lane) (x y : Nat) : (d.setLane n v).tile x y = d.tile x y := (rfl)
@[simp] theorem Dev.setLane_stack (n : Nat) (v : Lane) (x : Nat) : (d.setLane n v).stack x = d.stack x := (rfl)
@[simp] theorem Dev.setLane_link (n : Nat) (v : Lane) (x : Nat) : (d.setLane n v).link x = d.link x := (rfl)
@[simp] theorem Dev.setLane_ctx (n : Nat) (v : Lane) (x : Nat) : (d.setLane n v).ctx x = d.ctx x := (rfl)
@[simp] theorem Dev.setLane_mb (n : Nat) (v : Lane) (x : Nat) : (d.setLane n v).mb x = d.mb x := (rfl)
@[simp] theorem Dev.setLane_core (n : Nat) (v : Lane) (x : Nat) : (d.setLane n v).core x = d.core x := (rfl)
@[simp] theorem Dev.setLink_rdWord (n : Nat) (v : Link) (x : Nat) : (d.setLink n v).rdWord x = d.rdWord x := (rfl)
@[simp] theorem Dev.setLink_get (n : Nat) (v : Link) (x : Fld) : (d.setLink n v).get x = d.get x := (rfl)
@[simp] theorem Dev.setLink_on (n : Nat) (v : Link) (x : Fld) : (d.setLink n v).on x = d.on x := (rfl)
@[simp] theorem Dev.setLink_bit (n : Nat) (v : Link) (x : Fld) (y : Nat) : (d.setLink n v).bit x y = d.bit x y := (rfl)
@[simp] theorem Dev.setLink_pair (n : Nat) (v : Link) (x y : Nat) : (d.setLink n v).pair x y = d.pair x y := (rfl)
@[simp] theorem Dev.setLink_fld (n : Nat) (v : Link) (x : Nat) : (d.setLink n v).fld x = d.fld x := (rfl)
@[simp] theorem Dev.setLink_mark (n : Nat) (v : Link) (x : Nat) : (d.setLink n v).mark x = d.mark x := (rfl)
@[simp] theorem Dev.setLink_tile (n : Nat) (v : Link) (x y : Nat) : (d.setLink n v).tile x y = d.tile x y := (rfl)
@[simp] theorem Dev.setLink_stack (n : Nat) (v : Link) (x : Nat) : (d.setLink n v).stack x = d.stack x := (rfl)
@[simp] theorem Dev.setLink_lane (n : Nat) (v : Link) (x : Nat) : (d.setLink n v).lane x = d.lane x := (rfl)
@[simp] theorem Dev.setLink_ctx (n : Nat) (v : Link) (x : Nat) : (d.setLink n v).ctx x = d.ctx x := (rfl)
@[simp] theorem Dev.setLink_mb (n : Nat) (v : Link) (x : Nat) : (d.setLink n v).mb x = d.mb x := (rfl)
@[simp] theorem Dev.setLink_core (n : Nat) (v : Link) (x : Nat) : (d.setLink n v).core x = d.core x := (rfl)
@[simp] theorem Dev.setCtx_rdWord (c : Nat) (v : Ctx) (x : Nat) : (d.setCtx c v).rdWord x = d.rdWord x := (rfl)
@[simp] theorem Dev.setCtx_get (c : Nat) (v : Ctx) (x : Fld) : (d.setCtx c v).get x = d.get x := (rfl)
@[simp] theorem Dev.setCtx_on (c : Nat) (v : Ctx) (x : Fld) : (d.setCtx c v).on x = d.on x := (rfl)
@[simp] theorem Dev.setCtx_bit (c : Nat) (v : Ctx) (x : Fld) (y : Nat) : (d.setCtx c v).bit x y = d.bit x y := (rfl)
@[simp] theorem Dev.setCtx_pair (c : Nat) (v : Ctx) (x y : Nat) : (d.setCtx c v).pair x y = d.pair x y := (rfl)
@[simp] theorem Dev.setCtx_fld (c : Nat) (v : Ctx) (x : Nat) : (d.setCtx c v).fld x = d.fld x := (rfl)
@[simp] theorem Dev.setCtx_mark (c : Nat) (v : Ctx) (x : Nat) : (d.setCtx c v).mark x = d.mark x := (rfl)
@[simp] theorem Dev.setCtx_tile (c : Nat) (v : Ctx) (x y : Nat) : (d.setCtx c v).tile x y = d.tile x y := (rfl)
@[simp] theorem Dev.setCtx_stack (c : Nat) (v : Ctx) (x : Nat) : (d.setCtx c v).stack x = d.stack x := (rfl)
@[simp] theorem Dev.setCtx_lane (c : Nat) (v : Ctx) (x : Nat) : (d.setCtx c v).lane x = d.lane x := (rfl)
@[simp] theorem Dev.setCtx_link (c : Nat) (v : Ctx) (x : Nat) : (d.setCtx c v).link x = d.link x := (rfl)
@[simp] theorem Dev.setCtx_mb (c : Nat) (v : Ctx) (x : Nat) : (d.setCtx c v).mb x = d.mb x := (rfl)
@[simp] theorem Dev.setCtx_core (c : Nat) (v : Ctx) (x : Nat) : (d.setCtx c v).core x = d.core x := (rfl)
@[simp] theorem Dev.setMb_rdWord (m : Nat) (v : Mailbox) (x : Nat) : (d.setMb m v).rdWord x = d.rdWord x := (rfl)
@[simp] theorem Dev.setMb_get (m : Nat) (v : Mailbox) (x : Fld) : (d.setMb m v).get x = d.get x := (rfl)
@[simp] theorem Dev.setMb_on (m : Nat) (v : Mailbox) (x : Fld) : (d.setMb m v).on x = d.on x := (rfl)
@[simp] theorem Dev.setMb_bit (m : Nat) (v : Mailbox) (x : Fld) (y : Nat) : (d.setMb m v).bit x y = d.bit x y := (rfl)
@[simp] theorem Dev.setMb_pair (m : Nat) (v : Mailbox) (x y : Nat) : (d.setMb m v).pair x y = d.pair x y := (rfl)
@[simp] theorem Dev.setMb_fld (m : Nat) (v : Mailbox) (x : Nat) : (d.setMb m v).fld x = d.fld x := (rfl)
@[simp] theorem Dev.setMb_mark (m : Nat) (v : Mailbox) (x : Nat) : (d.setMb m v).mark x = d.mark x := (rfl)
@[simp] theorem Dev.setMb_tile (m : Nat) (v : Mailbox) (x y : Nat) : (d.setMb m v).tile x y = d.tile x y := (rfl)
@[simp] theorem Dev.setMb_stack (m : Nat) (v : Mailbox) (x : Nat) : (d.setMb m v).stack x = d.stack x := (rfl)
@[simp] theorem Dev.setMb_lane (m : Nat) (v : Mailbox) (x : Nat) : (d.setMb m v).lane x = d.lane x := (rfl)
@[simp] theorem Dev.setMb_link (m : Nat) (v : Mailbox) (x : Nat) : (d.setMb m v).link x = d.link x := (rfl)
@[simp] theorem Dev.setMb_ctx (m : Nat) (v : Mailbox) (x : Nat) : (d.setMb m v).ctx x = d.ctx x := (rfl)
@[simp] theorem Dev.setMb_core (m : Nat) (v : Mailbox) (x : Nat) : (d.setMb m v).core x = d.core x := (rfl)
@[simp] theorem Dev.setBudget_rdWord (i : Nat) (v : Budget) (x : Nat) : (d.setBudget i v).rdWord x = d.rdWord x := (rfl)
@[simp] theorem Dev.setBudget_get (i : Nat) (v : Budget) (x : Fld) : (d.setBudget i v).get x = d.get x := (rfl)
@[simp] theorem Dev.setBudget_on (i : Nat) (v : Budget) (x : Fld) : (d.setBudget i v).on x = d.on x := (rfl)
@[simp] theorem Dev.setBudget_bit (i : Nat) (v : Budget) (x : Fld) (y : Nat) : (d.setBudget i v).bit x y = d.bit x y := (rfl)
@[simp] theorem Dev.setBudget_pair (i : Nat) (v : Budget) (x y : Nat) : (d.setBudget i v).pair x y = d.pair x y := (rfl)
@[simp] theorem Dev.setBudget_fld (i : Nat) (v : Budget) (x : Nat) : (d.setBudget i v).fld x = d.fld x := (rfl)
@[simp] theorem Dev.setBudget_mark (i : Nat) (v : Budget) (x : Nat) : (d.setBudget i v).mark x = d.mark x := (rfl)
@[simp] theorem Dev.setBudget_tile (i : Nat) (v : Budget) (x y : Nat) : (d.setBudget i v).tile x y = d.tile x y := (rfl)
@[simp] theorem Dev.setBudget_stack (i : Nat) (v : Budget) (x : Nat) : (d.setBudget i v).stack x = d.stack x := (rfl)
@[simp] theorem Dev.setBudget_lane (i : Nat) (v : Budget) (x : Nat) : (d.setBudget i v).lane x = d.lane x := (rfl)
@[simp] theorem Dev.setBudget_link (i : Nat) (v : Budget) (x : Nat) : (d.setBudget i v).link x = d.link x := (rfl)
@[simp] theorem Dev.setBudget_ctx (i : Nat) (v : Budget) (x : Nat) : (d.setBudget i v).ctx x = d.ctx x := (rfl)
@[simp] theorem Dev.setBudget_mb (i : Nat) (v : Budget) (x : Nat) : (d.setBudget i v).mb x = d.mb x := (rfl)
@[simp] theorem Dev.setBudget_core (i : Nat) (v : Budget) (x : Nat) : (d.setBudget i v).core x = d.core x := (rfl)
@[simp] theorem Dev.setCore_rdWord (c : Nat) (v : CoreState) (x : Nat) : (d.setCore c v).rdWord x = d.rdWord x := (rfl)
@[simp] theorem Dev.setCore_get (c : Nat) (v : CoreState) (x : Fld) : (d.setCore c v).get x = d.get x := (rfl)
@[simp] theorem Dev.setCore_on (c : Nat) (v : CoreState) (x : Fld) : (d.setCore c v).on x = d.on x := (rfl)
@[simp] theorem Dev.setCore_bit (c : Nat) (v : CoreState) (x : Fld) (y : Nat) : (d.setCore c v).bit x y = d.bit x y := (rfl)
@[simp] theorem Dev.setCore_pair (c : Nat) (v : CoreState) (x y : Nat) : (d.setCore c v).pair x y = d.pair x y := (rfl)
@[simp] theorem Dev.setCore_fld (c : Nat) (v : CoreState) (x : Nat) : (d.setCore c v).fld x = d.fld x := (rfl)
@[simp] theorem Dev.setCore_mark (c : Nat) (v : CoreState) (x : Nat) : (d.setCore c v).mark x = d.mark x := (rfl)
@[simp] theorem Dev.setCore_tile (c : Nat) (v : CoreState) (x y : Nat) : (d.setCore c v).tile x y = d.tile x y := (rfl)
@[simp] theorem Dev.setCore_stack (c : Nat) (v : CoreState) (x : Nat) : (d.setCore c v).stack x = d.stack x := (rfl)
@[simp] theorem Dev.setCore_lane (c : Nat) (v : CoreState) (x : Nat) : (d.setCore c v).lane x = d.lane x := (rfl)
@[simp] theorem Dev.setCore_link (c : Nat) (v : CoreState) (x : Nat) : (d.setCore c v).link x = d.link x := (rfl)
@[simp] theorem Dev.setCore_ctx (c : Nat) (v : CoreState) (x : Nat) : (d.setCore c v).ctx x = d.ctx x := (rfl)
@[simp] theorem Dev.setCore_mb (c : Nat) (v : CoreState) (x : Nat) : (d.setCore c v).mb x = d.mb x := (rfl)
@[simp] theorem Dev.setLatSide_rdWord (b j : Nat) (v : LatLink) (x : Nat) : (d.setLatSide b j v).rdWord x = d.rdWord x := (rfl)
@[simp] theorem Dev.setLatSide_get (b j : Nat) (v : LatLink) (x : Fld) : (d.setLatSide b j v).get x = d.get x := (rfl)
@[simp] theorem Dev.setLatSide_on (b j : Nat) (v : LatLink) (x : Fld) : (d.setLatSide b j v).on x = d.on x := (rfl)
@[simp] theorem Dev.setLatSide_bit (b j : Nat) (v : LatLink) (x : Fld) (y : Nat) : (d.setLatSide b j v).bit x y = d.bit x y := (rfl)
@[simp] theorem Dev.setLatSide_pair (b j : Nat) (v : LatLink) (x y : Nat) : (d.setLatSide b j v).pair x y = d.pair x y := (rfl)
@[simp] theorem Dev.setLatSide_fld (b j : Nat) (v : LatLink) (x : Nat) : (d.setLatSide b j v).fld x = d.fld x := (rfl)
@[simp] theorem Dev.setLatSide_mark (b j : Nat) (v : LatLink) (x : Nat) : (d.setLatSide b j v).mark x = d.mark x := (rfl)
@[simp] theorem Dev.setLatSide_tile (b j : Nat) (v : LatLink) (x y : Nat) : (d.setLatSide b j v).tile x y = d.tile x y := (rfl)
@[simp] theorem Dev.setLatSide_stack (b j : Nat) (v : LatLink) (x : Nat) : (d.setLatSide b j v).stack x = d.stack x := (rfl)
@[simp] theorem Dev.setLatSide_lane (b j : Nat) (v : LatLink) (x : Nat) : (d.setLatSide b j v).lane x = d.lane x := (rfl)
@[simp] theorem Dev.setLatSide_link (b j : Nat) (v : LatLink) (x : Nat) : (d.setLatSide b j v).link x = d.link x := (rfl)
@[simp] theorem Dev.setLatSide_ctx (b j : Nat) (v : LatLink) (x : Nat) : (d.setLatSide b j v).ctx x = d.ctx x := (rfl)
@[simp] theorem Dev.setLatSide_mb (b j : Nat) (v : LatLink) (x : Nat) : (d.setLatSide b j v).mb x = d.mb x := (rfl)
@[simp] theorem Dev.setLatSide_core (b j : Nat) (v : LatLink) (x : Nat) : (d.setLatSide b j v).core x = d.core x := (rfl)

/-! ### What they put -/

@[simp] theorem Dev.setFld_fld (f : Nat) (v : FieldDyn) : (d.setFld f v).fld f = v := SMap.get_put_self _ _ _ _
theorem Dev.setFld_fld_ne (f : Nat) (v : FieldDyn) {g : Nat} (h : g ≠ f) : (d.setFld f v).fld g = d.fld g :=
  SMap.get_put_ne _ _ _ _ h
@[simp] theorem Dev.modPac_pac (g : Pacer → Pacer) : (d.modPac g).pac = g d.pac := (rfl)
@[simp] theorem Dev.modFab_fab (g : Fabric → Fabric) : (d.modFab g).fab = g d.fab := (rfl)
@[simp] theorem Dev.spend_free : d.spend.free = d.free + 1 := (rfl)
@[simp] theorem Dev.setMark_mark (a : Nat) (m : Mark) : (d.setMark a m).mark a = m := SMap.get_put_self _ _ _ _
@[simp] theorem Dev.setTile_tile (f t : Nat) (v : Tile) : (d.setTile f t v).tile f t = v := SMap.get_put_self _ _ _ _
@[simp] theorem Dev.setStack_stack (m : Nat) (v : Stack) : (d.setStack m v).stack m = v := SMap.get_put_self _ _ _ _
@[simp] theorem Dev.setLane_lane (n : Nat) (v : Lane) : (d.setLane n v).lane n = v := SMap.get_put_self _ _ _ _
@[simp] theorem Dev.setLink_link (n : Nat) (v : Link) : (d.setLink n v).link n = v := SMap.get_put_self _ _ _ _
@[simp] theorem Dev.setCtx_ctx (c : Nat) (v : Ctx) : (d.setCtx c v).ctx c = v := SMap.get_put_self _ _ _ _
@[simp] theorem Dev.setMb_mb (m : Nat) (v : Mailbox) : (d.setMb m v).mb m = v := SMap.get_put_self _ _ _ _
@[simp] theorem Dev.setCore_core (c : Nat) (v : CoreState) : (d.setCore c v).core c = v := SMap.get_put_self _ _ _ _

end Sys2Proof.Machine
end

