-- ==== Sys2Proof/Laws/Access.lean ====
section
/-! SUPPORT. What a command does: the three ways of Machine/Act.lean, and what a register access that passes its checks
does. -/

namespace Sys2Proof.Machine

/-! ### The ways in which a command acts -/

/-- Out of reset a command acts on the device alone. -/
theorem State.onDev_live {s : State} (h : s.live = true) (act : Fuses → Dev → Dev) :
    s.onDev act = .next (s.withDev (act s.fuses s.dev)) := by
  have h : s.dev.inReset = false := by simpa [State.live] using h
  simp [State.onDev, State.withDev, h]

/-- In reset it does nothing. -/
theorem State.onDev_reset {s : State} (h : s.live = false) (act : Fuses → Dev → Dev) : s.onDev act = .next s := by
  have h : s.dev.inReset = true := by simpa [State.live] using h
  simp [State.onDev, h]

theorem State.live_iff (s : State) : s.live = true ↔ s.dev.pwr.porst = true ∧ s.dev.pwr.sysrst = true := by
  simp [State.live, Dev.inReset]

@[simp] theorem State.withDev_dev (s : State) (d : Dev) : (s.withDev d).dev = d := (rfl)
@[simp] theorem State.withDev_fuses (s : State) (d : Dev) : (s.withDev d).fuses = s.fuses := (rfl)
@[simp] theorem State.withDev_pending (s : State) (d : Dev) : (s.withDev d).pending = s.pending := (rfl)

/-- Whatever a command of the device does, it answers a next state with the fuses and the queue as they were. -/
theorem State.onDev_next (s : State) (act : Fuses → Dev → Dev) :
    ∃ t, s.onDev act = .next t ∧ t.fuses = s.fuses ∧ t.pending = s.pending := by
  cases h : s.live
  · exact ⟨s, State.onDev_reset h act, rfl, rfl⟩
  · exact ⟨_, State.onDev_live h act, rfl, rfl⟩

theorem State.onPorst_next (s : State) (act : Fuses → Dev → Dev) :
    ∃ t, s.onPorst act = .next t ∧ t.fuses = s.fuses ∧ t.pending = s.pending := by
  unfold State.onPorst
  split <;> exact ⟨_, rfl, rfl, rfl⟩

theorem State.always_next (s : State) (act : Fuses → Dev → Dev) :
    ∃ t, s.always act = .next t ∧ t.fuses = s.fuses ∧ t.pending = s.pending := ⟨_, rfl, rfl, rfl⟩

/-! ### Register accesses -/

/-- An aligned write that passes the checks of an access is the write of its register. -/
theorem Dev.regPut_passed {d : Dev} {w : Who} {a : Nat} (fz : Fuses) (v : Word) (h : d.regGate w a = (none, d))
    (ha : a % 4 = 0) : d.regPut fz w a v = d.regWrite fz w a v := by
  have e : a / 4 * 4 = a := by omega
  simp [Dev.regPut, Dev.regAccessWrite, h, e]

/-- What passes: the block is there, the access needs no router of a held B0, the world allows it, and the die is not
held. -/
theorem Dev.regGate_passed {d : Dev} {w : Who} {a : Nat} (h16 : d.heldDie 16 = false) (hb : blockPresent a = true)
    (hw : d.regAllowed a (d.whoSecure w) = true) (hd : d.heldDie (a / 0x1000000) = false) : d.regGate w a = (none, d) := by
  simp [Dev.regGate, h16, hb, hw, hd]

section
variable {d : Dev} {fz : Fuses} {w : Who} {a : Nat} {v : Word}

theorem Dev.regWrite_fab (h : a / 0x10000 % 0x100 = 0x01) :
    d.regWrite fz w a v = d.wrFab (a / 0x1000000) (a % 0x10000) a v := by simp only [Dev.regWrite, h]
theorem Dev.regWrite_pace (h : a / 0x10000 % 0x100 = 0x02) :
    d.regWrite fz w a v = d.wrPace (a % 0x10000) a v := by simp only [Dev.regWrite, h]
theorem Dev.regWrite_bin (h : a / 0x10000 % 0x100 = 0x03) :
    d.regWrite fz w a v = d.wrBin (a % 0x10000) a v := by simp only [Dev.regWrite, h]
theorem Dev.regWrite_mac (h : a / 0x10000 % 0x100 = 0x04) :
    d.regWrite fz w a v = d.wrMac w (a / 0x1000000) (a % 0x10000) a v := by simp only [Dev.regWrite, h]
theorem Dev.regWrite_noc (h : a / 0x10000 % 0x100 = 0x05) :
    d.regWrite fz w a v = d.wrNoc (a / 0x1000000) (a % 0x10000) a v := by simp only [Dev.regWrite, h]
theorem Dev.regWrite_d2d (h : a / 0x10000 % 0x100 = 0x06) :
    d.regWrite fz w a v = d.wrD2d (a / 0x1000000) (a % 0x10000) a v := by simp only [Dev.regWrite, h]
theorem Dev.regWrite_rcache (h : a / 0x10000 % 0x100 = 0x07) (ho : a % 0x10000 = 0) (hd : a / 0x1000000 ≤ 11) :
    d.regWrite fz w a v = d.rcacheCtl (a / 0x1000000) v := by simp [Dev.regWrite, h, ho, hd]
theorem Dev.regWrite_hbm (h : a / 0x10000 % 0x100 = 0x08) :
    d.regWrite fz w a v = d.wrHbm (a / 0x1000000) (a % 0x10000) a v := by simp only [Dev.regWrite, h]
theorem Dev.regWrite_memsec (h : a / 0x10000 % 0x100 = 0x09) :
    d.regWrite fz w a v = d.wrMemsec (a / 0x1000000) (a % 0x10000) a v := by simp only [Dev.regWrite, h]
theorem Dev.regWrite_lane (h : a / 0x10000 % 0x100 = 0x0A) :
    d.regWrite fz w a v = d.wrLane (a / 0x1000000) (a % 0x10000) a v := by simp only [Dev.regWrite, h]
theorem Dev.regWrite_lch (h : a / 0x10000 % 0x100 = 0x0B) :
    d.regWrite fz w a v = d.wrLch (a / 0x1000000) (a % 0x10000) a v := by simp only [Dev.regWrite, h]
theorem Dev.regWrite_cfgCtl : d.regWrite fz w Reg.CFG_CTL v = d.cfgCtl v := rfl
theorem Dev.regWrite_glean (h : a / 0x10000 % 0x100 = 0x0D) :
    d.regWrite fz w a v = d.wrGlean (a / 0x1000000) (a % 0x10000) a v := by simp only [Dev.regWrite, h]
theorem Dev.regWrite_err (h : a / 0x10000 % 0x100 = 0x0F) :
    d.regWrite fz w a v = d.wrErr (a / 0x1000000) (a % 0x10000) a v := by simp only [Dev.regWrite, h]
theorem Dev.regWrite_pwr (h : a / 0x10000 % 0x100 = 0x11) :
    d.regWrite fz w a v =
      if a / 0x1000000 = 32 then d.wrPkgPwr (a % 0x10000) a v else d.wrDiePwr (a / 0x1000000) (a % 0x10000) a v := by
  simp only [Dev.regWrite, h]
theorem Dev.regWrite_clk (h : a / 0x10000 % 0x100 = 0x12) :
    d.regWrite fz w a v = d.wrClk (a / 0x1000000) (a % 0x10000) a v := by simp only [Dev.regWrite, h]
theorem Dev.regWrite_sec (h : a / 0x10000 % 0x100 = 0x13) :
    d.regWrite fz w a v = d.wrSec fz w (a % 0x10000) a v := by simp only [Dev.regWrite, h]
theorem Dev.regWrite_lc (h : a / 0x10000 % 0x100 = 0x14) :
    d.regWrite fz w a v = d.wrLc fz (a % 0x10000) a v := by simp only [Dev.regWrite, h]
theorem Dev.regWrite_sp (h : a / 0x10000 % 0x100 = 0x16) :
    d.regWrite fz w a v = d.wrSp w (a % 0x10000) a v := by simp only [Dev.regWrite, h]
theorem Dev.regWrite_sio (h : a / 0x10000 % 0x100 = 0x18) :
    d.regWrite fz w a v = d.wrSio (a % 0x10000) a v := by simp only [Dev.regWrite, h]

end

/-- A register-writing command of an initiator, once the device lets its access through. -/
theorem State.onDev_regPut {s : State} {w : Who} {a : Nat} (v : Dev → Word) (h : s.reaches w a) (ha : a % 4 = 0) :
    s.onDev (fun fz d => d.regPut fz w a (v d)) = .next (s.withDev (s.dev.regWrite s.fuses w a (v s.dev))) := by
  rw [State.onDev_live h.1, Dev.regPut_passed _ _ h.2 ha]

end Sys2Proof.Machine
end

