-- ==== Sys2Proof/Laws/Each.lean ====
section
/-! SUPPORT. What a list of actions leaves alone: whatever each of them does. -/

namespace Sys2Proof.Machine

/-- What every action of a list keeps, the list keeps. -/
theorem each_keeps {α β : Type} (p : Dev → β) (f : α → Dev → Dev) (l : List α) (h : ∀ x ∈ l, ∀ d, p (f x d) = p d) :
    ∀ d, p (each l f d) = p d := by
  induction l with
  | nil => intro d; rfl
  | cons x r ih =>
    intro d
    show p (each r f (f x d)) = p d
    rw [ih (fun y hy => h y (by simp [hy])), h x (by simp)]

/-- What every action of a list keeps true, the list keeps true. -/
theorem each_invariant {α : Type} (P : Dev → Prop) (f : α → Dev → Dev) (l : List α) (h : ∀ x ∈ l, ∀ d, P d → P (f x d)) :
    ∀ d, P d → P (each l f d) := by
  induction l with
  | nil => intro d hd; exact hd
  | cons x r ih => intro d hd; exact ih (fun y hy => h y (by simp [hy])) _ (h x (by simp) d hd)

/-- What an action makes true and later ones keep true holds after the list. -/
theorem each_reaches {α : Type} (P : Dev → Prop) (f : α → Dev → Dev) {l : List α} {x : α} (hx : x ∈ l)
    (hm : ∀ d, P (f x d)) (hk : ∀ y ∈ l, ∀ d, P d → P (f y d)) (d : Dev) : P (each l f d) := by
  induction l generalizing d with
  | nil => simp at hx
  | cons y r ih =>
    show P (each r f (f y d))
    rcases List.mem_cons.mp hx with rfl | hx
    · exact each_invariant P f r (fun z hz => hk z (by simp [hz])) _ (hm d)
    · exact ih hx (fun z hz => hk z (by simp [hz])) _

end Sys2Proof.Machine
end

