-- ==== Sys2Proof/Laws/Exec.lean ====
section
/-! SUPPORT. What any command can do, said once: it acts on the device in one of the three ways of Machine/Act.lean, or is a
register write, or is the end of a fuse's blowing. -/

namespace Sys2Proof.Machine

/-- The way in which each command acts. -/
theorem exec_shape (c : Instr) :
    (∃ act, ∀ s : State, exec c s = s.onDev act) ∨ (∃ act, ∀ s : State, exec c s = s.onPorst act) ∨
      (∃ act, ∀ s : State, exec c s = s.always act) ∨ (∃ who a v, c = .registerWrite who a v) ∨
      (∃ ok, c = .fuseBlowDone ok) := by
  cases c
  case registerWrite who a v => exact .inr (.inr (.inr (.inl ⟨who, a, v, rfl⟩)))
  case fuseBlowDone ok => exact .inr (.inr (.inr (.inr ⟨ok, rfl⟩)))
  all_goals
    first
    | exact .inl ⟨_, fun _ => by delta exec; rfl⟩
    | exact .inr (.inl ⟨_, fun _ => by delta exec; rfl⟩)
    | exact .inr (.inr (.inl ⟨_, fun _ => by delta exec; rfl⟩))

/-- A register write: nothing in reset, a fault at an address that is not a multiple of 4, else the write by the host to BAR0 or
by an initiator to a register. -/
theorem exec_registerWrite (who : Who) (a : BitVec 33) (v : Word) (s : State) (h : s.live = true) :
    exec (.registerWrite who a v) s =
      if a.toNat % 4 ≠ 0 then .fault .unguaranteed
      else if 2 ^ 32 ≤ a.toNat then
        .next (s.withDev (if who = .host then s.dev.barWrite (a.toNat - 2 ^ 32) v else s.dev))
      else .next (s.withDev (s.dev.regPut s.fuses who a.toNat v)) := by
  have h' : s.dev.inReset = false := by simpa [State.live] using h
  simp only [exec, execRegisterWrite, h', State.onDev_live h]
  rfl

/-- The end of a fuse's blowing. -/
theorem exec_fuseBlowDone (ok : Bool) (s : State) (h : s.live = true) :
    exec (.fuseBlowDone ok) s =
      .next { s with fuses := s.dev.fuseBlown s.fuses ok, dev := s.dev.fuseNext (s.dev.fuseBlown s.fuses ok) ok } := by
  have h' : s.dev.inReset = false := by simpa [State.live] using h
  simp only [exec, execFuseBlowDone, h']
  rfl

end Sys2Proof.Machine
end

