-- ==== Sys2Proof/Laws/Firmware.lean ====
section
/-! SUPPORT. How a firmware command at the head of its ring runs (chapter 12): one lemma for each way a command is answered. -/

namespace Sys2Proof.Machine

/-- A short command whose check passes and whose body answers completes at once with that answer. -/
theorem short_ok {d : Dev} {fz : Fuses} {m op : Nat} {x : Desc} {body : Desc → Dev → Except Dev Ans} {a : Ans}
    (h1 : d.urgentFirst.nextCmd fz m op = some x) (h2 : d.urgentFirst.cmdGate fz m x = none) (h3 : body x d.urgentFirst = .ok a) :
    d.short fz m op body = (a.dev.takeCmd m).finish m x a.st a.r a.unit 0 := by
  unfold Dev.short; dsimp only; rw [h1]; dsimp only; rw [h2]; dsimp only; rw [h3]
/-- A long command whose check passes starts the job its body gives. -/
theorem long_ok {d : Dev} {fz : Fuses} {m op : Nat} {x : Desc} {body : Desc → Dev → Except Dev (Job × Dev)} {j : Job} {e : Dev}
    (h1 : d.urgentFirst.nextCmd fz m op = some x) (h2 : d.urgentFirst.cmdGate fz m x = none) (h3 : body x d.urgentFirst = .ok (j, e)) :
    d.long fz m op body = e.startJob fz m j := by
  unfold Dev.long; dsimp only; rw [h1]; dsimp only; rw [h2]; dsimp only; rw [h3]
/-- No urgent interrupt waits, and no core looks at one first (R410). -/
theorem urgentFirst_none {d : Dev} (h : d.urgentIrq = 0) : d.urgentFirst = d := by
  unfold Dev.urgentFirst; rw [if_pos h]
/-- A command of either kind runs as the short one where its descriptor is short … -/
theorem either_short {d : Dev} {fz : Fuses} {m op : Nat} {x : Desc} {body : Desc → Dev → Except Dev Ans}
    (h0 : d.urgentIrq = 0) (h1 : d.nextCmd fz m op = some x) (h2 : x.long = false) :
    d.either fz m op body = d.short fz m op body := by
  unfold Dev.either; dsimp only; rw [urgentFirst_none h0, h1]; dsimp only; rw [if_neg (by simp [h2])]
/-- … and as the long one where it is long. -/
theorem either_long {d : Dev} {fz : Fuses} {m op : Nat} {x : Desc} {body : Desc → Dev → Except Dev Ans}
    (h0 : d.urgentIrq = 0) (h1 : d.nextCmd fz m op = some x) (h2 : x.long = true) (h3 : x.busy = false) :
    d.either fz m op body = d.long fz m op (fun x d => (body x d).map (fun a =>
      ({ desc := x, status := a.st, r := a.r, unitKind := a.unit, wait := a.wait }, a.dev))) := by
  unfold Dev.either; dsimp only; rw [urgentFirst_none h0, h1]; dsimp only; rw [if_pos (by simp [h2, h3])]

end Sys2Proof.Machine
end

