-- ==== Sys2Proof/Laws/Frames.lean ====
section
/-! SUPPORT. Frames of the shared operations: which ones change nothing but registers, or nothing but the error blocks. A chain
of operations composes with `trans`; the field lemmas then give what each field holds. -/

namespace Sys2Proof.Machine

/-- Nothing but registers differs. -/
def RegsOnly (d e : Dev) : Prop := e = { d with regs := e.regs }

/-- Nothing but the records of the error blocks differs. -/
def ErrsOnly (d e : Dev) : Prop := e = { d with errs := e.errs, errIrq := e.errIrq }

theorem RegsOnly.refl (d : Dev) : RegsOnly d d := (rfl)
theorem RegsOnly.trans {d e f : Dev} (h : RegsOnly d e) (k : RegsOnly e f) : RegsOnly d f := by
  unfold RegsOnly at *; rw [k, h]

/-- Registers alone: any word of `regs` may have changed. -/
theorem RegsOnly.of (d : Dev) (r : SMap Word) : RegsOnly d { d with regs := r } := (rfl)

theorem RegsOnly.set (d : Dev) (f : Fld) (v : Nat) : RegsOnly d (d.set f v) := (rfl)
theorem RegsOnly.wrWord (d : Dev) (a : Nat) (v : Word) : RegsOnly d (d.wrWord a v) := (rfl)
theorem RegsOnly.setPair (d : Dev) (lo hi v : Nat) : RegsOnly d (d.setPair lo hi v) := (rfl)
theorem RegsOnly.setBit (d : Dev) (f : Fld) (i : Nat) (b : Bool) : RegsOnly d (d.setBit f i b) := (rfl)
theorem RegsOnly.bump (d : Dev) (f : Fld) (n : Nat) : RegsOnly d (d.bump f n) := (rfl)
theorem RegsOnly.wrap (d : Dev) (f : Fld) (n : Nat) : RegsOnly d (d.wrap f n) := (rfl)

theorem RegsOnly.plainWrite (d : Dev) (a : Nat) (v : Word) : RegsOnly d (d.plainWrite a v) := by
  unfold Dev.plainWrite
  split
  · exact .refl _
  · exact .wrWord _ _ _

theorem RegsOnly.each {α : Type} (f : α → Dev → Dev) (hf : ∀ x d, RegsOnly d (f x d)) : ∀ (l : List α) (d : Dev), RegsOnly d (each l f d)
  | [], d => .refl d
  | x :: l, d => (hf x d).trans (RegsOnly.each f hf l (f x d))

theorem RegsOnly.statInject (d : Dev) (sel i : Nat) : RegsOnly d (d.statInject sel i) := by
  unfold Dev.statInject
  dsimp only
  split
  · exact (RegsOnly.set _ _ _).trans (.set _ _ _)
  · exact .set _ _ _

theorem RegsOnly.statEnd (d : Dev) (sel i n ns : Nat) : RegsOnly d (d.statEnd sel i n ns) := by
  unfold Dev.statEnd
  dsimp only
  split
  · exact .set _ _ _
  · exact (RegsOnly.set _ _ _).trans ((RegsOnly.setPair _ _ _ _).trans ((RegsOnly.setPair _ _ _ _).trans (.bump _ _ _)))

theorem RegsOnly.statClear (d : Dev) (sel i : Nat) : RegsOnly d (d.statClear sel i) := by
  unfold Dev.statClear
  dsimp only
  exact (RegsOnly.setPair _ _ _ _).trans ((RegsOnly.setPair _ _ _ _).trans ((RegsOnly.set _ _ _).trans
    (RegsOnly.each _ (fun j e => .wrWord e _ _) _ _)))

theorem RegsOnly.setLat (d : Dev) (l st : Nat) : RegsOnly d (d.setLat l st) :=
  RegsOnly.each _ (fun _ e => .set e _ _) _ _

theorem RegsOnly.vertSet (d : Dev) (c : Nat) (r : Bool) : RegsOnly d (d.vertSet c r) :=
  RegsOnly.each _ (fun _ e => .setBit e _ _ _) _ _

theorem RegsOnly.bridgeHoldBegin (d : Dev) (c : Nat) : RegsOnly d (d.bridgeHoldBegin c) := by
  unfold Dev.bridgeHoldBegin
  split
  · exact .refl _
  · refine RegsOnly.each _ (fun dir e => ?_) _ _
    cases dieNeighbor c dir with
    | none => exact .refl _
    | some n =>
      dsimp only
      split
      · exact .set _ _ _
      · exact .refl _

theorem RegsOnly.bridgesAtRest (d : Dev) : RegsOnly d d.bridgesAtRest := by
  unfold Dev.bridgesAtRest
  split
  · exact .refl _
  · refine RegsOnly.trans (RegsOnly.each _ (fun c e => RegsOnly.each _ (fun dir e => ?_) _ _) _ _)
      (RegsOnly.each _ (fun c e => .bridgeHoldBegin e c) _ _)
    cases dieNeighbor c dir with
    | none => exact .refl _
    | some n =>
      dsimp only
      split
      · exact .set _ _ _
      · exact .refl _

section
variable {d e : Dev}
theorem RegsOnly.mem (h : RegsOnly d e) : e.mem = d.mem := by rw [h]
theorem RegsOnly.noc (h : RegsOnly d e) : e.noc = d.noc := by rw [h]
theorem RegsOnly.rc (h : RegsOnly d e) : e.rc = d.rc := by rw [h]
theorem RegsOnly.lat (h : RegsOnly d e) : e.lat = d.lat := by rw [h]
theorem RegsOnly.pac (h : RegsOnly d e) : e.pac = d.pac := by rw [h]
theorem RegsOnly.pwr (h : RegsOnly d e) : e.pwr = d.pwr := by rw [h]
theorem RegsOnly.sec (h : RegsOnly d e) : e.sec = d.sec := by rw [h]
theorem RegsOnly.stk (h : RegsOnly d e) : e.stk = d.stk := by rw [h]
theorem RegsOnly.errs (h : RegsOnly d e) : e.errs = d.errs := by rw [h]
theorem RegsOnly.lanes (h : RegsOnly d e) : e.lanes = d.lanes := by rw [h]
theorem RegsOnly.links (h : RegsOnly d e) : e.links = d.links := by rw [h]
theorem RegsOnly.cfg (h : RegsOnly d e) : e.cfg = d.cfg := by rw [h]
theorem RegsOnly.dbg (h : RegsOnly d e) : e.dbg = d.dbg := by rw [h]
end

theorem ErrsOnly.refl (d : Dev) : ErrsOnly d d := (rfl)
theorem ErrsOnly.trans {d e f : Dev} (h : ErrsOnly d e) (k : ErrsOnly e f) : ErrsOnly d f := by
  unfold ErrsOnly at *; rw [k, h]

theorem ErrsOnly.report (d : Dev) (r : ErrRec) : ErrsOnly d (d.report r) := (rfl)
theorem ErrsOnly.err (d : Dev) (die unit sev cls : Nat) : ErrsOnly d (d.err die unit sev cls) := (rfl)
theorem ErrsOnly.errAt (d : Dev) (die unit sev cls a syn info : Nat) : ErrsOnly d (d.errAt die unit sev cls a syn info) := (rfl)
theorem ErrsOnly.routeError (d : Dev) (sel unit : Nat) : ErrsOnly d (d.routeError sel unit) := (rfl)

section
variable {d e : Dev}
theorem ErrsOnly.regs (h : ErrsOnly d e) : e.regs = d.regs := by rw [h]
theorem ErrsOnly.mem (h : ErrsOnly d e) : e.mem = d.mem := by rw [h]
theorem ErrsOnly.noc (h : ErrsOnly d e) : e.noc = d.noc := by rw [h]
theorem ErrsOnly.rc (h : ErrsOnly d e) : e.rc = d.rc := by rw [h]
theorem ErrsOnly.lat (h : ErrsOnly d e) : e.lat = d.lat := by rw [h]
theorem ErrsOnly.pac (h : ErrsOnly d e) : e.pac = d.pac := by rw [h]
theorem ErrsOnly.pwr (h : ErrsOnly d e) : e.pwr = d.pwr := by rw [h]
theorem ErrsOnly.sec (h : ErrsOnly d e) : e.sec = d.sec := by rw [h]
theorem ErrsOnly.stk (h : ErrsOnly d e) : e.stk = d.stk := by rw [h]
theorem ErrsOnly.cfg (h : ErrsOnly d e) : e.cfg = d.cfg := by rw [h]
end

/-- What an answer adds. -/
theorem Dev.deliver_noc (d : Dev) (p : Packet) : (d.deliver p).noc = { d.noc with delivered := d.noc.delivered ++ [p] } := (rfl)
theorem Dev.deliver_mem (d : Dev) (p : Packet) : (d.deliver p).mem = d.mem := (rfl)
theorem Dev.deliver_errs (d : Dev) (p : Packet) : (d.deliver p).errs = d.errs := (rfl)

/-- A request that ends: what was outstanding under its node and tag is so no longer, and the answer is delivered (R199). -/
theorem Dev.finishOne_noc {d : Dev} {p : Packet} {o : OutReq} (h : d.reqOf p.dst p.tag = some o) :
    (d.finishOne p).noc = { d.noc with outstanding := d.noc.outstanding.erase o, delivered := d.noc.delivered ++ [p] } := by
  unfold Dev.finishOne
  rw [h]
  show ((d.endReq o).deliver p).noc = _
  rw [Dev.deliver_noc]
  unfold Dev.endReq
  rw [(RegsOnly.statEnd _ _ _ _ _).noc]

theorem Dev.finishOne_mem {d : Dev} {p : Packet} {o : OutReq} (h : d.reqOf p.dst p.tag = some o) : (d.finishOne p).mem = d.mem := by
  unfold Dev.finishOne
  rw [h]
  show ((d.endReq o).deliver p).mem = _
  rw [Dev.deliver_mem]
  unfold Dev.endReq
  rw [(RegsOnly.statEnd _ _ _ _ _).mem]

/-- A response to no outstanding request changes nothing (R199). -/
theorem Dev.finishReq_none {d : Dev} {p : Packet} (h : d.reqOf p.dst p.tag = none) : d.finishReq p = d := by
  unfold Dev.finishReq
  rw [h]

end Sys2Proof.Machine
end

