-- ==== Sys2Proof/Laws/Waves.lean ====
section
/-! SUPPORT. What the operations of waves and design cycles leave alone. -/

namespace Sys2Proof.Machine

variable (d : Dev)

/-! ### Settling and the end of a wave: the fabric alone -/

/-- Nothing but the fabric differs. -/
def FabOnly (d e : Dev) : Prop := e = { d with fab := e.fab }

theorem FabOnly.refl (d : Dev) : FabOnly d d := (rfl)
theorem FabOnly.trans {d e f : Dev} (h : FabOnly d e) (k : FabOnly e f) : FabOnly d f := by
  unfold FabOnly at *; rw [k, h]
theorem FabOnly.modFab (d : Dev) (g : Fabric → Fabric) : FabOnly d (d.modFab g) := (rfl)
theorem FabOnly.setQ (d : Dev) (k s n : Nat) (v : Bool) : FabOnly d (d.setQ k s n v) := (rfl)
theorem FabOnly.setLevel (d : Dev) (k s m : Nat) (v : Bool) : FabOnly d (d.setLevel k s m v) := (rfl)

theorem FabOnly.each {α : Type} (f : α → Dev → Dev) (hf : ∀ x d, FabOnly d (f x d)) : ∀ (l : List α) (d : Dev), FabOnly d (each l f d)
  | [], d => .refl d
  | x :: l, d => (hf x d).trans (FabOnly.each f hf l (f x d))

section
variable {d e : Dev}
theorem FabOnly.flds (h : FabOnly d e) : e.flds = d.flds := by rw [h]
theorem FabOnly.regs (h : FabOnly d e) : e.regs = d.regs := by rw [h]
theorem FabOnly.mem (h : FabOnly d e) : e.mem = d.mem := by rw [h]
theorem FabOnly.pac (h : FabOnly d e) : e.pac = d.pac := by rw [h]
theorem FabOnly.pwr (h : FabOnly d e) : e.pwr = d.pwr := by rw [h]
theorem FabOnly.tiles (h : FabOnly d e) : e.tiles = d.tiles := by rw [h]
end

theorem mcAfterChange_fab (old : Dev) (k s n : Nat) (d : Dev) : FabOnly d (mcAfterChange old k s n d) := by
  unfold mcAfterChange Dev.endKept
  dsimp only
  repeat' split
  all_goals first | exact .refl _ | exact .setQ .. | exact .modFab .. | rfl

theorem Dev.changeInput_fab (k s m : Nat) (v : Bool) : FabOnly d (d.changeInput k s m v) :=
  (FabOnly.setLevel d k s m v).trans (FabOnly.each _ (fun n e => mcAfterChange_fab d k s n e) _ _)

/-- Settling changes levels and what the storage elements hold, and nothing beside the fabric. -/
theorem Dev.settle_fab (fs : List Nat) : FabOnly d (d.settle fs) := by
  have key : ∀ (n : Nat) (d : Dev), FabOnly d (d.settleN fs n) := by
    intro n
    induction n with
    | zero => exact fun d => .refl d
    | succ n ih =>
      intro d
      have h : FabOnly d (d.settlePass fs) := FabOnly.each _ (fun x e => e.changeInput_fab _ _ _ _) _ _
      unfold Dev.settleN
      dsimp only
      split
      · exact h
      · exact h.trans (ih _)
  exact key _ d

/-! ### Launch -/

@[simp] theorem Dev.presentStreams_flds (f : Nat) : (d.presentStreams f).flds = d.flds := (rfl)
@[simp] theorem Dev.presentStreams_regs (f : Nat) : (d.presentStreams f).regs = d.regs := (rfl)
@[simp] theorem Dev.presentStreams_mem (f : Nat) : (d.presentStreams f).mem = d.mem := (rfl)
@[simp] theorem Dev.presentStreams_pac (f : Nat) : (d.presentStreams f).pac = d.pac := (rfl)

/-- What a launch presents is outputs: no register, memory, field or pacer state changes. -/
theorem Dev.presentTiles_keeps (f : Nat) :
    (d.presentTiles f).flds = d.flds ∧ (d.presentTiles f).regs = d.regs ∧ (d.presentTiles f).mem = d.mem ∧
    (d.presentTiles f).pac = d.pac ∧ (d.presentTiles f).fab = d.fab := by
  refine ⟨each_keeps (fun d => d.flds) _ _ ?_ d, each_keeps (fun d => d.regs) _ _ ?_ d, each_keeps (fun d => d.mem) _ _ ?_ d,
    each_keeps (fun d => d.pac) _ _ ?_ d, each_keeps (fun d => d.fab) _ _ ?_ d⟩ <;> exact fun _ _ _ => rfl

/-! ### Commit -/

/-- After every field of a list is put before wave 1, each of them is. -/
theorem each_fresh (fs : List Nat) {f : Nat} (hm : f ∈ fs) (d : Dev) :
    let e := each fs (fun f e => e.setFld f (e.fld f).fresh) d
    (e.fld f).wave = 0 ∧ (e.fld f).st = .idle := by
  refine each_reaches (fun d => (d.fld f).wave = 0 ∧ (d.fld f).st = .idle) _ hm (fun d => by simp [FieldDyn.fresh]) ?_ d
  intro y _ d hd
  by_cases e : f = y
  · subst e
    simp [FieldDyn.fresh]
  · simpa [Dev.setFld_fld_ne _ _ _ e] using hd

/-! ### Boundary -/

theorem Dev.tryActs_nil (fz : Fuses) : d.tryActs fz [] = ([], d) := rfl

theorem Dev.bacts_nil (hb : d.bacts = []) : ({ d with bacts := [] } : Dev) = d := by rw [← hb]

/-- With no action waiting the actions of a step do nothing. -/
theorem Dev.actStage_nil (fz : Fuses) (n : Nat) (hb : d.bacts = []) : d.actStage fz n = d := by
  unfold Dev.actStage
  rw [hb]
  simp only [List.filter_nil, Dev.tryActs_nil, List.nil_append]
  exact d.bacts_nil hb

/-- With no action waiting the actions of a boundary do nothing. -/
theorem Dev.runActs_nil (fz : Fuses) (hb : d.bacts = []) : d.runActs fz = d := by
  simp [Dev.runActs, d.actStage_nil fz _ hb, Dev.actsLeft, hb]

/-! ### Release -/

/-- A word that `each` leaves alone when every action does. -/
theorem Dev.rdWord_each {α : Type} (f : α → Dev → Dev) (l : List α) (a : Nat)
    (h : ∀ x ∈ l, ∀ d, (f x d).rdWord a = d.rdWord a) : (each l f d).rdWord a = d.rdWord a :=
  each_keeps (fun d => d.rdWord a) f l h d


/-- Sampling the sideband pins writes SIO_IN and SIO_CNT, and no register below the SIO block. -/
theorem Dev.sioSample_rdWord (u : BitVec 64) {a : Nat} (h : a < 0x20180000) : (d.sioSample u).rdWord a = d.rdWord a := by
  have key : ∀ (l : List Nat) (g : Nat → Nat) (e : Dev),
      (each l (fun n e => e.set ⟨Reg.SIO_CNT (n / 4), 8 * (n % 4), 8⟩ (g n)) e).rdWord a = e.rdWord a := by
    intro l g e
    refine e.rdWord_each _ l a ?_
    intro n _ e
    refine e.rdWord_set_ne _ _ ?_
    simp only [Reg.SIO_CNT]
    omega
  have base : ∀ x, (d.setPair Reg.SIO_IN_LO Reg.SIO_IN_HI x).rdWord a = d.rdWord a := by
    intro x
    refine d.rdWord_setPair_ne x ?_ ?_ <;> simp only [Reg.SIO_IN_LO, Reg.SIO_IN_HI] <;> omega
  unfold Dev.sioSample
  simp only
  split
  · exact (key _ _ _).trans (base _)
  · exact (key _ _ _).trans (base _)

/-- Consuming the synchronous bursts of a cycle writes no register. -/
theorem Dev.syncConsume_rdWord (a : Nat) : d.syncConsume.rdWord a = d.rdWord a := by
  unfold Dev.syncConsume
  split
  · simp
  · refine d.rdWord_each _ _ a ?_
    intro n _ e
    dsimp only
    split <;> simp <;> rfl

theorem Dev.rearmLost_rdWord (a : Nat) : d.rearmLost.rdWord a = d.rdWord a := by
  unfold Dev.rearmLost
  split <;> simp

/-- What shows a cycle in the ledger's status. -/
theorem Dev.showCycle_pairs (t l e : Nat) :
    (d.showCycle t l e).pair Reg.PACE_CYCLE_TIME_LO Reg.PACE_CYCLE_TIME_HI = t % 2 ^ 64 ∧
    (d.showCycle t l e).pair Reg.PACE_CLK_LEVEL0 Reg.PACE_CLK_LEVEL1 = l % 2 ^ 64 ∧
    (d.showCycle t l e).pair Reg.PACE_CLK_EDGE0 Reg.PACE_CLK_EDGE1 = e % 2 ^ 64 ∧
    (d.showCycle t l e).committed = d.committed := by
  unfold Dev.showCycle Dev.committed
  refine ⟨?_, ?_, Dev.pair_setPair _ _ (by decide), ?_⟩
  · rw [Dev.pair_setPair_ne _ _ (by decide) (by decide) (by decide) (by decide),
      Dev.pair_setPair_ne _ _ (by decide) (by decide) (by decide) (by decide), Dev.pair_setPair _ _ (by decide)]
  · rw [Dev.pair_setPair_ne _ _ (by decide) (by decide) (by decide) (by decide), Dev.pair_setPair _ _ (by decide)]
  · rw [Dev.pair_setPair_ne _ _ (by decide) (by decide) (by decide) (by decide),
      Dev.pair_setPair_ne _ _ (by decide) (by decide) (by decide) (by decide),
      Dev.pair_setPair_ne _ _ (by decide) (by decide) (by decide) (by decide)]

end Sys2Proof.Machine
end

