-- ==== Sys2Proof/Laws/Pacer.lean ====
section
/-! SUPPORT. What the pacer's shared operations do: a stop, a refusal, and the host's event. -/

namespace Sys2Proof.Machine

variable (d : Dev)

/-! ### Events for the host -/

/-- An event for the host writes ID_EVENTS and no other register. -/
theorem Dev.hostEvent_rdWord (v : Nat) {a : Nat} (h : a ≠ Reg.ID_EVENTS) : (d.hostEvent v).rdWord a = d.rdWord a := by
  unfold Dev.hostEvent Dev.sendVector
  split
  · split <;> exact d.rdWord_wrWord_ne _ h
  · rfl

theorem Dev.hostEvent_pac (v : Nat) : (d.hostEvent v).pac = d.pac := by
  unfold Dev.hostEvent Dev.sendVector
  split
  · split <;> rfl
  · rfl

/-! ### A stop -/

/-- The timebase takes the correction that is left: PACE_TB_ADJ reads 0, and no other register changes. -/
theorem Dev.applyAdj_rdWord {a : Nat} (h : a ≠ Reg.PACE_TB_ADJ) : d.applyAdj.rdWord a = d.rdWord a := by
  unfold Dev.applyAdj
  simp only
  rw [Dev.rdWord_wrWord_ne _ _ h, Dev.modPac_rdWord]

/-- A stop (R130, R134, R138): the pacer no longer runs and stands at the boundary, the cause shows, the debt is held, and
nothing is left of a STEP. -/
theorem Dev.pacerStop_spec (c : Nat) (hc : c < 16) :
    (d.pacerStop c).running = false ∧ (d.pacerStop c).get Reg.PACE_STATUS_stop_cause = c ∧
    (d.pacerStop c).pac.phase = .boundary ∧ (d.pacerStop c).pac.stepLeft = none ∧ (d.pacerStop c).pac.causes = [] ∧
    (d.pacerStop c).pac.debt = d.debt := by
  have hw : (d.pacerStop c).rdWord Reg.PACE_STATUS =
      ((((d.modPac (fun p => { p with debt := d.debt, stepLeft := none, causes := [], phase := .boundary })).set
        Reg.PACE_STATUS_running 0).set Reg.PACE_STATUS_stop_cause c)).rdWord Reg.PACE_STATUS := by
    unfold Dev.pacerStop
    simp only
    rw [Dev.hostEvent_rdWord _ _ (by decide), Dev.applyAdj_rdWord _ (by decide)]
  have hp : (d.pacerStop c).pac.phase = .boundary ∧ (d.pacerStop c).pac.stepLeft = none ∧ (d.pacerStop c).pac.causes = [] ∧
      (d.pacerStop c).pac.debt = d.debt := by
    unfold Dev.pacerStop
    simp only
    rw [Dev.hostEvent_pac]
    unfold Dev.applyAdj
    simp
  refine ⟨?_, ?_, hp⟩
  · have : (d.pacerStop c).get Reg.PACE_STATUS_running = 0 := by
      refine (Dev.get_congr hw).trans ?_
      rw [Dev.get_set_bits _ _ _ _ (by decide) (by decide), Dev.get_set_self _ _ _ (by decide), Nat.zero_mod]
    simp [Dev.running, Dev.on, this]
  · refine (Dev.get_congr hw).trans ?_
    rw [Dev.get_set_self _ _ _ (by decide)]
    exact Nat.mod_eq_of_lt hc

/-! ### Commands -/

/-- A write of PACE_CMD that passes its checks is the command (Table 4.3). -/
theorem State.onDev_paceCmd {s : State} {who : Who} (v : Word) (h : s.reaches who Reg.PACE_CMD) :
    s.onDev (fun fz d => d.regPut fz who Reg.PACE_CMD v) = .next (s.withDev (s.dev.paceCmd v)) := by
  rw [State.onDev_regPut _ h (by decide), Dev.regWrite_pace (by decide)]
  rfl

theorem Dev.paceCmd_start (atTime : Bool) : d.paceCmd (if atTime then 9 else 1) = d.cmdStart none atTime := by
  have e : bits (if atTime = true then 9 else 1) 0 3 = 1 := by cases atTime <;> decide
  have g : (if atTime = true then 9 else 1 : Word).getLsbD 3 = atTime := by cases atTime <;> decide
  unfold Dev.paceCmd
  rw [e]
  simp only [g]

theorem Dev.paceCmd_step (atTime : Bool) : d.paceCmd (if atTime then 11 else 3) =
    d.cmdStart (some (d.pair Reg.PACE_STEP_COUNT_LO Reg.PACE_STEP_COUNT_HI)) atTime := by
  have e : bits (if atTime = true then 11 else 3) 0 3 = 3 := by cases atTime <;> decide
  have g : (if atTime = true then 11 else 3 : Word).getLsbD 3 = atTime := by cases atTime <;> decide
  unfold Dev.paceCmd
  rw [e]
  simp only [g]

theorem Dev.paceCmd_stop : d.paceCmd 2 = d.cmdStop := by
  have e : bits 2 0 3 = 2 := by decide
  unfold Dev.paceCmd
  rw [e]
  simp only

theorem Dev.paceCmd_arm : d.paceCmd 4 = d.cmdArm := by
  have e : bits 4 0 3 = 4 := by decide
  unfold Dev.paceCmd
  rw [e]
  simp only

theorem Dev.paceCmd_disarm : d.paceCmd 5 = d.cmdDisarm := by
  have e : bits 5 0 3 = 5 := by decide
  unfold Dev.paceCmd
  rw [e]
  simp only

end Sys2Proof.Machine
end

