-- ==== Sys2Proof/Laws/Reset.lean ====
section
/-! SUPPORT. Holding a die in reset (chapter 14): what of the power controller each part of it leaves alone. -/

namespace Sys2Proof.Machine

theorem each_pwr {α : Type} (f : α → Dev → Dev) (hf : ∀ x d, (f x d).pwr = d.pwr) : ∀ (l : List α) (d : Dev), (each l f d).pwr = d.pwr
  | [], _ => rfl
  | x :: l, d => (each_pwr f hf l (f x d)).trans (hf x d)

theorem holdQ_pwr (d : Dev) (f : Nat) : (d.holdQ f).pwr = d.pwr := by
  unfold Dev.holdQ
  refine each_pwr _ (fun _ d => ?_) _ _
  split <;> rfl
theorem leave_pwr (d : Dev) (f : Nat) : (d.leave f).pwr = d.pwr := by
  unfold Dev.leave
  split
  · exact holdQ_pwr d f
  · rfl
theorem initQ_pwr (d : Dev) (f : Nat) : (d.initQ f).pwr = d.pwr := by
  unfold Dev.initQ
  refine (each_pwr _ (fun _ d => ?_) _ _).trans rfl
  dsimp only
  split <;> rfl
theorem binRecheck_pwr (d : Dev) (f k : Nat) : (d.binRecheck f k).pwr = d.pwr := by
  unfold Dev.binRecheck
  refine (each_pwr _ (fun x d => ?_) _ _).trans rfl
  rfl
theorem setBinWord_pwr (d : Dev) (f k : Nat) (w : Word) : (d.setBinWord f k w).pwr = d.pwr := by
  unfold Dev.setBinWord
  dsimp only
  split
  · rfl
  · exact (binRecheck_pwr _ _ _).trans rfl
theorem fieldLost_pwr (d : Dev) (f : Nat) : (d.fieldLost f).pwr = d.pwr := by
  unfold Dev.fieldLost
  refine Eq.trans (b := ((each (List.range 48) (fun k d => d.setBinWord f k 0) ((((d.clearLogic f).dropFixes f).initQ f).clearWires f))).pwr) rfl ?_
  refine (each_pwr _ (fun k d => setBinWord_pwr d f k 0) _ _).trans ?_
  exact (initQ_pwr _ _).trans rfl

theorem holdFields_held (d : Dev) (c : Nat) : (d.holdFields c).pwr.held = d.pwr.held ||| (1#16 <<< c) := by
  have h1 := each_pwr (fun f (d : Dev) => d.leave f) (fun f d => leave_pwr d f) (dieFields c) d
  unfold Dev.holdFields
  generalize each (dieFields c) (fun f d => d.leave f) d = e at *
  rw [← h1]
  exact congrArg Power.held (each_pwr (fun f (d : Dev) => d.fieldLost f) (fun f d => fieldLost_pwr d f) (dieFields c) _)

theorem resetRegs_pwr (d : Dev) (a b : Nat) : (d.resetRegs a b).pwr = d.pwr := rfl
theorem resetDie_pwr (d : Dev) (c : Nat) : (d.resetDie c).pwr = d.pwr := by
  unfold Dev.resetDie
  exact (RegsOnly.wrWord _ _ _).pwr.trans ((RegsOnly.wrWord _ _ _).pwr.trans
    ((resetRegs_pwr _ _ _).trans ((resetRegs_pwr _ _ _).trans (resetRegs_pwr _ _ _))))
theorem tellHomes_pwr (d : Dev) (c : Nat) : (d.tellHomes c).pwr = d.pwr := rfl
theorem dieGone_pwr (d : Dev) (b c : Nat) : (d.dieGone b c).pwr = d.pwr := rfl
theorem rcEmpty_pwr (d : Dev) (c : Nat) : (d.rcEmpty c).pwr = d.pwr := rfl
theorem dropDie_pwr (d : Dev) (c : Nat) : (d.dropDie c).pwr = d.pwr := rfl

theorem alertCheck_pwr (d : Dev) : d.alertCheck.pwr = d.pwr := by
  unfold Dev.alertCheck
  dsimp only
  repeat' split
  all_goals rfl
theorem dropSamples_held (d : Dev) (i : Nat) : (d.dropSamples i).pwr.held = d.pwr.held := by
  unfold Dev.dropSamples
  exact (congrArg Power.held (alertCheck_pwr _)).trans rfl

/-- What holding a compute die does after its fields have left: the power controller's list of held dies stays. -/
theorem holdRest_held (e : Dev) (c : Nat) (w : Word) :
    ((((((((e.resetDie c).wrWord (Reg.PWR_VSET c) w).dropDie c).rcEmpty c).vertSet c false).bridgesAtRest.dieGone (baseOf c) c).tellHomes
      c).dropSamples c).pwr.held = e.pwr.held := by
  rw [dropSamples_held, tellHomes_pwr, dieGone_pwr, (RegsOnly.bridgesAtRest _).pwr, (RegsOnly.vertSet _ _ _).pwr, rcEmpty_pwr,
    dropDie_pwr, Dev.wrWord_pwr, resetDie_pwr]

/-- Holding a compute die adds it to the dies that are held, and no other (R471). -/
theorem holdCompute_held (d : Dev) (c : Nat) : (d.holdCompute c).pwr.held = d.pwr.held ||| (1#16 <<< c) := by
  rw [← holdFields_held]
  exact holdRest_held _ c _

end Sys2Proof.Machine
end

