-- ==== Sys2Proof/Machine/Package.lean ====
section
/-! DEFINITION. The package of chapter 16 of spec/ and what the board gives it: rails and reference inputs (R440, R441, R460), the ball map
(R501 to R507), what the device drives on its pins (R508, R509), ratings and operating conditions (R510, R511), heat (R512) and the outline
(R513). -/

namespace Sys2Proof.Machine

/-! ### Rails (R440, R441, Table 14.1, Table 16.8) -/

/-- The rails of Table 14.1. -/
inductive Rail where
  | vccAux | vccIo | vccFuse | vccBd (b : Fin 4) | vccSram | vccPcie | vccLane | vccLaneHv | vppHbm | vddHbm | vddqHbm
  | vccCd (d : Fin 12)
  deriving DecidableEq, Repr

/-- A rail's nominal voltage in mV; that of a compute die's core is the one that the device has set (R440). -/
def Rail.nominal (set : Fin 12 → Nat) : Rail → Nat
  | .vccAux => 1800
  | .vccIo => 1800
  | .vccFuse => 1800
  | .vccBd _ => 750
  | .vccSram => 800
  | .vccPcie => 850
  | .vccLane => 850
  | .vccLaneHv => 1200
  | .vppHbm => 1800
  | .vddHbm => 1100
  | .vddqHbm => 400
  | .vccCd d => set d

/-- The power-up step of a rail; VCC_FUSE may come in step 1 or later. -/
def Rail.step : Rail → Nat
  | .vccAux => 1
  | .vccIo => 1
  | .vccFuse => 1
  | .vccBd _ => 2
  | .vccSram => 2
  | .vccPcie => 2
  | .vccLane => 3
  | .vccLaneHv => 3
  | .vppHbm => 4
  | .vddHbm => 4
  | .vddqHbm => 4
  | .vccCd _ => 5

/-- The tolerance of a rail in percent, of its nominal or set voltage. -/
def Rail.percent : Rail → Nat
  | .vccCd _ => 2
  | _ => 3

/-- Whether a rail at a voltage in mV lies within its tolerance. -/
def Rail.within (set : Fin 12 → Nat) (r : Rail) (mv : Nat) : Bool :=
  let n := r.nominal set
  decide (100 * mv ≤ (100 + r.percent) * n) && decide ((100 - r.percent) * n ≤ 100 * mv)

/-- Every rail of steps 1 to 4 that the steps after it wait for. -/
def boardRails : List Rail :=
  [.vccAux, .vccIo, .vccBd 0, .vccBd 1, .vccBd 2, .vccBd 3, .vccSram, .vccPcie, .vccLane, .vccLaneHv, .vppHbm, .vddHbm, .vddqHbm]

/-- The rails that must have reached 90 % of nominal before a rail starts (R441): those of the earlier steps, and those before it in
its own; VCC_FUSE follows VCC_AUX. -/
def Rail.after (r : Rail) : List Rail :=
  let own : List Rail := match r with
    | .vccFuse => [.vccAux]
    | .vccLaneHv => [.vccLane]
    | .vddHbm => [.vppHbm]
    | .vddqHbm => [.vppHbm, .vddHbm]
    | _ => []
  boardRails.filter (fun x => x.step < r.step) ++ own

/-- Whether rails come up in an order that R441 allows; they fall in the reverse of such an order (R442). -/
def powerUpOk : List Rail → Bool
  | [] => true
  | r :: earlier => r.after.all (fun x => decide (x ∈ earlier)) && powerUpOk earlier

/-- Whether a ramp is one that R441 allows: 0.1 to 10 ms. -/
def rampOk (us : Nat) : Bool := decide (100 ≤ us ∧ us ≤ 10000)

/-- Whether the board may release PORST_N (R441): the rails of steps 1 to 4 within tolerance for 1 ms, and PACE_REF running. -/
def porstMayRise (mv : Rail → Nat) (us : Nat) (paceRef : Bool) : Bool :=
  boardRails.all (fun r => r.within (fun _ => 750) (mv r)) && decide (1000 ≤ us) && paceRef

/-- The absolute maximum ratings of a rail in mV (Table 16.8). -/
def Rail.absolute : Rail → Int × Int
  | .vccCd _ => (-500, 1050)
  | .vccPcie => (-500, 1050)
  | .vccLane => (-500, 1050)
  | .vccBd _ => (-500, 1000)
  | .vccSram => (-500, 1000)
  | .vccLaneHv => (-500, 1450)
  | .vddHbm => (-300, 1500)
  | .vddqHbm => (-300, 600)
  | .vppHbm => (-300, 2200)
  | .vccAux => (-500, 2100)
  | .vccIo => (-500, 2100)
  | .vccFuse => (-500, 2100)

/-! ### Reference inputs (R460, Table 14.4) -/

/-- The reference inputs of Table 14.4. -/
inductive RefInput where
  | paceRef | lref (k : Fin 12) | mref | peRefclk
  deriving DecidableEq, Repr

/-- Their frequency in Hz, and their tolerance in parts per million; that of PE_REFCLK is PCI Express 5.0's. -/
def RefInput.hz : RefInput → Nat
  | .lref _ => 156250000
  | _ => 100000000
def RefInput.ppm : RefInput → Option Nat
  | .mref => some 300
  | .peRefclk => none
  | _ => some 100

/-- Whether MREF is in range for the monitor of a base die, by the edges that it makes in a window of 10 µs: 95 to 105 MHz. -/
def mrefInRange (edges : Nat) : Bool := decide (950 ≤ edges ∧ edges ≤ 1050)

/-! ### The ball map (R501 to R507) -/

/-- What a ball is: a supply, a signal, ground, or reserved. `neg` is the N ball of a pair. -/
inductive Ball where
  | gnd | rsvd
  | supply (r : Rail)
  | laneTx (n : Nat) (neg : Bool) | laneRx (n : Nat) (neg : Bool) | lref (k : Nat) (neg : Bool)
  | peTx (k : Nat) (neg : Bool) | peRx (k : Nat) (neg : Bool) | peRefclk (neg : Bool) | pePerstN
  | sio (n : Nat)
  | paceRef (neg : Bool) | mref (neg : Bool) | clkout (neg : Bool)
  | cfgbusCk | cfgbusStb | cfgbusD (i : Nat) | cfgDone | cfgErrN
  | porstN | sysrstN | tamperN | thermAlertN | bootMode (i : Nat) | role (i : Nat)
  | dbgCk | dbgIo | testEn
  | spiSck | spiCsN | spiIo (i : Nat) | smbClk | smbDat | pmbClk | pmbDat | pmbAlertN
  | tdiode (b : Nat) (neg : Bool) | vsenseCd (d : Nat) | vsenseGnd
  deriving DecidableEq, Repr

/-- The letters of a row's name after its first (R501). -/
def rowLetters : List Char :=
  ['A', 'B', 'C', 'D', 'E', 'F', 'G', 'H', 'J', 'K', 'L', 'M', 'N', 'P', 'T', 'U', 'V', 'W', 'Y']

/-- The name of row n, from 0 at the north edge to 57 at the south edge. -/
def rowName (n : Nat) : List Char :=
  (match n / 19 with
   | 0 => []
   | 1 => ['A']
   | 2 => ['B']
   | _ => ['C']) ++ [rowLetters.getD (n % 19) 'A']

/-- The ball at local row i and column j of the field of bank LBkk (R504, Table 16.3). -/
def laneField (k i j : Nat) : Ball :=
  if i < 8 then
    let n := 16 * k + 2 * i + j / 6
    if j % 3 = 0 then .gnd
    else if j / 3 % 2 = 0 then .laneTx n (j % 3 == 2) else .laneRx n (j % 3 == 2)
  else if j = 0 ∨ j = 3 then .supply .vccLaneHv
  else if j = 1 ∨ j = 2 then .lref k (j == 2)
  else .supply .vccLane

/-- The base die's supply of a compute die, as a rail. -/
def bdRail (d : Fin 12) : Rail := .vccBd ⟨d.val / 3, by omega⟩

/-- The exception cells of a core field (R506, Table 16.5). -/
def exceptionCell (d : Fin 12) (u : Nat) : Ball :=
  match d.val % 3, u with
  | 0, 0 => .supply (bdRail d)
  | 0, 4 => .supply .vccAux
  | 0, _ => .supply .vccPcie
  | 1, 0 => .supply .vccAux
  | 1, 4 => .supply .vccIo
  | 1, _ => .supply .vccPcie
  | _, 3 => .supply .vccFuse
  | _, 4 => .supply (bdRail d)
  | _, _ => .supply .vccIo

/-- The ball at local row v and column u of the core field of a compute die (R505, Table 16.4). -/
def coreField (d : Fin 12) (v u : Nat) : Ball :=
  let cd : Ball := .supply (.vccCd d)
  let bd : Ball := .supply (bdRail d)
  if v < 14 then (if (v + u) % 2 = 0 then cd else .gnd)
  else if v < 18 then (if u = 2 then .gnd else cd)
  else if v = 18 then cd
  else if v < 21 then (if (v + u) % 2 = 1 then bd else .gnd)
  else if v = 21 then (if u = 2 then .gnd else bd)
  else if v = 22 then .supply .vccSram
  else if v = 23 then (if u = 0 then bd else if u < 3 then .gnd else .rsvd)
  else if u = 2 then .rsvd
  else exceptionCell d u

/-- The center balls of rows AY to BU (Table 16.6), by row from 37 on. -/
def centerRows : List (List Ball) :=
  [[.paceRef false, .paceRef true, .mref false, .mref true],
   [.clkout false, .clkout true, .gnd, .gnd],
   [.cfgbusCk, .cfgbusStb, .cfgbusD 0, .cfgbusD 1],
   [.cfgbusD 2, .cfgbusD 3, .cfgbusD 4, .cfgbusD 5],
   [.cfgbusD 6, .cfgbusD 7, .cfgDone, .cfgErrN],
   [.porstN, .sysrstN, .tamperN, .thermAlertN],
   [.bootMode 0, .bootMode 1, .role 0, .role 1],
   [.dbgCk, .dbgIo, .testEn, .gnd],
   [.spiSck, .spiCsN, .spiIo 0, .spiIo 1],
   [.spiIo 2, .spiIo 3, .smbClk, .smbDat],
   [.pmbClk, .pmbDat, .pmbAlertN, .rsvd],
   [.tdiode 0 false, .tdiode 0 true, .tdiode 1 false, .tdiode 1 true],
   [.tdiode 2 false, .tdiode 2 true, .tdiode 3 false, .tdiode 3 true],
   [.vsenseCd 0, .vsenseCd 1, .vsenseCd 2, .vsenseCd 3],
   [.vsenseCd 4, .vsenseCd 5, .vsenseCd 6, .vsenseCd 7],
   [.vsenseCd 8, .vsenseCd 9, .vsenseCd 10, .vsenseCd 11],
   [.vsenseGnd, .rsvd, .rsvd, .rsvd]]

/-- The center ball at row r and place c of the four columns (R507). -/
def centerBall (r c : Nat) : Ball :=
  if r < 12 then .peTx (2 * (r - 4) + c / 2) (c % 2 == 1)
  else if r < 20 then .peRx (2 * (r - 12) + c / 2) (c % 2 == 1)
  else if r = 20 then (if c < 2 then .peRefclk (c == 1) else if c = 2 then .pePerstN else .gnd)
  else if r < 37 then .sio (4 * (r - 21) + c)
  else (centerRows.getD (r - 37) []).getD c .gnd

/-- A ball of the HBM supplies at the north or south edge (Table 16.2): e counts rows inward from the edge. -/
def hbmEdge (e c : Nat) : Ball :=
  if e = 1 then (if c ≤ 44 then .supply .vddHbm else .gnd)
  else if e = 3 then (if c ≤ 32 then .supply .vddqHbm else if c ≤ 40 then .supply .vppHbm else .gnd)
  else .gnd

/-- The ball at row n, 0 to 57, and column c, 1 to 58 (R503). -/
def ballAt (n c : Nat) : Ball :=
  if c ≤ 12 ∨ 47 ≤ c then
    let east : Nat := if 47 ≤ c then 1 else 0
    let j := if c ≤ 12 then c - 1 else 58 - c
    if 1 ≤ n ∧ n ≤ 27 then laneField (3 * east + (n - 1) / 9) ((n - 1) % 9) j
    else if 30 ≤ n ∧ n ≤ 56 then laneField (6 + 3 * east + (n - 30) / 9) ((n - 30) % 9) j
    else .gnd
  else if n < 4 then hbmEdge n c
  else if 54 ≤ n then hbmEdge (57 - n) c
  else if 28 ≤ c ∧ c ≤ 31 then centerBall n (c - 28)
  else
    let x := if c ≤ 27 then c - 13 else c - 17
    let v := if n ≤ 28 then n - 4 else 53 - n
    coreField (Fin.ofNat 12 (x / 5 + if n ≤ 28 then 0 else 6)) v (x % 5)

/-- Every ball of the package, 58 rows of 58. -/
def allBalls : List Ball := (List.range 3364).map (fun i => ballAt (i / 58) (i % 58 + 1))

/-! ### What the device drives (R508, R509, Table 16.7) -/

/-- What the device does with a pin: drives it low or high, lets a stream or a clock run on it, or leaves it: high impedance, released, or
in electrical idle. -/
inductive Drive where
  | low | high | runs | rests
  deriving DecidableEq, Repr

/-- The drive of an SIO pin in mA (Table 4.6). -/
def Dev.sioStrength (d : Dev) (n : Nat) : Nat := 4 * (d.get (Reg.SIO_PIN_CTL_drive n) + 1)

/-- What the device drives on an SIO pin: an OUTPUT pin its committed value, from the first commit on (R149); none in the load-failure
state (R346). -/
def Dev.sioDrive (d : Dev) (n : Nat) : Drive :=
  if d.get (Reg.SIO_PIN_CTL_mode n) ≠ 3 ∨ ¬ d.sio.committed ∨ d.cfg.loadFailure then .rests
  else if bitOf (d.pair Reg.SIO_OUT_LO Reg.SIO_OUT_HI) n then .high
  else .low

/-- What the device drives on a ball. It holds while a reset pin is low as well: the registers then stand at their reset words, and so
every pin is in its state during reset (R508). DBG_IO, SMBus, PMBus and the flash's pins run within a transfer, which one command is. -/
def Dev.drives (d : Dev) (b : Ball) : Drive :=
  match b with
  | .laneTx n _ =>
    let st := d.get (Reg.LANE_STATUS_state (baseSel (n / 48)) (n % 48))
    let loop := d.get (Reg.LANE_CTL_loop (baseSel (n / 48)) (n % 48))
    if st = 0 ∨ st = 6 ∨ loop = 2 ∨ d.heldDie (baseSel (n / 48)) then .rests else .runs
  | .peTx _ _ => if d.host.linkUp then .runs else .rests
  | .clkout _ => if d.clkout.isSome then .runs else .rests
  | .sio n => d.sioDrive n
  | .cfgDone => if d.on Reg.CFG_STATUS_done_drive then .low else .rests
  | .cfgErrN => if d.cfg.errDrive then .low else .rests
  | .thermAlertN => if d.on Reg.TEL_ALERT_STATUS_alert then .low else .rests
  | .spiCsN => if d.cfg.started ∧ d.get Reg.CFG_CTL_path = 3 then .low else .high
  | _ => .rests

/-! ### Operating conditions, heat and outline (R510 to R513) -/

/-- Whether temperatures in 0.1 °C are operating ones (Table 16.9): logic junctions −40 to 150 °C, stacks −40 to 105 °C. -/
def heatOk (logic hbm : List Int) : Bool :=
  logic.all (fun t => decide (-400 ≤ t ∧ t ≤ 1500)) && hbm.all (fun t => decide (-400 ≤ t ∧ t ≤ 1050))

/-- The input levels of a 1.8 V pin in mV, given its supply (Table 16.9): high from 0.65, low up to 0.35 of it; none between. -/
def inputLevel (supply mv : Nat) : Option Bool :=
  if 65 * supply ≤ 100 * mv then some true else if 100 * mv ≤ 35 * supply then some false else none

/-- Whether the board must cool the lid with a cold plate (R512): an effective cap above 300 W. -/
def Dev.coldPlate (d : Dev) : Bool := decide (300000 < d.capMw)

/-- The kinds of die of Table 16.10 and their junction-to-lid figures, in 0.1 °C/W. -/
inductive HeatPath where
  | compute | base | stack
  deriving DecidableEq, Repr

def HeatPath.psi : HeatPath → Nat
  | .compute => 12
  | .base => 9
  | .stack => 20

/-- A junction's temperature in 0.1 °C above a lid's, by its own power in mW. -/
def HeatPath.junction (p : HeatPath) (lid : Int) (mw : Nat) : Int := lid + ((p.psi * mw + 500) / 1000 : Nat)

/-- The center of a ball of row n and column c from the package's north-west corner, in µm (R513). -/
def ballCenter (n c : Nat) : Nat × Nat := (2555 + 1270 * n, 2555 + 1270 * (c - 1))

/-- The package's outline in µm, N and mg (R513): body, lid, height and its tolerance, ball diameter, coplanarity, the lid's greatest static
load, and the mass. -/
structure Outline where
  body : Nat := 77500
  bodyTolerance : Nat := 200
  lid : Nat := 76000
  lidFlat : Nat := 50
  height : Nat := 5900
  heightTolerance : Nat := 250
  ball : Nat := 750
  coplanarity : Nat := 200
  load : Nat := 800
  mass : Nat := 96000
  deriving DecidableEq, Repr

end Sys2Proof.Machine
end

