-- ==== Sys2Proof/WellFormed.lean ====
section
/-! DEFINITION. The commands whose operands have the sizes that the spec gives them: packets (Table 6.2), symbols of a lane
(Table 8.1), items of a configuration stream (R319 to R327), what the host stores. The meanings
do not ask for it: a list is cut or filled with zeros where it is read. -/

namespace Sys2Proof

open Machine

/-- The widths of a header flit's fields, and 64 bytes of data where the type carries them (Tables 6.2 and 6.3). -/
def Machine.Packet.wf (p : Packet) : Bool :=
  decide (p.vc < 4 ∧ p.type < 16 ∧ p.route < 256 ∧ p.respRoute < 256 ∧ p.hopPtr < 16 ∧ p.hops.length ≤ 12 ∧
    p.src < 65536 ∧ p.dst < 65536 ∧ p.tag < 4096 ∧ p.addr < 2 ^ 48 ∧ p.lenM1 < 64 ∧ p.status < 4 ∧
    p.data.length = (if hasFlit p.type then 64 else 0)) && p.hops.all (fun c => decide (c < 8))

/-- Stores that lie in the host's 64-bit address space. -/
def Machine.HostMem.wf (h : HostMem) : Bool :=
  h.stores.all (fun x => decide (x.1 + x.2.length ≤ 2 ^ 64)) && h.fails.all (fun a => decide (a < 2 ^ 64))

/-- The number of bytes that a part of a stream brings. -/
def Machine.Feed.size (x : Feed) : Nat :=
  match x with
  | .host _ n => n
  | _ => x.bytes.length

/-- A well-formed command. -/
def Instr.wf : Instr → Bool
  | .registerWrite _ a _ => decide (a.toNat % 4 = 0)
  | .packetInject p | .cacheableRead p | .cacheableWrite p => p.wf
  | .packetHop _ flips again => (flips ++ again).all (fun k => decide (k < 512))
  | .write _ flips _ | .rcWrite _ flips _ | .readResp _ flips | .fill _ flips => flips.all (fun k => decide (k < 576))
  | .linkFlitReceive _ _ flips => flips.all (fun k => decide (k < 544))
  | .delayCalibration _ _ trims => decide (trims.length = 32) && trims.all (fun x => decide (x < 1024))
  | .calNow _ _ _ trims => decide (trims.length = 32) && trims.all (fun x => decide (x < 1024))
  | .hbmStackInitDone _ _ _ sweeps => decide (sweeps.length ≤ 96)
  | .pseudoChannelRetrainDone _ sweeps => decide (sweeps.length ≤ 8)
  | .sectionHeader x => decide (128 ≤ x.size)
  | .endSection x => x.size == 256
  | .sectionTrailer x => x.size == 128
  | .nopPacket x | .cfgAddress x | .cfgBurstCount x | .cfgCheck x | .clear x | .zeroMem x | .fence x | .frames x | .writeDev x
  | .reservedPacketOpcode x => decide (4 ≤ x.size) && x.size % 4 == 0
  | .mbCmdTail _ _ h | .mbRspHead _ _ h | .memWrite _ h _ | .linkSlots _ h | .clusterRelay _ h | .secKeyInstall _ h
  | .secLifecycle _ h _ | .secUnlock _ h _ => h.wf
  | .bar2Access x n data _ =>
      decide (0 < n ∧ x.toNat + n ≤ 2 ^ 36) && (match data with | some l => l.length == n | none => true)
  | .captureOpen _ tiles => tiles.all (fun k => decide (k < 36864))
  | .granTestEnd _ rows spares => rows.all (fun j => decide (j < 8)) && spares.all (fun k => decide (k < 4))
  | .nocTimeout src tag => decide (src < 65536 ∧ tag < 4096)
  | .laneFrameReceive _ line _ | .fecCodewordReceive _ line | .chaffReceive _ line _ | .prbsCheckerLock _ line =>
      line.all (fun v => decide (v < 4))
  | _ => true

end Sys2Proof
end

