-- ==== Sys2Proof/Tests/Slice0.lean ====
section
/-! SUPPORT. Tests: the examples that the spec works out, a term that each check of WellFormed refuses, and for every statement
with hypotheses concrete states and operands that meet them, one for each clause. The states are built by small helpers from the
state right after reset; the names say what a helper sets. -/

namespace Sys2Proof.Tests

open Sys2Proof Sys2Proof.Machine

set_option maxRecDepth 100000
set_option Elab.async false

/-! ### States and operands -/

/-- A state with fields of registers set. -/
def wSet (s : State) (l : List (Fld × Nat)) : State := { s with dev := l.foldl (fun d e => d.set e.1 e.2) s.dev }

/-- A state with its device changed. -/
def wDev (s : State) (f : Dev → Dev) : State := { s with dev := f s.dev }

/-- The state right after reset. -/
def w0 : State := State.reset

/-- Every die is out of its per-die reset. -/
def wAll : State := wDev w0 (fun d => { d with pwr := { d.pwr with held := 0 } })

def f0 : Fin 384 := 0
def f5 : Fin 384 := 5
def f6 : Fin 384 := 6
def c0 : Fin 12 := 0
def c11 : Fin 12 := 11
def b0 : Fin 4 := 0
def b3 : Fin 4 := 3
def i0 : Fin 16 := 0
def i15 : Fin 16 := 15

/-- A field takes part, in its first wave of a cycle. -/
def wWave : State := wDev (wSet wAll [(Reg.PACE_STATUS_running, 1), (Reg.PACE_WAVE_CFG_waves_m1, 1)]) (fun d => { d with
  flds := [(5, { part := true, wave := 1, st := .eval, delay := true, unacked := 1 })]
  pac := { d.pac with phase := .waves } })

/-- That field has completed it. -/
def wDone : State := wDev wWave (fun d => { d with flds := [(5, { part := true, wave := 1, st := .complete })] })

/-- It waits for its delay only, for that and an acknowledgment, for an acknowledgment only. -/
def wEnd : State := wDev wWave (fun d => { d with flds := [(5, { part := true, wave := 1, st := .eval, delay := true, issued := true })] })
def wEndOwed : State := wDev wWave (fun d => { d with
  flds := [(5, { part := true, wave := 1, st := .eval, delay := true, unacked := 1, issued := true })] })
def wEndAck : State := wDev wWave (fun d => { d with
  flds := [(5, { part := true, wave := 1, st := .eval, unacked := 1, issued := true })] })

/-- Two fields that face each other across a die edge take part; so do they with the far die held, with the direction holding, and
with the far field a wave ahead. -/
def wEdge : State := wDev wAll (fun d => { d with flds := [(7, { part := true, wave := 1 }), (8, { part := true, wave := 1 })] })
def wEdgeHeld : State := wDev wEdge (fun d => { d with pwr := { d.pwr with held := 2 } })
def wEdgeHolds : State := wSet wEdge [(bridgeHolding 0 1, 1)]
def wEdgeAhead : State := wDev wEdge (fun d => { d with flds := [(7, { part := true, wave := 1 }), (8, { part := true, wave := 2 })] })

/-- A corner field takes part. -/
def wCorner : State := wDev wAll (fun d => { d with flds := [(0, { part := true })] })

/-- The field next to the first is behind it. -/
def wBehind : State := wDev wWave (fun d => { d with
  flds := [(4, { part := true, wave := 1, st := .eval }), (5, { part := true, wave := 1, st := .complete })] })

/-- Every field that takes part has completed the last wave. -/
def wLast : State := wDev wWave (fun d => { d with flds := [(5, { part := true, wave := 2, st := .complete })] })

/-- A register macrocell that a wire commits on rising edges, its comb 1 always: field 5, stook 0, sheaf 0, macrocell 0. -/
def mc5 : Mc := ⟨5, 0, 0, 0, 0⟩

def wReg : State := wDev wWave (fun d => { d with
  mem := Memory.writeBytes d.mem (frameBase (logicFrame 5 0 40)) (toBytes 0x45000 5) })

/-- The cycle has committed; nothing waits. -/
def wCommit : State := wDev wWave (fun d => { d with pac := { d.pac with phase := .commit } })

/-- A running pacer at a boundary with one clock of period 8, in free-running mode. -/
def wReady : State := wSet (wDev wAll (fun d => { d with cfg := { d.cfg with loadedAtStart := false } }))
  [(Reg.PACE_STATUS_running, 1), (Reg.PACE_DCLK_PERIOD_period 0, 8), (Reg.PACE_DCLK_HIGH_high 0, 4), (Reg.PACE_DCLK_CTL_enable 0, 1)]

/-- A macrocell input whose source lies over the border of a field that takes no part: an L4 that starts there. -/
def wIso : State := wDev wWave (fun d => { d with
  mem := Memory.writeBytes d.mem (frameBase (logicFrame 5 0 45) + 4) (toBytes 0x52 4) })
/-- The cycle has committed and a clock of the schedule has a next edge. -/
def wCommitClk : State := wSet wCommit [(Reg.PACE_DCLK_PERIOD_period 0, 8), (Reg.PACE_DCLK_HIGH_high 0, 4), (Reg.PACE_DCLK_CTL_enable 0, 1),
  (Reg.FAB_WAVE_CTL_margin 3, 7)]
/-- A latent read of a port is outstanding; its answer stands at its NI, good, bad or not at all; a latent write is outstanding. -/
def latR : LatentReq := { f := 5, q := 3, addr := 0x40, size := 4, tag := 9 }
def latA : Packet := { type := 2, src := 0, dst := dockNode 5 0, tag := 9, data := [1, 2, 3, 4] }
def latB : Packet := { latA with status := 1 }
def wLatN : State := wDev wWave (fun d => { d with
  flds := [(5, { part := true, wave := 1, st := .eval, latent := [latR], issued := true })] })
def wLatR : State := wDev wLatN (fun d => { d with noc := { d.noc with delivered := [latA] } })
def wLatE : State := wDev wLatN (fun d => { d with noc := { d.noc with delivered := [latB] } })
def wLatWN : State := wDev wCommit (fun d => { d with latentWrites := [latR] })
def wLatW : State := wDev wLatWN (fun d => { d with noc := { d.noc with delivered := [latA] } })

/-- A pacer that may start: CFG_DONE is high and one clock is in the schedule, in FREE mode. -/
def wStart : State := wSet wAll [(Reg.PACE_CTL_mode, 1), (Reg.PACE_DCLK_PERIOD_period 0, 8), (Reg.PACE_DCLK_HIGH_high 0, 4),
  (Reg.PACE_DCLK_CTL_enable 0, 1), (Reg.CFG_STATUS_done_drive, 0), (Reg.PACE_STEP_COUNT_LO_n, 3)]
def n0 : Fin 64 := 0
def n63 : Fin 64 := 63
def k3 : Fin 4 := 3
/-- It runs, at a boundary. -/
def wRun : State := wSet wStart [(Reg.PACE_STATUS_running, 1)]
/-- No clock is in the schedule. -/
def wNoClk : State := wSet wStart [(Reg.PACE_DCLK_CTL_enable 0, 0)]
/-- A correction is left, and a slewed step is due. -/
def wAdj : State := wDev (wSet wRun [(Reg.PACE_TB_ADJ_adj, 5)]) (fun d => { d with pac := { d.pac with slew := 63 } })
def wAdjNeg : State := wDev (wSet wRun [(Reg.PACE_TB_ADJ_adj, 0xFFFFFFFB)]) (fun d => { d with pac := { d.pac with slew := 63 } })
def wAdjOff : State := wSet wRun [(Reg.PACE_TB_ADJ_adj, 5)]
/-- The timebase runs on the internal oscillator and its calibration has been good for 1 ms. -/
def wOsc : State := wDev (wSet w0 [(Reg.PACE_TB_CTL_use_ref, 1)]) (fun d => { d with pac := { d.pac with osc := true, good := 100 } })
/-- A paced schedule that is behind: T0 is 2,000,000 ticks ago. -/
def wLate : State := wDev (wSet wRun [(Reg.PACE_CTL_mode, 0), (Reg.PACE_RATIO_INT_int, 1), (Reg.PACE_LOST_BOUND_bound, 10)])
  (fun d => { d with pac := { d.pac with tb := 2000000 } })
def wLateStop : State := wSet wLate [(Reg.PACE_CTL_lost_policy, 1)]
def wLateWave : State := wDev wLateStop (fun d => { d with pac := { d.pac with phase := .waves } })
/-- Its start time lies so far ahead that the deadline is out of range. -/
def wFar : State := wSet wStart [(Reg.PACE_CTL_mode, 0), (Reg.PACE_RATIO_INT_int, 1), (Reg.PACE_START_TIME_HI_s, 0xFFFFFFFF)]
/-- A paced schedule whose next deadline is 1,003 ticks away. -/
def wSoon : State := wDev (wSet wRun [(Reg.PACE_CTL_mode, 0), (Reg.PACE_RATIO_INT_int, 1)])
  (fun d => { d with pac := { d.pac with t0 := 1003 } })
/-- The timebase is on the oscillator; on its way back to PACE_REF. -/
def wOscRun : State := wSet wOsc [(Reg.PACE_STATUS_degraded, 1)]
def wBack : State := wDev wOscRun (fun d => { d with pwr := { d.pwr with tbSwitch := some false } })
def core0 : Who := .core 0

def k0 : Fin 64 := 0
def k33 : Fin 64 := 33
def wBadClk : State := wSet wStart [(Reg.PACE_DCLK_CTL_enable 33, 1), (Reg.PACE_DCLK_PERIOD_period 33, 8), (Reg.PACE_DCLK_HIGH_high 33, 8)]

def t0 : Fin 96 := 0
def t95 : Fin 96 := 95
/-- Tile 95 of field 5 runs, with a word at its program counter. -/
def wTile (w : Nat) : State := wDev wAll (fun d => { d with
  mem := Memory.writeBytes d.mem (tileBase 5 95 + 4 * 63) (toBytes w 4)
  tiles := d.tiles.put (5 * 96 + 95) { pc := 63, busy := true } {} })
/-- The same inside a loop. -/
def wTileLoop (w : Nat) : State := wDev (wTile w) (fun d => { d with
  tiles := d.tiles.put (5 * 96 + 95) { pc := 63, busy := true, loopOn := true, loopStart := 60, loopEnd := 63, loopLeft := 2 } {} })
def fetched (s : State) : Nat × Dev := s.dev.tileFetch 5 95
/-- A leased tile. -/
def wLease : State := wSet wAll [(Reg.MAC_TILE_CFG_mode 0 (tileNum 5 95), 3)]

def at1 := wTileLoop 0xA0000001
def at2 := wTileLoop 0xB000003E

/-- A register block's spec: the first field of the pacer's first register. -/
def a1 : BitVec 33 := 1
def aFab : BitVec 33 := 0x20020000
def aBar : BitVec 33 := 0x100000000

/-- A packet in flight at a router of B0, with hop codes and a type; its destination is the endpoint of NI 7 there. -/
def wHop (r : Nat) (code : List Nat) (type : Nat) : State := wDev wAll (fun d => { d with noc := { d.noc with
  flights := [{ pkt := { hops := code, type := type, dst := nodeId 16 9 7 }, die := 16, router := r }] } })
def flight0 (s : State) : Flight := s.dev.noc.flights.headD { pkt := {}, die := 0, router := 0 }
/-- One for compute die 1, whose ports are ready; one at a link that is up, or down. -/
def wVert (r : Nat) : State := wSet (wDev wAll (fun d => { d with noc := { d.noc with
  flights := [{ pkt := { hops := [4], dst := nodeId 1 0 0 }, die := 16, router := r }] } })) [(Reg.D2D_VERT_STATUS_ready 16, 0xFFFFFF)]
def wLatHop : State := wSet (wDev wAll (fun d => { d with noc := { d.noc with
  flights := [{ pkt := { type := 1, hops := [5] }, die := 16, router := 17 }] } })) [(Reg.D2D_LAT_STATUS_state 16 0, 2)]
def wLatGone : State := wDev wLatHop (fun d => d.markLink 0 true)
/-- Its buffer has an older packet. -/
def wBehind2 : State := wDev (wHop 7 [3] 0) (fun d => { d with noc := { d.noc with
  flights := [{ pkt := { hops := [3] }, die := 16, router := 7, came := 1 }, { pkt := { hops := [3] }, die := 16, router := 7 }] } })
def at3 := flight0 (wHop 7 [0] 15)
def at4 := flight0 (wHop 6 [3] 0)
def at5 := flight0 (wHop 36 [4] 0)
def at6 := flight0 (wHop 7 [5] 0)
def at7 := flight0 (wHop 7 [7] 0)
def at8 := flight0 (wHop 7 [] 0)
def at9 := flight0 (wHop 7 [3] 0)
def at10 := flight0 (wHop 9 [6] 0)
def at11 := flight0 (wHop 9 [] 0)
/-- The first register of a block with a field of an access type, and that field. -/
def regWith (b : Nat) (p : FieldSpec → Bool) : RegSpec := ((blockRegs b).find? (fun r => r.fields.any p)).getD ⟨0, 0, [], 0, []⟩
def fldWith (b : Nat) (p : FieldSpec → Bool) : FieldSpec := ((regWith b p).fields.find? p).getD ⟨0, 0, .ro⟩
def pRw (f : FieldSpec) : Bool := f.acc == .rw
def pW1c (f : FieldSpec) : Bool := f.acc == .w1c
def pRo (f : FieldSpec) : Bool := f.acc == .ro

/-- An address in the middle of B0's granary. -/
def gA : Nat := 0x4000C00000
/-- Usable entries of the route tables: one hop, EJECT. -/
def routes0 : SMap (BitVec 64) := [(0, 5, 0), (4, 0, 0), (4, 5, 0), (16, 0, 0), (16, 7, 0)].foldl
  (fun (m : SMap (BitVec 64)) (e : Nat × Nat × Nat) => SMap.put (α := BitVec 64) m (routeKey e.1 e.2.1 e.2.2) 0x0010001000000006 0) []
def bad : Nat := 0x8000000000
def s15 : Fin 12 := 3

/-- A request of compute die 0's interface 5. -/
def pReq : Packet := { type := 0, src := nodeId 0 5 0, dst := nodeId 16 9 7, tag := 9, addr := gA, lenM1 := 3 }
def wNoc : State := wDev wAll (fun d => { d with noc := { d.noc with routes := routes0 } })
/-- A response in flight, arrived, to a request outstanding, or to none. -/
def pRsp (type status : Nat) : Packet :=
  { vc := 2, type := type, src := nodeId 16 9 7, dst := nodeId 0 5 0, tag := 9, addr := gA, status := status, data := [1, 2, 3, 4] }
def o9 : OutReq := { src := nodeId 0 5 0, tag := 9, pkt := pReq }
def wStray (type status : Nat) : State := wDev wNoc (fun d => { d with noc := { d.noc with
  flights := [{ pkt := pRsp type status, die := 0, router := 5, arrived := true }] } })
def wRsp (type status : Nat) : State := wDev (wStray type status) (fun d => { d with noc := { d.noc with outstanding := [o9] } })
def at12 := { pReq with type := 4, data := [7] }
def at13 := flight0 (wStray 2 0)
def at14 := flight0 (wStray 3 0)
def at15 := flight0 (wHop 7 [0] 0)

def pT (type a dst : Nat) : Packet :=
  { type := type, src := nodeId 4 5 0, dst := dst, tag := 9, addr := a, lenM1 := 3, bmask := 7, data := [1, 2, 3, 4] }
/-- A packet that has arrived at its target. -/
def wAt (p : Packet) : State := wDev wNoc (fun d => { d with noc := { d.noc with
  flights := [{ pkt := p, die := 16, router := nodePort p.dst, arrived := true }] } })
def pG (type : Nat) : Packet := pT type gA (nodeId 16 9 7)
def pH (type : Nat) : Packet := pT type 0 (nodeId 16 1 0)
/-- The stacks are ready. -/
def wReadyAt (p : Packet) : State := wSet (wAt p) [(Reg.HBM_STK_STATUS_state 16 0, 2)]
/-- A granary region is being set to zero. -/
def wZeroing : State := wDev (wAt (pG 0)) (fun d => { d with sec := { d.sec with zeroing := List.range 16 } })
def at16 := flight0 (wAt (pG 0))
def at17 := flight0 (wReadyAt (pH 0))
def at18 := flight0 (wAt (pH 0))
def at19 := flight0 (wAt (pG 1))
def at20 := flight0 (wAt (pG 9))
def at21 := flight0 (wReadyAt (pH 1))
def at22 := flight0 (wReadyAt (pH 9))
def at23 := flight0 (wAt (pG 8))

/-- A cacheable request of compute die 4 for a line of B0's granary. -/
def pC (type : Nat) : Packet :=
  { type := type, src := nodeId 4 5 0, dst := nodeId 16 9 7, addr := gA, lenM1 := 3, bmask := 5, data := [1, 2, 3, 4] }
def x64 (valid : Bool) : RcLine := { valid := valid, data := List.replicate 64 7, waiters := if valid then [] else [pC 0] }
def wRcOn : State := wSet wNoc [(Reg.RCACHE_CTL_enable 4, 1), (Reg.D2D_LAT_STATUS_state 16 0, 2)]
def wRc (valid : Bool) : State := wDev wRcOn (fun d => { d with rc := { d.rc with lines := [(rcKey 4 gA, x64 valid)] } })
def wRcFlush : State := wDev wRcOn (fun d => { d with rc := { d.rc with flushing := [4] } })
/-- A message of VC3 arrives at compute die 4's cache, whose line is in V, or in P with an RC_READ outstanding. -/
def pV (type st : Nat) : Packet :=
  { vc := 3, type := type, status := st, src := nodeId 16 9 7, dst := cacheNode 4 gA, tag := 9, addr := gA, data := List.replicate 64 8 }
def oC : OutReq := { src := cacheNode 4 gA, tag := 9, pkt := { pC 8 with src := cacheNode 4 gA, tag := 9 } }
def xP : RcLine := { valid := false, data := [], waiters := [], way := 3 }
def wV (x : RcLine) (p : Packet) : State := wDev wRcOn (fun d => { d with
  rc := { d.rc with lines := [(rcKey 4 gA, x)] }
  noc := { d.noc with flights := [{ pkt := p, die := 4, router := 0, arrived := true }], outstanding := [oC] } })
def at24 := flight0 (wV xP (pV 10 0))
def at25 := flight0 (wV xP (pV 10 1))
def at26 := wV (x64 true) (pV 11 0)
def at27 := flight0 (wV (x64 true) (pV 11 0))
def at28 := flight0 (wV xP (pV 11 0))
def pAck : Packet := { vc := 3, type := 12, src := nodeId 4 0 0, dst := nodeId 16 0 0, addr := gA }
def wDir (e : DirEntry) : State := wDev wNoc (fun d => { d with
  noc := { d.noc with flights := [{ pkt := pAck, die := 16, router := 0, arrived := true }] }
  rc := { d.rc with dir := [(gA, e)] } })
def e30 : DirEntry := { pend := 0x30 }
def eLast : DirEntry := { pend := 0x10, frees := true }
def eKeep : DirEntry := { pend := 0x10, sharers := 2 }
def at29 := flight0 (wDir eLast)
def at30 := flight0 (wDir eKeep)
def c4 : Fin 12 := 4
def wGone : State := wDev (wRc true) (fun d => { d with rc := { d.rc with gone := [(0, 4)], homes := [(4, 0)], dir := [(gA, { sharers := 0x10 })] } })
def wFlush : State := wDev (wRc true) (fun d => { d with rc := { d.rc with flushAll := true } })
def wFlushWait : State := wDev wFlush (fun d => { d with noc := { d.noc with outstanding := [oC] } })
def wFlushOne : State := wDev (wRc true) (fun d => { d with rc := { d.rc with flushing := [4], disabling := [4] } })

def wUp (st n : Nat) (x : LatLink) : State := wDev (wSet wAll [(Reg.D2D_LAT_STATUS_state 16 0, st), (Reg.D2D_LAT_STATUS_state 17 0, st), (Reg.D2D_LAT_STATUS_width_code 16 0, n),
  (Reg.D2D_LAT_CTL_max_code 16 0, 12), (Reg.D2D_LAT_CTL_max_code 17 0, 12), (Reg.D2D_LAT_STATUS_attempts 16 0, 2), (Reg.D2D_LAT_STATUS_attempts 17 0, 2)]) (fun d => d.setLatSide 0 0 x)
def j0 : Fin 2 := 0
def j1 : Fin 2 := 1
/-- A flit on the wires of a width and number. -/
def flit (w n : Nat) : LinkFlit := { seq := n, width := w, flight := { pkt := { type := 0, hops := [5] }, die := 17, router := 17 } }
def side (w n : Nat) : LatLink := { expect := 255, wire := [flit w n], replay := [flit w n] }
def at31 := wUp 2 12 (side 12 255)
def at32 := wUp 2 12 (side 12 7)
def at33 := wUp 2 12 { side 12 255 with crcFails := 2 }
def at34 := wUp 2 12 (side 11 255)
def at35 := wUp 2 12 { side 12 255 with crcFails := 3 }
def at36 := wSet wAll [(Reg.NOC_RT_SEL_table 19, 63), (Reg.NOC_RT_SEL_entry 19, 255)]
def n66 : Fin 67 := 66
def n20 : Fin 67 := 20

def m0 : Fin 8 := 0
def m7 : Fin 8 := 7
/-- A stack's fields and its part of the device. -/
def wHbm (m : Nat) (st : Nat) (x : Stack) (l : List (Fld × Nat)) : State :=
  wDev (wSet wAll ([(Reg.HBM_STK_STATUS_state (stackSel m) (m % 2), st), (Reg.HBM_TSET_LAT_rl 16 0 0, 1), (Reg.HBM_TSET_LAT_rl 16 1 0, 1)] ++ l))
    (fun d => d.setStack m x)
def at37 := wHbm 7 1 { starting := true } []
def at38 := wHbm 0 0 {} [(Reg.HBM_MAP_CTL_order 17, 2)]
def noSweep : Sweep := { pass := 0, repaired := 0 }
def at39 := wHbm 7 2 {} [(Reg.HBM_STK_PC_FAILED_failed 19 1, 7)]
def at40 := wHbm 7 2 { retrain := some 5 } []
def at41 := wHbm 7 2 {} [(Reg.HBM_STK_CMD_freq_change 19 1, 1)]
def p31 : Fin 32 := 31
def p0 : Fin 32 := 0
def at42 := wHbm 7 2 { retrain := some 31, freqDue := true } []
def at43 := wHbm 7 2 { retrain := some 0 } []
def at44 := wHbm 7 2 { retrain := some 31 } [(Reg.HBM_STK_STATUS_rate 19 1, 2)]
def at45 := wHbm 7 3 { retrain := some 32 } [(Reg.HBM_TSET_RATE_rate 19 1 1, 3)]
def at46 := wHbm 7 3 { overDue := true } []
def at47 := wHbm 7 3 { retrain := some 3 } [(Reg.HBM_STK_RATES_valid 19 1, 3)]
def at48 := wHbm 7 2 { idRead := true } []
def at49 := wHbm 7 2 { idRead := true, retrain := some 4 } [(Reg.HBM_STK_PC_BUSY_busy 19 1, 16)]
def at50 := wHbm 7 4 { idRead := true, retrainDue := true } []
def at51 := wHbm 7 4 { idRead := true, freqDue := true } []
def at52 := wHbm 7 4 { idRead := true, starting := true } []
def at53 := wHbm 7 4 { idRead := true } []
def at54 := wHbm 7 3 { idRead := true } []
def at55 := wHbm 7 1 {} [(Reg.HBM_STK_STATUS_hot 19 1, 1)]
def at56 := wHbm 7 5 { idRead := true } []
def pHold : Packet := { type := 1, src := nodeId 4 5 0, dst := nodeId 16 0 0, tag := 9, addr := 0xC0, lenM1 := 63 }
def wHold (st : Nat) : State := wDev (wHbm 0 st {} []) (fun d => { d with noc := { d.noc with waiting := [pHold], routes := routes0 } })
def r0 : Fin 4 := 0
def r3 : Fin 4 := 3
def wRgn (l : List (Fld × Nat)) : State := wSet wAll ([(Reg.MEMSEC_RGN_RANGE_base 19 1 3, 63), (Reg.MEMSEC_RGN_RANGE_size 19 1 3, 1)] ++ l)
def at57 := wRgn [(Reg.MEMSEC_RGN_STATUS_state 19 1 3, 2)]
def at58 := wRgn [(Reg.MEMSEC_STK_CTL_enable 19 1, 1), (Reg.MEMSEC_RGN_RANGE_size 19 1 3, 2)]
def at59 := wRgn [(Reg.MEMSEC_STK_CTL_enable 19 1, 1)]
def at60 := wRgn [(Reg.MEMSEC_RGN_STATUS_state 19 1 3, 3)]
def at61 := wRgn [(Reg.MEMSEC_RGN_STATUS_state 19 1 3, 1)]
def wShut : State := wDev (wRgn [(Reg.MEMSEC_RGN_STATUS_state 19 1 3, 3)]) (fun d => { d with msec := { d.msec with cache := [metaKey 7 1 (0x3F0000000 / 64 / 8), metaKey 7 8 0] } })

def b11 : Fin 12 := 11
def l0 : Fin 192 := 0
def l191 : Fin 192 := 191
/-- Lane 191 with fields of its registers and its part of the device. -/
def wLane (st : Nat) (x : Lane) (l : List (Fld × Nat)) : State :=
  wDev (wSet wAll ([(Reg.LANE_STATUS_state 19 47, st)] ++ l)) (fun d => d.setLane 191 x)
def len : Fld × Nat := (Reg.LANE_CTL_enable 19 47, 1)
def lcdr : Fld × Nat := (Reg.LANE_STATUS_cdr_lock 19 47, 1)
def lmk : Fld × Nat := (Reg.LANE_STATUS_marker_lock 19 47, 1)
def lbank : List (Fld × Nat) := [(Reg.LANE_BANK_CTL_enable 19 2, 1), (Reg.LANE_BANK_STATUS_ref_ok 19 2, 1)]
def at62 := wLane 4 {} [len, (Reg.LCH_LINK_STATUS_state 19 47, 1)]
def at63 := wLane 5 { eye := true } [len]
def at64 := wLane 5 {} [len, (Reg.LANE_PRBS_CTL_gen_en 19 47, 1)]
def at65 := wLane 5 {} [len, (Reg.LANE_EYE_CTL_done 19 47, 1)]
def at66 := wLane 5 {} [len, (Reg.LANE_PRBS_BITS_HI_bits 19 47, 1)]

def at67 := wLane 0 {} [(Reg.LANE_BANK_CTL_enable 19 2, 1)]
def at68 := wLane 1 {} (len :: lbank)
def at69 := wLane 1 {} ((Reg.LANE_CTL_loop 19 47, 1) :: lbank)
def at70 := wLane 4 {} [len, lcdr]
def at71 := wLane 1 {} [len, lcdr]
def at72 := wLane 2 {} [len, (Reg.LANE_CTL_adapt_pause 19 47, 1), (Reg.LANE_STATUS_adapt_done 19 47, 1)]
def at73 := wLane 2 {} [len, lcdr]
def at74 := wLane 5 {} [len, lcdr]
def zbits (k : Nat) (w : List Bool) (z : Nat) : List (Bool × Bool) := (List.replicate k false ++ w ++ List.replicate z false).map (fun b => (b, false))
def at75 := wLane 3 { rxBits := zbits 5 markerBits 3 } [len, lcdr]
def at76 := wLane 3 { rxBits := zbits 4096 markerBits 3, good := 2 } [len, lcdr]
def at77 := wLane 3 { rxBits := zbits 4096 markerBits 3, good := 3 } [len, lcdr]
def at78 := wLane 3 { rxBits := zbits 4096 markerBits 3, good := 4 } [len, lcdr, (Reg.LCH_LINK_STATUS_state 19 47, 3)]
def at79 := wLane 3 { rxBits := zbits 4096 [] 98, good := 3 } [len, lcdr]
def at80 := wLane 4 { rxBits := zbits 4094 markerBits 3, missed := 3 } [len, lcdr, lmk]
def at81 := wLane 4 { rxBits := zbits 4096 (chaffBits ++ markerBits) 3 } [len, lcdr, lmk]
def at82 := wLane 4 { rxBits := zbits 4096 [] 98, missed := 2 } [len, lcdr, lmk]
def at83 := wLane 4 { rxBits := zbits 4096 [] 98, missed := 3 } [len, lcdr, lmk]
def lfec : Fld × Nat := (Reg.LANE_CTL_fec_en 19 47, 1)
def lflk : Fld × Nat := (Reg.LANE_STATUS_fec_lock 19 47, 1)
def rbits (k : Nat) (w : List Bool) (z : Nat) : List Bool := List.replicate k false ++ w ++ List.replicate z false
def at84 := wLane 3 { rxRaw := rbits 5 blockWord 3 } [len, lcdr, lfec]
def at85 := wLane 3 { rxRaw := rbits 5 blockWord 3, cw := 2 } [len, lcdr, lfec, lflk]
def wRs (cw : Nat) : State := wLane 4 { rxRaw := rbits 5440 [] 3, cw := cw } [len, lcdr, lfec, lflk]
def wRs3 (miss : Nat) : State := wLane 4 { rxRaw := rbits 5440 [] 18, cw := 3, missedFec := miss } [len, lcdr, lfec, lflk]
def ebw (c : Bool) : EbWord := { chaff := c }
def at86 := wLane 4 { pipe := [ebw true], eb := List.replicate 6 (ebw false) } [len, lcdr]
def at87 := wLane 4 { pipe := [ebw true], eb := List.replicate 2 (ebw false) } [len, lcdr]
def at88 := wLane 4 { pipe := [ebw true], eb := List.replicate 5 (ebw false) } [len, lcdr]
def at89 := wLane 3 {} [len, lcdr, (Reg.LANE_CTL_loop 19 47, 3)]
def at90 := wLane 5 {} [len, lcdr, (Reg.LANE_CTL_loop 19 47, 2)]
def s40 : List Nat := toSyms false (prbsBits 1 40 77).1
def c40 : BitVec 31 × Nat × Nat × Nat := checkBits 1 (prbsBits 1 40 77).1 0 0
def at91 := wLane 5 {} [len, lcdr, (Reg.LANE_PRBS_CTL_chk_pat 19 47, 1), (Reg.LANE_PRBS_CTL_chk_en 19 47, 1), (Reg.LANE_PRBS_BITS_HI_bits 19 47, 0xFFFF)]
def at92 := wLane 5 { eye := true } [len, lcdr]

/-- Lane 191 and its link, with fields of registers. -/
def wLink (lst kst : Nat) (x : Link) (l : List (Fld × Nat)) : State :=
  wDev (wSet wAll ([(Reg.LANE_STATUS_state 19 47, lst), (Reg.LCH_LINK_STATUS_state 19 47, kst), (Reg.LANE_CTL_enable 19 47, 1)] ++ l)) (fun d => d.setLink 191 x)
def sent0 : Sent := { seq := 7, body := [1, 2], tag := [], tmark := false }
def fr (t seq : Nat) (body : List Byte) : Frame := { type := t, seq := seq, body := body, credit := 0 }
def hdrB (n : Nat) : List Byte := toBytes n 8
def pos5 : List (Fld × Nat) := [(Reg.LCH_CTL_pos_valid 19, 1), (Reg.LCH_CTL_position 19, 5)]
/-- A delivered frame of a type, number and body on lane 191, and its link. -/
def rx (f : Frame) : RxFrame := { bytes := f.bytes, flagged := f.flagged }
def wFr (kst : Nat) (x : Link) (f : Frame) (l : List (Fld × Nat)) : State :=
  wDev (wLink 4 kst x l) (fun d => d.setLane 191 { frames := [rx f] })
def b488 (dir : Nat) : List Byte := slice (toBytes dir 8 ++ [1, 2, 3]) 0 488
def f488 : Frame := { type := 1, seq := 7, body := b488 5, tag := [1, 2, 3, 4, 5, 6, 7, 8], stomped := true }
def lt : Bool := true
def at93 := wLink 5 0 {} [(Reg.LANE_PRBS_CTL_gen_en 19 47, 1)]
def at94 := wLink 4 2 { partnerUp := true, buf := List.replicate 64 sent0 } []
def at95 := wLink 4 2 { partnerUp := true, buf := [sent0], replay := some 0, seq := 8 } []
def msg0 : Msg := { toLocal := false, dst := 127, data := 0xABCDEF }
def at96 := wLink 4 2 { partnerUp := true, ctlQ := [msg0], seq := 0xFFFFFF, ctlSent := 31 } [(Reg.LCH_LINK_CFG_ctl_max 19 47, 1)]
def at97 := wDev (wFr 2 {} (fr 1 0 []) []) (fun d => d.setLaneState 191 3)
def at98 := wFr 2 {} (fr 2 0 []) []
def at99 := wFr 2 { expect := 7 } ({ fr 1 7 [] with flagged := true }) []
def at100 := rx ({ fr 1 7 [] with flagged := true })
def at101 := wFr 2 { expect := 7 } ({ fr 1 7 [] with stomped := true }) []
def at102 := rx ({ fr 1 7 [] with stomped := true })
def at103 := wFr 2 { expect := 7 } (fr 1 8 []) []
def at104 := wFr 2 { expect := 7 } (fr 1 6 []) [(Reg.LCH_LINK_ERR_discards 19 47, 255)]
def l3 : Fin 192 := 3
def at105 := wFr 2 { expect := 16777215 } (fr 1 16777215 (hdrB (2 ^ 60 + 4 + 9 * 2 ^ 52) ++ [1, 2])) []
def at106 := wFr 2 { expect := 7 } (fr 1 7 (hdrB (7 * 2 ^ 45))) []
def at107 := wFr 2 { expect := 7 } (fr 1 7 (hdrB (7 * 2 ^ 45))) pos5
def at108 := wFr 2 { expect := 7 } (fr 1 7 (hdrB (127 * 2 ^ 45))) (pos5 ++ [(Reg.LCH_FWD_valid 19 127, 1), (Reg.LCH_FWD_lane 19 127, 3)])
def at109 := wFr 2 {} (fr 2 0 (hdrB (2 ^ 60))) []
def at110 := rx (fr 2 0 (hdrB (2 ^ 60)))
def at111 := wFr 1 {} (fr 3 0 (hdrB (2 ^ 60) ++ List.replicate 40 9)) []
def at112 := rx (fr 3 0 (hdrB (2 ^ 60) ++ List.replicate 40 9))
def hello1 : Frame := fr 3 0 (hdrB (2 ^ 60) ++ List.replicate 8 9 ++ [1] ++ List.replicate 23 2)
def wRom : State := wDev (wFr 1 {} hello1 []) (fun d => { d with boot := { d.boot with mode := 2 } })
def at113 := wFr 2 {} (fr 4 0 []) []
def at114 := wFr 1 {} (fr 5 0 []) []
def at115 := wFr 2 {} (fr 0 0 []) [(Reg.LCH_LINK_ERR_discards 19 47, 255)]
def wTb (n : Nat) (s : State) : State := wDev s (fun d => d.modPac (fun p => { p with tb := n }))
def at116 := wTb 1599 (wLink 4 2 { buf := [sent0] } [])
def at117 := wTb 160000000 (wLink 4 2 { buf := [sent0], retries := 9 } [])
def at118 := wTb 160000000 (wLink 4 2 { buf := [sent0], retries := 15, acked := false } [])
def at119 := wLink 3 2 { buf := [sent0], retries := 9, acked := false } []

def ch0 : BitVec 16 := 0
def chL : BitVec 16 := 0xFFFF
def lk1 : Fld × Nat := (Reg.LCH_LINK_CFG_activate 19 47, 1)
def at120 := wLink 4 1 { keyNew := 0x8000 } []
def at121 := wLink 4 1 { keyNew := 0x7FFF } []
def at122 := wLink 4 3 { buf := [sent0] } [lk1]
def at123 := wLink 3 2 { buf := [sent0] } [lk1]
def wCtx (x : Ctx) (l : List (Fld × Nat)) : State := wDev (wSet wAll ([(Reg.LCH_CTX_SEL_ctx 19, 0xFFFF)] ++ l)) (fun d => d.setCtx 0xFFFF x)
def cd0 (n : Nat) : Fld × Nat := (⟨Reg.LCH_CTX_DATA 19 0, 0, 32⟩, n)
def full4 (s : State) : State := wDev s (fun d => { d with ctxs := (List.range 2048).map (fun i => (0xC000 + i, { d0 := 0xF03, hot := some (i, 0) })) })
def at124 := wCtx { d0 := 1, d1 := 2, d2 := 3 } []
def at125 := wCtx { d1 := 2, d2 := 3, queue := [{ data := [1], valid := 1, eom := true }] } [cd0 0xFFFFFFFD]
def at126 := wCtx { d0 := 3 } [cd0 0, (Reg.PACE_STATUS_running, 1)]
def at127 := wCtx { d1 := 2, d2 := 3 } [(Reg.LCH_CTX_SEL_ctx 16, 0x4000)]
def at128 := wTb 1600002 (wCtx { d0 := 1, hot := some (1, 2), since := 2 } [])
def at129 := wCtx { d0 := 3, hot := some (1, 2) } []
def at130 := wTb 1600001 (wCtx { d0 := 1, hot := some (1, 2), since := 2 } [])
def at131 := wTb 4000 (wCtx { d0 := 1, part := [4, 5] } [])
def at132 := wTb 4000 (wCtx { d0 := 1, part := [4, 5], hot := some (3, 1) } [])
def at133 := wCtx { d0 := 0xF01, part := [4, 5] } []
def at134 := wTb 3999 (wCtx { d0 := 1, part := [4, 5] } [])
def at135 := wTb 16000 (wCtx { d0 := 0xBF7F0005, freed := 4095 } [])
def at136 := wTb 15999 (wCtx { d0 := 0xBF7F0005, freed := 4095 } [])
def pos127 : Fin 128 := 127
def wRole (r k : Nat) : State := wDev (wSet wAll [(Reg.ID_STATE_sp_state, 3), (Reg.PACE_STATUS_running, k), (⟨Reg.LCH_TMARK_RX_LO 19 47, 0, 32⟩, 1000)]) (fun d => { d with boot := { d.boot with role := r } })
def at137 := wSet wAll [(Reg.LCH_SLOT_SEL_lane 19, 47), (Reg.LCH_SLOT_SEL_entry 19, 500)]
def at138 := wSet wAll [(Reg.PACE_STATUS_running, 1), (Reg.LCH_SLOT_SEL_lane 19, 47), (Reg.LCH_SLOT_SEL_entry 19, 500)]
def i47 : Fin 48 := 47
def at139 := wSet wAll [(Reg.PACE_STATUS_running, 1)]
def at140 := wSet wAll [(Reg.LCH_CTL_lock 19, 1), (Reg.LCH_CTL_position 19, 9)]

def wCfg (c : CfgState) (l : List (Fld × Nat)) : State := wDev (wSet wAll l) (fun d => { d with cfg := c })
def cst (n : Nat) : Fld × Nat := (Reg.CFG_STATUS_state, n)
def at141 := wCfg { loadedAtStart := true, started := true } [(Reg.CFG_STATUS_design_loaded, 1)]
def at142 := wCfg { started := true } [cst 2]
def at143 := wCfg { started := true, loadedAtStart := true } [cst 2]
def at144 := wCfg {} [cst 1, (Reg.CFG_CTL_arm, 1)]
def at145 := wCfg { loadFailure := true, errDrive := true } [cst 5, (Reg.SIO_PIN_CTL_mode 3, 2)]
def at146 := wCfg { started := true } [cst 2, (Reg.CFG_STATUS_done_drive, 1)]
def at147 := wCfg {} [(Reg.CFG_CTL_path, 2)]
def at148 := wCfg { started := true, loadedAtStart := true } [cst 2, (Reg.CFG_CTL_path, 2)]
def at149 := wCfg { doneHeld := true } [(Reg.CFG_STATUS_done_drive, 0)]
def at150 := wDev (wCfg { loadFailure := true } [(Reg.ID_STATE_sp_state, 3), (Reg.CFG_CTL_path, 1)]) (fun d => { d with boot := { d.boot with role := 2 } })
def at151 := wCfg {} [(Reg.ID_STATE_sp_state, 3), (Reg.CFG_CTL_path, 1)]
/-- A header of a FULL section of 256 bytes. -/
def hFull (kind target : Byte) (len : Nat) : List Byte :=
  toBytes 0x38344C4D 4 ++ [0, 2, kind, target] ++ toBytes 0x4812 4 ++ List.replicate 20 0 ++ toBytes len 8 ++ List.replicate 88 0
def cRead : CfgState := { started := true, reading := .none }
def cBody (len : Nat) : CfgState := { started := true, reading := .body, length := len, offset := 128, header := hFull 1 0 len, kind := 1, region := 1, any := true }
/-- A part of a stream over the boot flash. -/
def fl (l : List Byte) : Feed := .flash l
def wordsB (l : List Nat) : List Byte := l.flatMap (fun v => toBytes v 4)
def cPart (len : Nat) : CfgState := { started := true, loadedAtStart := true, reading := .body, length := len, offset := 128, kind := 2, region := 1, any := true }
def path3 : Fld × Nat := (Reg.CFG_CTL_path, 3)
def mg : List Byte := toBytes 0x38344C4D 4
def hBad : List Byte := List.replicate 128 0
def hPart : List Byte := mg ++ [0, 2, 2, 0] ++ toBytes 0x4812 4 ++ List.replicate 20 0 ++ toBytes 3328 8 ++ List.replicate 12 0 ++ [1, 0] ++ List.replicate 10 0 ++ [1] ++ List.replicate 63 0 ++ List.replicate 3072 0
def hOther : List Byte := mg ++ [0, 2, 1, 2] ++ toBytes 0x4812 4 ++ List.replicate 12 0 ++ [1] ++ List.replicate 7 0 ++ toBytes 256 8 ++ List.replicate 88 0
def hId : List Byte := mg ++ [0, 2, 1, 0] ++ toBytes 0x4813 4 ++ List.replicate 20 0 ++ toBytes 256 8 ++ List.replicate 88 0
def endSec : List Byte := hFull 15 0 256 ++ toBytes 0x4C494154 4 ++ toBytes (crc32c (hFull 15 0 256)).toNat 4 ++ List.replicate 120 0
def wS (c : CfgState) (st : Nat) : State := wCfg c [cst st, path3]

def at152 := wS { cRead with loadedAtStart := true } 2
def at153 := wCfg {} [cst 1, path3, (Reg.CFG_STATUS_design_loaded, 1)]
def at154 := fl (hFull 15 0 256)
def at155 := wCfg cRead [cst 2, path3, (Reg.CFG_STATUS_design_loaded, 1)]
def at156 := wS { cRead with any := true } 2
def at157 := fl (wordsB [2, 5, 6])
def at158 := fl (wordsB [0x20000000])
def at159 := wordsB [0x20000000]
def at160 := fl (wordsB [0x30000001])
def at161 := wordsB [0x30000001]
def at162 := fl (wordsB [0x10010001, 0xC00000])
def at163 := wordsB [0x10010001, 0xC00000]
def at164 := fl (wordsB [0x10010001, 0x1000000])
def at165 := wordsB [0x10010001, 0x1000000]
def at166 := fl (wordsB [0x10020001, 7])
def at167 := wordsB [0x10020001, 7]
def at168 := fl (wordsB [0x10030001, 0])
def at169 := wordsB [0x10030001, 0]
def at170 := fl (wordsB [0x10030001, 1])
def at171 := wordsB [0x10030001, 1]
def at172 := wS { cPart 512 with clearing := true } 2
def at173 := fl (wordsB [0x10040001, 1])
def at174 := wordsB [0x10040001, 1]
def at175 := fl (wordsB [0x10040001, 2])
def at176 := wordsB [0x10040001, 2]
def at177 := fl (wordsB [0x10040001, 3])
def at178 := wordsB [0x10040001, 3]
def frB : List Byte := wordsB [0x20000000] ++ List.replicate 4096 7
def at179 := wS { cPart 8192 with address := 5 } 2
def at180 := wS { cPart 8192 with clearing := true } 2
def at181 := wS { cPart 8192 with burst := 0 } 2
def at182 := fl (wordsB [0x30000001, 5, 6])
def at183 := wordsB [0x30000001, 5, 6]
def p63 : Fin 64 := 63
def at184 := wS { cPart 8192 with kind := 1 } 2
def at185 := fl (wordsB [0x30000001, 0x201800FC, 6])
def at186 := wordsB [0x30000001, 0x201800FC, 6]
def at187 := fl (wordsB [0xF0000001])
def at188 := wordsB [0xF0000001]
def at189 := wS { cRead with reading := .skip, loadedAtStart := true } 3
def at190 := fl (wordsB [0x4C494154])
def at191 := wordsB [0x4C494154]
def at192 := fl (wordsB [0x4C494155])
def at193 := wordsB [0x4C494155]
def at194 := wS { cBody 256 with clearing := true } 4
def trl (stored : List Byte) : List Byte := toBytes 0x4C494154 4 ++ toBytes (crc32c stored).toNat 4 ++ List.replicate 120 0

def at195 := wS { cPart 256 with kind := 15 } 4
def at196 := wS { cPart 256 with kind := 1 } 4
def at197 := wS { cPart 256 with reconf := [0, 5] } 4
def at198 := wS { cBody 8192 with fence := true } 2
def at199 := wS { cBody 8192 with clearing := true } 2
def wHostLd : State := wDev (wCfg (cPart 512) [cst 2]) (fun d => { d with mbs := [(0, { job := some { desc := {}, wait := .loadData 0x1000 100 4 } })] })

def hm8 : HostMem := { stores := [(0x1004, wordsB [1, 5])] }

/-- Field 383 (the last of compute die 11) is loaded with marks at a frame. -/
def fdie : Nat := dieOf 383
def fa0 : Nat := frameOfIndex 11 0
def wGl (m : Mark) (l : List (Fld × Nat)) : State :=
  wDev (wSet wAll ([(Reg.FAB_FIELD_LOADED_loaded 11, 0xFFFFFFFF), (Reg.CFG_STATUS_design_loaded, 1)] ++ l)) (fun d => d.setMark (frameBase fa0) m)
def at200 := wGl {} [(Reg.GLEAN_CTL_pause 11, 1)]
def at201 := wGl { flips := [5] } []
def at202 := wGl {} [(Reg.GLEAN_POS_frame 11, 65535), (Reg.GLEAN_STATUS_laps 11, 0xFFFF)]
def at203 := wGl {} [(Reg.GLEAN_CE_count 11, 0xFFFFFFFF)]
def at204 := wDev (wGl { flips := [1] } [(Reg.PACE_STATUS_running, 1)]) (fun d => { d with pac := { d.pac with phase := .waves } })
def at205 := wGl { flips := [1] } [(Reg.GLEAN_CTL_ue_freeze 11, 1), (Reg.PACE_STATUS_running, 1)]

def k2 : Fin 4 := 2
def i11 : Fin 16 := 11
def at206 := wGl {} [(Reg.ERR_SCRUB_CTL_pause 19 3, 1)]
def k1 : Fin 4 := 1
def ks0 : Fin 4 := 0
def gmk (a : Nat) (m : Mark) (l : List (Fld × Nat)) : State := wDev (wSet wAll l) (fun d => d.setMark a m)
def at207 := gmk (granBase 3) { flips := [5] } [(Reg.ERR_SCRUB_POS_unit 19 0, 0)]
def at208 := wSet wAll [(Reg.ERR_SCRUB_POS_unit 19 0, 3145727), (Reg.ERR_SCRUB_STATUS_laps 19 0, 0xFFFF)]
def at209 := gmk (granBase 3) {} []
def at210 := gmk (tileBase (fieldAt 11 0) 0) {} []
def hbmRdy : List (Fld × Nat) := [(Reg.HBM_STK_STATUS_state 19 0, 2)]
def qw1 : QWord := { data := [5], valid := 1, eom := true }
def cxs : Ctx := { hot := some (2047, 0), queue := [qw1] }
def wQs : State := wDev wAll (fun d => d.setCtx 65535 cxs)
def k44 : Fin 5 := 4
def k43 : Fin 5 := 3
def wTm (t : Nat) (l : List (Fld × Nat)) : State := wDev (wSet wAll l) (fun d => { d with pac := { d.pac with tb := t } })
def at211 := wTm 16000000 [(Reg.ERR_BKT_STATUS_level 19 3, 1), (Reg.ERR_BKT_CFG_leak_ms 19 3, 1)]
def at212 := wTm 16000000 [(Reg.GLEAN_BKT_CFG_leak_ms 11, 0)]
def at213 := wTm 15999999 [(Reg.GLEAN_BKT_CFG_leak_ms 11, 1)]
def at214 := wGl {} [(Reg.GRAN_TEST_CTL_pause 19, 1)]
def wGt (t e n : Nat) : State := wDev (wTm t [(Reg.GRAN_TEST_CTL_interval_us 19, 2), (Reg.GRAN_TEST_STATUS_region 19, n)]) (fun d => { d with scrub := { d.scrub with testEnd := d.scrub.testEnd.put 3 e 0 }, mem := d.mem.writeBytes (granRegion 3 n + 4094) [7, 8] })
def wTest (n : Nat) : State := wDev (wGl {} [(Reg.GRAN_TEST_STATUS_active 19, 1), (Reg.GRAN_TEST_STATUS_region 19, n)]) (fun d => { d with mem := d.mem.writeBytes (saveBase 3 + 4094) [7, 8], scrub := { d.scrub with remaps := [4 * (3 * 49152 + 6143 * 8)] } })
def at215 := wDev wAll (fun d => { d with scrub := { d.scrub with remaps := [0, 1] } })
def k31 : Fin 32 := 31
def frz : Fld × Nat := (Reg.FAB_FROZEN_frozen 11, 0x80000000)
def at216 := wDev (wGl {} [frz, (Reg.PACE_STATUS_running, 1)]) (fun d => { d with pac := { d.pac with phase := .waves } })
def fld0 : Nat := frameField fa0
def crit : List (Fld × Nat) := [(Reg.ERR_CRIT_enable 0, 1), (Reg.ERR_CRIT_field 0, fld0)]
def at217 := wGl { flips := [1, 2] } []
def at218 := wGl { flips := [1] } []
def at219 := wGl { flips := [32770] } crit
def wEss (l : List (Fld × Nat)) : State := wDev (wGl { flips := [1] } (crit ++ l)) (fun d => { d with mem := Memory.writeBytes d.mem (granBase 3) [0xFF] })
def at220 := wSet wAll [(Reg.ERR_BKT_CFG_threshold 19 3, 2), (Reg.ERR_BKT_STATUS_level 19 3, 1)]
def at221 := wSet wAll [(Reg.ERR_BKT_CFG_threshold 19 3, 2), (Reg.ERR_BKT_STATUS_level 19 3, 2)]

def er (sev cls : Nat) : ErrRec := { severity := sev, cls := cls }
def e16 : ErrDie := { fifo := List.replicate 16 (er 4 7), urgent := some (er 5 3), ovf := 0xFFFF }
def e15 : ErrDie := { fifo := List.replicate 15 (er 1 7), ovf := 9, seq := 0xFFFFFFFF }
def at222 : ErrDie := { fifo := [er 1 7, { er 1 7 with count := 0xFFFFFFFF }] }
def at223 := { er 1 7 with count := 0xFFFFFFFF }
def wErr (e : ErrDie) : State := wDev (wSet wAll [(Reg.ID_STATE_sp_state, 3)]) (fun d => { d with errs := [(15, e)] })
def at224 := wSet wAll [(Reg.ERR_HALT_STATUS_halted, 1), (Reg.ERR_HALT_STATUS_cause_valid, 1), (Reg.ERR_HALT_CAUSE_class, 3)]

def md0 : Fin 4 := 0
def md1 : Fin 4 := 1
def md2 : Fin 4 := 2
def wOff (po sy : Bool) : State := wDev w0 (fun d => { d with pwr := { d.pwr with porst := po, sysrst := sy } })
def f383 : Fin 384 := 383
def powerOn_ : Instr := .powerOn
def at225 := wGl {} [(Reg.ERR_HALT_STATUS_halted, 1), (Reg.ERR_HALT_CAUSE_class, 3)]
def wHeld : State := wDev wAll (fun d => { d with pwr := { d.pwr with held := 0xFFFF } })
def heldR (h : BitVec 16) (l : List (Fld × Nat)) : State := wDev (wSet wAll ([(Reg.PWR_DIE_RESET_cd, h.toNat % 4096), (Reg.PWR_DIE_RESET_bd, h.toNat / 4096)] ++ l)) (fun d => { d with pwr := { d.pwr with held := h } })
def at226 := heldR 0x0801 [(Reg.GRAN_TEST_STATUS_active 19, 1)]
def at227 := heldR 0x0801 [(Reg.PWR_START_started, 0x800)]
def at228 := wDev (heldR 0x0801 [(Reg.PWR_START_started, 0x800)]) (fun d => { d with pwr := { d.pwr with heldAt := d.pwr.heldAt.put 11 1 0 } })
def at229 := heldR 0x8E00 [(Reg.PWR_START_started, 0x800)]
def at230 := wSet wAll [(Reg.GRAN_TEST_STATUS_active 19, 1)]
def at231 := wSet w0 [(Reg.PWR_START_started, 0xFFF)]

def wBoot (b : Boot) (sp : Nat) : State := wDev (wSet wAll [(Reg.ID_STATE_sp_state, sp)]) (fun d => { d with boot := b })
def noFl : Option (List Byte) := none
def ad0 : BitVec 48 := 0
def o4 : BitVec 36 := 0x1FFFFC
def at232 := wBoot { mode := 1 } 1
def at233 := wBoot { mode := 3 } 4
def at234 := wBoot { attempt := false } 4
def at235 := wBoot { mode := 1 } 2
def at236 := { wBoot { started := true, version := 0xFF030201 } 2 with fuses := { w0.fuses with partition := 0xFF } }
def at237 := wSet (wBoot {} 3) [(Reg.MB_CTL_enable 3, 1), (Reg.ID_EVENTS_pending, 7), (Reg.ID_HEARTBEAT_count, 9)]
def at238 := wSet (wBoot {} 3) [(Reg.ID_HEARTBEAT_count, 0xFFFFFFFF)]
def wWin (a : Nat) : State := wDev (wBoot {} 3) (fun d => { d with host := { d.host with window := a - 0x1FFFFC }, mem := d.mem.writeBytes a [9, 8, 7] })
def gTop : Nat := granBase 3 + 0x1800000 - 4
def hrd (s : State) : BusRes × Dev := ({ s.dev with host := { s.dev.host with linkUp := true } } : Dev).busReadN s.fuses .host (s.dev.host.window + o4.toNat) 4 []
def hwr (s : State) : BusRes × Dev := ({ s.dev with host := { s.dev.host with linkUp := true } } : Dev).busWriteN s.fuses .host (s.dev.host.window + o4.toNat) [1, 2, 3, 4] []
def dataOf (x : BusRes × Dev) : List Byte := match x.1 with | .ok l => l | _ => []
def hole : Nat := 0x7FFFFFFFF000
def at239 := dataOf (hrd (wWin gTop))
def wSlp : State := wDev (wWin gTop) (fun d => { d with sec := { d.sec with zeroing := [63] } })
def at240 := dataOf (hwr (wWin gTop))

/-- Mailbox 15 enabled, with a command ring of 16 entries and a response ring of 16, and the firmware running. -/
def m15 : Fin 16 := 15
def wMb (b : Mailbox) (l : List (Fld × Nat)) : State :=
  wDev (wSet wAll ([(Reg.ID_STATE_sp_state, 3), (Reg.MB_CTL_enable 15, 1), (Reg.MB_CMD_SIZE_log2 15, 4), (Reg.MB_RSP_SIZE_log2 15, 4)] ++ l))
    (fun d => { d with mbs := [(15, b)] })
def t0b : BitVec 16 := 0
def tl (n : Nat) : BitVec 16 := BitVec.ofNat 16 n
/-- The 64 bytes of a command descriptor. -/
def dsc (op : Nat) (p : List Byte) : List Byte := toBytes op 2 ++ [0, 0, 9, 0, 0, 0] ++ List.replicate 8 0 ++ p ++ List.replicate (48 - p.length) 0
def chd (n : Nat) : Fld × Nat := (Reg.MB_CMD_HEAD_head 15, n)
def hm0 : HostMem := {}
def hmC (op : Nat) : HostMem := { stores := [(15 * 64, dsc op [])] }
def hmF : HostMem := { fails := [15 * 64 + 63] }
def k15 : Fin 17 := 15
def k16 : Fin 17 := 16
def at241 := wMb {} [(Reg.MB_STATUS_error 15, 1)]
def at242 := wDev (wMb {} [chd 65535, (Reg.MB_CMD_TAIL_tail 15, 0)]) (fun d => d.hostTake (hmC 0x0605))
def at243 := wMb {} [chd 65535, (Reg.MB_CMD_TAIL_tail 15, 65535)]
def rsp7 : Rsp := { tag := 7 }
def rsp7p : Rsp := { tag := 7, progress := true }
def at244 := wMb { held := [rsp7] } [(Reg.MB_CTL_enable 15, 0), (Reg.MB_RSP_TAIL_tail 15, 65535)]
def at245 := wMb { held := [rsp7] } [chd 65535]
def at246 := wMb {} [(Reg.MB_RSP_TAIL_tail 15, 65535), (Reg.MB_RSP_HEAD_head 15, 65530)]
def at247 := wDev (wMb {} []) (fun d => { d with host := { d.host with linkUp := false } })
def at248 := wMb {} [(Reg.MB_RSP_TAIL_tail 15, 15)]
def at249 := wMb {} [(Reg.MB_RSP_TAIL_tail 15, 14)]
def at250 := wMb {} [(Reg.MB_CTL_enable 15, 0), (Reg.MB_STATUS_error 15, 1), chd 7]
def at251 := wMb { held := [{}], fetched := [{}], irqDue := true } []
def wIrq (t : Nat) : State := wDev (wMb { irqDue := true, irqLast := some 3 } [(Reg.MB_CTL_vector 15, 63), (⟨Reg.MSIX_CTL 63, 0, 1⟩, 0), (Reg.MB_IRQ_HOLDOFF_us 15, 2)]) (fun d => { d with pac := { d.pac with tb := t } })
def jb0 : Job := { desc := {} }
def jbP : Job := { desc := {}, wait := .pacerStopped }
def at252 := wMb { job := some jb0 } []
def at253 := wMb { job := some jbP } [(Reg.PACE_STATUS_running, 1)]
def dOp (op : Nat) : Desc := { op := op }
def noD : List Desc := []
def at254 := wMb { fetched := [dOp 0x0605] } []
def at255 := wMb { fetched := [dOp 0xFFFF] } []

/-- Mailbox 15 holds one command. -/
def wCmd (x : Desc) (l : List (Fld × Nat)) : State := wMb { fetched := [x] } l
def xDi (busy rsvd : Bool) (op session : Nat) : Desc := { op := op, busy := busy, rsvd := rsvd, session := session, long := decide (op ∈ longOps) }
def di (op : Nat) : Desc := xDi false false op 0
def wBusy : State := wCmd (xDi true false 0x0605 0) []
def m17 : Fin 17 := 15
/-- Mailbox 15, secure, holds one command. -/
def secFuse : Fuses := { w0.fuses with mbxWorld := 0xFFFF, life := 0x3F }
def xp (op ses : Nat) (p : List Byte) : Desc := { op := op, session := ses, long := decide (op ∈ longOps), p := p ++ List.replicate (48 - p.length) 0 }
def wC (x : Desc) (l : List (Fld × Nat)) : State := { wCmd x l with fuses := secFuse }
def wN (x : Desc) (l : List (Fld × Nat)) : State := wCmd x l
def shortCmd : Instr × Nat := (.devInfo m17, 0x0101)
def longCmd : Instr × Nat := (.memHbmInit m17, 0x0605)
def runCmd : Instr × Nat := (.runStop m17, 0x0303)
def m16r : Fin 17 := 16
def fedCmd : Instr × Nat := (.memWrite m17 hm0 [], 0x0603)
def eUrg : ErrDie := { urgent := some (er 5 3) }
def at256 := wDev wAll (fun d => { d with errs := [(3, eUrg)] })
def at257 := wC (xDi false true 0x0101 0) []
def at258 := xDi false true 0x0101 0
def at259 := wC (xDi true true 0x0605 0) []
def at260 := xDi true true 0x0605 0
def at261 := wC (xDi false true 0x0605 0) []
def at262 := xDi false true 0x0605 0
def at263 := wC (xDi false true 0x0603 0) []
def at264 := xDi false true 0x0603 0
def at265 := wCmd (di 0x0101) []
def k3m : Fin 17 := 3
def wPri : State := wDev (wMb { fetched := [di 0x0101] } [(Reg.MB_CTL_priority 3, 1)]) (fun d => { d with mbs := [(3, { fetched := [di 0x0101] }), (15, { fetched := [di 0x0101] })] })
def at266 := xDi true false 0x0605 0
def at267 := xDi false false 0x0605 3
def at268 := wSet wAll [(Reg.ERR_HALT_STATUS_halted, 1)]
def at269 := wCmd (di 0x0605) []
def at270 := { di 0x0101 with mute := true }
def x13 (op : Nat) (p : List Byte) : Desc := xp op 0 p
def at271 := wC (x13 0x0101 []) []
def at272 := wC (x13 0x0102 []) []
def at273 := wC (x13 0x0102 [2, 0, 0, 0, 0x7F, 1]) []
def at274 := x13 0x0102 [2, 0, 0, 0, 0x7F, 1]
def at275 := wC (x13 0x0102 [1, 0, 0, 0, 19]) []
def at276 := x13 0x0102 [1, 0, 0, 0, 19]
def dv3 : Desc := x13 0x0102 [3, 0, 0, 0, 19, 0x0A]
def at277 := wC (x13 0x0102 [3, 0, 0, 0, 99, 99]) []
def at278 := x13 0x0102 [3, 0, 0, 0, 99, 99]
def at279 := wC (x13 0x0102 [4]) []
def at280 := wC (x13 0x0102 [2, 0, 0, 0, 0x80, 1]) []
def at281 := x13 0x0102 [2, 0, 0, 0, 0x80, 1]
def wWarm (t : Nat) : State := wDev wAll (fun d => { d with fw := { d.fw with warmAt := some 5 }, errs := [(0, e15)], pac := { d.pac with tb := t } })
/-- The address of FAB_WAVE_CTL of compute die 0, and of PACE_CTL, as parameters. -/
def adr (a : Nat) : List Byte := toBytes a 4
def xr : Desc := x13 0x0103 (adr Reg.PACE_CTL)
def xs : Desc := x13 0x0103 (adr Reg.SEC_PAGE_WORLD)
def xw : Desc := x13 0x0104 (adr Reg.PACE_CTL ++ [1])
def xFab : Nat := 0x0B010000
def at282 := wC (x13 0x0103 [1]) []
def wHd (x : Desc) : State := wDev (wC x []) (fun d => { d with pwr := { d.pwr with held := 0x0800 } })
def xFr : Desc := x13 0x0103 (adr (Reg.FAB_FROZEN 11))
def xFw : Desc := x13 0x0104 (adr (Reg.FAB_FROZEN 11))
def xNo (op : Nat) : Desc := x13 op (adr 0x0F000000)
def at283 := wC (x13 0x0104 [1]) []
def xsw : Desc := x13 0x0104 (adr Reg.SEC_PAGE_WORLD)
def at284 := wC (x13 0x0201 [4]) []
def at285 := wC (x13 0x0201 [1]) []
def sLoad : Session := { num := 1, mb := 15, capture := false }
def sCap : Session := { num := 2, mb := 15, capture := true, samples := [(5, [true]), (6, [false])], tiles := [3] }
def withS (s : State) : State := wDev s (fun d => { d with fw := { d.fw with sessions := [sLoad, sCap], nextSession := 3 } })
def at286 := withS (wC (x13 0x0201 [3]) [])
def at287 := wC (x13 0x0201 [3]) [cst 2]
def at288 := wC (x13 0x0201 [3]) []
def at289 := wC (xp 0x0202 1 []) []
def xld : Desc := xp 0x0202 1 ([0, 0, 0, 0, 0, 0, 0, 0] ++ adr 0x400004)
def at290 := withS (wC xld [path3])
def at291 := wC (xp 0x0203 1 []) []
def at292 := withS (wC (xp 0x0203 1 []) [(Reg.CFG_STATUS_state, 1)])
def at293 := wC (x13 0x0204 []) []
def at294 := wC (x13 0x0205 []) [cst 5]
def at295 := wC (x13 0x0301 [3, 4]) []
def at296 := wC (x13 0x0301 [3, 3]) [(Reg.PACE_STATUS_running, 1)]
def at297 := wC (x13 0x0301 [3, 3, 0, 0, 7]) []
def at298 := x13 0x0301 [3, 3, 0, 0, 7]
def dn : Fld × Nat := (Reg.CFG_STATUS_done_drive, 0)
def run1 : Fld × Nat := (Reg.PACE_STATUS_running, 1)
def xSt (b : Byte) (l : Bool) : Desc := { x13 0x0302 [3, 0, 0, 0, 0, 0, 0, 0, b] with long := l }
/-- A manager with its position, whose mailbox 15 holds a command. -/
def wMg (x : Desc) (l : List (Fld × Nat)) : State :=
  wDev (wC x ([(Reg.LCH_CTL_pos_valid 16, 1), dn] ++ l)) (fun d => { d with boot := { d.boot with role := 1 } })
def cg : Job := { desc := {}, wait := .cluster }
def wMgHeld (x : Desc) : State := wDev (wMg x []) (fun d => { d with mbs := [(3, { job := some cg }), (15, { fetched := [x] })], fw := { d.fw with turn := [3, 3] } })
def at299 := wC (xSt 1 false) [run1]
def at300 := wC (xSt 1 true) [run1]
def at301 := wC (xSt 1 false) [dn]
def at302 := wC (xSt 1 true) [dn]
def at303 := wMg (xSt 1 true) []
def at304 := wMg (xSt 0 true) []
def xSp (l : Bool) : Desc := { x13 0x0303 [] with long := l }
def at305 := wC (xSp false) [dn]
def at306 := wMg (xSp true) [run1]
def xSe (n : Byte) (l : Bool) : Desc := { x13 0x0304 [n] with long := l }
def at307 := wC (xSe 0 false) [dn]
def at308 := wC (xSe 5 false) [dn]
def at309 := wMg (xSe 5 true) []
def xsa (b : Byte) (l : Bool) : Desc := { x13 0x0305 [5, 0, 0, 0, 0, 0, 0, 0, b] with long := l }
def at310 := wC (xsa 2 false) []
def at311 := wC (xsa 1 false) []
def at312 := wC (xsa 0 false) []
def at313 := wMg (xsa 1 true) []
def at314 := wMg (xsa 0 true) []
def at315 := wC (x13 0x0306 []) []
def at316 := wC (x13 0x0307 []) []
def jw (k : Byte) : Job := { desc := x13 0x0307 [k], wait := .pacerStopped, since := 3 }
def wJw (k : Byte) (t : Nat) : State := wDev (wMb { job := some (jw k) } []) (fun d => { d with pac := { d.pac with tb := t } })

def hot8 : List (Fld × Nat) := (List.range 8).map (fun m => (Reg.HBM_STK_STATUS_state (stackSel m) (m % 2), 2))
def frzR : List (Fld × Nat) := [(Reg.SP_CORE_DBG_STATUS_in_monitor 3, 1), (Reg.SP_FREEZE_dma, 1)]
def frzI : Instr × Nat := (.memFill m17 [], 0x0604)
def at317 := wC (x13 0x0604 []) frzR
def xck : Desc := x13 0x0401 [0, 0x10]
def at318 := wC (x13 0x0401 [1]) []
def at319 := wC xck [(Reg.PACE_STATUS_running, 1)]
def imgS : State := wDev (wN (di 0) []) (fun d => { d with fab := { d.fab with q := [(128, true)] }, mem := [(5, 1), (0x4100000000, 7)], tiles := [(0, { acc := 5 })] })
def qE : Nat × Bool := (128, true)
def rst : Desc := x13 0x0402 []
def at320 := wC rst (hot8 ++ [(Reg.PACE_STATUS_running, 1)])
def at321 := withS (wC rst hot8)
def memOrd : List (Fld × Nat) := hot8 ++ [0, 1, 2, 3].map (fun b => (Reg.HBM_MAP_CTL_lock (baseSel b), 1))
def ckp0 : Checkpoint := { q := [(256, true)], mem := [(0x4100000001, 9)], marks := [], tiles := [], binOut := [], presented := [], streamOut := [], committed := 77, time := 5, digest := (wDev w0 id).dev.cfg.digest }
def secF5 : State := wDev imgS (fun d => d.set (Reg.SEC_FIELD_WORLD_secure 0) 2)
def aDes : Nat := 0x4100000001
def at322 := wC (x13 0x0403 [0x80, 1]) []
def at323 := x13 0x0403 [0x80, 1]
def srF : Desc := x13 0x0403 [0, 0, 31]
def secFl : State := wDev (wN srF []) (fun d => d.set (Reg.SEC_FIELD_WORLD_secure 0) 1)
def at324 := wC (x13 0x0403 [0x7F, 1, 31]) []
def at325 := x13 0x0403 [0x7F, 1, 31]
def rest : State → State := fun s => wDev (wSet s [(Reg.PACE_STATUS_running, 1)]) (fun d => { d with pac := { d.pac with phase := .waves } })
def at326 := rest (wC (x13 0x0403 [0x7F, 1, 31]) [])
def fcB : Desc := x13 0x0404 [0x7F, 1, 31, 31, 8, 15, 1]
def fcG : Desc := x13 0x0404 [0x7F, 1, 31, 31, 7, 15, 1]
def fc0 : Desc := x13 0x0404 [0, 0, 31, 31, 7, 15, 1]
def at327 := wDev (wN fc0 []) (fun d => d.set (Reg.SEC_FIELD_WORLD_secure 0) 1)
def rl (k : Byte) : Desc := x13 0x0405 [0x7F, 1, 31, 31, 7, 15, 0, k]
def at328 := rest (wC (rl 1) [])
def xco (p : Byte) : Desc := x13 0x0501 [0, 0, 0, 0, 0, 0, 0, 0, 1, 0, 0, 0, p]
def four : State → State := fun s => wDev s (fun d => { d with fw := { d.fw with sessions := [sCap, sCap, sCap, sCap] } })
def tls : List Nat := [36863]
def at329 := four (wC (xco 1) [])
def noT : List Nat := []
def sit : List Byte := [0x7F, 1, 31, 31, 7, 15, 2]
def at330 := wC (xp 0x0502 2 sit) []
def at331 := withS (wC (xp 0x0502 2 sit) [])
def at332 := wC (xp 0x0503 2 []) []
def at333 := withS (wC (xp 0x0503 2 []) [])
def at334 := wC (xp 0x0504 2 []) []
def at335 := withS (wC (xp 0x0504 2 []) [])
def at336 := wC (xp 0x0505 2 []) []
def at337 := withS (wC (xp 0x0505 2 []) [])
def at338 := wC (x13 0x0601 [1]) []
def at339 := wC (x13 0x0601 [0, 0, 0x10, 0, 0xFF, 0xFF]) []
def at340 := x13 0x0601 [0, 0, 0x10, 0, 0xFF, 0xFF]
def spO : Nat := 0x3FFFC0
def grB : Nat := 0
def grO : Nat := 0xC00000
def spA : Nat := 0x70003FFFC0
def xmr (a n : Nat) : Desc := x13 0x0602 (toBytes a 8 ++ List.replicate 8 0 ++ toBytes n 8)
def wSecG (x : Desc) : State := wDev (wN x []) (fun d => d.set (Reg.SEC_GRAN_WORLD_region 0) 0xFFFF)
def at341 := wC (xmr (2 ^ 48 - 1) 2) []
def at342 := wDev (wC (xmr gA 64) []) (fun d => d.granPut gA [(7, true)])
def xmw (a n : Nat) : Desc := x13 0x0603 (toBytes a 8 ++ toBytes (15 * 64) 8 ++ toBytes n 8)
def hmW : HostMem := { stores := [(15 * 64, [1, 2, 3, 4])] }
def hmX : HostMem := { hmW with fails := [15 * 64 + 3] }
def lnk : State → State := fun s => wDev s (fun d => { d with host := { d.host with linkUp := true } })
def vTake (h : HostMem) (s : State) : Dev := s.dev.hostTake h
def dat (n : Nat) : List Byte := List.take n [1, 2, 3, 4]
def at343 := lnk (wC (xmw spA 4) frzR)
def at344 := vTake hmW (lnk (wC (xmw spA 4) frzR))
def at345 := lnk (wC (xmw spA 4) [])
def at346 := vTake hmX (lnk (wC (xmw spA 4) []))
def at347 := lnk (wSecG (xmw gA 3))
def at348 := vTake hmX (lnk (wSecG (xmw gA 3)))
def at349 := lnk (wC (xmw gA 3) [])
def at350 := vTake hmX (lnk (wC (xmw gA 3) []))
def at351 := vTake hmW (lnk (wC (xmw spA 4) []))
def xmf (a : Nat) (n : Byte) : Desc := x13 0x0604 (toBytes a 8 ++ [n, 0, 0, 0, 0, 0, 0, 0, 1, 2, 3, 4, 5, 6, 7, 8])
def pat (n : Nat) : List Byte := (List.replicate n [1, 2, 3, 4, 5, 6, 7, 8]).flatten
def at352 := wC (xmf (2 ^ 48 - 15) 16) []
def k3b : Fin 4 := 3
def xhi (o r : Byte) : Desc := x13 0x0605 [o, r]
def at353 := wC (xhi 2 3) [(Reg.HBM_MAP_CTL_lock 19, 1)]
def busyHbm (x : Desc) : State := wDev (wC x []) (fun d => { d with mbs := [(3, { job := some { desc := {}, wait := .hbmStacks [1, 7] } })] ++ d.mbs, fw := { d.fw with turn := [3, 3] } })
def at354 := wC (xhi 3 3) [(Reg.HBM_MAP_CTL_lock 19, 1), (Reg.HBM_MAP_CTL_order 19, 1)]
def at355 := busyHbm (x13 0x0606 [0x80])
def at356 := busyHbm (x13 0x0606 [0x41])
def at357 := wC (x13 0x0607 [0x80, 4]) []
def at358 := x13 0x0607 [0x80, 4]
def at359 := busyHbm (x13 0x0607 [0x80, 3])
def at360 := x13 0x0607 [0x80, 3]
def at361 := wC (x13 0x0607 [0x80, 3]) hot8
def t1f : Fin 2 := 1
def rt3 : Fin 4 := 3
def xpr (b : Byte) : Desc := x13 0x0608 [7, 3, 63, 1, 15, b]
def busyRg (x : Desc) : State := wDev (wC x []) (fun d => { d with mbs := [(3, { job := some { desc := {}, wait := .region 7 3 0 } })] ++ d.mbs, fw := { d.fw with turn := [3, 3] } })
def at362 := wC (xpr 1) [(Reg.MEMSEC_RGN_STATUS_state 19 1 3, 2)]
def at363 := wC (xpr 0) [(Reg.MEMSEC_RGN_STATUS_state 19 1 3, 2)]
def wEn : State := wC (xpr 0) [(Reg.MEMSEC_STK_CTL_enable 19 1, 1)]
def dOff : Dev := (wC (xpr 0) []).dev.regPut secFuse (mbWho secFuse m17) (Reg.MEMSEC_STK_CTL 19 1) 1

def xlu (p : Byte) (b : Byte) : Desc := x13 0x0701 [b, 0, 0, 0, 0, 0, 0, 0, 0, 0, 0, 0, 0, 0x80, p, 15, 1]
def hold3 (j : Job) (s : State) : State := wDev s (fun d => { d with mbs := [(3, { job := some j })] ++ d.mbs, fw := { d.fw with turn := [3, 3] } })
def jpr : Job := { desc := {}, wait := .prbs 191 }
def at364 := hold3 jpr (wC (xlu 0 3) [])
def fec9 : Nat := 9
def at365 := wSet (wC (di 0) []) [(Reg.LANE_BANK_CTL_enable (bankSel 11) (11 % 3), 1)]
def xld2 (b : Byte) : Desc := x13 0x0702 [b, 0, 0, 0, 0, 0, 0, 0, 1, 0, 0, 0, 0, 0x80]
def at366 := hold3 jpr (wC (xld2 3) [])
def at367 := wC (x13 0x0703 [192]) []
def at368 := wC (x13 0x0703 [191]) []
def xla (f : Byte) : Desc := x13 0x0704 [191, f, 15, 127]
def at369 := wDev (wC (xla 1) []) (fun d => { d with boot := { d.boot with role := 1 } })
def upH : List (Fld × Nat) := [(Reg.LANE_STATUS_state 19 47, 4), (Reg.LCH_LINK_STATUS_state 19 47, 1)]
def xpb (k : Byte) : Desc := x13 0x0705 [191, k]
def at370 := hold3 jpr (wC (xpb 3) [])
def xey (k : Byte) : Desc := x13 0x0706 [191, 3, k]
def at371 := hold3 jpr (wC (xey 15) [])
def xcw (f : Byte) : Desc := x13 0x0707 [0xFF, 0xFF, 0, 0, f]
def ctxV : State → State := fun s => wDev (wSet s [(Reg.PACE_STATUS_running, 1)]) (fun d => d.setCtx 0xFFFF { d0 := 3 })
def xcs : Desc := x13 0x0707 [0xFF, 0xFF, 0, 0, 3]
def xcr : Desc := x13 0x0708 [0xFF, 0xFF]
def at372 := wDev (wN xcr []) (fun d => d.setCtx 0xFFFF { d0 := 8 })
def xsl : Desc := x13 0x0709 [3, 47, 1, 0, 2, 0, 0, 0, 0xC0, 3]
def hmS : HostMem := { stores := [(15 * 64, [1, 0, 2, 0])] }
def hmSx : HostMem := { hmS with fails := [15 * 64] }
def at373 := wC xsl [(Reg.PACE_STATUS_running, 1)]
def at374 := vTake (hmS) (wC xsl [(Reg.PACE_STATUS_running, 1)])
def at375 := vTake (hmSx) (lnk (wC xsl []))
def at376 := vTake (hmS) (lnk (wC xsl []))
def mgr (s : State) : State := wDev s (fun d => { d with boot := { d.boot with role := 1 } })
def xcf : Desc := x13 0x0801 [1]
def at377 := hold3 { desc := {}, wait := .form true } (mgr (wC xcf []))
def hlo (role pos : Byte) (ser : Byte) : List Byte := [ser, 0, 0, 0, 0, 0, 0, 0, role, pos] ++ List.replicate 22 0
def sees (role pos : Byte) (s : State) : State := wDev s (fun d => { d with links := [(5, { hello := hlo role pos 9 })] })
def at378 := sees 1 0 (mgr (wC xcf []))
def xcfm : Desc := { x13 0x0801 [1] with mute := true }
def at379 := sees 2 255 (mgr (wC xcfm []))
def at380 := wC (x13 0x0802 []) []
def p1n : Nat := 1
def mem1 : Member := { serial := 9, hops := 1, lane := 5 }
def two (s : State) : State := wDev s (fun d => { d with cluster := { d.cluster with members := [{ serial := 3 }, mem1], formed := true } })
def xrl (p : Byte) : Desc := x13 0x0803 [p, 0, 0, 0, 0, 0, 0, 0, 0xC0, 3]
def fwd : State → State := fun s => wDev (wSet (mgr s) [(Reg.LCH_FWD_valid 16 127, 1), (Reg.LCH_FWD_lane 16 127, 191)]) (fun d => { d with cluster := { d.cluster with formed := true }, fw := { d.fw with inbox := [{ lane := 191, src := 127, toLocal := false, data := 7 }] } })
def hmCx (op : Nat) : HostMem := { hmC op with fails := [15 * 64 + 63] }
def opI : Nat := 0x0101
def opM : Nat := 0x0602
def at381 := lnk (wC (xrl 127) [])
def at382 := vTake (hmCx opI) (lnk (wC (xrl 127) []))
def at383 := vTake (hmC opM) (lnk (wC (xrl 127) []))
def at384 := lnk (wC (xrl 128) [])
def at385 := vTake (hmC opI) (lnk (wC (xrl 128) []))
def at386 := vTake (hmC opI) (lnk (wC (xrl 127) []))
def at387 := lnk (fwd (wC (xrl 127) []))
def at388 := vTake (hmC opI) (lnk (fwd (wC (xrl 127) [])))
def jr : Job := { desc := x13 0x0803 [127], wait := .relay 127 64, since := 5 }
def jT (t : Nat) : State := wDev (wMb { job := some jr } []) (fun d => { d with pac := { d.pac with tb := t } })
def p127 : Nat := 127
def h64 : Nat := 64
def at389 := wC (x13 0x0804 []) []
def at390 := fwd (wC (x13 0x0805 []) [])
def at391 := wDev (wN (x13 0x0805 []) []) (fun d => d.set ⟨Reg.SEC_PAGE_WORLD, 0, 32⟩ 0xFFFFFFFF)
def jL : Job := { desc := {}, wait := .lanes 3 [46, 47] }
def jF (e : Bool) : Job := { desc := {}, wait := .form e }
def jC : Job := { desc := {}, wait := .cluster }
def jS (j : Job) (l : List (Fld × Nat)) : State := wMb { job := some j } l
def laneUp (i : Nat) : Fld × Nat := (Reg.LANE_STATUS_state 19 i, 4)
def ls2 : List Nat := [46, 47]
def dn1 : List Nat := [47]
def dn2 : List Nat := [46, 47]
def dn0 : List Nat := []
def bb3 : Fin 4 := 3
def at392 := jS jL [laneUp 46, laneUp 47]
def fitH (s : State) : State := wDev (wSet (mgr s) []) (fun d => { d with links := [(5, { hello := [9, 0, 0, 0, 0, 0, 0, 0, 2, 0xFF, 0, 0] ++ toBytes deviceFeatures.toNat 4 ++ toBytes d.fwVersion 3 ++ List.replicate 13 0 })], cluster := { d.cluster with members := [{}] } })
def at393 := sees 1 0 (mgr (jS (jF true) []))
def at394 := mgr (jS (jF true) [])
def at395 := fitH (jS (jF true) [])
def at396 := wDev (two (jS jC [])) (fun d => { d with cluster := { d.cluster with missed := [1] } })
def ans1 : InMsg := { lane := 191, src := 127, toLocal := false, data := BitVec.ofNat 256 (2 ^ 48) }
def at397 := wDev (jS jr []) (fun d => { d with fw := { d.fw with inbox := [ans1] } })

def lg (s : State) : State := wDev s (fun d => { d with log := { entries := [{ er 1 1 with logIndex := 4 }, { er 2 2 with logIndex := 5 }], next := 6 } })
def at398 := lg (wC (x13 0x0901 [5, 0, 0, 0, 9]) [])
def at399 := x13 0x0901 [5, 0, 0, 0, 9]
def at400 := lg (wC (x13 0x0902 []) [])
def at401 := wC (x13 0x0903 [12]) []
def at402 := wC (x13 0x0903 [19]) []
def at403 := wC (x13 0x0904 [149]) []
def at404 := wC (x13 0x0904 [0xBD, 2]) []
def at405 := x13 0x0904 [0xBD, 2]
def at406 := wC (x13 0x0904 [0xBC, 2]) []
def at407 := x13 0x0904 [0xBC, 2]
def at408 := wN (x13 0x0904 [0xBC, 2]) [(⟨Reg.SEC_PAGE_WORLD, 0, 32⟩, 0xFFFFFFFF)]
def at409 := wC (x13 0x0905 [12]) []
def at410 := wC (x13 0x0905 [0, 0, 2]) []
def at411 := x13 0x0905 [0, 0, 2]
def at412 := wC (x13 0x0905 [16, 0xFF]) []
def at413 := x13 0x0905 [16, 0xFF]
def at414 := wC (x13 0x0905 [16, 4]) []
def at415 := wC (x13 0x0905 [11, 0xFF, 1]) []
def at416 := x13 0x0905 [11, 0xFF, 1]
def k2f : Fin 4 := 2
def at417 := wC (x13 0x0905 [11, 2, 1]) []
def at418 := x13 0x0905 [11, 2, 1]
def at419 := wC (x13 0x0905 [19, 3, 1]) []
def at420 := x13 0x0905 [19, 3, 1]
def k1f : Fin 4 := 1
def at421 := wC (x13 0x0905 [11, 1, 1]) []
def at422 := x13 0x0905 [11, 1, 1]
def at423 := wC (x13 0x0906 [6]) []
def at424 := wC (x13 0x0906 [5]) []
def at425 := wC (x13 0x0907 []) []
def blob : List Byte := [0x57, 0x4C, 0x42, 0x4B, 3, 7] ++ List.replicate 250 0
def hmB (l : List Byte) : HostMem := { stores := [(15 * 64, l)] }
def hmBf (l : List Byte) : HostMem := { hmB l with fails := [15 * 64 + 239] }
def xki (u k : Byte) : Desc := x13 0x0A01 [u, k, 0, 0, 0, 0, 0, 0, 0xC0, 3]
def at426 := lnk (wC (xki 3 7) frzR)
def at427 := vTake (hmB blob) (lnk (wC (xki 3 7) frzR))
def at428 := lnk (wC (xki 3 7) [])
def at429 := vTake (hmBf blob) (lnk (wC (xki 3 7) []))
def at430 := lnk (wC (xki 3 8) [])
def at431 := vTake (hmB blob) (lnk (wC (xki 3 8) []))
def at432 := lnk (wC (xki 3 6) [])
def at433 := vTake (hmB blob) (lnk (wC (xki 3 6) []))
def at434 := lnk (wC (xki 3 7) [(Reg.SEC_UNWRAP_STATUS_busy, 1)])
def at435 := vTake (hmB blob) (lnk (wC (xki 3 7) [(Reg.SEC_UNWRAP_STATUS_busy, 1)]))
def at436 := vTake (hmB blob) (lnk (wC (xki 3 7) []))
def at437 := wC (x13 0x0A02 [4, 0]) []
def at438 := wC (x13 0x0A02 [0, 15]) []
def xws (k n v : Nat) : Desc := x13 0x0A03 ([BitVec.ofNat 8 k, 0] ++ toBytes n 2 ++ [BitVec.ofNat 8 v])
def g63 : Fin 64 := 63
def at439 := wC (xws 0 383 1) [(Reg.PACE_STATUS_running, 1)]
def at440 := wC (xws 0 383 1) []
def at441 := wC (xws 0 384 1) []
def dWs : Dev := (wC (xws 2 63 1) []).dev
def at442 := wC (xws 3 25 0) [(Reg.SEC_LOCK_lock, 1)]
def lrec (a : Byte) : List Byte := [0, 0, 0, 0, a] ++ List.replicate 235 0
def xlc (p : Byte) : Desc := x13 0x0A04 [p, 0, 0, 0, 0, 0, 0, 0, 0xC0, 3]
def xul : Desc := x13 0x0A06 [0, 0, 0, 0, 0, 0, 0, 0, 0xC0, 3]
def at443 := lnk (wC (xlc 5) frzR)
def at444 := vTake (hmB (lrec 5)) (lnk (wC (xlc 5) frzR))
def at445 := lnk (wC (xlc 5) [])
def at446 := vTake (hmBf (lrec 5)) (lnk (wC (xlc 5) []))
def at447 := vTake (hmB (lrec 4)) (lnk (wC (xlc 5) []))
def at448 := lnk (wC (xlc 5) [(Reg.LC_REQ_STATUS_busy, 1)])
def at449 := vTake (hmB (lrec 5)) (lnk (wC (xlc 5) [(Reg.LC_REQ_STATUS_busy, 1)]))
def at450 := vTake (hmB (lrec 5)) (lnk (wC (xlc 5) []))
def at451 := lnk (wC (xul) frzR)
def at452 := vTake (hmB (lrec 0x20)) (lnk (wC (xul) frzR))
def at453 := vTake (hmBf (lrec 0x20)) (lnk (wC (xul) []))
def at454 := vTake (hmB (lrec 5)) (lnk (wC (xul) []))
def at455 := lnk (wC (xul) [(Reg.LC_REQ_STATUS_busy, 1)])
def at456 := vTake (hmB (lrec 0x20)) (lnk (wC (xul) [(Reg.LC_REQ_STATUS_busy, 1)]))
def at457 := vTake (hmB (lrec 0x20)) (lnk (wC (xul) []))
def at458 := wC (x13 0x0A05 []) []
def at459 := wC (x13 0x0A07 [8]) []
def at460 := wC (x13 0x0A07 [7]) []
def xtr (n : Nat) : Desc := x13 0x0B01 (toBytes n 4 ++ [8])
def b0n : Nat := 0
def offT : Nat := (wC (xtr 0) []).dev.traceBase + 0x3FFF8
def at461 := wC (xtr 0x3FFF9) []
def at462 := wDev (wN (xtr 0x3FFF8) []) (fun d => each [0, 1, 2, 3] (fun b d => d.set (Reg.SEC_GRAN_WORLD_region b) 0xFFFF) d)
def at463 := wC (xtr 0x3FFF8) []
def xmk (c : Byte) : Desc := x13 0x0B02 [1, 0, 0, 0, c]
def k0m : Fin 4 := 0
def jX (w : JobWait) (op : Nat) : Job := { desc := { op := op, p := [3] }, wait := w, since := 5 }
def f9 : Nat := 9
def secD (f : Sec → Sec) (s : State) : State := wDev s (fun d => { d with sec := f d.sec })
def at464 := secD (fun s => { s with clearing := [9] }) (wMb { job := some (jX (.fieldWorld f9) 0) } [])
def at465 := jX (.fieldWorld f9) 0
def at466 := id (wMb { job := some (jX (.fieldWorld f9) 0) } [])
def at467 := secD (fun s => { s with zeroing := [9] }) (wMb { job := some (jX (.worldFlush) 0) } [])
def at468 := id (wMb { job := some (jX (.worldFlush) 0) } [])
def at469 := id (wMb { job := some (jX (.unwrap) 0) } [(Reg.SEC_UNWRAP_STATUS_busy, 1)])
def at470 := id (wMb { job := some (jX (.unwrap) 0) } [])
def at471 := id (wMb { job := some (jX (.unwrap) 0) } [(Reg.SEC_UNWRAP_STATUS_fail, 1)])
def at472 := id (wMb { job := some (jX (.lifecycle) 0) } [(Reg.LC_REQ_STATUS_busy, 1)])
def at473 := id (wMb { job := some (jX (.lifecycle) 0x0A06) } [])
def at474 := jX (.lifecycle) 0x0A06
def at475 := id (wMb { job := some (jX (.lifecycle) 0) } [(Reg.LC_REQ_STATUS_fail, 1), (Reg.LC_REQ_STATUS_fail_code, 6)])
def at476 := id (wMb { job := some (jX (.lifecycle) 0) } [(Reg.LC_REQ_STATUS_fail, 1), (Reg.LC_REQ_STATUS_fail_code, 5)])
def at477 := secD (fun s => { s with wipes := [(.keys, false)] }) (wMb { job := some (jX (.wipes) 0) } [])
def at478 := id (wMb { job := some (jX (.wipes) 0) } [])

def wSec (l : List (Fld × Nat)) (sec : Sec) : State := wDev (wSet wAll l) (fun d => { d with sec := sec })
def sfw : Fld × Nat := (⟨Reg.SEC_FIELD_WORLD 11, 0, 32⟩, 0x80000000)
def g15 : Fin 16 := 15
def j31 : Fin 32 := 31
def xC : Nat := 0xBFFFF
def xT : Nat := 0x1DFFF
def xG : Nat := 0x17FFFF
def bMem (s : State) (off : Nat) (l : List Byte) : State := wDev s (fun d => { d with mem := Memory.writeBytes d.mem (0x7000000000 + off) l })
def wF : State := wDev (wSec [sfw] { clearing := [383, 3] }) (fun d => { d with mem := Memory.writeBytes d.mem (binBase 383 0 + 0xBFFFE) [1, 2, 3] })
def at479 := wSec [(Reg.PACE_STATUS_running, 1)] {}
def sgw (v : Nat) : Fld × Nat := (⟨Reg.SEC_GRAN_WORLD 3, 0, 32⟩, v)
def wZ : State := wDev (wSec [sgw 0x8000] { zeroing := [63], worldWait := [(Reg.SEC_GRAN_WORLD 3, 5)] }) (fun d => { d with mem := Memory.writeBytes d.mem (granBase 3 + 15 * 0x180000) [1, 2] })
def wZd (n : Nat) : State := wDev wZ (fun d => { d with rc := { d.rc with dir := [(granBase 3 + 15 * 0x180000 + n, {})] } })
def wE5 : Word := 5
def lineZ : Nat := granBase 3 + 15 * 0x180000 + 0x17FFC0
def eZ : DirEntry := { sharers := 0x801 }
def eZp : DirEntry := { sharers := 0, pend := 0x800 }
def wZe (e : DirEntry) : State := wDev wZ (fun d => { d with rc := { d.rc with dir := [(lineZ, e)] } })
def at480 := wSec [sgw 0x8000] {}
def at481 := wSec [sgw 0x8000, (Reg.SEC_LOCK_lock, 1)] {}
def at482 := wSec [(⟨Reg.SEC_HBM_WORLD_HI, 0, 32⟩, 5)] {}
def at483 := wSec [(⟨Reg.SEC_HBM_WORLD_LO, 0, 32⟩, 5)] {}
def of0 : BitVec 20 := 0xFFF00
def ti4 : Fin 5 := 4
def ti0 : Fin 5 := 0
def wB : State := bMem (wSec [] { keys := [(3 * 16 + 7, [9])] }) 0xFFF00 blob
def gblob (use slot len : Byte) : List Byte := [0x57, 0x4C, 0x42, 0x4B, use, slot, len] ++ List.replicate 249 0
def wU (l : List Byte) : State := bMem (wSec [(Reg.SEC_UNWRAP_STATUS_busy, 1), (Reg.SEC_UNWRAP_CTL_offset, 0xFFF00)] {}) 0xFFF00 l
def at484 := wDev (wU (gblob 1 0 32)) (fun d => d.set (Reg.MEMSEC_RGN_STATUS_state (stackSel 7) 1 3) 1)
def at485 := wSec [(Reg.LC_CHALLENGE_CTL_valid, 1)] {}
def at486 := wDev (wSec [(Reg.LC_CHALLENGE_CTL_valid, 1)] {}) (fun d => { d with pac := { d.pac with tb := 960000000000 } })
def job1 : LcJob := { old := 2, plan := [8], blowing := true }
def job2 : LcJob := { old := 2, plan := [7, 8], blowing := true }
def job3 : LcJob := { old := 2, plan := [7, 8] }
def at487 := wSec [] { lc := some job3 }
def at488 := wSec [(Reg.LC_REQ_STATUS_busy, 1)] { lc := some job1 }
def at489 := wSec [(Reg.LC_REQ_STATUS_busy, 1)] { lc := some job2 }
def at490 := wSec [(Reg.LC_REQ_STATUS_busy, 1)] { lc := some job2, haltDue := some 0x1307 }
def at491 := wSec [(Reg.SEC_TAMPER_EN_enable, 15)] {}
def at492 := wSec [(Reg.SEC_TAMPER_EN_enable, 30)] { tamperPin := true }
def at493 := wSec [(Reg.SEC_TAMPER_EN_enable, 16)] {}
def at494 := wSec [(Reg.SEC_TAMPER_EN_enable, 16)] { lc := some job1 }
def at495 := wSec [(Reg.SEC_TAMPER_EN_enable, 16)] { lc := some job3 }
def at496 := wSec [(Reg.SEC_TAMPER_EN_enable, 1)] { lc := some job1 }
def at497 := wSec [] { wipes := [(.sp, true)] }
def at498 := bMem (wSec [] { wipes := [(.sp, true)], lc := some job3, keys := [(3, [4])] }) 5 [7]
def at499 := bMem (wSec [] { wipes := [(.keys, true)], lc := some job3, keys := [(3, [4])] }) 5 [7]
def at500 := bMem (wSec [] { wipes := [(.memsec, true)], lc := some job3, keys := [(3, [4])] }) 5 [7]
def at501 := bMem (wSec [] { wipes := [(.granary, true)], lc := some job3, keys := [(3, [4])] }) 5 [7]
def at502 := wSec [] { wipes := [(.keys, true)], lc := some job3 }
def n5 : Nat := 5
def m7f : Fin 8 := 7
def at503 := bMem (wSec [] { wipes := [(.sp, true)] }) 5 [7]
def at504 := wSec [] { wipes := [(.granary, true)] }
/-- A lifecycle request in LC_REQ. -/
def wLc (l : List Byte) (more : List (Fld × Nat)) (life : BitVec 15) : State :=
  { wSec (((List.range 60).map (fun n => (⟨Reg.LC_REQ n, 0, 32⟩, leAt l (4 * n) 4))) ++ more) {} with fuses := { w0.fuses with life := life, serial := 77 } }
def lreq (act ser : Nat) (nonce : List Byte) : List Byte := toBytes 0x4C435251 4 ++ [BitVec.ofNat 8 act, 0, 0, 0] ++ toBytes ser 8 ++ nonce ++ List.replicate (224 - nonce.length) 0
def some1 : Option Nat := some 1
def noLc : Option Nat := none
def lcNow : List (Fld × Nat) := [(Reg.LC_CHALLENGE_CTL_valid, 1), (⟨Reg.LC_CHALLENGE 3, 0, 32⟩, 0xFF000000)]
def nonce3 : List Byte := List.replicate 15 0 ++ [0xFF]
def at505 := wLc [] [(Reg.LC_REQ_STATUS_busy, 1)] 0
def at506 := wLc (lreq 1 77 nonce3) [(Reg.PACE_STATUS_running, 1)] 0
def at507 := wLc (lreq 3 77 []) [] 0
def at508 := wLc (lreq 1 76 []) [] 0
def at509 := wLc (lreq 1 77 []) [] 0
def at510 := wLc (lreq 1 77 nonce3) lcNow 0

def wP (l : List (Fld × Nat)) (p : Power) : State := wDev (wSet wAll l) (fun d => { d with pwr := p })
def pw : Power := { held := 0 }
def wNow (n : Nat) (s : State) : State := wDev s (fun d => { d with pac := { d.pac with tb := n } })
def vad : Fld × Nat := (Reg.PWR_PMB_ADDR_valid 11, 1)
def st11 : Fld × Nat := (Reg.PWR_START_started, 0x800)
def at511 := wP [vad, (Reg.PWR_VOLT_target 11, 900)] { pw with pmbTries := [(11, 2)], regOn := 0x800 }
def at512 := wP [vad] { pw with pmbTries := [(11, 2)] }
def at513 := wP [vad] { pw with pmbTries := [(11, 3)] }
def alr : List (Fin 12 × BitVec 16) := [(0, 9)]
def alr0 : List (Fin 12 × BitVec 16) := []
def pq : Power := { pw with startQueue := [11], goAt := 5 }
def tq : Nat := 5 + 550 * 16000
def at514 := wNow (tq - 1) (wP [vad] pq)
def at515 := wNow tq (wP [vad] pq)
def at516 := wNow 800007 (wP [vad] { pq with regOn := 0x800, releasedAt := 9 })
def at517 := wNow 800008 (wP [vad] { pq with regOn := 0x800, held := 0x0FFF, releasedAt := 9 })
def at518 := wNow (tq + 16000000 - 1) (wP [vad] pq)
def at519 := wNow (tq + 16000000) (wP [vad] { pq with held := 0x0FFF })
def f352 : Fin 384 := ⟨(dieFields 11).headD 0, by decide⟩
def f353 : Fin 384 := ⟨((dieFields 11)[1]?).getD 0, by decide⟩
def at520 := wNow 32000 (wP [] { pw with awake := [f352.val], wokeAt := [(11, 2)] })
def at521 := wP [] { pw with held := 0xFFFF }
def at522 := wNow 32001 (wP [] { pw with awake := [f352.val], wokeAt := [(11, 2)] })
def at523 := wP [(Reg.PWR_TOTAL_mw, 700000)] { pw with overCap := 2 }
def at524 := wP [(Reg.PWR_TOTAL_mw, 7)] { pw with overCap := 2 }
def rmsg (n : Nat) : List Byte := [1, 19, 9, 0] ++ toBytes n 4 ++ List.replicate 56 0
def bmsg (seq : Nat) : List Byte := [2, 19] ++ toBytes seq 2 ++ toBytes 5000 4 ++ toBytes 600 2 ++ toBytes 800 2 ++ List.replicate 52 0
def fly (dst : Nat) (l : List Byte) : Flight := { pkt := { vc := 2, type := 4, dst := dst, lenM1 := 63, data := l }, die := 16, router := 0, arrived := true }
def wFly (x : Flight) (l : List (Fld × Nat)) (b : Budget) : State := wDev (wP l pw) (fun d => { d with bud := [(15, b)], noc := { d.noc with flights := [x] } })
def xrp : Flight := fly serviceNode (rmsg 5000)
def xbud (n : Nat) : Flight := fly (unitNode 19) (bmsg n)
def at525 := wFly xrp [(Reg.ID_STATE_sp_state, 3)] {}
def at526 := wFly (xbud 32771) [] { seq := some 3 }
def at527 := wFly (xbud 3) [] { seq := some 65535 }
def at528 := wFly (xbud 3) [] { seq := none }
def at529 := wP [(Reg.PWR_DIE_STATUS_fallback 19, 1)] pw
def at530 := wFly xrp [(Reg.PWR_FALLBACK_mw 19, 9), (Reg.PWR_DIE_STATUS_fallback 19, 0)] { seq := some 3, pending := some (1, 2, 3, 4) }
def at531 := wP [(Reg.PWR_BUDGET_mw 11, 5000), (Reg.FAB_WAVE_SPACING_spacing 11, 40), (Reg.PWR_VOLT_target 11, 750), (Reg.PWR_VSET_mv 11, 750)] { pw with samples := [(11, { mw := 0 })] }
def at532 := wP [(Reg.PWR_BUDGET_mw 11, 5000), (Reg.FAB_WAVE_SPACING_spacing 11, 8), (Reg.PWR_VOLT_target 11, 750), (Reg.PWR_VSET_mv 11, 750)] { pw with samples := [(11, { mw := 0 })] }
def at533 := wP [(Reg.PWR_BUDGET_mw 11, 5000), (Reg.FAB_WAVE_SPACING_spacing 11, 0), (Reg.PWR_VOLT_target 11, 605), (Reg.PWR_VSET_mv 11, 750)] { pw with samples := [(11, { mw := 6000 })] }
def at534 := wP [(Reg.PWR_BUDGET_mw 11, 5000), (Reg.FAB_WAVE_SPACING_spacing 11, 4090), (Reg.PWR_VOLT_target 11, 600), (Reg.PWR_VSET_mv 11, 750)] { pw with samples := [(11, { mw := 6000 })] }
def at535 := wP [(Reg.PWR_BUDGET_mw 11, 5000), (Reg.FAB_WAVE_SPACING_spacing 11, 0), (Reg.PWR_VOLT_target 11, 700), (Reg.PWR_VSET_mv 11, 750)] { pw with samples := [(11, { mw := 4750 })] }
def at536 := wP [(Reg.PWR_BUDGET_mw 11, 5000), (Reg.FAB_WAVE_SPACING_spacing 11, 0), (Reg.PWR_VOLT_target 11, 745), (Reg.PWR_VSET_mv 11, 750)] { pw with samples := [(11, { mw := 4749 })] }
def at537 := wP [(Reg.PWR_BUDGET_mw 11, 5000), (Reg.FAB_WAVE_SPACING_spacing 11, 7), (Reg.PWR_VOLT_target 11, 745), (Reg.PWR_VSET_mv 11, 750)] { pw with samples := [(11, { mw := 5000 })] }
def at538 := wP [] { pw with went := true }
def smp : Sample := { tmax := 905, tmin := -100, mw := 5000, mv := 900 }
def smpHot : Sample := { smp with tmax := 1600, mv := 951 }
def smpH : Sample := { smp with tmax := 1600 }
def smpC : Sample := { smp with tmax := 849 }
def u447 : Fin 448 := 447
def q16 : Fin 17 := 16
def q15 : Fin 17 := 15
def q11 : Fin 17 := 11
def cap1 : BitVec 16 := 65535
def bk5 : BitVec 8 := 5
def w2 : Fin 3 := 2
def noPec : Option Byte := none
def somePec : Option Byte := some 1
def cPow : Instr := .power
def noPorst : State := wP [] { pw with porst := false }
def ret447 : Fld × Nat := (Reg.PWR_RET_STATUS_held 19, 0x8000)
def at539 := wP [(Reg.GRAN_TEST_STATUS_active 19, 1), (Reg.GRAN_TEST_STATUS_region 19, 5760)] pw
def u5 : Fin 448 := 5
def at540 := wDev wAll (fun d => { d with cfg := { d.cfg with reconf := [5] } })
def at541 := wP [ret447] { pw with waking := [447] }
def at542 := wP [(⟨Reg.TEL_SEQ 19, 0, 32⟩, 0xFFFFFFFF)] pw
def at543 := wP [(Reg.TEL_CTL_pause 19, 1)] pw
def at544 := wP [(Reg.TEL_ALERT_CTL_trip_c, 95)] pw
def at545 := wP [(Reg.TEL_ALERT_CTL_trip_c, 95), (Reg.PWR_DIE_STATUS_trip 11, 1)] pw
def at546 := wP [(Reg.PWR_WEAR_CTL_pause 19, 1)] pw
def at547 := wP [(Reg.PWR_WEAR_CTL_pause 19, 0)] pw
def w0f : Fin 3 := 0
def at548 := wHbm 7 2 { unlocked := true } []
def at549 := wHbm 7 1 { unlocked := true, starting := true } []
def at550 := wP [(Reg.PACE_STATUS_degraded, 1)] { pw with tbSwitch := some true }
def at551 := wP [(Reg.PACE_STATUS_degraded, 1)] { pw with tbSwitch := some false }
def to35 : Nat × Nat := (3, 5)
def at552 := wP [(Reg.CLK_CLKOUT_STATUS_switching, 1)] { pw with clkSwitch := some to35 }
def at553 := wP [(Reg.CLK_CDC_STATUS_timeouts 32, 65535)] pw
def pkW : Packet := { vc := 0, type := 1, src := unitNode 19, dst := unitNode 18, lenM1 := 3 }
def wPk : State := wDev wAll (fun d => { d with noc := { d.noc with waiting := [pkW] } })
def at554 := wP [(⟨Reg.CLK_GATE_EN 19, 0, 16⟩, 0)] pw
def at555 := wP [(Reg.LANE_BANK_CTL_enable 19 2, 1)] pw
def at556 := wP [(Reg.CLK_CLKOUT_CTL_en, 1)] pw
def wCk : State := wP [(Reg.CLK_CLKOUT_CTL_en, 1), (⟨Reg.CLK_CLKOUT_SSC, 0, 32⟩, 0x3F)] { pw with clkSource := (1, 0) }
def ckw : Clkout := wCk.dev.clkout.getD { source := (0, 0), divisor := 0, high := 0, depth := 0, rate := 0 }

def wDbg (l : List (Fld × Nat)) (g : Debug) : State := wDev (wSet wAll l) (fun d => { d with dbg := g })
def hR : BitVec 16 := 0x39
def hW : BitVec 16 := 0x29
def aPc : Word := BitVec.ofNat 32 Reg.PACE_CTL
def aCd : Word := BitVec.ofNat 32 (Reg.FAB_WAVE_SPACING 3)
def aNo : Word := 0x40000000
def crA (h : BitVec 16) (a : Word) : BitVec 4 := crc4 (requestBits h a none)
def crR (h : BitVec 16) : BitVec 4 := crA h aPc
def crWA (a : Word) : BitVec 4 := crc4 (requestBits hW a (some 7))
def crW (h : BitVec 16) : BitVec 4 := crc4 (requestBits h aPc (some 7))
def kd0 : Fin 3 := 0
def kd1 : Fin 3 := 1
def kd2 : Fin 3 := 2
def noPor : State := wOff false true
def lcF (l : BitVec 15) (s : State) : State := { s with fuses := { w0.fuses with life := l } }
def at557 := wSet wAll [(Reg.DBG_STATUS_bus_err, 1)]
def pd : Nat × Nat := (0x39, 5)
def gPd : Debug := { pending := some pd, ready := none }
def pdR : Nat × Nat := (0x39, aPc.toNat)
def rdy9 : Option Word := some 9
def rdyNo : Option Word := none
def gRd (r : Option Word) : Debug := { pending := some pdR, ready := some r }
def at558 := wDbg [] (gRd rdyNo)
def wCore (l : List (Fld × Nat)) (x : CoreState) : State := wDev (wSet wAll l) (fun d => { d with cores := [(3, x)] })
def inM : Fld × Nat := (Reg.SP_CORE_DBG_STATUS_in_monitor 3, 1)
def mEn : Fld × Nat := (Reg.SP_CORE_DBG_CTL_mon_en 3, 1)
def mPr : Fld × Nat := (Reg.SP_CORE_DBG_CTL_mon_prio 3, 15)
def cr64 : CoreState := { pc := 64, running := true, psr := 0x1F }
def crSt : CoreState := { cr64 with stepping := true }
def svK : Nat := 0x7000000400
def svA : List (Fld × Nat) := [(Reg.SP_CORE_DBG_SAVE_addr 3, 0x400), (Reg.ID_STATE_sp_state, 3)]
def noSv : Fld × Nat := (Reg.SP_CORE_DBG_SAVE_addr 3, 0xFFFFFFFF)
def at559 := wCore [inM, mEn] cr64
def at560 := wCore [mEn, mPr] cr64
def at561 := wCore (mEn :: svA) cr64
def k7 : Fin 8 := 7
def cmp : List (Fld × Nat) := [(Reg.SP_CMP_LO_lo 3 7, 64), (Reg.SP_CMP_CTL_en 3 7, 1)]
def cmpD : List (Fld × Nat) := cmp ++ [(Reg.SP_CMP_CTL_kind 3 7, 1), (Reg.SP_CMP_CTL_acc 3 7, 2)]
def at562 := wCore (mEn :: cmp) cr64
def at563 := wCore (mEn :: cmpD) cr64
def ep44 : Fld × Nat := (⟨Reg.SP_CORE_EPC 3, 0, 32⟩, 0x44)
def stp : Fld × Nat := (Reg.SP_CORE_DBG_CTL_step 3, 1)
def g30 : Fin 31 := 30
def wSv : State := wDev (wCore ([inM, mEn, stp] ++ svA) cr64) (fun d => { d with mem := d.mem.writeBytes (svK + 120) [1, 2, 3, 4, 5, 6, 7, 8] })
def at564 := wCore [inM, mEn, noSv, ep44] cr64
def at565 := wCore [inM, mEn, noSv, ep44, (Reg.SP_CORE_DBG_STATUS_halt_pending 3, 1)] cr64
def at566 := wCore [(Reg.SP_MARK_EN_en 3, 0)] {}
def mk3 : List (Fld × Nat) := [(Reg.SP_MARK_EN_en 3, 0x80000000), (Reg.SP_MARK_ID_class 3, 31)]
def pk : List Byte := List.replicate 32 5
def pks0 : List (List Byte) := []
def wTr (k : Nat) (l : List (Fld × Nat)) : State := wDev (wSet wAll (mk3 ++ l)) (fun d => { d with trace := { d.trace with fifo := [(3, List.replicate k pk)], lost := [3] } })
def at567 := wTr 8 [(Reg.DBG_TRACE_LOST_count, 0xFFFFFFFF)]
def at568 := wTr 1 [(Reg.DBG_TRACE_CTL_en, 1), (Reg.DBG_TRACE_WP_wp, 8191)]
def at569 := wTr 1 [(Reg.DBG_TRACE_CTL_en, 1), (Reg.DBG_TRACE_BASE_base, 95)]
def at570 := wTr 1 [(Reg.DBG_TRACE_CTL_en, 1), (Reg.DBG_TRACE_BASE_base, 96)]
def at571 := wCore [inM, (⟨Reg.SP_FREEZE, 0, 32⟩, 1), (Reg.SP_WDT_COUNT_us, 0)] {}
def at572 := wCore [(Reg.SP_WDT_COUNT_us, 1)] {}
def at573 := wCore [(Reg.SP_WDT_COUNT_us, 0)] {}
def at574 := wCore [inM, mEn] {}

/-! ### Examples that the spec works out -/

/-- Chapter 1's example: F317 is local field 21 of C09. -/
theorem test_field_317 : dieOf 317 = 9 ∧ idxOf 317 = 21 ∧ fieldAt 9 21 = 317 := by decide

/-- Chapter 10's example: the frame address of minor 45 of stook column 9 in F317, and where that frame starts. -/
theorem test_frame_address : logicFrame 317 9 45 = 0x9AA6D0 ∧ frameBase 0x9AA6D0 = 0x5000000000 + 0x9AA6D0 * 0x1000 := by decide

/-- Table 7.5: one address in the three orders, with its controller's NI. -/
theorem test_hbm_three_orders :
    (hbmSplit 0 0x702345A60 = (1, 0x102345A60) ∧ hbmSplit 1 0x702345A60 = (2, 0xE0468B60) ∧
      hbmSplit 2 0x702345A60 = (1, 0x102345A60)) ∧
    hbmPlace 0 0x702345A60 = { channel := 2, pc := 1, sid := 1, group := 1, bank := 2, row := 2257, burst := 19, byte := 0 } ∧
    hbmPlace 1 0x702345A60 = { channel := 11, pc := 0, sid := 0, group := 3, bank := 1, row := 7176, burst := 3, byte := 0 } ∧
    hbmPlace 2 0x702345A60 = { channel := 9, pc := 1, sid := 0, group := 2, bank := 1, row := 8262, burst := 17, byte := 0 } ∧
    ([0, 1, 2].map (fun o => controllerNi (hbmController o 0x702345A60))) = [2, 1, 3] ∧
    (hbmPlace 2 0x702345AA0).channel = 10 ∧ (hbmSplit 1 0x702345B60).1 = 3 := by decide

/-- Chapter 10: a CFGBUS cycle carries two bytes while STB is high, the one at the rising edge first, and none while it is low (R339). -/
theorem test_cfgbus_cycles :
    (Feed.bus [{ stb := true, rise := 1, fall := 2 }, { stb := false, rise := 3, fall := 4 }, { stb := true, rise := 5, fall := 6 }]).bytes =
      [1, 2, 5, 6] := by decide

/-- Chapter 16's example: the balls of L070, of LREF04, and of VCC_FUSE under C05. -/
theorem test_balls :
    [ballAt 13 57, ballAt 13 56, ballAt 13 54, ballAt 13 53, ballAt 13 58, ballAt 13 55] =
      [.laneTx 70 false, .laneTx 70 true, .laneRx 70 false, .laneRx 70 true, .gnd, .gnd] ∧
    [ballAt 18 57, ballAt 18 56] = [.lref 4 false, .lref 4 true] ∧
    [ballAt 28 26, ballAt 28 45, ballAt 29 26, ballAt 29 45].all (fun b => b == .supply .vccFuse) = true ∧
    [rowName 13, rowName 18, rowName 28, rowName 29] = [['P'], ['Y'], ['A', 'K'], ['A', 'L']] := by decide

/-- Chapter 16's example: junctions under a lid at 45 °C, and those of stacks and of B0 under one at 75 °C. -/
theorem test_heat :
    HeatPath.compute.junction 450 25000 = 750 ∧ HeatPath.base.junction 450 51800 = 916 ∧ HeatPath.base.junction 450 69800 = 1078 ∧
    HeatPath.stack.junction 450 15000 = 750 ∧ HeatPath.stack.junction 750 15000 = 1050 ∧
    HeatPath.base.junction 750 69800 = 1378 := by decide

/-- Table 14.1: the rails may come up in the order of its steps, and VCC_SRAM not before VCC_AUX. -/
theorem test_rails : powerUpOk boardRails.reverse = true ∧ powerUpOk [.vccAux, .vccSram] = false := by decide

/-- Chapter 14's example: CLKOUT at 100 MHz from source 1, and its spread. -/
theorem test_clkout :
    (wDev (wSet w0 [(⟨Reg.CLK_CLKOUT_CTL, 0, 32⟩, 0xF03), (⟨Reg.CLK_CLKOUT_SSC, 0, 32⟩, 0x3E5)]) (fun d => { d with
      pwr := { d.pwr with clkSource := clkSourceOf 0xF03 } })).dev.clkout =
      some { source := (1, 0), divisor := 16, high := 8, depth := 5, rate := 31 } := by decide +kernel

/-- Table 15.7: comparator 3 of core 2 matches while the watchdog holds 300 µs. -/
def wStop : State := wSet wAll [(Reg.SP_WDT_LOAD_us, 100000), (Reg.SP_WDT_COUNT_us, 300), (⟨Reg.SP_FREEZE, 0, 32⟩, 1),
  (Reg.SP_CORE_DBG_CTL_mon_en 2, 1), (Reg.SP_CMP_LO_lo 2 3, 64), (Reg.SP_CMP_CTL_en 2 3, 1)]

theorem test_watchdog_stop :
    let stopped := wStop.dev.comparator 2 0 64 4 68
    let held := stopped.wdtTick 30000000
    let back := held.monitorReturn 2
    stopped.inMonitor 2 = true ∧ held.get Reg.SP_WDT_COUNT_us = 300 ∧ back.get Reg.SP_WDT_COUNT_us = 1000 ∧
      (back.wdtTick 800).get Reg.SP_WDT_COUNT_us = 200 ∧ (back.wdtTick 800).wdtKick.get Reg.SP_WDT_COUNT_us = 100000 := by
  decide +kernel

/-- The ledger of Table 3.7. -/
def wLedger : State := wSet w0 ((List.range 3).map (fun n => (Reg.PACE_DCLK_CTL_enable n, 1)) ++
  [(Reg.PACE_DCLK_PERIOD_period 0, 10000), (Reg.PACE_DCLK_HIGH_high 0, 5000), (Reg.PACE_DCLK_PERIOD_period 1, 4000),
   (Reg.PACE_DCLK_HIGH_high 1, 2000), (Reg.PACE_DCLK_PERIOD_period 2, 6000), (Reg.PACE_DCLK_RISE_rise 2, 1000),
   (Reg.PACE_DCLK_HIGH_high 2, 3000)])

/-- Table 3.8: each cycle falls at the earliest edge after the one before. -/
theorem test_schedule_times :
    (([0, 1, 1001, 2001, 4001, 5001, 6001, 7001, 8001, 10001] : List Nat).map (fun t => wLedger.dev.earliestEdge t)) =
      ([0, 1000, 2000, 4000, 5000, 6000, 7000, 8000, 10000, 12000] : List Nat).map some := by decide +kernel

/-- Table 3.8: the levels of clocks 0, 1 and 2 after cycles 0, 3, 6 and 8. -/
theorem test_schedule_levels :
    (([0, 4000, 7000, 10000] : List Nat).map (fun t => (List.range 3).map (fun n => wLedger.dev.clkLevelAt n t))) =
      [[true, true, false], [true, true, false], [false, false, true], [true, false, false]] := by decide +kernel

/-- Bits set in minors of stook row 0 (sheaf 0, field 5, stook column 0), and the words of Table 2.11. -/
def wEqual (levels : List Nat) : State :=
  let bit (m b : Nat) : Nat × Nat := (m, b)
  let terms := (List.range 12).flatMap (fun i =>
    [bit i (2 * i), bit (12 + i) (64 + 2 * i), bit i (64 + 2 * i + 1), bit (12 + i) (2 * i + 1)]) ++ [bit 24 28, bit 25 29]
  let minors := (List.range 26).map (fun m => (m, toBytes ((terms.filter (fun (e : Nat × Nat) => e.1 == m)).foldl (fun (x : Nat) (e : Nat × Nat) => x + 2 ^ e.2) 0) 16))
  wDev w0 (fun d => { d with
    mem := (minors ++ [(40, List.replicate 5 0 ++ toBytes 0x4000000035 5 ++ List.replicate 10 0 ++ toBytes 0x4000000035 5 ++
        List.replicate 10 0 ++ toBytes 0x100001401 5)]).foldl
      (fun (m : Memory) (e : Nat × List Byte) => Memory.writeBytes m (frameBase (logicFrame 5 0 e.1)) e.2) d.mem
    fab := { d.fab with levels := levels.foldl (fun (l : SMap Bool) m => SMap.put l (inKey (stook 5 0 0) 0 m) true false) d.fab.levels } })

/-- The 12-bit equality of chapter 2: X and Y equal with bit 3 set, X[0] alone, Y[11] alone; then MC7 with ne_hi at 0 and 1. -/
theorem test_equality_compare :
    (wEqual [3, 15]).dev.comb (stook 5 0 0) 0 1 = false ∧ (wEqual [0]).dev.comb (stook 5 0 0) 0 1 = true ∧
    (wEqual [23]).dev.comb (stook 5 0 0) 0 4 = true ∧ (wEqual []).dev.comb (stook 5 0 0) 0 7 = true ∧
    (wEqual [25]).dev.comb (stook 5 0 0) 0 7 = false := by decide +kernel

/-- Chapter 6's example: the routes of a latent read across the ring; the port lands at B0 router (3, 4). -/
theorem test_route_entries :
    (entryOk 0x0011413000000149 = true ∧ entryHops 0x0011413000000149 = [1, 1, 5]) ∧
    (entryOk 0x0010005000000001 = true ∧ entryHops 0x0010005000000001 = [1, 0, 0, 0, 0]) ∧
    vertRouter 1 5 = 6 * 4 + 3 ∧ lateralLand 0 0 (6 * 4 + 5) = 6 * 4 + 0 ∧
    (entryHops 0x0010005000000001).foldl (fun r c => r.bind (fun x => meshStep x c)) (some (6 * 4 + 0)) = some 1 := by decide

/-- Table 5.10: sums and differences of three butterflies, halved. -/
theorem test_butterflies :
    macO 35000 1 true = 17500 ∧ macO 5000 1 true = 2500 ∧ macO 5 1 true = 2 ∧ macO 1 1 true = 0 ∧ macO 7 1 true = 4 := by decide

/-- Table 5.10: the X addresses of offsets 0 to 5 in bit-reversed order. -/
theorem test_bit_reversed : (List.range 6).map (fun o => revLow o 8) = [0, 128, 64, 192, 32, 160] := by decide

/-- Chapter 4's example: 20 wall ps per design ps makes 320 ticks a cycle. -/
theorem test_deadline_ticks :
    (wSet w0 [(⟨Reg.PACE_RATIO_INT, 0, 32⟩, 20)]).dev.deadlineTicks 1000 = 320 ∧
    (wSet w0 [(⟨Reg.PACE_RATIO_INT, 0, 32⟩, 20)]).dev.deadlineTicks 2000 = 640 := by decide +kernel

/-- Table 11.4: the 17th corrected error overflows a bucket of threshold 16; 4 more after 11 make 15, which do not. -/
theorem test_bucket :
    ((wSet w0 [(Reg.ERR_BKT_CFG_threshold 18 1, 16), (Reg.ERR_BKT_STATUS_level 18 1, 16)]).dev.scrubBucket 18 1).get
      (Reg.ERR_BKT_STATUS_level 18 1) = 0 ∧
    ((wSet w0 [(Reg.ERR_BKT_CFG_threshold 18 1, 16), (Reg.ERR_BKT_STATUS_level 18 1, 16)]).dev.scrubBucket 18 1).errs.length = 1 ∧
    ((wSet w0 [(Reg.ERR_BKT_CFG_threshold 18 1, 16), (Reg.ERR_BKT_STATUS_level 18 1, 14)]).dev.scrubBucket 18 1).get
      (Reg.ERR_BKT_STATUS_level 18 1) = 15 := by decide +kernel

/-- Table 9.8: a message of 70 bytes waits on context 0x0A40, whose peer is context 0x1234 of P012. -/
def wTail : State := wDev wAll (fun d => d.setCtx 0x0A40 { d0 := 0x000C0001, d1 := 0x00081234, queue :=
  [{ data := List.replicate 32 1, valid := 32, eom := false }, { data := List.replicate 32 1, valid := 32, eom := false },
   { data := [1, 1, 1, 1, 1, 1] ++ List.replicate 26 0, valid := 6, eom := true }] })

theorem test_stream_tail :
    leAt ((wTail.dev.buildStream 0 {}).1.body 5 false) 0 8 = 0x00518000000006DA ∧
    leAt ((wTail.dev.buildStream 0 {}).1.body 5 false) 8 4 = 0x50631234 ∧
    ((wTail.dev.buildStream 0 {}).2.ctx 0x0A40).credit = 5 := by decide +kernel

/-! ### A term that each check of WellFormed refuses -/

def okPacket : Packet := { type := 0, hops := [1] }

theorem test_wf_accepts : Instr.wf (.packetInject okPacket) = true ∧ Instr.wf (.registerWrite core0 4 0) = true ∧
    Instr.wf (.nocTimeout 0xFFFF 4095) = true ∧ Instr.wf (.packetHop 0 [511] []) = true ∧
    Instr.wf (.sectionTrailer (.flash (List.replicate 128 0))) = true ∧
    Instr.wf (.memWrite 0 { stores := [(2 ^ 64 - 1, [0])] } []) = true := by decide

/-- Each field of a packet that is too wide, a flit that is missing and one too many are refused. -/
theorem test_wf_packets :
    ([{ okPacket with vc := 4 }, { okPacket with type := 16 }, { okPacket with route := 256 }, { okPacket with respRoute := 256 },
      { okPacket with hopPtr := 16 }, { okPacket with hops := List.replicate 13 0 }, { okPacket with hops := [8] },
      { okPacket with src := 65536 }, { okPacket with dst := 65536 }, { okPacket with tag := 4096 }, { okPacket with addr := 2 ^ 48 },
      { okPacket with lenM1 := 64 }, { okPacket with status := 4 }, { okPacket with type := 1 }, { okPacket with data := [0] }] :
      List Packet).all (fun p => !Instr.wf (.packetInject p) && !Instr.wf (.cacheableRead p) && !Instr.wf (.cacheableWrite p)) = true := by
  decide

/-- Places of flipped bits beyond a flit, a flit with its check bits, or a flit of a link, and symbols beyond PAM4's, are refused. -/
theorem test_wf_lines :
    Instr.wf (.packetHop 0 [512] []) = false ∧ Instr.wf (.packetHop 0 [] [512]) = false ∧ Instr.wf (.write 0 [576] {}) = false ∧
    Instr.wf (.rcWrite 0 [576] {}) = false ∧ Instr.wf (.readResp 0 [576]) = false ∧ Instr.wf (.fill 0 [576]) = false ∧
    Instr.wf (.linkFlitReceive 0 0 [544]) = false ∧ Instr.wf (.laneFrameReceive 0 [4] []) = false ∧
    Instr.wf (.fecCodewordReceive 0 [4]) = false ∧ Instr.wf (.chaffReceive 0 [4] []) = false ∧
    Instr.wf (.prbsCheckerLock 0 [4]) = false := by decide

/-- Trims, sweeps, regions, and tiles that the device does not have. -/
theorem test_wf_lists :
    Instr.wf (.delayCalibration 0 0 [1]) = false ∧ Instr.wf (.delayCalibration 0 0 (List.replicate 31 0 ++ [1024])) = false ∧
    Instr.wf (.calNow core0 0 0 [1]) = false ∧ Instr.wf (.hbmStackInitDone 0 true 0 (List.replicate 97 [])) = false ∧
    Instr.wf (.pseudoChannelRetrainDone 0 (List.replicate 9 {})) = false ∧ Instr.wf (.granTestEnd 0 [8] []) = false ∧
    Instr.wf (.granTestEnd 0 [] [4]) = false ∧ Instr.wf (.captureOpen 0 [36864]) = false := by decide

/-- Parts of a stream of the wrong size. -/
theorem test_wf_streams :
    Instr.wf (.sectionHeader (.lanes (List.replicate 127 0))) = false ∧ Instr.wf (.endSection (.flash [0])) = false ∧
    Instr.wf (.sectionTrailer (.host {} 127)) = false ∧ Instr.wf (.frames (.bus [])) = false ∧
    Instr.wf (.nopPacket (.lanes (List.replicate 5 0))) = false := by decide

/-- Host stores beyond 64 address bits, and other operands that are too wide. -/
def hmFar : HostMem := { stores := [(2 ^ 64, [0])] }

theorem test_wf_others :
    Instr.wf (.registerWrite core0 2 0) = false ∧ Instr.wf (.nocTimeout 65536 0) = false ∧ Instr.wf (.nocTimeout 0 4096) = false ∧
    Instr.wf (.mbCmdTail 0 0 hmFar) = false ∧ Instr.wf (.mbRspHead 0 0 { fails := [2 ^ 64] }) = false ∧
    Instr.wf (.memWrite 0 hmFar []) = false ∧ Instr.wf (.linkSlots 0 hmFar) = false ∧ Instr.wf (.clusterRelay 0 hmFar) = false ∧
    Instr.wf (.secKeyInstall 0 hmFar) = false ∧ Instr.wf (.secLifecycle 0 hmFar true) = false ∧
    Instr.wf (.secUnlock 0 hmFar true) = false ∧ Instr.wf (.bar2Access 0 0 none []) = false ∧
    Instr.wf (.bar2Access 0 2 (some [0]) []) = false := by decide

/-! ### Every clause has a state that meets its hypotheses -/

theorem test_meets_IdleStepIsATick :
    ((w0.pending = []) ∧ (w0.live = true)) := by
  and_intros <;> decide +kernel

theorem test_meets_FieldEvents :
    ((wCorner.live = true) ∧ (wCorner.dev.part ↑f0 = true) ∧ (faceField ↑f0 ↑b0 = none)) ∧
    ((wEdgeHeld.live = true) ∧ (wEdgeHeld.dev.part ↑(7 : Fin (384 : Nat)) = true) ∧ (faceField ↑(7 : Fin (384 : Nat)) ↑(1 :
      Fin (4 : Nat)) = some (8 : Nat)) ∧ (wEdgeHeld.dev.heldDie (dieOf (8 : Nat)) = true ∨ ↑(1 : Fin (4 : Nat)) % (2 : Nat) = (0
      : Nat) ∧ (8 : Nat) ≤ ↑(4 : Fin (16 : Nat)))) ∧
    ((wEdgeHolds.live = true) ∧ (wEdgeHolds.dev.part ↑(7 : Fin (384 : Nat)) = true) ∧ (faceField ↑(7 : Fin (384 : Nat)) ↑(1 :
      Fin (4 : Nat)) = some (8 : Nat)) ∧ (wEdgeHolds.dev.heldDie (dieOf (8 : Nat)) = false) ∧ (↑(1 : Fin (4 : Nat)) % (2 : Nat)
      = (0 : Nat) → ↑(4 : Fin (16 : Nat)) < (8 : Nat)) ∧ (wEdgeHolds.dev.bridgeHolds ↑(7 : Fin (384 : Nat)) ↑(1 : Fin (4 : Nat))
      = true)) ∧
    ((wEdge.live = true) ∧ (wEdge.dev.part ↑(7 : Fin (384 : Nat)) = true) ∧ (faceField ↑(7 : Fin (384 : Nat)) ↑(1 : Fin (4 :
      Nat)) = some (8 : Nat)) ∧ (wEdge.dev.heldDie (dieOf (8 : Nat)) = false) ∧ (↑(1 : Fin (4 : Nat)) % (2 : Nat) = (0 : Nat) →
      ↑(4 : Fin (16 : Nat)) < (8 : Nat)) ∧ (wEdge.dev.bridgeHolds ↑(7 : Fin (384 : Nat)) ↑(1 : Fin (4 : Nat)) = false) ∧
      (wEdge.dev.ahead ↑(7 : Fin (384 : Nat)) (8 : Nat) = false)) ∧
    ((wEdgeAhead.live = true) ∧ (wEdgeAhead.dev.part ↑(7 : Fin (384 : Nat)) = true) ∧ (faceField ↑(7 : Fin (384 : Nat)) ↑(1 :
      Fin (4 : Nat)) = some (8 : Nat)) ∧ (wEdgeAhead.dev.heldDie (dieOf (8 : Nat)) = false) ∧ (↑(1 : Fin (4 : Nat)) % (2 : Nat)
      = (0 : Nat) → ↑(4 : Fin (16 : Nat)) < (8 : Nat)) ∧ (wEdgeAhead.dev.bridgeHolds ↑(7 : Fin (384 : Nat)) ↑(1 : Fin (4 : Nat))
      = false) ∧ (wEdgeAhead.dev.ahead ↑(7 : Fin (384 : Nat)) (8 : Nat) = true)) ∧
    ((wCorner.live = true) ∧ (wCorner.dev.part ↑f5 = false)) ∧
    ((wCorner.live = true) ∧ (wCorner.dev.part ↑f0 = true) ∧ (wCorner.dev.inputPath (stook ↑f0 ↑(1 : Fin (32 : Nat)) ↑(2 : Fin
      (32 : Nat))) ↑(3 : Fin (8 : Nat)) ↑(4 : Fin (40 : Nat)) = some [])) ∧
    ((wIso.live = true) ∧ (wIso.dev.part ↑f5 = true) ∧ (wIso.dev.inputPath (stook ↑f5 ↑(0 : Fin (32 : Nat)) ↑(0 : Fin (32 :
      Nat))) ↑(0 : Fin (8 : Nat)) ↑(1 : Fin (40 : Nat)) = none)) ∧
    ((wCorner.live = true) ∧ (wCorner.dev.part ↑f0 = true) ∧ (wCorner.dev.wirePath (stook ↑f0 ↑(1 : Fin (32 : Nat)) ↑(2 : Fin
      (32 : Nat))) ↑(3 : Fin (44 : Nat)) = some [])) ∧
    ((wWave.live = true)) ∧
    ((wEnd.live = true) ∧ ((wEnd.dev.fld ↑f5).part = true) ∧ ((wEnd.dev.fld ↑f5).st = WState.eval) ∧ ((wEnd.dev.fld
      ↑f5).issued = true) ∧ ((wEnd.dev.fld ↑f5).latent = []) ∧ (wEnd.dev.tilesBusy ↑f5 = false) ∧ (wEnd.dev.cycling = true) ∧
      ((wEnd.dev.fld ↑f5).delay = true) ∧ ((wEnd.dev.fld ↑f5).unacked = (0 : Nat))) ∧
    ((wEndOwed.live = true) ∧ ((wEndOwed.dev.fld ↑f5).part = true) ∧ ((wEndOwed.dev.fld ↑f5).st = WState.eval) ∧
      ((wEndOwed.dev.fld ↑f5).issued = true) ∧ ((wEndOwed.dev.fld ↑f5).latent = []) ∧ (wEndOwed.dev.tilesBusy ↑f5 = false) ∧
      (wEndOwed.dev.cycling = true) ∧ ((wEndOwed.dev.fld ↑f5).delay = true) ∧ ((wEndOwed.dev.fld ↑f5).unacked ≠ (0 : Nat))) ∧
    ((wEndAck.live = true) ∧ ((wEndAck.dev.fld ↑f5).part = true) ∧ ((wEndAck.dev.fld ↑f5).st = WState.eval) ∧
      ((wEndAck.dev.fld ↑f5).issued = true) ∧ ((wEndAck.dev.fld ↑f5).latent = []) ∧ (wEndAck.dev.tilesBusy ↑f5 = false) ∧
      (wEndAck.dev.cycling = true) ∧ ((wEndAck.dev.fld ↑f5).delay = false) ∧ ((wEndAck.dev.fld ↑f5).unacked = (1 : Nat))) := by
  and_intros <;> decide +kernel

theorem test_meets_WaveLaunch :
    ((wDone.live = true) ∧ (wDone.dev.mayLaunch ↑f5 = true)) ∧
    ((wAll.live = true) ∧ (wAll.dev.mayLaunch ↑f5 = false)) ∧
    ((wBehind.live = true) ∧ ((4 : Nat) ∈ waveNeighbors ↑f5) ∧ ((1 : Nat) ≤ (wBehind.dev.fld ↑f5).wave) ∧ ((wBehind.dev.fld (4
      : Nat)).part = true) ∧ ((wBehind.dev.fld (4 : Nat)).wave < (wBehind.dev.fld ↑f5).wave ∨ (wBehind.dev.fld (4 : Nat)).wave =
      (wBehind.dev.fld ↑f5).wave ∧ (wBehind.dev.fld (4 : Nat)).done = false)) ∧
    ((wEndOwed.live = true) ∧ ((1 : Nat) ≤ (wEndOwed.dev.fld ↑f5).wave) ∧ ((wEndOwed.dev.fld ↑f5).st ≠ WState.complete ∨
      (wEndOwed.dev.fld ↑f5).delay = true ∨ (wEndOwed.dev.fld ↑f5).unacked ≠ (0 : Nat) ∨ (wEndOwed.dev.fld ↑f5).latent ≠ [])) :=
      by
  and_intros <;> decide +kernel

theorem test_meets_CaptureEvent :
    ((wReg.live = true) ∧ (wReg.dev.part ↑mc5.f = true) ∧ (mcMode (wReg.dev.mcWord (stook ↑mc5.f ↑mc5.col ↑mc5.row) ↑mc5.s
      ↑mc5.n) = (1 : Nat) ∨ mcMode (wReg.dev.mcWord (stook ↑mc5.f ↑mc5.col ↑mc5.row) ↑mc5.s ↑mc5.n) = (2 : Nat)) ∧ (mcCommitSrc
      (wReg.dev.mcWord (stook ↑mc5.f ↑mc5.col ↑mc5.row) ↑mc5.s ↑mc5.n) = true) ∧ (mcCapSrc (wReg.dev.mcWord (stook ↑mc5.f
      ↑mc5.col ↑mc5.row) ↑mc5.s ↑mc5.n) ≤ (40 : Nat)) ∧ (mcEdge (wReg.dev.mcWord (stook ↑mc5.f ↑mc5.col ↑mc5.row) ↑mc5.s ↑mc5.n)
      = (0 : Nat) ∧ wReg.dev.capLevel (stook ↑mc5.f ↑mc5.col ↑mc5.row) (↑mc5.s) (↑mc5.n) (wReg.dev.mcWord (stook ↑mc5.f ↑mc5.col
      ↑mc5.row) ↑mc5.s ↑mc5.n) = true ∨ mcEdge (wReg.dev.mcWord (stook ↑mc5.f ↑mc5.col ↑mc5.row) ↑mc5.s ↑mc5.n) = (1 : Nat) ∧
      wReg.dev.capLevel (stook ↑mc5.f ↑mc5.col ↑mc5.row) (↑mc5.s) (↑mc5.n) (wReg.dev.mcWord (stook ↑mc5.f ↑mc5.col ↑mc5.row)
      ↑mc5.s ↑mc5.n) = false ∨ mcEdge (wReg.dev.mcWord (stook ↑mc5.f ↑mc5.col ↑mc5.row) ↑mc5.s ↑mc5.n) = (2 : Nat))) := by
  and_intros <;> decide +kernel

theorem test_meets_CommitPulse :
    ((wLast.live = true) ∧ (wLast.dev.running = true) ∧ (wLast.dev.pac.phase = Phase.waves) ∧ (∀ (f : Nat), f ∈
      wLast.dev.parts → (wLast.dev.fld f).wave = wLast.dev.waves ∧ (wLast.dev.fld f).done = true)) ∧
    ((wDone.live = true) ∧ (wDone.dev.pac.phase ≠ Phase.waves ∨ wDone.dev.running = false ∨ (5 : Nat) ∈ wDone.dev.parts ∧
      ((wDone.dev.fld (5 : Nat)).wave ≠ wDone.dev.waves ∨ (wDone.dev.fld (5 : Nat)).done = false))) := by
  and_intros <;> decide +kernel

theorem test_meets_BoundaryReached :
    ((wCommit.live = true) ∧ (wCommit.dev.running = true) ∧ (wCommit.dev.pac.phase = Phase.commit) ∧ (wCommit.dev.latentWrites
      = []) ∧ (wCommit.dev.bacts = []) ∧ (wCommit.dev.joiners = [])) ∧
    ((wCommitClk.live = true) ∧ (wCommitClk.dev.running = true) ∧ (wCommitClk.dev.pac.phase = Phase.commit) ∧
      (wCommitClk.dev.latentWrites = []) ∧ (wCommitClk.dev.bacts = []) ∧ (wCommitClk.dev.joiners = []) ∧
      (wCommitClk.dev.cfg.waiting = []) ∧ (wCommitClk.dev.cfg.toClear = []) ∧ (wCommitClk.dev.trimDue = [])) ∧
    ((wLatW.live = true) ∧ (wLatW.dev.running = true) ∧ (wLatW.dev.pac.phase = Phase.commit) ∧ (wLatW.dev.latentWrites ≠ [])) := by
  and_intros <;> decide +kernel

theorem test_meets_DesignCycleRelease :
    ((wReady.live = true) ∧ (wReady.dev.dueNow = true) ∧ (wReady.dev.dueCauses = []) ∧ (wReady.dev.releasable = true) ∧
      (wReady.dev.nextTime = some (0 : Nat))) := by
  and_intros <;> decide +kernel

theorem test_meets_WaveTimeout :
    ((wWave.live = true) ∧ (wWave.dev.running = true) ∧ (wWave.dev.pac.phase = Phase.waves) ∧ ((wWave.dev.fld ↑f5).part =
      true) ∧ ((wWave.dev.fld ↑f5).wave ≠ (0 : Nat)) ∧ ((wWave.dev.fld ↑f5).done = false)) := by
  and_intros <;> decide +kernel

theorem test_meets_LatentMemory :
    ((wLatR.live = true) ∧ (List.find? (fun e => e.q == ↑(3 : Fin (16 : Nat))) (wLatR.dev.fld ↑f5).latent = some latR) ∧
      ((wLatR.dev.fld ↑f5).issued = true) ∧ (List.find? (fun p => p.dst == dockNode latR.f (latR.q / (8 : Nat)) && p.tag ==
      latR.tag && p.type != (4 : Nat)) wLatR.dev.noc.delivered = some latA)) ∧
    ((wLatN.live = true) ∧ (List.find? (fun e => e.q == ↑(3 : Fin (16 : Nat))) (wLatN.dev.fld ↑f5).latent = some latR) ∧
      (List.find? (fun p => p.dst == dockNode latR.f (latR.q / (8 : Nat)) && p.tag == latR.tag && p.type != (4 : Nat))
      wLatN.dev.noc.delivered = none)) ∧
    ((wLatW.live = true) ∧ (wLatW.dev.latentWrites[(0 : Nat)]? = some latR) ∧ (List.find? (fun p => p.dst == dockNode latR.f
      (latR.q / (8 : Nat)) && p.tag == latR.tag && p.type != (4 : Nat)) wLatW.dev.noc.delivered = some latA)) ∧
    ((wLatWN.live = true) ∧ (wLatWN.dev.latentWrites[(0 : Nat)]? = some latR) ∧ (List.find? (fun p => p.dst == dockNode latR.f
      (latR.q / (8 : Nat)) && p.tag == latR.tag && p.type != (4 : Nat)) wLatWN.dev.noc.delivered = none)) := by
  and_intros <;> decide +kernel

theorem test_meets_CalibrationAndBridgeHold :
    ((wAll.live = true) ∧ (wAll.dev.heldDie ↑s15 = false) ∧ (wAll.dev.on (Reg.FAB_CAL_CTL_pause ↑s15) = false) ∧ ((-256 : Int)
      ≤ (-256 : Int)) ∧ ((-256 : Int) ≤ (255 : Int))) ∧
    ((wAll.reaches core0 (Reg.FAB_CAL_CTL ↑s15)) ∧ ((-256 : Int) ≤ (255 : Int)) ∧ ((255 : Int) ≤ (255 : Int)) ∧
      (wAll.dev.heldDie ↑s15 = false)) ∧
    ((wAll.reaches core0 (Reg.FAB_BRIDGE_HOLD ↑s15))) := by
  and_intros <;> decide +kernel

theorem test_meets_NextEdgeIsTheEarliest :
    ((wBadClk.dev.on (Reg.PACE_DCLK_CTL_enable ↑k33) = true) ∧ (wBadClk.dev.clkValid ↑k33 = false)) ∧
    ((wStart.dev.on (Reg.PACE_DCLK_CTL_enable ↑k0) = true) ∧ (wStart.dev.clkValid ↑k0 = true)) := by
  and_intros <;> decide +kernel

theorem test_meets_LedgerWrites :
    ((wStart.reaches core0 (Reg.PACE_DCLK_PERIOD ↑n63 + (4 : Nat) * ↑k3)) ∧ (wStart.dev.running = false)) ∧
    ((wRun.reaches core0 (Reg.PACE_DCLK_PERIOD ↑n63 + (4 : Nat) * ↑k3)) ∧ (wRun.dev.running = true)) := by
  and_intros <;> decide +kernel

theorem test_meets_PacerCommands :
    ((wRun.reaches core0 Reg.PACE_CMD) ∧ (wRun.dev.running = true ∨ wRun.dev.halted = true ∨ wRun.dev.doneIn = false ∨
      wRun.dev.paced = true ∧ wRun.dev.ratio = (0 : Nat))) ∧
    ((wAll.reaches core0 Reg.PACE_CMD) ∧ (wAll.dev.pair Reg.PACE_STEP_COUNT_LO Reg.PACE_STEP_COUNT_HI = (0 : Nat))) ∧
    ((wStart.reaches core0 Reg.PACE_CMD) ∧ (wStart.dev.running = false) ∧ (wStart.dev.halted = false) ∧ (wStart.dev.doneIn =
      true) ∧ (wStart.dev.paced = true → wStart.dev.ratio ≠ (0 : Nat)) ∧ (wStart.dev.nextTime = some (0 : Nat)) ∧ (((fun t left
      =>
      { regs := wStart.dev.regs, latch := wStart.dev.latch, mem := wStart.dev.mem, marks := wStart.dev.marks, fab := wStart.dev.fab, flds := wStart.dev.flds, effDelay := wStart.dev.effDelay, effMargin := wStart.dev.effMargin, trimDue := wStart.dev.trimDue, pac := have __src := wStart.dev.pac; { tb := __src.tb, slew := __src.slew, t0 := ↑(if true = true then wStart.dev.pair Reg.PACE_START_TIME_LO Reg.PACE_START_TIME_HI else wStart.dev.now) - ↑(wStart.dev.deadlineTicks t), start := if true = true then wStart.dev.pair Reg.PACE_START_TIME_LO Reg.PACE_START_TIME_HI else wStart.dev.now, debt := __src.debt, stepLeft := left, stopAt := __src.stopAt, last := __src.last, next := __src.next, locked := __src.locked, good := __src.good, osc := __src.osc, firstSync := __src.firstSync : Pacer }, sio := wStart.dev.sio, binOut := wStart.dev.binOut, binCtl := wStart.dev.binCtl, tiles := wStart.dev.tiles, ports := wStart.dev.ports, latentWrites := wStart.dev.latentWrites, bacts := wStart.dev.bacts, noc := wStart.dev.noc, rc := wStart.dev.rc, lat := wStart.dev.lat, bud := wStart.dev.bud, stk := wStart.dev.stk, msec := wStart.dev.msec, errs := wStart.dev.errs, log := wStart.dev.log, errIrq := wStart.dev.errIrq, scrub := wStart.dev.scrub, sec := wStart.dev.sec, pwr := wStart.dev.pwr, lanes := wStart.dev.lanes, links := wStart.dev.links, ctxs := wStart.dev.ctxs, slots := wStart.dev.slots, chan := wStart.dev.chan, cluster := wStart.dev.cluster, cfg := wStart.dev.cfg, boot := wStart.dev.boot, mbs := wStart.dev.mbs, host := wStart.dev.host, fw := wStart.dev.fw, dbg := wStart.dev.dbg, cores := wStart.dev.cores, trace := wStart.dev.trace, free := wStart.dev.free : Dev }.set
      Reg.PACE_STATUS_running (1 : Nat)) (0 : Nat) none).deadlineOut = false)) ∧
    ((wFar.reaches core0 Reg.PACE_CMD) ∧ (wFar.dev.running = false) ∧ (wFar.dev.halted = false) ∧ (wFar.dev.doneIn = true) ∧
      (wFar.dev.paced = true → wFar.dev.ratio ≠ (0 : Nat)) ∧ (wFar.dev.nextTime = some (0 : Nat)) ∧ (((fun t left =>
      { regs := wFar.dev.regs, latch := wFar.dev.latch, mem := wFar.dev.mem, marks := wFar.dev.marks, fab := wFar.dev.fab, flds := wFar.dev.flds, effDelay := wFar.dev.effDelay, effMargin := wFar.dev.effMargin, trimDue := wFar.dev.trimDue, pac := have __src := wFar.dev.pac; { tb := __src.tb, slew := __src.slew, t0 := ↑(if true = true then wFar.dev.pair Reg.PACE_START_TIME_LO Reg.PACE_START_TIME_HI else wFar.dev.now) - ↑(wFar.dev.deadlineTicks t), start := if true = true then wFar.dev.pair Reg.PACE_START_TIME_LO Reg.PACE_START_TIME_HI else wFar.dev.now, debt := __src.debt, stepLeft := left, stopAt := __src.stopAt, last := __src.last, next := __src.next, locked := __src.locked, good := __src.good, osc := __src.osc, firstSync := __src.firstSync : Pacer }, sio := wFar.dev.sio, binOut := wFar.dev.binOut, binCtl := wFar.dev.binCtl, tiles := wFar.dev.tiles, ports := wFar.dev.ports, latentWrites := wFar.dev.latentWrites, bacts := wFar.dev.bacts, noc := wFar.dev.noc, rc := wFar.dev.rc, lat := wFar.dev.lat, bud := wFar.dev.bud, stk := wFar.dev.stk, msec := wFar.dev.msec, errs := wFar.dev.errs, log := wFar.dev.log, errIrq := wFar.dev.errIrq, scrub := wFar.dev.scrub, sec := wFar.dev.sec, pwr := wFar.dev.pwr, lanes := wFar.dev.lanes, links := wFar.dev.links, ctxs := wFar.dev.ctxs, slots := wFar.dev.slots, chan := wFar.dev.chan, cluster := wFar.dev.cluster, cfg := wFar.dev.cfg, boot := wFar.dev.boot, mbs := wFar.dev.mbs, host := wFar.dev.host, fw := wFar.dev.fw, dbg := wFar.dev.dbg, cores := wFar.dev.cores, trace := wFar.dev.trace, free := wFar.dev.free : Dev }.set
      Reg.PACE_STATUS_running (1 : Nat)) (0 : Nat) none).deadlineOut = true)) ∧
    ((wStart.reaches core0 Reg.PACE_CMD) ∧ (wStart.dev.running = false) ∧ (wStart.dev.halted = false) ∧ (wStart.dev.doneIn =
      true) ∧ (wStart.dev.paced = true → wStart.dev.ratio ≠ (0 : Nat)) ∧ (wStart.dev.nextTime = some (0 : Nat)) ∧
      (wStart.dev.pair Reg.PACE_STEP_COUNT_LO Reg.PACE_STEP_COUNT_HI ≠ (0 : Nat)) ∧ (((fun t left =>
      { regs := wStart.dev.regs, latch := wStart.dev.latch, mem := wStart.dev.mem, marks := wStart.dev.marks, fab := wStart.dev.fab, flds := wStart.dev.flds, effDelay := wStart.dev.effDelay, effMargin := wStart.dev.effMargin, trimDue := wStart.dev.trimDue, pac := have __src := wStart.dev.pac; { tb := __src.tb, slew := __src.slew, t0 := ↑(if false = true then wStart.dev.pair Reg.PACE_START_TIME_LO Reg.PACE_START_TIME_HI else wStart.dev.now) - ↑(wStart.dev.deadlineTicks t), start := if false = true then wStart.dev.pair Reg.PACE_START_TIME_LO Reg.PACE_START_TIME_HI else wStart.dev.now, debt := __src.debt, stepLeft := left, stopAt := __src.stopAt, last := __src.last, next := __src.next, locked := __src.locked, good := __src.good, osc := __src.osc, firstSync := __src.firstSync : Pacer }, sio := wStart.dev.sio, binOut := wStart.dev.binOut, binCtl := wStart.dev.binCtl, tiles := wStart.dev.tiles, ports := wStart.dev.ports, latentWrites := wStart.dev.latentWrites, bacts := wStart.dev.bacts, noc := wStart.dev.noc, rc := wStart.dev.rc, lat := wStart.dev.lat, bud := wStart.dev.bud, stk := wStart.dev.stk, msec := wStart.dev.msec, errs := wStart.dev.errs, log := wStart.dev.log, errIrq := wStart.dev.errIrq, scrub := wStart.dev.scrub, sec := wStart.dev.sec, pwr := wStart.dev.pwr, lanes := wStart.dev.lanes, links := wStart.dev.links, ctxs := wStart.dev.ctxs, slots := wStart.dev.slots, chan := wStart.dev.chan, cluster := wStart.dev.cluster, cfg := wStart.dev.cfg, boot := wStart.dev.boot, mbs := wStart.dev.mbs, host := wStart.dev.host, fw := wStart.dev.fw, dbg := wStart.dev.dbg, cores := wStart.dev.cores, trace := wStart.dev.trace, free := wStart.dev.free : Dev }.set
      Reg.PACE_STATUS_running (1 : Nat)) (0 : Nat) (some (wStart.dev.pair Reg.PACE_STEP_COUNT_LO
      Reg.PACE_STEP_COUNT_HI))).deadlineOut = false)) ∧
    ((wFar.reaches core0 Reg.PACE_CMD) ∧ (wFar.dev.running = false) ∧ (wFar.dev.halted = false) ∧ (wFar.dev.doneIn = true) ∧
      (wFar.dev.paced = true → wFar.dev.ratio ≠ (0 : Nat)) ∧ (wFar.dev.nextTime = some (0 : Nat)) ∧ (wFar.dev.pair
      Reg.PACE_STEP_COUNT_LO Reg.PACE_STEP_COUNT_HI ≠ (0 : Nat)) ∧ (((fun t left =>
      { regs := wFar.dev.regs, latch := wFar.dev.latch, mem := wFar.dev.mem, marks := wFar.dev.marks, fab := wFar.dev.fab, flds := wFar.dev.flds, effDelay := wFar.dev.effDelay, effMargin := wFar.dev.effMargin, trimDue := wFar.dev.trimDue, pac := have __src := wFar.dev.pac; { tb := __src.tb, slew := __src.slew, t0 := ↑(if true = true then wFar.dev.pair Reg.PACE_START_TIME_LO Reg.PACE_START_TIME_HI else wFar.dev.now) - ↑(wFar.dev.deadlineTicks t), start := if true = true then wFar.dev.pair Reg.PACE_START_TIME_LO Reg.PACE_START_TIME_HI else wFar.dev.now, debt := __src.debt, stepLeft := left, stopAt := __src.stopAt, last := __src.last, next := __src.next, locked := __src.locked, good := __src.good, osc := __src.osc, firstSync := __src.firstSync : Pacer }, sio := wFar.dev.sio, binOut := wFar.dev.binOut, binCtl := wFar.dev.binCtl, tiles := wFar.dev.tiles, ports := wFar.dev.ports, latentWrites := wFar.dev.latentWrites, bacts := wFar.dev.bacts, noc := wFar.dev.noc, rc := wFar.dev.rc, lat := wFar.dev.lat, bud := wFar.dev.bud, stk := wFar.dev.stk, msec := wFar.dev.msec, errs := wFar.dev.errs, log := wFar.dev.log, errIrq := wFar.dev.errIrq, scrub := wFar.dev.scrub, sec := wFar.dev.sec, pwr := wFar.dev.pwr, lanes := wFar.dev.lanes, links := wFar.dev.links, ctxs := wFar.dev.ctxs, slots := wFar.dev.slots, chan := wFar.dev.chan, cluster := wFar.dev.cluster, cfg := wFar.dev.cfg, boot := wFar.dev.boot, mbs := wFar.dev.mbs, host := wFar.dev.host, fw := wFar.dev.fw, dbg := wFar.dev.dbg, cores := wFar.dev.cores, trace := wFar.dev.trace, free := wFar.dev.free : Dev }.set
      Reg.PACE_STATUS_running (1 : Nat)) (0 : Nat) (some (wFar.dev.pair Reg.PACE_STEP_COUNT_LO
      Reg.PACE_STEP_COUNT_HI))).deadlineOut = true)) ∧
    ((wNoClk.reaches core0 Reg.PACE_CMD) ∧ (wNoClk.dev.running = false) ∧ (wNoClk.dev.halted = false) ∧ (wNoClk.dev.doneIn =
      true) ∧ (wNoClk.dev.paced = true → wNoClk.dev.ratio ≠ (0 : Nat)) ∧ (wNoClk.dev.nextTime = none)) ∧
    ((wRun.reaches core0 Reg.PACE_CMD) ∧ (wRun.dev.running = true) ∧ (wRun.dev.pac.phase = Phase.boundary)) ∧
    ((wWave.reaches core0 Reg.PACE_CMD) ∧ (wWave.dev.running = true) ∧ (wWave.dev.pac.phase ≠ Phase.boundary)) := by
  and_intros <;> decide +kernel

theorem test_meets_Timebase :
    ((wRun.live = true) ∧ (wRun.dev.rdWord Reg.PACE_TB_ADJ = (0 : Word))) ∧
    ((wAdj.live = true) ∧ ((0 : Int) < BitVec.toInt (wAdj.dev.rdWord Reg.PACE_TB_ADJ)) ∧ (wAdj.dev.pac.slew % (64 : Nat) = (63
      : Nat))) ∧
    ((wAdjNeg.live = true) ∧ (BitVec.toInt (wAdjNeg.dev.rdWord Reg.PACE_TB_ADJ) < (0 : Int)) ∧ (wAdjNeg.dev.pac.slew % (64 :
      Nat) = (63 : Nat))) ∧
    ((wAdjOff.live = true) ∧ (wAdjOff.dev.rdWord Reg.PACE_TB_ADJ ≠ (0 : Word)) ∧ (wAdjOff.dev.pac.slew % (64 : Nat) ≠ (63 :
      Nat))) ∧
    ((wStart.live = true) ∧ (wStart.reaches core0 Reg.PACE_TB_ADJ) ∧ (wStart.dev.running = false)) ∧
    ((wRun.live = true) ∧ (wRun.reaches core0 Reg.PACE_TB_ADJ) ∧ (wRun.dev.running = true)) ∧
    ((wRun.live = true) ∧ ((90000 : Nat) ≤ (90000 : Nat)) ∧ ((90000 : Nat) ≤ (110000 : Nat))) ∧
    ((wRun.live = true) ∧ ((89999 : Nat) < (90000 : Nat) ∨ (110000 : Nat) < (89999 : Nat)) ∧ (wRun.dev.on
      Reg.PACE_STATUS_degraded = false) ∧ (wRun.dev.pwr.tbSwitch ≠ some false)) ∧
    ((wOscRun.live = true) ∧ (wOscRun.reaches core0 Reg.PACE_TB_CTL) ∧ (wOscRun.dev.on Reg.PACE_STATUS_degraded = true) ∧
      (wOscRun.dev.pwr.tbSwitch ≠ some false)) ∧
    ((wRun.live = true) ∧ (wRun.reaches core0 Reg.PACE_TB_CTL) ∧ (wRun.dev.on Reg.PACE_STATUS_degraded = false ∨
      wRun.dev.pwr.tbSwitch = some false)) ∧
    ((wOsc.live = true) ∧ (wOsc.dev.on Reg.PACE_TB_CTL_use_ref = true) ∧ ((100 : Nat) ≤ wOsc.dev.pac.good)) ∧
    ((wBack.live = true) ∧ ((89999 : Nat) < (90000 : Nat) ∨ (110000 : Nat) < (89999 : Nat)) ∧ (wBack.dev.pwr.tbSwitch = some
      false)) := by
  and_intros <;> decide +kernel

theorem test_meets_DeadlinesAndDesignTime :
    ((wLate.live = true) ∧ (wLate.dev.running = true) ∧ (wLate.dev.pac.phase = Phase.boundary) ∧ (wLate.dev.paced = true) ∧
      (wLate.dev.rdWord Reg.PACE_TB_ADJ = (0 : Word)) ∧ (wLate.dev.dueCauses = []) ∧ (wLate.dev.releasable = true) ∧
      (wLate.dev.pwr.releaseDue = []) ∧ (wLate.dev.nextTime = some (0 : Nat)) ∧ (wLate.dev.deadline = some (0 : Int)) ∧ (max
      (Int.toNat (0 : Int)) wLate.dev.pac.start + (10 : Nat) < (2 : Nat) ^ (64 : Nat)) ∧ (wLate.dev.pac.tb < (2 : Nat) ^ (64 :
      Nat))) ∧
    ((wRun.live = true) ∧ (wRun.dev.running = true) ∧ (wRun.dev.pac.phase = Phase.boundary)) ∧
    ((wLate.live = true) ∧ (wLate.dev.running = true) ∧ (wLate.dev.paced = true) ∧ (wLate.dev.pac.lostArmed = true) ∧ (↑(max
      (wLate.dev.get Reg.PACE_LOST_BOUND_bound) (1 : Nat) * (16 : Nat)) < wLate.dev.debt) ∧ (wLate.dev.get
      Reg.PACE_CTL_lost_policy = (0 : Nat))) ∧
    ((wLateStop.live = true) ∧ (wLateStop.dev.running = true) ∧ (wLateStop.dev.paced = true) ∧ (wLateStop.dev.pac.lostArmed =
      true) ∧ (↑(max (wLateStop.dev.get Reg.PACE_LOST_BOUND_bound) (1 : Nat) * (16 : Nat)) < wLateStop.dev.debt) ∧
      (wLateStop.dev.get Reg.PACE_CTL_lost_policy = (1 : Nat)) ∧ (wLateStop.dev.pac.phase = Phase.boundary)) ∧
    ((wLateWave.live = true) ∧ (wLateWave.dev.running = true) ∧ (wLateWave.dev.paced = true) ∧ (wLateWave.dev.pac.lostArmed =
      true) ∧ (↑(max (wLateWave.dev.get Reg.PACE_LOST_BOUND_bound) (1 : Nat) * (16 : Nat)) < wLateWave.dev.debt) ∧
      (wLateWave.dev.get Reg.PACE_CTL_lost_policy = (1 : Nat)) ∧ (wLateWave.dev.pac.phase ≠ Phase.boundary)) ∧
    ((wStart.reaches core0 (if true = true then Reg.PACE_RESUME_TIME_HI else Reg.PACE_RESUME_TIME_LO)) ∧ (wStart.dev.running =
      false)) ∧
    ((wRun.reaches core0 (if true = true then Reg.PACE_RESUME_TIME_HI else Reg.PACE_RESUME_TIME_LO)) ∧ (wRun.dev.running = true)) ∧
    ((wStart.reaches core0 (if true = true then Reg.PACE_COMMITTED_HI else Reg.PACE_COMMITTED_LO)) ∧ (wStart.dev.running =
      false)) ∧
    ((wRun.reaches core0 (if false = true then Reg.PACE_COMMITTED_HI else Reg.PACE_COMMITTED_LO)) ∧ (wRun.dev.running = true))
      := by
  and_intros <;> decide +kernel

theorem test_meets_SidebandPins :
    ((wRun.reaches core0 (Reg.SIO_PIN_CTL ↑n63)) ∧ (wRun.dev.running = true)) ∧
    ((wStart.reaches core0 (Reg.SIO_PIN_CTL ↑n63)) ∧ (wStart.dev.running = false)) := by
  and_intros <;> decide +kernel

theorem test_meets_AccumulatorWrapsAndFlags :
    (((2 : Nat) = (1 : Nat) ∧ (549755813892 : Int) = (5 : Int) ∨ (2 : Nat) = (2 : Nat) ∧ (549755813892 : Int) =
      { acc := (549755813887 : BitVec (40 : Nat)) : Tile }.acc.toInt + (5 : Int) ∨ (2 : Nat) = (3 : Nat) ∧ (549755813892 : Int)
      = { acc := (549755813887 : BitVec (40 : Nat)) : Tile }.acc.toInt - (5 : Int))) := by
  and_intros <;> decide +kernel

theorem test_meets_MacInstructions :
    (((wTile (0 : Nat)).live = true) ∧ (((wTile (0 : Nat)).dev.tile ↑f5 ↑t95).busy = true) ∧ ((wTile (0 : Nat)).dev.tileFetch
      ↑f5 ↑t95 = ((fetched (wTile (0 : Nat))).fst, (fetched (wTile (0 : Nat))).snd)) ∧ ((fetched (wTile (0 : Nat))).fst / (2 :
      Nat) ^ (28 : Nat) = (0 : Nat))) ∧
    (((wTile (268435456 : Nat)).live = true) ∧ (((wTile (268435456 : Nat)).dev.tile ↑f5 ↑t95).busy = true) ∧ ((wTile
      (268435456 : Nat)).dev.tileFetch ↑f5 ↑t95 = ((fetched (wTile (268435456 : Nat))).fst, (fetched (wTile (268435456 :
      Nat))).snd)) ∧ ((fetched (wTile (268435456 : Nat))).fst / (2 : Nat) ^ (28 : Nat) = (1 : Nat))) ∧
    (((wTile (536870912 : Nat)).live = true) ∧ (((wTile (536870912 : Nat)).dev.tile ↑f5 ↑t95).busy = true) ∧ ((wTile
      (536870912 : Nat)).dev.tileFetch ↑f5 ↑t95 = ((fetched (wTile (536870912 : Nat))).fst, (fetched (wTile (536870912 :
      Nat))).snd)) ∧ ((fetched (wTile (536870912 : Nat))).fst / (2 : Nat) ^ (28 : Nat) = (2 : Nat))) ∧
    (((wTile (805306368 : Nat)).live = true) ∧ (((wTile (805306368 : Nat)).dev.tile ↑f5 ↑t95).busy = true) ∧ ((wTile
      (805306368 : Nat)).dev.tileFetch ↑f5 ↑t95 = ((fetched (wTile (805306368 : Nat))).fst, (fetched (wTile (805306368 :
      Nat))).snd)) ∧ ((fetched (wTile (805306368 : Nat))).fst / (2 : Nat) ^ (28 : Nat) = (3 : Nat))) ∧
    (((wTile (1073741824 : Nat)).live = true) ∧ (((wTile (1073741824 : Nat)).dev.tile ↑f5 ↑t95).busy = true) ∧ ((wTile
      (1073741824 : Nat)).dev.tileFetch ↑f5 ↑t95 = ((fetched (wTile (1073741824 : Nat))).fst, (fetched (wTile (1073741824 :
      Nat))).snd)) ∧ ((fetched (wTile (1073741824 : Nat))).fst / (2 : Nat) ^ (28 : Nat) = (4 : Nat))) ∧
    (((wTile (2147483649 : Nat)).live = true) ∧ (((wTile (2147483649 : Nat)).dev.tile ↑f5 ↑t95).busy = true) ∧ ((wTile
      (2147483649 : Nat)).dev.tileFetch ↑f5 ↑t95 = ((fetched (wTile (2147483649 : Nat))).fst, (fetched (wTile (2147483649 :
      Nat))).snd)) ∧ ((fetched (wTile (2147483649 : Nat))).fst / (2 : Nat) ^ (28 : Nat) = (8 : Nat))) ∧
    (((wTile (2415919105 : Nat)).live = true) ∧ (((wTile (2415919105 : Nat)).dev.tile ↑f5 ↑t95).busy = true) ∧ ((wTile
      (2415919105 : Nat)).dev.tileFetch ↑f5 ↑t95 = ((fetched (wTile (2415919105 : Nat))).fst, (fetched (wTile (2415919105 :
      Nat))).snd)) ∧ ((fetched (wTile (2415919105 : Nat))).fst / (2 : Nat) ^ (28 : Nat) = (9 : Nat))) ∧
    (((wTile (3221225472 : Nat)).live = true) ∧ (((wTile (3221225472 : Nat)).dev.tile ↑f5 ↑t95).busy = true) ∧ ((wTile
      (3221225472 : Nat)).dev.tileFetch ↑f5 ↑t95 = ((fetched (wTile (3221225472 : Nat))).fst, (fetched (wTile (3221225472 :
      Nat))).snd)) ∧ ((fetched (wTile (3221225472 : Nat))).fst / (2 : Nat) ^ (28 : Nat) = (12 : Nat))) ∧
    (((wTile (2684354561 : Nat)).live = true) ∧ (((wTile (2684354561 : Nat)).dev.tile ↑f5 ↑t95).busy = true) ∧ ((wTile
      (2684354561 : Nat)).dev.tileFetch ↑f5 ↑t95 = ((fetched (wTile (2684354561 : Nat))).fst, (fetched (wTile (2684354561 :
      Nat))).snd)) ∧ ((fetched (wTile (2684354561 : Nat))).fst / (2 : Nat) ^ (28 : Nat) = (10 : Nat)) ∧ (((fetched (wTile
      (2684354561 : Nat))).snd.tile ↑f5 ↑t95).busy = true) ∧ (((fetched (wTile (2684354561 : Nat))).snd.tile ↑f5 ↑t95).loopOn =
      false) ∧ (fieldOf (fetched (wTile (2684354561 : Nat))).fst (10 : Nat) (6 : Nat) ≠ ((fetched (wTile (2684354561 :
      Nat))).snd.tile ↑f5 ↑t95).pc)) ∧
    ((at1.live = true) ∧ ((at1.dev.tile ↑f5 ↑t95).busy = true) ∧ (at1.dev.tileFetch ↑f5 ↑t95 = ((fetched (wTileLoop
      (2684354561 : Nat))).fst, (fetched (wTileLoop (2684354561 : Nat))).snd)) ∧ ((fetched (wTileLoop (2684354561 : Nat))).fst /
      (2 : Nat) ^ (28 : Nat) = (10 : Nat)) ∧ (((fetched (wTileLoop (2684354561 : Nat))).snd.tile ↑f5 ↑t95).loopOn = true)) ∧
    (((wTile (2684419073 : Nat)).live = true) ∧ (((wTile (2684419073 : Nat)).dev.tile ↑f5 ↑t95).busy = true) ∧ ((wTile
      (2684419073 : Nat)).dev.tileFetch ↑f5 ↑t95 = ((fetched (wTile (2684419073 : Nat))).fst, (fetched (wTile (2684419073 :
      Nat))).snd)) ∧ ((fetched (wTile (2684419073 : Nat))).fst / (2 : Nat) ^ (28 : Nat) = (10 : Nat)) ∧ (((fetched (wTile
      (2684419073 : Nat))).snd.tile ↑f5 ↑t95).loopOn = false) ∧ (fieldOf (fetched (wTile (2684419073 : Nat))).fst (10 : Nat) (6
      : Nat) = ((fetched (wTile (2684419073 : Nat))).snd.tile ↑f5 ↑t95).pc)) ∧
    ((at2.live = true) ∧ ((at2.dev.tile ↑f5 ↑t95).busy = true) ∧ (at2.dev.tileFetch ↑f5 ↑t95 = ((fetched (wTileLoop
      (2952790078 : Nat))).fst, (fetched (wTileLoop (2952790078 : Nat))).snd)) ∧ ((fetched (wTileLoop (2952790078 : Nat))).fst /
      (2 : Nat) ^ (28 : Nat) = (11 : Nat))) ∧
    (((wTile (4026531840 : Nat)).live = true) ∧ (((wTile (4026531840 : Nat)).dev.tile ↑f5 ↑t95).busy = true) ∧ ((wTile
      (4026531840 : Nat)).dev.tileFetch ↑f5 ↑t95 = ((fetched (wTile (4026531840 : Nat))).fst, (fetched (wTile (4026531840 :
      Nat))).snd)) ∧ ((fetched (wTile (4026531840 : Nat))).fst / (2 : Nat) ^ (28 : Nat) = (15 : Nat))) ∧
    (((wTile (1342177280 : Nat)).live = true) ∧ (((wTile (1342177280 : Nat)).dev.tile ↑f5 ↑t95).busy = true) ∧ ((wTile
      (1342177280 : Nat)).dev.tileFetch ↑f5 ↑t95 = ((fetched (wTile (1342177280 : Nat))).fst, (fetched (wTile (1342177280 :
      Nat))).snd)) ∧ ((fetched (wTile (1342177280 : Nat))).fst / (2 : Nat) ^ (28 : Nat) = (5 : Nat) ∨ (fetched (wTile
      (1342177280 : Nat))).fst / (2 : Nat) ^ (28 : Nat) = (6 : Nat) ∨ (fetched (wTile (1342177280 : Nat))).fst / (2 : Nat) ^ (28
      : Nat) = (7 : Nat) ∨ (fetched (wTile (1342177280 : Nat))).fst / (2 : Nat) ^ (28 : Nat) = (13 : Nat) ∨ (fetched (wTile
      (1342177280 : Nat))).fst / (2 : Nat) ^ (28 : Nat) = (14 : Nat))) := by
  and_intros <;> decide +kernel

theorem test_meets_BinAndTileRegisters :
    ((wAll.reaches core0 (Reg.BIN_FLD_CNT_CLR (dieOf ↑f5) (idxOf ↑f5)))) ∧
    ((wAll.reaches core0 (tileReg ↑f5 ↑t95 (0 : Nat))) ∧ (wAll.dev.leased ↑f5 ↑t95 = false) ∧ (bits (1 : Word) (0 : Nat) (2 :
      Nat) ≠ (3 : Nat)) ∧ (wAll.dev.running = false)) ∧
    ((wRun.reaches core0 (tileReg ↑f5 ↑t95 (0 : Nat))) ∧ (wRun.dev.leased ↑f5 ↑t95 = false) ∧ (bits (1 : Word) (0 : Nat) (2 :
      Nat) ≠ (3 : Nat)) ∧ (wRun.dev.running = true)) ∧
    ((wAll.reaches core0 (tileReg ↑f5 ↑t95 (0 : Nat))) ∧ (wAll.dev.tileMode ↑f5 ↑t95 = (0 : Nat)) ∧ (bits (3 : Word) (0 : Nat)
      (2 : Nat) = (3 : Nat)) ∧ (core0.isCore = true) ∧ (wAll.dev.fieldSecure ↑f5 = true → wAll.dev.whoSecure core0 = true)) ∧
    ((wAll.reaches core0 (tileReg (↑f5) (↑t95) ((1 : Nat) + ↑(1 : Fin (2 : Nat))))) ∧ (wAll.dev.leased ↑f5 ↑t95 = false) ∧
      (wAll.dev.running = false)) ∧
    ((wRun.reaches core0 (tileReg (↑f5) (↑t95) ((1 : Nat) + ↑(1 : Fin (2 : Nat))))) ∧ (wRun.dev.leased ↑f5 ↑t95 = false) ∧
      (wRun.dev.running = true)) ∧
    ((wLease.reaches core0 (tileReg (↑f5) (↑t95) ((1 : Nat) + ↑(1 : Fin (2 : Nat))))) ∧ (wLease.dev.leased ↑f5 ↑t95 = true) ∧
      (core0.isCore = true) ∧ ((wLease.dev.tile ↑f5 ↑t95).busy = false)) ∧
    ((wLease.reaches core0 (tileReg ↑f5 ↑t95 (3 : Nat))) ∧ (wLease.dev.leased ↑f5 ↑t95 = true) ∧ ((wLease.dev.tile ↑f5
      ↑t95).busy = false)) ∧
    ((wAll.reaches core0 (tileReg ↑f5 ↑t95 (3 : Nat))) ∧ (wAll.dev.leased ↑f5 ↑t95 = false ∨ (wAll.dev.tile ↑f5 ↑t95).busy =
      true)) := by
  and_intros <;> decide +kernel

theorem test_meets_RegisterWriteCommand :
    ((wAll.live = true) ∧ (a1.toNat % (4 : Nat) ≠ (0 : Nat))) ∧
    ((wAll.live = true) ∧ (aBar.toNat % (4 : Nat) = (0 : Nat)) ∧ ((2 : Nat) ^ (32 : Nat) ≤ aBar.toNat) ∧ (Who.host = Who.host)) ∧
    ((wAll.live = true) ∧ (aBar.toNat % (4 : Nat) = (0 : Nat)) ∧ ((2 : Nat) ^ (32 : Nat) ≤ aBar.toNat) ∧ (core0 ≠ Who.host)) ∧
    ((wAll.live = true) ∧ (aFab.toNat % (4 : Nat) = (0 : Nat)) ∧ (aFab.toNat < (2 : Nat) ^ (32 : Nat))) := by
  and_intros <;> decide +kernel

theorem test_meets_PlainWritesFollowTheAccessTypes :
    ((regWith (2 : Nat) pRw ∈ blockRegs (2 : Nat)) ∧ (fldWith (2 : Nat) pRw ∈ (regWith (2 : Nat) pRw).fields) ∧ ((fldWith (2 :
      Nat) pRw).acc = Access.rw)) ∧
    ((regWith (8 : Nat) pW1c ∈ blockRegs (8 : Nat)) ∧ (fldWith (8 : Nat) pW1c ∈ (regWith (8 : Nat) pW1c).fields) ∧ ((fldWith
      (8 : Nat) pW1c).acc = Access.w1c)) ∧
    ((regWith (2 : Nat) pRo ∈ blockRegs (2 : Nat)) ∧ (fldWith (2 : Nat) pRo ∈ (regWith (2 : Nat) pRo).fields) ∧ ((fldWith (2 :
      Nat) pRo).acc ≠ Access.rw) ∧ ((fldWith (2 : Nat) pRo).acc ≠ Access.w1c)) := by
  and_intros <;> decide +kernel

theorem test_meets_ReservedOffsetsReadZeroAndIgnoreWrites :
    (((537067516 : Nat) < (2 : Nat) ^ (32 : Nat)) ∧ ((537067516 : Nat) % (4 : Nat) = (0 : Nat)) ∧ (blockPresent (537067516 :
      Nat) = true) ∧ (findReg (537067516 : Nat) = none)) := by
  and_intros <;> decide +kernel

theorem test_meets_HighWordsAreLatched :
    ((isLo Reg.PACE_TB_LO = true) ∧ (isLo (Reg.PACE_TB_LO + (4 : Nat)) = false)) := by
  and_intros <;> decide +kernel

theorem test_meets_RoutersMovePackets :
    (((47 : Nat) < (48 : Nat)) ∧ ((0 : Nat) < (4 : Nat)) ∧ (meshStep (47 : Nat) (0 : Nat) = some (41 : Nat))) ∧
    (((wHop (7 : Nat) [(0 : Nat)] (15 : Nat)).live = true) ∧ ((wHop (7 : Nat) [(0 : Nat)] (15 :
      Nat)).dev.noc.flights[(0 : Nat)]? = some at3) ∧ (at3.arrived = false) ∧ (at3.hopExists = false)) ∧
    (((wHop (6 : Nat) [(3 : Nat)] (0 : Nat)).live = true) ∧ ((wHop (6 : Nat) [(3 : Nat)] (0 :
      Nat)).dev.noc.flights[(0 : Nat)]? = some at4) ∧ (at4.arrived = false) ∧ (at4.pkt.reservedType = true ∨ at4.pkt.hop = (7 :
      Nat) ∨ at4.pkt.hop < (4 : Nat) ∧ meshStep at4.router at4.pkt.hop = none ∨ at4.pkt.hop = (4 : Nat) ∧ vertAt (at4.die - (16
      : Nat)) at4.router = none ∨ at4.pkt.hop = (5 : Nat) ∧ lateralAt (at4.die - (16 : Nat)) at4.router = none ∨ at4.pkt.hop =
      (6 : Nat) ∧ (nodeDie at4.pkt.dst ≠ at4.die ∨ nodePort at4.pkt.dst ≠ at4.router))) ∧
    ((wBehind2.live = true) ∧ (wBehind2.dev.noc.flights[(0 : Nat)]? = some (flight0 wBehind2)) ∧ ((flight0 wBehind2).arrived =
      false) ∧ ((flight0 wBehind2).hopExists = true) ∧ ((flight0 wBehind2).pkt.hop ≠ (5 : Nat)) ∧ (wBehind2.dev.mayHop (flight0
      wBehind2) = false)) ∧
    (((wHop (7 : Nat) [(3 : Nat)] (0 : Nat)).live = true) ∧ ((wHop (7 : Nat) [(3 : Nat)] (0 :
      Nat)).dev.noc.flights[(0 : Nat)]? = some at9) ∧ (at9.arrived = false) ∧ (at9.hopExists = true) ∧ ((wHop (7 : Nat)
      [(3 : Nat)] (0 : Nat)).dev.mayHop at9 = true) ∧ (at9.pkt.hop < (4 : Nat)) ∧ (meshStep at9.router at9.pkt.hop = some (6 :
      Nat))) ∧
    (((wHop (9 : Nat) [(6 : Nat)] (0 : Nat)).live = true) ∧ ((wHop (9 : Nat) [(6 : Nat)] (0 :
      Nat)).dev.noc.flights[(0 : Nat)]? = some at10) ∧ (at10.arrived = false) ∧ (at10.hopExists = true) ∧ ((wHop (9 : Nat)
      [(6 : Nat)] (0 : Nat)).dev.mayHop at10 = true) ∧ (at10.pkt.hop = (6 : Nat))) ∧
    (((wVert (14 : Nat)).live = true) ∧ ((wVert (14 : Nat)).dev.noc.flights[(0 : Nat)]? = some (flight0 (wVert (14 : Nat)))) ∧
      ((flight0 (wVert (14 : Nat))).arrived = false) ∧ ((flight0 (wVert (14 : Nat))).hopExists = true) ∧ ((wVert (14 :
      Nat)).dev.mayHop (flight0 (wVert (14 : Nat))) = true) ∧ ((flight0 (wVert (14 : Nat))).pkt.hop = (4 : Nat)) ∧ (vertAt
      ((flight0 (wVert (14 : Nat))).die - (16 : Nat)) (flight0 (wVert (14 : Nat))).router = some ((1 : Nat), (0 : Nat)))) ∧
    ((wLatGone.live = true) ∧ (wLatGone.dev.noc.flights[(0 : Nat)]? = some (flight0 wLatGone)) ∧ ((flight0 wLatGone).arrived =
      false) ∧ ((flight0 wLatGone).hopExists = true) ∧ ((flight0 wLatGone).pkt.hop = (5 : Nat)) ∧ (lateralAt ((flight0
      wLatGone).die - (16 : Nat)) (flight0 wLatGone).router = some (0 : Nat)) ∧ (wLatGone.dev.linkDown (latIndex ((flight0
      wLatGone).die - (16 : Nat)) (0 : Nat)) = true)) ∧
    ((wLatHop.live = true) ∧ (wLatHop.dev.noc.flights[(0 : Nat)]? = some (flight0 wLatHop)) ∧ ((flight0 wLatHop).arrived =
      false) ∧ ((flight0 wLatHop).hopExists = true) ∧ ((flight0 wLatHop).pkt.hop = (5 : Nat)) ∧ (lateralAt ((flight0
      wLatHop).die - (16 : Nat)) (flight0 wLatHop).router = some (0 : Nat)) ∧ (wLatHop.dev.linkDown (latIndex ((flight0
      wLatHop).die - (16 : Nat)) (0 : Nat)) = false) ∧ (wLatHop.dev.mayHop (flight0 wLatHop) = true)) ∧
    (((wHop (7 : Nat) [(7 : Nat)] (0 : Nat)).live = true) ∧ ((wHop (7 : Nat) [(7 : Nat)] (0 :
      Nat)).dev.noc.flights[(0 : Nat)]? = some at7) ∧ (at7.arrived = false) ∧ (headerOk (flipBits at7.pkt.header [(5 : Nat)]) =
      false) ∧ (headerOk (flipBits at7.pkt.header [(3 : Nat)]) = false)) ∧
    (((wHop (7 : Nat) [(3 : Nat)] (0 : Nat)).live = true) ∧ ((wHop (7 : Nat) [(3 : Nat)] (0 :
      Nat)).dev.noc.flights[(0 : Nat)]? = some at9) ∧ (at9.arrived = false) ∧ (headerOk (flipBits at9.pkt.header [(5 : Nat)]) =
      false)) := by
  and_intros <;> decide +kernel

theorem test_meets_RequestsAndResponses :
    ((wNoc.live = true) ∧ (pReq.isRequest = true) ∧ (wNoc.dev.heldAnswer
      { vc := pReq.planeVc, type := pReq.type, route := pReq.route, respRoute := pReq.respRoute, hopPtr := pReq.hopPtr, hops := pReq.hops, src := pReq.src, dst := pReq.dst, tag := wNoc.dev.nextTag pReq.src, addr := pReq.addr, lenM1 := pReq.lenM1, secure := pReq.secure, status := pReq.status, bmask := pReq.bmask, data := pReq.data : Packet }
      = none) ∧ ((wNoc.dev.routeUse (nodeDie pReq.src) (nodeNi pReq.src) pReq.route).snd.getLsbD (52 : Nat) = true) ∧
      (((wNoc.dev.routeUse (nodeDie pReq.src) (nodeNi pReq.src) pReq.route).snd >>> (36 : Nat)).toNat % (16 : Nat) ≤ (12 :
      Nat))) ∧
    ((wAll.live = true) ∧ (pReq.isRequest = true) ∧ (wAll.dev.heldAnswer
      { vc := pReq.planeVc, type := pReq.type, route := pReq.route, respRoute := pReq.respRoute, hopPtr := pReq.hopPtr, hops := pReq.hops, src := pReq.src, dst := pReq.dst, tag := wAll.dev.nextTag pReq.src, addr := pReq.addr, lenM1 := pReq.lenM1, secure := pReq.secure, status := pReq.status, bmask := pReq.bmask, data := pReq.data : Packet }
      = none) ∧ ((wAll.dev.routeUse (nodeDie pReq.src) (nodeNi pReq.src) pReq.route).snd.getLsbD (52 : Nat) = false ∨ (12 : Nat)
      < ((wAll.dev.routeUse (nodeDie pReq.src) (nodeNi pReq.src) pReq.route).snd >>> (36 : Nat)).toNat % (16 : Nat))) ∧
    ((wNoc.live = true) ∧ (at12.isRequest = false) ∧ ((wNoc.dev.routeUse (nodeDie at12.src) (nodeNi at12.src)
      at12.route).snd.getLsbD (52 : Nat) = true) ∧ (((wNoc.dev.routeUse (nodeDie at12.src) (nodeNi at12.src) at12.route).snd >>>
      (36 : Nat)).toNat % (16 : Nat) ≤ (12 : Nat))) ∧
    (((wStray (2 : Nat) (0 : Nat)).live = true) ∧ ((wStray (2 : Nat) (0 : Nat)).dev.noc.flights[(0 : Nat)]? = some at13) ∧
      (at13.arrived = true) ∧ (∀ (y : Flight), y ∈ (wStray (2 : Nat) (0 : Nat)).dev.inFlight → y.before at13 = false) ∧ ((wStray
      (2 : Nat) (0 : Nat)).dev.reqOf (if at13.die ≤ (11 : Nat) then have __src := at13.pkt;
      { vc := __src.vc, type := __src.type, route := __src.route, respRoute := __src.respRoute, hopPtr := __src.hopPtr, hops := __src.hops, src := __src.src, dst := nodeId at13.die at13.router (nodeEnd at13.pkt.dst), tag := __src.tag, addr := __src.addr, lenM1 := __src.lenM1, secure := __src.secure, status := __src.status, bmask := __src.bmask, data := __src.data : Packet }
      else at13.pkt).dst (if at13.die ≤ (11 : Nat) then have __src := at13.pkt;
      { vc := __src.vc, type := __src.type, route := __src.route, respRoute := __src.respRoute, hopPtr := __src.hopPtr, hops := __src.hops, src := __src.src, dst := nodeId at13.die at13.router (nodeEnd at13.pkt.dst), tag := __src.tag, addr := __src.addr, lenM1 := __src.lenM1, secure := __src.secure, status := __src.status, bmask := __src.bmask, data := __src.data : Packet }
      else at13.pkt).tag = none) ∧ ((if at13.die ≤ (11 : Nat) then have __src := at13.pkt;
      { vc := __src.vc, type := __src.type, route := __src.route, respRoute := __src.respRoute, hopPtr := __src.hopPtr, hops := __src.hops, src := __src.src, dst := nodeId at13.die at13.router (nodeEnd at13.pkt.dst), tag := __src.tag, addr := __src.addr, lenM1 := __src.lenM1, secure := __src.secure, status := __src.status, bmask := __src.bmask, data := __src.data : Packet }
      else at13.pkt).type = (2 : Nat))) ∧
    (((wStray (3 : Nat) (0 : Nat)).live = true) ∧ ((wStray (3 : Nat) (0 : Nat)).dev.noc.flights[(0 : Nat)]? = some at14) ∧
      (at14.arrived = true) ∧ (∀ (y : Flight), y ∈ (wStray (3 : Nat) (0 : Nat)).dev.inFlight → y.before at14 = false) ∧ ((wStray
      (3 : Nat) (0 : Nat)).dev.reqOf (if at14.die ≤ (11 : Nat) then have __src := at14.pkt;
      { vc := __src.vc, type := __src.type, route := __src.route, respRoute := __src.respRoute, hopPtr := __src.hopPtr, hops := __src.hops, src := __src.src, dst := nodeId at14.die at14.router (nodeEnd at14.pkt.dst), tag := __src.tag, addr := __src.addr, lenM1 := __src.lenM1, secure := __src.secure, status := __src.status, bmask := __src.bmask, data := __src.data : Packet }
      else at14.pkt).dst (if at14.die ≤ (11 : Nat) then have __src := at14.pkt;
      { vc := __src.vc, type := __src.type, route := __src.route, respRoute := __src.respRoute, hopPtr := __src.hopPtr, hops := __src.hops, src := __src.src, dst := nodeId at14.die at14.router (nodeEnd at14.pkt.dst), tag := __src.tag, addr := __src.addr, lenM1 := __src.lenM1, secure := __src.secure, status := __src.status, bmask := __src.bmask, data := __src.data : Packet }
      else at14.pkt).tag = none) ∧ ((if at14.die ≤ (11 : Nat) then have __src := at14.pkt;
      { vc := __src.vc, type := __src.type, route := __src.route, respRoute := __src.respRoute, hopPtr := __src.hopPtr, hops := __src.hops, src := __src.src, dst := nodeId at14.die at14.router (nodeEnd at14.pkt.dst), tag := __src.tag, addr := __src.addr, lenM1 := __src.lenM1, secure := __src.secure, status := __src.status, bmask := __src.bmask, data := __src.data : Packet }
      else at14.pkt).type = (3 : Nat))) ∧
    (((wRsp (2 : Nat) (0 : Nat)).live = true) ∧ ((wRsp (2 : Nat) (0 : Nat)).dev.noc.flights[(0 : Nat)]? = some (flight0 (wRsp
      (2 : Nat) (0 : Nat)))) ∧ ((flight0 (wRsp (2 : Nat) (0 : Nat))).arrived = true) ∧ (∀ (y : Flight), y ∈ (wRsp (2 : Nat) (0 :
      Nat)).dev.inFlight → y.before (flight0 (wRsp (2 : Nat) (0 : Nat))) = false) ∧ ((wRsp (2 : Nat) (0 : Nat)).dev.reqOf (if
      (flight0 (wRsp (2 : Nat) (0 : Nat))).die ≤ (11 : Nat) then have __src := (flight0 (wRsp (2 : Nat) (0 : Nat))).pkt;
      { vc := __src.vc, type := __src.type, route := __src.route, respRoute := __src.respRoute, hopPtr := __src.hopPtr, hops := __src.hops, src := __src.src, dst := nodeId (flight0 (wRsp (2 : Nat) (0 : Nat))).die (flight0 (wRsp (2 : Nat) (0 : Nat))).router (nodeEnd (flight0 (wRsp (2 : Nat) (0 : Nat))).pkt.dst), tag := __src.tag, addr := __src.addr, lenM1 := __src.lenM1, secure := __src.secure, status := __src.status, bmask := __src.bmask, data := __src.data : Packet }
      else (flight0 (wRsp (2 : Nat) (0 : Nat))).pkt).dst (if (flight0 (wRsp (2 : Nat) (0 : Nat))).die ≤ (11 : Nat) then have
      __src := (flight0 (wRsp (2 : Nat) (0 : Nat))).pkt;
      { vc := __src.vc, type := __src.type, route := __src.route, respRoute := __src.respRoute, hopPtr := __src.hopPtr, hops := __src.hops, src := __src.src, dst := nodeId (flight0 (wRsp (2 : Nat) (0 : Nat))).die (flight0 (wRsp (2 : Nat) (0 : Nat))).router (nodeEnd (flight0 (wRsp (2 : Nat) (0 : Nat))).pkt.dst), tag := __src.tag, addr := __src.addr, lenM1 := __src.lenM1, secure := __src.secure, status := __src.status, bmask := __src.bmask, data := __src.data : Packet }
      else (flight0 (wRsp (2 : Nat) (0 : Nat))).pkt).tag = some o9) ∧ (o9.asks = []) ∧ ((if (flight0 (wRsp (2 : Nat) (0 :
      Nat))).die ≤ (11 : Nat) then have __src := (flight0 (wRsp (2 : Nat) (0 : Nat))).pkt;
      { vc := __src.vc, type := __src.type, route := __src.route, respRoute := __src.respRoute, hopPtr := __src.hopPtr, hops := __src.hops, src := __src.src, dst := nodeId (flight0 (wRsp (2 : Nat) (0 : Nat))).die (flight0 (wRsp (2 : Nat) (0 : Nat))).router (nodeEnd (flight0 (wRsp (2 : Nat) (0 : Nat))).pkt.dst), tag := __src.tag, addr := __src.addr, lenM1 := __src.lenM1, secure := __src.secure, status := __src.status, bmask := __src.bmask, data := __src.data : Packet }
      else (flight0 (wRsp (2 : Nat) (0 : Nat))).pkt).type = (2 : Nat)) ∧ ((if (flight0 (wRsp (2 : Nat) (0 : Nat))).die ≤ (11 :
      Nat) then have __src := (flight0 (wRsp (2 : Nat) (0 : Nat))).pkt;
      { vc := __src.vc, type := __src.type, route := __src.route, respRoute := __src.respRoute, hopPtr := __src.hopPtr, hops := __src.hops, src := __src.src, dst := nodeId (flight0 (wRsp (2 : Nat) (0 : Nat))).die (flight0 (wRsp (2 : Nat) (0 : Nat))).router (nodeEnd (flight0 (wRsp (2 : Nat) (0 : Nat))).pkt.dst), tag := __src.tag, addr := __src.addr, lenM1 := __src.lenM1, secure := __src.secure, status := __src.status, bmask := __src.bmask, data := __src.data : Packet }
      else (flight0 (wRsp (2 : Nat) (0 : Nat))).pkt).status = (0 : Nat)) ∧ ((dataCheck [(3 : Nat)]).snd = false)) ∧
    (((wRsp (2 : Nat) (1 : Nat)).live = true) ∧ ((wRsp (2 : Nat) (1 : Nat)).dev.noc.flights[(0 : Nat)]? = some (flight0 (wRsp
      (2 : Nat) (1 : Nat)))) ∧ ((flight0 (wRsp (2 : Nat) (1 : Nat))).arrived = true) ∧ (∀ (y : Flight), y ∈ (wRsp (2 : Nat) (1 :
      Nat)).dev.inFlight → y.before (flight0 (wRsp (2 : Nat) (1 : Nat))) = false) ∧ ((wRsp (2 : Nat) (1 : Nat)).dev.reqOf (if
      (flight0 (wRsp (2 : Nat) (1 : Nat))).die ≤ (11 : Nat) then have __src := (flight0 (wRsp (2 : Nat) (1 : Nat))).pkt;
      { vc := __src.vc, type := __src.type, route := __src.route, respRoute := __src.respRoute, hopPtr := __src.hopPtr, hops := __src.hops, src := __src.src, dst := nodeId (flight0 (wRsp (2 : Nat) (1 : Nat))).die (flight0 (wRsp (2 : Nat) (1 : Nat))).router (nodeEnd (flight0 (wRsp (2 : Nat) (1 : Nat))).pkt.dst), tag := __src.tag, addr := __src.addr, lenM1 := __src.lenM1, secure := __src.secure, status := __src.status, bmask := __src.bmask, data := __src.data : Packet }
      else (flight0 (wRsp (2 : Nat) (1 : Nat))).pkt).dst (if (flight0 (wRsp (2 : Nat) (1 : Nat))).die ≤ (11 : Nat) then have
      __src := (flight0 (wRsp (2 : Nat) (1 : Nat))).pkt;
      { vc := __src.vc, type := __src.type, route := __src.route, respRoute := __src.respRoute, hopPtr := __src.hopPtr, hops := __src.hops, src := __src.src, dst := nodeId (flight0 (wRsp (2 : Nat) (1 : Nat))).die (flight0 (wRsp (2 : Nat) (1 : Nat))).router (nodeEnd (flight0 (wRsp (2 : Nat) (1 : Nat))).pkt.dst), tag := __src.tag, addr := __src.addr, lenM1 := __src.lenM1, secure := __src.secure, status := __src.status, bmask := __src.bmask, data := __src.data : Packet }
      else (flight0 (wRsp (2 : Nat) (1 : Nat))).pkt).tag = some o9) ∧ (o9.asks = []) ∧ ((if (flight0 (wRsp (2 : Nat) (1 :
      Nat))).die ≤ (11 : Nat) then have __src := (flight0 (wRsp (2 : Nat) (1 : Nat))).pkt;
      { vc := __src.vc, type := __src.type, route := __src.route, respRoute := __src.respRoute, hopPtr := __src.hopPtr, hops := __src.hops, src := __src.src, dst := nodeId (flight0 (wRsp (2 : Nat) (1 : Nat))).die (flight0 (wRsp (2 : Nat) (1 : Nat))).router (nodeEnd (flight0 (wRsp (2 : Nat) (1 : Nat))).pkt.dst), tag := __src.tag, addr := __src.addr, lenM1 := __src.lenM1, secure := __src.secure, status := __src.status, bmask := __src.bmask, data := __src.data : Packet }
      else (flight0 (wRsp (2 : Nat) (1 : Nat))).pkt).type = (2 : Nat)) ∧ ((if (flight0 (wRsp (2 : Nat) (1 : Nat))).die ≤ (11 :
      Nat) then have __src := (flight0 (wRsp (2 : Nat) (1 : Nat))).pkt;
      { vc := __src.vc, type := __src.type, route := __src.route, respRoute := __src.respRoute, hopPtr := __src.hopPtr, hops := __src.hops, src := __src.src, dst := nodeId (flight0 (wRsp (2 : Nat) (1 : Nat))).die (flight0 (wRsp (2 : Nat) (1 : Nat))).router (nodeEnd (flight0 (wRsp (2 : Nat) (1 : Nat))).pkt.dst), tag := __src.tag, addr := __src.addr, lenM1 := __src.lenM1, secure := __src.secure, status := __src.status, bmask := __src.bmask, data := __src.data : Packet }
      else (flight0 (wRsp (2 : Nat) (1 : Nat))).pkt).status ≠ (0 : Nat) ∨ (dataCheck []).snd = true)) ∧
    (((wRsp (3 : Nat) (0 : Nat)).live = true) ∧ ((wRsp (3 : Nat) (0 : Nat)).dev.noc.flights[(0 : Nat)]? = some (flight0 (wRsp
      (3 : Nat) (0 : Nat)))) ∧ ((flight0 (wRsp (3 : Nat) (0 : Nat))).arrived = true) ∧ (∀ (y : Flight), y ∈ (wRsp (3 : Nat) (0 :
      Nat)).dev.inFlight → y.before (flight0 (wRsp (3 : Nat) (0 : Nat))) = false) ∧ ((wRsp (3 : Nat) (0 : Nat)).dev.reqOf (if
      (flight0 (wRsp (3 : Nat) (0 : Nat))).die ≤ (11 : Nat) then have __src := (flight0 (wRsp (3 : Nat) (0 : Nat))).pkt;
      { vc := __src.vc, type := __src.type, route := __src.route, respRoute := __src.respRoute, hopPtr := __src.hopPtr, hops := __src.hops, src := __src.src, dst := nodeId (flight0 (wRsp (3 : Nat) (0 : Nat))).die (flight0 (wRsp (3 : Nat) (0 : Nat))).router (nodeEnd (flight0 (wRsp (3 : Nat) (0 : Nat))).pkt.dst), tag := __src.tag, addr := __src.addr, lenM1 := __src.lenM1, secure := __src.secure, status := __src.status, bmask := __src.bmask, data := __src.data : Packet }
      else (flight0 (wRsp (3 : Nat) (0 : Nat))).pkt).dst (if (flight0 (wRsp (3 : Nat) (0 : Nat))).die ≤ (11 : Nat) then have
      __src := (flight0 (wRsp (3 : Nat) (0 : Nat))).pkt;
      { vc := __src.vc, type := __src.type, route := __src.route, respRoute := __src.respRoute, hopPtr := __src.hopPtr, hops := __src.hops, src := __src.src, dst := nodeId (flight0 (wRsp (3 : Nat) (0 : Nat))).die (flight0 (wRsp (3 : Nat) (0 : Nat))).router (nodeEnd (flight0 (wRsp (3 : Nat) (0 : Nat))).pkt.dst), tag := __src.tag, addr := __src.addr, lenM1 := __src.lenM1, secure := __src.secure, status := __src.status, bmask := __src.bmask, data := __src.data : Packet }
      else (flight0 (wRsp (3 : Nat) (0 : Nat))).pkt).tag = some o9) ∧ (o9.asks = []) ∧ ((if (flight0 (wRsp (3 : Nat) (0 :
      Nat))).die ≤ (11 : Nat) then have __src := (flight0 (wRsp (3 : Nat) (0 : Nat))).pkt;
      { vc := __src.vc, type := __src.type, route := __src.route, respRoute := __src.respRoute, hopPtr := __src.hopPtr, hops := __src.hops, src := __src.src, dst := nodeId (flight0 (wRsp (3 : Nat) (0 : Nat))).die (flight0 (wRsp (3 : Nat) (0 : Nat))).router (nodeEnd (flight0 (wRsp (3 : Nat) (0 : Nat))).pkt.dst), tag := __src.tag, addr := __src.addr, lenM1 := __src.lenM1, secure := __src.secure, status := __src.status, bmask := __src.bmask, data := __src.data : Packet }
      else (flight0 (wRsp (3 : Nat) (0 : Nat))).pkt).type = (3 : Nat))) ∧
    (((wRsp (3 : Nat) (0 : Nat)).live = true) ∧ ((wRsp (3 : Nat) (0 : Nat)).dev.reqOf (nodeId (0 : Nat) (5 : Nat) (0 : Nat))
      (9 : Nat) = some o9) ∧ (o9.own = true) ∧ (o9.pkt.type ≠ (8 : Nat)) ∧ (o9.asks = []) ∧ (o9.pkt.src = nodeId (0 : Nat) (5 :
      Nat) (0 : Nat)) ∧ (o9.pkt.tag = (9 : Nat))) ∧
    (((wHop (7 : Nat) [(0 : Nat)] (0 : Nat)).live = true) ∧ ((wHop (7 : Nat) [(0 : Nat)] (0 :
      Nat)).dev.noc.flights[(0 : Nat)]? = some at15) ∧ (at15.arrived = false) ∧ (at15.stalled = false)) := by
  and_intros <;> decide +kernel

theorem test_meets_TargetsServeRequests :
    (((wAt (pG (0 : Nat))).live = true) ∧ ((wAt (pG (0 : Nat))).dev.noc.flights[(0 : Nat)]? = some at16) ∧ (at16.arrived =
      true) ∧ ((11 : Nat) < at16.die) ∧ (∀ (y : Flight), y ∈ (wAt (pG (0 : Nat))).dev.inFlight → y.before at16 = false) ∧
      (entryOk (((wAt (pG (0 : Nat))).dev.atTarget (0 : Nat) at16.pkt []).routeUse (nodeDie at16.pkt.dst) (nodeNi at16.pkt.dst)
      at16.pkt.respRoute).snd = true) ∧ (((wAt (pG (0 : Nat))).dev.atTarget (0 : Nat) at16.pkt []).servesAddr at16.pkt.dst
      at16.pkt.addr = true) ∧ (((wAt (pG (0 : Nat))).dev.atTarget (0 : Nat) at16.pkt []).worldBad at16.pkt.secure at16.pkt.addr
      = false) ∧ (at16.pkt.type = (0 : Nat)) ∧ (((wAt (pG (0 : Nat))).dev.atTarget (0 : Nat) at16.pkt []).lineHeld at16.pkt.addr
      = false) ∧ (placeOf at16.pkt.addr = some (Place.gran (0 : Nat) (12582912 : Nat))) ∧ (((wAt (pG (0 : Nat))).dev.atTarget (0
      : Nat) at16.pkt []).busGate at16.pkt.who at16.pkt.addr Turn.first = (Gate.serve (Place.gran (0 : Nat) (12582912 : Nat)),
      (wAt (pG (0 : Nat))).dev.atTarget (0 : Nat) at16.pkt [])) ∧ (∀ (w : Nat), w ∈ granWords at16.pkt.addr (at16.pkt.lenM1 + (1
      : Nat)) → (((wAt (pG (0 : Nat))).dev.atTarget (0 : Nat) at16.pkt []).granMark w).bad = false ∧ (((wAt (pG (0 :
      Nat))).dev.atTarget (0 : Nat) at16.pkt []).granMark w).single = false)) ∧
    (((wReadyAt (pH (0 : Nat))).live = true) ∧ ((wReadyAt (pH (0 : Nat))).dev.noc.flights[(0 : Nat)]? = some at17) ∧
      (at17.arrived = true) ∧ ((11 : Nat) < at17.die) ∧ (∀ (y : Flight), y ∈ (wReadyAt (pH (0 : Nat))).dev.inFlight → y.before
      at17 = false) ∧ (entryOk (((wReadyAt (pH (0 : Nat))).dev.atTarget (0 : Nat) at17.pkt []).routeUse (nodeDie at17.pkt.dst)
      (nodeNi at17.pkt.dst) at17.pkt.respRoute).snd = true) ∧ (((wReadyAt (pH (0 : Nat))).dev.atTarget (0 : Nat) at17.pkt
      []).servesAddr at17.pkt.dst at17.pkt.addr = true) ∧ (((wReadyAt (pH (0 : Nat))).dev.atTarget (0 : Nat) at17.pkt
      []).worldBad at17.pkt.secure at17.pkt.addr = false) ∧ (at17.pkt.type = (0 : Nat)) ∧ (((wReadyAt (pH (0 :
      Nat))).dev.atTarget (0 : Nat) at17.pkt []).lineHeld at17.pkt.addr = false) ∧ (placeOf at17.pkt.addr = some Place.hbm) ∧
      (((wReadyAt (pH (0 : Nat))).dev.atTarget (0 : Nat) at17.pkt []).busGate at17.pkt.who at17.pkt.addr Turn.first =
      (Gate.serve Place.hbm, (wReadyAt (pH (0 : Nat))).dev.atTarget (0 : Nat) at17.pkt [])) ∧ (((wReadyAt (pH (0 :
      Nat))).dev.atTarget (0 : Nat) at17.pkt []).hbmGate at17.pkt.addr = none ∧ ((wReadyAt (pH (0 : Nat))).dev.atTarget (0 :
      Nat) at17.pkt []).rgnAt (hbmSplit ((wReadyAt (pH (0 : Nat))).dev.atTarget (0 : Nat) at17.pkt []).hbmOrder
      at17.pkt.addr).fst (hbmSplit ((wReadyAt (pH (0 : Nat))).dev.atTarget (0 : Nat) at17.pkt []).hbmOrder at17.pkt.addr).snd =
      none ∧ ∀ (b : Nat), b ∈ hbmBursts at17.pkt.addr (at17.pkt.lenM1 + (1 : Nat)) → ((wReadyAt (pH (0 : Nat))).dev.atTarget (0
      : Nat) at17.pkt []).burstBad b = false ∧ ((wReadyAt (pH (0 : Nat))).dev.atTarget (0 : Nat) at17.pkt []).burstSingle b =
      false)) ∧
    (((wAt (pH (0 : Nat))).live = true) ∧ ((wAt (pH (0 : Nat))).dev.noc.flights[(0 : Nat)]? = some at18) ∧ (at18.arrived =
      true) ∧ ((11 : Nat) < at18.die) ∧ (∀ (y : Flight), y ∈ (wAt (pH (0 : Nat))).dev.inFlight → y.before at18 = false) ∧
      (entryOk (((wAt (pH (0 : Nat))).dev.atTarget (0 : Nat) at18.pkt []).routeUse (nodeDie at18.pkt.dst) (nodeNi at18.pkt.dst)
      at18.pkt.respRoute).snd = true) ∧ (((wAt (pH (0 : Nat))).dev.atTarget (0 : Nat) at18.pkt []).servesAddr at18.pkt.dst
      at18.pkt.addr = true) ∧ (((wAt (pH (0 : Nat))).dev.atTarget (0 : Nat) at18.pkt []).worldBad at18.pkt.secure at18.pkt.addr
      = false) ∧ (at18.pkt.type = (0 : Nat)) ∧ (((wAt (pH (0 : Nat))).dev.atTarget (0 : Nat) at18.pkt []).lineHeld at18.pkt.addr
      = false) ∧ (placeOf at18.pkt.addr = some Place.hbm) ∧ (((wAt (pH (0 : Nat))).dev.atTarget (0 : Nat) at18.pkt []).busGate
      at18.pkt.who at18.pkt.addr Turn.first = (Gate.serve Place.hbm, (wAt (pH (0 : Nat))).dev.atTarget (0 : Nat) at18.pkt [])) ∧
      (((wAt (pH (0 : Nat))).dev.atTarget (0 : Nat) at18.pkt []).stackState (hbmSplit ((wAt (pH (0 : Nat))).dev.atTarget (0 :
      Nat) at18.pkt []).hbmOrder at18.pkt.addr).fst = (0 : Nat) ∨ ((wAt (pH (0 : Nat))).dev.atTarget (0 : Nat) at18.pkt
      []).stackState (hbmSplit ((wAt (pH (0 : Nat))).dev.atTarget (0 : Nat) at18.pkt []).hbmOrder at18.pkt.addr).fst = (1 : Nat)
      ∨ ((wAt (pH (0 : Nat))).dev.atTarget (0 : Nat) at18.pkt []).stackState (hbmSplit ((wAt (pH (0 : Nat))).dev.atTarget (0 :
      Nat) at18.pkt []).hbmOrder at18.pkt.addr).fst = (5 : Nat))) ∧
    ((wZeroing.live = true) ∧ (wZeroing.dev.noc.flights[(0 : Nat)]? = some (flight0 wZeroing)) ∧ ((flight0 wZeroing).arrived =
      true) ∧ ((11 : Nat) < (flight0 wZeroing).die) ∧ (∀ (y : Flight), y ∈ wZeroing.dev.inFlight → y.before (flight0 wZeroing) =
      false) ∧ (entryOk ((wZeroing.dev.atTarget (0 : Nat) (flight0 wZeroing).pkt []).routeUse (nodeDie (flight0
      wZeroing).pkt.dst) (nodeNi (flight0 wZeroing).pkt.dst) (flight0 wZeroing).pkt.respRoute).snd = true) ∧
      ((wZeroing.dev.atTarget (0 : Nat) (flight0 wZeroing).pkt []).servesAddr (flight0 wZeroing).pkt.dst (flight0
      wZeroing).pkt.addr = true) ∧ ((wZeroing.dev.atTarget (0 : Nat) (flight0 wZeroing).pkt []).worldBad (flight0
      wZeroing).pkt.secure (flight0 wZeroing).pkt.addr = false) ∧ ((flight0 wZeroing).pkt.type = (0 : Nat)) ∧
      ((wZeroing.dev.atTarget (0 : Nat) (flight0 wZeroing).pkt []).lineHeld (flight0 wZeroing).pkt.addr = false) ∧ (placeOf
      (flight0 wZeroing).pkt.addr = some (Place.gran (0 : Nat) (12582912 : Nat))) ∧ ((wZeroing.dev.atTarget (0 : Nat) (flight0
      wZeroing).pkt []).busGate (flight0 wZeroing).pkt.who (flight0 wZeroing).pkt.addr Turn.first = (Gate.answer BusRes.wait,
      wZeroing.dev.atTarget (0 : Nat) (flight0 wZeroing).pkt []))) ∧
    (((wAt (pG (1 : Nat))).live = true) ∧ ((wAt (pG (1 : Nat))).dev.noc.flights[(0 : Nat)]? = some at19) ∧ (at19.arrived =
      true) ∧ ((11 : Nat) < at19.die) ∧ (∀ (y : Flight), y ∈ (wAt (pG (1 : Nat))).dev.inFlight → y.before at19 = false) ∧
      (entryOk (((wAt (pG (1 : Nat))).dev.atTarget (0 : Nat) at19.pkt [(3 : Nat)]).routeUse (nodeDie at19.pkt.dst) (nodeNi
      at19.pkt.dst) at19.pkt.respRoute).snd = true) ∧ (((wAt (pG (1 : Nat))).dev.atTarget (0 : Nat) at19.pkt
      [(3 : Nat)]).servesAddr at19.pkt.dst at19.pkt.addr = true) ∧ (((wAt (pG (1 : Nat))).dev.atTarget (0 : Nat) at19.pkt
      [(3 : Nat)]).worldBad at19.pkt.secure at19.pkt.addr = false) ∧ (at19.pkt.type = (1 : Nat) ∨ at19.pkt.type = (9 : Nat)) ∧
      ((dataCheck [(3 : Nat)]).snd = false) ∧ (((wAt (pG (1 : Nat))).dev.atTarget (0 : Nat) at19.pkt [(3 : Nat)]).lineHeld
      at19.pkt.addr = false) ∧ (((wAt (pG (1 : Nat))).dev.atTarget (0 : Nat) at19.pkt [(3 : Nat)]).dirAt (at19.pkt.addr / (64 :
      Nat) * (64 : Nat)) = none) ∧ (placeOf at19.pkt.addr = some (Place.gran (0 : Nat) (12582912 : Nat))) ∧ (((wAt (pG (1 :
      Nat))).dev.atTarget (0 : Nat) at19.pkt [(3 : Nat)]).busGate at19.pkt.who at19.pkt.addr Turn.first = (Gate.serve
      (Place.gran (0 : Nat) (12582912 : Nat)), (wAt (pG (1 : Nat))).dev.atTarget (0 : Nat) at19.pkt [(3 : Nat)])) ∧ (∀ (w :
      Nat), w ∈ granWords at19.pkt.addr (at19.pkt.lenM1 + (1 : Nat)) → (((wAt (pG (1 : Nat))).dev.atTarget (0 : Nat) at19.pkt
      [(3 : Nat)]).granMark w).bad = false ∧ (((wAt (pG (1 : Nat))).dev.atTarget (0 : Nat) at19.pkt [(3 : Nat)]).granMark
      w).single = false) ∧ (((wAt (pG (1 : Nat))).dev.atTarget (0 : Nat) at19.pkt [(3 : Nat)]).on (Reg.GRAN_TEST_STATUS_active
      (baseSel ((at19.pkt.addr - granBase (0 : Nat)) / granBytes))) = false) ∧ (at19.pkt.addr % (64 : Nat) + (at19.pkt.lenM1 +
      (1 : Nat)) ≤ (64 : Nat)) ∧ (at19.pkt.type = (1 : Nat))) ∧
    (((wAt (pG (9 : Nat))).live = true) ∧ ((wAt (pG (9 : Nat))).dev.noc.flights[(0 : Nat)]? = some at20) ∧ (at20.arrived =
      true) ∧ ((11 : Nat) < at20.die) ∧ (∀ (y : Flight), y ∈ (wAt (pG (9 : Nat))).dev.inFlight → y.before at20 = false) ∧
      (entryOk (((wAt (pG (9 : Nat))).dev.atTarget (0 : Nat) at20.pkt []).routeUse (nodeDie at20.pkt.dst) (nodeNi at20.pkt.dst)
      at20.pkt.respRoute).snd = true) ∧ (((wAt (pG (9 : Nat))).dev.atTarget (0 : Nat) at20.pkt []).servesAddr at20.pkt.dst
      at20.pkt.addr = true) ∧ (((wAt (pG (9 : Nat))).dev.atTarget (0 : Nat) at20.pkt []).worldBad at20.pkt.secure at20.pkt.addr
      = false) ∧ (at20.pkt.type = (1 : Nat) ∨ at20.pkt.type = (9 : Nat)) ∧ ((dataCheck []).snd = false) ∧ (((wAt (pG (9 :
      Nat))).dev.atTarget (0 : Nat) at20.pkt []).lineHeld at20.pkt.addr = false) ∧ (((wAt (pG (9 : Nat))).dev.atTarget (0 : Nat)
      at20.pkt []).dirAt (at20.pkt.addr / (64 : Nat) * (64 : Nat)) = none) ∧ (placeOf at20.pkt.addr = some (Place.gran (0 : Nat)
      (12582912 : Nat))) ∧ (((wAt (pG (9 : Nat))).dev.atTarget (0 : Nat) at20.pkt []).busGate at20.pkt.who at20.pkt.addr
      Turn.first = (Gate.serve (Place.gran (0 : Nat) (12582912 : Nat)), (wAt (pG (9 : Nat))).dev.atTarget (0 : Nat) at20.pkt
      [])) ∧ (∀ (w : Nat), w ∈ granWords at20.pkt.addr (at20.pkt.lenM1 + (1 : Nat)) → (((wAt (pG (9 : Nat))).dev.atTarget (0 :
      Nat) at20.pkt []).granMark w).bad = false ∧ (((wAt (pG (9 : Nat))).dev.atTarget (0 : Nat) at20.pkt []).granMark w).single
      = false) ∧ (((wAt (pG (9 : Nat))).dev.atTarget (0 : Nat) at20.pkt []).on (Reg.GRAN_TEST_STATUS_active (baseSel
      ((at20.pkt.addr - granBase (0 : Nat)) / granBytes))) = false) ∧ (at20.pkt.addr % (64 : Nat) + (at20.pkt.lenM1 + (1 : Nat))
      ≤ (64 : Nat)) ∧ (at20.pkt.type = (9 : Nat))) ∧
    (((wReadyAt (pH (1 : Nat))).live = true) ∧ ((wReadyAt (pH (1 : Nat))).dev.noc.flights[(0 : Nat)]? = some at21) ∧
      (at21.arrived = true) ∧ ((11 : Nat) < at21.die) ∧ (∀ (y : Flight), y ∈ (wReadyAt (pH (1 : Nat))).dev.inFlight → y.before
      at21 = false) ∧ (entryOk (((wReadyAt (pH (1 : Nat))).dev.atTarget (0 : Nat) at21.pkt []).routeUse (nodeDie at21.pkt.dst)
      (nodeNi at21.pkt.dst) at21.pkt.respRoute).snd = true) ∧ (((wReadyAt (pH (1 : Nat))).dev.atTarget (0 : Nat) at21.pkt
      []).servesAddr at21.pkt.dst at21.pkt.addr = true) ∧ (((wReadyAt (pH (1 : Nat))).dev.atTarget (0 : Nat) at21.pkt
      []).worldBad at21.pkt.secure at21.pkt.addr = false) ∧ (at21.pkt.type = (1 : Nat) ∨ at21.pkt.type = (9 : Nat)) ∧
      ((dataCheck []).snd = false) ∧ (((wReadyAt (pH (1 : Nat))).dev.atTarget (0 : Nat) at21.pkt []).lineHeld at21.pkt.addr =
      false) ∧ (((wReadyAt (pH (1 : Nat))).dev.atTarget (0 : Nat) at21.pkt []).dirAt (at21.pkt.addr / (64 : Nat) * (64 : Nat)) =
      none) ∧ (placeOf at21.pkt.addr = some Place.hbm) ∧ (((wReadyAt (pH (1 : Nat))).dev.atTarget (0 : Nat) at21.pkt []).busGate
      at21.pkt.who at21.pkt.addr Turn.first = (Gate.serve Place.hbm, (wReadyAt (pH (1 : Nat))).dev.atTarget (0 : Nat) at21.pkt
      [])) ∧ (((wReadyAt (pH (1 : Nat))).dev.atTarget (0 : Nat) at21.pkt []).hbmGate at21.pkt.addr = none ∧ ((wReadyAt (pH (1 :
      Nat))).dev.atTarget (0 : Nat) at21.pkt []).rgnAt (hbmSplit ((wReadyAt (pH (1 : Nat))).dev.atTarget (0 : Nat) at21.pkt
      []).hbmOrder at21.pkt.addr).fst (hbmSplit ((wReadyAt (pH (1 : Nat))).dev.atTarget (0 : Nat) at21.pkt []).hbmOrder
      at21.pkt.addr).snd = none ∧ ∀ (b : Nat), b ∈ hbmBursts at21.pkt.addr (at21.pkt.lenM1 + (1 : Nat)) → ((wReadyAt (pH (1 :
      Nat))).dev.atTarget (0 : Nat) at21.pkt []).burstBad b = false ∧ ((wReadyAt (pH (1 : Nat))).dev.atTarget (0 : Nat) at21.pkt
      []).burstSingle b = false) ∧ (((wReadyAt (pH (1 : Nat))).dev.atTarget (0 : Nat) at21.pkt []).areaAt (hbmSplit ((wReadyAt
      (pH (1 : Nat))).dev.atTarget (0 : Nat) at21.pkt []).hbmOrder at21.pkt.addr).fst (hbmSplit ((wReadyAt (pH (1 :
      Nat))).dev.atTarget (0 : Nat) at21.pkt []).hbmOrder at21.pkt.addr).snd = none) ∧ (at21.pkt.type = (1 : Nat))) ∧
    (((wReadyAt (pH (9 : Nat))).live = true) ∧ ((wReadyAt (pH (9 : Nat))).dev.noc.flights[(0 : Nat)]? = some at22) ∧
      (at22.arrived = true) ∧ ((11 : Nat) < at22.die) ∧ (∀ (y : Flight), y ∈ (wReadyAt (pH (9 : Nat))).dev.inFlight → y.before
      at22 = false) ∧ (entryOk (((wReadyAt (pH (9 : Nat))).dev.atTarget (0 : Nat) at22.pkt []).routeUse (nodeDie at22.pkt.dst)
      (nodeNi at22.pkt.dst) at22.pkt.respRoute).snd = true) ∧ (((wReadyAt (pH (9 : Nat))).dev.atTarget (0 : Nat) at22.pkt
      []).servesAddr at22.pkt.dst at22.pkt.addr = true) ∧ (((wReadyAt (pH (9 : Nat))).dev.atTarget (0 : Nat) at22.pkt
      []).worldBad at22.pkt.secure at22.pkt.addr = false) ∧ (at22.pkt.type = (1 : Nat) ∨ at22.pkt.type = (9 : Nat)) ∧
      ((dataCheck []).snd = false) ∧ (((wReadyAt (pH (9 : Nat))).dev.atTarget (0 : Nat) at22.pkt []).lineHeld at22.pkt.addr =
      false) ∧ (((wReadyAt (pH (9 : Nat))).dev.atTarget (0 : Nat) at22.pkt []).dirAt (at22.pkt.addr / (64 : Nat) * (64 : Nat)) =
      none) ∧ (placeOf at22.pkt.addr = some Place.hbm) ∧ (((wReadyAt (pH (9 : Nat))).dev.atTarget (0 : Nat) at22.pkt []).busGate
      at22.pkt.who at22.pkt.addr Turn.first = (Gate.serve Place.hbm, (wReadyAt (pH (9 : Nat))).dev.atTarget (0 : Nat) at22.pkt
      [])) ∧ (((wReadyAt (pH (9 : Nat))).dev.atTarget (0 : Nat) at22.pkt []).hbmGate at22.pkt.addr = none ∧ ((wReadyAt (pH (9 :
      Nat))).dev.atTarget (0 : Nat) at22.pkt []).rgnAt (hbmSplit ((wReadyAt (pH (9 : Nat))).dev.atTarget (0 : Nat) at22.pkt
      []).hbmOrder at22.pkt.addr).fst (hbmSplit ((wReadyAt (pH (9 : Nat))).dev.atTarget (0 : Nat) at22.pkt []).hbmOrder
      at22.pkt.addr).snd = none ∧ ∀ (b : Nat), b ∈ hbmBursts at22.pkt.addr (at22.pkt.lenM1 + (1 : Nat)) → ((wReadyAt (pH (9 :
      Nat))).dev.atTarget (0 : Nat) at22.pkt []).burstBad b = false ∧ ((wReadyAt (pH (9 : Nat))).dev.atTarget (0 : Nat) at22.pkt
      []).burstSingle b = false) ∧ (((wReadyAt (pH (9 : Nat))).dev.atTarget (0 : Nat) at22.pkt []).areaAt (hbmSplit ((wReadyAt
      (pH (9 : Nat))).dev.atTarget (0 : Nat) at22.pkt []).hbmOrder at22.pkt.addr).fst (hbmSplit ((wReadyAt (pH (9 :
      Nat))).dev.atTarget (0 : Nat) at22.pkt []).hbmOrder at22.pkt.addr).snd = none) ∧ (at22.pkt.type = (9 : Nat))) ∧
    (((wAt (pG (1 : Nat))).live = true) ∧ ((wAt (pG (1 : Nat))).dev.noc.flights[(0 : Nat)]? = some at19) ∧ (at19.arrived =
      true) ∧ ((11 : Nat) < at19.die) ∧ (∀ (y : Flight), y ∈ (wAt (pG (1 : Nat))).dev.inFlight → y.before at19 = false) ∧
      (entryOk (((wAt (pG (1 : Nat))).dev.atTarget (0 : Nat) at19.pkt [(3 : Nat), (4 : Nat)]).routeUse (nodeDie at19.pkt.dst)
      (nodeNi at19.pkt.dst) at19.pkt.respRoute).snd = true) ∧ (((wAt (pG (1 : Nat))).dev.atTarget (0 : Nat) at19.pkt
      [(3 : Nat), (4 : Nat)]).servesAddr at19.pkt.dst at19.pkt.addr = true) ∧ (((wAt (pG (1 : Nat))).dev.atTarget (0 : Nat)
      at19.pkt [(3 : Nat), (4 : Nat)]).worldBad at19.pkt.secure at19.pkt.addr = false) ∧ ((dataCheck [(3 : Nat), (4 : Nat)]).snd
      = true) ∧ (at19.pkt.type = (1 : Nat))) ∧
    (((wAt (pG (9 : Nat))).live = true) ∧ ((wAt (pG (9 : Nat))).dev.noc.flights[(0 : Nat)]? = some at20) ∧ (at20.arrived =
      true) ∧ ((11 : Nat) < at20.die) ∧ (∀ (y : Flight), y ∈ (wAt (pG (9 : Nat))).dev.inFlight → y.before at20 = false) ∧
      (entryOk (((wAt (pG (9 : Nat))).dev.atTarget (0 : Nat) at20.pkt [(3 : Nat), (4 : Nat)]).routeUse (nodeDie at20.pkt.dst)
      (nodeNi at20.pkt.dst) at20.pkt.respRoute).snd = true) ∧ (((wAt (pG (9 : Nat))).dev.atTarget (0 : Nat) at20.pkt
      [(3 : Nat), (4 : Nat)]).servesAddr at20.pkt.dst at20.pkt.addr = true) ∧ (((wAt (pG (9 : Nat))).dev.atTarget (0 : Nat)
      at20.pkt [(3 : Nat), (4 : Nat)]).worldBad at20.pkt.secure at20.pkt.addr = false) ∧ ((dataCheck [(3 : Nat), (4 : Nat)]).snd
      = true) ∧ (at20.pkt.type = (9 : Nat))) ∧
    (((wAt (pG (8 : Nat))).live = true) ∧ ((wAt (pG (8 : Nat))).dev.noc.flights[(0 : Nat)]? = some at23) ∧ (at23.arrived =
      true) ∧ ((11 : Nat) < at23.die) ∧ (∀ (y : Flight), y ∈ (wAt (pG (8 : Nat))).dev.inFlight → y.before at23 = false) ∧
      (entryOk (((wAt (pG (8 : Nat))).dev.atTarget (0 : Nat) at23.pkt []).routeUse (nodeDie at23.pkt.dst) (nodeNi at23.pkt.dst)
      at23.pkt.respRoute).snd = true) ∧ (((wAt (pG (8 : Nat))).dev.atTarget (0 : Nat) at23.pkt []).servesAddr at23.pkt.dst
      at23.pkt.addr = true) ∧ (((wAt (pG (8 : Nat))).dev.atTarget (0 : Nat) at23.pkt []).worldBad at23.pkt.secure at23.pkt.addr
      = false) ∧ (at23.pkt.type = (8 : Nat)) ∧ (((wAt (pG (8 : Nat))).dev.atTarget (0 : Nat) at23.pkt []).lineHeld at23.pkt.addr
      = false) ∧ (¬(((wAt (pG (8 : Nat))).dev.atTarget (0 : Nat) at23.pkt []).homeOf at23.pkt.addr, nodeDie at23.pkt.src) ∈
      ((wAt (pG (8 : Nat))).dev.atTarget (0 : Nat) at23.pkt []).rc.gone) ∧ ((((wAt (pG (8 : Nat))).dev.atTarget (0 : Nat)
      at23.pkt []).dirAt (at23.pkt.addr / (64 : Nat) * (64 : Nat))).isSome = true ∨ ((wAt (pG (8 : Nat))).dev.atTarget (0 : Nat)
      at23.pkt []).dirRoom (at23.pkt.addr / (64 : Nat) * (64 : Nat)) = (true, (wAt (pG (8 : Nat))).dev.atTarget (0 : Nat)
      at23.pkt [])) ∧ (placeOf (at23.pkt.addr / (64 : Nat) * (64 : Nat)) = some (Place.gran (0 : Nat) (12582912 : Nat))) ∧
      (((wAt (pG (8 : Nat))).dev.atTarget (0 : Nat) at23.pkt []).busGate at23.pkt.who (at23.pkt.addr / (64 : Nat) * (64 : Nat))
      Turn.first = (Gate.serve (Place.gran (0 : Nat) (12582912 : Nat)), (wAt (pG (8 : Nat))).dev.atTarget (0 : Nat) at23.pkt
      [])) ∧ (∀ (w : Nat), w ∈ granWords (at23.pkt.addr / (64 : Nat) * (64 : Nat)) (64 : Nat) → (((wAt (pG (8 :
      Nat))).dev.atTarget (0 : Nat) at23.pkt []).granMark w).bad = false ∧ (((wAt (pG (8 : Nat))).dev.atTarget (0 : Nat)
      at23.pkt []).granMark w).single = false)) := by
  and_intros <;> decide +kernel

theorem test_meets_RemoteCaches :
    ((wRcFlush.live = true) ∧ (nodeDie (pC (0 : Nat)).src ≤ (11 : Nat)) ∧ (wRcFlush.dev.heldDie (nodeDie (pC (0 : Nat)).src) =
      false) ∧ (wRcFlush.dev.cacheable (nodeDie (pC (0 : Nat)).src) (pC (0 : Nat)) = true) ∧ ((pC (0 : Nat)).type = (0 : Nat)) ∧
      (wRcFlush.dev.rc.flushAll = true ∨ nodeDie (pC (0 : Nat)).src ∈ wRcFlush.dev.rc.flushing)) ∧
    ((wRcFlush.live = true) ∧ (nodeDie (pC (1 : Nat)).src ≤ (11 : Nat)) ∧ (wRcFlush.dev.heldDie (nodeDie (pC (1 : Nat)).src) =
      false) ∧ (wRcFlush.dev.cacheable (nodeDie (pC (1 : Nat)).src) (pC (1 : Nat)) = true) ∧ ((pC (1 : Nat)).type = (1 : Nat)) ∧
      (wRcFlush.dev.rc.flushAll = true ∨ nodeDie (pC (1 : Nat)).src ∈ wRcFlush.dev.rc.flushing)) ∧
    (((wRc true).live = true) ∧ (nodeDie (pC (0 : Nat)).src ≤ (11 : Nat)) ∧ ((wRc true).dev.heldDie (nodeDie (pC (0 :
      Nat)).src) = false) ∧ ((wRc true).dev.cacheable (nodeDie (pC (0 : Nat)).src) (pC (0 : Nat)) = true) ∧ ((wRc
      true).dev.rc.flushAll = false) ∧ (¬nodeDie (pC (0 : Nat)).src ∈ (wRc true).dev.rc.flushing) ∧ ((wRc true).dev.rcLine
      (nodeDie (pC (0 : Nat)).src) ((pC (0 : Nat)).addr / (64 : Nat) * (64 : Nat)) = some (x64 true)) ∧ ((pC (0 : Nat)).type =
      (0 : Nat)) ∧ ((x64 true).valid = true)) ∧
    (((wRc false).live = true) ∧ (nodeDie (pC (0 : Nat)).src ≤ (11 : Nat)) ∧ ((wRc false).dev.heldDie (nodeDie (pC (0 :
      Nat)).src) = false) ∧ ((wRc false).dev.cacheable (nodeDie (pC (0 : Nat)).src) (pC (0 : Nat)) = true) ∧ ((wRc
      false).dev.rc.flushAll = false) ∧ (¬nodeDie (pC (0 : Nat)).src ∈ (wRc false).dev.rc.flushing) ∧ ((wRc false).dev.rcLine
      (nodeDie (pC (0 : Nat)).src) ((pC (0 : Nat)).addr / (64 : Nat) * (64 : Nat)) = some (x64 false)) ∧ ((pC (0 : Nat)).type =
      (0 : Nat)) ∧ ((x64 false).valid = false)) ∧
    (((wRc true).live = true) ∧ (nodeDie (pC (1 : Nat)).src ≤ (11 : Nat)) ∧ ((wRc true).dev.heldDie (nodeDie (pC (1 :
      Nat)).src) = false) ∧ ((wRc true).dev.cacheable (nodeDie (pC (1 : Nat)).src) (pC (1 : Nat)) = true) ∧ ((wRc
      true).dev.rc.flushAll = false) ∧ (¬nodeDie (pC (1 : Nat)).src ∈ (wRc true).dev.rc.flushing) ∧ ((wRc true).dev.rcLine
      (nodeDie (pC (1 : Nat)).src) ((pC (1 : Nat)).addr / (64 : Nat) * (64 : Nat)) = some (x64 true)) ∧ ((pC (1 : Nat)).type =
      (1 : Nat)) ∧ ((x64 true).valid = true) ∧ ((((wRc true).dev.useTag (pC (1 : Nat)).src).begin ((wRc true).dev.withTag (pC (1
      : Nat))) false).cacheSends (nodeDie (pC (1 : Nat)).src) ((pC (1 : Nat)).addr / (64 : Nat) * (64 : Nat)) (9 : Nat) ((((wRc
      true).dev.useTag (pC (1 : Nat)).src).begin ((wRc true).dev.withTag (pC (1 : Nat))) false).rcRequest (nodeDie (pC (1 :
      Nat)).src) ((wRc true).dev.withTag (pC (1 : Nat))) (9 : Nat) ((pC (1 : Nat)).addr / (64 : Nat) * (64 : Nat))) = true)) ∧
    ((wRcOn.live = true) ∧ (nodeDie (pC (0 : Nat)).src ≤ (11 : Nat)) ∧ (wRcOn.dev.heldDie (nodeDie (pC (0 : Nat)).src) =
      false) ∧ (wRcOn.dev.cacheable (nodeDie (pC (0 : Nat)).src) (pC (0 : Nat)) = true) ∧ (wRcOn.dev.rc.flushAll = false) ∧
      (¬nodeDie (pC (0 : Nat)).src ∈ wRcOn.dev.rc.flushing) ∧ (wRcOn.dev.rcLine (nodeDie (pC (0 : Nat)).src) ((pC (0 :
      Nat)).addr / (64 : Nat) * (64 : Nat)) = none) ∧ ((pC (0 : Nat)).type = (0 : Nat)) ∧ (wRcOn.dev.on (Reg.RCACHE_CTL_prefetch
      (nodeDie (pC (0 : Nat)).src)) = false) ∧ (((wRcOn.dev.useTag (pC (0 : Nat)).src).begin (wRcOn.dev.withTag (pC (0 : Nat)))
      false).cacheSends (nodeDie (pC (0 : Nat)).src) ((pC (0 : Nat)).addr / (64 : Nat) * (64 : Nat)) (8 : Nat)
      (((wRcOn.dev.useTag (pC (0 : Nat)).src).begin (wRcOn.dev.withTag (pC (0 : Nat))) false).lineAsk (nodeDie (pC (0 :
      Nat)).src) (wRcOn.dev.withTag (pC (0 : Nat))) ((pC (0 : Nat)).addr / (64 : Nat) * (64 : Nat))) = true) ∧ (List.find? (fun
      w => (wRcOn.dev.rcSet (nodeDie (pC (0 : Nat)).src) ((pC (0 : Nat)).addr / (64 : Nat) * (64 : Nat))).all fun e => e.snd.way
      != w) (List.range (16 : Nat)) = some (0 : Nat))) ∧
    ((wRcOn.live = true) ∧ (nodeDie (pC (1 : Nat)).src ≤ (11 : Nat)) ∧ (wRcOn.dev.heldDie (nodeDie (pC (1 : Nat)).src) =
      false) ∧ (wRcOn.dev.cacheable (nodeDie (pC (1 : Nat)).src) (pC (1 : Nat)) = true) ∧ (wRcOn.dev.rc.flushAll = false) ∧
      (¬nodeDie (pC (1 : Nat)).src ∈ wRcOn.dev.rc.flushing) ∧ (wRcOn.dev.rcLine (nodeDie (pC (1 : Nat)).src) ((pC (1 :
      Nat)).addr / (64 : Nat) * (64 : Nat)) = none) ∧ ((pC (1 : Nat)).type = (1 : Nat)) ∧ (((wRcOn.dev.useTag (pC (1 :
      Nat)).src).begin (wRcOn.dev.withTag (pC (1 : Nat))) false).cacheSends (nodeDie (pC (1 : Nat)).src) ((pC (1 : Nat)).addr /
      (64 : Nat) * (64 : Nat)) (9 : Nat) (((wRcOn.dev.useTag (pC (1 : Nat)).src).begin (wRcOn.dev.withTag (pC (1 : Nat)))
      false).rcRequest (nodeDie (pC (1 : Nat)).src) (wRcOn.dev.withTag (pC (1 : Nat))) (9 : Nat) ((pC (1 : Nat)).addr / (64 :
      Nat) * (64 : Nat))) = true)) ∧
    (((wV xP (pV (10 : Nat) (0 : Nat))).live = true) ∧ ((wV xP (pV (10 : Nat) (0 : Nat))).dev.noc.flights[(0 : Nat)]? = some
      at24) ∧ (at24.arrived = true) ∧ (at24.die ≤ (11 : Nat)) ∧ (∀ (y : Flight), y ∈ (wV xP (pV (10 : Nat) (0 :
      Nat))).dev.inFlight → y.before at24 = false) ∧ (at24.pkt.type = (10 : Nat)) ∧ ((wV xP (pV (10 : Nat) (0 :
      Nat))).dev.rc.waiting = []) ∧ ((wV xP (pV (10 : Nat) (0 : Nat))).dev.reqOf (nodeId at24.die at24.router (nodeEnd
      at24.pkt.dst)) at24.pkt.tag = some oC) ∧ ((wV xP (pV (10 : Nat) (0 : Nat))).dev.rcLine (nodeDie (nodeId at24.die
      at24.router (nodeEnd at24.pkt.dst))) oC.pkt.addr = some xP) ∧ (xP.valid = false) ∧ (xP.waiters = []) ∧ (at24.pkt.status =
      (0 : Nat)) ∧ ((dataCheck [(5 : Nat)]).snd = false)) ∧
    (((wV xP (pV (10 : Nat) (1 : Nat))).live = true) ∧ ((wV xP (pV (10 : Nat) (1 : Nat))).dev.noc.flights[(0 : Nat)]? = some
      at25) ∧ (at25.arrived = true) ∧ (at25.die ≤ (11 : Nat)) ∧ (∀ (y : Flight), y ∈ (wV xP (pV (10 : Nat) (1 :
      Nat))).dev.inFlight → y.before at25 = false) ∧ (at25.pkt.type = (10 : Nat)) ∧ ((wV xP (pV (10 : Nat) (1 :
      Nat))).dev.rc.waiting = []) ∧ ((wV xP (pV (10 : Nat) (1 : Nat))).dev.reqOf (nodeId at25.die at25.router (nodeEnd
      at25.pkt.dst)) at25.pkt.tag = some oC) ∧ ((wV xP (pV (10 : Nat) (1 : Nat))).dev.rcLine (nodeDie (nodeId at25.die
      at25.router (nodeEnd at25.pkt.dst))) oC.pkt.addr = some xP) ∧ (xP.valid = false) ∧ (xP.waiters = []) ∧ (at25.pkt.status ≠
      (0 : Nat) ∨ (dataCheck []).snd = true) ∧ (nodeDie oC.src = nodeDie (nodeId at25.die at25.router (nodeEnd at25.pkt.dst))))
      ∧
    ((at26.live = true) ∧ (at26.dev.noc.flights[(0 : Nat)]? = some at27) ∧ (at27.arrived = true) ∧ (at27.die ≤ (11 : Nat)) ∧
      (∀ (y : Flight), y ∈ at26.dev.inFlight → y.before at27 = false) ∧ (at27.pkt.type = (11 : Nat)) ∧ (at26.dev.heldDie
      (nodeDie (nodeId at27.die at27.router (nodeEnd at27.pkt.dst))) = false)) ∧
    (((wDir e30).live = true) ∧ ((wDir e30).dev.noc.flights[(0 : Nat)]? = some (flight0 (wDir e30))) ∧ ((flight0 (wDir
      e30)).arrived = true) ∧ ((11 : Nat) < (flight0 (wDir e30)).die) ∧ ((flight0 (wDir e30)).pkt.type = (12 : Nat)) ∧ (∀ (y :
      Flight), y ∈ (wDir e30).dev.inFlight → y.before (flight0 (wDir e30)) = false) ∧ ((wDir e30).dev.noc.waiting = []) ∧ ((wDir
      e30).dev.host.waits = []) ∧ ((wDir e30).dev.dirAt ((flight0 (wDir e30)).pkt.addr / (64 : Nat) * (64 : Nat)) = some e30)) ∧
    ((wGone.live = true) ∧ ((↑b0, ↑c4) ∈ wGone.dev.rc.gone) ∧ (wGone.dev.noc.waiting = []) ∧ (wGone.dev.host.waits = [])) ∧
    ((wGone.live = true) ∧ (¬(↑b3, ↑c4) ∈ wGone.dev.rc.gone)) ∧
    ((wGone.live = true) ∧ ((↑c4, ↑b0) ∈ wGone.dev.rc.homes) ∧ (wGone.dev.rc.waiting = [])) ∧
    ((wGone.live = true) ∧ (¬(↑c4, ↑b3) ∈ wGone.dev.rc.homes)) ∧
    ((wFlushWait.live = true) ∧ (wFlushWait.dev.flushWaits = true)) ∧
    ((wFlush.live = true) ∧ (wFlush.dev.flushWaits = false) ∧ (wFlush.dev.rc.flushAll = true ∨ wFlush.dev.rc.flushing ≠ []) ∧
      (wFlush.dev.noc.waiting = []) ∧ (wFlush.dev.host.waits = []) ∧ (wFlush.dev.rc.waiting = []) ∧ (wFlush.dev.rc.afterFlush =
      [])) := by
  and_intros <;> decide +kernel

theorem test_meets_LateralLinksAndNetworkRegisters :
    ((at31.live = true) ∧ (at31.dev.latState ↑b0 ↑j0 = (2 : Nat)) ∧ ((at31.dev.latSide ↑b0 ↑j0).wire =
      [flit (12 : Nat) (255 : Nat)]) ∧ (flitCrc (flipBits (flit (12 : Nat) (255 : Nat)).word []) = flipBits (flit (12 : Nat)
      (255 : Nat)).word [] / (65536 : Nat) % (65536 : Nat)) ∧ (flipBits (flit (12 : Nat) (255 : Nat)).word [] % (16 : Nat) =
      at31.dev.get (Reg.D2D_LAT_STATUS_width_code (baseSel ↑b0) ↑j0)) ∧ (flipBits (flit (12 : Nat) (255 : Nat)).word [] / (256 :
      Nat) % (256 : Nat) = (at31.dev.latSide ↑b0 ↑j0).expect)) ∧
    ((at32.live = true) ∧ (at32.dev.latState ↑b0 ↑j0 = (2 : Nat)) ∧ ((at32.dev.latSide ↑b0 ↑j0).wire =
      [flit (12 : Nat) (7 : Nat)]) ∧ (flitCrc (flipBits (flit (12 : Nat) (7 : Nat)).word []) = flipBits (flit (12 : Nat) (7 :
      Nat)).word [] / (65536 : Nat) % (65536 : Nat)) ∧ (flipBits (flit (12 : Nat) (7 : Nat)).word [] % (16 : Nat) = at32.dev.get
      (Reg.D2D_LAT_STATUS_width_code (baseSel ↑b0) ↑j0)) ∧ (flipBits (flit (12 : Nat) (7 : Nat)).word [] / (256 : Nat) % (256 :
      Nat) ≠ (at32.dev.latSide ↑b0 ↑j0).expect)) ∧
    ((at33.live = true) ∧ (at33.dev.latState ↑b0 ↑j0 = (2 : Nat)) ∧ ((at33.dev.latSide ↑b0 ↑j0).wire =
      [flit (12 : Nat) (255 : Nat)]) ∧ (flitCrc (flipBits (flit (12 : Nat) (255 : Nat)).word [(40 : Nat)]) ≠ flipBits (flit (12
      : Nat) (255 : Nat)).word [(40 : Nat)] / (65536 : Nat) % (65536 : Nat)) ∧ ((at33.dev.latSide ↑b0 ↑j0).crcFails < (3 :
      Nat))) ∧
    ((at34.live = true) ∧ (at34.dev.latState ↑b0 ↑j0 = (2 : Nat)) ∧ ((at34.dev.latSide ↑b0 ↑j0).wire =
      [flit (11 : Nat) (255 : Nat)]) ∧ (flitCrc (flipBits (flit (11 : Nat) (255 : Nat)).word []) = flipBits (flit (11 : Nat)
      (255 : Nat)).word [] / (65536 : Nat) % (65536 : Nat)) ∧ (flipBits (flit (11 : Nat) (255 : Nat)).word [] % (16 : Nat) ≠
      at34.dev.get (Reg.D2D_LAT_STATUS_width_code (baseSel ↑b0) ↑j0))) ∧
    ((at35.live = true) ∧ (at35.dev.latState ↑b0 ↑j0 = (2 : Nat)) ∧ ((at35.dev.latSide ↑b0 ↑j0).wire =
      [flit (12 : Nat) (255 : Nat)]) ∧ (flitCrc (flipBits (flit (12 : Nat) (255 : Nat)).word [(40 : Nat)]) ≠ flipBits (flit (12
      : Nat) (255 : Nat)).word [(40 : Nat)] / (65536 : Nat) % (65536 : Nat)) ∧ ((3 : Nat) ≤ (at35.dev.latSide ↑b0
      ↑j0).crcFails)) ∧
    (((wUp (1 : Nat) (0 : Nat) { : LatLink }).live = true) ∧ (∀ (e : Nat × Nat), e ∈ latEnds ↑b0 → ((wUp (1 : Nat) (0 : Nat)
      { : LatLink }).dev.latState e.fst e.snd = (1 : Nat) ∨ (wUp (1 : Nat) (0 : Nat) { : LatLink }).dev.latState e.fst e.snd =
      (3 : Nat)) ∧ (wUp (1 : Nat) (0 : Nat) { : LatLink }).dev.heldDie (baseSel e.fst) = false) ∧ ((fun e g => latProposal ((wUp
      (1 : Nat) (0 : Nat) { : LatLink }).dev.get (Reg.D2D_LAT_CTL_max_code (baseSel e.fst) e.snd)) g) ((latEnds ↑b0).headD ((0 :
      Nat), (0 : Nat))) (65535 : BitVec (16 : Nat)) ≠ (15 : Nat)) ∧ ((fun e g => latProposal ((wUp (1 : Nat) (0 : Nat)
      { : LatLink }).dev.get (Reg.D2D_LAT_CTL_max_code (baseSel e.fst) e.snd)) g) ((latEnds ↑b0).getLastD ((0 : Nat), (0 :
      Nat))) (255 : BitVec (16 : Nat)) ≠ (15 : Nat))) ∧
    (((wUp (1 : Nat) (0 : Nat) { : LatLink }).live = true) ∧ (∀ (e : Nat × Nat), e ∈ latEnds ↑b0 → ((wUp (1 : Nat) (0 : Nat)
      { : LatLink }).dev.latState e.fst e.snd = (1 : Nat) ∨ (wUp (1 : Nat) (0 : Nat) { : LatLink }).dev.latState e.fst e.snd =
      (3 : Nat)) ∧ (wUp (1 : Nat) (0 : Nat) { : LatLink }).dev.heldDie (baseSel e.fst) = false) ∧ ((fun e g => latProposal ((wUp
      (1 : Nat) (0 : Nat) { : LatLink }).dev.get (Reg.D2D_LAT_CTL_max_code (baseSel e.fst) e.snd)) g) ((latEnds ↑b0).headD ((0 :
      Nat), (0 : Nat))) (65535 : BitVec (16 : Nat)) = (15 : Nat) ∨ (fun e g => latProposal ((wUp (1 : Nat) (0 : Nat)
      { : LatLink }).dev.get (Reg.D2D_LAT_CTL_max_code (baseSel e.fst) e.snd)) g) ((latEnds ↑b0).getLastD ((0 : Nat), (0 :
      Nat))) (3 : BitVec (16 : Nat)) = (15 : Nat)) ∧ ((2 : Nat) ≤ (wUp (1 : Nat) (0 : Nat) { : LatLink }).dev.get
      (Reg.D2D_LAT_STATUS_attempts (baseSel ((latEnds ↑b0).headD ((0 : Nat), (0 : Nat))).fst) ((latEnds ↑b0).headD ((0 : Nat),
      (0 : Nat))).snd))) ∧
    (((wUp (2 : Nat) (12 : Nat) { : LatLink }).reaches core0 (Reg.D2D_LAT_CTL (baseSel ↑b0) ↑j0))) ∧
    (((wUp (2 : Nat) (12 : Nat) { : LatLink }).reaches core0 (Reg.D2D_LAT_ERRCLR (baseSel ↑b3) ↑j1))) ∧
    ((at36.reaches core0 (Reg.NOC_RT_DATA_HI (dieSel ↑i15)))) ∧
    ((wAll.reaches core0 (Reg.NOC_ERRCNT_CLR (dieSel ↑i15)))) ∧
    ((↑i15 ≤ (11 : Nat) ∨ ↑n20 ≤ (20 : Nat)) ∧ (wAll.reaches core0 (Reg.NOC_STAT_CTL (dieSel ↑i15) ↑n20))) ∧
    ((wAll.live = true) ∧ (wAll.dev.heldDie ↑c4 = false) ∧ (wAll.dev.heldDie (baseSel (baseOf ↑c4)) = false)) ∧
    ((w0.live = true) ∧ (w0.dev.heldDie ↑c4 = true ∨ w0.dev.heldDie (baseSel (baseOf ↑c4)) = true)) ∧
    (((wRc true).reaches core0 (Reg.RCACHE_CTL ↑c4)) ∧ ((wRc true).dev.on (Reg.RCACHE_CTL_enable ↑c4) = true)) := by
  and_intros <;> decide +kernel

theorem test_meets_HbmAddressMapping :
    (((0 : Nat) ≤ (2 : Nat)) ∧ ((206158430207 : Nat) < (206158430208 : Nat))) ∧
    (((2 : Nat) ≤ (2 : Nat)) ∧ ((7 : Nat) < (8 : Nat)) ∧ ((25769803775 : Nat) < (25769803776 : Nat))) ∧
    (((1 : Nat) ≤ (2 : Nat)) ∧ ((64 / 64 : Nat) = (127 / 64 : Nat))) ∧
    (((2 : Nat) ≤ (2 : Nat)) ∧ ((206158430207 : Nat) < (206158430208 : Nat))) := by
  and_intros <;> decide +kernel

theorem test_meets_HbmStacks :
    ((wAll.reaches core0 (Reg.HBM_INIT (baseSel ↑b0))) ∧ (wAll.dev.on (Reg.HBM_INIT_start (baseSel ↑b0)) = false) ∧
      (wAll.dev.get (Reg.HBM_TSET_LAT_rl (baseSel ↑b0) ↑(1 : Fin (2 : Nat)) (0 : Nat)) = (0 : Nat))) ∧
    ((at37.reaches core0 (Reg.HBM_INIT (baseSel ↑b0))) ∧ (at37.dev.on (Reg.HBM_INIT_start (baseSel ↑b0)) = false) ∧ (∀ (i :
      Fin (2 : Nat)), at37.dev.get (Reg.HBM_TSET_LAT_rl (baseSel ↑b0) ↑i (0 : Nat)) ≠ (0 : Nat)) ∧ ((at37.dev.stack
      ↑m7).starting = true)) ∧
    ((at38.reaches core0 (Reg.HBM_INIT (baseSel ↑b0))) ∧ (at38.dev.on (Reg.HBM_INIT_start (baseSel ↑b0)) = false) ∧ (∀ (i :
      Fin (2 : Nat)), at38.dev.get (Reg.HBM_TSET_LAT_rl (baseSel ↑b0) ↑i (0 : Nat)) ≠ (0 : Nat)) ∧ (∀ (n : Fin (8 : Nat)),
      (at38.dev.stack ↑n).starting = false) ∧ (∀ (c : Fin (4 : Nat)), at38.dev.on (Reg.HBM_INIT_start (baseSel ↑c)) = false) ∧
      (∃ c : Fin 4, (fun c => if at38.dev.get (Reg.HBM_MAP_CTL_order (baseSel c)) = (3 : Nat) then (1 : Nat) else at38.dev.get
      (Reg.HBM_MAP_CTL_order (baseSel c))) ↑c ≠ (fun c => if at38.dev.get (Reg.HBM_MAP_CTL_order (baseSel c)) = (3 : Nat) then
      (1 : Nat) else at38.dev.get (Reg.HBM_MAP_CTL_order (baseSel c))) (0 : Nat))) ∧
    (((wHbm (0 : Nat) (0 : Nat) { : Stack } []).reaches core0 (Reg.HBM_INIT (baseSel ↑b0))) ∧ ((wHbm (0 : Nat) (0 : Nat)
      { : Stack } []).dev.on (Reg.HBM_INIT_start (baseSel ↑b0)) = false) ∧ (∀ (i : Fin (2 : Nat)), (wHbm (0 : Nat) (0 : Nat)
      { : Stack } []).dev.get (Reg.HBM_TSET_LAT_rl (baseSel ↑b0) ↑i (0 : Nat)) ≠ (0 : Nat)) ∧ (∀ (n : Fin (8 : Nat)), ((wHbm (0
      : Nat) (0 : Nat) { : Stack } []).dev.stack ↑n).starting = false) ∧ (∀ (c : Fin (4 : Nat)), (wHbm (0 : Nat) (0 : Nat)
      { : Stack } []).dev.on (Reg.HBM_INIT_start (baseSel ↑c)) = false) ∧ (∀ (c : Fin (4 : Nat)), (fun c => if (wHbm (0 : Nat)
      (0 : Nat) { : Stack } []).dev.get (Reg.HBM_MAP_CTL_order (baseSel c)) = (3 : Nat) then (1 : Nat) else (wHbm (0 : Nat) (0 :
      Nat) { : Stack } []).dev.get (Reg.HBM_MAP_CTL_order (baseSel c))) ↑c = (fun c => if (wHbm (0 : Nat) (0 : Nat) { : Stack }
      []).dev.get (Reg.HBM_MAP_CTL_order (baseSel c)) = (3 : Nat) then (1 : Nat) else (wHbm (0 : Nat) (0 : Nat) { : Stack }
      []).dev.get (Reg.HBM_MAP_CTL_order (baseSel c))) (0 : Nat))) ∧
    (((wHbm (0 : Nat) (0 : Nat) { : Stack } []).live = true ∧ (wHbm (0 : Nat) (0 : Nat) { : Stack } []).dev.noc.waiting = [] ∧
      (wHbm (0 : Nat) (0 : Nat) { : Stack } []).dev.host.waits = []) ∧ ((wHbm (0 : Nat) (0 : Nat) { : Stack } []).dev.stackState
      ↑m0 ≠ (1 : Nat))) ∧
    (((wHbm (0 : Nat) (1 : Nat) { : Stack } []).live = true ∧ (wHbm (0 : Nat) (1 : Nat) { : Stack } []).dev.noc.waiting = [] ∧
      (wHbm (0 : Nat) (1 : Nat) { : Stack } []).dev.host.waits = []) ∧ ((wHbm (0 : Nat) (1 : Nat) { : Stack } []).dev.stackState
      ↑m0 = (1 : Nat))) ∧
    (((wHbm (7 : Nat) (2 : Nat) { : Stack } []).reaches core0 (Reg.HBM_STK_CMD (stackSel ↑m7) (↑m7 % (2 : Nat)))) ∧ ((wHbm (7
      : Nat) (2 : Nat) { : Stack } []).dev.stackState ↑m7 = (2 : Nat)) ∧ (((wHbm (7 : Nat) (2 : Nat) { : Stack } []).dev.stack
      ↑m7).retrain = none) ∧ (((wHbm (7 : Nat) (2 : Nat) { : Stack } []).dev.stack ↑m7).unlocked = false) ∧ ((wHbm (7 : Nat) (2
      : Nat) { : Stack } []).dev.nextPc ↑m7 (0 : Nat) = some (0 : Nat))) ∧
    (((wHbm (7 : Nat) (5 : Nat) { : Stack } []).reaches core0 (Reg.HBM_STK_CMD (stackSel ↑m7) (↑m7 % (2 : Nat)))) ∧ ((wHbm (7
      : Nat) (5 : Nat) { : Stack } []).dev.stackState ↑m7 = (0 : Nat) ∨ (wHbm (7 : Nat) (5 : Nat) { : Stack } []).dev.stackState
      ↑m7 = (1 : Nat) ∨ (wHbm (7 : Nat) (5 : Nat) { : Stack } []).dev.stackState ↑m7 = (5 : Nat))) ∧
    (((wHbm (7 : Nat) (2 : Nat) { : Stack } []).reaches core0 (Reg.HBM_STK_CMD (stackSel ↑m7) (↑m7 % (2 : Nat)))) ∧ ((wHbm (7
      : Nat) (2 : Nat) { : Stack } []).dev.stackState ↑m7 = (2 : Nat)) ∧ ((wHbm (7 : Nat) (2 : Nat) { : Stack } []).dev.on
      (Reg.HBM_STK_CMD_freq_change (stackSel ↑m7) (↑m7 % (2 : Nat))) = false) ∧ (((wHbm (7 : Nat) (2 : Nat) { : Stack }
      []).dev.stack ↑m7).retrain = none)) ∧
    ((at40.reaches core0 (Reg.HBM_STK_CMD (stackSel ↑m7) (↑m7 % (2 : Nat)))) ∧ (at40.dev.stackState ↑m7 = (2 : Nat)) ∧
      (at40.dev.on (Reg.HBM_STK_CMD_freq_change (stackSel ↑m7) (↑m7 % (2 : Nat))) = false) ∧ ((at40.dev.stack ↑m7).retrain =
      some (5 : Nat))) ∧
    (((wHbm (7 : Nat) (4 : Nat) { : Stack } []).reaches core0 (Reg.HBM_STK_CMD (stackSel ↑m7) (↑m7 % (2 : Nat)))) ∧ ((wHbm (7
      : Nat) (4 : Nat) { : Stack } []).dev.stackState ↑m7 ≠ (2 : Nat) ∨ (wHbm (7 : Nat) (4 : Nat) { : Stack } []).dev.on
      (Reg.HBM_STK_CMD_freq_change (stackSel ↑m7) (↑m7 % (2 : Nat))) = true)) ∧
    (((wHbm (7 : Nat) (2 : Nat) { : Stack } []).live = true ∧ (wHbm (7 : Nat) (2 : Nat) { : Stack } []).dev.noc.waiting = [] ∧
      (wHbm (7 : Nat) (2 : Nat) { : Stack } []).dev.host.waits = []) ∧ (((wHbm (7 : Nat) (2 : Nat) { : Stack } []).dev.stack
      ↑m7).retrain = none ∨ (wHbm (7 : Nat) (2 : Nat) { : Stack } []).dev.stackState ↑m7 ≠ (2 : Nat))) ∧
    ((at42.live = true ∧ at42.dev.noc.waiting = [] ∧ at42.dev.host.waits = []) ∧ ((at42.dev.stack ↑m7).retrain = some ↑p31) ∧
      (at42.dev.stackState ↑m7 = (2 : Nat))) ∧
    (((wHbm (7 : Nat) (2 : Nat) { : Stack } []).live = true ∧ (wHbm (7 : Nat) (2 : Nat) { : Stack } []).dev.noc.waiting = [] ∧
      (wHbm (7 : Nat) (2 : Nat) { : Stack } []).dev.host.waits = []) ∧ ((wHbm (7 : Nat) (2 : Nat) { : Stack } []).dev.stackState
      ↑m7 ≠ (3 : Nat))) ∧
    ((at45.live = true ∧ at45.dev.noc.waiting = [] ∧ at45.dev.host.waits = []) ∧ (at45.dev.stackState ↑m7 = (3 : Nat))) ∧
    (((wHbm (7 : Nat) (2 : Nat) { : Stack } []).live = true ∧ (wHbm (7 : Nat) (2 : Nat) { : Stack } []).dev.noc.waiting = [] ∧
      (wHbm (7 : Nat) (2 : Nat) { : Stack } []).dev.host.waits = []) ∧ ((-128 : Int) ≤ (127 : Int)) ∧ ((127 : Int) ≤ (127 :
      Int))) ∧
    (((wHold (2 : Nat)).live = true) ∧ ((wHold (2 : Nat)).dev.noc.waiting[(0 : Nat)]? = some pHold) ∧ ((wHold (2 :
      Nat)).dev.stackState ↑m0 ≠ (3 : Nat)) ∧ ((wHold (2 : Nat)).dev.stackState ↑m0 ≠ (4 : Nat)) ∧ (((wHold (2 : Nat)).dev.stack
      ↑m0).unlocked = false)) ∧
    (((wHold (4 : Nat)).live = true) ∧ ((wHold (4 : Nat)).dev.noc.waiting[(0 : Nat)]? = some pHold) ∧ ((wHold (4 :
      Nat)).dev.stackState ↑m0 = (3 : Nat) ∨ (wHold (4 : Nat)).dev.stackState ↑m0 = (4 : Nat) ∨ ((wHold (4 : Nat)).dev.stack
      ↑m0).unlocked = true) ∧ ((hbmSplit (wHold (4 : Nat)).dev.hbmOrder pHold.addr).fst = ↑m0) ∧ (pHold.type ≤ (1 : Nat)) ∧
      (entryOk ((wHold (4 : Nat)).dev.routeUse (nodeDie pHold.dst) (nodeNi pHold.dst) pHold.respRoute).snd = true)) ∧
    ((wAll.reaches core0 (Reg.HBM_STK_ERRCLR (stackSel ↑m7) (↑m7 % (2 : Nat))))) ∧
    (((hbmSplit wAll.dev.hbmOrder (206158430144 : Nat)).fst = ↑m7) ∧ (wAll.dev.stackState ↑m7 = (0 : Nat) ∨
      wAll.dev.stackState ↑m7 = (1 : Nat) ∨ wAll.dev.stackState ↑m7 = (5 : Nat))) := by
  and_intros <;> first | decide +kernel | exact ⟨1, by decide +kernel⟩

theorem test_meets_ProtectedRegions :
    ((wAll.reaches core0 (Reg.MEMSEC_STK_CTL (stackSel ↑m7) (↑m7 % (2 : Nat)))) ∧ (∀ (q : Fin (4 : Nat)), wAll.dev.rgnState
      ↑m7 ↑q = (0 : Nat))) ∧
    ((at57.reaches core0 (Reg.MEMSEC_STK_CTL (stackSel ↑m7) (↑m7 % (2 : Nat)))) ∧ (at57.dev.rgnState ↑m7 ↑r3 ≠ (0 : Nat))) ∧
    (((wRgn []).reaches core0 (Reg.MEMSEC_RGN_CTL (stackSel ↑m7) (↑m7 % (2 : Nat)) ↑r3)) ∧ ((wRgn []).dev.rgnState ↑m7 ↑r3 =
      (0 : Nat)) ∧ ((wRgn []).dev.on (Reg.MEMSEC_STK_CTL_enable (stackSel ↑m7) (↑m7 % (2 : Nat))) = false ∨ (wRgn []).dev.get
      (Reg.MEMSEC_RGN_RANGE_base (stackSel ↑m7) (↑m7 % (2 : Nat)) ↑r3) * (268435456 : Nat) = (wRgn []).dev.get
      (Reg.MEMSEC_RGN_RANGE_base (stackSel ↑m7) (↑m7 % (2 : Nat)) ↑r3) * (268435456 : Nat) + (wRgn []).dev.get
      (Reg.MEMSEC_RGN_RANGE_size (stackSel ↑m7) (↑m7 % (2 : Nat)) ↑r3) * (268435456 : Nat) ∨ (17179869184 : Nat) < (wRgn
      []).dev.get (Reg.MEMSEC_RGN_RANGE_base (stackSel ↑m7) (↑m7 % (2 : Nat)) ↑r3) * (268435456 : Nat) + (wRgn []).dev.get
      (Reg.MEMSEC_RGN_RANGE_size (stackSel ↑m7) (↑m7 % (2 : Nat)) ↑r3) * (268435456 : Nat) ∨ ∃ q, q ≠ r3 ∧ (wRgn
      []).dev.rgnState ↑m7 ↑q ≠ (0 : Nat) ∧ (wRgn []).dev.get (Reg.MEMSEC_RGN_RANGE_base (stackSel ↑m7) (↑m7 % (2 : Nat)) ↑r3) *
      (268435456 : Nat) < ((wRgn []).dev.rgnRange ↑m7 ↑q).snd ∧ ((wRgn []).dev.rgnRange ↑m7 ↑q).fst < (wRgn []).dev.get
      (Reg.MEMSEC_RGN_RANGE_base (stackSel ↑m7) (↑m7 % (2 : Nat)) ↑r3) * (268435456 : Nat) + (wRgn []).dev.get
      (Reg.MEMSEC_RGN_RANGE_size (stackSel ↑m7) (↑m7 % (2 : Nat)) ↑r3) * (268435456 : Nat))) ∧
    ((at59.reaches core0 (Reg.MEMSEC_RGN_CTL (stackSel ↑m7) (↑m7 % (2 : Nat)) ↑r3)) ∧ (at59.dev.rgnState ↑m7 ↑r3 = (0 : Nat))
      ∧ (at59.dev.on (Reg.MEMSEC_STK_CTL_enable (stackSel ↑m7) (↑m7 % (2 : Nat))) = true) ∧ (at59.dev.get
      (Reg.MEMSEC_RGN_RANGE_base (stackSel ↑m7) (↑m7 % (2 : Nat)) ↑r3) * (268435456 : Nat) ≠ at59.dev.get
      (Reg.MEMSEC_RGN_RANGE_base (stackSel ↑m7) (↑m7 % (2 : Nat)) ↑r3) * (268435456 : Nat) + at59.dev.get
      (Reg.MEMSEC_RGN_RANGE_size (stackSel ↑m7) (↑m7 % (2 : Nat)) ↑r3) * (268435456 : Nat)) ∧ (at59.dev.get
      (Reg.MEMSEC_RGN_RANGE_base (stackSel ↑m7) (↑m7 % (2 : Nat)) ↑r3) * (268435456 : Nat) + at59.dev.get
      (Reg.MEMSEC_RGN_RANGE_size (stackSel ↑m7) (↑m7 % (2 : Nat)) ↑r3) * (268435456 : Nat) ≤ (17179869184 : Nat)) ∧ (∀ (q : Fin
      (4 : Nat)), q ≠ r3 → at59.dev.rgnState ↑m7 ↑q ≠ (0 : Nat) → (at59.dev.rgnRange ↑m7 ↑q).snd ≤ at59.dev.get
      (Reg.MEMSEC_RGN_RANGE_base (stackSel ↑m7) (↑m7 % (2 : Nat)) ↑r3) * (268435456 : Nat) ∨ at59.dev.get
      (Reg.MEMSEC_RGN_RANGE_base (stackSel ↑m7) (↑m7 % (2 : Nat)) ↑r3) * (268435456 : Nat) + at59.dev.get
      (Reg.MEMSEC_RGN_RANGE_size (stackSel ↑m7) (↑m7 % (2 : Nat)) ↑r3) * (268435456 : Nat) ≤ (at59.dev.rgnRange ↑m7 ↑q).fst)) ∧
    ((at57.reaches core0 (Reg.MEMSEC_RGN_CTL (stackSel ↑m7) (↑m7 % (2 : Nat)) ↑r3)) ∧ (at57.dev.rgnState ↑m7 ↑r3 ≠ (0 : Nat))
      ∧ (BitVec.getLsbD (5 : Word) (5 : Nat) = false)) ∧
    ((at57.reaches core0 (Reg.MEMSEC_RGN_CTL (stackSel ↑m7) (↑m7 % (2 : Nat)) ↑r3)) ∧ (at57.dev.rgnState ↑m7 ↑r3 = (2 : Nat))) ∧
    ((at60.reaches core0 (Reg.MEMSEC_RGN_CTL (stackSel ↑m7) (↑m7 % (2 : Nat)) ↑r3)) ∧ (at60.dev.rgnState ↑m7 ↑r3 = (1 : Nat) ∨
      at60.dev.rgnState ↑m7 ↑r3 = (3 : Nat))) ∧
    (((wRgn []).live = true ∧ (wRgn []).dev.noc.waiting = [] ∧ (wRgn []).dev.host.waits = []) ∧ ((wRgn []).dev.rgnState ↑m7
      ↑r3 ≠ (1 : Nat))) ∧
    ((at61.live = true ∧ at61.dev.noc.waiting = [] ∧ at61.dev.host.waits = []) ∧ (at61.dev.rgnState ↑m7 ↑r3 = (1 : Nat)) ∧ (∀
      (e : Nat × DirEntry), e ∈ at61.dev.rc.dir → inStackRange at61.dev.hbmOrder (↑m7) (at61.dev.get (Reg.MEMSEC_RGN_RANGE_base
      (stackSel ↑m7) (↑m7 % (2 : Nat)) ↑r3) * (268435456 : Nat)) (at61.dev.get (Reg.MEMSEC_RGN_RANGE_base (stackSel ↑m7) (↑m7 %
      (2 : Nat)) ↑r3) * (268435456 : Nat) + at61.dev.get (Reg.MEMSEC_RGN_RANGE_size (stackSel ↑m7) (↑m7 % (2 : Nat)) ↑r3) *
      (268435456 : Nat)) e.fst = false)) ∧
    (((wRgn []).live = true ∧ (wRgn []).dev.noc.waiting = [] ∧ (wRgn []).dev.host.waits = []) ∧ ((wRgn []).dev.rgnState ↑m7
      ↑r3 ≠ (3 : Nat))) ∧
    ((wShut.live = true ∧ wShut.dev.noc.waiting = [] ∧ wShut.dev.host.waits = []) ∧ (wShut.dev.rgnState ↑m7 ↑r3 = (3 : Nat))) := by
  and_intros <;> decide +kernel

theorem test_meets_LaneWrites :
    ((wAll.reaches core0 (Reg.LANE_BANK_CTL (bankSel ↑b11) (↑b11 % (3 : Nat)))) ∧ (BitVec.getLsbD (1 : Word) (0 : Nat) = true)
      ∧ (wAll.dev.on (Reg.LANE_BANK_CTL_enable (bankSel ↑b11) (↑b11 % (3 : Nat))) = false)) ∧
    (((wLane (0 : Nat) { : Lane } lbank).reaches core0 (Reg.LANE_BANK_CTL (bankSel ↑b11) (↑b11 % (3 : Nat)))) ∧
      (BitVec.getLsbD (1 : Word) (0 : Nat) = true) ∧ ((wLane (0 : Nat) { : Lane } lbank).dev.on (Reg.LANE_BANK_CTL_enable
      (bankSel ↑b11) (↑b11 % (3 : Nat))) = true)) ∧
    (((wLane (4 : Nat) { : Lane } lbank).reaches core0 (Reg.LANE_BANK_CTL (bankSel ↑b11) (↑b11 % (3 : Nat)))) ∧
      (BitVec.getLsbD (0 : Word) (0 : Nat) = false)) ∧
    (((wLane (0 : Nat) { : Lane } []).reaches core0 (Reg.LANE_CTL (laneSel ↑l191) (laneJ ↑l191))) ∧ ((wLane (0 : Nat)
      { : Lane } []).dev.on (Reg.LANE_CTL_enable (laneSel ↑l191) (laneJ ↑l191)) = false) ∧ (bits (196591 : Word) (1 : Nat) (4 :
      Nat) < (8 : Nat)) ∧ (bits (196591 : Word) (14 : Nat) (3 : Nat) < (4 : Nat))) ∧
    (((wLane (0 : Nat) { : Lane } []).reaches core0 (Reg.LANE_CTL (laneSel ↑l191) (laneJ ↑l191))) ∧ ((wLane (0 : Nat)
      { : Lane } []).dev.on (Reg.LANE_CTL_enable (laneSel ↑l191) (laneJ ↑l191)) = false) ∧ ((8 : Nat) ≤ bits (16 : Word) (1 :
      Nat) (4 : Nat) ∨ (4 : Nat) ≤ bits (16 : Word) (14 : Nat) (3 : Nat))) ∧
    (((wLane (0 : Nat) { : Lane } []).reaches core0 (Reg.LANE_CTL (laneSel ↑l191) (laneJ ↑l191))) ∧ ((wLane (0 : Nat)
      { : Lane } []).dev.on (Reg.LANE_CTL_enable (laneSel ↑l191) (laneJ ↑l191)) = false) ∧ (BitVec.getLsbD (262142 : Word) (0 :
      Nat) = false)) ∧
    (((wLane (4 : Nat) { : Lane } [len]).reaches core0 (Reg.LANE_CTL (laneSel ↑l191) (laneJ ↑l191))) ∧ ((wLane (4 : Nat)
      { : Lane } [len]).dev.on (Reg.LANE_CTL_enable (laneSel ↑l191) (laneJ ↑l191)) = true) ∧ (BitVec.getLsbD (131103 : Word) (0
      : Nat) = true) ∧ (bits (131103 : Word) (1 : Nat) (16 : Nat) ≠ bits ((wLane (4 : Nat) { : Lane } [len]).dev.rdWord
      (Reg.LANE_CTL (laneSel ↑l191) (laneJ ↑l191))) (1 : Nat) (16 : Nat))) ∧
    ((at62.reaches core0 (Reg.LANE_CTL (laneSel ↑l191) (laneJ ↑l191))) ∧ (at62.dev.on (Reg.LANE_CTL_enable (laneSel ↑l191)
      (laneJ ↑l191)) = true) ∧ (at62.dev.laneState ↑l191 ≠ (6 : Nat))) ∧
    (((wLane (6 : Nat) { : Lane } [len]).reaches core0 (Reg.LANE_CTL (laneSel ↑l191) (laneJ ↑l191))) ∧ ((wLane (6 : Nat)
      { : Lane } [len]).dev.on (Reg.LANE_CTL_enable (laneSel ↑l191) (laneJ ↑l191)) = true) ∧ ((wLane (6 : Nat) { : Lane }
      [len]).dev.laneState ↑l191 = (6 : Nat))) ∧
    (((wLane (0 : Nat) { : Lane } []).reaches core0 (Reg.LANE_PRBS_CTL (laneSel ↑l191) (laneJ ↑l191))) ∧ ((wLane (0 : Nat)
      { : Lane } []).dev.on (Reg.LANE_CTL_enable (laneSel ↑l191) (laneJ ↑l191)) = false)) ∧
    (((wLane (5 : Nat) { : Lane } [len]).reaches core0 (Reg.LANE_PRBS_CTL (laneSel ↑l191) (laneJ ↑l191))) ∧ ((wLane (5 : Nat)
      { : Lane } [len]).dev.on (Reg.LANE_CTL_enable (laneSel ↑l191) (laneJ ↑l191)) = true) ∧ (bits (255 : Word) (0 : Nat) (3 :
      Nat) ≠ bits ((wLane (5 : Nat) { : Lane } [len]).dev.rdWord (Reg.LANE_PRBS_CTL (laneSel ↑l191) (laneJ ↑l191))) (0 : Nat) (3
      : Nat))) ∧
    ((at64.reaches core0 (Reg.LANE_PRBS_CTL (laneSel ↑l191) (laneJ ↑l191)))) ∧
    (((wLane (5 : Nat) { : Lane } [len]).reaches core0 (Reg.LANE_TX_FIR (laneSel ↑l191) (laneJ ↑l191)))) ∧
    ((at65.reaches core0 (Reg.LANE_EYE_CTL (laneSel ↑l191) (laneJ ↑l191)))) ∧
    ((at66.reaches core0 (Reg.LANE_CNT_CLR (laneSel ↑l191) (laneJ ↑l191)))) := by
  and_intros <;> decide +kernel

theorem test_meets_LaneReceiver :
    (({ sym := (2 : Nat), count := (11 : Nat) : Run }.count < runLimit true)) ∧
    ((wAll.live = true) ∧ (wAll.dev.boot.mode ≠ (2 : Nat) ∨ wAll.dev.boot.started = true)) ∧
    ((at67.live = true) ∧ (at67.dev.on (Reg.LANE_BANK_CTL_enable (bankSel ↑b11) (↑b11 % (3 : Nat))) = true) ∧ (at67.dev.on
      (Reg.LANE_BANK_CTL_pending (bankSel ↑b11) (↑b11 % (3 : Nat))) = false) ∧ ((156094 : Nat) ≤ (156094 : Nat)) ∧ ((156094 :
      Nat) ≤ (156406 : Nat))) ∧
    (((wLane (4 : Nat) { : Lane } lbank).live = true) ∧ ((wLane (4 : Nat) { : Lane } lbank).dev.on (Reg.LANE_BANK_CTL_enable
      (bankSel ↑b11) (↑b11 % (3 : Nat))) = true) ∧ ((wLane (4 : Nat) { : Lane } lbank).dev.on (Reg.LANE_BANK_CTL_pending
      (bankSel ↑b11) (↑b11 % (3 : Nat))) = false) ∧ ((156093 : Nat) < (156094 : Nat) ∨ (156406 : Nat) < (156093 : Nat)) ∧
      ((wLane (4 : Nat) { : Lane } lbank).dev.on (Reg.LANE_BANK_STATUS_ref_ok (bankSel ↑b11) (↑b11 % (3 : Nat))) = true)) ∧
    ((at68.live = true) ∧ (at68.dev.laneState ↑l191 = (1 : Nat)) ∧ (at68.dev.on (Reg.LANE_BANK_STATUS_ref_ok (bankSel (↑l191 /
      (16 : Nat))) (↑l191 / (16 : Nat) % (3 : Nat))) = true)) ∧
    ((at70.live = true) ∧ (at70.dev.laneState ↑l191 ≠ (0 : Nat)) ∧ (at70.dev.laneState ↑l191 ≠ (6 : Nat))) ∧
    (((wLane (6 : Nat) { : Lane } [len]).live = true) ∧ ((2 : Nat) ≤ (wLane (6 : Nat) { : Lane } [len]).dev.laneState ↑l191)) ∧
    ((at73.live = true) ∧ ((2 : Nat) ≤ at73.dev.laneState ↑l191) ∧ (at73.dev.on (Reg.LANE_STATUS_cdr_lock (laneSel ↑l191)
      (laneJ ↑l191)) = true) ∧ (at73.dev.on (Reg.LANE_CTL_adapt_pause (laneSel ↑l191) (laneJ ↑l191)) = false) ∧ ((3 : Nat) < (32
      : Nat)) ∧ ((4 : Nat) < (256 : Nat))) ∧
    ((at75.live = true) ∧ (at75.dev.on (Reg.LANE_STATUS_cdr_lock (laneSel ↑l191) (laneJ ↑l191)) = true) ∧ (at75.dev.fecOn
      ↑l191 = false) ∧ (at75.dev.laneState ↑l191 = (3 : Nat)) ∧ (at75.dev.on (Reg.LANE_STATUS_marker_lock (laneSel ↑l191) (laneJ
      ↑l191)) = false) ∧ ((at75.dev.lane ↑l191).good = (0 : Nat)) ∧ (findWord markerBits ((fun line => List.map (fun b => b.fst)
      (at75.dev.lane ↑l191).rxBits ++ ofSyms (at75.dev.pamOn ↑l191) ((fun line => unstuff (at75.dev.pamOn ↑l191) (at75.dev.lane
      ↑l191).rxRun ((fun line => if at75.dev.loopOf ↑l191 = (1 : Nat) then (fun l => onPair (at75.dev.pamOn ↑l191) (at75.dev.on
      (Reg.LANE_CTL_rx_pol (laneSel ↑l191) (laneJ ↑l191))) l) (at75.dev.lane ↑l191).loopQ else if at75.dev.loopOf ↑l191 = (2 :
      Nat) then (at75.dev.lane ↑l191).loopQ else (fun l => onPair (at75.dev.pamOn ↑l191) (at75.dev.on (Reg.LANE_CTL_rx_pol
      (laneSel ↑l191) (laneJ ↑l191))) l) line) line)) line).fst) [(1 : Nat)]) = some (5 : Nat))) ∧
    ((at76.live = true) ∧ (at76.dev.on (Reg.LANE_STATUS_cdr_lock (laneSel ↑l191) (laneJ ↑l191)) = true) ∧ (at76.dev.fecOn
      ↑l191 = false) ∧ (at76.dev.laneState ↑l191 = (3 : Nat)) ∧ (at76.dev.on (Reg.LANE_STATUS_marker_lock (laneSel ↑l191) (laneJ
      ↑l191)) = false) ∧ ((1 : Nat) ≤ (at76.dev.lane ↑l191).good) ∧ ((at76.dev.lane ↑l191).good < (3 : Nat)) ∧ (wordAt
      markerBits ((fun line => List.map (fun b => b.fst) (at76.dev.lane ↑l191).rxBits ++ ofSyms (at76.dev.pamOn ↑l191) ((fun
      line => unstuff (at76.dev.pamOn ↑l191) (at76.dev.lane ↑l191).rxRun ((fun line => if at76.dev.loopOf ↑l191 = (1 : Nat) then
      (fun l => onPair (at76.dev.pamOn ↑l191) (at76.dev.on (Reg.LANE_CTL_rx_pol (laneSel ↑l191) (laneJ ↑l191))) l)
      (at76.dev.lane ↑l191).loopQ else if at76.dev.loopOf ↑l191 = (2 : Nat) then (at76.dev.lane ↑l191).loopQ else (fun l =>
      onPair (at76.dev.pamOn ↑l191) (at76.dev.on (Reg.LANE_CTL_rx_pol (laneSel ↑l191) (laneJ ↑l191))) l) line) line)) line).fst)
      [(1 : Nat)]) (4096 : Nat) = true)) ∧
    ((at77.live = true) ∧ (at77.dev.on (Reg.LANE_STATUS_cdr_lock (laneSel ↑l191) (laneJ ↑l191)) = true) ∧ (at77.dev.fecOn
      ↑l191 = false) ∧ (at77.dev.laneState ↑l191 = (3 : Nat)) ∧ (at77.dev.on (Reg.LANE_STATUS_marker_lock (laneSel ↑l191) (laneJ
      ↑l191)) = false) ∧ ((3 : Nat) ≤ (at77.dev.lane ↑l191).good) ∧ (wordAt markerBits ((fun line => List.map (fun b => b.fst)
      (at77.dev.lane ↑l191).rxBits ++ ofSyms (at77.dev.pamOn ↑l191) ((fun line => unstuff (at77.dev.pamOn ↑l191) (at77.dev.lane
      ↑l191).rxRun ((fun line => if at77.dev.loopOf ↑l191 = (1 : Nat) then (fun l => onPair (at77.dev.pamOn ↑l191) (at77.dev.on
      (Reg.LANE_CTL_rx_pol (laneSel ↑l191) (laneJ ↑l191))) l) (at77.dev.lane ↑l191).loopQ else if at77.dev.loopOf ↑l191 = (2 :
      Nat) then (at77.dev.lane ↑l191).loopQ else (fun l => onPair (at77.dev.pamOn ↑l191) (at77.dev.on (Reg.LANE_CTL_rx_pol
      (laneSel ↑l191) (laneJ ↑l191))) l) line) line)) line).fst) [(1 : Nat)]) (4096 : Nat) = true)) ∧
    ((at79.live = true) ∧ (at79.dev.on (Reg.LANE_STATUS_cdr_lock (laneSel ↑l191) (laneJ ↑l191)) = true) ∧ (at79.dev.fecOn
      ↑l191 = false) ∧ (at79.dev.laneState ↑l191 = (3 : Nat)) ∧ (at79.dev.on (Reg.LANE_STATUS_marker_lock (laneSel ↑l191) (laneJ
      ↑l191)) = false) ∧ ((1 : Nat) ≤ (at79.dev.lane ↑l191).good) ∧ (nextMarker (at79.dev.pamOn ↑l191) false ((fun line =>
      List.map (fun b => b.fst) (at79.dev.lane ↑l191).rxBits ++ ofSyms (at79.dev.pamOn ↑l191) ((fun line => unstuff
      (at79.dev.pamOn ↑l191) (at79.dev.lane ↑l191).rxRun ((fun line => if at79.dev.loopOf ↑l191 = (1 : Nat) then (fun l =>
      onPair (at79.dev.pamOn ↑l191) (at79.dev.on (Reg.LANE_CTL_rx_pol (laneSel ↑l191) (laneJ ↑l191))) l) (at79.dev.lane
      ↑l191).loopQ else if at79.dev.loopOf ↑l191 = (2 : Nat) then (at79.dev.lane ↑l191).loopQ else (fun l => onPair
      (at79.dev.pamOn ↑l191) (at79.dev.on (Reg.LANE_CTL_rx_pol (laneSel ↑l191) (laneJ ↑l191))) l) line) line)) line).fst) []) =
      none) ∧ ((4194 : Nat) ≤ ((fun line => List.map (fun b => b.fst) (at79.dev.lane ↑l191).rxBits ++ ofSyms (at79.dev.pamOn
      ↑l191) ((fun line => unstuff (at79.dev.pamOn ↑l191) (at79.dev.lane ↑l191).rxRun ((fun line => if at79.dev.loopOf ↑l191 =
      (1 : Nat) then (fun l => onPair (at79.dev.pamOn ↑l191) (at79.dev.on (Reg.LANE_CTL_rx_pol (laneSel ↑l191) (laneJ ↑l191)))
      l) (at79.dev.lane ↑l191).loopQ else if at79.dev.loopOf ↑l191 = (2 : Nat) then (at79.dev.lane ↑l191).loopQ else (fun l =>
      onPair (at79.dev.pamOn ↑l191) (at79.dev.on (Reg.LANE_CTL_rx_pol (laneSel ↑l191) (laneJ ↑l191))) l) line) line)) line).fst)
      []).length)) ∧
    ((at80.live = true) ∧ (at80.dev.on (Reg.LANE_STATUS_cdr_lock (laneSel ↑l191) (laneJ ↑l191)) = true) ∧ (at80.dev.fecOn
      ↑l191 = false) ∧ (at80.dev.laneState ↑l191 = (4 : Nat)) ∧ (at80.dev.on (Reg.LANE_STATUS_marker_lock (laneSel ↑l191) (laneJ
      ↑l191)) = true) ∧ (nextMarker (at80.dev.pamOn ↑l191) true ((fun line => List.map (fun b => b.fst) (at80.dev.lane
      ↑l191).rxBits ++ ofSyms (at80.dev.pamOn ↑l191) ((fun line => unstuff (at80.dev.pamOn ↑l191) (at80.dev.lane ↑l191).rxRun
      ((fun line => if at80.dev.loopOf ↑l191 = (1 : Nat) then (fun l => onPair (at80.dev.pamOn ↑l191) (at80.dev.on
      (Reg.LANE_CTL_rx_pol (laneSel ↑l191) (laneJ ↑l191))) l) (at80.dev.lane ↑l191).loopQ else if at80.dev.loopOf ↑l191 = (2 :
      Nat) then (at80.dev.lane ↑l191).loopQ else (fun l => onPair (at80.dev.pamOn ↑l191) (at80.dev.on (Reg.LANE_CTL_rx_pol
      (laneSel ↑l191) (laneJ ↑l191))) l) line) line)) line).fst) []) = some ((4094 : Nat), false))) ∧
    ((at82.live = true) ∧ (at82.dev.on (Reg.LANE_STATUS_cdr_lock (laneSel ↑l191) (laneJ ↑l191)) = true) ∧ (at82.dev.fecOn
      ↑l191 = false) ∧ (at82.dev.laneState ↑l191 = (4 : Nat)) ∧ (at82.dev.on (Reg.LANE_STATUS_marker_lock (laneSel ↑l191) (laneJ
      ↑l191)) = true) ∧ (nextMarker (at82.dev.pamOn ↑l191) true ((fun line => List.map (fun b => b.fst) (at82.dev.lane
      ↑l191).rxBits ++ ofSyms (at82.dev.pamOn ↑l191) ((fun line => unstuff (at82.dev.pamOn ↑l191) (at82.dev.lane ↑l191).rxRun
      ((fun line => if at82.dev.loopOf ↑l191 = (1 : Nat) then (fun l => onPair (at82.dev.pamOn ↑l191) (at82.dev.on
      (Reg.LANE_CTL_rx_pol (laneSel ↑l191) (laneJ ↑l191))) l) (at82.dev.lane ↑l191).loopQ else if at82.dev.loopOf ↑l191 = (2 :
      Nat) then (at82.dev.lane ↑l191).loopQ else (fun l => onPair (at82.dev.pamOn ↑l191) (at82.dev.on (Reg.LANE_CTL_rx_pol
      (laneSel ↑l191) (laneJ ↑l191))) l) line) line)) line).fst) []) = none) ∧ ((4194 : Nat) ≤ ((fun line => List.map (fun b =>
      b.fst) (at82.dev.lane ↑l191).rxBits ++ ofSyms (at82.dev.pamOn ↑l191) ((fun line => unstuff (at82.dev.pamOn ↑l191)
      (at82.dev.lane ↑l191).rxRun ((fun line => if at82.dev.loopOf ↑l191 = (1 : Nat) then (fun l => onPair (at82.dev.pamOn
      ↑l191) (at82.dev.on (Reg.LANE_CTL_rx_pol (laneSel ↑l191) (laneJ ↑l191))) l) (at82.dev.lane ↑l191).loopQ else if
      at82.dev.loopOf ↑l191 = (2 : Nat) then (at82.dev.lane ↑l191).loopQ else (fun l => onPair (at82.dev.pamOn ↑l191)
      (at82.dev.on (Reg.LANE_CTL_rx_pol (laneSel ↑l191) (laneJ ↑l191))) l) line) line)) line).fst) []).length) ∧ ((at82.dev.lane
      ↑l191).missed < (3 : Nat))) ∧
    ((at83.live = true) ∧ (at83.dev.on (Reg.LANE_STATUS_cdr_lock (laneSel ↑l191) (laneJ ↑l191)) = true) ∧ (at83.dev.fecOn
      ↑l191 = false) ∧ (at83.dev.laneState ↑l191 = (4 : Nat)) ∧ (at83.dev.on (Reg.LANE_STATUS_marker_lock (laneSel ↑l191) (laneJ
      ↑l191)) = true) ∧ (nextMarker (at83.dev.pamOn ↑l191) true ((fun line => List.map (fun b => b.fst) (at83.dev.lane
      ↑l191).rxBits ++ ofSyms (at83.dev.pamOn ↑l191) ((fun line => unstuff (at83.dev.pamOn ↑l191) (at83.dev.lane ↑l191).rxRun
      ((fun line => if at83.dev.loopOf ↑l191 = (1 : Nat) then (fun l => onPair (at83.dev.pamOn ↑l191) (at83.dev.on
      (Reg.LANE_CTL_rx_pol (laneSel ↑l191) (laneJ ↑l191))) l) (at83.dev.lane ↑l191).loopQ else if at83.dev.loopOf ↑l191 = (2 :
      Nat) then (at83.dev.lane ↑l191).loopQ else (fun l => onPair (at83.dev.pamOn ↑l191) (at83.dev.on (Reg.LANE_CTL_rx_pol
      (laneSel ↑l191) (laneJ ↑l191))) l) line) line)) line).fst) []) = none) ∧ ((4194 : Nat) ≤ ((fun line => List.map (fun b =>
      b.fst) (at83.dev.lane ↑l191).rxBits ++ ofSyms (at83.dev.pamOn ↑l191) ((fun line => unstuff (at83.dev.pamOn ↑l191)
      (at83.dev.lane ↑l191).rxRun ((fun line => if at83.dev.loopOf ↑l191 = (1 : Nat) then (fun l => onPair (at83.dev.pamOn
      ↑l191) (at83.dev.on (Reg.LANE_CTL_rx_pol (laneSel ↑l191) (laneJ ↑l191))) l) (at83.dev.lane ↑l191).loopQ else if
      at83.dev.loopOf ↑l191 = (2 : Nat) then (at83.dev.lane ↑l191).loopQ else (fun l => onPair (at83.dev.pamOn ↑l191)
      (at83.dev.on (Reg.LANE_CTL_rx_pol (laneSel ↑l191) (laneJ ↑l191))) l) line) line)) line).fst) []).length) ∧ ((3 : Nat) ≤
      (at83.dev.lane ↑l191).missed)) ∧
    ((at84.live = true) ∧ ((3 : Nat) ≤ at84.dev.laneState ↑l191) ∧ (at84.dev.on (Reg.LANE_STATUS_cdr_lock (laneSel ↑l191)
      (laneJ ↑l191)) = true) ∧ (at84.dev.fecOn ↑l191 = true) ∧ (at84.dev.on (Reg.LANE_STATUS_fec_lock (laneSel ↑l191) (laneJ
      ↑l191)) = false) ∧ ((at84.dev.lane ↑l191).goodFec = (0 : Nat)) ∧ (findWord blockWord ((fun line => (at84.dev.lane
      ↑l191).rxRaw ++ ofSyms (at84.dev.pamOn ↑l191) ((fun line => unstuff (at84.dev.pamOn ↑l191) (at84.dev.lane ↑l191).rxRun
      ((fun line => if at84.dev.loopOf ↑l191 = (1 : Nat) then (fun l => onPair (at84.dev.pamOn ↑l191) (at84.dev.on
      (Reg.LANE_CTL_rx_pol (laneSel ↑l191) (laneJ ↑l191))) l) (at84.dev.lane ↑l191).loopQ else if at84.dev.loopOf ↑l191 = (2 :
      Nat) then (at84.dev.lane ↑l191).loopQ else (fun l => onPair (at84.dev.pamOn ↑l191) (at84.dev.on (Reg.LANE_CTL_rx_pol
      (laneSel ↑l191) (laneJ ↑l191))) l) line) line)) line).fst) [(1 : Nat)]) = some (5 : Nat))) ∧
    ((at85.live = true) ∧ ((3 : Nat) ≤ at85.dev.laneState ↑l191) ∧ (at85.dev.on (Reg.LANE_STATUS_cdr_lock (laneSel ↑l191)
      (laneJ ↑l191)) = true) ∧ (at85.dev.fecOn ↑l191 = true) ∧ (at85.dev.on (Reg.LANE_STATUS_fec_lock (laneSel ↑l191) (laneJ
      ↑l191)) = true ∨ (at85.dev.lane ↑l191).goodFec ≠ (0 : Nat)) ∧ ((at85.dev.lane ↑l191).cw < (3 : Nat)) ∧ (((fun line =>
      (at85.dev.lane ↑l191).rxRaw ++ ofSyms (at85.dev.pamOn ↑l191) ((fun line => unstuff (at85.dev.pamOn ↑l191) (at85.dev.lane
      ↑l191).rxRun ((fun line => if at85.dev.loopOf ↑l191 = (1 : Nat) then (fun l => onPair (at85.dev.pamOn ↑l191) (at85.dev.on
      (Reg.LANE_CTL_rx_pol (laneSel ↑l191) (laneJ ↑l191))) l) (at85.dev.lane ↑l191).loopQ else if at85.dev.loopOf ↑l191 = (2 :
      Nat) then (at85.dev.lane ↑l191).loopQ else (fun l => onPair (at85.dev.pamOn ↑l191) (at85.dev.on (Reg.LANE_CTL_rx_pol
      (laneSel ↑l191) (laneJ ↑l191))) l) line) line)) line).fst) [(1 : Nat)]).length < (5440 : Nat))) ∧
    ((at86.live = true) ∧ ((3 : Nat) ≤ at86.dev.laneState ↑l191) ∧ (at86.dev.on (Reg.LANE_STATUS_cdr_lock (laneSel ↑l191)
      (laneJ ↑l191)) = true) ∧ ((at86.dev.lane ↑l191).pipe = [ebw true]) ∧ ((ebw true).chaff = true)) ∧
    ((at70.live = true) ∧ (at70.dev.laneState ↑l191 = (3 : Nat) ∨ at70.dev.laneState ↑l191 = (4 : Nat)) ∧ (at70.dev.loopOf
      ↑l191 ≠ (1 : Nat)) ∧ (at70.dev.loopOf ↑l191 ≠ (2 : Nat))) ∧
    ((at90.live = true) ∧ (at90.dev.loopOf ↑l191 = (1 : Nat) ∨ at90.dev.loopOf ↑l191 = (2 : Nat))) ∧
    ((at91.live = true) ∧ (at91.dev.on (Reg.LANE_PRBS_CTL_chk_en (laneSel ↑l191) (laneJ ↑l191)) = true) ∧ (at91.dev.on
      (Reg.LANE_STATUS_cdr_lock (laneSel ↑l191) (laneJ ↑l191)) = true) ∧ (checkBits (at91.dev.get (Reg.LANE_PRBS_CTL_chk_pat
      (laneSel ↑l191) (laneJ ↑l191))) (List.map (fun b => b ^^ at91.dev.on (Reg.LANE_PRBS_CTL_invert (laneSel ↑l191) (laneJ
      ↑l191))) (ofSyms (at91.dev.pamOn ↑l191) ((fun line => if at91.dev.loopOf ↑l191 = (1 : Nat) then (fun l => onPair
      (at91.dev.pamOn ↑l191) (at91.dev.on (Reg.LANE_CTL_rx_pol (laneSel ↑l191) (laneJ ↑l191))) l) (at91.dev.lane ↑l191).loopQ
      else if at91.dev.loopOf ↑l191 = (2 : Nat) then (at91.dev.lane ↑l191).loopQ else (fun l => onPair (at91.dev.pamOn ↑l191)
      (at91.dev.on (Reg.LANE_CTL_rx_pol (laneSel ↑l191) (laneJ ↑l191))) l) line) s40))) (at91.dev.lane ↑l191).chk (at91.dev.lane
      ↑l191).chkCnt = (c40.fst, (31 : Nat), (9 : Nat), (0 : Nat)))) ∧
    ((at92.live = true) ∧ ((at92.dev.lane ↑l191).eye = true)) ∧
    ((at70.live = true) ∧ ((at70.dev.lane ↑l191).haltDue = false)) := by
  and_intros <;> decide +kernel

theorem test_meets_LinkLayer :
    ((f488.type < (256 : Nat)) ∧ (f488.seq < (2 : Nat) ^ (24 : Nat)) ∧ (f488.body.length = (488 : Nat)) ∧ (f488.tag.length =
      (8 : Nat))) ∧
    (((wLink (3 : Nat) (2 : Nat) { : Link } []).live = true) ∧ ((wLink (3 : Nat) (2 : Nat) { : Link } []).dev.laneState ↑l191
      = (2 : Nat) ∨ (wLink (3 : Nat) (2 : Nat) { : Link } []).dev.laneState ↑l191 = (3 : Nat) ∨ (wLink (3 : Nat) (2 : Nat)
      { : Link } []).dev.laneState ↑l191 = (5 : Nat))) ∧
    (((wLink (6 : Nat) (5 : Nat) { : Link } []).live = true) ∧ ((wLink (6 : Nat) (5 : Nat) { : Link } []).dev.laneState ↑l191
      < (2 : Nat) ∨ (5 : Nat) < (wLink (6 : Nat) (5 : Nat) { : Link } []).dev.laneState ↑l191)) ∧
    (((wLink (4 : Nat) (1 : Nat) { : Link } []).live = true) ∧ ((wLink (4 : Nat) (1 : Nat) { : Link } []).dev.laneState ↑l191
      = (4 : Nat)) ∧ ((wLink (4 : Nat) (1 : Nat) { : Link } []).dev.linkState ↑l191 = (1 : Nat))) ∧
    (((wLink (4 : Nat) (3 : Nat) { : Link } []).live = true) ∧ ((wLink (4 : Nat) (3 : Nat) { : Link } []).dev.laneState ↑l191
      = (4 : Nat)) ∧ ((wLink (4 : Nat) (3 : Nat) { : Link } []).dev.linkState ↑l191 = (3 : Nat) ∨ (wLink (4 : Nat) (3 : Nat)
      { : Link } []).dev.linkState ↑l191 = (4 : Nat))) ∧
    (((wLink (4 : Nat) (2 : Nat) { : Link } []).live = true) ∧ ((wLink (4 : Nat) (2 : Nat) { : Link } []).dev.laneState ↑l191
      = (4 : Nat)) ∧ ((wLink (4 : Nat) (2 : Nat) { : Link } []).dev.linkState ↑l191 = (2 : Nat)) ∧ (((wLink (4 : Nat) (2 : Nat)
      { : Link } []).dev.link ↑l191).replay = none) ∧ (((wLink (4 : Nat) (2 : Nat) { : Link } []).dev.link ↑l191).partnerUp =
      false ∨ (64 : Nat) ≤ ((wLink (4 : Nat) (2 : Nat) { : Link } []).dev.link ↑l191).buf.length)) ∧
    ((at95.live = true) ∧ (at95.dev.laneState ↑l191 = (4 : Nat)) ∧ (at95.dev.linkState ↑l191 = (2 : Nat)) ∧ ((at95.dev.link
      ↑l191).replay = some (0 : Nat)) ∧ ((at95.dev.link ↑l191).buf[(0 : Nat)]? = some sent0)) ∧
    ((at96.live = true) ∧ (at96.dev.laneState ↑l191 = (4 : Nat)) ∧ (at96.dev.linkState ↑l191 = (2 : Nat)) ∧ ((at96.dev.link
      ↑l191).replay = none) ∧ ((at96.dev.link ↑l191).partnerUp = true) ∧ ((at96.dev.link ↑l191).buf.length < (64 : Nat)) ∧
      ((at96.dev.link ↑l191).fwd = []) ∧ (at96.dev.chan.formed.get ↑l191 [] = []) ∧ ((at96.dev.link ↑l191).ctlQ = [msg0]) ∧
      ((at96.dev.link ↑l191).mgmtQ = []) ∧ ((at96.dev.link ↑l191).creditQ = []) ∧ ((at96.dev.link ↑l191).tmarkDue = false) ∧
      (at96.dev.linkEnc ↑l191 = false) ∧ (∀ (e : Nat × Ctx), e ∈ at96.dev.ctxs → e.snd.laneNo ≠ ↑l191) ∧ (((at96.dev.link
      ↑l191).ctlSent + (256 : Nat) - (at96.dev.link ↑l191).pCtl) % (256 : Nat) < (32 : Nat)) ∧ ((1 : Nat) ≤ at96.dev.get
      (Reg.LCH_LINK_CFG_ctl_max (laneSel ↑l191) (laneJ ↑l191))) ∧ (msg0.toLocal = true ∨ at96.dev.on
      (Reg.LCH_LINK_STATUS_hold_in (laneSel ↑l191) (laneJ ↑l191)) = false) ∧ (msg0.dst < (128 : Nat))) ∧
    (((wLink (4 : Nat) (2 : Nat) { : Link } []).live = true) ∧ ((wLink (4 : Nat) (2 : Nat) { : Link } []).dev.laneState ↑l191
      ≠ (4 : Nat) ∨ ((wLink (4 : Nat) (2 : Nat) { : Link } []).dev.lane ↑l191).frames = [])) ∧
    ((at98.live = true) ∧ (at98.dev.laneState ↑l191 = (4 : Nat)) ∧ ((at98.dev.lane ↑l191).frames =
      [rx (fr (2 : Nat) (0 : Nat) [])]) ∧ ((rx (fr (2 : Nat) (0 : Nat) [])).frame.type ≠ (1 : Nat))) ∧
    ((at98.live = true) ∧ (at98.dev.laneState ↑l191 = (4 : Nat)) ∧ ((at98.dev.lane ↑l191).frames =
      [rx (fr (2 : Nat) (0 : Nat) [])]) ∧ ((rx (fr (2 : Nat) (0 : Nat) [])).frame.type ≠ (3 : Nat))) ∧
    ((at99.live = true) ∧ (at99.dev.laneState ↑l191 = (4 : Nat)) ∧ ((at99.dev.lane ↑l191).frames = [at100]) ∧
      (at100.frame.type = (1 : Nat)) ∧ (at99.dev.linkState ↑l191 = (2 : Nat)) ∧ (at99.dev.spState ≠ (3 : Nat) ∨ at99.dev.role =
      (0 : Nat)) ∧ (at100.frame.good = false)) ∧
    ((at103.live = true) ∧ (at103.dev.laneState ↑l191 = (4 : Nat)) ∧ ((at103.dev.lane ↑l191).frames =
      [rx (fr (1 : Nat) (8 : Nat) [])]) ∧ ((rx (fr (1 : Nat) (8 : Nat) [])).frame.type = (1 : Nat)) ∧ (at103.dev.linkState ↑l191
      = (2 : Nat)) ∧ (at103.dev.spState ≠ (3 : Nat) ∨ at103.dev.role = (0 : Nat)) ∧ ((rx (fr (1 : Nat) (8 : Nat) [])).frame.good
      = true) ∧ (BitVec.getLsbD (rx (fr (1 : Nat) (8 : Nat) [])).frame.credit (12 : Nat) = false) ∧ ((rx (fr (1 : Nat) (8 : Nat)
      [])).frame.seq ≠ (at103.dev.link ↑l191).expect)) ∧
    ((at105.live = true) ∧ (at105.dev.laneState ↑l191 = (4 : Nat)) ∧ ((at105.dev.lane ↑l191).frames =
      [rx (fr (1 : Nat) (16777215 : Nat) (hdrB ((2 : Nat) ^ (60 : Nat) + (4 : Nat) + (9 : Nat) * (2 : Nat) ^ (52 : Nat)) ++ [(1 : Byte), (2 : Byte)]))])
      ∧ ((rx (fr (1 : Nat) (16777215 : Nat) (hdrB ((2 : Nat) ^ (60 : Nat) + (4 : Nat) + (9 : Nat) * (2 : Nat) ^ (52 : Nat)) ++
      [(1 : Byte), (2 : Byte)]))).frame.type = (1 : Nat)) ∧ (at105.dev.linkState ↑l191 = (2 : Nat)) ∧ (at105.dev.spState ≠ (3 :
      Nat) ∨ at105.dev.role = (0 : Nat)) ∧ ((rx (fr (1 : Nat) (16777215 : Nat) (hdrB ((2 : Nat) ^ (60 : Nat) + (4 : Nat) + (9 :
      Nat) * (2 : Nat) ^ (52 : Nat)) ++ [(1 : Byte), (2 : Byte)]))).frame.good = true) ∧ (BitVec.getLsbD (rx (fr (1 : Nat)
      (16777215 : Nat) (hdrB ((2 : Nat) ^ (60 : Nat) + (4 : Nat) + (9 : Nat) * (2 : Nat) ^ (52 : Nat)) ++
      [(1 : Byte), (2 : Byte)]))).frame.credit (12 : Nat) = false) ∧ ((rx (fr (1 : Nat) (16777215 : Nat) (hdrB ((2 : Nat) ^ (60
      : Nat) + (4 : Nat) + (9 : Nat) * (2 : Nat) ^ (52 : Nat)) ++ [(1 : Byte), (2 : Byte)]))).frame.seq = (at105.dev.link
      ↑l191).expect) ∧ (at105.dev.linkEnc ↑l191 = false) ∧ (bitOf (leAt (rx (fr (1 : Nat) (16777215 : Nat) (hdrB ((2 : Nat) ^
      (60 : Nat) + (4 : Nat) + (9 : Nat) * (2 : Nat) ^ (52 : Nat)) ++ [(1 : Byte), (2 : Byte)]))).frame.body (0 : Nat) (8 :
      Nat)) (60 : Nat) = true) ∧ (fieldOf (leAt (rx (fr (1 : Nat) (16777215 : Nat) (hdrB ((2 : Nat) ^ (60 : Nat) + (4 : Nat) +
      (9 : Nat) * (2 : Nat) ^ (52 : Nat)) ++ [(1 : Byte), (2 : Byte)]))).frame.body (0 : Nat) (8 : Nat)) (0 : Nat) (45 : Nat) =
      (4 : Nat)) ∧ (at105.dev.get Reg.ID_STATE_sp_state ≤ (3 : Nat))) ∧
    ((at106.live = true) ∧ (at106.dev.laneState ↑l191 = (4 : Nat)) ∧ ((at106.dev.lane ↑l191).frames =
      [rx (fr (1 : Nat) (7 : Nat) (hdrB ((7 : Nat) * (2 : Nat) ^ (45 : Nat))))]) ∧ ((rx (fr (1 : Nat) (7 : Nat) (hdrB ((7 : Nat)
      * (2 : Nat) ^ (45 : Nat))))).frame.type = (1 : Nat)) ∧ (at106.dev.linkState ↑l191 = (2 : Nat)) ∧ (at106.dev.spState ≠ (3 :
      Nat) ∨ at106.dev.role = (0 : Nat)) ∧ ((rx (fr (1 : Nat) (7 : Nat) (hdrB ((7 : Nat) * (2 : Nat) ^ (45 : Nat))))).frame.good
      = true) ∧ (BitVec.getLsbD (rx (fr (1 : Nat) (7 : Nat) (hdrB ((7 : Nat) * (2 : Nat) ^ (45 : Nat))))).frame.credit (12 :
      Nat) = false) ∧ ((rx (fr (1 : Nat) (7 : Nat) (hdrB ((7 : Nat) * (2 : Nat) ^ (45 : Nat))))).frame.seq = (at106.dev.link
      ↑l191).expect) ∧ (at106.dev.linkEnc ↑l191 = false) ∧ (bitOf (leAt (rx (fr (1 : Nat) (7 : Nat) (hdrB ((7 : Nat) * (2 : Nat)
      ^ (45 : Nat))))).frame.body (0 : Nat) (8 : Nat)) (60 : Nat) = false) ∧ (at106.dev.on (Reg.LCH_CTL_pos_valid (laneSel
      ↑l191)) = false)) ∧
    ((at107.live = true) ∧ (at107.dev.laneState ↑l191 = (4 : Nat)) ∧ ((at107.dev.lane ↑l191).frames =
      [rx (fr (1 : Nat) (7 : Nat) (hdrB ((7 : Nat) * (2 : Nat) ^ (45 : Nat))))]) ∧ ((rx (fr (1 : Nat) (7 : Nat) (hdrB ((7 : Nat)
      * (2 : Nat) ^ (45 : Nat))))).frame.type = (1 : Nat)) ∧ (at107.dev.linkState ↑l191 = (2 : Nat)) ∧ (at107.dev.spState ≠ (3 :
      Nat) ∨ at107.dev.role = (0 : Nat)) ∧ ((rx (fr (1 : Nat) (7 : Nat) (hdrB ((7 : Nat) * (2 : Nat) ^ (45 : Nat))))).frame.good
      = true) ∧ (BitVec.getLsbD (rx (fr (1 : Nat) (7 : Nat) (hdrB ((7 : Nat) * (2 : Nat) ^ (45 : Nat))))).frame.credit (12 :
      Nat) = false) ∧ ((rx (fr (1 : Nat) (7 : Nat) (hdrB ((7 : Nat) * (2 : Nat) ^ (45 : Nat))))).frame.seq = (at107.dev.link
      ↑l191).expect) ∧ (at107.dev.linkEnc ↑l191 = false) ∧ (bitOf (leAt (rx (fr (1 : Nat) (7 : Nat) (hdrB ((7 : Nat) * (2 : Nat)
      ^ (45 : Nat))))).frame.body (0 : Nat) (8 : Nat)) (60 : Nat) = false) ∧ (at107.dev.on (Reg.LCH_CTL_pos_valid (laneSel
      ↑l191)) = true) ∧ (fieldOf (leAt (rx (fr (1 : Nat) (7 : Nat) (hdrB ((7 : Nat) * (2 : Nat) ^ (45 : Nat))))).frame.body (0 :
      Nat) (8 : Nat)) (45 : Nat) (7 : Nat) ≠ at107.dev.get (Reg.LCH_CTL_position (laneSel ↑l191))) ∧ (at107.dev.on
      (Reg.LCH_FWD_valid (laneSel ↑l191) (fieldOf (leAt (rx (fr (1 : Nat) (7 : Nat) (hdrB ((7 : Nat) * (2 : Nat) ^ (45 :
      Nat))))).frame.body (0 : Nat) (8 : Nat)) (45 : Nat) (7 : Nat))) = false)) ∧
    ((at108.live = true) ∧ (at108.dev.laneState ↑l191 = (4 : Nat)) ∧ ((at108.dev.lane ↑l191).frames =
      [rx (fr (1 : Nat) (7 : Nat) (hdrB ((127 : Nat) * (2 : Nat) ^ (45 : Nat))))]) ∧ ((rx (fr (1 : Nat) (7 : Nat) (hdrB ((127 :
      Nat) * (2 : Nat) ^ (45 : Nat))))).frame.type = (1 : Nat)) ∧ (at108.dev.linkState ↑l191 = (2 : Nat)) ∧ (at108.dev.spState ≠
      (3 : Nat) ∨ at108.dev.role = (0 : Nat)) ∧ ((rx (fr (1 : Nat) (7 : Nat) (hdrB ((127 : Nat) * (2 : Nat) ^ (45 :
      Nat))))).frame.good = true) ∧ (BitVec.getLsbD (rx (fr (1 : Nat) (7 : Nat) (hdrB ((127 : Nat) * (2 : Nat) ^ (45 :
      Nat))))).frame.credit (12 : Nat) = false) ∧ ((rx (fr (1 : Nat) (7 : Nat) (hdrB ((127 : Nat) * (2 : Nat) ^ (45 :
      Nat))))).frame.seq = (at108.dev.link ↑l191).expect) ∧ (at108.dev.linkEnc ↑l191 = false) ∧ (bitOf (leAt (rx (fr (1 : Nat)
      (7 : Nat) (hdrB ((127 : Nat) * (2 : Nat) ^ (45 : Nat))))).frame.body (0 : Nat) (8 : Nat)) (60 : Nat) = false) ∧
      (at108.dev.on (Reg.LCH_CTL_pos_valid (laneSel ↑l191)) = true) ∧ (fieldOf (leAt (rx (fr (1 : Nat) (7 : Nat) (hdrB ((127 :
      Nat) * (2 : Nat) ^ (45 : Nat))))).frame.body (0 : Nat) (8 : Nat)) (45 : Nat) (7 : Nat) ≠ at108.dev.get
      (Reg.LCH_CTL_position (laneSel ↑l191))) ∧ (l3 ≠ l191) ∧ (at108.dev.on (Reg.LCH_FWD_valid (laneSel ↑l191) (fieldOf (leAt
      (rx (fr (1 : Nat) (7 : Nat) (hdrB ((127 : Nat) * (2 : Nat) ^ (45 : Nat))))).frame.body (0 : Nat) (8 : Nat)) (45 : Nat) (7
      : Nat))) = true) ∧ (at108.dev.get (Reg.LCH_FWD_lane (laneSel ↑l191) (fieldOf (leAt (rx (fr (1 : Nat) (7 : Nat) (hdrB ((127
      : Nat) * (2 : Nat) ^ (45 : Nat))))).frame.body (0 : Nat) (8 : Nat)) (45 : Nat) (7 : Nat))) = ↑l3) ∧ ((at108.dev.link
      ↑l3).fwd.length < (16 : Nat))) ∧
    ((at109.live = true) ∧ (at109.dev.laneState ↑l191 = (4 : Nat)) ∧ ((at109.dev.lane ↑l191).frames = [at110]) ∧
      (at110.frame.type = (2 : Nat)) ∧ (at109.dev.linkState ↑l191 = (2 : Nat)) ∧ (at110.frame.good = true) ∧ (BitVec.getLsbD
      at110.frame.credit (12 : Nat) = false) ∧ (bitOf (leAt at110.frame.body (0 : Nat) (8 : Nat)) (60 : Nat) = true)) ∧
    ((at111.live = true) ∧ (at111.dev.laneState ↑l191 = (4 : Nat)) ∧ ((at111.dev.lane ↑l191).frames = [at112]) ∧
      (at112.frame.type = (3 : Nat)) ∧ (at111.dev.linkState ↑l191 = (1 : Nat)) ∧ (at112.frame.good = true) ∧
      (at111.dev.boot.mode ≠ (2 : Nat)) ∧ (at111.dev.spState ≠ (3 : Nat))) ∧
    ((wRom.live = true) ∧ (wRom.dev.laneState ↑l191 = (4 : Nat)) ∧ ((wRom.dev.lane ↑l191).frames = [rx hello1]) ∧ ((rx
      hello1).frame.type = (3 : Nat)) ∧ (wRom.dev.linkState ↑l191 = (1 : Nat)) ∧ ((rx hello1).frame.good = true) ∧
      (wRom.dev.boot.mode = (2 : Nat)) ∧ (wRom.dev.boot.started = false) ∧ (wRom.dev.spState ≠ (5 : Nat)) ∧ (wRom.dev.spState ≠
      (3 : Nat)) ∧ (helloRole (slice (rx hello1).frame.body (8 : Nat) (32 : Nat)) = (1 : Nat)) ∧ (wRom.dev.linkEnc ↑l191 =
      false) ∧ (wRom.reaches (Who.core (1 : Fin (4 : Nat))) (Reg.LCH_LINK_CFG (laneSel ↑l191) (laneJ ↑l191)))) ∧
    ((at113.live = true) ∧ (at113.dev.laneState ↑l191 = (4 : Nat)) ∧ ((at113.dev.lane ↑l191).frames =
      [rx (fr (4 : Nat) (0 : Nat) [])]) ∧ ((rx (fr (4 : Nat) (0 : Nat) [])).frame.type = (4 : Nat)) ∧ (at113.dev.linkState ↑l191
      = (2 : Nat)) ∧ ((rx (fr (4 : Nat) (0 : Nat) [])).frame.good = true) ∧ (at113.dev.cluster.formed = false)) ∧
    ((at114.live = true) ∧ (at114.dev.laneState ↑l191 = (4 : Nat)) ∧ ((at114.dev.lane ↑l191).frames =
      [rx (fr (5 : Nat) (0 : Nat) [])]) ∧ ((rx (fr (5 : Nat) (0 : Nat) [])).frame.type = (0 : Nat) ∨ (5 : Nat) ≤ (rx (fr (5 :
      Nat) (0 : Nat) [])).frame.type) ∧ (at114.dev.linkState ↑l191 = (1 : Nat) ∨ at114.dev.linkState ↑l191 = (2 : Nat)) ∧ ((rx
      (fr (5 : Nat) (0 : Nat) [])).frame.good = true)) ∧
    ((at116.live = true) ∧ (at116.dev.linkState ↑l191 = (2 : Nat)) ∧ (at116.dev.laneState ↑l191 = (4 : Nat)) ∧
      ((at116.dev.link ↑l191).buf = [sent0]) ∧ (at116.dev.now < sent0.time + max (at116.dev.get (Reg.LCH_RETRY_timeout (laneSel
      ↑l191))) (1 : Nat) * (1600 : Nat))) ∧
    ((at117.live = true) ∧ (at117.dev.linkState ↑l191 = (2 : Nat)) ∧ (at117.dev.laneState ↑l191 = (4 : Nat)) ∧
      ((at117.dev.link ↑l191).buf = [sent0]) ∧ (sent0.time + max (at117.dev.get (Reg.LCH_RETRY_timeout (laneSel ↑l191))) (1 :
      Nat) * (1600 : Nat) ≤ at117.dev.now) ∧ ((at117.dev.link ↑l191).acked = true)) ∧
    ((at118.live = true) ∧ (at118.dev.linkState ↑l191 = (2 : Nat)) ∧ (at118.dev.laneState ↑l191 = (4 : Nat)) ∧
      ((at118.dev.link ↑l191).buf = [sent0]) ∧ (sent0.time + max (at118.dev.get (Reg.LCH_RETRY_timeout (laneSel ↑l191))) (1 :
      Nat) * (1600 : Nat) ≤ at118.dev.now) ∧ ((at118.dev.link ↑l191).acked = false) ∧ (max (at118.dev.get (Reg.LCH_RETRY_limit
      (laneSel ↑l191))) (1 : Nat) < (at118.dev.link ↑l191).retries + (1 : Nat)) ∧ (at118.dev.cluster.formed = false)) ∧
    ((at119.live = true) ∧ (at119.dev.linkState ↑l191 = (2 : Nat)) ∧ (at119.dev.laneState ↑l191 ≠ (4 : Nat)) ∧
      (at119.dev.cluster.formed = false)) ∧
    (((wLink (3 : Nat) (1 : Nat) { : Link } []).live = true) ∧ ((wLink (3 : Nat) (1 : Nat) { : Link } []).dev.linkState ↑l191
      ≠ (2 : Nat) ∨ (wLink (3 : Nat) (1 : Nat) { : Link } []).dev.laneState ↑l191 = (4 : Nat))) := by
  and_intros <;> decide +kernel

theorem test_meets_LinkCommands :
    (((wLink (4 : Nat) (1 : Nat) { : Link } []).reaches core0 (Reg.LCH_LINK_CFG (laneSel ↑l191) (laneJ ↑l191))) ∧ ((wLink (4 :
      Nat) (1 : Nat) { : Link } []).dev.linkState ↑l191 = (1 : Nat)) ∧ (BitVec.getLsbD (524161 : Word) (1 : Nat) = false)) ∧
    ((at120.reaches core0 (Reg.LCH_LINK_CFG (laneSel ↑l191) (laneJ ↑l191))) ∧ (at120.dev.linkState ↑l191 = (1 : Nat)) ∧
      (BitVec.getLsbD (63 : Word) (1 : Nat) = true) ∧ ((at120.dev.link ↑l191).keyNew.getLsbD (bits (63 : Word) (2 : Nat) (4 :
      Nat)) = true)) ∧
    ((at121.reaches core0 (Reg.LCH_LINK_CFG (laneSel ↑l191) (laneJ ↑l191))) ∧ (at121.dev.linkState ↑l191 = (1 : Nat)) ∧
      (BitVec.getLsbD (63 : Word) (1 : Nat) = true) ∧ ((at121.dev.link ↑l191).keyNew.getLsbD (bits (63 : Word) (2 : Nat) (4 :
      Nat)) = false)) ∧
    (((wLink (3 : Nat) (0 : Nat) { : Link } []).reaches core0 (Reg.LCH_LINK_CFG (laneSel ↑l191) (laneJ ↑l191))) ∧ ((wLink (3 :
      Nat) (0 : Nat) { : Link } []).dev.linkState ↑l191 ≠ (1 : Nat))) ∧
    ((at122.reaches core0 (Reg.LCH_LINK_CFG (laneSel ↑l191) (laneJ ↑l191))) ∧ (at122.dev.linkState ↑l191 = (2 : Nat) ∨
      at122.dev.linkState ↑l191 = (3 : Nat) ∨ at122.dev.linkState ↑l191 = (4 : Nat))) ∧
    ((at124.reaches core0 (Reg.LCH_CTX_CMD (baseSel ↑b3))) ∧ (at124.dev.get (Reg.LCH_CTX_SEL_ctx (baseSel ↑b3)) / (16384 :
      Nat) = ↑b3)) ∧
    ((at125.reaches core0 (Reg.LCH_CTX_CMD (baseSel ↑b3))) ∧ (at125.dev.get (Reg.LCH_CTX_SEL_ctx (baseSel ↑b3)) / (16384 :
      Nat) = ↑b3) ∧ ((at125.dev.ctx (at125.dev.get (Reg.LCH_CTX_SEL_ctx (baseSel ↑b3)))).valid = false ∨ (at125.dev.ctx
      (at125.dev.get (Reg.LCH_CTX_SEL_ctx (baseSel ↑b3)))).sync = false ∨ at125.dev.running = false) ∧ (bits (at125.dev.rdWord
      (Reg.LCH_CTX_DATA (baseSel ↑b3) (0 : Nat))) (0 : Nat) (2 : Nat) ≠ (3 : Nat) ∨ (at125.dev.hotFree ↑b3).isSome = true)) ∧
    ((at126.reaches core0 (Reg.LCH_CTX_CMD (baseSel ↑b3))) ∧ (at126.dev.get (Reg.LCH_CTX_SEL_ctx (baseSel ↑b3)) / (16384 :
      Nat) = ↑b3) ∧ ((at126.dev.ctx (at126.dev.get (Reg.LCH_CTX_SEL_ctx (baseSel ↑b3)))).valid = true) ∧ ((at126.dev.ctx
      (at126.dev.get (Reg.LCH_CTX_SEL_ctx (baseSel ↑b3)))).sync = true) ∧ (at126.dev.running = true)) ∧
    ((at127.reaches core0 (Reg.LCH_CTX_CMD (baseSel ↑b0))) ∧ (at127.dev.get (Reg.LCH_CTX_SEL_ctx (baseSel ↑b0)) / (16384 :
      Nat) ≠ ↑b0)) ∧
    ((at128.live = true) ∧ ((at128.dev.ctx chL.toNat).hot.isSome = true) ∧ ((at128.dev.ctx chL.toNat).sync = false) ∧
      ((at128.dev.ctx chL.toNat).queue = []) ∧ ((at128.dev.ctx chL.toNat).part = []) ∧ ((at128.dev.ctx chL.toNat).since + (100 :
      Nat) * (16000 : Nat) ≤ at128.dev.now)) ∧
    ((at129.live = true) ∧ ((at129.dev.ctx chL.toNat).queue ≠ [] ∨ (at129.dev.ctx chL.toNat).sync = true ∨ at129.dev.now <
      (at129.dev.ctx chL.toNat).since + (100 : Nat) * (16000 : Nat))) ∧
    ((at131.live = true) ∧ ((at131.dev.ctx chL.toNat).streamSend = true) ∧ ((at131.dev.ctx chL.toNat).staleCode ≠ (15 : Nat))
      ∧ ((at131.dev.ctx chL.toNat).part ≠ []) ∧ ((at131.dev.ctx chL.toNat).since + (4000 : Nat) * (2 : Nat) ^ (at131.dev.ctx
      chL.toNat).staleCode ≤ at131.dev.now)) ∧
    ((at133.live = true) ∧ ((at133.dev.ctx chL.toNat).part = [] ∨ (at133.dev.ctx chL.toNat).staleCode = (15 : Nat) ∨
      at133.dev.now < (at133.dev.ctx chL.toNat).since + (4000 : Nat) * (2 : Nat) ^ (at133.dev.ctx chL.toNat).staleCode)) ∧
    ((at135.live = true) ∧ ((at135.dev.ctx chL.toNat).streamRecv = true) ∧ ((0 : Nat) < (at135.dev.ctx chL.toNat).freed) ∧
      ((at135.dev.ctx chL.toNat).freed ≤ (4095 : Nat)) ∧ ((at135.dev.ctx chL.toNat).laneNo < (192 : Nat)) ∧ ((at135.dev.ctx
      chL.toNat).freedAt + (16000 : Nat) ≤ at135.dev.now)) ∧
    ((at136.live = true) ∧ ((at136.dev.ctx chL.toNat).freed = (0 : Nat) ∨ at136.dev.now < (at136.dev.ctx chL.toNat).freedAt +
      (16000 : Nat))) ∧
    (((wCtx { : Ctx } []).live = true) ∧ ((wCtx { : Ctx } []).dev.spState ≠ (3 : Nat) ∨ (wCtx { : Ctx } []).dev.role = (0 :
      Nat))) ∧
    (((wRole (2 : Nat) (1 : Nat)).live = true) ∧ ((wRole (2 : Nat) (1 : Nat)).dev.spState = (3 : Nat)) ∧ ((wRole (2 : Nat) (1
      : Nat)).dev.role = (2 : Nat)) ∧ ((wRole (2 : Nat) (1 : Nat)).reaches (Who.core (0 : Fin (4 : Nat))) Reg.PACE_TB_ADJ) ∧
      ((wRole (2 : Nat) (1 : Nat)).dev.running = true)) ∧
    (((wRole (2 : Nat) (0 : Nat)).live = true) ∧ ((wRole (2 : Nat) (0 : Nat)).dev.spState = (3 : Nat)) ∧ ((wRole (2 : Nat) (0
      : Nat)).dev.role = (2 : Nat)) ∧ ((wRole (2 : Nat) (0 : Nat)).reaches (Who.core (0 : Fin (4 : Nat))) Reg.PACE_TB_ADJ) ∧
      ((wRole (2 : Nat) (0 : Nat)).dev.running = false)) ∧
    (((wRole (1 : Nat) (1 : Nat)).live = true) ∧ ((wRole (1 : Nat) (1 : Nat)).dev.spState = (3 : Nat)) ∧ ((wRole (1 : Nat) (1
      : Nat)).dev.role = (1 : Nat))) ∧
    (((wLink (4 : Nat) (2 : Nat) { : Link } []).reaches core0 (Reg.LCH_TMARK_CTL (laneSel ↑l191) (laneJ ↑l191)))) ∧
    ((at137.reaches core0 (Reg.LCH_SLOT_DATA (baseSel ↑b3))) ∧ (at137.dev.get (Reg.LCH_SLOT_SEL_lane (baseSel ↑b3)) < (48 :
      Nat)) ∧ (at137.dev.running = false)) ∧
    ((at138.reaches core0 (Reg.LCH_SLOT_DATA (baseSel ↑b3))) ∧ (at138.dev.get (Reg.LCH_SLOT_SEL_lane (baseSel ↑b3)) < (48 :
      Nat)) ∧ (at138.dev.running = true)) ∧
    ((wAll.reaches core0 (Reg.LCH_LINK_SYNC (baseSel ↑b3) ↑i47)) ∧ (wAll.dev.running = false)) ∧
    ((at139.reaches core0 (Reg.LCH_LINK_SYNC (baseSel ↑b3) ↑i47)) ∧ (at139.dev.running = true)) ∧
    ((wAll.reaches core0 (Reg.LCH_LINK_CLR (laneSel ↑l191) (laneJ ↑l191)))) ∧
    ((wAll.reaches core0 (Reg.LCH_CTL (baseSel ↑b3)))) := by
  and_intros <;> decide +kernel

theorem test_meets_ConfigurationControl :
    (((wCfg { : CfgState } [cst (5 : Nat)]).reaches core0 Reg.CFG_CTL) ∧ ((wCfg { : CfgState }
      [cst (5 : Nat)]).dev.cfg.started = false) ∧ ((wCfg { : CfgState } [cst (5 : Nat)]).dev.get Reg.CFG_STATUS_state ≠ (1 :
      Nat))) ∧
    ((at142.reaches core0 Reg.CFG_CTL) ∧ (at142.dev.cfg.started = true) ∧ (bits (7 : Word) (3 : Nat) (3 : Nat) = (0 : Nat))) ∧
    ((at143.reaches core0 Reg.CFG_CTL) ∧ (BitVec.getLsbD (35 : Word) (2 : Nat) = false) ∧ (BitVec.getLsbD (35 : Word) (4 :
      Nat) = false) ∧ (at143.dev.cfg.started = true)) ∧
    ((at144.reaches core0 Reg.CFG_CTL) ∧ (BitVec.getLsbD (35 : Word) (2 : Nat) = false) ∧ (BitVec.getLsbD (35 : Word) (4 :
      Nat) = false) ∧ (at144.dev.cfg.started = false) ∧ (at144.dev.get Reg.CFG_STATUS_state = (1 : Nat))) ∧
    ((at145.reaches core0 Reg.CFG_CTL) ∧ (bits (35 : Word) (2 : Nat) (2 : Nat) = (0 : Nat))) ∧
    ((at146.reaches core0 Reg.CFG_CTL) ∧ (bits (35 : Word) (2 : Nat) (3 : Nat) = (0 : Nat))) ∧
    ((at143.live = true) ∧ (at143.dev.cfg.started = true) ∧ (at143.dev.get Reg.CFG_CTL_path ≠ (2 : Nat))) ∧
    (((wCfg { : CfgState } [cst (1 : Nat)]).live = true) ∧ ((wCfg { : CfgState } [cst (1 : Nat)]).dev.cfg.started = false) ∧
      ((wCfg { : CfgState } [cst (1 : Nat)]).dev.get Reg.CFG_STATUS_state = (1 : Nat)) ∧ ((wCfg { : CfgState }
      [cst (1 : Nat)]).dev.get Reg.CFG_CTL_path ≠ (2 : Nat))) ∧
    ((at147.live = true) ∧ (at147.dev.cfg.started = false) ∧ (at147.dev.get Reg.CFG_STATUS_state ≠ (1 : Nat) ∨ at147.dev.get
      Reg.CFG_CTL_path = (2 : Nat))) ∧
    ((at148.live = true) ∧ (at148.dev.cfg.started = true) ∧ (at148.dev.get Reg.CFG_CTL_path = (2 : Nat))) ∧
    (((wCfg { : CfgState } []).live = true) ∧ ((wCfg { : CfgState } []).dev.cfg.started = false)) ∧
    ((at149.live = true) ∧ (at149.dev.on Reg.CFG_STATUS_done_drive = false) ∧ (at149.dev.cfg.doneHeld = true)) ∧
    (((wCfg { : CfgState } []).live = true) ∧ ((wCfg { : CfgState } []).dev.on Reg.CFG_STATUS_done_drive = true ∨ (wCfg
      { : CfgState } []).dev.cfg.doneHeld = false)) ∧
    ((at150.live = true) ∧ (at150.dev.spState = (3 : Nat)) ∧ (at150.dev.boot.role = (2 : Nat)) ∧ (at150.dev.get
      Reg.CFG_CTL_path = (1 : Nat)) ∧ (at150.dev.cfg.loadFailure = true)) ∧
    ((at151.live = true) ∧ (at151.dev.spState ≠ (3 : Nat) ∨ at151.dev.boot.role ≠ (2 : Nat) ∨ at151.dev.cfg.loadFailure =
      false)) := by
  and_intros <;> decide +kernel

theorem test_meets_SectionsAndPackets :
    (((wS cRead (2 : Nat)).live = true) ∧ ((Feed.lanes [(1 : Byte)]).path ≠ (wS cRead (2 : Nat)).dev.get Reg.CFG_CTL_path)) ∧
    ((at152.live = true) ∧ ((fl hBad).path = at152.dev.get Reg.CFG_CTL_path) ∧ (Option.map (fun x => x.fst)
      (at152.dev.feedTaken (fl hBad)) = some hBad) ∧ ((128 : Nat) ≤ hBad.length) ∧ (at152.dev.get Reg.CFG_STATUS_state = (1 :
      Nat) ∨ at152.dev.get Reg.CFG_STATUS_state = (2 : Nat) ∧ at152.dev.cfg.started = true ∧ at152.dev.cfg.reading =
      Reading.none) ∧ (headerFormat hBad = some (0 : Nat))) ∧
    (((wS cRead (2 : Nat)).live = true) ∧ (at154.path = (wS cRead (2 : Nat)).dev.get Reg.CFG_CTL_path) ∧ (Option.map (fun x =>
      x.fst) ((wS cRead (2 : Nat)).dev.feedTaken at154) = some (hFull (15 : Byte) (0 : Byte) (256 : Nat))) ∧ ((128 : Nat) ≤
      (hFull (15 : Byte) (0 : Byte) (256 : Nat)).length) ∧ ((wS cRead (2 : Nat)).dev.get Reg.CFG_STATUS_state = (1 : Nat) ∨ (wS
      cRead (2 : Nat)).dev.get Reg.CFG_STATUS_state = (2 : Nat) ∧ (wS cRead (2 : Nat)).dev.cfg.started = true ∧ (wS cRead (2 :
      Nat)).dev.cfg.reading = Reading.none) ∧ (headerFormat (hFull (15 : Byte) (0 : Byte) (256 : Nat)) = none) ∧ (leAt (hFull
      (15 : Byte) (0 : Byte) (256 : Nat)) (6 : Nat) (1 : Nat) = (15 : Nat))) ∧
    (((wS cRead (2 : Nat)).live = true) ∧ ((fl hOther).path = (wS cRead (2 : Nat)).dev.get Reg.CFG_CTL_path) ∧ (Option.map
      (fun x => x.fst) ((wS cRead (2 : Nat)).dev.feedTaken (fl hOther)) = some hOther) ∧ ((128 : Nat) ≤ hOther.length) ∧ ((wS
      cRead (2 : Nat)).dev.get Reg.CFG_STATUS_state = (1 : Nat) ∨ (wS cRead (2 : Nat)).dev.get Reg.CFG_STATUS_state = (2 : Nat)
      ∧ (wS cRead (2 : Nat)).dev.cfg.started = true ∧ (wS cRead (2 : Nat)).dev.cfg.reading = Reading.none) ∧ (headerFormat
      hOther = none) ∧ (leAt hOther (6 : Nat) (1 : Nat) ≠ (15 : Nat)) ∧ ((if (wS cRead (2 : Nat)).dev.get Reg.CFG_STATUS_state =
      (1 : Nat) then ((Option.map (fun x => x.snd) ((wS cRead (2 : Nat)).dev.feedTaken (fl hOther))).getD (wS cRead (2 :
      Nat)).dev).streamStart else (Option.map (fun x => x.snd) ((wS cRead (2 : Nat)).dev.feedTaken (fl hOther))).getD (wS cRead
      (2 : Nat)).dev).headerMine (wS cRead (2 : Nat)).fuses hOther = false)) ∧
    ((at152.live = true) ∧ ((fl hId).path = at152.dev.get Reg.CFG_CTL_path) ∧ (Option.map (fun x => x.fst)
      (at152.dev.feedTaken (fl hId)) = some hId) ∧ ((128 : Nat) ≤ hId.length) ∧ (at152.dev.get Reg.CFG_STATUS_state = (1 : Nat)
      ∨ at152.dev.get Reg.CFG_STATUS_state = (2 : Nat) ∧ at152.dev.cfg.started = true ∧ at152.dev.cfg.reading = Reading.none) ∧
      (headerFormat hId = none) ∧ (leAt hId (6 : Nat) (1 : Nat) ≠ (15 : Nat)) ∧ ((if at152.dev.get Reg.CFG_STATUS_state = (1 :
      Nat) then ((Option.map (fun x => x.snd) (at152.dev.feedTaken (fl hId))).getD at152.dev).streamStart else (Option.map (fun
      x => x.snd) (at152.dev.feedTaken (fl hId))).getD at152.dev).headerMine at152.fuses hId = true) ∧ ((if at152.dev.get
      Reg.CFG_STATUS_state = (1 : Nat) then ((Option.map (fun x => x.snd) (at152.dev.feedTaken (fl hId))).getD
      at152.dev).streamStart else (Option.map (fun x => x.snd) (at152.dev.feedTaken (fl hId))).getD at152.dev).headerChecks hId
      = some ((2 : Nat), (8 : Nat)))) ∧
    (((wS cRead (2 : Nat)).live = true) ∧ ((fl (hFull (1 : Byte) (0 : Byte) (256 : Nat))).path = (wS cRead (2 : Nat)).dev.get
      Reg.CFG_CTL_path) ∧ (Option.map (fun x => x.fst) ((wS cRead (2 : Nat)).dev.feedTaken (fl (hFull (1 : Byte) (0 : Byte) (256
      : Nat)))) = some (hFull (1 : Byte) (0 : Byte) (256 : Nat))) ∧ ((128 : Nat) ≤ (hFull (1 : Byte) (0 : Byte) (256 :
      Nat)).length) ∧ ((wS cRead (2 : Nat)).dev.get Reg.CFG_STATUS_state = (1 : Nat) ∨ (wS cRead (2 : Nat)).dev.get
      Reg.CFG_STATUS_state = (2 : Nat) ∧ (wS cRead (2 : Nat)).dev.cfg.started = true ∧ (wS cRead (2 : Nat)).dev.cfg.reading =
      Reading.none) ∧ (headerFormat (hFull (1 : Byte) (0 : Byte) (256 : Nat)) = none) ∧ (leAt (hFull (1 : Byte) (0 : Byte) (256
      : Nat)) (6 : Nat) (1 : Nat) ≠ (15 : Nat)) ∧ ((if (wS cRead (2 : Nat)).dev.get Reg.CFG_STATUS_state = (1 : Nat) then
      ((Option.map (fun x => x.snd) ((wS cRead (2 : Nat)).dev.feedTaken (fl (hFull (1 : Byte) (0 : Byte) (256 : Nat))))).getD
      (wS cRead (2 : Nat)).dev).streamStart else (Option.map (fun x => x.snd) ((wS cRead (2 : Nat)).dev.feedTaken (fl (hFull (1
      : Byte) (0 : Byte) (256 : Nat))))).getD (wS cRead (2 : Nat)).dev).headerMine (wS cRead (2 : Nat)).fuses (hFull (1 : Byte)
      (0 : Byte) (256 : Nat)) = true) ∧ ((if (wS cRead (2 : Nat)).dev.get Reg.CFG_STATUS_state = (1 : Nat) then ((Option.map
      (fun x => x.snd) ((wS cRead (2 : Nat)).dev.feedTaken (fl (hFull (1 : Byte) (0 : Byte) (256 : Nat))))).getD (wS cRead (2 :
      Nat)).dev).streamStart else (Option.map (fun x => x.snd) ((wS cRead (2 : Nat)).dev.feedTaken (fl (hFull (1 : Byte) (0 :
      Byte) (256 : Nat))))).getD (wS cRead (2 : Nat)).dev).headerChecks (hFull (1 : Byte) (0 : Byte) (256 : Nat)) = none) ∧
      (leAt (hFull (1 : Byte) (0 : Byte) (256 : Nat)) (6 : Nat) (1 : Nat) = (1 : Nat))) ∧
    ((at155.live = true) ∧ ((fl hPart).path = at155.dev.get Reg.CFG_CTL_path) ∧ (Option.map (fun x => x.fst)
      (at155.dev.feedTaken (fl hPart)) = some hPart) ∧ ((128 : Nat) ≤ hPart.length) ∧ (at155.dev.get Reg.CFG_STATUS_state = (1 :
      Nat) ∨ at155.dev.get Reg.CFG_STATUS_state = (2 : Nat) ∧ at155.dev.cfg.started = true ∧ at155.dev.cfg.reading =
      Reading.none) ∧ (headerFormat hPart = none) ∧ (leAt hPart (6 : Nat) (1 : Nat) ≠ (15 : Nat)) ∧ ((if at155.dev.get
      Reg.CFG_STATUS_state = (1 : Nat) then ((Option.map (fun x => x.snd) (at155.dev.feedTaken (fl hPart))).getD
      at155.dev).streamStart else (Option.map (fun x => x.snd) (at155.dev.feedTaken (fl hPart))).getD at155.dev).headerMine
      at155.fuses hPart = true) ∧ ((if at155.dev.get Reg.CFG_STATUS_state = (1 : Nat) then ((Option.map (fun x => x.snd)
      (at155.dev.feedTaken (fl hPart))).getD at155.dev).streamStart else (Option.map (fun x => x.snd) (at155.dev.feedTaken (fl
      hPart))).getD at155.dev).headerChecks hPart = none) ∧ (leAt hPart (6 : Nat) (1 : Nat) = (2 : Nat))) ∧
    (((wS (cBody (512 : Nat)) (2 : Nat)).live = true) ∧ ((fl hBad).path = (wS (cBody (512 : Nat)) (2 : Nat)).dev.get
      Reg.CFG_CTL_path) ∧ (Option.map (fun x => x.fst) ((wS (cBody (512 : Nat)) (2 : Nat)).dev.feedTaken (fl hBad)) = some hBad)
      ∧ ((wS (cBody (512 : Nat)) (2 : Nat)).dev.get Reg.CFG_STATUS_state ≠ (1 : Nat)) ∧ ((wS (cBody (512 : Nat)) (2 :
      Nat)).dev.cfg.started = false ∨ (wS (cBody (512 : Nat)) (2 : Nat)).dev.cfg.reading ≠ Reading.none)) ∧
    ((at156.live = true) ∧ ((fl endSec).path = at156.dev.get Reg.CFG_CTL_path) ∧ (Option.map (fun x => x.fst)
      (at156.dev.feedTaken (fl endSec)) = some endSec) ∧ (at156.dev.get Reg.CFG_STATUS_state = (2 : Nat)) ∧
      (at156.dev.cfg.started = true) ∧ (at156.dev.cfg.reading = Reading.none) ∧ (endSec.length = (256 : Nat)) ∧ (headerFormat
      (slice endSec (0 : Nat) (128 : Nat)) = none) ∧ (leAt endSec (6 : Nat) (1 : Nat) = (15 : Nat)) ∧ (leAt endSec (128 : Nat)
      (4 : Nat) = (1279869268 : Nat)) ∧ (BitVec.ofNat (32 : Nat) (leAt endSec (132 : Nat) (4 : Nat)) = crc32c (slice endSec (0 :
      Nat) (128 : Nat))) ∧ (at156.dev.cfg.fence = false) ∧ (at156.dev.cfg.waiting = []) ∧ (at156.dev.cfg.clearing = false) ∧
      (at156.dev.cfg.any = true)) ∧
    ((at152.live = true) ∧ ((fl endSec).path = at152.dev.get Reg.CFG_CTL_path) ∧ (Option.map (fun x => x.fst)
      (at152.dev.feedTaken (fl endSec)) = some endSec) ∧ (at152.dev.get Reg.CFG_STATUS_state = (2 : Nat)) ∧
      (at152.dev.cfg.started = true) ∧ (at152.dev.cfg.reading = Reading.none) ∧ (endSec.length = (256 : Nat)) ∧ (headerFormat
      (slice endSec (0 : Nat) (128 : Nat)) = none) ∧ (leAt endSec (6 : Nat) (1 : Nat) = (15 : Nat)) ∧ (leAt endSec (128 : Nat)
      (4 : Nat) = (1279869268 : Nat)) ∧ (BitVec.ofNat (32 : Nat) (leAt endSec (132 : Nat) (4 : Nat)) = crc32c (slice endSec (0 :
      Nat) (128 : Nat))) ∧ (at152.dev.cfg.fence = false) ∧ (at152.dev.cfg.waiting = []) ∧ (at152.dev.cfg.clearing = false) ∧
      (at152.dev.cfg.any = false)) ∧
    (((wS cRead (2 : Nat)).live = true) ∧ ((fl (wordsB [(0 : Nat)])).path = (wS cRead (2 : Nat)).dev.get Reg.CFG_CTL_path) ∧
      (Option.map (fun x => x.fst) ((wS cRead (2 : Nat)).dev.feedTaken (fl (wordsB [(0 : Nat)]))) = some (wordsB [(0 : Nat)])) ∧
      (¬((wS cRead (2 : Nat)).dev.cfg.reading = Reading.body ∧ (wS cRead (2 : Nat)).dev.cfg.fence = false ∧ (wS cRead (2 :
      Nat)).dev.cfg.offset + (128 : Nat) < (wS cRead (2 : Nat)).dev.cfg.length))) ∧
    (((wS (cPart (264 : Nat)) (2 : Nat)).live = true) ∧ (at157.path = (wS (cPart (264 : Nat)) (2 : Nat)).dev.get
      Reg.CFG_CTL_path) ∧ (Option.map (fun x => x.fst) ((wS (cPart (264 : Nat)) (2 : Nat)).dev.feedTaken at157) = some (wordsB
      [(2 : Nat), (5 : Nat), (6 : Nat)])) ∧ (((wS (cPart (264 : Nat)) (2 : Nat)).dev.cfg.reading = Reading.body ∧ (wS (cPart
      (264 : Nat)) (2 : Nat)).dev.cfg.fence = false ∧ (wS (cPart (264 : Nat)) (2 : Nat)).dev.cfg.offset + (128 : Nat) < (wS
      (cPart (264 : Nat)) (2 : Nat)).dev.cfg.length) ∧ (4 : Nat) ≤ (wordsB [(2 : Nat), (5 : Nat), (6 : Nat)]).length ∧ (wS
      (cPart (264 : Nat)) (2 : Nat)).dev.cfg.length < (wS (cPart (264 : Nat)) (2 : Nat)).dev.cfg.offset + (132 : Nat) + (4 :
      Nat) * (wS (cPart (264 : Nat)) (2 : Nat)).dev.packetWords ((fun i => leAt ((wS (cPart (264 : Nat)) (2 : Nat)).dev.underKey
      (wordsB [(2 : Nat), (5 : Nat), (6 : Nat)])) ((4 : Nat) * i) (4 : Nat)) (0 : Nat))) ∧ ((fun i => leAt ((wS (cPart (264 :
      Nat)) (2 : Nat)).dev.underKey (wordsB [(2 : Nat), (5 : Nat), (6 : Nat)])) ((4 : Nat) * i) (4 : Nat)) (0 : Nat) /
      (268435456 : Nat) = (0 : Nat))) ∧
    (((wS (cPart (264 : Nat)) (2 : Nat)).live = true) ∧ (at158.path = (wS (cPart (264 : Nat)) (2 : Nat)).dev.get
      Reg.CFG_CTL_path) ∧ (Option.map (fun x => x.fst) ((wS (cPart (264 : Nat)) (2 : Nat)).dev.feedTaken at158) = some at159) ∧
      (((wS (cPart (264 : Nat)) (2 : Nat)).dev.cfg.reading = Reading.body ∧ (wS (cPart (264 : Nat)) (2 : Nat)).dev.cfg.fence =
      false ∧ (wS (cPart (264 : Nat)) (2 : Nat)).dev.cfg.offset + (128 : Nat) < (wS (cPart (264 : Nat)) (2 :
      Nat)).dev.cfg.length) ∧ (4 : Nat) ≤ at159.length ∧ (wS (cPart (264 : Nat)) (2 : Nat)).dev.cfg.length < (wS (cPart (264 :
      Nat)) (2 : Nat)).dev.cfg.offset + (132 : Nat) + (4 : Nat) * (wS (cPart (264 : Nat)) (2 : Nat)).dev.packetWords ((fun i =>
      leAt ((wS (cPart (264 : Nat)) (2 : Nat)).dev.underKey at159) ((4 : Nat) * i) (4 : Nat)) (0 : Nat))) ∧ ((fun i => leAt ((wS
      (cPart (264 : Nat)) (2 : Nat)).dev.underKey at159) ((4 : Nat) * i) (4 : Nat)) (0 : Nat) / (268435456 : Nat) = (2 : Nat)))
      ∧
    (((wS (cPart (264 : Nat)) (2 : Nat)).live = true) ∧ (at160.path = (wS (cPart (264 : Nat)) (2 : Nat)).dev.get
      Reg.CFG_CTL_path) ∧ (Option.map (fun x => x.fst) ((wS (cPart (264 : Nat)) (2 : Nat)).dev.feedTaken at160) = some at161) ∧
      (((wS (cPart (264 : Nat)) (2 : Nat)).dev.cfg.reading = Reading.body ∧ (wS (cPart (264 : Nat)) (2 : Nat)).dev.cfg.fence =
      false ∧ (wS (cPart (264 : Nat)) (2 : Nat)).dev.cfg.offset + (128 : Nat) < (wS (cPart (264 : Nat)) (2 :
      Nat)).dev.cfg.length) ∧ (4 : Nat) ≤ at161.length ∧ (wS (cPart (264 : Nat)) (2 : Nat)).dev.cfg.length < (wS (cPart (264 :
      Nat)) (2 : Nat)).dev.cfg.offset + (132 : Nat) + (4 : Nat) * (wS (cPart (264 : Nat)) (2 : Nat)).dev.packetWords ((fun i =>
      leAt ((wS (cPart (264 : Nat)) (2 : Nat)).dev.underKey at161) ((4 : Nat) * i) (4 : Nat)) (0 : Nat))) ∧ ((fun i => leAt ((wS
      (cPart (264 : Nat)) (2 : Nat)).dev.underKey at161) ((4 : Nat) * i) (4 : Nat)) (0 : Nat) / (268435456 : Nat) = (3 : Nat)))
      ∧
    (((wS (cPart (264 : Nat)) (2 : Nat)).live = true) ∧ ((fl (wordsB [(1 : Nat), (5 : Nat)])).path = (wS (cPart (264 : Nat))
      (2 : Nat)).dev.get Reg.CFG_CTL_path) ∧ (Option.map (fun x => x.fst) ((wS (cPart (264 : Nat)) (2 : Nat)).dev.feedTaken (fl
      (wordsB [(1 : Nat), (5 : Nat)]))) = some (wordsB [(1 : Nat), (5 : Nat)])) ∧ (((wS (cPart (264 : Nat)) (2 :
      Nat)).dev.cfg.reading = Reading.body ∧ (wS (cPart (264 : Nat)) (2 : Nat)).dev.cfg.fence = false ∧ (wS (cPart (264 : Nat))
      (2 : Nat)).dev.cfg.offset + (128 : Nat) < (wS (cPart (264 : Nat)) (2 : Nat)).dev.cfg.length) ∧ (wordsB
      [(1 : Nat), (5 : Nat)]).length = (4 : Nat) + (4 : Nat) * (wS (cPart (264 : Nat)) (2 : Nat)).dev.packetWords ((fun i =>
      leAt ((wS (cPart (264 : Nat)) (2 : Nat)).dev.underKey (wordsB [(1 : Nat), (5 : Nat)])) ((4 : Nat) * i) (4 : Nat)) (0 :
      Nat)) ∧ (wS (cPart (264 : Nat)) (2 : Nat)).dev.cfg.offset + (128 : Nat) + (wordsB [(1 : Nat), (5 : Nat)]).length ≤ (wS
      (cPart (264 : Nat)) (2 : Nat)).dev.cfg.length) ∧ ((fun i => leAt ((wS (cPart (264 : Nat)) (2 : Nat)).dev.underKey (wordsB
      [(1 : Nat), (5 : Nat)])) ((4 : Nat) * i) (4 : Nat)) (0 : Nat) / (268435456 : Nat) = (0 : Nat))) ∧
    (((wS (cPart (512 : Nat)) (2 : Nat)).live = true) ∧ (at162.path = (wS (cPart (512 : Nat)) (2 : Nat)).dev.get
      Reg.CFG_CTL_path) ∧ (Option.map (fun x => x.fst) ((wS (cPart (512 : Nat)) (2 : Nat)).dev.feedTaken at162) = some at163) ∧
      (((wS (cPart (512 : Nat)) (2 : Nat)).dev.cfg.reading = Reading.body ∧ (wS (cPart (512 : Nat)) (2 : Nat)).dev.cfg.fence =
      false ∧ (wS (cPart (512 : Nat)) (2 : Nat)).dev.cfg.offset + (128 : Nat) < (wS (cPart (512 : Nat)) (2 :
      Nat)).dev.cfg.length) ∧ at163.length = (4 : Nat) + (4 : Nat) * (wS (cPart (512 : Nat)) (2 : Nat)).dev.packetWords ((fun i
      => leAt ((wS (cPart (512 : Nat)) (2 : Nat)).dev.underKey at163) ((4 : Nat) * i) (4 : Nat)) (0 : Nat)) ∧ (wS (cPart (512 :
      Nat)) (2 : Nat)).dev.cfg.offset + (128 : Nat) + at163.length ≤ (wS (cPart (512 : Nat)) (2 : Nat)).dev.cfg.length) ∧ ((fun
      i => leAt ((wS (cPart (512 : Nat)) (2 : Nat)).dev.underKey at163) ((4 : Nat) * i) (4 : Nat)) (0 : Nat) / (268435456 : Nat)
      = (1 : Nat)) ∧ ((fun i => leAt ((wS (cPart (512 : Nat)) (2 : Nat)).dev.underKey at163) ((4 : Nat) * i) (4 : Nat)) (0 :
      Nat) / (65536 : Nat) % (256 : Nat) = (1 : Nat)) ∧ ((fun i => leAt ((wS (cPart (512 : Nat)) (2 : Nat)).dev.underKey at163)
      ((4 : Nat) * i) (4 : Nat)) (0 : Nat) % (65536 : Nat) = (1 : Nat)) ∧ ((fun i => leAt ((wS (cPart (512 : Nat)) (2 :
      Nat)).dev.underKey at163) ((4 : Nat) * i) (4 : Nat)) (1 : Nat) < (16777216 : Nat))) ∧
    (((wS (cPart (512 : Nat)) (2 : Nat)).live = true) ∧ (at164.path = (wS (cPart (512 : Nat)) (2 : Nat)).dev.get
      Reg.CFG_CTL_path) ∧ (Option.map (fun x => x.fst) ((wS (cPart (512 : Nat)) (2 : Nat)).dev.feedTaken at164) = some at165) ∧
      (((wS (cPart (512 : Nat)) (2 : Nat)).dev.cfg.reading = Reading.body ∧ (wS (cPart (512 : Nat)) (2 : Nat)).dev.cfg.fence =
      false ∧ (wS (cPart (512 : Nat)) (2 : Nat)).dev.cfg.offset + (128 : Nat) < (wS (cPart (512 : Nat)) (2 :
      Nat)).dev.cfg.length) ∧ at165.length = (4 : Nat) + (4 : Nat) * (wS (cPart (512 : Nat)) (2 : Nat)).dev.packetWords ((fun i
      => leAt ((wS (cPart (512 : Nat)) (2 : Nat)).dev.underKey at165) ((4 : Nat) * i) (4 : Nat)) (0 : Nat)) ∧ (wS (cPart (512 :
      Nat)) (2 : Nat)).dev.cfg.offset + (128 : Nat) + at165.length ≤ (wS (cPart (512 : Nat)) (2 : Nat)).dev.cfg.length) ∧ ((fun
      i => leAt ((wS (cPart (512 : Nat)) (2 : Nat)).dev.underKey at165) ((4 : Nat) * i) (4 : Nat)) (0 : Nat) / (268435456 : Nat)
      = (1 : Nat)) ∧ ((fun i => leAt ((wS (cPart (512 : Nat)) (2 : Nat)).dev.underKey at165) ((4 : Nat) * i) (4 : Nat)) (0 :
      Nat) / (65536 : Nat) % (256 : Nat) = (1 : Nat)) ∧ ((fun i => leAt ((wS (cPart (512 : Nat)) (2 : Nat)).dev.underKey at165)
      ((4 : Nat) * i) (4 : Nat)) (0 : Nat) % (65536 : Nat) = (1 : Nat)) ∧ ((16777216 : Nat) ≤ (fun i => leAt ((wS (cPart (512 :
      Nat)) (2 : Nat)).dev.underKey at165) ((4 : Nat) * i) (4 : Nat)) (1 : Nat))) ∧
    (((wS (cPart (512 : Nat)) (2 : Nat)).live = true) ∧ (at166.path = (wS (cPart (512 : Nat)) (2 : Nat)).dev.get
      Reg.CFG_CTL_path) ∧ (Option.map (fun x => x.fst) ((wS (cPart (512 : Nat)) (2 : Nat)).dev.feedTaken at166) = some at167) ∧
      (((wS (cPart (512 : Nat)) (2 : Nat)).dev.cfg.reading = Reading.body ∧ (wS (cPart (512 : Nat)) (2 : Nat)).dev.cfg.fence =
      false ∧ (wS (cPart (512 : Nat)) (2 : Nat)).dev.cfg.offset + (128 : Nat) < (wS (cPart (512 : Nat)) (2 :
      Nat)).dev.cfg.length) ∧ at167.length = (4 : Nat) + (4 : Nat) * (wS (cPart (512 : Nat)) (2 : Nat)).dev.packetWords ((fun i
      => leAt ((wS (cPart (512 : Nat)) (2 : Nat)).dev.underKey at167) ((4 : Nat) * i) (4 : Nat)) (0 : Nat)) ∧ (wS (cPart (512 :
      Nat)) (2 : Nat)).dev.cfg.offset + (128 : Nat) + at167.length ≤ (wS (cPart (512 : Nat)) (2 : Nat)).dev.cfg.length) ∧ ((fun
      i => leAt ((wS (cPart (512 : Nat)) (2 : Nat)).dev.underKey at167) ((4 : Nat) * i) (4 : Nat)) (0 : Nat) / (268435456 : Nat)
      = (1 : Nat)) ∧ ((fun i => leAt ((wS (cPart (512 : Nat)) (2 : Nat)).dev.underKey at167) ((4 : Nat) * i) (4 : Nat)) (0 :
      Nat) / (65536 : Nat) % (256 : Nat) = (2 : Nat)) ∧ ((fun i => leAt ((wS (cPart (512 : Nat)) (2 : Nat)).dev.underKey at167)
      ((4 : Nat) * i) (4 : Nat)) (0 : Nat) % (65536 : Nat) = (1 : Nat))) ∧
    (((wS (cPart (512 : Nat)) (2 : Nat)).live = true) ∧ (at168.path = (wS (cPart (512 : Nat)) (2 : Nat)).dev.get
      Reg.CFG_CTL_path) ∧ (Option.map (fun x => x.fst) ((wS (cPart (512 : Nat)) (2 : Nat)).dev.feedTaken at168) = some at169) ∧
      (((wS (cPart (512 : Nat)) (2 : Nat)).dev.cfg.reading = Reading.body ∧ (wS (cPart (512 : Nat)) (2 : Nat)).dev.cfg.fence =
      false ∧ (wS (cPart (512 : Nat)) (2 : Nat)).dev.cfg.offset + (128 : Nat) < (wS (cPart (512 : Nat)) (2 :
      Nat)).dev.cfg.length) ∧ at169.length = (4 : Nat) + (4 : Nat) * (wS (cPart (512 : Nat)) (2 : Nat)).dev.packetWords ((fun i
      => leAt ((wS (cPart (512 : Nat)) (2 : Nat)).dev.underKey at169) ((4 : Nat) * i) (4 : Nat)) (0 : Nat)) ∧ (wS (cPart (512 :
      Nat)) (2 : Nat)).dev.cfg.offset + (128 : Nat) + at169.length ≤ (wS (cPart (512 : Nat)) (2 : Nat)).dev.cfg.length) ∧ ((fun
      i => leAt ((wS (cPart (512 : Nat)) (2 : Nat)).dev.underKey at169) ((4 : Nat) * i) (4 : Nat)) (0 : Nat) / (268435456 : Nat)
      = (1 : Nat)) ∧ ((fun i => leAt ((wS (cPart (512 : Nat)) (2 : Nat)).dev.underKey at169) ((4 : Nat) * i) (4 : Nat)) (0 :
      Nat) / (65536 : Nat) % (256 : Nat) = (3 : Nat)) ∧ ((fun i => leAt ((wS (cPart (512 : Nat)) (2 : Nat)).dev.underKey at169)
      ((4 : Nat) * i) (4 : Nat)) (0 : Nat) % (65536 : Nat) = (1 : Nat)) ∧ (crcValue (wS (cPart (512 : Nat)) (2 :
      Nat)).dev.cfg.check = BitVec.ofNat (32 : Nat) ((fun i => leAt ((wS (cPart (512 : Nat)) (2 : Nat)).dev.underKey at169) ((4
      : Nat) * i) (4 : Nat)) (1 : Nat)))) ∧
    (((wS (cPart (512 : Nat)) (2 : Nat)).live = true) ∧ (at170.path = (wS (cPart (512 : Nat)) (2 : Nat)).dev.get
      Reg.CFG_CTL_path) ∧ (Option.map (fun x => x.fst) ((wS (cPart (512 : Nat)) (2 : Nat)).dev.feedTaken at170) = some at171) ∧
      (((wS (cPart (512 : Nat)) (2 : Nat)).dev.cfg.reading = Reading.body ∧ (wS (cPart (512 : Nat)) (2 : Nat)).dev.cfg.fence =
      false ∧ (wS (cPart (512 : Nat)) (2 : Nat)).dev.cfg.offset + (128 : Nat) < (wS (cPart (512 : Nat)) (2 :
      Nat)).dev.cfg.length) ∧ at171.length = (4 : Nat) + (4 : Nat) * (wS (cPart (512 : Nat)) (2 : Nat)).dev.packetWords ((fun i
      => leAt ((wS (cPart (512 : Nat)) (2 : Nat)).dev.underKey at171) ((4 : Nat) * i) (4 : Nat)) (0 : Nat)) ∧ (wS (cPart (512 :
      Nat)) (2 : Nat)).dev.cfg.offset + (128 : Nat) + at171.length ≤ (wS (cPart (512 : Nat)) (2 : Nat)).dev.cfg.length) ∧ ((fun
      i => leAt ((wS (cPart (512 : Nat)) (2 : Nat)).dev.underKey at171) ((4 : Nat) * i) (4 : Nat)) (0 : Nat) / (268435456 : Nat)
      = (1 : Nat)) ∧ ((fun i => leAt ((wS (cPart (512 : Nat)) (2 : Nat)).dev.underKey at171) ((4 : Nat) * i) (4 : Nat)) (0 :
      Nat) / (65536 : Nat) % (256 : Nat) = (3 : Nat)) ∧ ((fun i => leAt ((wS (cPart (512 : Nat)) (2 : Nat)).dev.underKey at171)
      ((4 : Nat) * i) (4 : Nat)) (0 : Nat) % (65536 : Nat) = (1 : Nat)) ∧ (crcValue (wS (cPart (512 : Nat)) (2 :
      Nat)).dev.cfg.check ≠ BitVec.ofNat (32 : Nat) ((fun i => leAt ((wS (cPart (512 : Nat)) (2 : Nat)).dev.underKey at171) ((4
      : Nat) * i) (4 : Nat)) (1 : Nat)))) ∧
    ((at172.live = true) ∧ (at173.path = at172.dev.get Reg.CFG_CTL_path) ∧ (Option.map (fun x => x.fst) (at172.dev.feedTaken
      at173) = some at174) ∧ ((at172.dev.cfg.reading = Reading.body ∧ at172.dev.cfg.fence = false ∧ at172.dev.cfg.offset + (128
      : Nat) < at172.dev.cfg.length) ∧ at174.length = (4 : Nat) + (4 : Nat) * at172.dev.packetWords ((fun i => leAt
      (at172.dev.underKey at174) ((4 : Nat) * i) (4 : Nat)) (0 : Nat)) ∧ at172.dev.cfg.offset + (128 : Nat) + at174.length ≤
      at172.dev.cfg.length) ∧ ((fun i => leAt (at172.dev.underKey at174) ((4 : Nat) * i) (4 : Nat)) (0 : Nat) / (268435456 :
      Nat) = (1 : Nat)) ∧ ((fun i => leAt (at172.dev.underKey at174) ((4 : Nat) * i) (4 : Nat)) (0 : Nat) / (65536 : Nat) % (256
      : Nat) = (4 : Nat)) ∧ ((fun i => leAt (at172.dev.underKey at174) ((4 : Nat) * i) (4 : Nat)) (0 : Nat) % (65536 : Nat) = (1
      : Nat)) ∧ ((fun i => leAt (at172.dev.underKey at174) ((4 : Nat) * i) (4 : Nat)) (1 : Nat) = (1 : Nat)) ∧
      (¬(at172.dev.cfg.waiting = [] ∧ at172.dev.writersReady = true))) ∧
    (((wS (cPart (512 : Nat)) (2 : Nat)).live = true) ∧ (at173.path = (wS (cPart (512 : Nat)) (2 : Nat)).dev.get
      Reg.CFG_CTL_path) ∧ (Option.map (fun x => x.fst) ((wS (cPart (512 : Nat)) (2 : Nat)).dev.feedTaken at173) = some at174) ∧
      (((wS (cPart (512 : Nat)) (2 : Nat)).dev.cfg.reading = Reading.body ∧ (wS (cPart (512 : Nat)) (2 : Nat)).dev.cfg.fence =
      false ∧ (wS (cPart (512 : Nat)) (2 : Nat)).dev.cfg.offset + (128 : Nat) < (wS (cPart (512 : Nat)) (2 :
      Nat)).dev.cfg.length) ∧ at174.length = (4 : Nat) + (4 : Nat) * (wS (cPart (512 : Nat)) (2 : Nat)).dev.packetWords ((fun i
      => leAt ((wS (cPart (512 : Nat)) (2 : Nat)).dev.underKey at174) ((4 : Nat) * i) (4 : Nat)) (0 : Nat)) ∧ (wS (cPart (512 :
      Nat)) (2 : Nat)).dev.cfg.offset + (128 : Nat) + at174.length ≤ (wS (cPart (512 : Nat)) (2 : Nat)).dev.cfg.length) ∧ ((fun
      i => leAt ((wS (cPart (512 : Nat)) (2 : Nat)).dev.underKey at174) ((4 : Nat) * i) (4 : Nat)) (0 : Nat) / (268435456 : Nat)
      = (1 : Nat)) ∧ ((fun i => leAt ((wS (cPart (512 : Nat)) (2 : Nat)).dev.underKey at174) ((4 : Nat) * i) (4 : Nat)) (0 :
      Nat) / (65536 : Nat) % (256 : Nat) = (4 : Nat)) ∧ ((fun i => leAt ((wS (cPart (512 : Nat)) (2 : Nat)).dev.underKey at174)
      ((4 : Nat) * i) (4 : Nat)) (0 : Nat) % (65536 : Nat) = (1 : Nat)) ∧ ((fun i => leAt ((wS (cPart (512 : Nat)) (2 :
      Nat)).dev.underKey at174) ((4 : Nat) * i) (4 : Nat)) (1 : Nat) = (1 : Nat)) ∧ ((wS (cPart (512 : Nat)) (2 :
      Nat)).dev.cfg.waiting = [] ∧ (wS (cPart (512 : Nat)) (2 : Nat)).dev.writersReady = true)) ∧
    ((at172.live = true) ∧ (at175.path = at172.dev.get Reg.CFG_CTL_path) ∧ (Option.map (fun x => x.fst) (at172.dev.feedTaken
      at175) = some at176) ∧ ((at172.dev.cfg.reading = Reading.body ∧ at172.dev.cfg.fence = false ∧ at172.dev.cfg.offset + (128
      : Nat) < at172.dev.cfg.length) ∧ at176.length = (4 : Nat) + (4 : Nat) * at172.dev.packetWords ((fun i => leAt
      (at172.dev.underKey at176) ((4 : Nat) * i) (4 : Nat)) (0 : Nat)) ∧ at172.dev.cfg.offset + (128 : Nat) + at176.length ≤
      at172.dev.cfg.length) ∧ ((fun i => leAt (at172.dev.underKey at176) ((4 : Nat) * i) (4 : Nat)) (0 : Nat) / (268435456 :
      Nat) = (1 : Nat)) ∧ ((fun i => leAt (at172.dev.underKey at176) ((4 : Nat) * i) (4 : Nat)) (0 : Nat) / (65536 : Nat) % (256
      : Nat) = (4 : Nat)) ∧ ((fun i => leAt (at172.dev.underKey at176) ((4 : Nat) * i) (4 : Nat)) (0 : Nat) % (65536 : Nat) = (1
      : Nat)) ∧ ((fun i => leAt (at172.dev.underKey at176) ((4 : Nat) * i) (4 : Nat)) (1 : Nat) = (2 : Nat)) ∧
      (¬(at172.dev.cfg.waiting = [] ∧ at172.dev.writersReady = true))) ∧
    (((wS (cPart (512 : Nat)) (2 : Nat)).live = true) ∧ (at175.path = (wS (cPart (512 : Nat)) (2 : Nat)).dev.get
      Reg.CFG_CTL_path) ∧ (Option.map (fun x => x.fst) ((wS (cPart (512 : Nat)) (2 : Nat)).dev.feedTaken at175) = some at176) ∧
      (((wS (cPart (512 : Nat)) (2 : Nat)).dev.cfg.reading = Reading.body ∧ (wS (cPart (512 : Nat)) (2 : Nat)).dev.cfg.fence =
      false ∧ (wS (cPart (512 : Nat)) (2 : Nat)).dev.cfg.offset + (128 : Nat) < (wS (cPart (512 : Nat)) (2 :
      Nat)).dev.cfg.length) ∧ at176.length = (4 : Nat) + (4 : Nat) * (wS (cPart (512 : Nat)) (2 : Nat)).dev.packetWords ((fun i
      => leAt ((wS (cPart (512 : Nat)) (2 : Nat)).dev.underKey at176) ((4 : Nat) * i) (4 : Nat)) (0 : Nat)) ∧ (wS (cPart (512 :
      Nat)) (2 : Nat)).dev.cfg.offset + (128 : Nat) + at176.length ≤ (wS (cPart (512 : Nat)) (2 : Nat)).dev.cfg.length) ∧ ((fun
      i => leAt ((wS (cPart (512 : Nat)) (2 : Nat)).dev.underKey at176) ((4 : Nat) * i) (4 : Nat)) (0 : Nat) / (268435456 : Nat)
      = (1 : Nat)) ∧ ((fun i => leAt ((wS (cPart (512 : Nat)) (2 : Nat)).dev.underKey at176) ((4 : Nat) * i) (4 : Nat)) (0 :
      Nat) / (65536 : Nat) % (256 : Nat) = (4 : Nat)) ∧ ((fun i => leAt ((wS (cPart (512 : Nat)) (2 : Nat)).dev.underKey at176)
      ((4 : Nat) * i) (4 : Nat)) (0 : Nat) % (65536 : Nat) = (1 : Nat)) ∧ ((fun i => leAt ((wS (cPart (512 : Nat)) (2 :
      Nat)).dev.underKey at176) ((4 : Nat) * i) (4 : Nat)) (1 : Nat) = (2 : Nat)) ∧ ((wS (cPart (512 : Nat)) (2 :
      Nat)).dev.cfg.waiting = [] ∧ (wS (cPart (512 : Nat)) (2 : Nat)).dev.writersReady = true)) ∧
    (((wS (cPart (512 : Nat)) (2 : Nat)).live = true) ∧ (at177.path = (wS (cPart (512 : Nat)) (2 : Nat)).dev.get
      Reg.CFG_CTL_path) ∧ (Option.map (fun x => x.fst) ((wS (cPart (512 : Nat)) (2 : Nat)).dev.feedTaken at177) = some at178) ∧
      (((wS (cPart (512 : Nat)) (2 : Nat)).dev.cfg.reading = Reading.body ∧ (wS (cPart (512 : Nat)) (2 : Nat)).dev.cfg.fence =
      false ∧ (wS (cPart (512 : Nat)) (2 : Nat)).dev.cfg.offset + (128 : Nat) < (wS (cPart (512 : Nat)) (2 :
      Nat)).dev.cfg.length) ∧ at178.length = (4 : Nat) + (4 : Nat) * (wS (cPart (512 : Nat)) (2 : Nat)).dev.packetWords ((fun i
      => leAt ((wS (cPart (512 : Nat)) (2 : Nat)).dev.underKey at178) ((4 : Nat) * i) (4 : Nat)) (0 : Nat)) ∧ (wS (cPart (512 :
      Nat)) (2 : Nat)).dev.cfg.offset + (128 : Nat) + at178.length ≤ (wS (cPart (512 : Nat)) (2 : Nat)).dev.cfg.length) ∧ ((fun
      i => leAt ((wS (cPart (512 : Nat)) (2 : Nat)).dev.underKey at178) ((4 : Nat) * i) (4 : Nat)) (0 : Nat) / (268435456 : Nat)
      = (1 : Nat)) ∧ ((fun i => leAt ((wS (cPart (512 : Nat)) (2 : Nat)).dev.underKey at178) ((4 : Nat) * i) (4 : Nat)) (0 :
      Nat) / (65536 : Nat) % (256 : Nat) = (4 : Nat)) ∧ ((fun i => leAt ((wS (cPart (512 : Nat)) (2 : Nat)).dev.underKey at178)
      ((4 : Nat) * i) (4 : Nat)) (0 : Nat) % (65536 : Nat) = (1 : Nat)) ∧ ((fun i => leAt ((wS (cPart (512 : Nat)) (2 :
      Nat)).dev.underKey at178) ((4 : Nat) * i) (4 : Nat)) (1 : Nat) = (3 : Nat))) ∧
    ((at179.live = true) ∧ ((fl frB).path = at179.dev.get Reg.CFG_CTL_path) ∧ (Option.map (fun x => x.fst)
      (at179.dev.feedTaken (fl frB)) = some frB) ∧ ((at179.dev.cfg.reading = Reading.body ∧ at179.dev.cfg.fence = false ∧
      at179.dev.cfg.offset + (128 : Nat) < at179.dev.cfg.length) ∧ frB.length = (4 : Nat) + (4 : Nat) * at179.dev.packetWords
      ((fun i => leAt (at179.dev.underKey frB) ((4 : Nat) * i) (4 : Nat)) (0 : Nat)) ∧ at179.dev.cfg.offset + (128 : Nat) +
      frB.length ≤ at179.dev.cfg.length) ∧ ((fun i => leAt (at179.dev.underKey frB) ((4 : Nat) * i) (4 : Nat)) (0 : Nat) /
      (268435456 : Nat) = (2 : Nat)) ∧ (at179.dev.cfg.burst = (1 : Nat)) ∧ (at179.dev.frameAllowed at179.dev.cfg.address =
      false)) ∧
    ((at180.live = true) ∧ ((fl frB).path = at180.dev.get Reg.CFG_CTL_path) ∧ (Option.map (fun x => x.fst)
      (at180.dev.feedTaken (fl frB)) = some frB) ∧ ((at180.dev.cfg.reading = Reading.body ∧ at180.dev.cfg.fence = false ∧
      at180.dev.cfg.offset + (128 : Nat) < at180.dev.cfg.length) ∧ frB.length = (4 : Nat) + (4 : Nat) * at180.dev.packetWords
      ((fun i => leAt (at180.dev.underKey frB) ((4 : Nat) * i) (4 : Nat)) (0 : Nat)) ∧ at180.dev.cfg.offset + (128 : Nat) +
      frB.length ≤ at180.dev.cfg.length) ∧ ((fun i => leAt (at180.dev.underKey frB) ((4 : Nat) * i) (4 : Nat)) (0 : Nat) /
      (268435456 : Nat) = (2 : Nat)) ∧ (at180.dev.cfg.burst = (1 : Nat)) ∧ (at180.dev.frameAllowed at180.dev.cfg.address = true)
      ∧ (¬(at180.dev.cfg.waiting = [] ∧ at180.dev.writersReady = true))) ∧
    (((wS (cPart (8192 : Nat)) (2 : Nat)).live = true) ∧ ((fl frB).path = (wS (cPart (8192 : Nat)) (2 : Nat)).dev.get
      Reg.CFG_CTL_path) ∧ (Option.map (fun x => x.fst) ((wS (cPart (8192 : Nat)) (2 : Nat)).dev.feedTaken (fl frB)) = some frB)
      ∧ (((wS (cPart (8192 : Nat)) (2 : Nat)).dev.cfg.reading = Reading.body ∧ (wS (cPart (8192 : Nat)) (2 : Nat)).dev.cfg.fence
      = false ∧ (wS (cPart (8192 : Nat)) (2 : Nat)).dev.cfg.offset + (128 : Nat) < (wS (cPart (8192 : Nat)) (2 :
      Nat)).dev.cfg.length) ∧ frB.length = (4 : Nat) + (4 : Nat) * (wS (cPart (8192 : Nat)) (2 : Nat)).dev.packetWords ((fun i
      => leAt ((wS (cPart (8192 : Nat)) (2 : Nat)).dev.underKey frB) ((4 : Nat) * i) (4 : Nat)) (0 : Nat)) ∧ (wS (cPart (8192 :
      Nat)) (2 : Nat)).dev.cfg.offset + (128 : Nat) + frB.length ≤ (wS (cPart (8192 : Nat)) (2 : Nat)).dev.cfg.length) ∧ ((fun i
      => leAt ((wS (cPart (8192 : Nat)) (2 : Nat)).dev.underKey frB) ((4 : Nat) * i) (4 : Nat)) (0 : Nat) / (268435456 : Nat) =
      (2 : Nat)) ∧ ((wS (cPart (8192 : Nat)) (2 : Nat)).dev.cfg.burst = (1 : Nat)) ∧ ((wS (cPart (8192 : Nat)) (2 :
      Nat)).dev.frameAllowed (wS (cPart (8192 : Nat)) (2 : Nat)).dev.cfg.address = true) ∧ ((wS (cPart (8192 : Nat)) (2 :
      Nat)).dev.cfg.waiting = [] ∧ (wS (cPart (8192 : Nat)) (2 : Nat)).dev.writersReady = true) ∧ ((wS (cPart (8192 : Nat)) (2 :
      Nat)).dev.cfg.address % (16 : Nat) = (0 : Nat)) ∧ ((wS (cPart (8192 : Nat)) (2 : Nat)).dev.on (Reg.GLEAN_CTL_golden_en
      (frameDie (wS (cPart (8192 : Nat)) (2 : Nat)).dev.cfg.address)) = false)) ∧
    ((at181.live = true) ∧ (at158.path = at181.dev.get Reg.CFG_CTL_path) ∧ (Option.map (fun x => x.fst) (at181.dev.feedTaken
      at158) = some at159) ∧ ((at181.dev.cfg.reading = Reading.body ∧ at181.dev.cfg.fence = false ∧ at181.dev.cfg.offset + (128
      : Nat) < at181.dev.cfg.length) ∧ at159.length = (4 : Nat) + (4 : Nat) * at181.dev.packetWords ((fun i => leAt
      (at181.dev.underKey at159) ((4 : Nat) * i) (4 : Nat)) (0 : Nat)) ∧ at181.dev.cfg.offset + (128 : Nat) + at159.length ≤
      at181.dev.cfg.length) ∧ ((fun i => leAt (at181.dev.underKey at159) ((4 : Nat) * i) (4 : Nat)) (0 : Nat) / (268435456 :
      Nat) = (2 : Nat)) ∧ (at181.dev.cfg.burst = (0 : Nat))) ∧
    (((wS (cPart (8192 : Nat)) (2 : Nat)).live = true) ∧ (at182.path = (wS (cPart (8192 : Nat)) (2 : Nat)).dev.get
      Reg.CFG_CTL_path) ∧ (Option.map (fun x => x.fst) ((wS (cPart (8192 : Nat)) (2 : Nat)).dev.feedTaken at182) = some at183) ∧
      (((wS (cPart (8192 : Nat)) (2 : Nat)).dev.cfg.reading = Reading.body ∧ (wS (cPart (8192 : Nat)) (2 : Nat)).dev.cfg.fence =
      false ∧ (wS (cPart (8192 : Nat)) (2 : Nat)).dev.cfg.offset + (128 : Nat) < (wS (cPart (8192 : Nat)) (2 :
      Nat)).dev.cfg.length) ∧ at183.length = (4 : Nat) + (4 : Nat) * (wS (cPart (8192 : Nat)) (2 : Nat)).dev.packetWords ((fun i
      => leAt ((wS (cPart (8192 : Nat)) (2 : Nat)).dev.underKey at183) ((4 : Nat) * i) (4 : Nat)) (0 : Nat)) ∧ (wS (cPart (8192
      : Nat)) (2 : Nat)).dev.cfg.offset + (128 : Nat) + at183.length ≤ (wS (cPart (8192 : Nat)) (2 : Nat)).dev.cfg.length) ∧
      ((fun i => leAt ((wS (cPart (8192 : Nat)) (2 : Nat)).dev.underKey at183) ((4 : Nat) * i) (4 : Nat)) (0 : Nat) / (268435456
      : Nat) = (3 : Nat)) ∧ ((fun i => leAt ((wS (cPart (8192 : Nat)) (2 : Nat)).dev.underKey at183) ((4 : Nat) * i) (4 : Nat))
      (0 : Nat) % (65536 : Nat) = (1 : Nat)) ∧ ((wS (cPart (8192 : Nat)) (2 : Nat)).dev.devWriteOk ((fun i => leAt ((wS (cPart
      (8192 : Nat)) (2 : Nat)).dev.underKey at183) ((4 : Nat) * i) (4 : Nat)) (1 : Nat)) = false)) ∧
    ((at184.live = true) ∧ (at185.path = at184.dev.get Reg.CFG_CTL_path) ∧ (Option.map (fun x => x.fst) (at184.dev.feedTaken
      at185) = some at186) ∧ ((at184.dev.cfg.reading = Reading.body ∧ at184.dev.cfg.fence = false ∧ at184.dev.cfg.offset + (128
      : Nat) < at184.dev.cfg.length) ∧ at186.length = (4 : Nat) + (4 : Nat) * at184.dev.packetWords ((fun i => leAt
      (at184.dev.underKey at186) ((4 : Nat) * i) (4 : Nat)) (0 : Nat)) ∧ at184.dev.cfg.offset + (128 : Nat) + at186.length ≤
      at184.dev.cfg.length) ∧ ((fun i => leAt (at184.dev.underKey at186) ((4 : Nat) * i) (4 : Nat)) (0 : Nat) / (268435456 :
      Nat) = (3 : Nat)) ∧ ((fun i => leAt (at184.dev.underKey at186) ((4 : Nat) * i) (4 : Nat)) (0 : Nat) % (65536 : Nat) = (1 :
      Nat)) ∧ (at184.dev.cfg.kind = (1 : Nat)) ∧ (at184.dev.running = false) ∧ ((fun i => leAt (at184.dev.underKey at186) ((4 :
      Nat) * i) (4 : Nat)) (1 : Nat) = Reg.SIO_PIN_CTL ↑p63)) ∧
    (((wS (cPart (8192 : Nat)) (2 : Nat)).live = true) ∧ (at187.path = (wS (cPart (8192 : Nat)) (2 : Nat)).dev.get
      Reg.CFG_CTL_path) ∧ (Option.map (fun x => x.fst) ((wS (cPart (8192 : Nat)) (2 : Nat)).dev.feedTaken at187) = some at188) ∧
      (((wS (cPart (8192 : Nat)) (2 : Nat)).dev.cfg.reading = Reading.body ∧ (wS (cPart (8192 : Nat)) (2 : Nat)).dev.cfg.fence =
      false ∧ (wS (cPart (8192 : Nat)) (2 : Nat)).dev.cfg.offset + (128 : Nat) < (wS (cPart (8192 : Nat)) (2 :
      Nat)).dev.cfg.length) ∧ at188.length = (4 : Nat) + (4 : Nat) * (wS (cPart (8192 : Nat)) (2 : Nat)).dev.packetWords ((fun i
      => leAt ((wS (cPart (8192 : Nat)) (2 : Nat)).dev.underKey at188) ((4 : Nat) * i) (4 : Nat)) (0 : Nat)) ∧ (wS (cPart (8192
      : Nat)) (2 : Nat)).dev.cfg.offset + (128 : Nat) + at188.length ≤ (wS (cPart (8192 : Nat)) (2 : Nat)).dev.cfg.length) ∧ ((4
      : Nat) ≤ (fun i => leAt ((wS (cPart (8192 : Nat)) (2 : Nat)).dev.underKey at188) ((4 : Nat) * i) (4 : Nat)) (0 : Nat) /
      (268435456 : Nat))) ∧
    (((wS cRead (2 : Nat)).live = true) ∧ ((fl hBad).path = (wS cRead (2 : Nat)).dev.get Reg.CFG_CTL_path) ∧ (Option.map (fun
      x => x.fst) ((wS cRead (2 : Nat)).dev.feedTaken (fl hBad)) = some hBad) ∧ ((wS cRead (2 : Nat)).dev.cfg.reading =
      Reading.none)) ∧
    ((at189.live = true) ∧ (at190.path = at189.dev.get Reg.CFG_CTL_path) ∧ (Option.map (fun x => x.fst) (at189.dev.feedTaken
      at190) = some at191) ∧ (at189.dev.cfg.reading = Reading.skip) ∧ (leAt at191 (0 : Nat) (4 : Nat) = (1279869268 : Nat))) ∧
    ((at189.live = true) ∧ (at192.path = at189.dev.get Reg.CFG_CTL_path) ∧ (Option.map (fun x => x.fst) (at189.dev.feedTaken
      at192) = some at193) ∧ (at189.dev.cfg.reading = Reading.skip) ∧ (leAt at193 (0 : Nat) (4 : Nat) ≠ (1279869268 : Nat))) ∧
    ((at194.live = true) ∧ ((fl hBad).path = at194.dev.get Reg.CFG_CTL_path) ∧ (Option.map (fun x => x.fst)
      (at194.dev.feedTaken (fl hBad)) = some hBad) ∧ (at194.dev.cfg.reading = Reading.body) ∧ (at194.dev.cfg.fence = true ∨
      at194.dev.cfg.waiting ≠ [] ∨ at194.dev.cfg.clearing = true)) ∧
    (((wS (cPart (256 : Nat)) (4 : Nat)).live = true) ∧ ((fl hBad).path = (wS (cPart (256 : Nat)) (4 : Nat)).dev.get
      Reg.CFG_CTL_path) ∧ (Option.map (fun x => x.fst) ((wS (cPart (256 : Nat)) (4 : Nat)).dev.feedTaken (fl hBad)) = some hBad)
      ∧ ((wS (cPart (256 : Nat)) (4 : Nat)).dev.cfg.reading = Reading.body) ∧ ((wS (cPart (256 : Nat)) (4 : Nat)).dev.cfg.fence
      = false) ∧ ((wS (cPart (256 : Nat)) (4 : Nat)).dev.cfg.waiting = []) ∧ ((wS (cPart (256 : Nat)) (4 :
      Nat)).dev.cfg.clearing = false) ∧ ((wS (cPart (256 : Nat)) (4 : Nat)).dev.cfg.offset = (wS (cPart (256 : Nat)) (4 :
      Nat)).dev.cfg.length - (128 : Nat)) ∧ ((wS (cPart (256 : Nat)) (4 : Nat)).dev.trailerChecks hBad = some ((1 : Nat), (0 :
      Nat)))) ∧
    ((at195.live = true) ∧ ((fl (trl [])).path = at195.dev.get Reg.CFG_CTL_path) ∧ (Option.map (fun x => x.fst)
      (at195.dev.feedTaken (fl (trl []))) = some (trl [])) ∧ (at195.dev.cfg.reading = Reading.body) ∧ (at195.dev.cfg.fence =
      false) ∧ (at195.dev.cfg.waiting = []) ∧ (at195.dev.cfg.clearing = false) ∧ (at195.dev.cfg.offset = at195.dev.cfg.length -
      (128 : Nat)) ∧ (at195.dev.trailerChecks (trl []) = none) ∧ (at195.dev.cfg.kind = (15 : Nat)) ∧ (at195.dev.cfg.any = true))
      ∧
    ((at196.live = true) ∧ ((fl (trl [])).path = at196.dev.get Reg.CFG_CTL_path) ∧ (Option.map (fun x => x.fst)
      (at196.dev.feedTaken (fl (trl []))) = some (trl [])) ∧ (at196.dev.cfg.reading = Reading.body) ∧ (at196.dev.cfg.fence =
      false) ∧ (at196.dev.cfg.waiting = []) ∧ (at196.dev.cfg.clearing = false) ∧ (at196.dev.cfg.offset = at196.dev.cfg.length -
      (128 : Nat)) ∧ (at196.dev.trailerChecks (trl []) = none) ∧ (at196.dev.cfg.kind = (1 : Nat))) ∧
    ((at197.live = true) ∧ ((fl (trl [])).path = at197.dev.get Reg.CFG_CTL_path) ∧ (Option.map (fun x => x.fst)
      (at197.dev.feedTaken (fl (trl []))) = some (trl [])) ∧ (at197.dev.cfg.reading = Reading.body) ∧ (at197.dev.cfg.fence =
      false) ∧ (at197.dev.cfg.waiting = []) ∧ (at197.dev.cfg.clearing = false) ∧ (at197.dev.cfg.offset = at197.dev.cfg.length -
      (128 : Nat)) ∧ (at197.dev.trailerChecks (trl []) = none) ∧ (at197.dev.cfg.kind = (2 : Nat))) ∧
    ((at198.live = true) ∧ (at198.dev.cfg.waiting = []) ∧ (at198.dev.cfg.fence = true) ∧ (at198.dev.cfg.clearing = false)) ∧
    (((wS (cBody (8192 : Nat)) (2 : Nat)).live = true) ∧ ((wS (cBody (8192 : Nat)) (2 : Nat)).dev.cfg.fence = false) ∧ ((wS
      (cBody (8192 : Nat)) (2 : Nat)).dev.cfg.waiting = [])) ∧
    ((at199.live = true) ∧ (at199.dev.cfg.clearing = true) ∧ (at199.dev.cfg.waiting = [])) ∧
    (((wS (cBody (8192 : Nat)) (2 : Nat)).live = true) ∧ ((wS (cBody (8192 : Nat)) (2 : Nat)).dev.cfg.clearing = false)) := by
  and_intros <;> decide +kernel

theorem test_meets_StoredStateIntegrity :
    ((at200.live = true) ∧ (at200.dev.on (Reg.GLEAN_CTL_pause ↑c11) = true ∨ at200.dev.halted = true ∨ at200.dev.heldDie ↑c11
      = true)) ∧
    ((wAll.live = true) ∧ (wAll.dev.on (Reg.GLEAN_CTL_pause ↑c11) = false) ∧ (wAll.dev.halted = false) ∧ (wAll.dev.heldDie
      ↑c11 = false) ∧ (wAll.dev.gleanNext ↑c11 (0 : Nat) = none)) ∧
    ((at201.live = true) ∧ (at201.dev.on (Reg.GLEAN_CTL_pause ↑c11) = false) ∧ (at201.dev.halted = false) ∧ (at201.dev.heldDie
      ↑c11 = false) ∧ (at201.dev.gleanNext ↑c11 (0 : Nat) = some (0 : Nat)) ∧ ((at201.dev.gleanNext (↑c11) (at201.dev.get
      (Reg.GLEAN_POS_frame ↑c11))).getD (0 : Nat) = (0 : Nat)) ∧ ((at201.dev.mark (frameBase (frameOfIndex ↑c11 (0 :
      Nat)))).poison = false) ∧ (toggleAll (at201.dev.mark (frameBase (frameOfIndex ↑c11 (0 : Nat)))).flips [(5 : Nat)] = [])) ∧
    ((at203.live = true) ∧ (at203.dev.on (Reg.GLEAN_CTL_pause ↑c11) = false) ∧ (at203.dev.halted = false) ∧ (at203.dev.heldDie
      ↑c11 = false) ∧ (at203.dev.gleanNext ↑c11 (0 : Nat) = some (0 : Nat)) ∧ ((at203.dev.gleanNext (↑c11) (at203.dev.get
      (Reg.GLEAN_POS_frame ↑c11))).getD (0 : Nat) = (0 : Nat)) ∧ ((at203.dev.mark (frameBase (frameOfIndex ↑c11 (0 :
      Nat)))).poison = false) ∧ ((toggleAll (at203.dev.mark (frameBase (frameOfIndex ↑c11 (0 : Nat)))).flips [(5 : Nat)]).length
      = (1 : Nat)) ∧ (at203.dev.critEntry (frameField (frameOfIndex ↑c11 (0 : Nat))) = none)) ∧
    ((at205.live = true) ∧ (at205.dev.on (Reg.GLEAN_CTL_pause ↑c11) = false) ∧ (at205.dev.halted = false) ∧ (at205.dev.heldDie
      ↑c11 = false) ∧ (at205.dev.gleanNext ↑c11 (0 : Nat) = some (0 : Nat)) ∧ ((at205.dev.gleanNext (↑c11) (at205.dev.get
      (Reg.GLEAN_POS_frame ↑c11))).getD (0 : Nat) = (0 : Nat)) ∧ ((at205.dev.mark (frameBase (frameOfIndex ↑c11 (0 :
      Nat)))).poison = false) ∧ ((2 : Nat) ≤ (toggleAll (at205.dev.mark (frameBase (frameOfIndex ↑c11 (0 : Nat)))).flips
      [(7 : Nat)]).length) ∧ (at205.dev.on (Reg.GLEAN_CTL_golden_en ↑c11) = false)) ∧
    ((wAll.live = true) ∧ ((if ↑i11 < (12 : Nat) then (2 : Nat) else (3 : Nat)) ≤ ↑k2) ∧ (¬((12 : Nat) ≤ ↑i11 ∧ ↑k2 = (3 :
      Nat)))) ∧
    ((at206.live = true) ∧ (at206.dev.on (Reg.ERR_SCRUB_CTL_pause (dieSel ↑i15) ↑k3) = true ∨ at206.dev.halted = true ∨
      at206.dev.heldDie (dieSel ↑i15) = true)) ∧
    ((at207.live = true) ∧ (↑ks0 < if ↑i15 < (12 : Nat) then (2 : Nat) else (3 : Nat)) ∧ (at207.dev.on
      (Reg.ERR_SCRUB_CTL_pause (dieSel ↑i15) ↑ks0) = false) ∧ (at207.dev.halted = false) ∧ (at207.dev.heldDie (dieSel ↑i15) =
      false) ∧ (at207.dev.pwr.scrubFull = []) ∧ ((12 : Nat) ≤ ↑i15 → ↑ks0 ≠ (0 : Nat) → at207.dev.stackState ((2 : Nat) * (↑i15
      - (12 : Nat)) + (↑ks0 - (1 : Nat))) = (2 : Nat) ∧ (at207.dev.stack ((2 : Nat) * (↑i15 - (12 : Nat)) + (↑ks0 - (1 :
      Nat)))).unlocked = false) ∧ (at207.dev.scrubFind Dev.asleepAt ↑i15 ↑ks0 (0 : Nat) (scrubCount ↑i15 ↑ks0) = some (0 : Nat))
      ∧ ((at207.dev.scrubFind Dev.asleepAt (↑i15) (↑ks0) (at207.dev.get (Reg.ERR_SCRUB_POS_unit (dieSel ↑i15) ↑ks0)) (scrubCount
      ↑i15 ↑ks0)).getD (0 : Nat) = (0 : Nat)) ∧ (toggleAll (at207.dev.mark (if (12 : Nat) ≤ ↑i15 ∧ ↑ks0 = (0 : Nat) then
      at207.dev.granAt (at207.dev.scrubAddr ↑i15 ↑ks0 (0 : Nat)) else at207.dev.scrubAddr ↑i15 ↑ks0 (0 : Nat))).flips
      [(5 : Nat)] = []) ∧ ((at207.dev.mark (if (12 : Nat) ≤ ↑i15 ∧ ↑ks0 = (0 : Nat) then at207.dev.granAt (at207.dev.scrubAddr
      ↑i15 ↑ks0 (0 : Nat)) else at207.dev.scrubAddr ↑i15 ↑ks0 (0 : Nat))).poison = false) ∧ (¬(↑i15 < (12 : Nat) ∧ ↑ks0 = (0 :
      Nat))) ∧ (¬((12 : Nat) ≤ ↑i15 ∧ ↑ks0 ≠ (0 : Nat)))) ∧
    ((at209.live = true) ∧ (↑ks0 < if ↑i15 < (12 : Nat) then (2 : Nat) else (3 : Nat)) ∧ (at209.dev.on
      (Reg.ERR_SCRUB_CTL_pause (dieSel ↑i15) ↑ks0) = false) ∧ (at209.dev.halted = false) ∧ (at209.dev.heldDie (dieSel ↑i15) =
      false) ∧ (at209.dev.pwr.scrubFull = []) ∧ ((12 : Nat) ≤ ↑i15 → ↑ks0 ≠ (0 : Nat) → at209.dev.stackState ((2 : Nat) * (↑i15
      - (12 : Nat)) + (↑ks0 - (1 : Nat))) = (2 : Nat) ∧ (at209.dev.stack ((2 : Nat) * (↑i15 - (12 : Nat)) + (↑ks0 - (1 :
      Nat)))).unlocked = false) ∧ (at209.dev.scrubFind Dev.asleepAt ↑i15 ↑ks0 (0 : Nat) (scrubCount ↑i15 ↑ks0) = some (0 : Nat))
      ∧ ((at209.dev.scrubFind Dev.asleepAt (↑i15) (↑ks0) (at209.dev.get (Reg.ERR_SCRUB_POS_unit (dieSel ↑i15) ↑ks0)) (scrubCount
      ↑i15 ↑ks0)).getD (0 : Nat) = (0 : Nat)) ∧ ((toggleAll (at209.dev.mark (if (12 : Nat) ≤ ↑i15 ∧ ↑ks0 = (0 : Nat) then
      at209.dev.granAt (at209.dev.scrubAddr ↑i15 ↑ks0 (0 : Nat)) else at209.dev.scrubAddr ↑i15 ↑ks0 (0 : Nat))).flips
      [(5 : Nat)]).length = (1 : Nat)) ∧ ((at209.dev.mark (if (12 : Nat) ≤ ↑i15 ∧ ↑ks0 = (0 : Nat) then at209.dev.granAt
      (at209.dev.scrubAddr ↑i15 ↑ks0 (0 : Nat)) else at209.dev.scrubAddr ↑i15 ↑ks0 (0 : Nat))).poison = false) ∧ (¬(↑i15 < (12 :
      Nat) ∧ ↑ks0 = (0 : Nat))) ∧ (¬((12 : Nat) ≤ ↑i15 ∧ ↑ks0 ≠ (0 : Nat)))) ∧
    ((at210.live = true) ∧ (↑k1 < if ↑i11 < (12 : Nat) then (2 : Nat) else (3 : Nat)) ∧ (at210.dev.on (Reg.ERR_SCRUB_CTL_pause
      (dieSel ↑i11) ↑k1) = false) ∧ (at210.dev.halted = false) ∧ (at210.dev.heldDie (dieSel ↑i11) = false) ∧
      (at210.dev.pwr.scrubFull = []) ∧ ((12 : Nat) ≤ ↑i11 → ↑k1 ≠ (0 : Nat) → at210.dev.stackState ((2 : Nat) * (↑i11 - (12 :
      Nat)) + (↑k1 - (1 : Nat))) = (2 : Nat) ∧ (at210.dev.stack ((2 : Nat) * (↑i11 - (12 : Nat)) + (↑k1 - (1 : Nat)))).unlocked
      = false) ∧ (at210.dev.scrubFind Dev.asleepAt ↑i11 ↑k1 (0 : Nat) (scrubCount ↑i11 ↑k1) = some (0 : Nat)) ∧
      ((at210.dev.scrubFind Dev.asleepAt (↑i11) (↑k1) (at210.dev.get (Reg.ERR_SCRUB_POS_unit (dieSel ↑i11) ↑k1)) (scrubCount
      ↑i11 ↑k1)).getD (0 : Nat) = (0 : Nat)) ∧ ((2 : Nat) ≤ (toggleAll (at210.dev.mark (if (12 : Nat) ≤ ↑i11 ∧ ↑k1 = (0 : Nat)
      then at210.dev.granAt (at210.dev.scrubAddr ↑i11 ↑k1 (0 : Nat)) else at210.dev.scrubAddr ↑i11 ↑k1 (0 : Nat))).flips
      [(31 : Nat), (2 : Nat)]).length) ∧ (¬(↑i11 < (12 : Nat) ∧ ↑k1 = (0 : Nat))) ∧ (¬((12 : Nat) ≤ ↑i11 ∧ ↑k1 ≠ (0 : Nat)))) ∧
    (((wSet wAll hbmRdy).live = true) ∧ (↑k1 < if ↑i15 < (12 : Nat) then (2 : Nat) else (3 : Nat)) ∧ ((wSet wAll
      hbmRdy).dev.on (Reg.ERR_SCRUB_CTL_pause (dieSel ↑i15) ↑k1) = false) ∧ ((wSet wAll hbmRdy).dev.halted = false) ∧ ((wSet
      wAll hbmRdy).dev.heldDie (dieSel ↑i15) = false) ∧ ((wSet wAll hbmRdy).dev.pwr.scrubFull = []) ∧ ((12 : Nat) ≤ ↑i15 → ↑k1 ≠
      (0 : Nat) → (wSet wAll hbmRdy).dev.stackState ((2 : Nat) * (↑i15 - (12 : Nat)) + (↑k1 - (1 : Nat))) = (2 : Nat) ∧ ((wSet
      wAll hbmRdy).dev.stack ((2 : Nat) * (↑i15 - (12 : Nat)) + (↑k1 - (1 : Nat)))).unlocked = false) ∧ ((wSet wAll
      hbmRdy).dev.scrubFind Dev.asleepAt ↑i15 ↑k1 (0 : Nat) (scrubCount ↑i15 ↑k1) = some (0 : Nat)) ∧ (((wSet wAll
      hbmRdy).dev.scrubFind Dev.asleepAt (↑i15) (↑k1) ((wSet wAll hbmRdy).dev.get (Reg.ERR_SCRUB_POS_unit (dieSel ↑i15) ↑k1))
      (scrubCount ↑i15 ↑k1)).getD (0 : Nat) = (0 : Nat)) ∧ ((12 : Nat) ≤ ↑i15) ∧ (↑k1 ≠ (0 : Nat)) ∧ (((wSet wAll
      hbmRdy).dev.scrubFlips ↑i15 ↑k1 (0 : Nat) [(31 : Nat), (2 : Nat)]).burstBad (if (12 : Nat) ≤ ↑i15 ∧ ↑k1 = (0 : Nat) then
      (wSet wAll hbmRdy).dev.granAt ((wSet wAll hbmRdy).dev.scrubAddr ↑i15 ↑k1 (0 : Nat)) else (wSet wAll hbmRdy).dev.scrubAddr
      ↑i15 ↑k1 (0 : Nat)) = true)) ∧
    (((wSet wAll hbmRdy).live = true) ∧ (↑k1 < if ↑i15 < (12 : Nat) then (2 : Nat) else (3 : Nat)) ∧ ((wSet wAll
      hbmRdy).dev.on (Reg.ERR_SCRUB_CTL_pause (dieSel ↑i15) ↑k1) = false) ∧ ((wSet wAll hbmRdy).dev.halted = false) ∧ ((wSet
      wAll hbmRdy).dev.heldDie (dieSel ↑i15) = false) ∧ ((wSet wAll hbmRdy).dev.pwr.scrubFull = []) ∧ ((12 : Nat) ≤ ↑i15 → ↑k1 ≠
      (0 : Nat) → (wSet wAll hbmRdy).dev.stackState ((2 : Nat) * (↑i15 - (12 : Nat)) + (↑k1 - (1 : Nat))) = (2 : Nat) ∧ ((wSet
      wAll hbmRdy).dev.stack ((2 : Nat) * (↑i15 - (12 : Nat)) + (↑k1 - (1 : Nat)))).unlocked = false) ∧ ((wSet wAll
      hbmRdy).dev.scrubFind Dev.asleepAt ↑i15 ↑k1 (0 : Nat) (scrubCount ↑i15 ↑k1) = some (0 : Nat)) ∧ (((wSet wAll
      hbmRdy).dev.scrubFind Dev.asleepAt (↑i15) (↑k1) ((wSet wAll hbmRdy).dev.get (Reg.ERR_SCRUB_POS_unit (dieSel ↑i15) ↑k1))
      (scrubCount ↑i15 ↑k1)).getD (0 : Nat) = (0 : Nat)) ∧ ((12 : Nat) ≤ ↑i15) ∧ (↑k1 ≠ (0 : Nat)) ∧ (((wSet wAll
      hbmRdy).dev.scrubFlips ↑i15 ↑k1 (0 : Nat) [(31 : Nat)]).burstBad (if (12 : Nat) ≤ ↑i15 ∧ ↑k1 = (0 : Nat) then (wSet wAll
      hbmRdy).dev.granAt ((wSet wAll hbmRdy).dev.scrubAddr ↑i15 ↑k1 (0 : Nat)) else (wSet wAll hbmRdy).dev.scrubAddr ↑i15 ↑k1 (0
      : Nat)) = false)) ∧
    ((wAll.live = true) ∧ (↑ks0 < if ↑i11 < (12 : Nat) then (2 : Nat) else (3 : Nat)) ∧ (wAll.dev.on (Reg.ERR_SCRUB_CTL_pause
      (dieSel ↑i11) ↑ks0) = false) ∧ (wAll.dev.halted = false) ∧ (wAll.dev.heldDie (dieSel ↑i11) = false) ∧
      (wAll.dev.pwr.scrubFull = []) ∧ ((12 : Nat) ≤ ↑i11 → ↑ks0 ≠ (0 : Nat) → wAll.dev.stackState ((2 : Nat) * (↑i11 - (12 :
      Nat)) + (↑ks0 - (1 : Nat))) = (2 : Nat) ∧ (wAll.dev.stack ((2 : Nat) * (↑i11 - (12 : Nat)) + (↑ks0 - (1 : Nat)))).unlocked
      = false) ∧ (wAll.dev.scrubFind Dev.asleepAt ↑i11 ↑ks0 (0 : Nat) (scrubCount ↑i11 ↑ks0) = some (0 : Nat)) ∧
      ((wAll.dev.scrubFind Dev.asleepAt (↑i11) (↑ks0) (wAll.dev.get (Reg.ERR_SCRUB_POS_unit (dieSel ↑i11) ↑ks0)) (scrubCount
      ↑i11 ↑ks0)).getD (0 : Nat) = (0 : Nat)) ∧ (↑i11 < (12 : Nat)) ∧ (↑ks0 = (0 : Nat)) ∧ (((wAll.dev.scrubFlips ↑i11 ↑ks0 (0 :
      Nat) []).rowRead (fieldAt ↑i11 (0 / 98304 : Nat)) ((0 : Nat) % (98304 : Nat) / (2048 : Nat)) ((0 : Nat) % (2048 : Nat))
      (255 : Nat)).snd.snd = false) ∧ (((wAll.dev.scrubFlips ↑i11 ↑ks0 (0 : Nat) []).rowRead (fieldAt ↑i11 (0 / 98304 : Nat))
      ((0 : Nat) % (98304 : Nat) / (2048 : Nat)) ((0 : Nat) % (2048 : Nat)) (255 : Nat)).snd.fst = false)) ∧
    ((wAll.live = true) ∧ (wAll.dev.on (Reg.ERR_SCRUB_CTL_pause (baseSel ↑b3) (3 : Nat)) = false) ∧ (wAll.dev.halted = false)
      ∧ (wAll.dev.heldDie (baseSel ↑b3) = false) ∧ (wAll.dev.hotUsed ↑b3 = [])) ∧
    ((wQs.live = true) ∧ (wQs.dev.on (Reg.ERR_SCRUB_CTL_pause (baseSel ↑b3) (3 : Nat)) = false) ∧ (wQs.dev.halted = false) ∧
      (wQs.dev.heldDie (baseSel ↑b3) = false) ∧ (wQs.dev.hotCtxs ↑b3 = [((65535 : Nat), cxs)]) ∧ (wQs.dev.ctx (65535 : Nat) =
      cxs) ∧ (Option.map (fun x => x.fst) cxs.hot = some (2047 : Nat)) ∧ ((2047 : Nat) < (2048 : Nat)) ∧ (cxs.queue = [qw1]) ∧
      (qw1.out = false) ∧ ((qwordCheck (toggleAll qw1.flips (List.filter (fun p => decide (p / (288 : Nat) = (0 : Nat)))
      [(0 : Nat), (1 : Nat)]))).snd = true)) ∧
    ((wQs.live = true) ∧ (wQs.dev.on (Reg.ERR_SCRUB_CTL_pause (baseSel ↑b3) (3 : Nat)) = false) ∧ (wQs.dev.halted = false) ∧
      (wQs.dev.heldDie (baseSel ↑b3) = false) ∧ (wQs.dev.hotCtxs ↑b3 = [((65535 : Nat), cxs)]) ∧ (wQs.dev.ctx (65535 : Nat) =
      cxs) ∧ (Option.map (fun x => x.fst) cxs.hot = some (2047 : Nat)) ∧ ((2047 : Nat) < (2048 : Nat)) ∧ (cxs.queue = [qw1]) ∧
      (qw1.out = false) ∧ (qwordCheck (toggleAll qw1.flips (List.filter (fun p => decide (p / (288 : Nat) = (0 : Nat)))
      [(288 : Nat)])) = ((0 : Nat), false))) ∧
    ((wQs.live = true) ∧ (wQs.dev.on (Reg.ERR_SCRUB_CTL_pause (baseSel ↑b3) (3 : Nat)) = false) ∧ (wQs.dev.halted = false) ∧
      (wQs.dev.heldDie (baseSel ↑b3) = false) ∧ (wQs.dev.hotCtxs ↑b3 = [((65535 : Nat), cxs)]) ∧ (wQs.dev.ctx (65535 : Nat) =
      cxs) ∧ (Option.map (fun x => x.fst) cxs.hot = some (2047 : Nat)) ∧ ((2047 : Nat) < (2048 : Nat)) ∧ (cxs.queue = [qw1]) ∧
      (qw1.out = false) ∧ (qwordCheck (toggleAll qw1.flips (List.filter (fun p => decide (p / (288 : Nat) = (0 : Nat)))
      [(287 : Nat)])) = ((1 : Nat), false))) ∧
    ((at211.live = true) ∧ (at211.dev.scrub.leakAt.get ((16 : Nat) * ↑i15 + ↑k43) (0 : Nat) + (16000000 : Nat) * max (1 : Nat)
      (if ↑k43 = (4 : Nat) then at211.dev.get (Reg.GLEAN_BKT_CFG_leak_ms (dieSel ↑i15)) else at211.dev.get
      (Reg.ERR_BKT_CFG_leak_ms (dieSel ↑i15) ↑k43)) ≤ at211.dev.now)) ∧
    ((at213.live = true) ∧ (at213.dev.now < at213.dev.scrub.leakAt.get ((16 : Nat) * ↑i11 + ↑k44) (0 : Nat) + (16000000 : Nat)
      * max (1 : Nat) (if ↑k44 = (4 : Nat) then at213.dev.get (Reg.GLEAN_BKT_CFG_leak_ms (dieSel ↑i11)) else at213.dev.get
      (Reg.ERR_BKT_CFG_leak_ms (dieSel ↑i11) ↑k44)))) ∧
    ((at214.live = true) ∧ (at214.dev.on (Reg.GRAN_TEST_CTL_pause (baseSel ↑b3)) = true ∨ at214.dev.on
      (Reg.GRAN_TEST_STATUS_active (baseSel ↑b3)) = true ∨ at214.dev.halted = true ∨ at214.dev.heldDie (baseSel ↑b3) = true)) ∧
    (((wGt (32004 : Nat) (6 : Nat) (3 : Nat)).live = true) ∧ ((wGt (32004 : Nat) (6 : Nat) (3 : Nat)).dev.scrub.testEnd.get
      ↑b3 (0 : Nat) = (5 : Nat) + (1 : Nat)) ∧ ((wGt (32004 : Nat) (6 : Nat) (3 : Nat)).dev.now < (5 : Nat) + (16000 : Nat) *
      max (1 : Nat) ((wGt (32004 : Nat) (6 : Nat) (3 : Nat)).dev.get (Reg.GRAN_TEST_CTL_interval_us (baseSel ↑b3))))) ∧
    (((wGt (32005 : Nat) (6 : Nat) (6143 : Nat)).live = true) ∧ ((wGt (32005 : Nat) (6 : Nat) (6143 : Nat)).dev.on
      (Reg.GRAN_TEST_CTL_pause (baseSel ↑b3)) = false) ∧ ((wGt (32005 : Nat) (6 : Nat) (6143 : Nat)).dev.on
      (Reg.GRAN_TEST_STATUS_active (baseSel ↑b3)) = false) ∧ ((wGt (32005 : Nat) (6 : Nat) (6143 : Nat)).dev.halted = false) ∧
      ((wGt (32005 : Nat) (6 : Nat) (6143 : Nat)).dev.heldDie (baseSel ↑b3) = false) ∧ ((wGt (32005 : Nat) (6 : Nat) (6143 :
      Nat)).dev.mem.wf = true) ∧ ((wGt (32005 : Nat) (6 : Nat) (6143 : Nat)).dev.scrub.testEnd.get ↑b3 (0 : Nat) = (0 : Nat) ∨
      (wGt (32005 : Nat) (6 : Nat) (6143 : Nat)).dev.scrub.testEnd.get ↑b3 (0 : Nat) - (1 : Nat) + (16000 : Nat) * max (1 : Nat)
      ((wGt (32005 : Nat) (6 : Nat) (6143 : Nat)).dev.get (Reg.GRAN_TEST_CTL_interval_us (baseSel ↑b3))) ≤ (wGt (32005 : Nat) (6
      : Nat) (6143 : Nat)).dev.now) ∧ (granNext (fun g => (wGt (32005 : Nat) (6 : Nat) (6143 : Nat)).dev.asleep ((384 : Nat) +
      (16 : Nat) * ↑b3 + g)) (0 : Nat) = some (0 : Nat)) ∧ ((granNext (fun g => (wGt (32005 : Nat) (6 : Nat) (6143 :
      Nat)).dev.asleep ((384 : Nat) + (16 : Nat) * ↑b3 + g)) ((wGt (32005 : Nat) (6 : Nat) (6143 : Nat)).dev.get
      (Reg.GRAN_TEST_STATUS_region (baseSel ↑b3)))).getD (0 : Nat) = (6143 : Nat))) ∧
    ((wAll.live = true) ∧ (wAll.dev.on (Reg.GRAN_TEST_STATUS_active (baseSel ↑b3)) = false ∨ wAll.dev.halted = true) ∧
      (wAll.dev.noc.waiting = []) ∧ (wAll.dev.host.waits = []) ∧ (wAll.dev.pwr.resetWait = [])) ∧
    (((wTest (6143 : Nat)).live = true) ∧ ((wTest (6143 : Nat)).dev.on (Reg.GRAN_TEST_STATUS_active (baseSel ↑b3)) = true) ∧
      ((wTest (6143 : Nat)).dev.halted = false) ∧ ((wTest (6143 : Nat)).dev.noc.waiting = []) ∧ ((wTest (6143 :
      Nat)).dev.host.waits = []) ∧ ((wTest (6143 : Nat)).dev.pwr.resetWait = [])) ∧
    ((∀ (j : Nat), j ∈ [(0 : Nat), (1 : Nat), (2 : Nat), (3 : Nat)] → j ∈ at215.dev.sparesUsed (511 : Nat) ∨ j ∈
      [(2 : Nat), (3 : Nat)])) ∧
    ((wAll.reaches core0 (Reg.GLEAN_CTL ↑c11)) ∧ (wAll.dev.get (Reg.GLEAN_CTL_golden_en ↑c11) = bits (7 : Word) (1 : Nat) (1 :
      Nat) ∨ wAll.dev.on Reg.CFG_STATUS_design_loaded = false)) ∧
    (((wGl { : Mark } []).reaches core0 (Reg.GLEAN_CTL ↑c11)) ∧ ((wGl { : Mark } []).dev.get (Reg.GLEAN_CTL_golden_en ↑c11) ≠
      bits (7 : Word) (1 : Nat) (1 : Nat)) ∧ ((wGl { : Mark } []).dev.on Reg.CFG_STATUS_design_loaded = true)) ∧
    (((wGl { : Mark } []).reaches core0 (Reg.GLEAN_GOLDEN_LO ↑c11))) ∧
    ((wAll.reaches core0 (Reg.GLEAN_GOLDEN_HI ↑c11))) ∧
    ((wAll.reaches core0 (Reg.GLEAN_UNFREEZE ↑c11)) ∧ (∀ (k : Fin (32 : Nat)), BitVec.getLsbD (7 : Word) ↑k = true →
      wAll.dev.frozen (fieldAt ↑c11 ↑k) = false)) ∧
    (((wGl { : Mark } [frz]).reaches core0 (Reg.GLEAN_UNFREEZE ↑c11)) ∧ ((2147483648 : Word) = BitVec.ofNat (32 : Nat) (1 :
      Nat) <<< k31.val) ∧ ((wGl { : Mark } [frz]).dev.frozen (fieldAt ↑c11 ↑k31) = true) ∧ ((wGl { : Mark } [frz]).dev.atRest =
      true)) ∧
    ((at216.reaches core0 (Reg.GLEAN_UNFREEZE ↑c11)) ∧ ((2147483648 : Word) = BitVec.ofNat (32 : Nat) (1 : Nat) <<< k31.val) ∧
      (at216.dev.frozen (fieldAt ↑c11 ↑k31) = true) ∧ (at216.dev.atRest = false)) ∧
    (((wTm (77 : Nat) []).reaches core0 (Reg.ERR_BKT_CFG (dieSel ↑i15) ↑k3))) ∧
    (((wTm (77 : Nat) []).reaches core0 (Reg.GLEAN_BKT_CFG ↑c11))) ∧
    (((at217.dev.mark (frameBase fa0)).bad = true) ∧ (at217.dev.critEntry (frameField fa0) = none) ∧ (at217.dev.on
      (Reg.GLEAN_CTL_ue_freeze (frameDie fa0)) = false) ∧ (at217.dev.on (Reg.GLEAN_CTL_golden_en (frameDie fa0)) = false) ∧
      (frameDie fa0 < (12 : Nat))) ∧
    (((at218.dev.mark (frameBase fa0)).bad = false) ∧ (at218.dev.critEntry (frameField fa0) = none)) ∧
    (((at219.dev.mark (frameBase fa0)).bad = false) ∧ (at219.dev.critEntry (frameField fa0) = some (0 : Nat)) ∧
      ((at219.dev.essential fa0 (0 : Nat) ((at219.dev.mark (frameBase fa0)).flips.headD (0 : Nat))).fst = false)) ∧
    ((((wEss []).dev.mark (frameBase fa0)).bad = false) ∧ ((wEss []).dev.critEntry (frameField fa0) = some (0 : Nat)) ∧
      (((wEss []).dev.essential fa0 (0 : Nat) (((wEss []).dev.mark (frameBase fa0)).flips.headD (0 : Nat))).fst = true) ∧ ((wEss
      []).dev.on (Reg.ERR_CRIT_freeze_first (0 : Nat)) = false)) ∧
    ((at217.dev.atRest = true ∨ at217.dev.frozen (frameField fa0) = true)) ∧
    ((at204.dev.atRest = false) ∧ (at204.dev.frozen (frameField fa0) = false)) ∧
    (((3 : Nat) < (4 : Nat)) ∧ (at220.dev.get (Reg.ERR_BKT_STATUS_level (dieSel ↑i15) (3 : Nat)) < max (at220.dev.get
      (Reg.ERR_BKT_CFG_threshold (dieSel ↑i15) (3 : Nat))) (1 : Nat))) ∧
    (((3 : Nat) < (4 : Nat)) ∧ (max (at221.dev.get (Reg.ERR_BKT_CFG_threshold (dieSel ↑i15) (3 : Nat))) (1 : Nat) ≤
      at221.dev.get (Reg.ERR_BKT_STATUS_level (dieSel ↑i15) (3 : Nat))) ∧ (at221.dev.get (Reg.ERR_BKT_STATUS_level (dieSel ↑i15)
      (3 : Nat)) < (65535 : Nat))) := by
  and_intros <;> decide +kernel

theorem test_meets_ErrorRecords :
    ((e16.fifo.length ≤ (16 : Nat))) ∧
    ((at222.fifo = [er (1 : Nat) (7 : Nat)] ++ [at223]) ∧ ((er (1 : Nat) (7 : Nat)).mergesWith at223 = true)) ∧
    ((∀ (x : ErrRec), e15.fifo.getLast? = some x → (er (4 : Nat) (9 : Nat)).mergesWith x = false) ∧ ((4 : Nat) ≤ (er (4 : Nat)
      (9 : Nat)).severity) ∧ (e15.urgent = none)) ∧
    ((∀ (x : ErrRec), e15.fifo.getLast? = some x → (er (3 : Nat) (9 : Nat)).mergesWith x = false) ∧ ((er (3 : Nat) (9 :
      Nat)).severity < (4 : Nat)) ∧ (e15.fifo.length < (16 : Nat))) ∧
    ((∀ (x : ErrRec), e16.fifo.getLast? = some x → (er (3 : Nat) (9 : Nat)).mergesWith x = false) ∧ ((er (3 : Nat) (9 :
      Nat)).severity < (4 : Nat)) ∧ ((16 : Nat) ≤ e16.fifo.length)) ∧
    ((∀ (x : ErrRec), e16.fifo.getLast? = some x → (er (5 : Nat) (9 : Nat)).mergesWith x = false) ∧ ((4 : Nat) ≤ (er (5 : Nat)
      (9 : Nat)).severity) ∧ (e16.urgent ≠ none) ∧ ((16 : Nat) ≤ e16.fifo.length) ∧ (∀ (x : ErrRec), x ∈ e16.fifo → (4 : Nat) ≤
      x.severity)) ∧
    (({ entries := [er (1 : Nat) (1 : Nat)], next := (4294967295 : Nat) : ErrLog }.entries.length ≤ (1024 : Nat))) ∧
    (((wErr e16).reaches core0 (Reg.ERR_FIFO_POP (dieSel ↑i15)))) ∧
    ((wAll.live = true) ∧ (wAll.dev.spState ≠ (3 : Nat))) ∧
    (((wErr e16).live = true) ∧ ((wErr e16).dev.spState = (3 : Nat))) := by
  and_intros <;> decide +kernel

theorem test_meets_IntegrityHalt :
    (((wSet wAll [(Reg.ERR_HALT_STATUS_halted, (1 : Nat))]).dev.halted = true)) ∧
    (((wLink (4 : Nat) (2 : Nat) { : Link } []).dev.halted = false)) ∧
    ((at224.reaches core0 Reg.ERR_HALT_CLR)) := by
  and_intros <;> decide +kernel

theorem test_meets_Resets :
    ((powerOn_ = Instr.powerOn ∨ powerOn_ = Instr.porstNAssert)) ∧
    ((at225.dev.pwr.porst = true)) ∧
    ((wAll.dev.pwr.porst = true)) ∧
    (((wOff false false).dev.pwr.porst = false) ∧ ((wOff false false).dev.pwr.sysrst = false)) ∧
    (((wOff false false).dev.pwr.sysrst = false) ∧ ((wOff false false).dev.pwr.porst = false)) ∧
    (((wOff false true).dev.pwr.porst = false) ∧ ((wOff false true).dev.pwr.sysrst = true) ∧ (true = true) ∧ (md1 ≠ (2 : Fin
      (4 : Nat)))) ∧
    ((wAll.dev.pwr.sysrst = true)) ∧
    (((wOff true false).dev.pwr.sysrst = false) ∧ ((wOff true false).dev.pwr.porst = true) ∧ (true = true) ∧ ((wOff true
      false).dev.boot.mode ≠ (2 : Nat))) ∧
    (((heldR (2049 : BitVec (16 : Nat)) []).reaches core0 Reg.PWR_DIE_RESET) ∧ (∀ (k : Fin (16 : Nat)), ¬(fun k => k = i11 ∨
      (12 : Nat) ≤ ↑i11 ∧ ↑k < (12 : Nat) ∧ baseOf ↑k = ↑i11 - (12 : Nat)) k → (heldR (2049 : BitVec (16 : Nat))
      []).dev.pwr.held.getLsbD ↑k = (heldR (2049 : BitVec (16 : Nat)) []).dev.resetBit ↑k) ∧ ((heldR (2049 : BitVec (16 : Nat))
      []).dev.pwr.held.getLsbD ↑i11 = true) ∧ (∀ (k : Fin (16 : Nat)), (fun k => k = i11 ∨ (12 : Nat) ≤ ↑i11 ∧ ↑k < (12 : Nat) ∧
      baseOf ↑k = ↑i11 - (12 : Nat)) k → (heldR (2049 : BitVec (16 : Nat)) []).dev.pwr.held.getLsbD ↑k = true)) ∧
    (((heldR (1 : BitVec (16 : Nat)) []).reaches core0 Reg.PWR_DIE_RESET) ∧ (∀ (k : Fin (16 : Nat)), ¬(fun k => k = i11 ∨ (12
      : Nat) ≤ ↑i11 ∧ ↑k < (12 : Nat) ∧ baseOf ↑k = ↑i11 - (12 : Nat)) k → (heldR (1 : BitVec (16 : Nat))
      []).dev.pwr.held.getLsbD ↑k = (heldR (1 : BitVec (16 : Nat)) []).dev.resetBit ↑k) ∧ (↑i11 < (12 : Nat)) ∧ ((heldR (1 :
      BitVec (16 : Nat)) []).dev.pwr.held.getLsbD ↑i11 = false)) ∧
    ((at226.reaches core0 Reg.PWR_DIE_RESET) ∧ (∀ (k : Fin (16 : Nat)), ¬(fun k => k = i15 ∨ (12 : Nat) ≤ ↑i15 ∧ ↑k < (12 :
      Nat) ∧ baseOf ↑k = ↑i15 - (12 : Nat)) k → at226.dev.pwr.held.getLsbD ↑k = at226.dev.resetBit ↑k) ∧ ((12 : Nat) ≤ ↑i15) ∧
      (at226.dev.pwr.held.getLsbD ↑i15 = false) ∧ (∀ (k : Fin (16 : Nat)), (fun k => k = i15 ∨ (12 : Nat) ≤ ↑i15 ∧ ↑k < (12 :
      Nat) ∧ baseOf ↑k = ↑i15 - (12 : Nat)) k → at226.dev.pwr.held.getLsbD ↑k = at226.dev.resetBit ↑k) ∧ (at226.dev.on
      (Reg.GRAN_TEST_STATUS_active (dieSel ↑i15)) = true)) ∧
    (((heldR (2049 : BitVec (16 : Nat)) []).reaches core0 Reg.PWR_DIE_RESET) ∧ (∀ (k : Fin (16 : Nat)), ¬(fun k => k = i15 ∨
      (12 : Nat) ≤ ↑i15 ∧ ↑k < (12 : Nat) ∧ baseOf ↑k = ↑i15 - (12 : Nat)) k → (heldR (2049 : BitVec (16 : Nat))
      []).dev.pwr.held.getLsbD ↑k = (heldR (2049 : BitVec (16 : Nat)) []).dev.resetBit ↑k) ∧ ((12 : Nat) ≤ ↑i15) ∧ ((heldR (2049
      : BitVec (16 : Nat)) []).dev.pwr.held.getLsbD ↑i15 = false) ∧ (∀ (k : Fin (16 : Nat)), (fun k => k = i15 ∨ (12 : Nat) ≤
      ↑i15 ∧ ↑k < (12 : Nat) ∧ baseOf ↑k = ↑i15 - (12 : Nat)) k → (heldR (2049 : BitVec (16 : Nat)) []).dev.pwr.held.getLsbD ↑k
      = (heldR (2049 : BitVec (16 : Nat)) []).dev.resetBit ↑k) ∧ ((heldR (2049 : BitVec (16 : Nat)) []).dev.on
      (Reg.GRAN_TEST_STATUS_active (dieSel ↑i15)) = false)) ∧
    (((heldR (2049 : BitVec (16 : Nat)) []).reaches core0 Reg.PWR_DIE_RESET) ∧ (∀ (k : Fin (16 : Nat)), ¬(fun k => k = i15 ∨
      (12 : Nat) ≤ ↑i15 ∧ ↑k < (12 : Nat) ∧ baseOf ↑k = ↑i15 - (12 : Nat)) k → (heldR (2049 : BitVec (16 : Nat))
      []).dev.pwr.held.getLsbD ↑k = (heldR (2049 : BitVec (16 : Nat)) []).dev.resetBit ↑k) ∧ ((heldR (2049 : BitVec (16 : Nat))
      []).dev.pwr.held.getLsbD ↑i15 = false) ∧ (∀ (k : Fin (16 : Nat)), (fun k => k = i15 ∨ (12 : Nat) ≤ ↑i15 ∧ ↑k < (12 : Nat)
      ∧ baseOf ↑k = ↑i15 - (12 : Nat)) k → k ≠ i15 → (heldR (2049 : BitVec (16 : Nat)) []).dev.pwr.held.getLsbD ↑k = (heldR
      (2049 : BitVec (16 : Nat)) []).dev.resetBit ↑k)) ∧
    (((heldR (2049 : BitVec (16 : Nat)) []).reaches core0 Reg.PWR_DIE_RESET) ∧ (∀ (k : Fin (16 : Nat)), ¬(fun k => k = i11 ∨
      (12 : Nat) ≤ ↑i11 ∧ ↑k < (12 : Nat) ∧ baseOf ↑k = ↑i11 - (12 : Nat)) k → (heldR (2049 : BitVec (16 : Nat))
      []).dev.pwr.held.getLsbD ↑k = (heldR (2049 : BitVec (16 : Nat)) []).dev.resetBit ↑k) ∧ (↑i11 < (12 : Nat)) ∧ ((heldR (2049
      : BitVec (16 : Nat)) []).dev.pwr.held.getLsbD ↑i11 = true) ∧ ((heldR (2049 : BitVec (16 : Nat)) []).dev.bit
      Reg.PWR_START_started ↑i11 = false ∨ (heldR (2049 : BitVec (16 : Nat)) []).dev.heldDie (baseSel (baseOf ↑i11)) = true)) ∧
    ((at227.reaches core0 Reg.PWR_DIE_RESET) ∧ (∀ (k : Fin (16 : Nat)), ¬(fun k => k = i11 ∨ (12 : Nat) ≤ ↑i11 ∧ ↑k < (12 :
      Nat) ∧ baseOf ↑k = ↑i11 - (12 : Nat)) k → at227.dev.pwr.held.getLsbD ↑k = at227.dev.resetBit ↑k) ∧ (↑i11 < (12 : Nat)) ∧
      (at227.dev.pwr.held.getLsbD ↑i11 = true) ∧ (at227.dev.bit Reg.PWR_START_started ↑i11 = true) ∧ (at227.dev.heldDie (baseSel
      (baseOf ↑i11)) = false) ∧ (at227.dev.since (at227.dev.pwr.heldAt.get ↑i11 (0 : Nat)) (1 : Nat) = true)) ∧
    ((at228.reaches core0 Reg.PWR_DIE_RESET) ∧ (∀ (k : Fin (16 : Nat)), ¬(fun k => k = i11 ∨ (12 : Nat) ≤ ↑i11 ∧ ↑k < (12 :
      Nat) ∧ baseOf ↑k = ↑i11 - (12 : Nat)) k → at228.dev.pwr.held.getLsbD ↑k = at228.dev.resetBit ↑k) ∧ (↑i11 < (12 : Nat)) ∧
      (at228.dev.pwr.held.getLsbD ↑i11 = true) ∧ (at228.dev.bit Reg.PWR_START_started ↑i11 = true) ∧ (at228.dev.heldDie (baseSel
      (baseOf ↑i11)) = false) ∧ (at228.dev.since (at228.dev.pwr.heldAt.get ↑i11 (0 : Nat)) (1 : Nat) = false)) ∧
    ((at229.reaches core0 Reg.PWR_DIE_RESET) ∧ (∀ (k : Fin (16 : Nat)), ¬(fun k => k = i15 ∨ (12 : Nat) ≤ ↑i15 ∧ ↑k < (12 :
      Nat) ∧ baseOf ↑k = ↑i15 - (12 : Nat)) k → at229.dev.pwr.held.getLsbD ↑k = at229.dev.resetBit ↑k) ∧ ((12 : Nat) ≤ ↑i15) ∧
      (at229.dev.pwr.held.getLsbD ↑i15 = true) ∧ (∀ (k : Fin (16 : Nat)), (fun k => k = i15 ∨ (12 : Nat) ≤ ↑i15 ∧ ↑k < (12 :
      Nat) ∧ baseOf ↑k = ↑i15 - (12 : Nat)) k → at229.dev.pwr.held.getLsbD ↑k = true) ∧ (at229.dev.since
      (at229.dev.pwr.heldAt.get ↑i15 (0 : Nat)) (1 : Nat) = true)) ∧
    ((wHeld.dev.pwr.held.getLsbD ↑i15 = true)) ∧
    ((↑i11 < (12 : Nat)) ∧ (wAll.dev.pwr.held.getLsbD ↑i11 = false)) ∧
    (((12 : Nat) ≤ ↑i15) ∧ (wAll.dev.pwr.held.getLsbD ↑i15 = false)) ∧
    ((wAll.dev.resetBit ↑i15 = true ∨ wAll.dev.pwr.held.getLsbD ↑i15 = false)) ∧
    ((↑i11 < (12 : Nat)) ∧ (wHeld.dev.pwr.held.getLsbD ↑i11 = true) ∧ (wHeld.dev.resetBit ↑i11 = false) ∧ (wHeld.dev.bit
      Reg.PWR_START_started ↑i11 = false ∨ wHeld.dev.heldDie (baseSel (baseOf ↑i11)) = true)) ∧
    ((↑i11 < (12 : Nat)) ∧ (at231.dev.pwr.held.getLsbD ↑i11 = true) ∧ (at231.dev.resetBit ↑i11 = false) ∧ (at231.dev.bit
      Reg.PWR_START_started ↑i11 = true) ∧ (at231.dev.heldDie (baseSel (baseOf ↑i11)) = false) ∧ (at231.dev.since
      (at231.dev.pwr.heldAt.get ↑i11 (0 : Nat)) (1 : Nat) = true)) ∧
    ((wAll.reaches core0 (Reg.PWR_FLD_RESET (dieOf ↑f383))) ∧ (wAll.dev.atRest = true)) ∧
    ((wWave.reaches core0 (Reg.PWR_FLD_RESET (dieOf ↑f383))) ∧ (wWave.dev.atRest = false)) ∧
    (((1023 : Nat) < (1024 : Nat)) ∧ ((127 : Nat) < (128 : Nat))) := by
  and_intros <;> decide +kernel

theorem test_meets_BootAndHostPort :
    (((wBoot { : Boot } (2 : Nat)).live = true) ∧ ((15 : Nat) < (16 : Nat))) ∧
    (((wBoot { : Boot } (2 : Nat)).live = true) ∧ ((wBoot { : Boot } (2 : Nat)).dev.staging = false)) ∧
    ((at234.live = true) ∧ (¬(at234.dev.boot.attempt = true ∧ at234.dev.boot.started = false ∧ at234.dev.spState ≠ (5 : Nat)))) ∧
    ((at235.live = true) ∧ (¬((at235.dev.boot.attempt = true ∧ at235.dev.boot.started = false ∧ at235.dev.spState ≠ (5 : Nat))
      ∧ (at235.dev.boot.mode = (1 : Nat) → at235.dev.boot.doorbell = true)))) ∧
    (((wBoot { : Boot } (2 : Nat)).live = true) ∧ ((wBoot { : Boot } (2 : Nat)).dev.boot.attempt = true ∧ (wBoot { : Boot } (2
      : Nat)).dev.boot.started = false ∧ (wBoot { : Boot } (2 : Nat)).dev.spState ≠ (5 : Nat)) ∧ ((wBoot { : Boot } (2 :
      Nat)).dev.boot.mode = (1 : Nat) → (wBoot { : Boot } (2 : Nat)).dev.boot.doorbell = true)) ∧
    (((wBoot { : Boot } (2 : Nat)).live = true) ∧ ((wBoot { : Boot } (2 : Nat)).dev.boot.started = false ∨ (wBoot { : Boot }
      (2 : Nat)).dev.spState = (3 : Nat) ∨ (wBoot { : Boot } (2 : Nat)).dev.spState = (5 : Nat))) ∧
    ((at236.live = true) ∧ (at236.dev.boot.started = true) ∧ (at236.dev.spState ≠ (3 : Nat)) ∧ (at236.dev.spState ≠ (5 : Nat))) ∧
    ((at237.live = true) ∧ (Instr.pePerstN = Instr.pePerstN ∨ Instr.pePerstN = Instr.functionLevelReset)) ∧
    (((wBoot { : Boot } (2 : Nat)).live = true) ∧ ((wBoot { : Boot } (2 : Nat)).dev.spState ≠ (3 : Nat))) ∧
    ((at238.live = true) ∧ (at238.dev.spState = (3 : Nat))) ∧
    ((at232.live = true) ∧ (at232.dev.staging = true) ∧ (o4.toNat + (4 : Nat) ≤ (2097152 : Nat))) ∧
    (((wWin hole).live = true) ∧ ((wWin hole).dev.staging = false) ∧ ((wWin hole).dev.on (Reg.NOC_STAT_CTL_en (16 : Nat) (20 :
      Nat)) = false) ∧ (placeOf ((wWin hole).dev.host.window + o4.toNat) = none) ∧ ((0 : Nat) < (4 : Nat)) ∧ ((4 : Nat) ≤ (64 :
      Nat) - ((wWin hole).dev.host.window + o4.toNat) % (64 : Nat)) ∧ ((wWin hole).dev.heldDie (16 : Nat) = false)) ∧
    (((wWin gTop).live = true) ∧ ((wWin gTop).dev.staging = false) ∧ ((wWin gTop).dev.on (Reg.NOC_STAT_CTL_en (16 : Nat) (20 :
      Nat)) = false) ∧ (placeOf ((wWin gTop).dev.host.window + o4.toNat) = some (Place.gran (3 : Nat) (25165820 : Nat))) ∧ ((0 :
      Nat) < (4 : Nat)) ∧ ((4 : Nat) ≤ (64 : Nat) - ((wWin gTop).dev.host.window + o4.toNat) % (64 : Nat)) ∧ ((wWin
      gTop).dev.heldDie (16 : Nat) = false) ∧ ((wWin gTop).dev.heldDie (baseSel (3 : Nat)) = false) ∧ ((wWin gTop).dev.worldBad
      false ((wWin gTop).dev.host.window + o4.toNat) = false) ∧ ((wWin gTop).dev.wipeGate ((wWin gTop).dev.host.window +
      o4.toNat) (Place.gran (3 : Nat) (25165820 : Nat)) = none) ∧ (¬(16 : Nat) * (3 : Nat) + (25165820 / 1572864 : Nat) ∈ (wWin
      gTop).dev.sec.zeroing) ∧ ((wWin gTop).dev.asleep (retGran (3 : Nat) (25165820 / 1572864 : Nat)) = false) ∧ (∀ (w : Nat), w
      ∈ granWords ((wWin gTop).dev.host.window + o4.toNat) (4 : Nat) → (wWin gTop).dev.granMark w = { : Mark }) ∧
      ([(1 : Byte), (2 : Byte), (3 : Byte), (4 : Byte)].length = (4 : Nat)) ∧ ((wWin gTop).dev.dirAt (((wWin
      gTop).dev.host.window + o4.toNat) / (64 : Nat) * (64 : Nat)) = none)) ∧
    (((wWin gTop).live = true) ∧ ((wWin gTop).dev.staging = false) ∧ ((wWin gTop).dev.linkedUp.busReadN (wWin gTop).fuses
      Who.host ((wWin gTop).dev.host.window + o4.toNat) (4 : Nat) = (BusRes.ok at239, (hrd (wWin gTop)).snd))) ∧
    (((wWin hole).live = true) ∧ ((wWin hole).dev.staging = false) ∧ ((wWin hole).dev.linkedUp.busReadN (wWin hole).fuses
      Who.host ((wWin hole).dev.host.window + o4.toNat) (4 : Nat) = (BusRes.err, (hrd (wWin hole)).snd))) ∧
    ((wSlp.live = true) ∧ (wSlp.dev.staging = false) ∧ (wSlp.dev.linkedUp.busReadN wSlp.fuses Who.host (wSlp.dev.host.window +
      o4.toNat) (4 : Nat) = (BusRes.wait, (hrd wSlp).snd))) ∧
    (((wWin gTop).live = true) ∧ ((wWin gTop).dev.staging = false) ∧ ((wWin gTop).dev.linkedUp.busWriteN (wWin gTop).fuses
      Who.host ((wWin gTop).dev.host.window + o4.toNat) (List.take (4 : Nat) [(1 : Byte), (2 : Byte), (3 : Byte), (4 : Byte)]) =
      (BusRes.ok at240, (hwr (wWin gTop)).snd))) := by
  and_intros <;> decide +kernel

theorem test_meets_MailboxRings :
    ((at241.live = true) ∧ (at241.dev.on (Reg.MB_CTL_enable ↑m15) = false ∨ at241.dev.on (Reg.MB_STATUS_error ↑m15) = true)) ∧
    (((wMb { : Mailbox } [chd (65535 : Nat)]).live = true) ∧ (¬((wMb { : Mailbox } [chd (65535 : Nat)]).dev.on
      (Reg.MB_CTL_enable ↑m15) = false ∨ (wMb { : Mailbox } [chd (65535 : Nat)]).dev.on (Reg.MB_STATUS_error ↑m15) = true)) ∧
      (ringSize ((wMb { : Mailbox } [chd (65535 : Nat)]).dev.get (Reg.MB_CMD_SIZE_log2 ↑m15)) < ringHeld (tl (16 : Nat)).toNat
      ((wMb { : Mailbox } [chd (65535 : Nat)]).dev.get (Reg.MB_CMD_HEAD_head ↑m15)))) ∧
    (((wMb { : Mailbox } [chd (65535 : Nat)]).live = true) ∧ (¬((wMb { : Mailbox } [chd (65535 : Nat)]).dev.on
      (Reg.MB_CTL_enable ↑m15) = false ∨ (wMb { : Mailbox } [chd (65535 : Nat)]).dev.on (Reg.MB_STATUS_error ↑m15) = true)) ∧
      (ringHeld (tl (65535 : Nat)).toNat ((wMb { : Mailbox } [chd (65535 : Nat)]).dev.get (Reg.MB_CMD_HEAD_head ↑m15)) ≤
      ringSize ((wMb { : Mailbox } [chd (65535 : Nat)]).dev.get (Reg.MB_CMD_SIZE_log2 ↑m15))) ∧ ((((wMb { : Mailbox }
      [chd (65535 : Nat)]).dev.hostTake hm0).set (Reg.MB_CMD_TAIL_tail ↑m15) (tl (65535 : Nat)).toNat).mayFetch ↑m15 = false)) ∧
    (((wMb { : Mailbox } [chd (65535 : Nat)]).live = true) ∧ (¬((wMb { : Mailbox } [chd (65535 : Nat)]).dev.on
      (Reg.MB_CTL_enable ↑m15) = false ∨ (wMb { : Mailbox } [chd (65535 : Nat)]).dev.on (Reg.MB_STATUS_error ↑m15) = true)) ∧
      (ringHeld (tl (0 : Nat)).toNat ((wMb { : Mailbox } [chd (65535 : Nat)]).dev.get (Reg.MB_CMD_HEAD_head ↑m15)) = (1 : Nat))
      ∧ ((((wMb { : Mailbox } [chd (65535 : Nat)]).dev.hostTake (hmC (1541 : Nat))).set (Reg.MB_CMD_TAIL_tail ↑m15) (tl (0 :
      Nat)).toNat).mayFetch ↑m15 = true) ∧ (((wMb { : Mailbox } [chd (65535 : Nat)]).dev.hostTake (hmC (1541 : Nat))).hostRead
      ((wMb { : Mailbox } [chd (65535 : Nat)]).dev.get (Reg.MB_CMD_BASE_LO_base ↑m15) + (wMb { : Mailbox }
      [chd (65535 : Nat)]).dev.get (Reg.MB_CMD_BASE_HI_base ↑m15) * (2 : Nat) ^ (32 : Nat) + (wMb { : Mailbox }
      [chd (65535 : Nat)]).dev.get (Reg.MB_CMD_HEAD_head ↑m15) % ringSize ((wMb { : Mailbox } [chd (65535 : Nat)]).dev.get
      (Reg.MB_CMD_SIZE_log2 ↑m15)) * (64 : Nat)) (64 : Nat) = some (dsc (1541 : Nat) []))) ∧
    (((wMb { : Mailbox } [chd (65535 : Nat)]).live = true) ∧ (¬((wMb { : Mailbox } [chd (65535 : Nat)]).dev.on
      (Reg.MB_CTL_enable ↑m15) = false ∨ (wMb { : Mailbox } [chd (65535 : Nat)]).dev.on (Reg.MB_STATUS_error ↑m15) = true)) ∧
      (ringHeld (tl (0 : Nat)).toNat ((wMb { : Mailbox } [chd (65535 : Nat)]).dev.get (Reg.MB_CMD_HEAD_head ↑m15)) = (1 : Nat))
      ∧ ((((wMb { : Mailbox } [chd (65535 : Nat)]).dev.hostTake hmF).set (Reg.MB_CMD_TAIL_tail ↑m15) (tl (0 :
      Nat)).toNat).mayFetch ↑m15 = true) ∧ (((wMb { : Mailbox } [chd (65535 : Nat)]).dev.hostTake hmF).hostRead ((wMb
      { : Mailbox } [chd (65535 : Nat)]).dev.get (Reg.MB_CMD_BASE_LO_base ↑m15) + (wMb { : Mailbox }
      [chd (65535 : Nat)]).dev.get (Reg.MB_CMD_BASE_HI_base ↑m15) * (2 : Nat) ^ (32 : Nat) + (wMb { : Mailbox }
      [chd (65535 : Nat)]).dev.get (Reg.MB_CMD_HEAD_head ↑m15) % ringSize ((wMb { : Mailbox } [chd (65535 : Nat)]).dev.get
      (Reg.MB_CMD_SIZE_log2 ↑m15)) * (64 : Nat)) (64 : Nat) = none)) ∧
    (((wMb { : Mailbox } []).live = true) ∧ ((wMb { : Mailbox } []).dev.mayFetch ↑m15 = false)) ∧
    ((at242.live = true) ∧ (at242.dev.mayFetch ↑m15 = true) ∧ (at242.dev.hostRead (at242.dev.get (Reg.MB_CMD_BASE_LO_base
      ↑m15) + at242.dev.get (Reg.MB_CMD_BASE_HI_base ↑m15) * (2 : Nat) ^ (32 : Nat) + at242.dev.get (Reg.MB_CMD_HEAD_head ↑m15)
      % ringSize (at242.dev.get (Reg.MB_CMD_SIZE_log2 ↑m15)) * (64 : Nat)) (64 : Nat) = some (dsc (1541 : Nat) []))) ∧
    ((at243.live = true) ∧ ((at243.dev.mb ↑m15).held = []) ∧ (((at243.dev.hostTake hm0).set (Reg.MB_RSP_HEAD_head ↑m15) (tl (0
      : Nat)).toNat).mayFetch ↑m15 = false)) ∧
    ((at244.live = true) ∧ ((at244.dev.mb ↑m15).held = [rsp7]) ∧ ((1 : Nat) < ((at244.dev.hostTake hm0).set
      (Reg.MB_RSP_HEAD_head ↑m15) (tl (65530 : Nat)).toNat).rspFree ↑m15) ∧ (((at244.dev.hostTake hm0).set (Reg.MB_RSP_HEAD_head
      ↑m15) (tl (65530 : Nat)).toNat).hostReaches (at244.dev.get (Reg.MB_RSP_BASE_LO_base ↑m15) + at244.dev.get
      (Reg.MB_RSP_BASE_HI_base ↑m15) * (2 : Nat) ^ (32 : Nat) + at244.dev.get (Reg.MB_RSP_TAIL_tail ↑m15) % ringSize
      (at244.dev.get (Reg.MB_RSP_SIZE_log2 ↑m15)) * (32 : Nat)) (32 : Nat) = true) ∧ (at244.dev.on (Reg.MB_CTL_enable ↑m15) =
      false)) ∧
    ((at245.live = true)) ∧
    ((at246.live = true) ∧ (at246.dev.hostReaches (at246.dev.get (Reg.MB_RSP_BASE_LO_base ↑m15) + at246.dev.get
      (Reg.MB_RSP_BASE_HI_base ↑m15) * (2 : Nat) ^ (32 : Nat) + at246.dev.get (Reg.MB_RSP_TAIL_tail ↑m15) % ringSize
      (at246.dev.get (Reg.MB_RSP_SIZE_log2 ↑m15)) * (32 : Nat)) (32 : Nat) = true)) ∧
    ((at247.live = true) ∧ (at247.dev.hostReaches (at247.dev.get (Reg.MB_RSP_BASE_LO_base ↑m15) + at247.dev.get
      (Reg.MB_RSP_BASE_HI_base ↑m15) * (2 : Nat) ^ (32 : Nat) + at247.dev.get (Reg.MB_RSP_TAIL_tail ↑m15) % ringSize
      (at247.dev.get (Reg.MB_RSP_SIZE_log2 ↑m15)) * (32 : Nat)) (32 : Nat) = false)) ∧
    ((at248.live = true) ∧ ((at248.dev.mb ↑m15).held ≠ [] ∨ at248.dev.rspFree ↑m15 ≤ (1 : Nat)) ∧ (rsp7p.progress = true)) ∧
    ((at248.live = true) ∧ ((at248.dev.mb ↑m15).held ≠ [] ∨ at248.dev.rspFree ↑m15 ≤ (1 : Nat)) ∧ (rsp7.progress = false)) ∧
    ((at249.live = true) ∧ ((at249.dev.mb ↑m15).held = []) ∧ ((1 : Nat) < at249.dev.rspFree ↑m15)) ∧
    ((at250.live = true)) ∧
    ((at251.live = true)) ∧
    (((wMb { : Mailbox } []).live = true) ∧ (((wMb { : Mailbox } []).dev.mb ↑m15).irqDue = false)) ∧
    (((wIrq (32003 : Nat)).live = true) ∧ (((wIrq (32003 : Nat)).dev.mb ↑m15).irqDue = true) ∧ (∀ (t0 : Nat), t0 ∈ ((wIrq
      (32003 : Nat)).dev.mb ↑m15).irqLast.toList → t0 + (wIrq (32003 : Nat)).dev.get (Reg.MB_IRQ_HOLDOFF_us ↑m15) * (16000 :
      Nat) ≤ (wIrq (32003 : Nat)).dev.now)) ∧
    (((wIrq (32002 : Nat)).live = true) ∧ (((wIrq (32002 : Nat)).dev.mb ↑m15).irqDue = true) ∧ (¬∀ (t0 : Nat), t0 ∈ ((wIrq
      (32002 : Nat)).dev.mb ↑m15).irqLast.toList → t0 + (wIrq (32002 : Nat)).dev.get (Reg.MB_IRQ_HOLDOFF_us ↑m15) * (16000 :
      Nat) ≤ (wIrq (32002 : Nat)).dev.now)) ∧
    (((wMb { : Mailbox } []).live = true) ∧ ((wMb { : Mailbox } []).dev.urgentIrq = (0 : BitVec (16 : Nat))) ∧ (((wMb
      { : Mailbox } []).dev.mb ↑k16).job = none ∨ (wMb { : Mailbox } []).dev.served (wMb { : Mailbox } []).fuses ↑k16 = false ∨
      (wMb { : Mailbox } []).dev.longTurn (wMb { : Mailbox } []).fuses ↑k16 = false)) ∧
    ((at252.live = true) ∧ (at252.dev.urgentIrq = (0 : BitVec (16 : Nat))) ∧ ((at252.dev.mb ↑k15).job = some jb0) ∧
      (at252.dev.served at252.fuses ↑k15 = true) ∧ (at252.dev.longTurn at252.fuses ↑k15 = true) ∧ (k15.val = m15.val) ∧
      (jb0.wait = JobWait.none) ∧ (jb0.desc.mute = false) ∧ ((at252.dev.mb ↑k15).held = []) ∧ ((1 : Nat) < at252.dev.rspFree
      ↑m15)) ∧
    ((at253.live = true) ∧ (at253.dev.urgentIrq = (0 : BitVec (16 : Nat))) ∧ ((at253.dev.mb ↑k15).job = some jbP) ∧
      (at253.dev.served at253.fuses ↑k15 = true) ∧ (at253.dev.longTurn at253.fuses ↑k15 = true) ∧ (jbP.wait =
      JobWait.pacerStopped) ∧ (at253.dev.running = true) ∧ (jbP.desc.progress = false)) ∧
    (((wMb { : Mailbox } []).live = true) ∧ ((wMb { : Mailbox } []).dev.urgentIrq = (0 : BitVec (16 : Nat))) ∧ (((wMb
      { : Mailbox } []).dev.mb ↑k15).fetched = [])) ∧
    ((at254.live = true) ∧ (at254.dev.urgentIrq = (0 : BitVec (16 : Nat))) ∧ ((at254.dev.mb ↑k15).fetched = dOp (1541 : Nat)
      :: noD) ∧ ((dOp (1541 : Nat)).op ∈ longOps ∨ (dOp (1541 : Nat)).op ∈ shortOps ∨ (dOp (1541 : Nat)).op ∈ runOps)) ∧
    ((at255.live = true) ∧ (at255.dev.urgentIrq = (0 : BitVec (16 : Nat))) ∧ ((at255.dev.mb ↑k15).fetched = dOp (65535 : Nat)
      :: noD) ∧ (¬(dOp (65535 : Nat)).op ∈ longOps) ∧ (¬(dOp (65535 : Nat)).op ∈ shortOps) ∧ (¬(dOp (65535 : Nat)).op ∈ runOps)
      ∧ (at255.dev.nextCmd at255.fuses (↑k15) (dOp (65535 : Nat)).op = some (dOp (65535 : Nat)))) := by
  and_intros <;> decide +kernel

theorem test_meets_FirmwareCommandChecks :
    ((wAll.live = true) ∧ (shortCmd ∈
      [(Instr.devInfo m17, (257 : Nat)), (Instr.devRegRead m17, (259 : Nat)), (Instr.devRegWrite m17, (260 : Nat)), (Instr.loadOpen m17, (513 : Nat)), (Instr.loadStatus m17, (516 : Nat)), (Instr.loadRestart m17, (517 : Nat)), (Instr.runConfig m17, (769 : Nat)), (Instr.runStatus m17, (774 : Nat)), (Instr.stateForce m17, (1028 : Nat)), (Instr.stateRelease m17, (1029 : Nat)), (Instr.captureTrigger m17, (1282 : Nat)), (Instr.captureStatus m17, (1283 : Nat)), (Instr.captureClose m17, (1285 : Nat)), (Instr.memWindow m17, (1537 : Nat)), (Instr.linkDownCmd m17, (1794 : Nat)), (Instr.linkStatus m17, (1795 : Nat)), (Instr.linkActivate m17, (1796 : Nat)), (Instr.linkCtxWrite m17, (1799 : Nat)), (Instr.linkCtxRead m17, (1800 : Nat)), (Instr.clusterTime m17, (2052 : Nat)), (Instr.healthLogClear m17, (2306 : Nat)), (Instr.healthTelemetry m17, (2307 : Nat)), (Instr.healthBudget m17, (2308 : Nat)), (Instr.healthScrub m17, (2309 : Nat)), (Instr.healthIrq m17, (2310 : Nat)), (Instr.healthHalt m17, (2311 : Nat)), (Instr.secKeyClear m17, (2562 : Nat)), (Instr.secChallenge m17, (2565 : Nat)), (Instr.debugTraceCtl m17, (2818 : Nat))]
      ++
      [(Instr.devReset m17, (258 : Nat)), (Instr.loadData m17, (514 : Nat)), (Instr.loadClose m17, (515 : Nat)), (Instr.runWait m17, (775 : Nat)), (Instr.stateCheckpoint m17, (1025 : Nat)), (Instr.stateRestore m17, (1026 : Nat)), (Instr.stateRead m17, (1027 : Nat)), (Instr.captureOpen m17 [], (1281 : Nat)), (Instr.captureRead m17, (1284 : Nat)), (Instr.memRead m17 [], (1538 : Nat)), (Instr.memFill m17 [], (1540 : Nat)), (Instr.memHbmInit m17, (1541 : Nat)), (Instr.memHbmTrain m17, (1542 : Nat)), (Instr.memHbmRate m17, (1543 : Nat)), (Instr.memProtect m17, (1544 : Nat)), (Instr.linkUp m17, (1793 : Nat)), (Instr.linkPrbs m17, (1797 : Nat)), (Instr.linkEye m17, (1798 : Nat)), (Instr.clusterForm m17, (2049 : Nat)), (Instr.clusterMap m17, (2050 : Nat)), (Instr.clusterDisband m17, (2053 : Nat)), (Instr.healthLogRead m17, (2305 : Nat)), (Instr.secWorldSet m17, (2563 : Nat)), (Instr.secWipe m17, (2567 : Nat)), (Instr.debugTraceRead m17, (2817 : Nat))]
      ++
      [(Instr.runStart m17, (770 : Nat)), (Instr.runStop m17, (771 : Nat)), (Instr.runStep m17, (772 : Nat)), (Instr.runStopAt m17, (773 : Nat))])
      ∧ (((fun e => if e.urgentIrq = (0 : BitVec (16 : Nat)) then e else e.logPoll) wAll.dev).nextCmd wAll.fuses (↑m17)
      shortCmd.snd = none)) ∧
    ((wAll.live = true) ∧ (fedCmd ∈
      [(Instr.memWrite m17 hm0 [], (1539 : Nat)), (Instr.linkSlots m17 hm0, (1801 : Nat)), (Instr.clusterRelay m17 hm0, (2051 : Nat)), (Instr.secKeyInstall m17 hm0, (2561 : Nat)), (Instr.secLifecycle m17 hm0 false, (2564 : Nat)), (Instr.secUnlock m17 hm0 false, (2566 : Nat))])
      ∧ (((fun e => if e.urgentIrq = (0 : BitVec (16 : Nat)) then e else e.logPoll) (wAll.dev.hostTake hm0)).nextCmd wAll.fuses
      (↑m17) fedCmd.snd = none)) ∧
    (((wOff false true).live = false) ∧ (fedCmd ∈
      [(Instr.devInfo m17, (257 : Nat)), (Instr.devRegRead m17, (259 : Nat)), (Instr.devRegWrite m17, (260 : Nat)), (Instr.loadOpen m17, (513 : Nat)), (Instr.loadStatus m17, (516 : Nat)), (Instr.loadRestart m17, (517 : Nat)), (Instr.runConfig m17, (769 : Nat)), (Instr.runStatus m17, (774 : Nat)), (Instr.stateForce m17, (1028 : Nat)), (Instr.stateRelease m17, (1029 : Nat)), (Instr.captureTrigger m17, (1282 : Nat)), (Instr.captureStatus m17, (1283 : Nat)), (Instr.captureClose m17, (1285 : Nat)), (Instr.memWindow m17, (1537 : Nat)), (Instr.linkDownCmd m17, (1794 : Nat)), (Instr.linkStatus m17, (1795 : Nat)), (Instr.linkActivate m17, (1796 : Nat)), (Instr.linkCtxWrite m17, (1799 : Nat)), (Instr.linkCtxRead m17, (1800 : Nat)), (Instr.clusterTime m17, (2052 : Nat)), (Instr.healthLogClear m17, (2306 : Nat)), (Instr.healthTelemetry m17, (2307 : Nat)), (Instr.healthBudget m17, (2308 : Nat)), (Instr.healthScrub m17, (2309 : Nat)), (Instr.healthIrq m17, (2310 : Nat)), (Instr.healthHalt m17, (2311 : Nat)), (Instr.secKeyClear m17, (2562 : Nat)), (Instr.secChallenge m17, (2565 : Nat)), (Instr.debugTraceCtl m17, (2818 : Nat))]
      ++
      [(Instr.devReset m17, (258 : Nat)), (Instr.loadData m17, (514 : Nat)), (Instr.loadClose m17, (515 : Nat)), (Instr.runWait m17, (775 : Nat)), (Instr.stateCheckpoint m17, (1025 : Nat)), (Instr.stateRestore m17, (1026 : Nat)), (Instr.stateRead m17, (1027 : Nat)), (Instr.captureOpen m17 [], (1281 : Nat)), (Instr.captureRead m17, (1284 : Nat)), (Instr.memRead m17 [], (1538 : Nat)), (Instr.memFill m17 [], (1540 : Nat)), (Instr.memHbmInit m17, (1541 : Nat)), (Instr.memHbmTrain m17, (1542 : Nat)), (Instr.memHbmRate m17, (1543 : Nat)), (Instr.memProtect m17, (1544 : Nat)), (Instr.linkUp m17, (1793 : Nat)), (Instr.linkPrbs m17, (1797 : Nat)), (Instr.linkEye m17, (1798 : Nat)), (Instr.clusterForm m17, (2049 : Nat)), (Instr.clusterMap m17, (2050 : Nat)), (Instr.clusterDisband m17, (2053 : Nat)), (Instr.healthLogRead m17, (2305 : Nat)), (Instr.secWorldSet m17, (2563 : Nat)), (Instr.secWipe m17, (2567 : Nat)), (Instr.debugTraceRead m17, (2817 : Nat))]
      ++
      [(Instr.memWrite m17 hm0 [], (1539 : Nat)), (Instr.linkSlots m17 hm0, (1801 : Nat)), (Instr.clusterRelay m17 hm0, (2051 : Nat)), (Instr.secKeyInstall m17 hm0, (2561 : Nat)), (Instr.secLifecycle m17 hm0 false, (2564 : Nat)), (Instr.secUnlock m17 hm0 false, (2566 : Nat))]
      ++
      [(Instr.runStart m17, (770 : Nat)), (Instr.runStop m17, (771 : Nat)), (Instr.runStep m17, (772 : Nat)), (Instr.runStopAt m17, (773 : Nat))]))
      ∧
    ((at257.live = true) ∧ (((fun e => if e.urgentIrq = (0 : BitVec (16 : Nat)) then e else e.logPoll) at257.dev).nextCmd
      at257.fuses (↑m17) shortCmd.snd = some at258) ∧ (((fun e => if e.urgentIrq = (0 : BitVec (16 : Nat)) then e else
      e.logPoll) at257.dev).cmdGate at257.fuses (↑m17) at258 = some (257 : Nat))) ∧
    ((at263.live = true) ∧ (((fun e => if e.urgentIrq = (0 : BitVec (16 : Nat)) then e else e.logPoll) (at263.dev.hostTake
      hm0)).nextCmd at263.fuses (↑m17) fedCmd.snd = some at264) ∧ (((fun e => if e.urgentIrq = (0 : BitVec (16 : Nat)) then e
      else e.logPoll) (at263.dev.hostTake hm0)).cmdGate at263.fuses (↑m17) at264 = some (257 : Nat))) ∧
    ((wAll.dev.spState ≠ (3 : Nat))) ∧
    ((at265.dev.nextCmd at265.fuses ↑m17 (257 : Nat) = some (di (257 : Nat)))) ∧
    (((wPri.dev.mb ↑m17).waits = false) ∧ ((wPri.dev.mb ↑k3m).waits = false) ∧ (wPri.fuses.mbxSecure ↑k3m =
      wPri.fuses.mbxSecure ↑m17) ∧ (wPri.dev.priority ↑m17 < wPri.dev.priority ↑k3m) ∧ (wPri.dev.priority ↑k3m ≤ (7 : Nat)) ∧
      (wPri.dev.shortReady ↑k3m = true)) ∧
    ((at266.busy = true)) ∧
    ((at262.busy = false) ∧ (at262.rsvd = true)) ∧
    ((at267.busy = false) ∧ (at267.session ≠ (0 : Nat)) ∧ (¬at267.op ∈ sessionOps)) ∧
    (((di (2561 : Nat)).busy = false) ∧ ((di (2561 : Nat)).rsvd = false) ∧ ((di (2561 : Nat)).session = (0 : Nat)) ∧ ((di
      (2561 : Nat)).op / (256 : Nat) = (10 : Nat)) ∧ (wAll.fuses.mbxSecure ↑m17 = false)) ∧
    (((di (1541 : Nat)).busy = false) ∧ ((di (1541 : Nat)).rsvd = false) ∧ ((di (1541 : Nat)).session = (0 : Nat)) ∧
      (at268.dev.halted = true) ∧ (¬(di (1541 : Nat)).op / (256 : Nat) ∈ [(1 : Nat), (9 : Nat), (10 : Nat), (11 : Nat)])) ∧
    (((di (770 : Nat)).busy = false) ∧ ((di (770 : Nat)).rsvd = false) ∧ ((di (770 : Nat)).session = (0 : Nat)) ∧ ((wRole (2 :
      Nat) (0 : Nat)).dev.halted = false) ∧ ((di (770 : Nat)).op / (256 : Nat) = (3 : Nat)) ∧ ((wRole (2 : Nat) (0 :
      Nat)).dev.role = (2 : Nat))) ∧
    (((wRole (2 : Nat) (0 : Nat)).dev.cmdGate (wRole (2 : Nat) (0 : Nat)).fuses (↑m17) (di (1541 : Nat)) = none)) ∧
    ((at270.mute = true)) ∧
    (((di (257 : Nat)).mute = false)) := by
  and_intros <;> decide +kernel

theorem test_meets_DevLoadAndRunCommands :
    ((at271.starts ↑m17 (257 : Nat) (x13 (257 : Nat) []))) ∧
    ((at272.starts ↑m17 (258 : Nat) (x13 (258 : Nat) [])) ∧ ((x13 (258 : Nat) []).par (0 : Nat) (1 : Nat) = (0 : Nat))) ∧
    ((at273.starts ↑m17 (258 : Nat) at274) ∧ (at274.par (0 : Nat) (1 : Nat) = (2 : Nat)) ∧ (at274.par (4 : Nat) (2 : Nat) =
      ↑f383) ∧ (at273.dev.noField at273.fuses ↑m17 ↑f383 = false) ∧ (at273.dev.noWorld at273.fuses (↑m17) (Reg.PWR_FLD_RESET
      (dieOf ↑f383)) = false)) ∧
    ((at275.starts ↑m17 (258 : Nat) at276) ∧ (at276.par (0 : Nat) (1 : Nat) = (1 : Nat)) ∧ (at276.par (4 : Nat) (2 : Nat) =
      dieSel ↑i15) ∧ (at275.dev.noWorld at275.fuses (↑m17) Reg.PWR_DIE_RESET = false)) ∧
    ((at277.starts ↑m17 (258 : Nat) at278) ∧ (at278.par (0 : Nat) (1 : Nat) = (3 : Nat)) ∧ (at277.dev.blockReset (at278.par (4
      : Nat) (1 : Nat)) (at278.par (5 : Nat) (1 : Nat)) = none)) ∧
    ((at279.starts ↑m17 (258 : Nat) (x13 (258 : Nat) [(4 : Byte)])) ∧ ((3 : Nat) < (x13 (258 : Nat) [(4 : Byte)]).par (0 :
      Nat) (1 : Nat))) ∧
    ((at280.starts ↑m17 (258 : Nat) at281) ∧ (at281.par (0 : Nat) (1 : Nat) = (2 : Nat)) ∧ ((384 : Nat) ≤ at281.par (4 : Nat)
      (2 : Nat))) ∧
    (((wC dv3 []).starts ↑m17 (258 : Nat) dv3) ∧ (dv3.par (0 : Nat) (1 : Nat) = (3 : Nat)) ∧ ((wC dv3 []).dev.blockReset
      (dv3.par (4 : Nat) (1 : Nat)) (dv3.par (5 : Nat) (1 : Nat)) = some (((wC dv3 []).dev.blockReset (19 : Nat) (10 :
      Nat)).getD (wC dv3 []).dev)) ∧ ((wC dv3 []).dev.noWorld (wC dv3 []).fuses (↑m17) (dv3.par (4 : Nat) (1 : Nat) * (16777216
      : Nat) + dv3.par (5 : Nat) (1 : Nat) * (65536 : Nat)) = false)) ∧
    ((wAll.live = true) ∧ (wAll.dev.fw.warmAt = none)) ∧
    (((wWarm (16000004 : Nat)).live = true) ∧ ((wWarm (16000004 : Nat)).dev.fw.warmAt = some (5 : Nat)) ∧ ((wWarm (16000004 :
      Nat)).dev.now < (5 : Nat) + (16000000 : Nat))) ∧
    (((wWarm (16000005 : Nat)).live = true) ∧ ((wWarm (16000005 : Nat)).dev.fw.warmAt = some (5 : Nat)) ∧ ((5 : Nat) +
      (16000000 : Nat) ≤ (wWarm (16000005 : Nat)).dev.now)) ∧
    ((at282.starts ↑m17 (259 : Nat) (x13 (259 : Nat) [(1 : Byte)])) ∧ ((x13 (259 : Nat) [(1 : Byte)]).par (0 : Nat) (4 : Nat)
      % (4 : Nat) ≠ (0 : Nat))) ∧
    (((wN xs []).starts ↑m17 (259 : Nat) xs) ∧ (xs.par (0 : Nat) (4 : Nat) % (4 : Nat) = (0 : Nat)) ∧ (blockPresent (xs.par (0
      : Nat) (4 : Nat)) = true) ∧ ((wN xs []).dev.noWorld (wN xs []).fuses (↑m17) (xs.par (0 : Nat) (4 : Nat)) = true)) ∧
    (((wC xr []).starts ↑m17 (259 : Nat) xr) ∧ (xr.par (0 : Nat) (4 : Nat) % (4 : Nat) = (0 : Nat)) ∧ ((wC xr []).dev.regGate
      (mbWho (wC xr []).fuses ↑m17) (xr.par (0 : Nat) (4 : Nat)) = (none, (wC xr []).dev))) ∧
    (((wHd xFr).starts ↑m17 (259 : Nat) xFr) ∧ (xFr.par (0 : Nat) (4 : Nat) % (4 : Nat) = (0 : Nat)) ∧ ((wHd xFr).dev.regGate
      (mbWho (wHd xFr).fuses ↑m17) (xFr.par (0 : Nat) (4 : Nat)) = (some false, (wHd xFr).dev))) ∧
    (((wC (xNo (259 : Nat)) []).starts ↑m17 (259 : Nat) (xNo (259 : Nat))) ∧ ((xNo (259 : Nat)).par (0 : Nat) (4 : Nat) % (4 :
      Nat) = (0 : Nat)) ∧ (blockPresent ((xNo (259 : Nat)).par (0 : Nat) (4 : Nat)) = false)) ∧
    ((at283.starts ↑m17 (260 : Nat) (x13 (260 : Nat) [(1 : Byte)])) ∧ ((x13 (260 : Nat) [(1 : Byte)]).par (0 : Nat) (4 : Nat)
      % (4 : Nat) ≠ (0 : Nat))) ∧
    (((wN xsw []).starts ↑m17 (260 : Nat) xsw) ∧ (xsw.par (0 : Nat) (4 : Nat) % (4 : Nat) = (0 : Nat)) ∧ (blockPresent
      (xsw.par (0 : Nat) (4 : Nat)) = true) ∧ ((wN xsw []).dev.noWorld (wN xsw []).fuses (↑m17) (xsw.par (0 : Nat) (4 : Nat)) =
      true)) ∧
    (((wC xw []).starts ↑m17 (260 : Nat) xw) ∧ (xw.par (0 : Nat) (4 : Nat) % (4 : Nat) = (0 : Nat)) ∧ ((wC xw []).dev.regGate
      (mbWho (wC xw []).fuses ↑m17) (xw.par (0 : Nat) (4 : Nat)) = (none, (wC xw []).dev))) ∧
    (((wHd xFw).starts ↑m17 (260 : Nat) xFw) ∧ (xFw.par (0 : Nat) (4 : Nat) % (4 : Nat) = (0 : Nat)) ∧ ((wHd xFw).dev.regGate
      (mbWho (wHd xFw).fuses ↑m17) (xFw.par (0 : Nat) (4 : Nat)) = (some false, (wHd xFw).dev))) ∧
    (((wC (xNo (260 : Nat)) []).starts ↑m17 (260 : Nat) (xNo (260 : Nat))) ∧ ((xNo (260 : Nat)).par (0 : Nat) (4 : Nat) % (4 :
      Nat) = (0 : Nat)) ∧ (blockPresent ((xNo (260 : Nat)).par (0 : Nat) (4 : Nat)) = false)) ∧
    ((at284.starts ↑m17 (513 : Nat) (x13 (513 : Nat) [(4 : Byte)])) ∧ ((3 : Nat) < (x13 (513 : Nat) [(4 : Byte)]).par (0 :
      Nat) (1 : Nat))) ∧
    ((at285.starts ↑m17 (513 : Nat) (x13 (513 : Nat) [(1 : Byte)])) ∧ ((x13 (513 : Nat) [(1 : Byte)]).par (0 : Nat) (1 : Nat)
      = (1 : Nat)) ∧ (at285.dev.role ≠ (1 : Nat))) ∧
    ((at286.starts ↑m17 (513 : Nat) (x13 (513 : Nat) [(3 : Byte)])) ∧ ((x13 (513 : Nat) [(3 : Byte)]).par (0 : Nat) (1 : Nat)
      ≤ (3 : Nat)) ∧ ((x13 (513 : Nat) [(3 : Byte)]).par (0 : Nat) (1 : Nat) = (1 : Nat) → at286.dev.role = (1 : Nat)) ∧
      (at286.dev.loadOpen = true)) ∧
    ((at287.starts ↑m17 (513 : Nat) (x13 (513 : Nat) [(3 : Byte)])) ∧ ((x13 (513 : Nat) [(3 : Byte)]).par (0 : Nat) (1 : Nat)
      ≤ (3 : Nat)) ∧ ((x13 (513 : Nat) [(3 : Byte)]).par (0 : Nat) (1 : Nat) = (1 : Nat) → at287.dev.role = (1 : Nat)) ∧
      (at287.dev.loadOpen = false) ∧ ((at287.dev.heldBy fun j => j.desc.op == (1026 : Nat)) = false) ∧ (at287.dev.noWorld
      at287.fuses (↑m17) Reg.CFG_CTL = false) ∧ (at287.dev.streaming = true)) ∧
    ((at288.starts ↑m17 (513 : Nat) (x13 (513 : Nat) [(3 : Byte)])) ∧ ((x13 (513 : Nat) [(3 : Byte)]).par (0 : Nat) (1 : Nat)
      ≤ (3 : Nat)) ∧ ((x13 (513 : Nat) [(3 : Byte)]).par (0 : Nat) (1 : Nat) = (1 : Nat) → at288.dev.role = (1 : Nat)) ∧
      (at288.dev.loadOpen = false) ∧ ((at288.dev.heldBy fun j => j.desc.op == (1026 : Nat)) = false) ∧ (at288.dev.noWorld
      at288.fuses (↑m17) Reg.CFG_CTL = false) ∧ (at288.dev.streaming = false)) ∧
    ((at289.starts ↑m17 (514 : Nat) (xp (514 : Nat) (1 : Nat) [])) ∧ (at289.dev.session (↑m17) (xp (514 : Nat) (1 : Nat)
      []).session false = none)) ∧
    ((at290.starts ↑m17 (514 : Nat) xld) ∧ (at290.dev.session (↑m17) xld.session false = some sLoad) ∧ (xld.par (8 : Nat) (4 :
      Nat) % (4 : Nat) = (0 : Nat)) ∧ (at290.dev.get Reg.CFG_CTL_path ≠ (0 : Nat))) ∧
    (((withS (wC xld [])).starts ↑m17 (514 : Nat) xld) ∧ ((withS (wC xld [])).dev.session (↑m17) xld.session false = some
      sLoad) ∧ (xld.par (8 : Nat) (4 : Nat) % (4 : Nat) = (0 : Nat)) ∧ ((withS (wC xld [])).dev.get Reg.CFG_CTL_path = (0 :
      Nat))) ∧
    ((at291.starts ↑m17 (515 : Nat) (xp (515 : Nat) (1 : Nat) [])) ∧ (at291.dev.session (↑m17) (xp (515 : Nat) (1 : Nat)
      []).session false = none)) ∧
    ((at292.starts ↑m17 (515 : Nat) (xp (515 : Nat) (1 : Nat) [])) ∧ (at292.dev.session (↑m17) (xp (515 : Nat) (1 : Nat)
      []).session false = some sLoad)) ∧
    ((at293.starts ↑m17 (516 : Nat) (x13 (516 : Nat) [])) ∧ (at293.dev.noWorld at293.fuses (↑m17) Reg.CFG_CTL = false)) ∧
    ((at294.starts ↑m17 (517 : Nat) (x13 (517 : Nat) [])) ∧ (at294.dev.noWorld at294.fuses (↑m17) Reg.CFG_CTL = false)) ∧
    ((at295.starts ↑m17 (769 : Nat) (x13 (769 : Nat) [(3 : Byte), (4 : Byte)])) ∧ ((3 : Nat) < (x13 (769 : Nat)
      [(3 : Byte), (4 : Byte)]).par (0 : Nat) (1 : Nat) ∨ (3 : Nat) < (x13 (769 : Nat) [(3 : Byte), (4 : Byte)]).par (1 : Nat)
      (1 : Nat))) ∧
    ((at296.starts ↑m17 (769 : Nat) (x13 (769 : Nat) [(3 : Byte), (3 : Byte)])) ∧ ((x13 (769 : Nat)
      [(3 : Byte), (3 : Byte)]).par (0 : Nat) (1 : Nat) ≤ (3 : Nat)) ∧ ((x13 (769 : Nat) [(3 : Byte), (3 : Byte)]).par (1 : Nat)
      (1 : Nat) ≤ (3 : Nat)) ∧ (at296.dev.noWorld at296.fuses (↑m17) Reg.PACE_CTL = false) ∧ (at296.dev.running = true)) ∧
    ((at297.starts ↑m17 (769 : Nat) at298) ∧ (at298.par (0 : Nat) (1 : Nat) ≤ (3 : Nat)) ∧ (at298.par (1 : Nat) (1 : Nat) ≤ (3
      : Nat)) ∧ (at297.dev.noWorld at297.fuses (↑m17) Reg.PACE_CTL = false) ∧ (at297.dev.running = false)) ∧
    ((at299.dev.noWorld at299.fuses (↑m17) Reg.PACE_CTL = false) ∧ (at299.starts ↑m17 (770 : Nat) (xSt (1 : Byte) false)) ∧
      ((xSt (1 : Byte) false).par (8 : Nat) (1 : Nat) ≤ (1 : Nat)) ∧ ((xSt (1 : Byte) false).long = false) ∧ (at299.dev.noStart
      = true)) ∧
    ((at300.dev.noWorld at300.fuses (↑m17) Reg.PACE_CTL = false) ∧ (at300.starts ↑m17 (770 : Nat) (xSt (1 : Byte) true)) ∧
      ((xSt (1 : Byte) true).par (8 : Nat) (1 : Nat) ≤ (1 : Nat)) ∧ ((xSt (1 : Byte) true).long = true) ∧ (at300.dev.noStart =
      true)) ∧
    ((at301.dev.noWorld at301.fuses (↑m17) Reg.PACE_CTL = false) ∧ (at301.starts ↑m17 (770 : Nat) (xSt (1 : Byte) false)) ∧
      ((xSt (1 : Byte) false).par (8 : Nat) (1 : Nat) ≤ (1 : Nat)) ∧ (at301.dev.leads = false) ∧ (at301.dev.noStart = false)) ∧
    ((at303.dev.noWorld at303.fuses (↑m17) Reg.PACE_CTL = false) ∧ (at303.starts ↑m17 (770 : Nat) (xSt (1 : Byte) true)) ∧
      ((xSt (1 : Byte) true).par (8 : Nat) (1 : Nat) ≤ (1 : Nat)) ∧ (at303.dev.leads = true) ∧ (at303.dev.noStart = false) ∧
      ((xSt (1 : Byte) true).long = true)) ∧
    ((at305.dev.noWorld at305.fuses (↑m17) Reg.PACE_CTL = false) ∧ (at305.starts ↑m17 (771 : Nat) (xSp false)) ∧ ((xSp
      false).long = false) ∧ (at305.dev.leads = false)) ∧
    (((wMgHeld (xSp true)).dev.noWorld (wMgHeld (xSp true)).fuses (↑m17) Reg.PACE_CTL = false) ∧ ((wMgHeld (xSp true)).starts
      ↑m17 (771 : Nat) (xSp true)) ∧ ((xSp true).long = true) ∧ ((wMgHeld (xSp true)).dev.leads = true) ∧ ((wMgHeld (xSp
      true)).dev.runHeld = true)) ∧
    (((wMg (xSp true) []).dev.noWorld (wMg (xSp true) []).fuses (↑m17) Reg.PACE_CTL = false) ∧ ((wMg (xSp true) []).starts
      ↑m17 (771 : Nat) (xSp true)) ∧ ((xSp true).long = true) ∧ ((wMg (xSp true) []).dev.leads = true) ∧ ((wMg (xSp true)
      []).dev.runHeld = false) ∧ ((wMg (xSp true) []).dev.running = false)) ∧
    ((at306.dev.noWorld at306.fuses (↑m17) Reg.PACE_CTL = false) ∧ (at306.starts ↑m17 (771 : Nat) (xSp true)) ∧ ((xSp
      true).long = true) ∧ (at306.dev.leads = true) ∧ (at306.dev.runHeld = false) ∧ (at306.dev.running = true)) ∧
    ((at307.dev.noWorld at307.fuses (↑m17) Reg.PACE_CTL = false) ∧ (at307.starts ↑m17 (772 : Nat) (xSe (0 : Byte) false)) ∧
      ((xSe (0 : Byte) false).long = false) ∧ ((xSe (0 : Byte) false).par (0 : Nat) (8 : Nat) = (0 : Nat))) ∧
    ((at308.dev.noWorld at308.fuses (↑m17) Reg.PACE_CTL = false) ∧ (at308.starts ↑m17 (772 : Nat) (xSe (5 : Byte) false)) ∧
      ((xSe (5 : Byte) false).long = false) ∧ (at308.dev.leads = false) ∧ ((xSe (5 : Byte) false).par (0 : Nat) (8 : Nat) ≠ (0 :
      Nat)) ∧ (at308.dev.noStart = false)) ∧
    ((at309.dev.noWorld at309.fuses (↑m17) Reg.PACE_CTL = false) ∧ (at309.starts ↑m17 (772 : Nat) (xSe (5 : Byte) true)) ∧
      ((xSe (5 : Byte) true).long = true) ∧ (at309.dev.leads = true) ∧ ((xSe (5 : Byte) true).par (0 : Nat) (8 : Nat) ≠ (0 :
      Nat)) ∧ (at309.dev.noStart = false) ∧ (at309.dev.runHeld = false)) ∧
    ((at310.dev.noWorld at310.fuses (↑m17) Reg.PACE_CTL = false) ∧ (at310.starts ↑m17 (773 : Nat) (xsa (2 : Byte) false)) ∧
      ((xsa (2 : Byte) false).long = false) ∧ ((1 : Nat) < (xsa (2 : Byte) false).par (8 : Nat) (1 : Nat))) ∧
    ((at311.dev.noWorld at311.fuses (↑m17) Reg.PACE_CTL = false) ∧ (at311.starts ↑m17 (773 : Nat) (xsa (1 : Byte) false)) ∧
      ((xsa (1 : Byte) false).long = false) ∧ (at311.dev.leads = false) ∧ ((xsa (1 : Byte) false).par (8 : Nat) (1 : Nat) = (1 :
      Nat))) ∧
    ((at312.dev.noWorld at312.fuses (↑m17) Reg.PACE_CTL = false) ∧ (at312.starts ↑m17 (773 : Nat) (xsa (0 : Byte) false)) ∧
      ((xsa (0 : Byte) false).long = false) ∧ (at312.dev.leads = false) ∧ ((xsa (0 : Byte) false).par (8 : Nat) (1 : Nat) = (0 :
      Nat))) ∧
    ((at313.dev.noWorld at313.fuses (↑m17) Reg.PACE_CTL = false) ∧ (at313.starts ↑m17 (773 : Nat) (xsa (1 : Byte) true)) ∧
      ((xsa (1 : Byte) true).long = true) ∧ (at313.dev.leads = true) ∧ ((xsa (1 : Byte) true).par (8 : Nat) (1 : Nat) = (1 :
      Nat))) ∧
    ((at314.dev.noWorld at314.fuses (↑m17) Reg.PACE_CTL = false) ∧ (at314.starts ↑m17 (773 : Nat) (xsa (0 : Byte) true)) ∧
      ((xsa (0 : Byte) true).long = true) ∧ (at314.dev.leads = true) ∧ ((xsa (0 : Byte) true).par (8 : Nat) (1 : Nat) = (0 :
      Nat)) ∧ (at314.dev.runHeld = false)) ∧
    ((at315.starts ↑m17 (774 : Nat) (x13 (774 : Nat) [])) ∧ (at315.dev.noWorld at315.fuses (↑m17) Reg.PACE_CTL = false)) ∧
    ((at316.starts ↑m17 (775 : Nat) (x13 (775 : Nat) []))) ∧
    ((wAll.live = true) ∧ ((wAll.dev.mb ↑m17).job = none)) ∧
    (((wJw (0 : Byte) (144000003 : Nat)).live = true) ∧ (((wJw (0 : Byte) (144000003 : Nat)).dev.mb ↑m17).job = some (jw (0 :
      Byte))) ∧ ((jw (0 : Byte)).wait = JobWait.pacerStopped) ∧ (leAt (jw (0 : Byte)).desc.p (0 : Nat) (4 : Nat) = (0 : Nat))) ∧
    (((wJw (9 : Byte) (144000002 : Nat)).live = true) ∧ (((wJw (9 : Byte) (144000002 : Nat)).dev.mb ↑m17).job = some (jw (9 :
      Byte))) ∧ ((jw (9 : Byte)).wait = JobWait.pacerStopped) ∧ ((wJw (9 : Byte) (144000002 : Nat)).dev.now < (jw (9 :
      Byte)).since + leAt (jw (9 : Byte)).desc.p (0 : Nat) (4 : Nat) * (16000000 : Nat))) ∧
    (((wJw (9 : Byte) (144000003 : Nat)).live = true) ∧ (((wJw (9 : Byte) (144000003 : Nat)).dev.mb ↑m17).job = some (jw (9 :
      Byte))) ∧ ((jw (9 : Byte)).wait = JobWait.pacerStopped) ∧ (leAt (jw (9 : Byte)).desc.p (0 : Nat) (4 : Nat) ≠ (0 : Nat)) ∧
      ((jw (9 : Byte)).since + leAt (jw (9 : Byte)).desc.p (0 : Nat) (4 : Nat) * (16000000 : Nat) ≤ (wJw (9 : Byte) (144000003 :
      Nat)).dev.now)) := by
  and_intros <;> decide +kernel

theorem test_meets_StateCaptureAndMemoryCommands :
    ((at317.dev.frozenSp (5 : Nat) = true) ∧ (frzI ∈
      [(Instr.stateCheckpoint m17, (1025 : Nat)), (Instr.stateRestore m17, (1026 : Nat)), (Instr.captureRead m17, (1284 : Nat)), (Instr.memRead m17 [], (1538 : Nat)), (Instr.memFill m17 [], (1540 : Nat))])
      ∧ (at317.starts (↑m17) frzI.snd (x13 (1540 : Nat) []))) ∧
    ((at318.starts ↑m17 (1025 : Nat) (x13 (1025 : Nat) [(1 : Byte)])) ∧ (at318.dev.frozenSp (5 : Nat) = false) ∧ ((x13 (1025 :
      Nat) [(1 : Byte)]).par (0 : Nat) (8 : Nat) % (4096 : Nat) ≠ (0 : Nat) ∨ (206158430208 : Nat) ≤ (x13 (1025 : Nat)
      [(1 : Byte)]).par (0 : Nat) (8 : Nat))) ∧
    ((at319.starts ↑m17 (1025 : Nat) xck) ∧ (at319.dev.frozenSp (5 : Nat) = false) ∧ (xck.par (0 : Nat) (8 : Nat) % (4096 :
      Nat) = (0 : Nat)) ∧ ((0 : Nat) < xck.par (0 : Nat) (8 : Nat)) ∧ (xck.par (0 : Nat) (8 : Nat) ≤ (205621559296 : Nat)) ∧
      (at319.fuses.mbxSecure ↑m17 = true) ∧ (at319.dev.running = true)) ∧
    (((wC xck []).starts ↑m17 (1025 : Nat) xck) ∧ ((wC xck []).dev.frozenSp (5 : Nat) = false) ∧ (xck.par (0 : Nat) (8 : Nat)
      % (4096 : Nat) = (0 : Nat)) ∧ ((0 : Nat) < xck.par (0 : Nat) (8 : Nat)) ∧ (xck.par (0 : Nat) (8 : Nat) ≤ (205621559296 :
      Nat)) ∧ ((wC xck []).fuses.mbxSecure ↑m17 = true) ∧ ((wC xck []).dev.running = false)) ∧
    ((qE ∈ (imgS.dev.checkpoint imgS.fuses ↑m17).q)) ∧
    ((qE ∈ imgS.dev.fab.q) ∧ (imgS.dev.noField imgS.fuses (↑m17) (stookField (qE.fst / (128 : Nat))) = false)) ∧
    ((at320.starts ↑m17 (1026 : Nat) rst) ∧ (at320.dev.frozenSp (5 : Nat) = false) ∧ (rst.par (0 : Nat) (8 : Nat) <
      (206158430208 : Nat)) ∧ (at320.dev.noRange at320.fuses (↑m17) (rst.par (0 : Nat) (8 : Nat)) (1 : Nat) = false) ∧
      (at320.dev.running = true)) ∧
    ((at321.starts ↑m17 (1026 : Nat) rst) ∧ (at321.dev.frozenSp (5 : Nat) = false) ∧ (rst.par (0 : Nat) (8 : Nat) <
      (206158430208 : Nat)) ∧ (at321.dev.noRange at321.fuses (↑m17) (rst.par (0 : Nat) (8 : Nat)) (1 : Nat) = false) ∧
      (at321.dev.running = false) ∧ (at321.dev.loadOpen = true)) ∧
    (((wC rst memOrd).starts ↑m17 (1026 : Nat) rst) ∧ ((wC rst memOrd).dev.frozenSp (5 : Nat) = false) ∧ (rst.par (0 : Nat) (8
      : Nat) < (206158430208 : Nat)) ∧ ((wC rst memOrd).dev.noRange (wC rst memOrd).fuses (↑m17) (rst.par (0 : Nat) (8 : Nat))
      (1 : Nat) = false) ∧ ((wC rst memOrd).dev.running = false) ∧ ((wC rst memOrd).dev.loadOpen = false) ∧ ((wC rst
      memOrd).dev.hbmGate (rst.par (0 : Nat) (8 : Nat)) = none)) ∧
    ((at322.starts ↑m17 (1027 : Nat) at323) ∧ ((384 : Nat) ≤ at323.par (0 : Nat) (2 : Nat) ∨ (32 : Nat) ≤ at323.par (2 : Nat)
      (1 : Nat))) ∧
    ((secFl.starts ↑m17 (1027 : Nat) srF) ∧ (srF.par (0 : Nat) (2 : Nat) < (384 : Nat)) ∧ (srF.par (2 : Nat) (1 : Nat) < (32 :
      Nat)) ∧ (secFl.dev.noField secFl.fuses (↑m17) (srF.par (0 : Nat) (2 : Nat)) = true)) ∧
    ((at324.starts ↑m17 (1027 : Nat) at325) ∧ (at325.par (0 : Nat) (2 : Nat) < (384 : Nat)) ∧ (at325.par (2 : Nat) (1 : Nat) <
      (32 : Nat)) ∧ (at324.dev.noField at324.fuses (↑m17) (at325.par (0 : Nat) (2 : Nat)) = false) ∧ (at324.dev.atRest = true))
      ∧
    ((at326.starts ↑m17 (1027 : Nat) at325) ∧ (at325.par (0 : Nat) (2 : Nat) < (384 : Nat)) ∧ (at325.par (2 : Nat) (1 : Nat) <
      (32 : Nat)) ∧ (at326.dev.noField at326.fuses (↑m17) (at325.par (0 : Nat) (2 : Nat)) = false) ∧ (at326.dev.atRest = false))
      ∧
    (((wC fcB []).starts ↑m17 (1028 : Nat) fcB) ∧ (siteOk fcB = false)) ∧
    ((at327.starts ↑m17 (1028 : Nat) fc0) ∧ (siteOk fc0 = true) ∧ (fc0.par (6 : Nat) (1 : Nat) ≤ (1 : Nat)) ∧
      (at327.dev.noField at327.fuses (↑m17) (fc0.par (0 : Nat) (2 : Nat)) = true)) ∧
    (((wC fcG []).starts ↑m17 (1028 : Nat) fcG) ∧ (siteOk fcG = true) ∧ (fcG.par (6 : Nat) (1 : Nat) ≤ (1 : Nat)) ∧ ((wC fcG
      []).dev.noField (wC fcG []).fuses (↑m17) (fcG.par (0 : Nat) (2 : Nat)) = false)) ∧
    (((wC (rl (2 : Byte)) []).starts ↑m17 (1029 : Nat) (rl (2 : Byte))) ∧ (siteOk (rl (2 : Byte)) = true) ∧ ((1 : Nat) < (rl
      (2 : Byte)).par (7 : Nat) (1 : Nat))) ∧
    ((at328.starts ↑m17 (1029 : Nat) (rl (1 : Byte))) ∧ (siteOk (rl (1 : Byte)) = true) ∧ ((rl (1 : Byte)).par (7 : Nat) (1 :
      Nat) = (1 : Nat)) ∧ (at328.dev.noField at328.fuses (↑m17) ((rl (1 : Byte)).par (0 : Nat) (2 : Nat)) = false)) ∧
    (((wC (rl (0 : Byte)) []).starts ↑m17 (1029 : Nat) (rl (0 : Byte))) ∧ (siteOk (rl (0 : Byte)) = true) ∧ ((rl (0 :
      Byte)).par (7 : Nat) (1 : Nat) = (0 : Nat)) ∧ ((wC (rl (0 : Byte)) []).dev.noField (wC (rl (0 : Byte)) []).fuses (↑m17)
      ((rl (0 : Byte)).par (0 : Nat) (2 : Nat)) = false)) ∧
    (((wC (xco (2 : Byte)) []).starts ↑m17 (1281 : Nat) (xco (2 : Byte))) ∧ ((xco (2 : Byte)).par (0 : Nat) (8 : Nat) <
      (206158430208 : Nat)) ∧ ((0 : Nat) < (xco (2 : Byte)).par (8 : Nat) (4 : Nat)) ∧ ((xco (2 : Byte)).par (0 : Nat) (8 : Nat)
      + (xco (2 : Byte)).par (8 : Nat) (4 : Nat) * (1048576 : Nat) ≤ (206158430208 : Nat)) ∧ ((wC (xco (2 : Byte))
      []).dev.noRange (wC (xco (2 : Byte)) []).fuses (↑m17) ((xco (2 : Byte)).par (0 : Nat) (8 : Nat)) (1 : Nat) = false) ∧ ((1
      : Nat) < (xco (2 : Byte)).par (12 : Nat) (1 : Nat))) ∧
    ((at329.starts ↑m17 (1281 : Nat) (xco (1 : Byte))) ∧ ((xco (1 : Byte)).par (0 : Nat) (8 : Nat) < (206158430208 : Nat)) ∧
      ((0 : Nat) < (xco (1 : Byte)).par (8 : Nat) (4 : Nat)) ∧ ((xco (1 : Byte)).par (0 : Nat) (8 : Nat) + (xco (1 : Byte)).par
      (8 : Nat) (4 : Nat) * (1048576 : Nat) ≤ (206158430208 : Nat)) ∧ (at329.dev.noRange at329.fuses (↑m17) ((xco (1 :
      Byte)).par (0 : Nat) (8 : Nat)) (1 : Nat) = false) ∧ ((4 : Nat) ≤ (List.filter (fun y => y.capture)
      at329.dev.fw.sessions).length) ∧ ((xco (1 : Byte)).par (12 : Nat) (1 : Nat) ≤ (1 : Nat))) ∧
    (((wC (xco (1 : Byte)) []).starts ↑m17 (1281 : Nat) (xco (1 : Byte))) ∧ ((xco (1 : Byte)).par (0 : Nat) (8 : Nat) <
      (206158430208 : Nat)) ∧ ((0 : Nat) < (xco (1 : Byte)).par (8 : Nat) (4 : Nat)) ∧ ((xco (1 : Byte)).par (0 : Nat) (8 : Nat)
      + (xco (1 : Byte)).par (8 : Nat) (4 : Nat) * (1048576 : Nat) ≤ (206158430208 : Nat)) ∧ ((wC (xco (1 : Byte))
      []).dev.noRange (wC (xco (1 : Byte)) []).fuses (↑m17) ((xco (1 : Byte)).par (0 : Nat) (8 : Nat)) (1 : Nat) = false) ∧
      ((xco (1 : Byte)).par (12 : Nat) (1 : Nat) ≤ (1 : Nat)) ∧ ([(36864 : Nat)] = if (xco (1 : Byte)).par (12 : Nat) (1 : Nat)
      = (1 : Nat) then [(36864 : Nat)] else []) ∧ ((List.filter (fun y => y.capture) (wC (xco (1 : Byte))
      []).dev.fw.sessions).length < (4 : Nat)) ∧ (∃ k, k ∈ [(36864 : Nat)] ∧ ((36864 : Nat) ≤ k ∨ (wC (xco (1 : Byte))
      []).dev.tileMode (k / (96 : Nat)) (k % (96 : Nat)) ≠ (0 : Nat) ∨ (wC (xco (1 : Byte)) []).dev.noField (wC (xco (1 : Byte))
      []).fuses (↑m17) (k / (96 : Nat)) = true))) ∧
    (((wC (xco (1 : Byte)) []).starts ↑m17 (1281 : Nat) (xco (1 : Byte))) ∧ ((xco (1 : Byte)).par (0 : Nat) (8 : Nat) <
      (206158430208 : Nat)) ∧ ((0 : Nat) < (xco (1 : Byte)).par (8 : Nat) (4 : Nat)) ∧ ((xco (1 : Byte)).par (0 : Nat) (8 : Nat)
      + (xco (1 : Byte)).par (8 : Nat) (4 : Nat) * (1048576 : Nat) ≤ (206158430208 : Nat)) ∧ ((wC (xco (1 : Byte))
      []).dev.noRange (wC (xco (1 : Byte)) []).fuses (↑m17) ((xco (1 : Byte)).par (0 : Nat) (8 : Nat)) (1 : Nat) = false) ∧
      ((xco (1 : Byte)).par (12 : Nat) (1 : Nat) ≤ (1 : Nat)) ∧ (tls = if (xco (1 : Byte)).par (12 : Nat) (1 : Nat) = (1 : Nat)
      then tls else []) ∧ ((List.filter (fun y => y.capture) (wC (xco (1 : Byte)) []).dev.fw.sessions).length < (4 : Nat)) ∧ (∀
      (k : Nat), k ∈ tls → k < (36864 : Nat) ∧ (wC (xco (1 : Byte)) []).dev.tileMode (k / (96 : Nat)) (k % (96 : Nat)) = (0 :
      Nat) ∧ (wC (xco (1 : Byte)) []).dev.noField (wC (xco (1 : Byte)) []).fuses (↑m17) (k / (96 : Nat)) = false)) ∧
    ((at330.starts ↑m17 (1282 : Nat) (xp (1282 : Nat) (2 : Nat) sit)) ∧ (at330.dev.session (↑m17) (xp (1282 : Nat) (2 : Nat)
      sit).session true = none)) ∧
    ((at331.starts ↑m17 (1282 : Nat) (xp (1282 : Nat) (2 : Nat) sit)) ∧ (at331.dev.session (↑m17) (xp (1282 : Nat) (2 : Nat)
      sit).session true = some sCap) ∧ (siteOk (xp (1282 : Nat) (2 : Nat) sit) = true) ∧ ((xp (1282 : Nat) (2 : Nat) sit).par (6
      : Nat) (1 : Nat) ≤ (2 : Nat)) ∧ (at331.dev.noField at331.fuses (↑m17) ((xp (1282 : Nat) (2 : Nat) sit).par (0 : Nat) (2 :
      Nat)) = false)) ∧
    ((at332.starts ↑m17 (1283 : Nat) (xp (1283 : Nat) (2 : Nat) [])) ∧ (at332.dev.session (↑m17) (xp (1283 : Nat) (2 : Nat)
      []).session true = none)) ∧
    ((at333.starts ↑m17 (1283 : Nat) (xp (1283 : Nat) (2 : Nat) [])) ∧ (at333.dev.session (↑m17) (xp (1283 : Nat) (2 : Nat)
      []).session true = some sCap)) ∧
    ((at334.starts ↑m17 (1284 : Nat) (xp (1284 : Nat) (2 : Nat) [])) ∧ (at334.dev.frozenSp (5 : Nat) = false) ∧
      (at334.dev.session (↑m17) (xp (1284 : Nat) (2 : Nat) []).session true = none)) ∧
    ((at335.starts ↑m17 (1284 : Nat) (xp (1284 : Nat) (2 : Nat) [])) ∧ (at335.dev.frozenSp (5 : Nat) = false) ∧
      (at335.dev.session (↑m17) (xp (1284 : Nat) (2 : Nat) []).session true = some sCap)) ∧
    ((at336.starts ↑m17 (1285 : Nat) (xp (1285 : Nat) (2 : Nat) [])) ∧ (at336.dev.session (↑m17) (xp (1285 : Nat) (2 : Nat)
      []).session true = none)) ∧
    ((at337.starts ↑m17 (1285 : Nat) (xp (1285 : Nat) (2 : Nat) [])) ∧ (at337.dev.session (↑m17) (xp (1285 : Nat) (2 : Nat)
      []).session true = some sCap)) ∧
    ((at338.starts ↑m17 (1537 : Nat) (x13 (1537 : Nat) [(1 : Byte)])) ∧ ((x13 (1537 : Nat) [(1 : Byte)]).par (0 : Nat) (8 :
      Nat) % (1048576 : Nat) ≠ (0 : Nat) ∨ (2 : Nat) ^ (48 : Nat) ≤ (x13 (1537 : Nat) [(1 : Byte)]).par (0 : Nat) (8 : Nat))) ∧
    ((at339.starts ↑m17 (1537 : Nat) at340) ∧ (at340.par (0 : Nat) (8 : Nat) % (1048576 : Nat) = (0 : Nat)) ∧ (at340.par (0 :
      Nat) (8 : Nat) < (2 : Nat) ^ (48 : Nat))) ∧
    ((at341.starts ↑m17 (1538 : Nat) (xmr ((2 : Nat) ^ (48 : Nat) - (1 : Nat)) (2 : Nat))) ∧ (at341.dev.frozenSp (5 : Nat) =
      false) ∧ ((2 : Nat) ^ (48 : Nat) < (xmr ((2 : Nat) ^ (48 : Nat) - (1 : Nat)) (2 : Nat)).par (0 : Nat) (8 : Nat) + (xmr ((2
      : Nat) ^ (48 : Nat) - (1 : Nat)) (2 : Nat)).par (16 : Nat) (8 : Nat))) ∧
    (((wSecG (xmr gA (64 : Nat))).starts ↑m17 (1538 : Nat) (xmr gA (64 : Nat))) ∧ ((wSecG (xmr gA (64 : Nat))).dev.frozenSp (5
      : Nat) = false) ∧ ((xmr gA (64 : Nat)).par (0 : Nat) (8 : Nat) + (xmr gA (64 : Nat)).par (16 : Nat) (8 : Nat) ≤ (2 : Nat)
      ^ (48 : Nat)) ∧ ((wSecG (xmr gA (64 : Nat))).dev.noRange (wSecG (xmr gA (64 : Nat))).fuses (↑m17) ((xmr gA (64 : Nat)).par
      (0 : Nat) (8 : Nat)) ((xmr gA (64 : Nat)).par (16 : Nat) (8 : Nat)) = true)) ∧
    (((wC (xmr gA (70 : Nat)) []).starts ↑m17 (1538 : Nat) (xmr gA (70 : Nat))) ∧ ((wC (xmr gA (70 : Nat)) []).dev.frozenSp (5
      : Nat) = false) ∧ ((xmr gA (70 : Nat)).par (0 : Nat) (8 : Nat) + (xmr gA (70 : Nat)).par (16 : Nat) (8 : Nat) ≤ (2 : Nat)
      ^ (48 : Nat)) ∧ ((wC (xmr gA (70 : Nat)) []).dev.noRange (wC (xmr gA (70 : Nat)) []).fuses (↑m17) ((xmr gA (70 : Nat)).par
      (0 : Nat) (8 : Nat)) ((xmr gA (70 : Nat)).par (16 : Nat) (8 : Nat)) = false)) ∧
    (((wC (xmr spA (64 : Nat)) []).starts ↑m17 (1538 : Nat) (xmr spA (64 : Nat))) ∧ ((wC (xmr spA (64 : Nat)) []).dev.frozenSp
      (5 : Nat) = false) ∧ ((xmr spA (64 : Nat)).par (0 : Nat) (8 : Nat) + (xmr spA (64 : Nat)).par (16 : Nat) (8 : Nat) ≤ (2 :
      Nat) ^ (48 : Nat)) ∧ ((wC (xmr spA (64 : Nat)) []).dev.noRange (wC (xmr spA (64 : Nat)) []).fuses (↑m17) ((xmr spA (64 :
      Nat)).par (0 : Nat) (8 : Nat)) ((xmr spA (64 : Nat)).par (16 : Nat) (8 : Nat)) = false) ∧ (placeOf ((xmr spA (64 :
      Nat)).par (0 : Nat) (8 : Nat)) = some (Place.sp spO)) ∧ ((0 : Nat) < (xmr spA (64 : Nat)).par (16 : Nat) (8 : Nat)) ∧
      ((xmr spA (64 : Nat)).par (0 : Nat) (8 : Nat) % (64 : Nat) + (xmr spA (64 : Nat)).par (16 : Nat) (8 : Nat) ≤ (64 : Nat)) ∧
      ((wC (xmr spA (64 : Nat)) []).dev.worldBad ((wC (xmr spA (64 : Nat)) []).fuses.mbxSecure ↑m17) ((xmr spA (64 : Nat)).par
      (0 : Nat) (8 : Nat)) = false)) ∧
    ((at342.starts ↑m17 (1538 : Nat) (xmr gA (64 : Nat))) ∧ (at342.dev.frozenSp (5 : Nat) = false) ∧ ((xmr gA (64 : Nat)).par
      (0 : Nat) (8 : Nat) + (xmr gA (64 : Nat)).par (16 : Nat) (8 : Nat) ≤ (2 : Nat) ^ (48 : Nat)) ∧ (at342.dev.noRange
      at342.fuses (↑m17) ((xmr gA (64 : Nat)).par (0 : Nat) (8 : Nat)) ((xmr gA (64 : Nat)).par (16 : Nat) (8 : Nat)) = false) ∧
      (placeOf ((xmr gA (64 : Nat)).par (0 : Nat) (8 : Nat)) = some (Place.gran grB grO)) ∧ ((0 : Nat) < (xmr gA (64 : Nat)).par
      (16 : Nat) (8 : Nat)) ∧ ((xmr gA (64 : Nat)).par (0 : Nat) (8 : Nat) % (64 : Nat) + (xmr gA (64 : Nat)).par (16 : Nat) (8
      : Nat) ≤ (64 : Nat)) ∧ (at342.dev.heldDie (16 : Nat) = false) ∧ (at342.dev.heldDie (baseSel grB) = false) ∧
      (at342.dev.worldBad (at342.fuses.mbxSecure ↑m17) ((xmr gA (64 : Nat)).par (0 : Nat) (8 : Nat)) = false) ∧
      (at342.dev.wipeGate ((xmr gA (64 : Nat)).par (0 : Nat) (8 : Nat)) (Place.gran grB grO) = none) ∧ (¬(16 : Nat) * grB + grO
      / (1572864 : Nat) ∈ at342.dev.sec.zeroing) ∧ (at342.dev.asleep (retGran grB (grO / (1572864 : Nat))) = false) ∧ (∀ (w :
      Nat), w ∈ granWords ((xmr gA (64 : Nat)).par (0 : Nat) (8 : Nat)) ((xmr gA (64 : Nat)).par (16 : Nat) (8 : Nat)) →
      at342.dev.granMark w = { : Mark }) ∧ (at342.dev.on (Reg.NOC_STAT_CTL_en (16 : Nat) (19 : Nat)) = false)) ∧
    ((at343.live = true) ∧ (at344 = at343.dev.hostTake hmW) ∧ ((at343.withDev at344).starts ↑m17 (1539 : Nat) (xmw spA (4 :
      Nat))) ∧ (at344.frozenSp (5 : Nat) = true)) ∧
    ((at345.live = true) ∧ (at346 = at345.dev.hostTake hmX) ∧ ((at345.withDev at346).starts ↑m17 (1539 : Nat) (xmw spA (4 :
      Nat))) ∧ (at346.frozenSp (5 : Nat) = false) ∧ (at346.hostReaches ((xmw spA (4 : Nat)).par (8 : Nat) (8 : Nat)) ((xmw spA
      (4 : Nat)).par (16 : Nat) (8 : Nat)) = false)) ∧
    (((lnk (wC (xmw ((2 : Nat) ^ (48 : Nat) - (1 : Nat)) (2 : Nat)) [])).live = true) ∧ (vTake hmX (lnk (wC (xmw ((2 : Nat) ^
      (48 : Nat) - (1 : Nat)) (2 : Nat)) [])) = (lnk (wC (xmw ((2 : Nat) ^ (48 : Nat) - (1 : Nat)) (2 : Nat)) [])).dev.hostTake
      hmX) ∧ (((lnk (wC (xmw ((2 : Nat) ^ (48 : Nat) - (1 : Nat)) (2 : Nat)) [])).withDev (vTake hmX (lnk (wC (xmw ((2 : Nat) ^
      (48 : Nat) - (1 : Nat)) (2 : Nat)) [])))).starts ↑m17 (1539 : Nat) (xmw ((2 : Nat) ^ (48 : Nat) - (1 : Nat)) (2 : Nat))) ∧
      ((vTake hmX (lnk (wC (xmw ((2 : Nat) ^ (48 : Nat) - (1 : Nat)) (2 : Nat)) []))).frozenSp (5 : Nat) = false) ∧ ((vTake hmX
      (lnk (wC (xmw ((2 : Nat) ^ (48 : Nat) - (1 : Nat)) (2 : Nat)) []))).hostReaches ((xmw ((2 : Nat) ^ (48 : Nat) - (1 : Nat))
      (2 : Nat)).par (8 : Nat) (8 : Nat)) ((xmw ((2 : Nat) ^ (48 : Nat) - (1 : Nat)) (2 : Nat)).par (16 : Nat) (8 : Nat)) =
      true) ∧ (dat (2 : Nat) = Memory.readBytes (vTake hmX (lnk (wC (xmw ((2 : Nat) ^ (48 : Nat) - (1 : Nat)) (2 : Nat))
      []))).host.mem ((xmw ((2 : Nat) ^ (48 : Nat) - (1 : Nat)) (2 : Nat)).par (8 : Nat) (8 : Nat)) ((xmw ((2 : Nat) ^ (48 :
      Nat) - (1 : Nat)) (2 : Nat)).par (16 : Nat) (8 : Nat))) ∧ ((2 : Nat) ^ (48 : Nat) < (xmw ((2 : Nat) ^ (48 : Nat) - (1 :
      Nat)) (2 : Nat)).par (0 : Nat) (8 : Nat) + (dat (2 : Nat)).length)) ∧
    ((at347.live = true) ∧ (at348 = at347.dev.hostTake hmX) ∧ ((at347.withDev at348).starts ↑m17 (1539 : Nat) (xmw gA (3 :
      Nat))) ∧ (at348.frozenSp (5 : Nat) = false) ∧ (at348.hostReaches ((xmw gA (3 : Nat)).par (8 : Nat) (8 : Nat)) ((xmw gA (3
      : Nat)).par (16 : Nat) (8 : Nat)) = true) ∧ (dat (3 : Nat) = Memory.readBytes at348.host.mem ((xmw gA (3 : Nat)).par (8 :
      Nat) (8 : Nat)) ((xmw gA (3 : Nat)).par (16 : Nat) (8 : Nat))) ∧ ((xmw gA (3 : Nat)).par (0 : Nat) (8 : Nat) + (dat (3 :
      Nat)).length ≤ (2 : Nat) ^ (48 : Nat)) ∧ (at348.noRange at347.fuses (↑m17) ((xmw gA (3 : Nat)).par (0 : Nat) (8 : Nat))
      (dat (3 : Nat)).length = true)) ∧
    ((at349.live = true) ∧ (at350 = at349.dev.hostTake hmX) ∧ ((at349.withDev at350).starts ↑m17 (1539 : Nat) (xmw gA (3 :
      Nat))) ∧ (at350.frozenSp (5 : Nat) = false) ∧ (at350.hostReaches ((xmw gA (3 : Nat)).par (8 : Nat) (8 : Nat)) ((xmw gA (3
      : Nat)).par (16 : Nat) (8 : Nat)) = true) ∧ (dat (3 : Nat) = Memory.readBytes at350.host.mem ((xmw gA (3 : Nat)).par (8 :
      Nat) (8 : Nat)) ((xmw gA (3 : Nat)).par (16 : Nat) (8 : Nat))) ∧ ((xmw gA (3 : Nat)).par (0 : Nat) (8 : Nat) + (dat (3 :
      Nat)).length ≤ (2 : Nat) ^ (48 : Nat)) ∧ (at350.noRange at349.fuses (↑m17) ((xmw gA (3 : Nat)).par (0 : Nat) (8 : Nat))
      (dat (3 : Nat)).length = false)) ∧
    ((at345.live = true) ∧ (at351 = at345.dev.hostTake hmW) ∧ ((at345.withDev at351).starts ↑m17 (1539 : Nat) (xmw spA (4 :
      Nat))) ∧ (at351.frozenSp (5 : Nat) = false) ∧ (at351.hostReaches ((xmw spA (4 : Nat)).par (8 : Nat) (8 : Nat)) ((xmw spA
      (4 : Nat)).par (16 : Nat) (8 : Nat)) = true) ∧ (dat (4 : Nat) = Memory.readBytes at351.host.mem ((xmw spA (4 : Nat)).par
      (8 : Nat) (8 : Nat)) ((xmw spA (4 : Nat)).par (16 : Nat) (8 : Nat))) ∧ ((xmw spA (4 : Nat)).par (0 : Nat) (8 : Nat) + (dat
      (4 : Nat)).length ≤ (2 : Nat) ^ (48 : Nat)) ∧ (at351.noRange at345.fuses (↑m17) ((xmw spA (4 : Nat)).par (0 : Nat) (8 :
      Nat)) (dat (4 : Nat)).length = false) ∧ (placeOf ((xmw spA (4 : Nat)).par (0 : Nat) (8 : Nat)) = some (Place.sp spO)) ∧
      ((0 : Nat) < (dat (4 : Nat)).length) ∧ ((xmw spA (4 : Nat)).par (0 : Nat) (8 : Nat) % (64 : Nat) + (dat (4 : Nat)).length
      ≤ (64 : Nat)) ∧ (at345.dev.worldBad (at345.fuses.mbxSecure ↑m17) ((xmw spA (4 : Nat)).par (0 : Nat) (8 : Nat)) = false)) ∧
    (((wC (xmf gA (4 : Byte)) []).starts ↑m17 (1540 : Nat) (xmf gA (4 : Byte))) ∧ ((wC (xmf gA (4 : Byte)) []).dev.frozenSp (5
      : Nat) = false) ∧ ((xmf gA (4 : Byte)).par (8 : Nat) (8 : Nat) % (8 : Nat) ≠ (0 : Nat))) ∧
    ((at352.starts ↑m17 (1540 : Nat) (xmf ((2 : Nat) ^ (48 : Nat) - (15 : Nat)) (16 : Byte))) ∧ (at352.dev.frozenSp (5 : Nat)
      = false) ∧ (pat (2 : Nat) = (List.replicate ((xmf ((2 : Nat) ^ (48 : Nat) - (15 : Nat)) (16 : Byte)).par (8 : Nat) (8 :
      Nat) / (8 : Nat)) (slice (xmf ((2 : Nat) ^ (48 : Nat) - (15 : Nat)) (16 : Byte)).p (16 : Nat) (8 : Nat))).flatten) ∧ ((xmf
      ((2 : Nat) ^ (48 : Nat) - (15 : Nat)) (16 : Byte)).par (8 : Nat) (8 : Nat) % (8 : Nat) = (0 : Nat)) ∧ ((2 : Nat) ^ (48 :
      Nat) < (xmf ((2 : Nat) ^ (48 : Nat) - (15 : Nat)) (16 : Byte)).par (0 : Nat) (8 : Nat) + (pat (2 : Nat)).length)) ∧
    (((wSecG (xmf gA (16 : Byte))).starts ↑m17 (1540 : Nat) (xmf gA (16 : Byte))) ∧ ((wSecG (xmf gA (16 : Byte))).dev.frozenSp
      (5 : Nat) = false) ∧ (pat (2 : Nat) = (List.replicate ((xmf gA (16 : Byte)).par (8 : Nat) (8 : Nat) / (8 : Nat)) (slice
      (xmf gA (16 : Byte)).p (16 : Nat) (8 : Nat))).flatten) ∧ ((xmf gA (16 : Byte)).par (8 : Nat) (8 : Nat) % (8 : Nat) = (0 :
      Nat)) ∧ ((xmf gA (16 : Byte)).par (0 : Nat) (8 : Nat) + (pat (2 : Nat)).length ≤ (2 : Nat) ^ (48 : Nat)) ∧ ((wSecG (xmf gA
      (16 : Byte))).dev.noRange (wSecG (xmf gA (16 : Byte))).fuses (↑m17) ((xmf gA (16 : Byte)).par (0 : Nat) (8 : Nat)) (pat (2
      : Nat)).length = true)) ∧
    (((wC (xmf gA (16 : Byte)) []).starts ↑m17 (1540 : Nat) (xmf gA (16 : Byte))) ∧ ((wC (xmf gA (16 : Byte)) []).dev.frozenSp
      (5 : Nat) = false) ∧ (pat (2 : Nat) = (List.replicate ((xmf gA (16 : Byte)).par (8 : Nat) (8 : Nat) / (8 : Nat)) (slice
      (xmf gA (16 : Byte)).p (16 : Nat) (8 : Nat))).flatten) ∧ ((xmf gA (16 : Byte)).par (8 : Nat) (8 : Nat) % (8 : Nat) = (0 :
      Nat)) ∧ ((xmf gA (16 : Byte)).par (0 : Nat) (8 : Nat) + (pat (2 : Nat)).length ≤ (2 : Nat) ^ (48 : Nat)) ∧ ((wC (xmf gA
      (16 : Byte)) []).dev.noRange (wC (xmf gA (16 : Byte)) []).fuses (↑m17) ((xmf gA (16 : Byte)).par (0 : Nat) (8 : Nat)) (pat
      (2 : Nat)).length = false)) ∧
    (((wC (xmf spA (64 : Byte)) []).starts ↑m17 (1540 : Nat) (xmf spA (64 : Byte))) ∧ ((wC (xmf spA (64 : Byte))
      []).dev.frozenSp (5 : Nat) = false) ∧ (pat (8 : Nat) = (List.replicate ((xmf spA (64 : Byte)).par (8 : Nat) (8 : Nat) / (8
      : Nat)) (slice (xmf spA (64 : Byte)).p (16 : Nat) (8 : Nat))).flatten) ∧ ((xmf spA (64 : Byte)).par (8 : Nat) (8 : Nat) %
      (8 : Nat) = (0 : Nat)) ∧ ((xmf spA (64 : Byte)).par (0 : Nat) (8 : Nat) + (pat (8 : Nat)).length ≤ (2 : Nat) ^ (48 : Nat))
      ∧ ((wC (xmf spA (64 : Byte)) []).dev.noRange (wC (xmf spA (64 : Byte)) []).fuses (↑m17) ((xmf spA (64 : Byte)).par (0 :
      Nat) (8 : Nat)) (pat (8 : Nat)).length = false) ∧ (placeOf ((xmf spA (64 : Byte)).par (0 : Nat) (8 : Nat)) = some
      (Place.sp spO)) ∧ ((0 : Nat) < (pat (8 : Nat)).length) ∧ ((xmf spA (64 : Byte)).par (0 : Nat) (8 : Nat) % (64 : Nat) +
      (pat (8 : Nat)).length ≤ (64 : Nat)) ∧ ((wC (xmf spA (64 : Byte)) []).dev.worldBad ((wC (xmf spA (64 : Byte))
      []).fuses.mbxSecure ↑m17) ((xmf spA (64 : Byte)).par (0 : Nat) (8 : Nat)) = false)) ∧
    (((wC (xhi (4 : Byte) (0 : Byte)) []).starts ↑m17 (1541 : Nat) (xhi (4 : Byte) (0 : Byte))) ∧ ((3 : Nat) < (xhi (4 : Byte)
      (0 : Byte)).par (0 : Nat) (1 : Nat) ∨ (3 : Nat) < (xhi (4 : Byte) (0 : Byte)).par (1 : Nat) (1 : Nat))) ∧
    ((at353.starts ↑m17 (1541 : Nat) (xhi (2 : Byte) (3 : Byte))) ∧ ((xhi (2 : Byte) (3 : Byte)).par (0 : Nat) (1 : Nat) ≤ (3
      : Nat)) ∧ ((xhi (2 : Byte) (3 : Byte)).par (1 : Nat) (1 : Nat) ≤ (3 : Nat)) ∧ (at353.dev.noWorld at353.fuses (↑m17)
      (Reg.HBM_MAP_CTL (16 : Nat)) = false) ∧ ((fun b => (fun b => at353.dev.on (Reg.HBM_MAP_CTL_lock (baseSel b))) b = true ∧
      (fun n => if n = (3 : Nat) then (1 : Nat) else n) (at353.dev.get (Reg.HBM_MAP_CTL_order (baseSel b))) ≠ (fun n => if n =
      (3 : Nat) then (1 : Nat) else n) ((xhi (2 : Byte) (3 : Byte)).par (0 : Nat) (1 : Nat))) ↑k3b)) ∧
    (((busyHbm (xhi (2 : Byte) (3 : Byte))).starts ↑m17 (1541 : Nat) (xhi (2 : Byte) (3 : Byte))) ∧ ((xhi (2 : Byte) (3 :
      Byte)).par (0 : Nat) (1 : Nat) ≤ (3 : Nat)) ∧ ((xhi (2 : Byte) (3 : Byte)).par (1 : Nat) (1 : Nat) ≤ (3 : Nat)) ∧
      ((busyHbm (xhi (2 : Byte) (3 : Byte))).dev.noWorld (busyHbm (xhi (2 : Byte) (3 : Byte))).fuses (↑m17) (Reg.HBM_MAP_CTL (16
      : Nat)) = false) ∧ (∀ (b : Fin (4 : Nat)), ¬(fun b => (fun b => (busyHbm (xhi (2 : Byte) (3 : Byte))).dev.on
      (Reg.HBM_MAP_CTL_lock (baseSel b))) b = true ∧ (fun n => if n = (3 : Nat) then (1 : Nat) else n) ((busyHbm (xhi (2 : Byte)
      (3 : Byte))).dev.get (Reg.HBM_MAP_CTL_order (baseSel b))) ≠ (fun n => if n = (3 : Nat) then (1 : Nat) else n) ((xhi (2 :
      Byte) (3 : Byte)).par (0 : Nat) (1 : Nat))) ↑b) ∧ ((busyHbm (xhi (2 : Byte) (3 : Byte))).dev.stacksHeld (List.range (8 :
      Nat)) = true)) ∧
    (((wC (xhi (2 : Byte) (3 : Byte)) []).starts ↑m17 (1541 : Nat) (xhi (2 : Byte) (3 : Byte))) ∧ ((xhi (2 : Byte) (3 :
      Byte)).par (0 : Nat) (1 : Nat) ≤ (3 : Nat)) ∧ ((xhi (2 : Byte) (3 : Byte)).par (1 : Nat) (1 : Nat) ≤ (3 : Nat)) ∧ ((wC
      (xhi (2 : Byte) (3 : Byte)) []).dev.noWorld (wC (xhi (2 : Byte) (3 : Byte)) []).fuses (↑m17) (Reg.HBM_MAP_CTL (16 : Nat))
      = false) ∧ (∀ (b : Fin (4 : Nat)), ¬(fun b => (fun b => (wC (xhi (2 : Byte) (3 : Byte)) []).dev.on (Reg.HBM_MAP_CTL_lock
      (baseSel b))) b = true ∧ (fun n => if n = (3 : Nat) then (1 : Nat) else n) ((wC (xhi (2 : Byte) (3 : Byte)) []).dev.get
      (Reg.HBM_MAP_CTL_order (baseSel b))) ≠ (fun n => if n = (3 : Nat) then (1 : Nat) else n) ((xhi (2 : Byte) (3 : Byte)).par
      (0 : Nat) (1 : Nat))) ↑b) ∧ ((wC (xhi (2 : Byte) (3 : Byte)) []).dev.stacksHeld (List.range (8 : Nat)) = false)) ∧
    ((at355.starts ↑m17 (1542 : Nat) (x13 (1542 : Nat) [(128 : Byte)])) ∧ (at355.dev.noWorld at355.fuses (↑m17)
      (Reg.HBM_MAP_CTL (16 : Nat)) = false) ∧ (at355.dev.stacksHeld (stacksOf ((x13 (1542 : Nat) [(128 : Byte)]).par (0 : Nat)
      (1 : Nat))) = true)) ∧
    ((at356.starts ↑m17 (1542 : Nat) (x13 (1542 : Nat) [(65 : Byte)])) ∧ (at356.dev.noWorld at356.fuses (↑m17)
      (Reg.HBM_MAP_CTL (16 : Nat)) = false) ∧ (at356.dev.stacksHeld (stacksOf ((x13 (1542 : Nat) [(65 : Byte)]).par (0 : Nat) (1
      : Nat))) = false)) ∧
    ((at357.starts ↑m17 (1543 : Nat) at358) ∧ ((3 : Nat) < at358.par (1 : Nat) (1 : Nat))) ∧
    ((at359.starts ↑m17 (1543 : Nat) at360) ∧ (at360.par (1 : Nat) (1 : Nat) ≤ (3 : Nat)) ∧ (at359.dev.noWorld at359.fuses
      (↑m17) (Reg.HBM_MAP_CTL (16 : Nat)) = false) ∧ (at359.dev.stacksHeld (stacksOf (at360.par (0 : Nat) (1 : Nat))) = true)) ∧
    ((at361.starts ↑m17 (1543 : Nat) at360) ∧ (at360.par (1 : Nat) (1 : Nat) ≤ (3 : Nat)) ∧ (at361.dev.noWorld at361.fuses
      (↑m17) (Reg.HBM_MAP_CTL (16 : Nat)) = false) ∧ (at361.dev.stacksHeld (stacksOf (at360.par (0 : Nat) (1 : Nat))) = false))
      ∧
    (((wC (xpr (2 : Byte)) []).starts ↑m17 (1544 : Nat) (xpr (2 : Byte))) ∧ ((xpr (2 : Byte)).par (0 : Nat) (1 : Nat) = ↑m7) ∧
      ((xpr (2 : Byte)).par (1 : Nat) (1 : Nat) = ↑r3) ∧ ((xpr (2 : Byte)).par (4 : Nat) (1 : Nat) < (16 : Nat)) ∧ ((xpr (2 :
      Byte)).par (2 : Nat) (1 : Nat) < (64 : Nat)) ∧ ((xpr (2 : Byte)).par (3 : Nat) (1 : Nat) < (128 : Nat)) ∧ ((1 : Nat) <
      (xpr (2 : Byte)).par (5 : Nat) (1 : Nat))) ∧
    (((wN (xpr (0 : Byte)) []).starts ↑m17 (1544 : Nat) (xpr (0 : Byte))) ∧ ((xpr (0 : Byte)).par (0 : Nat) (1 : Nat) = ↑m7) ∧
      ((xpr (0 : Byte)).par (1 : Nat) (1 : Nat) = ↑r3) ∧ ((xpr (0 : Byte)).par (4 : Nat) (1 : Nat) < (16 : Nat)) ∧ ((xpr (0 :
      Byte)).par (2 : Nat) (1 : Nat) < (64 : Nat)) ∧ ((xpr (0 : Byte)).par (3 : Nat) (1 : Nat) < (128 : Nat)) ∧ ((xpr (0 :
      Byte)).par (5 : Nat) (1 : Nat) ≤ (1 : Nat)) ∧ ((wN (xpr (0 : Byte)) []).fuses.mbxSecure ↑m17 = false)) ∧
    (((busyRg (xpr (1 : Byte))).starts ↑m17 (1544 : Nat) (xpr (1 : Byte))) ∧ ((xpr (1 : Byte)).par (0 : Nat) (1 : Nat) = ↑m7)
      ∧ ((xpr (1 : Byte)).par (1 : Nat) (1 : Nat) = ↑r3) ∧ ((xpr (1 : Byte)).par (4 : Nat) (1 : Nat) < (16 : Nat)) ∧ ((xpr (1 :
      Byte)).par (2 : Nat) (1 : Nat) < (64 : Nat)) ∧ ((xpr (1 : Byte)).par (3 : Nat) (1 : Nat) < (128 : Nat)) ∧ ((xpr (1 :
      Byte)).par (5 : Nat) (1 : Nat) ≤ (1 : Nat)) ∧ ((busyRg (xpr (1 : Byte))).fuses.mbxSecure ↑m17 = true) ∧ (((busyRg (xpr (1
      : Byte))).dev.heldBy fun j => match j.wait with | JobWait.region a b target => a == ↑m7 && b == ↑r3 | x => false) = true))
      ∧
    (((wC (xpr (1 : Byte)) []).starts ↑m17 (1544 : Nat) (xpr (1 : Byte))) ∧ ((xpr (1 : Byte)).par (0 : Nat) (1 : Nat) = ↑m7) ∧
      ((xpr (1 : Byte)).par (1 : Nat) (1 : Nat) = ↑r3) ∧ ((xpr (1 : Byte)).par (4 : Nat) (1 : Nat) < (16 : Nat)) ∧ ((xpr (1 :
      Byte)).par (2 : Nat) (1 : Nat) < (64 : Nat)) ∧ ((xpr (1 : Byte)).par (3 : Nat) (1 : Nat) < (128 : Nat)) ∧ ((xpr (1 :
      Byte)).par (5 : Nat) (1 : Nat) = (1 : Nat)) ∧ ((wC (xpr (1 : Byte)) []).fuses.mbxSecure ↑m17 = true) ∧ (((wC (xpr (1 :
      Byte)) []).dev.heldBy fun j => match j.wait with | JobWait.region a b target => a == ↑m7 && b == ↑r3 | x => false) =
      false) ∧ ((wC (xpr (1 : Byte)) []).dev.rgnState ↑m7 ↑r3 ≠ (2 : Nat))) ∧
    ((at362.starts ↑m17 (1544 : Nat) (xpr (1 : Byte))) ∧ ((xpr (1 : Byte)).par (0 : Nat) (1 : Nat) = ↑m7) ∧ ((xpr (1 :
      Byte)).par (1 : Nat) (1 : Nat) = ↑r3) ∧ ((xpr (1 : Byte)).par (4 : Nat) (1 : Nat) < (16 : Nat)) ∧ ((xpr (1 : Byte)).par (2
      : Nat) (1 : Nat) < (64 : Nat)) ∧ ((xpr (1 : Byte)).par (3 : Nat) (1 : Nat) < (128 : Nat)) ∧ ((xpr (1 : Byte)).par (5 :
      Nat) (1 : Nat) = (1 : Nat)) ∧ (at362.fuses.mbxSecure ↑m17 = true) ∧ ((at362.dev.heldBy fun j =>
      match j.wait with | JobWait.region a b target => a == ↑m7 && b == ↑r3 | x => false) = false) ∧ (at362.dev.rgnState ↑m7 ↑r3
      = (2 : Nat))) ∧
    ((at363.starts ↑m17 (1544 : Nat) (xpr (0 : Byte))) ∧ ((xpr (0 : Byte)).par (0 : Nat) (1 : Nat) = ↑m7) ∧ ((xpr (0 :
      Byte)).par (1 : Nat) (1 : Nat) = ↑r3) ∧ ((xpr (0 : Byte)).par (4 : Nat) (1 : Nat) < (16 : Nat)) ∧ ((xpr (0 : Byte)).par (2
      : Nat) (1 : Nat) < (64 : Nat)) ∧ ((xpr (0 : Byte)).par (3 : Nat) (1 : Nat) < (128 : Nat)) ∧ ((xpr (0 : Byte)).par (5 :
      Nat) (1 : Nat) = (0 : Nat)) ∧ (at363.fuses.mbxSecure ↑m17 = true) ∧ ((at363.dev.heldBy fun j =>
      match j.wait with | JobWait.region a b target => a == ↑m7 && b == ↑r3 | x => false) = false) ∧ (at363.dev.rgnState ↑m7 ↑r3
      ≠ (0 : Nat))) ∧
    ((wEn.starts ↑m17 (1544 : Nat) (xpr (0 : Byte))) ∧ ((xpr (0 : Byte)).par (0 : Nat) (1 : Nat) = ↑m7) ∧ ((xpr (0 :
      Byte)).par (1 : Nat) (1 : Nat) = ↑r3) ∧ ((xpr (0 : Byte)).par (4 : Nat) (1 : Nat) < (16 : Nat)) ∧ ((xpr (0 : Byte)).par (2
      : Nat) (1 : Nat) < (64 : Nat)) ∧ ((xpr (0 : Byte)).par (3 : Nat) (1 : Nat) < (128 : Nat)) ∧ ((xpr (0 : Byte)).par (5 :
      Nat) (1 : Nat) = (0 : Nat)) ∧ (wEn.fuses.mbxSecure ↑m17 = true) ∧ ((wEn.dev.heldBy fun j =>
      match j.wait with | JobWait.region a b target => a == ↑m7 && b == ↑r3 | x => false) = false) ∧ (wEn.dev.rgnState ↑m7 ↑r3 =
      (0 : Nat)) ∧ (wEn.dev = if wEn.dev.on (Reg.MEMSEC_STK_CTL_enable (stackSel ↑m7) (↑m7 % (2 : Nat))) = true then wEn.dev
      else wEn.dev.regPut wEn.fuses (mbWho wEn.fuses ↑m17) (Reg.MEMSEC_STK_CTL (stackSel ↑m7) (↑m7 % (2 : Nat))) (1 : Word))) :=
      by
  and_intros <;> decide +kernel

theorem test_meets_LinkAndClusterCommands :
    (((wC (xlu (3 : Byte) (3 : Byte)) []).starts ↑m17 (1793 : Nat) (xlu (3 : Byte) (3 : Byte))) ∧ ((4 : Nat) ≤ (xlu (3 : Byte)
      (3 : Byte)).par (0 : Nat) (1 : Nat) ∨ (3 : Nat) ≤ (xlu (3 : Byte) (3 : Byte)).par (14 : Nat) (1 : Nat))) ∧
    ((at364.starts ↑m17 (1793 : Nat) (xlu (0 : Byte) (3 : Byte))) ∧ ((xlu (0 : Byte) (3 : Byte)).par (0 : Nat) (1 : Nat) < (4
      : Nat)) ∧ ((xlu (0 : Byte) (3 : Byte)).par (14 : Nat) (1 : Nat) < (3 : Nat)) ∧ ((xlu (0 : Byte) (3 : Byte)).par (14 : Nat)
      (1 : Nat) = (2 : Nat) → (xlu (0 : Byte) (3 : Byte)).par (15 : Nat) (1 : Nat) < (16 : Nat) ∧ (xlu (0 : Byte) (3 :
      Byte)).par (16 : Nat) (1 : Nat) < (2 : Nat)) ∧ (at364.dev.noWorld at364.fuses (↑m17) (Reg.LANE_CTL (16 : Nat) (0 : Nat)) =
      false) ∧ (at364.dev.lanesHeld (lanesOf ((xlu (0 : Byte) (3 : Byte)).par (0 : Nat) (1 : Nat)) ((xlu (0 : Byte) (3 :
      Byte)).par (8 : Nat) (6 : Nat))) = true)) ∧
    (((wC (xlu (0 : Byte) (3 : Byte)) []).starts ↑m17 (1793 : Nat) (xlu (0 : Byte) (3 : Byte))) ∧ ((xlu (0 : Byte) (3 :
      Byte)).par (0 : Nat) (1 : Nat) < (4 : Nat)) ∧ ((xlu (0 : Byte) (3 : Byte)).par (14 : Nat) (1 : Nat) < (3 : Nat)) ∧ ((xlu
      (0 : Byte) (3 : Byte)).par (14 : Nat) (1 : Nat) = (2 : Nat) → (xlu (0 : Byte) (3 : Byte)).par (15 : Nat) (1 : Nat) < (16 :
      Nat) ∧ (xlu (0 : Byte) (3 : Byte)).par (16 : Nat) (1 : Nat) < (2 : Nat)) ∧ ((wC (xlu (0 : Byte) (3 : Byte))
      []).dev.noWorld (wC (xlu (0 : Byte) (3 : Byte)) []).fuses (↑m17) (Reg.LANE_CTL (16 : Nat) (0 : Nat)) = false) ∧ ((wC (xlu
      (0 : Byte) (3 : Byte)) []).dev.lanesHeld (lanesOf ((xlu (0 : Byte) (3 : Byte)).par (0 : Nat) (1 : Nat)) ((xlu (0 : Byte)
      (3 : Byte)).par (8 : Nat) (6 : Nat))) = false)) ∧
    ((at365.dev.on (Reg.LANE_BANK_CTL_enable (bankSel (↑l191 / (16 : Nat))) (↑l191 / (16 : Nat) % (3 : Nat))) = true)) ∧
    (((wC (xld2 (4 : Byte)) []).starts ↑m17 (1794 : Nat) (xld2 (4 : Byte))) ∧ ((4 : Nat) ≤ (xld2 (4 : Byte)).par (0 : Nat) (1
      : Nat))) ∧
    ((at366.starts ↑m17 (1794 : Nat) (xld2 (3 : Byte))) ∧ ((xld2 (3 : Byte)).par (0 : Nat) (1 : Nat) < (4 : Nat)) ∧
      (at366.dev.noWorld at366.fuses (↑m17) (Reg.LANE_CTL (16 : Nat) (0 : Nat)) = false) ∧ (at366.dev.lanesHeld (lanesOf ((xld2
      (3 : Byte)).par (0 : Nat) (1 : Nat)) ((xld2 (3 : Byte)).par (8 : Nat) (6 : Nat))) = true)) ∧
    (((wC (xld2 (3 : Byte)) []).starts ↑m17 (1794 : Nat) (xld2 (3 : Byte))) ∧ ((xld2 (3 : Byte)).par (0 : Nat) (1 : Nat) < (4
      : Nat)) ∧ ((wC (xld2 (3 : Byte)) []).dev.noWorld (wC (xld2 (3 : Byte)) []).fuses (↑m17) (Reg.LANE_CTL (16 : Nat) (0 :
      Nat)) = false) ∧ ((wC (xld2 (3 : Byte)) []).dev.lanesHeld (lanesOf ((xld2 (3 : Byte)).par (0 : Nat) (1 : Nat)) ((xld2 (3 :
      Byte)).par (8 : Nat) (6 : Nat))) = false)) ∧
    ((at367.starts ↑m17 (1795 : Nat) (x13 (1795 : Nat) [(192 : Byte)])) ∧ ((192 : Nat) ≤ (x13 (1795 : Nat) [(192 : Byte)]).par
      (0 : Nat) (1 : Nat))) ∧
    ((at368.starts ↑m17 (1795 : Nat) (x13 (1795 : Nat) [(191 : Byte)])) ∧ ((x13 (1795 : Nat) [(191 : Byte)]).par (0 : Nat) (1
      : Nat) = ↑l191) ∧ (at368.dev.noWorld at368.fuses (↑m17) (Reg.LANE_CTL (16 : Nat) (0 : Nat)) = false) ∧ (at368.dev.noWorld
      at368.fuses (↑m17) (Reg.LCH_LINK_CFG (16 : Nat) (0 : Nat)) = false)) ∧
    (((wC (xla (4 : Byte)) []).starts ↑m17 (1796 : Nat) (xla (4 : Byte))) ∧ ((192 : Nat) ≤ (xla (4 : Byte)).par (0 : Nat) (1 :
      Nat) ∨ (4 : Nat) ≤ (xla (4 : Byte)).par (1 : Nat) (1 : Nat) ∨ (16 : Nat) ≤ (xla (4 : Byte)).par (2 : Nat) (1 : Nat) ∨ (128
      : Nat) ≤ (xla (4 : Byte)).par (3 : Nat) (1 : Nat))) ∧
    ((at369.starts ↑m17 (1796 : Nat) (xla (1 : Byte))) ∧ ((xla (1 : Byte)).par (0 : Nat) (1 : Nat) = ↑l191) ∧ ((xla (1 :
      Byte)).par (1 : Nat) (1 : Nat) < (4 : Nat)) ∧ ((xla (1 : Byte)).par (2 : Nat) (1 : Nat) < (16 : Nat)) ∧ ((xla (1 :
      Byte)).par (3 : Nat) (1 : Nat) < (128 : Nat)) ∧ (at369.dev.noWorld at369.fuses (↑m17) (Reg.LCH_LINK_CFG (16 : Nat) (0 :
      Nat)) = false) ∧ (at369.dev.role ≠ (0 : Nat))) ∧
    (((wC (xla (1 : Byte)) upH).starts ↑m17 (1796 : Nat) (xla (1 : Byte))) ∧ ((xla (1 : Byte)).par (0 : Nat) (1 : Nat) =
      ↑l191) ∧ ((xla (1 : Byte)).par (1 : Nat) (1 : Nat) < (4 : Nat)) ∧ ((xla (1 : Byte)).par (2 : Nat) (1 : Nat) < (16 : Nat))
      ∧ ((xla (1 : Byte)).par (3 : Nat) (1 : Nat) < (128 : Nat)) ∧ ((wC (xla (1 : Byte)) upH).dev.noWorld (wC (xla (1 : Byte))
      upH).fuses (↑m17) (Reg.LCH_LINK_CFG (16 : Nat) (0 : Nat)) = false) ∧ ((wC (xla (1 : Byte)) upH).dev.role = (0 : Nat)) ∧
      ((xla (1 : Byte)).par (1 : Nat) (1 : Nat) % (2 : Nat) = (0 : Nat) ∨ ((wC (xla (1 : Byte)) upH).dev.regPut (wC (xla (1 :
      Byte)) upH).fuses (mbWho (wC (xla (1 : Byte)) upH).fuses ↑m17) (Reg.LCH_LINK_CFG (laneSel ↑l191) (laneJ ↑l191))
      (BitVec.ofNat (32 : Nat) ((wC (xla (1 : Byte)) upH).dev.linkCfgWord (↑l191) ((xla (1 : Byte)).par (1 : Nat) (1 : Nat) % (2
      : Nat)) ((xla (1 : Byte)).par (1 : Nat) (1 : Nat) / (2 : Nat)) ((xla (1 : Byte)).par (2 : Nat) (1 : Nat)) ((xla (1 :
      Byte)).par (3 : Nat) (1 : Nat))))).linkState ↑l191 = (2 : Nat))) ∧
    (((wC (xla (1 : Byte)) []).starts ↑m17 (1796 : Nat) (xla (1 : Byte))) ∧ ((xla (1 : Byte)).par (0 : Nat) (1 : Nat) = ↑l191)
      ∧ ((xla (1 : Byte)).par (1 : Nat) (1 : Nat) < (4 : Nat)) ∧ ((xla (1 : Byte)).par (2 : Nat) (1 : Nat) < (16 : Nat)) ∧ ((xla
      (1 : Byte)).par (3 : Nat) (1 : Nat) < (128 : Nat)) ∧ ((wC (xla (1 : Byte)) []).dev.noWorld (wC (xla (1 : Byte)) []).fuses
      (↑m17) (Reg.LCH_LINK_CFG (16 : Nat) (0 : Nat)) = false) ∧ ((wC (xla (1 : Byte)) []).dev.role = (0 : Nat)) ∧ ((xla (1 :
      Byte)).par (1 : Nat) (1 : Nat) % (2 : Nat) = (1 : Nat)) ∧ (((wC (xla (1 : Byte)) []).dev.regPut (wC (xla (1 : Byte))
      []).fuses (mbWho (wC (xla (1 : Byte)) []).fuses ↑m17) (Reg.LCH_LINK_CFG (laneSel ↑l191) (laneJ ↑l191)) (BitVec.ofNat (32 :
      Nat) ((wC (xla (1 : Byte)) []).dev.linkCfgWord (↑l191) ((xla (1 : Byte)).par (1 : Nat) (1 : Nat) % (2 : Nat)) ((xla (1 :
      Byte)).par (1 : Nat) (1 : Nat) / (2 : Nat)) ((xla (1 : Byte)).par (2 : Nat) (1 : Nat)) ((xla (1 : Byte)).par (3 : Nat) (1
      : Nat))))).linkState ↑l191 ≠ (2 : Nat))) ∧
    (((wC (xpb (4 : Byte)) []).starts ↑m17 (1797 : Nat) (xpb (4 : Byte))) ∧ ((192 : Nat) ≤ (xpb (4 : Byte)).par (0 : Nat) (1 :
      Nat) ∨ (4 : Nat) ≤ (xpb (4 : Byte)).par (1 : Nat) (1 : Nat))) ∧
    ((at370.starts ↑m17 (1797 : Nat) (xpb (3 : Byte))) ∧ ((xpb (3 : Byte)).par (0 : Nat) (1 : Nat) = ↑l191) ∧ ((xpb (3 :
      Byte)).par (1 : Nat) (1 : Nat) < (4 : Nat)) ∧ (at370.dev.noWorld at370.fuses (↑m17) (Reg.LANE_CTL (16 : Nat) (0 : Nat)) =
      false) ∧ (at370.dev.lanesHeld [↑l191] = true)) ∧
    (((wC (xpb (3 : Byte)) []).starts ↑m17 (1797 : Nat) (xpb (3 : Byte))) ∧ ((xpb (3 : Byte)).par (0 : Nat) (1 : Nat) = ↑l191)
      ∧ ((xpb (3 : Byte)).par (1 : Nat) (1 : Nat) < (4 : Nat)) ∧ ((wC (xpb (3 : Byte)) []).dev.noWorld (wC (xpb (3 : Byte))
      []).fuses (↑m17) (Reg.LANE_CTL (16 : Nat) (0 : Nat)) = false) ∧ ((wC (xpb (3 : Byte)) []).dev.lanesHeld [↑l191] = false))
      ∧
    (((wC (xey (16 : Byte)) []).starts ↑m17 (1798 : Nat) (xey (16 : Byte))) ∧ ((192 : Nat) ≤ (xey (16 : Byte)).par (0 : Nat)
      (1 : Nat) ∨ (4 : Nat) ≤ (xey (16 : Byte)).par (1 : Nat) (1 : Nat) ∨ (16 : Nat) ≤ (xey (16 : Byte)).par (2 : Nat) (1 :
      Nat))) ∧
    ((at371.starts ↑m17 (1798 : Nat) (xey (15 : Byte))) ∧ ((xey (15 : Byte)).par (0 : Nat) (1 : Nat) = ↑l191) ∧ ((xey (15 :
      Byte)).par (1 : Nat) (1 : Nat) < (4 : Nat)) ∧ ((xey (15 : Byte)).par (2 : Nat) (1 : Nat) < (16 : Nat)) ∧
      (at371.dev.noWorld at371.fuses (↑m17) (Reg.LANE_CTL (16 : Nat) (0 : Nat)) = false) ∧ (at371.dev.lanesHeld [↑l191] = true))
      ∧
    (((wC (xey (15 : Byte)) []).starts ↑m17 (1798 : Nat) (xey (15 : Byte))) ∧ ((xey (15 : Byte)).par (0 : Nat) (1 : Nat) =
      ↑l191) ∧ ((xey (15 : Byte)).par (1 : Nat) (1 : Nat) < (4 : Nat)) ∧ ((xey (15 : Byte)).par (2 : Nat) (1 : Nat) < (16 :
      Nat)) ∧ ((wC (xey (15 : Byte)) []).dev.noWorld (wC (xey (15 : Byte)) []).fuses (↑m17) (Reg.LANE_CTL (16 : Nat) (0 : Nat))
      = false) ∧ ((wC (xey (15 : Byte)) []).dev.lanesHeld [↑l191] = false)) ∧
    (((wN (xcw (9 : Byte)) []).starts ↑m17 (1799 : Nat) (xcw (9 : Byte))) ∧ ((wN (xcw (9 : Byte)) []).dev.noWorld (wN (xcw (9
      : Byte)) []).fuses (↑m17) (Reg.LCH_CTX_SEL (16 : Nat)) = false) ∧ ((((wN (xcw (9 : Byte)) []).dev.ctx ((xcw (9 :
      Byte)).par (0 : Nat) (2 : Nat))).secure || bitOf ((xcw (9 : Byte)).par (4 : Nat) (4 : Nat)) (3 : Nat)) = true) ∧ ((wN (xcw
      (9 : Byte)) []).fuses.mbxSecure ↑m17 = false)) ∧
    (((wC (xcw (1 : Byte)) []).starts ↑m17 (1799 : Nat) (xcw (1 : Byte))) ∧ ((wC (xcw (1 : Byte)) []).dev.noWorld (wC (xcw (1
      : Byte)) []).fuses (↑m17) (Reg.LCH_CTX_SEL (16 : Nat)) = false) ∧ ((((wC (xcw (1 : Byte)) []).dev.ctx ((xcw (1 :
      Byte)).par (0 : Nat) (2 : Nat))).secure || bitOf ((xcw (1 : Byte)).par (4 : Nat) (4 : Nat)) (3 : Nat)) = false ∨ (wC (xcw
      (1 : Byte)) []).fuses.mbxSecure ↑m17 = true) ∧ (((each [(0 : Nat), (1 : Nat), (2 : Nat)] (fun i d => d.regPut (wC (xcw (1
      : Byte)) []).fuses (mbWho (wC (xcw (1 : Byte)) []).fuses ↑m17) (Reg.LCH_CTX_DATA (baseSel (ctxBase ((xcw (1 : Byte)).par
      (0 : Nat) (2 : Nat)))) i) (BitVec.ofNat (32 : Nat) ((xcw (1 : Byte)).par ((4 : Nat) + (4 : Nat) * i) (4 : Nat)))) (((wC
      (xcw (1 : Byte)) []).dev.regPut (wC (xcw (1 : Byte)) []).fuses (mbWho (wC (xcw (1 : Byte)) []).fuses ↑m17)
      (Reg.LCH_CTX_CMD (baseSel (ctxBase ((xcw (1 : Byte)).par (0 : Nat) (2 : Nat))))) (8 : Word)).regPut (wC (xcw (1 : Byte))
      []).fuses (mbWho (wC (xcw (1 : Byte)) []).fuses ↑m17) (Reg.LCH_CTX_SEL (baseSel (ctxBase ((xcw (1 : Byte)).par (0 : Nat)
      (2 : Nat))))) (BitVec.ofNat (32 : Nat) ((xcw (1 : Byte)).par (0 : Nat) (2 : Nat))))).regPut (wC (xcw (1 : Byte)) []).fuses
      (mbWho (wC (xcw (1 : Byte)) []).fuses ↑m17) (Reg.LCH_CTX_CMD (baseSel (ctxBase ((xcw (1 : Byte)).par (0 : Nat) (2 :
      Nat))))) (2 : Word)).on (Reg.LCH_CTX_CMD_refused (baseSel (ctxBase ((xcw (1 : Byte)).par (0 : Nat) (2 : Nat))))) = false))
      ∧
    (((ctxV (wC xcs [])).starts ↑m17 (1799 : Nat) xcs) ∧ ((ctxV (wC xcs [])).dev.noWorld (ctxV (wC xcs [])).fuses (↑m17)
      (Reg.LCH_CTX_SEL (16 : Nat)) = false) ∧ ((((ctxV (wC xcs [])).dev.ctx (xcs.par (0 : Nat) (2 : Nat))).secure || bitOf
      (xcs.par (4 : Nat) (4 : Nat)) (3 : Nat)) = false ∨ (ctxV (wC xcs [])).fuses.mbxSecure ↑m17 = true) ∧ (((each
      [(0 : Nat), (1 : Nat), (2 : Nat)] (fun i d => d.regPut (ctxV (wC xcs [])).fuses (mbWho (ctxV (wC xcs [])).fuses ↑m17)
      (Reg.LCH_CTX_DATA (baseSel (ctxBase (xcs.par (0 : Nat) (2 : Nat)))) i) (BitVec.ofNat (32 : Nat) (xcs.par ((4 : Nat) + (4 :
      Nat) * i) (4 : Nat)))) (((ctxV (wC xcs [])).dev.regPut (ctxV (wC xcs [])).fuses (mbWho (ctxV (wC xcs [])).fuses ↑m17)
      (Reg.LCH_CTX_CMD (baseSel (ctxBase (xcs.par (0 : Nat) (2 : Nat))))) (8 : Word)).regPut (ctxV (wC xcs [])).fuses (mbWho
      (ctxV (wC xcs [])).fuses ↑m17) (Reg.LCH_CTX_SEL (baseSel (ctxBase (xcs.par (0 : Nat) (2 : Nat))))) (BitVec.ofNat (32 :
      Nat) (xcs.par (0 : Nat) (2 : Nat))))).regPut (ctxV (wC xcs [])).fuses (mbWho (ctxV (wC xcs [])).fuses ↑m17)
      (Reg.LCH_CTX_CMD (baseSel (ctxBase (xcs.par (0 : Nat) (2 : Nat))))) (2 : Word)).on (Reg.LCH_CTX_CMD_refused (baseSel
      (ctxBase (xcs.par (0 : Nat) (2 : Nat))))) = true)) ∧
    ((at372.starts ↑m17 (1800 : Nat) xcr) ∧ (at372.dev.noWorld at372.fuses (↑m17) (Reg.LCH_CTX_SEL (16 : Nat)) = false) ∧
      ((at372.dev.ctx (xcr.par (0 : Nat) (2 : Nat))).secure = true) ∧ (at372.fuses.mbxSecure ↑m17 = false)) ∧
    (((wC xcr []).starts ↑m17 (1800 : Nat) xcr) ∧ ((wC xcr []).dev.noWorld (wC xcr []).fuses (↑m17) (Reg.LCH_CTX_SEL (16 :
      Nat)) = false) ∧ (((wC xcr []).dev.ctx (xcr.par (0 : Nat) (2 : Nat))).secure = false ∨ (wC xcr []).fuses.mbxSecure ↑m17 =
      true)) ∧
    ((at373.live = true) ∧ (at374 = at373.dev.hostTake hmS) ∧ ((at373.withDev at374).starts ↑m17 (1801 : Nat) xsl) ∧ (xsl.par
      (0 : Nat) (1 : Nat) < (4 : Nat)) ∧ (xsl.par (1 : Nat) (1 : Nat) < (48 : Nat)) ∧ (xsl.par (2 : Nat) (1 : Nat) < (2 : Nat))
      ∧ (xsl.par (4 : Nat) (2 : Nat) ≤ (256 : Nat)) ∧ (at374.noWorld at373.fuses (↑m17) (Reg.LCH_CTX_SEL (16 : Nat)) = false) ∧
      (at374.frozenSp (5 : Nat) = false) ∧ (at374.running = true)) ∧
    (((lnk (wC xsl [])).live = true) ∧ (at375 = (lnk (wC xsl [])).dev.hostTake hmSx) ∧ (((lnk (wC xsl [])).withDev
      at375).starts ↑m17 (1801 : Nat) xsl) ∧ (xsl.par (0 : Nat) (1 : Nat) < (4 : Nat)) ∧ (xsl.par (1 : Nat) (1 : Nat) < (48 :
      Nat)) ∧ (xsl.par (2 : Nat) (1 : Nat) < (2 : Nat)) ∧ (xsl.par (4 : Nat) (2 : Nat) ≤ (256 : Nat)) ∧ (at375.noWorld (lnk (wC
      xsl [])).fuses (↑m17) (Reg.LCH_CTX_SEL (16 : Nat)) = false) ∧ (at375.frozenSp (5 : Nat) = false) ∧ (at375.running = false)
      ∧ (at375.hostReaches (xsl.par (8 : Nat) (8 : Nat)) ((2 : Nat) * xsl.par (4 : Nat) (2 : Nat)) = false)) ∧
    (((lnk (wC xsl [])).live = true) ∧ (at376 = (lnk (wC xsl [])).dev.hostTake hmS) ∧ (((lnk (wC xsl [])).withDev
      at376).starts ↑m17 (1801 : Nat) xsl) ∧ (xsl.par (0 : Nat) (1 : Nat) < (4 : Nat)) ∧ (xsl.par (1 : Nat) (1 : Nat) < (48 :
      Nat)) ∧ (xsl.par (2 : Nat) (1 : Nat) < (2 : Nat)) ∧ (xsl.par (4 : Nat) (2 : Nat) ≤ (256 : Nat)) ∧ (at376.noWorld (lnk (wC
      xsl [])).fuses (↑m17) (Reg.LCH_CTX_SEL (16 : Nat)) = false) ∧ (at376.frozenSp (5 : Nat) = false) ∧ (at376.running = false)
      ∧ (at376.hostReaches (xsl.par (8 : Nat) (8 : Nat)) ((2 : Nat) * xsl.par (4 : Nat) (2 : Nat)) = true)) ∧
    (((wC xcf []).starts ↑m17 (2049 : Nat) xcf) ∧ ((wC xcf []).dev.role ≠ (1 : Nat))) ∧
    ((at377.starts ↑m17 (2049 : Nat) xcf) ∧ (at377.dev.role = (1 : Nat)) ∧ ((at377.dev.heldBy fun j =>
      match j.wait with | JobWait.form encrypt => true | x => false) = true)) ∧
    ((at378.starts ↑m17 (2049 : Nat) xcf) ∧ (at378.dev.role = (1 : Nat)) ∧ ((at378.dev.heldBy fun j =>
      match j.wait with | JobWait.form encrypt => true | x => false) = false) ∧ (at378.dev.noWorld at378.fuses (↑m17)
      (Reg.LCH_LINK_CFG (16 : Nat) (0 : Nat)) = false) ∧
      ({ regs := at378.dev.regs, latch := at378.dev.latch, mem := at378.dev.mem, marks := at378.dev.marks, fab := at378.dev.fab, flds := at378.dev.flds, effDelay := at378.dev.effDelay, effMargin := at378.dev.effMargin, trimDue := at378.dev.trimDue, pac := at378.dev.pac, sio := at378.dev.sio, binOut := at378.dev.binOut, binCtl := at378.dev.binCtl, tiles := at378.dev.tiles, ports := at378.dev.ports, latentWrites := at378.dev.latentWrites, bacts := at378.dev.bacts, noc := at378.dev.noc, rc := at378.dev.rc, lat := at378.dev.lat, bud := at378.dev.bud, stk := at378.dev.stk, msec := at378.dev.msec, errs := at378.dev.errs, log := at378.dev.log, errIrq := at378.dev.errIrq, scrub := at378.dev.scrub, sec := at378.dev.sec, pwr := at378.dev.pwr, lanes := at378.dev.lanes, links := at378.dev.links, ctxs := at378.dev.ctxs, slots := at378.dev.slots, chan := at378.dev.chan, cluster := have __src := at378.dev.cluster; { formed := __src.formed, members := __src.members, offset := __src.offset, offsetPos := __src.offsetPos, missed := __src.missed, loadFails := __src.loadFails : Cluster }, cfg := at378.dev.cfg, boot := at378.dev.boot, mbs := at378.dev.mbs, host := at378.dev.host, fw := at378.dev.fw, dbg := at378.dev.dbg, cores := at378.dev.cores, trace := at378.dev.trace, free := at378.dev.free : Dev }.otherManager
      = true)) ∧
    (((mgr (wC xcf [])).starts ↑m17 (2049 : Nat) xcf) ∧ ((mgr (wC xcf [])).dev.role = (1 : Nat)) ∧ (((mgr (wC xcf
      [])).dev.heldBy fun j => match j.wait with | JobWait.form encrypt => true | x => false) = false) ∧ ((mgr (wC xcf
      [])).dev.noWorld (mgr (wC xcf [])).fuses (↑m17) (Reg.LCH_LINK_CFG (16 : Nat) (0 : Nat)) = false) ∧
      ({ regs := (mgr (wC xcf [])).dev.regs, latch := (mgr (wC xcf [])).dev.latch, mem := (mgr (wC xcf [])).dev.mem, marks := (mgr (wC xcf [])).dev.marks, fab := (mgr (wC xcf [])).dev.fab, flds := (mgr (wC xcf [])).dev.flds, effDelay := (mgr (wC xcf [])).dev.effDelay, effMargin := (mgr (wC xcf [])).dev.effMargin, trimDue := (mgr (wC xcf [])).dev.trimDue, pac := (mgr (wC xcf [])).dev.pac, sio := (mgr (wC xcf [])).dev.sio, binOut := (mgr (wC xcf [])).dev.binOut, binCtl := (mgr (wC xcf [])).dev.binCtl, tiles := (mgr (wC xcf [])).dev.tiles, ports := (mgr (wC xcf [])).dev.ports, latentWrites := (mgr (wC xcf [])).dev.latentWrites, bacts := (mgr (wC xcf [])).dev.bacts, noc := (mgr (wC xcf [])).dev.noc, rc := (mgr (wC xcf [])).dev.rc, lat := (mgr (wC xcf [])).dev.lat, bud := (mgr (wC xcf [])).dev.bud, stk := (mgr (wC xcf [])).dev.stk, msec := (mgr (wC xcf [])).dev.msec, errs := (mgr (wC xcf [])).dev.errs, log := (mgr (wC xcf [])).dev.log, errIrq := (mgr (wC xcf [])).dev.errIrq, scrub := (mgr (wC xcf [])).dev.scrub, sec := (mgr (wC xcf [])).dev.sec, pwr := (mgr (wC xcf [])).dev.pwr, lanes := (mgr (wC xcf [])).dev.lanes, links := (mgr (wC xcf [])).dev.links, ctxs := (mgr (wC xcf [])).dev.ctxs, slots := (mgr (wC xcf [])).dev.slots, chan := (mgr (wC xcf [])).dev.chan, cluster := have __src := (mgr (wC xcf [])).dev.cluster; { formed := __src.formed, members := __src.members, offset := __src.offset, offsetPos := __src.offsetPos, missed := __src.missed, loadFails := __src.loadFails : Cluster }, cfg := (mgr (wC xcf [])).dev.cfg, boot := (mgr (wC xcf [])).dev.boot, mbs := (mgr (wC xcf [])).dev.mbs, host := (mgr (wC xcf [])).dev.host, fw := (mgr (wC xcf [])).dev.fw, dbg := (mgr (wC xcf [])).dev.dbg, cores := (mgr (wC xcf [])).dev.cores, trace := (mgr (wC xcf [])).dev.trace, free := (mgr (wC xcf [])).dev.free : Dev }.otherManager
      = false)) ∧
    ((at380.starts ↑m17 (2050 : Nat) (x13 (2050 : Nat) [])) ∧ (at380.dev.frozenSp (5 : Nat) = false)) ∧
    ((wAll.dev.cluster.members[p1n]? = none)) ∧
    (((two wAll).dev.cluster.members[p1n]? = some mem1) ∧ (p1n ≠ (0 : Nat)) ∧ (¬(two wAll).dev.linkState mem1.lane ∈
      [(3 : Nat), (4 : Nat)])) ∧
    ((at381.live = true) ∧ (at382 = at381.dev.hostTake (hmCx opI)) ∧ ((at381.withDev at382).starts ↑m17 (2051 : Nat) (xrl (127
      : Byte))) ∧ (at382.frozenSp (5 : Nat) = false) ∧ (at382.hostReaches ((xrl (127 : Byte)).par (8 : Nat) (8 : Nat)) (64 :
      Nat) = false)) ∧
    ((at381.live = true) ∧ (at383 = at381.dev.hostTake (hmC opM)) ∧ ((at381.withDev at383).starts ↑m17 (2051 : Nat) (xrl (127
      : Byte))) ∧ (at383.frozenSp (5 : Nat) = false) ∧ (at383.hostReaches ((xrl (127 : Byte)).par (8 : Nat) (8 : Nat)) (64 :
      Nat) = true) ∧ ((128 : Nat) ≤ (xrl (127 : Byte)).par (0 : Nat) (1 : Nat) ∨ leAt (Memory.readBytes at383.host.mem ((xrl
      (127 : Byte)).par (8 : Nat) (8 : Nat)) (64 : Nat)) (0 : Nat) (2 : Nat) / (256 : Nat) = (10 : Nat) ∨ leAt (Memory.readBytes
      at383.host.mem ((xrl (127 : Byte)).par (8 : Nat) (8 : Nat)) (64 : Nat)) (0 : Nat) (2 : Nat) ∈
      [(514 : Nat), (1027 : Nat), (1284 : Nat), (1538 : Nat), (1539 : Nat), (1798 : Nat), (1801 : Nat), (2050 : Nat), (2051 : Nat), (2305 : Nat), (2817 : Nat)]))
      ∧
    ((at381.live = true) ∧ (at386 = at381.dev.hostTake (hmC opI)) ∧ ((at381.withDev at386).starts ↑m17 (2051 : Nat) (xrl (127
      : Byte))) ∧ (at386.frozenSp (5 : Nat) = false) ∧ (at386.hostReaches ((xrl (127 : Byte)).par (8 : Nat) (8 : Nat)) (64 :
      Nat) = true) ∧ ((xrl (127 : Byte)).par (0 : Nat) (1 : Nat) < (128 : Nat)) ∧ (noRelay (leAt (Memory.readBytes
      at386.host.mem ((xrl (127 : Byte)).par (8 : Nat) (8 : Nat)) (64 : Nat)) (0 : Nat) (2 : Nat)) = false) ∧ (¬(at386.role = (1
      : Nat) ∧ at386.cluster.formed = true ∧ at386.on (Reg.LCH_FWD_valid (16 : Nat) ((xrl (127 : Byte)).par (0 : Nat) (1 :
      Nat))) = true ∧ at386.get (Reg.LCH_FWD_lane (16 : Nat) ((xrl (127 : Byte)).par (0 : Nat) (1 : Nat))) < (192 : Nat)))) ∧
    ((at387.live = true) ∧ (at388 = at387.dev.hostTake (hmC opI)) ∧ ((at387.withDev at388).starts ↑m17 (2051 : Nat) (xrl (127
      : Byte))) ∧ (at388.frozenSp (5 : Nat) = false) ∧ (at388.hostReaches ((xrl (127 : Byte)).par (8 : Nat) (8 : Nat)) (64 :
      Nat) = true) ∧ ((xrl (127 : Byte)).par (0 : Nat) (1 : Nat) < (128 : Nat)) ∧ (noRelay (leAt (Memory.readBytes
      at388.host.mem ((xrl (127 : Byte)).par (8 : Nat) (8 : Nat)) (64 : Nat)) (0 : Nat) (2 : Nat)) = false) ∧ (at388.role = (1 :
      Nat) ∧ at388.cluster.formed = true ∧ at388.on (Reg.LCH_FWD_valid (16 : Nat) ((xrl (127 : Byte)).par (0 : Nat) (1 : Nat)))
      = true ∧ at388.get (Reg.LCH_FWD_lane (16 : Nat) ((xrl (127 : Byte)).par (0 : Nat) (1 : Nat))) < (192 : Nat)) ∧
      ((at388.heldBy fun j =>
      match j.wait with | JobWait.relay p host => p == (xrl (127 : Byte)).par (0 : Nat) (1 : Nat) | x => false) = false)) ∧
    ((wAll.live = true) ∧ ((wAll.dev.mb ↑m17).job = none)) ∧
    (((jT (1600000004 : Nat)).live = true) ∧ (((jT (1600000004 : Nat)).dev.mb ↑m17).job = some jr) ∧ (jr.wait = JobWait.relay
      p127 h64) ∧ ((jT (1600000004 : Nat)).dev.now < jr.since + (1600000000 : Nat))) ∧
    (((jT (1600000005 : Nat)).live = true) ∧ (((jT (1600000005 : Nat)).dev.mb ↑m17).job = some jr) ∧ (jr.wait = JobWait.relay
      p127 h64) ∧ (jr.since + (1600000000 : Nat) ≤ (jT (1600000005 : Nat)).dev.now)) ∧
    ((at389.starts ↑m17 (2052 : Nat) (x13 (2052 : Nat) []))) ∧
    ((at390.starts ↑m17 (2053 : Nat) (x13 (2053 : Nat) [])) ∧ (at390.dev.noWorld at390.fuses (↑m17) (Reg.LCH_LINK_CFG (16 :
      Nat) (0 : Nat)) = false)) ∧
    ((at391.starts ↑m17 (2053 : Nat) (x13 (2053 : Nat) [])) ∧ (at391.dev.noWorld at391.fuses (↑m17) (Reg.LCH_LINK_CFG (16 :
      Nat) (0 : Nat)) = true)) ∧
    (((jS jL []).live = true) ∧ ((jS jL []).dev.urgentIrq = (0 : BitVec (16 : Nat))) ∧ (((jS jL []).dev.mb ↑m17).job = some
      jL) ∧ ((jS jL []).dev.served (jS jL []).fuses ↑m17 = true) ∧ ((jS jL []).dev.longTurn (jS jL []).fuses ↑m17 = true)) ∧
    ((at392.live = true) ∧ (at392.dev.urgentIrq = (0 : BitVec (16 : Nat))) ∧ ((at392.dev.mb ↑m17).job = some jL) ∧
      (at392.dev.served at392.fuses ↑m17 = true) ∧ (at392.dev.longTurn at392.fuses ↑m17 = true) ∧ (jL.wait = JobWait.lanes
      (↑bb3) ls2) ∧ (dn0 = List.filter (fun i => decide (at392.dev.laneState ((48 : Nat) * ↑bb3 + i) ≠ (4 : Nat))) ls2) ∧ (dn0 =
      [])) ∧
    (((jS jL [laneUp (46 : Nat)]).live = true) ∧ ((jS jL [laneUp (46 : Nat)]).dev.urgentIrq = (0 : BitVec (16 : Nat))) ∧ (((jS
      jL [laneUp (46 : Nat)]).dev.mb ↑m17).job = some jL) ∧ ((jS jL [laneUp (46 : Nat)]).dev.served (jS jL
      [laneUp (46 : Nat)]).fuses ↑m17 = true) ∧ ((jS jL [laneUp (46 : Nat)]).dev.longTurn (jS jL [laneUp (46 : Nat)]).fuses ↑m17
      = true) ∧ (jL.wait = JobWait.lanes (↑bb3) ls2) ∧ (dn1 = List.filter (fun i => decide ((jS jL
      [laneUp (46 : Nat)]).dev.laneState ((48 : Nat) * ↑bb3 + i) ≠ (4 : Nat))) ls2) ∧ (dn1 ≠ []) ∧ (true = true) ∧ (dn1.length ≠
      ls2.length)) ∧
    (((jS jL [laneUp (46 : Nat)]).live = true) ∧ ((jS jL [laneUp (46 : Nat)]).dev.urgentIrq = (0 : BitVec (16 : Nat))) ∧ (((jS
      jL [laneUp (46 : Nat)]).dev.mb ↑m17).job = some jL) ∧ ((jS jL [laneUp (46 : Nat)]).dev.served (jS jL
      [laneUp (46 : Nat)]).fuses ↑m17 = true) ∧ ((jS jL [laneUp (46 : Nat)]).dev.longTurn (jS jL [laneUp (46 : Nat)]).fuses ↑m17
      = true) ∧ (jL.wait = JobWait.lanes (↑bb3) ls2) ∧ (dn1 = List.filter (fun i => decide ((jS jL
      [laneUp (46 : Nat)]).dev.laneState ((48 : Nat) * ↑bb3 + i) ≠ (4 : Nat))) ls2) ∧ (dn1 ≠ []) ∧ (false = false) ∧
      (jL.desc.progress = false)) ∧
    ((at393.live = true) ∧ (at393.dev.urgentIrq = (0 : BitVec (16 : Nat))) ∧ ((at393.dev.mb ↑m17).job = some (jF true)) ∧
      (at393.dev.served at393.fuses ↑m17 = true) ∧ (at393.dev.longTurn at393.fuses ↑m17 = true) ∧ ((jF true).wait = JobWait.form
      true) ∧ (at393.dev.otherManager = true)) ∧
    ((at394.live = true) ∧ (at394.dev.urgentIrq = (0 : BitVec (16 : Nat))) ∧ ((at394.dev.mb ↑m17).job = some (jF true)) ∧
      (at394.dev.served at394.fuses ↑m17 = true) ∧ (at394.dev.longTurn at394.fuses ↑m17 = true) ∧ ((jF true).wait = JobWait.form
      true) ∧ (at394.dev.otherManager = false) ∧ (true = true) ∧ (at394.dev.candidates true = [] ∨ (128 : Nat) ≤
      at394.dev.cluster.members.length)) ∧
    ((at395.live = true) ∧ (at395.dev.urgentIrq = (0 : BitVec (16 : Nat))) ∧ ((at395.dev.mb ↑m17).job = some (jF true)) ∧
      (at395.dev.served at395.fuses ↑m17 = true) ∧ (at395.dev.longTurn at395.fuses ↑m17 = true) ∧ ((jF true).wait = JobWait.form
      true) ∧ (at395.dev.otherManager = false) ∧ (true = true) ∧ (at395.dev.candidates true ≠ []) ∧
      (at395.dev.cluster.members.length < (128 : Nat)) ∧ ((jF true).desc.progress = false)) ∧
    ((at395.live = true) ∧ (at395.dev.urgentIrq = (0 : BitVec (16 : Nat))) ∧ ((at395.dev.mb ↑m17).job = some (jF true)) ∧
      (at395.dev.served at395.fuses ↑m17 = true) ∧ (at395.dev.longTurn at395.fuses ↑m17 = true) ∧ ((jF true).wait = JobWait.form
      true) ∧ (at395.dev.otherManager = false) ∧ (false = false) ∧ ((jF true).desc.progress = false)) ∧
    (((mgr (jS jC [])).live = true) ∧ ((mgr (jS jC [])).dev.urgentIrq = (0 : BitVec (16 : Nat))) ∧ (((mgr (jS jC [])).dev.mb
      ↑m17).job = some jC) ∧ ((mgr (jS jC [])).dev.served (mgr (jS jC [])).fuses ↑m17 = true) ∧ ((mgr (jS jC [])).dev.longTurn
      (mgr (jS jC [])).fuses ↑m17 = true) ∧ (jC.wait = JobWait.cluster) ∧ (false = false) ∧ (jC.desc.progress = false)) ∧
    (((mgr (jS jC [])).live = true) ∧ ((mgr (jS jC [])).dev.urgentIrq = (0 : BitVec (16 : Nat))) ∧ (((mgr (jS jC [])).dev.mb
      ↑m17).job = some jC) ∧ ((mgr (jS jC [])).dev.served (mgr (jS jC [])).fuses ↑m17 = true) ∧ ((mgr (jS jC [])).dev.longTurn
      (mgr (jS jC [])).fuses ↑m17 = true) ∧ (jC.wait = JobWait.cluster) ∧ (true = true) ∧ ((mgr (jS jC [])).dev.cluster.missed =
      [])) ∧
    ((at396.live = true) ∧ (at396.dev.urgentIrq = (0 : BitVec (16 : Nat))) ∧ ((at396.dev.mb ↑m17).job = some jC) ∧
      (at396.dev.served at396.fuses ↑m17 = true) ∧ (at396.dev.longTurn at396.fuses ↑m17 = true) ∧ (jC.wait = JobWait.cluster) ∧
      (true = true) ∧ (at396.dev.cluster.missed ≠ []) ∧ (at396.dev.cluster.missed.length ≠ at396.dev.cluster.members.length)) ∧
    ((at397.live = true) ∧ (at397.dev.urgentIrq = (0 : BitVec (16 : Nat))) ∧ ((at397.dev.mb ↑m17).job = some jr) ∧
      (at397.dev.served at397.fuses ↑m17 = true) ∧ (at397.dev.longTurn at397.fuses ↑m17 = true) ∧ (jr.wait = JobWait.relay p127
      h64) ∧ (at397.dev.frozenSp (5 : Nat) = false) ∧ (List.find? (fun e => e.src == p127 && e.data.getLsbD (48 : Nat))
      at397.dev.fw.inbox = some ans1)) ∧
    (((jS jr []).live = true) ∧ ((jS jr []).dev.urgentIrq = (0 : BitVec (16 : Nat))) ∧ (((jS jr []).dev.mb ↑m17).job = some
      jr) ∧ ((jS jr []).dev.served (jS jr []).fuses ↑m17 = true) ∧ ((jS jr []).dev.longTurn (jS jr []).fuses ↑m17 = true) ∧
      (jr.wait = JobWait.relay p127 h64) ∧ ((jS jr []).dev.frozenSp (5 : Nat) = false) ∧ (List.find? (fun e => e.src == p127 &&
      e.data.getLsbD (48 : Nat)) (jS jr []).dev.fw.inbox = none) ∧ (jr.desc.progress = false)) := by
  and_intros <;> decide +kernel

theorem test_meets_HealthAndSecurityCommands :
    ((at398.starts ↑m17 (2305 : Nat) at399) ∧ (at398.dev.frozenSp (5 : Nat) = false)) ∧
    ((at400.starts ↑m17 (2306 : Nat) (x13 (2306 : Nat) []))) ∧
    ((at401.starts ↑m17 (2307 : Nat) (x13 (2307 : Nat) [(12 : Byte)])) ∧ (isDieSel ((x13 (2307 : Nat) [(12 : Byte)]).par (0 :
      Nat) (1 : Nat)) = false)) ∧
    ((at402.starts ↑m17 (2307 : Nat) (x13 (2307 : Nat) [(19 : Byte)])) ∧ ((x13 (2307 : Nat) [(19 : Byte)]).par (0 : Nat) (1 :
      Nat) = dieSel ↑i15)) ∧
    ((at403.starts ↑m17 (2308 : Nat) (x13 (2308 : Nat) [(149 : Byte)])) ∧ ((x13 (2308 : Nat) [(149 : Byte)]).par (0 : Nat) (4
      : Nat) < (150 : Nat) ∨ (700 : Nat) < (x13 (2308 : Nat) [(149 : Byte)]).par (0 : Nat) (4 : Nat))) ∧
    ((at406.starts ↑m17 (2308 : Nat) at407) ∧ ((150 : Nat) ≤ at407.par (0 : Nat) (4 : Nat)) ∧ (at407.par (0 : Nat) (4 : Nat) ≤
      (700 : Nat)) ∧ (at406.dev.noWorld at406.fuses (↑m17) Reg.PWR_CAP = false)) ∧
    ((at408.starts ↑m17 (2308 : Nat) at407) ∧ ((150 : Nat) ≤ at407.par (0 : Nat) (4 : Nat)) ∧ (at407.par (0 : Nat) (4 : Nat) ≤
      (700 : Nat)) ∧ (at408.dev.noWorld at408.fuses (↑m17) Reg.PWR_CAP = true)) ∧
    ((at409.starts ↑m17 (2309 : Nat) (x13 (2309 : Nat) [(12 : Byte)])) ∧ (isDieSel ((x13 (2309 : Nat) [(12 : Byte)]).par (0 :
      Nat) (1 : Nat)) = false ∨ (1 : Nat) < (x13 (2309 : Nat) [(12 : Byte)]).par (2 : Nat) (1 : Nat) ∨ (x13 (2309 : Nat)
      [(12 : Byte)]).par (1 : Nat) (1 : Nat) = (255 : Nat) ∧ (12 : Nat) ≤ (x13 (2309 : Nat) [(12 : Byte)]).par (0 : Nat) (1 :
      Nat) ∨ (4 : Nat) ≤ (x13 (2309 : Nat) [(12 : Byte)]).par (1 : Nat) (1 : Nat) ∧ (x13 (2309 : Nat) [(12 : Byte)]).par (1 :
      Nat) (1 : Nat) ≠ (255 : Nat))) ∧
    ((at415.starts ↑m17 (2309 : Nat) at416) ∧ (at416.par (2 : Nat) (1 : Nat) ≤ (1 : Nat)) ∧ (at416.par (0 : Nat) (1 : Nat) ≤
      (11 : Nat)) ∧ (at416.par (1 : Nat) (1 : Nat) = (255 : Nat)) ∧ (at415.dev.noWorld at415.fuses (↑m17) (Reg.GLEAN_CTL
      (at416.par (0 : Nat) (1 : Nat))) = false)) ∧
    ((at417.starts ↑m17 (2309 : Nat) at418) ∧ (at418.par (2 : Nat) (1 : Nat) ≤ (1 : Nat)) ∧ (at418.par (0 : Nat) (1 : Nat) =
      dieSel ↑i11) ∧ (at418.par (1 : Nat) (1 : Nat) = ↑k2f) ∧ (↑i11 < (12 : Nat)) ∧ ((2 : Nat) ≤ ↑k2f)) ∧
    ((at419.starts ↑m17 (2309 : Nat) at420) ∧ (at420.par (2 : Nat) (1 : Nat) ≤ (1 : Nat)) ∧ (at420.par (0 : Nat) (1 : Nat) =
      dieSel ↑i15) ∧ (at420.par (1 : Nat) (1 : Nat) = ↑k3) ∧ (↑i15 < (12 : Nat) → ↑k3 < (2 : Nat)) ∧ (at419.dev.noWorld
      at419.fuses (↑m17) (Reg.ERR_SCRUB_CTL (dieSel ↑i15) ↑k3) = false)) ∧
    ((at423.starts ↑m17 (2310 : Nat) (x13 (2310 : Nat) [(6 : Byte)])) ∧ ((5 : Nat) < (x13 (2310 : Nat) [(6 : Byte)]).par (0 :
      Nat) (1 : Nat))) ∧
    ((at424.starts ↑m17 (2310 : Nat) (x13 (2310 : Nat) [(5 : Byte)])) ∧ ((x13 (2310 : Nat) [(5 : Byte)]).par (0 : Nat) (1 :
      Nat) ≤ (5 : Nat))) ∧
    ((at425.starts ↑m17 (2311 : Nat) (x13 (2311 : Nat) [])) ∧ (at425.dev.noWorld at425.fuses (↑m17) Reg.ERR_HALT_STATUS = false)) ∧
    ((at426.live = true) ∧ (at427 = at426.dev.hostTake (hmB blob)) ∧ ((at426.withDev at427).starts ↑m17 (2561 : Nat) (xki (3 :
      Byte) (7 : Byte))) ∧ (at427.frozenSp (5 : Nat) = true)) ∧
    ((at428.live = true) ∧ (at429 = at428.dev.hostTake (hmBf blob)) ∧ ((at428.withDev at429).starts ↑m17 (2561 : Nat) (xki (3
      : Byte) (7 : Byte))) ∧ (at429.frozenSp (5 : Nat) = false) ∧ (at429.hostReaches ((xki (3 : Byte) (7 : Byte)).par (8 : Nat)
      (8 : Nat)) (256 : Nat) = false)) ∧
    ((at430.live = true) ∧ (at431 = at430.dev.hostTake (hmB blob)) ∧ ((at430.withDev at431).starts ↑m17 (2561 : Nat) (xki (3 :
      Byte) (8 : Byte))) ∧ (at431.frozenSp (5 : Nat) = false) ∧ (at431.hostReaches ((xki (3 : Byte) (8 : Byte)).par (8 : Nat) (8
      : Nat)) (256 : Nat) = true) ∧ (keySlots ((xki (3 : Byte) (8 : Byte)).par (0 : Nat) (1 : Nat)) ≤ (xki (3 : Byte) (8 :
      Byte)).par (1 : Nat) (1 : Nat) ∨ leAt (Memory.readBytes at431.host.mem ((xki (3 : Byte) (8 : Byte)).par (8 : Nat) (8 :
      Nat)) (256 : Nat)) (4 : Nat) (1 : Nat) ≠ (xki (3 : Byte) (8 : Byte)).par (0 : Nat) (1 : Nat) ∨ leAt (Memory.readBytes
      at431.host.mem ((xki (3 : Byte) (8 : Byte)).par (8 : Nat) (8 : Nat)) (256 : Nat)) (5 : Nat) (1 : Nat) ≠ (xki (3 : Byte) (8
      : Byte)).par (1 : Nat) (1 : Nat))) ∧
    ((at434.live = true) ∧ (at435 = at434.dev.hostTake (hmB blob)) ∧ ((at434.withDev at435).starts ↑m17 (2561 : Nat) (xki (3 :
      Byte) (7 : Byte))) ∧ (at435.frozenSp (5 : Nat) = false) ∧ (at435.hostReaches ((xki (3 : Byte) (7 : Byte)).par (8 : Nat) (8
      : Nat)) (256 : Nat) = true) ∧ ((xki (3 : Byte) (7 : Byte)).par (1 : Nat) (1 : Nat) < keySlots ((xki (3 : Byte) (7 :
      Byte)).par (0 : Nat) (1 : Nat))) ∧ (leAt (Memory.readBytes at435.host.mem ((xki (3 : Byte) (7 : Byte)).par (8 : Nat) (8 :
      Nat)) (256 : Nat)) (4 : Nat) (1 : Nat) = (xki (3 : Byte) (7 : Byte)).par (0 : Nat) (1 : Nat)) ∧ (leAt (Memory.readBytes
      at435.host.mem ((xki (3 : Byte) (7 : Byte)).par (8 : Nat) (8 : Nat)) (256 : Nat)) (5 : Nat) (1 : Nat) = (xki (3 : Byte) (7
      : Byte)).par (1 : Nat) (1 : Nat)) ∧ (at435.on Reg.SEC_UNWRAP_STATUS_busy = true)) ∧
    ((at428.live = true) ∧ (at436 = at428.dev.hostTake (hmB blob)) ∧ ((at428.withDev at436).starts ↑m17 (2561 : Nat) (xki (3 :
      Byte) (7 : Byte))) ∧ (at436.frozenSp (5 : Nat) = false) ∧ (at436.hostReaches ((xki (3 : Byte) (7 : Byte)).par (8 : Nat) (8
      : Nat)) (256 : Nat) = true) ∧ ((xki (3 : Byte) (7 : Byte)).par (1 : Nat) (1 : Nat) < keySlots ((xki (3 : Byte) (7 :
      Byte)).par (0 : Nat) (1 : Nat))) ∧ (leAt (Memory.readBytes at436.host.mem ((xki (3 : Byte) (7 : Byte)).par (8 : Nat) (8 :
      Nat)) (256 : Nat)) (4 : Nat) (1 : Nat) = (xki (3 : Byte) (7 : Byte)).par (0 : Nat) (1 : Nat)) ∧ (leAt (Memory.readBytes
      at436.host.mem ((xki (3 : Byte) (7 : Byte)).par (8 : Nat) (8 : Nat)) (256 : Nat)) (5 : Nat) (1 : Nat) = (xki (3 : Byte) (7
      : Byte)).par (1 : Nat) (1 : Nat)) ∧ (at436.on Reg.SEC_UNWRAP_STATUS_busy = false)) ∧
    ((at437.starts ↑m17 (2562 : Nat) (x13 (2562 : Nat) [(4 : Byte), (0 : Byte)])) ∧ (keySlots ((x13 (2562 : Nat)
      [(4 : Byte), (0 : Byte)]).par (0 : Nat) (1 : Nat)) ≤ (x13 (2562 : Nat) [(4 : Byte), (0 : Byte)]).par (1 : Nat) (1 : Nat)))
      ∧
    ((at438.starts ↑m17 (2562 : Nat) (x13 (2562 : Nat) [(0 : Byte), (15 : Byte)])) ∧ ((x13 (2562 : Nat)
      [(0 : Byte), (15 : Byte)]).par (1 : Nat) (1 : Nat) < keySlots ((x13 (2562 : Nat) [(0 : Byte), (15 : Byte)]).par (0 : Nat)
      (1 : Nat)))) ∧
    (((wC (xws (4 : Nat) (0 : Nat) (1 : Nat)) []).starts ↑m17 (2563 : Nat) (xws (4 : Nat) (0 : Nat) (1 : Nat))) ∧ ((1 : Nat) <
      (xws (4 : Nat) (0 : Nat) (1 : Nat)).par (4 : Nat) (1 : Nat) ∨ (3 : Nat) < (xws (4 : Nat) (0 : Nat) (1 : Nat)).par (0 :
      Nat) (1 : Nat))) ∧
    ((at439.starts ↑m17 (2563 : Nat) (xws (0 : Nat) (383 : Nat) (1 : Nat))) ∧ ((xws (0 : Nat) (383 : Nat) (1 : Nat)).par (0 :
      Nat) (1 : Nat) = (0 : Nat)) ∧ ((xws (0 : Nat) (383 : Nat) (1 : Nat)).par (2 : Nat) (2 : Nat) = ↑f383) ∧ ((xws (0 : Nat)
      (383 : Nat) (1 : Nat)).par (4 : Nat) (1 : Nat) ≤ (1 : Nat)) ∧ (at439.dev.running = true ∨ at439.dev.reconfiguring ↑f383 =
      true)) ∧
    ((at440.starts ↑m17 (2563 : Nat) (xws (0 : Nat) (383 : Nat) (1 : Nat))) ∧ ((xws (0 : Nat) (383 : Nat) (1 : Nat)).par (0 :
      Nat) (1 : Nat) = (0 : Nat)) ∧ ((xws (0 : Nat) (383 : Nat) (1 : Nat)).par (2 : Nat) (2 : Nat) = ↑f383) ∧ ((xws (0 : Nat)
      (383 : Nat) (1 : Nat)).par (4 : Nat) (1 : Nat) ≤ (1 : Nat)) ∧ (at440.dev.running = false) ∧ (at440.dev.reconfiguring ↑f383
      = false)) ∧
    ((at441.starts ↑m17 (2563 : Nat) (xws (0 : Nat) (384 : Nat) (1 : Nat))) ∧ ((xws (0 : Nat) (384 : Nat) (1 : Nat)).par (4 :
      Nat) (1 : Nat) ≤ (1 : Nat)) ∧ ((xws (0 : Nat) (384 : Nat) (1 : Nat)).par (0 : Nat) (1 : Nat) = (0 : Nat) ∧ (384 : Nat) ≤
      (xws (0 : Nat) (384 : Nat) (1 : Nat)).par (2 : Nat) (2 : Nat) ∨ ((xws (0 : Nat) (384 : Nat) (1 : Nat)).par (0 : Nat) (1 :
      Nat) = (1 : Nat) ∨ (xws (0 : Nat) (384 : Nat) (1 : Nat)).par (0 : Nat) (1 : Nat) = (2 : Nat)) ∧ (64 : Nat) ≤ (xws (0 :
      Nat) (384 : Nat) (1 : Nat)).par (2 : Nat) (2 : Nat) ∨ (xws (0 : Nat) (384 : Nat) (1 : Nat)).par (0 : Nat) (1 : Nat) = (3 :
      Nat) ∧ ((xws (0 : Nat) (384 : Nat) (1 : Nat)).par (2 : Nat) (2 : Nat) = (0 : Nat) ∨ (26 : Nat) ≤ (xws (0 : Nat) (384 :
      Nat) (1 : Nat)).par (2 : Nat) (2 : Nat)))) ∧
    (((wC (xws (1 : Nat) (63 : Nat) (1 : Nat)) []).starts ↑m17 (2563 : Nat) (xws (1 : Nat) (63 : Nat) (1 : Nat))) ∧ ((xws (1 :
      Nat) (63 : Nat) (1 : Nat)).par (0 : Nat) (1 : Nat) = (1 : Nat)) ∧ ((xws (1 : Nat) (63 : Nat) (1 : Nat)).par (2 : Nat) (2 :
      Nat) = ↑g63) ∧ ((xws (1 : Nat) (63 : Nat) (1 : Nat)).par (4 : Nat) (1 : Nat) ≤ (1 : Nat))) ∧
    (((wC (xws (2 : Nat) (63 : Nat) (1 : Nat)) []).starts ↑m17 (2563 : Nat) (xws (2 : Nat) (63 : Nat) (1 : Nat))) ∧ ((xws (2 :
      Nat) (63 : Nat) (1 : Nat)).par (0 : Nat) (1 : Nat) = (2 : Nat)) ∧ ((xws (2 : Nat) (63 : Nat) (1 : Nat)).par (2 : Nat) (2 :
      Nat) = ↑g63) ∧ ((xws (2 : Nat) (63 : Nat) (1 : Nat)).par (4 : Nat) (1 : Nat) ≤ (1 : Nat)) ∧ (dWs = if (xws (2 : Nat) (63 :
      Nat) (1 : Nat)).par (4 : Nat) (1 : Nat) = (0 : Nat) ∧ BitVec.getLsbD ((wC (xws (2 : Nat) (63 : Nat) (1 : Nat))
      []).dev.rdWord (if ↑g63 < (32 : Nat) then Reg.SEC_HBM_WORLD_LO else Reg.SEC_HBM_WORLD_HI)) (↑g63 % (32 : Nat)) = true then
      (wC (xws (2 : Nat) (63 : Nat) (1 : Nat)) []).dev.zeroHbmRegion ↑g63 else (wC (xws (2 : Nat) (63 : Nat) (1 : Nat))
      []).dev)) ∧
    (((wC (xws (3 : Nat) (19 : Nat) (0 : Nat)) []).starts ↑m17 (2563 : Nat) (xws (3 : Nat) (19 : Nat) (0 : Nat))) ∧ ((xws (3 :
      Nat) (19 : Nat) (0 : Nat)).par (0 : Nat) (1 : Nat) = (3 : Nat)) ∧ ((xws (3 : Nat) (19 : Nat) (0 : Nat)).par (4 : Nat) (1 :
      Nat) ≤ (1 : Nat)) ∧ ((1 : Nat) ≤ (xws (3 : Nat) (19 : Nat) (0 : Nat)).par (2 : Nat) (2 : Nat)) ∧ ((xws (3 : Nat) (19 :
      Nat) (0 : Nat)).par (2 : Nat) (2 : Nat) < (26 : Nat)) ∧ ((wC (xws (3 : Nat) (19 : Nat) (0 : Nat)) []).dev.on
      Reg.SEC_LOCK_lock = true ∨ (xws (3 : Nat) (19 : Nat) (0 : Nat)).par (4 : Nat) (1 : Nat) = (0 : Nat) ∧ (xws (3 : Nat) (19 :
      Nat) (0 : Nat)).par (2 : Nat) (2 : Nat) ∈ [(9 : Nat), (19 : Nat), (20 : Nat)])) ∧
    (((wC (xws (3 : Nat) (25 : Nat) (0 : Nat)) []).starts ↑m17 (2563 : Nat) (xws (3 : Nat) (25 : Nat) (0 : Nat))) ∧ ((xws (3 :
      Nat) (25 : Nat) (0 : Nat)).par (0 : Nat) (1 : Nat) = (3 : Nat)) ∧ ((xws (3 : Nat) (25 : Nat) (0 : Nat)).par (4 : Nat) (1 :
      Nat) ≤ (1 : Nat)) ∧ ((1 : Nat) ≤ (xws (3 : Nat) (25 : Nat) (0 : Nat)).par (2 : Nat) (2 : Nat)) ∧ ((xws (3 : Nat) (25 :
      Nat) (0 : Nat)).par (2 : Nat) (2 : Nat) < (26 : Nat)) ∧ ((wC (xws (3 : Nat) (25 : Nat) (0 : Nat)) []).dev.on
      Reg.SEC_LOCK_lock = false) ∧ ((xws (3 : Nat) (25 : Nat) (0 : Nat)).par (4 : Nat) (1 : Nat) = (1 : Nat) ∨ ¬(xws (3 : Nat)
      (25 : Nat) (0 : Nat)).par (2 : Nat) (2 : Nat) ∈ [(9 : Nat), (19 : Nat), (20 : Nat)])) ∧
    ((at443.live = true) ∧ (at444 = at443.dev.hostTake (hmB (lrec (5 : Byte)))) ∧ (lrec (5 : Byte) = Memory.readBytes
      at444.host.mem ((xlc (5 : Byte)).par (8 : Nat) (8 : Nat)) (240 : Nat)) ∧ ((at443.withDev at444).starts ↑m17 (2564 : Nat)
      (xlc (5 : Byte))) ∧ (at444.frozenSp (5 : Nat) = true)) ∧
    ((at445.live = true) ∧ (at446 = at445.dev.hostTake (hmBf (lrec (5 : Byte)))) ∧ (lrec (5 : Byte) = Memory.readBytes
      at446.host.mem ((xlc (5 : Byte)).par (8 : Nat) (8 : Nat)) (240 : Nat)) ∧ ((at445.withDev at446).starts ↑m17 (2564 : Nat)
      (xlc (5 : Byte))) ∧ (at446.frozenSp (5 : Nat) = false) ∧ (at446.hostReaches ((xlc (5 : Byte)).par (8 : Nat) (8 : Nat))
      (240 : Nat) = false)) ∧
    ((at445.live = true) ∧ (at447 = at445.dev.hostTake (hmB (lrec (4 : Byte)))) ∧ (lrec (4 : Byte) = Memory.readBytes
      at447.host.mem ((xlc (5 : Byte)).par (8 : Nat) (8 : Nat)) (240 : Nat)) ∧ ((at445.withDev at447).starts ↑m17 (2564 : Nat)
      (xlc (5 : Byte))) ∧ (at447.frozenSp (5 : Nat) = false) ∧ (at447.hostReaches ((xlc (5 : Byte)).par (8 : Nat) (8 : Nat))
      (240 : Nat) = true) ∧ ((xlc (5 : Byte)).par (0 : Nat) (1 : Nat) = (0 : Nat) ∨ (5 : Nat) < (xlc (5 : Byte)).par (0 : Nat)
      (1 : Nat) ∨ leAt (lrec (4 : Byte)) (4 : Nat) (1 : Nat) ≠ (xlc (5 : Byte)).par (0 : Nat) (1 : Nat))) ∧
    ((at448.live = true) ∧ (at449 = at448.dev.hostTake (hmB (lrec (5 : Byte)))) ∧ (lrec (5 : Byte) = Memory.readBytes
      at449.host.mem ((xlc (5 : Byte)).par (8 : Nat) (8 : Nat)) (240 : Nat)) ∧ ((at448.withDev at449).starts ↑m17 (2564 : Nat)
      (xlc (5 : Byte))) ∧ (at449.frozenSp (5 : Nat) = false) ∧ (at449.hostReaches ((xlc (5 : Byte)).par (8 : Nat) (8 : Nat))
      (240 : Nat) = true) ∧ ((1 : Nat) ≤ (xlc (5 : Byte)).par (0 : Nat) (1 : Nat)) ∧ ((xlc (5 : Byte)).par (0 : Nat) (1 : Nat) ≤
      (5 : Nat)) ∧ (leAt (lrec (5 : Byte)) (4 : Nat) (1 : Nat) = (xlc (5 : Byte)).par (0 : Nat) (1 : Nat)) ∧ (at449.on
      Reg.LC_REQ_STATUS_busy = true)) ∧
    ((at445.live = true) ∧ (at450 = at445.dev.hostTake (hmB (lrec (5 : Byte)))) ∧ (lrec (5 : Byte) = Memory.readBytes
      at450.host.mem ((xlc (5 : Byte)).par (8 : Nat) (8 : Nat)) (240 : Nat)) ∧ ((at445.withDev at450).starts ↑m17 (2564 : Nat)
      (xlc (5 : Byte))) ∧ (at450.frozenSp (5 : Nat) = false) ∧ (at450.hostReaches ((xlc (5 : Byte)).par (8 : Nat) (8 : Nat))
      (240 : Nat) = true) ∧ ((1 : Nat) ≤ (xlc (5 : Byte)).par (0 : Nat) (1 : Nat)) ∧ ((xlc (5 : Byte)).par (0 : Nat) (1 : Nat) ≤
      (5 : Nat)) ∧ (leAt (lrec (5 : Byte)) (4 : Nat) (1 : Nat) = (xlc (5 : Byte)).par (0 : Nat) (1 : Nat)) ∧ (at450.on
      Reg.LC_REQ_STATUS_busy = false)) ∧
    ((at451.live = true) ∧ (at452 = at451.dev.hostTake (hmB (lrec (32 : Byte)))) ∧ (lrec (32 : Byte) = Memory.readBytes
      at452.host.mem (xul.par (8 : Nat) (8 : Nat)) (240 : Nat)) ∧ ((at451.withDev at452).starts ↑m17 (2566 : Nat) xul) ∧
      (at452.frozenSp (5 : Nat) = true)) ∧
    (((lnk (wC xul [])).live = true) ∧ (at453 = (lnk (wC xul [])).dev.hostTake (hmBf (lrec (32 : Byte)))) ∧ (lrec (32 : Byte)
      = Memory.readBytes at453.host.mem (xul.par (8 : Nat) (8 : Nat)) (240 : Nat)) ∧ (((lnk (wC xul [])).withDev at453).starts
      ↑m17 (2566 : Nat) xul) ∧ (at453.frozenSp (5 : Nat) = false) ∧ (at453.hostReaches (xul.par (8 : Nat) (8 : Nat)) (240 : Nat)
      = false)) ∧
    (((lnk (wC xul [])).live = true) ∧ (at454 = (lnk (wC xul [])).dev.hostTake (hmB (lrec (5 : Byte)))) ∧ (lrec (5 : Byte) =
      Memory.readBytes at454.host.mem (xul.par (8 : Nat) (8 : Nat)) (240 : Nat)) ∧ (((lnk (wC xul [])).withDev at454).starts
      ↑m17 (2566 : Nat) xul) ∧ (at454.frozenSp (5 : Nat) = false) ∧ (at454.hostReaches (xul.par (8 : Nat) (8 : Nat)) (240 : Nat)
      = true) ∧ (leAt (lrec (5 : Byte)) (4 : Nat) (1 : Nat) ≠ (16 : Nat) ∧ leAt (lrec (5 : Byte)) (4 : Nat) (1 : Nat) ≠ (32 :
      Nat))) ∧
    ((at455.live = true) ∧ (at456 = at455.dev.hostTake (hmB (lrec (32 : Byte)))) ∧ (lrec (32 : Byte) = Memory.readBytes
      at456.host.mem (xul.par (8 : Nat) (8 : Nat)) (240 : Nat)) ∧ ((at455.withDev at456).starts ↑m17 (2566 : Nat) xul) ∧
      (at456.frozenSp (5 : Nat) = false) ∧ (at456.hostReaches (xul.par (8 : Nat) (8 : Nat)) (240 : Nat) = true) ∧ (leAt (lrec
      (32 : Byte)) (4 : Nat) (1 : Nat) = (16 : Nat) ∨ leAt (lrec (32 : Byte)) (4 : Nat) (1 : Nat) = (32 : Nat)) ∧ (at456.on
      Reg.LC_REQ_STATUS_busy = true)) ∧
    (((lnk (wC xul [])).live = true) ∧ (at457 = (lnk (wC xul [])).dev.hostTake (hmB (lrec (32 : Byte)))) ∧ (lrec (32 : Byte) =
      Memory.readBytes at457.host.mem (xul.par (8 : Nat) (8 : Nat)) (240 : Nat)) ∧ (((lnk (wC xul [])).withDev at457).starts
      ↑m17 (2566 : Nat) xul) ∧ (at457.frozenSp (5 : Nat) = false) ∧ (at457.hostReaches (xul.par (8 : Nat) (8 : Nat)) (240 : Nat)
      = true) ∧ (leAt (lrec (32 : Byte)) (4 : Nat) (1 : Nat) = (16 : Nat) ∨ leAt (lrec (32 : Byte)) (4 : Nat) (1 : Nat) = (32 :
      Nat)) ∧ (at457.on Reg.LC_REQ_STATUS_busy = false)) ∧
    ((at458.starts ↑m17 (2565 : Nat) (x13 (2565 : Nat) []))) ∧
    ((at459.starts ↑m17 (2567 : Nat) (x13 (2567 : Nat) [(8 : Byte)])) ∧ ((8 : Nat) ≤ (x13 (2567 : Nat) [(8 : Byte)]).par (0 :
      Nat) (1 : Nat))) ∧
    ((at460.starts ↑m17 (2567 : Nat) (x13 (2567 : Nat) [(7 : Byte)])) ∧ ((x13 (2567 : Nat) [(7 : Byte)]).par (0 : Nat) (1 :
      Nat) < (8 : Nat))) ∧
    ((at461.starts ↑m17 (2817 : Nat) (xtr (262137 : Nat))) ∧ (at461.dev.frozenSp (5 : Nat) = false) ∧ ((262144 : Nat) < (xtr
      (262137 : Nat)).par (0 : Nat) (4 : Nat) + (xtr (262137 : Nat)).par (4 : Nat) (4 : Nat))) ∧
    ((at462.starts ↑m17 (2817 : Nat) (xtr (262136 : Nat))) ∧ (at462.dev.frozenSp (5 : Nat) = false) ∧ ((xtr (262136 :
      Nat)).par (0 : Nat) (4 : Nat) + (xtr (262136 : Nat)).par (4 : Nat) (4 : Nat) ≤ (262144 : Nat)) ∧ (at462.dev.noRange
      at462.fuses (↑m17) (granBase (0 : Nat) + at462.dev.traceBase + (xtr (262136 : Nat)).par (0 : Nat) (4 : Nat)) ((xtr (262136
      : Nat)).par (4 : Nat) (4 : Nat)) = true)) ∧
    ((at463.starts ↑m17 (2817 : Nat) (xtr (262136 : Nat))) ∧ (at463.dev.frozenSp (5 : Nat) = false) ∧ ((xtr (262136 :
      Nat)).par (0 : Nat) (4 : Nat) + (xtr (262136 : Nat)).par (4 : Nat) (4 : Nat) ≤ (262144 : Nat)) ∧ (at463.dev.noRange
      at463.fuses (↑m17) (granBase (0 : Nat) + at463.dev.traceBase + (xtr (262136 : Nat)).par (0 : Nat) (4 : Nat)) ((xtr (262136
      : Nat)).par (4 : Nat) (4 : Nat)) = false) ∧ (placeOf (granBase (0 : Nat) + at463.dev.traceBase + (xtr (262136 : Nat)).par
      (0 : Nat) (4 : Nat)) = some (Place.gran b0n offT)) ∧ ((0 : Nat) < (xtr (262136 : Nat)).par (4 : Nat) (4 : Nat)) ∧
      ((granBase (0 : Nat) + at463.dev.traceBase + (xtr (262136 : Nat)).par (0 : Nat) (4 : Nat)) % (64 : Nat) + (xtr (262136 :
      Nat)).par (4 : Nat) (4 : Nat) ≤ (64 : Nat)) ∧ (at463.dev.heldDie (16 : Nat) = false) ∧ (at463.dev.heldDie (baseSel b0n) =
      false) ∧ (at463.dev.worldBad (at463.fuses.mbxSecure ↑m17) (granBase (0 : Nat) + at463.dev.traceBase + (xtr (262136 :
      Nat)).par (0 : Nat) (4 : Nat)) = false) ∧ (at463.dev.wipeGate (granBase (0 : Nat) + at463.dev.traceBase + (xtr (262136 :
      Nat)).par (0 : Nat) (4 : Nat)) (Place.gran b0n offT) = none) ∧ (¬(16 : Nat) * b0n + offT / (1572864 : Nat) ∈
      at463.dev.sec.zeroing) ∧ (at463.dev.asleep (retGran b0n (offT / (1572864 : Nat))) = false) ∧ (∀ (w : Nat), w ∈ granWords
      (granBase (0 : Nat) + at463.dev.traceBase + (xtr (262136 : Nat)).par (0 : Nat) (4 : Nat)) ((xtr (262136 : Nat)).par (4 :
      Nat) (4 : Nat)) → at463.dev.granMark w = { : Mark }) ∧ (at463.dev.on (Reg.NOC_STAT_CTL_en (16 : Nat) (19 : Nat)) = false))
      ∧
    (((wC (xmk (4 : Byte)) []).starts ↑m17 (2818 : Nat) (xmk (4 : Byte))) ∧ ((4 : Nat) ≤ (xmk (4 : Byte)).par (4 : Nat) (1 :
      Nat))) ∧
    (((wN (xmk (0 : Byte)) []).starts ↑m17 (2818 : Nat) (xmk (0 : Byte))) ∧ ((xmk (0 : Byte)).par (4 : Nat) (1 : Nat) = ↑k0m)
      ∧ ((wN (xmk (0 : Byte)) []).dev.noWorld (wN (xmk (0 : Byte)) []).fuses (↑m17) (Reg.SP_MARK_EN ↑k0m) = true)) ∧
    (((wC (xmk (3 : Byte)) []).starts ↑m17 (2818 : Nat) (xmk (3 : Byte))) ∧ ((xmk (3 : Byte)).par (4 : Nat) (1 : Nat) = ↑k3) ∧
      ((wC (xmk (3 : Byte)) []).dev.noWorld (wC (xmk (3 : Byte)) []).fuses (↑m17) (Reg.SP_MARK_EN ↑k3) = false)) ∧
    ((at464.live = true) ∧ (at464.dev.urgentIrq = (0 : BitVec (16 : Nat))) ∧ ((at464.dev.mb ↑m17).job = some at465) ∧
      (at464.dev.served at464.fuses ↑m17 = true) ∧ (at464.dev.longTurn at464.fuses ↑m17 = true) ∧ (at465.wait =
      JobWait.fieldWorld f9) ∧ (f9 ∈ at464.dev.sec.clearing) ∧ (at465.desc.progress = false)) ∧
    ((at466.live = true) ∧ (at466.dev.urgentIrq = (0 : BitVec (16 : Nat))) ∧ ((at466.dev.mb ↑m17).job = some at465) ∧
      (at466.dev.served at466.fuses ↑m17 = true) ∧ (at466.dev.longTurn at466.fuses ↑m17 = true) ∧ (at465.wait =
      JobWait.fieldWorld f9) ∧ (¬f9 ∈ at466.dev.sec.clearing)) ∧
    ((at467.live = true) ∧ (at467.dev.urgentIrq = (0 : BitVec (16 : Nat))) ∧ ((at467.dev.mb ↑m17).job = some (jX
      JobWait.worldFlush (0 : Nat))) ∧ (at467.dev.served at467.fuses ↑m17 = true) ∧ (at467.dev.longTurn at467.fuses ↑m17 = true)
      ∧ ((jX JobWait.worldFlush (0 : Nat)).wait = JobWait.worldFlush) ∧ (at467.dev.rc.flushAll = true ∨ at467.dev.sec.zeroing ≠
      [] ∨ at467.dev.sec.worldWait ≠ []) ∧ ((jX JobWait.worldFlush (0 : Nat)).desc.progress = false)) ∧
    ((at468.live = true) ∧ (at468.dev.urgentIrq = (0 : BitVec (16 : Nat))) ∧ ((at468.dev.mb ↑m17).job = some (jX
      JobWait.worldFlush (0 : Nat))) ∧ (at468.dev.served at468.fuses ↑m17 = true) ∧ (at468.dev.longTurn at468.fuses ↑m17 = true)
      ∧ ((jX JobWait.worldFlush (0 : Nat)).wait = JobWait.worldFlush) ∧ (at468.dev.rc.flushAll = false) ∧ (at468.dev.sec.zeroing
      = []) ∧ (at468.dev.sec.worldWait = [])) ∧
    ((at469.live = true) ∧ (at469.dev.urgentIrq = (0 : BitVec (16 : Nat))) ∧ ((at469.dev.mb ↑m17).job = some (jX
      JobWait.unwrap (0 : Nat))) ∧ (at469.dev.served at469.fuses ↑m17 = true) ∧ (at469.dev.longTurn at469.fuses ↑m17 = true) ∧
      ((jX JobWait.unwrap (0 : Nat)).wait = JobWait.unwrap) ∧ (at469.dev.on Reg.SEC_UNWRAP_STATUS_busy = true) ∧ ((jX
      JobWait.unwrap (0 : Nat)).desc.progress = false)) ∧
    ((at470.live = true) ∧ (at470.dev.urgentIrq = (0 : BitVec (16 : Nat))) ∧ ((at470.dev.mb ↑m17).job = some (jX
      JobWait.unwrap (0 : Nat))) ∧ (at470.dev.served at470.fuses ↑m17 = true) ∧ (at470.dev.longTurn at470.fuses ↑m17 = true) ∧
      ((jX JobWait.unwrap (0 : Nat)).wait = JobWait.unwrap) ∧ (at470.dev.on Reg.SEC_UNWRAP_STATUS_busy = false) ∧ (at470.dev.on
      Reg.SEC_UNWRAP_STATUS_fail = false)) ∧
    ((at471.live = true) ∧ (at471.dev.urgentIrq = (0 : BitVec (16 : Nat))) ∧ ((at471.dev.mb ↑m17).job = some (jX
      JobWait.unwrap (0 : Nat))) ∧ (at471.dev.served at471.fuses ↑m17 = true) ∧ (at471.dev.longTurn at471.fuses ↑m17 = true) ∧
      ((jX JobWait.unwrap (0 : Nat)).wait = JobWait.unwrap) ∧ (at471.dev.on Reg.SEC_UNWRAP_STATUS_busy = false) ∧ (at471.dev.on
      Reg.SEC_UNWRAP_STATUS_fail = true)) ∧
    ((at472.live = true) ∧ (at472.dev.urgentIrq = (0 : BitVec (16 : Nat))) ∧ ((at472.dev.mb ↑m17).job = some (jX
      JobWait.lifecycle (0 : Nat))) ∧ (at472.dev.served at472.fuses ↑m17 = true) ∧ (at472.dev.longTurn at472.fuses ↑m17 = true)
      ∧ ((jX JobWait.lifecycle (0 : Nat)).wait = JobWait.lifecycle) ∧ (at472.dev.on Reg.LC_REQ_STATUS_busy = true) ∧ ((jX
      JobWait.lifecycle (0 : Nat)).desc.progress = false)) ∧
    ((at473.live = true) ∧ (at473.dev.urgentIrq = (0 : BitVec (16 : Nat))) ∧ ((at473.dev.mb ↑m17).job = some at474) ∧
      (at473.dev.served at473.fuses ↑m17 = true) ∧ (at473.dev.longTurn at473.fuses ↑m17 = true) ∧ (at474.wait =
      JobWait.lifecycle) ∧ (at473.dev.on Reg.LC_REQ_STATUS_busy = false) ∧ (at473.dev.on Reg.LC_REQ_STATUS_fail = false) ∧
      (at474.desc.op = (2566 : Nat) ∨ at473.fuses.lc = leAt at474.desc.p (0 : Nat) (1 : Nat))) ∧
    ((at475.live = true) ∧ (at475.dev.urgentIrq = (0 : BitVec (16 : Nat))) ∧ ((at475.dev.mb ↑m17).job = some (jX
      JobWait.lifecycle (0 : Nat))) ∧ (at475.dev.served at475.fuses ↑m17 = true) ∧ (at475.dev.longTurn at475.fuses ↑m17 = true)
      ∧ ((jX JobWait.lifecycle (0 : Nat)).wait = JobWait.lifecycle) ∧ (at475.dev.on Reg.LC_REQ_STATUS_busy = false) ∧
      (at475.dev.on Reg.LC_REQ_STATUS_fail = true) ∧ (at475.dev.get Reg.LC_REQ_STATUS_fail_code ∈ [(4 : Nat), (6 : Nat)])) ∧
    ((at476.live = true) ∧ (at476.dev.urgentIrq = (0 : BitVec (16 : Nat))) ∧ ((at476.dev.mb ↑m17).job = some (jX
      JobWait.lifecycle (0 : Nat))) ∧ (at476.dev.served at476.fuses ↑m17 = true) ∧ (at476.dev.longTurn at476.fuses ↑m17 = true)
      ∧ ((jX JobWait.lifecycle (0 : Nat)).wait = JobWait.lifecycle) ∧ (at476.dev.on Reg.LC_REQ_STATUS_busy = false) ∧
      (at476.dev.on Reg.LC_REQ_STATUS_fail = true) ∧ (¬at476.dev.get Reg.LC_REQ_STATUS_fail_code ∈ [(4 : Nat), (6 : Nat)])) ∧
    ((at477.live = true) ∧ (at477.dev.urgentIrq = (0 : BitVec (16 : Nat))) ∧ ((at477.dev.mb ↑m17).job = some (jX JobWait.wipes
      (0 : Nat))) ∧ (at477.dev.served at477.fuses ↑m17 = true) ∧ (at477.dev.longTurn at477.fuses ↑m17 = true) ∧ ((jX
      JobWait.wipes (0 : Nat)).wait = JobWait.wipes) ∧ (at477.dev.sec.wipes ≠ []) ∧ ((jX JobWait.wipes (0 : Nat)).desc.progress
      = false)) ∧
    ((at478.live = true) ∧ (at478.dev.urgentIrq = (0 : BitVec (16 : Nat))) ∧ ((at478.dev.mb ↑m17).job = some (jX JobWait.wipes
      (0 : Nat))) ∧ (at478.dev.served at478.fuses ↑m17 = true) ∧ (at478.dev.longTurn at478.fuses ↑m17 = true) ∧ ((jX
      JobWait.wipes (0 : Nat)).wait = JobWait.wipes) ∧ (at478.dev.sec.wipes = [])) := by
  and_intros <;> decide +kernel

theorem test_meets_ChangesOfWorld :
    ((at479.reaches core0 (Reg.SEC_FIELD_WORLD ↑c11)) ∧ (at479.dev.running = true)) ∧
    (((wSec [sfw] { : Sec }).reaches core0 (Reg.SEC_FIELD_WORLD ↑c11)) ∧ ((wSec [sfw] { : Sec }).dev.running = false) ∧ ((wSec
      [sfw] { : Sec }).dev.cfg.reconf = []) ∧ (∀ (i : Fin (32 : Nat)), BitVec.getLsbD ((wSec [sfw] { : Sec }).dev.rdWord
      (Reg.SEC_FIELD_WORLD ↑c11)) ↑i = true → BitVec.getLsbD (3221225472 : Word) ↑i = true)) ∧
    (((wSec [sfw] { : Sec }).reaches core0 (Reg.SEC_FIELD_WORLD ↑c11)) ∧ ((wSec [sfw] { : Sec }).dev.running = false) ∧ ((wSec
      [sfw] { : Sec }).dev.cfg.reconf = []) ∧ (BitVec.getLsbD ((wSec [sfw] { : Sec }).dev.rdWord (Reg.SEC_FIELD_WORLD ↑c11))
      ↑j31 = true) ∧ (BitVec.getLsbD (0 : Word) ↑j31 = false)) ∧
    ((wF.reaches core0 (Reg.SEC_FIELD_WORLD ↑c11)) ∧ (wF.dev.running = false) ∧ (wF.dev.cfg.reconf = []) ∧ (BitVec.getLsbD
      (wF.dev.rdWord (Reg.SEC_FIELD_WORLD ↑c11)) ↑j31 = true) ∧ (BitVec.getLsbD (0 : Word) ↑j31 = false)) ∧
    (((wSec [] { : Sec }).live = true) ∧ (¬↑f383 ∈ (wSec [] { : Sec }).dev.sec.clearing)) ∧
    ((wF.live = true) ∧ (↑f383 ∈ wF.dev.sec.clearing)) ∧
    (((wSec [] { : Sec }).live = true) ∧ (¬(16 : Nat) * ↑b3 + ↑g15 ∈ (wSec [] { : Sec }).dev.sec.zeroing) ∧ ((wSec []
      { : Sec }).dev.noc.waiting = [] ∧ (wSec [] { : Sec }).dev.host.waits = [])) ∧
    (((wZe eZp).live = true) ∧ ((16 : Nat) * ↑b3 + ↑g15 ∈ (wZe eZp).dev.sec.zeroing) ∧ ((wZe eZp).dev.noc.waiting = [] ∧ (wZe
      eZp).dev.host.waits = []) ∧ (∃ e, e ∈ (wZe eZp).dev.rc.dir ∧ granBase ↑b3 + ↑g15 * (1572864 : Nat) ≤ e.fst ∧ e.fst <
      granBase ↑b3 + ↑g15 * (1572864 : Nat) + (1572864 : Nat)) ∧ (∀ (e : Nat × DirEntry), e ∈ (wZe eZp).dev.rc.dir → granBase
      ↑b3 + ↑g15 * (1572864 : Nat) ≤ e.fst ∧ e.fst < granBase ↑b3 + ↑g15 * (1572864 : Nat) + (1572864 : Nat) → e.snd.pend ≠ (0 :
      BitVec (12 : Nat)))) ∧
    (((wZe eZ).live = true) ∧ ((16 : Nat) * ↑b3 + ↑g15 ∈ (wZe eZ).dev.sec.zeroing) ∧ ((wZe eZ).dev.noc.waiting = [] ∧ (wZe
      eZ).dev.host.waits = []) ∧ ((wZe eZ).dev.rc.dir = [(lineZ, eZ)]) ∧ (granBase ↑b3 + ↑g15 * (1572864 : Nat) ≤ lineZ) ∧
      (lineZ < granBase ↑b3 + ↑g15 * (1572864 : Nat) + (1572864 : Nat)) ∧ (eZ.pend = (0 : BitVec (12 : Nat))) ∧ ((wZe
      eZ).dev.liveSharers eZ.sharers ≠ (0 : BitVec (12 : Nat)))) ∧
    (((wZd (1572864 : Nat)).live = true) ∧ ((16 : Nat) * ↑b3 + ↑g15 ∈ (wZd (1572864 : Nat)).dev.sec.zeroing) ∧ ((wZd (1572864
      : Nat)).dev.noc.waiting = [] ∧ (wZd (1572864 : Nat)).dev.host.waits = []) ∧ (∀ (e : Nat × DirEntry), e ∈ (wZd (1572864 :
      Nat)).dev.rc.dir → ¬(granBase ↑b3 + ↑g15 * (1572864 : Nat) ≤ e.fst ∧ e.fst < granBase ↑b3 + ↑g15 * (1572864 : Nat) +
      (1572864 : Nat)))) ∧
    ((wZ.live = true) ∧ ((16 : Nat) * ↑b3 + ↑g15 ∈ wZ.dev.sec.zeroing) ∧ (wZ.dev.noc.waiting = [] ∧ wZ.dev.host.waits = []) ∧
      (∀ (e : Nat × DirEntry), e ∈ wZ.dev.rc.dir → ¬(granBase ↑b3 + ↑g15 * (1572864 : Nat) ≤ e.fst ∧ e.fst < granBase ↑b3 + ↑g15
      * (1572864 : Nat) + (1572864 : Nat)))) ∧
    ((¬(16 : Nat) * ↑b3 + ↑i0 ∈ wZ.dev.sec.zeroing)) ∧
    ((at480.reaches core0 (Reg.SEC_GRAN_WORLD ↑b3)) ∧ (at480.dev.granWorldWord ↑b3 (32768 : Word) = at480.dev.rdWord
      (Reg.SEC_GRAN_WORLD ↑b3)) ∧ (∀ (e : Nat × Word), e ∈ at480.dev.rc.afterFlush → e.fst ≠ Reg.SEC_GRAN_WORLD ↑b3)) ∧
    ((at480.reaches core0 (Reg.SEC_GRAN_WORLD ↑b3)) ∧ (at480.dev.granWorldWord ↑b3 (16384 : Word) ≠ at480.dev.rdWord
      (Reg.SEC_GRAN_WORLD ↑b3))) ∧
    ((at481.dev.on Reg.SEC_LOCK_lock = true)) ∧
    ((at480.dev.on Reg.SEC_LOCK_lock = false)) ∧
    ((at482.reaches core0 (if true = true then Reg.SEC_HBM_WORLD_HI else Reg.SEC_HBM_WORLD_LO)) ∧ ((5 : Word) =
      at482.dev.rdWord (if true = true then Reg.SEC_HBM_WORLD_HI else Reg.SEC_HBM_WORLD_LO)) ∧ (∀ (e : Nat × Word), e ∈
      at482.dev.rc.afterFlush → e.fst ≠ if true = true then Reg.SEC_HBM_WORLD_HI else Reg.SEC_HBM_WORLD_LO)) ∧
    ((at482.reaches core0 (if true = true then Reg.SEC_HBM_WORLD_HI else Reg.SEC_HBM_WORLD_LO)) ∧ ((6 : Word) ≠
      at482.dev.rdWord (if true = true then Reg.SEC_HBM_WORLD_HI else Reg.SEC_HBM_WORLD_LO))) ∧
    (((wSec [] { : Sec }).reaches core0 Reg.SEC_LOCK)) := by
  and_intros <;> decide +kernel

theorem test_meets_KeysLifecycleAndTamper :
    (((wSec [] { : Sec }).reaches core0 Reg.SEC_UNWRAP_CTL)) ∧
    ((wB.reaches core0 Reg.SEC_UNWRAP_CTL)) ∧
    (((7 : Nat) < keySlots (3 : Nat))) ∧
    (((wSec [] { : Sec }).live = true) ∧ ((wSec [] { : Sec }).dev.on Reg.SEC_UNWRAP_STATUS_busy = false)) ∧
    (((wU blob).live = true) ∧ ((wU blob).dev.on Reg.SEC_UNWRAP_STATUS_busy = true)) ∧
    (((wU (gblob (3 : Byte) (0 : Byte) (96 : Byte))).live = true) ∧ ((wU (gblob (3 : Byte) (0 : Byte) (96 : Byte))).dev.on
      Reg.SEC_UNWRAP_STATUS_busy = true)) ∧
    ((at484.live = true) ∧ (at484.dev.on Reg.SEC_UNWRAP_STATUS_busy = true)) ∧
    ((at485.live = true) ∧ (at485.dev.on Reg.LC_CHALLENGE_CTL_valid = true ∧ at485.dev.now < at485.dev.sec.challengeAt +
      (960000000000 : Nat))) ∧
    ((at486.live = true) ∧ (¬(at486.dev.on Reg.LC_CHALLENGE_CTL_valid = true ∧ at486.dev.now < at486.dev.sec.challengeAt +
      (960000000000 : Nat)))) ∧
    (((wSec [] { : Sec }).live = true) ∧ ((wSec [] { : Sec }).dev.sec.lc = none)) ∧
    ((at487.live = true) ∧ (at487.dev.sec.lc = some job3) ∧ (job3.blowing = false)) ∧
    ((at488.live = true) ∧ (at488.dev.sec.lc = some job1) ∧ (job1.plan = [(8 : Nat)]) ∧ (job1.blowing = true)) ∧
    ((at491.live = true) ∧ (at491.dev.bit Reg.SEC_TAMPER_EN_enable ↑ti4 = false) ∧ (ti4 ≠ (0 : Fin (5 : Nat)))) ∧
    ((at492.live = true) ∧ (at492.dev.bit Reg.SEC_TAMPER_EN_enable (0 : Nat) = false)) ∧
    ((at493.live = true) ∧ (at493.dev.bit Reg.SEC_TAMPER_EN_enable ↑ti4 = true)) ∧
    ((at496.live = true) ∧ (at496.dev.bit Reg.SEC_TAMPER_EN_enable ↑ti0 = true)) ∧
    ((at497.live = true) ∧ (∀ (e : WipeArea × Bool), e ∈ at497.dev.sec.wipes → e.fst ≠ WipeArea.keys) ∧ (at497.dev.noc.waiting
      = [] ∧ at497.dev.host.waits = [])) ∧
    ((at498.live = true) ∧ ((WipeArea.sp, true) ∈ at498.dev.sec.wipes) ∧ ((WipeArea.sp, true).fst = WipeArea.sp) ∧
      (at498.dev.noc.waiting = [] ∧ at498.dev.host.waits = []) ∧ (WipeArea.sp = WipeArea.granary → ∀ (b : Fin (4 : Nat)) (r :
      Fin (16 : Nat)), at498.dev.asleep (retGran ↑b ↑r) = false)) ∧
    ((at502.live = true) ∧ ((WipeArea.keys, true) ∈ at502.dev.sec.wipes) ∧ ((WipeArea.keys, true).fst = WipeArea.keys) ∧
      (at502.dev.noc.waiting = [] ∧ at502.dev.host.waits = []) ∧ (WipeArea.keys = WipeArea.granary → ∀ (b : Fin (4 : Nat)) (r :
      Fin (16 : Nat)), at502.dev.asleep (retGran ↑b ↑r) = false)) ∧
    ((at503.live = true) ∧ ((WipeArea.sp, true) ∈ at503.dev.sec.wipes) ∧ ((WipeArea.sp, true).fst = WipeArea.sp) ∧
      (at503.dev.noc.waiting = [] ∧ at503.dev.host.waits = []) ∧ (WipeArea.sp = WipeArea.granary → ∀ (b : Fin (4 : Nat)) (r :
      Fin (16 : Nat)), at503.dev.asleep (retGran ↑b ↑r) = false)) ∧
    ((at504.live = true) ∧ ((WipeArea.granary, true) ∈ at504.dev.sec.wipes) ∧ ((WipeArea.granary, true).fst =
      WipeArea.granary) ∧ (at504.dev.noc.waiting = [] ∧ at504.dev.host.waits = []) ∧ (WipeArea.granary = WipeArea.granary → ∀ (b
      : Fin (4 : Nat)) (r : Fin (16 : Nat)), at504.dev.asleep (retGran ↑b ↑r) = false)) ∧
    (((wSec [] { : Sec }).reaches core0 Reg.LC_CHALLENGE_CTL)) ∧
    ((at505.reaches core0 Reg.LC_REQ_GO) ∧ (at505.dev.on Reg.LC_REQ_STATUS_busy = true)) ∧
    ((at506.reaches core0 Reg.LC_REQ_GO) ∧ (at506.dev.on Reg.LC_REQ_STATUS_busy = false) ∧ ((1 : Nat) ≤ leAt at506.dev.lcReq
      (4 : Nat) (1 : Nat) ∧ leAt at506.dev.lcReq (4 : Nat) (1 : Nat) ≤ (5 : Nat)) ∧ (at506.dev.running = true)) ∧
    (((wLc [] [] (0 : BitVec (15 : Nat))).reaches core0 Reg.LC_REQ_GO) ∧ ((wLc [] [] (0 : BitVec (15 : Nat))).dev.on
      Reg.LC_REQ_STATUS_busy = false) ∧ ((1 : Nat) ≤ leAt (wLc [] [] (0 : BitVec (15 : Nat))).dev.lcReq (4 : Nat) (1 : Nat) ∧
      leAt (wLc [] [] (0 : BitVec (15 : Nat))).dev.lcReq (4 : Nat) (1 : Nat) ≤ (5 : Nat) → (wLc [] [] (0 : BitVec (15 :
      Nat))).dev.running = false) ∧ (¬(leAt (wLc [] [] (0 : BitVec (15 : Nat))).dev.lcReq (0 : Nat) (4 : Nat) = (1279480401 :
      Nat) ∧ (leAt (wLc [] [] (0 : BitVec (15 : Nat))).dev.lcReq (4 : Nat) (1 : Nat) = (2 : Nat) ∨ leAt (wLc [] [] (0 : BitVec
      (15 : Nat))).dev.lcReq (5 : Nat) (3 : Nat) = (0 : Nat) ∧ leAt (wLc [] [] (0 : BitVec (15 : Nat))).dev.lcReq (32 : Nat) (2
      : Nat) = (0 : Nat))))) ∧
    ((at507.reaches core0 Reg.LC_REQ_GO) ∧ (at507.dev.on Reg.LC_REQ_STATUS_busy = false) ∧ ((1 : Nat) ≤ leAt at507.dev.lcReq
      (4 : Nat) (1 : Nat) ∧ leAt at507.dev.lcReq (4 : Nat) (1 : Nat) ≤ (5 : Nat) → at507.dev.running = false) ∧ (leAt
      at507.dev.lcReq (0 : Nat) (4 : Nat) = (1279480401 : Nat) ∧ (leAt at507.dev.lcReq (4 : Nat) (1 : Nat) = (2 : Nat) ∨ leAt
      at507.dev.lcReq (5 : Nat) (3 : Nat) = (0 : Nat) ∧ leAt at507.dev.lcReq (32 : Nat) (2 : Nat) = (0 : Nat))) ∧ (lcAction
      (leAt at507.dev.lcReq (4 : Nat) (1 : Nat)) at507.fuses.lc = none)) ∧
    ((at508.reaches core0 Reg.LC_REQ_GO) ∧ (at508.dev.on Reg.LC_REQ_STATUS_busy = false) ∧ ((1 : Nat) ≤ leAt at508.dev.lcReq
      (4 : Nat) (1 : Nat) ∧ leAt at508.dev.lcReq (4 : Nat) (1 : Nat) ≤ (5 : Nat) → at508.dev.running = false) ∧ (leAt
      at508.dev.lcReq (0 : Nat) (4 : Nat) = (1279480401 : Nat) ∧ (leAt at508.dev.lcReq (4 : Nat) (1 : Nat) = (2 : Nat) ∨ leAt
      at508.dev.lcReq (5 : Nat) (3 : Nat) = (0 : Nat) ∧ leAt at508.dev.lcReq (32 : Nat) (2 : Nat) = (0 : Nat))) ∧ (lcAction
      (leAt at508.dev.lcReq (4 : Nat) (1 : Nat)) at508.fuses.lc = some (some1, true)) ∧ (leAt at508.dev.lcReq (8 : Nat) (8 :
      Nat) ≠ at508.fuses.serial.toNat)) ∧
    ((at509.reaches core0 Reg.LC_REQ_GO) ∧ (at509.dev.on Reg.LC_REQ_STATUS_busy = false) ∧ ((1 : Nat) ≤ leAt at509.dev.lcReq
      (4 : Nat) (1 : Nat) ∧ leAt at509.dev.lcReq (4 : Nat) (1 : Nat) ≤ (5 : Nat) → at509.dev.running = false) ∧ (leAt
      at509.dev.lcReq (0 : Nat) (4 : Nat) = (1279480401 : Nat) ∧ (leAt at509.dev.lcReq (4 : Nat) (1 : Nat) = (2 : Nat) ∨ leAt
      at509.dev.lcReq (5 : Nat) (3 : Nat) = (0 : Nat) ∧ leAt at509.dev.lcReq (32 : Nat) (2 : Nat) = (0 : Nat))) ∧ (lcAction
      (leAt at509.dev.lcReq (4 : Nat) (1 : Nat)) at509.fuses.lc = some (some1, true)) ∧ (leAt at509.dev.lcReq (8 : Nat) (8 :
      Nat) = at509.fuses.serial.toNat) ∧ (¬(at509.dev.on Reg.LC_CHALLENGE_CTL_valid = true ∧ at509.dev.now <
      at509.dev.sec.challengeAt + (960000000000 : Nat) ∧ slice at509.dev.lcReq (16 : Nat) (16 : Nat) = List.flatMap (fun n =>
      toBytes (BitVec.toNat (at509.dev.rdWord (Reg.LC_CHALLENGE n))) (4 : Nat)) (List.range (4 : Nat))))) ∧
    ((at510.reaches core0 Reg.LC_REQ_GO) ∧ (at510.dev.on Reg.LC_REQ_STATUS_busy = false) ∧ ((1 : Nat) ≤ leAt at510.dev.lcReq
      (4 : Nat) (1 : Nat) ∧ leAt at510.dev.lcReq (4 : Nat) (1 : Nat) ≤ (5 : Nat) → at510.dev.running = false) ∧ (leAt
      at510.dev.lcReq (0 : Nat) (4 : Nat) = (1279480401 : Nat) ∧ (leAt at510.dev.lcReq (4 : Nat) (1 : Nat) = (2 : Nat) ∨ leAt
      at510.dev.lcReq (5 : Nat) (3 : Nat) = (0 : Nat) ∧ leAt at510.dev.lcReq (32 : Nat) (2 : Nat) = (0 : Nat))) ∧ (lcAction
      (leAt at510.dev.lcReq (4 : Nat) (1 : Nat)) at510.fuses.lc = some (some1, true)) ∧ (leAt at510.dev.lcReq (8 : Nat) (8 :
      Nat) = at510.fuses.serial.toNat) ∧ (at510.dev.on Reg.LC_CHALLENGE_CTL_valid = true ∧ at510.dev.now <
      at510.dev.sec.challengeAt + (960000000000 : Nat) ∧ slice at510.dev.lcReq (16 : Nat) (16 : Nat) = List.flatMap (fun n =>
      toBytes (BitVec.toNat (at510.dev.rdWord (Reg.LC_CHALLENGE n))) (4 : Nat)) (List.range (4 : Nat)))) ∧
    ((lcAction (5 : Nat) (4 : Nat) = some (some (5 : Nat), true))) := by
  and_intros <;> decide +kernel

theorem test_meets_RegulatorsStartAndBudgets :
    (((wP [] pw).live = true) ∧ (¬(wP [] pw).dev.on (Reg.PWR_PMB_ADDR_valid ↑c11) = true)) ∧
    ((at511.live = true) ∧ (at511.dev.on (Reg.PWR_PMB_ADDR_valid ↑c11) = true) ∧ (true = true)) ∧
    ((at512.live = true) ∧ (at512.dev.on (Reg.PWR_PMB_ADDR_valid ↑c11) = true) ∧ (false = false) ∧ (at512.dev.pwr.pmbTries.get
      ↑c11 (0 : Nat) < (3 : Nat))) ∧
    ((at513.live = true) ∧ (at513.dev.on (Reg.PWR_PMB_ADDR_valid ↑c11) = true) ∧ (false = false) ∧ ((3 : Nat) ≤
      at513.dev.pwr.pmbTries.get ↑c11 (0 : Nat))) ∧
    (((wP [vad] pw).live = true) ∧ ((wP [vad] pw).dev.on (Reg.PWR_PMB_ADDR_valid ↑c11) = true)) ∧
    (((wP [st11] pw).live = true) ∧ ((550 : Nat) ≤ (950 : Nat) ∧ (950 : Nat) ≤ (950 : Nat) ∨ (wP [st11] pw).dev.bit
      Reg.PWR_START_started ↑c11 = false)) ∧
    (((wP [st11] pw).live = true) ∧ ((951 : Nat) < (550 : Nat) ∨ (950 : Nat) < (951 : Nat)) ∧ ((wP [st11] pw).dev.bit
      Reg.PWR_START_started ↑c11 = true)) ∧
    ((at514.live = true) ∧ (¬(↑c11 ∈ at514.dev.pwr.startQueue ∧ (fun t n => t + n * (16000 : Nat) ≤ at514.dev.now)
      at514.dev.pwr.goAt ((50 : Nat) * ↑c11)) ∨ ¬at514.dev.on (Reg.PWR_PMB_ADDR_valid ↑c11) = true)) ∧
    ((at515.live = true) ∧ (↑c11 ∈ at515.dev.pwr.startQueue ∧ (fun t n => t + n * (16000 : Nat) ≤ at515.dev.now)
      at515.dev.pwr.goAt ((50 : Nat) * ↑c11)) ∧ (at515.dev.on (Reg.PWR_PMB_ADDR_valid ↑c11) = true)) ∧
    ((at515.live = true) ∧ (¬(at515.dev.pwr.startQueue.head? = some ↑c11 ∧ at515.dev.pwr.regOn.getLsbD ↑c11 = true ∧ (fun t n
      => t = (0 : Nat) ∨ (fun t n => t + n * (16000 : Nat) ≤ at515.dev.now) (t - (1 : Nat)) n) at515.dev.pwr.releasedAt (50 :
      Nat)))) ∧
    ((at517.live = true) ∧ (at517.dev.pwr.startQueue.head? = some ↑c11 ∧ at517.dev.pwr.regOn.getLsbD ↑c11 = true ∧ (fun t n =>
      t = (0 : Nat) ∨ (fun t n => t + n * (16000 : Nat) ≤ at517.dev.now) (t - (1 : Nat)) n) at517.dev.pwr.releasedAt (50 :
      Nat))) ∧
    ((at518.live = true) ∧ (¬(↑c11 ∈ at518.dev.pwr.startQueue ∧ (fun t n => t + n * (16000 : Nat) ≤ at518.dev.now)
      at518.dev.pwr.goAt ((50 : Nat) * ↑c11)) ∨ at518.dev.on (Reg.PWR_PMB_ADDR_valid ↑c11) = true ∧ ¬(fun t n => t + n * (16000
      : Nat) ≤ at518.dev.now) at518.dev.pwr.goAt ((50 : Nat) * ↑c11 + (1000 : Nat)))) ∧
    ((at519.live = true) ∧ (↑c11 ∈ at519.dev.pwr.startQueue ∧ (fun t n => t + n * (16000 : Nat) ≤ at519.dev.now)
      at519.dev.pwr.goAt ((50 : Nat) * ↑c11)) ∧ (at519.dev.on (Reg.PWR_PMB_ADDR_valid ↑c11) = true → (fun t n => t + n * (16000
      : Nat) ≤ at519.dev.now) at519.dev.pwr.goAt ((50 : Nat) * ↑c11 + (1000 : Nat)))) ∧
    ((at520.live = true) ∧ (at520.dev.heldDie (dieOf ↑f353) = true ∨ ¬(List.find? (fun g => !decide (g ∈ at520.dev.pwr.awake))
      (dieFields (dieOf ↑f353)) = some ↑f353 ∧ ((dieFields (dieOf ↑f353)).head? = some ↑f353 ∨ (fun t n => t = (0 : Nat) ∨ (fun
      t n => t + n * (16000 : Nat) ≤ at520.dev.now) (t - (1 : Nat)) n) (at520.dev.pwr.wokeAt.get (dieOf ↑f353) (0 : Nat)) (2 :
      Nat))))) ∧
    (((wP [] pw).live = true) ∧ ((wP [] pw).dev.heldDie (dieOf ↑f352) = false) ∧ (List.find? (fun g => !decide (g ∈ (wP []
      pw).dev.pwr.awake)) (dieFields (dieOf ↑f352)) = some ↑f352 ∧ ((dieFields (dieOf ↑f352)).head? = some ↑f352 ∨ (fun t n => t
      = (0 : Nat) ∨ (fun t n => t + n * (16000 : Nat) ≤ (wP [] pw).dev.now) (t - (1 : Nat)) n) ((wP [] pw).dev.pwr.wokeAt.get
      (dieOf ↑f352) (0 : Nat)) (2 : Nat)))) ∧
    ((at521.live = true) ∧ (at521.dev.heldDie ↑c11 = true)) ∧
    ((at521.live = true) ∧ (at521.dev.noc.flights = []) ∧ (at521.dev.heldDie (dieSel ↑i15) = true)) ∧
    (((wP [] pw).live = true) ∧ ((wP [] pw).dev.noc.flights = []) ∧ ((wP [] pw).dev.heldDie (dieSel ↑i11) = false) ∧ (↑i11 <
      (12 : Nat) ∨ ((wP [] pw).dev.budget ↑i11).pending = none)) ∧
    (((wFly xrp [] { : Budget }).live = true) ∧ ((wFly xrp [] { : Budget }).dev.noc.flights = [xrp]) ∧ ((wFly xrp []
      { : Budget }).dev.lat = []) ∧ (xrp.arrived = true) ∧ (xrp.pkt.type = (4 : Nat)) ∧ (xrp.pkt.data = rmsg (5000 : Nat))) ∧
    ((at525.live = true) ∧ (at525.dev.noc.flights = [xrp]) ∧ (at525.dev.lat = []) ∧ (xrp.arrived = true) ∧ (xrp.pkt.type = (4
      : Nat)) ∧ (xrp.pkt.data = rmsg (5000 : Nat)) ∧ (xrp.pkt.dst = serviceNode) ∧ (leAt (rmsg (5000 : Nat)) (0 : Nat) (1 : Nat)
      = (1 : Nat)) ∧ (leAt (rmsg (5000 : Nat)) (1 : Nat) (1 : Nat) = dieSel ↑i15) ∧ (at525.dev.heldDie (dieSel ↑i15) = false) ∧
      (↑i15 < (12 : Nat) ∨ (at525.dev.budget ↑i15).pending = none)) ∧
    ((at526.live = true) ∧ (at526.dev.noc.flights = [xbud (32771 : Nat)]) ∧ (at526.dev.lat = []) ∧ ((xbud (32771 :
      Nat)).arrived = true) ∧ ((xbud (32771 : Nat)).pkt.type = (4 : Nat)) ∧ ((xbud (32771 : Nat)).pkt.data = bmsg (32771 : Nat))
      ∧ ((xbud (32771 : Nat)).pkt.dst = unitNode (dieSel ↑i15)) ∧ (leAt (bmsg (32771 : Nat)) (0 : Nat) (1 : Nat) = (2 : Nat)) ∧
      (leAt (bmsg (32771 : Nat)) (1 : Nat) (1 : Nat) = dieSel ↑i15)) ∧
    ((at529.live = true) ∧ (at529.dev.heldDie (dieSel ↑i15) = true ∨ at529.dev.on (Reg.PWR_DIE_STATUS_fallback (dieSel ↑i15))
      = true)) ∧
    ((at530.live = true) ∧ (at530.dev.heldDie (dieSel ↑i15) = false) ∧ (at530.dev.on (Reg.PWR_DIE_STATUS_fallback (dieSel
      ↑i15)) = false)) ∧
    ((at531.live = true) ∧ (at531.dev.heldDie ↑c11 = false) ∧ (at531.dev.on (Reg.PWR_DIE_STATUS_trip ↑c11) = false) ∧
      (at531.dev.pwr.volts = []) ∧ (at531.dev.pwr.temps = []) ∧ (∀ (k : Fin (12 : Nat)), k ≠ c11 → at531.dev.sampled ↑k = false)
      ∧ (at531.dev.running = false) ∧ (at531.dev.pwr.ceiling = none) ∧ ((at531.dev.budget ↑c11).pending = none) ∧
      ((at531.dev.budget ↑c11).lo ≤ at531.dev.get (Reg.PWR_VOLT_target ↑c11)) ∧ (at531.dev.get (Reg.PWR_VOLT_target ↑c11) ≤
      (at531.dev.budget ↑c11).hi)) ∧
    ((at538.reaches core0 Reg.PWR_START) ∧ (at538.dev.pwr.went = true)) ∧
    (((wP [] pw).reaches core0 Reg.PWR_START) ∧ ((wP [] pw).dev.pwr.went = false)) := by
  and_intros <;> decide +kernel

theorem test_meets_SmbusTelemetryAndClocks :
    ((noPorst.dev.pwr.porst = false) ∧ (cPow ∈
      [Instr.status, Instr.power, Instr.tempLogic, Instr.tempHbm, Instr.diePower, Instr.capLimit none, Instr.capLimit (some (cap1, noPec))]))
      ∧
    ((wAll.dev.pwr.porst = true)) ∧
    (((wP [ret447] pw).reaches core0 (Reg.PWR_RET_CTL (retBit ↑u447).fst)) ∧ ((wP [ret447] pw).dev.retained ↑u447 = true)) ∧
    ((at539.reaches core0 (Reg.PWR_RET_CTL (retBit ↑u447).fst)) ∧ (at539.dev.retained ↑u447 = false) ∧ (if ↑u447 < (384 : Nat)
      then at539.dev.part ↑u447 = true ∨ ↑u447 ∈ at539.dev.cfg.reconf else at539.dev.underTest ((retBit ↑u447).fst - (16 : Nat))
      (retBit ↑u447).snd = true)) ∧
    ((wAll.reaches core0 (Reg.PWR_RET_CTL (retBit ↑u447).fst)) ∧ (if ↑u447 < (384 : Nat) then wAll.dev.part ↑u447 = false ∧
      ¬↑u447 ∈ wAll.dev.cfg.reconf else wAll.dev.underTest ((retBit ↑u447).fst - (16 : Nat)) (retBit ↑u447).snd = false)) ∧
    ((wAll.live = true) ∧ (¬↑u447 ∈ wAll.dev.pwr.waking) ∧ (wAll.dev.noc.waiting = [] ∧ wAll.dev.host.waits = [])) ∧
    ((at541.live = true) ∧ (↑u447 ∈ at541.dev.pwr.waking) ∧ (at541.dev.noc.waiting = [] ∧ at541.dev.host.waits = [])) ∧
    ((wHeld.live = true) ∧ (wHeld.dev.heldDie (dieSel ↑i15) = true)) ∧
    ((at542.live = true) ∧ (at542.dev.heldDie (dieSel ↑i15) = false) ∧ ((12 : Nat) ≤ ↑i15 ∨ at542.dev.bit
      Reg.PWR_START_started ↑i15 = false ∨ (550 : Nat) ≤ smp.mv ∧ smp.mv ≤ (950 : Nat))) ∧
    (((wP [st11] pw).live = true) ∧ (i11.val = c11.val) ∧ ((wP [st11] pw).dev.heldDie ↑c11 = false) ∧ ((wP [st11] pw).dev.bit
      Reg.PWR_START_started ↑c11 = true) ∧ (smpHot.mv < (550 : Nat) ∨ (950 : Nat) < smpHot.mv)) ∧
    ((at546.live = true) ∧ (at546.dev.on (Reg.PWR_WEAR_CTL_pause (dieSel ↑i15)) = true)) ∧
    ((at547.live = true) ∧ (at547.dev.heldDie (dieSel ↑i15) = false) ∧ (at547.dev.on (Reg.PWR_WEAR_CTL_pause (dieSel ↑i15)) =
      false)) ∧
    ((wHeld.live = true) ∧ (wHeld.dev.heldDie (baseSel ↑b3) = true)) ∧
    (((wHbm (7 : Nat) (2 : Nat) { : Stack } []).live = true) ∧ ((wHbm (7 : Nat) (2 : Nat) { : Stack } []).dev.heldDie (baseSel
      ↑b3) = false)) ∧
    (((wHbm (7 : Nat) (2 : Nat) { : Stack } []).live = true) ∧ ((wHbm (7 : Nat) (2 : Nat) { : Stack } []).dev.noc.waiting = []
      ∧ (wHbm (7 : Nat) (2 : Nat) { : Stack } []).dev.host.waits = []) ∧ (((wHbm (7 : Nat) (2 : Nat) { : Stack } []).dev.stack
      ↑m7).unlocked = false)) ∧
    ((at548.live = true) ∧ (at548.dev.noc.waiting = [] ∧ at548.dev.host.waits = []) ∧ ((at548.dev.stack ↑m7).unlocked = true)
      ∧ ((at548.dev.stack ↑m7).starting = false)) ∧
    ((at549.live = true) ∧ (at549.dev.noc.waiting = [] ∧ at549.dev.host.waits = []) ∧ ((at549.dev.stack ↑m7).unlocked = true)
      ∧ ((at549.dev.stack ↑m7).starting = true) ∧ (↑m7 % (2 : Nat) = (1 : Nat))) ∧
    ((wAll.live = true) ∧ (wAll.dev.pwr.tbSwitch = none)) ∧
    ((wAll.live = true) ∧ (wAll.dev.pwr.clkSwitch = none)) ∧
    ((at550.live = true) ∧ (at550.dev.pwr.tbSwitch = some true)) ∧
    ((at552.live = true) ∧ (at552.dev.pwr.clkSwitch = some to35)) ∧
    ((at553.live = true)) ∧
    ((wPk.live = true) ∧ (wPk.dev.noc.waiting = [pkW])) ∧
    ((wAll.reaches core0 (Reg.CLK_GATE_CMD (anyDie ↑q11))) ∧ (↑q11 < (12 : Nat))) ∧
    ((wAll.reaches core0 (Reg.CLK_GATE_CMD (anyDie ↑q15))) ∧ ((12 : Nat) ≤ ↑q15 ∧ ↑q15 < (16 : Nat)) ∧ (bits (23 : Word) (0 :
      Nat) (4 : Nat) = (0 : Nat) ∨ (7 : Nat) ≤ bits (23 : Word) (0 : Nat) (4 : Nat))) ∧
    ((wAll.reaches core0 (Reg.CLK_GATE_CMD (anyDie ↑q16))) ∧ (↑q16 = (16 : Nat)) ∧ (bits (21 : Word) (0 : Nat) (4 : Nat) ≠ (3
      : Nat)) ∧ (bits (21 : Word) (0 : Nat) (4 : Nat) ≠ (4 : Nat))) ∧
    ((at554.reaches core0 (Reg.CLK_GATE_CMD (anyDie ↑q15))) ∧ ((12 : Nat) ≤ ↑q15 ∧ ↑q15 < (16 : Nat)) ∧ ((1 : Nat) ≤ bits (19
      : Word) (0 : Nat) (4 : Nat)) ∧ (bits (19 : Word) (0 : Nat) (4 : Nat) ≤ (6 : Nat)) ∧ (bits (19 : Word) (4 : Nat) (1 : Nat)
      = (1 : Nat))) ∧
    ((wAll.reaches core0 (Reg.CLK_GATE_CMD (anyDie ↑q15))) ∧ ((12 : Nat) ≤ ↑q15 ∧ ↑q15 < (16 : Nat)) ∧ (bits (1 : Word) (0 :
      Nat) (4 : Nat) = (1 : Nat)) ∧ (bits (1 : Word) (4 : Nat) (1 : Nat) = (0 : Nat)) ∧ (wAll.dev.bit (Reg.CLK_GATE_EN_en
      (anyDie ↑q15)) (2 : Nat) = true ∨ wAll.dev.bit (Reg.CLK_GATE_EN_en (anyDie ↑q15)) (3 : Nat) = true)) ∧
    ((at555.reaches core0 (Reg.CLK_GATE_CMD (anyDie ↑q15))) ∧ ((12 : Nat) ≤ ↑q15 ∧ ↑q15 < (16 : Nat)) ∧ ((4 : Nat) ≤ bits (6 :
      Word) (0 : Nat) (4 : Nat)) ∧ (bits (6 : Word) (0 : Nat) (4 : Nat) ≤ (6 : Nat)) ∧ (bits (6 : Word) (4 : Nat) (1 : Nat) = (0
      : Nat)) ∧ (at555.dev.on (Reg.LANE_BANK_CTL_enable (anyDie ↑q15) (bits (6 : Word) (0 : Nat) (4 : Nat) - (4 : Nat))) =
      true)) ∧
    ((wAll.reaches core0 (Reg.CLK_GATE_CMD (anyDie ↑q15))) ∧ ((12 : Nat) ≤ ↑q15 ∧ ↑q15 < (16 : Nat)) ∧ ((4 : Nat) ≤ bits (6 :
      Word) (0 : Nat) (4 : Nat)) ∧ (bits (6 : Word) (0 : Nat) (4 : Nat) ≤ (6 : Nat)) ∧ (bits (6 : Word) (4 : Nat) (1 : Nat) = (0
      : Nat)) ∧ (wAll.dev.on (Reg.LANE_BANK_CTL_enable (anyDie ↑q15) (bits (6 : Word) (0 : Nat) (4 : Nat) - (4 : Nat))) =
      false)) ∧
    ((wAll.reaches core0 Reg.CLK_CLKOUT_CTL) ∧ (wAll.dev.cfg.loadFailure = false) ∧ (clkSourceOf (4294967053 : Word) =
      wAll.dev.pwr.clkSource) ∧ (wAll.dev.pwr.clkSwitch = none)) ∧
    ((at556.reaches core0 Reg.CLK_CLKOUT_CTL) ∧ (at556.dev.cfg.loadFailure = false) ∧ (clkSourceOf (87 : Word) ≠
      at556.dev.pwr.clkSource) ∧ (at556.dev.on Reg.CLK_CLKOUT_CTL_en = true)) ∧
    ((wAll.reaches core0 Reg.CLK_CLKOUT_CTL) ∧ (wAll.dev.cfg.loadFailure = false) ∧ (clkSourceOf (86 : Word) ≠
      wAll.dev.pwr.clkSource) ∧ (wAll.dev.on Reg.CLK_CLKOUT_CTL_en = false)) ∧
    ((wAll.reaches core0 Reg.CLK_CLKOUT_SSC)) ∧
    ((wCk.dev.clkout = some ckw)) := by
  and_intros <;> decide +kernel

theorem test_meets_DebugPortAndRunControl :
    ((noPor.dev.pwr.porst = false)) ∧
    ((wAll.dev.pwr.porst = true) ∧ (¬crR hR + (1 : BitVec (4 : Nat)) = crc4 (requestBits hR aPc none))) ∧
    ((wAll.dev.pwr.porst = true) ∧ (¬crW hW + (1 : BitVec (4 : Nat)) = crc4 (requestBits hW aPc (some (7 : Word))))) ∧
    ((wAll.dev.pwr.porst = true) ∧ (crR hW = crc4 (requestBits hW aPc none)) ∧ (hdrGood hW = false ∨ hdrRnw hW = false)) ∧
    ((wAll.dev.pwr.porst = true) ∧ (crW hR = crc4 (requestBits hR aPc (some (7 : Word)))) ∧ (hdrGood hR = false ∨ hdrRnw hR =
      true)) ∧
    (((lcF (511 : BitVec (15 : Nat)) wAll).dev.pwr.porst = true) ∧ (crR hR = crc4 (requestBits hR aPc none)) ∧ (hdrGood hR =
      true) ∧ (hdrRnw hR = true) ∧ ((lcF (511 : BitVec (15 : Nat)) wAll).dev.dbg.pending = none) ∧ ((lcF (511 : BitVec (15 :
      Nat)) wAll).dev.dbgLocked (lcF (511 : BitVec (15 : Nat)) wAll).fuses hR aPc = true)) ∧
    (((wOff true false).dev.pwr.porst = true) ∧ (crR hR = crc4 (requestBits hR aPc none)) ∧ (hdrGood hR = true) ∧ (hdrRnw hR =
      true) ∧ ((wOff true false).dev.dbg.pending = none) ∧ ((wOff true false).dev.dbgLocked (wOff true false).fuses hR aPc =
      false) ∧ ((wOff true false).dev.pwr.sysrst = false) ∧ (hdrSpace hR ≠ (0 : Nat)) ∧ (dbgOutside hR aPc = true)) ∧
    ((at557.dev.pwr.porst = true) ∧ (crR hR = crc4 (requestBits hR aPc none)) ∧ (hdrRnw hR = true) ∧ (hdrGood hR = true ∧
      (at557.dev.debugLevel at557.fuses = (2 : Nat) ∨ at557.dev.debugLevel at557.fuses = (1 : Nat) ∧ hdrSecure hR = false) ∧
      at557.dev.dbg.pending = none) ∧ (at557.dev.on Reg.DBG_STATUS_bus_err = true) ∧ (hdrSpace hR ≠ (0 : Nat)) ∧
      (at557.dev.pwr.sysrst = true)) ∧
    ((wAll.dev.pwr.porst = true) ∧ (crR hR = crc4 (requestBits hR aPc none)) ∧ (hdrRnw hR = true) ∧ ((hdrGood hR = true ∧
      (wAll.dev.debugLevel wAll.fuses = (2 : Nat) ∨ wAll.dev.debugLevel wAll.fuses = (1 : Nat) ∧ hdrSecure hR = false) ∧
      wAll.dev.dbg.pending = none) ∧ wAll.dev.pwr.sysrst = true ∧ wAll.dev.on Reg.DBG_STATUS_bus_err = false ∧ hdrSpace hR = (1
      : Nat)) ∧ (wAll.dev.regGate (Who.debug (hdrSecure hR)) (BitVec.toNat aPc) = (none, wAll.dev))) ∧
    ((w0.dev.pwr.porst = true) ∧ (crA hR aCd = crc4 (requestBits hR aCd none)) ∧ (hdrRnw hR = true) ∧ ((hdrGood hR = true ∧
      (w0.dev.debugLevel w0.fuses = (2 : Nat) ∨ w0.dev.debugLevel w0.fuses = (1 : Nat) ∧ hdrSecure hR = false) ∧
      w0.dev.dbg.pending = none) ∧ w0.dev.pwr.sysrst = true ∧ w0.dev.on Reg.DBG_STATUS_bus_err = false ∧ hdrSpace hR = (1 :
      Nat)) ∧ (w0.dev.regGate (Who.debug (hdrSecure hR)) (BitVec.toNat aCd) = (some false, w0.dev)) ∧ (false = false)) ∧
    ((wAll.dev.pwr.porst = true) ∧ (crA hR aNo = crc4 (requestBits hR aNo none)) ∧ (hdrRnw hR = true) ∧ ((hdrGood hR = true ∧
      (wAll.dev.debugLevel wAll.fuses = (2 : Nat) ∨ wAll.dev.debugLevel wAll.fuses = (1 : Nat) ∧ hdrSecure hR = false) ∧
      wAll.dev.dbg.pending = none) ∧ wAll.dev.pwr.sysrst = true ∧ wAll.dev.on Reg.DBG_STATUS_bus_err = false ∧ hdrSpace hR = (1
      : Nat)) ∧ ((wAll.dev.regGate (Who.debug (hdrSecure hR)) (BitVec.toNat aNo)).fst = some true) ∧ (false = false)) ∧
    (((wDbg [] gPd).dev.pwr.porst = true) ∧ ((wDbg [] gPd).dev.dbg.pending = some pd) ∧ ((wDbg [] gPd).dev.dbgLocked (wDbg []
      gPd).fuses hW aPc = false) ∧ ((wDbg [] gPd).dev.pwr.sysrst = true) ∧ ((wDbg [] gPd).dev.on Reg.DBG_STATUS_bus_err = false
      ∨ hdrSpace hW = (0 : Nat)) ∧ (crW hW = crc4 (requestBits hW aPc (some (7 : Word)))) ∧ (hdrGood hW = true) ∧ (hdrRnw hW =
      false)) ∧
    (((wDbg [] gPd).dev.pwr.porst = true) ∧ ((wDbg [] gPd).dev.dbg.pending = some pd) ∧ ((wDbg [] gPd).dev.dbgLocked (wDbg []
      gPd).fuses hR aPc = false) ∧ ((wDbg [] gPd).dev.pwr.sysrst = true) ∧ ((wDbg [] gPd).dev.on Reg.DBG_STATUS_bus_err = false
      ∨ hdrSpace hR = (0 : Nat)) ∧ (crR hR = crc4 (requestBits hR aPc none)) ∧ (hdrGood hR = true) ∧ (hdrRnw hR = true) ∧ (pd ≠
      (hR.toNat, BitVec.toNat aPc))) ∧
    (((wDbg [] (gRd rdy9)).dev.pwr.porst = true) ∧ ((wDbg [] (gRd rdy9)).dev.dbg.pending = some pdR) ∧ ((wDbg [] (gRd
      rdy9)).dev.dbgLocked (wDbg [] (gRd rdy9)).fuses hR aPc = false) ∧ ((wDbg [] (gRd rdy9)).dev.pwr.sysrst = true) ∧ ((wDbg []
      (gRd rdy9)).dev.on Reg.DBG_STATUS_bus_err = false ∨ hdrSpace hR = (0 : Nat)) ∧ (crR hR = crc4 (requestBits hR aPc none)) ∧
      (hdrGood hR = true) ∧ (hdrRnw hR = true) ∧ (pdR = (hR.toNat, BitVec.toNat aPc)) ∧ ((wDbg [] (gRd rdy9)).dev.dbg.ready =
      some rdy9)) ∧
    ((wAll.dev.pwr.porst = true) ∧ (crW hW = crc4 (requestBits hW aPc (some (7 : Word)))) ∧ (hdrRnw hW = false) ∧ ((hdrGood hW
      = true ∧ (wAll.dev.debugLevel wAll.fuses = (2 : Nat) ∨ wAll.dev.debugLevel wAll.fuses = (1 : Nat) ∧ hdrSecure hW = false)
      ∧ wAll.dev.dbg.pending = none) ∧ wAll.dev.pwr.sysrst = true ∧ wAll.dev.on Reg.DBG_STATUS_bus_err = false ∧ hdrSpace hW =
      (1 : Nat)) ∧ (wAll.dev.regGate (Who.debug (hdrSecure hW)) (BitVec.toNat aPc) = (none, wAll.dev))) ∧
    ((w0.dev.pwr.porst = true) ∧ (crWA aCd = crc4 (requestBits hW aCd (some (7 : Word)))) ∧ (hdrRnw hW = false) ∧ ((hdrGood hW
      = true ∧ (w0.dev.debugLevel w0.fuses = (2 : Nat) ∨ w0.dev.debugLevel w0.fuses = (1 : Nat) ∧ hdrSecure hW = false) ∧
      w0.dev.dbg.pending = none) ∧ w0.dev.pwr.sysrst = true ∧ w0.dev.on Reg.DBG_STATUS_bus_err = false ∧ hdrSpace hW = (1 :
      Nat)) ∧ (w0.dev.regGate (Who.debug (hdrSecure hW)) (BitVec.toNat aCd) = (some false, w0.dev))) ∧
    ((wAll.dev.pwr.porst = true) ∧ (crWA aNo = crc4 (requestBits hW aNo (some (7 : Word)))) ∧ (hdrRnw hW = false) ∧ ((hdrGood
      hW = true ∧ (wAll.dev.debugLevel wAll.fuses = (2 : Nat) ∨ wAll.dev.debugLevel wAll.fuses = (1 : Nat) ∧ hdrSecure hW =
      false) ∧ wAll.dev.dbg.pending = none) ∧ wAll.dev.pwr.sysrst = true ∧ wAll.dev.on Reg.DBG_STATUS_bus_err = false ∧ hdrSpace
      hW = (1 : Nat)) ∧ ((wAll.dev.regGate (Who.debug (hdrSecure hW)) (BitVec.toNat aNo)).fst = some true)) ∧
    ((at559.live = true) ∧ (at559.dev.inMonitor ↑k3 = true)) ∧
    ((at560.live = true) ∧ (at560.dev.inMonitor ↑k3 = false) ∧ (at560.dev.on (Reg.SP_CORE_DBG_CTL_mon_en ↑k3) = true)) ∧
    ((at561.live = true) ∧ (at561.dev.inMonitor ↑k3 = false) ∧ (at561.dev.on (Reg.SP_CORE_DBG_CTL_mon_en ↑k3) = true)) ∧
    (((wCore [] cr64).live = true) ∧ ((wCore [] cr64).dev.inMonitor ↑k3 = false) ∧ (¬(wCore [] cr64).dev.on
      (Reg.SP_CORE_DBG_CTL_mon_en ↑k3) = true)) ∧
    (((wCore [] cr64).live = true) ∧ ((wCore [] cr64).dev.inMonitor ↑k3 = false) ∧ (¬(wCore [] cr64).dev.on
      (Reg.SP_CORE_DBG_CTL_mon_en ↑k3) = true ∨ ∀ (k : Nat), k < (8 : Nat) → (wCore [] cr64).dev.cmpMatch (↑k3) k (↑kd0)
      (BitVec.toNat (64 : Word)) (0 : Nat) = false)) ∧
    ((at562.live = true) ∧ (at562.dev.inMonitor ↑k3 = false) ∧ (at562.dev.on (Reg.SP_CORE_DBG_CTL_mon_en ↑k3) = true) ∧
      (at562.dev.cmpMatch (↑k3) (↑k7) (↑kd0) (BitVec.toNat (64 : Word)) (0 : Nat) = true)) ∧
    (((wCore [mEn] cr64).live = true) ∧ ((wCore [mEn] cr64).dev.inMonitor ↑k3 = false) ∧ (((wCore [mEn] cr64).dev.core
      ↑k3).stepping = false)) ∧
    (((wCore [mEn] crSt).live = true) ∧ ((wCore [mEn] crSt).dev.inMonitor ↑k3 = false) ∧ (((wCore [mEn] crSt).dev.core
      ↑k3).stepping = true) ∧ ((wCore [mEn] crSt).dev.on (Reg.SP_CORE_DBG_CTL_mon_en ↑k3) = true)) ∧
    (((wCore [] crSt).live = true) ∧ ((wCore [] crSt).dev.inMonitor ↑k3 = false) ∧ (((wCore [] crSt).dev.core ↑k3).stepping =
      true) ∧ (¬(wCore [] crSt).dev.on (Reg.SP_CORE_DBG_CTL_mon_en ↑k3) = true)) ∧
    ((at564.live = true) ∧ (at564.dev.inMonitor ↑k3 = true) ∧ (at564.dev.on (Reg.SP_CORE_DBG_STATUS_halt_pending ↑k3) = false)) ∧
    ((wSv.live = true) ∧ (wSv.dev.inMonitor ↑k3 = true) ∧ (wSv.dev.on (Reg.SP_CORE_DBG_STATUS_halt_pending ↑k3) = false)) ∧
    ((at565.live = true) ∧ (at565.dev.inMonitor ↑k3 = true) ∧ (at565.dev.on (Reg.SP_CORE_DBG_STATUS_halt_pending ↑k3) = true)
      ∧ (at565.dev.on (Reg.SP_CORE_DBG_CTL_mon_en ↑k3) = true)) ∧
    ((at566.live = true) ∧ (at566.dev.bit (Reg.SP_MARK_EN_en ↑k3) (at566.dev.get (Reg.SP_MARK_ID_class ↑k3)) = false ∨ ¬((4 :
      Nat) = (1 : Nat) ∨ (4 : Nat) = (2 : Nat) ∨ (4 : Nat) = (4 : Nat)))) ∧
    ((at567.live = true) ∧ (at567.dev.bit (Reg.SP_MARK_EN_en ↑k3) (at567.dev.get (Reg.SP_MARK_ID_class ↑k3)) = true) ∧ ((4 :
      Nat) = (1 : Nat) ∨ (4 : Nat) = (2 : Nat) ∨ (4 : Nat) = (4 : Nat)) ∧ ((8 : Nat) ≤ (at567.dev.trace.fifo.get ↑k3
      []).length)) ∧
    (((wTr (7 : Nat) []).live = true) ∧ ((wTr (7 : Nat) []).dev.bit (Reg.SP_MARK_EN_en ↑k3) ((wTr (7 : Nat) []).dev.get
      (Reg.SP_MARK_ID_class ↑k3)) = true) ∧ ((2 : Nat) = (1 : Nat) ∨ (2 : Nat) = (2 : Nat) ∨ (2 : Nat) = (4 : Nat)) ∧ (((wTr (7
      : Nat) []).dev.trace.fifo.get ↑k3 []).length < (8 : Nat))) ∧
    (((wTr (7 : Nat) []).live = true) ∧ ((wTr (7 : Nat) []).dev.trace.fifo.get ↑k3 [] = [] ∨ (wTr (7 : Nat) []).dev.on
      Reg.DBG_TRACE_CTL_en = false)) ∧
    ((at568.live = true) ∧ (at568.dev.trace.fifo.get ↑k3 [] = pk :: pks0) ∧ (at568.dev.on Reg.DBG_TRACE_CTL_en = true)) ∧
    ((at571.live = true) ∧ (at571.dev.frozenSp (0 : Nat) = true ∨ at571.dev.get Reg.SP_WDT_COUNT_us ≠ (0 : Nat) ∨
      at571.dev.spState = (5 : Nat))) ∧
    ((at573.live = true) ∧ (at573.dev.frozenSp (0 : Nat) = false) ∧ (at573.dev.get Reg.SP_WDT_COUNT_us = (0 : Nat)) ∧
      (at573.dev.spState ≠ (5 : Nat))) ∧
    ((at574.reaches core0 (Reg.SP_CORE_DBG_CTL ↑k3)) ∧ (at574.dev.inMonitor ↑k3 = true)) ∧
    (((wCore [] cr64).reaches core0 (Reg.SP_CORE_DBG_CTL ↑k3)) ∧ ((wCore [] cr64).dev.inMonitor ↑k3 = false) ∧ (BitVec.getLsbD
      (33 : Word) (0 : Nat) = true)) ∧
    (((wCore [] cr64).reaches core0 (Reg.SP_CORE_DBG_CTL ↑k3)) ∧ ((wCore [] cr64).dev.inMonitor ↑k3 = false) ∧ (BitVec.getLsbD
      (32 : Word) (0 : Nat) = false)) ∧
    (((wCore [] { : CoreState }).reaches core0 Reg.SP_WDT_KICK)) := by
  and_intros <;> decide +kernel

/-! ### Witnesses that no evaluation finds -/

def goes (o : Host.Outcome State Fault Refusal) : Bool :=
  match o with
  | .next _ => true
  | _ => false

def after (o : Host.Outcome State Fault Refusal) (s : State) : State :=
  match o with
  | .next t => t
  | _ => s

theorem next_after {o : Host.Outcome State Fault Refusal} {s : State} (h : goes o = true) : o = .next (after o s) := by
  cases o with
  | next t => rfl
  | fault _ => cases h
  | refused _ => cases h

/-- A state with a fuse bit blown and an empty queue: its step goes on. -/
theorem test_meets_NoStepClearsAFuse :
    ∃ s t : State, step s = .next t ∧ s.fuses.life.getLsbD 0 = true ∧ s.fuses.tamper.getLsbD 7 = true ∧
      s.fuses.mbxWorld.getLsbD 15 = true ∧ s.fuses.rootHash.getLsbD 383 = true :=
  ⟨{ w0 with fuses := { w0.fuses with life := 1, tamper := 0x80, mbxWorld := 0x8000, rootHash := 2 ^ 383 } }, _,
    next_after (s := w0) (by decide +kernel), by decide +kernel, by decide +kernel, by decide +kernel, by decide +kernel⟩

/-- A fuse that blows. -/
def wBlow : State := wSec [(Reg.LC_REQ_STATUS_busy, 1)] { lc := some job1 }

theorem test_meets_OnlyFuseBlowDoneChangesFuses :
    ∃ t : State, exec (.fuseBlowDone true) wBlow = .next t ∧ t.fuses ≠ wBlow.fuses :=
  ⟨_, next_after (s := w0) (by decide +kernel), by decide +kernel⟩

/-- A command that runs and one that stops. -/
theorem test_meets_NoCommandUsesTheQueue :
    (∃ t, exec (.hotSlotRelease 0) w0 = .next t) ∧ exec (.registerWrite core0 2 0) w0 = .fault .unguaranteed :=
  ⟨⟨_, next_after (s := w0) (by decide +kernel)⟩, by
    have h : (match exec (.registerWrite core0 2 0) w0 with | .fault .unguaranteed => true | _ => false) = true := by decide +kernel
    revert h; cases exec (.registerWrite core0 2 0) w0 with
    | next t => intro h; cases h
    | refused r => intro h; cases h
    | fault f => intro h; cases f <;> first | rfl | cases h⟩

theorem get_absent {α : Type} (k : Nat) (x : α) : ∀ m : SMap α, (∀ e ∈ m, e.1 ≠ k) → SMap.get m k x = x := by
  intro m
  induction m with
  | nil => intro _; rfl
  | cons e r ih =>
    intro h
    show (if e.1 = k then e.2 else SMap.get r k x) = x
    rw [if_neg (h e List.mem_cons_self)]
    exact ih (fun e he => h e (List.mem_cons_of_mem _ he))

/-- Every hot slot of B3 is held by a sync context (LinkCommands, a write of a synchronous context). -/
theorem test_meets_LinkCommands_full :
    (full4 (wCtx {} [cd0 3])).reaches core0 (Reg.LCH_CTX_CMD 19) ∧
    (full4 (wCtx {} [cd0 3])).dev.get (Reg.LCH_CTX_SEL_ctx 19) / 16384 = 3 ∧
    bits ((full4 (wCtx {} [cd0 3])).dev.rdWord (Reg.LCH_CTX_DATA 19 0)) 0 2 = 3 ∧
    ((full4 (wCtx {} [cd0 3])).dev.ctx 0xFFFF).valid = false ∧ ((full4 (wCtx {} [cd0 3])).dev.ctx 0xFFFF).hot = none ∧
    (full4 (wCtx {} [cd0 3])).dev.hotFree 3 = none ∧
    (∀ e ∈ (full4 (wCtx {} [cd0 3])).dev.hotCtxs 3, e.2.sync = true) := by
  have hm : ∀ e ∈ (full4 (wCtx {} [cd0 3])).dev.ctxs, e.1 < 0xC800 ∧ e.2.sync = true := by
    intro e he
    obtain ⟨i, hi, rfl⟩ := List.mem_map.1 he
    exact ⟨by have := List.mem_range.1 hi; show 0xC000 + i < 0xC800; omega, (by decide : (0xF03#32).getLsbD 1 = true)⟩
  have hx : (full4 (wCtx {} [cd0 3])).dev.ctx 0xFFFF = {} :=
    get_absent _ _ _ (fun e he => by have := (hm e he).1; omega)
  refine ⟨by decide +kernel, by decide +kernel, by decide +kernel, by rw [hx]; decide, by rw [hx], ?_, ?_⟩
  · unfold Dev.hotFree
    apply List.find?_eq_none.2
    intro i hi
    have : i ∈ (full4 (wCtx {} [cd0 3])).dev.hotUsed 3 := by
      unfold Dev.hotUsed Dev.hotCtxs
      apply List.mem_filterMap.2
      refine ⟨(0xC000 + i, { d0 := 0xF03, hot := some (i, 0) }), List.mem_filter.2 ⟨?_, ?_⟩, rfl⟩
      · exact List.mem_map.2 ⟨i, hi, rfl⟩
      · have := List.mem_range.1 hi
        have h3 : (0xC000 + i) / 16384 = 3 := by omega
        simp [ctxBase, h3]
    simp only [this, decide_true, Bool.not_true, Bool.false_eq_true, not_false_eq_true]
  · intro e he
    exact (hm e (List.mem_filter.1 he).1).2

/-- Whatever the tag of a frame should be, some frame shows another. -/
theorem test_meets_LinkLayer_tag (key iv aad body : List Byte) :
    ∃ f : Frame, f.good = true ∧ f.seq = 7 ∧ slice f.tag 0 8 ≠ (Config.gcmTag key iv aad body).take 8 := by
  by_cases h : (Config.gcmTag key iv aad body).take 8 = slice [] 0 8
  · exact ⟨{ type := 1, seq := 7, tag := [1] }, by decide, rfl, by rw [h]; decide⟩
  · exact ⟨{ type := 1, seq := 7 }, by decide, rfl, fun g => h g.symm⟩

/-- The link of that frame: encrypted, expecting sequence number 7. -/
theorem test_meets_LinkLayer_encrypted :
    let d := (wLink 4 2 { expect := 7 } [(Reg.LCH_LINK_CFG_enc 19 47, 1)]).dev
    d.laneState 191 = 4 ∧ d.linkState 191 = 2 ∧ (d.creditIn 191 0).linkState 191 = 2 ∧
      ((d.creditIn 191 0).link 191).expect = 7 ∧ d.linkEnc 191 = true := by decide +kernel

theorem imageBytes_length (c : Checkpoint) : (imageBytes c).length ≤ 0x20000000 := by
  unfold imageBytes
  rw [List.length_take]
  omega

theorem hbmRange_zero {n : Nat} (h : n ≤ 0x20000000) : hbmRange 0 n = true := by
  have h0 : placeOf 0 = some .hbm := by decide
  have h1 : placeOf (0 + n - 1) = some .hbm := by
    unfold placeOf
    rw [if_pos (by omega)]
  unfold hbmRange
  rw [h0, h1]

/-- A checkpoint to HBM address 0 by a secure mailbox: whatever its image, the range is in HBM. -/
theorem test_meets_stateCheckpoint (c : Checkpoint) :
    ((wC (x13 0x0401 []) []).starts m15 0x0401 (x13 0x0401 []) ∧ (x13 0x0401 []).par 0 8 % 4096 = 0 ∧
      (wC (x13 0x0401 []) []).dev.running = false) ∧
    ((wC (x13 0x0401 []) [(Reg.PACE_STATUS_running, 1)]).starts m15 0x0401 (x13 0x0401 []) ∧
      (wC (x13 0x0401 []) [(Reg.PACE_STATUS_running, 1)]).dev.running = true) ∧
    hbmRange ((x13 0x0401 []).par 0 8) (imageBytes c).length = true ∧
    (∀ d : Dev, d.noRange secFuse m15 ((x13 0x0401 []).par 0 8) (imageBytes c).length = false) := by
  refine ⟨by decide +kernel, by decide +kernel, ?_, ?_⟩
  · rw [show (x13 0x0401 []).par 0 8 = 0 by decide]
    exact hbmRange_zero (imageBytes_length c)
  · intro d
    unfold Dev.noRange
    rw [show secFuse.mbxSecure m15 = true by decide]
    rfl

theorem readBytes_writeBytes (l : List Byte) : ∀ (m : Memory) (a : Nat), (Memory.writeBytes m a l).readBytes a l.length = l := by
  induction l with
  | nil => intro m a; rfl
  | cons b r ih =>
    intro m a
    have h : (Memory.writeBytes m a (b :: r)).read a = b := by
      rw [Memory.read_writeBytes, if_pos ⟨Nat.le_refl _, by simp⟩, Nat.sub_self]
      rfl
    show _ :: _ = _
    rw [h]
    exact congrArg _ (ih (m.write a b) (a + 1))

/-- What the checks of a restore look at lies outside memory and the list of images. -/
theorem restore_looks (d : Dev) (fz : Fuses) (m : Memory) (l : List Checkpoint) (k : Nat) (x : Desc) (a : Nat) :
    let e : Dev := { d with mem := m, fw := { d.fw with images := l } }
    e.nextCmd fz k 0x0402 = d.nextCmd fz k 0x0402 ∧ e.cmdGate fz k x = d.cmdGate fz k x ∧ e.running = d.running ∧
      e.loadOpen = d.loadOpen ∧ (d.hbmGate a = none → e.hbmGate a = none) := by
  refine ⟨rfl, rfl, rfl, rfl, fun h => ?_⟩
  unfold Dev.hbmGate at h ⊢
  dsimp only at h ⊢
  repeat' (split at h; · cases h)
  repeat rw [if_neg (by assumption)]

/-- The image of a checkpoint stands at HBM address 0. -/
def wImage (c : Checkpoint) : State := wDev (wC (x13 0x0402 []) hot8) (fun d => { d with
  mem := Memory.writeBytes d.mem 0 (imageBytes c), fw := { d.fw with images := [c] } })

/-- The device finds it there and may restore it, whether its digest is the loaded design's or not. -/
theorem test_meets_stateRestore_image (c : Checkpoint) :
    (wImage c).starts m15 0x0402 (x13 0x0402 []) ∧ hbmRange ((x13 0x0402 []).par 0 8) 1 = true ∧
    (wImage c).dev.noRange secFuse m15 ((x13 0x0402 []).par 0 8) 1 = false ∧ (wImage c).dev.running = false ∧
    (wImage c).dev.loadOpen = false ∧ (wImage c).dev.hbmGate ((x13 0x0402 []).par 0 8) = none ∧
    (wImage c).dev.imageFor ((x13 0x0402 []).par 0 8) = some c ∧ (wImage c).dev.cfg.digest = w0.dev.cfg.digest := by
  generalize hw : wC (x13 0x0402 []) hot8 = s
  have hs : s.starts m15 0x0402 (x13 0x0402 []) := by rw [← hw]; decide +kernel
  have hg : s.dev.hbmGate ((x13 0x0402 []).par 0 8) = none := by rw [← hw]; decide +kernel
  have hr : s.dev.running = false ∧ s.dev.loadOpen = false ∧ s.dev.cfg.digest = w0.dev.cfg.digest := by rw [← hw]; decide +kernel
  have hf : s.fuses = secFuse := by rw [← hw]; rfl
  obtain ⟨h1, h2, h3, h4, h5⟩ := restore_looks s.dev s.fuses
    (Memory.writeBytes s.dev.mem 0 (imageBytes c)) [c] m15 (x13 0x0402 []) ((x13 0x0402 []).par 0 8)
  have hi : wImage c = { s with dev := { s.dev with mem := Memory.writeBytes s.dev.mem 0 (imageBytes c), fw := { s.dev.fw with images := [c] } } } := by
    unfold wImage
    rw [hw]
    rfl
  rw [hi]
  have hn : ∀ d : Dev, d.noRange secFuse m15 ((x13 0x0402 []).par 0 8) 1 = false := by
    intro d
    unfold Dev.noRange
    rw [show secFuse.mbxSecure m15 = true by decide]
    rfl
  refine ⟨⟨hs.1, hs.2.1, h1.trans hs.2.2.1, h2.trans hs.2.2.2⟩, by decide +kernel, hn _, h3.trans hr.1, h4.trans hr.2.1, h5 hg, ?_, hr.2.2⟩
  rw [show (x13 0x0402 []).par 0 8 = 0 by decide]
  unfold Dev.imageFor
  dsimp only
  rw [List.find?_cons_of_pos]
  rw [beq_iff_eq]
  exact readBytes_writeBytes _ _ _

/-- The kinds of section header that a section may begin with (SectionsAndPackets, its first clause). -/
theorem test_meets_SectionsAndPackets_headers :
    headerFormat (1 :: (hFull 1 0 256).drop 1) = some 0 ∧ headerFormat (hFull 1 0 256) = none ∧ leAt (hFull 1 0 256) 6 1 = 1 ∧
    headerFormat (hFull 15 0 256) = none ∧ leAt (hFull 15 0 256) 6 1 = 0x0F ∧
    headerFormat (hFull 1 2 256) = none ∧ (wCfg cRead [cst 2]).dev.headerMine { w0.fuses with serial := 5 } (hFull 1 2 256) = false ∧
    (wCfg cRead [cst 2]).dev.headerMine w0.fuses (hFull 1 0 256) = true := by decide +kernel

theorem test_meets_SectionsAndPackets_checks :
    (wCfg cRead [cst 2]).dev.headerChecks ((hFull 1 0 256).take 8 ++ (0 : Byte) :: (hFull 1 0 256).drop 9) = some (2, 8) ∧
    (wCfg cRead [cst 2]).dev.headerChecks (hFull 1 0 256) = none := by
  refine ⟨by decide +kernel, ?_⟩
  unfold Dev.headerChecks
  rw [show BitVec.ofNat 32 (leAt (hFull 1 0 256) 12 4) = 0#32 by decide +kernel, BitVec.zero_and]
  decide +kernel

/-- A single bit that has flipped in a granary word is corrected by the read and counts in the bucket (R358); two are not
(R358). -/
theorem test_granary_read_corrects_one_flip :
    ((({} : Dev).upsetAt (.gran 0 0) (granBase 0) { flips := [3] }).granRead (granBase 0) 8).1 = some (List.replicate 8 0) ∧
    ((({} : Dev).upsetAt (.gran 0 0) (granBase 0) { flips := [3, 70] }).granRead (granBase 0) 8).1 = none := by
  decide +kernel

/-- Corrections that a stack reports count in HBM_STK_ERRCNT.ondie (Table 7.1). -/
theorem test_ondie_corrections_count :
    (({} : Dev).upsetAt .hbm 0 { ondie := 2 }).get (Reg.HBM_STK_ERRCNT_ondie 16 0) = 2 := by decide +kernel

end Sys2Proof.Tests
end

section
/-! SUPPORT. The statements about any command and about accesses of registers (chapter 0): which commands run, what a write of
a register meets on its way, and what the two words of a pair read as. -/

namespace Sys2Proof.Machine

/-! ### Commands that touch more than the device -/

/-- In reset a register write does nothing, at whatever address (R442). -/
theorem exec_registerWrite_reset (who : Who) (a : BitVec 33) (v : Word) {s : State} (h : s.live = false) :
    exec (.registerWrite who a v) s = .next s := by
  have hr : s.dev.inReset = true := by simpa [State.live] using h
  simp [exec, execRegisterWrite, hr]

/-- In reset no fuse's blowing ends (R442). -/
theorem exec_fuseBlowDone_reset (ok : Bool) {s : State} (h : s.live = false) : exec (.fuseBlowDone ok) s = .next s := by
  have hr : s.dev.inReset = true := by simpa [State.live] using h
  simp [exec, execFuseBlowDone, hr]

/-- The end of a fuse's blowing answers a next state, in reset and out of it. -/
theorem exec_fuseBlowDone_next (ok : Bool) (s : State) : ∃ t, exec (.fuseBlowDone ok) s = .next t := by
  cases h : s.live
  · exact ⟨s, exec_fuseBlowDone_reset ok h⟩
  · exact ⟨_, exec_fuseBlowDone ok s h⟩

/-- A register write answers a next state, but for one at an address that is not a multiple of 4, out of reset (R13, R37). -/
theorem exec_registerWrite_next_or_fault (who : Who) (a : BitVec 33) (v : Word) (s : State) :
    (∃ t, exec (.registerWrite who a v) s = .next t) ∨
      (s.live = true ∧ a.toNat % 4 ≠ 0 ∧ exec (.registerWrite who a v) s = .fault .unguaranteed) := by
  cases h : s.live
  · exact .inl ⟨s, exec_registerWrite_reset who a v h⟩
  · rw [exec_registerWrite who a v s h]
    by_cases ha : a.toNat % 4 ≠ 0
    · exact .inr ⟨rfl, ha, if_pos ha⟩
    · rw [if_neg ha]
      split <;> exact .inl ⟨_, rfl⟩

/-- Settles O3, by the ways in which commands act: only a register write can answer anything but a next state. -/
theorem everyCommandRunsOrIsAMisalignedWrite : Obligations.EveryCommandRunsOrIsAMisalignedWrite := by
  intro c s
  obtain ⟨act, h⟩ | ⟨act, h⟩ | ⟨act, h⟩ | ⟨who, a, v, rfl⟩ | ⟨ok, rfl⟩ := exec_shape c
  · obtain ⟨t, ht, -⟩ := s.onDev_next act
    exact .inl ⟨t, (h s).trans ht⟩
  · obtain ⟨t, ht, -⟩ := s.onPorst_next act
    exact .inl ⟨t, (h s).trans ht⟩
  · obtain ⟨t, ht, -⟩ := s.always_next act
    exact .inl ⟨t, (h s).trans ht⟩
  · obtain hn | ⟨hl, ha, hf⟩ := exec_registerWrite_next_or_fault who a v s
    · exact .inl hn
    · exact .inr ⟨who, a, v, rfl, hl, ha, hf⟩
  · exact .inl (exec_fuseBlowDone_next ok s)

/-! ### The checks of a register write -/

/-- A write that a check stops leaves the device as that check does. -/
theorem Dev.regPut_stopped {d d' : Dev} {who : Who} {a : Nat} {e : Bool} (fz : Fuses) (v : Word)
    (h : d.regGate who a = (some e, d')) : d.regPut fz who a v = d' := by
  simp [Dev.regPut, Dev.regAccessWrite, h]

/-- What an aligned write of a register meets, in the order of its checks: B0 held (R472), decoding (R39), world (R424), the die
held (R41); a write that passes them all is the register's. -/
theorem Dev.regPut_aligned (d : Dev) (fz : Fuses) (who : Who) {a : Nat} (v : Word) (ha : a % 4 = 0) :
    d.regPut fz who a v =
      if who.inPackage ∧ a / 0x1000000 ≠ 32 ∧ d.heldDie 16 then d
      else if ¬ blockPresent a then d.addrDecode who (0x6000000000 + a)
      else if ¬ d.regAllowed a (d.whoSecure who) then d.worldFault (0x6000000000 + a) (d.whoSecure who)
      else if d.heldDie (a / 0x1000000) then d
      else d.regWrite fz who a v := by
  by_cases hB0 : who.inPackage ∧ a / 0x1000000 ≠ 32 ∧ d.heldDie 16
  · rw [if_pos hB0]
    exact Dev.regPut_stopped fz v (if_pos hB0)
  rw [if_neg hB0]
  by_cases hPresent : ¬ blockPresent a
  · rw [if_pos hPresent]
    exact Dev.regPut_stopped fz v ((if_neg hB0).trans (if_pos hPresent))
  rw [if_neg hPresent]
  by_cases hWorld : ¬ d.regAllowed a (d.whoSecure who)
  · rw [if_pos hWorld]
    exact Dev.regPut_stopped fz v ((if_neg hB0).trans ((if_neg hPresent).trans (if_pos hWorld)))
  rw [if_neg hWorld]
  have hGate : d.regGate who a = if d.heldDie (a / 0x1000000) then (some false, d) else (none, d) :=
    (if_neg hB0).trans ((if_neg hPresent).trans (if_neg hWorld))
  split <;> rename_i hHeld
  · exact Dev.regPut_stopped fz v (hGate.trans (if_pos hHeld))
  · exact Dev.regPut_passed fz v (hGate.trans (if_neg hHeld)) ha

/-- Settles O26, by the two paths of REGISTER_WRITE: BAR0, and the checks of a register access. -/
theorem registerWriteCommand : Obligations.RegisterWriteCommand := by
  intro s who a v hl d n
  rw [exec_registerWrite who a v s hl]
  refine ⟨fun ha => if_pos ha, fun ha hn hw => ?_, fun ha hn hw => ?_, fun ha hn => ?_⟩
  all_goals rw [if_neg (fun hne => hne ha)]
  · rw [if_pos hn, if_pos hw]
  · rw [if_pos hn, if_neg hw]
    rfl
  · rw [if_neg (Nat.not_le.mpr hn), Dev.regPut_aligned _ _ _ _ ha]

/-! ### Register pairs -/

section
variable {d : Dev} {lo : Nat}

/-- A read of a _LO word is live and latches the _HI word (R514). -/
theorem Dev.regRead_lo (fz : Fuses) (h : isLo lo = true) :
    d.regRead fz lo = (d.liveWord fz lo, { d with latch := d.latch.put lo (some (d.liveWord fz (lo + 4))) none }) := by
  simp [Dev.regRead, h]

/-- A read of a _HI word whose latch is full returns the latched word and empties the latch (R514). -/
theorem Dev.regRead_hi_latched (fz : Fuses) {v : Word} (h : isLo lo = true) (hi : isLo (lo + 4) = false)
    (hv : d.latch.get lo none = some v) :
    d.regRead fz (lo + 4) = (v, { d with latch := d.latch.put lo none none }) := by
  simp [Dev.regRead, h, hi, hv]

/-- A read of a _HI word whose latch is empty is live (R514). -/
theorem Dev.regRead_hi_live (fz : Fuses) (h : isLo lo = true) (hi : isLo (lo + 4) = false)
    (hv : d.latch.get lo none = none) : d.regRead fz (lo + 4) = (d.liveWord fz (lo + 4), d) := by
  simp [Dev.regRead, h, hi, hv]

end

/-- Settles O29: between the two reads only the latch has to stay. -/
theorem highWordsAreLatched : Obligations.HighWordsAreLatched := by
  intro d e fz lo hlo hhi
  rw [Dev.regRead_lo fz hlo]
  refine ⟨rfl, fun hl => ?_, fun hl => ?_⟩
  · have hv : e.latch.get lo none = some (d.liveWord fz (lo + 4)) := by rw [hl, SMap.get_put_self]
    rw [Dev.regRead_hi_latched fz hlo hhi hv]
    exact ⟨rfl, SMap.get_put_self e.latch lo none none⟩
  · rw [Dev.regRead_hi_live fz hlo hhi hl]

/-! ### Reserved offsets -/

/-- A plain write of a reserved offset is ignored (R12). -/
theorem Dev.plainWrite_reserved (d : Dev) {a : Nat} (v : Word) (h : findReg a = none) : d.plainWrite a v = d := by
  simp [Dev.plainWrite, h]

/-- The leaks of a bucket count from the time of its last configuration (R373). -/
theorem Dev.leakFrom_leakAt (d : Dev) (i k : Nat) : (d.leakFrom i k).scrub.leakAt.get (lapKey i k) 0 = d.now :=
  SMap.get_put_self _ _ _ _

/-- Where ERR_BKT_CFG of scrubber 2 would stand on compute die 0, whose scrubbers are 0 and 1 (R389, Table 11.3): the offset is
reserved. -/
def thirdBucketCfg : Nat := 0x0F0198

theorem thirdBucketCfg_reserved : findReg thirdBucketCfg = none := by decide

/-- A write there starts the leaks of a bucket that the die lacks. -/
theorem Dev.regWrite_thirdBucketCfg (d : Dev) (fz : Fuses) (who : Who) (v : Word) :
    d.regWrite fz who thirdBucketCfg v = d.leakFrom 0 2 := by
  rw [Dev.regWrite_err (by decide)]
  show (d.plainWrite thirdBucketCfg v).leakFrom 0 2 = d.leakFrom 0 2
  rw [Dev.plainWrite_reserved d v thirdBucketCfg_reserved]

/-- A device whose timebase has counted one tick. -/
def afterOneTick : Dev := { pac := { tb := 1 } }

/-- Refutes O28: on a compute die, a write at 0x198 of the ERR block, where no register stands, sets the time from which a bucket
that the die lacks leaks. -/
theorem not_reservedOffsetsReadZeroAndIgnoreWrites : ¬ Obligations.ReservedOffsetsReadZeroAndIgnoreWrites := by
  intro h
  obtain ⟨hw, -⟩ := h afterOneTick {} .host thirdBucketCfg 0 (by decide) (by decide) (by decide) thirdBucketCfg_reserved
  rw [Dev.regWrite_thirdBucketCfg] at hw
  have hk : afterOneTick.scrub.leakAt.get (lapKey 0 2) 0 = afterOneTick.now := by
    rw [← Dev.leakFrom_leakAt afterOneTick 0 2, hw]
  exact absurd hk (by decide)

end Sys2Proof.Machine
end

section
/-! SUPPORT. The boundary that ends a design cycle (chapter 1): what each of its parts changes and what it leaves, from the fields
that enter and leave completion to the stop of the pacer. -/

namespace Sys2Proof.Machine

variable {d e : Dev}

/-! ### Fields enter and leave completion (R104) -/

/-- Nothing but the fabric and the fields' parts in the cycle differs. -/
def PartsOnly (d e : Dev) : Prop := e = { d with fab := e.fab, flds := e.flds }

theorem PartsOnly.trans {f : Dev} (h : PartsOnly d e) (k : PartsOnly e f) : PartsOnly d f := by
  unfold PartsOnly at *; rw [k, h]

theorem PartsOnly.each {α : Type} (f : α → Dev → Dev) (hf : ∀ x d, PartsOnly d (f x d)) :
    ∀ (l : List α) (d : Dev), PartsOnly d (each l f d)
  | [], _ => rfl
  | x :: l, d => (hf x d).trans (PartsOnly.each f hf l (f x d))

theorem PartsOnly.regs (h : PartsOnly d e) : e.regs = d.regs := by rw [h]
theorem PartsOnly.pac (h : PartsOnly d e) : e.pac = d.pac := by rw [h]
theorem PartsOnly.cfg (h : PartsOnly d e) : e.cfg = d.cfg := by rw [h]
theorem PartsOnly.trimDue (h : PartsOnly d e) : e.trimDue = d.trimDue := by rw [h]

theorem Dev.holdQ_fab (d : Dev) (f : Nat) : FabOnly d (d.holdQ f) := by
  refine FabOnly.each _ (fun x e => ?_) _ d
  split
  · exact .refl e
  · exact .setQ e _ _ _ _

theorem Dev.leave_parts (d : Dev) (f : Nat) : PartsOnly d (d.leave f) := by
  unfold Dev.leave
  split
  · rw [d.holdQ_fab f]; rfl
  · rfl

theorem Dev.join_parts (d : Dev) (f : Nat) : PartsOnly d (d.join f) := by
  unfold Dev.join
  split <;> rfl

theorem Dev.updateParts_parts (d : Dev) : PartsOnly d d.updateParts :=
  (PartsOnly.each _ (fun f d => d.leave_parts f) _ d).trans (PartsOnly.each _ (fun f d => d.join_parts f) _ _)

theorem Dev.part_setFld (d : Dev) (f g : Nat) (v : FieldDyn) :
    (d.setFld f v).part g = if g = f then v.part else d.part g := by
  unfold Dev.part
  split
  · next h => rw [h, Dev.setFld_fld]
  · next h => rw [Dev.setFld_fld_ne _ _ _ h]

/-- A field that leaves takes no part; the others stay as they are. -/
theorem Dev.leave_part (d : Dev) (f g : Nat) : (d.leave f).part g = (d.part g && decide (g ≠ f)) := by
  unfold Dev.leave
  split
  · have hq : (d.holdQ f).part g = d.part g := by rw [Dev.part, Dev.fld, (d.holdQ_fab f).flds]; rfl
    rw [Dev.part_setFld, hq]
    by_cases h : g = f <;> simp [h]
  · next hf => by_cases h : g = f <;> simp_all

/-- A field that joins takes part; the others stay as they are. -/
theorem Dev.join_part (d : Dev) (f g : Nat) : (d.join f).part g = (d.part g || decide (g = f)) := by
  unfold Dev.join
  split
  · next hf => by_cases h : g = f <;> simp_all
  · rw [Dev.part_setFld]
    by_cases h : g = f <;> simp [h]

theorem each_leave_part (l : List Nat) (d : Dev) (g : Nat) :
    (each l (fun f d => d.leave f) d).part g = (d.part g && decide (g ∉ l)) := by
  induction l generalizing d with
  | nil => simp [each]
  | cons f l ih =>
    show (each l (fun f d => d.leave f) (d.leave f)).part g = _
    rw [ih, Dev.leave_part]
    simp [Bool.and_assoc]

theorem each_join_part (l : List Nat) (d : Dev) (g : Nat) :
    (each l (fun f d => d.join f) d).part g = (d.part g || decide (g ∈ l)) := by
  induction l generalizing d with
  | nil => simp [each]
  | cons f l ih =>
    show (each l (fun f d => d.join f) (d.join f)).part g = _
    rw [ih, Dev.join_part]
    simp [Bool.or_assoc]

/-- After the change of participation exactly those fields take part that nothing of R104 keeps out. -/
theorem Dev.updateParts_part (d : Dev) {f : Nat} (hf : f < 384) : d.updateParts.part f = d.mayTakePart f := by
  unfold Dev.updateParts
  dsimp only
  rw [each_join_part, each_leave_part]
  cases hp : d.part f <;> cases hm : d.mayTakePart f <;> simp [Dev.partCandidates, hf, hp, hm]

/-! ### What waits for a field to leave -/

/-- With no failed section there is nothing to clear (R346). -/
theorem Dev.clearLeft_nil (h : d.cfg.toClear = []) : d.clearLeft = d := by
  unfold Dev.clearLeft
  rw [h]
  show { d with cfg := { d.cfg with toClear := [] } } = d
  rw [← h]

/-- With no frame waiting none is placed. -/
theorem Dev.drainFrames_nil (h : d.cfg.waiting = []) : d.drainFrames = d := by
  unfold Dev.drainFrames
  split
  · rw [h]
    show { d with cfg := { d.cfg with waiting := [] } } = d
    rw [← h]
  · rfl

/-! ### Bridges hold and release (R81) -/

/-- Nothing but registers differs, and of those none but FAB_BRIDGE_STATUS of the compute dies. -/
structure BridgesOnly (d e : Dev) : Prop where
  regsOnly : RegsOnly d e
  words : ∀ a, a % 0x1000000 ≠ 0x10004 → e.rdWord a = d.rdWord a

theorem BridgesOnly.refl (d : Dev) : BridgesOnly d d := ⟨.refl d, fun _ _ => rfl⟩

theorem BridgesOnly.trans {f : Dev} (h : BridgesOnly d e) (k : BridgesOnly e f) : BridgesOnly d f :=
  ⟨h.regsOnly.trans k.regsOnly, fun a ha => (k.words a ha).trans (h.words a ha)⟩

theorem BridgesOnly.each {α : Type} (f : α → Dev → Dev) (hf : ∀ x d, BridgesOnly d (f x d)) :
    ∀ (l : List α) (d : Dev), BridgesOnly d (each l f d)
  | [], d => .refl d
  | x :: l, d => (hf x d).trans (BridgesOnly.each f hf l (f x d))

theorem BridgesOnly.setHolding (d : Dev) (c dir n : Nat) : BridgesOnly d (d.set (bridgeHolding c dir) n) := by
  refine ⟨.set d _ n, fun a ha => d.rdWord_set_ne _ n ?_⟩
  show a ≠ 0x10004 + c * 0x1000000
  omega

theorem BridgesOnly.flds (h : BridgesOnly d e) : e.flds = d.flds := by rw [h.regsOnly]
theorem BridgesOnly.trimDue (h : BridgesOnly d e) : e.trimDue = d.trimDue := by rw [h.regsOnly]

theorem Dev.bridgeHoldBegin_bridges (d : Dev) (c : Nat) : BridgesOnly d (d.bridgeHoldBegin c) := by
  unfold Dev.bridgeHoldBegin
  split
  · exact .refl d
  · refine BridgesOnly.each _ (fun dir e => ?_) _ d
    cases dieNeighbor c dir with
    | none => exact .refl e
    | some n =>
      dsimp only
      split
      · exact .setHolding e c dir 1
      · exact .refl e

theorem Dev.bridgesHold_bridges (d : Dev) : BridgesOnly d d.bridgesHold :=
  BridgesOnly.each _ (fun c e => e.bridgeHoldBegin_bridges c) _ d

theorem Dev.bridgeHoldEnd_bridges (d : Dev) : BridgesOnly d d.bridgeHoldEnd := by
  refine BridgesOnly.each _ (fun c e => BridgesOnly.each _ (fun dir e => ?_) _ e) _ d
  cases dieNeighbor c dir with
  | none => exact .refl e
  | some n =>
    dsimp only
    split
    · exact .setHolding e c dir 0
    · exact .refl e

/-! ### Delays, margins and trims come into force (R112 to R114) -/

/-- What a list of writes leaves under a key: the value last written for it, which depends on the key alone. -/
theorem SMap.get_foldl_put {α : Type} [DecidableEq α] (g : Nat → α) (x : α) (l : List Nat) (m : SMap α) (k : Nat) :
    (l.foldl (fun m c => m.put c (g c) x) m).get k x = if k ∈ l then g k else m.get k x := by
  induction l generalizing m with
  | nil => simp
  | cons c l ih =>
    rw [List.foldl_cons, ih, SMap.get_put]
    by_cases hl : k ∈ l
    · simp [hl]
    · by_cases hc : k = c <;> simp [hl, hc]

/-- The margin of each compute die comes into force. -/
theorem Dev.applyDelays_effMargin (d : Dev) {c : Nat} (h : d.trimDue = []) (hc : c < 12) :
    d.applyDelays.effMargin.get c 0 = d.get (Reg.FAB_WAVE_CTL_margin c) := by
  unfold Dev.applyDelays
  rw [h]
  refine (SMap.get_foldl_put (fun c => d.get (Reg.FAB_WAVE_CTL_margin c)) 0 (List.range 12) [] c).trans ?_
  rw [if_pos (List.mem_range.2 hc)]

/-- With no trim found since the last boundary no register, field or pacer state changes. -/
theorem Dev.applyDelays_keeps (h : d.trimDue = []) :
    d.applyDelays.regs = d.regs ∧ d.applyDelays.flds = d.flds ∧ d.applyDelays.pac = d.pac := by
  unfold Dev.applyDelays
  rw [h]
  exact ⟨rfl, rfl, rfl⟩

/-! ### Bursts are formed (R295) -/

/-- Forming the bursts of the next cycle changes nothing but the channels. -/
theorem Dev.syncForm_chan (d : Dev) : d.syncForm = { d with chan := d.syncForm.chan } := by
  unfold Dev.syncForm
  generalize d.syncLanes 0 = l
  induction l generalizing d with
  | nil => rfl
  | cons n l ih => exact ih _

/-! ### The causes of a stop -/

/-- The same PACE registers and the same state of the pacer, as far as the causes that stop it depend on it. -/
structure SamePace (d e : Dev) : Prop where
  words : ∀ a, 0x20020000 ≤ a → a < 0x20030000 → e.rdWord a = d.rdWord a
  causes : e.pac.causes = d.pac.causes
  stepLeft : e.pac.stepLeft = d.pac.stepLeft
  stopAt : e.pac.stopAt = d.pac.stopAt
  next : e.pac.next = d.pac.next
  t0 : e.pac.t0 = d.pac.t0
  inWaves : e.pac.phase = .waves ↔ d.pac.phase = .waves

namespace SamePace

theorem get (h : SamePace d e) {f : Fld} (h1 : 0x20020000 ≤ f.addr) (h2 : f.addr < 0x20030000) : e.get f = d.get f :=
  Dev.get_congr (h.words _ h1 h2)

theorem running (h : SamePace d e) : e.running = d.running := by
  simp only [Dev.running, Dev.on, h.get (f := Reg.PACE_STATUS_running) (by decide) (by decide)]

theorem committed (h : SamePace d e) : e.committed = d.committed := by
  simp only [Dev.committed, Dev.pair, h.words Reg.PACE_COMMITTED_LO (by decide) (by decide),
    h.words Reg.PACE_COMMITTED_HI (by decide) (by decide)]

theorem ratio (h : SamePace d e) : e.ratio = d.ratio := by
  simp only [Dev.ratio, Dev.pair, h.words Reg.PACE_RATIO_FRAC (by decide) (by decide),
    h.words Reg.PACE_RATIO_INT (by decide) (by decide)]

theorem paced (h : SamePace d e) : e.paced = d.paced := by
  simp only [Dev.paced, h.get (f := Reg.PACE_CTL_mode) (by decide) (by decide)]

section
variable {n : Nat}

theorem clkPeriod (h : SamePace d e) (hn : n < 64) : e.clkPeriod n = d.clkPeriod n :=
  h.get (by show 0x20020000 ≤ 0x20020900 + n * 0x10; omega) (by show 0x20020900 + n * 0x10 < 0x20030000; omega)

theorem clkRise (h : SamePace d e) (hn : n < 64) : e.clkRise n = d.clkRise n :=
  h.get (by show 0x20020000 ≤ 0x20020904 + n * 0x10; omega) (by show 0x20020904 + n * 0x10 < 0x20030000; omega)

theorem clkHigh (h : SamePace d e) (hn : n < 64) : e.clkHigh n = d.clkHigh n :=
  h.get (by show 0x20020000 ≤ 0x20020908 + n * 0x10; omega) (by show 0x20020908 + n * 0x10 < 0x20030000; omega)

theorem clkEnabled (h : SamePace d e) (hn : n < 64) : e.clkEnabled n = d.clkEnabled n :=
  congrArg (· != 0)
    (h.get (by show 0x20020000 ≤ 0x2002090c + n * 0x10; omega) (by show 0x2002090c + n * 0x10 < 0x20030000; omega))

theorem clkLive (h : SamePace d e) (hn : n < 64) : e.clkLive n = d.clkLive n := by
  simp only [Dev.clkLive, Dev.clkValid, h.clkPeriod hn, h.clkRise hn, h.clkHigh hn, h.clkEnabled hn]

theorem clkNextEdge (h : SamePace d e) (hn : n < 64) (t : Nat) : e.clkNextEdge n t = d.clkNextEdge n t := by
  unfold Dev.clkNextEdge Dev.clkPhase
  rw [h.clkPeriod hn, h.clkRise hn, h.clkHigh hn]

end

theorem earliestEdge (h : SamePace d e) (t : Nat) : e.earliestEdge t = d.earliestEdge t := by
  unfold Dev.earliestEdge
  refine List.foldl_rel (r := (· = ·)) rfl (fun n hn best best' hb => ?_)
  have hn : n < 64 := List.mem_range.1 hn
  rw [hb, h.clkLive hn, h.clkNextEdge hn t]

theorem nextCycle (h : SamePace d e) : e.nextCycle = d.nextCycle := by
  unfold Dev.nextCycle
  rw [h.committed, h.running]
  exact congrArg (d.committed + ·) (ite_congr (propext (and_congr_right fun _ => h.inWaves)) (fun _ => rfl) (fun _ => rfl))

theorem nextTime (h : SamePace d e) : e.nextTime = d.nextTime := by
  unfold Dev.nextTime
  rw [h.nextCycle, h.next, h.earliestEdge]

theorem deadline (h : SamePace d e) : e.deadline = d.deadline := by
  simp only [Dev.deadline, Dev.deadlineTicks, h.nextTime, h.t0, h.ratio]

theorem deadlineOut (h : SamePace d e) : e.deadlineOut = d.deadlineOut := by
  unfold Dev.deadlineOut
  rw [h.paced, h.deadline]

/-- The same causes are due. -/
theorem dueCauses (h : SamePace d e) : e.dueCauses = d.dueCauses := by
  unfold Dev.dueCauses
  rw [h.causes, h.stepLeft, h.stopAt, h.committed, h.nextTime, h.deadlineOut]

end SamePace

/-! ### A stop that is due (R138, R140, R145) -/

/-- Nothing but registers, the pacer, and what the host and the cluster are told differs. -/
def StopOnly (d e : Dev) : Prop :=
  e = { d with regs := e.regs, pac := e.pac, host := e.host, cluster := e.cluster, links := e.links }

theorem StopOnly.refl (d : Dev) : StopOnly d d := rfl

theorem StopOnly.trans {f : Dev} (h : StopOnly d e) (k : StopOnly e f) : StopOnly d f := by
  unfold StopOnly at *; rw [k, h]

theorem StopOnly.flds (h : StopOnly d e) : e.flds = d.flds := by rw [h]
theorem StopOnly.effMargin (h : StopOnly d e) : e.effMargin = d.effMargin := by rw [h]

/-- A register that no stop writes. -/
def NotOfStop (a : Nat) : Prop := a ≠ Reg.PACE_STATUS ∧ a ≠ Reg.PACE_TB_ADJ ∧ a ≠ Reg.ID_EVENTS

theorem Dev.hostEvent_stop (d : Dev) (v : Nat) : StopOnly d (d.hostEvent v) := by
  unfold Dev.hostEvent Dev.sendVector
  split
  · split <;> rfl
  · rfl

theorem StopOnly.modPac (d : Dev) (g : Pacer → Pacer) : StopOnly d (d.modPac g) := rfl
theorem StopOnly.set (d : Dev) (f : Fld) (n : Nat) : StopOnly d (d.set f n) := rfl

theorem Dev.applyAdj_stop (d : Dev) : StopOnly d d.applyAdj := (StopOnly.modPac d _).trans rfl

theorem Dev.pacerStop_stop (d : Dev) (c : Nat) : StopOnly d (d.pacerStop c) :=
  ((((StopOnly.modPac d _).trans (.set _ _ 0)).trans (.set _ _ c)).trans (Dev.applyAdj_stop _)).trans (Dev.hostEvent_stop _ 18)

theorem Dev.pacerStop_rdWord (d : Dev) (c : Nat) {a : Nat} (h : NotOfStop a) : (d.pacerStop c).rdWord a = d.rdWord a := by
  obtain ⟨hs, ht, he⟩ := h
  unfold Dev.pacerStop
  dsimp only
  rw [Dev.hostEvent_rdWord _ _ he, Dev.applyAdj_rdWord _ ht, Dev.rdWord_set_ne _ _ _ hs, Dev.rdWord_set_ne _ _ _ hs,
    Dev.modPac_rdWord]

theorem Dev.disarmDue_stop (d : Dev) : StopOnly d d.disarmDue := by
  unfold Dev.disarmDue
  cases d.pac.stopAt with
  | none => rfl
  | some c =>
    dsimp only
    split
    · split <;> rfl
    · rfl

theorem Dev.disarmDue_rdWord (d : Dev) {a : Nat} (h : a ≠ Reg.PACE_STATUS) : d.disarmDue.rdWord a = d.rdWord a := by
  unfold Dev.disarmDue
  cases d.pac.stopAt with
  | none => rfl
  | some c =>
    dsimp only
    split
    · split
      · rw [Dev.rdWord_set_ne _ _ _ h, Dev.rdWord_set_ne _ _ _ h, Dev.modPac_rdWord]
      · rw [Dev.rdWord_set_ne _ _ _ h, Dev.modPac_rdWord]
    · rfl

/-- A message to another position changes nothing but the queues of the lanes. -/
theorem Dev.sendTo_links (d : Dev) (pos : Nat) (ws : List (BitVec 256)) :
    d.sendTo pos ws = { d with links := (d.sendTo pos ws).links } := by
  unfold Dev.sendTo
  dsimp only
  split <;> rfl

/-- What tells of the device's own missed stop-at is an event for the host, after a message or a note. -/
theorem Dev.ownMissed_hostEvent (d : Dev) :
    ∃ (ls : SMap Link) (cl : Cluster), d.ownMissed = ({ d with links := ls, cluster := cl } : Dev).hostEvent 20 := by
  unfold Dev.ownMissed Dev.noteMissed Dev.clusterSend
  dsimp only
  split
  · rw [Dev.sendTo_links]
    exact ⟨_, d.cluster, rfl⟩
  · exact ⟨d.links, _, rfl⟩

theorem Dev.ownMissed_stop (d : Dev) : StopOnly d d.ownMissed := by
  obtain ⟨ls, cl, h⟩ := d.ownMissed_hostEvent
  rw [h]
  exact StopOnly.trans (e := { d with links := ls, cluster := cl }) rfl (Dev.hostEvent_stop _ 20)

theorem Dev.ownMissed_rdWord (d : Dev) {a : Nat} (ha : a ≠ Reg.ID_EVENTS) : d.ownMissed.rdWord a = d.rdWord a := by
  obtain ⟨ls, cl, h⟩ := d.ownMissed_hostEvent
  rw [h, Dev.hostEvent_rdWord _ _ ha]
  rfl

theorem Dev.ownMissed_pac (d : Dev) : d.ownMissed.pac = d.pac := by
  obtain ⟨ls, cl, h⟩ := d.ownMissed_hostEvent
  rw [h, Dev.hostEvent_pac]

/-- Mathlib states this as well; the package's modules see Lean's core library alone. -/
theorem ite_eq_either {α : Type} (p : Prop) [Decidable p] (x y : α) : ite p x y = x ∨ ite p x y = y := by
  by_cases h : p
  · exact .inl (if_pos h)
  · exact .inr (if_neg h)

/-- With no cause of Table 4.4 due nothing stops; else the pacer stops with the first of them, and a missed stop-at may be told. -/
theorem Dev.stopIfDue_cases (d : Dev) :
    (stopPriority.find? (fun c => decide (c ∈ d.dueCauses)) = none ∧ d.stopIfDue = d) ∨
    ∃ c, stopPriority.find? (fun c => decide (c ∈ d.dueCauses)) = some c ∧
      (d.stopIfDue = d.disarmDue.pacerStop c ∨ d.stopIfDue = (d.disarmDue.pacerStop c).ownMissed) := by
  unfold Dev.stopIfDue
  dsimp only
  cases stopPriority.find? (fun c => decide (c ∈ d.dueCauses)) with
  | none => exact .inl ⟨rfl, rfl⟩
  | some c =>
    refine .inr ⟨c, rfl, ?_⟩
    exact (ite_eq_either _ _ _).symm

theorem Dev.stopIfDue_stop (d : Dev) : StopOnly d d.stopIfDue := by
  have hs (c : Nat) : StopOnly d (d.disarmDue.pacerStop c) := d.disarmDue_stop.trans (Dev.pacerStop_stop _ c)
  obtain ⟨-, h⟩ | ⟨c, -, h | h⟩ := d.stopIfDue_cases <;> rw [h]
  · exact .refl d
  · exact hs c
  · exact (hs c).trans (Dev.ownMissed_stop _)

theorem Dev.stopIfDue_rdWord (d : Dev) {a : Nat} (ha : NotOfStop a) : d.stopIfDue.rdWord a = d.rdWord a := by
  have ⟨hst, _, hev⟩ := ha
  have hs (c : Nat) : (d.disarmDue.pacerStop c).rdWord a = d.rdWord a := by
    rw [Dev.pacerStop_rdWord _ c ha, d.disarmDue_rdWord hst]
  obtain ⟨-, h⟩ | ⟨c, -, h | h⟩ := d.stopIfDue_cases <;> rw [h]
  · exact hs c
  · rw [Dev.ownMissed_rdWord _ hev, hs c]

theorem stopPriority_find_lt {l : List Nat} {c : Nat} (h : stopPriority.find? (fun c => decide (c ∈ l)) = some c) : c < 16 := by
  have hall : ∀ c ∈ stopPriority, c < 16 := by decide
  exact hall c (List.mem_of_find?_eq_some h)

theorem Dev.stopIfDue_committed (d : Dev) : d.stopIfDue.committed = d.committed := by
  have hlo : NotOfStop Reg.PACE_COMMITTED_LO := by unfold NotOfStop; decide
  have hhi : NotOfStop Reg.PACE_COMMITTED_HI := by unfold NotOfStop; decide
  simp only [Dev.committed, Dev.pair, d.stopIfDue_rdWord hlo, d.stopIfDue_rdWord hhi]

theorem Dev.pacerStop_phase (d : Dev) {c : Nat} (hc : c < 16) : (d.pacerStop c).pac.phase = .boundary := by
  obtain ⟨-, -, hp, -⟩ := d.pacerStop_spec c hc
  exact hp

/-- A pacer at the boundary stays there. -/
theorem Dev.stopIfDue_phase (h : d.pac.phase = .boundary) : d.stopIfDue.pac.phase = .boundary := by
  obtain ⟨-, hd⟩ | ⟨c, hc, hd | hd⟩ := d.stopIfDue_cases <;> rw [hd]
  · exact h
  · exact Dev.pacerStop_phase _ (stopPriority_find_lt hc)
  · rw [Dev.ownMissed_pac, Dev.pacerStop_phase _ (stopPriority_find_lt hc)]

/-- With no cause due the device stays as it is. -/
theorem Dev.stopIfDue_none (h : d.dueCauses = []) : d.stopIfDue = d := by
  obtain ⟨-, hd⟩ | ⟨c, hc, -⟩ := d.stopIfDue_cases
  · exact hd
  · have := List.find?_some hc
    simp [h] at this

/-- With causes due the pacer stops, and shows the one of the highest priority. -/
theorem Dev.stopIfDue_some {c : Nat} (h : stopPriority.find? (fun c => decide (c ∈ d.dueCauses)) = some c) :
    d.stopIfDue.running = false ∧ d.stopIfDue.get Reg.PACE_STATUS_stop_cause = c := by
  obtain ⟨hn, -⟩ | ⟨b, hb, hd⟩ := d.stopIfDue_cases
  · rw [h] at hn
    cases hn
  · obtain rfl : c = b := Option.some.inj (h.symm.trans hb)
    obtain ⟨hr, hc, -⟩ := d.disarmDue.pacerStop_spec c (stopPriority_find_lt h)
    have hw : d.stopIfDue.rdWord Reg.PACE_STATUS = (d.disarmDue.pacerStop c).rdWord Reg.PACE_STATUS := by
      obtain hd | hd := hd <;> rw [hd]
      exact Dev.ownMissed_rdWord _ (by decide)
    exact ⟨(congrArg (· != 0) (Dev.get_congr (f := Reg.PACE_STATUS_running) hw)).trans hr, (Dev.get_congr hw).trans hc⟩

/-! ### The end of the boundary -/

/-- What follows the actions of a boundary up to the pacer's stop: participation, frames that waited, bridges, and delays. -/
def Dev.boundaryParts (d : Dev) : Dev := d.updateParts.clearLeft.drainFrames.bridgeHoldEnd.bridgesHold.applyDelays

/-- The cycle ends: bursts are formed, and the pacer stands at the boundary with the lost event armed if there is no debt. -/
def Dev.endCycle (d : Dev) : Dev := (d.syncForm.modPac (fun p => { p with phase := .boundary })).rearmLost

theorem Dev.rearmLost_lostArmed (d : Dev) : ∃ b, d.rearmLost = d.modPac (fun p => { p with lostArmed := b }) := by
  unfold Dev.rearmLost
  split
  · exact ⟨true, rfl⟩
  · exact ⟨d.pac.lostArmed, rfl⟩

/-- The end of a cycle changes nothing but the channels and the pacer. -/
theorem Dev.endCycle_eq (d : Dev) :
    ∃ b, d.endCycle = { d with chan := d.syncForm.chan, pac := { d.pac with phase := .boundary, lostArmed := b } } := by
  unfold Dev.endCycle
  obtain ⟨b, h⟩ := (d.syncForm.modPac (fun p => { p with phase := .boundary })).rearmLost_lostArmed
  rw [h, d.syncForm_chan]
  exact ⟨b, rfl⟩

theorem Dev.endCycle_pace (h : d.pac.phase = .commit) : SamePace d d.endCycle := by
  obtain ⟨b, he⟩ := d.endCycle_eq
  rw [he]
  exact ⟨fun _ _ _ => rfl, rfl, rfl, rfl, rfl, rfl, by simp [h]⟩

section
variable (hw : d.cfg.waiting = []) (hc : d.cfg.toClear = []) (ht : d.trimDue = [])
include hw hc ht

/-- With nothing to clear, no frame waiting and no trim found, delays come into force after a change of participation and one of
bridges. -/
theorem Dev.boundaryParts_split : ∃ b, BridgesOnly d.updateParts b ∧ b.trimDue = [] ∧ d.boundaryParts = b.applyDelays := by
  have hp := d.updateParts_parts
  have hb := d.updateParts.bridgeHoldEnd_bridges.trans (Dev.bridgesHold_bridges _)
  refine ⟨_, hb, by rw [hb.trimDue, hp.trimDue, ht], ?_⟩
  unfold Dev.boundaryParts
  rw [Dev.clearLeft_nil (hp.cfg ▸ hc), Dev.drainFrames_nil (hp.cfg ▸ hw)]

theorem Dev.boundaryParts_part {f : Nat} (hf : f < 384) : d.boundaryParts.part f = d.mayTakePart f := by
  obtain ⟨b, hb, htb, he⟩ := Dev.boundaryParts_split hw hc ht
  obtain ⟨-, hflds, -⟩ := Dev.applyDelays_keeps htb
  rw [he, ← d.updateParts_part hf, Dev.part, Dev.fld, hflds, hb.flds]
  rfl

theorem Dev.boundaryParts_pac : d.boundaryParts.pac = d.pac := by
  obtain ⟨b, hb, htb, he⟩ := Dev.boundaryParts_split hw hc ht
  obtain ⟨-, -, hpac⟩ := Dev.applyDelays_keeps htb
  rw [he, hpac, hb.regsOnly.pac, d.updateParts_parts.pac]

/-- No word but FAB_BRIDGE_STATUS of the compute dies changes. -/
theorem Dev.boundaryParts_rdWord {a : Nat} (ha : a % 0x1000000 ≠ 0x10004) : d.boundaryParts.rdWord a = d.rdWord a := by
  obtain ⟨b, hb, htb, he⟩ := Dev.boundaryParts_split hw hc ht
  obtain ⟨hregs, -⟩ := Dev.applyDelays_keeps htb
  calc d.boundaryParts.rdWord a = b.rdWord a := by rw [he, Dev.rdWord, hregs, Dev.rdWord]
    _ = d.updateParts.rdWord a := hb.words a ha
    _ = d.rdWord a := by rw [Dev.rdWord, d.updateParts_parts.regs, Dev.rdWord]

theorem Dev.boundaryParts_pace : SamePace d d.boundaryParts := by
  have hp := Dev.boundaryParts_pac hw hc ht
  refine ⟨fun a _ _ => Dev.boundaryParts_rdWord hw hc ht (by omega), ?_, ?_, ?_, ?_, ?_, ?_⟩ <;> rw [hp]

/-- The margins in force are those that the registers hold. -/
theorem Dev.boundaryParts_effMargin {c : Nat} (h : c < 12) :
    d.boundaryParts.effMargin.get c 0 = d.get (Reg.FAB_WAVE_CTL_margin c) := by
  have hreg : d.boundaryParts.get (Reg.FAB_WAVE_CTL_margin c) = d.get (Reg.FAB_WAVE_CTL_margin c) := by
    refine Dev.get_congr (Dev.boundaryParts_rdWord hw hc ht ?_)
    show (0x10100 + c * 0x1000000) % 0x1000000 ≠ 0x10004
    omega
  obtain ⟨b, -, htb, he⟩ := Dev.boundaryParts_split hw hc ht
  obtain ⟨hregs, -⟩ := Dev.applyDelays_keeps htb
  rw [← hreg, he, Dev.applyDelays_effMargin b htb h, Dev.get, Dev.get, Dev.rdWord, Dev.rdWord, hregs]

end

/-- At the commit of a running pacer the boundary ends the cycle, and the pacer stops if a cause is due. -/
theorem Dev.boundaryEnd_commit (hr : d.boundaryParts.running = true) (hp : d.boundaryParts.pac.phase = .commit) :
    d.boundaryEnd = d.boundaryParts.endCycle.stopIfDue :=
  if_pos ⟨hr, hp⟩

/-! ### The command -/

/-- With every latent write done, no action waiting and no memory to wake, the cycle ends. -/
theorem Dev.boundary_ends (fz : Fuses) (hr : d.running = true) (hp : d.pac.phase = .commit) (hl : d.latentWrites = [])
    (hb : d.bacts = []) (hj : d.joiners = []) : d.boundary fz = d.boundaryEnd := by
  unfold Dev.boundary
  rw [if_pos (.inl ⟨hr, hp, hl⟩), d.runActs_nil fz hb]
  simp [hb, hj]

/-- While a latent write is outstanding the boundary is not reached. -/
theorem Dev.boundary_waits (fz : Fuses) (hr : d.running = true) (hp : d.pac.phase = .commit) (hl : d.latentWrites ≠ []) :
    d.boundary fz = d := by
  unfold Dev.boundary
  exact if_neg (by simp [Dev.atRest, hr, hp, hl])

theorem exec_boundaryReached {s : State} (h : s.live = true) :
    exec .boundaryReached s = .next (s.withDev (s.dev.boundary s.fuses)) := by
  show s.onDev (fun fz d => d.boundary fz) = _
  exact State.onDev_live h _

/-- Settles O11: the parts of the boundary before the pacer's stop keep what its causes depend on, so those due when it is reached
are those due at its end. -/
theorem boundaryReached : Obligations.BoundaryReached := by
  intro s hlive hrun hphase
  rw [exec_boundaryReached hlive]
  refine ⟨fun hl hb hj => ?_, fun hl hb hj hw hc ht => ?_, fun hl => ?_⟩
  · rw [Dev.boundary_ends _ hrun hphase hl hb hj]
  · have hparts := Dev.boundaryParts_pace hw hc ht
    have hcommit : s.dev.boundaryParts.pac.phase = .commit := by rw [Dev.boundaryParts_pac hw hc ht, hphase]
    obtain ⟨b, hend⟩ := s.dev.boundaryParts.endCycle_eq
    have hpace := Dev.endCycle_pace hcommit
    have hdue : s.dev.boundaryParts.endCycle.dueCauses = s.dev.dueCauses := hpace.dueCauses.trans hparts.dueCauses
    have hstop := s.dev.boundaryParts.endCycle.stopIfDue_stop
    rw [Dev.boundary_ends _ hrun hphase hl hb hj, Dev.boundaryEnd_commit (hparts.running.trans hrun) hcommit]
    refine ⟨_, rfl, ?_, ?_, fun f => ?_, fun c => ?_, fun h => ?_, fun c h => ?_⟩ <;> rw [State.withDev_dev]
    · exact Dev.stopIfDue_phase (by rw [hend])
    · rw [Dev.stopIfDue_committed, hpace.committed, hparts.committed]
    · rw [Dev.fld, hstop.flds, hend]
      exact Dev.boundaryParts_part hw hc ht f.isLt
    · rw [hstop.effMargin, hend]
      exact Dev.boundaryParts_effMargin hw hc ht c.isLt
    · rw [Dev.stopIfDue_none (hdue.trans h), hpace.running, hparts.running, hrun]
    · exact Dev.stopIfDue_some (hdue ▸ h)
  · rw [Dev.boundary_waits _ hrun hphase hl]
    rfl

end Sys2Proof.Machine
end

section
/-! SUPPORT. The events that reach a field's wave and its storage (chapters 2 and 3): capture events, asynchronous sets and resets,
changes at its inputs, wave delays that run out and acknowledgments. -/

namespace Sys2Proof.Machine

variable {d : Dev}

/-! ### Capture events (R58, R65, R66) -/

theorem exec_captureEvent (m : Mc) (stable : Bool) {s : State} (h : s.live = true) :
    exec (.captureEvent m stable) s = .next (s.withDev (s.dev.capture m stable)) := by
  show s.onDev (fun _ d => d.capture m stable) = _
  exact State.onDev_live h _

/-- Settles O9: the transition is of the kind that the edge field names, so all that CAPTURE_EVENT asks for holds. -/
theorem captureEvent : Obligations.CaptureEvent := by
  intro s m stable hlive d k w level hpart hmode hsrc hcap hedge
  rw [exec_captureEvent m stable hlive]
  unfold Dev.capture
  refine congrArg (fun e => Host.Outcome.next (s.withDev e)) (if_pos ⟨hpart, hmode, hsrc, hcap, ?_⟩)
  show (match mcEdge w with | 0 => level | 1 => !level | 2 => true | _ => false) = true
  obtain ⟨he, hl⟩ | ⟨he, hl⟩ | he := hedge <;> rw [he]
  · exact hl
  · rw [hl]; rfl
  · rfl

/-! ### Asynchronous sets and resets (R60, R69) -/

theorem exec_asyncSetReset (m : Mc) {s : State} (h : s.live = true) :
    exec (.asyncSetReset m) s = .next (s.withDev (s.dev.asyncForce m)) := by
  show s.onDev (fun _ d => d.asyncForce m) = _
  exact State.onDev_live h _

/-! ### Changes at the inputs of a field (R77, R78, R81, R101, R105) -/

theorem exec_inputHandshake (f : Fin 384) (sink : Sink) (v : BitVec 512) {s : State} (h : s.live = true) :
    exec (.inputHandshake f sink v) s = .next (s.withDev (s.dev.inputChange f.val sink v)) := by
  show s.onDev (fun _ d => d.inputChange f.val sink v) = _
  exact State.onDev_live h _

section
variable {f : Nat}

/-- A field that does not take part takes no change (R105). -/
theorem Dev.inputChange_apart (sink : Sink) (v : BitVec 512) (h : d.part f = false) : d.inputChange f sink v = d := by
  unfold Dev.inputChange
  exact if_pos (by simp [h])

/-- A hard block's input takes the value. -/
theorem Dev.inputChange_pin (p : Pin) (v : BitVec 512) :
    d.inputChange f (.pin p) v =
      if d.part f then
        (d.modFab (fun x => { x with pins := x.pins.put (pinKey f p) (v.toNat % 2 ^ p.width) 0 })).handshake f
      else d := by
  unfold Dev.inputChange
  exact ite_not _ _ _

variable (h : d.part f = true)
include h

/-- What a field that takes part does with a change of a sheaf input: nothing where an isolation cell holds it back, else the input
takes its source's level and the fields whose borders were crossed await acknowledgments. -/
theorem Dev.inputChange_sheaf (col row : Fin 32) (q : Fin 8) (m : Fin 40) (v : BitVec 512) :
    let k := stook f col.val row.val
    (d.inputPath k q.val m.val = none → d.inputChange f (.sheaf col row q m) v = d) ∧
    (∀ gs, d.inputPath k q.val m.val = some gs → d.inputChange f (.sheaf col row q m) v =
      (each gs (fun g d => d.changeSent g) (d.changeInput k q.val m.val (d.sourceLevel k q.val m.val))).handshake f) := by
  unfold Dev.inputChange
  rw [if_neg (not_not_intro h)]
  refine ⟨fun hp => ?_, fun gs hp => ?_⟩ <;> dsimp only <;> rw [hp]

/-- The same at the input of a wire register, which takes its value at the next launch. -/
theorem Dev.inputChange_wire (col row : Fin 32) (slot : Fin 44) (v : BitVec 512) :
    let k := stook f col.val row.val
    (d.wirePath k slot.val = none → d.inputChange f (.wire col row slot) v = d) ∧
    (∀ gs, d.wirePath k slot.val = some gs → d.inputChange f (.wire col row slot) v =
      (each gs (fun g d => d.changeSent g) d).handshake f) := by
  unfold Dev.inputChange
  rw [if_neg (not_not_intro h)]
  refine ⟨fun hp => ?_, fun gs hp => ?_⟩ <;> dsimp only <;> rw [hp]

theorem Dev.inputChange_bridge (dir : Fin 4) (k : Fin 32) (i : Fin 16) (v : BitVec 512) :
    d.inputChange f (.bridge dir k i) v = d.bridgeChange f dir.val k.val i.val (v.getLsbD 0) := by
  unfold Dev.inputChange
  exact if_neg (not_not_intro h)

end

/-! ### Changes over a bridge wire (R78, R81) -/

section
variable {f dir g : Nat} (k i : Nat) (v : Bool)

/-- A bridge wire takes a value, at once. -/
def Dev.bridgeTakes (d : Dev) (key : Nat) (v : Bool) : Dev :=
  d.modFab (fun x => { x with bridgeIn := x.bridgeIn.put key v false })

/-- A bridge wire keeps a value of the far field's next wave for this field's (R98). -/
def Dev.bridgeKeeps (d : Dev) (key : Nat) (v : Bool) : Dev :=
  d.modFab (fun x => { x with bridgeNext := x.bridgeNext.put key (if v then 2 else 1) 0 })

/-- No field faces this one, and no change comes. -/
theorem Dev.bridgeChange_noFace (h : faceField f dir = none) : d.bridgeChange f dir k i v = d := by
  unfold Dev.bridgeChange
  rw [h]

/-- Over a wire that a field faces: a far die in reset sends nothing, and so does a wire that the die edge lacks; a receiver that holds
is kept still; and a change that is taken counts as sent, in this wave or for the next. -/
theorem Dev.bridgeChange_face (h : faceField f dir = some g) :
    d.bridgeChange f dir k i v =
      if d.heldDie (dieOf g) ∨ (dir % 2 = 0 ∧ 8 ≤ i) then d
      else if d.bridgeHolds f dir then d.bridgeTakes (bridgeKey f dir k i) v
      else if d.ahead f g then ((d.bridgeKeeps (bridgeKey f dir k i) v).changeSent g).handshake f
      else ((d.bridgeTakes (bridgeKey f dir k i) v).changeSent g).handshake f := by
  unfold Dev.bridgeChange
  rw [h]
  rfl

end

/-! ### The end of a wave (R101, R102) -/

theorem exec_waveDelayExpiry (f : Fin 384) (n : Nat) {s : State} (h : s.live = true) :
    exec (.waveDelayExpiry f n) s = .next (s.withDev (s.dev.delayOut f.val n)) := by
  show s.onDev (fun _ d => d.delayOut f.val n) = _
  exact State.onDev_live h _

theorem exec_changeAcknowledged (f : Fin 384) (n : Nat) {s : State} (h : s.live = true) :
    exec (.changeAcknowledged f n) s = .next (s.withDev (s.dev.changeAcked f.val n)) := by
  show s.onDev (fun _ d => d.changeAcked f.val n) = _
  exact State.onDev_live h _

section
variable {e : Dev}

/-! What the end of a wave looks at stands outside the fabric. -/

theorem FabOnly.fld (h : FabOnly d e) (f : Nat) : e.fld f = d.fld f := by rw [Dev.fld, h.flds, Dev.fld]
theorem FabOnly.tilesBusy (h : FabOnly d e) (f : Nat) : e.tilesBusy f = d.tilesBusy f := by rw [h]; rfl
theorem FabOnly.cycling (h : FabOnly d e) : e.cycling = d.cycling := by rw [h]; rfl
theorem FabOnly.delayUsed (h : FabOnly d e) (f wave : Nat) : e.delayUsed f wave = d.delayUsed f wave := by rw [h]; rfl

end

/-- The time that a wave took is a field of its register, which holds up to 65,535 steps. -/
theorem Dev.get_set_waveTime (d : Dev) (c i n : Nat) :
    (d.set (Reg.FAB_FLD_WAVE_TIME_steps c i) (min n 0xFFFF)).get (Reg.FAB_FLD_WAVE_TIME_steps c i) = min n 0xFFFF := by
  rw [Dev.get_set_self d _ _ (by show 0 + 16 ≤ 32; omega)]
  show min n 0xFFFF % 2 ^ 16 = _
  omega

section
variable {f : Nat} (n : Nat)

/-- A field whose changes are not all acknowledged does not complete its wave. -/
theorem Dev.tryComplete_unacked (h : (d.fld f).unacked ≠ 0) : d.tryComplete f n = d := by
  unfold Dev.tryComplete
  exact if_pos (.inr (.inr (.inr h)))

variable {x : FieldDyn} (hpart : x.part = true) (heval : x.st = .eval) (hdelay : x.delay = false) (hacked : x.unacked = 0)
  (hissued : x.issued = true) (hlatent : x.latent = []) (htiles : d.tilesBusy f = false) (hcycle : d.cycling = true)
include hpart heval hdelay hacked hissued hlatent htiles hcycle

/-- A field that waits for nothing settles its inputs and completes its wave. -/
theorem Dev.tryComplete_done :
    (d.setFld f x).tryComplete f n =
      (((d.setFld f x).settle [f]).setFld f { x with st := .complete }).set
        (Reg.FAB_FLD_WAVE_TIME_steps (dieOf f) (idxOf f)) (min (max n (d.delayUsed f x.wave)) 0xFFFF) := by
  have hs := (d.setFld f x).settle_fab [f]
  have hf : ((d.setFld f x).settle [f]).fld f = x := (hs.fld f).trans (Dev.setFld_fld d f x)
  have ht : ((d.setFld f x).settle [f]).tilesBusy f = false := (hs.tilesBusy f).trans htiles
  have hc : ((d.setFld f x).settle [f]).cycling = true := hs.cycling.trans hcycle
  have hu : ((d.setFld f x).settle [f]).delayUsed f x.wave = d.delayUsed f x.wave := hs.delayUsed f x.wave
  unfold Dev.tryComplete
  simp [hf, hpart, heval, hdelay, hacked, hissued, hlatent, ht, hc, hu]

/-- What such a field's part in the cycle then is, and the time of its wave. -/
theorem Dev.tryComplete_shows :
    ((d.setFld f x).tryComplete f n).fld f = { x with st := .complete } ∧
    ((d.setFld f x).tryComplete f n).get (Reg.FAB_FLD_WAVE_TIME_steps (dieOf f) (idxOf f)) =
      min (max n (d.delayUsed f x.wave)) 0xFFFF := by
  rw [Dev.tryComplete_done n hpart heval hdelay hacked hissued hlatent htiles hcycle]
  exact ⟨by rw [Dev.set_fld, Dev.setFld_fld], Dev.get_set_waveTime _ _ _ _⟩

end

/-- A wave delay that runs, of a field in its wave, runs out. -/
theorem Dev.delayOut_running {f : Nat} (n : Nat) (hpart : (d.fld f).part = true) (heval : (d.fld f).st = .eval)
    (hdelay : (d.fld f).delay = true) :
    d.delayOut f n = (d.setFld f { d.fld f with delay := false }).tryComplete f n := by
  unfold Dev.delayOut
  exact if_pos ⟨hpart, heval, hdelay⟩

/-- The last change that awaits an acknowledgment is acknowledged. -/
theorem Dev.changeAcked_last {f : Nat} (n : Nat) (h : (d.fld f).unacked = 1) :
    d.changeAcked f n = (d.setFld f { d.fld f with unacked := 0 }).tryComplete f n := by
  unfold Dev.changeAcked
  simp [h]

/-- Settles O7: each event by the part of the device that it changes; a wave that completes, by what its field no longer waits for. -/
theorem fieldEvents : Obligations.FieldEvents := by
  intro s hlive
  refine ⟨fun m => ?asyncForce, fun f p v => ?pin, fun f dir k i v hpart => ?bridge, fun f sink v hpart => ?apart,
    fun f col row q m v hpart => ?sheaf, fun f col row slot v hpart => ?wire, fun f n => ?delayOut, fun f n => ?acked,
    fun f n hpart heval hissued hlatent htiles hcycle => ?completes⟩
  case asyncForce => exact exec_asyncSetReset m hlive
  case pin => rw [exec_inputHandshake f (.pin p) v hlive, Dev.inputChange_pin]; rfl
  case apart => rw [exec_inputHandshake f sink v hlive, Dev.inputChange_apart sink v hpart]; rfl
  case delayOut => exact exec_waveDelayExpiry f n hlive
  case acked => exact exec_changeAcknowledged f n hlive
  case sheaf =>
    rw [exec_inputHandshake f (.sheaf col row q m) v hlive]
    obtain ⟨hheld, htaken⟩ := Dev.inputChange_sheaf hpart col row q m v
    exact ⟨fun hp => by rw [hheld hp]; rfl, fun gs hp => by rw [htaken gs hp]⟩
  case wire =>
    rw [exec_inputHandshake f (.wire col row slot) v hlive]
    obtain ⟨hheld, htaken⟩ := Dev.inputChange_wire hpart col row slot v
    exact ⟨fun hp => by rw [hheld hp]; rfl, fun gs hp => by rw [htaken gs hp]⟩
  case bridge =>
    rw [exec_inputHandshake f (.bridge dir k i) v hlive, Dev.inputChange_bridge hpart]
    refine ⟨fun hface => ?_, fun g hface => ⟨fun hstill => ?_, fun hdie hwire => ?_⟩⟩
    · rw [Dev.bridgeChange_noFace _ _ _ hface]; rfl
    · rw [Dev.bridgeChange_face _ _ _ hface, if_pos hstill]; rfl
    · have hsends : ¬ (s.dev.heldDie (dieOf g) = true ∨ (dir.val % 2 = 0 ∧ 8 ≤ i.val)) := by
        rintro (h | ⟨hdir, hi⟩)
        · simp [hdie] at h
        · exact absurd (hwire hdir) (Nat.not_lt.mpr hi)
      rw [Dev.bridgeChange_face _ _ _ hface, if_neg hsends]
      refine ⟨fun hholds => ?_, fun hholds => ⟨fun hahead => ?_, fun hahead => ?_⟩⟩
      · rw [if_pos hholds]; rfl
      · rw [if_neg (by simp [hholds]), if_neg (by simp [hahead])]; rfl
      · rw [if_neg (by simp [hholds]), if_pos hahead]; rfl
  case completes =>
    refine ⟨fun hdelay hacked => ⟨_, exec_waveDelayExpiry f n hlive, ?_⟩, fun hdelay howed => ⟨_, exec_waveDelayExpiry f n hlive, ?_⟩,
      fun hdelay hlast => ⟨_, exec_changeAcknowledged f n hlive, ?_⟩⟩
    · rw [State.withDev_dev, Dev.delayOut_running n hpart heval hdelay]
      exact Dev.tryComplete_shows n hpart heval rfl hacked hissued hlatent htiles hcycle
    · rw [State.withDev_dev, Dev.delayOut_running n hpart heval hdelay,
        Dev.tryComplete_unacked n (by rw [Dev.setFld_fld]; exact howed), Dev.setFld_fld]
    · rw [State.withDev_dev, Dev.changeAcked_last n hlast]
      exact Dev.tryComplete_shows n hpart heval hdelay rfl hissued hlatent htiles hcycle

end Sys2Proof.Machine
end

section
/-! SUPPORT. The design clocks of the ledger (chapter 3): which entries are valid, when a clock has its next edge, and which writes
of its words are taken; and the pacer's commands (chapter 4). -/

namespace Sys2Proof.Machine

/-! ### Bits of flags -/

theorem flagBits_succ (n : Nat) (p : Nat → Bool) : flagBits (n + 1) p = flagBits n p + if p n then 2 ^ n else 0 := by
  unfold flagBits
  rw [List.range_succ, List.foldl_append]
  cases h : p n <;> simp [h]

theorem flagBits_lt (n : Nat) (p : Nat → Bool) : flagBits n p < 2 ^ n := by
  induction n with
  | zero => exact Nat.one_pos
  | succ n ih =>
    rw [flagBits_succ, Nat.pow_succ]
    split <;> omega

/-- Each bit of a word of flags says whether its flag holds. -/
theorem testBit_flagBits {i n : Nat} (p : Nat → Bool) (h : i < n) : (flagBits n p).testBit i = p i := by
  induction n with
  | zero => omega
  | succ n ih =>
    rw [flagBits_succ, Nat.add_comm]
    by_cases hi : i = n
    · subst hi
      have hlow : (flagBits i p).testBit i = false := Nat.testBit_lt_two_pow (flagBits_lt i p)
      cases hp : p i
      · simpa using hlow
      · simp [Nat.testBit_two_pow_add_eq, hlow]
    · have hlt : i < n := by omega
      cases hp : p n
      · simpa using ih hlt
      · simp [Nat.testBit_two_pow_add_gt hlt, ih hlt]

theorem getLsbD_flagBits {i : Nat} (p : Nat → Bool) (h : i < 32) :
    (BitVec.ofNat 32 (flagBits 32 p)).getLsbD i = p i := by
  rw [BitVec.getLsbD_ofNat, testBit_flagBits p h, decide_eq_true h, Bool.true_and]

/-! ### Ledger entries (R91) -/

variable {d : Dev} {n : Nat}

theorem Dev.clkValid_iff : d.clkValid n = true ↔
    2 ≤ d.clkPeriod n ∧ d.clkRise n < d.clkPeriod n ∧ 1 ≤ d.clkHigh n ∧ d.clkHigh n < d.clkPeriod n := by
  simp [Dev.clkValid, and_assoc]

theorem Dev.clkLive_iff : d.clkLive n = true ↔ d.clkEnabled n = true ∧ d.clkValid n = true := by
  simp [Dev.clkLive]

/-- PACE_CLK_INVALID shows the entries that are enabled and not valid. -/
theorem Dev.liveWord_clkInvalid0 (d : Dev) (fz : Fuses) : d.liveWord fz Reg.PACE_CLK_INVALID0 =
    BitVec.ofNat 32 (flagBits 32 (fun n => d.clkEnabled n && !d.clkValid n)) := by
  unfold Dev.liveWord
  rw [if_neg (by decide)]
  rfl

theorem Dev.liveWord_clkInvalid1 (d : Dev) (fz : Fuses) : d.liveWord fz Reg.PACE_CLK_INVALID1 =
    BitVec.ofNat 32 (flagBits 32 (fun n => d.clkEnabled (32 + n) && !d.clkValid (32 + n))) := by
  unfold Dev.liveWord
  rw [if_neg (by decide)]
  rfl

theorem Dev.clkInvalid_bit (d : Dev) (fz : Fuses) (hn : n < 64) :
    (d.liveWord fz (if n < 32 then Reg.PACE_CLK_INVALID0 else Reg.PACE_CLK_INVALID1)).getLsbD (n % 32) =
      (d.clkEnabled n && !d.clkValid n) := by
  have hi : n % 32 < 32 := by omega
  split
  · have hn : n % 32 = n := by omega
    rw [Dev.liveWord_clkInvalid0, getLsbD_flagBits _ hi, hn]
  · have hn : 32 + n % 32 = n := by omega
    rw [Dev.liveWord_clkInvalid1, getLsbD_flagBits _ hi, hn]

/-! ### The next edge of a clock (R89, R90) -/

/-- Design time moves a clock's phase on, within its period. -/
theorem Dev.clkPhase_add (d : Dev) (n t k : Nat) : d.clkPhase n (t + k) = (d.clkPhase n t + k) % d.clkPeriod n := by
  unfold Dev.clkPhase
  rw [Nat.mod_add_mod]
  congr 1
  omega

/-- Short of the end of the period the phase counts the time that passes. -/
theorem Dev.clkPhase_add_of_lt {t k : Nat} (h : d.clkPhase n t + k < d.clkPeriod n) :
    d.clkPhase n (t + k) = d.clkPhase n t + k := by
  rw [Dev.clkPhase_add, Nat.mod_eq_of_lt h]

theorem Dev.clkEdgeAt_iff (h : d.clkLive n = true) (t : Nat) :
    d.clkEdgeAt n t = true ↔ d.clkPhase n t = 0 ∨ d.clkPhase n t = d.clkHigh n := by
  simp [Dev.clkEdgeAt, h]

/-- The time until a clock's next edge: none at an edge, to the fall while it is high, else to the end of the period. -/
def Dev.clkWait (d : Dev) (n t : Nat) : Nat :=
  if d.clkPhase n t = 0 ∨ d.clkPhase n t = d.clkHigh n then 0
  else if d.clkPhase n t < d.clkHigh n then d.clkHigh n - d.clkPhase n t
  else d.clkPeriod n - d.clkPhase n t

theorem Dev.clkNextEdge_eq (d : Dev) (n t : Nat) : d.clkNextEdge n t = t + d.clkWait n t := by
  unfold Dev.clkNextEdge Dev.clkWait
  dsimp only
  split
  · rfl
  · split <;> rfl

section
variable (h : d.clkLive n = true) (t : Nat)
include h

/-- A clock in the schedule is within its period, and falls within it. -/
theorem Dev.clkPhase_lt : d.clkPhase n t < d.clkPeriod n ∧ d.clkHigh n < d.clkPeriod n := by
  obtain ⟨-, hv⟩ := Dev.clkLive_iff.1 h
  obtain ⟨hp, -, -, hh⟩ := Dev.clkValid_iff.1 hv
  exact ⟨Nat.mod_lt _ (by omega), hh⟩

/-- Once its wait is over a clock has its edge. -/
theorem Dev.clkEdgeAt_wait : d.clkEdgeAt n (t + d.clkWait n t) = true := by
  obtain ⟨hlt, hh⟩ := Dev.clkPhase_lt h t
  rw [Dev.clkEdgeAt_iff h]
  unfold Dev.clkWait
  split
  · assumption
  · split
    · right
      rw [Dev.clkPhase_add_of_lt (by omega)]
      omega
    · left
      rw [Dev.clkPhase_add, Nat.add_sub_cancel' (by omega), Nat.mod_self]

/-- Until then it has none. -/
theorem Dev.clkEdgeAt_before_wait {k : Nat} (hk : k < d.clkWait n t) : d.clkEdgeAt n (t + k) = false := by
  obtain ⟨hlt, hh⟩ := Dev.clkPhase_lt h t
  rw [Bool.eq_false_iff, ne_eq, Dev.clkEdgeAt_iff h]
  unfold Dev.clkWait at hk
  split at hk
  · omega
  · split at hk <;> rw [Dev.clkPhase_add_of_lt (by omega)] <;> omega

end

/-- Settles O16: a clock's wait for its next edge ends at an edge and passes none. -/
theorem nextEdgeIsTheEarliest : Obligations.NextEdgeIsTheEarliest := by
  intro d fz n t
  refine ⟨?valid, fun hen hv => ?invalid, fun hen hv => ?edge⟩
  case valid =>
    rw [Dev.clkValid_iff]
    show _ ↔ 2 ≤ d.clkPeriod n ∧ d.clkRise n < d.clkPeriod n ∧ 1 ≤ d.clkHigh n ∧ d.clkHigh n ≤ d.clkPeriod n - 1
    omega
  case invalid =>
    have hen : d.clkEnabled n = true := hen
    refine ⟨?_, ?_, ?_⟩
    · simp [Dev.clkEdgeAt, Dev.clkLive, hv]
    · simp [Dev.clkLevelAt, Dev.clkLive, hv]
    · rw [d.clkInvalid_bit fz n.isLt, hen, hv]
      rfl
  case edge =>
    have hlive : d.clkLive n = true := Dev.clkLive_iff.2 ⟨hen, hv⟩
    rw [Dev.clkNextEdge_eq]
    refine ⟨Nat.le_add_right _ _, Dev.clkEdgeAt_wait hlive t, fun u hu hb => ?_⟩
    obtain ⟨k, rfl⟩ := Nat.exists_eq_add_of_le hu
    exact Dev.clkEdgeAt_before_wait hlive t (by omega)

/-! ### Writes of the ledger (R93) -/

/-- The row of Table 3.1 for the words of the ledger's entries: PERIOD, RISE, HIGH, and CTL with its one bit. -/
def ledgerRow (k : Nat) : RegSpec := ⟨4, 0x900 + 4 * k, [(0x10, 64)], 0, [⟨0, if k = 3 then 1 else 32, .rw⟩]⟩

theorem findReg_ledger : ∀ (n : Fin 64) (k : Fin 4),
    findReg (Reg.PACE_DCLK_PERIOD n.val + 4 * k.val) = some (ledgerRow k.val) := by decide

/-- A field that is the whole word takes the whole word. -/
theorem setBits_word (old v : Word) : setBits old 0 32 (bits v 0 32) = v := by
  apply BitVec.eq_of_toNat_eq
  rw [toNat_setBits old _ (by decide)]
  have hold := old.isLt
  have hv := v.isLt
  simp only [bits]
  omega

/-- A ledger word takes what is written, its reserved bits aside. -/
theorem ledgerRow_write (k : Nat) (old v : Word) :
    (ledgerRow k).write old v = if k = 3 then setBits old 0 1 (bits v 0 1) else v := by
  show setBits old 0 (if k = 3 then 1 else 32) (bits v 0 (if k = 3 then 1 else 32)) = _
  split
  · rfl
  · exact setBits_word old v

/-- A write of a ledger word that passes the checks of an access. -/
theorem exec_ledgerWrite {s : State} {who : Who} (n : Fin 64) (k : Fin 4) (v : Word)
    (h : s.reaches who (Reg.PACE_DCLK_PERIOD n.val + 4 * k.val)) :
    exec (.ledgerWrite who n k v) s = .next (s.withDev (s.dev.ledgerWrite (Reg.PACE_DCLK_PERIOD n.val + 4 * k.val)
      (if k.val = 3 then setBits (s.dev.rdWord (Reg.PACE_DCLK_PERIOD n.val + 4 * k.val)) 0 1 (bits v 0 1) else v))) := by
  have hn := n.isLt
  have hk := k.isLt
  show s.onDev (fun fz d => d.regPut fz who (Reg.PACE_DCLK_PERIOD n.val + 4 * k.val) v) = _
  rw [State.onDev_regPut _ h (by show (0x20020900 + n.val * 0x10 + 4 * k.val) % 4 = 0; omega),
    Dev.regWrite_pace (by show (0x20020900 + n.val * 0x10 + 4 * k.val) / 0x10000 % 0x100 = 2; omega)]
  have hoff : 0x900 ≤ (Reg.PACE_DCLK_PERIOD n.val + 4 * k.val) % 0x10000 := by
    show 0x900 ≤ (0x20020900 + n.val * 0x10 + 4 * k.val) % 0x10000
    omega
  unfold Dev.wrPace Dev.masked
  rw [if_neg (by omega), if_pos hoff, findReg_ledger n k]
  dsimp only
  rw [ledgerRow_write]
  rfl

/-- Settles O17: a ledger word's write is masked, then taken or refused as the pacer stands. -/
theorem ledgerWrites : Obligations.LedgerWrites := by
  intro s who n k v h
  rw [exec_ledgerWrite n k v h]
  unfold Dev.ledgerWrite
  exact ⟨fun hr => by rw [hr]; rfl, fun hr => by rw [hr]; rfl⟩

/-! ### The pacer's commands (Table 4.3) -/

section
variable {s : State} {who : Who} (h : s.reaches who Reg.PACE_CMD)
include h

theorem exec_start (atTime : Bool) : exec (.start who atTime) s = .next (s.withDev (s.dev.cmdStart none atTime)) :=
  (State.onDev_paceCmd _ h).trans (by rw [Dev.paceCmd_start])

theorem exec_step (atTime : Bool) : exec (.step who atTime) s =
    .next (s.withDev (s.dev.cmdStart (some (s.dev.pair Reg.PACE_STEP_COUNT_LO Reg.PACE_STEP_COUNT_HI)) atTime)) :=
  (State.onDev_paceCmd _ h).trans (by rw [Dev.paceCmd_step])

theorem exec_stop : exec (.stop who) s = .next (s.withDev s.dev.cmdStop) :=
  (State.onDev_paceCmd _ h).trans (by rw [Dev.paceCmd_stop])

theorem exec_stopAtArm : exec (.stopAtArm who) s = .next (s.withDev s.dev.cmdArm) :=
  (State.onDev_paceCmd _ h).trans (by rw [Dev.paceCmd_arm])

theorem exec_stopAtDisarm : exec (.stopAtDisarm who) s = .next (s.withDev s.dev.cmdDisarm) :=
  (State.onDev_paceCmd _ h).trans (by rw [Dev.paceCmd_disarm])

end

/-- The time on which the first deadline falls: S of a START at a time, else now (R139). -/
def Dev.startAt (d : Dev) (atTime : Bool) : Nat :=
  if atTime then d.pair Reg.PACE_START_TIME_LO Reg.PACE_START_TIME_HI else d.now

/-- The pacer runs from the next cycle, at design time `t`, with `left` cycles of a STEP (R131, R139). -/
def Dev.started (d : Dev) (atTime : Bool) (t : Nat) (left : Option Nat) : Dev :=
  (d.modPac (fun p =>
    { p with phase := .boundary, t0 := (d.startAt atTime : Int) - d.deadlineTicks t, start := d.startAt atTime, stepLeft := left,
             causes := [], lostArmed := true })).set Reg.PACE_STATUS_running 1

section
variable {left : Option Nat} (atTime : Bool)

/-- A pacer that runs, a device that is halted or not configured, and a pace of ratio 0 refuse a START and a STEP. -/
theorem Dev.cmdStart_refused
    (h : d.running = true ∨ d.halted = true ∨ d.doneIn = false ∨ (d.paced = true ∧ d.ratio = 0)) :
    d.cmdStart left atTime = d.paceRefuse := by
  unfold Dev.cmdStart
  refine if_pos ?_
  obtain h | h | h | h := h
  · exact .inl h
  · exact .inr (.inl h)
  · exact .inr (.inr (.inl (by simp [h])))
  · exact .inr (.inr (.inr (.inr h)))

theorem Dev.cmdStart_step_zero : d.cmdStart (some 0) atTime = d.paceRefuse := by
  unfold Dev.cmdStart
  exact if_pos (.inr (.inr (.inr (.inl rfl))))

variable (hrun : d.running = false) (hhalt : d.halted = false) (hdone : d.doneIn = true) (hratio : d.paced = true → d.ratio ≠ 0)
  (hleft : left ≠ some 0)
include hrun hhalt hdone hratio hleft

/-- Nothing of R94, R132 and R139 refuses. -/
theorem Dev.cmdStart_allowed :
    ¬ (d.running ∨ d.halted ∨ ¬ d.doneIn ∨ left = some 0 ∨ (d.paced ∧ d.ratio = 0)) := by
  rintro (h | h | h | h | ⟨hp, hr⟩)
  · simp [hrun] at h
  · simp [hhalt] at h
  · exact h hdone
  · exact hleft h
  · exact hratio hp hr

/-- The pacer then runs, unless its first deadline is out of range (R131). -/
theorem Dev.cmdStart_runs {t : Nat} (ht : d.nextTime = some t) :
    ((d.started atTime t left).deadlineOut = false → d.cmdStart left atTime = d.started atTime t left) ∧
    ((d.started atTime t left).deadlineOut = true → d.cmdStart left atTime = (d.started atTime t left).pacerStop 8) := by
  unfold Dev.cmdStart Dev.started Dev.startAt
  rw [if_neg (Dev.cmdStart_allowed hrun hhalt hdone hratio hleft), ht]
  dsimp only
  exact ⟨fun h => if_neg (Bool.eq_false_iff.1 h), fun h => if_pos h⟩

/-- With no next cycle it shows the end of the schedule (R94). -/
theorem Dev.cmdStart_scheduleEnd (ht : d.nextTime = none) : d.cmdStart left atTime = d.set Reg.PACE_STATUS_stop_cause 7 := by
  unfold Dev.cmdStart
  rw [if_neg (Dev.cmdStart_allowed hrun hhalt hdone hratio hleft), ht]

end

/-- A STOP does nothing to a pacer that stands still, stops one that stands at its boundary, and is a cause for one in a cycle. -/
theorem Dev.cmdStop_stopped (h : d.running = false) : d.cmdStop = d := if_pos (by simpa using h)

theorem Dev.cmdStop_atBoundary (h : d.running = true) (hb : d.pac.phase = .boundary) : d.cmdStop = d.pacerStop 1 := by
  unfold Dev.cmdStop
  rw [if_neg (not_not_intro h), if_pos hb]

theorem Dev.cmdStop_inCycle (h : d.running = true) (hb : d.pac.phase ≠ .boundary) :
    d.cmdStop = { d with pac := { d.pac with causes := withItem d.pac.causes 1 } } := by
  unfold Dev.cmdStop
  rw [if_neg (not_not_intro h), if_neg hb]
  rfl

/-- Settles O18: a START is a STEP without a count, and each command is a case of a write of PACE_CMD. -/
theorem pacerCommands : Obligations.PacerCommands := by
  intro s who atTime h d now count runs refused
  rw [exec_start h, exec_step h, exec_stop h, exec_stopAtArm h, exec_stopAtDisarm h]
  refine ⟨fun href => ?refused, fun hzero => ?stepZero,
    fun hrun hhalt hdone hratio => ⟨fun t ht => ?start, fun t ht hc => ?step, fun ht => ?scheduleEnd⟩,
    fun hrun hb => ?stopAtOnce, fun hrun hb => ?stopLater, fun hrun => ?stopNothing, rfl, rfl⟩
  case refused =>
    rw [Dev.cmdStart_refused atTime href, Dev.cmdStart_refused atTime href]
    exact ⟨rfl, rfl⟩
  case stepZero =>
    have hzero : s.dev.pair Reg.PACE_STEP_COUNT_LO Reg.PACE_STEP_COUNT_HI = 0 := hzero
    rw [hzero, Dev.cmdStart_step_zero]
    rfl
  case start =>
    obtain ⟨hin, hout⟩ := Dev.cmdStart_runs (left := none) atTime hrun hhalt hdone hratio (by simp) ht
    exact ⟨fun hd => by rw [hin hd]; rfl, fun hd => by rw [hout hd]; rfl⟩
  case step =>
    obtain ⟨hin, hout⟩ := Dev.cmdStart_runs (left := some count) atTime hrun hhalt hdone hratio (by simpa using hc) ht
    exact ⟨fun hd => by rw [hin hd]; rfl, fun hd => by rw [hout hd]; rfl⟩
  case scheduleEnd =>
    refine ⟨?_, fun hc => ?_⟩
    · rw [Dev.cmdStart_scheduleEnd atTime hrun hhalt hdone hratio (by simp) ht]
    · rw [Dev.cmdStart_scheduleEnd atTime hrun hhalt hdone hratio (by simpa using hc) ht]
  case stopAtOnce => rw [Dev.cmdStop_atBoundary hrun hb]
  case stopLater => rw [Dev.cmdStop_inCycle hrun hb]
  case stopNothing =>
    rw [Dev.cmdStop_stopped hrun]
    rfl

end Sys2Proof.Machine
end

section
/-! SUPPORT. The design cycle (chapter 3): the launch of a wave, the commit, the release of the next cycle, and a wave that passes
its limit. -/

namespace Sys2Proof.Machine

variable {d e : Dev}

/-! ### Launch (R97 to R99) -/

/-- No field's part in the cycle differs, nor a memory, nor the pacer, nor a register but FAB_BRIDGE_STATUS of a die. -/
structure LaunchFrame (c : Nat) (d e : Dev) : Prop where
  flds : e.flds = d.flds
  mem : e.mem = d.mem
  pac : e.pac = d.pac
  words : ∀ a, a ≠ Reg.FAB_BRIDGE_STATUS c → e.rdWord a = d.rdWord a

section
variable {c : Nat}

theorem LaunchFrame.refl (d : Dev) : LaunchFrame c d d := ⟨rfl, rfl, rfl, fun _ _ => rfl⟩

theorem LaunchFrame.trans {f : Dev} (h : LaunchFrame c d e) (k : LaunchFrame c e f) : LaunchFrame c d f :=
  ⟨k.flds.trans h.flds, k.mem.trans h.mem, k.pac.trans h.pac, fun a ha => (k.words a ha).trans (h.words a ha)⟩

theorem LaunchFrame.each {α : Type} (f : α → Dev → Dev) (hf : ∀ x d, LaunchFrame c d (f x d)) :
    ∀ (l : List α) (d : Dev), LaunchFrame c d (each l f d)
  | [], d => .refl d
  | x :: l, d => (hf x d).trans (LaunchFrame.each f hf l (f x d))

theorem LaunchFrame.fld (h : LaunchFrame c d e) (g : Nat) : e.fld g = d.fld g := by rw [Dev.fld, h.flds, Dev.fld]

theorem FabOnly.launchFrame (h : FabOnly d e) : LaunchFrame c d e :=
  ⟨h.flds, h.mem, h.pac, fun a _ => by rw [Dev.rdWord, h.regs, Dev.rdWord]⟩

end

theorem bridgeHolding_addr (c dir : Nat) : (bridgeHolding c dir).addr = Reg.FAB_BRIDGE_STATUS c := by
  simp only [bridgeHolding]

/-- Of the registers, directions of a die that begin to hold show in its FAB_BRIDGE_STATUS alone (R81). -/
theorem Dev.bridgeHoldBegin_launchFrame (d : Dev) (c : Nat) : LaunchFrame c d (d.bridgeHoldBegin c) := by
  unfold Dev.bridgeHoldBegin
  split
  · exact .refl d
  · refine LaunchFrame.each _ (fun dir e => ?_) _ d
    cases dieNeighbor c dir with
    | none => exact .refl e
    | some n =>
      dsimp only
      split
      · exact ⟨e.set_flds _ 1, e.set_mem _ 1, e.set_pac _ 1, fun a ha => e.rdWord_set_ne _ 1 (bridgeHolding_addr c dir ▸ ha)⟩
      · exact .refl e

theorem Dev.presentHeld_fab (d : Dev) (f : Nat) : FabOnly d (d.presentHeld f) := by
  unfold Dev.presentHeld
  exact .modFab d _

/-- At the end of a wave a field's wires and isolation cells keep and take values, and bridges of its die may begin to hold. -/
theorem Dev.waveEnd_launchFrame (d : Dev) (f : Nat) (e : Dev) : LaunchFrame (dieOf f) e (d.waveEnd f e) := by
  have hfab (g : Fabric → Fabric) (e : Dev) : LaunchFrame (dieOf f) e (e.modFab g) := (FabOnly.modFab e g).launchFrame
  unfold Dev.waveEnd Dev.stepWiresIn Dev.recordSent Dev.recordIso
  exact (hfab _ e).trans ((hfab _ _).trans ((hfab _ _).trans ((Dev.bridgeHoldBegin_launchFrame _ _).trans
    (Dev.presentHeld_fab _ f).launchFrame)))

/-- What ports, streams and tiles present at a launch is outputs. -/
theorem Dev.present_launchFrame (d : Dev) (f c : Nat) : LaunchFrame c d (d.present f) := by
  unfold Dev.present
  dsimp only
  generalize hp : { d with
    binOut := presentPorts d.binOut (f * 96) ((f + 1) * 96), ports := presentPorts d.ports (f * 16) (f * 16 + 16) } = p
  have hports : LaunchFrame c d p := by rw [← hp]; exact ⟨rfl, rfl, rfl, fun _ _ => rfl⟩
  obtain ⟨hflds, hregs, hmem, hpac, -⟩ := (p.presentStreams f).presentTiles_keeps f
  exact hports.trans ⟨hflds, hmem, hpac, fun a _ => by rw [Dev.rdWord, hregs]; rfl⟩

/-- A field's part in the cycle once it has launched its next wave. -/
def FieldDyn.launch (x : FieldDyn) : FieldDyn :=
  { x with wave := x.wave + 1, st := .eval, delay := true, unacked := 0, issued := false, launched := x.launched + 1 }

/-- A launch: its field's part, and what the wave before and the outputs leave. -/
theorem Dev.launchWave_launches {f : Nat} (h : d.mayLaunch f = true) :
    ∃ e, LaunchFrame (dieOf f) d e ∧ d.launchWave f = e.setFld f (d.fld f).launch := by
  unfold Dev.launchWave
  rw [if_neg (not_not_intro h)]
  dsimp only
  refine ⟨_, LaunchFrame.trans ?_ (Dev.present_launchFrame _ f _), rfl⟩
  split
  · exact (d.presentHeld_fab f).launchFrame
  · exact (d.settle_fab _).launchFrame.trans (Dev.waveEnd_launchFrame _ f _)

theorem Dev.launchWave_stays {f : Nat} (h : d.mayLaunch f = false) : d.launchWave f = d := by
  unfold Dev.launchWave
  exact if_pos (by simp [h])

section
variable {f : Nat} (hw : 1 ≤ (d.fld f).wave)
include hw

/-- A field whose own wave is open launches none. -/
theorem Dev.mayLaunch_open (h : (d.fld f).done = false) : d.mayLaunch f = false := by
  have hw : (d.fld f).wave ≠ 0 := by omega
  simp [Dev.mayLaunch, hw, h]

/-- Nor does a field with a wave neighbor that takes part and is behind it. -/
theorem Dev.mayLaunch_behind {g : Nat} (hg : g ∈ waveNeighbors f) (hp : (d.fld g).part = true)
    (h : (d.fld g).wave < (d.fld f).wave ∨ ((d.fld g).wave = (d.fld f).wave ∧ (d.fld g).done = false)) :
    d.mayLaunch f = false := by
  have hw : (d.fld f).wave ≠ 0 := by omega
  have hall : ((waveNeighbors f).all fun g => !(d.fld g).part || decide ((d.fld f).wave < (d.fld g).wave) ||
      ((d.fld g).wave == (d.fld f).wave && (d.fld g).done)) = false := by
    refine List.all_eq_false.2 ⟨g, hg, ?_⟩
    obtain h | ⟨he, hd⟩ := h
    · have hlt : ¬ (d.fld f).wave < (d.fld g).wave := by omega
      have hne : (d.fld g).wave ≠ (d.fld f).wave := by omega
      simp [hp, hlt, hne]
    · simp [hp, he, hd]
  unfold Dev.mayLaunch
  dsimp only
  rw [if_neg hw, hall, Bool.and_false, Bool.and_false]

end

theorem FieldDyn.done_eq_false {x : FieldDyn} (h : x.st ≠ .complete ∨ x.delay = true ∨ x.unacked ≠ 0 ∨ x.latent ≠ []) :
    x.done = false := by
  unfold FieldDyn.done
  obtain h | h | h | h := h <;> simp [h]

theorem exec_waveLaunch (f : Fin 384) {s : State} (h : s.live = true) :
    exec (.waveLaunch f) s = .next (s.withDev (s.dev.launchWave f.val)) := by
  show s.onDev (fun _ d => d.launchWave f.val) = _
  exact State.onDev_live h _

/-- Settles O8: a launch changes its field's part on top of a step that leaves all parts alone. -/
theorem waveLaunch : Obligations.WaveLaunch := by
  intro s f hlive
  rw [exec_waveLaunch f hlive]
  refine ⟨fun h => ?launches, fun h => ?stays, fun g hg hw hp hb => Dev.mayLaunch_behind hw hg hp hb,
    fun hw ho => Dev.mayLaunch_open hw (FieldDyn.done_eq_false ho)⟩
  case launches =>
    obtain ⟨e, he, hlaunch⟩ := Dev.launchWave_launches h
    refine ⟨_, rfl, ?_⟩
    rw [State.withDev_dev, hlaunch]
    exact ⟨Dev.setFld_fld e f _, fun g hg => (Dev.setFld_fld_ne e _ _ hg).trans (he.fld g), he.mem, he.pac, he.words⟩
  case stays =>
    rw [Dev.launchWave_stays h]
    rfl

/-! ### Commit (R102, R103, R106) -/

theorem exec_commitPulse {s : State} (h : s.live = true) : exec .commitPulse s = .next (s.withDev s.dev.commitPulse) := by
  show s.onDev (fun _ d => d.commitPulse) = _
  exact State.onDev_live h _

theorem Dev.waveWDone_iff : d.waveWDone = true ↔ ∀ f ∈ d.parts, (d.fld f).wave = d.waves ∧ (d.fld f).done = true := by
  simp [Dev.waveWDone]

theorem Dev.cycling_iff : d.cycling = true ↔ d.running = true ∧ d.pac.phase = .waves := by
  simp [Dev.cycling]

theorem Dev.sioCommit_pac (d e : Dev) : (d.sioCommit e).pac = e.pac := by
  unfold Dev.sioCommit
  rfl

theorem Dev.syncSample_pac (d e : Dev) : (d.syncSample e).pac = e.pac := by
  unfold Dev.syncSample
  rfl

theorem Dev.probeSample_pac (d e : Dev) : (d.probeSample e).pac = e.pac := by
  unfold Dev.probeSample
  split <;> rfl

/-- What sideband pins, channels and probes take at a commit leaves the pacer alone. -/
theorem Dev.commitSamples_pac (d e : Dev) (fs : List Nat) :
    (d.probeSample (d.syncSample (if fs = [] then e else d.sioCommit e))).pac = e.pac := by
  rw [Dev.probeSample_pac, Dev.syncSample_pac]
  split
  · rfl
  · exact d.sioCommit_pac e

/-- A commit: the pacer stands at it, the next cycle is searched after this design time, the fields are before wave 1, and
PACE_COMMITTED rises. -/
theorem Dev.commitPulse_commits (hc : d.cycling = true) (hw : d.waveWDone = true) :
    ∃ e, e.pac.phase = .commit ∧ e.pac.next = d.pair Reg.PACE_CYCLE_TIME_LO Reg.PACE_CYCLE_TIME_HI + 1 ∧
      d.commitPulse = (each d.parts (fun f e => e.setFld f (e.fld f).fresh) e).setPair Reg.PACE_COMMITTED_LO Reg.PACE_COMMITTED_HI
        (d.committed + 1) := by
  unfold Dev.commitPulse
  rw [if_neg (by simp [hc, hw])]
  refine ⟨_, ?_, ?_, rfl⟩ <;> rw [Dev.commitSamples_pac] <;> rfl

theorem Dev.commitPulse_stays (h : d.cycling = false ∨ d.waveWDone = false) : d.commitPulse = d := by
  unfold Dev.commitPulse
  exact if_pos (by simpa using h)

theorem Dev.each_fresh_pac (l : List Nat) (d : Dev) : (each l (fun f e => e.setFld f (e.fld f).fresh) d).pac = d.pac :=
  each_keeps (fun d => d.pac) (fun f e => e.setFld f (e.fld f).fresh) l (fun _ _ e => e.setFld_pac _ _) d

/-- Settles O10: what commits is sampled and stored first; then the fields start anew and PACE_COMMITTED counts. -/
theorem commitPulse : Obligations.CommitPulse := by
  intro s hlive
  rw [exec_commitPulse hlive]
  refine ⟨fun hrun hphase hdone => ?commits, fun f h => ?stays⟩
  case commits =>
    obtain ⟨e, hp, hn, he⟩ := Dev.commitPulse_commits (Dev.cycling_iff.2 ⟨hrun, hphase⟩) (Dev.waveWDone_iff.2 hdone)
    refine ⟨_, rfl, ?_⟩
    rw [State.withDev_dev, he, Dev.setPair_pac, Dev.each_fresh_pac, Dev.committed]
    refine ⟨Dev.pair_setPair _ _ (by decide), hp, hn, fun f hf => ?_⟩
    rw [Dev.setPair_fld]
    exact each_fresh s.dev.parts hf e
  case stays =>
    rw [Dev.commitPulse_stays]
    · rfl
    · obtain h | h | ⟨hf, h⟩ := h
      · exact .inl (by simp [Dev.cycling, h])
      · exact .inl (by simp [Dev.cycling, h])
      · refine .inr (Bool.eq_false_iff.2 fun hw => ?_)
        obtain ⟨hwave, hdone⟩ := Dev.waveWDone_iff.1 hw f hf
        obtain h | h := h
        · exact h hwave
        · simp [h] at hdone

/-! ### Release (R90, R95, R108) -/

theorem exec_designCycleRelease (unsure : BitVec 64) {s : State} (h : s.live = true) :
    exec (.designCycleRelease unsure) s = .next (s.withDev (s.dev.releaseNow unsure)) := by
  show s.onDev (fun _ d => d.releaseNow unsure) = _
  exact State.onDev_live h _

/-- What a release shows: the design time with the levels and the edges of the clocks in the schedule. -/
def Dev.showRelease (d : Dev) (t : Nat) : Dev :=
  d.showCycle t (clkBits (fun n => d.clkLevelAt n t)) (clkBits (fun n => d.clkEdgeAt n t))

theorem Dev.showRelease_pairs (d : Dev) (t : Nat) :
    (d.showRelease t).pair Reg.PACE_CYCLE_TIME_LO Reg.PACE_CYCLE_TIME_HI = t % 2 ^ 64 ∧
    (d.showRelease t).pair Reg.PACE_CLK_LEVEL0 Reg.PACE_CLK_LEVEL1 = clkBits (fun n => d.clkLevelAt n t) % 2 ^ 64 ∧
    (d.showRelease t).pair Reg.PACE_CLK_EDGE0 Reg.PACE_CLK_EDGE1 = clkBits (fun n => d.clkEdgeAt n t) % 2 ^ 64 ∧
    (d.showRelease t).committed = d.committed :=
  d.showCycle_pairs _ _ _

theorem Dev.freshFields_rdWord (d : Dev) (a : Nat) : d.freshFields.rdWord a = d.rdWord a :=
  d.rdWord_each _ _ a (fun _ _ _ => rfl)

/-- The next design time is within 64 bits (R94). -/
theorem Dev.nextTime_lt {t : Nat} (h : d.nextTime = some t) : t < 2 ^ 64 := by
  unfold Dev.nextTime at h
  split at h
  · cases h
  · split at h
    · split at h
      · cases h; assumption
      · cases h
    · cases h

section
variable (unsure : BitVec 64) {t : Nat} (hnow : d.dueNow = true) (hdue : d.dueCauses = []) (hrel : d.releasable = true)
  (ht : d.nextTime = some t)
include hnow hdue hrel ht

/-- A release: its waves begin, and below the sideband pins and but for the count of late ones the registers are those of what it
shows. -/
theorem Dev.releaseNow_releases :
    (d.releaseNow unsure).pac.phase = .waves ∧ (d.releaseNow unsure).pac.locked = true ∧
    ∀ a, a < 0x20180000 → a ≠ Reg.PACE_LATE_COUNT → (d.releaseNow unsure).rdWord a = (d.showRelease t).rdWord a := by
  obtain ⟨b, hb⟩ := d.rearmLost_lostArmed
  unfold Dev.releaseNow
  rw [if_pos hnow]
  unfold Dev.release_
  rw [if_neg (by simp [hdue]), if_neg (not_not_intro hrel), ht]
  dsimp only
  refine ⟨rfl, rfl, fun a ha hl => ?_⟩
  rw [Dev.modPac_rdWord, Dev.syncConsume_rdWord, Dev.freshFields_rdWord, hb]
  have hshow : (((d.modPac fun p => { p with lostArmed := b }).showRelease t).sioSample unsure).rdWord a =
      (d.showRelease t).rdWord a :=
    Dev.sioSample_rdWord _ unsure ha
  split
  · exact (Dev.rdWord_set_ne _ _ _ hl).trans hshow
  · exact hshow

end

/-- Settles O12: the registers after a release are those of what it shows. -/
theorem designCycleRelease : Obligations.DesignCycleRelease := by
  intro s unsure t hlive hnow hdue hrel ht
  obtain ⟨hphase, hlocked, hwords⟩ := Dev.releaseNow_releases unsure hnow hdue hrel ht
  obtain ⟨htime, hlevels, hedges, hcommitted⟩ := s.dev.showRelease_pairs t
  have hpair (lo hi : Nat) (h : lo < 0x20180000 ∧ lo ≠ Reg.PACE_LATE_COUNT ∧ hi < 0x20180000 ∧ hi ≠ Reg.PACE_LATE_COUNT) :
      (s.dev.releaseNow unsure).pair lo hi = (s.dev.showRelease t).pair lo hi := by
    obtain ⟨hlo, hlo', hhi, hhi'⟩ := h
    rw [Dev.pair, hwords lo hlo hlo', hwords hi hhi hhi', Dev.pair]
  refine ⟨_, exec_designCycleRelease unsure hlive, ?_⟩
  rw [State.withDev_dev]
  refine ⟨hphase, hlocked, ?_, ?_, ?_, ?_⟩
  · rw [hpair _ _ (by decide), htime, Nat.mod_eq_of_lt (Dev.nextTime_lt ht)]
  · rw [hpair _ _ (by decide), hlevels]
  · rw [hpair _ _ (by decide), hedges]
  · rw [← hcommitted, Dev.committed, hpair _ _ (by decide), Dev.committed]

/-! ### The wave limit (R110, R111) -/

theorem exec_waveTimeout (f : Fin 384) {s : State} (h : s.live = true) :
    exec (.waveTimeout f) s = .next (s.withDev (s.dev.waveTimeout f.val)) := by
  show s.onDev (fun _ d => d.waveTimeout f.val) = _
  exact State.onDev_live h _

/-- What a timeout shows: the fields whose wave is open, in FAB_TIMEOUT_FIELDS, and PACE_CLK_STATUS.wave_timeout. -/
def Dev.showTimeout (d : Dev) : Dev :=
  (each (d.parts.filter (fun g => !(d.fld g).done)) (fun g d =>
    d.setBit (Reg.FAB_TIMEOUT_FIELDS_timed_out (dieOf g)) (idxOf g) true) d).set Reg.PACE_CLK_STATUS_wave_timeout 1

theorem Dev.showTimeout_rdWord (d : Dev) {a : Nat} (h : a % 0x1000000 ≠ 0x10114) (hs : a ≠ Reg.PACE_CLK_STATUS) :
    d.showTimeout.rdWord a = d.rdWord a := by
  unfold Dev.showTimeout
  rw [Dev.rdWord_set_ne _ _ _ hs]
  refine d.rdWord_each _ _ a (fun g _ d => d.rdWord_set_ne _ _ ?_)
  show a ≠ 0x10114 + dieOf g * 0x1000000
  omega

/-- A register that shows no cycle of the schedule. -/
def NotOfCycle (a : Nat) : Prop := a < Reg.PACE_CLK_LEVEL0 ∨ Reg.PACE_CYCLE_TIME_HI < a

theorem Dev.showCycle_rdWord (d : Dev) (t l e : Nat) {a : Nat} (h : NotOfCycle a) : (d.showCycle t l e).rdWord a = d.rdWord a := by
  have h : a < 0x20020810 ∨ 0x2002082c < a := h
  unfold Dev.showCycle
  rw [Dev.rdWord_setPair_ne, Dev.rdWord_setPair_ne, Dev.rdWord_setPair_ne] <;>
    simp only [Reg.PACE_CYCLE_TIME_LO, Reg.PACE_CYCLE_TIME_HI, Reg.PACE_CLK_LEVEL0, Reg.PACE_CLK_LEVEL1, Reg.PACE_CLK_EDGE0,
      Reg.PACE_CLK_EDGE1] <;> omega

/-- Fields that stop show the cycle before again, and no other register changes. -/
theorem Dev.fieldsStop_rdWord (d : Dev) {a : Nat} (h : NotOfCycle a) : d.fieldsStop.rdWord a = d.rdWord a := by
  unfold Dev.fieldsStop
  dsimp only
  split
  · rw [Dev.showCycle_rdWord _ _ _ _ h]
    rfl
  · rfl

theorem Dev.wiresFree_regs (d : Dev) (fs : List Nat) : (d.wiresFree fs).regs = d.regs := by
  unfold Dev.wiresFree
  rfl

theorem Dev.tileTimeouts_regs (d : Dev) : d.tileTimeouts.regs = d.regs := by
  unfold Dev.tileTimeouts
  rfl

/-- A timeout stops fields and pacer on top of what it shows and of a step that leaves the registers alone. -/
theorem Dev.waveTimeout_stops {f : Nat} (hc : d.cycling = true) (hp : (d.fld f).part = true) (hw : (d.fld f).wave ≠ 0)
    (hd : (d.fld f).done = false) : ∃ e : Dev, e.regs = d.showTimeout.regs ∧ d.waveTimeout f = e.fieldsStop.pacerStop 5 := by
  unfold Dev.waveTimeout
  dsimp only
  rw [if_neg (by simp [hc, hp, hw, hd])]
  refine ⟨_, ?_, rfl⟩
  rw [Dev.wiresFree_regs, Dev.tileTimeouts_regs, (Dev.settle_fab _ _).regs, Dev.report_regs]
  rfl

/-- Settles O13: the registers that show the timeout and the count of cycles are none that the stop writes. -/
theorem waveTimeout : Obligations.WaveTimeout := by
  intro s f hlive hrun hphase hp hw hd
  obtain ⟨e, he, htimeout⟩ := Dev.waveTimeout_stops (Dev.cycling_iff.2 ⟨hrun, hphase⟩) hp hw hd
  obtain ⟨hstopped, hcause, hboundary, -⟩ := e.fieldsStop.pacerStop_spec 5 (by decide)
  have hword {a : Nat} (hs : NotOfStop a) (hc : NotOfCycle a) :
      (e.fieldsStop.pacerStop 5).rdWord a = s.dev.showTimeout.rdWord a := by
    rw [Dev.pacerStop_rdWord _ _ hs, Dev.fieldsStop_rdWord _ hc, Dev.rdWord, he, Dev.rdWord]
  refine ⟨_, exec_waveTimeout f hlive, ?_⟩
  rw [State.withDev_dev, htimeout]
  refine ⟨hstopped, hcause, hboundary, ?_, ?_⟩
  · rw [Dev.get_congr (hword (by unfold NotOfStop; decide) (by unfold NotOfCycle; decide))]
    exact Dev.get_set_self _ _ _ (by decide)
  · have hkept {a : Nat} (hs : NotOfStop a) (hc : NotOfCycle a) (hf : a % 0x1000000 ≠ 0x10114) (hn : a ≠ Reg.PACE_CLK_STATUS) :
        (e.fieldsStop.pacerStop 5).rdWord a = s.dev.rdWord a := (hword hs hc).trans (Dev.showTimeout_rdWord _ hf hn)
    unfold Dev.committed Dev.pair
    rw [hkept (by unfold NotOfStop; decide) (by unfold NotOfCycle; decide) (by decide) (by decide),
      hkept (by unfold NotOfStop; decide) (by unfold NotOfCycle; decide) (by decide) (by decide)]

end Sys2Proof.Machine
end

section
/-! SUPPORT. Latent memory, the calibration of delays, and the value of held bridges (chapters 2 and 3). -/

namespace Sys2Proof.Machine

variable {d : Dev}

/-! ### Latent memory (R107, R116, R117, R119) -/

theorem exec_latentReadReturn (f : Fin 384) (q : Fin 16) (steps : Nat) {s : State} (h : s.live = true) :
    exec (.latentReadReturn f q steps) s = .next (s.withDev (s.dev.latentReturn f.val q.val steps)) := by
  show s.onDev (fun _ d => d.latentReturn f.val q.val steps) = _
  exact State.onDev_live h _

theorem exec_latentWriteAccept (i : Nat) {s : State} (h : s.live = true) :
    exec (.latentWriteAccept i) s = .next (s.withDev (s.dev.latentAccept i)) := by
  show s.onDev (fun _ d => d.latentAccept i) = _
  exact State.onDev_live h _

/-- A wave whose reads are issued may complete: no port's outputs change, and its reads outstanding are those that were. -/
theorem Dev.tryComplete_issued {f : Nat} (steps : Nat) (h : (d.fld f).issued = true) :
    ((d.tryComplete f steps).fld f).latent = (d.fld f).latent ∧ (d.tryComplete f steps).ports = d.ports := by
  have hs := d.settle_fab [f]
  have hfld : (d.settle [f]).fld f = d.fld f := hs.fld f
  have hports : (d.settle [f]).ports = d.ports := by rw [hs]
  unfold Dev.tryComplete
  dsimp only
  rw [if_pos h, hfld]
  split
  · exact ⟨rfl, rfl⟩
  · split
    · exact ⟨congrArg _ hfld, hports⟩
    · next hopen =>
      have hnone : (d.fld f).latent = [] := by
        simp only [not_or, Decidable.not_not] at hopen
        exact hopen.1
      split
      · rw [Dev.setFld_fld, Dev.setFld_ports, hnone]
        exact ⟨rfl, hports⟩
      · rw [Dev.set_fld, Dev.setFld_fld, Dev.set_ports, Dev.setFld_ports]
        exact ⟨rfl, hports⟩

/-- What a port takes from the answer to its read: its word, or zeros with the error output after a bus error (R116, R119). -/
def LatentReq.taken (r : LatentReq) (p : Packet) : Nat × Bool :=
  (if p.status == 0 then ofBytes (slice p.data (r.addr % 64) r.size) else 0, !(p.status == 0))

section
variable {f q : Nat} {r : LatentReq} (steps : Nat) (hr : (d.fld f).latent.find? (fun e => e.q == q) = some r)
include hr

/-- A read waits for its answer. -/
theorem Dev.latentReturn_waits (hp : d.dockAnswer r = none) : d.latentReturn f q steps = d := by
  unfold Dev.latentReturn
  rw [hr]
  dsimp only
  rw [hp]

/-- With its answer it is no longer outstanding, its port takes the answer, and the wave may complete. -/
theorem Dev.latentReturn_answered {p : Packet} (hp : d.dockAnswer r = some p) :
    ∃ e : Dev, d.latentReturn f q steps =
      ((e.setFld f { d.fld f with latent := (d.fld f).latent.erase r }).setLatent f q (r.taken p).1 (r.taken p).2).tryComplete f
        steps := by
  unfold Dev.latentReturn
  rw [hr]
  dsimp only
  rw [hp]
  dsimp only
  split
  · exact ⟨d, rfl⟩
  · exact ⟨d.dropAnswer p, rfl⟩

end

theorem Dev.setLatent_fld (d : Dev) (f q data : Nat) (err : Bool) (g : Nat) : (d.setLatent f q data err).fld g = d.fld g := by
  unfold Dev.setLatent
  rfl

theorem Dev.setLatent_next (d : Dev) (f q data : Nat) (err : Bool) :
    ((d.setLatent f q data err).ports.get (latKey f q) {}).next = some (data, err) := by
  unfold Dev.setLatent
  rw [SMap.get_put_self]

/-- What a read that is answered leaves: its port presents from the field's next launch what it took. -/
theorem Dev.latentReturn_shows {f q : Nat} {r : LatentReq} {p : Packet} (steps : Nat)
    (hr : (d.fld f).latent.find? (fun e => e.q == q) = some r) (hi : (d.fld f).issued = true) (hp : d.dockAnswer r = some p) :
    ((d.latentReturn f q steps).fld f).latent = (d.fld f).latent.erase r ∧
    ((d.latentReturn f q steps).ports.get (latKey f q) {}).next = some (r.taken p) := by
  obtain ⟨e, hreturn⟩ := Dev.latentReturn_answered steps hr hp
  rw [hreturn]
  generalize ht : (e.setFld f { d.fld f with latent := (d.fld f).latent.erase r }).setLatent f q (r.taken p).1 (r.taken p).2 = t
  have hf : t.fld f = { d.fld f with latent := (d.fld f).latent.erase r } := by rw [← ht, Dev.setLatent_fld, Dev.setFld_fld]
  obtain ⟨hlatent, hports⟩ := Dev.tryComplete_issued (d := t) (f := f) steps (by rw [hf]; exact hi)
  rw [hlatent, hports, hf, ← ht, Dev.setLatent_next]
  exact ⟨rfl, rfl⟩

/-- A write waits for its answer. -/
theorem Dev.latentAccept_waits {i : Nat} {r : LatentReq} (hr : d.latentWrites[i]? = some r) (hp : d.dockAnswer r = none) :
    d.latentAccept i = d := by
  unfold Dev.latentAccept
  rw [hr]
  dsimp only
  rw [hp]

/-- With its answer it is accepted or lost: the boundary no longer waits for it. -/
theorem Dev.latentAccept_answered {i : Nat} {r : LatentReq} {p : Packet} (hr : d.latentWrites[i]? = some r)
    (hp : d.dockAnswer r = some p) :
    d.latentAccept i = { d.dropAnswer p with latentWrites := d.latentWrites.eraseIdx i } := by
  unfold Dev.latentAccept
  rw [hr]
  dsimp only
  rw [hp]

/-- Settles O14: an answer is what a dock's NI has for the request. -/
theorem latentMemory : Obligations.LatentMemory := by
  refine ⟨fun s f q steps r p hlive hr hi hp => ?answered, fun s f q steps r hlive hr hp => ?waits,
    fun s i r p hlive hr hp => ?accepted, fun s i r hlive hr hp => ?waitsWrite⟩
  case answered =>
    obtain ⟨hlatent, hnext⟩ := Dev.latentReturn_shows steps hr hi hp
    refine ⟨_, exec_latentReadReturn f q steps hlive, ?_⟩
    rw [State.withDev_dev]
    refine ⟨hlatent, fun hok => ?_, fun herr => ?_⟩ <;> rw [hnext, LatentReq.taken]
    · rw [hok]; rfl
    · simp [herr]
  case waits =>
    rw [exec_latentReadReturn f q steps hlive, Dev.latentReturn_waits steps hr hp]
    rfl
  case accepted =>
    rw [exec_latentWriteAccept i hlive, Dev.latentAccept_answered hr hp]
    rfl
  case waitsWrite =>
    rw [exec_latentWriteAccept i hlive, Dev.latentAccept_waits hr hp]
    rfl

/-! ### Fields within fields -/

/-- A field of a field of a word. -/
theorem bits_within (v : Word) {i k w : Nat} (h : i + k ≤ w) : bits v i k = bits v 0 w / 2 ^ i % 2 ^ k := by
  have hlow : bits v 0 w = v.toNat % 2 ^ w := by simp [bits]
  have hmod : v.toNat % 2 ^ w % 2 ^ (i + k) = v.toNat % 2 ^ (i + k) := Nat.mod_mod_of_dvd _ (Nat.pow_dvd_pow 2 h)
  rw [bits_eq_mod, hlow, ← hmod, Nat.pow_add, Nat.mod_mul_right_div_self]

/-- Within a field that is replaced a word reads as what replaces it. -/
theorem bits_setBits_within (v w : Word) {i k n : Nat} (h : i + k ≤ n) (hn : n ≤ 32) :
    bits (setBits v 0 n (bits w 0 n)) i k = bits w i k := by
  rw [bits_within _ h, bits_setBits_self v _ (by omega), Nat.mod_eq_of_lt (bits_lt w 0 n), ← bits_within w h]

theorem bits_and (v m : Word) (i k : Nat) : bits (v &&& m) i k = bits v i k &&& bits m i k := by
  simp only [bits, BitVec.toNat_and, Nat.and_div_two_pow, Nat.and_mod_two_pow]

/-! ### Writes of FAB_BRIDGE_HOLD (R87, R88) -/

/-- A write of a register that stands is that of its fields. -/
theorem Dev.plainWrite_of_findReg {a : Nat} {r : RegSpec} (v : Word) (h : findReg a = some r) :
    d.plainWrite a v = d.wrWord a (r.write (d.rdWord a) v) := by
  unfold Dev.plainWrite
  rw [h]

theorem findReg_bridgeHold : ∀ die : Fin 12,
    findReg (Reg.FAB_BRIDGE_HOLD die.val) = some ⟨1, 8, [], 0, [⟨0, 8, .rw⟩]⟩ := by decide

/-- The mask of R87 keeps the directions that have a neighbor. -/
theorem bits_bridgeHoldMask : ∀ (die : Fin 12) (dir : Fin 4),
    bits (bridgeHoldMask die.val) (2 * dir.val) 2 = if (dieNeighbor die.val dir.val).isSome then 3 else 0 := by
  decide

theorem bits_and_bridgeHoldMask (die : Fin 12) (dir : Fin 4) (v : Word) : bits (v &&& bridgeHoldMask die.val) (2 * dir.val) 2 =
    if (dieNeighbor die.val dir.val).isSome then bits v (2 * dir.val) 2 else 0 := by
  have hlt : bits v (2 * dir.val) 2 < 4 := bits_lt v _ 2
  rw [bits_and, bits_bridgeHoldMask]
  split
  · exact (Nat.and_two_pow_sub_one_eq_mod _ 2).trans (Nat.mod_eq_of_lt hlt)
  · exact Nat.and_zero _

theorem exec_fabBridgeHoldWrite {s : State} {who : Who} (die : Fin 12) (v : Word)
    (h : s.reaches who (Reg.FAB_BRIDGE_HOLD die.val)) :
    exec (.fabBridgeHoldWrite who die v) s = .next (s.withDev (s.dev.wrWord (Reg.FAB_BRIDGE_HOLD die.val)
      (setBits (s.dev.rdWord (Reg.FAB_BRIDGE_HOLD die.val)) 0 8 (bits (v &&& bridgeHoldMask die.val) 0 8)))) := by
  have hd := die.isLt
  show s.onDev (fun fz d => d.regPut fz who (Reg.FAB_BRIDGE_HOLD die.val) v) = _
  have haddr : Reg.FAB_BRIDGE_HOLD die.val = 0x10008 + die.val * 0x1000000 := rfl
  rw [State.onDev_regPut _ h (by omega), Dev.regWrite_fab (by omega)]
  have hoff : Reg.FAB_BRIDGE_HOLD die.val % 0x10000 = 8 := by omega
  have hsel : Reg.FAB_BRIDGE_HOLD die.val / 0x1000000 = die.val := by omega
  rw [hoff, hsel]
  unfold Dev.wrFab
  rw [Dev.plainWrite_of_findReg _ (findReg_bridgeHold die)]
  rfl

/-! ### Delay calibration (R114) -/

theorem idxOf_lt (f : Nat) : idxOf f < 32 := by
  unfold idxOf
  omega

/-- Delays, margins and trims that come into force write no register of a die below those of its fields. -/
theorem Dev.applyDelays_rdWord (d : Dev) {a : Nat} (h : a % 0x1000000 < 0x11000) : d.applyDelays.rdWord a = d.rdWord a := by
  unfold Dev.applyDelays
  dsimp only
  refine Dev.rdWord_each _ _ _ a (fun e _ d => d.rdWord_set_ne _ _ ?_)
  have := idxOf_lt e.1
  show a ≠ 0x11004 + dieOf e.1 * 0x1000000 + idxOf e.1 * 0x200
  omega

theorem Dev.withTrims_rdWord (d : Dev) (m : SMap Nat) (a : Nat) : ({ d with trimDue := m } : Dev).rdWord a = d.rdWord a := (rfl)

theorem Dev.applyIfAtRest_rdWord (d : Dev) {a : Nat} (h : a % 0x1000000 < 0x11000) : d.applyIfAtRest.rdWord a = d.rdWord a := by
  unfold Dev.applyIfAtRest
  split
  · exact d.applyDelays_rdWord h
  · rfl

/-- What a calibration shows: the junction temperature, one calibration more, and cal_now over. -/
def Dev.showCalibration (d : Dev) (die : Nat) (temp : Int) : Dev :=
  ((d.set (Reg.FAB_CAL_STATUS_cal_temp die) (BitVec.ofInt 9 temp).toNat).wrap (Reg.FAB_CAL_STATUS_cal_count die)).set
    (Reg.FAB_CAL_CTL_cal_now die) 0

theorem calTemp_ok (die : Nat) : (Reg.FAB_CAL_STATUS_cal_temp die).ok := by show 7 + 9 ≤ 32; decide

theorem calCount_ok (die : Nat) : (Reg.FAB_CAL_STATUS_cal_count die).ok := by show 16 + 16 ≤ 32; decide

theorem calTemp_below_count (die : Nat) :
    (Reg.FAB_CAL_STATUS_cal_temp die).lsb + (Reg.FAB_CAL_STATUS_cal_temp die).w ≤ (Reg.FAB_CAL_STATUS_cal_count die).lsb := by
  show 7 + 9 ≤ 16
  decide

theorem calStatus_ne_ctl (die : Nat) : Reg.FAB_CAL_STATUS die ≠ Reg.FAB_CAL_CTL die := by
  show 0x1010c + die * 0x1000000 ≠ 0x10108 + die * 0x1000000
  omega

section
variable (d) (die : Nat) (temp : Int)

theorem Dev.showCalibration_temp :
    (d.showCalibration die temp).get (Reg.FAB_CAL_STATUS_cal_temp die) = (BitVec.ofInt 9 temp).toNat := by
  unfold Dev.showCalibration Dev.wrap
  rw [Dev.get_set_addr _ _ _ _ (calStatus_ne_ctl die), Dev.get_set_bits _ _ _ _ (calCount_ok die) (.inl (calTemp_below_count die)),
    Dev.get_set_self _ _ _ (calTemp_ok die)]
  exact Nat.mod_eq_of_lt (BitVec.isLt _)

theorem Dev.showCalibration_count : (d.showCalibration die temp).get (Reg.FAB_CAL_STATUS_cal_count die) =
    (d.get (Reg.FAB_CAL_STATUS_cal_count die) + 1) % 2 ^ 16 := by
  unfold Dev.showCalibration Dev.wrap
  rw [Dev.get_set_addr _ _ _ _ (calStatus_ne_ctl die), Dev.get_set_self _ _ _ (calCount_ok die),
    Dev.get_set_bits _ _ _ _ (calTemp_ok die) (.inr (calTemp_below_count die))]
  exact Nat.mod_mod _ _

theorem Dev.showCalibration_now : (d.showCalibration die temp).on (Reg.FAB_CAL_CTL_cal_now die) = false := by
  unfold Dev.showCalibration
  rw [Dev.on_set_self _ _ _ (by show 1 + 1 ≤ 32; decide)]
  rfl

end

section
variable {die : Nat} {temp : Int} (trims : List Nat) (hheld : d.heldDie die = false)
  (hgo : d.on (Reg.FAB_CAL_CTL_pause die) = false ∨ d.on (Reg.FAB_CAL_CTL_cal_now die) = true)
  (hlo : -256 ≤ temp) (hhi : temp ≤ 255)
include hheld hgo hlo hhi

/-- A calibration that is asked for, or of a die that is not paused, runs; delays that then apply leave what it shows. -/
theorem Dev.calibrate_runs :
    ∃ m, d.calibrate die temp trims = ({ d.showCalibration die temp with trimDue := m } : Dev).applyIfAtRest := by
  have htemp : max (-256) (min 255 temp) = temp := by omega
  have hpaused : ¬ (d.on (Reg.FAB_CAL_CTL_pause die) = true ∧ ¬ d.on (Reg.FAB_CAL_CTL_cal_now die) = true) := by
    rintro ⟨hp, hn⟩
    obtain h | h := hgo
    · simp [h] at hp
    · exact hn h
  unfold Dev.calibrate Dev.showCalibration
  dsimp only
  rw [htemp, if_neg, if_neg hpaused]
  · exact ⟨_, rfl⟩
  · rintro (h | ⟨hp, hn, -⟩)
    · simp [hheld] at h
    · exact hpaused ⟨hp, hn⟩

/-- What it leaves in the registers of its die below those of the fields. -/
theorem Dev.calibrate_rdWord {a : Nat} (ha : a % 0x1000000 < 0x11000) :
    (d.calibrate die temp trims).rdWord a = (d.showCalibration die temp).rdWord a := by
  obtain ⟨m, h⟩ := Dev.calibrate_runs trims hheld hgo hlo hhi
  rw [h, Dev.applyIfAtRest_rdWord _ ha]
  exact Dev.withTrims_rdWord _ m a

/-- The junction temperature, the count and cal_now after a calibration. -/
theorem Dev.calibrate_shows :
    (d.calibrate die temp trims).get (Reg.FAB_CAL_STATUS_cal_temp die) = (BitVec.ofInt 9 temp).toNat ∧
    (d.calibrate die temp trims).get (Reg.FAB_CAL_STATUS_cal_count die) =
      (d.get (Reg.FAB_CAL_STATUS_cal_count die) + 1) % 2 ^ 16 ∧
    (d.calibrate die temp trims).on (Reg.FAB_CAL_CTL_cal_now die) = false := by
  have hstatus := Dev.calibrate_rdWord trims hheld hgo hlo hhi (a := Reg.FAB_CAL_STATUS die)
    (by show (0x1010c + die * 0x1000000) % 0x1000000 < 0x11000; omega)
  have hctl := Dev.calibrate_rdWord trims hheld hgo hlo hhi (a := Reg.FAB_CAL_CTL die)
    (by show (0x10108 + die * 0x1000000) % 0x1000000 < 0x11000; omega)
  refine ⟨?_, ?_, ?_⟩
  · rw [Dev.get_congr (f := Reg.FAB_CAL_STATUS_cal_temp die) hstatus, Dev.showCalibration_temp]
  · rw [Dev.get_congr (f := Reg.FAB_CAL_STATUS_cal_count die) hstatus, Dev.showCalibration_count]
  · rw [Dev.on, Dev.get_congr (f := Reg.FAB_CAL_CTL_cal_now die) hctl]
    exact Dev.showCalibration_now d die temp

end

theorem exec_delayCalibration (die : Fin 12) (temp : Int) (trims : List Nat) {s : State} (h : s.live = true) :
    exec (.delayCalibration die temp trims) s = .next (s.withDev (s.dev.calibrate die.val temp trims)) := by
  show s.onDev (fun _ d => d.calibrate die.val temp trims) = _
  exact State.onDev_live h _

theorem getLsbD_withBit_self (v : Word) {i : Nat} (h : i < 32) : (withBit v i true).getLsbD i = true := by
  have hone : (withBit v i true).toNat / 2 ^ i % 2 ^ 1 = 1 := bits_setBits_self v 1 (by omega)
  rw [← BitVec.testBit_toNat, Nat.testBit_eq_decide_div_mod_eq]
  exact decide_eq_true hone

/-- A write of 1 to FAB_CAL_CTL.cal_now sets it (R114), beside what a plain write of the register does. -/
theorem Dev.regWrite_calNow (d : Dev) (fz : Fuses) (who : Who) (die : Fin 12) {v : Word} (h : v.getLsbD 1 = true) :
    d.regWrite fz who (Reg.FAB_CAL_CTL die.val) v =
      (d.plainWrite (Reg.FAB_CAL_CTL die.val) v).set (Reg.FAB_CAL_CTL_cal_now die.val) 1 := by
  have hd := die.isLt
  have haddr : Reg.FAB_CAL_CTL die.val = 0x10108 + die.val * 0x1000000 := rfl
  have hoff : Reg.FAB_CAL_CTL die.val % 0x10000 = 0x108 := by omega
  have hsel : Reg.FAB_CAL_CTL die.val / 0x1000000 = die.val := by omega
  rw [Dev.regWrite_fab (by omega), hoff, hsel]
  unfold Dev.wrFab
  dsimp only
  rw [if_pos rfl, if_pos h, if_neg (by decide)]

/-- CAL_NOW runs a calibration at once, whether or not the die is paused. -/
theorem exec_calNow {s : State} {who : Who} (die : Fin 12) (temp : Int) (trims : List Nat)
    (h : s.reaches who (Reg.FAB_CAL_CTL die.val)) :
    ∃ e : Dev, e.heldDie die.val = s.dev.heldDie die.val ∧ e.on (Reg.FAB_CAL_CTL_cal_now die.val) = true ∧
      exec (.calNow who die temp trims) s = .next (s.withDev (e.calibrate die.val temp trims)) := by
  obtain ⟨hlive, hgate⟩ := h
  have hw := s.dev.regWrite_calNow s.fuses who die (getLsbD_withBit_self (s.dev.rdWord (Reg.FAB_CAL_CTL die.val)) (by decide))
  generalize hv : withBit (s.dev.rdWord (Reg.FAB_CAL_CTL die.val)) 1 true = v at hw
  have hon : ((s.dev.plainWrite (Reg.FAB_CAL_CTL die.val) v).set (Reg.FAB_CAL_CTL_cal_now die.val) 1).on
      (Reg.FAB_CAL_CTL_cal_now die.val) = true := by
    rw [Dev.on_set_self _ _ _ (by show 1 + 1 ≤ 32; decide)]
    rfl
  refine ⟨_, ?_, hon, ?_⟩
  · rw [Dev.heldDie, ((RegsOnly.plainWrite s.dev (Reg.FAB_CAL_CTL die.val) v).trans (.set _ _ 1)).pwr, Dev.heldDie]
  · show s.onDev (fun fz d =>
      let d := d.regPut fz who (Reg.FAB_CAL_CTL die.val) (withBit (d.rdWord (Reg.FAB_CAL_CTL die.val)) 1 true)
      if d.on (Reg.FAB_CAL_CTL_cal_now die.val) then d.calibrate die.val temp trims else d) = _
    rw [State.onDev_live hlive]
    dsimp only
    rw [hv, Dev.regPut_passed _ _ hgate (by show (0x10108 + die.val * 0x1000000) % 4 = 0; omega), hw, if_pos hon]

/-- Settles O15: a calibration that runs shows its registers; FAB_BRIDGE_HOLD takes what the mask of neighbors leaves of a write. -/
theorem calibrationAndBridgeHold : Obligations.CalibrationAndBridgeHold := by
  intro s die
  refine ⟨fun temp trims hlive hheld hpause hlo hhi => ?calibration, fun who temp trims hreach hlo hhi hheld => ?calNow,
    fun who v hreach => ?hold⟩
  case calibration =>
    obtain ⟨htemp, hcount, -⟩ := Dev.calibrate_shows trims hheld (.inl hpause) hlo hhi
    exact ⟨_, exec_delayCalibration die temp trims hlive, htemp, hcount⟩
  case calNow =>
    obtain ⟨e, he, hnow, hexec⟩ := exec_calNow die temp trims hreach
    obtain ⟨htemp, -, hover⟩ := Dev.calibrate_shows trims (he.trans hheld) (.inr hnow) hlo hhi
    exact ⟨_, hexec, htemp, hover⟩
  case hold =>
    refine ⟨_, exec_fabBridgeHoldWrite die v hreach, fun dir => ?_, fun a ha => ?_⟩ <;> rw [State.withDev_dev]
    · have hdir := dir.isLt
      rw [← bits_and_bridgeHoldMask, Dev.get, Dev.rdWord_wrWord_self]
      exact bits_setBits_within _ _ (by show 2 * dir.val + 2 ≤ 8; omega) (by decide)
    · exact Dev.rdWord_wrWord_ne _ _ ha

end Sys2Proof.Machine
end

section
/-! SUPPORT. The timebase (chapter 4): its steps, its corrections and the monitor of PACE_REF. -/

namespace Sys2Proof.Machine

variable {d : Dev} {s : State} {who : Who}

/-- Settles O2: an empty queue lets the timebase step, and reset holds what acts on the device. -/
theorem idleStepIsATick : Obligations.IdleStepIsATick := by
  intro s hempty
  have hstep : step s = tick s := by
    unfold step
    rw [hempty]
  rw [hstep]
  exact ⟨fun hlive => State.onDev_live hlive _, fun hreset => State.onDev_reset hreset _⟩

/-- A write of a PACE register that passes the checks of an access. -/
theorem State.onDev_wrPace {a : Nat} (v : Dev → Word) (h : s.reaches who a) (ha : a % 4 = 0) (hb : a / 0x10000 % 0x100 = 2) :
    s.onDev (fun fz d => d.regPut fz who a (v d)) = .next (s.withDev (s.dev.wrPace (a % 0x10000) a (v s.dev))) := by
  rw [State.onDev_regPut v h ha, Dev.regWrite_pace hb]

/-! ### Steps of the timebase (R127, R130) -/

/-- Whether the next step of the timebase is slewed: the last of 64 while a correction is left. -/
def Dev.slewsNow (d : Dev) : Bool := decide (d.tbAdj ≠ 0) && d.pac.slew % 64 == 63

theorem Dev.slewsNow_iff : d.slewsNow = true ↔ d.tbAdj ≠ 0 ∧ d.pac.slew % 64 = 63 := by
  simp [Dev.slewsNow]

theorem Dev.tbAdj_eq_zero_iff : d.tbAdj = 0 ↔ d.rdWord Reg.PACE_TB_ADJ = 0 := BitVec.toInt_inj (y := 0#32)

/-- A step that is not slewed adds 10 ticks, and no register changes. -/
theorem Dev.tbStep_plain (h : d.slewsNow = false) :
    d.tbStep.pac.tb = (d.pac.tb + 10) % 2 ^ 64 ∧ ∀ a, d.tbStep.rdWord a = d.rdWord a := by
  unfold Dev.slewsNow at h
  unfold Dev.tbStep
  dsimp only
  rw [h]
  exact ⟨rfl, fun _ => rfl⟩

/-- A slewed step adds a tick more or less than 10, and takes that tick from the correction. -/
theorem Dev.tbStep_slewed (h : d.slewsNow = true) :
    d.tbStep.pac.tb = (d.pac.tb + if 0 < d.tbAdj then 11 else 9) % 2 ^ 64 ∧
    d.tbStep.rdWord Reg.PACE_TB_ADJ = BitVec.ofInt 32 (if 0 < d.tbAdj then d.tbAdj - 1 else d.tbAdj + 1) := by
  unfold Dev.slewsNow at h
  unfold Dev.tbStep
  dsimp only
  rw [h]
  exact ⟨rfl, Dev.rdWord_wrWord_self _ _ _⟩

/-- A step takes a tick from a correction forward. -/
theorem Dev.tbStep_forward (hadj : 0 < d.tbAdj) (hturn : d.pac.slew % 64 = 63) :
    d.tbStep.pac.tb = (d.pac.tb + 11) % 2 ^ 64 ∧ d.tbStep.tbAdj = d.tbAdj - 1 := by
  obtain ⟨htb, hword⟩ := Dev.tbStep_slewed (Dev.slewsNow_iff.2 ⟨by omega, hturn⟩)
  rw [if_pos hadj] at htb hword
  have hlt : d.tbAdj < 2 ^ 31 := BitVec.toInt_lt
  refine ⟨htb, ?_⟩
  rw [Dev.tbAdj, hword]
  exact BitVec.toInt_ofInt_eq_self (by decide) (by omega) (by omega)

/-- A step takes a tick from a correction backward. -/
theorem Dev.tbStep_backward (hadj : d.tbAdj < 0) (hturn : d.pac.slew % 64 = 63) :
    d.tbStep.pac.tb = (d.pac.tb + 9) % 2 ^ 64 ∧ d.tbStep.tbAdj = d.tbAdj + 1 := by
  obtain ⟨htb, hword⟩ := Dev.tbStep_slewed (Dev.slewsNow_iff.2 ⟨by omega, hturn⟩)
  rw [if_neg (by omega)] at htb hword
  have hle : -2 ^ 31 ≤ d.tbAdj := BitVec.le_toInt _
  refine ⟨htb, ?_⟩
  rw [Dev.tbAdj, hword]
  exact BitVec.toInt_ofInt_eq_self (by decide) (by omega) (by omega)

/-! ### Corrections (R130) -/

theorem exec_paceTbAdjWrite (v : Word) (h : s.reaches who Reg.PACE_TB_ADJ) :
    exec (.paceTbAdjWrite who v) s = .next (s.withDev (s.dev.tbAdjWrite v)) :=
  State.onDev_wrPace (fun _ => v) h (by decide) (by decide)

/-- Taking the correction at once moves the timebase by it and leaves none. -/
theorem Dev.applyAdj_applies (d : Dev) : d.applyAdj.pac.tb = (((d.pac.tb : Int) + d.tbAdj).emod (2 ^ 64)).toNat ∧
    d.applyAdj.rdWord Reg.PACE_TB_ADJ = 0 := by
  unfold Dev.applyAdj
  exact ⟨rfl, Dev.rdWord_wrWord_self _ _ _⟩

/-- The device once a correction is written and the count of steps starts anew. -/
def Dev.withAdj (d : Dev) (v : Word) : Dev := (d.wrWord Reg.PACE_TB_ADJ v).modPac (fun p => { p with slew := 0 })

theorem Dev.withAdj_rdWord (d : Dev) (v : Word) : (d.withAdj v).rdWord Reg.PACE_TB_ADJ = v := Dev.rdWord_wrWord_self _ _ _

theorem Dev.withAdj_running (d : Dev) (v : Word) : (d.withAdj v).running = d.running := by
  have hw : (d.withAdj v).rdWord Reg.PACE_STATUS = d.rdWord Reg.PACE_STATUS := d.rdWord_wrWord_ne v (by decide)
  rw [Dev.running, Dev.on, Dev.get_congr hw, Dev.running, Dev.on]

/-- A correction is taken at once while the pacer is stopped, and is left for the steps to come while it runs. -/
theorem Dev.tbAdjWrite_eq (d : Dev) (v : Word) : d.tbAdjWrite v = if d.running then d.withAdj v else (d.withAdj v).applyAdj := by
  rw [← d.withAdj_running v]
  rfl

/-! ### The monitor of PACE_REF (R128, R129) -/

theorem exec_refMonitorWindow (khz : Nat) (h : s.live = true) :
    exec (.refMonitorWindow khz) s = .next (s.withDev (s.dev.refWindow khz)) := by
  show s.onDev (fun _ d => d.refWindow khz) = _
  exact State.onDev_live h _

theorem exec_useRef (h : s.reaches who Reg.PACE_TB_CTL) :
    exec (.useRef who) s = .next (s.withDev (s.dev.useRef (withBit (s.dev.rdWord Reg.PACE_TB_CTL) 0 true))) :=
  State.onDev_wrPace (fun d => withBit (d.rdWord Reg.PACE_TB_CTL) 0 true) h (by decide) (by decide)

theorem exec_timebaseReturn (h : s.live = true) : exec .timebaseReturn s = .next (s.withDev s.dev.tbReturn) := by
  show s.onDev (fun _ d => d.tbReturn) = _
  exact State.onDev_live h _

theorem refInRange_iff {khz : Nat} : refInRange khz = true ↔ 90000 ≤ khz ∧ khz ≤ 110000 := by
  simp [refInRange]

theorem refInRange_eq_false_iff {khz : Nat} : refInRange khz = false ↔ khz < 90000 ∨ 110000 < khz := by
  rw [Bool.eq_false_iff, ne_eq, refInRange_iff]
  omega

/-- What every window shows and counts: the frequency, and one more window in range, or none. -/
def Dev.refCounted (d : Dev) (khz good : Nat) : Dev :=
  { d.set Reg.PACE_REF_FREQ_khz khz with pac := { d.pac with good := good } }

theorem Dev.refWindow_inRange {khz : Nat} (h : refInRange khz = true) : d.refWindow khz =
    if 100 ≤ d.pac.good + 1 then (d.refCounted khz (d.pac.good + 1)).set Reg.PACE_TB_CTL_osc_cal_valid 1
    else d.refCounted khz (d.pac.good + 1) := if_pos h

/-- A window out of range gives up a return that has not completed. -/
theorem Dev.refWindow_givesUp {khz : Nat} (h : refInRange khz = false) (hsw : d.pwr.tbSwitch = some false) :
    d.refWindow khz = { d.refCounted khz 0 with
      pwr := { d.pwr with tbSwitch := if d.pac.osc then none else some true } } :=
  (if_neg (Bool.eq_false_iff.1 h)).trans (if_pos hsw)

/-- A window out of range begins the switch to the internal oscillator. -/
theorem Dev.refWindow_degrades {khz : Nat} (h : refInRange khz = false) (hsw : d.pwr.tbSwitch ≠ some false)
    (hdeg : d.on Reg.PACE_STATUS_degraded = false) :
    d.refWindow khz = { (d.refCounted khz 0).set Reg.PACE_STATUS_degraded 1 with pwr := { d.pwr with tbSwitch := some true } } := by
  have hkeep : (d.refCounted khz 0).on Reg.PACE_STATUS_degraded = false :=
    (Dev.on_set_addr d Reg.PACE_REF_FREQ_khz _ khz (by decide)).trans hdeg
  exact (if_neg (Bool.eq_false_iff.1 h)).trans ((if_neg hsw).trans (if_neg (Bool.eq_false_iff.1 hkeep)))

theorem Dev.useRef_kept {v : Word} (hv : v.getLsbD 0 = true) (hdeg : d.on Reg.PACE_STATUS_degraded = true)
    (hsw : d.pwr.tbSwitch ≠ some false) : d.useRef v = d.set Reg.PACE_TB_CTL_use_ref 1 := if_pos ⟨hv, hdeg, hsw⟩

theorem Dev.useRef_notTaken {v : Word} (h : d.on Reg.PACE_STATUS_degraded = false ∨ d.pwr.tbSwitch = some false) :
    d.useRef v = d := by
  unfold Dev.useRef
  refine if_neg (fun ⟨_, hdeg, hsw⟩ => ?_)
  obtain h | h := h
  · simp [h] at hdeg
  · exact hsw h

theorem Dev.tbReturn_begins (hask : d.on Reg.PACE_TB_CTL_use_ref = true) (hgood : 100 ≤ d.pac.good) :
    d.tbReturn = { d.set Reg.PACE_TB_CTL_use_ref 0 with pwr := { d.pwr with tbSwitch := some false } } := if_pos ⟨hask, hgood⟩

/-- Settles O19: each step of the timebase, each write of a correction and each window of the monitor by the case it falls in. -/
theorem timebase : Obligations.Timebase := by
  intro s hlive
  refine ⟨fun hadj => ?noCorrection, fun hadj hturn => Dev.tbStep_forward hadj hturn,
    fun hadj hturn => Dev.tbStep_backward hadj hturn, fun hadj hturn => ?betweenTurns, fun who v h => ?correction,
    fun khz hlo hhi => ?inRange, fun khz hkhz hdeg hsw => ?degrades, fun who h => ?useRef, fun hask hgood => ?returns,
    fun khz hkhz hsw => ?givesUp⟩
  case noCorrection =>
    obtain ⟨htb, hwords⟩ := Dev.tbStep_plain (d := s.dev) (by simp [Dev.slewsNow, Dev.tbAdj_eq_zero_iff.2 hadj])
    exact ⟨htb, (hwords _).trans hadj⟩
  case betweenTurns =>
    obtain ⟨htb, -⟩ := Dev.tbStep_plain (d := s.dev) (by simp [Dev.slewsNow, hturn])
    exact htb
  case correction =>
    rw [exec_paceTbAdjWrite v h, Dev.tbAdjWrite_eq]
    refine ⟨fun hrun => ⟨_, rfl, ?_⟩, fun hrun => ⟨_, rfl, ?_⟩⟩
    · rw [State.withDev_dev, if_neg (Bool.eq_false_iff.1 hrun)]
      obtain ⟨htb, hzero⟩ := (s.dev.withAdj v).applyAdj_applies
      rw [Dev.tbAdj, Dev.withAdj_rdWord] at htb
      exact ⟨htb, hzero⟩
    · rw [State.withDev_dev, if_pos hrun]
      exact ⟨rfl, Dev.withAdj_rdWord _ _⟩
  case inRange =>
    rw [exec_refMonitorWindow khz hlive, Dev.refWindow_inRange (refInRange_iff.2 ⟨hlo, hhi⟩)]
    rfl
  case degrades =>
    refine ⟨_, exec_refMonitorWindow khz hlive, ?_⟩
    rw [State.withDev_dev, Dev.refWindow_degrades (refInRange_eq_false_iff.2 hkhz) hsw hdeg]
    exact ⟨Dev.on_set_self (s.dev.refCounted khz 0) Reg.PACE_STATUS_degraded 1 (by decide), rfl, rfl⟩
  case useRef =>
    rw [exec_useRef h]
    exact ⟨fun hdeg hsw => by rw [Dev.useRef_kept (getLsbD_withBit_self _ (by decide)) hdeg hsw],
      fun hno => by rw [Dev.useRef_notTaken hno]; rfl⟩
  case returns =>
    refine ⟨_, exec_timebaseReturn hlive, ?_⟩
    rw [State.withDev_dev, Dev.tbReturn_begins hask hgood]
    exact ⟨Dev.on_set_self s.dev Reg.PACE_TB_CTL_use_ref 0 (by decide), rfl⟩
  case givesUp =>
    refine ⟨_, exec_refMonitorWindow khz hlive, ?_⟩
    rw [State.withDev_dev, Dev.refWindow_givesUp (refInRange_eq_false_iff.2 hkhz) hsw]
    exact ⟨rfl, rfl⟩

end Sys2Proof.Machine
end

section
/-! SUPPORT. Sideband pins (chapter 4): the levels of pads, the edges that count, and SIO_PIN_CTL. -/

namespace Sys2Proof.Machine

variable {d : Dev} {s : State} {who : Who} {n : Nat}

/-! ### Pads (R146) -/

/-- A pad takes its level, and the other pads keep theirs. -/
theorem getLsbD_setPad (pads : BitVec 64) (hn : n < 64) (level : Bool) (m : Nat) :
    (setPad pads n level).getLsbD m = if m = n then level else pads.getLsbD m := by
  have hbit : (BitVec.ofNat 64 (2 ^ n)).getLsbD m = decide (m = n) := by
    rw [BitVec.getLsbD_ofNat, Nat.testBit_two_pow]
    by_cases hm : m = n
    · simp [hm, hn]
    · simp [hm, Ne.symm hm]
  cases level
  · show (pads &&& ~~~BitVec.ofNat 64 (2 ^ n)).getLsbD m = _
    rw [BitVec.getLsbD_and, BitVec.getLsbD_not, hbit]
    by_cases hm : m = n
    · simp [hm]
    · by_cases h64 : m < 64
      · simp [hm, h64]
      · simp [hm, BitVec.getLsbD_of_ge pads m (by omega)]
  · show (pads ||| BitVec.ofNat 64 (2 ^ n)).getLsbD m = _
    rw [BitVec.getLsbD_or, hbit]
    by_cases hm : m = n <;> simp [hm]

/-! ### Edges (R148) -/

/-- A change of a pad counts on an EDGE pin whose selection it is: rising, falling, or both. -/
def Dev.edgeHit (d : Dev) (n : Nat) (level : Bool) : Bool :=
  d.sio.pads.getLsbD n != level && d.sioMode n == 2 &&
    (if d.get (Reg.SIO_PIN_CTL_edge n) = 0 then level else if d.get (Reg.SIO_PIN_CTL_edge n) = 1 then !level else true)

theorem Dev.edgeHit_iff (d : Dev) (n : Nat) (level : Bool) : d.edgeHit n level = true ↔
    d.sio.pads.getLsbD n ≠ level ∧ d.sioMode n = 2 ∧
      ((d.get (Reg.SIO_PIN_CTL_edge n) = 0 ∧ level = true) ∨ (d.get (Reg.SIO_PIN_CTL_edge n) = 1 ∧ level = false) ∨
        2 ≤ d.get (Reg.SIO_PIN_CTL_edge n)) := by
  have hsel : (if d.get (Reg.SIO_PIN_CTL_edge n) = 0 then level else if d.get (Reg.SIO_PIN_CTL_edge n) = 1 then !level else true)
      = true ↔ (d.get (Reg.SIO_PIN_CTL_edge n) = 0 ∧ level = true) ∨ (d.get (Reg.SIO_PIN_CTL_edge n) = 1 ∧ level = false) ∨
        2 ≤ d.get (Reg.SIO_PIN_CTL_edge n) := by
    generalize d.get (Reg.SIO_PIN_CTL_edge n) = sel
    split
    · simp [*]
    · split
      · simp [*]
      · simp only [true_iff]
        omega
  unfold Dev.edgeHit
  rw [Bool.and_eq_true, Bool.and_eq_true, hsel, and_assoc]
  simp

theorem Dev.sioEdge_eq (d : Dev) (n : Nat) (level : Bool) : d.sioEdge n level = { d with sio := { d.sio with
    pads := setPad d.sio.pads n level
    cnt := if d.edgeHit n level then d.sio.cnt.put n (min (d.sio.cnt.get n 0 + 1) 255) 0 else d.sio.cnt } } := rfl

theorem Dev.sioEdge_count (d : Dev) (n : Nat) (level : Bool) : (d.sioEdge n level).sio.cnt.get n 0 =
    if d.edgeHit n level then min (d.sio.cnt.get n 0 + 1) 255 else d.sio.cnt.get n 0 := by
  rw [Dev.sioEdge_eq]
  dsimp only
  split
  · exact SMap.get_put_self _ _ _ _
  · rfl

/-- An edge at a pad: in reset the pad alone takes its level. -/
theorem exec_sioEdge (n : Fin 64) (level : Bool) (s : State) : exec (.sioEdge n level) s = .next (s.withDev
    (if s.live then s.dev.sioEdge n level
     else { s.dev with sio := { s.dev.sio with pads := setPad s.dev.sio.pads n level } })) := by
  show Host.Outcome.next (s.withDev (if s.dev.inReset then { s.dev with sio :=
    { s.dev.sio with pads := setPad s.dev.sio.pads n level } } else s.dev.sioEdge n level)) = _
  unfold State.live
  cases s.dev.inReset <;> rfl

/-! ### SIO_PIN_CTL (R151) -/

/-- The row of Table 4.6 for SIO_PIN_CTL: mode, edge, drive and pull, all of them RW. -/
def pinCtlRow : RegSpec := ⟨4, 0, [(4, 64)], 16, [⟨0, 2, .rw⟩, ⟨2, 2, .rw⟩, ⟨4, 2, .rw⟩, ⟨6, 2, .rw⟩]⟩

theorem findReg_pinCtl : ∀ n : Fin 64, findReg (Reg.SIO_PIN_CTL n.val) = some pinCtlRow := by decide

theorem pinCtlRow_write (old v : Word) : pinCtlRow.write old v =
    setBits (setBits (setBits (setBits old 0 2 (bits v 0 2)) 2 2 (bits v 2 2)) 4 2 (bits v 4 2)) 6 2 (bits v 6 2) := rfl

theorem bits_pinCtlRow_write (old v : Word) :
    bits (pinCtlRow.write old v) 0 2 = bits v 0 2 ∧ bits (pinCtlRow.write old v) 2 2 = bits v 2 2 := by
  rw [pinCtlRow_write]
  constructor
  · rw [bits_setBits_below _ _ (by decide) (by decide), bits_setBits_below _ _ (by decide) (by decide),
      bits_setBits_below _ _ (by decide) (by decide), bits_setBits_self _ _ (by decide), Nat.mod_eq_of_lt (bits_lt v 0 2)]
  · rw [bits_setBits_below _ _ (by decide) (by decide), bits_setBits_below _ _ (by decide) (by decide),
      bits_setBits_self _ _ (by decide), Nat.mod_eq_of_lt (bits_lt v 2 2)]

/-- A write of SIO_PIN_CTL that passes the checks of an access is refused while the pacer runs. -/
theorem exec_sioPinCtlWrite (n : Fin 64) (v : Word) (h : s.reaches who (Reg.SIO_PIN_CTL n.val)) :
    exec (.sioPinCtlWrite who n v) s = .next (s.withDev (if s.dev.running then s.dev.paceRefuse
      else s.dev.wrWord (Reg.SIO_PIN_CTL n.val) (pinCtlRow.write (s.dev.rdWord (Reg.SIO_PIN_CTL n.val)) v))) := by
  have hn := n.isLt
  have haddr : Reg.SIO_PIN_CTL n.val = 0x20180000 + n.val * 4 := rfl
  show s.onDev (fun fz d => d.regPut fz who (Reg.SIO_PIN_CTL n.val) v) = _
  rw [State.onDev_regPut _ h (by omega), Dev.regWrite_sio (by omega)]
  unfold Dev.wrSio
  rw [if_pos (by omega), Dev.plainWrite_of_findReg _ (findReg_pinCtl n)]

/-- Settles O21: an edge changes pads and counts alone, and a write of SIO_PIN_CTL its own word. -/
theorem sidebandPins : Obligations.SidebandPins := by
  intro s n level
  refine ⟨⟨_, exec_sioEdge n level s, ?_⟩, fun who v h => ⟨fun hrun => ?refused, fun hrun => ⟨_, exec_sioPinCtlWrite n v h, ?taken⟩⟩⟩
  · have hpads : (if s.live then s.dev.sioEdge n level
        else { s.dev with sio := { s.dev.sio with pads := setPad s.dev.sio.pads n level } }).sio.pads =
        setPad s.dev.sio.pads n level := by cases s.live <;> rfl
    rw [State.withDev_dev]
    refine ⟨?_, fun m hm => ?_, ?_, fun hlive => ?_⟩
    · rw [hpads, getLsbD_setPad _ n.isLt, if_pos rfl]
    · rw [hpads, getLsbD_setPad _ n.isLt, if_neg (fun h => hm (Fin.ext h))]
    · cases s.live <;> rfl
    · rw [if_pos hlive, Dev.sioEdge_count]
      simp only [Dev.edgeHit_iff]
  case refused =>
    rw [exec_sioPinCtlWrite n v h, if_pos hrun]
    rfl
  case taken =>
    rw [State.withDev_dev, if_neg (Bool.eq_false_iff.1 hrun)]
    obtain ⟨hmode, hedge⟩ := bits_pinCtlRow_write (s.dev.rdWord (Reg.SIO_PIN_CTL n.val)) v
    refine ⟨?_, ?_, fun a ha => Dev.rdWord_wrWord_ne _ _ ha⟩
    · rw [Dev.sioMode, Dev.get, Dev.rdWord_wrWord_self]
      exact hmode
    · rw [Dev.get, Dev.rdWord_wrWord_self]
      exact hedge

end Sys2Proof.Machine
end

section
/-! SUPPORT. Deadlines and design time (chapter 4): the steps that reach a deadline, a schedule that is lost, and the writes of the
design time and of the count of cycles. -/

namespace Sys2Proof.Machine

variable {d e : Dev} {s : State} {who : Who}

/-! ### The steps that reach a deadline (R127, R130, R133) -/

/-- More steps advance the timebase further: a slewed step loses one tick of 10 at most. -/
theorem Dev.stepTicks_mono (d : Dev) {m n : Nat} (h : m ≤ n) : d.stepTicks m ≤ d.stepTicks n := by
  unfold Dev.stepTicks Dev.slewed
  split <;> omega

theorem Dev.le_stepTicks (d : Dev) (n : Nat) : n ≤ d.stepTicks n := by
  unfold Dev.stepTicks Dev.slewed
  split <;> omega

theorem Dev.stepTicks_zero (d : Dev) : d.stepTicks 0 = 0 := by
  unfold Dev.stepTicks Dev.slewed
  split <;> omega

/-- The binary search of `Dev.stepsFor` over the `k` lowest bits: the most steps from `n` that fall short of `x` ticks. -/
def Dev.stepsShort (d : Dev) (x k n : Nat) : Nat :=
  (List.range k).reverse.foldl (fun n i => if d.stepTicks (n + 2 ^ i) < x then n + 2 ^ i else n) n

theorem Dev.stepsShort_succ (d : Dev) (x k n : Nat) :
    d.stepsShort x (k + 1) n = d.stepsShort x k (if d.stepTicks (n + 2 ^ k) < x then n + 2 ^ k else n) := by
  unfold Dev.stepsShort
  rw [List.range_succ, List.reverse_append]
  rfl

/-- The search ends where one step more reaches the ticks. -/
theorem Dev.stepsShort_last (d : Dev) {x k : Nat} : ∀ {n : Nat}, d.stepTicks n < x → x ≤ d.stepTicks (n + 2 ^ k) →
    d.stepTicks (d.stepsShort x k n) < x ∧ x ≤ d.stepTicks (d.stepsShort x k n + 1) := by
  induction k with
  | zero => exact fun hlo hhi => ⟨hlo, hhi⟩
  | succ k ih =>
    intro n hlo hhi
    rw [Dev.stepsShort_succ]
    split
    case isTrue hshort => exact ih hshort (by rwa [Nat.add_assoc, ← Nat.two_mul, ← Nat.pow_succ'])
    case isFalse hreach => exact ih hlo (by omega)

/-- The steps for `x` ticks reach them, and fewer do not. -/
theorem Dev.stepsFor_least (d : Dev) {x : Nat} (hpos : 0 < x) (hlt : x < 2 ^ 64) :
    x ≤ d.stepTicks (d.stepsFor x) ∧ ∀ m, m < d.stepsFor x → d.stepTicks m < x := by
  have hsteps : d.stepsFor x = d.stepsShort x 64 0 + 1 := if_neg (by omega)
  have htop : 0 + 2 ^ 64 ≤ d.stepTicks (0 + 2 ^ 64) := d.le_stepTicks _
  obtain ⟨hshort, hreach⟩ := d.stepsShort_last (k := 64) (n := 0) (by rwa [Dev.stepTicks_zero]) (by omega)
  rw [hsteps]
  refine ⟨hreach, fun m hm => ?_⟩
  have hmono := d.stepTicks_mono (Nat.le_of_lt_succ hm)
  omega

section
variable (hadj : d.tbAdj = 0)
include hadj

/-- With no correction left no step is slewed. -/
theorem Dev.slewed_noAdj (n : Nat) : d.slewed n = 0 := by
  simp [Dev.slewed, hadj]

theorem Dev.stepTicks_noAdj (n : Nat) : d.stepTicks n = 10 * n := by
  simp [Dev.stepTicks, Dev.slewed_noAdj hadj, hadj]

theorem Dev.stepsFor_noAdj {x : Nat} (hlt : x < 2 ^ 64) : d.stepsFor x = (x + 9) / 10 := by
  by_cases hx : x = 0
  · rw [hx]
    rfl
  · obtain ⟨hreach, hleast⟩ := d.stepsFor_least (by omega) hlt
    have hlast := hleast (d.stepsFor x - 1)
    rw [Dev.stepTicks_noAdj hadj] at hreach hlast
    omega

theorem Dev.tbSteps_noAdj (n : Nat) :
    d.tbSteps n = d.modPac (fun p => { p with tb := (p.tb + 10 * n) % 2 ^ 64, slew := 0 }) := by
  have hrest : (if 0 < d.tbAdj then d.tbAdj - d.slewed n else d.tbAdj + d.slewed n) = 0 := by
    simp [Dev.slewed_noAdj hadj, hadj]
  unfold Dev.tbSteps
  dsimp only
  rw [if_pos (Dev.slewed_noAdj hadj n), hrest, Dev.stepTicks_noAdj hadj]
  rfl

end

/-! ### What passes with time (R471, R497, R498) -/

/-- With no release of a die due none happens. -/
theorem Dev.releasesDue_nil (h : d.pwr.releaseDue = []) : d.releasesDue = d := by
  unfold Dev.releasesDue
  rw [h]
  show ({ d with pwr := { d.pwr with releaseDue := [] } } : Dev) = d
  rw [← h]

theorem Dev.wdtTick_regs (d : Dev) (n : Nat) : RegsOnly d (d.wdtTick n) := by
  unfold Dev.wdtTick
  split
  · exact .refl d
  · exact .set d _ _

theorem Dev.wdtTick_rdWord (d : Dev) (n : Nat) {a : Nat} (h : a ≠ Reg.SP_WDT_COUNT) : (d.wdtTick n).rdWord a = d.rdWord a := by
  unfold Dev.wdtTick
  split
  · rfl
  · exact d.rdWord_set_ne _ _ h

/-- While no release of a die is due, time leaves the pacer alone and every register but the watchdog's count. -/
theorem Dev.usPass_keeps (n : Nat) (h : d.pwr.releaseDue = []) :
    (d.usPass n).pac = d.pac ∧ ∀ a, a ≠ Reg.SP_WDT_COUNT → (d.usPass n).rdWord a = d.rdWord a := by
  have hw := d.wdtTick_regs n
  have hrel : (d.wdtTick n).releasesDue = d.wdtTick n := Dev.releasesDue_nil (by rw [hw.pwr, h])
  unfold Dev.usPass
  dsimp only
  rw [hrel]
  exact ⟨(Dev.spend_pac _).trans hw.pac, fun a ha => (Dev.spend_rdWord _ a).trans (d.wdtTick_rdWord n ha)⟩

theorem Dev.usSince_keeps (was : Nat) (h : d.pwr.releaseDue = []) :
    (d.usSince was).pac = d.pac ∧ ∀ a, a ≠ Reg.SP_WDT_COUNT → (d.usSince was).rdWord a = d.rdWord a := by
  unfold Dev.usSince
  split
  · exact Dev.usPass_keeps _ h
  · exact ⟨rfl, fun _ _ => rfl⟩

/-! ### A release (R133) -/

/-- The timebase and the power controller are as they were. -/
structure KeepsTime (d e : Dev) : Prop where
  tb : e.pac.tb = d.pac.tb
  pwr : e.pwr = d.pwr

theorem KeepsTime.trans {f : Dev} (h : KeepsTime d e) (k : KeepsTime e f) : KeepsTime d f :=
  ⟨k.tb.trans h.tb, k.pwr.trans h.pwr⟩

theorem RegsOnly.keepsTime (h : RegsOnly d e) : KeepsTime d e := ⟨congrArg Pacer.tb h.pac, h.pwr⟩

theorem Dev.rearmLost_keepsTime (d : Dev) : KeepsTime d d.rearmLost := by
  obtain ⟨b, hb⟩ := d.rearmLost_lostArmed
  rw [hb]
  exact ⟨rfl, rfl⟩

theorem Dev.showCycle_keepsTime (d : Dev) (t levels edges : Nat) : KeepsTime d (d.showCycle t levels edges) :=
  ((RegsOnly.setPair d _ _ _).trans ((RegsOnly.setPair _ _ _ _).trans (.setPair _ _ _ _))).keepsTime

theorem Dev.sioSample_keepsTime (d : Dev) (unsure : BitVec 64) : KeepsTime d (d.sioSample unsure) := by
  have hcnt (l : List Nat) (e : Dev) :
      KeepsTime e (each l (fun n e => e.set ⟨Reg.SIO_CNT (n / 4), 8 * (n % 4), 8⟩ (d.sio.cnt.get n 0)) e) :=
    (RegsOnly.each _ (fun _ e => .set e _ _) l e).keepsTime
  unfold Dev.sioSample
  dsimp only
  split
  · exact ⟨(hcnt _ _).tb, (hcnt _ _).pwr⟩
  · exact ⟨(hcnt _ _).tb, (hcnt _ _).pwr⟩

theorem Dev.freshFields_keepsTime (d : Dev) : KeepsTime d d.freshFields := by
  unfold Dev.freshFields
  exact ⟨each_keeps (fun d => d.pac.tb) (fun f d => d.setFld f (d.fld f).fresh) _ (fun _ _ _ => rfl) d,
    each_keeps (fun d => d.pwr) (fun f d => d.setFld f (d.fld f).fresh) _ (fun _ _ _ => rfl) d⟩

theorem Dev.syncConsume_keepsTime (d : Dev) : KeepsTime d d.syncConsume := by
  unfold Dev.syncConsume
  split
  · exact ⟨rfl, rfl⟩
  · refine ⟨each_keeps (fun d => d.pac.tb) _ _ (fun n _ d => ?_) d, each_keeps (fun d => d.pwr) _ _ (fun n _ d => ?_) d⟩ <;>
      dsimp only <;> split <;> rfl

/-- A release takes no time. -/
theorem Dev.releaseNow_keepsTime (unsure : BitVec 64) {t : Nat} (hnow : d.dueNow = true) (hdue : d.dueCauses = [])
    (hrel : d.releasable = true) (ht : d.nextTime = some t) : KeepsTime d (d.releaseNow unsure) := by
  have hshow (e : Dev) (l g : Nat) : KeepsTime e ((e.showCycle t l g).sioSample unsure) :=
    (e.showCycle_keepsTime t l g).trans (Dev.sioSample_keepsTime _ unsure)
  have hlate (e : Dev) (late : Bool) : KeepsTime e (if late then e.wrap Reg.PACE_LATE_COUNT_count else e) := by
    split
    · exact (RegsOnly.wrap _ _ _).keepsTime
    · exact (RegsOnly.refl _).keepsTime
  have hend (e : Dev) (g : Pacer → Pacer) (hg : ∀ p, (g p).tb = p.tb) : KeepsTime e (e.freshFields.syncConsume.modPac g) :=
    (e.freshFields_keepsTime.trans (Dev.syncConsume_keepsTime _)).trans ⟨hg _, rfl⟩
  unfold Dev.releaseNow
  rw [if_pos hnow]
  unfold Dev.release_
  rw [if_neg (by simp [hdue]), if_neg (not_not_intro hrel), ht]
  exact ((d.rearmLost_keepsTime.trans (hshow _ _ _)).trans (hlate _ _)).trans (hend _ _ (fun _ => rfl))

/-! ### Deadlines (R133) -/

/-- The time at which the next cycle is due: its deadline where there is one, and not before the start time (R139, R141). -/
def Dev.dueAt (d : Dev) : Nat :=
  max (match (if d.paced then d.deadline else none) with
    | some x => x.toNat
    | none => 0) d.pac.start

theorem Dev.dueAt_deadline {x : Int} (hpaced : d.paced = true) (hx : d.deadline = some x) :
    d.dueAt = max x.toNat d.pac.start := by
  unfold Dev.dueAt
  rw [if_pos hpaced, hx]

theorem exec_deadlineArrival (unsure : BitVec 64) (hlive : s.live = true) (hrun : s.dev.running = true)
    (hphase : s.dev.pac.phase = .boundary) : exec (.deadlineArrival unsure) s = .next (s.withDev
      (((s.dev.tbSteps (s.dev.stepsFor (s.dev.dueAt - s.dev.now))).releaseNow unsure).usSince s.dev.now)) := by
  have harr : s.dev.deadlineArrives unsure = (s.dev.tbSteps (s.dev.stepsFor (s.dev.dueAt - s.dev.now))).releaseNow unsure :=
    if_neg (by simp [hrun, hphase])
  show s.onDev (fun _ d => d.deadline_ unsure) = _
  rw [State.onDev_live hlive, Dev.deadline_, harr]

/-- The device with the timebase at another time and no step of a correction counted. -/
def Dev.atTime (d : Dev) (tb : Nat) : Dev := d.modPac (fun p => { p with tb := tb, slew := 0 })

/-- Time alone changes neither the causes that are due, nor the next cycle and its deadline. -/
theorem Dev.atTime_samePace (d : Dev) (tb : Nat) : SamePace d (d.atTime tb) :=
  ⟨fun _ _ _ => rfl, rfl, rfl, rfl, rfl, rfl, .rfl⟩

theorem Dev.atTime_releasable (d : Dev) (tb : Nat) : (d.atTime tb).releasable = d.releasable := rfl

/-- From its due time on the next cycle may be released. -/
theorem Dev.atTime_dueNow {x : Int} {tb : Nat} (hx : d.deadline = some x) (htb : max x.toNat d.pac.start ≤ tb) :
    (d.atTime tb).dueNow = true := by
  have hstart : (d.atTime tb).pac.start ≤ (d.atTime tb).now := by
    show d.pac.start ≤ tb
    omega
  have hdeadline : x ≤ ((d.atTime tb).now : Int) := by
    show x ≤ (tb : Int)
    omega
  unfold Dev.dueNow
  rw [(d.atTime_samePace tb).deadline, hx]
  simp [hstart, hdeadline]

/-- The time at which the steps of 10 ticks that reach a time arrive. -/
def tickReach (tb due : Nat) : Nat := tb + 10 * ((due - tb + 9) / 10)

/-- With no correction left the steps of 10 ticks that are needed reach the due time. -/
theorem Dev.tbSteps_reach {due : Nat} (hadj : d.rdWord Reg.PACE_TB_ADJ = 0) (hdue : due + 10 < 2 ^ 64) (htb : d.pac.tb < 2 ^ 64) :
    d.tbSteps (d.stepsFor (due - d.now)) = d.atTime (tickReach d.pac.tb due) := by
  have hadj := Dev.tbAdj_eq_zero_iff.2 hadj
  have hnow : d.now = d.pac.tb := rfl
  rw [Dev.stepsFor_noAdj hadj (by omega), Dev.tbSteps_noAdj hadj, hnow]
  have hfit : (d.pac.tb + 10 * ((due - d.pac.tb + 9) / 10)) % 2 ^ 64 = tickReach d.pac.tb due :=
    Nat.mod_eq_of_lt (by omega)
  rw [← hfit]
  rfl

theorem le_tickReach (tb due : Nat) : due ≤ tickReach tb due := by
  unfold tickReach
  omega

/-- A release at a time from the due time on: the waves of the cycle begin, its design time shows, and time has not moved. -/
theorem Dev.releaseNow_atTime (unsure : BitVec 64) {t tb : Nat} {x : Int} (hdue : d.dueCauses = [])
    (hrel : d.releasable = true) (ht : d.nextTime = some t) (hx : d.deadline = some x) (htb : max x.toNat d.pac.start ≤ tb) :
    ((d.atTime tb).releaseNow unsure).pac.phase = .waves ∧
    ((d.atTime tb).releaseNow unsure).pair Reg.PACE_CYCLE_TIME_LO Reg.PACE_CYCLE_TIME_HI = t ∧
    KeepsTime (d.atTime tb) ((d.atTime tb).releaseNow unsure) := by
  have hsame := d.atTime_samePace tb
  have hnow := Dev.atTime_dueNow hx htb
  have hdue := hsame.dueCauses.trans hdue
  have ht := hsame.nextTime.trans ht
  obtain ⟨hphase, -, hwords⟩ := Dev.releaseNow_releases unsure hnow hdue hrel ht
  obtain ⟨htime, -⟩ := (d.atTime tb).showRelease_pairs t
  refine ⟨hphase, ?_, Dev.releaseNow_keepsTime unsure hnow hdue hrel ht⟩
  rw [Dev.pair, hwords _ (by decide) (by decide), hwords _ (by decide) (by decide), ← Dev.pair, htime,
    Nat.mod_eq_of_lt (Dev.nextTime_lt ht)]

/-! ### A schedule that is lost (R136) -/

theorem exec_scheduleLost (hlive : s.live = true) : exec .scheduleLost s = .next (s.withDev s.dev.scheduleLost) := by
  show s.onDev (fun _ d => d.scheduleLost) = _
  exact State.onDev_live hlive _

/-- What every lost schedule shows and counts, with its record; the event waits to be armed again. -/
def Dev.lostShown (d : Dev) : Dev :=
  (((d.set Reg.PACE_STATUS_lost 1).wrap Reg.PACE_LOST_COUNT_count).err 32 0 0 0x0201).modPac
    (fun p => { p with lostArmed := false })

/-- What lost_policy says follows. -/
def Dev.lostActs (d : Dev) (policy : Nat) : Dev :=
  match policy with
  | 0 => d.modPac (fun p => { p with t0 := p.t0 + d.debt, lostArmed := true })
  | 2 => d
  | _ => if d.pac.phase = .boundary then d.pacerStop 4 else d.modPac (fun p => { p with causes := withItem p.causes 4 })

theorem Dev.scheduleLost_eq (hrun : d.running = true) (hpaced : d.paced = true) (harmed : d.pac.lostArmed = true)
    (hdebt : ((max (d.get Reg.PACE_LOST_BOUND_bound) 1 * 16 : Nat) : Int) < d.debt) :
    d.scheduleLost = d.lostShown.lostActs (d.lostShown.get Reg.PACE_CTL_lost_policy) :=
  if_pos ⟨hrun, hpaced, harmed, hdebt⟩

/-- The pacer stands where it stood, at the time it was. -/
theorem Dev.lostShown_pac (d : Dev) : d.lostShown.pac.phase = d.pac.phase ∧ d.lostShown.pac.next = d.pac.next ∧
    d.lostShown.pac.t0 = d.pac.t0 ∧ d.lostShown.pac.debt = d.pac.debt ∧ d.lostShown.now = d.now := ⟨rfl, rfl, rfl, rfl, rfl⟩

theorem Dev.lostShown_rdWord (d : Dev) {a : Nat} (hs : a ≠ Reg.PACE_STATUS) (hc : a ≠ Reg.PACE_LOST_COUNT) :
    d.lostShown.rdWord a = d.rdWord a := by
  unfold Dev.lostShown Dev.wrap
  rw [Dev.modPac_rdWord, Dev.err_rdWord, Dev.rdWord_set_ne _ _ _ hc, Dev.rdWord_set_ne _ _ _ hs]

theorem Dev.lostShown_status (d : Dev) :
    d.lostShown.rdWord Reg.PACE_STATUS = (d.set Reg.PACE_STATUS_lost 1).rdWord Reg.PACE_STATUS := by
  unfold Dev.lostShown Dev.wrap
  rw [Dev.modPac_rdWord, Dev.err_rdWord, Dev.rdWord_set_ne _ _ _ (by decide)]

theorem Dev.lostShown_lost (d : Dev) : d.lostShown.on Reg.PACE_STATUS_lost = true := by
  rw [Dev.on, Dev.get_congr d.lostShown_status]
  exact Dev.on_set_self d Reg.PACE_STATUS_lost 1 (by decide)

theorem Dev.lostShown_running (d : Dev) : d.lostShown.running = d.running := by
  rw [Dev.running, Dev.on, Dev.get_congr d.lostShown_status]
  exact Dev.on_set_bits d Reg.PACE_STATUS_lost Reg.PACE_STATUS_running 1 (by decide) (.inl (by decide))

theorem Dev.lostShown_policy (d : Dev) : d.lostShown.get Reg.PACE_CTL_lost_policy = d.get Reg.PACE_CTL_lost_policy :=
  Dev.get_congr (d.lostShown_rdWord (by decide) (by decide))

/-- The edges of the ledger's clocks depend on the ledger alone. -/
theorem Dev.earliestEdge_congr (h : ∀ a, 0x20020900 ≤ a → e.rdWord a = d.rdWord a) (t : Nat) :
    e.earliestEdge t = d.earliestEdge t := by
  have hget (f : Fld) (hf : 0x20020900 ≤ f.addr) : e.get f = d.get f := Dev.get_congr (h _ hf)
  have hperiod (n : Nat) : e.clkPeriod n = d.clkPeriod n := hget _ (Nat.le_add_right _ _)
  have hrise (n : Nat) : e.clkRise n = d.clkRise n := hget _ (by show _ ≤ 0x20020904 + n * 0x10; omega)
  have hhigh (n : Nat) : e.clkHigh n = d.clkHigh n := hget _ (by show _ ≤ 0x20020908 + n * 0x10; omega)
  have henabled (n : Nat) : e.clkEnabled n = d.clkEnabled n :=
    congrArg (· != 0) (hget (Reg.PACE_DCLK_CTL_enable n) (by show _ ≤ 0x2002090c + n * 0x10; omega))
  have hlive (n : Nat) : e.clkLive n = d.clkLive n := by
    simp only [Dev.clkLive, Dev.clkValid, hperiod, hrise, hhigh, henabled]
  have hnext (n : Nat) : e.clkNextEdge n t = d.clkNextEdge n t := by
    unfold Dev.clkNextEdge Dev.clkPhase
    rw [hperiod, hrise, hhigh]
  unfold Dev.earliestEdge
  simp only [hlive, hnext]

/-- That a schedule is lost does not change its debt. -/
theorem Dev.lostShown_debt (d : Dev) : d.lostShown.debt = d.debt := by
  obtain ⟨hphase, hnext, ht0, hdebt, hnow⟩ := d.lostShown_pac
  have hpair {lo hi : Nat} (h : lo ≠ Reg.PACE_STATUS ∧ lo ≠ Reg.PACE_LOST_COUNT ∧ hi ≠ Reg.PACE_STATUS ∧ hi ≠ Reg.PACE_LOST_COUNT) :
      d.lostShown.pair lo hi = d.pair lo hi := by
    obtain ⟨hlo, hlo', hhi, hhi'⟩ := h
    rw [Dev.pair, d.lostShown_rdWord hlo hlo', d.lostShown_rdWord hhi hhi', Dev.pair]
  have hratio : d.lostShown.ratio = d.ratio := hpair (by decide)
  have hcommitted : d.lostShown.committed = d.committed := hpair (by decide)
  have hpaced : d.lostShown.paced = d.paced := congrArg (· != 1)
    (Dev.get_congr (f := Reg.PACE_CTL_mode) (d.lostShown_rdWord (by decide) (by decide)))
  have hedge (t : Nat) : d.lostShown.earliestEdge t = d.earliestEdge t := Dev.earliestEdge_congr (fun a ha =>
    d.lostShown_rdWord (by show a ≠ 0x20020008; omega) (by show a ≠ 0x2002004c; omega)) t
  have hcycle : d.lostShown.nextCycle = d.nextCycle := by
    unfold Dev.nextCycle
    rw [hcommitted, d.lostShown_running, hphase]
  have htime : d.lostShown.nextTime = d.nextTime := by
    unfold Dev.nextTime
    rw [hcycle, hnext, hedge]
  have hdeadline : d.lostShown.deadline = d.deadline := by
    simp only [Dev.deadline, Dev.deadlineTicks, htime, hratio, ht0]
  unfold Dev.debt
  rw [d.lostShown_running, hpaced, hdeadline, hdebt, hnow]

/-- Under lost_policy 0 the schedule moves by the debt. -/
theorem Dev.scheduleLost_moves (h : d.scheduleLost = d.lostShown.lostActs 0) :
    d.scheduleLost.pac.t0 = d.pac.t0 + d.debt ∧ d.scheduleLost.on Reg.PACE_STATUS_lost = true := by
  rw [h]
  refine ⟨?_, d.lostShown_lost⟩
  rw [← d.lostShown_debt]
  rfl

/-- Under lost_policy 1 the pacer stops at once where it stands at its boundary. -/
theorem Dev.scheduleLost_stops (h : d.scheduleLost = d.lostShown.lostActs 1) (hphase : d.pac.phase = .boundary) :
    d.scheduleLost.running = false ∧ d.scheduleLost.get Reg.PACE_STATUS_stop_cause = 4 := by
  have hstop : d.lostShown.lostActs 1 = d.lostShown.pacerStop 4 := if_pos hphase
  obtain ⟨hrun, hcause, -⟩ := d.lostShown.pacerStop_spec 4 (by decide)
  rw [h, hstop]
  exact ⟨hrun, hcause⟩

/-- In a cycle the stop is due at its boundary. -/
theorem Dev.scheduleLost_due (h : d.scheduleLost = d.lostShown.lostActs 1) (hphase : d.pac.phase ≠ .boundary) :
    d.scheduleLost.running = d.running ∧ d.scheduleLost.pac.causes = withItem d.pac.causes 4 := by
  have hlater : d.lostShown.lostActs 1 = d.lostShown.modPac (fun p => { p with causes := withItem p.causes 4 }) := if_neg hphase
  rw [h, hlater]
  exact ⟨d.lostShown_running, rfl⟩

/-! ### Writes of the design time and of the count of cycles (R142, R297) -/

theorem exec_paceResumeTimeWrite (hi : Bool) (v : Word)
    (h : s.reaches who (if hi then Reg.PACE_RESUME_TIME_HI else Reg.PACE_RESUME_TIME_LO)) :
    exec (.paceResumeTimeWrite who hi v) s =
      .next (s.withDev (s.dev.resumeWrite (if hi then Reg.PACE_RESUME_TIME_HI else Reg.PACE_RESUME_TIME_LO) v)) := by
  cases hi <;> simp only [reduceIte, Bool.false_eq_true] at h ⊢
  · exact State.onDev_wrPace (fun _ => v) h (by decide) (by decide)
  · exact State.onDev_wrPace (fun _ => v) h (by decide) (by decide)

theorem exec_paceCommittedWrite (hi : Bool) (v : Word)
    (h : s.reaches who (if hi then Reg.PACE_COMMITTED_HI else Reg.PACE_COMMITTED_LO)) :
    exec (.paceCommittedWrite who hi v) s =
      .next (s.withDev (s.dev.committedWrite (if hi then Reg.PACE_COMMITTED_HI else Reg.PACE_COMMITTED_LO) v)) := by
  cases hi <;> simp only [reduceIte, Bool.false_eq_true] at h ⊢
  · exact State.onDev_wrPace (fun _ => v) h (by decide) (by decide)
  · exact State.onDev_wrPace (fun _ => v) h (by decide) (by decide)

theorem Dev.resumeWrite_running (hrun : d.running = true) (a : Nat) (v : Word) : d.resumeWrite a v = d.paceRefuse := if_pos hrun

theorem Dev.resumeWrite_stopped (hrun : d.running = false) (a : Nat) (v : Word) : (d.resumeWrite a v).rdWord a = v ∧
    (d.resumeWrite a v).pac.next = (d.resumeWrite a v).pair Reg.PACE_RESUME_TIME_LO Reg.PACE_RESUME_TIME_HI := by
  unfold Dev.resumeWrite
  rw [if_neg (Bool.eq_false_iff.1 hrun)]
  dsimp only
  rw [Dev.modPac_rdWord, Dev.modPac_pair, Dev.modPac_pac]
  exact ⟨Dev.rdWord_wrWord_self d a v, rfl⟩

theorem Dev.committedWrite_running (hrun : d.running = true) (a : Nat) (v : Word) : d.committedWrite a v = d.paceRefuse :=
  if_pos hrun

theorem Dev.committedWrite_stopped (hrun : d.running = false) (a : Nat) (v : Word) : (d.committedWrite a v).rdWord a = v ∧
    (d.committedWrite a v).pac.firstSync = true ∧ (d.committedWrite a v).chan.held = [] := by
  unfold Dev.committedWrite
  rw [if_neg (Bool.eq_false_iff.1 hrun)]
  exact ⟨Dev.rdWord_wrWord_self d a v, rfl, rfl⟩

/-- Settles O20: the steps that reach a deadline are the least that do, and a release and the time that passes leave what they showed. -/
theorem deadlinesAndDesignTime : Obligations.DeadlinesAndDesignTime := by
  intro s
  refine ⟨fun unsure t x hlive hrun hphase hpaced hadj hcauses hrel hrelease ht hx => ?arrives,
    fun hlive hrun hpaced harmed hdebt => ?lost, fun who hi v h => ⟨fun hrun => ?resume, fun hrun => ?resumeRefused⟩,
    fun who hi v h => ⟨fun hrun => ?committed, fun hrun => ?committedRefused⟩,
    fun unsure hlive hrun hphase => exec_deadlineArrival unsure hlive hrun hphase, fun x hpos hlt => s.dev.stepsFor_least hpos hlt⟩
  case arrives =>
    intro due hdue htb
    have hreach := Dev.tbSteps_reach hadj hdue htb
    obtain ⟨hwaves, htime, hkeeps⟩ := Dev.releaseNow_atTime unsure hcauses hrel ht hx (le_tickReach s.dev.pac.tb due)
    obtain ⟨hpac, hwords⟩ := Dev.usSince_keeps (d := (s.dev.atTime (tickReach s.dev.pac.tb due)).releaseNow unsure) s.dev.now
      (by rw [hkeeps.pwr]; exact hrelease)
    refine ⟨_, exec_deadlineArrival unsure hlive hrun hphase, ?_⟩
    rw [State.withDev_dev, Dev.dueAt_deadline hpaced hx, hreach, hpac]
    refine ⟨hwaves, ?_, hkeeps.tb⟩
    rw [Dev.pair, hwords _ (by decide), hwords _ (by decide), ← Dev.pair, htime]
  case lost =>
    have hacts := Dev.scheduleLost_eq hrun hpaced harmed hdebt
    rw [s.dev.lostShown_policy] at hacts
    refine ⟨fun hpol => ⟨_, exec_scheduleLost hlive, ?_⟩, fun hpol hphase => ⟨_, exec_scheduleLost hlive, ?_⟩,
      fun hpol hphase => ⟨_, exec_scheduleLost hlive, ?_⟩⟩ <;> rw [hpol] at hacts
    · exact Dev.scheduleLost_moves hacts
    · exact Dev.scheduleLost_stops hacts hphase
    · obtain ⟨hrunning, hdue⟩ := Dev.scheduleLost_due hacts hphase
      exact ⟨hrunning.trans hrun, hdue⟩
  case resume => exact ⟨_, exec_paceResumeTimeWrite hi v h, Dev.resumeWrite_stopped hrun _ v⟩
  case resumeRefused =>
    rw [exec_paceResumeTimeWrite hi v h, Dev.resumeWrite_running hrun]
    rfl
  case committed => exact ⟨_, exec_paceCommittedWrite hi v h, Dev.committedWrite_stopped hrun _ v⟩
  case committedRefused =>
    rw [exec_paceCommittedWrite hi v h, Dev.committedWrite_running hrun]
    rfl

end Sys2Proof.Machine
end

section
/-! SUPPORT. The warm reset of DEV_RESET kind 0 (R435, R442, R446, R470): what holds of a device that has just left reset, and what a
TAMPER_N that is low and the boot ROM leave of it. -/

namespace Sys2Proof.Machine

variable {d e : Dev} {mode : Nat}

/-- What a device that leaves reset shows of the reset, whatever comes with it: its pins, the dies that are held, when a reset is
due, memory, the boot mode. -/
structure ResetView where
  porst : Bool
  sysrst : Bool
  held : BitVec 16
  warmAt : Option Nat
  mem : Memory
  mode : Nat

def Dev.resetView (d : Dev) : ResetView := ⟨d.pwr.porst, d.pwr.sysrst, d.pwr.held, d.fw.warmAt, d.mem, d.boot.mode⟩

/-- A device that has left reset in a boot mode: the compute dies held, the base dies free, memory gone (R446, R470). -/
def Dev.Rebooted (mode : Nat) (d : Dev) : Prop := d.resetView = ⟨true, true, 0x0FFF, none, [], mode⟩

theorem RegsOnly.resetView (h : RegsOnly d e) : e.resetView = d.resetView := by rw [h, Dev.resetView, Dev.resetView]

theorem StopOnly.resetView (h : StopOnly d e) : e.resetView = d.resetView := by rw [h, Dev.resetView, Dev.resetView]

section
variable (h : d.Rebooted mode)
include h

theorem Dev.Rebooted.mem : d.mem = [] := congrArg ResetView.mem h
theorem Dev.Rebooted.warmAt : d.fw.warmAt = none := congrArg ResetView.warmAt h
theorem Dev.Rebooted.bootMode : d.boot.mode = mode := congrArg ResetView.mode h

theorem Dev.Rebooted.inReset : d.inReset = false := by
  have hporst : d.pwr.porst = true := congrArg ResetView.porst h
  have hsysrst : d.pwr.sysrst = true := congrArg ResetView.sysrst h
  simp [Dev.inReset, hporst, hsysrst]

/-- The compute dies are held, the base dies are not. -/
theorem Dev.Rebooted.heldDie : (∀ c : Fin 12, d.heldDie c = true) ∧ (∀ b : Fin 4, d.heldDie (baseSel b) = false) := by
  have hheld : d.pwr.held = 0x0FFF := congrArg ResetView.held h
  unfold Dev.heldDie
  rw [hheld]
  decide

theorem Dev.Rebooted.congr (hsame : e.resetView = d.resetView) : e.Rebooted mode := hsame.trans h

theorem Dev.Rebooted.set (f : Fld) (n : Nat) : (d.set f n).Rebooted mode := h.congr (RegsOnly.set d f n).resetView

theorem Dev.Rebooted.hostEvent (v : Nat) : (d.hostEvent v).Rebooted mode := h.congr (d.hostEvent_stop v).resetView

theorem Dev.Rebooted.cores (l : SMap CoreState) : ({ d with cores := l } : Dev).Rebooted mode := h.congr (by simp only [Dev.resetView])

theorem Dev.Rebooted.sec (x : Sec) : ({ d with sec := x } : Dev).Rebooted mode := h.congr (by simp only [Dev.resetView])

theorem Dev.Rebooted.msec (x : Memsec) : ({ d with msec := x } : Dev).Rebooted mode := h.congr (by simp only [Dev.resetView])

end

theorem Dev.Rebooted.ite {c : Prop} [Decidable c] (hd : d.Rebooted mode) (he : e.Rebooted mode) :
    (if c then d else e).Rebooted mode := by
  split
  · exact hd
  · exact he

theorem Dev.Rebooted.each {α : Type} {f : α → Dev → Dev} (hf : ∀ x d, d.Rebooted mode → (f x d).Rebooted mode) (l : List α)
    (h : d.Rebooted mode) : (each l f d).Rebooted mode :=
  each_invariant (Dev.Rebooted mode) f l (fun x _ => hf x) d h

/-! ### A halt -/

theorem Dev.Rebooted.wake (h : d.Rebooted mode) (u : Nat) : (d.wake u).Rebooted mode := by
  unfold Dev.wake
  exact Dev.Rebooted.ite (h.congr (by simp [Dev.resetView])) h

/-- The end of a test clears a range of a memory that is empty already. -/
theorem Dev.Rebooted.granDrop (h : d.Rebooted mode) (b : Nat) : (d.granDrop b).Rebooted mode := by
  unfold Dev.granDrop
  refine Dev.Rebooted.set (h.congr ?_) _ 0
  simp only [Dev.resetView, h.mem]
  rfl

theorem Dev.Rebooted.wipeStart (h : d.Rebooted mode) (tamper : Bool) (area : WipeArea) : (d.wipeStart tamper area).Rebooted mode := by
  unfold Dev.wipeStart
  cases area with
  | granary =>
    refine Dev.Rebooted.each (fun b d hd => ?_) _ (h.sec _)
    have hw := Dev.Rebooted.each (fun g d (hd : d.Rebooted mode) => hd.wake (retGran b g)) (d.partitionRegions b) hd
    exact Dev.Rebooted.ite (hw.granDrop b) hw
  | keys => exact h.sec _
  | memsec => exact h.sec _
  | sp => exact h.sec _

theorem Dev.Rebooted.fieldsStop (h : d.Rebooted mode) : d.fieldsStop.Rebooted mode := by
  unfold Dev.fieldsStop
  exact Dev.Rebooted.ite (h.congr (by simp [Dev.resetView, Dev.showCycle])) (h.congr (by simp [Dev.resetView]))

theorem Dev.Rebooted.lanesHalt (h : d.Rebooted mode) : d.lanesHalt.Rebooted mode := by
  unfold Dev.lanesHalt
  refine Dev.Rebooted.each (fun b _ hd => Dev.Rebooted.each (fun n d hd => ?_) _ hd) _ h
  have hstate := hd.set (Reg.LCH_LINK_STATUS_state (baseSel b) n) 5
  exact Dev.Rebooted.ite (hstate.congr (by simp [Dev.resetView])) (hstate.set _ 6)

theorem Dev.Rebooted.setBlock (h : d.Rebooted mode) (m kind i : Nat) (l : List Byte) : (d.setBlock m kind i l).Rebooted mode := by
  unfold Dev.setBlock
  refine Dev.Rebooted.each (fun j d hd => ?_) _ h
  exact Dev.Rebooted.ite (hd.msec _) (hd.msec _)

theorem Dev.Rebooted.metaDrop (h : d.Rebooted mode) (p : Nat → Bool) : (d.metaDrop p).Rebooted mode := by
  unfold Dev.metaDrop
  have hback := Dev.Rebooted.each (fun (k : Nat × List Byte) d (hd : d.Rebooted mode) =>
    hd.setBlock (keyStack k.1) (keyKind k.1) (keyIdx k.1) k.2) (d.msec.dirty.filter (fun e => p e.1)) h
  exact hback.msec _

theorem Dev.Rebooted.memsecHalt (h : d.Rebooted mode) : d.memsecHalt.Rebooted mode := by
  unfold Dev.memsecHalt
  exact (Dev.Rebooted.each (fun m d hd => hd.set _ 1) _ (h.msec _)).metaDrop _

theorem Dev.Rebooted.clearKeys (h : d.Rebooted mode) : d.clearKeys.Rebooted mode := by
  unfold Dev.clearKeys
  exact h.congr (by simp [Dev.resetView])

/-- Cause, load, fields, pacer and links: no part of a halt undoes the reset. -/
theorem Dev.Rebooted.integrityHalt (h : d.Rebooted mode) (cls die unit : Nat) : (d.integrityHalt cls die unit).Rebooted mode := by
  have hcause (a : Dev) (ha : a.Rebooted mode) (c : Bool) :
      (if c then a.bump Reg.ERR_HALT_STATUS_halt_count else a.haltCause cls die unit 0).Rebooted mode :=
    Dev.Rebooted.ite (ha.set _ _) (ha.congr (by simp [Dev.resetView, Dev.haltCause]))
  have hload (a : Dev) (ha : a.Rebooted mode) :
      (if a.cfg.started then (a.set Reg.CFG_STATUS_state 0).hostEvent 19 else a).Rebooted mode :=
    Dev.Rebooted.ite ((ha.set _ 0).hostEvent 19) ha
  have hstop (a : Dev) (ha : a.Rebooted mode) :
      (if a.running then a.pacerStop 9 else a.set Reg.PACE_STATUS_stop_cause 9).Rebooted mode :=
    Dev.Rebooted.ite (ha.congr (a.pacerStop_stop 9).resetView) (ha.set _ 9)
  unfold Dev.integrityHalt
  refine Dev.Rebooted.ite (h.set _ _) ?_
  refine (hstop _ (Dev.Rebooted.fieldsStop ?_)).lanesHalt.memsecHalt.clearKeys
  refine (hload _ (hcause _ (h.set Reg.ERR_HALT_STATUS_halted 1) (d.on Reg.ERR_HALT_STATUS_cause_valid))).congr ?_
  simp [Dev.resetView, Dev.report]

/-- A tamper event, of a TAMPER_N that is low when the device leaves reset too (R435), undoes nothing of the reset. -/
theorem Dev.Rebooted.tamper (h : d.Rebooted mode) (i : Nat) : (d.tamper i).Rebooted mode := by
  have hpin : (if i = 0 then { d with sec := { d.sec with tamperPin := false } } else d).Rebooted mode := Dev.Rebooted.ite (h.sec _) h
  unfold Dev.tamper
  generalize (if i = 0 then _ else d) = a at hpin ⊢
  refine Dev.Rebooted.ite hpin ?_
  extract_lets seen wiped held core core0 stopped sec halting
  have hseen : seen.Rebooted mode := hpin.congr (RegsOnly.setBit a Reg.SEC_TAMPER_STATUS_seen i true).resetView
  have hwiped : wiped.Rebooted mode :=
    (((hseen.wipeStart true .keys).wipeStart true .memsec).wipeStart true .granary).wipeStart true .sp
  have hheld : held.Rebooted mode := hwiped.set Reg.SEC_STATUS_core0_held 1
  have hstopped : stopped.Rebooted mode := hheld.cores _
  have hhalting : halting.Rebooted mode := Dev.Rebooted.ite ((hstopped.sec _).set Reg.LC_REQ_STATUS_busy 0) hstopped
  exact Dev.Rebooted.ite (hstopped.sec _) (hhalting.integrityHalt _ 32 0)

/-! ### Out of reset (R395, R442, R446, R470) -/

theorem Dev.clockOn_regs (d : Dev) (sel node : Nat) : RegsOnly d (d.clockOn sel node) := by
  have hon : RegsOnly d (d.setBit ⟨Reg.CLK_GATE_EN sel, 0, 16⟩ node true) := RegsOnly.setBit d _ node true
  unfold Dev.clockOn
  extract_lets e
  split
  · exact hon.trans (RegsOnly.setBit e _ 1 true)
  · split
    · exact hon.trans (RegsOnly.setBit e _ 2 true)
    · exact hon

/-- A bank that is enabled changes registers alone. -/
theorem Dev.bankCtl_on_regs (d : Dev) (k : Nat) : RegsOnly d (d.bankCtl k 1) := by
  unfold Dev.bankCtl
  extract_lets sel j was
  rw [if_pos (by decide)]
  split
  · exact RegsOnly.refl d
  · exact ((RegsOnly.set d _ 1).trans (RegsOnly.set _ _ 1)).trans (Dev.clockOn_regs _ _ _)

theorem Dev.helloFill_regs (d : Dev) (fz : Fuses) (hops : Nat) : RegsOnly d (d.helloFill fz hops) := by
  unfold Dev.helloFill
  exact RegsOnly.each _ (fun b d => RegsOnly.each _ (fun i d => RegsOnly.wrWord d _ _) _ d) _ d

theorem Dev.romLanes_regs (d : Dev) (fz : Fuses) : RegsOnly d (d.romLanes fz) := by
  unfold Dev.romLanes
  split
  · exact RegsOnly.refl d
  · refine ((d.helloFill_regs fz 0xFF).trans (RegsOnly.each _ (fun b e => ?_) _ _)).trans
      (RegsOnly.each _ (fun k e => e.bankCtl_on_regs k) _ _)
    exact RegsOnly.wrWord e _ _

/-- Lanes are the ROM's in mode MANAGER only. -/
theorem Dev.romLanes_otherMode {fz : Fuses} (h : d.boot.mode ≠ 2) : d.romLanes fz = d := if_pos h

/-- The device before it leaves reset: the base dies free, the tamper enables as fused. -/
def Dev.readyToLeave (d : Dev) (fz : Fuses) : Dev :=
  ({ d with pwr := { d.pwr with held := 0x0FFF }, host := { d.host with linkUp := true } } : Dev).set Reg.SEC_TAMPER_EN_enable
    fz.tamper.toNat

theorem Dev.leaveReset_eq (d : Dev) (fz : Fuses) : d.leaveReset fz =
    if (d.readyToLeave fz).bit Reg.SEC_TAMPER_EN_enable 0 ∧ ¬ (d.readyToLeave fz).sec.tamperPin then (d.readyToLeave fz).tamper 0
    else d.readyToLeave fz := by
  unfold Dev.leaveReset Dev.readyToLeave
  rfl

theorem Dev.leaveReset_rebooted {fz : Fuses} (hporst : d.pwr.porst = true) (hsysrst : d.pwr.sysrst = true) (hwarm : d.fw.warmAt = none)
    (hmem : d.mem = []) : (d.leaveReset fz).Rebooted d.boot.mode := by
  have hready : (d.readyToLeave fz).Rebooted d.boot.mode := by
    unfold Dev.Rebooted Dev.readyToLeave
    simp [Dev.resetView, hporst, hsysrst, hwarm, hmem]
  rw [Dev.leaveReset_eq]
  exact Dev.Rebooted.ite (hready.tamper 0) hready

/-- With TAMPER_N high nothing halts a device as it leaves reset (R435). -/
theorem Dev.leaveReset_high {fz : Fuses} (h : d.sec.tamperPin = true) : d.leaveReset fz = d.readyToLeave fz := by
  have hpin : (d.readyToLeave fz).sec.tamperPin = true := h
  rw [Dev.leaveReset_eq, if_neg (by simp [hpin])]

/-- The device that a pulse of SYSRST_N leaves, its pins high again. -/
def Dev.afterSysrst (d : Dev) (pin : Bool) : Dev :=
  { d.warm.set Reg.ERR_HALT_STATUS_halted 0 with pwr := { d.warm.pwr with sysrst := true }, sec := { d.warm.sec with tamperPin := pin } }

theorem Dev.sysrst_pulse {fz : Fuses} {pin : Bool} (h : d.pwr.porst = true) :
    d.sysrstAssert.sysrstRelease fz pin = (d.afterSysrst pin).leaveReset fz := by
  have hassert : d.sysrstAssert = { d.warm.set Reg.ERR_HALT_STATUS_halted 0 with pwr := { d.warm.pwr with sysrst := false } } := by
    unfold Dev.sysrstAssert
    rw [if_neg (by simp [h])]
    rfl
  have hporst : d.warm.pwr.porst = true := h
  rw [hassert]
  unfold Dev.sysrstRelease
  dsimp only
  rw [if_neg (by simp), if_pos hporst]
  rfl

section
variable {s : State}

theorem exec_warmResetDelay (h : s.live = true) : exec .warmResetDelay s = .next (s.withDev (s.dev.warmReset s.fuses)) := by
  show s.onDev (fun fz d => d.warmReset fz) = _
  exact State.onDev_live h _

theorem Dev.warmReset_none {fz : Fuses} (h : d.fw.warmAt = none) : d.warmReset fz = d := by
  unfold Dev.warmReset
  rw [h]

variable {t : Nat} {fz : Fuses} (h : d.fw.warmAt = some t)
include h

theorem Dev.warmReset_early (ht : d.now < t + 16000000) : d.warmReset fz = d := by
  unfold Dev.warmReset
  rw [h]
  exact if_pos ht

theorem Dev.warmReset_due (hporst : d.pwr.porst = true) (ht : t + 16000000 ≤ d.now) :
    d.warmReset fz = ((d.afterSysrst d.sec.tamperPin).leaveReset fz).romLanes fz := by
  have hlate : ¬ d.now < t + 1000 * ticksPerUs := Nat.not_lt.2 ht
  unfold Dev.warmReset
  rw [h]
  dsimp only
  rw [if_neg hlate, Dev.sysrst_pulse hporst]

/-- The reset gives a device as it leaves reset, in the boot mode of before. -/
theorem Dev.warmReset_rebooted (hporst : d.pwr.porst = true) (ht : t + 16000000 ≤ d.now) : (d.warmReset fz).Rebooted d.boot.mode := by
  have hleft : ((d.afterSysrst d.sec.tamperPin).leaveReset fz).Rebooted (d.afterSysrst d.sec.tamperPin).boot.mode :=
    Dev.leaveReset_rebooted hporst rfl rfl rfl
  rw [Dev.warmReset_due h hporst ht]
  exact hleft.congr (Dev.romLanes_regs _ fz).resetView

/-- With TAMPER_N high, in a mode without a ROM that brings up lanes, the reset keeps the error records and ends a halt. -/
theorem Dev.warmReset_keeps (hporst : d.pwr.porst = true) (ht : t + 16000000 ≤ d.now) (hpin : d.sec.tamperPin = true)
    (hmode : d.boot.mode ≠ 2) : (d.warmReset fz).errs = d.errs ∧ (d.warmReset fz).halted = false := by
  have hleft : (d.afterSysrst d.sec.tamperPin).leaveReset fz = (d.afterSysrst d.sec.tamperPin).readyToLeave fz :=
    Dev.leaveReset_high hpin
  have hmode' : ((d.afterSysrst d.sec.tamperPin).readyToLeave fz).boot.mode ≠ 2 := hmode
  rw [Dev.warmReset_due h hporst ht, hleft, Dev.romLanes_otherMode hmode']
  refine ⟨rfl, ?_⟩
  unfold Dev.readyToLeave Dev.halted
  rw [Dev.on_set_addr _ _ _ _ (by decide)]
  exact Dev.on_set_self _ _ _ (by decide)

end

end Sys2Proof.Machine
end

section
/-! SUPPORT. The DEV, LOAD and RUN commands of service firmware 3.2 (chapter 12): how a command that may start runs by its body, then
each command. -/

namespace Sys2Proof.Machine

variable {d e : Dev} {fz : Fuses} {s : State} {m op : Nat} {x : Desc}

/-! ### Commands that may start (R407, R408, R416) -/

/-- A command that passes the checks common to all is not one to answer BUSY. -/
theorem Dev.cmdGate_busy (h : d.cmdGate fz m x = none) : x.busy = false := by
  refine Bool.eq_false_iff.2 (fun hb => ?_)
  have hbusy : d.cmdGate fz m x = some 0x104 := if_pos hb
  rw [hbusy] at h
  cases h

section
variable (h : s.starts m op x) {i : Instr} (cmd : Fuses → Dev → Dev) (hexec : exec i s = s.onDev cmd)
include h hexec

/-- A short command that may start answers what its body answers. -/
theorem State.starts.answers {body : Desc → Dev → Except Dev Ans} (hcmd : cmd s.fuses s.dev = s.dev.short s.fuses m op body)
    {st : Nat} {r : List Word} (hbody : body x s.dev = .ok { st := st, r := r, dev := e }) :
    exec i s = .next (s.withDev (e.answer m x st r)) := by
  obtain ⟨hlive, hurgent, hnext, hgate⟩ := h
  have hfirst := urgentFirst_none hurgent
  have hrun := short_ok (d := s.dev) (fz := s.fuses) (by rwa [hfirst]) (by rwa [hfirst]) (by rw [hfirst]; exact hbody)
  rw [hexec, State.onDev_live hlive, hcmd, hrun]
  rfl

/-- A long command that may start starts the job that its body gives. -/
theorem State.starts.job {body : Desc → Dev → Except Dev (Job × Dev)} (hcmd : cmd s.fuses s.dev = s.dev.long s.fuses m op body)
    {j : Job} (hbody : body x s.dev = .ok (j, e)) : exec i s = .next (s.withDev (e.startJob s.fuses m j)) := by
  obtain ⟨hlive, hurgent, hnext, hgate⟩ := h
  have hfirst := urgentFirst_none hurgent
  rw [hexec, State.onDev_live hlive, hcmd,
    long_ok (d := s.dev) (fz := s.fuses) (by rwa [hfirst]) (by rwa [hfirst]) (by rw [hfirst]; exact hbody)]

variable {body : Desc → Dev → Except Dev Ans} (hcmd : cmd s.fuses s.dev = s.dev.either s.fuses m op body)
include hcmd

/-- A RUN command that is long ends with what its body answers, once the wait is over that it gives. -/
theorem State.starts.runJob (hlong : x.long = true) {a : Ans} (hbody : body x s.dev = .ok a) : exec i s = .next (s.withDev
    (a.dev.startJob s.fuses m { desc := x, status := a.st, r := a.r, unitKind := a.unit, wait := a.wait })) := by
  have ⟨_, hurgent, hnext, hgate⟩ := h
  exact h.job cmd hexec (hcmd.trans (either_long hurgent hnext hlong (Dev.cmdGate_busy hgate))) (by rw [hbody]; rfl)

/-- A RUN command with nothing to wait for: short, it answers what its body answers; long, its job ends with it. -/
theorem State.starts.run {st : Nat} {r : List Word} (hbody : body x s.dev = .ok { st := st, r := r, dev := e }) :
    (x.long = false → exec i s = .next (s.withDev (e.answer m x st r))) ∧
    (x.long = true → exec i s = .next (s.withDev (e.startJob s.fuses m { desc := x, status := st, r := r }))) := by
  refine ⟨fun hshort => ?_, fun hlong =>
    h.runJob cmd hexec hcmd hlong (a := { st := st, r := r, dev := e }) hbody⟩
  have ⟨_, hurgent, hnext, _⟩ := h
  exact h.answers cmd hexec (hcmd.trans (either_short hurgent hnext hshort)) hbody

/-- A long RUN command that a manager broadcasts keeps its job until the broadcast is confirmed. -/
theorem State.starts.broadcasts (hlong : x.long = true) (hbody : body x s.dev = .ok { wait := .cluster, dev := e }) :
    exec i s = .next (s.withDev (e.startJob s.fuses m { desc := x, wait := .cluster })) :=
  h.runJob cmd hexec hcmd hlong (a := { wait := .cluster, dev := e }) hbody

end

/-! ### DEV_INFO and DEV_RESET -/

section
variable {m : Fin 17}

theorem exec_devInfo (h : s.starts m 0x0101 x) : exec (.devInfo m) s = .next (s.withDev (s.dev.answer m x 0
    [s.dev.rdWord Reg.ID_FW_VERSION, deviceFeatures, s.dev.liveWord s.fuses Reg.ID_STATE,
      BitVec.ofNat 32 s.fuses.serial.toNat, BitVec.ofNat 32 (s.fuses.serial.toNat / 2 ^ 32)])) :=
  h.answers (fun fz d => d.fwDevInfo fz m) rfl rfl rfl

section
variable (h : s.starts m 0x0102 x)
include h

theorem exec_devReset_warm (hkind : x.par 0 1 = 0) :
    exec (.devReset m) s = .next (s.withDev (s.dev.startJob s.fuses m { desc := x, wait := .warm })) := by
  refine h.job (fun fz d => d.fwDevReset fz m) rfl rfl ?_
  dsimp only
  rw [hkind]
  rfl

theorem exec_devReset_field {f : Fin 384} (hkind : x.par 0 1 = 2) (hsel : x.par 4 2 = f)
    (hfield : s.dev.noField s.fuses m f = false) (hdie : s.dev.noWorld s.fuses m (Reg.PWR_FLD_RESET (dieOf f)) = false) :
    exec (.devReset m) s = .next (s.withDev ((s.dev.regPut s.fuses (mbWho s.fuses m) (Reg.PWR_FLD_RESET (dieOf f))
      (BitVec.ofNat 32 (2 ^ idxOf f))).startJob s.fuses m { desc := x, wait := .fieldReset f })) := by
  refine h.job (fun fz d => d.fwDevReset fz m) rfl rfl ?_
  dsimp only
  rw [hkind, hsel]
  exact (if_neg (by omega)).trans (if_neg (by simp [hfield, hdie]))

theorem exec_devReset_noField (hkind : x.par 0 1 = 2) (hsel : 384 ≤ x.par 4 2) :
    exec (.devReset m) s = .next (s.withDev (s.dev.startJob s.fuses m (refuse x 0x101))) := by
  refine h.job (fun fz d => d.fwDevReset fz m) rfl rfl ?_
  dsimp only
  rw [hkind]
  exact if_pos hsel

theorem exec_devReset_die {i : Fin 16} (hkind : x.par 0 1 = 1) (hsel : x.par 4 2 = dieSel i)
    (hworld : s.dev.noWorld s.fuses m Reg.PWR_DIE_RESET = false) :
    exec (.devReset m) s = .next (s.withDev ((s.dev.regPut s.fuses (mbWho s.fuses m) Reg.PWR_DIE_RESET
      (BitVec.ofNat 32 (setBits (s.dev.rdWord Reg.PWR_DIE_RESET) (dieSel i) 1 1).toNat)).startJob s.fuses m
        { desc := x, wait := if (s.dev.rdWord Reg.PWR_DIE_RESET).getLsbD (dieSel i) then .none else .dieReset (dieSel i) })) := by
  have hdie : dieSel i ≤ 11 ∨ (16 ≤ dieSel i ∧ dieSel i ≤ 19) := by
    unfold dieSel
    split <;> omega
  refine h.job (fun fz d => d.fwDevReset fz m) rfl rfl ?_
  dsimp only
  rw [hkind, hsel]
  exact (if_neg (not_not_intro hdie)).trans (if_neg (Bool.eq_false_iff.1 hworld))

theorem exec_devReset_block (hkind : x.par 0 1 = 3) (hblock : s.dev.blockReset (x.par 4 1) (x.par 5 1) = some e)
    (hworld : s.dev.noWorld s.fuses m (x.par 4 1 * 0x1000000 + x.par 5 1 * 0x10000) = false) :
    exec (.devReset m) s = .next (s.withDev (e.startJob s.fuses m { desc := x })) := by
  refine h.job (fun fz d => d.fwDevReset fz m) rfl rfl ?_
  dsimp only
  rw [hkind, hblock]
  exact if_neg (Bool.eq_false_iff.1 hworld)

theorem exec_devReset_noBlock (hkind : x.par 0 1 = 3) (hblock : s.dev.blockReset (x.par 4 1) (x.par 5 1) = none) :
    exec (.devReset m) s = .next (s.withDev (s.dev.startJob s.fuses m (refuse x 0x101))) := by
  refine h.job (fun fz d => d.fwDevReset fz m) rfl rfl ?_
  dsimp only
  rw [hkind, hblock]
  rfl

theorem exec_devReset_noKind (hkind : 3 < x.par 0 1) :
    exec (.devReset m) s = .next (s.withDev (s.dev.startJob s.fuses m (refuse x 0x101))) := by
  obtain ⟨k, hk⟩ := Nat.exists_eq_add_of_lt hkind
  refine h.job (fun fz d => d.fwDevReset fz m) rfl rfl ?_
  dsimp only
  rw [hk, Nat.add_right_comm, Nat.add_comm]
  rfl

end

/-! ### DEV_REG_READ and DEV_REG_WRITE (R38, R39, R41) -/

theorem Dev.whoSecure_mbWho (d : Dev) (fz : Fuses) (m : Nat) : d.whoSecure (mbWho fz m) = fz.mbxSecure m := by
  unfold mbWho
  cases fz.mbxSecure m <;> rfl

/-- The gate of an access that is no bus error lets its world through. -/
theorem Dev.regGate_world {w : Who} {a : Nat} (h : (d.regGate w a).1 ≠ some true) : d.regAllowed a (d.whoSecure w) = true := by
  cases hworld : d.regAllowed a (d.whoSecure w) with
  | true => rfl
  | false =>
    refine absurd ?_ h
    unfold Dev.regGate
    dsimp only
    split
    · rfl
    · split
      · rfl
      · rw [if_pos (by simp [hworld])]

theorem Dev.noWorld_of_gate {m a : Nat} (h : (d.regGate (mbWho fz m) a).1 ≠ some true) : d.noWorld fz m a = false := by
  have hworld := Dev.regGate_world h
  rw [Dev.whoSecure_mbWho] at hworld
  simp [Dev.noWorld, hworld]

/-- An access to a block that is not present is a bus error, and changes no memory. -/
theorem Dev.regGate_noBlock {w : Who} {a : Nat} (h : blockPresent a = false) :
    (d.regGate w a).1 = some true ∧ (d.regGate w a).2.mem = d.mem := by
  unfold Dev.regGate
  dsimp only
  split
  · exact ⟨rfl, rfl⟩
  · rw [if_pos (by simp [h])]
    exact ⟨rfl, rfl⟩

theorem Dev.regAccessRead_passed {w : Who} {a : Nat} (ha : a % 4 = 0) (h : d.regGate w a = (none, d)) :
    d.regAccessRead fz w a = (some (d.regRead fz a).1, (d.regRead fz a).2) := by
  have hword : a / 4 * 4 = a := by omega
  unfold Dev.regAccessRead
  rw [h, hword]

theorem Dev.regAccessRead_held {w : Who} {a : Nat} (h : d.regGate w a = (some false, d)) : d.regAccessRead fz w a = (some 0, d) := by
  unfold Dev.regAccessRead
  rw [h]

theorem Dev.regAccessWrite_passed {w : Who} {a : Nat} (v : Word) (ha : a % 4 = 0) (h : d.regGate w a = (none, d)) :
    d.regAccessWrite fz w a v = (true, d.regWrite fz w a v) := by
  have hword : a / 4 * 4 = a := by omega
  unfold Dev.regAccessWrite
  rw [h, hword]

theorem Dev.regAccessWrite_held {w : Who} {a : Nat} (v : Word) (h : d.regGate w a = (some false, d)) :
    d.regAccessWrite fz w a v = (true, d) := by
  unfold Dev.regAccessWrite
  rw [h]
  rfl

section
variable {w : Who} {a : Nat} (h : blockPresent a = false)
include h

theorem Dev.regAccessRead_noBlock : ∃ e, d.regAccessRead fz w a = (none, e) ∧ e.mem = d.mem := by
  obtain ⟨hbus, hmem⟩ := d.regGate_noBlock (w := w) h
  have hgate : d.regGate w a = (some true, (d.regGate w a).2) := Prod.ext hbus rfl
  unfold Dev.regAccessRead
  rw [hgate]
  exact ⟨_, rfl, hmem⟩

theorem Dev.regAccessWrite_noBlock (v : Word) : ∃ e, d.regAccessWrite fz w a v = (false, e) ∧ e.mem = d.mem := by
  obtain ⟨hbus, hmem⟩ := d.regGate_noBlock (w := w) h
  have hgate : d.regGate w a = (some true, (d.regGate w a).2) := Prod.ext hbus rfl
  unfold Dev.regAccessWrite
  rw [hgate]
  exact ⟨_, rfl, hmem⟩

end

theorem StopOnly.mem (h : StopOnly d e) : e.mem = d.mem := by rw [h]

/-- Taking the error records leaves memory alone. -/
theorem Dev.logPoll_mem (d : Dev) : d.logPoll.mem = d.mem := by
  have hevent (e : Dev) (b : Bool) (v : Nat) : (if b then e.hostEvent v else e).mem = e.mem := by
    split
    · exact (e.hostEvent_stop v).mem
    · rfl
  unfold Dev.logPoll
  split
  · rfl
  · exact (hevent _ _ 17).trans ((hevent _ _ 16).trans rfl)

/-- A DEVICE_ERROR of an operation that leaves memory alone leaves it alone. -/
theorem Dev.failed_spec {run : Dev → Dev} (h : ∀ d, (run d).mem = d.mem) :
    ∃ (w : Word) (e : Dev), d.failed run = { st := 0x201, r := [w], dev := e } ∧ e.mem = d.mem :=
  ⟨_, _, rfl, (Dev.logPoll_mem _).trans ((h _).trans d.logPoll_mem)⟩

section
variable (h : s.starts m 0x0103 x)
include h

theorem exec_devRegRead_misaligned (ha : x.par 0 4 % 4 ≠ 0) :
    exec (.devRegRead m) s = .next (s.withDev (s.dev.answer m x 0x101 [])) :=
  h.answers (fun fz d => d.fwRegRead fz m) rfl rfl (if_pos ha)

theorem exec_devRegRead_noWorld (ha : x.par 0 4 % 4 = 0) (hb : blockPresent (x.par 0 4) = true)
    (hw : s.dev.noWorld s.fuses m (x.par 0 4) = true) :
    exec (.devRegRead m) s = .next (s.withDev (s.dev.answer m x 0x102 [])) :=
  h.answers (fun fz d => d.fwRegRead fz m) rfl rfl ((if_neg (not_not_intro ha)).trans (if_pos ⟨hb, hw⟩))

/-- A read that its checks do not turn into a bus error answers the value that the access gives. -/
theorem exec_devRegRead_reads {v : Word} (ha : x.par 0 4 % 4 = 0) (hw : s.dev.noWorld s.fuses m (x.par 0 4) = false)
    (hread : s.dev.regAccessRead s.fuses (mbWho s.fuses m) (x.par 0 4) = (some v, e)) :
    exec (.devRegRead m) s = .next (s.withDev (e.answer m x 0 [v])) := by
  refine h.answers (fun fz d => d.fwRegRead fz m) rfl rfl
    ((if_neg (not_not_intro ha)).trans ((if_neg (fun hb => Bool.eq_false_iff.1 hw hb.2)).trans ?_))
  rw [hread]

theorem exec_devRegRead_noBlock (ha : x.par 0 4 % 4 = 0) (hb : blockPresent (x.par 0 4) = false) :
    ∃ (w : Word) (e : Dev), exec (.devRegRead m) s = .next (s.withDev (e.answer m x 0x201 [w])) ∧ e.mem = s.dev.mem := by
  have hrun (d : Dev) : (d.regAccessRead s.fuses (mbWho s.fuses m) (x.par 0 4)).2.mem = d.mem := by
    obtain ⟨e, he, hmem⟩ := d.regAccessRead_noBlock (fz := s.fuses) (w := mbWho s.fuses m) hb
    rw [he]
    exact hmem
  obtain ⟨w, e, hfailed, hmem⟩ := s.dev.failed_spec hrun
  obtain ⟨_, hread, -⟩ := s.dev.regAccessRead_noBlock (fz := s.fuses) (w := mbWho s.fuses m) hb
  refine ⟨w, e, h.answers (fun fz d => d.fwRegRead fz m) rfl rfl
    ((if_neg (not_not_intro ha)).trans ((if_neg (fun hp => Bool.eq_false_iff.1 hb hp.1)).trans ?_)), hmem⟩
  rw [hread]
  exact congrArg Except.ok hfailed

end

section
variable (h : s.starts m 0x0104 x)
include h

theorem exec_devRegWrite_misaligned (ha : x.par 0 4 % 4 ≠ 0) :
    exec (.devRegWrite m) s = .next (s.withDev (s.dev.answer m x 0x101 [])) :=
  h.answers (fun fz d => d.fwRegWrite fz m) rfl rfl (if_pos ha)

theorem exec_devRegWrite_noWorld (ha : x.par 0 4 % 4 = 0) (hb : blockPresent (x.par 0 4) = true)
    (hw : s.dev.noWorld s.fuses m (x.par 0 4) = true) :
    exec (.devRegWrite m) s = .next (s.withDev (s.dev.answer m x 0x102 [])) :=
  h.answers (fun fz d => d.fwRegWrite fz m) rfl rfl ((if_neg (not_not_intro ha)).trans (if_pos ⟨hb, hw⟩))

/-- A write that its checks do not turn into a bus error answers DONE after the access. -/
theorem exec_devRegWrite_writes (ha : x.par 0 4 % 4 = 0) (hw : s.dev.noWorld s.fuses m (x.par 0 4) = false)
    (hwrite : s.dev.regAccessWrite s.fuses (mbWho s.fuses m) (x.par 0 4) (word (x.par 4 4)) = (true, e)) :
    exec (.devRegWrite m) s = .next (s.withDev (e.answer m x 0 [])) := by
  refine h.answers (fun fz d => d.fwRegWrite fz m) rfl rfl
    ((if_neg (not_not_intro ha)).trans ((if_neg (fun hb => Bool.eq_false_iff.1 hw hb.2)).trans ?_))
  rw [hwrite]

theorem exec_devRegWrite_noBlock (ha : x.par 0 4 % 4 = 0) (hb : blockPresent (x.par 0 4) = false) :
    ∃ (w : Word) (e : Dev), exec (.devRegWrite m) s = .next (s.withDev (e.answer m x 0x201 [w])) ∧ e.mem = s.dev.mem := by
  have hrun (d : Dev) : (d.regAccessWrite s.fuses (mbWho s.fuses m) (x.par 0 4) (word (x.par 4 4))).2.mem = d.mem := by
    obtain ⟨e, he, hmem⟩ := d.regAccessWrite_noBlock (fz := s.fuses) (w := mbWho s.fuses m) hb (word (x.par 4 4))
    rw [he]
    exact hmem
  obtain ⟨w, e, hfailed, hmem⟩ := s.dev.failed_spec hrun
  obtain ⟨_, hwrite, -⟩ := s.dev.regAccessWrite_noBlock (fz := s.fuses) (w := mbWho s.fuses m) hb (word (x.par 4 4))
  refine ⟨w, e, h.answers (fun fz d => d.fwRegWrite fz m) rfl rfl
    ((if_neg (not_not_intro ha)).trans ((if_neg (fun hp => Bool.eq_false_iff.1 hb hp.1)).trans ?_)), hmem⟩
  rw [hwrite]
  exact congrArg Except.ok hfailed

end

/-! ### LOAD commands (R324, R338, R347, R414, R419) -/

/-- The device with a LOAD session opened. -/
def Dev.openLoad (d : Dev) (m : Nat) : Dev :=
  { d with fw := { d.fw with sessions := d.fw.sessions ++ [{ num := d.fw.nextSession, mb := m, capture := false }],
                             nextSession := d.fw.nextSession + 1 } }

section
variable (h : s.starts m 0x0201 x)
include h

theorem exec_loadOpen_badPath (hpath : 3 < x.par 0 1) :
    exec (.loadOpen m) s = .next (s.withDev (s.dev.answer m x 0x101 [])) :=
  h.answers (fun fz d => d.fwLoadOpen fz m) rfl rfl (if_pos hpath)

theorem exec_loadOpen_notManager (hpath : x.par 0 1 = 1) (hrole : s.dev.role ≠ 1) :
    exec (.loadOpen m) s = .next (s.withDev (s.dev.answer m x 0x103 [])) :=
  h.answers (fun fz d => d.fwLoadOpen fz m) rfl rfl ((if_neg (by omega)).trans (if_pos ⟨hpath, hrole⟩))

section
variable (hpath : x.par 0 1 ≤ 3) (hrole : x.par 0 1 = 1 → s.dev.role = 1)
include hpath hrole

theorem exec_loadOpen_open (hopen : s.dev.loadOpen = true) :
    exec (.loadOpen m) s = .next (s.withDev (s.dev.answer m x 0x105 [])) :=
  h.answers (fun fz d => d.fwLoadOpen fz m) rfl rfl ((if_neg (by omega)).trans ((if_neg (fun ⟨hp, hr⟩ => hr (hrole hp))).trans
    (if_pos hopen)))

variable (hopen : s.dev.loadOpen = false) (hheld : s.dev.heldBy (fun j => j.desc.op == 0x0402) = false)
  (hworld : s.dev.noWorld s.fuses m Reg.CFG_CTL = false)
include hopen hheld hworld

theorem exec_loadOpen_streaming (hstream : s.dev.streaming = true) :
    exec (.loadOpen m) s = .next (s.withDev (s.dev.answer m x 0x103 [])) :=
  h.answers (fun fz d => d.fwLoadOpen fz m) rfl rfl ((if_neg (by omega)).trans ((if_neg (fun ⟨hp, hr⟩ => hr (hrole hp))).trans
    ((if_neg (Bool.eq_false_iff.1 hopen)).trans ((if_neg (Bool.eq_false_iff.1 hheld)).trans
      ((if_neg (Bool.eq_false_iff.1 hworld)).trans (if_pos hstream))))))

/-- LOAD_OPEN sets the path, then arms the front end, and opens the session. -/
theorem exec_loadOpen_arms (hstream : s.dev.streaming = false) (hpre : e = (s.dev.fwWrite s.fuses m Reg.CFG_CTL (x.par 0 1)).fwWrite
    s.fuses m Reg.CFG_CTL (x.par 0 1 + 4)) :
    exec (.loadOpen m) s = .next (s.withDev ((e.openLoad m).answer m x 0 [BitVec.ofNat 32 e.fw.nextSession])) := by
  refine h.answers (fun fz d => d.fwLoadOpen fz m) rfl rfl ((if_neg (by omega)).trans ((if_neg (fun ⟨hp, hr⟩ => hr (hrole hp))).trans
    ((if_neg (Bool.eq_false_iff.1 hopen)).trans ((if_neg (Bool.eq_false_iff.1 hheld)).trans
      ((if_neg (Bool.eq_false_iff.1 hworld)).trans ((if_neg (Bool.eq_false_iff.1 hstream)).trans ?_))))))
  rw [hpre]
  rfl

end

end

section
variable (h : s.starts m 0x0202 x)
include h

theorem exec_loadData_noSession (hs : s.dev.session m x.session false = none) :
    exec (.loadData m) s = .next (s.withDev (s.dev.startJob s.fuses m (refuse x 0x101))) :=
  h.job (fun fz d => d.fwLoadData fz m) rfl rfl (congrArg (fun j => Except.ok (j, s.dev)) (if_pos (.inl (by rw [hs]; rfl))))

variable {y : Session} (hs : s.dev.session m x.session false = some y) (hlen : x.par 8 4 % 4 = 0)
include hs hlen

theorem exec_loadData_notByHost (hpath : s.dev.get Reg.CFG_CTL_path ≠ 0) :
    exec (.loadData m) s = .next (s.withDev (s.dev.startJob s.fuses m (refuse x 0x103))) :=
  h.job (fun fz d => d.fwLoadData fz m) rfl rfl (congrArg (fun j => Except.ok (j, s.dev))
    ((if_neg (by simp [hs, hlen])).trans (if_pos hpath)))

theorem exec_loadData_moves (hpath : s.dev.get Reg.CFG_CTL_path = 0) :
    exec (.loadData m) s = .next (s.withDev (s.dev.startJob s.fuses m
      { desc := x, total := (x.par 8 4 + 0x3FFFFF) / 0x400000, wait := .loadData (x.par 0 8) (x.par 8 4) 0 })) :=
  h.job (fun fz d => d.fwLoadData fz m) rfl rfl (congrArg (fun j => Except.ok (j, s.dev))
    ((if_neg (by simp [hs, hlen])).trans (if_neg (not_not_intro hpath))))

end

theorem exec_loadClose_noSession (h : s.starts m 0x0203 x) (hs : s.dev.session m x.session false = none) :
    exec (.loadClose m) s = .next (s.withDev (s.dev.startJob s.fuses m (refuse x 0x101))) :=
  h.job (fun fz d => d.fwLoadClose fz m) rfl rfl (if_pos (by rw [hs]; rfl))

theorem exec_loadClose_ends (h : s.starts m 0x0203 x) {y : Session} (hs : s.dev.session m x.session false = some y) :
    exec (.loadClose m) s = .next (s.withDev ((if s.dev.streaming = true ∨ s.dev.get Reg.CFG_STATUS_state = 1 then s.dev.pathEnd
      else s.dev).startJob s.fuses m { desc := x, wait := .loadClose })) :=
  h.job (fun fz d => d.fwLoadClose fz m) rfl rfl (if_neg (by simp [hs]))

theorem exec_loadStatus (h : s.starts m 0x0204 x) (hworld : s.dev.noWorld s.fuses m Reg.CFG_CTL = false) :
    exec (.loadStatus m) s = .next (s.withDev ((s.dev.fwReads s.fuses m loadRegs).2.answer m x 0
      (s.dev.fwReads s.fuses m loadRegs).1)) :=
  h.answers (fun fz d => d.fwLoadStatus fz m) rfl rfl (if_neg (Bool.eq_false_iff.1 hworld))

theorem exec_loadRestart (h : s.starts m 0x0205 x) (hworld : s.dev.noWorld s.fuses m Reg.CFG_CTL = false) :
    exec (.loadRestart m) s = .next (s.withDev ((s.dev.fwWrite s.fuses m Reg.CFG_CTL (s.dev.get Reg.CFG_CTL_path + 16)).answer
      m x 0 [])) :=
  h.answers (fun fz d => d.fwLoadRestart fz m) rfl rfl (if_neg (Bool.eq_false_iff.1 hworld))

/-! ### RUN commands (R132, R139, R145, R315, R416, R419) -/

section
variable (h : s.starts m 0x0301 x)
include h

theorem exec_runConfig_badParameter (hbad : 3 < x.par 0 1 ∨ 3 < x.par 1 1) :
    exec (.runConfig m) s = .next (s.withDev (s.dev.answer m x 0x101 [])) :=
  h.answers (fun fz d => d.fwRunConfig fz m) rfl rfl (if_pos hbad)

variable (hmode : x.par 0 1 ≤ 3) (hpolicy : x.par 1 1 ≤ 3) (hworld : s.dev.noWorld s.fuses m Reg.PACE_CTL = false)
include hmode hpolicy hworld

theorem exec_runConfig_running (hrun : s.dev.running = true) :
    exec (.runConfig m) s = .next (s.withDev (s.dev.answer m x 0x103 [])) :=
  h.answers (fun fz d => d.fwRunConfig fz m) rfl rfl ((if_neg (by omega)).trans ((if_neg (Bool.eq_false_iff.1 hworld)).trans
    (if_pos hrun)))

theorem exec_runConfig_stopped (hrun : s.dev.running = false) :
    exec (.runConfig m) s = .next (s.withDev (((((s.dev.fwWrite s.fuses m Reg.PACE_CTL (x.par 0 1 + x.par 1 1 * 4)).fwWrite s.fuses m
      Reg.PACE_RATIO_INT (x.par 4 4)).fwWrite s.fuses m Reg.PACE_RATIO_FRAC (x.par 8 4)).fwWrite s.fuses m Reg.PACE_LOST_BOUND
        (x.par 12 4)).answer m x 0 [])) :=
  h.answers (fun fz d => d.fwRunConfig fz m) rfl rfl ((if_neg (by omega)).trans ((if_neg (Bool.eq_false_iff.1 hworld)).trans
    (if_neg (Bool.eq_false_iff.1 hrun))))

end

section
variable (hworld : s.dev.noWorld s.fuses m Reg.PACE_CTL = false)
include hworld

section
variable (h : s.starts m 0x0302 x) (hflag : x.par 8 1 ≤ 1)
include h hflag

theorem exec_runStart_refused (hno : s.dev.noStart = true) :
    (x.long = false → exec (.runStart m) s = .next (s.withDev (s.dev.answer m x 0x103 []))) ∧
    (x.long = true → exec (.runStart m) s = .next (s.withDev (s.dev.startJob s.fuses m (refuse x 0x103)))) :=
  h.run (fun fz d => d.fwRunStart fz m) rfl rfl ((if_neg (by omega)).trans ((if_neg (Bool.eq_false_iff.1 hworld)).trans
    (if_pos hno)))

variable (hno : s.dev.noStart = false)
include hno

theorem exec_runStart_alone (hleads : s.dev.leads = false) (hpre : e = (s.dev.fwPair s.fuses m Reg.PACE_START_TIME_LO (x.par 0 8)).fwWrite
    s.fuses m Reg.PACE_CMD (1 + 8 * x.par 8 1)) :
    (x.long = false → exec (.runStart m) s = .next (s.withDev (e.answer m x 0 []))) ∧
    (x.long = true → exec (.runStart m) s = .next (s.withDev (e.startJob s.fuses m { desc := x }))) := by
  refine h.run (fun fz d => d.fwRunStart fz m) rfl rfl ((if_neg (by omega)).trans ((if_neg (Bool.eq_false_iff.1 hworld)).trans
    ((if_neg (Bool.eq_false_iff.1 hno)).trans ((if_neg (Bool.eq_false_iff.1 hleads)).trans ?_))))
  rw [hpre]
  rfl

/-- A manager starts its cluster at the time that the host gives, or at one that it chooses. -/
theorem exec_runStart_leading (hleads : s.dev.leads = true) (hlong : x.long = true) : exec (.runStart m) s = .next (s.withDev
    ((s.dev.clusterStart s.fuses m (if x.par 8 1 = 1 then some (x.par 0 8) else none)).startJob s.fuses m { desc := x })) :=
  (h.run (fun fz d => d.fwRunStart fz m) rfl rfl ((if_neg (by omega)).trans ((if_neg (Bool.eq_false_iff.1 hworld)).trans
    ((if_neg (Bool.eq_false_iff.1 hno)).trans (if_pos hleads))))).2 hlong

end

section
variable (h : s.starts m 0x0303 x)
include h

theorem exec_runStop_alone (hleads : s.dev.leads = false) (hshort : x.long = false) :
    exec (.runStop m) s = .next (s.withDev ((s.dev.fwWrite s.fuses m Reg.PACE_CMD 2).answer m x 0 [])) :=
  (h.run (fun fz d => d.fwRunStop fz m) rfl rfl ((if_neg (Bool.eq_false_iff.1 hworld)).trans
    ((if_neg (by simp [hleads])).trans (if_neg (Bool.eq_false_iff.1 hleads))))).1 hshort

variable (hlong : x.long = true) (hleads : s.dev.leads = true)
include hlong hleads

theorem exec_runStop_held (hheld : s.dev.runHeld = true) :
    exec (.runStop m) s = .next (s.withDev (s.dev.startJob s.fuses m (refuse x 0x104))) :=
  (h.run (fun fz d => d.fwRunStop fz m) rfl rfl ((if_neg (Bool.eq_false_iff.1 hworld)).trans (if_pos ⟨hleads, hheld⟩))).2 hlong

variable (hheld : s.dev.runHeld = false)
include hheld

theorem exec_runStop_stopped (hrun : s.dev.running = false) :
    exec (.runStop m) s = .next (s.withDev (s.dev.startJob s.fuses m { desc := x })) :=
  (h.run (fun fz d => d.fwRunStop fz m) rfl rfl ((if_neg (Bool.eq_false_iff.1 hworld)).trans
    ((if_neg (by simp [hheld])).trans ((if_pos hleads).trans (if_neg (Bool.eq_false_iff.1 hrun)))))).2 hlong

/-- A manager stops its cluster at a cycle that it chooses. -/
theorem exec_runStop_leading (hrun : s.dev.running = true) : exec (.runStop m) s = .next (s.withDev
    ((s.dev.spend.clusterStopAt s.fuses m s.dev.commonCycle).startJob s.fuses m { desc := x, wait := .cluster })) :=
  h.broadcasts (fun fz d => d.fwRunStop fz m) rfl rfl hlong ((if_neg (Bool.eq_false_iff.1 hworld)).trans
    ((if_neg (by simp [hheld])).trans ((if_pos hleads).trans (if_pos hrun))))

end

section
variable (h : s.starts m 0x0304 x)
include h

omit hworld in
theorem exec_runStep_noCycle (hshort : x.long = false) (hcount : x.par 0 8 = 0) :
    exec (.runStep m) s = .next (s.withDev (s.dev.answer m x 0x101 [])) :=
  (h.run (fun fz d => d.fwRunStep fz m) rfl rfl (if_pos hcount)).1 hshort

variable (hcount : x.par 0 8 ≠ 0) (hno : s.dev.noStart = false)
include hcount hno

theorem exec_runStep_alone (hshort : x.long = false) (hleads : s.dev.leads = false) : exec (.runStep m) s = .next (s.withDev
    (((s.dev.fwPair s.fuses m Reg.PACE_STEP_COUNT_LO (x.par 0 8)).fwWrite s.fuses m Reg.PACE_CMD 3).answer m x 0 [])) :=
  (h.run (fun fz d => d.fwRunStep fz m) rfl rfl ((if_neg hcount).trans ((if_neg (Bool.eq_false_iff.1 hworld)).trans
    ((if_neg (Bool.eq_false_iff.1 hno)).trans ((if_neg (by simp [hleads])).trans (if_neg (Bool.eq_false_iff.1 hleads))))))).1 hshort

/-- A manager lets its cluster run to a stop-at as many cycles on, from a time that it chooses. -/
theorem exec_runStep_leading (hlong : x.long = true) (hleads : s.dev.leads = true) (hheld : s.dev.runHeld = false) :
    exec (.runStep m) s = .next (s.withDev (((s.dev.clusterStopAt s.fuses m (s.dev.committed + x.par 0 8)).clusterStart s.fuses m
      none).startJob s.fuses m { desc := x, wait := .cluster })) :=
  h.broadcasts (fun fz d => d.fwRunStep fz m) rfl rfl hlong ((if_neg hcount).trans ((if_neg (Bool.eq_false_iff.1 hworld)).trans
    ((if_neg (Bool.eq_false_iff.1 hno)).trans ((if_neg (by simp [hheld])).trans (if_pos hleads)))))

end

section
variable (h : s.starts m 0x0305 x)
include h

omit hworld in
theorem exec_runStopAt_badFlag (hshort : x.long = false) (hflag : 1 < x.par 8 1) :
    exec (.runStopAt m) s = .next (s.withDev (s.dev.answer m x 0x101 [])) :=
  (h.run (fun fz d => d.fwRunStopAt fz m) rfl rfl (if_pos hflag)).1 hshort

theorem exec_runStopAt_disarms (hflag : x.par 8 1 = 1) (hpre : e = (if s.dev.leads then s.dev.clusterAll .disarm else s.dev).fwWrite
    s.fuses m Reg.PACE_CMD 5) :
    (x.long = false → exec (.runStopAt m) s = .next (s.withDev (e.answer m x 0 []))) ∧
    (x.long = true → exec (.runStopAt m) s = .next (s.withDev (e.startJob s.fuses m { desc := x }))) := by
  refine h.run (fun fz d => d.fwRunStopAt fz m) rfl rfl ((if_neg (by omega)).trans ((if_neg (Bool.eq_false_iff.1 hworld)).trans
    ((if_pos hflag).trans ?_)))
  rw [hpre]
  rfl

variable (hflag : x.par 8 1 = 0)
include hflag

theorem exec_runStopAt_alone (hshort : x.long = false) (hleads : s.dev.leads = false) :
    exec (.runStopAt m) s = .next (s.withDev ((s.dev.fwStopAt s.fuses m (x.par 0 8)).answer m x 0 [])) :=
  (h.run (fun fz d => d.fwRunStopAt fz m) rfl rfl ((if_neg (by omega)).trans ((if_neg (Bool.eq_false_iff.1 hworld)).trans
    ((if_neg (by omega)).trans ((if_neg (by simp [hleads])).trans (if_neg (Bool.eq_false_iff.1 hleads))))))).1 hshort

theorem exec_runStopAt_leading (hlong : x.long = true) (hleads : s.dev.leads = true) (hheld : s.dev.runHeld = false) :
    exec (.runStopAt m) s = .next (s.withDev
      ((s.dev.clusterStopAt s.fuses m (x.par 0 8)).startJob s.fuses m { desc := x, wait := .cluster })) :=
  h.broadcasts (fun fz d => d.fwRunStopAt fz m) rfl rfl hlong ((if_neg (by omega)).trans ((if_neg (Bool.eq_false_iff.1 hworld)).trans
    ((if_neg (by omega)).trans ((if_neg (by simp [hheld])).trans (if_pos hleads)))))

end

theorem exec_runStatus (h : s.starts m 0x0306 x) : exec (.runStatus m) s = .next (s.withDev ((s.dev.fwReads s.fuses m
    [Reg.PACE_STATUS, Reg.PACE_COMMITTED_LO, Reg.PACE_COMMITTED_HI, Reg.PACE_DEBT_LO, Reg.PACE_DEBT_HI]).2.answer m x 0
    (s.dev.fwReads s.fuses m
      [Reg.PACE_STATUS, Reg.PACE_COMMITTED_LO, Reg.PACE_COMMITTED_HI, Reg.PACE_DEBT_LO, Reg.PACE_DEBT_HI]).1)) :=
  h.answers (fun fz d => d.fwRunStatus fz m) rfl rfl (if_neg (Bool.eq_false_iff.1 hworld))

end

theorem exec_runWait (h : s.starts m 0x0307 x) :
    exec (.runWait m) s = .next (s.withDev (s.dev.startJob s.fuses m { desc := x, wait := .pacerStopped })) :=
  h.job (fun fz d => d.fwRunWait fz m) rfl rfl rfl

/-! ### RUN_WAIT's limit -/

theorem exec_runWaitLimit (hlive : s.live = true) : exec (.runWaitLimit m) s = .next (s.withDev (s.dev.runWaitLimit m)) := by
  show s.onDev (fun _ d => d.runWaitLimit m) = _
  exact State.onDev_live hlive _

theorem Dev.runWaitLimit_noJob {m : Nat} (h : (d.mb m).job = none) : d.runWaitLimit m = d := by
  unfold Dev.runWaitLimit Dev.jobLimit
  rw [h]

section
variable {j : Job} {m : Nat} (hj : (d.mb m).job = some j) (hwait : j.wait = .pacerStopped)
include hj hwait

theorem Dev.runWaitLimit_none (h : leAt j.desc.p 0 4 = 0) : d.runWaitLimit m = d := by
  unfold Dev.runWaitLimit Dev.jobLimit
  rw [hj]
  dsimp only
  rw [hwait, if_pos h]

/-- A limit in ms ends the job once it has passed. -/
theorem Dev.runWaitLimit_some (h : leAt j.desc.p 0 4 ≠ 0) : d.runWaitLimit m =
    if j.since + leAt j.desc.p 0 4 * 16000000 ≤ d.now then
      (d.setMb m { d.mb m with job := none }).finish m j.desc 0x201 [0] 0 j.steps
    else d := by
  have hticks : leAt j.desc.p 0 4 * 1000 * ticksPerUs = leAt j.desc.p 0 4 * 16000000 := Nat.mul_assoc _ _ _
  unfold Dev.runWaitLimit Dev.jobLimit
  rw [hj]
  dsimp only
  rw [hwait]
  dsimp only
  rw [if_neg h]
  dsimp only
  rw [hticks]

end

end

end Sys2Proof.Machine
end

section
/-! SUPPORT. The obligation on the DEV, LOAD and RUN commands, from what each of them does. -/

namespace Sys2Proof.Machine

variable {s : State}

/-- A command that leaves the device as it is leaves the state as it is. -/
theorem exec_idle {i : Instr} {e : Dev} (h : exec i s = .next (s.withDev e)) (he : e = s.dev) : exec i s = .next s := by
  rw [h, he]
  rfl

/-- A start time that a manager chooses itself has not passed. -/
theorem Dev.now_le_commonStart (d : Dev) : d.now ≤ d.commonStart none := Nat.le_add_right _ _

theorem Dev.committed_le_commonCycle (d : Dev) : d.committed ≤ d.commonCycle := Nat.le_add_right _ _

/-- DEV_RESET kind 0 resets the device 1 ms after its answer, and not before (R470). -/
theorem exec_warmResetDelay_due {t : Nat} (hlive : s.live = true) (hwarm : s.dev.fw.warmAt = some t) (ht : t + 16000000 ≤ s.dev.now) :
    ∃ u, exec .warmResetDelay s = .next u ∧ u.live = true ∧ u.dev.fw.warmAt = none ∧ u.dev.mem = [] ∧
      u.dev.boot.mode = s.dev.boot.mode ∧ (∀ c : Fin 12, u.dev.heldDie c = true) ∧ (∀ b : Fin 4, u.dev.heldDie (baseSel b) = false) ∧
      (s.dev.sec.tamperPin = true → s.dev.boot.mode ≠ 2 → u.dev.errs = s.dev.errs ∧ u.dev.halted = false) := by
  have hporst := ((State.live_iff s).1 hlive).1
  have hreset := Dev.warmReset_rebooted (fz := s.fuses) hwarm hporst ht
  refine ⟨s.withDev (s.dev.warmReset s.fuses), exec_warmResetDelay hlive, ?_, hreset.warmAt, hreset.mem, hreset.bootMode,
    hreset.heldDie.1, hreset.heldDie.2, Dev.warmReset_keeps hwarm hporst ht⟩
  rw [State.live, State.withDev_dev, hreset.inReset]
  rfl

/-- Settles O52: each command's body gives its answer or its job. -/
theorem devLoadAndRunCommands : Obligations.DevLoadAndRunCommands := by
  intro s m x d fz who answers starts
  refine ⟨exec_devInfo, ?devReset, ?noWarmReset, ?warmReset, ?regRead, ?regWrite, ?loadOpen, ?loadData, ?loadClose, exec_loadStatus,
    exec_loadRestart, ?runConfig, ?runs, ?runStatus, exec_runWait, ?runWaitLimit⟩
  case devReset =>
    exact fun h => ⟨exec_devReset_warm h, fun _ => exec_devReset_field h, exec_devReset_noField h, fun _ => exec_devReset_die h,
      fun _ => exec_devReset_block h, exec_devReset_noBlock h, exec_devReset_noKind h⟩
  case noWarmReset =>
    exact fun hlive hwarm => exec_idle (exec_warmResetDelay hlive) (Dev.warmReset_none hwarm)
  case warmReset =>
    exact fun t hlive hwarm => ⟨fun ht => exec_idle (exec_warmResetDelay hlive) (Dev.warmReset_early hwarm ht),
      exec_warmResetDelay_due hlive hwarm⟩
  case regRead =>
    refine fun h => ⟨exec_devRegRead_misaligned h, exec_devRegRead_noWorld h, fun ha hgate => ?_, fun ha hgate => ?_,
      exec_devRegRead_noBlock h⟩
    · exact exec_devRegRead_reads h ha (Dev.noWorld_of_gate (by rw [hgate]; simp)) (Dev.regAccessRead_passed ha hgate)
    · exact exec_devRegRead_reads h ha (Dev.noWorld_of_gate (by rw [hgate]; simp)) (Dev.regAccessRead_held hgate)
  case regWrite =>
    refine fun h => ⟨exec_devRegWrite_misaligned h, exec_devRegWrite_noWorld h, fun ha hgate => ?_, fun ha hgate => ?_,
      exec_devRegWrite_noBlock h⟩
    · exact exec_devRegWrite_writes h ha (Dev.noWorld_of_gate (by rw [hgate]; simp)) (Dev.regAccessWrite_passed _ ha hgate)
    · exact exec_devRegWrite_writes h ha (Dev.noWorld_of_gate (by rw [hgate]; simp)) (Dev.regAccessWrite_held _ hgate)
  case loadOpen =>
    exact fun h => ⟨exec_loadOpen_badPath h, exec_loadOpen_notManager h, fun hpath hrole => ⟨exec_loadOpen_open h hpath hrole,
      fun hopen hheld hworld => ⟨exec_loadOpen_streaming h hpath hrole hopen hheld hworld,
        fun hstream => exec_loadOpen_arms h hpath hrole hopen hheld hworld hstream rfl⟩⟩⟩
  case loadData =>
    exact fun h => ⟨exec_loadData_noSession h, fun _ => exec_loadData_notByHost h, fun _ => exec_loadData_moves h⟩
  case loadClose =>
    exact fun h => ⟨exec_loadClose_noSession h, fun _ => exec_loadClose_ends h⟩
  case runConfig =>
    exact fun h => ⟨exec_runConfig_badParameter h, fun hmode hpolicy hworld => ⟨exec_runConfig_running h hmode hpolicy hworld,
      exec_runConfig_stopped h hmode hpolicy hworld⟩⟩
  case runs =>
    refine fun hworld => ⟨fun h hflag => ?runStart, fun h => ?runStop, fun h => ?runStep, fun h => ?runStopAt⟩
    case runStart =>
      refine ⟨fun hshort hno => (exec_runStart_refused hworld h hflag hno).1 hshort,
        fun hlong hno => (exec_runStart_refused hworld h hflag hno).2 hlong,
        fun hleads hno => exec_runStart_alone hworld h hflag hno hleads rfl,
        fun hleads hno hlong => ⟨_, fun hgiven => ?_, fun hnone => ?_, exec_runStart_leading hworld h hflag hno hleads hlong⟩⟩
      · rw [if_pos hgiven]
        rfl
      · rw [if_neg (by omega)]
        exact Dev.now_le_commonStart d
    case runStop =>
      exact ⟨fun hshort hleads => exec_runStop_alone hworld h hleads hshort, exec_runStop_held hworld h, exec_runStop_stopped hworld h,
        fun hlong hleads hheld hrun => ⟨_, Dev.committed_le_commonCycle d, exec_runStop_leading hworld h hlong hleads hheld hrun⟩⟩
    case runStep =>
      exact ⟨exec_runStep_noCycle h, fun hshort hleads hcount hno => exec_runStep_alone hworld h hcount hno hshort hleads,
        fun hlong hleads hcount hno hheld => ⟨_, exec_runStep_leading hworld h hcount hno hlong hleads hheld⟩⟩
    case runStopAt =>
      refine ⟨exec_runStopAt_badFlag h, fun hshort hleads hflag => ?_,
        fun hshort hleads hflag => exec_runStopAt_alone hworld h hflag hshort hleads, fun hlong hleads hflag => ?_,
        fun hlong hleads hflag => exec_runStopAt_leading hworld h hflag hlong hleads⟩
      · exact (exec_runStopAt_disarms hworld h hflag (by rw [hleads]; rfl)).1 hshort
      · exact (exec_runStopAt_disarms hworld h hflag (by rw [hleads]; rfl)).2 hlong
  case runStatus => exact fun h hworld => exec_runStatus hworld h
  case runWaitLimit =>
    refine fun hlive => ⟨fun hj => ?_, fun j hj hwait => ⟨fun hnone => ?_, fun hearly => ?_, fun hsome hpassed => ?_⟩⟩
    · exact exec_idle (exec_runWaitLimit hlive) (Dev.runWaitLimit_noJob hj)
    · exact exec_idle (exec_runWaitLimit hlive) (Dev.runWaitLimit_none hj hwait hnone)
    · refine exec_idle (exec_runWaitLimit hlive) ?_
      by_cases hnone : leAt j.desc.p 0 4 = 0
      · exact Dev.runWaitLimit_none hj hwait hnone
      · rw [Dev.runWaitLimit_some hj hwait hnone, if_neg (Nat.not_le.2 hearly)]
    · rw [exec_runWaitLimit hlive, Dev.runWaitLimit_some hj hwait hsome, if_pos hpassed]

end Sys2Proof.Machine
end

section
/-! SUPPORT. The MAC tiles and the registers of bins and tiles (chapter 5): the output O, the accumulator, one instruction of a
tile's program, and what writes of the registers do. -/

namespace Sys2Proof.Machine

/-! ### O (R168) -/

/-- The integer nearest to `x` over 2 to the power `n`, the even one of two equally near. -/
def roundEven (x : Int) : Nat → Int
  | 0 => x
  | n + 1 =>
    let q := x / 2 ^ (n + 1)
    let r := x % 2 ^ (n + 1)
    if 2 ^ n < r ∨ (r = 2 ^ n ∧ q % 2 = 1) then q + 1 else q

/-- O rounds ACC, its position taken as at most 24, then saturates or wraps. -/
theorem macO_eq (acc : BitVec 40) (p : Nat) (sat : Bool) :
    macO acc p sat =
      if sat then BitVec.ofInt 16 (min (max (roundEven acc.toInt (min p 24)) (-32768)) 32767)
      else BitVec.ofInt 16 (roundEven acc.toInt (min p 24)) := by
  unfold macO
  have hp : (if 24 < p then 24 else p) = min p 24 := by split <;> omega
  dsimp only
  rw [hp]
  cases min p 24 with
  | zero => rfl
  | succ n =>
    have hpow : (0 : Int) ≤ 2 ^ (n + 1) := Int.le_of_lt (Int.pow_pos (by decide))
    have hrem : acc.toInt - acc.toInt / 2 ^ (n + 1) * 2 ^ (n + 1) = acc.toInt % 2 ^ (n + 1) := by
      rw [Int.emod_def, Int.mul_comm]
    rw [if_neg (Nat.succ_ne_zero n), Int.fdiv_eq_ediv_of_nonneg _ hpow, hrem]
    rfl

/-- The rounded number lies within half a unit of the exact one, and is even where it lies half a unit from it. -/
theorem roundEven_nearest (x : Int) (n : Nat) :
    2 * (x - roundEven x n * 2 ^ n).natAbs ≤ 2 ^ n ∧
      (0 < n → 2 * (x - roundEven x n * 2 ^ n).natAbs = 2 ^ n → roundEven x n % 2 = 0) := by
  cases n with
  | zero =>
    have hexact : x - roundEven x 0 * 2 ^ 0 = 0 := by
      show x - x * 1 = 0
      omega
    rw [hexact]
    exact ⟨by decide, fun h => absurd h (Nat.lt_irrefl 0)⟩
  | succ n =>
    have hpos : (0 : Int) < 2 ^ (n + 1) := Int.pow_pos (by decide)
    have hr0 := Int.emod_nonneg x (Int.ne_of_gt hpos)
    have hr1 := Int.emod_lt_of_pos x hpos
    have hdown : x - x / 2 ^ (n + 1) * 2 ^ (n + 1) = x % 2 ^ (n + 1) := by
      rw [Int.emod_def, Int.mul_comm]
    have hup : x - (x / 2 ^ (n + 1) + 1) * 2 ^ (n + 1) = x % 2 ^ (n + 1) - 2 ^ (n + 1) := by
      rw [Int.add_mul, Int.one_mul, ← Int.sub_sub, hdown]
    have hcast : (2 : Int) ^ n = (2 ^ n : Nat) := (Int.natCast_pow 2 n).symm
    have hdouble : (2 : Int) ^ (n + 1) = 2 * (2 ^ n : Nat) := by
      rw [Int.pow_succ, hcast, Int.mul_comm]
    unfold roundEven
    dsimp only
    rw [Nat.pow_succ]
    split
    · rw [hup]
      omega
    · rw [hdown]
      omega

/-- A number is saturated to 16 bits. -/
theorem toInt_ofInt_saturated (q : Int) : (BitVec.ofInt 16 (min (max q (-32768)) 32767)).toInt =
    if q < -32768 then -32768 else if 32767 < q then 32767 else q := by
  rw [BitVec.toInt_ofInt, Int.bmod_eq_of_le (by omega) (by omega)]
  omega

/-- Settles O22: the number that O shows is `roundEven` of ACC. -/
theorem macOutputRoundsToNearestEven : Obligations.MacOutputRoundsToNearestEven := by
  intro acc p n
  obtain ⟨hnear, htie⟩ := roundEven_nearest acc.toInt n
  refine ⟨roundEven acc.toInt n, hnear, htie, ?_, ?_⟩
  · rw [macO_eq, if_neg Bool.false_ne_true]
  · rw [macO_eq, if_pos rfl]
    exact toInt_ofInt_saturated _

/-! ### The accumulator (R166, R167, R171) -/

/-- The 40 bits wrap. -/
theorem accSet_toInt (x : Tile) (exact : Int) : (accSet x exact).acc.toInt = exact.bmod (2 ^ 40) :=
  BitVec.toInt_ofInt exact

/-- The overflow flag stays set, and is set by a result that does not fit. -/
theorem accSet_ovf (x : Tile) (exact : Int) :
    (accSet x exact).ovf = true ↔ x.ovf = true ∨ exact < -(2 ^ 39) ∨ 2 ^ 39 - 1 < exact := by
  unfold accSet
  rw [Bool.or_eq_true, decide_eq_true_eq, Int.sub_one_lt_iff]

/-- An operation of the accumulator sets it to its exact result. -/
theorem accOp_eq_accSet {x : Tile} {p exact : Int} {op : Nat}
    (h : (op = 1 ∧ exact = p) ∨ (op = 2 ∧ exact = x.acc.toInt + p) ∨ (op = 3 ∧ exact = x.acc.toInt - p)) :
    accOp x op p = accSet x exact := by
  obtain ⟨rfl, rfl⟩ | ⟨rfl, rfl⟩ | ⟨rfl, rfl⟩ := h <;> rfl

/-- The bits of a word read as two's complement. -/
theorem signedOf_toNat (a : BitVec 16) : signedOf a.toNat 16 = a.toInt := by
  have ha := a.isLt
  unfold signedOf
  rw [Nat.mod_eq_of_lt ha, BitVec.toInt_eq_toNat_cond]
  split <;> split <;> omega

/-- Settles O23: an operation of the accumulator is one `accSet`, and the product that of the operands as they are read. -/
theorem accumulatorWrapsAndFlags : Obligations.AccumulatorWrapsAndFlags := by
  intro x p
  refine ⟨fun op exact h => ?_, rfl, fun a b sa sb => ?_⟩
  · rw [accOp_eq_accSet h]
    exact ⟨accSet_toInt x exact, accSet_ovf x exact, rfl⟩
  · unfold macProduct
    rw [signedOf_toNat, signedOf_toNat, Nat.mod_eq_of_lt a.isLt, Nat.mod_eq_of_lt b.isLt]

/-! ### Instructions (R173 to R176) -/

/-- The end of a program may let its field complete; a program that goes on may not. -/
theorem Dev.macEnd_busy {d : Dev} {f t : Nat} (n : Nat) (h : (d.tile f t).busy = true) : d.macEnd f t n = d := if_pos h

theorem Dev.macEnd_idle {d : Dev} {f t : Nat} (n : Nat) (h : (d.tile f t).busy = false) : d.macEnd f t n = d.tryComplete f n :=
  if_neg (Bool.eq_false_iff.1 h)

section
variable {d e : Dev} {f t w : Nat}

/-- LOOP by its three outcomes (R175): a loop within a loop, a loop that ends on itself, and one that is entered. -/
theorem Dev.tileLoop_nested (h : (d.tile f t).loopOn = true) : d.tileLoop f t w = d.tileFault f t 2 := if_pos h

theorem Dev.tileLoop_onItself (h : (d.tile f t).loopOn = false) (hend : fieldOf w 10 6 = (d.tile f t).pc) :
    d.tileLoop f t w = d.tileFault f t 1 := (if_neg (Bool.eq_false_iff.1 h)).trans (if_pos hend)

theorem Dev.tileLoop_enters (h : (d.tile f t).loopOn = false) (hend : fieldOf w 10 6 ≠ (d.tile f t).pc) :
    d.tileLoop f t w = d.setTile f t { d.tile f t with
      loopOn := true, loopStart := ((d.tile f t).pc + 1) % 64, loopEnd := fieldOf w 10 6, loopLeft := fieldOf w 0 10 + 1,
      pc := ((d.tile f t).pc + 1) % 64 } := (if_neg (Bool.eq_false_iff.1 h)).trans (if_neg hend)

/-- A tile that runs executes what it fetches, where that has the opcode asked for. -/
theorem Dev.macStep_fetched {op : Nat → Bool} (act : Nat → Dev → Dev) (hbusy : (d.tile f t).busy = true)
    (hfetch : d.tileFetch f t = (w, e)) (hop : op (w / 2 ^ 28) = true) : d.macStep f t op act = act w e := by
  unfold Dev.macStep
  rw [if_neg (not_not_intro hbusy), hfetch]
  exact if_pos hop

end

/-- A command that is one instruction of a tile which runs acts with the word fetched, on the device after the fetch. -/
theorem State.onDev_macStep {s : State} {e : Dev} {f t w : Nat} {op : Nat → Bool} (act : Nat → Dev → Dev) (hlive : s.live = true)
    (hbusy : (s.dev.tile f t).busy = true) (hfetch : s.dev.tileFetch f t = (w, e)) (hop : op (w / 2 ^ 28) = true) :
    s.onDev (fun _ d => d.macStep f t op act) = .next (s.withDev (act w e)) := by
  rw [State.onDev_live hlive, Dev.macStep_fetched act hbusy hfetch hop]

/-- Settles O24: each command is its act on the device after the fetch, and a LOOP or a HALT says besides whether its program
ends. -/
theorem macInstructions : Obligations.MacInstructions := by
  intro s f t n w e hlive hbusy hfetch x op put
  have step (o : Nat) (act : Nat → Dev → Dev) (h : op = o) :
      s.onDev (fun _ d => d.macStep f t (fun k => k == o) act) = .next (s.withDev (act w e)) :=
    State.onDev_macStep act hlive hbusy hfetch (beq_iff_eq.2 h)
  refine ⟨step 0 _, step 1 _, step 2 _, step 3 _, step 4 _, step 8 _, step 9 _, step 12 _, fun h hrun hoff hend => ?entersLoop,
    fun h hon => ?nested, fun h hoff hend => ?onItself, step 11 _, fun h => ?halt, fun h => ?illegal⟩
  case entersLoop =>
    refine (step 10 _ h).trans ?_
    rw [Dev.tileLoop_enters hoff hend, Dev.macEnd_busy _ (by rw [Dev.setTile_tile]; exact hrun)]
  case nested =>
    refine (step 10 _ h).trans ?_
    rw [Dev.tileLoop_nested hon]
  case onItself =>
    refine (step 10 _ h).trans ?_
    rw [Dev.tileLoop_onItself hoff hend]
  case halt =>
    refine (step 15 _ h).trans ?_
    unfold Dev.tileHalt
    rw [Dev.macEnd_idle _ (by rw [Dev.setTile_tile])]
  case illegal => exact State.onDev_macStep _ hlive hbusy hfetch (decide_eq_true h)

/-! ### Registers of bins and tiles (R165, R178, R182) -/

theorem dieOf_lt {f : Nat} (hf : f < 384) : dieOf f < 12 := by
  unfold dieOf
  omega

/-- A field is the one with its local index on its die. -/
theorem fieldAt_dieOf_idxOf (f : Nat) : fieldAt (dieOf f) (idxOf f) = f := by
  unfold fieldAt dieOf idxOf
  omega

/-- Die, block and offset of a tile's register. -/
theorem tileReg_place (f : Nat) {t k : Nat} (ht : t < 96) (hk : k < 4) :
    tileReg f t k / 0x1000000 = dieOf f ∧ tileReg f t k / 0x10000 % 0x100 = 4 ∧
      tileReg f t k % 0x10000 = 0x4000 + ((96 * idxOf f + t) * 16 + 4 * k) := by
  have hi := idxOf_lt f
  have haddr : tileReg f t k = dieOf f * 0x1000000 + 0x44000 + (96 * idxOf f + t) * 16 + 4 * k := rfl
  have hpage : tileReg f t k / 0x10000 = 256 * dieOf f + 4 := by omega
  refine ⟨?_, ?_, ?_⟩ <;> omega

theorem tileReg_aligned (f t k : Nat) : tileReg f t k % 4 = 0 := by
  unfold tileReg
  omega

section
variable {d : Dev} {fz : Fuses} {who : Who}

/-- BIN_FLD_CNT_CLR.clear clears the register of the error counts. -/
theorem Dev.regWrite_binCntClr (f : Nat) :
    d.regWrite fz who (Reg.BIN_FLD_CNT_CLR (dieOf f) (idxOf f)) 1 = d.wrWord (Reg.BIN_FLD_ERRCNT (dieOf f) (idxOf f)) 0 := by
  have hi := idxOf_lt f
  have haddr : Reg.BIN_FLD_CNT_CLR (dieOf f) (idxOf f) = 0x31004 + dieOf f * 0x1000000 + idxOf f * 0x40 := rfl
  rw [Dev.regWrite_bin (by omega)]
  unfold Dev.wrBin
  rw [if_pos (by omega), if_pos (by decide)]
  congr 1
  show 0x31004 + dieOf f * 0x1000000 + idxOf f * 0x40 - 4 = 0x31000 + dieOf f * 0x1000000 + idxOf f * 0x40
  omega

/-- A write of a tile's register, by its place among the four: MAC_TILE_CFG, the two generators, MAC_TILE_STATUS. -/
theorem Dev.regWrite_tileReg {f t k : Nat} (v : Word) (ht : t < 96) (hk : k < 4) :
    d.regWrite fz who (tileReg f t k) v =
      if k = 0 then d.macCfgWrite who f t (tileReg f t k) v
      else if k = 3 then d.macStatusWrite f t v
      else d.macAgWrite who f t (tileReg f t k) v := by
  obtain ⟨hdie, hblock, hoff⟩ := tileReg_place f ht hk
  rw [Dev.regWrite_mac hblock, hdie, hoff]
  unfold Dev.wrMac
  rw [if_neg (by omega)]
  have htile : (0x4000 + ((96 * idxOf f + t) * 16 + 4 * k) - 0x4000) / 16 = 96 * idxOf f + t := by omega
  have hidx : (96 * idxOf f + t) / 96 = idxOf f := by omega
  have hnum : (96 * idxOf f + t) % 96 = t := by omega
  dsimp only
  rw [htile, hidx, hnum, fieldAt_dieOf_idxOf]
  by_cases hcfg : k = 0
  · rw [if_pos (by omega), if_pos hcfg]
  rw [if_neg (by omega), if_neg hcfg]
  by_cases hstatus : k = 3
  · rw [if_pos (by omega), if_pos hstatus]
  · rw [if_neg (by omega), if_pos (by omega), if_neg hstatus]

end

/-- The row of Table 5.8 for MAC_TILE_CFG: mode, then the fields of a tile's datapath, all of them RW. -/
def tileCfgRow : RegSpec :=
  ⟨1, 0x4000, [(0x10, 3072)], 0, [⟨0, 2, .rw⟩, ⟨2, 1, .rw⟩, ⟨3, 1, .rw⟩, ⟨4, 5, .rw⟩, ⟨9, 1, .rw⟩, ⟨10, 6, .rw⟩, ⟨16, 2, .rw⟩,
    ⟨18, 1, .rw⟩]⟩

/-- The first row of a table is the one found where the offset is its own. -/
theorem findRow_head {scope off : Nat} {r : RegSpec} {rs : List RegSpec}
    (h : r.scope / scope % 2 = 1 ∧ r.base ≤ off ∧ dimsMatch (off - r.base) r.dims) : findRow scope off (r :: rs) = some r :=
  if_pos h

/-- Every tile of every field has a MAC_TILE_CFG. -/
theorem findReg_tileCfg {f t : Nat} (hf : f < 384) (ht : t < 96) : findReg (tileReg f t 0) = some tileCfgRow := by
  have hd := dieOf_lt hf
  have hi := idxOf_lt f
  obtain ⟨hdie, hblock, hoff⟩ := tileReg_place f ht (k := 0) (by decide)
  have hscope : scopeOf (dieOf f) = 1 := if_pos (by omega)
  have hrows : blockRegs 4 = tileCfgRow :: regsMAC.tail := rfl
  have hdims : dimsMatch ((96 * idxOf f + t) * 16) tileCfgRow.dims = true := by
    have hn : (96 * idxOf f + t) * 16 / 16 < 3072 := by omega
    have hz : (96 * idxOf f + t) * 16 % 16 = 0 := by omega
    show (decide ((96 * idxOf f + t) * 16 / 16 < 3072) && ((96 * idxOf f + t) * 16 % 16 == 0)) = true
    rw [decide_eq_true hn, hz]
    rfl
  unfold findReg
  rw [Nat.mul_zero, Nat.add_zero] at hoff
  rw [if_pos (by omega), hdie, hblock, hoff, hscope, if_neg Nat.one_ne_zero, hrows]
  have hbase : tileCfgRow.base = 0x4000 := rfl
  exact findRow_head ⟨rfl, Nat.le_add_right 0x4000 _, by rwa [hbase, Nat.add_sub_cancel_left]⟩

/-- A plain write of RW fields that stand above some bits leaves those bits alone. -/
theorem bits_foldl_write_below {i k : Nat} (v : Word) (l : List FieldSpec)
    (h : ∀ x ∈ l, x.acc = .rw ∧ x.lsb + x.w ≤ 32 ∧ i + k ≤ x.lsb) (old : Word) :
    bits (l.foldl (fun w x => x.write w v) old) i k = bits old i k := by
  induction l generalizing old with
  | nil => rfl
  | cons x r ih =>
    obtain ⟨hacc, hin, hbelow⟩ := h x List.mem_cons_self
    rw [List.foldl_cons, ih (fun y hy => h y (List.mem_cons_of_mem x hy))]
    unfold FieldSpec.write
    rw [hacc]
    exact bits_setBits_below _ _ hin hbelow

/-- A write of MAC_TILE_CFG puts the mode. -/
theorem bits_tileCfgRow_write (old v : Word) : bits (tileCfgRow.write old v) 0 2 = bits v 0 2 := by
  show bits (tileCfgRow.fields.tail.foldl (fun w x => x.write w v) (setBits old 0 2 (bits v 0 2))) 0 2 = bits v 0 2
  rw [bits_foldl_write_below v _ (by decide), bits_setBits_self _ _ (by decide), Nat.mod_eq_of_lt (bits_lt v 0 2)]

section
variable {d : Dev} {who : Who} {f t a : Nat} {v : Word}

/-- After a plain write of its register a tile has the mode written. -/
theorem Dev.plainWrite_tileMode (hf : f < 384) (ht : t < 96) :
    (d.plainWrite (tileReg f t 0) v).tileMode f t = bits v 0 2 := by
  have haddr : Reg.MAC_TILE_CFG (dieOf f) (tileNum f t) = tileReg f t 0 := by
    show 0x44000 + dieOf f * 0x1000000 + tileNum f t * 0x10 = dieOf f * 0x1000000 + 0x44000 + tileNum f t * 16 + 4 * 0
    omega
  rw [Dev.plainWrite_of_findReg v (findReg_tileCfg hf ht)]
  unfold Dev.tileMode Dev.get
  dsimp only
  rw [haddr, Dev.rdWord_wrWord_self, bits_tileCfgRow_write]

theorem Dev.setTile_tileMode (x : Tile) (g u : Nat) : (d.setTile f t x).tileMode g u = d.tileMode g u := rfl

theorem Dev.leased_iff : d.leased f t = true ↔ d.tileMode f t = 3 := beq_iff_eq

theorem Dev.not_leased_of_unused (h : d.tileMode f t = 0) : d.leased f t = false := by
  unfold Dev.leased
  rw [h]
  rfl

/-- A mode that leases nothing is written to a tile that is not leased while the pacer is stopped (R182). -/
theorem Dev.macCfgWrite_unleased (hlease : d.leased f t = false) (hmode : bits v 0 2 ≠ 3) :
    d.macCfgWrite who f t a v = if d.running = true then d else d.plainWrite a v := by
  unfold Dev.macCfgWrite
  dsimp only
  rw [if_neg (Bool.eq_false_iff.1 hlease), if_neg hmode]

/-- A core leases a tile in mode UNUSED of a field that its world may use (R178). -/
theorem Dev.macCfgWrite_leases (hunused : d.tileMode f t = 0) (hmode : bits v 0 2 = 3) (hcore : who.isCore = true)
    (hworld : d.fieldSecure f = true → d.whoSecure who = true) :
    d.macCfgWrite who f t a v = (d.plainWrite a v).setTile f t { d.tile f t with busy := false, faultOut := false } := by
  unfold Dev.macCfgWrite
  dsimp only
  rw [if_neg (Bool.eq_false_iff.1 (Dev.not_leased_of_unused hunused)), if_pos hmode, if_pos ⟨hcore, hunused, hworld⟩]

/-- The generators of a tile that is not leased are written while the pacer is stopped, those of a leased tile by a core while
the tile is halted (R182). -/
theorem Dev.macAgWrite_unleased (hlease : d.leased f t = false) :
    d.macAgWrite who f t a v = if d.running = true then d else d.plainWrite a v := by
  unfold Dev.macAgWrite
  rw [if_neg (Bool.eq_false_iff.1 hlease)]

theorem Dev.macAgWrite_leased (hlease : d.leased f t = true) (hcore : who.isCore = true) (hbusy : (d.tile f t).busy = false) :
    d.macAgWrite who f t a v = d.plainWrite a v := by
  unfold Dev.macAgWrite
  rw [if_pos hlease, if_pos ⟨hcore, Bool.eq_false_iff.1 hbusy⟩]

/-- A write of MAC_TILE_STATUS.run alone starts a leased tile that is halted, and does nothing else (R178). -/
theorem Dev.macStatusWrite_run : d.macStatusWrite f t (withBit 0 14 true) =
    if d.leased f t = true ∧ (d.tile f t).busy = false then d.tileStart f t else d := by
  have hovf : (withBit 0 14 true).getLsbD 9 = false := by decide
  have hrun : (withBit 0 14 true).getLsbD 14 = true := getLsbD_withBit_self 0 (by decide)
  unfold Dev.macStatusWrite
  simp only [hovf, hrun, Bool.false_eq_true, if_false, true_and, Bool.not_eq_true]

end

section
variable {s : State} {who : Who} (f : Fin 384) (t : Fin 96) (v : Word)

/-- A write of BIN_FLD_CNT_CLR.clear that passes the checks of an access. -/
theorem exec_binFldCntClr (h : s.reaches who (Reg.BIN_FLD_CNT_CLR (dieOf f.val) (idxOf f.val))) :
    exec (.binFldCntClr who f) s =
      .next (s.withDev (s.dev.wrWord (Reg.BIN_FLD_ERRCNT (dieOf f.val) (idxOf f.val)) 0)) := by
  have haligned : Reg.BIN_FLD_CNT_CLR (dieOf f.val) (idxOf f.val) % 4 = 0 := by
    show (0x31004 + dieOf f.val * 0x1000000 + idxOf f.val * 0x40) % 4 = 0
    omega
  refine (State.onDev_regPut (fun _ => 1) h haligned).trans ?_
  rw [Dev.regWrite_binCntClr]

/-- A write of a tile's MAC_TILE_CFG that passes the checks of an access. -/
theorem exec_macTileCfgWrite (h : s.reaches who (tileReg f.val t.val 0)) : exec (.macTileCfgWrite who f t v) s =
    .next (s.withDev (s.dev.macCfgWrite who f.val t.val (tileReg f.val t.val 0) v)) := by
  refine (State.onDev_regPut (fun _ => v) h (tileReg_aligned _ _ _)).trans ?_
  rw [Dev.regWrite_tileReg _ t.isLt (by decide), if_pos rfl]

/-- A write of one of a tile's two generators that passes the checks of an access. -/
theorem exec_macTileAgWrite (g : Fin 2) (h : s.reaches who (tileReg f.val t.val (1 + g.val))) :
    exec (.macTileAgWrite who f t g v) s =
      .next (s.withDev (s.dev.macAgWrite who f.val t.val (tileReg f.val t.val (1 + g.val)) v)) := by
  refine (State.onDev_regPut (fun _ => v) h (tileReg_aligned _ _ _)).trans ?_
  rw [Dev.regWrite_tileReg _ t.isLt (by omega), if_neg (by omega), if_neg (by omega)]

/-- A write of MAC_TILE_STATUS.run that passes the checks of an access. -/
theorem exec_macTileRun (h : s.reaches who (tileReg f.val t.val 3)) : exec (.macTileRun who f t) s =
    .next (s.withDev (if s.dev.leased f.val t.val = true ∧ (s.dev.tile f.val t.val).busy = false then
      s.dev.tileStart f.val t.val else s.dev)) := by
  refine (State.onDev_regPut (fun _ => withBit 0 14 true) h (tileReg_aligned _ _ _)).trans ?_
  rw [Dev.regWrite_tileReg _ t.isLt (by decide), if_neg (by decide), if_pos rfl, Dev.macStatusWrite_run]

end

/-- Settles O25: each command is the write of its register, which the pacer, the lease and the tile's program let through. -/
theorem binAndTileRegisters : Obligations.BinAndTileRegisters := by
  intro s who f t v
  refine ⟨exec_binFldCntClr f, fun h => ?cfg, fun g h => ?ag, fun h => ?run⟩
  case cfg =>
    rw [exec_macTileCfgWrite f t v h]
    refine ⟨fun hlease hmode hrun => ?_, fun hlease hmode hrun => ?_, fun hunused hmode hcore hworld => ⟨_, rfl, ?_⟩⟩
    · rw [Dev.macCfgWrite_unleased hlease hmode, if_neg (Bool.eq_false_iff.1 hrun)]
    · rw [Dev.macCfgWrite_unleased hlease hmode, if_pos hrun]
      rfl
    · rw [State.withDev_dev, Dev.macCfgWrite_leases hunused hmode hcore hworld, Dev.setTile_tile, Dev.leased_iff, Dev.setTile_tileMode]
      exact ⟨rfl, (Dev.plainWrite_tileMode f.isLt t.isLt).trans hmode⟩
  case ag =>
    rw [exec_macTileAgWrite f t v g h]
    refine ⟨fun hlease hrun => ?_, fun hlease hrun => ?_, fun hlease hcore hbusy => ?_⟩
    · rw [Dev.macAgWrite_unleased hlease, if_neg (Bool.eq_false_iff.1 hrun)]
    · rw [Dev.macAgWrite_unleased hlease, if_pos hrun]
      rfl
    · rw [Dev.macAgWrite_leased hlease hcore hbusy]
  case run =>
    rw [exec_macTileRun f t h]
    refine ⟨fun hlease hbusy => ?_, fun hno => ?_⟩
    · rw [if_pos ⟨hlease, hbusy⟩]
      rfl
    · have hstays : ¬ (s.dev.leased f.val t.val = true ∧ (s.dev.tile f.val t.val).busy = false) := by
        rintro ⟨hlease, hbusy⟩
        obtain hnot | hbusy' := hno
        · exact Bool.eq_false_iff.1 hnot hlease
        · exact Bool.eq_false_iff.1 hbusy hbusy'
      rw [if_neg hstays]
      rfl

end Sys2Proof.Machine
end
